-- ==== Sys2Proof/Word.lean ====
section
/-! DEFINITION. Word types of the Weluin-512 (R2, R59) and their plainest arithmetic. -/

namespace Sys2Proof

/-- A 64-bit register value (R59). -/
abbrev Word := BitVec 64

/-- One byte of memory or local store. -/
abbrev Byte := BitVec 8

/-- A 32-bit instruction word (R61). -/
abbrev IWord := BitVec 32

/-- A table by number, kept as key and value pairs in rising key order; an absent key stands for the table's default. -/
abbrev NMap (α : Type) := List (Nat × α)

/-- A byte memory: addresses strictly rising, no listed byte equal to what an unlisted address reads as. -/
abbrev Memory := List (Nat × Byte)

end Sys2Proof
end

