-- ==== Sys2Proof/Syntax.lean ====
section
/-! DEFINITION. The rows of the table of operations and events: 197 instruction words (R61 to R70), whose fields are the
fields of their encoding, and 114 events, each naming the unit it happens at. -/

namespace Sys2Proof

/-- What a command of the control node is addressed to (R390): the control chiplet that takes it, and a name that resolves in the
partition the command carries. -/
structure NodeTarget (w : Nat) where
  proc : Nat
  part : BitVec 4
  name : BitVec w
  deriving DecidableEq, Repr, Inhabited

/-- What a command for a site is addressed to (R54, R390): the control chiplet that takes it, the partition that the command carries, and the name of
the site there; or the index of a site that bears no name. -/
structure SiteTarget where
  proc : Nat
  part : BitVec 4
  name : BitVec 12
  at_ : Option Nat
  deriving DecidableEq, Repr, Inhabited

/-- A reset of a site (R54): its address, and what the chiplets' tests find when they run again. -/
structure ResetCommand where
  target : SiteTarget
  dramGood : Bool
  computeGood : Bool
  deriving DecidableEq, Repr, Inhabited

/-- What a link was carrying when it timed out (R44): the mesh, and the packet cut off in mid-transfer, if any. -/
structure LinkCut where
  yx : Bool
  packet : Option Nat
  deriving DecidableEq, Repr, Inhabited

/-- The router that a control chiplet writes (R34). -/
structure RouterTarget where
  proc : Nat
  site : Nat
  deriving DecidableEq, Repr, Inhabited

/-- One constructor per row of the table of operations and events. A field of an instruction is the bit field of its word. -/
inductive Instr where
  | lui (imm : BitVec 20) (rd : BitVec 5)
  | auipc (imm : BitVec 20) (rd : BitVec 5)
  | jal (imm : BitVec 20) (rd : BitVec 5)
  | jalr (imm : BitVec 12) (rs1 : BitVec 5) (rd : BitVec 5)
  | beq (immHi : BitVec 7) (rs2 : BitVec 5) (rs1 : BitVec 5) (immLo : BitVec 5)
  | bne (immHi : BitVec 7) (rs2 : BitVec 5) (rs1 : BitVec 5) (immLo : BitVec 5)
  | blt (immHi : BitVec 7) (rs2 : BitVec 5) (rs1 : BitVec 5) (immLo : BitVec 5)
  | bge (immHi : BitVec 7) (rs2 : BitVec 5) (rs1 : BitVec 5) (immLo : BitVec 5)
  | bltu (immHi : BitVec 7) (rs2 : BitVec 5) (rs1 : BitVec 5) (immLo : BitVec 5)
  | bgeu (immHi : BitVec 7) (rs2 : BitVec 5) (rs1 : BitVec 5) (immLo : BitVec 5)
  | lb (imm : BitVec 12) (rs1 : BitVec 5) (rd : BitVec 5)
  | lh (imm : BitVec 12) (rs1 : BitVec 5) (rd : BitVec 5)
  | lw (imm : BitVec 12) (rs1 : BitVec 5) (rd : BitVec 5)
  | ld (imm : BitVec 12) (rs1 : BitVec 5) (rd : BitVec 5)
  | lbu (imm : BitVec 12) (rs1 : BitVec 5) (rd : BitVec 5)
  | lhu (imm : BitVec 12) (rs1 : BitVec 5) (rd : BitVec 5)
  | lwu (imm : BitVec 12) (rs1 : BitVec 5) (rd : BitVec 5)
  | sb (immHi : BitVec 7) (rs2 : BitVec 5) (rs1 : BitVec 5) (immLo : BitVec 5)
  | sh (immHi : BitVec 7) (rs2 : BitVec 5) (rs1 : BitVec 5) (immLo : BitVec 5)
  | sw (immHi : BitVec 7) (rs2 : BitVec 5) (rs1 : BitVec 5) (immLo : BitVec 5)
  | sd (immHi : BitVec 7) (rs2 : BitVec 5) (rs1 : BitVec 5) (immLo : BitVec 5)
  | addi (imm : BitVec 12) (rs1 : BitVec 5) (rd : BitVec 5)
  | slti (imm : BitVec 12) (rs1 : BitVec 5) (rd : BitVec 5)
  | sltiu (imm : BitVec 12) (rs1 : BitVec 5) (rd : BitVec 5)
  | xori (imm : BitVec 12) (rs1 : BitVec 5) (rd : BitVec 5)
  | ori (imm : BitVec 12) (rs1 : BitVec 5) (rd : BitVec 5)
  | andi (imm : BitVec 12) (rs1 : BitVec 5) (rd : BitVec 5)
  | slli (shamt : BitVec 6) (rs1 : BitVec 5) (rd : BitVec 5)
  | srli (shamt : BitVec 6) (rs1 : BitVec 5) (rd : BitVec 5)
  | srai (shamt : BitVec 6) (rs1 : BitVec 5) (rd : BitVec 5)
  | addiw (imm : BitVec 12) (rs1 : BitVec 5) (rd : BitVec 5)
  | slliw (shamt : BitVec 5) (rs1 : BitVec 5) (rd : BitVec 5)
  | srliw (shamt : BitVec 5) (rs1 : BitVec 5) (rd : BitVec 5)
  | sraiw (shamt : BitVec 5) (rs1 : BitVec 5) (rd : BitVec 5)
  | add (rs2 : BitVec 5) (rs1 : BitVec 5) (rd : BitVec 5)
  | sub (rs2 : BitVec 5) (rs1 : BitVec 5) (rd : BitVec 5)
  | sll (rs2 : BitVec 5) (rs1 : BitVec 5) (rd : BitVec 5)
  | slt (rs2 : BitVec 5) (rs1 : BitVec 5) (rd : BitVec 5)
  | sltu (rs2 : BitVec 5) (rs1 : BitVec 5) (rd : BitVec 5)
  | xor (rs2 : BitVec 5) (rs1 : BitVec 5) (rd : BitVec 5)
  | srl (rs2 : BitVec 5) (rs1 : BitVec 5) (rd : BitVec 5)
  | sra (rs2 : BitVec 5) (rs1 : BitVec 5) (rd : BitVec 5)
  | or (rs2 : BitVec 5) (rs1 : BitVec 5) (rd : BitVec 5)
  | and (rs2 : BitVec 5) (rs1 : BitVec 5) (rd : BitVec 5)
  | addw (rs2 : BitVec 5) (rs1 : BitVec 5) (rd : BitVec 5)
  | subw (rs2 : BitVec 5) (rs1 : BitVec 5) (rd : BitVec 5)
  | sllw (rs2 : BitVec 5) (rs1 : BitVec 5) (rd : BitVec 5)
  | srlw (rs2 : BitVec 5) (rs1 : BitVec 5) (rd : BitVec 5)
  | sraw (rs2 : BitVec 5) (rs1 : BitVec 5) (rd : BitVec 5)
  | mul (rs2 : BitVec 5) (rs1 : BitVec 5) (rd : BitVec 5)
  | mulh (rs2 : BitVec 5) (rs1 : BitVec 5) (rd : BitVec 5)
  | mulhsu (rs2 : BitVec 5) (rs1 : BitVec 5) (rd : BitVec 5)
  | mulhu (rs2 : BitVec 5) (rs1 : BitVec 5) (rd : BitVec 5)
  | mulw (rs2 : BitVec 5) (rs1 : BitVec 5) (rd : BitVec 5)
  | div (rs2 : BitVec 5) (rs1 : BitVec 5) (rd : BitVec 5)
  | divu (rs2 : BitVec 5) (rs1 : BitVec 5) (rd : BitVec 5)
  | rem (rs2 : BitVec 5) (rs1 : BitVec 5) (rd : BitVec 5)
  | remu (rs2 : BitVec 5) (rs1 : BitVec 5) (rd : BitVec 5)
  | divw (rs2 : BitVec 5) (rs1 : BitVec 5) (rd : BitVec 5)
  | divuw (rs2 : BitVec 5) (rs1 : BitVec 5) (rd : BitVec 5)
  | remw (rs2 : BitVec 5) (rs1 : BitVec 5) (rd : BitVec 5)
  | remuw (rs2 : BitVec 5) (rs1 : BitVec 5) (rd : BitVec 5)
  | fence (fm : BitVec 4) (pred : BitVec 4) (succ : BitVec 4)
  | ecall
  | ebreak
  | csrrw (csr : BitVec 12) (rs1 : BitVec 5) (rd : BitVec 5)
  | csrrs (csr : BitVec 12) (rs1 : BitVec 5) (rd : BitVec 5)
  | csrrc (csr : BitVec 12) (rs1 : BitVec 5) (rd : BitVec 5)
  | csrrwi (csr : BitVec 12) (uimm : BitVec 5) (rd : BitVec 5)
  | csrrsi (csr : BitVec 12) (uimm : BitVec 5) (rd : BitVec 5)
  | csrrci (csr : BitVec 12) (uimm : BitVec 5) (rd : BitVec 5)
  | lr (aq : BitVec 1) (rl : BitVec 1) (rs1 : BitVec 5) (dbl : BitVec 1) (rd : BitVec 5)
  | sc (aq : BitVec 1) (rl : BitVec 1) (rs2 : BitVec 5) (rs1 : BitVec 5) (dbl : BitVec 1) (rd : BitVec 5)
  | amoswap (aq : BitVec 1) (rl : BitVec 1) (rs2 : BitVec 5) (rs1 : BitVec 5) (dbl : BitVec 1) (rd : BitVec 5)
  | amoadd (aq : BitVec 1) (rl : BitVec 1) (rs2 : BitVec 5) (rs1 : BitVec 5) (dbl : BitVec 1) (rd : BitVec 5)
  | amoxor (aq : BitVec 1) (rl : BitVec 1) (rs2 : BitVec 5) (rs1 : BitVec 5) (dbl : BitVec 1) (rd : BitVec 5)
  | amoand (aq : BitVec 1) (rl : BitVec 1) (rs2 : BitVec 5) (rs1 : BitVec 5) (dbl : BitVec 1) (rd : BitVec 5)
  | amoor (aq : BitVec 1) (rl : BitVec 1) (rs2 : BitVec 5) (rs1 : BitVec 5) (dbl : BitVec 1) (rd : BitVec 5)
  | amomin (aq : BitVec 1) (rl : BitVec 1) (rs2 : BitVec 5) (rs1 : BitVec 5) (dbl : BitVec 1) (rd : BitVec 5)
  | amomax (aq : BitVec 1) (rl : BitVec 1) (rs2 : BitVec 5) (rs1 : BitVec 5) (dbl : BitVec 1) (rd : BitVec 5)
  | amominu (aq : BitVec 1) (rl : BitVec 1) (rs2 : BitVec 5) (rs1 : BitVec 5) (dbl : BitVec 1) (rd : BitVec 5)
  | amomaxu (aq : BitVec 1) (rl : BitVec 1) (rs2 : BitVec 5) (rs1 : BitVec 5) (dbl : BitVec 1) (rd : BitVec 5)
  | fstat (file : BitVec 2) (reg : BitVec 5) (rd : BitVec 5)
  | mvf (file : BitVec 2) (reg : BitVec 5) (rd : BitVec 5)
  | fwait (file : BitVec 2) (reg : BitVec 5)
  | waitany (rs1 : BitVec 5) (rd : BitVec 5)
  | fdrop (file : BitVec 2) (reg : BitVec 5)
  | fpoison (file : BitVec 2) (rs1 : BitVec 5) (reg : BitVec 5)
  | lacq (scope : BitVec 4) (rs1 : BitVec 5) (rd : BitVec 5)
  | lacqw (scope : BitVec 4) (rs1 : BitVec 5) (rd : BitVec 5)
  | srel (scope : BitVec 4) (rs2 : BitVec 5) (rs1 : BitVec 5)
  | srelw (scope : BitVec 4) (rs2 : BitVec 5) (rs1 : BitVec 5)
  | fences (scope : BitVec 4) (succ : BitVec 4) (pred : BitVec 4)
  | owne (rs1 : BitVec 5)
  | ownt (rs1 : BitVec 5)
  | ownq (rs1 : BitVec 5) (rd : BitVec 5)
  | binit (barHi : BitVec 1) (rs1 : BitVec 5) (bar : BitVec 5)
  | barv (barHi : BitVec 1) (bar : BitVec 5)
  | bexp (barHi : BitVec 1) (rs1 : BitVec 5) (bar : BitVec 5)
  | bwait (barHi : BitVec 1) (rd : BitVec 5) (phase : BitVec 1) (bar : BitVec 5)
  | bquery (barHi : BitVec 1) (rd : BitVec 5) (bar : BitVec 5)
  | qpush (rs2 : BitVec 5) (q : BitVec 3)
  | qpop (q : BitVec 3) (rd : BitVec 5)
  | qlen (q : BitVec 3) (rd : BitVec 5)
  | block (rs1 : BitVec 5)
  | bunlock (rs1 : BitVec 5)
  | mldAddr (rs1 : BitVec 5) (md : BitVec 3)
  | mldStream (as : BitVec 2) (md : BitVec 3)
  | mstAddr (rm : BitVec 3) (sat : BitVec 1) (fmt : BitVec 4) (rs1 : BitVec 5) (cs : BitVec 2)
  | mstStream (rm : BitVec 3) (sat : BitVec 1) (fmt : BitVec 4) (as : BitVec 2) (cs : BitVec 2)
  | mzero (cd : BitVec 2)
  | mmovv (rm : BitVec 3) (cs : BitVec 2) (md : BitVec 3)
  | mdot (mb : BitVec 3) (ma : BitVec 3) (cd : BitVec 2)
  | mdots (mb : BitVec 3) (ma : BitVec 3) (cd : BitVec 2)
  | asset (field : BitVec 2) (rs1 : BitVec 5) (as : BitVec 2)
  | rpt (lenm1 : BitVec 3) (rs1 : BitVec 5)
  | cpw (ch : BitVec 2) (idx : BitVec 5) (rs1 : BitVec 5)
  | cpr (ch : BitVec 2) (idx : BitVec 5) (rd : BitVec 5)
  | cpgo (ch : BitVec 2) (rd : BitVec 5)
  | cpcancel (ch : BitVec 2)
  | mcfree (rs1 : BitVec 5)
  | tdisc (scope : BitVec 4) (rs1 : BitVec 5) (rd : BitVec 5)
  | lpin (rs2 : BitVec 5) (rs1 : BitVec 5)
  | lunpin (rs2 : BitVec 5) (rs1 : BitVec 5)
  | rprobe (rs1 : BitVec 5) (rd : BitVec 5)
  | rloadt (rs1 : BitVec 5) (rd : BitVec 5)
  | rsplit (rs2 : BitVec 5) (rs1 : BitVec 5) (rd : BitVec 5)
  | rmerge (rs1 : BitVec 5) (rd : BitVec 5)
  | rsetres (rs2 : BitVec 5) (rs1 : BitVec 5)
  | rclrres (rs2 : BitVec 5) (rs1 : BitVec 5)
  | rinv (scope : BitVec 4) (rs2 : BitVec 5) (rs1 : BitVec 5) (rd : BitVec 5)
  | rglean (rs2 : BitVec 5) (rs1 : BitVec 5) (rd : BitVec 5)
  | vadd (rs2 : BitVec 5) (rs1 : BitVec 5) (ty : BitVec 3) (rd : BitVec 5)
  | vsub (rs2 : BitVec 5) (rs1 : BitVec 5) (ty : BitVec 3) (rd : BitVec 5)
  | vmul (rs2 : BitVec 5) (rs1 : BitVec 5) (ty : BitVec 3) (rd : BitVec 5)
  | vmin (rs2 : BitVec 5) (rs1 : BitVec 5) (ty : BitVec 3) (rd : BitVec 5)
  | vmax (rs2 : BitVec 5) (rs1 : BitVec 5) (ty : BitVec 3) (rd : BitVec 5)
  | vabs (rs1 : BitVec 5) (ty : BitVec 3) (rd : BitVec 5)
  | vneg (rs1 : BitVec 5) (ty : BitVec 3) (rd : BitVec 5)
  | vcmpeq (rs2 : BitVec 5) (rs1 : BitVec 5) (ty : BitVec 3) (rd : BitVec 5)
  | vcmplt (rs2 : BitVec 5) (rs1 : BitVec 5) (ty : BitVec 3) (rd : BitVec 5)
  | vcmple (rs2 : BitVec 5) (rs1 : BitVec 5) (ty : BitVec 3) (rd : BitVec 5)
  | vand (rs2 : BitVec 5) (rs1 : BitVec 5) (rd : BitVec 5)
  | vor (rs2 : BitVec 5) (rs1 : BitVec 5) (rd : BitVec 5)
  | vxor (rs2 : BitVec 5) (rs1 : BitVec 5) (rd : BitVec 5)
  | vnot (rs1 : BitVec 5) (rd : BitVec 5)
  | vsll (rs2 : BitVec 5) (rs1 : BitVec 5) (ty : BitVec 3) (rd : BitVec 5)
  | vsrl (rs2 : BitVec 5) (rs1 : BitVec 5) (ty : BitVec 3) (rd : BitVec 5)
  | vsra (rs2 : BitVec 5) (rs1 : BitVec 5) (ty : BitVec 3) (rd : BitVec 5)
  | vexp2 (rs1 : BitVec 5) (ty : BitVec 3) (rd : BitVec 5)
  | vlog2 (rs1 : BitVec 5) (ty : BitVec 3) (rd : BitVec 5)
  | vrcp (rs1 : BitVec 5) (ty : BitVec 3) (rd : BitVec 5)
  | vrsq (rs1 : BitVec 5) (ty : BitVec 3) (rd : BitVec 5)
  | vredsum (rs1 : BitVec 5) (ty : BitVec 3) (rd : BitVec 5)
  | vredmax (rs1 : BitVec 5) (ty : BitVec 3) (rd : BitVec 5)
  | vredmin (rs1 : BitVec 5) (ty : BitVec 3) (rd : BitVec 5)
  | vld (rs1 : BitVec 5) (rd : BitVec 5)
  | vst (rs1 : BitVec 5) (rd : BitVec 5)
  | vlds (rs2 : BitVec 5) (rs1 : BitVec 5) (rd : BitVec 5)
  | vsts (rs2 : BitVec 5) (rs1 : BitVec 5) (rd : BitVec 5)
  | vgath (rs2 : BitVec 5) (rs1 : BitVec 5) (ty : BitVec 3) (rd : BitVec 5)
  | vscat (rs2 : BitVec 5) (rs1 : BitVec 5) (ty : BitVec 3) (rd : BitVec 5)
  | vperm (rs2 : BitVec 5) (rs1 : BitVec 5) (ty : BitVec 3) (rd : BitVec 5)
  | vbcast (rs2 : BitVec 5) (rs1 : BitVec 5) (ty : BitVec 3) (rd : BitVec 5)
  | vslup (rs2 : BitVec 5) (rs1 : BitVec 5) (ty : BitVec 3) (rd : BitVec 5)
  | vsldn (rs2 : BitVec 5) (rs1 : BitVec 5) (ty : BitVec 3) (rd : BitVec 5)
  | vsplat (rs1 : BitVec 5) (ty : BitVec 3) (rd : BitVec 5)
  | vins (rs2 : BitVec 5) (rs1 : BitVec 5) (ty : BitVec 3) (rd : BitVec 5)
  | vext (rs2 : BitVec 5) (rs1 : BitVec 5) (ty : BitVec 3) (rd : BitVec 5)
  | vfma (rs3 : BitVec 5) (rs2 : BitVec 5) (rs1 : BitVec 5) (ty : BitVec 3) (rd : BitVec 5)
  | vsel (rs3 : BitVec 5) (rs2 : BitVec 5) (rs1 : BitVec 5) (ty : BitVec 3) (rd : BitVec 5)
  | vcvt (src : BitVec 4) (rm : BitVec 3) (sat : BitVec 1) (dst : BitVec 4) (vs1 : BitVec 5) (vd : BitVec 5)
  | vqmx (rm : BitVec 3) (fmt : BitVec 4) (vs1 : BitVec 5) (vd : BitVec 5)
  | vdqmx (fmt : BitVec 4) (vs1 : BitVec 5) (vd : BitVec 5)
  | spawn (rs1 : BitVec 5) (rd : BitVec 5)
  | done
  | yield
  | send (rs2 : BitVec 5) (rs1 : BitVec 5) (rd : BitVec 5)
  | sendt (rs2 : BitVec 5) (rs1 : BitVec 5) (rd : BitVec 5)
  | recvf (rd : BitVec 5)
  | timerf (rs1 : BitVec 5) (rd : BitVec 5)
  | specb
  | specc
  | speca
  | bget (nHi : BitVec 1) (nLo : BitVec 5) (rd : BitVec 5)
  | bpeek (nHi : BitVec 1) (nLo : BitVec 5) (rd : BitVec 5)
  | bskip (nHi : BitVec 1) (nLo : BitVec 5)
  | bsopen (order : BitVec 1) (rs2 : BitVec 5) (rs1 : BitVec 5)
  | balign
  | blzc (rs2 : BitVec 5) (rs1 : BitVec 5) (rd : BitVec 5)
  | tresume (rs1 : BitVec 5)
  | tkill (rs1 : BitVec 5)
  | swapctx (rs2 : BitVec 5) (rs1 : BitVec 5) (rd : BitVec 5)
  | loadctx (rs2 : BitVec 5) (rs1 : BitVec 5) (rd : BitVec 5)
  | hdone
  | rtrd (rs1 : BitVec 5) (rd : BitVec 5)
  | rtwr (rs2 : BitVec 5) (rs1 : BitVec 5)
  | parkLimit (core slot : Nat)
  | claimDelivery (core claim : Nat)
  | divideComplete (core op : Nat)
  | vectorStageEnter (core : Nat)
  | vectorLongComplete (core : Nat)
  | lockBreak (core bank : Nat)
  | mdotComplete (core : Nat)
  | transferPerform (core : Nat)
  | blzcGroup (core : Nat)
  | timerExpiry (core claim : Nat)
  | saveCapture (core : Nat)
  | restoreApply (core : Nat)
  | dispatch (core : Nat)
  | unknownName (fid : Nat)
  | whereReflood (site : Nat) (name : BitVec 12)
  | noResponse (fid : Nat)
  | noteRetry (fid : Nat)
  | handlerEntry (core : Nat)
  | illegalWord (word : BitVec 32)
  | stealBackoff (core : Nat)
  | idleSteal (core : Nat)
  | imageWriteDone (core : Nat)
  | jobEnd (site : Nat)
  | sendLanding (fid : Nat)
  | sendtLanding (fid : Nat)
  | icacheFill (fid : Nat)
  | storeBufferSend (core : Nat)
  | accessHoldRelease (core access : Nat)
  | homeLoad (fid : Nat)
  | homeStore (fid : Nat)
  | homeAmo (fid : Nat)
  | storeFail (fid : Nat)
  | stealRequest (fid : Nat)
  | stealAnswer (fid : Nat)
  | notification (fid : Nat)
  | tresumeApply (fid : Nat)
  | tkillApply (fid : Nat)
  | walk (fid : Nat)
  | walkFill (fid : Nat)
  | rinvAck (fid : Nat)
  | gleanUnit (move : Nat)
  | gleanFinish (move : Nat)
  | copy (core ch seg : Nat)
  | redadd (core ch seg : Nat)
  | qf8 (core ch seg : Nat)
  | mxq (core ch seg : Nat)
  | mcast (core ch seg : Nat)
  | copyEnd (core ch : Nat)
  | channelResume (fid : Nat)
  | channelAbort (fid : Nat)
  | inboundSegment (fid : Nat)
  | mcastReceive (fid : Nat)
  | remoteBarrierEvent (fid : Nat)
  | bufferFree (fid : Nat)
  | rmaSegmentSend (chip rmod : Nat)
  | data (chip rmod : Nat) (ce red : Bool) (seq floor : BitVec 32) (pa : BitVec 43) (bytes : List (BitVec 8))
  | ack (chip rmod : Nat) (seq cumE : BitVec 32) (ece : Bool)
  | nackBudget (chip rmod : Nat) (seq cumE : BitVec 32) (ece : Bool)
  | nackRefused (chip rmod : Nat) (seq cumE : BitVec 32) (ece : Bool)
  | rmaTimer (chip rmod : Nat) (seq : BitVec 32)
  | routerForward (fid : Nat)
  | whereProbe (site : Nat) (name : BitVec 12)
  | hereReply (site : Nat) (name : BitVec 12)
  | blocked (fid : Nat)
  | moved (fid : Nat)
  | errorResponse (fid : Nat)
  | greeting (site dir : Nat) (xyOk yxOk : Bool)
  | linkTimeout (site dir : Nat) (cut : LinkCut)
  | budgetPeriod (edge : Bool) (unit : Nat)
  | bringUp
  | clockLock (site : Nat) (dramGood computeGood : Bool)
  | siteGreeted (site : Nat)
  | greetTimeout (site : Nat)
  | selfTestFail (site : Nat)
  | configRecord (site proc : Nat) (name : BitVec 12) (part : BitVec 4) (rect : BitVec 20) (regionW regionH : BitVec 5) (remap : List (BitVec 5)) (pins : List (BitVec 12 × BitVec 32))
  | configCommit (site : Nat)
  | sitePacket (fid : Nat)
  | baseDieError (site : Nat)
  | clockSwitch (site : Nat)
  | relockDone (site : Nat)
  | windowWrite (fid : Nat)
  | regwrite (proc : Nat) (unit : BitVec 16) (part : BitVec 4) (off : BitVec 32) (value : BitVec 64)
  | regread (proc : Nat) (unit : BitVec 16) (part : BitVec 4) (off : BitVec 32)
  | queueDoorbell (proc queue : Nat) (wr : BitVec 32)
  | queueRestart (proc queue : Nat)
  | peerEntryWrite (chip rmod : Nat) (value : BitVec 64)
  | routeEntryWrite (fid : Nat)
  | physSelectWrite (fid : Nat)
  | load (proc : Nat) (part : BitVec 4) (pa : BitVec 43) (dirs : List (BitVec 64))
  | unload (proc : Nat) (part : BitVec 4) (names : List (BitVec 12))
  | siteFence (site : SiteTarget)
  | siteReset (site : ResetCommand)
  | siteRetire (site : SiteTarget)
  | slotResume (core : NodeTarget 16) (slot : BitVec 4)
  | processorResume (proc : Nat)
  | attest (proc : Nat) (nonce : BitVec 384)
  | nop (proc queue : Nat)
  | launch (proc queue : Nat)
  | launchStart (proc queue : Nat)
  | launchComplete (proc work : Nat)
  | queueCopy (proc queue : Nat)
  | queueCopyComplete (proc work : Nat)
  | waitge (proc queue : Nat)
  | semaphoreReport (proc : Nat)
  | waitgeTimeout (proc queue : Nat)
  | signal (proc queue : Nat)
  | interrupt (proc queue : Nat)
  | queueFence (proc queue : Nat)
  | jump (proc queue : Nat)
  | mark (proc queue : Nat)
  | directoryUpdate (fid : Nat)
  | cacheControlRequest (fid : Nat)
  | homeBitClear (router : RouterTarget) (retired : Nat)
  | powerLoss
  deriving DecidableEq, Repr, Inhabited

end Sys2Proof
end

