-- ==== Sys2Proof/WellFormed.lean ====
section
/-! DEFINITION. Which field values make an instruction word legal (R62, R64 to R71, R226, R252). Checks that depend on the
issuing slot (role, privilege, declared levels) are made when the instruction issues. -/

namespace Sys2Proof

/-- CSR numbers that R122 and R368 define. -/
def csrDefined (n : BitVec 12) : Bool :=
  let k := n.toNat
  (0x800 ≤ k && k ≤ 0x812) || k == 0xC00 || (0xC02 ≤ k && k ≤ 0xC0A) || (0xCC0 ≤ k && k ≤ 0xCC2) ||
  (0xCC8 ≤ k && k ≤ 0xCCF) || (0x5C0 ≤ k && k ≤ 0x5C8) || (0x9C0 ≤ k && k ≤ 0x9DA) || k == 0xDC0 || k == 0xDC1

/-- Numbers with bits 11:10 equal to 0b11 cannot be written (R64). -/
def csrReadOnly (n : BitVec 12) : Bool := n.extractLsb' 10 2 == 0b11#2

/-- Numbers with bits 9:8 other than 0b00 belong to the K-role slot (R64). -/
def csrKOnly (n : BitVec 12) : Bool := n.extractLsb' 8 2 != 0b00#2

/-- Scope codes 5 to 7 are illegal (R66). -/
def scopeLegal (c : BitVec 4) : Bool := !(5 ≤ c && c < 8)

/-- Barriers 48 to 63 are illegal (R62). -/
def barLegal (hi : BitVec 1) (lo : BitVec 5) : Bool := (hi ++ lo).toNat < 48

/-- A register number narrowed by its file: 32 x, 32 v, 8 m, 4 c (R62, R65). -/
def regLegal (file : BitVec 2) (r : BitVec 5) : Bool :=
  match file.toNat with
  | 2 => r < 8
  | 3 => r < 4
  | _ => true

/-- Rounding codes 5 to 7 are illegal (R69). -/
def rmLegal (rm : BitVec 3) : Bool := rm < 5

/-- Element formats of the MX conversions (R69). -/
def mxFmt (f : BitVec 4) : Bool := 2 ≤ f && f < 7

/-- Legal field values of MST (R252). -/
def mstLegal (fmt : BitVec 4) (rm : BitVec 3) (sat : BitVec 1) : Bool :=
  match fmt.toNat with
  | 0 => rm == 0 && sat == 0
  | 1 => rm == 0
  | 2 | 3 | 4 | 5 | 6 => rmLegal rm
  | 8 => rm == 0
  | 9 => rm == 0 && sat == 0
  | _ => false

/-- The pairs of VCVT with their rounding codes and saturation bits (R226). -/
def vcvtLegal (dst src : BitVec 4) (rm : BitVec 3) (sat : BitVec 1) : Bool :=
  match dst.toNat, src.toNat with
  | 0, 1 | 0, 2 | 0, 3 | 0, 4 | 0, 5 | 0, 6 | 0, 7 | 0, 8 => rm == 0 && sat == 0
  | 0, 9 | 0, 10 => rmLegal rm && sat == 0
  | 1, 0 => rm == 0
  | 2, 0 | 2, 1 | 2, 3 => rmLegal rm
  | 3, 0 | 3, 1 | 3, 2 => rmLegal rm
  | 4, 0 | 4, 1 | 5, 0 | 5, 1 | 6, 0 | 6, 1 => rmLegal rm
  | 8, 0 | 9, 0 | 10, 0 => rmLegal rm
  | 8, 9 | 9, 10 => rm == 0
  | 9, 8 | 10, 9 => rm == 0 && sat == 0
  | _, _ => false

/-- Bit counts outside 1 to 57 are illegal (R337). -/
def bitCountLegal (hi : BitVec 1) (lo : BitVec 5) : Bool := 1 ≤ (hi ++ lo).toNat && (hi ++ lo).toNat ≤ 57

/-- The word of the instruction is legal in every respect that its own bits decide (R71). An event has no word. -/
def Instr.wf : Instr → Bool
  | .lui _ _ => true
  | .auipc _ _ => true
  | .jal _ _ => true
  | .jalr _ _ _ => true
  | .beq _ _ _ _ => true
  | .bne _ _ _ _ => true
  | .blt _ _ _ _ => true
  | .bge _ _ _ _ => true
  | .bltu _ _ _ _ => true
  | .bgeu _ _ _ _ => true
  | .lb _ _ _ => true
  | .lh _ _ _ => true
  | .lw _ _ _ => true
  | .ld _ _ _ => true
  | .lbu _ _ _ => true
  | .lhu _ _ _ => true
  | .lwu _ _ _ => true
  | .sb _ _ _ _ => true
  | .sh _ _ _ _ => true
  | .sw _ _ _ _ => true
  | .sd _ _ _ _ => true
  | .addi _ _ _ => true
  | .slti _ _ _ => true
  | .sltiu _ _ _ => true
  | .xori _ _ _ => true
  | .ori _ _ _ => true
  | .andi _ _ _ => true
  | .slli _ _ _ => true
  | .srli _ _ _ => true
  | .srai _ _ _ => true
  | .addiw _ _ _ => true
  | .slliw _ _ _ => true
  | .srliw _ _ _ => true
  | .sraiw _ _ _ => true
  | .add _ _ _ => true
  | .sub _ _ _ => true
  | .sll _ _ _ => true
  | .slt _ _ _ => true
  | .sltu _ _ _ => true
  | .xor _ _ _ => true
  | .srl _ _ _ => true
  | .sra _ _ _ => true
  | .or _ _ _ => true
  | .and _ _ _ => true
  | .addw _ _ _ => true
  | .subw _ _ _ => true
  | .sllw _ _ _ => true
  | .srlw _ _ _ => true
  | .sraw _ _ _ => true
  | .mul _ _ _ => true
  | .mulh _ _ _ => true
  | .mulhsu _ _ _ => true
  | .mulhu _ _ _ => true
  | .mulw _ _ _ => true
  | .div _ _ _ => true
  | .divu _ _ _ => true
  | .rem _ _ _ => true
  | .remu _ _ _ => true
  | .divw _ _ _ => true
  | .divuw _ _ _ => true
  | .remw _ _ _ => true
  | .remuw _ _ _ => true
  | .fence fm _ _ => fm == 0b0000#4 || fm == 0b1000#4
  | .ecall => true
  | .ebreak => true
  | .csrrw csr _ _ => csrDefined csr && !csrReadOnly csr
  | .csrrs csr rs1 _ => csrDefined csr && (!csrReadOnly csr || rs1 == 0)
  | .csrrc csr rs1 _ => csrDefined csr && (!csrReadOnly csr || rs1 == 0)
  | .csrrwi csr _ _ => csrDefined csr && !csrReadOnly csr
  | .csrrsi csr uimm _ => csrDefined csr && (!csrReadOnly csr || uimm == 0)
  | .csrrci csr uimm _ => csrDefined csr && (!csrReadOnly csr || uimm == 0)
  | .lr _ _ _ _ _ => true
  | .sc _ _ _ _ _ _ => true
  | .amoswap _ _ _ _ _ _ => true
  | .amoadd _ _ _ _ _ _ => true
  | .amoxor _ _ _ _ _ _ => true
  | .amoand _ _ _ _ _ _ => true
  | .amoor _ _ _ _ _ _ => true
  | .amomin _ _ _ _ _ _ => true
  | .amomax _ _ _ _ _ _ => true
  | .amominu _ _ _ _ _ _ => true
  | .amomaxu _ _ _ _ _ _ => true
  | .fstat file reg _ => regLegal file reg
  | .mvf file reg rd => regLegal file reg && regLegal file rd
  | .fwait file reg => regLegal file reg
  | .waitany _ _ => true
  | .fdrop file reg => regLegal file reg
  | .fpoison file _ reg => regLegal file reg
  | .lacq scope _ _ => scopeLegal scope
  | .lacqw scope _ _ => scopeLegal scope
  | .srel scope _ _ => scopeLegal scope
  | .srelw scope _ _ => scopeLegal scope
  | .fences scope _ _ => scopeLegal scope
  | .owne _ => true
  | .ownt _ => true
  | .ownq _ _ => true
  | .binit barHi _ bar => barLegal barHi bar
  | .barv barHi bar => barLegal barHi bar
  | .bexp barHi _ bar => barLegal barHi bar
  | .bwait barHi _ _ bar => barLegal barHi bar
  | .bquery barHi _ bar => barLegal barHi bar
  | .qpush _ _ => true
  | .qpop _ _ => true
  | .qlen _ _ => true
  | .block _ => true
  | .bunlock _ => true
  | .mldAddr _ _ => true
  | .mldStream _ _ => true
  | .mstAddr rm sat fmt _ _ => mstLegal fmt rm sat
  | .mstStream rm sat fmt _ _ => mstLegal fmt rm sat
  | .mzero _ => true
  | .mmovv rm _ _ => rmLegal rm
  | .mdot _ _ _ => true
  | .mdots _ _ _ => true
  | .asset _ _ _ => true
  | .rpt _ _ => true
  | .cpw _ idx _ => idx < 30
  | .cpr _ idx _ => idx < 30
  | .cpgo _ _ => true
  | .cpcancel _ => true
  | .mcfree _ => true
  | .tdisc scope _ _ => scopeLegal scope
  | .lpin _ _ => true
  | .lunpin _ _ => true
  | .rprobe _ _ => true
  | .rloadt _ _ => true
  | .rsplit _ _ _ => true
  | .rmerge _ _ => true
  | .rsetres _ _ => true
  | .rclrres _ _ => true
  | .rinv scope _ _ _ => scopeLegal scope
  | .rglean _ _ _ => true
  | .vadd _ _ ty _ => ty < 5
  | .vsub _ _ ty _ => ty < 5
  | .vmul _ _ ty _ => ty < 5
  | .vmin _ _ ty _ => ty < 5
  | .vmax _ _ ty _ => ty < 5
  | .vabs _ ty _ => ty < 5
  | .vneg _ ty _ => ty < 5
  | .vcmpeq _ _ ty _ => ty < 5
  | .vcmplt _ _ ty _ => ty < 5
  | .vcmple _ _ ty _ => ty < 5
  | .vand _ _ _ => true
  | .vor _ _ _ => true
  | .vxor _ _ _ => true
  | .vnot _ _ => true
  | .vsll _ _ ty _ => 2 ≤ ty && ty < 5
  | .vsrl _ _ ty _ => 2 ≤ ty && ty < 5
  | .vsra _ _ ty _ => 2 ≤ ty && ty < 5
  | .vexp2 _ ty _ => ty < 2
  | .vlog2 _ ty _ => ty < 2
  | .vrcp _ ty _ => ty < 2
  | .vrsq _ ty _ => ty < 2
  | .vredsum _ ty _ => ty < 5
  | .vredmax _ ty _ => ty < 5
  | .vredmin _ ty _ => ty < 5
  | .vld _ _ => true
  | .vst _ _ => true
  | .vlds _ _ _ => true
  | .vsts _ _ _ => true
  | .vgath _ _ ty _ => ty < 5
  | .vscat _ _ ty _ => ty < 5
  | .vperm _ _ ty _ => ty < 5
  | .vbcast _ _ ty _ => ty < 5
  | .vslup _ _ ty _ => ty < 5
  | .vsldn _ _ ty _ => ty < 5
  | .vsplat _ ty _ => ty < 5
  | .vins _ _ ty _ => ty < 5
  | .vext _ _ ty _ => ty < 5
  | .vfma _ _ _ ty _ => ty < 5
  | .vsel _ _ _ ty _ => ty < 6
  | .vcvt src rm sat dst _ _ => vcvtLegal dst src rm sat
  | .vqmx rm fmt _ _ => mxFmt fmt && rmLegal rm
  | .vdqmx fmt _ _ => mxFmt fmt
  | .spawn _ _ => true
  | .done => true
  | .yield => true
  | .send _ _ _ => true
  | .sendt _ _ _ => true
  | .recvf _ => true
  | .timerf _ _ => true
  | .specb => true
  | .specc => true
  | .speca => true
  | .bget nHi nLo _ => bitCountLegal nHi nLo
  | .bpeek nHi nLo _ => bitCountLegal nHi nLo
  | .bskip nHi nLo => bitCountLegal nHi nLo
  | .bsopen _ _ _ => true
  | .balign => true
  | .blzc _ _ _ => true
  | .tresume _ => true
  | .tkill _ => true
  | .swapctx _ _ _ => true
  | .loadctx _ _ _ => true
  | .hdone => true
  | .rtrd _ _ => true
  | .rtwr _ _ => true
  | .parkLimit _ _ => true
  | .icacheFill _ => true
  | .claimDelivery _ _ => true
  | .divideComplete _ _ => true
  | .vectorStageEnter _ => true
  | .vectorLongComplete _ => true
  | .storeBufferSend _ => true
  | .accessHoldRelease _ _ => true
  | .homeLoad _ => true
  | .homeStore _ => true
  | .homeAmo _ => true
  | .storeFail _ => true
  | .transferPerform _ => true
  | .mdotComplete _ => true
  | .blzcGroup _ => true
  | .lockBreak _ _ => true
  | .walk _ => true
  | .walkFill _ => true
  | .rinvAck _ => true
  | .gleanUnit _ => true
  | .gleanFinish _ => true
  | .copy _ _ _ => true
  | .redadd _ _ _ => true
  | .qf8 _ _ _ => true
  | .mxq _ _ _ => true
  | .mcast _ _ _ => true
  | .copyEnd _ _ => true
  | .channelResume _ => true
  | .channelAbort _ => true
  | .inboundSegment _ => true
  | .mcastReceive _ => true
  | .remoteBarrierEvent _ => true
  | .bufferFree _ => true
  | .rmaSegmentSend _ _ => true
  | .data _ _ _ _ _ _ _ _ => true
  | .ack _ _ _ _ _ => true
  | .nackBudget _ _ _ _ _ => true
  | .nackRefused _ _ _ _ _ => true
  | .rmaTimer _ _ _ => true
  | .routerForward _ => true
  | .whereProbe _ _ => true
  | .whereReflood _ _ => true
  | .hereReply _ _ => true
  | .unknownName _ => true
  | .blocked _ => true
  | .moved _ => true
  | .errorResponse _ => true
  | .greeting _ _ _ _ => true
  | .linkTimeout _ _ _ => true
  | .noResponse _ => true
  | .budgetPeriod _ _ => true
  | .bringUp => true
  | .clockLock _ _ _ => true
  | .siteGreeted _ => true
  | .greetTimeout _ => true
  | .selfTestFail _ => true
  | .configRecord _ _ _ _ _ _ _ _ _ => true
  | .configCommit _ => true
  | .sitePacket _ => true
  | .jobEnd _ => true
  | .baseDieError _ => true
  | .clockSwitch _ => true
  | .relockDone _ => true
  | .dispatch _ => true
  | .sendLanding _ => true
  | .sendtLanding _ => true
  | .idleSteal _ => true
  | .stealRequest _ => true
  | .stealAnswer _ => true
  | .stealBackoff _ => true
  | .timerExpiry _ _ => true
  | .notification _ => true
  | .noteRetry _ => true
  | .handlerEntry _ => true
  | .tresumeApply _ => true
  | .tkillApply _ => true
  | .windowWrite _ => true
  | .saveCapture _ => true
  | .imageWriteDone _ => true
  | .restoreApply _ => true
  | .regwrite _ _ _ _ _ => true
  | .regread _ _ _ _ => true
  | .queueDoorbell _ _ _ => true
  | .queueRestart _ _ => true
  | .peerEntryWrite _ _ _ => true
  | .routeEntryWrite _ => true
  | .physSelectWrite _ => true
  | .load _ _ _ _ => true
  | .unload _ _ _ => true
  | .siteFence _ => true
  | .siteReset _ => true
  | .siteRetire _ => true
  | .slotResume _ _ => true
  | .processorResume _ => true
  | .attest _ _ => true
  | .nop _ _ => true
  | .launch _ _ => true
  | .launchStart _ _ => true
  | .launchComplete _ _ => true
  | .queueCopy _ _ => true
  | .queueCopyComplete _ _ => true
  | .waitge _ _ => true
  | .semaphoreReport _ => true
  | .waitgeTimeout _ _ => true
  | .signal _ _ => true
  | .interrupt _ _ => true
  | .queueFence _ _ => true
  | .jump _ _ => true
  | .mark _ _ => true
  | .illegalWord _ => true
  | .directoryUpdate _ => true
  | .cacheControlRequest _ => true
  | .homeBitClear _ _ => true
  | .powerLoss => true

end Sys2Proof
end

