-- ==== Sys2Proof/Decode.lean ====
section
/-! DEFINITION. Decoding of instruction words (R61 to R73) by major opcode, funct3 and the fixed fields of each row, then
the legality of the fields; and the encoder, each word a concatenation of its fields from bit 31 down. -/

namespace Sys2Proof

/-- Why a word is no instruction (R71). -/
inductive DecodeError where
  /-- bits 1:0 are not 0b11 -/
  | notFourByte
  /-- the major opcode is unallocated -/
  | opcode
  /-- no row of the major opcode has these fixed fields -/
  | row
  /-- the row's fields hold an illegal value -/
  | field
  /-- fewer than four bytes -/
  | short
  deriving DecidableEq, Repr

/-- Bits hi down to lo of a word. -/
abbrev bitsAt (w : IWord) (lo len : Nat) : BitVec len := w.extractLsb' lo len

/-- Rows of opcode 0x03, funct3 0. -/
def decodeLoad0 (w : IWord) : Option Instr :=
  some (.lb (bitsAt w 20 12) (bitsAt w 15 5) (bitsAt w 7 5))

/-- Rows of opcode 0x03, funct3 1. -/
def decodeLoad1 (w : IWord) : Option Instr :=
  some (.lh (bitsAt w 20 12) (bitsAt w 15 5) (bitsAt w 7 5))

/-- Rows of opcode 0x03, funct3 2. -/
def decodeLoad2 (w : IWord) : Option Instr :=
  some (.lw (bitsAt w 20 12) (bitsAt w 15 5) (bitsAt w 7 5))

/-- Rows of opcode 0x03, funct3 3. -/
def decodeLoad3 (w : IWord) : Option Instr :=
  some (.ld (bitsAt w 20 12) (bitsAt w 15 5) (bitsAt w 7 5))

/-- Rows of opcode 0x03, funct3 4. -/
def decodeLoad4 (w : IWord) : Option Instr :=
  some (.lbu (bitsAt w 20 12) (bitsAt w 15 5) (bitsAt w 7 5))

/-- Rows of opcode 0x03, funct3 5. -/
def decodeLoad5 (w : IWord) : Option Instr :=
  some (.lhu (bitsAt w 20 12) (bitsAt w 15 5) (bitsAt w 7 5))

/-- Rows of opcode 0x03, funct3 6. -/
def decodeLoad6 (w : IWord) : Option Instr :=
  some (.lwu (bitsAt w 20 12) (bitsAt w 15 5) (bitsAt w 7 5))

/-- Rows of opcode 0x03. -/
def decodeLoad (w : IWord) : Option Instr :=
  match (bitsAt w 12 3).toNat with
  | 0 => decodeLoad0 w
  | 1 => decodeLoad1 w
  | 2 => decodeLoad2 w
  | 3 => decodeLoad3 w
  | 4 => decodeLoad4 w
  | 5 => decodeLoad5 w
  | 6 => decodeLoad6 w
  | _ => none

/-- Rows of opcode 0x0B, funct3 0. -/
def decodeCustom00 (w : IWord) : Option Instr :=
  if bitsAt w 25 7 == 0x0#7 && bitsAt w 22 3 == 0x0#3 then some (.fstat (bitsAt w 20 2) (bitsAt w 15 5) (bitsAt w 7 5))
  else if bitsAt w 25 7 == 0x1#7 && bitsAt w 22 3 == 0x0#3 then some (.mvf (bitsAt w 20 2) (bitsAt w 15 5) (bitsAt w 7 5))
  else if bitsAt w 25 7 == 0x2#7 && bitsAt w 22 3 == 0x0#3 && bitsAt w 7 5 == 0x0#5 then some (.fwait (bitsAt w 20 2) (bitsAt w 15 5))
  else if bitsAt w 25 7 == 0x3#7 && bitsAt w 20 5 == 0x0#5 then some (.waitany (bitsAt w 15 5) (bitsAt w 7 5))
  else if bitsAt w 25 7 == 0x4#7 && bitsAt w 22 3 == 0x0#3 && bitsAt w 15 5 == 0x0#5 then some (.fdrop (bitsAt w 20 2) (bitsAt w 7 5))
  else if bitsAt w 25 7 == 0x5#7 && bitsAt w 22 3 == 0x0#3 then some (.fpoison (bitsAt w 20 2) (bitsAt w 15 5) (bitsAt w 7 5))
  else none

/-- Rows of opcode 0x0B, funct3 1. -/
def decodeCustom01 (w : IWord) : Option Instr :=
  if bitsAt w 29 3 == 0x0#3 && bitsAt w 20 5 == 0x0#5 then some (.lacq (bitsAt w 25 4) (bitsAt w 15 5) (bitsAt w 7 5))
  else if bitsAt w 29 3 == 0x1#3 && bitsAt w 20 5 == 0x0#5 then some (.lacqw (bitsAt w 25 4) (bitsAt w 15 5) (bitsAt w 7 5))
  else if bitsAt w 29 3 == 0x2#3 && bitsAt w 7 5 == 0x0#5 then some (.srel (bitsAt w 25 4) (bitsAt w 20 5) (bitsAt w 15 5))
  else if bitsAt w 29 3 == 0x3#3 && bitsAt w 7 5 == 0x0#5 then some (.srelw (bitsAt w 25 4) (bitsAt w 20 5) (bitsAt w 15 5))
  else if bitsAt w 29 3 == 0x4#3 && bitsAt w 24 1 == 0x0#1 && bitsAt w 19 1 == 0x0#1 && bitsAt w 7 5 == 0x0#5 then some (.fences (bitsAt w 25 4) (bitsAt w 20 4) (bitsAt w 15 4))
  else none

/-- Rows of opcode 0x0B, funct3 2. -/
def decodeCustom02 (w : IWord) : Option Instr :=
  if bitsAt w 25 7 == 0x0#7 && bitsAt w 20 5 == 0x0#5 && bitsAt w 7 5 == 0x0#5 then some (.owne (bitsAt w 15 5))
  else if bitsAt w 25 7 == 0x1#7 && bitsAt w 20 5 == 0x0#5 && bitsAt w 7 5 == 0x0#5 then some (.ownt (bitsAt w 15 5))
  else if bitsAt w 25 7 == 0x2#7 && bitsAt w 20 5 == 0x0#5 then some (.ownq (bitsAt w 15 5) (bitsAt w 7 5))
  else none

/-- Rows of opcode 0x0B, funct3 3. -/
def decodeCustom03 (w : IWord) : Option Instr :=
  if bitsAt w 26 6 == 0x0#6 && bitsAt w 20 5 == 0x0#5 then some (.binit (bitsAt w 25 1) (bitsAt w 15 5) (bitsAt w 7 5))
  else if bitsAt w 26 6 == 0x1#6 && bitsAt w 20 5 == 0x0#5 && bitsAt w 15 5 == 0x0#5 then some (.barv (bitsAt w 25 1) (bitsAt w 7 5))
  else if bitsAt w 26 6 == 0x2#6 && bitsAt w 20 5 == 0x0#5 then some (.bexp (bitsAt w 25 1) (bitsAt w 15 5) (bitsAt w 7 5))
  else if bitsAt w 26 6 == 0x3#6 && bitsAt w 16 4 == 0x0#4 then some (.bwait (bitsAt w 25 1) (bitsAt w 20 5) (bitsAt w 15 1) (bitsAt w 7 5))
  else if bitsAt w 26 6 == 0x4#6 && bitsAt w 15 5 == 0x0#5 then some (.bquery (bitsAt w 25 1) (bitsAt w 20 5) (bitsAt w 7 5))
  else none

/-- Rows of opcode 0x0B, funct3 4. -/
def decodeCustom04 (w : IWord) : Option Instr :=
  if bitsAt w 25 7 == 0x0#7 && bitsAt w 18 2 == 0x0#2 && bitsAt w 7 5 == 0x0#5 then some (.qpush (bitsAt w 20 5) (bitsAt w 15 3))
  else if bitsAt w 25 7 == 0x1#7 && bitsAt w 20 5 == 0x0#5 && bitsAt w 18 2 == 0x0#2 then some (.qpop (bitsAt w 15 3) (bitsAt w 7 5))
  else if bitsAt w 25 7 == 0x2#7 && bitsAt w 20 5 == 0x0#5 && bitsAt w 18 2 == 0x0#2 then some (.qlen (bitsAt w 15 3) (bitsAt w 7 5))
  else none

/-- Rows of opcode 0x0B, funct3 5. -/
def decodeCustom05 (w : IWord) : Option Instr :=
  if bitsAt w 25 7 == 0x0#7 && bitsAt w 20 5 == 0x0#5 && bitsAt w 7 5 == 0x0#5 then some (.block (bitsAt w 15 5))
  else if bitsAt w 25 7 == 0x1#7 && bitsAt w 20 5 == 0x0#5 && bitsAt w 7 5 == 0x0#5 then some (.bunlock (bitsAt w 15 5))
  else none

/-- Rows of opcode 0x0B. -/
def decodeCustom0 (w : IWord) : Option Instr :=
  match (bitsAt w 12 3).toNat with
  | 0 => decodeCustom00 w
  | 1 => decodeCustom01 w
  | 2 => decodeCustom02 w
  | 3 => decodeCustom03 w
  | 4 => decodeCustom04 w
  | 5 => decodeCustom05 w
  | _ => none

/-- Rows of opcode 0x0F. -/
def decodeMiscMem (w : IWord) : Option Instr :=
  if bitsAt w 15 5 == 0x0#5 && bitsAt w 12 3 == 0x0#3 && bitsAt w 7 5 == 0x0#5 then some (.fence (bitsAt w 28 4) (bitsAt w 24 4) (bitsAt w 20 4))
  else none

/-- Rows of opcode 0x13, funct3 0. -/
def decodeOpImm0 (w : IWord) : Option Instr :=
  some (.addi (bitsAt w 20 12) (bitsAt w 15 5) (bitsAt w 7 5))

/-- Rows of opcode 0x13, funct3 1. -/
def decodeOpImm1 (w : IWord) : Option Instr :=
  if bitsAt w 26 6 == 0x0#6 then some (.slli (bitsAt w 20 6) (bitsAt w 15 5) (bitsAt w 7 5))
  else none

/-- Rows of opcode 0x13, funct3 2. -/
def decodeOpImm2 (w : IWord) : Option Instr :=
  some (.slti (bitsAt w 20 12) (bitsAt w 15 5) (bitsAt w 7 5))

/-- Rows of opcode 0x13, funct3 3. -/
def decodeOpImm3 (w : IWord) : Option Instr :=
  some (.sltiu (bitsAt w 20 12) (bitsAt w 15 5) (bitsAt w 7 5))

/-- Rows of opcode 0x13, funct3 4. -/
def decodeOpImm4 (w : IWord) : Option Instr :=
  some (.xori (bitsAt w 20 12) (bitsAt w 15 5) (bitsAt w 7 5))

/-- Rows of opcode 0x13, funct3 5. -/
def decodeOpImm5 (w : IWord) : Option Instr :=
  if bitsAt w 26 6 == 0x0#6 then some (.srli (bitsAt w 20 6) (bitsAt w 15 5) (bitsAt w 7 5))
  else if bitsAt w 26 6 == 0x10#6 then some (.srai (bitsAt w 20 6) (bitsAt w 15 5) (bitsAt w 7 5))
  else none

/-- Rows of opcode 0x13, funct3 6. -/
def decodeOpImm6 (w : IWord) : Option Instr :=
  some (.ori (bitsAt w 20 12) (bitsAt w 15 5) (bitsAt w 7 5))

/-- Rows of opcode 0x13, funct3 7. -/
def decodeOpImm7 (w : IWord) : Option Instr :=
  some (.andi (bitsAt w 20 12) (bitsAt w 15 5) (bitsAt w 7 5))

/-- Rows of opcode 0x13. -/
def decodeOpImm (w : IWord) : Option Instr :=
  match (bitsAt w 12 3).toNat with
  | 0 => decodeOpImm0 w
  | 1 => decodeOpImm1 w
  | 2 => decodeOpImm2 w
  | 3 => decodeOpImm3 w
  | 4 => decodeOpImm4 w
  | 5 => decodeOpImm5 w
  | 6 => decodeOpImm6 w
  | 7 => decodeOpImm7 w
  | _ => none

/-- Rows of opcode 0x17. -/
def decodeAuipc (w : IWord) : Option Instr :=
  some (.auipc (bitsAt w 12 20) (bitsAt w 7 5))

/-- Rows of opcode 0x1B, funct3 0. -/
def decodeOpImm320 (w : IWord) : Option Instr :=
  some (.addiw (bitsAt w 20 12) (bitsAt w 15 5) (bitsAt w 7 5))

/-- Rows of opcode 0x1B, funct3 1. -/
def decodeOpImm321 (w : IWord) : Option Instr :=
  if bitsAt w 25 7 == 0x0#7 then some (.slliw (bitsAt w 20 5) (bitsAt w 15 5) (bitsAt w 7 5))
  else none

/-- Rows of opcode 0x1B, funct3 5. -/
def decodeOpImm325 (w : IWord) : Option Instr :=
  if bitsAt w 25 7 == 0x0#7 then some (.srliw (bitsAt w 20 5) (bitsAt w 15 5) (bitsAt w 7 5))
  else if bitsAt w 25 7 == 0x20#7 then some (.sraiw (bitsAt w 20 5) (bitsAt w 15 5) (bitsAt w 7 5))
  else none

/-- Rows of opcode 0x1B. -/
def decodeOpImm32 (w : IWord) : Option Instr :=
  match (bitsAt w 12 3).toNat with
  | 0 => decodeOpImm320 w
  | 1 => decodeOpImm321 w
  | 5 => decodeOpImm325 w
  | _ => none

/-- Rows of opcode 0x23, funct3 0. -/
def decodeStore0 (w : IWord) : Option Instr :=
  some (.sb (bitsAt w 25 7) (bitsAt w 20 5) (bitsAt w 15 5) (bitsAt w 7 5))

/-- Rows of opcode 0x23, funct3 1. -/
def decodeStore1 (w : IWord) : Option Instr :=
  some (.sh (bitsAt w 25 7) (bitsAt w 20 5) (bitsAt w 15 5) (bitsAt w 7 5))

/-- Rows of opcode 0x23, funct3 2. -/
def decodeStore2 (w : IWord) : Option Instr :=
  some (.sw (bitsAt w 25 7) (bitsAt w 20 5) (bitsAt w 15 5) (bitsAt w 7 5))

/-- Rows of opcode 0x23, funct3 3. -/
def decodeStore3 (w : IWord) : Option Instr :=
  some (.sd (bitsAt w 25 7) (bitsAt w 20 5) (bitsAt w 15 5) (bitsAt w 7 5))

/-- Rows of opcode 0x23. -/
def decodeStore (w : IWord) : Option Instr :=
  match (bitsAt w 12 3).toNat with
  | 0 => decodeStore0 w
  | 1 => decodeStore1 w
  | 2 => decodeStore2 w
  | 3 => decodeStore3 w
  | _ => none

/-- Rows of opcode 0x2B, funct3 0. -/
def decodeCustom10 (w : IWord) : Option Instr :=
  if bitsAt w 25 7 == 0x0#7 && bitsAt w 20 5 == 0x0#5 && bitsAt w 10 2 == 0x0#2 then some (.mldAddr (bitsAt w 15 5) (bitsAt w 7 3))
  else if bitsAt w 25 7 == 0x8#7 && bitsAt w 20 5 == 0x0#5 && bitsAt w 17 3 == 0x0#3 && bitsAt w 10 2 == 0x0#2 then some (.mldStream (bitsAt w 15 2) (bitsAt w 7 3))
  else if bitsAt w 28 4 == 0x2#4 && bitsAt w 9 3 == 0x0#3 then some (.mstAddr (bitsAt w 25 3) (bitsAt w 24 1) (bitsAt w 20 4) (bitsAt w 15 5) (bitsAt w 7 2))
  else if bitsAt w 28 4 == 0x3#4 && bitsAt w 17 3 == 0x0#3 && bitsAt w 9 3 == 0x0#3 then some (.mstStream (bitsAt w 25 3) (bitsAt w 24 1) (bitsAt w 20 4) (bitsAt w 15 2) (bitsAt w 7 2))
  else none

/-- Rows of opcode 0x2B, funct3 1. -/
def decodeCustom11 (w : IWord) : Option Instr :=
  if bitsAt w 25 7 == 0x0#7 && bitsAt w 20 5 == 0x0#5 && bitsAt w 15 5 == 0x0#5 && bitsAt w 9 3 == 0x0#3 then some (.mzero (bitsAt w 7 2))
  else if bitsAt w 28 4 == 0x1#4 && bitsAt w 20 5 == 0x0#5 && bitsAt w 17 3 == 0x0#3 && bitsAt w 10 2 == 0x0#2 then some (.mmovv (bitsAt w 25 3) (bitsAt w 15 2) (bitsAt w 7 3))
  else none

/-- Rows of opcode 0x2B, funct3 2. -/
def decodeCustom12 (w : IWord) : Option Instr :=
  if bitsAt w 25 7 == 0x0#7 && bitsAt w 23 2 == 0x0#2 && bitsAt w 18 2 == 0x0#2 && bitsAt w 9 3 == 0x0#3 then some (.mdot (bitsAt w 20 3) (bitsAt w 15 3) (bitsAt w 7 2))
  else if bitsAt w 25 7 == 0x1#7 && bitsAt w 23 2 == 0x0#2 && bitsAt w 18 2 == 0x0#2 && bitsAt w 9 3 == 0x0#3 then some (.mdots (bitsAt w 20 3) (bitsAt w 15 3) (bitsAt w 7 2))
  else none

/-- Rows of opcode 0x2B, funct3 3. -/
def decodeCustom13 (w : IWord) : Option Instr :=
  if bitsAt w 27 5 == 0x0#5 && bitsAt w 20 5 == 0x0#5 && bitsAt w 9 3 == 0x0#3 then some (.asset (bitsAt w 25 2) (bitsAt w 15 5) (bitsAt w 7 2))
  else if bitsAt w 25 7 == 0x10#7 && bitsAt w 23 2 == 0x0#2 && bitsAt w 7 5 == 0x0#5 then some (.rpt (bitsAt w 20 3) (bitsAt w 15 5))
  else none

/-- Rows of opcode 0x2B, funct3 4. -/
def decodeCustom14 (w : IWord) : Option Instr :=
  if bitsAt w 27 5 == 0x0#5 && bitsAt w 7 5 == 0x0#5 then some (.cpw (bitsAt w 25 2) (bitsAt w 20 5) (bitsAt w 15 5))
  else if bitsAt w 27 5 == 0x1#5 && bitsAt w 15 5 == 0x0#5 then some (.cpr (bitsAt w 25 2) (bitsAt w 20 5) (bitsAt w 7 5))
  else none

/-- Rows of opcode 0x2B, funct3 5. -/
def decodeCustom15 (w : IWord) : Option Instr :=
  if bitsAt w 27 5 == 0x0#5 && bitsAt w 20 5 == 0x0#5 && bitsAt w 15 5 == 0x0#5 then some (.cpgo (bitsAt w 25 2) (bitsAt w 7 5))
  else if bitsAt w 27 5 == 0x1#5 && bitsAt w 20 5 == 0x0#5 && bitsAt w 15 5 == 0x0#5 && bitsAt w 7 5 == 0x0#5 then some (.cpcancel (bitsAt w 25 2))
  else if bitsAt w 25 7 == 0x8#7 && bitsAt w 20 5 == 0x0#5 && bitsAt w 7 5 == 0x0#5 then some (.mcfree (bitsAt w 15 5))
  else none

/-- Rows of opcode 0x2B, funct3 6. -/
def decodeCustom16 (w : IWord) : Option Instr :=
  if bitsAt w 29 3 == 0x0#3 && bitsAt w 20 5 == 0x0#5 then some (.tdisc (bitsAt w 25 4) (bitsAt w 15 5) (bitsAt w 7 5))
  else if bitsAt w 25 7 == 0x10#7 && bitsAt w 7 5 == 0x0#5 then some (.lpin (bitsAt w 20 5) (bitsAt w 15 5))
  else if bitsAt w 25 7 == 0x20#7 && bitsAt w 7 5 == 0x0#5 then some (.lunpin (bitsAt w 20 5) (bitsAt w 15 5))
  else none

/-- Rows of opcode 0x2B, funct3 7. -/
def decodeCustom17 (w : IWord) : Option Instr :=
  if bitsAt w 25 7 == 0x0#7 && bitsAt w 20 5 == 0x0#5 then some (.rprobe (bitsAt w 15 5) (bitsAt w 7 5))
  else if bitsAt w 25 7 == 0x10#7 && bitsAt w 20 5 == 0x0#5 then some (.rloadt (bitsAt w 15 5) (bitsAt w 7 5))
  else if bitsAt w 25 7 == 0x20#7 then some (.rsplit (bitsAt w 20 5) (bitsAt w 15 5) (bitsAt w 7 5))
  else if bitsAt w 25 7 == 0x30#7 && bitsAt w 20 5 == 0x0#5 then some (.rmerge (bitsAt w 15 5) (bitsAt w 7 5))
  else if bitsAt w 25 7 == 0x40#7 && bitsAt w 7 5 == 0x0#5 then some (.rsetres (bitsAt w 20 5) (bitsAt w 15 5))
  else if bitsAt w 25 7 == 0x50#7 && bitsAt w 7 5 == 0x0#5 then some (.rclrres (bitsAt w 20 5) (bitsAt w 15 5))
  else if bitsAt w 29 3 == 0x6#3 then some (.rinv (bitsAt w 25 4) (bitsAt w 20 5) (bitsAt w 15 5) (bitsAt w 7 5))
  else if bitsAt w 25 7 == 0x70#7 then some (.rglean (bitsAt w 20 5) (bitsAt w 15 5) (bitsAt w 7 5))
  else none

/-- Rows of opcode 0x2B. -/
def decodeCustom1 (w : IWord) : Option Instr :=
  match (bitsAt w 12 3).toNat with
  | 0 => decodeCustom10 w
  | 1 => decodeCustom11 w
  | 2 => decodeCustom12 w
  | 3 => decodeCustom13 w
  | 4 => decodeCustom14 w
  | 5 => decodeCustom15 w
  | 6 => decodeCustom16 w
  | 7 => decodeCustom17 w
  | _ => none

/-- Rows of opcode 0x2F. -/
def decodeAmo (w : IWord) : Option Instr :=
  if bitsAt w 27 5 == 0x2#5 && bitsAt w 20 5 == 0x0#5 && bitsAt w 13 2 == 0x1#2 then some (.lr (bitsAt w 26 1) (bitsAt w 25 1) (bitsAt w 15 5) (bitsAt w 12 1) (bitsAt w 7 5))
  else if bitsAt w 27 5 == 0x3#5 && bitsAt w 13 2 == 0x1#2 then some (.sc (bitsAt w 26 1) (bitsAt w 25 1) (bitsAt w 20 5) (bitsAt w 15 5) (bitsAt w 12 1) (bitsAt w 7 5))
  else if bitsAt w 27 5 == 0x1#5 && bitsAt w 13 2 == 0x1#2 then some (.amoswap (bitsAt w 26 1) (bitsAt w 25 1) (bitsAt w 20 5) (bitsAt w 15 5) (bitsAt w 12 1) (bitsAt w 7 5))
  else if bitsAt w 27 5 == 0x0#5 && bitsAt w 13 2 == 0x1#2 then some (.amoadd (bitsAt w 26 1) (bitsAt w 25 1) (bitsAt w 20 5) (bitsAt w 15 5) (bitsAt w 12 1) (bitsAt w 7 5))
  else if bitsAt w 27 5 == 0x4#5 && bitsAt w 13 2 == 0x1#2 then some (.amoxor (bitsAt w 26 1) (bitsAt w 25 1) (bitsAt w 20 5) (bitsAt w 15 5) (bitsAt w 12 1) (bitsAt w 7 5))
  else if bitsAt w 27 5 == 0xC#5 && bitsAt w 13 2 == 0x1#2 then some (.amoand (bitsAt w 26 1) (bitsAt w 25 1) (bitsAt w 20 5) (bitsAt w 15 5) (bitsAt w 12 1) (bitsAt w 7 5))
  else if bitsAt w 27 5 == 0x8#5 && bitsAt w 13 2 == 0x1#2 then some (.amoor (bitsAt w 26 1) (bitsAt w 25 1) (bitsAt w 20 5) (bitsAt w 15 5) (bitsAt w 12 1) (bitsAt w 7 5))
  else if bitsAt w 27 5 == 0x10#5 && bitsAt w 13 2 == 0x1#2 then some (.amomin (bitsAt w 26 1) (bitsAt w 25 1) (bitsAt w 20 5) (bitsAt w 15 5) (bitsAt w 12 1) (bitsAt w 7 5))
  else if bitsAt w 27 5 == 0x14#5 && bitsAt w 13 2 == 0x1#2 then some (.amomax (bitsAt w 26 1) (bitsAt w 25 1) (bitsAt w 20 5) (bitsAt w 15 5) (bitsAt w 12 1) (bitsAt w 7 5))
  else if bitsAt w 27 5 == 0x18#5 && bitsAt w 13 2 == 0x1#2 then some (.amominu (bitsAt w 26 1) (bitsAt w 25 1) (bitsAt w 20 5) (bitsAt w 15 5) (bitsAt w 12 1) (bitsAt w 7 5))
  else if bitsAt w 27 5 == 0x1C#5 && bitsAt w 13 2 == 0x1#2 then some (.amomaxu (bitsAt w 26 1) (bitsAt w 25 1) (bitsAt w 20 5) (bitsAt w 15 5) (bitsAt w 12 1) (bitsAt w 7 5))
  else none

/-- Rows of opcode 0x33, funct3 0. -/
def decodeOp0 (w : IWord) : Option Instr :=
  if bitsAt w 25 7 == 0x0#7 then some (.add (bitsAt w 20 5) (bitsAt w 15 5) (bitsAt w 7 5))
  else if bitsAt w 25 7 == 0x20#7 then some (.sub (bitsAt w 20 5) (bitsAt w 15 5) (bitsAt w 7 5))
  else if bitsAt w 25 7 == 0x1#7 then some (.mul (bitsAt w 20 5) (bitsAt w 15 5) (bitsAt w 7 5))
  else none

/-- Rows of opcode 0x33, funct3 1. -/
def decodeOp1 (w : IWord) : Option Instr :=
  if bitsAt w 25 7 == 0x0#7 then some (.sll (bitsAt w 20 5) (bitsAt w 15 5) (bitsAt w 7 5))
  else if bitsAt w 25 7 == 0x1#7 then some (.mulh (bitsAt w 20 5) (bitsAt w 15 5) (bitsAt w 7 5))
  else none

/-- Rows of opcode 0x33, funct3 2. -/
def decodeOp2 (w : IWord) : Option Instr :=
  if bitsAt w 25 7 == 0x0#7 then some (.slt (bitsAt w 20 5) (bitsAt w 15 5) (bitsAt w 7 5))
  else if bitsAt w 25 7 == 0x1#7 then some (.mulhsu (bitsAt w 20 5) (bitsAt w 15 5) (bitsAt w 7 5))
  else none

/-- Rows of opcode 0x33, funct3 3. -/
def decodeOp3 (w : IWord) : Option Instr :=
  if bitsAt w 25 7 == 0x0#7 then some (.sltu (bitsAt w 20 5) (bitsAt w 15 5) (bitsAt w 7 5))
  else if bitsAt w 25 7 == 0x1#7 then some (.mulhu (bitsAt w 20 5) (bitsAt w 15 5) (bitsAt w 7 5))
  else none

/-- Rows of opcode 0x33, funct3 4. -/
def decodeOp4 (w : IWord) : Option Instr :=
  if bitsAt w 25 7 == 0x0#7 then some (.xor (bitsAt w 20 5) (bitsAt w 15 5) (bitsAt w 7 5))
  else if bitsAt w 25 7 == 0x1#7 then some (.div (bitsAt w 20 5) (bitsAt w 15 5) (bitsAt w 7 5))
  else none

/-- Rows of opcode 0x33, funct3 5. -/
def decodeOp5 (w : IWord) : Option Instr :=
  if bitsAt w 25 7 == 0x0#7 then some (.srl (bitsAt w 20 5) (bitsAt w 15 5) (bitsAt w 7 5))
  else if bitsAt w 25 7 == 0x20#7 then some (.sra (bitsAt w 20 5) (bitsAt w 15 5) (bitsAt w 7 5))
  else if bitsAt w 25 7 == 0x1#7 then some (.divu (bitsAt w 20 5) (bitsAt w 15 5) (bitsAt w 7 5))
  else none

/-- Rows of opcode 0x33, funct3 6. -/
def decodeOp6 (w : IWord) : Option Instr :=
  if bitsAt w 25 7 == 0x0#7 then some (.or (bitsAt w 20 5) (bitsAt w 15 5) (bitsAt w 7 5))
  else if bitsAt w 25 7 == 0x1#7 then some (.rem (bitsAt w 20 5) (bitsAt w 15 5) (bitsAt w 7 5))
  else none

/-- Rows of opcode 0x33, funct3 7. -/
def decodeOp7 (w : IWord) : Option Instr :=
  if bitsAt w 25 7 == 0x0#7 then some (.and (bitsAt w 20 5) (bitsAt w 15 5) (bitsAt w 7 5))
  else if bitsAt w 25 7 == 0x1#7 then some (.remu (bitsAt w 20 5) (bitsAt w 15 5) (bitsAt w 7 5))
  else none

/-- Rows of opcode 0x33. -/
def decodeOp (w : IWord) : Option Instr :=
  match (bitsAt w 12 3).toNat with
  | 0 => decodeOp0 w
  | 1 => decodeOp1 w
  | 2 => decodeOp2 w
  | 3 => decodeOp3 w
  | 4 => decodeOp4 w
  | 5 => decodeOp5 w
  | 6 => decodeOp6 w
  | 7 => decodeOp7 w
  | _ => none

/-- Rows of opcode 0x37. -/
def decodeLui (w : IWord) : Option Instr :=
  some (.lui (bitsAt w 12 20) (bitsAt w 7 5))

/-- Rows of opcode 0x3B, funct3 0. -/
def decodeOp320 (w : IWord) : Option Instr :=
  if bitsAt w 25 7 == 0x0#7 then some (.addw (bitsAt w 20 5) (bitsAt w 15 5) (bitsAt w 7 5))
  else if bitsAt w 25 7 == 0x20#7 then some (.subw (bitsAt w 20 5) (bitsAt w 15 5) (bitsAt w 7 5))
  else if bitsAt w 25 7 == 0x1#7 then some (.mulw (bitsAt w 20 5) (bitsAt w 15 5) (bitsAt w 7 5))
  else none

/-- Rows of opcode 0x3B, funct3 1. -/
def decodeOp321 (w : IWord) : Option Instr :=
  if bitsAt w 25 7 == 0x0#7 then some (.sllw (bitsAt w 20 5) (bitsAt w 15 5) (bitsAt w 7 5))
  else none

/-- Rows of opcode 0x3B, funct3 4. -/
def decodeOp324 (w : IWord) : Option Instr :=
  if bitsAt w 25 7 == 0x1#7 then some (.divw (bitsAt w 20 5) (bitsAt w 15 5) (bitsAt w 7 5))
  else none

/-- Rows of opcode 0x3B, funct3 5. -/
def decodeOp325 (w : IWord) : Option Instr :=
  if bitsAt w 25 7 == 0x0#7 then some (.srlw (bitsAt w 20 5) (bitsAt w 15 5) (bitsAt w 7 5))
  else if bitsAt w 25 7 == 0x20#7 then some (.sraw (bitsAt w 20 5) (bitsAt w 15 5) (bitsAt w 7 5))
  else if bitsAt w 25 7 == 0x1#7 then some (.divuw (bitsAt w 20 5) (bitsAt w 15 5) (bitsAt w 7 5))
  else none

/-- Rows of opcode 0x3B, funct3 6. -/
def decodeOp326 (w : IWord) : Option Instr :=
  if bitsAt w 25 7 == 0x1#7 then some (.remw (bitsAt w 20 5) (bitsAt w 15 5) (bitsAt w 7 5))
  else none

/-- Rows of opcode 0x3B, funct3 7. -/
def decodeOp327 (w : IWord) : Option Instr :=
  if bitsAt w 25 7 == 0x1#7 then some (.remuw (bitsAt w 20 5) (bitsAt w 15 5) (bitsAt w 7 5))
  else none

/-- Rows of opcode 0x3B. -/
def decodeOp32 (w : IWord) : Option Instr :=
  match (bitsAt w 12 3).toNat with
  | 0 => decodeOp320 w
  | 1 => decodeOp321 w
  | 4 => decodeOp324 w
  | 5 => decodeOp325 w
  | 6 => decodeOp326 w
  | 7 => decodeOp327 w
  | _ => none

/-- Rows of the MX group, custom-2 funct3 110 (R69). -/
def decodeCustom2Mx (w : IWord) : Option Instr :=
  if bitsAt w 30 2 == 0x0#2 && bitsAt w 25 2 == 0x0#2 && bitsAt w 24 1 == 0x0#1 then some (.vqmx (bitsAt w 27 3) (bitsAt w 20 4) (bitsAt w 15 5) (bitsAt w 7 5))
  else if bitsAt w 25 7 == 0x20#7 && bitsAt w 24 1 == 0x0#1 then some (.vdqmx (bitsAt w 20 4) (bitsAt w 15 5) (bitsAt w 7 5))
  else none

/-- VCVT, custom-2 funct3 111 (R69). -/
def decodeCustom2Cvt (w : IWord) : Option Instr :=
  some (.vcvt (bitsAt w 28 4) (bitsAt w 25 3) (bitsAt w 24 1) (bitsAt w 20 4) (bitsAt w 15 5) (bitsAt w 7 5))

/-- Format Q of custom-2 (R61, R68). -/
def decodeCustom2Q (w : IWord) : Option Instr :=
  if bitsAt w 25 2 == 0x1#2 then some (.vfma (bitsAt w 27 5) (bitsAt w 20 5) (bitsAt w 15 5) (bitsAt w 12 3) (bitsAt w 7 5))
  else if bitsAt w 25 2 == 0x3#2 then some (.vsel (bitsAt w 27 5) (bitsAt w 20 5) (bitsAt w 15 5) (bitsAt w 12 3) (bitsAt w 7 5))
  else none

/-- Format R of custom-2 (R68). -/
def decodeCustom2R (w : IWord) : Option Instr :=
  if bitsAt w 25 7 == 0x0#7 then some (.vadd (bitsAt w 20 5) (bitsAt w 15 5) (bitsAt w 12 3) (bitsAt w 7 5))
  else if bitsAt w 25 7 == 0x2#7 then some (.vsub (bitsAt w 20 5) (bitsAt w 15 5) (bitsAt w 12 3) (bitsAt w 7 5))
  else if bitsAt w 25 7 == 0x4#7 then some (.vmul (bitsAt w 20 5) (bitsAt w 15 5) (bitsAt w 12 3) (bitsAt w 7 5))
  else if bitsAt w 25 7 == 0x6#7 then some (.vmin (bitsAt w 20 5) (bitsAt w 15 5) (bitsAt w 12 3) (bitsAt w 7 5))
  else if bitsAt w 25 7 == 0x8#7 then some (.vmax (bitsAt w 20 5) (bitsAt w 15 5) (bitsAt w 12 3) (bitsAt w 7 5))
  else if bitsAt w 25 7 == 0xA#7 && bitsAt w 20 5 == 0x0#5 then some (.vabs (bitsAt w 15 5) (bitsAt w 12 3) (bitsAt w 7 5))
  else if bitsAt w 25 7 == 0xC#7 && bitsAt w 20 5 == 0x0#5 then some (.vneg (bitsAt w 15 5) (bitsAt w 12 3) (bitsAt w 7 5))
  else if bitsAt w 25 7 == 0xE#7 then some (.vcmpeq (bitsAt w 20 5) (bitsAt w 15 5) (bitsAt w 12 3) (bitsAt w 7 5))
  else if bitsAt w 25 7 == 0x10#7 then some (.vcmplt (bitsAt w 20 5) (bitsAt w 15 5) (bitsAt w 12 3) (bitsAt w 7 5))
  else if bitsAt w 25 7 == 0x12#7 then some (.vcmple (bitsAt w 20 5) (bitsAt w 15 5) (bitsAt w 12 3) (bitsAt w 7 5))
  else if bitsAt w 25 7 == 0x14#7 && bitsAt w 12 3 == 0x5#3 then some (.vand (bitsAt w 20 5) (bitsAt w 15 5) (bitsAt w 7 5))
  else if bitsAt w 25 7 == 0x16#7 && bitsAt w 12 3 == 0x5#3 then some (.vor (bitsAt w 20 5) (bitsAt w 15 5) (bitsAt w 7 5))
  else if bitsAt w 25 7 == 0x18#7 && bitsAt w 12 3 == 0x5#3 then some (.vxor (bitsAt w 20 5) (bitsAt w 15 5) (bitsAt w 7 5))
  else if bitsAt w 25 7 == 0x1A#7 && bitsAt w 20 5 == 0x0#5 && bitsAt w 12 3 == 0x5#3 then some (.vnot (bitsAt w 15 5) (bitsAt w 7 5))
  else if bitsAt w 25 7 == 0x1C#7 then some (.vsll (bitsAt w 20 5) (bitsAt w 15 5) (bitsAt w 12 3) (bitsAt w 7 5))
  else if bitsAt w 25 7 == 0x1E#7 then some (.vsrl (bitsAt w 20 5) (bitsAt w 15 5) (bitsAt w 12 3) (bitsAt w 7 5))
  else if bitsAt w 25 7 == 0x20#7 then some (.vsra (bitsAt w 20 5) (bitsAt w 15 5) (bitsAt w 12 3) (bitsAt w 7 5))
  else if bitsAt w 25 7 == 0x22#7 && bitsAt w 20 5 == 0x0#5 then some (.vexp2 (bitsAt w 15 5) (bitsAt w 12 3) (bitsAt w 7 5))
  else if bitsAt w 25 7 == 0x24#7 && bitsAt w 20 5 == 0x0#5 then some (.vlog2 (bitsAt w 15 5) (bitsAt w 12 3) (bitsAt w 7 5))
  else if bitsAt w 25 7 == 0x26#7 && bitsAt w 20 5 == 0x0#5 then some (.vrcp (bitsAt w 15 5) (bitsAt w 12 3) (bitsAt w 7 5))
  else if bitsAt w 25 7 == 0x28#7 && bitsAt w 20 5 == 0x0#5 then some (.vrsq (bitsAt w 15 5) (bitsAt w 12 3) (bitsAt w 7 5))
  else if bitsAt w 25 7 == 0x2A#7 && bitsAt w 20 5 == 0x0#5 then some (.vredsum (bitsAt w 15 5) (bitsAt w 12 3) (bitsAt w 7 5))
  else if bitsAt w 25 7 == 0x2C#7 && bitsAt w 20 5 == 0x0#5 then some (.vredmax (bitsAt w 15 5) (bitsAt w 12 3) (bitsAt w 7 5))
  else if bitsAt w 25 7 == 0x2E#7 && bitsAt w 20 5 == 0x0#5 then some (.vredmin (bitsAt w 15 5) (bitsAt w 12 3) (bitsAt w 7 5))
  else if bitsAt w 25 7 == 0x30#7 && bitsAt w 20 5 == 0x0#5 && bitsAt w 12 3 == 0x5#3 then some (.vld (bitsAt w 15 5) (bitsAt w 7 5))
  else if bitsAt w 25 7 == 0x32#7 && bitsAt w 20 5 == 0x0#5 && bitsAt w 12 3 == 0x5#3 then some (.vst (bitsAt w 15 5) (bitsAt w 7 5))
  else if bitsAt w 25 7 == 0x34#7 && bitsAt w 12 3 == 0x5#3 then some (.vlds (bitsAt w 20 5) (bitsAt w 15 5) (bitsAt w 7 5))
  else if bitsAt w 25 7 == 0x36#7 && bitsAt w 12 3 == 0x5#3 then some (.vsts (bitsAt w 20 5) (bitsAt w 15 5) (bitsAt w 7 5))
  else if bitsAt w 25 7 == 0x38#7 then some (.vgath (bitsAt w 20 5) (bitsAt w 15 5) (bitsAt w 12 3) (bitsAt w 7 5))
  else if bitsAt w 25 7 == 0x3A#7 then some (.vscat (bitsAt w 20 5) (bitsAt w 15 5) (bitsAt w 12 3) (bitsAt w 7 5))
  else if bitsAt w 25 7 == 0x3C#7 then some (.vperm (bitsAt w 20 5) (bitsAt w 15 5) (bitsAt w 12 3) (bitsAt w 7 5))
  else if bitsAt w 25 7 == 0x3E#7 then some (.vbcast (bitsAt w 20 5) (bitsAt w 15 5) (bitsAt w 12 3) (bitsAt w 7 5))
  else if bitsAt w 25 7 == 0x40#7 then some (.vslup (bitsAt w 20 5) (bitsAt w 15 5) (bitsAt w 12 3) (bitsAt w 7 5))
  else if bitsAt w 25 7 == 0x42#7 then some (.vsldn (bitsAt w 20 5) (bitsAt w 15 5) (bitsAt w 12 3) (bitsAt w 7 5))
  else if bitsAt w 25 7 == 0x44#7 && bitsAt w 20 5 == 0x0#5 then some (.vsplat (bitsAt w 15 5) (bitsAt w 12 3) (bitsAt w 7 5))
  else if bitsAt w 25 7 == 0x46#7 then some (.vins (bitsAt w 20 5) (bitsAt w 15 5) (bitsAt w 12 3) (bitsAt w 7 5))
  else if bitsAt w 25 7 == 0x48#7 then some (.vext (bitsAt w 20 5) (bitsAt w 15 5) (bitsAt w 12 3) (bitsAt w 7 5))
  else none

/-- Rows of custom-2 (R68, R69). -/
def decodeCustom2 (w : IWord) : Option Instr :=
  match (bitsAt w 12 3).toNat with
  | 6 => decodeCustom2Mx w
  | 7 => decodeCustom2Cvt w
  | _ => if bitsAt w 25 1 == 1#1 then decodeCustom2Q w else decodeCustom2R w

/-- Rows of opcode 0x63, funct3 0. -/
def decodeBranch0 (w : IWord) : Option Instr :=
  some (.beq (bitsAt w 25 7) (bitsAt w 20 5) (bitsAt w 15 5) (bitsAt w 7 5))

/-- Rows of opcode 0x63, funct3 1. -/
def decodeBranch1 (w : IWord) : Option Instr :=
  some (.bne (bitsAt w 25 7) (bitsAt w 20 5) (bitsAt w 15 5) (bitsAt w 7 5))

/-- Rows of opcode 0x63, funct3 4. -/
def decodeBranch4 (w : IWord) : Option Instr :=
  some (.blt (bitsAt w 25 7) (bitsAt w 20 5) (bitsAt w 15 5) (bitsAt w 7 5))

/-- Rows of opcode 0x63, funct3 5. -/
def decodeBranch5 (w : IWord) : Option Instr :=
  some (.bge (bitsAt w 25 7) (bitsAt w 20 5) (bitsAt w 15 5) (bitsAt w 7 5))

/-- Rows of opcode 0x63, funct3 6. -/
def decodeBranch6 (w : IWord) : Option Instr :=
  some (.bltu (bitsAt w 25 7) (bitsAt w 20 5) (bitsAt w 15 5) (bitsAt w 7 5))

/-- Rows of opcode 0x63, funct3 7. -/
def decodeBranch7 (w : IWord) : Option Instr :=
  some (.bgeu (bitsAt w 25 7) (bitsAt w 20 5) (bitsAt w 15 5) (bitsAt w 7 5))

/-- Rows of opcode 0x63. -/
def decodeBranch (w : IWord) : Option Instr :=
  match (bitsAt w 12 3).toNat with
  | 0 => decodeBranch0 w
  | 1 => decodeBranch1 w
  | 4 => decodeBranch4 w
  | 5 => decodeBranch5 w
  | 6 => decodeBranch6 w
  | 7 => decodeBranch7 w
  | _ => none

/-- Rows of opcode 0x67. -/
def decodeJalr (w : IWord) : Option Instr :=
  if bitsAt w 12 3 == 0x0#3 then some (.jalr (bitsAt w 20 12) (bitsAt w 15 5) (bitsAt w 7 5))
  else none

/-- Rows of opcode 0x6F. -/
def decodeJal (w : IWord) : Option Instr :=
  some (.jal (bitsAt w 12 20) (bitsAt w 7 5))

/-- Rows of opcode 0x73, funct3 0. -/
def decodeSystem0 (w : IWord) : Option Instr :=
  if bitsAt w 25 7 == 0x0#7 && bitsAt w 20 5 == 0x0#5 && bitsAt w 15 5 == 0x0#5 && bitsAt w 7 5 == 0x0#5 then some (.ecall)
  else if bitsAt w 25 7 == 0x0#7 && bitsAt w 20 5 == 0x1#5 && bitsAt w 15 5 == 0x0#5 && bitsAt w 7 5 == 0x0#5 then some (.ebreak)
  else none

/-- Rows of opcode 0x73, funct3 1. -/
def decodeSystem1 (w : IWord) : Option Instr :=
  some (.csrrw (bitsAt w 20 12) (bitsAt w 15 5) (bitsAt w 7 5))

/-- Rows of opcode 0x73, funct3 2. -/
def decodeSystem2 (w : IWord) : Option Instr :=
  some (.csrrs (bitsAt w 20 12) (bitsAt w 15 5) (bitsAt w 7 5))

/-- Rows of opcode 0x73, funct3 3. -/
def decodeSystem3 (w : IWord) : Option Instr :=
  some (.csrrc (bitsAt w 20 12) (bitsAt w 15 5) (bitsAt w 7 5))

/-- Rows of opcode 0x73, funct3 5. -/
def decodeSystem5 (w : IWord) : Option Instr :=
  some (.csrrwi (bitsAt w 20 12) (bitsAt w 15 5) (bitsAt w 7 5))

/-- Rows of opcode 0x73, funct3 6. -/
def decodeSystem6 (w : IWord) : Option Instr :=
  some (.csrrsi (bitsAt w 20 12) (bitsAt w 15 5) (bitsAt w 7 5))

/-- Rows of opcode 0x73, funct3 7. -/
def decodeSystem7 (w : IWord) : Option Instr :=
  some (.csrrci (bitsAt w 20 12) (bitsAt w 15 5) (bitsAt w 7 5))

/-- Rows of opcode 0x73. -/
def decodeSystem (w : IWord) : Option Instr :=
  match (bitsAt w 12 3).toNat with
  | 0 => decodeSystem0 w
  | 1 => decodeSystem1 w
  | 2 => decodeSystem2 w
  | 3 => decodeSystem3 w
  | 5 => decodeSystem5 w
  | 6 => decodeSystem6 w
  | 7 => decodeSystem7 w
  | _ => none

/-- Rows of opcode 0x7B, funct3 0. -/
def decodeCustom30 (w : IWord) : Option Instr :=
  if bitsAt w 25 7 == 0x0#7 && bitsAt w 20 5 == 0x0#5 then some (.spawn (bitsAt w 15 5) (bitsAt w 7 5))
  else if bitsAt w 25 7 == 0x1#7 && bitsAt w 20 5 == 0x0#5 && bitsAt w 15 5 == 0x0#5 && bitsAt w 7 5 == 0x0#5 then some (.done)
  else if bitsAt w 25 7 == 0x2#7 && bitsAt w 20 5 == 0x0#5 && bitsAt w 15 5 == 0x0#5 && bitsAt w 7 5 == 0x0#5 then some (.yield)
  else none

/-- Rows of opcode 0x7B, funct3 1. -/
def decodeCustom31 (w : IWord) : Option Instr :=
  if bitsAt w 25 7 == 0x0#7 then some (.send (bitsAt w 20 5) (bitsAt w 15 5) (bitsAt w 7 5))
  else if bitsAt w 25 7 == 0x1#7 then some (.sendt (bitsAt w 20 5) (bitsAt w 15 5) (bitsAt w 7 5))
  else if bitsAt w 25 7 == 0x2#7 && bitsAt w 20 5 == 0x0#5 && bitsAt w 15 5 == 0x0#5 then some (.recvf (bitsAt w 7 5))
  else none

/-- Rows of opcode 0x7B, funct3 2. -/
def decodeCustom32 (w : IWord) : Option Instr :=
  if bitsAt w 25 7 == 0x0#7 && bitsAt w 20 5 == 0x0#5 then some (.timerf (bitsAt w 15 5) (bitsAt w 7 5))
  else if bitsAt w 25 7 == 0x1#7 && bitsAt w 20 5 == 0x0#5 && bitsAt w 15 5 == 0x0#5 && bitsAt w 7 5 == 0x0#5 then some (.specb)
  else if bitsAt w 25 7 == 0x2#7 && bitsAt w 20 5 == 0x0#5 && bitsAt w 15 5 == 0x0#5 && bitsAt w 7 5 == 0x0#5 then some (.specc)
  else if bitsAt w 25 7 == 0x3#7 && bitsAt w 20 5 == 0x0#5 && bitsAt w 15 5 == 0x0#5 && bitsAt w 7 5 == 0x0#5 then some (.speca)
  else none

/-- Rows of opcode 0x7B, funct3 3. -/
def decodeCustom33 (w : IWord) : Option Instr :=
  if bitsAt w 26 6 == 0x0#6 && bitsAt w 15 5 == 0x0#5 then some (.bget (bitsAt w 25 1) (bitsAt w 20 5) (bitsAt w 7 5))
  else if bitsAt w 26 6 == 0x1#6 && bitsAt w 15 5 == 0x0#5 then some (.bpeek (bitsAt w 25 1) (bitsAt w 20 5) (bitsAt w 7 5))
  else if bitsAt w 26 6 == 0x2#6 && bitsAt w 15 5 == 0x0#5 && bitsAt w 7 5 == 0x0#5 then some (.bskip (bitsAt w 25 1) (bitsAt w 20 5))
  else if bitsAt w 26 6 == 0x3#6 && bitsAt w 7 5 == 0x0#5 then some (.bsopen (bitsAt w 25 1) (bitsAt w 20 5) (bitsAt w 15 5))
  else if bitsAt w 25 7 == 0x8#7 && bitsAt w 20 5 == 0x0#5 && bitsAt w 15 5 == 0x0#5 && bitsAt w 7 5 == 0x0#5 then some (.balign)
  else if bitsAt w 25 7 == 0xA#7 then some (.blzc (bitsAt w 20 5) (bitsAt w 15 5) (bitsAt w 7 5))
  else none

/-- Rows of opcode 0x7B, funct3 4. -/
def decodeCustom34 (w : IWord) : Option Instr :=
  if bitsAt w 25 7 == 0x0#7 && bitsAt w 20 5 == 0x0#5 && bitsAt w 7 5 == 0x0#5 then some (.tresume (bitsAt w 15 5))
  else if bitsAt w 25 7 == 0x1#7 && bitsAt w 20 5 == 0x0#5 && bitsAt w 7 5 == 0x0#5 then some (.tkill (bitsAt w 15 5))
  else if bitsAt w 25 7 == 0x2#7 then some (.swapctx (bitsAt w 20 5) (bitsAt w 15 5) (bitsAt w 7 5))
  else if bitsAt w 25 7 == 0x3#7 then some (.loadctx (bitsAt w 20 5) (bitsAt w 15 5) (bitsAt w 7 5))
  else none

/-- Rows of opcode 0x7B, funct3 5. -/
def decodeCustom35 (w : IWord) : Option Instr :=
  if bitsAt w 25 7 == 0x0#7 && bitsAt w 20 5 == 0x0#5 && bitsAt w 15 5 == 0x0#5 && bitsAt w 7 5 == 0x0#5 then some (.hdone)
  else if bitsAt w 25 7 == 0x1#7 && bitsAt w 20 5 == 0x0#5 then some (.rtrd (bitsAt w 15 5) (bitsAt w 7 5))
  else if bitsAt w 25 7 == 0x2#7 && bitsAt w 7 5 == 0x0#5 then some (.rtwr (bitsAt w 20 5) (bitsAt w 15 5))
  else none

/-- Rows of opcode 0x7B. -/
def decodeCustom3 (w : IWord) : Option Instr :=
  match (bitsAt w 12 3).toNat with
  | 0 => decodeCustom30 w
  | 1 => decodeCustom31 w
  | 2 => decodeCustom32 w
  | 3 => decodeCustom33 w
  | 4 => decodeCustom34 w
  | 5 => decodeCustom35 w
  | _ => none

/-- The row whose fixed fields the word carries (R63 to R70). -/
def decodeRow (w : IWord) : Option Instr :=
  match (bitsAt w 0 7).toNat with
  | 0x03 => decodeLoad w
  | 0x0B => decodeCustom0 w
  | 0x0F => decodeMiscMem w
  | 0x13 => decodeOpImm w
  | 0x17 => decodeAuipc w
  | 0x1B => decodeOpImm32 w
  | 0x23 => decodeStore w
  | 0x2B => decodeCustom1 w
  | 0x2F => decodeAmo w
  | 0x33 => decodeOp w
  | 0x37 => decodeLui w
  | 0x3B => decodeOp32 w
  | 0x5B => decodeCustom2 w
  | 0x63 => decodeBranch w
  | 0x67 => decodeJalr w
  | 0x6F => decodeJal w
  | 0x73 => decodeSystem w
  | 0x7B => decodeCustom3 w
  | _ => none

/-- The major opcodes that hold instructions (R63). -/
def opcodeAllocated (op : BitVec 7) : Bool :=
  [0x03, 0x0B, 0x0F, 0x13, 0x17, 0x1B, 0x23, 0x2B, 0x2F, 0x33, 0x37, 0x3B, 0x5B, 0x63, 0x67, 0x6F, 0x73, 0x7B].contains op.toNat

/-- Decodes one word: its row and the legality of its fields (R71). -/
def decodeWord (w : IWord) : Except DecodeError Instr :=
  match decodeRow w with
  | some i => if i.wf then .ok i else .error .field
  | none =>
    if bitsAt w 0 2 != 0b11#2 then .error .notFourByte
    else if opcodeAllocated (bitsAt w 0 7) then .error .row else .error .opcode

/-- The word of four bytes, the first byte least significant (R2). -/
def wordOfBytes (b0 b1 b2 b3 : Byte) : IWord := b3 ++ b2 ++ b1 ++ b0

/-- Decodes the instruction at the head of a byte sequence and answers the bytes after it; total on any bytes. -/
def decode : List Byte → Except DecodeError (Instr × List Byte)
  | b0 :: b1 :: b2 :: b3 :: rest =>
    match decodeWord (wordOfBytes b0 b1 b2 b3) with
    | .ok i => .ok (i, rest)
    | .error e => .error e
  | _ => .error .short

/-- Four bytes of a word as the hardware stores them (R2). -/
def bytesOfWord (w : IWord) : List Byte :=
  [w.extractLsb' 0 8, w.extractLsb' 8 8, w.extractLsb' 16 8, w.extractLsb' 24 8]

/-- What the decoder reads from an instruction of nbits bits whose bits are w, bit 0 the least significant. -/
def decodeTableWord (nbits w : Nat) : Option Instr :=
  if nbits = 0 then none
  else match decode (bytesOfWord (BitVec.ofNat 32 (w % 2 ^ nbits))) with
    | .ok (i, _) => some i
    | .error _ => none

/-- The word of an instruction (R61 to R70); an event has none. -/
def encode : Instr → Option IWord
  | .lui imm rd => some (imm ++ rd ++ 0x37#7)
  | .auipc imm rd => some (imm ++ rd ++ 0x17#7)
  | .jal imm rd => some (imm ++ rd ++ 0x6F#7)
  | .jalr imm rs1 rd => some (imm ++ rs1 ++ 0x0#3 ++ rd ++ 0x67#7)
  | .beq immHi rs2 rs1 immLo => some (immHi ++ rs2 ++ rs1 ++ 0x0#3 ++ immLo ++ 0x63#7)
  | .bne immHi rs2 rs1 immLo => some (immHi ++ rs2 ++ rs1 ++ 0x1#3 ++ immLo ++ 0x63#7)
  | .blt immHi rs2 rs1 immLo => some (immHi ++ rs2 ++ rs1 ++ 0x4#3 ++ immLo ++ 0x63#7)
  | .bge immHi rs2 rs1 immLo => some (immHi ++ rs2 ++ rs1 ++ 0x5#3 ++ immLo ++ 0x63#7)
  | .bltu immHi rs2 rs1 immLo => some (immHi ++ rs2 ++ rs1 ++ 0x6#3 ++ immLo ++ 0x63#7)
  | .bgeu immHi rs2 rs1 immLo => some (immHi ++ rs2 ++ rs1 ++ 0x7#3 ++ immLo ++ 0x63#7)
  | .lb imm rs1 rd => some (imm ++ rs1 ++ 0x0#3 ++ rd ++ 0x3#7)
  | .lh imm rs1 rd => some (imm ++ rs1 ++ 0x1#3 ++ rd ++ 0x3#7)
  | .lw imm rs1 rd => some (imm ++ rs1 ++ 0x2#3 ++ rd ++ 0x3#7)
  | .ld imm rs1 rd => some (imm ++ rs1 ++ 0x3#3 ++ rd ++ 0x3#7)
  | .lbu imm rs1 rd => some (imm ++ rs1 ++ 0x4#3 ++ rd ++ 0x3#7)
  | .lhu imm rs1 rd => some (imm ++ rs1 ++ 0x5#3 ++ rd ++ 0x3#7)
  | .lwu imm rs1 rd => some (imm ++ rs1 ++ 0x6#3 ++ rd ++ 0x3#7)
  | .sb immHi rs2 rs1 immLo => some (immHi ++ rs2 ++ rs1 ++ 0x0#3 ++ immLo ++ 0x23#7)
  | .sh immHi rs2 rs1 immLo => some (immHi ++ rs2 ++ rs1 ++ 0x1#3 ++ immLo ++ 0x23#7)
  | .sw immHi rs2 rs1 immLo => some (immHi ++ rs2 ++ rs1 ++ 0x2#3 ++ immLo ++ 0x23#7)
  | .sd immHi rs2 rs1 immLo => some (immHi ++ rs2 ++ rs1 ++ 0x3#3 ++ immLo ++ 0x23#7)
  | .addi imm rs1 rd => some (imm ++ rs1 ++ 0x0#3 ++ rd ++ 0x13#7)
  | .slti imm rs1 rd => some (imm ++ rs1 ++ 0x2#3 ++ rd ++ 0x13#7)
  | .sltiu imm rs1 rd => some (imm ++ rs1 ++ 0x3#3 ++ rd ++ 0x13#7)
  | .xori imm rs1 rd => some (imm ++ rs1 ++ 0x4#3 ++ rd ++ 0x13#7)
  | .ori imm rs1 rd => some (imm ++ rs1 ++ 0x6#3 ++ rd ++ 0x13#7)
  | .andi imm rs1 rd => some (imm ++ rs1 ++ 0x7#3 ++ rd ++ 0x13#7)
  | .slli shamt rs1 rd => some (0x0#6 ++ shamt ++ rs1 ++ 0x1#3 ++ rd ++ 0x13#7)
  | .srli shamt rs1 rd => some (0x0#6 ++ shamt ++ rs1 ++ 0x5#3 ++ rd ++ 0x13#7)
  | .srai shamt rs1 rd => some (0x10#6 ++ shamt ++ rs1 ++ 0x5#3 ++ rd ++ 0x13#7)
  | .addiw imm rs1 rd => some (imm ++ rs1 ++ 0x0#3 ++ rd ++ 0x1B#7)
  | .slliw shamt rs1 rd => some (0x0#7 ++ shamt ++ rs1 ++ 0x1#3 ++ rd ++ 0x1B#7)
  | .srliw shamt rs1 rd => some (0x0#7 ++ shamt ++ rs1 ++ 0x5#3 ++ rd ++ 0x1B#7)
  | .sraiw shamt rs1 rd => some (0x20#7 ++ shamt ++ rs1 ++ 0x5#3 ++ rd ++ 0x1B#7)
  | .add rs2 rs1 rd => some (0x0#7 ++ rs2 ++ rs1 ++ 0x0#3 ++ rd ++ 0x33#7)
  | .sub rs2 rs1 rd => some (0x20#7 ++ rs2 ++ rs1 ++ 0x0#3 ++ rd ++ 0x33#7)
  | .sll rs2 rs1 rd => some (0x0#7 ++ rs2 ++ rs1 ++ 0x1#3 ++ rd ++ 0x33#7)
  | .slt rs2 rs1 rd => some (0x0#7 ++ rs2 ++ rs1 ++ 0x2#3 ++ rd ++ 0x33#7)
  | .sltu rs2 rs1 rd => some (0x0#7 ++ rs2 ++ rs1 ++ 0x3#3 ++ rd ++ 0x33#7)
  | .xor rs2 rs1 rd => some (0x0#7 ++ rs2 ++ rs1 ++ 0x4#3 ++ rd ++ 0x33#7)
  | .srl rs2 rs1 rd => some (0x0#7 ++ rs2 ++ rs1 ++ 0x5#3 ++ rd ++ 0x33#7)
  | .sra rs2 rs1 rd => some (0x20#7 ++ rs2 ++ rs1 ++ 0x5#3 ++ rd ++ 0x33#7)
  | .or rs2 rs1 rd => some (0x0#7 ++ rs2 ++ rs1 ++ 0x6#3 ++ rd ++ 0x33#7)
  | .and rs2 rs1 rd => some (0x0#7 ++ rs2 ++ rs1 ++ 0x7#3 ++ rd ++ 0x33#7)
  | .addw rs2 rs1 rd => some (0x0#7 ++ rs2 ++ rs1 ++ 0x0#3 ++ rd ++ 0x3B#7)
  | .subw rs2 rs1 rd => some (0x20#7 ++ rs2 ++ rs1 ++ 0x0#3 ++ rd ++ 0x3B#7)
  | .sllw rs2 rs1 rd => some (0x0#7 ++ rs2 ++ rs1 ++ 0x1#3 ++ rd ++ 0x3B#7)
  | .srlw rs2 rs1 rd => some (0x0#7 ++ rs2 ++ rs1 ++ 0x5#3 ++ rd ++ 0x3B#7)
  | .sraw rs2 rs1 rd => some (0x20#7 ++ rs2 ++ rs1 ++ 0x5#3 ++ rd ++ 0x3B#7)
  | .mul rs2 rs1 rd => some (0x1#7 ++ rs2 ++ rs1 ++ 0x0#3 ++ rd ++ 0x33#7)
  | .mulh rs2 rs1 rd => some (0x1#7 ++ rs2 ++ rs1 ++ 0x1#3 ++ rd ++ 0x33#7)
  | .mulhsu rs2 rs1 rd => some (0x1#7 ++ rs2 ++ rs1 ++ 0x2#3 ++ rd ++ 0x33#7)
  | .mulhu rs2 rs1 rd => some (0x1#7 ++ rs2 ++ rs1 ++ 0x3#3 ++ rd ++ 0x33#7)
  | .mulw rs2 rs1 rd => some (0x1#7 ++ rs2 ++ rs1 ++ 0x0#3 ++ rd ++ 0x3B#7)
  | .div rs2 rs1 rd => some (0x1#7 ++ rs2 ++ rs1 ++ 0x4#3 ++ rd ++ 0x33#7)
  | .divu rs2 rs1 rd => some (0x1#7 ++ rs2 ++ rs1 ++ 0x5#3 ++ rd ++ 0x33#7)
  | .rem rs2 rs1 rd => some (0x1#7 ++ rs2 ++ rs1 ++ 0x6#3 ++ rd ++ 0x33#7)
  | .remu rs2 rs1 rd => some (0x1#7 ++ rs2 ++ rs1 ++ 0x7#3 ++ rd ++ 0x33#7)
  | .divw rs2 rs1 rd => some (0x1#7 ++ rs2 ++ rs1 ++ 0x4#3 ++ rd ++ 0x3B#7)
  | .divuw rs2 rs1 rd => some (0x1#7 ++ rs2 ++ rs1 ++ 0x5#3 ++ rd ++ 0x3B#7)
  | .remw rs2 rs1 rd => some (0x1#7 ++ rs2 ++ rs1 ++ 0x6#3 ++ rd ++ 0x3B#7)
  | .remuw rs2 rs1 rd => some (0x1#7 ++ rs2 ++ rs1 ++ 0x7#3 ++ rd ++ 0x3B#7)
  | .fence fm pred succ => some (fm ++ pred ++ succ ++ 0x0#5 ++ 0x0#3 ++ 0x0#5 ++ 0xF#7)
  | .ecall => some (0x0#7 ++ 0x0#5 ++ 0x0#5 ++ 0x0#3 ++ 0x0#5 ++ 0x73#7)
  | .ebreak => some (0x0#7 ++ 0x1#5 ++ 0x0#5 ++ 0x0#3 ++ 0x0#5 ++ 0x73#7)
  | .csrrw csr rs1 rd => some (csr ++ rs1 ++ 0x1#3 ++ rd ++ 0x73#7)
  | .csrrs csr rs1 rd => some (csr ++ rs1 ++ 0x2#3 ++ rd ++ 0x73#7)
  | .csrrc csr rs1 rd => some (csr ++ rs1 ++ 0x3#3 ++ rd ++ 0x73#7)
  | .csrrwi csr uimm rd => some (csr ++ uimm ++ 0x5#3 ++ rd ++ 0x73#7)
  | .csrrsi csr uimm rd => some (csr ++ uimm ++ 0x6#3 ++ rd ++ 0x73#7)
  | .csrrci csr uimm rd => some (csr ++ uimm ++ 0x7#3 ++ rd ++ 0x73#7)
  | .lr aq rl rs1 dbl rd => some (0x2#5 ++ aq ++ rl ++ 0x0#5 ++ rs1 ++ 0x1#2 ++ dbl ++ rd ++ 0x2F#7)
  | .sc aq rl rs2 rs1 dbl rd => some (0x3#5 ++ aq ++ rl ++ rs2 ++ rs1 ++ 0x1#2 ++ dbl ++ rd ++ 0x2F#7)
  | .amoswap aq rl rs2 rs1 dbl rd => some (0x1#5 ++ aq ++ rl ++ rs2 ++ rs1 ++ 0x1#2 ++ dbl ++ rd ++ 0x2F#7)
  | .amoadd aq rl rs2 rs1 dbl rd => some (0x0#5 ++ aq ++ rl ++ rs2 ++ rs1 ++ 0x1#2 ++ dbl ++ rd ++ 0x2F#7)
  | .amoxor aq rl rs2 rs1 dbl rd => some (0x4#5 ++ aq ++ rl ++ rs2 ++ rs1 ++ 0x1#2 ++ dbl ++ rd ++ 0x2F#7)
  | .amoand aq rl rs2 rs1 dbl rd => some (0xC#5 ++ aq ++ rl ++ rs2 ++ rs1 ++ 0x1#2 ++ dbl ++ rd ++ 0x2F#7)
  | .amoor aq rl rs2 rs1 dbl rd => some (0x8#5 ++ aq ++ rl ++ rs2 ++ rs1 ++ 0x1#2 ++ dbl ++ rd ++ 0x2F#7)
  | .amomin aq rl rs2 rs1 dbl rd => some (0x10#5 ++ aq ++ rl ++ rs2 ++ rs1 ++ 0x1#2 ++ dbl ++ rd ++ 0x2F#7)
  | .amomax aq rl rs2 rs1 dbl rd => some (0x14#5 ++ aq ++ rl ++ rs2 ++ rs1 ++ 0x1#2 ++ dbl ++ rd ++ 0x2F#7)
  | .amominu aq rl rs2 rs1 dbl rd => some (0x18#5 ++ aq ++ rl ++ rs2 ++ rs1 ++ 0x1#2 ++ dbl ++ rd ++ 0x2F#7)
  | .amomaxu aq rl rs2 rs1 dbl rd => some (0x1C#5 ++ aq ++ rl ++ rs2 ++ rs1 ++ 0x1#2 ++ dbl ++ rd ++ 0x2F#7)
  | .fstat file reg rd => some (0x0#7 ++ 0x0#3 ++ file ++ reg ++ 0x0#3 ++ rd ++ 0xB#7)
  | .mvf file reg rd => some (0x1#7 ++ 0x0#3 ++ file ++ reg ++ 0x0#3 ++ rd ++ 0xB#7)
  | .fwait file reg => some (0x2#7 ++ 0x0#3 ++ file ++ reg ++ 0x0#3 ++ 0x0#5 ++ 0xB#7)
  | .waitany rs1 rd => some (0x3#7 ++ 0x0#5 ++ rs1 ++ 0x0#3 ++ rd ++ 0xB#7)
  | .fdrop file reg => some (0x4#7 ++ 0x0#3 ++ file ++ 0x0#5 ++ 0x0#3 ++ reg ++ 0xB#7)
  | .fpoison file rs1 reg => some (0x5#7 ++ 0x0#3 ++ file ++ rs1 ++ 0x0#3 ++ reg ++ 0xB#7)
  | .lacq scope rs1 rd => some (0x0#3 ++ scope ++ 0x0#5 ++ rs1 ++ 0x1#3 ++ rd ++ 0xB#7)
  | .lacqw scope rs1 rd => some (0x1#3 ++ scope ++ 0x0#5 ++ rs1 ++ 0x1#3 ++ rd ++ 0xB#7)
  | .srel scope rs2 rs1 => some (0x2#3 ++ scope ++ rs2 ++ rs1 ++ 0x1#3 ++ 0x0#5 ++ 0xB#7)
  | .srelw scope rs2 rs1 => some (0x3#3 ++ scope ++ rs2 ++ rs1 ++ 0x1#3 ++ 0x0#5 ++ 0xB#7)
  | .fences scope succ pred => some (0x4#3 ++ scope ++ 0x0#1 ++ succ ++ 0x0#1 ++ pred ++ 0x1#3 ++ 0x0#5 ++ 0xB#7)
  | .owne rs1 => some (0x0#7 ++ 0x0#5 ++ rs1 ++ 0x2#3 ++ 0x0#5 ++ 0xB#7)
  | .ownt rs1 => some (0x1#7 ++ 0x0#5 ++ rs1 ++ 0x2#3 ++ 0x0#5 ++ 0xB#7)
  | .ownq rs1 rd => some (0x2#7 ++ 0x0#5 ++ rs1 ++ 0x2#3 ++ rd ++ 0xB#7)
  | .binit barHi rs1 bar => some (0x0#6 ++ barHi ++ 0x0#5 ++ rs1 ++ 0x3#3 ++ bar ++ 0xB#7)
  | .barv barHi bar => some (0x1#6 ++ barHi ++ 0x0#5 ++ 0x0#5 ++ 0x3#3 ++ bar ++ 0xB#7)
  | .bexp barHi rs1 bar => some (0x2#6 ++ barHi ++ 0x0#5 ++ rs1 ++ 0x3#3 ++ bar ++ 0xB#7)
  | .bwait barHi rd phase bar => some (0x3#6 ++ barHi ++ rd ++ 0x0#4 ++ phase ++ 0x3#3 ++ bar ++ 0xB#7)
  | .bquery barHi rd bar => some (0x4#6 ++ barHi ++ rd ++ 0x0#5 ++ 0x3#3 ++ bar ++ 0xB#7)
  | .qpush rs2 q => some (0x0#7 ++ rs2 ++ 0x0#2 ++ q ++ 0x4#3 ++ 0x0#5 ++ 0xB#7)
  | .qpop q rd => some (0x1#7 ++ 0x0#5 ++ 0x0#2 ++ q ++ 0x4#3 ++ rd ++ 0xB#7)
  | .qlen q rd => some (0x2#7 ++ 0x0#5 ++ 0x0#2 ++ q ++ 0x4#3 ++ rd ++ 0xB#7)
  | .block rs1 => some (0x0#7 ++ 0x0#5 ++ rs1 ++ 0x5#3 ++ 0x0#5 ++ 0xB#7)
  | .bunlock rs1 => some (0x1#7 ++ 0x0#5 ++ rs1 ++ 0x5#3 ++ 0x0#5 ++ 0xB#7)
  | .mldAddr rs1 md => some (0x0#7 ++ 0x0#5 ++ rs1 ++ 0x0#3 ++ 0x0#2 ++ md ++ 0x2B#7)
  | .mldStream as md => some (0x8#7 ++ 0x0#5 ++ 0x0#3 ++ as ++ 0x0#3 ++ 0x0#2 ++ md ++ 0x2B#7)
  | .mstAddr rm sat fmt rs1 cs => some (0x2#4 ++ rm ++ sat ++ fmt ++ rs1 ++ 0x0#3 ++ 0x0#3 ++ cs ++ 0x2B#7)
  | .mstStream rm sat fmt as cs => some (0x3#4 ++ rm ++ sat ++ fmt ++ 0x0#3 ++ as ++ 0x0#3 ++ 0x0#3 ++ cs ++ 0x2B#7)
  | .mzero cd => some (0x0#7 ++ 0x0#5 ++ 0x0#5 ++ 0x1#3 ++ 0x0#3 ++ cd ++ 0x2B#7)
  | .mmovv rm cs md => some (0x1#4 ++ rm ++ 0x0#5 ++ 0x0#3 ++ cs ++ 0x1#3 ++ 0x0#2 ++ md ++ 0x2B#7)
  | .mdot mb ma cd => some (0x0#7 ++ 0x0#2 ++ mb ++ 0x0#2 ++ ma ++ 0x2#3 ++ 0x0#3 ++ cd ++ 0x2B#7)
  | .mdots mb ma cd => some (0x1#7 ++ 0x0#2 ++ mb ++ 0x0#2 ++ ma ++ 0x2#3 ++ 0x0#3 ++ cd ++ 0x2B#7)
  | .asset field rs1 as => some (0x0#5 ++ field ++ 0x0#5 ++ rs1 ++ 0x3#3 ++ 0x0#3 ++ as ++ 0x2B#7)
  | .rpt lenm1 rs1 => some (0x10#7 ++ 0x0#2 ++ lenm1 ++ rs1 ++ 0x3#3 ++ 0x0#5 ++ 0x2B#7)
  | .cpw ch idx rs1 => some (0x0#5 ++ ch ++ idx ++ rs1 ++ 0x4#3 ++ 0x0#5 ++ 0x2B#7)
  | .cpr ch idx rd => some (0x1#5 ++ ch ++ idx ++ 0x0#5 ++ 0x4#3 ++ rd ++ 0x2B#7)
  | .cpgo ch rd => some (0x0#5 ++ ch ++ 0x0#5 ++ 0x0#5 ++ 0x5#3 ++ rd ++ 0x2B#7)
  | .cpcancel ch => some (0x1#5 ++ ch ++ 0x0#5 ++ 0x0#5 ++ 0x5#3 ++ 0x0#5 ++ 0x2B#7)
  | .mcfree rs1 => some (0x8#7 ++ 0x0#5 ++ rs1 ++ 0x5#3 ++ 0x0#5 ++ 0x2B#7)
  | .tdisc scope rs1 rd => some (0x0#3 ++ scope ++ 0x0#5 ++ rs1 ++ 0x6#3 ++ rd ++ 0x2B#7)
  | .lpin rs2 rs1 => some (0x10#7 ++ rs2 ++ rs1 ++ 0x6#3 ++ 0x0#5 ++ 0x2B#7)
  | .lunpin rs2 rs1 => some (0x20#7 ++ rs2 ++ rs1 ++ 0x6#3 ++ 0x0#5 ++ 0x2B#7)
  | .rprobe rs1 rd => some (0x0#7 ++ 0x0#5 ++ rs1 ++ 0x7#3 ++ rd ++ 0x2B#7)
  | .rloadt rs1 rd => some (0x10#7 ++ 0x0#5 ++ rs1 ++ 0x7#3 ++ rd ++ 0x2B#7)
  | .rsplit rs2 rs1 rd => some (0x20#7 ++ rs2 ++ rs1 ++ 0x7#3 ++ rd ++ 0x2B#7)
  | .rmerge rs1 rd => some (0x30#7 ++ 0x0#5 ++ rs1 ++ 0x7#3 ++ rd ++ 0x2B#7)
  | .rsetres rs2 rs1 => some (0x40#7 ++ rs2 ++ rs1 ++ 0x7#3 ++ 0x0#5 ++ 0x2B#7)
  | .rclrres rs2 rs1 => some (0x50#7 ++ rs2 ++ rs1 ++ 0x7#3 ++ 0x0#5 ++ 0x2B#7)
  | .rinv scope rs2 rs1 rd => some (0x6#3 ++ scope ++ rs2 ++ rs1 ++ 0x7#3 ++ rd ++ 0x2B#7)
  | .rglean rs2 rs1 rd => some (0x70#7 ++ rs2 ++ rs1 ++ 0x7#3 ++ rd ++ 0x2B#7)
  | .vadd rs2 rs1 ty rd => some (0x0#7 ++ rs2 ++ rs1 ++ ty ++ rd ++ 0x5B#7)
  | .vsub rs2 rs1 ty rd => some (0x2#7 ++ rs2 ++ rs1 ++ ty ++ rd ++ 0x5B#7)
  | .vmul rs2 rs1 ty rd => some (0x4#7 ++ rs2 ++ rs1 ++ ty ++ rd ++ 0x5B#7)
  | .vmin rs2 rs1 ty rd => some (0x6#7 ++ rs2 ++ rs1 ++ ty ++ rd ++ 0x5B#7)
  | .vmax rs2 rs1 ty rd => some (0x8#7 ++ rs2 ++ rs1 ++ ty ++ rd ++ 0x5B#7)
  | .vabs rs1 ty rd => some (0xA#7 ++ 0x0#5 ++ rs1 ++ ty ++ rd ++ 0x5B#7)
  | .vneg rs1 ty rd => some (0xC#7 ++ 0x0#5 ++ rs1 ++ ty ++ rd ++ 0x5B#7)
  | .vcmpeq rs2 rs1 ty rd => some (0xE#7 ++ rs2 ++ rs1 ++ ty ++ rd ++ 0x5B#7)
  | .vcmplt rs2 rs1 ty rd => some (0x10#7 ++ rs2 ++ rs1 ++ ty ++ rd ++ 0x5B#7)
  | .vcmple rs2 rs1 ty rd => some (0x12#7 ++ rs2 ++ rs1 ++ ty ++ rd ++ 0x5B#7)
  | .vand rs2 rs1 rd => some (0x14#7 ++ rs2 ++ rs1 ++ 0x5#3 ++ rd ++ 0x5B#7)
  | .vor rs2 rs1 rd => some (0x16#7 ++ rs2 ++ rs1 ++ 0x5#3 ++ rd ++ 0x5B#7)
  | .vxor rs2 rs1 rd => some (0x18#7 ++ rs2 ++ rs1 ++ 0x5#3 ++ rd ++ 0x5B#7)
  | .vnot rs1 rd => some (0x1A#7 ++ 0x0#5 ++ rs1 ++ 0x5#3 ++ rd ++ 0x5B#7)
  | .vsll rs2 rs1 ty rd => some (0x1C#7 ++ rs2 ++ rs1 ++ ty ++ rd ++ 0x5B#7)
  | .vsrl rs2 rs1 ty rd => some (0x1E#7 ++ rs2 ++ rs1 ++ ty ++ rd ++ 0x5B#7)
  | .vsra rs2 rs1 ty rd => some (0x20#7 ++ rs2 ++ rs1 ++ ty ++ rd ++ 0x5B#7)
  | .vexp2 rs1 ty rd => some (0x22#7 ++ 0x0#5 ++ rs1 ++ ty ++ rd ++ 0x5B#7)
  | .vlog2 rs1 ty rd => some (0x24#7 ++ 0x0#5 ++ rs1 ++ ty ++ rd ++ 0x5B#7)
  | .vrcp rs1 ty rd => some (0x26#7 ++ 0x0#5 ++ rs1 ++ ty ++ rd ++ 0x5B#7)
  | .vrsq rs1 ty rd => some (0x28#7 ++ 0x0#5 ++ rs1 ++ ty ++ rd ++ 0x5B#7)
  | .vredsum rs1 ty rd => some (0x2A#7 ++ 0x0#5 ++ rs1 ++ ty ++ rd ++ 0x5B#7)
  | .vredmax rs1 ty rd => some (0x2C#7 ++ 0x0#5 ++ rs1 ++ ty ++ rd ++ 0x5B#7)
  | .vredmin rs1 ty rd => some (0x2E#7 ++ 0x0#5 ++ rs1 ++ ty ++ rd ++ 0x5B#7)
  | .vld rs1 rd => some (0x30#7 ++ 0x0#5 ++ rs1 ++ 0x5#3 ++ rd ++ 0x5B#7)
  | .vst rs1 rd => some (0x32#7 ++ 0x0#5 ++ rs1 ++ 0x5#3 ++ rd ++ 0x5B#7)
  | .vlds rs2 rs1 rd => some (0x34#7 ++ rs2 ++ rs1 ++ 0x5#3 ++ rd ++ 0x5B#7)
  | .vsts rs2 rs1 rd => some (0x36#7 ++ rs2 ++ rs1 ++ 0x5#3 ++ rd ++ 0x5B#7)
  | .vgath rs2 rs1 ty rd => some (0x38#7 ++ rs2 ++ rs1 ++ ty ++ rd ++ 0x5B#7)
  | .vscat rs2 rs1 ty rd => some (0x3A#7 ++ rs2 ++ rs1 ++ ty ++ rd ++ 0x5B#7)
  | .vperm rs2 rs1 ty rd => some (0x3C#7 ++ rs2 ++ rs1 ++ ty ++ rd ++ 0x5B#7)
  | .vbcast rs2 rs1 ty rd => some (0x3E#7 ++ rs2 ++ rs1 ++ ty ++ rd ++ 0x5B#7)
  | .vslup rs2 rs1 ty rd => some (0x40#7 ++ rs2 ++ rs1 ++ ty ++ rd ++ 0x5B#7)
  | .vsldn rs2 rs1 ty rd => some (0x42#7 ++ rs2 ++ rs1 ++ ty ++ rd ++ 0x5B#7)
  | .vsplat rs1 ty rd => some (0x44#7 ++ 0x0#5 ++ rs1 ++ ty ++ rd ++ 0x5B#7)
  | .vins rs2 rs1 ty rd => some (0x46#7 ++ rs2 ++ rs1 ++ ty ++ rd ++ 0x5B#7)
  | .vext rs2 rs1 ty rd => some (0x48#7 ++ rs2 ++ rs1 ++ ty ++ rd ++ 0x5B#7)
  | .vfma rs3 rs2 rs1 ty rd => some (rs3 ++ 0x1#2 ++ rs2 ++ rs1 ++ ty ++ rd ++ 0x5B#7)
  | .vsel rs3 rs2 rs1 ty rd => some (rs3 ++ 0x3#2 ++ rs2 ++ rs1 ++ ty ++ rd ++ 0x5B#7)
  | .vcvt src rm sat dst vs1 vd => some (src ++ rm ++ sat ++ dst ++ vs1 ++ 0x7#3 ++ vd ++ 0x5B#7)
  | .vqmx rm fmt vs1 vd => some (0x0#2 ++ rm ++ 0x0#2 ++ 0x0#1 ++ fmt ++ vs1 ++ 0x6#3 ++ vd ++ 0x5B#7)
  | .vdqmx fmt vs1 vd => some (0x20#7 ++ 0x0#1 ++ fmt ++ vs1 ++ 0x6#3 ++ vd ++ 0x5B#7)
  | .spawn rs1 rd => some (0x0#7 ++ 0x0#5 ++ rs1 ++ 0x0#3 ++ rd ++ 0x7B#7)
  | .done => some (0x1#7 ++ 0x0#5 ++ 0x0#5 ++ 0x0#3 ++ 0x0#5 ++ 0x7B#7)
  | .yield => some (0x2#7 ++ 0x0#5 ++ 0x0#5 ++ 0x0#3 ++ 0x0#5 ++ 0x7B#7)
  | .send rs2 rs1 rd => some (0x0#7 ++ rs2 ++ rs1 ++ 0x1#3 ++ rd ++ 0x7B#7)
  | .sendt rs2 rs1 rd => some (0x1#7 ++ rs2 ++ rs1 ++ 0x1#3 ++ rd ++ 0x7B#7)
  | .recvf rd => some (0x2#7 ++ 0x0#5 ++ 0x0#5 ++ 0x1#3 ++ rd ++ 0x7B#7)
  | .timerf rs1 rd => some (0x0#7 ++ 0x0#5 ++ rs1 ++ 0x2#3 ++ rd ++ 0x7B#7)
  | .specb => some (0x1#7 ++ 0x0#5 ++ 0x0#5 ++ 0x2#3 ++ 0x0#5 ++ 0x7B#7)
  | .specc => some (0x2#7 ++ 0x0#5 ++ 0x0#5 ++ 0x2#3 ++ 0x0#5 ++ 0x7B#7)
  | .speca => some (0x3#7 ++ 0x0#5 ++ 0x0#5 ++ 0x2#3 ++ 0x0#5 ++ 0x7B#7)
  | .bget nHi nLo rd => some (0x0#6 ++ nHi ++ nLo ++ 0x0#5 ++ 0x3#3 ++ rd ++ 0x7B#7)
  | .bpeek nHi nLo rd => some (0x1#6 ++ nHi ++ nLo ++ 0x0#5 ++ 0x3#3 ++ rd ++ 0x7B#7)
  | .bskip nHi nLo => some (0x2#6 ++ nHi ++ nLo ++ 0x0#5 ++ 0x3#3 ++ 0x0#5 ++ 0x7B#7)
  | .bsopen order rs2 rs1 => some (0x3#6 ++ order ++ rs2 ++ rs1 ++ 0x3#3 ++ 0x0#5 ++ 0x7B#7)
  | .balign => some (0x8#7 ++ 0x0#5 ++ 0x0#5 ++ 0x3#3 ++ 0x0#5 ++ 0x7B#7)
  | .blzc rs2 rs1 rd => some (0xA#7 ++ rs2 ++ rs1 ++ 0x3#3 ++ rd ++ 0x7B#7)
  | .tresume rs1 => some (0x0#7 ++ 0x0#5 ++ rs1 ++ 0x4#3 ++ 0x0#5 ++ 0x7B#7)
  | .tkill rs1 => some (0x1#7 ++ 0x0#5 ++ rs1 ++ 0x4#3 ++ 0x0#5 ++ 0x7B#7)
  | .swapctx rs2 rs1 rd => some (0x2#7 ++ rs2 ++ rs1 ++ 0x4#3 ++ rd ++ 0x7B#7)
  | .loadctx rs2 rs1 rd => some (0x3#7 ++ rs2 ++ rs1 ++ 0x4#3 ++ rd ++ 0x7B#7)
  | .hdone => some (0x0#7 ++ 0x0#5 ++ 0x0#5 ++ 0x5#3 ++ 0x0#5 ++ 0x7B#7)
  | .rtrd rs1 rd => some (0x1#7 ++ 0x0#5 ++ rs1 ++ 0x5#3 ++ rd ++ 0x7B#7)
  | .rtwr rs2 rs1 => some (0x2#7 ++ rs2 ++ rs1 ++ 0x5#3 ++ 0x0#5 ++ 0x7B#7)
  | .parkLimit _ _ => none
  | .icacheFill _ => none
  | .claimDelivery _ _ => none
  | .divideComplete _ _ => none
  | .vectorStageEnter _ => none
  | .vectorLongComplete _ => none
  | .storeBufferSend _ => none
  | .accessHoldRelease _ _ => none
  | .homeLoad _ => none
  | .homeStore _ => none
  | .homeAmo _ => none
  | .storeFail _ => none
  | .transferPerform _ => none
  | .mdotComplete _ => none
  | .blzcGroup _ => none
  | .lockBreak _ _ => none
  | .walk _ => none
  | .walkFill _ => none
  | .rinvAck _ => none
  | .gleanUnit _ => none
  | .gleanFinish _ => none
  | .copy _ _ _ => none
  | .redadd _ _ _ => none
  | .qf8 _ _ _ => none
  | .mxq _ _ _ => none
  | .mcast _ _ _ => none
  | .copyEnd _ _ => none
  | .channelResume _ => none
  | .channelAbort _ => none
  | .inboundSegment _ => none
  | .mcastReceive _ => none
  | .remoteBarrierEvent _ => none
  | .bufferFree _ => none
  | .rmaSegmentSend _ _ => none
  | .data _ _ _ _ _ _ _ _ => none
  | .ack _ _ _ _ _ => none
  | .nackBudget _ _ _ _ _ => none
  | .nackRefused _ _ _ _ _ => none
  | .rmaTimer _ _ _ => none
  | .routerForward _ => none
  | .whereProbe _ _ => none
  | .whereReflood _ _ => none
  | .hereReply _ _ => none
  | .unknownName _ => none
  | .blocked _ => none
  | .moved _ => none
  | .errorResponse _ => none
  | .greeting _ _ _ _ => none
  | .linkTimeout _ _ _ => none
  | .noResponse _ => none
  | .budgetPeriod _ _ => none
  | .bringUp => none
  | .clockLock _ _ _ => none
  | .siteGreeted _ => none
  | .greetTimeout _ => none
  | .selfTestFail _ => none
  | .configRecord _ _ _ _ _ _ _ _ _ => none
  | .configCommit _ => none
  | .sitePacket _ => none
  | .jobEnd _ => none
  | .baseDieError _ => none
  | .clockSwitch _ => none
  | .relockDone _ => none
  | .dispatch _ => none
  | .sendLanding _ => none
  | .sendtLanding _ => none
  | .idleSteal _ => none
  | .stealRequest _ => none
  | .stealAnswer _ => none
  | .stealBackoff _ => none
  | .timerExpiry _ _ => none
  | .notification _ => none
  | .noteRetry _ => none
  | .handlerEntry _ => none
  | .tresumeApply _ => none
  | .tkillApply _ => none
  | .windowWrite _ => none
  | .saveCapture _ => none
  | .imageWriteDone _ => none
  | .restoreApply _ => none
  | .regwrite _ _ _ _ _ => none
  | .regread _ _ _ _ => none
  | .queueDoorbell _ _ _ => none
  | .queueRestart _ _ => none
  | .peerEntryWrite _ _ _ => none
  | .routeEntryWrite _ => none
  | .physSelectWrite _ => none
  | .load _ _ _ _ => none
  | .unload _ _ _ => none
  | .siteFence _ => none
  | .siteReset _ => none
  | .siteRetire _ => none
  | .slotResume _ _ => none
  | .processorResume _ => none
  | .attest _ _ => none
  | .nop _ _ => none
  | .launch _ _ => none
  | .launchStart _ _ => none
  | .launchComplete _ _ => none
  | .queueCopy _ _ => none
  | .queueCopyComplete _ _ => none
  | .waitge _ _ => none
  | .semaphoreReport _ => none
  | .waitgeTimeout _ _ => none
  | .signal _ _ => none
  | .interrupt _ _ => none
  | .queueFence _ _ => none
  | .jump _ _ => none
  | .mark _ _ => none
  | .illegalWord _ => none
  | .directoryUpdate _ => none
  | .cacheControlRequest _ => none
  | .homeBitClear _ _ => none
  | .powerLoss => none

/-- The word of an instruction as a trap reports it, zero-extended to 64 bits (R71); zero for an event. -/
def wordOf (i : Instr) : Word := ((encode i).getD 0).setWidth 64

end Sys2Proof
end

