-- ==== Sys2Proof/Config.lean ====
section
/-! DEFINITION. What the manual leaves open, as constants without a body (log 2, 3, 10), and the few figures of R8 to R18. -/

namespace Sys2Proof

/-- Which agent moves next: a core takes its next cycle, or an event of the table happens (log 2). -/
inductive Mover where
  /-- the core takes its next cycle, with the turn of the slot that owns it (R15) -/
  | turn (core : Nat)
  /-- an event of the table happens -/
  | event (i : Instr)
  /-- the control node writes bytes of DRAM over the control link of a chiplet (R378, R380) -/
  | hostWrite (proc : Nat) (part : BitVec 4) (pa : BitVec 43) (bytes : List (BitVec 8))
  /-- the check bits of a block meet an error: one that they correct, or one that they cannot (R147) -/
  | memError (line : Nat) (hard : Bool)
  deriving DecidableEq, Repr, Inhabited

/-- The agent that moves after move n: no order is fixed between agents (R15, R94, R152; log 2). -/
opaque Config.schedule (n : Nat) : Mover

/-- An unspecified 64-bit value (log 3). -/
opaque Config.freeWord (n : Nat) : Word

/-- An unspecified 2048-bit value, for a PENDING vector register (R80; log 3). -/
opaque Config.freeVec (n : Nat) : BitVec 2048

/-- Which of the free claims the claim table picks (R86, R410; log 3). -/
opaque Config.claimPick (n : Nat) : Nat

/-- Cycles from the issue of a LOADCTX to its restore (R365 gives none; log 21). -/
opaque Config.restoreCycles (n : Nat) : Nat

/-- Which instruction-cache line makes room for a new one (R138 gives no rule; log 3). -/
opaque Config.icacheVictim (n : Nat) : Nat

/-- The public key (x, then y) written at manufacture into a key slot of the non-volatile store (R393; log 10). -/
opaque Config.keySlot (slot : Nat) : BitVec 768

/-- The module's signature over bytes 0 to 255 of an attestation report (R396; log 10). -/
opaque Config.deviceSignature (bytes : List Byte) : BitVec 768

/-- Part number and serial of the module, bytes 0 to 15 of the report (R396; log 10). -/
opaque Config.partAndSerial : BitVec 128

/-- SHA-384 digest of the firmware of a control chiplet (R396; log 10). -/
opaque Config.firmwareDigest (proc : Nat) : BitVec 384

/-- Columns of the site grid (R9). -/
def Config.cols : Nat := 24
/-- Rows of the site grid (R9). -/
def Config.rows : Nat := 22
/-- Site positions (R9). -/
def Config.sites : Nat := 528
/-- Claims of a core (R86). -/
def Config.claims : Nat := 512
/-- Store-buffer entries of a core (R129). -/
def Config.storeBuffer : Nat := 64
/-- Entries of a range table (R175). -/
def Config.rangeEntries : Nat := 32
/-- Walks a walker serves at once (R176). -/
def Config.walks : Nat := 8
/-- Cycles a bank lock may age (R212). -/
def Config.lockLimit : Nat := 4096
/-- Cycles after which a held packet without HERE is dropped (R39). -/
def Config.nameDeadline : Nat := 200000
/-- Cycles between floods for one name (R38). -/
def Config.refloodEvery : Nat := 50000
/-- Cycles after which an unanswered request is given up (R44). -/
def Config.responseDeadline : Nat := 1000000
/-- Cycles between a BLOCKED-FULL answer and the notification's resending (R348). -/
def Config.noteRetry : Nat := 1024

end Sys2Proof
end

