-- ==== Sys2Proof/Machine/State.lean ====
section
/-! DEFINITION. The state of the module as plain data, grouped by slot, core, site, memory, chiplets and packets in flight.
A table by number (NMap) lists only what differs from its default; the readers in Machine/Access.lean name the defaults. -/

namespace Sys2Proof.Machine

/-- Why the machine stops for good. No rule of the manual stops the module: a trap, a poison or a queue error is a next state. -/
inductive Fault where
  /-- Raised by nothing: kept so that a stop has a name if one is ever needed. Safe: no step answers it. -/
  | stuck
  deriving DecidableEq, Repr

/-- Why a step gives no meaning. -/
inductive Refusal where
  /-- Raised by an arm of exec whose instruction has no meaning yet, with its mnemonic. Safe: nothing is claimed of it. -/
  | notModelled (mnemonic : String)
  deriving DecidableEq, Repr

/-! ## Registers of a slot -/

/-- The four register states (R80). -/
inductive RegState where
  | full
  | pending
  | poison
  | vacant
  deriving DecidableEq, Repr

/-- Register files that carry a state (R59), in the order of their file codes (R65). -/
inductive RFile where
  | x
  | v
  | m
  | c
  deriving DecidableEq, Repr

/-- A register with its state (R80). For m the scale side stands above the rows: bits 34815:32768. -/
structure Reg (w : Nat) where
  st : RegState
  val : BitVec w
  deriving DecidableEq, Repr

/-- Roles of R16, in the order of their codes (R305). -/
inductive Role where
  | none
  | m
  | v
  | c
  | s
  | k
  | t
  deriving DecidableEq, Repr

/-- Slot states (R310), in the order of their codes. -/
inductive SlotState where
  | empty
  | running
  | parked
  | frozen
  | halted
  deriving DecidableEq, Repr

/-- What a parked slot waits for (R82, R88, R176, R208, R210). -/
inductive ParkOn where
  /-- a register leaving PENDING -/
  | reg (file : RFile) (n : Nat)
  /-- a free claim: claims that the core had freed when it parked (R88) -/
  | claims (freed : Nat)
  /-- a walk, for the address that missed -/
  | walker (walk : Nat) (va : Word)
  /-- room in a queue: entries that it had given up when the slot parked -/
  | queue (q popped : Nat)
  /-- a bank lock that a slot took in a cycle -/
  | lock (bank holder since : Nat)
  deriving DecidableEq, Repr

/-- An address stream (R245, R260). -/
structure Stream where
  base : Word
  stride1 : Word
  stride2 : Word
  count1 : BitVec 32
  pos : BitVec 32
  deriving DecidableEq, Repr

/-- States of a mailbox entry (R323). -/
inductive MailState where
  | free
  | held
  | taken
  deriving DecidableEq, Repr

/-- A fence still in force for later accesses: the accesses before it and the kinds after it (R159). -/
structure FenceRec where
  pred : List Nat
  succ : BitVec 4
  deriving DecidableEq, Repr

/-- Result of a walk kept for the re-issue that meets it: 0 is success, otherwise a reason of R180. -/
structure WalkOut where
  va : Word
  reason : Nat
  index : Nat
  /-- process identity searched -/
  proc : Nat
  deriving DecidableEq, Repr

/-- A message or record held by an open speculation (R327). -/
structure HeldMsg where
  tagged : Bool
  name : BitVec 16
  tag : BitVec 32
  claim : Option Nat
  dwords : List Word
  deriving DecidableEq, Repr

/-- What a fetch that missed the instruction cache waits for (R109). -/
inductive FetchWait where
  /-- the line has been asked for -/
  | line (addr : Nat)
  /-- the line has come, and is kept for the slot's next turn -/
  | arrived (addr : Nat) (data : BitVec 1024)
  /-- the fill failed: cause 1 at the next turn -/
  | failed (addr : Nat)
  deriving DecidableEq, Repr

/-- State of an RSETRES or RCLRRES that its slot waits for (R186). -/
inductive DirWait where
  /-- the request of this access has been sent -/
  | sent (acc : Nat)
  | done (reason : Nat) (index : Nat)
  deriving DecidableEq, Repr

/-- One hardware thread slot: its register files, pc, trap registers, slot CSRs and what the scheduler keeps of it. -/
structure Slot where
  /-- slot state (R310) -/
  state : SlotState
  /-- the state a HALTED slot returns to (R310) -/
  before : SlotState
  role : Role
  worker : Bool
  pc : Word
  tcause : Word
  tval : Word
  tpc : Word
  x : NMap (Reg 64)
  v : NMap (Reg 2048)
  m : NMap (Reg 34816)
  c : NMap (Reg 131072)
  streams : NMap Stream
  /-- the park in force, kept while FROZEN or HALTED (R83) -/
  park : Option ParkOn
  parkCount : Nat
  parklim : Word
  vflags : Word
  srseed : Word
  srctr : Word
  ordctl : Word
  stfail : Word
  tag : Word
  bstream : Word
  mcfg : NMap Word
  mstcfg : Word
  rptstat : Word
  instret : Word
  rfinfo : Word
  idx : NMap Word
  /-- aperture select of its window (R356) -/
  aperture : BitVec 16
  /-- slotstat 10:8 (R374) -/
  brk : BitVec 3
  /-- the next instruction is matched by no breakpoint or watch (R374) -/
  skipBreak : Bool
  /-- a broken lock's address, for the cause-30 trap at the next turn (R212) -/
  broken : Option Word
  /-- mailbox entry states (R323) -/
  mail : NMap MailState
  /-- HELD entries, oldest first (R325) -/
  mailOrder : List Nat
  /-- the waiting RECVF claim (R324) -/
  recvClaim : Option Nat
  /-- cycle in which FDROP or MVF dropped a waiting RECVF claim: a message that lands in that cycle comes first (R331) -/
  recvDrop : Option Nat
  specOpen : Bool
  hold : List HeldMsg
  /-- priority of the dispatched record it runs (R321) -/
  prio : Option Nat
  /-- origin of that record, and whether it came from the inbox (R332) -/
  origin : BitVec 16
  viaInbox : Bool
  /-- cycle in which it became EMPTY (R314) -/
  emptied : Nat
  /-- dispatches, restores and launches it has taken (R315) -/
  epoch : Nat
  /-- named by a SWAPCTX that has not captured yet (R363), or by its own YIELD -/
  underSave : Bool
  /-- named by a LOADCTX not yet applied (R365) -/
  reserved : Bool
  /-- DONE waits for its MDOT (R319) -/
  doneWait : Bool
  /-- acquires not yet performed, by access number (R157) -/
  acquires : List Nat
  fences : List FenceRec
  /-- scope at which the next global store after a FENCES is checked (R163) -/
  missScope : Option Nat
  /-- buffered stores that loads of its thread took bytes from: what a rule orders after such a load comes after them (R151, R158, R161) -/
  saw : List Nat
  /-- last cycle of the bubbles of a transfer or BLZC (R238, R342) -/
  busyUntil : Nat
  fetch : Option FetchWait
  walkOut : Option WalkOut
  /-- address whose entry has been walked afresh for a clear resmap bit (R177) -/
  rewalked : Option Word
  dirWait : Option DirWait
  deriving DecidableEq, Repr

/-! ## Claims and deliveries -/

/-- What a claim targets (R87, R90). -/
inductive Target where
  | slot
  | context (entry : Nat)
  /-- an image: its base and whether it lies in local store -/
  | image (base : Nat) (ls : Bool)
  | dropped
  deriving DecidableEq, Repr

/-- An allocated claim (R87); a free one is not listed. -/
structure Claim where
  target : Target
  cls : BitVec 4
  cancellable : Bool
  slot : Nat
  file : RFile
  reg : Nat
  /-- registers watched by a WAITANY (R105) -/
  watch : BitVec 32
  /-- its delivery into an image could not be performed (R99) -/
  lost : Bool
  deriving DecidableEq, Repr

/-- What a producer delivers (R90). -/
inductive DVal where
  | value (v : BitVec 2048)
  | poison (d : Word)
  deriving DecidableEq, Repr

/-- A delivery that applies once its cycle has come (R90). -/
structure Delivery where
  claim : Nat
  due : Nat
  val : DVal
  deriving DecidableEq, Repr

/-! ## Accesses -/

/-- Attributes a translation gives an access (R170). -/
structure MemAttr where
  tensor : BitVec 8
  cmp : Bool
  cacheRemote : Bool
  ordered : Bool
  deriving DecidableEq, Repr

/-- What a memory request does at its home (R127 to R133). -/
inductive MemOp where
  | load (n : Nat) (sx : Bool)
  | lr (dbl : Bool)
  | sc (dbl : Bool) (data : Word)
  | amo (fn : Nat) (dbl : Bool) (data : Word)
  | store (n : Nat) (data : Word)
  deriving DecidableEq, Repr

/-- Where a request goes: memory, a thread window (R23), or a router or edge register (R367). -/
inductive MemTarget where
  | phys (pa : Nat)
  | window (va : Nat)
  | router (site : BitVec 12) (off : Nat)
  deriving DecidableEq, Repr

/-- A request of a slot through the memory port. -/
structure Req where
  acc : Nat
  slot : Nat
  epoch : Nat
  op : MemOp
  target : MemTarget
  attr : MemAttr
  claim : Option Nat
  deriving DecidableEq, Repr

/-- Kinds of R159; an SC is of kind W. -/
inductive AccKind where
  | r
  | w
  | a
  /-- a TRESUME, TKILL, RINV or directory request: ordered after others, ordering nothing -/
  | none
  deriving DecidableEq, Repr

/-- An access issued and not yet performed (R148). -/
structure Access where
  id : Nat
  /-- slot and epoch of its thread: a restore of the thread moves them to where it runs on (R94, R158) -/
  slot : Nat
  epoch : Nat
  /-- slot and epoch that issued it (R130) -/
  issuer : Nat × Nat
  kind : AccKind
  isSc : Bool
  /-- home site; none for a window or router register whose site is not known -/
  home : Option Nat
  lo : Nat
  len : Nat
  va : Nat
  proc : BitVec 12
  translated : Bool
  /-- an acquire of region scope or wider: the remote lines are dropped when it is performed (R136) -/
  drops : Bool
  /-- it is answered by a fill, which keeps the order of R94 -/
  fills : Bool
  /-- claim of a load that has been served from the store buffer and whose fill is still to come (R94) -/
  fillClaim : Option Nat
  deriving DecidableEq, Repr

/-- A store-buffer entry (R129); one that has been sent no longer counts or forwards, and is kept until it is performed. -/
structure SbEntry where
  req : Req
  waits : List Nat
  /-- accesses whose fills come before that of an SC (R94) -/
  after : List Nat
  sent : Bool
  /-- scope and kind of the check at injection (R163) -/
  check : Option (Nat × Bool)
  deriving DecidableEq, Repr

/-- A scalar or image line of L1 data (R134). -/
structure L1Line where
  data : BitVec 1024
  remote : Bool
  used : Nat
  deriving DecidableEq, Repr

/-! ## Ranges -/

/-- A directory slot's content (R170). -/
structure RangeSlot where
  base : BitVec 48
  limit : BitVec 48
  offset : Word
  proc : BitVec 12
  tensor : BitVec 8
  rmod : BitVec 4
  attrs : BitVec 5
  perms : BitVec 5
  resmap : Word
  stripe : BitVec 20
  moving : Bool
  soft : Word
  deriving DecidableEq, Repr

/-- A range-table entry (R175). -/
structure RangeEntry where
  slot : RangeSlot
  index : Nat
  deriving DecidableEq, Repr

/-- Who waits for a walk. -/
inductive WalkUser where
  | slot (n : Nat)
  | channel (ch : Nat)
  /-- RPROBE or RLOADT, with its claim -/
  | probe (claim : Option Nat) (fill : Bool)
  deriving DecidableEq, Repr

/-- A walk of a core's walker (R176). -/
structure WalkRec where
  id : Nat
  va : Word
  dir : Word
  running : Bool
  users : List WalkUser
  /-- discarded by an RINV and to be walked again (R188) -/
  restart : Bool
  deriving DecidableEq, Repr

/-- Outcome of a directory search (R174). -/
inductive WalkRes where
  | found (slot : RangeSlot) (index : Nat)
  | miss
  | malformed (index : Nat)
  | nodir
  | unreadable (code : BitVec 8) (pa : Nat)
  deriving DecidableEq, Repr

/-! ## Local store -/

/-- A named barrier with its waiting claims and their parities (R199, R204). -/
structure Barrier where
  exp : BitVec 16
  arr : BitVec 16
  pend : BitVec 32
  phase : Bool
  waits : List (Nat × Bool)
  deriving DecidableEq, Repr

/-- A queue with its waiting claims (R207). -/
structure Queue where
  entries : List Word
  waits : List Nat
  /-- entries given up so far (R208) -/
  popped : Nat
  deriving DecidableEq, Repr

/-- A held bank lock (R209). -/
structure Lock where
  slot : Nat
  since : Nat
  addr : Word
  deriving DecidableEq, Repr

/-- A transfer issued and not yet performed (R238, R253). -/
inductive TransferKind where
  /-- bytes to a vector register: (bit position, address) of each byte -/
  | vload (vd : Nat) (bytes : List (Nat × Nat))
  /-- bytes to local store -/
  | vstore (bytes : List (Nat × Byte))
  | mload (md : Nat) (cfg : Word) (base : Word)
  | mstore (bytes : List (Nat × Byte))
  deriving DecidableEq, Repr

structure Transfer where
  slot : Nat
  /-- epoch of the slot that issued it -/
  epoch : Nat
  at_ : Nat
  kind : TransferKind
  addrs : List Nat
  deriving DecidableEq, Repr

/-- An unfinished BLZC (R342, R343). -/
structure BlzcRec where
  slot : Nat
  dst : Nat
  dist : Word
  len : Nat
  next : Nat
  start : Nat
  deriving DecidableEq, Repr

/-- An MDOT or MDOTS in the array, its operands as they stood at acceptance (R258). -/
structure ArrayOp where
  slot : Nat
  cd : Nat
  ma : Nat
  mb : Nat
  result : BitVec 131072
  since : Nat
  deriving DecidableEq, Repr

/-- A divide in the long-operation unit (R115): it leaves in cycle due, which is no later than cycle late. -/
structure DivOp where
  id : Nat
  claim : Option Nat
  result : Word
  due : Nat
  late : Nat
  deriving DecidableEq, Repr

/-- A vector long operation, waiting for or in the vector stage (R241). -/
structure VecOp where
  claim : Option Nat
  result : BitVec 2048
  /-- cycles the stage is held and cycles to the fill -/
  holdFor : Nat
  fillAfter : Nat
  /-- entry cycle, once entered -/
  entered : Option Nat
  deriving DecidableEq, Repr

/-! ## Copy engine -/

/-- Channel states (R271), in the order of their codes. -/
inductive ChState where
  | idle
  | active
  | faulted
  | cancelling
  deriving DecidableEq, Repr

/-- Where an element of a copy lies. -/
inductive Loc where
  | ls (a : Nat)
  | phys (pa : Nat) (attr : MemAttr)
  | far (name : BitVec 16) (a : Nat)
  | remote (rmod : Nat) (pa : Nat) (va : Nat)
  deriving DecidableEq, Repr

/-- A segment started and not yet performed (R277). -/
structure Segment where
  g : Nat
  srcs : List Loc
  dsts : List Loc
  scale : Option Loc
  deriving DecidableEq, Repr

/-- A receiver of a multicast and whether it has answered, been written, been skipped or refused (R288, R289). -/
structure Receiver where
  core : Nat
  /-- it takes no further replica: it was skipped, refused one, or has had the last -/
  closed : Bool
  /-- its ending has reached the sender -/
  answered : Bool
  written : Bool
  /-- bytes written to it so far -/
  bytes : Nat
  deriving DecidableEq, Repr

/-- One channel (R266 to R271). -/
structure Channel where
  shadow : NMap Word
  srseed : Word
  srctr : Word
  st : ChState
  act : NMap Word
  slot : Nat
  scope : Nat
  capSeed : Word
  capCtr : Word
  waits : List Nat
  /-- what a hold at system scope waits for: a copy to another module (R297) -/
  sysWaits : List Nat
  /-- order of its CPGO among the core's (R288) -/
  serial : Nat
  next : Nat
  started : List Segment
  bytes : Nat
  nanSeen : Bool
  satSeen : Bool
  skipped : Bool
  side : BitVec 2
  reason : BitVec 4
  /-- side and reason of the most recent fault that a handler resumed (R284) -/
  resumedSide : BitVec 2
  resumedReason : BitVec 4
  faddr : Word
  amax : BitVec 32
  scaleWord : Option (BitVec 32)
  claim : Option Nat
  cls : BitVec 4
  /-- first failure: code and detail (R287) -/
  fail : Option (BitVec 8 × BitVec 48)
  /-- first refusal by a receiver of a multicast, which ends nothing (R289) -/
  mcFail : Option (BitVec 8 × BitVec 48)
  /-- bytes and addends for a local store whose 8-byte units later elements complete (R169), and the core they go to: none for its own, 0xFFFF for
  the receivers of a multicast -/
  edge : List (Nat × Byte)
  edgeAdds : List (Nat × BitVec 32)
  edgeTo : Option (BitVec 16)
  /-- scale bytes of MXQ for the own local store whose 8-byte units later blocks complete (R169) -/
  edgeScale : List (Nat × Byte)
  /-- segments on their way to another core or module -/
  outstanding : Nat
  /-- the flips of plots of other cores have been sent (R278) -/
  flipSent : Bool
  /-- the barrier event of the ending has been sent to another core, and the code that it met (R285) -/
  evSent : Bool
  evFail : Option (BitVec 8 × BitVec 48)
  srcPlots : List Nat
  dstPlots : List Nat
  farPlots : List (Nat × Nat)
  rmod : Option Nat
  walkOut : Option WalkOut
  rewalked : Option Word
  walkWait : Option Nat
  receivers : List Receiver
  /-- the multicast has been opened: it stands in the core's list of multicasts (R288) -/
  mcOpen : Bool
  /-- its first segment has left the core (R295) -/
  mcSent : Bool
  amaxDone : Bool
  deriving DecidableEq, Repr

/-! ## Tasks and notifications -/

/-- A task record in the inbox or a deque (R312). -/
structure TaskRec where
  dwords : List Word
  entered : Nat
  stealable : Bool
  resume : Option Nat
  deriving DecidableEq, Repr

/-- A notification in the layout of wl.hnote, with the cycle it was queued (R349). -/
structure Note where
  word : Word
  queued : Nat
  deriving DecidableEq, Repr

/-- A saved slot (R362): the scalar part, the role part, the mailbox, and the claims of its PENDING registers. -/
structure Saved where
  core : Nat
  name : BitVec 16
  slot : Nat
  /-- epoch of its thread on the slot that was saved: its accesses still under way name it (R94) -/
  epoch : Nat
  role : Role
  frozen : Bool
  pc : Word
  tcause : Word
  tval : Word
  tpc : Word
  csrs : List Word
  x : NMap (Reg 64)
  v : NMap (Reg 2048)
  m : NMap (Reg 34816)
  c : NMap (Reg 131072)
  streams : NMap Stream
  mail : NMap MailState
  mailOrder : List Nat
  mailBytes : NMap (List Word)
  /-- register (file code, number) and its claim, for each one recorded PENDING -/
  pendings : List (Nat × Nat × Nat)
  recvClaim : Option Nat
  parked : Bool
  /-- holds of its thread: acquires and fences not yet performed, and the scope of a pending check (R155, R163) -/
  acquires : List Nat
  fences : List FenceRec
  missScope : Option Nat
  saw : List Nat
  deriving DecidableEq, Repr

/-- Where a context is saved. -/
inductive CtxPlace where
  | cache (entry : Nat)
  | ls (a : Nat)
  | phys (pa : Nat) (va : Nat)
  deriving DecidableEq, Repr

/-- A SWAPCTX or YIELD from its acceptance to its last write (R364, R321). -/
structure SaveRec where
  slot : Nat
  place : CtxPlace
  claim : Option Nat
  captured : Option Saved
  /-- priority of the resume record of a YIELD -/
  yieldPrio : Option Nat
  /-- process whose ranges translated the place, if any (R188) -/
  proc : BitVec 12
  deriving DecidableEq, Repr

/-- A LOADCTX from its acceptance to the restore (R365). -/
structure RestoreRec where
  slot : Nat
  place : CtxPlace
  claim : Option Nat
  /-- cycle from which the image has been read and the restore can be applied -/
  due : Nat
  /-- process whose ranges translated the place, if any (R188) -/
  proc : BitVec 12
  deriving DecidableEq, Repr

/-- A saved context in translated space or local store that claims may still target (R96, R97). -/
structure ImageRec where
  place : CtxPlace
  /-- process whose ranges translated the place, if any (R188) -/
  proc : BitVec 12
  saved : Saved
  written : Bool
  deriving DecidableEq, Repr

/-- A role image placed on a core by a LOAD (R392, R394). -/
structure RoleImage where
  role : Role
  slots : BitVec 16
  entry : Word
  /-- plot segments: first address and bytes -/
  plots : List (Nat × List Byte)
  deriving DecidableEq, Repr

/-- One exposed core (R13). -/
structure Core where
  cycle : Nat
  /-- the cycle has begun and its slot has not taken its turn -/
  turnDue : Bool
  slots : NMap Slot
  claims : NMap Claim
  /-- claims freed so far (R88) -/
  freed : Nat
  deliveries : List Delivery
  timers : List (Nat × Word × Nat)
  divs : List DivOp
  vecs : List VecOp
  ls : Memory
  owners : NMap Bool
  inUse : NMap Nat
  barriers : NMap Barrier
  queues : NMap Queue
  locks : NMap Lock
  channels : NMap Channel
  bound : NMap Nat
  l1 : NMap L1Line
  icache : NMap (BitVec 1024)
  ranges : List RangeEntry
  walks : List WalkRec
  sb : List SbEntry
  accs : List Access
  array : Option ArrayOp
  transfer : Option Transfer
  blzc : Option BlzcRec
  rdir : Word
  rdmnt : Word
  scopemiss : Word
  inlog : Word
  poundReg : Word
  pair : Word
  stamp : Word
  hvec : Word
  hepc : Word
  hscratch : Word
  hnote : Word
  hbusy : Bool
  hin : Bool
  hfromempty : Bool
  notes : List Note
  evsel : NMap Word
  evcnt : NMap Word
  bp : NMap Word
  wpa : NMap Word
  wpc : NMap Word
  trcctl : Word
  trcbase : Word
  trcptr : Word
  inbox : NMap TaskRec
  inboxOrder : List Nat
  inboxReserved : List Nat
  deques : NMap (List TaskRec)
  lastDispatch : Nat
  stealLast : Option Nat
  stealBackoff : Nat
  stealBlocked : Nat
  stealOut : Bool
  stealIn : Option Nat
  /-- free deque heads: ring index of the next push of each deque (R313) -/
  dequeTop : NMap Nat
  ctx : NMap Saved
  ctxReserved : List Nat
  savedTags : List (BitVec 32 × CtxPlace)
  saves : List SaveRec
  restores : List RestoreRec
  images : List ImageRec
  inbound : List (BitVec 16 × BitVec 6)
  /-- multicasts not closed, by sender barrier: buffer-frees counted and, once ended, receivers written (R292) -/
  mcasts : NMap (Nat × Option Nat)
  roles : List RoleImage
  /-- a placement names it: a LOADED site keeps role images for it (R394, R395) -/
  placed : Bool
  deriving DecidableEq, Repr

/-! ## Sites -/

/-- Site states (R54), in the order of their codes. -/
inductive SiteState where
  | dark
  | clocked
  | greeted
  | named
  | loaded
  | running
  | fenced
  | retired
  deriving DecidableEq, Repr

/-- A launch level (R305). -/
structure Level where
  valid : Bool
  domain : Nat
  scope : Nat
  extent : BitVec 32
  deriving DecidableEq, Repr

/-- A launch record in force (R305). -/
structure Launch where
  tasks : Bool
  fusion : Bool
  prof : Bool
  pqen : Bool
  pq : Nat
  stealen : Bool
  steal : Nat
  rw : Nat
  rh : Nat
  rect : BitVec 20
  workers : BitVec 16
  roles : BitVec 48
  chans : BitVec 64
  levels : List Level
  deriving DecidableEq, Repr

/-- A configuration record received and not committed (R55). -/
structure ConfigRec where
  proc : Nat
  name : BitVec 12
  part : BitVec 4
  rect : BitVec 20
  rw : BitVec 5
  rh : BitVec 5
  remap : List (BitVec 5)
  pins : List (BitVec 12 × BitVec 32)
  deriving DecidableEq, Repr

/-- A flood for a name (R38): when the first held packet was issued, by which core, and floods sent. -/
structure Flood where
  name : BitVec 12
  core : Nat
  since : Nat
  sent : Nat
  /-- a WHERE of the last flood has not run yet -/
  waiting : Bool
  /-- HERE answers on their way: the owners' sites and the mesh of the WHERE they answer (true: YX) -/
  here : List (Nat × Bool)
  /-- a HERE has been taken: no further flood is sent -/
  done : Bool
  deriving DecidableEq, Repr

/-- A combining entry of buffer-free messages (R292). -/
structure Combine where
  sender : BitVec 16
  bar : BitVec 6
  expect : Nat
  got : Nat
  sum : Nat
  deriving DecidableEq, Repr

/-- One site (R9, R52). -/
structure Site where
  state : SiteState
  /-- code of the state in which it was fenced: a site fenced before it was greeted or named keeps neither routers that forward nor a name (R54) -/
  before : Nat
  name : BitVec 12
  part : BitVec 4
  clksw : BitVec 16
  depth : BitVec 5
  clksrc : BitVec 3
  ncores : BitVec 5
  health : BitVec 16
  /-- home of the control chiplet that configures it (R55) -/
  chiplet : Nat
  remap : NMap (BitVec 5)
  dramGood : Bool
  computeGood : Bool
  edgeClock : Bool
  gated : Bool
  regionW : BitVec 5
  regionH : BitVec 5
  staged : Option ConfigRec
  routes : NMap (BitVec 32)
  sweep : BitVec 12
  phys : NMap (BitVec 13)
  counters : NMap Word
  selects : NMap Word
  budgets : NMap (BitVec 32)
  used : NMap Nat
  /-- budget period in which `used` was counted (R48) -/
  period : Nat
  vlog : NMap Word
  voverflow : Word
  floods : List Flood
  greets : NMap Bool
  links : NMap Bool
  combines : List Combine
  image : Bool
  launch : Option Launch
  claimed : Bool
  deriving DecidableEq, Repr

/-! ## Memory -/

/-- An L2 line (R135, R139, R141). -/
structure L2Line where
  data : BitVec 1024
  code : BitVec 4
  tensor : BitVec 8
  pin : Bool
  used : Nat
  deriving DecidableEq, Repr

/-- A reservation kept by a slice (R133), oldest first in its list. -/
structure Reservation where
  line : Nat
  core : Nat
  slot : Nat
  deriving DecidableEq, Repr

/-- A gleaner move (R190). -/
structure GMove where
  id : Nat
  site : Nat
  part : BitVec 4
  core : Nat
  claim : Option Nat
  dir : Word
  index : Nat
  base : Nat
  limit : Nat
  proc : BitVec 12
  oldPa : Nat
  newPa : Nat
  cmp : Bool
  /-- bytes moved so far -/
  moved : Nat
  bad : Nat
  /-- an RINV of the finished move is outstanding -/
  finishing : Option Nat
  lost : Bool
  deriving DecidableEq, Repr

/-! ## Packets in flight -/

/-- Packet classes (R29). -/
inductive PClass where
  | request
  | response
  | steal
  | system
  deriving DecidableEq, Repr

/-- Who sent a packet, and where its answer goes. -/
inductive Sender where
  | core (id : Nat)
  /-- the gleaner of a site, for a move -/
  | gleaner (move : Nat) (site : Nat)
  | proc (d : Nat)
  | site (n : Nat)
  /-- a network chiplet -/
  | chip (n : Nat)
  deriving DecidableEq, Repr

/-- How a packet is addressed (R31). -/
inductive Dest where
  | name (n : BitVec 16)
  | phys (pa : Nat)
  | coords (site : Nat)
  deriving DecidableEq, Repr

/-- Directory requests (R184 to R189). -/
inductive DirOp where
  | split (m : Word) (tag : Word)
  | merge (va : Word)
  | setres (va : Word) (mask : Word)
  | clrres (va : Word) (mask : Word)
  | glean (va : Word) (newPa : Word)
  deriving DecidableEq, Repr

/-- Cache-control requests to the slices of a site (R140, R141). -/
inductive CacheOp where
  | pin (lines : List Nat) (tensor : BitVec 8)
  | unpin (lines : List Nat)
  | discard (id : BitVec 8) (group : Nat)
  deriving DecidableEq, Repr

/-- What a packet carries. -/
inductive Body where
  | mem (r : Req)
  | ifetch (slot : Nat) (line : Nat) (tensor : BitVec 8)
  | walk (id : Nat) (va : Word) (dir : Word)
  | dir (slot : Nat) (claim : Option Nat) (acc : Nat) (dir : Word) (op : DirOp)
  | cache (claim : Option Nat) (op : CacheOp)
  | rinv (id : Nat) (core : Option Nat) (proc : BitVec 12) (lo hi : Nat) (dropped : Bool)
  | rinvAck (id : Nat)
  | segment (ch : Nat) (bytes : List (Nat × Byte)) (red : List (Nat × BitVec 32))
  /-- a replica for cores; the last one carries the plots to flip, the receiver barrier and the bytes of the whole copy -/
  | replica (ch : Nat) (cores : List Nat) (sender : BitVec 16) (bar : BitVec 6) (bytes : List (Nat × Byte)) (last : Option (List Nat × Option (BitVec 6) × Nat))
  /-- plots of a core to be returned to THREAD once they are in no use (R278) -/
  | flip (ch : Nat) (plots : List Nat)
  /-- the barrier event of a copy's ending: the channel and the serial of its copy (R285) -/
  | barEvent (ch serial : Nat) (bar : BitVec 6) (a n : Nat)
  /-- a segment for another module, on its way to the network chiplet of its peer (R299) -/
  | rma (ch rmod : Nat) (red : Bool) (pa : Nat) (bytes : List Byte)
  | bufFree (sender : BitVec 16) (bar : BitVec 6) (count : Nat)
  | send (claim : Option Nat) (slot : Nat) (dwords : List Word)
  | sendt (claim : Option Nat) (slot : Nat) (tag : BitVec 32) (origin : BitVec 16) (dwords : List Word)
  | stealReq (mask : BitVec 8)
  | stealAns (rec : Option TaskRec)
  | note (word : Word) (forwarded : Bool)
  | tresume (slot : Nat) (acc issuer epoch : Nat) (xs1 : BitVec 20)
  | tkill (slot : Nat) (acc issuer epoch : Nat) (xs1 : BitVec 20)
  | sitePacket (images : List (Nat × List RoleImage)) (placed : List Nat) (tree : List (Nat × Nat)) (digest : BitVec 384) (payload : List Byte)
  -- answers
  | fill (acc : Option Nat) (claim : Option Nat) (val : DVal)
  /-- a fill with its line for the L1; no data: the line is not to be kept (R136) -/
  | lineFill (acc : Option Nat) (claim : Option Nat) (val : DVal) (line : Nat) (data : Option (BitVec 1024)) (code : BitVec 4)
  | ifill (line : Nat) (data : Option (BitVec 1024)) (code : BitVec 4)
  | walkAns (id : Nat) (res : WalkRes)
  | dirAns (slot : Nat) (acc : Nat) (reason index : Nat)
  | stFail (acc : Nat) (slot epoch : Nat) (code : BitVec 8) (pa : BitVec 43)
  | segAns (ch n : Nat) (fail : Option (BitVec 8 × BitVec 48))
  /-- a receiver of a multicast has taken n bytes; with its ending, whether it was written and what refused it (R288, R289) -/
  | mcAns (ch core n : Nat) (ending : Option (Bool × Option (Nat × Nat)))
  | discarded (group : Nat) (count : Nat)
  /-- a store or command has been done -/
  | ack (acc : Nat)
  deriving DecidableEq, Repr

/-- Where a packet stands. -/
inductive FState where
  /-- at the source router, waiting for a HERE (R38) -/
  | held
  /-- at the source router, behind an earlier packet to its destination (R32) -/
  | behind
  /-- at the memory port: the router's hold for unknown names is full (R38) -/
  | atPort
  /-- at the source, waiting for a resend (R348) until the cycle -/
  | waiting (cycle : Nat)
  /-- on a mesh, at a router -/
  | moving
  /-- met a link that is not good; the BLOCKED answer is on its way (R40) -/
  | blocked
  /-- answered MOVED (R41) -/
  | moved
  /-- answered with an error response of this code (R42, R43) -/
  | failed (code : BitVec 8)
  /-- cut off in mid-transfer (R44) -/
  | lost
  /-- at its destination -/
  | arrived
  deriving DecidableEq, Repr

/-- A packet (R30). -/
structure Flight where
  fid : Nat
  cls : PClass
  src : Sender
  srcSite : Nat
  /-- source name of the header; 0xFFFF for a sender without a name -/
  srcName : BitVec 16
  part : BitVec 4
  dest : Dest
  dsite : Nat
  via : Option Nat
  phase : Bool
  pos : Nat
  /-- true: on the YX mesh -/
  yx : Bool
  retry : Bool
  st : FState
  issued : Nat
  /-- cycle of the issuing core in which the request left its site (R44); an answer keeps its request's -/
  left : Nat
  /-- physical address or dest name of the request, which a failure reports (R43) -/
  detail : Nat
  /-- its future has been given up (R44): what arrives later is discarded -/
  dead : Bool
  /-- order of arrival, and the cycle of the core it is addressed to (R360) -/
  arr : Nat
  arrAt : Nat
  body : Body
  deriving DecidableEq, Repr

/-- An RINV waiting for its acknowledgements (R187). -/
structure RinvRec where
  id : Nat
  core : Nat
  claim : Option Nat
  move : Option Nat
  expect : Nat
  got : Nat
  deriving DecidableEq, Repr

/-- An access or command held at a core's port by an ordering condition (R155). -/
structure Held where
  core : Nat
  acc : Nat
  /-- accesses that must have been performed -/
  waits : List Nat
  /-- accesses whose fills must have come (R94) -/
  after : List Nat
  body : Body
  dest : Dest
  deriving DecidableEq, Repr

/-- A TDISC collecting the counts of its sites (R140). -/
structure DiscRec where
  group : Nat
  core : Nat
  claim : Option Nat
  left : Nat
  sum : Nat
  fail : Option Word
  deriving DecidableEq, Repr

/-! ## Edge chiplets -/

/-- A segment waiting at or sent by a network chiplet (R299, R300). -/
structure RmaSeg where
  core : Nat
  ch : Nat
  /-- the packet that brought it to the chiplet, which its answer goes back to (R36, R299) -/
  from_ : Flight
  red : Bool
  pa : Nat
  bytes : List Byte
  seq : Option (BitVec 32)
  sends : Nat
  /-- refused for budget since it was last sent (R302) -/
  nacked : Bool
  acked : Bool
  deriving DecidableEq, Repr

/-- State of one (source, destination) pair (R298, R300 to R302). -/
structure Peer where
  ip0 : Word
  ip1 : Word
  ctl : Word
  rate : Nat
  target : Nat
  alpha : Nat
  unmarked : Nat
  nextSeq : BitVec 32
  segs : List RmaSeg
  recvE : BitVec 32
  marks : List Nat
  deriving DecidableEq, Repr

/-- A network chiplet (R298). -/
structure NetChip where
  /-- its clock, as far as budget periods show it (R48) -/
  cycles : Nat
  modreg : Word
  peers : NMap Peer
  budgets : NMap (BitVec 32)
  used : NMap Nat
  vlog : NMap Word
  voverflow : Word
  dropped : Nat
  deriving DecidableEq, Repr

/-- Queue states (R380), in the order of their codes. -/
inductive QState where
  | idle
  | active
  | waiting
  | error
  | halted
  deriving DecidableEq, Repr

/-- What a WAITING queue waits for. -/
inductive QWait where
  /-- a LAUNCH waits for its sites: its work, record and directory, and whether it has claimed its rectangle -/
  | launch (work : Nat) (rec : Launch) (dir : Word) (holds : Bool)
  | waitge (sem : Nat) (v : Word) (deadline : Option Nat)
  /-- a FENCE waits for these works -/
  | fence (works : List Nat)
  deriving DecidableEq, Repr

/-- A command queue (R380). -/
structure CQueue where
  qcfg : Word
  wr : BitVec 32
  rd : BitVec 32
  st : QState
  err : BitVec 8
  detail : BitVec 8
  at_ : BitVec 32
  wait : Option QWait
  /-- the next packet is not matched by a breakpoint (R389) -/
  resumed : Bool
  deriving DecidableEq, Repr

/-- LAUNCH or COPY work whose packet has started (R381, R384). -/
structure Work where
  id : Nat
  queue : Nat
  /-- index of its packet -/
  index : BitVec 32
  dword0 : Word
  /-- sites of a started launch that have not returned to LOADED -/
  sites : List Nat
  /-- cores of a started launch -/
  cores : List Nat
  /-- source, destination and length of a copy -/
  copy : Option (Nat × Nat × Nat)
  deriving DecidableEq, Repr

/-- A control chiplet and its command processor (R379). -/
structure Proc where
  cycles : Word
  queues : NMap CQueue
  sembase : Word
  bps : NMap Word
  works : List Work
  reports : List (Nat × Word)
  faultlog : NMap (List Word)
  faultptr : Word
  rects : NMap Word
  vlog : NMap Word
  voverflow : Word
  budgets : NMap (BitVec 32)
  used : NMap Nat
  period : Nat
  digest : BitVec 384
  /-- one more than the queue that started a packet last in the present cycle; 0: none has (R381) -/
  started : Nat
  /-- placed sites of each LOAD that has not reported completion (R394) -/
  loads : List (List Nat)
  deriving DecidableEq, Repr

/-- What the module sends to the control node or to another module. -/
inductive Report where
  | interrupt (proc queue : Nat) (value : Word)
  | halt (core : BitVec 16) (slot : Nat) (pc : Word)
  | procHalt (proc bp queue : Nat)
  | undelivered (word : Word)
  | regValue (proc : Nat) (value : Word)
  | refused (proc : Nat) (code : BitVec 8)
  | loadDone (proc : Nat) (ok : Bool)
  | attestation (proc : Nat) (bytes : BitVec 2816)
  /-- a segment that a network chiplet abandoned, as it logs it (R300) -/
  | rmaAbandoned (chip rmod : Nat) (seq : BitVec 32)
  | siteLog (site : Nat) (kind : Nat)
  | logFull (site : Nat)
  /-- a frame on a network chiplet's port: destination IPv6 address, UDP ports, ECN field, UDP payload (R299) -/
  | datagram (chip rmod : Nat) (dst : BitVec 128) (sport dport : BitVec 16) (ecn : BitVec 2) (payload : List Byte)
  deriving DecidableEq, Repr

/-- The whole module. -/
structure State where
  mover : Mover
  moves : Nat
  freeCtr : Nat
  curCore : Nat
  curSlot : Nat
  nextId : Nat
  sites : NMap Site
  cores : NMap Core
  dram : Memory
  codes : NMap (BitVec 4)
  bad : List Nat
  l2 : NMap L2Line
  useCtr : Nat
  resv : List Reservation
  gmoves : List GMove
  flights : List Flight
  held : List Held
  /-- trace records that wait for a gated home: core, address and bytes (R56, R375) -/
  traceWaits : List (Nat × Nat × List Byte)
  rinvs : List RinvRec
  discs : List DiscRec
  partRects : NMap (BitVec 20)
  chips : NMap NetChip
  procs : NMap Proc
  retireLog : NMap (Word × Word × Word)
  boots : BitVec 32
  /-- the log has been scanned since power came up (R58) -/
  up : Bool
  /-- public keys of the four key slots of the non-volatile store: x, then y (R393) -/
  keys : NMap (BitVec 768)
  reports : List Report
  deriving DecidableEq, Repr

/-! ## Reset values -/

/-- wl.mcfg0 to wl.mcfg7 at reset: spitch 1, pitch 8, cols 64, rows 64, type 2 (R247). -/
def mcfgReset : Word := 0x0000001008408002

/-- wl.mstcfg at reset: cols 64 (R249). -/
def mstcfgReset : Word := 0x400000

/-- A slot with its registers as they stand at reset (R81, R308). -/
def Slot.reset : Slot where
  state := .empty
  before := .empty
  role := .none
  worker := false
  pc := 0
  tcause := 0
  tval := 0
  tpc := 0
  x := []
  v := []
  m := []
  c := []
  streams := []
  park := none
  parkCount := 0
  parklim := 0
  vflags := 0
  srseed := 0
  srctr := 0
  ordctl := 0
  stfail := 0
  tag := 0
  bstream := 0
  mcfg := []
  mstcfg := mstcfgReset
  rptstat := 0
  instret := 0
  rfinfo := 0
  idx := []
  aperture := 0
  brk := 0
  skipBreak := false
  broken := none
  mail := []
  mailOrder := []
  recvClaim := none
  recvDrop := none
  specOpen := false
  hold := []
  prio := none
  origin := 0
  viaInbox := false
  emptied := 0
  epoch := 0
  underSave := false
  reserved := false
  doneWait := false
  acquires := []
  fences := []
  missScope := none
  saw := []
  busyUntil := 0
  fetch := none
  walkOut := none
  rewalked := none
  dirWait := none

/-- A channel at reset (R266, R267). -/
def Channel.reset : Channel where
  shadow := []
  srseed := 0
  srctr := 0
  st := .idle
  act := []
  slot := 0
  scope := 0
  capSeed := 0
  capCtr := 0
  waits := []
  sysWaits := []
  serial := 0
  next := 0
  started := []
  bytes := 0
  nanSeen := false
  satSeen := false
  skipped := false
  side := 0
  reason := 0
  resumedSide := 0
  resumedReason := 0
  faddr := 0
  amax := 0
  scaleWord := none
  claim := none
  cls := 2
  fail := none
  mcFail := none
  edge := []
  edgeAdds := []
  edgeTo := none
  edgeScale := []
  outstanding := 0
  flipSent := false
  evSent := false
  evFail := none
  srcPlots := []
  dstPlots := []
  farPlots := []
  rmod := none
  walkOut := none
  rewalked := none
  walkWait := none
  receivers := []
  mcOpen := false
  mcSent := false
  amaxDone := false

/-- A core at reset (R87, R195, R199, R207, R266, R347, R350, R369 to R375). -/
def Core.reset : Core where
  cycle := 0
  turnDue := false
  slots := []
  claims := []
  freed := 0
  deliveries := []
  timers := []
  divs := []
  vecs := []
  ls := []
  owners := []
  inUse := []
  barriers := []
  queues := []
  locks := []
  channels := []
  bound := []
  l1 := []
  icache := []
  ranges := []
  walks := []
  sb := []
  accs := []
  array := none
  transfer := none
  blzc := none
  rdir := 0
  rdmnt := 0
  scopemiss := 0
  inlog := 0
  poundReg := 0
  pair := 0xFFFFFFFF
  stamp := 0
  hvec := 0
  hepc := 0
  hscratch := 0
  hnote := 0
  hbusy := false
  hin := false
  hfromempty := false
  notes := []
  evsel := []
  evcnt := []
  bp := []
  wpa := []
  wpc := []
  trcctl := 0
  trcbase := 0
  trcptr := 0
  inbox := []
  inboxOrder := []
  inboxReserved := []
  deques := []
  lastDispatch := 0
  stealLast := none
  stealBackoff := 64
  stealBlocked := 0
  stealOut := false
  stealIn := none
  dequeTop := []
  ctx := []
  ctxReserved := []
  savedTags := []
  saves := []
  restores := []
  images := []
  inbound := []
  mcasts := []
  roles := []
  placed := false

/-- A site before bring-up: DARK, nothing named, no link known (R33, R34, R48, R52 to R54). -/
def Site.reset : Site where
  state := .dark
  before := 0
  name := 0
  part := 0
  clksw := 0
  depth := 0
  clksrc := 7
  ncores := 0
  health := 0
  chiplet := 0
  remap := []
  dramGood := false
  computeGood := false
  edgeClock := true
  gated := false
  regionW := 0
  regionH := 0
  staged := none
  routes := []
  sweep := 0
  phys := []
  counters := []
  selects := []
  budgets := []
  used := []
  period := 0
  vlog := []
  voverflow := 0
  floods := []
  greets := []
  links := []
  combines := []
  image := false
  launch := none
  claimed := false

/-- A peer entry that does not exist: its rate state as a write of dword 2 would reset it (R298). -/
def Peer.reset : Peer where
  ip0 := 0
  ip1 := 0
  ctl := 0
  rate := 800000
  target := 800000
  alpha := 0
  unmarked := 0
  nextSeq := 0
  segs := []
  recvE := 0
  marks := []

/-- The module register at reset: modid 0, rmax 800,000, rmin 1,000, rai 8,000 (R298). -/
def modregReset : Word := 0#4 ++ 800000#20 ++ 1000#20 ++ 8000#20

/-- A network chiplet at reset (R298). -/
def NetChip.reset : NetChip where
  cycles := 0
  modreg := modregReset
  peers := []
  budgets := []
  used := []
  vlog := []
  voverflow := 0
  dropped := 0

/-- A command queue at reset (R380). -/
def CQueue.reset : CQueue where
  qcfg := 0
  wr := 0
  rd := 0
  st := .idle
  err := 0
  detail := 0
  at_ := 0
  wait := none
  resumed := false

/-- A control chiplet at reset (R46, R377, R380, R387, R389). -/
def Proc.reset : Proc where
  cycles := 0
  queues := []
  sembase := 0
  bps := []
  works := []
  reports := []
  faultlog := []
  faultptr := 0
  rects := []
  vlog := []
  voverflow := 0
  budgets := []
  used := []
  period := 0
  digest := 0
  started := 0
  loads := []

/-- The module right after power-on reset: every site DARK, every table at its reset values, nothing in flight. -/
def State.reset : State where
  mover := .turn 0
  moves := 0
  freeCtr := 0
  curCore := 0
  curSlot := 0
  nextId := 0
  sites := []
  cores := []
  dram := []
  codes := []
  bad := []
  l2 := []
  useCtr := 0
  resv := []
  gmoves := []
  flights := []
  held := []
  traceWaits := []
  rinvs := []
  discs := []
  partRects := []
  chips := []
  procs := []
  retireLog := []
  boots := 0
  up := false
  keys := (List.range 4).map (fun i => (i, Config.keySlot i))
  reports := []

end Sys2Proof.Machine
end

