-- ==== Sys2Proof/Machine/Access.lean ====
section
/-! DEFINITION. Readers and writers of the state: tables by number, bytes, slots, cores, sites and their registers, event counters. -/

namespace Sys2Proof.Machine

/-! ## Tables by number -/

/-- The value listed under a key. -/
def nget {α : Type} (m : NMap α) (k : Nat) : Option α :=
  match m with
  | [] => none
  | (j, v) :: t => if j = k then some v else nget t k

/-- Lists a value under a key, keeping the keys in rising order. -/
def nput {α : Type} (m : NMap α) (k : Nat) (v : α) : NMap α :=
  match m with
  | [] => [(k, v)]
  | (j, u) :: t => if j = k then (k, v) :: t else if k < j then (k, v) :: (j, u) :: t else (j, u) :: nput t k v

/-- Removes a key. -/
def ndel {α : Type} (m : NMap α) (k : Nat) : NMap α :=
  match m with
  | [] => []
  | (j, u) :: t => if j = k then ndel t k else (j, u) :: ndel t k

/-! ## Bytes -/

/-- A byte of memory; an unlisted byte reads 0 (log 6). -/
def memGet (m : Memory) (a : Nat) : Byte := (nget m a).getD 0

/-- Writes a byte, keeping the canonical form. -/
def memSet (m : Memory) (a : Nat) (b : Byte) : Memory := if b = 0 then ndel m a else nput m a b

/-- Whether a memory is in canonical form: addresses strictly rising, no listed zero. -/
def Memory.wf (m : Memory) : Bool :=
  match m with
  | [] => true
  | [(_, b)] => b != 0
  | (a, b) :: (a', b') :: t => b != 0 && a < a' && Memory.wf ((a', b') :: t)

/-- n bytes from an address, little-endian (R2). -/
def memRead (m : Memory) (a n : Nat) : Nat :=
  match n with
  | 0 => 0
  | k + 1 => (memGet m a).toNat + 256 * memRead m (a + 1) k

/-- Writes the low n bytes of a number, little-endian (R2). -/
def memWrite (m : Memory) (a n v : Nat) : Memory :=
  match n with
  | 0 => m
  | k + 1 => memWrite (memSet m a (BitVec.ofNat 8 v)) (a + 1) k (v / 256)

/-- Writes listed bytes, in order. -/
def memPuts (m : Memory) (l : List (Nat × Byte)) : Memory := l.foldl (fun m p => memSet m p.1 p.2) m

/-- The bytes of a number, lowest first. -/
def bytesOf (n v : Nat) : List Byte :=
  match n with
  | 0 => []
  | k + 1 => BitVec.ofNat 8 v :: bytesOf k (v / 256)

/-- The number of a byte string, lowest first. -/
def ofBytes (l : List Byte) : Nat := l.foldr (fun b n => b.toNat + 256 * n) 0

/-- Bytes placed at rising addresses. -/
def placeAt (a : Nat) (l : List Byte) : List (Nat × Byte) :=
  match l with
  | [] => []
  | b :: t => (a, b) :: placeAt (a + 1) t

/-- A field of a number. -/
def fieldOf (v lo w : Nat) : Nat := (v >>> lo) % 2 ^ w

/-- A bit field of a word, as a number. -/
def wf (v : Word) (lo w : Nat) : Nat := fieldOf v.toNat lo w

/-- A word from a number. -/
def wd (n : Nat) : Word := BitVec.ofNat 64 n

/-- Sign-extends the low n bits to 64 bits (R7). -/
def sextW (v : Word) (n : Nat) : Word := if n = 0 then 0 else ((v <<< (64 - n)).sshiftRight (64 - n))

/-- Replaces a bit field of a word. -/
def setField (v : Word) (lo w : Nat) (x : Nat) : Word :=
  wd (v.toNat - fieldOf v.toNat lo w * 2 ^ lo + (x % 2 ^ w) * 2 ^ lo)

/-! ## Sites, cores and slots -/

/-- A site by its index (R9). -/
def State.site (s : State) (n : Nat) : Site := (nget s.sites n).getD Site.reset

def State.setSite (s : State) (n : Nat) (t : Site) : State := { s with sites := nput s.sites n t }

def State.modSite (s : State) (n : Nat) (f : Site → Site) : State := s.setSite n (f (s.site n))

/-- A core by its number, 16 times its site plus its index (R14). -/
def State.core (s : State) (c : Nat) : Core := (nget s.cores c).getD Core.reset

def State.setCore (s : State) (c : Nat) (k : Core) : State := { s with cores := nput s.cores c k }

def State.modCore (s : State) (c : Nat) (f : Core → Core) : State := s.setCore c (f (s.core c))

/-- A slot of a core. -/
def Core.slot (k : Core) (n : Nat) : Slot := (nget k.slots n).getD Slot.reset

def Core.setSlot (k : Core) (n : Nat) (t : Slot) : Core := { k with slots := nput k.slots n t }

def State.slot (s : State) (c n : Nat) : Slot := (s.core c).slot n

def State.setSlot (s : State) (c n : Nat) (t : Slot) : State := s.setCore c ((s.core c).setSlot n t)

def State.modSlot (s : State) (c n : Nat) (f : Slot → Slot) : State := s.setSlot c n (f (s.slot c n))

/-- The core and slot whose turn runs. -/
def State.here (s : State) : Core := s.core s.curCore
def State.me (s : State) : Slot := s.slot s.curCore s.curSlot
def State.modHere (s : State) (f : Core → Core) : State := s.modCore s.curCore f
def State.modMe (s : State) (f : Slot → Slot) : State := s.modSlot s.curCore s.curSlot f

/-- Site of a core. -/
def siteOf (c : Nat) : Nat := c / 16

/-- Core name (R19): site name and core index. -/
def State.coreName (s : State) (c : Nat) : BitVec 16 := (s.site (siteOf c)).name ++ BitVec.ofNat 4 (c % 16)

/-- Whether the remap exposes a core (R14, R26). -/
def State.exposed (s : State) (c : Nat) : Bool := c % 16 < (s.site (siteOf c)).ncores.toNat

/-- The launch record in force at a core's site (R305). -/
def State.launchOf (s : State) (c : Nat) : Option Launch := (s.site (siteOf c)).launch

/-- The task unit is enabled (R197). -/
def State.tasksOn (s : State) (c : Nat) : Bool :=
  match s.launchOf c with
  | some l => l.tasks
  | none => false

/-- A fresh serial number. -/
def State.bump (s : State) : State := { s with nextId := s.nextId + 1 }

def State.proc (s : State) (d : Nat) : Proc := (nget s.procs d).getD Proc.reset
def State.modProc (s : State) (d : Nat) (f : Proc → Proc) : State := { s with procs := nput s.procs d (f (s.proc d)) }
def State.chip (s : State) (n : Nat) : NetChip := (nget s.chips n).getD NetChip.reset
def State.modChip (s : State) (n : Nat) (f : NetChip → NetChip) : State := { s with chips := nput s.chips n (f (s.chip n)) }
def State.report (s : State) (r : Report) : State := { s with reports := s.reports ++ [r] }

/-- Columns and rows of a site index (R9). -/
def colOf (n : Nat) : Nat := n % Config.cols
def rowOf (n : Nat) : Nat := n / Config.cols

/-- Whether a site lies in a rectangle {height, width, row, col} (R305). -/
def inRect (r : BitVec 20) (n : Nat) : Bool :=
  let c0 := fieldOf r.toNat 0 5
  let r0 := fieldOf r.toNat 5 5
  let w := fieldOf r.toNat 10 5
  let h := fieldOf r.toNat 15 5
  c0 ≤ colOf n && colOf n < c0 + w && r0 ≤ rowOf n && rowOf n < r0 + h

/-- Whether a rectangle leaves the grid. -/
def rectOut (r : BitVec 20) : Bool :=
  Config.cols < fieldOf r.toNat 0 5 + fieldOf r.toNat 10 5 || Config.rows < fieldOf r.toNat 5 5 + fieldOf r.toNat 15 5

/-- The sites of a rectangle in row-major order. -/
def rectSites (r : BitVec 20) : List Nat := (List.range Config.sites).filter (inRect r)

/-- The rectangle of a partition; an unset one holds no site. -/
def State.partRect (s : State) (p : Nat) : BitVec 20 := (nget s.partRects p).getD 0

/-- Code of a site state (R54). -/
def siteCode (r : SiteState) : Nat :=
  match r with | .dark => 0 | .clocked => 1 | .greeted => 2 | .named => 3 | .loaded => 4 | .running => 5 | .fenced => 6 | .retired => 7

/-- Whether a site bears a name: from NAMED on, and FENCED after that (R54). -/
def Site.named (t : Site) : Bool :=
  match t.state with | .named | .loaded | .running => true | .fenced => 3 ≤ t.before | _ => false

/-- The site of a partition that bears a name (R19). -/
def State.siteNamed (s : State) (part : Nat) (name : BitVec 12) : Option Nat :=
  (s.sites.find? (fun p => p.2.name == name && p.2.part.toNat == part && p.2.named && inRect (s.partRect part) p.1)).map (·.1)

/-! ## Registers with a state -/

/-- Register xn; x0 is FULL zero (R60). -/
def Slot.xr (t : Slot) (n : Nat) : Reg 64 := if n = 0 then ⟨.full, 0⟩ else (nget t.x n).getD ⟨.full, 0⟩
def Slot.setXr (t : Slot) (n : Nat) (r : Reg 64) : Slot := if n = 0 then t else { t with x := nput t.x n r }
def Slot.vr (t : Slot) (n : Nat) : Reg 2048 := (nget t.v n).getD ⟨.full, 0⟩
def Slot.setVr (t : Slot) (n : Nat) (r : Reg 2048) : Slot := { t with v := nput t.v n r }
def Slot.mr (t : Slot) (n : Nat) : Reg 34816 := (nget t.m n).getD ⟨.full, 0⟩
def Slot.setMr (t : Slot) (n : Nat) (r : Reg 34816) : Slot := { t with m := nput t.m n r }
def Slot.cr (t : Slot) (n : Nat) : Reg 131072 := (nget t.c n).getD ⟨.full, 0⟩
def Slot.setCr (t : Slot) (n : Nat) (r : Reg 131072) : Slot := { t with c := nput t.c n r }

/-- State of a register of any file. -/
def Slot.regSt (t : Slot) (f : RFile) (n : Nat) : RegState :=
  match f with
  | .x => (t.xr n).st
  | .v => (t.vr n).st
  | .m => (t.mr n).st
  | .c => (t.cr n).st

/-- Bits 63:0 of a register of any file: the descriptor when it is POISON (R80). -/
def Slot.regLow (t : Slot) (f : RFile) (n : Nat) : Word :=
  match f with
  | .x => (t.xr n).val
  | .v => (t.vr n).val.setWidth 64
  | .m => (t.mr n).val.setWidth 64
  | .c => (t.cr n).val.setWidth 64

/-- Writes state and low 64 bits of a register, the rest zero. -/
def Slot.setRegLow (t : Slot) (f : RFile) (n : Nat) (st : RegState) (v : Word) : Slot :=
  match f with
  | .x => t.setXr n ⟨st, v⟩
  | .v => t.setVr n ⟨st, v.setWidth 2048⟩
  | .m => t.setMr n ⟨st, v.setWidth 34816⟩
  | .c => t.setCr n ⟨st, v.setWidth 131072⟩

/-- Value of xn in the issuing slot. -/
def State.xv (s : State) (n : BitVec 5) : Word := (s.me.xr n.toNat).val
/-- Value of vn in the issuing slot. -/
def State.vv (s : State) (n : BitVec 5) : BitVec 2048 := (s.me.vr n.toNat).val

/-- Writes xn FULL in the issuing slot; x0 discards it (R60). -/
def State.setX (s : State) (n : BitVec 5) (v : Word) : State := s.modMe (fun t => t.setXr n.toNat ⟨.full, v⟩)
def State.setV (s : State) (n : BitVec 5) (v : BitVec 2048) : State := s.modMe (fun t => t.setVr n.toNat ⟨.full, v⟩)

def fileCode (f : RFile) : Nat := match f with | .x => 0 | .v => 1 | .m => 2 | .c => 3
def fileOf (n : Nat) : RFile := match n with | 0 => .x | 1 => .v | 2 => .m | _ => .c
def stCode (r : RegState) : Nat := match r with | .full => 0 | .pending => 1 | .poison => 2 | .vacant => 3
def stOf (n : Nat) : RegState := match n with | 0 => .full | 1 => .pending | 2 => .poison | _ => .vacant
def roleCode (r : Role) : Nat := match r with | .none => 0 | .m => 1 | .v => 2 | .c => 3 | .s => 4 | .k => 5 | .t => 6
def roleOf (n : Nat) : Role := match n with | 1 => .m | 2 => .v | 3 => .c | 4 => .s | 5 => .k | 6 => .t | _ => .none
def slotCode (r : SlotState) : Nat := match r with | .empty => 0 | .running => 1 | .parked => 2 | .frozen => 3 | .halted => 4
/-- Register identity of R84. -/
def regIdent (f : RFile) (n : Nat) : Word := wd (fileCode f * 256 + n)

/-- Files that a role holds (R59). -/
def roleHolds (r : Role) (f : RFile) : Bool :=
  match f with
  | .x => true
  | .v => r == .v
  | .m | .c => r == .m

/-! ## Event counters (R369 to R371) -/

/-- Adds n events of a code to the counters of a core that select it. -/
def Core.count (k : Core) (code : Nat) (slot : Option Nat) (n : Nat) : Core :=
  { k with evcnt := (List.range 8).foldl (fun m j =>
      let sel := (nget k.evsel j).getD 0
      let mask := wf sel 48 16
      let hit := wf sel 0 6 == code && code != 0 && (match slot with
        | some b => mask == 0 || mask.testBit b
        | none => true)
      if hit then nput m j ((nget m j).getD 0 + wd n) else m) k.evcnt }

def State.count (s : State) (c code : Nat) : State := s.modCore c (fun k => k.count code none 1)
def State.countS (s : State) (c n code : Nat) : State := s.modCore c (fun k => k.count code (some n) 1)

/-- A site event is counted on every core of the site (R370). -/
def State.countSite (s : State) (site code : Nat) : State :=
  (List.range 16).foldl (fun s i => if (nget s.cores (16 * site + i)).isSome then s.count (16 * site + i) code else s) s

/-- Router counters of a site (R371). -/
def State.countRouter (s : State) (site code : Nat) : State :=
  s.modSite site (fun t => { t with counters := (List.range 4).foldl (fun m j =>
    if wf ((nget t.selects j).getD 0) 0 4 == code && code != 0 then nput m j ((nget m j).getD 0 + 1) else m) t.counters })

/-! ## Free values (log 3) -/

def State.freshWord (s : State) : Word := Config.freeWord s.freeCtr
def State.useFree (s : State) : State := { s with freeCtr := s.freeCtr + 1 }

end Sys2Proof.Machine
end

