-- ==== Sys2Proof/Machine/Blocks.lean ====
section
/-! DEFINITION. Block compression (R143 to R146). -/

namespace Sys2Proof.Machine

/-- Element i of e bytes of a block, unsigned (R143). -/
def blockElem (d : BitVec 1024) (e i : Nat) : Nat := (d.extractLsb' (8 * e * i) (8 * e)).toNat

/-- Whether an e-byte number, read as signed, lies in the signed k-byte range. -/
def fitsBytes (x e k : Nat) : Bool := x < 2 ^ (8 * k - 1) || 2 ^ (8 * e) - 2 ^ (8 * k - 1) ≤ x

/-- Whether a code of element size e and delta width k can hold the block (R145). -/
def baseDelta (d : BitVec 1024) (e k : Nat) : Bool :=
  let xs := (List.range (128 / e)).map (blockElem d e)
  match xs.find? (fun x => !fitsBytes x e k) with
  | none => true
  | some base => xs.all (fun x => fitsBytes x e k || fitsBytes ((x + 2 ^ (8 * e) - base) % 2 ^ (8 * e)) e k)

/-- The codes with their sizes in bytes, fewest bytes first and lowest code on a tie (R143). -/
def blockCodes : List (Nat × Nat × Nat × Nat) :=
  [(1, 0, 0, 0), (2, 8, 0, 8), (3, 8, 1, 26), (7, 4, 1, 40), (4, 8, 2, 42), (5, 8, 3, 58), (8, 4, 2, 72), (6, 8, 4, 74), (10, 2, 1, 74), (9, 4, 3, 104)]

/-- The code the encoder chooses (R145). -/
def bestCode (d : BitVec 1024) : BitVec 4 :=
  match blockCodes.find? (fun c =>
    if c.1 == 1 then d == 0
    else if c.1 == 2 then (List.range 16).all (fun i => blockElem d 8 i == blockElem d 8 0)
    else baseDelta d c.2.1 c.2.2.1) with
  | some c => BitVec.ofNat 4 c.1
  | none => 0

/-- Base of a block under a code: the lowest element that does not fit, or 0 (R145). -/
def blockBase (d : BitVec 1024) (e k : Nat) : Nat :=
  (((List.range (128 / e)).map (blockElem d e)).find? (fun x => !fitsBytes x e k)).getD 0

/-- The bytes of a block under a code, as one little-endian number: base, mask, deltas (R144). -/
def encodeBlock (d : BitVec 1024) (code : BitVec 4) : Nat :=
  match blockCodes.find? (fun c => c.1 == code.toNat) with
  | none => d.toNat
  | some (1, _) => 0
  | some (2, _) => blockElem d 8 0
  | some (_, e, k, _) =>
    let n := 128 / e
    let base := blockBase d e k
    let mask := (List.range n).foldl (fun a i => if fitsBytes (blockElem d e i) e k then a else a + 2 ^ i) 0
    let deltas := (List.range n).foldl (fun a i =>
      let x := blockElem d e i
      let v := if fitsBytes x e k then x else (x + 2 ^ (8 * e) - base) % 2 ^ (8 * e)
      a + v % 2 ^ (8 * k) * 2 ^ (8 * k * i)) 0
    base + mask * 2 ^ (8 * e) + deltas * 2 ^ (8 * e + n)

/-- Decodes the bytes of a block under a code (R144). -/
def decodeBlock (b : Nat) (code : BitVec 4) : BitVec 1024 :=
  match blockCodes.find? (fun c => c.1 == code.toNat) with
  | none => BitVec.ofNat 1024 b
  | some (1, _) => 0
  | some (2, _) => BitVec.ofNat 1024 ((List.range 16).foldl (fun a i => a + fieldOf b 0 64 * 2 ^ (64 * i)) 0)
  | some (_, e, k, _) =>
    let n := 128 / e
    let base := fieldOf b 0 (8 * e)
    BitVec.ofNat 1024 ((List.range n).foldl (fun a i =>
      let dl := fieldOf b (8 * e + n + 8 * k * i) (8 * k)
      let sx := if dl < 2 ^ (8 * k - 1) then dl else dl + 2 ^ (8 * e) - 2 ^ (8 * k)
      let x := ((if b.testBit (8 * e + i) then base else 0) + sx) % 2 ^ (8 * e)
      a + x * 2 ^ (8 * e * i)) 0)

/-- Bytes of a block under a code (R143). -/
def codeBytes (code : BitVec 4) : Nat := ((blockCodes.find? (fun c => c.1 == code.toNat)).map (fun c => c.2.2.2)).getD 128

end Sys2Proof.Machine
end

