-- ==== Sys2Proof/Machine/Net.lean ====
section
/-! DEFINITION. Packets on the two meshes (R28 to R44, R443): route tables, the source router, hops, arrival, journeys. -/

namespace Sys2Proof.Machine

/-! ## Edge chiplets (R50, R51) -/

/-- Site at which an edge chiplet joins the meshes: the first bordered site of R51. -/
def edgeSite (side k : Nat) : Nat :=
  let h := [1, 5, 8, 14, 17, 21, 11].getD k 11
  let v := [1, 4, 7, 13, 16, 19, 10].getD k 10
  match side with
  | 0 => h
  | 1 => v * Config.cols + 23
  | 2 => 21 * Config.cols + h
  | _ => v * Config.cols

/-- The second site that an edge chiplet borders (R51). -/
def edgeSecond (side k : Nat) : Nat := if side % 2 = 0 then edgeSite side k + 1 else edgeSite side k + Config.cols

/-- Site of control chiplet d. -/
def procSite (d : Nat) : Nat := edgeSite d 6

/-- The edge chiplet a site name belongs to: side and index (R50). -/
def edgeOfName (n : Nat) : Option (Nat × Nat) :=
  if 0xFE0 ≤ n && n < 0xFFC then some ((n - 0xFE0) / 7, (n - 0xFE0) % 7) else none

/-- Name of an edge chiplet, in the layout of a core name (R50). -/
def edgeName (side k : Nat) : BitVec 16 := BitVec.ofNat 16 ((0xFE0 + 7 * side + k) * 16)

/-! ## Route tables (R33, R36, R37) -/

/-- Entry of a route table. -/
def Site.route (t : Site) (n : Nat) : BitVec 32 := (nget t.routes n).getD 0

def rtValid (e : BitVec 32) : Bool := e.getLsbD 25
def rtPinned (e : BitVec 32) : Bool := e.getLsbD 24
def rtSelect (e : BitVec 32) : Nat := fieldOf e.toNat 22 2
def rtAge (e : BitVec 32) : Nat := fieldOf e.toNat 20 2
def rtWay (e : BitVec 32) : Nat := fieldOf e.toNat 10 10
def rtSite (e : BitVec 32) : Nat := fieldOf e.toNat 5 5 * Config.cols + fieldOf e.toNat 0 5

/-- A route entry from its fields (R33). -/
def rtMake (valid pinned : Bool) (select age way row col : Nat) : BitVec 32 :=
  BitVec.ofNat 32 ((if valid then 2 ^ 25 else 0) + (if pinned then 2 ^ 24 else 0) + select % 4 * 2 ^ 22 + age % 4 * 2 ^ 20 +
    way % 1024 * 2 ^ 10 + row % 32 * 32 + col % 32)

/-- The visit of the sweep pointer that every lookup makes (R37). -/
def Site.sweepVisit (t : Site) : Site :=
  let p := t.sweep.toNat
  let e := t.route p
  let t' := { t with sweep := t.sweep + 1 }
  if rtValid e && !rtPinned e then
    if rtAge e < 3 then { t' with routes := nput t.routes p (e + (1#32 <<< 20)) }
    else { t' with routes := nput t.routes p (e &&& ~~~(1#32 <<< 25)) }
  else t'

/-- Whether the routers of a site forward packets and write learnt entries (R54): from GREETED on; those of a FENCED site keep forwarding
where they did before. -/
def Site.forwards (t : Site) : Bool :=
  match t.state with | .greeted | .named | .loaded | .running => true | .fenced => 2 ≤ t.before | _ => false

def State.forwards (s : State) (n : Nat) : Bool := (s.site n).forwards

/-- The site at which what an edge chiplet sends enters the meshes (R51): the first bordered one, or the second where only that one's
routers forward (log 47). -/
def State.port (s : State) (side k : Nat) : Nat :=
  if !s.forwards (edgeSite side k) && s.forwards (edgeSecond side k) then edgeSecond side k else edgeSite side k

/-- The site at which what control chiplet d sends enters the meshes. -/
def State.procPort (s : State) (d : Nat) : Nat := s.port d 6

/-- The header fields that teach a router: the source's name and site, the mesh of arrival, and the waypoint once it is passed (R30, R36). -/
structure Teach where
  name : BitVec 16
  src : Nat
  yx : Bool
  way : Option Nat
  deriving DecidableEq, Repr

/-- What a passing packet teaches a router (R36). The entry is taken as it stood before the lookup's own visit, so that a refresh of
the visited entry leaves age 0 and its select (R37). A sender without a name teaches nothing (log 32). -/
def State.learn (s : State) (r : Nat) (h : Teach) : State :=
  let n := (h.name.extractLsb' 4 12).toNat
  if !s.forwards r || 0xFFC ≤ n then s
  else
    let e := (s.site r).route n
    let t := (s.site r).sweepVisit
    let fresh := match h.way with
      | some w => rtMake true false 2 0 w (rowOf h.src) (colOf h.src)
      | none => rtMake true false (if h.yx then 0 else 1) 0 0 (rowOf h.src) (colOf h.src)
    if !rtValid e then s.setSite r { t with routes := nput t.routes n fresh }
    else if rtPinned e then (if rtSite e == h.src then s.setSite r t else (s.setSite r t).countRouter r 7)
    else s.setSite r { t with routes := nput t.routes n (if rtSite e == h.src then e &&& ~~~(3#32 <<< 20) else fresh) }

/-- Select entry of the physical table (R34): home bit, select, waypoint. -/
def Site.physSel (t : Site) (n : Nat) : BitVec 13 := (nget t.phys n).getD 0
def physHome (e : BitVec 13) : Bool := e.getLsbD 12
def physSelect (e : BitVec 13) : Nat := fieldOf e.toNat 10 2
def physWay (e : BitVec 13) : Nat := fieldOf e.toNat 0 10

/-- Adds a violation to a log of eight entries (R49); a full log counts it. Which free entry it takes is open: the lowest (log 33). -/
def logViolation (m : NMap Word) (ov : Word) (activity part addr : Nat) : NMap Word × Word :=
  match (List.range 8).find? (fun i => !((nget m i).getD 0).getLsbD 63) with
  | some i => (nput m i (wd (2 ^ 63 + activity % 8 * 2 ^ 60 + part % 16 * 2 ^ 56 + addr % 2 ^ 43)), ov)
  | none => (m, ov + 1)

def State.siteViolation (s : State) (site activity part addr : Nat) : State :=
  s.modSite site (fun t => let (m, o) := logViolation t.vlog t.voverflow activity part addr; { t with vlog := m, voverflow := o })

/-! ## Flits (R29, R143) -/

/-- Header and data flits of a transfer of n bytes in packets of at most 128 bytes. -/
def dataFlits (n : Nat) : Nat := max 1 ((n + 127) / 128) + (n + 31) / 32

/-- Bytes that a body carries. -/
def Body.bytes (b : Body) : Nat :=
  match b with
  | .mem r => (match r.op with | .load .. | .lr _ => 0 | .sc d _ | .amo _ d _ => if d then 8 else 4 | .store n _ => n)
  | .ifetch .. | .walk .. | .rinvAck _ | .stealReq _ | .ack _ | .discarded .. | .cache .. => 0
  | .dir .. => 32
  | .rinv .. => 16
  | .segment _ bs red => bs.length + 4 * red.length
  | .rma _ _ _ _ bs => bs.length
  | .replica _ _ _ _ bs _ => bs.length
  | .barEvent .. | .bufFree .. | .note .. | .tresume .. | .tkill .. | .dirAns .. | .segAns .. | .stFail .. | .mcAns .. | .flip .. => 8
  | .send _ _ ws | .sendt _ _ _ _ ws => 8 * ws.length
  | .stealAns r => (match r with | some r => 8 * r.dwords.length | none => 0)
  | .sitePacket .. => 128
  | .fill .. => 8
  | .lineFill _ _ _ _ _ code => codeBytes code
  | .ifill _ d code => if d.isSome then codeBytes code else 0
  | .walkAns .. => 64

/-- Flits of a packet. -/
def Body.flits (b : Body) : Nat := dataFlits b.bytes

/-! ## The source router (R31, R35, R38, R47, R443) -/

/-- Address that a packet reports: its physical address or its dest name; one addressed by coordinates reports the first byte of its site
(log 49). -/
def Dest.detail (d : Dest) : Nat :=
  match d with
  | .name n => n.toNat
  | .phys pa => pa
  | .coords n => n * 2 ^ 33

/-- Same destination for the in-order rule of R32. -/
def Dest.same (a b : Dest) : Bool :=
  match a, b with
  | .name m, .name n => m.extractLsb' 4 12 == n.extractLsb' 4 12
  | .phys p, .phys q => p / 2 ^ 33 == q / 2 ^ 33
  | .coords m, .coords n => m == n
  | _, _ => false

/-- A packet that its source router refuses for the partition is logged and counted (R47). -/
def State.refusePart (s : State) (site part addr : Nat) : State := (s.siteViolation site 4 part addr).countRouter site 11

/-- Whether a packet escapes the check of R47: system-class traffic of a control chiplet, and the answers to it. -/
def partExempt (cls : PClass) (src : Sender) : Bool :=
  match cls, src with
  | .system, .proc _ | .response, .proc _ => true
  | _, _ => false

/-- Where the source router sends a packet: its state, site, waypoint and mesh, after R443 checks 1 to 4. -/
structure Routed where
  st : FState
  dsite : Nat
  via : Option Nat
  yx : Bool
  deriving DecidableEq, Repr

def routeBy (s : State) (part : Nat) (exempt : Bool) (dsite sel way : Nat) (home : Bool) : Routed :=
  let rect := s.partRect part
  if !exempt && !(inRect rect dsite && (sel != 2 || inRect rect way)) then ⟨.failed 0x23, dsite, none, false⟩
  else if !home then ⟨.failed 0x27, dsite, none, false⟩
  else match sel with
    | 0 => ⟨.moving, dsite, none, false⟩
    | 1 => ⟨.moving, dsite, none, true⟩
    | 2 => ⟨.moving, dsite, some way, false⟩
    | _ => ⟨.failed 0x21, dsite, none, false⟩

/-- The source router's decision on a packet. The own site's name needs no entry (log 12). -/
def routePacket (s : State) (cls : PClass) (src : Sender) (site part : Nat) (dest : Dest) : Routed :=
  let t := s.site site
  let ex := partExempt cls src
  match dest with
  | .coords n => routeBy s part ex n 0 0 true
  | .phys pa =>
    let n := pa / 2 ^ 33
    if Config.sites ≤ n then ⟨.failed 0x27, site, none, false⟩
    else
      let e := t.physSel n
      routeBy s part ex n (physSelect e) (physWay e) (physHome e)
  | .name n =>
    let sn := (n.extractLsb' 4 12).toNat
    if sn == t.name.toNat && t.named then routeBy s part ex site 0 0 true
    else
      let e := t.route sn
      if !rtValid e then ⟨.held, site, none, false⟩
      else if rtSelect e == 3 then ⟨.failed 0x21, rtSite e, none, false⟩
      else routeBy s part ex (rtSite e) (rtSelect e) (rtWay e) true

/-- Whether a lookup in the route table is made (R37). -/
def Dest.byName (d : Dest) : Bool := match d with | .name _ => true | _ => false

/-- Name that a site gives as the source of what it sends: 0xFFFF while it has none. -/
def State.siteSource (s : State) (n : Nat) : BitVec 16 := if (s.site n).named then (s.site n).name ++ 0#4 else 0xFFFF

/-- Source name of a sender at a site (R30). -/
def State.sourceName (s : State) (x : Sender) (site : Nat) : BitVec 16 :=
  match x with
  | .core c => if (s.site (siteOf c)).named then s.coreName c else 0xFFFF
  | .proc d => if site == procSite d || site == edgeSecond d 6 then edgeName d 6 else s.siteSource site
  | .chip n => edgeName (n / 6) (n % 6)
  | .gleaner .. | .site _ => s.siteSource site

/-- The core whose cycle count stands for the clock of a sender's site (R27): the sender itself, or core 0 of the site that it is part of or
borders. -/
def Sender.clock (x : Sender) : Nat :=
  match x with
  | .core c => c
  | .gleaner _ n | .site n => 16 * n
  | .proc d => 16 * procSite d
  | .chip n => 16 * edgeSite (n / 6) (n % 6)

/-- Whether a sender counts cycles of its own: a command processor, a network chiplet (R300, R379). -/
def Sender.ownClock (x : Sender) : Bool := match x with | .proc _ | .chip _ => true | _ => false

/-- The cycle that a sender counts its deadlines on (R27, R39, R44, R379). -/
def State.nowOf (s : State) (x : Sender) : Nat :=
  match x with
  | .proc d => (s.proc d).cycles.toNat
  | .chip n => (s.chip n).cycles
  | x => (s.core x.clock).cycle

/-- Whether a packet stands at its source router or port because the router holds it (R32). -/
def FState.isHeld (st : FState) : Bool := match st with | .held | .behind | .atPort | .waiting _ => true | _ => false

/-- Whether a packet is addressed to a name that its site does not know: its entry is invalid, and it is not the site's own (R38). -/
def State.nameUnknown (s : State) (site : Nat) (d : Dest) : Bool :=
  match d with
  | .name n =>
    let sn := (n.extractLsb' 4 12).toNat
    !(sn == (s.site site).name.toNat && (s.site site).named) && !rtValid ((s.site site).route sn)
  | _ => false

/-- Packets other than one that a site holds for unknown names (R38): those held for a name themselves, and those behind them. -/
def State.holdCount (s : State) (site fid : Nat) : Nat :=
  (s.flights.filter (fun f => f.fid != fid && f.srcSite == site && f.dest.byName && (f.st == .held || (f.st == .behind && s.nameUnknown site f.dest)))).length

/-- Whether the hold of a site has no room for a packet for an unknown name (R38). -/
def State.holdFull (s : State) (f : Flight) : Bool := s.nameUnknown f.srcSite f.dest && Nat.ble 32 (s.holdCount f.srcSite f.fid)

/-- Opens or keeps a flood for a name, whose probes are counted from a cycle of the sending core: that of the first held packet's issue
(R38). -/
def State.openFlood (s : State) (site : Nat) (core : Nat) (name : BitVec 12) (since : Nat) : State :=
  if (s.site site).floods.any (fun f => f.name == name && !f.done) then s
  else (s.countRouter site 5).modSite site (fun t =>
    { t with floods := t.floods.filter (fun f => f.name != name) ++ [⟨name, core, since, 1, true, [], false⟩] })

def State.findFlight (s : State) (fid : Nat) : Option Flight := s.flights.find? (fun f => f.fid == fid)
def State.dropFlight (s : State) (fid : Nat) : State := { s with flights := s.flights.filter (fun f => f.fid != fid) }
def State.setFlight (s : State) (g : Flight) : State := { s with flights := s.flights.map (fun f => if f.fid == g.fid then g else f) }

/-- Core that a packet by name is addressed to. -/
def Flight.destCore (f : Flight) : Nat := match f.dest with | .name n => 16 * f.dsite + (n.setWidth 4).toNat | _ => 16 * f.dsite

/-- Whether a body is addressed to a core rather than to a site. -/
def Body.toCore (b : Body) : Bool :=
  match b with
  | .mem r => (match r.target with | .window _ => true | _ => false)
  | .segment .. | .replica .. | .flip .. | .barEvent .. | .send .. | .sendt .. | .stealReq _ | .note .. | .tresume .. | .tkill .. => true
  | _ => false

/-- State of a packet that has reached its site: R41, then R43 and R42 in the order of R443. An edge chiplet takes what is addressed to it, and
has no cores (R14, R50). -/
def arrivalState (s : State) (f : Flight) : FState :=
  let t := s.site f.dsite
  let fenced := t.state == .fenced && f.cls != .response && (match f.body with | .sitePacket .. => false | _ => true)
  match f.dest with
  | .name n =>
    let sn := n.extractLsb' 4 12
    match edgeOfName sn.toNat with
    | some (side, k) =>
      if f.dsite != edgeSite side k && f.dsite != edgeSecond side k then .moved
      else if f.body.toCore then .failed 0x20 else .arrived
    | none =>
    if t.name != sn || !t.named then .moved
    else if fenced then .failed 0x26
    else if f.body.toCore && !s.exposed (16 * f.dsite + (n.setWidth 4).toNat) then .failed 0x20
    else .arrived
  | _ => if fenced then .failed 0x26 else .arrived

/-- A MOVED that a router answers is counted (R371). -/
def State.countMoved (s : State) (f : Flight) (st : FState) : State := if st == .moved then s.countRouter f.dsite 4 else s

/-- A packet has reached its site. -/
def State.land (s : State) (f : Flight) : State :=
  let st := arrivalState s f
  ((s.setFlight { f with st := st, arr := s.nextId, arrAt := (s.core (match f.body with | .stealAns _ => f.src.clock | _ => f.destCore)).cycle }).bump).countMoved f st

/-- What the header of a packet teaches. -/
def Flight.teach (f : Flight) : Teach := ⟨f.srcName, f.srcSite, f.yx, if f.phase then f.via else none⟩

/-- A packet as its source router sees it after the lookup: refused, held, or on its way; one for its own site is there at once. -/
def State.dispatchFlight (s : State) (f : Flight) (r : Routed) (ahead : Bool) : State :=
  let full := s.holdFull f
  let st := match r.st with
    | .held => if full then .atPort else .held
    | .failed x => if ahead then .behind else .failed x
    | x => if ahead then (if full then .atPort else .behind) else x
  let g : Flight := { f with dsite := r.dsite, via := r.via, yx := r.yx, phase := false, pos := f.srcSite, st := st,
                             left := if st == .moving && f.cls != .response then s.nowOf f.src else f.left }
  let s := s.setFlight g
  match st with
  | .failed 0x23 => s.refusePart f.srcSite f.part.toNat f.dest.detail
  | .held => (match f.dest with
    | .name n => s.openFlood f.srcSite f.src.clock (n.extractLsb' 4 12) f.issued
    | _ => s)
  | .moving =>
    let s := s.learn f.srcSite ⟨f.srcName, f.srcSite, r.yx, none⟩
    if r.via.isNone && r.dsite == f.srcSite then s.land g else s
  | _ => s

/-- Whether a packet of the same destination is held ahead of f at its source (R32). -/
def State.heldAhead (s : State) (f : Flight) : Bool :=
  (s.flights.takeWhile (fun g => g.fid != f.fid)).any (fun g => g.srcSite == f.srcSite && g.dest.same f.dest && g.st.isHeld)

/-- A message of a core to itself, which no router handles (R320). -/
def Flight.inCore (f : Flight) : Bool := (match f.body with | .send .. | .sendt .. => true | _ => false) && f.src == .core f.destCore

/-- Whether an earlier packet of the same class and destination is still on its way by another route: a later one waits for it, so that no
change of a route reverses the order of two accesses to a byte (R32, R149; log 35). -/
def State.otherWay (s : State) (f : Flight) (r : Routed) : Bool :=
  f.cls != .response && (s.flights.takeWhile (fun g => g.fid != f.fid)).any (fun g =>
    g.srcSite == f.srcSite && g.cls == f.cls && g.dest.same f.dest && !g.inCore &&
      (match g.st with
        | .moving | .arrived => !(g.via == r.via && (r.via.isSome || g.yx == r.yx))
        | .blocked => true
        | _ => false))

/-- Whether a packet has to wait at its source router or port for earlier ones (R32). -/
def State.mustWait (s : State) (f : Flight) (r : Routed) : Bool := s.heldAhead f || (r.st == .moving && s.otherWay f r)

/-- Routes a packet of a source router: the lookup, its visit (R37), and what comes of it. An answer keeps the mesh it was given. -/
def State.reroute (s : State) (fid : Nat) : State :=
  match s.findFlight fid with
  | none => s
  | some f =>
    let r := routePacket s f.cls f.src f.srcSite f.part.toNat f.dest
    let r := match f.dest with | .coords _ => { r with yx := f.yx } | _ => r
    let s := if f.dest.byName then s.setSite f.srcSite ((s.site f.srcSite).sweepVisit) else s
    s.dispatchFlight f r (s.mustWait f r)

/-- Hands a packet to its source router. -/
def State.inject (s : State) (cls : PClass) (src : Sender) (site : Nat) (part : BitVec 4) (dest : Dest) (body : Body) (yx : Bool := false) : State :=
  let now := s.nowOf src
  let f : Flight := { fid := s.nextId, cls := cls, src := src, srcSite := site, srcName := s.sourceName src site, part := part, dest := dest, dsite := site,
                      via := none, phase := false, pos := site, yx := yx, retry := false, st := .behind, issued := now, left := now,
                      detail := dest.detail, dead := false, arr := 0, arrAt := 0, body := body }
  { s.bump with flights := s.flights ++ [f] }.reroute f.fid

/-- Name of the unit that answers a packet: an edge chiplet's, or that of the site. -/
def State.answerName (s : State) (f : Flight) : BitVec 16 :=
  match f.dest with
  | .name n => if (edgeOfName (n.extractLsb' 4 12).toNat).isSome then n.extractLsb' 4 12 ++ 0#4 else s.siteSource f.dsite
  | _ => s.siteSource f.dsite

/-- An answer in the class given travels back by coordinates on the other mesh than its request, without a waypoint (log 48); it keeps the
requester as its sender, and what a failure of it reports (R43). -/
def State.answerIn (s : State) (cls : PClass) (f : Flight) (body : Body) : State :=
  let g : Flight := { f with fid := s.nextId, cls := cls, srcSite := f.dsite, srcName := s.answerName f, dest := .coords f.srcSite, dsite := f.dsite, via := none,
                             phase := false, pos := f.dsite, yx := !f.yx, retry := false, st := .behind, issued := s.nowOf f.src, body := body }
  { s.bump with flights := s.flights ++ [g] }.reroute g.fid

/-- An answer in the response class. -/
def State.answer (s : State) (f : Flight) (body : Body) : State := s.answerIn .response f body

/-- A base die that takes packets: neither dark nor retired. -/
def State.siteLive (s : State) (n : Nat) : Bool := match (s.site n).state with | .dark | .retired => false | _ => true

/-! ## Hops (R32, R35, R40) -/

/-- Direction of a hop: 0 N, 1 E, 2 S, 3 W. -/
def hopDir (pos goal : Nat) (yx : Bool) : Nat :=
  let dx := if colOf pos < colOf goal then some 1 else if colOf goal < colOf pos then some 3 else none
  let dy := if rowOf pos < rowOf goal then some 2 else if rowOf goal < rowOf pos then some 0 else none
  if yx then dy.getD (dx.getD 0) else dx.getD (dy.getD 0)

/-- The neighbour in a direction (R9). -/
def neighbour (n dir : Nat) : Option Nat :=
  match dir with
  | 0 => if rowOf n = 0 then none else some (n - Config.cols)
  | 1 => if colOf n + 1 < Config.cols then some (n + 1) else none
  | 2 => if rowOf n + 1 < Config.rows then some (n + Config.cols) else none
  | _ => if colOf n = 0 then none else some (n - 1)

/-- Health bit of a link of one mesh (R44). -/
def State.linkGood (s : State) (n dir : Nat) (yx : Bool) : Bool :=
  (nget (s.site n).links (2 * dir + (if yx then 1 else 0))).getD false

/-- Flits that leave a router on a mesh are counted (R371). -/
def State.countFlits (s : State) (n : Nat) (yx : Bool) (flits : Nat) : State := (List.range flits).foldl (fun s _ => s.countRouter n (if yx then 2 else 1)) s

/-- Two packets that R32 keeps in order. -/
def sameLane (f g : Flight) : Bool :=
  f.cls == g.cls && f.srcSite == g.srcSite && f.dsite == g.dsite && f.yx == g.yx && f.via == g.via

/-- Whether a body answers a request whose future can be given up (R44). -/
def Body.isAnswer (b : Body) : Bool :=
  match b with
  | .fill .. | .lineFill .. | .ifill .. | .walkAns .. | .dirAns .. | .stFail .. | .segAns .. | .mcAns .. | .discarded .. | .ack _ | .stealAns _ => true
  | _ => false

/-- The unit of a site that takes a body: what is in order up to the site stays in order up to its unit. Units 4 and 6, an invalidation and
plots that are to be flipped, hold nothing back while they wait. -/
def Body.unit (b : Body) : Nat :=
  match b with
  | .mem r => (match r.target with | .phys _ => 0 | .window _ => 1 | .router .. => 2)
  | .send .. | .sendt .. => 3
  | .rinv .. => 4
  | .note .. | .tresume .. | .tkill .. => 5
  | .flip .. | .replica _ _ _ _ [] (some _) => 6
  | _ => 0

/-- Whether an earlier packet of the same lane is still ahead of f at its router, or before the unit that f is for. -/
def State.overtakes (s : State) (f : Flight) : Bool :=
  (s.flights.takeWhile (fun g => g.fid != f.fid)).any (fun g => sameLane f g && g.pos == f.pos &&
    (match g.st, f.st with
      | .moving, .moving => true
      | .arrived, .arrived => g.body.unit == f.body.unit && g.body.unit != 4 && g.body.unit != 6 && !g.inCore && !f.inCore
      | _, _ => false))

/-- Moves a packet on by one hop, or lets it arrive; a link that is not good answers BLOCKED. A router that does not forward yet holds
the packet under the handshake. -/
def State.hop (s : State) (f : Flight) : State :=
  if !s.forwards f.pos then s
  else
    let f := if f.via == some f.pos && !f.phase then { f with phase := true, yx := true } else f
    let goal := match f.via, f.phase with | some w, false => w | _, _ => f.dsite
    if f.pos == goal then s.land f
    else
      let d := hopDir f.pos goal f.yx
      match neighbour f.pos d with
      | none => s
      | some n =>
        if s.linkGood f.pos d f.yx then ((s.setFlight { f with pos := n }).countFlits f.pos f.yx f.body.flits).learn n f.teach
        else (s.setFlight { f with st := .blocked }).countRouter f.pos 3

/-- Whether every link of a dimension-ordered route is good and its routers forward (R40, R54). -/
def State.pathGood (s : State) (pos goal : Nat) (yx : Bool) (fuel : Nat) : Bool :=
  match fuel with
  | 0 => true
  | k + 1 =>
    if pos == goal then true
    else
      let d := hopDir pos goal yx
      match neighbour pos d with
      | none => false
      | some n => s.linkGood pos d yx && s.forwards pos && s.pathGood n goal yx k

/-! ## Journeys: packets whose way is one step of the model (R36, R40, R43; log 35) -/

/-- A packet rides from a router to another on one mesh, teaching every router it reaches; it ends at the goal or where a link is not good. -/
def State.ride (s : State) (pos goal : Nat) (h : Teach) (flits fuel : Nat) : State × Nat :=
  match fuel with
  | 0 => (s, pos)
  | k + 1 =>
    if pos == goal then (s, pos)
    else
      let d := hopDir pos goal h.yx
      match neighbour pos d with
      | none => (s, pos)
      | some n =>
        if s.linkGood pos d h.yx && s.forwards pos then ((s.countFlits pos h.yx flits).learn n h).ride n goal h flits k
        else (s.countRouter pos 3, pos)

/-- A ride by way of a waypoint, if there is one: on the XY mesh up to it, then on the YX mesh. Answers where it ended, the mesh it
was on, and the waypoint once it was passed. -/
def State.rideVia (s : State) (pos goal : Nat) (h : Teach) (via : Option Nat) (flits : Nat) : State × Nat × Bool × Option Nat :=
  match via with
  | none => let (s, p) := s.ride pos goal h flits 64; (s, p, h.yx, none)
  | some w =>
    match s.ride pos w { h with yx := false } flits 64 with
    | (s, p) => if p == w then (let (s, p) := s.ride w goal { h with yx := true, way := some w } flits 64; (s, p, true, some w)) else (s, p, false, none)

/-- An answer of a router or unit at `pos` rides back to the source of a packet that came on a mesh, retracing its path: on the other
mesh, or by the same waypoint once the packet has passed it. A blocked answer is sent once more on the mesh it did not try (R40). The router
at `pos` checks it against the partition it is sent in, if any (R47; log 35). -/
def State.rideBack (s : State) (part : Option (BitVec 4)) (pos src : Nat) (name : BitVec 16) (yx : Bool) (way : Option Nat) (flits : Nat) : State × Bool :=
  if part.any (fun p => !inRect (s.partRect p.toNat) src) then (s.refusePart pos (part.getD 0).toNat (Dest.detail (.coords src)), false)
  else
    let h : Teach := ⟨name, pos, !yx, none⟩
    match (s.learn pos h).rideVia pos src h way flits with
    | (s, p, m, _) =>
      if p == src then (s, true)
      else match s.ride pos src { h with yx := !m } flits 64 with
        | (s, q) => (s, q == src)

/-- A record of a site travels to its control chiplet on the system class (R29, R54, R56, R377): on the XY mesh or, where that is blocked, on the
YX mesh. One that finds no way is lost (log 60). -/
def State.logRide (s : State) (n flits : Nat) : State × Bool := s.rideBack none n (s.procPort (s.site n).chiplet) (s.siteSource n) true none flits

/-- A report of a site, told to the control node by its control chiplet. -/
def State.siteReport (s : State) (n : Nat) (r : Report) : State :=
  match s.logRide n 1 with
  | (s, true) => s.report r
  | (s, false) => s

/-- The partition in which an answer to a sender's packet is checked: none where the traffic is exempt (R47). -/
def answerPart (cls : PClass) (src : Sender) (part : BitVec 4) : Option (BitVec 4) := if partExempt cls src then none else some part

/-- A router's or unit's notice about a packet (BLOCKED, BLOCKED-FULL, MOVED, an error response) rides back to the packet's source. -/
def State.notice (s : State) (f : Flight) : State × Bool :=
  if f.pos == f.srcSite then (s, true) else s.rideBack (answerPart f.cls f.src f.part) f.pos f.srcSite (s.siteSource f.pos) f.yx (if f.phase then f.via else none) 1

/-- Writes the select of an entry of a site's physical table (R40). -/
def State.putPhysSelect (s : State) (site n sel : Nat) : State :=
  s.modSite site (fun t => { t with phys := nput t.phys n ((t.physSel n &&& 0x13FF#13) ||| BitVec.ofNat 13 (sel % 4 * 2 ^ 10)) })

/-- How an access of an engine to a physical address went: a code that stops it, and whether it reached its home all the same. -/
structure Trip where
  code : Option (BitVec 8)
  reached : Bool
  deriving DecidableEq, Repr

/-- The answer's way back to the source of an engine's access; a home whose answer cannot come back leaves the future UNREACHABLE. -/
def State.tripBack (s : State) (part : BitVec 4) (home site : Nat) (yx : Bool) (way : Option Nat) (code : Option (BitVec 8)) (flits : Nat) : State × Trip :=
  match s.rideBack (some part) home site (s.siteSource home) yx way flits with
  | (s, ok) => (s, ⟨if ok then code else some 0x21, code.isNone⟩)

/-- The access of an engine to its home and back (R31, R35, R36, R40, R43, R47, R443): the packet's flits go out, the answer's come back.
Where the BLOCKED answer cannot come back the access is lost, code 0x25 (R44). -/
def State.travel (s : State) (src : Sender) (site : Nat) (part : BitVec 4) (pa out back : Nat) : State × Trip :=
  let r := routePacket s .request src site part.toNat (.phys pa)
  match r.st with
  | .failed x => (if x == 0x23 then s.refusePart site part.toNat pa else s, ⟨some x, false⟩)
  | _ =>
    let name := s.sourceName src site
    let h : Teach := ⟨name, site, r.yx, none⟩
    let s := s.learn site h
    let fenced (s : State) : Option (BitVec 8) := if (s.site r.dsite).state == .fenced then some 0x26 else none
    match s.rideVia site r.dsite h r.via out with
    | (s, p, m, way) =>
      if p == r.dsite then s.tripBack part p site m way (fenced s) back
      else match s.rideBack (some part) p site (s.siteSource p) m way 1 with
        | (s, false) => (s, ⟨some 0x25, false⟩)
        | (s, true) =>
          if r.via.isSome then (s, ⟨some 0x21, false⟩)
          else
            let s := s.putPhysSelect site r.dsite (if r.yx then 0 else 1)
            match s.ride site r.dsite { h with yx := !r.yx } out 64 with
            | (s, q) =>
              if q == r.dsite then s.tripBack part q site (!r.yx) none (fenced s) back
              else match s.rideBack (some part) q site (s.siteSource q) (!r.yx) none 1 with
                | (s, true) => (s.putPhysSelect site r.dsite 3, ⟨some 0x21, false⟩)
                | (s, false) => (s, ⟨some 0x25, false⟩)

/-- A request that its answer will never reach: it stands lost until its deadline (R44). -/
def State.loseFlight (s : State) (f : Flight) : State := { s with flights := s.flights ++ [{ f with st := .lost }] }

/-- An access of an engine is lost on its way (R44): what its sender learns at the deadline is the failure of a request with the body given. -/
def State.loseAccess (s : State) (src : Sender) (site : Nat) (part : BitVec 4) (detail : Nat) (body : Body) : State :=
  let now := s.nowOf src
  s.bump.loseFlight { fid := s.nextId, cls := .request, src := src, srcSite := site, srcName := s.sourceName src site, part := part, dest := .coords site, dsite := site,
                      via := none, phase := false, pos := site, yx := false, retry := false, st := .lost, issued := now, left := now,
                      detail := detail, dead := false, arr := 0, arrAt := 0, body := body }

/-! ## Taking packets -/

/-- The site's chiplets take packets: its clock is not gated (R56). -/
def State.siteTakes (s : State) (n : Nat) : Bool := !(s.site n).gated

/-- An arrived packet that its unit may take now. -/
def State.arrivedPacket (s : State) (fid : Nat) : Option Flight :=
  match s.findFlight fid with
  | some f => if f.st == .arrived && s.siteTakes f.dsite && !s.overtakes f then some f else none
  | none => none

/-- Body of an arrived packet that may be taken. -/
def State.arrivedBody (s : State) (fid : Nat) : Option Body := (s.arrivedPacket fid).map (·.body)

/-- Sender and body of an arrived packet that may be taken. -/
def State.arrivedFrom (s : State) (fid : Nat) : Option (Sender × Body) := (s.arrivedPacket fid).map (fun f => (f.src, f.body))

/-- Takes an arrived packet and does what its unit does; a packet that cannot be taken changes nothing. An answer that comes after its
future was given up is discarded and counted (R44, R371). -/
def State.withPacket (s : State) (fid : Nat) (act : Flight → State → State) : State :=
  match s.arrivedPacket fid with
  | none => s
  | some f =>
    match arrivalState s f with
    | .arrived => if f.dead && f.body.isAnswer then (s.dropFlight fid).countRouter f.dsite 10 else act f (s.dropFlight fid)
    | st => (s.setFlight { f with st := st }).countMoved f st

/-- Releases the packets held for a destination, in issue order (R32, R38). -/
def State.releaseHeld (s : State) (site : Nat) (d : Dest) : State :=
  (s.flights.filter (fun f => f.srcSite == site && f.dest.same d && (f.st == .held || f.st == .behind))).foldl (fun s f => s.reroute f.fid) s

/-- A packet that stands at its source behind earlier ones, or at a port for room, goes on once it may (R32, R38). -/
def State.goOn (s : State) (f : Flight) : State :=
  let r := routePacket s f.cls f.src f.srcSite f.part.toNat f.dest
  let r := match f.dest with | .coords _ => { r with yx := f.yx } | _ => r
  if s.mustWait f r || (f.st == .atPort && s.holdFull f) then s else s.reroute f.fid

/-- What stood behind a packet that has gone goes on. -/
def State.settleHeld (s : State) (site : Nat) : State :=
  (s.flights.filter (fun f => f.srcSite == site && (f.st == .behind || f.st == .atPort))).foldl (fun s f =>
    match s.findFlight f.fid with
    | some g => s.goOn g
    | none => s) s

end Sys2Proof.Machine
end

