-- ==== Sys2Proof/Machine/Mem.lean ====
section
/-! DEFINITION. Memory at its home: DRAM, the L2 slices, L1 copies, reservations, what the gleaner forwards (R133 to R149, R190, R387). -/

namespace Sys2Proof.Machine

/-! ## Lines of DRAM and L2 (R139, R142) -/

/-- Line number of a physical address. -/
def lineOf (pa : Nat) : Nat := pa / 128

/-- Home site of a physical address (R20). -/
def homeOf (pa : Nat) : Nat := pa / 2 ^ 33

/-- A line as DRAM holds it, expanded. -/
def State.dramLine (s : State) (l : Nat) : BitVec 1024 := BitVec.ofNat 1024 (memRead s.dram (l * 128) 128)

/-- A line as its home serves it: from the L2 when present. -/
def State.lineData (s : State) (l : Nat) : BitVec 1024 :=
  match nget s.l2 l with
  | some x => x.data
  | none => s.dramLine l

/-- Compression code of a line at its home. -/
def State.lineCode (s : State) (l : Nat) : BitVec 4 :=
  match nget s.l2 l with
  | some x => x.code
  | none => (nget s.codes l).getD 0

/-- The code of R147 that a read of the line meets, if any. -/
def State.lineFault (s : State) (l : Nat) : Option (BitVec 8) :=
  if 11 ≤ (s.lineCode l).toNat then some 0x10 else if s.bad.contains l then some 0x11 else none

/-- Writes a line to DRAM with its code. -/
def State.putDram (s : State) (l : Nat) (d : BitVec 1024) (code : BitVec 4) : State :=
  { s with dram := memWrite s.dram (l * 128) 128 d.toNat, codes := if code = 0 then ndel s.codes l else nput s.codes l code }

/-- Lines of one set of one slice: PA[20:7] agree at one site (R139). -/
def sameSet (a b : Nat) : Bool := a % 2 ^ 14 == b % 2 ^ 14 && a / 2 ^ 26 == b / 2 ^ 26

/-- Brings a line into its set; a set whose 16 ways are pinned takes none, which the answer says (R142). -/
def State.allocLine (s : State) (l : Nat) (tensor : BitVec 8) : State × Bool :=
  match nget s.l2 l with
  | some x => ({ s with useCtr := s.useCtr + 1, l2 := nput s.l2 l { x with used := s.useCtr } }, true)
  | none =>
    let set := s.l2.filter (fun p => sameSet p.1 l)
    let fresh : L2Line := { data := s.dramLine l, code := (nget s.codes l).getD 0, tensor := tensor, pin := false, used := s.useCtr }
    if set.length < 16 then ({ s with useCtr := s.useCtr + 1, l2 := nput s.l2 l fresh }, true)
    else
      match (set.filter (fun p => !p.2.pin)).foldl (fun (b : Option (Nat × L2Line)) p => match b with
          | some q => if p.2.used < q.2.used then some p else some q
          | none => some p) none with
      | none => (s, false)
      | some (v, x) =>
        let s := s.putDram v x.data x.code
        ({ s with useCtr := s.useCtr + 1, l2 := nput (ndel s.l2 v) l fresh }, true)

/-- Replaces the content of a line at its home. -/
def State.putLine (s : State) (l : Nat) (d : BitVec 1024) (code : BitVec 4) : State :=
  match nget s.l2 l with
  | some x => { s with l2 := nput s.l2 l { x with data := d, code := code } }
  | none => s.putDram l d code

/-! ## What a home serves and forwards (R20, R43, R147, R190, R192) -/

/-- Whether a physical address has a home (R20): its site's base die, which has passed its test, and its DRAM are live. -/
def State.hasHome (s : State) (pa : Nat) : Bool :=
  let n := homeOf pa
  n < Config.sites && (s.site n).dramGood && s.forwards n

/-- Follows an address of a unit that the gleaner has moved to where its old home forwards it, and on from there. -/
def gleanFrom (moves : List GMove) (pa fuel : Nat) : Nat :=
  match fuel with
  | 0 => pa
  | k + 1 =>
    match moves.find? (fun g => g.oldPa ≤ pa && pa < g.oldPa + g.moved) with
    | some g => gleanFrom moves (g.newPa + (pa - g.oldPa)) k
    | none => pa

/-- Where the old home forwards an address of a unit that the gleaner has moved (R190). The units of a LOST move are forwarded for good (log 56). -/
def State.gleanPA (s : State) (pa : Nat) : Nat := gleanFrom s.gmoves pa s.gmoves.length

/-- The code that an access meets at the home that serves its address, if any: no home, or an error of the block (R43, R147). -/
def State.homeCode (s : State) (pa : Nat) : Option (BitVec 8) :=
  let q := s.gleanPA pa
  if s.hasHome pa && s.hasHome q then s.lineFault (lineOf q) else some 0x27

/-- The first code that an access of n bytes meets in the blocks it lies in, and the address that met it: an offset of a range need not be a
multiple of its size (R170, R172). -/
def State.spanFault (s : State) (pa n : Nat) : Option (BitVec 8 × Nat) :=
  ([pa] ++ (List.range ((pa % 128 + n - 1) / 128)).map (fun i => (lineOf pa + i + 1) * 128)).findSome? (fun a => (s.homeCode a).map (fun x => (x, a)))

def State.spanCode (s : State) (pa n : Nat) : Option (BitVec 8) := (s.spanFault pa n).map (·.1)

/-- The way of an access of a moved unit on from home to home: each forwards it as a packet of its own router, in its own partition, and the
answer comes back the same way (R190, R192). -/
def State.forwarded (s : State) (pa out back fuel : Nat) : State × Trip :=
  match fuel with
  | 0 => (s, ⟨none, true⟩)
  | k + 1 =>
    match s.gmoves.find? (fun g => g.oldPa ≤ pa && pa < g.oldPa + g.moved) with
    | none => (s, ⟨none, true⟩)
    | some g =>
      let q := g.newPa + (pa - g.oldPa)
      if homeOf q == homeOf pa then s.forwarded q out back k
      else match s.travel (.site (homeOf pa)) (homeOf pa) (s.site (homeOf pa)).part q out back with
        | (s, t) =>
          if !t.reached then (s, t)
          else match s.forwarded q out back k with
            | (s, u) => (s, ⟨t.code.or u.code, u.reached⟩)

/-- An access of n bytes from its home on to where it is served: what stops it there or on the way, and whether it is served all the same. -/
def State.homeTrip (s : State) (pa n out back : Nat) : State × Trip :=
  match s.forwarded pa out back s.gmoves.length with
  | (s, t) => if !t.reached then (s, t) else (s, ⟨t.code.or (s.spanCode pa n), (s.spanCode pa n).isNone⟩)

/-- An engine's access from its site to the home of its address and on to a moved unit, and back. -/
def State.reach (s : State) (src : Sender) (site : Nat) (part : BitVec 4) (pa out back : Nat) : State × Trip :=
  match s.travel src site part pa out back with
  | (s, t) =>
    if !t.reached then (s, t)
    else match s.forwarded pa out back s.gmoves.length with
      | (s, u) => (s, ⟨t.code.or u.code, u.reached⟩)

/-- An engine's access with its effect at the home: the code that it meets, if any. One whose answer alone is stopped has its effect. -/
def State.accessBy (s : State) (src : Sender) (site : Nat) (part : BitVec 4) (pa out back : Nat) (act : State → State) : State × Option (BitVec 8) :=
  match s.reach src site part pa out back with
  | (s, t) => if t.reached && (s.homeCode pa).isNone then (act s, t.code) else (s, t.code.or (s.homeCode pa))

/-- The code that an engine's access meets on its way or at its home, if any. -/
def State.reachCode (s : State) (src : Sender) (site : Nat) (part : BitVec 4) (pa out back : Nat) : State × Option (BitVec 8) :=
  s.accessBy src site part pa out back id

/-- Address that a code reports: that of the block for a memory code (R147), else the access's own. -/
def faultPA (code : BitVec 8) (pa : Nat) : Nat := if code == 0x10 || code == 0x11 then lineOf pa * 128 else pa

/-- n bytes at a physical address as the home serves them. -/
def State.physRead (s : State) (pa n : Nat) : Nat :=
  ofBytes ((List.range n).map (fun i =>
    let q := s.gleanPA (pa + i)
    BitVec.ofNat 8 (fieldOf (s.lineData (lineOf q)).toNat (8 * (q % 128)) 8)))

/-- A line as it is served at a physical address, whatever units of it the gleaner has moved. -/
def State.lineAt (s : State) (l : Nat) : BitVec 1024 := if s.gmoves.isEmpty then s.lineData l else BitVec.ofNat 1024 (s.physRead (l * 128) 128)

/-- The check bits of a block meet an error (R147): one that they correct is counted, one that they cannot stays with the block. -/
def State.memError (s : State) (l : Nat) (hard : Bool) : State :=
  if hard then (if s.bad.contains l then s else { s with bad := s.bad ++ [l] }) else s.countSite (l / 2 ^ 26) 15

/-- Replaces n bytes at an offset of a line. -/
def spliceLine (d : BitVec 1024) (off n v : Nat) : BitVec 1024 :=
  let lo := fieldOf d.toNat 0 (8 * off)
  BitVec.ofNat 1024 (lo + v % 2 ^ (8 * n) * 2 ^ (8 * off) + d.toNat / 2 ^ (8 * (off + n)) * 2 ^ (8 * (off + n)))

/-! ## L1 copies (R134 to R137) -/

/-- The L1s of a site form one cache (R137). -/
def State.fused (s : State) (c : Nat) : Bool := match s.launchOf c with | some x => x.fusion && (s.site (siteOf c)).ncores == 16 | none => false

/-- Core whose L1 serves a line for core c: the slice of a fused site, else the core itself (R137). -/
def State.l1Core (s : State) (c l : Nat) : Nat := if s.fused c then 16 * siteOf c + l % 16 else c

def State.l1Line (s : State) (c l : Nat) : Option L1Line := nget (s.core (s.l1Core c l)).l1 l

/-- Set of a line in an L1: PA[13:7] (R134); in a slice of a fused site PA[17:11], so that the 16 slices hold 1 MiB (R137; log 36). -/
def l1Set (fused : Bool) (l : Nat) : Nat := if fused then l / 16 % 128 else l % 128

/-- Allocates or refreshes an L1 line, least recently used of four ways making room (R134). -/
def State.l1Fill (s : State) (c l : Nat) (d : BitVec 1024) (remote : Bool) : State :=
  let s := { s with useCtr := s.useCtr + 1 }
  let at_ := l1Set (s.fused c)
  s.modCore (s.l1Core c l) (fun k =>
    let set := k.l1.filter (fun p => at_ p.1 == at_ l && p.1 != l)
    let keep := if set.length < 4 then k.l1 else
      match set.foldl (fun (b : Option (Nat × L1Line)) p => match b with
          | some q => if p.2.used < q.2.used then some p else some q
          | none => some p) none with
      | some (v, _) => ndel k.l1 v
      | none => k.l1
    { k with l1 := nput keep l { data := d, remote := remote, used := s.useCtr } })

/-- Cores of a site that have state. -/
def State.coresOf (s : State) (site : Nat) : List Nat := (List.range 16).map (16 * site + ·) |>.filter (fun c => (nget s.cores c).isSome)

/-- Invalidates a line in the L1s of its home site (R135); the copy of `keep` is spared. -/
def State.invalSharers (s : State) (l : Nat) (keep : Option Nat) : State :=
  (s.coresOf (l / 2 ^ 26)).foldl (fun s c => if keep == some c then s else s.modCore c (fun k => { k with l1 := ndel k.l1 l })) s

/-- Lines on their way to L1s, by the core and line of each: the data that it brings becomes what a function makes of it. -/
def State.mapFills (s : State) (which : Nat → Nat → Bool) (g : BitVec 1024 → Option (BitVec 1024)) : State :=
  { s with flights := s.flights.map (fun f => match f.src, f.body with
      | .core d, .lineFill a cl v l x code => if which d l then { f with body := .lineFill a cl v l (x.bind g) code } else f
      | _, _ => f) }

/-- A write-through updates the issuing core's copy, if it holds one, or the one on its way to it (R129, R149). -/
def State.writeThrough (s : State) (c l off n v : Nat) : State :=
  let h := s.l1Core c l
  let s := s.mapFills (fun d m => m == l && s.l1Core d l == h) (fun x => some (spliceLine x off n v))
  match nget (s.core h).l1 l with
  | some x => s.modCore h (fun k => { k with l1 := nput k.l1 l { x with data := spliceLine x.data off n v } })
  | none => s

/-- A remote-homed copy of a line ends, in the L1 and on its way to it: a slot of the core has read the line newer at its home (R149). -/
def State.dropStale (s : State) (c l : Nat) : State :=
  let h := s.l1Core c l
  let s := s.mapFills (fun d m => m == l && s.l1Core d l == h) (fun _ => none)
  match nget (s.core h).l1 l with
  | some x => if x.remote then s.modCore h (fun k => { k with l1 := ndel k.l1 l }) else s
  | none => s

/-- Drops every remote-homed line of a core's L1, and of all the site's L1s when fused; lines still on their way are
not kept (R136, R137). -/
def State.dropRemote (s : State) (c : Nat) : State :=
  let cs := if s.fused c then s.coresOf (siteOf c) else [c]
  (cs.foldl (fun s d => s.modCore d (fun k => { k with l1 := k.l1.filter (fun p => !p.2.remote) })) s).mapFills (fun d _ => cs.contains d) (fun _ => none)

/-! ## Writes at the home -/

/-- Clears the reservations on a granule, but for those of one slot (R133). -/
def State.clearResv (s : State) (l : Nat) (keep : Option (Nat × Nat)) : State :=
  { s with resv := s.resv.filter (fun r => r.line != l || keep == some (r.core, r.slot)) }

/-- First byte of the semaphores of processor d: SEMBASE, PA[42:11] (R387). -/
def State.semStart (s : State) (d : Nat) : Nat := (s.proc d).sembase.toNat / 2048 * 2048

/-- Whether a line holds semaphores of some processor (R387). -/
def State.isSemLine (s : State) (l : Nat) : Bool := (List.range 4).any (fun d => l * 128 / 2048 * 2048 == s.semStart d)

/-- Reports every semaphore that a write of n bytes touched to its processor, with the new value (R388). -/
def State.semReport (s : State) (pa n : Nat) : State :=
  (List.range 4).foldl (fun s d =>
    let b := s.semStart d
    if pa / 2048 * 2048 == b then
      (List.range ((pa % 8 + n + 7) / 8)).foldl (fun s j =>
        let i := pa % 2048 / 8 + j
        s.modProc d (fun p => { p with reports := p.reports ++ [(i, wd (s.physRead (b + 8 * i) 8))] })) s
    else s) s

/-- Writes n bytes of one line at their home as one step of the store order: sharers invalidated, line allocated or bypassed, block
encoded, reservations of others cleared (R135, R139, R142, R146, R149). Those of a unit that the gleaner has moved are written where the old
home forwards them, and the writer's copy of either line follows (R129, R190). -/
def State.lineWrite (s : State) (pa n v : Nat) (a : MemAttr) (who : Option (Nat × Nat)) : State :=
  let q := s.gleanPA pa
  let l := lineOf q
  let s := s.invalSharers l (who.map (fun p => s.l1Core p.1 l))
  let (s, inL2) := s.allocLine l a.tensor
  let s := match who with | some (c, _) => if inL2 then s else s.count c 14 | none => s
  let d := spliceLine (s.lineData l) (q % 128) n v
  let s := s.putLine l d (if a.cmp && !s.isSemLine l then bestCode d else 0)
  let s := match who with
    | some (c, _) => (if lineOf pa == l then s else s.writeThrough c (lineOf pa) (pa % 128) n v).writeThrough c l (q % 128) n v
    | none => s
  (s.clearResv l who).semReport q n

/-- How many of n bytes lie in the line of the first one, at the address and where they are served. -/
def State.runAt (s : State) (pa n : Nat) : Nat :=
  ((List.range n).takeWhile (fun i => lineOf (pa + i) == lineOf pa && s.gleanPA (pa + i) == s.gleanPA pa + i && lineOf (s.gleanPA pa + i) == lineOf (s.gleanPA pa))).length

/-- The parts of a write that lie in one line each, in rising order. -/
def State.writeParts (s : State) (pa n v : Nat) (a : MemAttr) (who : Option (Nat × Nat)) (fuel : Nat) : State :=
  match fuel with
  | 0 => s
  | k + 1 =>
    let m := s.runAt pa n
    if n ≤ m then s.lineWrite pa n v a who else (s.lineWrite pa m v a who).writeParts (pa + m) (n - m) (v / 2 ^ (8 * m)) a who k

/-- Writes n bytes at their home in one step, whatever lines they lie in: an offset of a range need not be a multiple of their size (R170, R172). -/
def State.homeWrite (s : State) (pa n v : Nat) (a : MemAttr) (who : Option (Nat × Nat)) : State := s.writeParts pa n v a who n

/-- Attributes of an untranslated access (R139, R146). -/
def MemAttr.none : MemAttr := { tensor := 0, cmp := false, cacheRemote := false, ordered := false }

/-- Bytes at rising addresses of one line, written together. -/
def runsOf (l : List (Nat × Byte)) : List (Nat × List Byte) :=
  match l with
  | [] => []
  | (a, b) :: t =>
    match runsOf t with
    | (a', bs) :: r => if a' = a + 1 ∧ a' % 128 ≠ 0 then (a, b :: bs) :: r else (a, [b]) :: (a', bs) :: r
    | [] => [(a, [b])]

/-- Writes bytes at their homes, those of one line that follow one another as one write. -/
def State.homePuts (s : State) (l : List (Nat × Byte)) (a : MemAttr) (who : Option (Nat × Nat)) : State :=
  (runsOf l).foldl (fun s p => s.homeWrite p.1 p.2.length (ofBytes p.2) a who) s

end Sys2Proof.Machine
end

