-- ==== Sys2Proof/Machine/Ops.lean ====
section
/-! DEFINITION. The shared operations: claims and deliveries, clearing a slot, notifications, taking a trap, leaving a
handler, partition stop, trace and fault log. -/

namespace Sys2Proof.Machine

/-! ## Claims (R86 to R91) -/

/-- Queues a delivery of a producer for a claim, applied in a cycle (R90); no claim, no delivery (R60). -/
def State.deliverAt (s : State) (c : Nat) (claim : Option Nat) (due : Nat) (v : DVal) : State :=
  match claim with
  | some i => s.modCore c (fun k => { k with deliveries := k.deliveries ++ [⟨i, due, v⟩] })
  | none => s

/-- A fill with a 64-bit value. -/
def fillW (v : Word) : DVal := .value (v.setWidth 2048)

/-- A fault descriptor (R92). -/
def descriptor (cls code detail : Nat) : Word := wd (cls % 256 * 2 ^ 56 + code % 256 * 2 ^ 48 + detail % 2 ^ 48)

/-- Fills in the current cycle of the core. -/
def State.fillNow (s : State) (c : Nat) (claim : Option Nat) (v : Word) : State := s.deliverAt c claim (s.core c).cycle (fillW v)
/-- Fills in the next cycle of the core. -/
def State.fillNext (s : State) (c : Nat) (claim : Option Nat) (v : Word) : State := s.deliverAt c claim ((s.core c).cycle + 1) (fillW v)
/-- Poisons in the current cycle of the core. -/
def State.poisonNow (s : State) (c : Nat) (claim : Option Nat) (d : Word) : State := s.deliverAt c claim (s.core c).cycle (.poison d)

/-- Indices of the free claims. -/
def Core.freeClaims (k : Core) : List Nat := (List.range Config.claims).filter (fun i => (nget k.claims i).isNone)

/-- Makes a register PENDING with a claim (R7 Pend); none when the table is full. x0 takes no claim (R60). -/
def State.pend (s : State) (f : RFile) (n : Nat) (cls : BitVec 4) (cancel : Bool) : Option (State × Option Nat) :=
  if f = .x ∧ n = 0 then some (s, none)
  else
    match s.here.freeClaims with
    | [] => none
    | i0 :: rest =>
      let free := i0 :: rest
      let i := free.getD (Config.claimPick s.freeCtr % free.length) i0
      let cl : Claim := { target := .slot, cls := cls, cancellable := cancel, slot := s.curSlot, file := f, reg := n, watch := 0, lost := false }
      let s := s.modHere (fun k => (Core.count { k with claims := nput k.claims i cl } 10 (some s.curSlot) 1))
      let fv := s.freeCtr
      let s := s.modMe (fun t => match f with
        | .x => t.setXr n ⟨.pending, Config.freeWord fv⟩
        | .v => t.setVr n ⟨.pending, Config.freeVec fv⟩
        | .m => t.setMr n ⟨.pending, (Config.freeVec fv).setWidth 34816⟩
        | .c => t.setCr n ⟨.pending, (Config.freeVec fv).setWidth 131072⟩)
      some (s.useFree, some i)

/-- The claim that targets a register of a slot. -/
def Core.claimOf (k : Core) (slot : Nat) (f : RFile) (n : Nat) : Option Nat :=
  (k.claims.find? (fun p => p.2.target == .slot && p.2.slot == slot && p.2.file == f && p.2.reg == n)).map (·.1)

/-- A load that has been served from the store buffer is done once its claim has its fill (R94). -/
def Core.endFill (k : Core) (i : Nat) : Core := { k with accs := k.accs.filter (fun a => a.fillClaim != some i) }

/-- A claim becomes free (R88). -/
def Core.delClaim (k : Core) (i : Nat) : Core := { k.endFill i with claims := ndel k.claims i, freed := k.freed + 1 }

/-- Frees a claim and forgets it wherever a producer of this core holds it. -/
def Core.freeClaim (k : Core) (i : Nat) : Core :=
  { k.endFill i with
    claims := ndel k.claims i
    freed := k.freed + 1
    timers := k.timers.filter (fun t => t.1 != i)
    barriers := k.barriers.map (fun p => (p.1, { p.2 with waits := p.2.waits.filter (fun w => w.1 != i) }))
    queues := k.queues.map (fun p => (p.1, { p.2 with waits := p.2.waits.filter (· != i) }))
    slots := k.slots.map (fun p => (p.1, if p.2.recvClaim == some i then { p.2 with recvClaim := none } else p.2))
    ctx := k.ctx.map (fun p => (p.1, if p.2.recvClaim == some i then { p.2 with recvClaim := none } else p.2))
    images := k.images.map (fun p => if p.saved.recvClaim == some i then { p with saved := { p.saved with recvClaim := none } } else p)
    deliveries := k.deliveries.filter (fun d => d.claim != i) }

/-- A delivery of a claim whose cycle has come (R90). -/
def Core.deliveryDue (k : Core) (i : Nat) : Bool := k.deliveries.any (fun d => d.claim == i && d.due ≤ k.cycle)

/-- Drops a claim (R91): a cancellable one is freed, another waits for its delivery. A delivery of this cycle comes before the drop, so
that its claim is free already (R90). -/
def Core.dropClaim (k : Core) (i : Nat) : Core :=
  match nget k.claims i with
  | some cl => if cl.cancellable || k.deliveryDue i then k.freeClaim i else { k with claims := nput k.claims i { cl with target := .dropped } }
  | none => k

/-- Drops the claim of a register, if one targets it. -/
def Core.dropReg (k : Core) (slot : Nat) (f : RFile) (n : Nat) : Core :=
  match k.claimOf slot f n with
  | some i => k.dropClaim i
  | none => k

/-- Drops every claim that targets a slot. -/
def Core.dropSlotClaims (k : Core) (slot : Nat) : Core :=
  (k.claims.filter (fun p => p.2.target == .slot && p.2.slot == slot)).foldl (fun k p => k.dropClaim p.1) k

/-! ## Deliveries (R90, R95 to R99, R105) -/

/-- A watched register left PENDING: its WAITANY claims deliver its index in the same cycle, the lowest one (R105). -/
def Core.watchFire (k : Core) (watching : Claim → Bool) (reg : Nat) : Core :=
  (k.claims.filter (fun p => p.2.cls == 0 && watching p.2 && p.2.watch.toNat.testBit reg)).foldl (fun k p =>
    match k.deliveries.find? (fun d => d.claim == p.1) with
    | some _ => { k with deliveries := k.deliveries.map (fun d => if d.claim == p.1 then
        (match d.val with | .value v => { d with val := .value (if reg < v.toNat then BitVec.ofNat 2048 reg else v) } | .poison _ => d) else d) }
    | none => { k with deliveries := k.deliveries ++ [⟨p.1, k.cycle, .value (BitVec.ofNat 2048 reg)⟩] }) k

/-- Writes a delivery into a slot's register. -/
def Slot.putDelivered (t : Slot) (f : RFile) (n : Nat) (v : DVal) : Slot :=
  match v with
  | .poison d => t.setRegLow f n .poison d
  | .value x =>
    match f with
    | .x => t.setXr n ⟨.full, x.setWidth 64⟩
    | .v => t.setVr n ⟨.full, x⟩
    | .m => t.setMr n ⟨.full, x.setWidth 34816⟩
    | .c => t.setCr n ⟨.full, x.setWidth 131072⟩

/-- Writes a delivery into a saved context's copy of a register. -/
def Saved.putDelivered (t : Saved) (f : RFile) (n : Nat) (v : DVal) : Saved :=
  let t := { t with pendings := t.pendings.filter (fun p => !(p.1 == fileCode f && p.2.1 == n)) }
  let st := match v with | .poison _ => RegState.poison | .value _ => .full
  let x : BitVec 2048 := match v with | .poison d => d.setWidth 2048 | .value x => x
  match f with
  | .x => { t with x := nput t.x n ⟨st, x.setWidth 64⟩ }
  | .v => { t with v := nput t.v n ⟨st, x⟩ }
  | .m => { t with m := nput t.m n ⟨st, x.setWidth 34816⟩ }
  | .c => { t with c := nput t.c n ⟨st, x.setWidth 131072⟩ }

/-- Offset of a register in a context image (R362). -/
def imageOff (f : RFile) (n : Nat) : Nat :=
  match f with | .x => 0x100 + 8 * n | .v => 0x300 + 256 * n | .m => 0x380 + 0x1100 * n | .c => 0x8B80 + 0x4000 * n

/-- Bytes of an image of a role (R362). -/
def roleImageLen (r : Role) : Nat := match r with | .v => 0x2300 | .m => 0x18B80 | _ => 0x300

/-- Bytes of a register in an image (R362). -/
def imageLen (f : RFile) : Nat := match f with | .x => 8 | .v => 256 | .m => 0x1100 | .c => 0x4000

/-- Reads n bytes of an image. -/
def State.placeRead (s : State) (c : Nat) (p : CtxPlace) (off n : Nat) : Nat :=
  match p with
  | .cache _ => 0
  | .ls a => memRead (s.core c).ls (a + off) n
  | .phys pa _ => s.physRead (pa + off) n

/-- Writes bytes of an image, without translation. -/
def State.placeWrite (s : State) (c : Nat) (p : CtxPlace) (off n v : Nat) : State :=
  match p with
  | .cache _ => s
  | .ls a => s.modCore c (fun k => { k with ls := memWrite k.ls (a + off) n v })
  | .phys pa _ => s.homePuts (placeAt (pa + off) (bytesOf n v)) .none none

/-- The way of an engine's bytes to a physical address and back, from a core's site, and the code that stops the access there or on the way. -/
def State.coreTrip (s : State) (c pa out back : Nat) : State × Option (BitVec 8) :=
  s.reachCode (.core c) (siteOf c) (s.site (siteOf c)).part pa out back

/-- The way of n bytes of an image, and the code that keeps some of them from being written or read (R99, R147). -/
def State.placeTrip (s : State) (c : Nat) (p : CtxPlace) (off n : Nat) : State × Option (BitVec 8) :=
  match p with
  | .phys pa _ => match s.coreTrip c (pa + off) (dataFlits n) 1 with
    | (s, some e) => (s, some e)
    | (s, none) => (s, s.spanCode (pa + off) n)
  | _ => (s, none)

/-- Whether the home of some of the first n bytes of an image is gated: nothing is read or written there (R56). -/
def State.placeGated (s : State) (p : CtxPlace) (n : Nat) : Bool :=
  match p with
  | .phys pa _ => (List.range (n / 4096 + 1)).any (fun i => [pa + 4096 * i, s.gleanPA (pa + 4096 * i)].any (fun q => (s.site (homeOf q)).gated))
  | _ => false

/-- A delivery into the bytes of an image: value, state, and one register less that is pending (R90, R362). -/
def State.imagePut (s : State) (c : Nat) (p : CtxPlace) (f : RFile) (n : Nat) (d : DVal) : State :=
  let st := match d with | .poison _ => 2 | .value _ => 0
  let v := match d with | .poison x => x.toNat | .value x => x.toNat
  let wo := 0x30 + 8 * fileCode f
  let w := wd (s.placeRead c p wo 8)
  let s := s.placeWrite c p (imageOff f n) (imageLen f) v
  let s := s.placeWrite c p wo 8 (setField w (2 * n) 2 st).toNat
  s.placeWrite c p 8 4 (s.placeRead c p 8 4 - 1)

/-- The ways of what a delivery into an image writes: the value, its state word and the pending count. One code keeps all of it from being
written (R99). -/
def State.imageTrip (s : State) (c : Nat) (p : CtxPlace) (f : RFile) (n : Nat) : State × Option (BitVec 8) :=
  match s.placeTrip c p (imageOff f n) (imageLen f) with
  | (s, some e) => (s, some e)
  | (s, none) => match s.placeTrip c p (0x30 + 8 * fileCode f) 8 with
    | (s, some e) => (s, some e)
    | (s, none) => s.placeTrip c p 8 4

/-- A record in the fault log of a control chiplet (R377). -/
def Proc.logFault (p : Proc) (kind slot : Nat) (core : BitVec 16) (cycle : Nat) (details : List Word) : Proc :=
  let i := wf p.faultptr 0 8
  let rec8 := [wd (kind * 2 ^ 56 + slot * 2 ^ 52 + core.toNat * 2 ^ 32), wd cycle] ++ details
  { p with faultlog := nput p.faultlog i rec8
           faultptr := wd ((i + 1) % 256 + (if i = 255 ∨ p.faultptr.getLsbD 63 then 2 ^ 63 else 0)) }

/-- A fault log record travels to the control chiplet of a site and is kept there (R377). -/
def State.faultLog (s : State) (site kind slot : Nat) (core : BitVec 16) (cycle : Nat) (details : List Word) : State :=
  match s.logRide site (dataFlits 64) with
  | (s, true) => s.modProc (s.site site).chiplet (fun p => p.logFault kind slot core cycle details)
  | (s, false) => s

/-- The 64-bit record of a claim (R87). -/
def Claim.record (cl : Claim) : Word :=
  let (t, ls, wh) := match cl.target with
    | .slot => (0, 0, 0)
    | .context e => (1, 0, e % 32)
    | .image b l => (2, if l then 1 else 0, if l then b / 64 % 2 ^ 14 else b / 64 % 2 ^ 37)
    | .dropped => (3, 0, 0)
  wd (2 ^ 63 + t * 2 ^ 61 + cl.cls.toNat * 2 ^ 57 + (if cl.cancellable then 2 ^ 56 else 0) + cl.slot % 16 * 2 ^ 52 +
    fileCode cl.file * 2 ^ 50 + cl.reg % 32 * 2 ^ 45 + ls * 2 ^ 41 + wh)

/-- Base and kind of an image place, as claims name it (R87, R97). -/
def CtxPlace.key (p : CtxPlace) : Nat × Bool := match p with | .cache e => (e, false) | .ls a => (a, true) | .phys pa _ => (pa, false)

/-- The RECVF claim of a restored slot takes the oldest HELD entry as it fills (R325, R409). -/
def Slot.takeEntry (t : Slot) (claim : Nat) : Slot :=
  if t.recvClaim == some claim then
    match t.mailOrder with
    | e :: rest => { t with mail := nput t.mail e .taken, mailOrder := rest, recvClaim := none }
    | [] => { t with recvClaim := none }
  else t

/-- Applies one delivery to its claim's target (R90, R96, R99). -/
def State.applyDelivery (s : State) (c : Nat) (d : Delivery) : State :=
  let k := s.core c
  let s := s.setCore c { k with deliveries := k.deliveries.filter (fun e => e.claim != d.claim) }
  match nget k.claims d.claim with
  | none => s
  | some cl =>
    match cl.target with
    | .slot =>
      s.modCore c (fun k =>
        let k := (k.setSlot cl.slot (((k.slot cl.slot).takeEntry d.claim).putDelivered cl.file cl.reg d.val)).delClaim d.claim
        if cl.file = .x then k.watchFire (fun w => w.target == .slot && w.slot == cl.slot) cl.reg else k)
    | .context e =>
      s.modCore c (fun k =>
        let k := { k.delClaim d.claim with ctx := match nget k.ctx e with | some sv => nput k.ctx e (sv.putDelivered cl.file cl.reg d.val) | none => k.ctx }
        if cl.file = .x then k.watchFire (fun w => w.target == .context e) cl.reg else k)
    | .dropped => s.modCore c (fun k => (k.count 9 none 1).delClaim d.claim)
    | .image b l =>
      match k.images.find? (fun im => im.place.key == (b, l)) with
      | none => s.modCore c (fun k => k.delClaim d.claim)
      | some im =>
        match s.imageTrip c im.place cl.file cl.reg with
        | (s, some _) =>
          (s.modCore c (fun k => { k.endFill d.claim with claims := nput k.claims d.claim { cl with lost := true } })).faultLog (siteOf c) 1 cl.slot (s.coreName c) k.cycle
            [cl.record, wd b]
        | (s, none) =>
          let s := if im.written then s.imagePut c im.place cl.file cl.reg d.val else s
          s.modCore c (fun k =>
            let k := { k.delClaim d.claim with
              images := k.images.map (fun x => if x.place.key == (b, l) then { x with saved := x.saved.putDelivered cl.file cl.reg d.val } else x) }
            if cl.file = .x then k.watchFire (fun w => w.target == .image b l) cl.reg else k)

/-- Whether a delivery can be applied: one into an image comes after the save's own write of it (R90, R96) and while its home runs (R56). -/
def State.deliverable (s : State) (c : Nat) (d : Delivery) : Bool :=
  match nget (s.core c).claims d.claim with
  | none => true
  | some cl => !cl.lost && (match cl.target with
    | .image b l => ((s.core c).images.filter (fun im => im.place.key == (b, l))).all (fun im => im.written && !s.placeGated im.place (imageOff cl.file cl.reg + imageLen cl.file))
    | _ => true)

/-- Applies the due deliveries of this cycle to one register before an instruction re-points or drops it (R90). -/
def State.settleReg (s : State) (f : RFile) (n : Nat) : State :=
  match s.here.claimOf s.curSlot f n with
  | some i =>
    match s.here.deliveries.find? (fun d => d.claim == i && d.due ≤ s.here.cycle) with
    | some d => s.applyDelivery s.curCore d
    | none => s
  | none => s

/-! ## Locks, speculation, clearing (R81, R212, R310, R327) -/

/-- Frees every bank lock of a slot (R212). -/
def Core.freeLocks (k : Core) (slot : Nat) : Core := { k with locks := k.locks.filter (fun p => p.2.slot != slot) }

/-- Status word of SPAWN, SEND and SENDT (R317). -/
def sendStatus (st : Nat) (core : BitVec 16) (tag : BitVec 32) : Word := wd (st * 2 ^ 56 + core.toNat * 2 ^ 32 + tag.toNat)

/-- Drops an open speculation: each held future fills with DROPPED (R327). -/
def State.dropSpec (s : State) (c n : Nat) : State :=
  let t := s.slot c n
  let s := t.hold.foldl (fun s h => s.fillNext c h.claim (sendStatus 5 h.name (if h.tagged then h.tag else 0))) s
  s.modSlot c n (fun t => { t with hold := [], specOpen := false })

/-- Every register of the slot's files FULL zero, its claims dropped first (R81, R245). -/
def Core.clearRegs (k : Core) (n : Nat) : Core :=
  let k := k.dropSlotClaims n
  k.setSlot n { (k.slot n) with x := [], v := [], m := [], c := [], streams := [] }

/-- Ends a slot's reservation (R133). -/
def State.endResv (s : State) (c n : Nat) : State := { s with resv := s.resv.filter (fun r => !(r.core == c && r.slot == n)) }

/-- The slot becomes EMPTY (R310). -/
def State.becomeEmpty (s : State) (c n : Nat) : State :=
  let s := s.dropSpec c n
  let s := s.modCore c (fun k => (k.clearRegs n).freeLocks n)
  let cy := (s.core c).cycle
  s.modSlot c n (fun t => { t with state := .empty, mail := [], mailOrder := [], recvClaim := none, recvDrop := none, tag := 0, rptstat := 0, park := none, parkCount := 0,
                                   prio := none, origin := 0, viaInbox := false, emptied := cy, broken := none, doneWait := false, underSave := false, walkOut := none, rewalked := none,
                                   fetch := none, dirWait := none, missScope := none })

/-! ## Trace and stamps (R332, R375, R376) -/

/-- What remains of a budget in the period: the limit and what is used (R48). -/
def budgetRefuses (limits : NMap (BitVec 32)) (used : NMap Nat) (key flits : Nat) : Bool :=
  let l := (nget limits key).getD 0xFFFFFFFF
  l != 0xFFFFFFFF && l.toNat < (nget used key).getD 0 + flits

/-- The clock of a site, as its cores count it (R27). -/
def State.siteClock (s : State) (n : Nat) : Nat := (List.range 16).foldl (fun a i => max a (s.core (16 * n + i)).cycle) 0

/-- Number of the budget period of a clock (R48). -/
def periodOf (clock : Nat) : Nat := clock / 65536

/-- A site in the budget period of its clock: a new period starts with nothing used (R48). -/
def Site.inPeriod (t : Site) (clock : Nat) : Site := if t.period == periodOf clock then t else { t with used := [], period := periodOf clock }

/-- Charges a site's budget, or refuses (R48). -/
def State.chargeSite (s : State) (site part activity flits : Nat) : Option State :=
  let t := (s.site site).inPeriod (s.siteClock site)
  if budgetRefuses t.budgets t.used (4 * part + activity) flits then none
  else some (s.setSite site { t with used := nput t.used (4 * part + activity) ((nget t.used (4 * part + activity)).getD 0 + flits) })

/-- Writes a trace record into the ring of the core (R375, R376). -/
def State.trace (s : State) (c n kind extra : Nat) (pc detail : Word) : State :=
  let k := s.core c
  let mask := wf k.trcctl 48 16
  if k.trcctl.getLsbD 0 && (wf k.trcctl 1 8).testBit (kind - 1) && (mask == 0 || mask.testBit n) then
    let size := 4096 * 2 ^ wf k.trcbase 60 4
    let next := wf k.trcptr 0 32 % size
    let base := wf k.trcbase 12 31 * 4096
    let pa := base - base % size + next
    let part := (s.site (siteOf c)).part.toNat
    match s.coreTrip c pa (dataFlits 32) 1 with
    | (s, some _) => s.count c 30
    | (s, none) =>
      match s.chargeSite (homeOf pa) part 3 1 with
      | none => (s.siteViolation (homeOf pa) 3 part pa).count c 30
      | some s =>
        let d0 := kind * 2 ^ 56 + n * 2 ^ 52 + (s.coreName c).toNat * 2 ^ 32 + extra
        let bytes := bytesOf 8 d0 ++ bytesOf 8 k.cycle ++ bytesOf 8 pc.toNat ++ bytesOf 8 detail.toNat
        let s := if [pa, s.gleanPA pa].any (fun a => (s.site (homeOf a)).gated) then { s with traceWaits := s.traceWaits ++ [(c, pa, bytes)] } else s.homePuts (placeAt pa bytes) .none none
        s.modCore c (fun k =>
          { k with trcptr := wd ((next + 32) % size + (if next + 32 = size ∨ k.trcptr.getLsbD 63 then 2 ^ 63 else 0)) })
  else s

/-- Writes a stamp into the stamp ring (R332); with the task unit disabled there is none: plot 255 is an ordinary plot (R197). -/
def State.stampRec (s : State) (c kind slot prio : Nat) (inbox : Bool) (tag core : Nat) : State :=
  match s.launchOf c with
  | some l =>
    if l.prof && l.tasks then s.modCore c (fun k =>
      let i := wf k.stamp 0 8
      let d1 := kind * 2 ^ 56 + slot * 2 ^ 52 + prio % 4 * 2 ^ 50 + (if inbox then 2 ^ 49 else 0) + tag % 2 ^ 32 * 2 ^ 16 + core % 2 ^ 16
      { k with ls := memWrite (memWrite k.ls (0xFF000 + 16 * i) 8 k.cycle) (0xFF000 + 16 * i + 8) 8 d1
               stamp := wd ((i + 1) % 256 + (if i = 255 ∨ k.stamp.getLsbD 8 then 256 else 0)) })
    else s
  | none => s

/-! ## Site leaving service (R54, R192, R310) -/

/-- A slot is HALTED, keeping the state before (R310); its locks are freed (R212). -/
def Core.halt (k : Core) (n : Nat) : Core :=
  let t := k.slot n
  match t.state with
  | .halted => k
  | st => (k.setSlot n { t with state := .halted, before := st }).freeLocks n

/-- The moves of a gleaner stop with status LOST when its site leaves RUNNING (R192); one whose directory step is done and whose RINV is under way
finishes with OK (log 56). -/
def State.loseMoves (s : State) (site : Nat) : State :=
  let gone := s.gmoves.filter (fun g => g.site == site && !g.lost && g.finishing.isNone)
  let s := gone.foldl (fun s g => s.fillNow g.core g.claim (wd (11 * 2 ^ 56 + g.index * 2 ^ 32 + g.bad))) s
  { s with gmoves := s.gmoves.map (fun g => if g.site == site && g.finishing.isNone then { g with lost := true, claim := none } else g) }

/-- A site that leaves RUNNING keeps no pins (R141). -/
def State.dropPins (s : State) (n : Nat) : State := { s with l2 := s.l2.map (fun p => if p.1 / 2 ^ 26 == n then (p.1, { p.2 with pin := false }) else p) }

/-- A site enters FENCED: every slot HALTED, no trap latched, no notification (R54); what it was keeps its name and its routers as they were. -/
def State.fenceSite (s : State) (n : Nat) : State :=
  let s := (List.range 16).foldl (fun s i => s.modCore (16 * n + i) (fun k => (List.range 16).foldl (fun k j => k.halt j) k)) s
  ((s.loseMoves n).dropPins n).modSite n (fun t => { t with state := .fenced, before := if t.state == .fenced then t.before else siteCode t.state })

/-- Partition stop (R353): every site of the partition is fenced and a fault log record of kind 2 is written. -/
def State.partitionStop (s : State) (c : Nat) : State :=
  let t := (s.core c).slot 14
  let s := s.faultLog (siteOf c) 2 14 (s.coreName c) (s.core c).cycle [(s.core c).hnote, t.tcause, t.tval, t.tpc]
  let part := (s.site (siteOf c)).part
  (s.sites.filter (fun p => p.2.part == part && inRect (s.partRect part.toNat) p.1 && 1 ≤ siteCode p.2.state && siteCode p.2.state ≤ 5)).foldl
    (fun s p => s.fenceSite p.1) s

/-! ## Notifications (R347 to R349, R352) -/

/-- A notification in the layout of wl.hnote (R349). -/
def noteWord (kind : Nat) (core : BitVec 16) (slot ch cause : Nat) : Word :=
  wd (kind * 2 ^ 60 + core.toNat * 2 ^ 16 + slot * 2 ^ 12 + ch * 256 + cause)

/-- The kind-2 form of a notification sent on to the escalation core, esc 0 (R348, R349). -/
def forwardNote (w : Word) : Word :=
  wd (2 * 2 ^ 60 + wf w 16 16 * 2 ^ 44 + wf w 12 4 * 2 ^ 40 + wf w 60 4 % 4 * 2 ^ 38 + wf w 8 2 * 2 ^ 36 + wf w 0 32)

/-- A notification that reaches nobody: fault log kind 3 and a report to the control node (R348). -/
def State.undelivered (s : State) (c : Nat) (w : Word) (code : Nat) : State :=
  (s.faultLog (siteOf c) 3 (wf w 12 4) (s.coreName c) (s.core c).cycle [w, wd code]).report (.undelivered w)

/-- Sends a notification to a core by name. -/
def State.sendNote (s : State) (c : Nat) (dst : BitVec 16) (w : Word) (fwd : Bool) : State :=
  s.inject .system (.core c) (siteOf c) (s.site (siteOf c)).part (.name dst) (.note w fwd)

/-- Notifies the buddy, or the escalation core when there is no buddy (R348). -/
def State.notify (s : State) (c : Nat) (w : Word) : State :=
  let pair := (s.core c).pair
  let buddy : BitVec 16 := BitVec.ofNat 16 (wf pair 0 16)
  let esc : BitVec 16 := BitVec.ofNat 16 (wf pair 16 16)
  if buddy != 0xFFFF then s.sendNote c buddy w false
  else if esc != 0xFFFF then s.sendNote c esc (forwardNote w) true
  else s.undelivered c w 0

/-- Escalation of a trap of the K-role slot (R352). -/
def State.escalate (s : State) (c : Nat) : State :=
  let k := s.core c
  let esc : BitVec 16 := BitVec.ofNat 16 (wf k.pair 16 16)
  if esc == 0xFFFF || esc == s.coreName c || (k.hbusy && wf k.hnote 60 4 == 2) then s.partitionStop c
  else
    let h := k.hnote
    s.sendNote c esc (wd (2 * 2 ^ 60 + wf h 16 16 * 2 ^ 44 + wf h 12 4 * 2 ^ 40 + wf h 60 4 % 4 * 2 ^ 38 + wf h 8 2 * 2 ^ 36 + 2 ^ 35 +
      (s.coreName c).toNat * 2 ^ 16 + 14 * 2 ^ 12 + 51)) true

/-! ## Taking a trap (R346) and leaving a handler (R361) -/

/-- A trap of the slot whose turn runs: cause, value and pc latched, the slot FROZEN, its locks freed, the buddy notified or
the fault escalated; brk is the break source of R374. -/
def State.trapWith (s : State) (cause : Nat) (tval : Word) (brk : BitVec 3) : State :=
  let c := s.curCore
  let n := s.curSlot
  let pc := s.me.pc
  let s := s.modMe (fun t => { t with tcause := wd cause, tval := tval, tpc := pc, state := .frozen, park := none, brk := brk, skipBreak := false,
                                      broken := none, walkOut := none, rewalked := none, dirWait := none })
  let s := s.modHere (fun k => k.freeLocks n)
  let s := (s.endResv c n).countS c n 26
  let s := s.trace c n 1 cause pc tval
  let isK := s.me.role == .k
  if isK && (s.here.hin || BitVec.ofNat 16 (wf s.here.pair 0 16) == s.coreName c) then s.escalate c
  else s.notify c (noteWord 0 (s.coreName c) n 0 cause)

/-- A trap that no breakpoint or watch made. -/
def State.trap (s : State) (cause : Nat) (tval : Word) : State := s.trapWith cause tval 0

/-- A breakpoint or watch halts the slot and reports it to the control node (R372 to R374). -/
def State.haltBreak (s : State) (brk : BitVec 3) : State :=
  let s := s.modHere (fun k => k.halt s.curSlot)
  let s := s.modMe (fun t => { t with brk := brk, park := none })
  (s.trace s.curCore s.curSlot 8 0 s.me.pc (wd brk.toNat)).report (.halt (s.coreName s.curCore) s.curSlot s.me.pc)

/-- The head notification enters the handler of the K-role slot whose turn runs (R351). An RSETRES or RCLRRES that the slot waits for is left as it
is: its update stands, and the instruction sends it again after HDONE (log 55). -/
def State.enterHandler (s : State) : State :=
  match s.here.notes with
  | [] => s
  | n :: rest =>
    let s := s.modHere (fun k => { k with notes := rest, hnote := n.word, hfromempty := (k.slot s.curSlot).state == .empty, hepc := (k.slot s.curSlot).pc,
                                          hbusy := true, hin := true })
    let s := s.modMe (fun t => { t with pc := s.here.hvec, state := .running, park := none, parkCount := 0, fetch := none, walkOut := none,
                                        rewalked := none, dirWait := none })
    (s.count s.curCore 27).trace s.curCore s.curSlot 2 0 s.me.pc n.word

/-- The return from a handler (R361): the state after it and the pc; with no notification in hand it goes on. -/
def State.leaveHandler (s : State) : State × Word :=
  if !s.here.hbusy then (s, s.me.pc + 4)
  else
    let fe := s.here.hfromempty
    let s := s.modHere (fun k => { k with hbusy := false, hin := false })
    if fe then (s.becomeEmpty s.curCore s.curSlot, s.me.pc) else (s, s.here.hepc)

end Sys2Proof.Machine
end

