-- ==== Sys2Proof/Machine/Operands.lean ====
section
/-! DEFINITION. Issue of an instruction: the checks of R72 in order, the examination of registers (R82), what a turn may come
to, repeats (R263), immediates, scopes. -/

namespace Sys2Proof.Machine

/-- Outcome of every step of this model. -/
abbrev Out := Host.Outcome State Fault Refusal

/-- What an instruction that has passed checks 2 to 5 of R72 comes to at its turn. -/
inductive Act where
  /-- it executes; the pc moves on -/
  | done (s : State)
  /-- it executes and the pc goes elsewhere -/
  | jump (s : State) (pc : Word)
  /-- not accepted or held: the slot stays RUNNING and passes a bubble (R213) -/
  | hold (s : State)
  /-- it parks (R83) -/
  | park (s : State) (on : ParkOn)
  /-- it traps; the state carries what the trap latches besides (wl.rfinfo) -/
  | trap (s : State) (cause : Nat) (tval : Word)
  /-- a watch matches (R373) -/
  | watch (s : State) (brk : BitVec 3) (halt : Bool) (va : Word)

/-- What the checks of an instruction need to know of it. -/
structure Form where
  /-- the instruction word, for tval -/
  instr : Instr
  /-- roles that may issue it (R73) -/
  roles : Role → Bool
  /-- illegal outside the K-role slot (R71) -/
  priv : Bool := false
  /-- scope code to resolve (R154) -/
  scope : Option (BitVec 4) := none
  /-- allowed in a repeat body (R264) -/
  inBody : Bool := false
  /-- registers in the order rs1, rs2, rs3, rd; true marks a source (R82) -/
  regs : List (Bool × RFile × Nat) := []
  /-- tiles and accumulators that an unfinished MDOT may hold back (R259) -/
  touches : List (RFile × Nat) := []

def anyRole (_ : Role) : Bool := true
def onlyM (r : Role) : Bool := r == .m
def onlyV (r : Role) : Bool := r == .v
def onlyK (r : Role) : Bool := r == .k
def onlyT (r : Role) : Bool := r == .t
def notT (r : Role) : Bool := r != .t && r != .none

/-- A source x register of a field. -/
def sx (r : BitVec 5) : Bool × RFile × Nat := (true, .x, r.toNat)
/-- A destination x register of a field. -/
def dx (r : BitVec 5) : Bool × RFile × Nat := (false, .x, r.toNat)
def sv (r : BitVec 5) : Bool × RFile × Nat := (true, .v, r.toNat)
def dv (r : BitVec 5) : Bool × RFile × Nat := (false, .v, r.toNat)

/-- Outcome of the examination of R82. -/
inductive Exam where
  | pass
  | park (f : RFile) (n : Nat)
  | trap (cause : Nat) (tval : Word)
  deriving DecidableEq, Repr

/-- Examines the registers in order (R82, R84). -/
def examine (t : Slot) (regs : List (Bool × RFile × Nat)) : Exam :=
  match regs with
  | [] => .pass
  | (src, f, n) :: rest =>
    match t.regSt f n with
    | .full => examine t rest
    | .pending => .park f n
    | .poison => if src then .trap 24 (t.regLow f n) else examine t rest
    | .vacant => if src then .trap 25 (regIdent f n) else examine t rest

/-- Scope that a code resolves to (R66, R154). -/
def State.resolveScope (s : State) (code : BitVec 4) : Option Nat :=
  if code < 5 then some code.toNat
  else if code < 8 then none
  else match s.launchOf s.curCore with
    | some l =>
      match l.levels[code.toNat - 8]? with
      | some v => if v.valid then some v.scope else none
      | none => none
    | none => none

/-- The scope of a form that has passed check 3 of R72. -/
def State.scopeOf (s : State) (code : BitVec 4) : Nat := (s.resolveScope code).getD 0

/-- Whether an unfinished MDOT or MDOTS of the slot holds the form back (R259). -/
def arrayHolds (s : State) (fm : Form) : Bool :=
  match s.here.array with
  | none => false
  | some a => a.slot == s.curSlot &&
      fm.touches.any (fun p => match p.1 with
        | .c => p.2 == a.cd
        | .m => p.2 == a.ma || p.2 == a.mb
        | _ => false)

/-- The pc after an instruction that executed while wl.rptstat had the given value (R263): new rptstat and pc. -/
def repeatNext (rpt pc : Word) : Word × Word :=
  if !rpt.getLsbD 11 then (rpt, pc + 4)
  else
    let left := wf rpt 32 32
    let pos := wf rpt 3 3
    let len := wf rpt 0 3 + 1
    if pos + 1 = len then
      let left' := (left + 2 ^ 32 - 1) % 2 ^ 32
      let r := setField (setField rpt 32 32 left') 3 3 0
      if left' = 0 then (setField r 11 1 0, pc + 4) else (r, pc + 4 - wd (4 * len))
    else (setField rpt 3 3 (pos + 1), pc + 4)

/-- The instruction executed: it counts, and the slot forgets what a re-issue would need (R122). -/
def State.retired (s : State) : State :=
  (s.modMe (fun t => { t with instret := t.instret + 1, skipBreak := false, walkOut := none, rewalked := none, dirWait := none })).countS s.curCore s.curSlot 2

/-- The slot passes its turn as a bubble (R15, R370). -/
def State.bubble (s : State) : State := s.countS s.curCore s.curSlot 3

/-- What the turn comes to; before is the state at its start. -/
def finish (fm : Form) (before : State) (a : Act) : State :=
  match a with
  | .done s =>
    if arrayHolds before fm then before.bubble
    else
      let (r, pc) := repeatNext before.me.rptstat before.me.pc
      let s := s.retired
      s.modMe (fun t => { t with pc := pc, rptstat := if before.me.rptstat.getLsbD 11 then r else t.rptstat })
  | .jump s pc => if arrayHolds before fm then before.bubble else s.retired.modMe (fun t => { t with pc := pc })
  | .hold s => s.bubble
  | .park s on =>
    let s := s.modMe (fun t => { t with state := .parked, park := some on, parkCount := 0 })
    let s := match on with | .claims _ => s.countS s.curCore s.curSlot 11 | _ => s
    s.bubble
  | .trap s cause tval => s.trap cause tval
  | .watch s brk halt va => if halt then s.haltBreak brk else s.trapWith 3 va brk

/-- Issues an instruction at its slot's turn: checks 2 to 5 of R72, then the body. -/
def issue (fm : Form) (body : State → Act) (s : State) : Out :=
  let role := s.me.role
  if fm.priv && role != .k then .next (s.trap 2 (wordOf fm.instr))
  else if (match fm.scope with | some c => (s.resolveScope c).isNone | none => false) then .next (s.trap 2 (wordOf fm.instr))
  else if !fm.roles role then .next (s.trap 29 (wordOf fm.instr))
  else if s.me.rptstat.getLsbD 11 && role == .m && !fm.inBody then .next (s.trap 49 (wd (6 * 2 ^ 56)))
  else match examine s.me fm.regs with
    | .park f n => .next (finish fm s (.park s (.reg f n)))
    | .trap cause tval => .next (s.trap cause tval)
    | .pass => .next (finish fm s (body s))

/-- A future: the register becomes PENDING, or the slot parks on the full claim table (R88). -/
def withClaim (s : State) (f : RFile) (n : Nat) (cls : BitVec 4) (cancel : Bool) (k : State → Option Nat → Act) : Act :=
  match s.pend f n cls cancel with
  | none => .park s (.claims s.here.freed)
  | some (s', c) => k s' c

/-! ## Immediates (R61) -/

def immI (i : BitVec 12) : Word := i.signExtend 64
def immS (hi : BitVec 7) (lo : BitVec 5) : Word := (hi ++ lo).signExtend 64
/-- B immediate: bits 12, 10:5 above, 4:1, 11 below (R61). -/
def immB (hi : BitVec 7) (lo : BitVec 5) : Word :=
  (hi.extractLsb' 6 1 ++ lo.extractLsb' 0 1 ++ hi.extractLsb' 0 6 ++ lo.extractLsb' 1 4 ++ 0#1).signExtend 64
/-- U immediate (R112). -/
def immU (i : BitVec 20) : Word := (i ++ 0#12).signExtend 64
/-- J immediate: bits 20, 10:1, 11, 19:12 (R61). -/
def immJ (i : BitVec 20) : Word :=
  (i.extractLsb' 19 1 ++ i.extractLsb' 0 8 ++ i.extractLsb' 8 1 ++ i.extractLsb' 9 10 ++ 0#1).signExtend 64

end Sys2Proof.Machine
end

