-- ==== Sys2Proof/Machine/Paths.lean ====
section
/-! DEFINITION. The two paths of an access: local-store checks, watches, translation, ordering holds, and the issue of loads,
stores and atomics (R124 to R137, R155 to R166, R170 to R180). -/

namespace Sys2Proof.Machine

/-! ## Regions (R21) -/

def lsTop : Nat := 0x100000
def windowBase : Nat := 0xFFFF00000000
/-- Bits 63:48 of an address are zero. -/
def vaOk (a : Word) : Bool := a.toNat < 2 ^ 48
def isLocal (a : Word) : Bool := a.toNat < lsTop
def isWindow (a : Word) : Bool := windowBase ≤ a.toNat && a.toNat < 2 ^ 48

/-! ## Local store (R193 to R197, R209 to R211) -/

def plotOf (a : Nat) : Nat := a / 4096
def bankOf (a : Nat) : Nat := a / 8 % 64
/-- Owner bit: true is ENGINE (R195). -/
def Core.engineOwned (k : Core) (a : Nat) : Bool := (nget k.owners (plotOf a)).getD false
/-- A plot reserved for the task unit (R197). -/
def State.reservedPlot (s : State) (c p : Nat) : Bool := 240 ≤ p && p < 256 && s.tasksOn c

/-- The first byte whose plot refuses a thread access (R196, R197). -/
def State.plotFail (s : State) (write : Bool) (addrs : List Nat) : Option Nat :=
  addrs.find? (fun a => s.here.engineOwned a || (write && s.me.role != .k && s.reservedPlot s.curCore (plotOf a)))

/-- The bank that an access parks on: of the banks that other slots hold, the one that its first byte in unit order meets (R211, R237; log 63). -/
def State.lockFail (s : State) (addrs : List Nat) : Option Nat :=
  (addrs.find? (fun a => match nget s.here.locks (bankOf a) with
    | some l => l.slot != s.curSlot
    | none => false)).map bankOf

/-- An access is still to be performed (R148). -/
def Core.outstanding (k : Core) (id : Nat) : Bool := k.accs.any (fun a => a.id == id && a.kind != .none)

/-- Bit of R159's sets. -/
def kindBit (kd : AccKind) : Nat := match kd with | .r => 3 | .w => 2 | .a => 1 | .none => 0

/-- What holds a later access of this slot whose kind has the given bit: acquires hold all, fences by kind (R155 to R159). -/
def State.orderWaits (s : State) (bit : Nat) : List Nat :=
  (s.me.acquires ++ (s.me.fences.filter (fun f => f.succ.toNat.testBit bit)).flatMap (·.pred)).filter s.here.outstanding

/-- What a slot that meets another slot's lock on a bank waits for: that holding of the lock (R210). -/
def Core.lockPark (k : Core) (b : Nat) : ParkOn := match nget k.locks b with | some l => .lock b l.slot l.since | none => .lock b 0 0

/-- A local-store access of this slot is held (R155). -/
def State.localHeld (s : State) : Bool := !(s.orderWaits 0).isEmpty

/-- Checks 3 of R125 on a thread access to local store, then the holds; the continuation performs it. -/
def localAccess (s : State) (write : Bool) (addrs : List Nat) (k : Act) : Act :=
  match s.plotFail write addrs with
  | some a => .trap s 27 (wd a)
  | none =>
    match s.lockFail addrs with
    | some b => .park s (s.here.lockPark b)
    | none => if s.localHeld then .hold s else k

/-- Consecutive addresses. -/
def span (a n : Nat) : List Nat := (List.range n).map (a + ·)

def State.lsRead (s : State) (a n : Nat) : Nat := memRead s.here.ls a n
def State.lsWrite (s : State) (a n v : Nat) : State := s.modHere (fun k => { k with ls := memWrite k.ls a n v })

/-! ## Watches (R373, R374) -/

/-- The first watch that an access matches: break source, halt, first matching byte. -/
def State.watchHit (s : State) (isLoad isStore : Bool) (a n : Nat) : Option (BitVec 3 × Bool × Word) :=
  if s.me.skipBreak then none
  else
    (List.range 2).findSome? (fun i =>
      let c := (nget s.here.wpc i).getD 0
      let w := ((nget s.here.wpa i).getD 0).toNat % 2 ^ 48
      let k := min (wf c 8 6) 47
      let mask := wf c 48 16
      if c.getLsbD 0 && (mask == 0 || mask.testBit s.curSlot) && ((c.getLsbD 2 && isLoad) || (c.getLsbD 1 && isStore)) then
        ((span a n).find? (fun b => b / 2 ^ k == w / 2 ^ k)).map (fun b => (BitVec.ofNat 3 (5 + i), c.getLsbD 3, wd b))
      else none)

/-! ## Translation (R170 to R180) -/

inductive AccessKind where
  | x | r | w | amo | copyR | copyW
  deriving DecidableEq, Repr

/-- Bytes of a segment (R178). -/
def segLen (r : RangeSlot) : Nat := ((r.limit.toNat - r.base.toNat + 63) / 64 + 4095) / 4096 * 4096

def RangeSlot.striped (r : RangeSlot) : Bool := r.attrs.getLsbD 1
def RangeSlot.isRemote (r : RangeSlot) : Bool := r.attrs.getLsbD 0
def RangeSlot.copyOnly (r : RangeSlot) : Bool := r.perms.getLsbD 1
def RangeSlot.attr (r : RangeSlot) : MemAttr :=
  { tensor := r.tensor, cmp := r.attrs.getLsbD 2, cacheRemote := r.attrs.getLsbD 3, ordered := r.attrs.getLsbD 4 }

/-- Physical address of a striped range (R179). -/
def stripePA (r : RangeSlot) (va : Nat) : Nat :=
  let w := fieldOf r.stripe.toNat 10 5
  let h := fieldOf r.stripe.toNat 15 5
  let n := w * h
  let u := (va - r.base.toNat) / 2 ^ 16
  let k := u % n
  let site := (fieldOf r.stripe.toNat 5 5 + k / w) * 24 + fieldOf r.stripe.toNat 0 5 + k % w
  site % 1024 * 2 ^ 33 + (wf r.offset 0 33 + u / n * 2 ^ 16 + (va - r.base.toNat) % 2 ^ 16) % 2 ^ 33

/-- Physical address of an address of a range that is not REMOTE (R177). -/
def rangePA (r : RangeSlot) (va : Nat) : Nat := if r.striped then stripePA r va else (va + r.offset.toNat) % 2 ^ 43

/-- Whether the permissions of a range admit a kind (R177). -/
def permits (r : RangeSlot) (k : AccessKind) : Bool :=
  let p := r.perms
  match k with
  | .x => p.getLsbD 2
  | .r | .copyR => p.getLsbD 4
  | .w | .copyW => p.getLsbD 3
  | .amo => p.getLsbD 4 && p.getLsbD 3 && p.getLsbD 0

/-- Whether a kind is refused on COPY_ONLY ranges. -/
def scalarKind (k : AccessKind) : Bool := match k with | .copyR | .copyW => false | _ => true

/-- The entry that matches an address under a directory register's process (R175). -/
def Core.rangeFor (k : Core) (va : Word) : Option RangeEntry :=
  k.ranges.find? (fun e => e.slot.proc == BitVec.ofNat 12 (wf k.rdir 52 12) && e.slot.base.toNat ≤ va.toNat && va.toNat < e.slot.limit.toNat)

/-- Makes an entry the most recently used. -/
def Core.useRange (k : Core) (e : RangeEntry) : Core := { k with ranges := e :: k.ranges.filter (· != e) }

/-- Outcome of the checks of R177 on a matching entry, in the order of R180. -/
inductive EntryRes where
  | ok
  | fault (reason : Nat)
  | clear (seg : Nat)
  deriving DecidableEq, Repr

def checkEntry (r : RangeSlot) (va : Nat) (k : AccessKind) : EntryRes :=
  if scalarKind k && (r.copyOnly || r.isRemote) then .fault 3
  else if !permits r k then .fault 2
  else
    let j := (va - r.base.toNat) / segLen r
    if r.resmap.getLsbD j then .ok else .clear j

/-- wl.rfinfo of a fault (R180). -/
def rfinfoOf (reason proc index : Nat) : Word :=
  wd (reason * 2 ^ 60 + proc * 2 ^ 48 + (if reason = 1 ∨ reason = 5 ∨ reason = 7 then 0 else index) * 2 ^ 32)

/-- Trap cause of a kind (R177). -/
def rangeCause (k : AccessKind) : Nat := match k with | .x => 12 | .r | .copyR => 13 | _ => 15

/-- A directory that no walk can search: fewer than two slots, or crossing its site (R173). -/
def dirBad (d : Word) : Bool :=
  let n := min (wf d 35 17) 65536
  n < 2 || 2 ^ 33 < wf d 0 31 * 4096 % 2 ^ 33 + n * 64

def dirBase (d : Word) : Nat := wf d 0 31 * 4096
def dirCount (d : Word) : Nat := min (wf d 35 17) 65536

/-- Address of the first slot that a search of a directory probes (R174). -/
def dirProbe (d : Word) : Nat := dirBase d + 64 * (dirCount d / 2)

/-- Sends a walk to the home agent of its directory; one that cannot be searched is answered at once. -/
def State.sendWalk (s : State) (c : Nat) (w : WalkRec) : State :=
  let site := siteOf c
  let part := (s.site site).part
  let s := s.count c 12
  if dirBad w.dir then s.inject .response (.core c) site part (.coords site) (.walkAns w.id .nodir)
  else s.inject .request (.core c) site part (.phys (dirProbe w.dir)) (.walk w.id w.va w.dir)

/-- Starts a walk, or joins one of the same directory word on the same page, whether it runs or still waits to start (R176; log 62). -/
def State.startWalk (s : State) (c : Nat) (va : Word) (dir : Word) (user : WalkUser) (join : Bool) : State × Nat :=
  let k := s.core c
  match (if join then k.walks.find? (fun w => w.dir == dir && w.va.toNat / 4096 == va.toNat / 4096) else none) with
  | some w => (s.modCore c (fun k => { k with walks := k.walks.map (fun x => if x.id == w.id then { x with users := x.users ++ [user] } else x) }), w.id)
  | none =>
    let run := (k.walks.filter (·.running)).length < Config.walks
    let w : WalkRec := { id := s.nextId, va := va, dir := dir, running := run, users := [user], restart := false }
    let s := s.bump.modCore c (fun k => { k with walks := k.walks ++ [w] })
    (if run then s.sendWalk c w else s, w.id)

/-- Translate of R177 for the slot whose turn runs: the continuation takes the physical address and the attributes. That an address has been walked
afresh is remembered until the instruction that translates it is done, through what holds or parks it meanwhile (log 62). -/
def translate (s : State) (va : Word) (kind : AccessKind) (k : State → Nat → MemAttr → Act) : Act :=
  let proc := wf s.here.rdir 52 12
  let fail (reason index proc : Nat) : Act :=
    .trap (s.modMe (fun t => { t with rfinfo := rfinfoOf reason proc index })) (rangeCause kind) va
  match s.me.walkOut.filter (fun o => o.va == va) with
  | some o => fail o.reason o.index o.proc
  | none =>
    match s.here.rangeFor va with
    | none =>
      let (s, id) := s.startWalk s.curCore va s.here.rdir (.slot s.curSlot) true
      .park s (.walker id va)
    | some e =>
      match checkEntry e.slot va.toNat kind with
      | .fault r => fail r e.index proc
      | .clear j =>
        if s.me.rewalked = some va then
          .trap (s.modMe (fun t => { t with rfinfo := rfinfoOf 6 proc e.index })) 28 (wd (j * 2 ^ 58 + va.toNat))
        else
          let (s, id) := s.startWalk s.curCore va s.here.rdir (.slot s.curSlot) false
          .park (s.modMe (fun t => { t with rewalked := some va })) (.walker id va)
      | .ok => k (s.modHere (fun c => c.useRange e)) (rangePA e.slot va.toNat) e.slot.attr

/-! ## Releases (R130, R158, R160, R166) -/

/-- Sites of a scope instance that contains a core (R24). -/
def State.inInstance (s : State) (c scope site : Nat) : Bool :=
  let own := siteOf c
  match scope with
  | 0 | 1 => site == own
  | 2 =>
    match s.launchOf c with
    | some l =>
      let w := if l.rw = 0 then 1 else l.rw
      let h := if l.rh = 0 then 1 else l.rh
      let c0 := fieldOf l.rect.toNat 0 5
      let r0 := fieldOf l.rect.toNat 5 5
      inRect l.rect site && (colOf site - c0) / w == (colOf own - c0) / w && (rowOf site - r0) / h == (rowOf own - r0) / h
    | none => site == own
  | _ => inRect (s.partRect (s.site own).part.toNat) site

/-- Stores of the core that the thread's loads have read in the buffer and that are still to be performed (R151, R158, R161). -/
def State.sawWaits (s : State) : List Nat := s.me.saw.filter s.here.outstanding

/-- The wait condition of SREL at a scope (R158): the slot's accesses to be performed first, those of an earlier thread of the slot included, and
what its earlier loads have read in the buffer, for that is performed only after what its own order puts before it (R151, R161). -/
def State.releaseWaits (s : State) (scope : Nat) : List Nat :=
  (s.here.accs.filter (fun a => a.slot == s.curSlot && a.kind != .none &&
    (a.kind != .w || a.isSc || match a.home with | some h => s.inInstance s.curCore scope h | none => true))).map (·.id) ++ s.sawWaits

/-- The checks that a release or fence makes: cause 7 while a failed store is latched, then cause 31 (R130, R166). -/
def releaseCheck (s : State) (k : Act) : Act :=
  if s.me.stfail.getLsbD 63 then .trap s 7 (wd (wf s.me.stfail 0 43))
  else if s.me.ordctl.getLsbD 63 && s.me.ordctl.getLsbD 62 then .trap s 31 (wd (wf s.me.ordctl 0 43))
  else k

/-! ## Accesses through the memory port -/

/-- Home site of an access for scope rules: a window's is the named core's site (R355). -/
def State.targetHome (s : State) (c : Nat) (t : MemTarget) : Option Nat :=
  match t with
  | .phys pa => some (homeOf pa)
  | .window va => s.siteNamed (s.site (siteOf c)).part.toNat (BitVec.ofNat 12 (fieldOf va 20 12))
  | .router n _ => s.siteNamed (s.site (siteOf c)).part.toNat n

/-- Where a request is sent (R31). -/
def MemTarget.dest (t : MemTarget) : Dest :=
  match t with
  | .phys pa => .phys pa
  | .window va => .name (BitVec.ofNat 16 (fieldOf va 16 16))
  | .router n _ => .name (n ++ 0#4)

/-- First byte of a request for byte-overlap tests. -/
def MemTarget.lo (t : MemTarget) : Nat := match t with | .phys pa => pa | .window va => va + 2 ^ 50 | .router n o => 2 ^ 51 + n.toNat * 2 ^ 32 + o

def MemOp.size (o : MemOp) : Nat :=
  match o with
  | .load n _ => n
  | .lr d => if d then 8 else 4
  | .sc d _ => if d then 8 else 4
  | .amo _ d _ => if d then 8 else 4
  | .store n _ => n

/-- Whether two byte spans meet. -/
def overlaps (a n b m : Nat) : Bool := a < b + m && b < a + n

/-- Earlier accesses of the slot that meet these bytes and are unanswered (R94, R149). -/
def State.meets (s : State) (lo n : Nat) : List Access :=
  s.here.accs.filter (fun a => a.slot == s.curSlot && overlaps a.lo a.len lo n)

/-- Registers an access issued now. -/
def State.addAccess (s : State) (id : Nat) (kind : AccKind) (isSc : Bool) (t : MemTarget) (n va : Nat) (translated : Bool) (drops : Bool := false) : State :=
  let a : Access := { id := id, slot := s.curSlot, epoch := s.me.epoch, issuer := (s.curSlot, s.me.epoch), kind := kind, isSc := isSc, home := s.targetHome s.curCore t, lo := t.lo, len := n,
                      va := va, proc := BitVec.ofNat 12 (wf s.here.rdir 52 12), translated := translated, drops := drops,
                      fills := kind == .r || kind == .a || isSc, fillClaim := none }
  s.modHere (fun k => { k with accs := k.accs ++ [a] })

/-- Sends a request, or holds it at the port until its conditions hold (R155). -/
def State.portSend (s : State) (waits after : List Nat) (acc : Nat) (body : Body) (dest : Dest) (cls : PClass := .request) : State :=
  if waits.isEmpty && after.isEmpty then s.inject cls (.core s.curCore) (siteOf s.curCore) (s.site (siteOf s.curCore)).part dest body
  else { s with held := s.held ++ [{ core := s.curCore, acc := acc, waits := waits, after := after, body := body, dest := dest }] }

/-- The youngest buffered store that holds a byte, over all slots of the core (R129). -/
def sbByte (sb : List SbEntry) (a : Nat) : Option (Option Byte × Nat) :=
  (sb.reverse.find? (fun e => !e.sent && overlaps e.req.target.lo e.req.op.size a 1)).map (fun e =>
    match e.req.op with
    | .store _ d => (some (BitVec.ofNat 8 (d.toNat >>> (8 * (a - e.req.target.lo)))), e.req.acc)
    | _ => (none, e.req.acc))

/-- Extends a loaded value (R117). -/
def extendLoad (v n : Nat) (sx : Bool) : Word := if sx then sextW (wd v) (8 * n) else wd v

/-- Where a load takes its bytes (R129). -/
inductive LoadPlan where
  /-- all from buffered stores: the value, and the stores -/
  | forward (v : Nat) (from_ : List Nat)
  /-- some from buffered or unperformed stores: they are performed first -/
  | wait (accs : List Nat)
  /-- from its home -/
  | home
  deriving DecidableEq, Repr

/-- The plan of a load of n bytes: stores of its slot that came after it are not its business (R149). -/
def Core.loadPlan (k : Core) (slot acc lo n : Nat) : LoadPlan :=
  let bytes := (span lo n).map (sbByte (k.sb.filter (fun e => e.req.slot != slot || e.req.acc < acc)))
  if bytes.all (fun b => match b with | some (some _, _) => true | _ => false) then
    .forward (ofBytes (bytes.map (fun b => match b with | some (some x, _) => x | _ => 0))) (bytes.filterMap (fun b => b.map (·.2))).eraseDups
  else
    let own := k.accs.filter (fun a => a.slot == slot && a.id < acc && a.kind == .w && overlaps a.lo a.len lo n)
    match ((bytes.filterMap (fun b => b.map (·.2))) ++ own.map (·.id)).filter k.outstanding with
    | [] => .home
    | l => .wait l

/-- Whether a store of some slot of the core that meets these bytes has left the buffer and is still to be performed: a load that a slot makes
now comes behind it at its home, for a slot may have read that store, or one after it, from the buffer (R149, R151, R161). -/
def Core.sentMeets (k : Core) (lo n : Nat) : Bool := k.sb.any (fun e => e.sent && overlaps e.req.target.lo e.req.op.size lo n)

/-- Stores and SCs of any slot of the core to these bytes that are still to be performed: an LR or AMO comes after them, for its slot may have read
them from the buffer (R149). -/
def Core.storesMeet (k : Core) (lo n : Nat) : List Nat :=
  ((k.sb.filter (fun e => overlaps e.req.target.lo e.req.op.size lo n)).map (·.req.acc)).filter k.outstanding

/-- Stores that a load of a slot has read in the buffer and that order what comes after it: those of other slots, and those homed at the core's own
site (R151, R161). -/
def Core.ordering (k : Core) (c slot : Nat) (from_ : List Nat) : List Nat :=
  from_.filter (fun i => k.sb.any (fun e => e.req.acc == i && (e.req.slot != slot || (match e.req.target with | .phys pa => homeOf pa == siteOf c | _ => false))))

/-- A load of a thread, named by slot and epoch, has read stores in the buffer: the thread remembers them, and if the load is an acquire what it
does from now on comes after them (R151, R157, R161). -/
def Core.sees (k : Core) (c slot epoch : Nat) (from_ : List Nat) (acq : List Nat → Bool) : Core :=
  match k.ordering c slot from_ with
  | [] => k
  | l =>
    let t := k.slot slot
    let later (a : List Nat) : List Nat := if acq a then a ++ l else a
    let saved (v : Saved) : Saved := if v.slot == slot && v.epoch == epoch then { v with acquires := later v.acquires, saw := v.saw ++ l } else v
    if t.epoch == epoch then k.setSlot slot { t with acquires := later t.acquires, saw := ((t.saw ++ l).filter k.outstanding).eraseDups }
    else { k with ctx := k.ctx.map (fun p => (p.1, saved p.2)), images := k.images.map (fun i => { i with saved := saved i.saved }) }

/-- Earlier accesses of these bytes whose fills come first (R94). -/
def State.fillsBefore (s : State) (lo n : Nat) : List Nat := ((s.meets lo n).filter (·.fills)).map (·.id)

/-- A global or window load (R127 to R129, R134), and with `acq` an acquire of that scope (R157). -/
def loadGlobal (s : State) (rd : BitVec 5) (t : MemTarget) (va n : Nat) (sx : Bool) (attr : MemAttr) (acq : Option Nat) : Act :=
  withClaim s .x rd.toNat 1 false fun s claim =>
    let c := s.curCore
    let wide : Bool := match acq with | some sc => decide (2 ≤ sc) | none => false
    let s := if wide then s.dropRemote c else s
    let id := s.nextId
    let s := s.bump
    let plan := s.here.loadPlan s.curSlot id t.lo n
    let prior := s.meets t.lo n
    let after := s.fillsBefore t.lo n
    let waits0 := s.orderWaits 3
    let cyc := s.here.cycle
    let free : Bool := waits0.isEmpty && after.isEmpty
    let hit := match plan, t with
      | .forward v _, _ => if free then some (v, none) else none
      | .home, .phys pa => if free && lineOf (pa + n - 1) == lineOf pa && prior.isEmpty && !s.here.sentMeets t.lo n then (s.l1Line c (lineOf pa)).map (fun x => (fieldOf x.data.toNat (8 * (pa % 128)) (8 * n), some (lineOf pa))) else none
      | _, _ => none
    match hit with
    | some (v, none) =>
      let s := s.modHere (fun k => match plan with | .forward _ l => k.sees c s.curSlot s.me.epoch l (fun _ => acq.isSome) | _ => k)
      .done (s.deliverAt c claim (cyc + 10) (fillW (extendLoad v n sx)))
    | some (v, some l) =>
      let s := (s.modCore (s.l1Core c l) (fun k => { k with l1 := match nget k.l1 l with | some x => nput k.l1 l { x with used := s.useCtr } | none => k.l1 })).count c 6
      .done ({ s with useCtr := s.useCtr + 1 }.deliverAt c claim (cyc + if s.fused c then 16 else 10) (fillW (extendLoad v n sx)))
    | none =>
      let s := match t with | .phys _ => s.count c 7 | _ => s
      let s := s.addAccess id .r false t n va (match t with | .phys _ => true | _ => false) wide
      let s := if acq.isSome then s.modMe (fun m => { m with acquires := m.acquires ++ [id] }) else s
      let waits := waits0 ++ (match plan with | .wait l => l | _ => [])
      .done (s.portSend waits after id (.mem { acc := id, slot := s.curSlot, epoch := s.me.epoch, op := .load n sx, target := t, attr := attr, claim := claim }) t.dest)

/-- A store of a slot enters the store buffer (R129), with the release's wait condition and check where it has one. -/
def storeGlobal (s : State) (t : MemTarget) (va : Nat) (op : MemOp) (attr : MemAttr) (claim : Option Nat) (waits : List Nat) (check : Option (Nat × Bool)) : State :=
  let id := s.nextId
  let s := s.bump
  let n := op.size
  let isSc := match op with | .sc .. => true | _ => false
  let prior := ((s.meets t.lo n).filter (fun a => a.kind == .r || a.kind == .a)).map (·.id)
  let chk := match check with | some x => some x | none => s.me.missScope.map (fun sc => (sc, true))
  let e : SbEntry := { req := { acc := id, slot := s.curSlot, epoch := s.me.epoch, op := op, target := t, attr := attr, claim := claim },
                       waits := waits ++ s.orderWaits 2 ++ prior, after := if isSc then s.fillsBefore t.lo n else [], sent := false, check := chk }
  let s := s.addAccess id .w isSc t n va (match t with | .phys _ => true | _ => false)
  s.modCore s.curCore (fun k =>
    let m := k.slot s.curSlot
    { (k.setSlot s.curSlot { m with missScope := none }) with sb := k.sb ++ [e] })

/-- Whether the store buffer has room (R129). -/
def State.sbRoom (s : State) : Bool := (s.here.sb.filter (fun e => !e.sent)).length < Config.storeBuffer

/-! ## Effective addresses -/

/-- Checks 1 and 2 of R125, then the watches (R373). -/
def addrChecks (s : State) (ea : Word) (n : Nat) (isLoad isStore : Bool) (access misalign : Nat) (k : Act) : Act :=
  if !vaOk ea then .trap s access ea
  else if ea.toNat % n ≠ 0 then .trap s misalign ea
  else match s.watchHit isLoad isStore ea.toNat n with
    | some (b, h, va) => .watch s b h va
    | none => k

/-- The first window load of the offset that wl.hnote points at acknowledges the handler's entry (R351). -/
def State.ackHandler (s : State) (va : Nat) : State :=
  let h := s.here.hnote
  let fwd := wf h 60 4 == 2 && !h.getLsbD 35
  let kind := if fwd then wf h 38 2 else wf h 60 4
  let chan := if fwd then wf h 36 2 else wf h 8 2
  let at_ := if kind = 1 then 0xF08 + 0x20 * chan else 0x120
  let sameSlot := kind == 1 || fieldOf va 12 4 == wf h 12 4
  if s.here.hin && fieldOf va 16 16 == wf h 16 16 && sameSlot && va % 4096 == at_ then s.modHere (fun k => { k with hin := false }) else s

/-- A scalar load of n bytes, or an acquire of a scope (R117, R124, R127, R157). -/
def scalarLoad (s : State) (rd : BitVec 5) (ea : Word) (n : Nat) (sx : Bool) (acq : Option Nat) : Act :=
  addrChecks s ea n true false 5 4 <|
    if isLocal ea then
      localAccess s false (span ea.toNat n) <|
        let wide : Bool := match acq with | some sc => decide (2 ≤ sc) | none => false
        let s := if wide then s.dropRemote s.curCore else s
        .done (s.setX rd (extendLoad (s.lsRead ea.toNat n) n sx))
    else if isWindow ea then
      if s.me.role != .k then .trap s 5 ea
      else match loadGlobal s rd (.window ea.toNat) ea.toNat n sx .none acq with
        | .done s => .done (s.ackHandler ea.toNat)
        | a => a
    else translate s ea .r fun s pa attr => loadGlobal s rd (.phys pa) ea.toNat n sx attr acq

/-- A scalar store of n bytes; with rel a release of that scope (R117, R124, R129, R158). -/
def scalarStore (s : State) (v : Word) (ea : Word) (n : Nat) (rel : Option Nat) : Act :=
  addrChecks s ea n false true 7 6 <|
    let go : Act :=
      let waits := match rel with | some sc => s.releaseWaits sc | none => []
      let check := rel.map (fun sc => (sc, false))
      let unfence (s : State) : State := if rel.isSome then s.modMe (fun t => { t with missScope := none }) else s
      if isLocal ea then
        localAccess s true (span ea.toNat n) <|
          if !waits.isEmpty then .hold s
          else .done ((unfence s).lsWrite ea.toNat n v.toNat)
      else if isWindow ea then
        if s.me.role != .k then .trap s 7 ea
        else if !s.sbRoom then .hold s
        else .done (storeGlobal (unfence s) (.window ea.toNat) ea.toNat (.store n v) .none none waits check)
      else translate s ea .w fun s pa attr =>
        if !s.sbRoom then .hold s
        else .done (storeGlobal (unfence s) (.phys pa) ea.toNat (.store n v) attr none waits check)
    if rel.isSome then releaseCheck s go else go

/-! ## Atomics (R126, R131 to R133) -/

/-- Value that an AMO writes, on 32 or 64 bits (R131); fn is funct5. -/
def amoValue (fn : Nat) (dbl : Bool) (old new : Word) : Word :=
  let w := if dbl then 64 else 32
  let a : Nat := old.toNat % 2 ^ w
  let b : Nat := new.toNat % 2 ^ w
  let sa : Int := if a < 2 ^ (w - 1) then Int.ofNat a else Int.ofNat a - 2 ^ w
  let sb : Int := if b < 2 ^ (w - 1) then Int.ofNat b else Int.ofNat b - 2 ^ w
  match fn with
  | 0b00001 => wd b
  | 0b00000 => wd ((a + b) % 2 ^ w)
  | 0b00100 => wd (a ^^^ b)
  | 0b01100 => wd (a &&& b)
  | 0b01000 => wd (a ||| b)
  | 0b10000 => if sa < sb then wd a else wd b
  | 0b10100 => if sa < sb then wd b else wd a
  | 0b11000 => if a < b then wd a else wd b
  | _ => if a < b then wd b else wd a

/-- What the aq bit adds after the access: an acquire at module scope (R160). -/
def acquireId (s : State) (aq : Bool) (id : Nat) : State := if aq then s.modMe (fun t => { t with acquires := t.acquires ++ [id] }) else s

/-- A global LR or AMO (R132, R133): claim, request, and the orderings of aq and rl. -/
def atomicGlobal (s : State) (rd : BitVec 5) (va pa : Nat) (attr : MemAttr) (op : MemOp) (kind : AccKind) (aq rl : Bool) : Act :=
  withClaim s .x rd.toNat 1 false fun s claim =>
    let s := if aq then s.dropRemote s.curCore else s
    let id := s.nextId
    let s := s.bump
    let after := s.fillsBefore pa op.size
    let waits := s.orderWaits (kindBit kind) ++ (if rl then s.releaseWaits 3 else []) ++
      ((s.meets pa op.size).map (·.id)).filter s.here.outstanding ++ s.here.storesMeet pa op.size
    let s := if rl then s.modMe (fun t => { t with missScope := none }) else s
    let s := acquireId (s.addAccess id kind false (.phys pa) op.size va true aq) aq id
    .done (s.portSend waits after id (.mem { acc := id, slot := s.curSlot, epoch := s.me.epoch, op := op, target := .phys pa, attr := attr, claim := claim }) (.phys pa))

/-- An AMO (R126, R131, R132). -/
def amoBody (fn : Nat) (aq rl : BitVec 1) (rs2 rs1 : BitVec 5) (dbl : BitVec 1) (rd : BitVec 5) (s : State) : Act :=
  let ea := s.xv rs1
  let d := dbl == 1#1
  let n := if d then 8 else 4
  addrChecks s ea n true true 7 6 <|
    let go : Act :=
      if isLocal ea then
        localAccess s true (span ea.toNat n) <|
          if rl == 1#1 && !(s.releaseWaits 3).isEmpty then .hold s
          else
            let old := wd (s.lsRead ea.toNat n)
            let s := if rl == 1#1 then s.modMe (fun t => { t with missScope := none }) else s
            let s := if aq == 1#1 then s.dropRemote s.curCore else s
            .done ((s.lsWrite ea.toNat n (amoValue fn d old (s.xv rs2)).toNat).setX rd (extendLoad old.toNat n true))
      else if isWindow ea then .trap s 7 ea
      else translate s ea .amo fun s pa attr => atomicGlobal s rd ea.toNat pa attr (.amo fn d (s.xv rs2)) .a (aq == 1#1) (rl == 1#1)
    if rl == 1#1 then releaseCheck s go else go

/-- LR (R133). -/
def lrBody (aq : BitVec 1) (rs1 : BitVec 5) (dbl : BitVec 1) (rd : BitVec 5) (s : State) : Act :=
  let ea := s.xv rs1
  let d := dbl == 1#1
  addrChecks s ea (if d then 8 else 4) true false 5 4 <|
    if isLocal ea || isWindow ea then .trap s 5 ea
    else translate s ea .amo fun s pa attr => atomicGlobal s rd ea.toNat pa attr (.lr d) .r (aq == 1#1) false

/-- SC (R133): it goes through the store buffer, whose order R151 gives; after a fence with W in succ it is the store checked (R163). -/
def scBody (rl : BitVec 1) (rs2 rs1 : BitVec 5) (dbl : BitVec 1) (rd : BitVec 5) (s : State) : Act :=
  let ea := s.xv rs1
  let d := dbl == 1#1
  addrChecks s ea (if d then 8 else 4) false true 7 6 <|
    let go : Act :=
      if isLocal ea || isWindow ea then .trap s 7 ea
      else translate s ea .amo fun s pa attr =>
        if !s.sbRoom then .hold s
        else
          let v := s.xv rs2
          withClaim s .x rd.toNat 1 false fun s claim =>
            let waits := if rl == 1#1 then s.releaseWaits 3 else []
            .done (storeGlobal s (.phys pa) ea.toNat (.sc d v) attr claim waits none)
    if rl == 1#1 then releaseCheck s go else go

/-! ## Fences (R159) -/

/-- FENCES at a scope with its two sets: bits 3 R, 2 W, 1 A, 0 L. With R in succ remote lines are dropped at once and again when an earlier
access that it makes an acquire is performed (R136, R160, R162). With R in pred the stores that earlier loads have read in the buffer come first
as well (R151). -/
def fenceBody (scope : Nat) (pred succ : BitVec 4) (s : State) : Act :=
  releaseCheck s <|
    let before := (s.here.accs.filter (fun a => a.slot == s.curSlot && a.kind != .none &&
      pred.toNat.testBit (kindBit a.kind) && (match a.home with | some h => s.inInstance s.curCore scope h | none => true))).map (·.id) ++
        (if pred.getLsbD 3 then s.sawWaits else [])
    let wide := succ.getLsbD 3 && 2 ≤ scope
    let s := if wide then (s.dropRemote s.curCore).modHere (fun k => { k with accs := k.accs.map (fun a => if before.contains a.id then { a with drops := true } else a) }) else s
    .done (s.modMe (fun t => { t with
      fences := (t.fences.filter (fun f => f.pred.any s.here.outstanding)) ++ (if before.isEmpty then [] else [{ pred := before, succ := succ }])
      missScope := if succ.getLsbD 2 then some scope else none }))

end Sys2Proof.Machine
end

