-- ==== Sys2Proof/Machine/Csr.lean ====
section
/-! DEFINITION. The CSR map: which bits of each register are read-write and which clear on 1, reading and writing (R3, R52, R85,
R119 to R122, R130, R164, R165, R173, R220, R221, R247, R249, R263, R291, R322, R326, R332, R335, R347, R350, R368 to R375). -/

namespace Sys2Proof.Machine

/-- Read-write bits of a CSR; registers that no rule lets software write have none. -/
def csrRwBits (n : Nat) : Word :=
  if 0x808 ≤ n ∧ n ≤ 0x80F then 0xFFFFFFFFFFFFFE1F
  else if 0x9C0 ≤ n ∧ n ≤ 0x9C7 then 0xFFFF00000000003F
  else if 0x9C8 ≤ n ∧ n ≤ 0x9CF then 0xFFFFFFFFFFFFFFFF
  else if 0x9D0 ≤ n ∧ n ≤ 0x9D3 then 0xFFFFFFFFFFFFFFFF
  else match n with
    | 0x800 => 0xFFFFFFFF
    | 0x801 => 0x3F
    | 0x802 | 0x803 => 0xFFFFFFFFFFFFFFFF
    | 0x804 => 0x4000000000000000
    | 0x806 => 0xFFFFFFFF
    | 0x807 => 0xE000FFFFFFFFFFFF
    | 0x810 => 0xFFFF000000FF007F
    | 0x811 => 0xFFFFFFFF0000083F
    | 0x5C0 | 0x5C1 => 0xFFFFFFF87FFFFFFF
    | 0x5C2 => 0x007FF80000000000
    | 0x5C5 => 0xFFFFFFFF
    | 0x5C6 => 0x0000FFFFFFFFFFFC
    | 0x5C7 | 0x5C8 => 0xFFFFFFFFFFFFFFFF
    | 0x9D4 | 0x9D5 => 0x0000FFFFFFFFFFFF
    | 0x9D6 | 0x9D7 => 0xFFFF000000003F0F
    | 0x9D8 => 0xFFFF0000000001FF
    | 0x9D9 => 0xF00007FFFFFFF000
    | _ => 0

/-- Bits of a CSR that a written 1 clears. -/
def csrW1cBits (n : Nat) : Word :=
  match n with
  | 0x804 => 0x8000000000000000
  | 0x805 => 0xC000000000000000
  | 0x812 => 0x100
  | 0x5C2 => 0x8000000000000000
  | 0x5C3 | 0x5C4 => 0xC000000000000000
  | 0x9DA => 0x8000000000000000
  | _ => 0

/-- A directory register whose count above 65,536 is cut (R173). -/
def dirCut (w : Word) : Word := if 65536 < wf w 35 17 then setField w 35 17 65536 else w

/-- A write of the bits of a byte mask, field by field (R3); a count of wl.rdir or wl.rdmnt above 65,536 is cut (R173). -/
def csrMerge (n : Nat) (cur v mask : Word) : Word :=
  let rw := csrRwBits n &&& mask
  let w := ((cur &&& ~~~rw) ||| (v &&& rw)) &&& ~~~(v &&& csrW1cBits n &&& mask)
  if n = 0x5C0 ∨ n = 0x5C1 then dirCut w else w

/-- A slot register by its CSR number (R368). -/
def Slot.csr (t : Slot) (n : Nat) : Word :=
  if 0x808 ≤ n ∧ n ≤ 0x80F then (nget t.mcfg (n - 0x808)).getD mcfgReset
  else if 0xCC8 ≤ n ∧ n ≤ 0xCCF then (nget t.idx (n - 0xCC8)).getD 0
  else match n with
    | 0x800 => t.parklim
    | 0x801 => t.vflags
    | 0x802 => t.srseed
    | 0x803 => t.srctr
    | 0x804 => t.ordctl
    | 0x805 => t.stfail
    | 0x806 => t.tag
    | 0x807 => t.bstream
    | 0x810 => t.mstcfg
    | 0x811 => t.rptstat
    | 0xC02 => t.instret
    | 0xCC2 => t.rfinfo
    | _ => 0

/-- Writes a slot register under a byte mask. -/
def Slot.putCsr (t : Slot) (n : Nat) (v mask : Word) : Slot :=
  let w := csrMerge n (t.csr n) v mask
  if 0x808 ≤ n ∧ n ≤ 0x80F then { t with mcfg := nput t.mcfg (n - 0x808) w }
  else match n with
    | 0x800 => { t with parklim := w }
    | 0x801 => { t with vflags := w }
    | 0x802 => { t with srseed := w }
    | 0x803 => { t with srctr := w }
    | 0x804 => { t with ordctl := w }
    | 0x805 => { t with stfail := w }
    | 0x806 => { t with tag := w }
    | 0x807 => { t with bstream := w }
    | 0x810 => { t with mstcfg := w }
    | 0x811 => { t with rptstat := w }
    | _ => t

/-- wl.hstat (R350). -/
def Core.hstat (k : Core) : Word := wd ((if k.hfromempty then 4 else 0) + (if k.hin then 2 else 0) + (if k.hbusy then 1 else 0))

/-- Valid entries of the pound (R313, R326); without a task unit there is none. -/
def State.poundUsed (s : State) (c : Nat) : Nat :=
  if s.tasksOn c then ((List.range 64).filter (fun i => (memGet (s.core c).ls (0xFD007 + 0x40 * i)).getLsbD 7)).length else 0

/-- A core register by its CSR number (R368). -/
def State.coreCsr (s : State) (c n : Nat) : Word :=
  let k := s.core c
  if 0x9C0 ≤ n ∧ n ≤ 0x9C7 then (nget k.evsel (n - 0x9C0)).getD 0
  else if 0x9C8 ≤ n ∧ n ≤ 0x9CF then (nget k.evcnt (n - 0x9C8)).getD 0
  else if 0x9D0 ≤ n ∧ n ≤ 0x9D3 then (nget k.bp (n - 0x9D0)).getD 0
  else match n with
    | 0x812 => k.stamp
    | 0x5C0 => k.rdir
    | 0x5C1 => k.rdmnt
    | 0x5C2 => k.scopemiss
    | 0x5C3 => k.inlog
    | 0x5C4 => setField k.poundReg 48 8 (s.poundUsed c)
    | 0x5C5 => k.pair
    | 0x5C6 => k.hvec
    | 0x5C7 => k.hepc
    | 0x5C8 => k.hscratch
    | 0x9D4 => (nget k.wpa 0).getD 0
    | 0x9D5 => (nget k.wpa 1).getD 0
    | 0x9D6 => (nget k.wpc 0).getD 0
    | 0x9D7 => (nget k.wpc 1).getD 0
    | 0x9D8 => k.trcctl
    | 0x9D9 => k.trcbase
    | 0x9DA => k.trcptr
    | 0xDC0 => k.hnote
    | 0xDC1 => k.hstat
    | _ => 0

/-- Writes a core register. -/
def State.putCoreCsr (s : State) (c n : Nat) (v mask : Word) : State :=
  let w := csrMerge n (s.coreCsr c n) v mask
  s.modCore c (fun k =>
    if 0x9C0 ≤ n ∧ n ≤ 0x9C7 then { k with evsel := nput k.evsel (n - 0x9C0) w }
    else if 0x9C8 ≤ n ∧ n ≤ 0x9CF then { k with evcnt := nput k.evcnt (n - 0x9C8) w }
    else if 0x9D0 ≤ n ∧ n ≤ 0x9D3 then { k with bp := nput k.bp (n - 0x9D0) w }
    else match n with
      | 0x812 => { k with stamp := w }
      | 0x5C0 => { k with rdir := w }
      | 0x5C1 => { k with rdmnt := w }
      | 0x5C2 => { k with scopemiss := w }
      | 0x5C3 => { k with inlog := w }
      | 0x5C4 => { k with poundReg := setField w 48 8 0 }
      | 0x5C5 => { k with pair := w }
      | 0x5C6 => { k with hvec := w }
      | 0x5C7 => { k with hepc := w }
      | 0x5C8 => { k with hscratch := w }
      | 0x9D4 => { k with wpa := nput k.wpa 0 w }
      | 0x9D5 => { k with wpa := nput k.wpa 1 w }
      | 0x9D6 => { k with wpc := nput k.wpc 0 w }
      | 0x9D7 => { k with wpc := nput k.wpc 1 w }
      | 0x9D8 => { k with trcctl := w }
      | 0x9D9 => { k with trcbase := w }
      | 0x9DA => { k with trcptr := w }
      | _ => k)

/-- Whether a CSR belongs to the slot (R368). -/
def csrOfSlot (n : Nat) : Bool := (0x800 ≤ n && n ≤ 0x811) || n == 0xC02 || n == 0xCC2 || (0xCC8 ≤ n && n ≤ 0xCCF)

/-- wl.sitestat of a site (R52). -/
def Site.stat (t : Site) : Word := (if siteCode t.state < 2 then 0 else t.health) ++ t.name ++ t.part ++ t.clksw ++ t.depth ++ t.clksrc ++ t.ncores ++ BitVec.ofNat 3 (siteCode t.state)

/-- Value of a CSR as the slot whose turn runs reads it (R119, R122, R368). -/
def State.readCsr (s : State) (n : Nat) : Word :=
  if csrOfSlot n then s.me.csr n
  else if 0xC03 ≤ n ∧ n ≤ 0xC0A then s.coreCsr s.curCore (0x9C8 + (n - 0xC03))
  else match n with
    | 0xC00 => wd s.here.cycle
    | 0xCC0 => (s.site (siteOf s.curCore)).stat
    | 0xCC1 => (s.coreName s.curCore).setWidth 64
    | _ => s.coreCsr s.curCore n

/-- Writes a CSR for the slot whose turn runs (R119). -/
def State.writeCsr (s : State) (n : Nat) (v : Word) : State :=
  if csrOfSlot n then s.modMe (fun t => t.putCsr n v (BitVec.allOnes 64)) else s.putCoreCsr s.curCore n v (BitVec.allOnes 64)

/-- Roles that may name a CSR once it is legal (R246, R335, R368). -/
def csrRoles (n : Nat) (r : Role) : Bool :=
  if n = 0x807 then r == .t else if 0x808 ≤ n ∧ n ≤ 0x811 then r == .m else r != .none

/-- The six Zicsr instructions (R119): new is the written value from the old one; writes says whether the form writes. -/
def csrBody (csr : BitVec 12) (rd : BitVec 5) (writes : Bool) (new : Word → Word) (s : State) : Act :=
  let old := s.readCsr csr.toNat
  let s := if writes then s.writeCsr csr.toNat (new old) else s
  .done (s.setX rd old)

/-- Form of a Zicsr instruction: legality by number, roles, registers (R64, R82, R119). -/
def csrForm (i : Instr) (csr : BitVec 12) (regs : List (Bool × RFile × Nat)) : Form :=
  { instr := i, roles := csrRoles csr.toNat, priv := csrKOnly csr, regs := regs }

/-- CSRRW (R119). -/
def execCsrrw (csr : BitVec 12) (rs1 rd : BitVec 5) (s : State) : Out :=
  issue (csrForm (.csrrw csr rs1 rd) csr [sx rs1, dx rd]) (fun s => csrBody csr rd true (fun _ => s.xv rs1) s) s

/-- CSRRS (R119). -/
def execCsrrs (csr : BitVec 12) (rs1 rd : BitVec 5) (s : State) : Out :=
  issue (csrForm (.csrrs csr rs1 rd) csr [sx rs1, dx rd]) (fun s => csrBody csr rd (rs1 != 0) (fun o => o ||| s.xv rs1) s) s

/-- CSRRC (R119). -/
def execCsrrc (csr : BitVec 12) (rs1 rd : BitVec 5) (s : State) : Out :=
  issue (csrForm (.csrrc csr rs1 rd) csr [sx rs1, dx rd]) (fun s => csrBody csr rd (rs1 != 0) (fun o => o &&& ~~~(s.xv rs1)) s) s

/-- CSRRWI (R119). -/
def execCsrrwi (csr : BitVec 12) (uimm rd : BitVec 5) (s : State) : Out :=
  issue (csrForm (.csrrwi csr uimm rd) csr [dx rd]) (fun s => csrBody csr rd true (fun _ => uimm.setWidth 64) s) s

/-- CSRRSI (R119). -/
def execCsrrsi (csr : BitVec 12) (uimm rd : BitVec 5) (s : State) : Out :=
  issue (csrForm (.csrrsi csr uimm rd) csr [dx rd]) (fun s => csrBody csr rd (uimm != 0) (fun o => o ||| uimm.setWidth 64) s) s

/-- CSRRCI (R119). -/
def execCsrrci (csr : BitVec 12) (uimm rd : BitVec 5) (s : State) : Out :=
  issue (csrForm (.csrrci csr uimm rd) csr [dx rd]) (fun s => csrBody csr rd (uimm != 0) (fun o => o &&& ~~~(uimm.setWidth 64)) s) s

end Sys2Proof.Machine
end

