-- ==== Sys2Proof/Machine/Local.lean ====
section
/-! DEFINITION. Plots, named barriers, queues and bank locks of a core (R195 to R212). -/

namespace Sys2Proof.Machine

/-! ## Plots (R195 to R198) -/

/-- Bytes that a BLZC reads and writes (R341). -/
def BlzcRec.addrs (b : BlzcRec) : List Nat := span b.dst b.len ++ span (b.dst - b.dist.toNat) b.len

/-- A plot holds a byte of a transfer or BLZC that is still to be performed (R198). -/
def Core.plotBusy (k : Core) (p : Nat) : Bool :=
  (match k.transfer with | some t => t.addrs.any (fun a => plotOf a == p) | none => false) ||
  (match k.blzc with | some b => b.addrs.any (fun a => plotOf a == p) | none => false)

/-- Core of a name as its partition knows it. -/
def State.coreNamed (s : State) (part : Nat) (name : BitVec 16) : Option Nat :=
  (s.siteNamed part (name.extractLsb' 4 12)).map (fun n => 16 * n + (name.setWidth 4).toNat)

/-- Whether a segment of another core's copy touches a plot of a core: it has been started, or is on its way there (R278). -/
def State.farUse (s : State) (d p : Nat) : Bool :=
  s.flights.any (fun f => match f.body, f.dest with
    | .segment _ bytes red, .name nm => (bytes.any (fun b => plotOf b.1 == p) || red.any (fun b => plotOf b.1 == p)) && s.coreNamed f.part.toNat nm == some d
    | .replica _ cores _ _ bytes _, _ => cores.contains d && bytes.any (fun b => plotOf b.1 == p)
    | _, _ => false) ||
  s.cores.any (fun q => q.2.channels.any (fun h => h.2.started.any (fun g => g.dsts.any (fun l => match l with
    | .far nm a => plotOf a == p && (if nm == 0xFFFF then h.2.receivers.any (fun r => r.core == d && !r.closed)
        else s.coreNamed (s.site (siteOf q.1)).part.toNat nm == some d)
    | _ => false)) || (q.1 == d && h.2.edgeScale.any (fun b => plotOf b.1 == p)) || ((h.2.edge.any (fun b => plotOf b.1 == p) || h.2.edgeAdds.any (fun b => plotOf b.1 == p)) && (match h.2.edgeTo with
      | none => q.1 == d
      | some nm => if nm == 0xFFFF then h.2.receivers.any (fun r => r.core == d && !r.closed) else s.coreNamed (s.site (siteOf q.1)).part.toNat nm == some d))))

/-- A plot of a core is in use (R195, R278). -/
def State.plotInUse (s : State) (d p : Nat) : Bool := (nget (s.core d).inUse p).getD 0 != 0 || s.farUse d p

/-- OWNE, OWNT and OWNQ after the check of the plot number (R198). -/
def plotCheck (s : State) (rs1 : BitVec 5) (change : Bool) (k : Nat → Act) : Act :=
  let p := (s.xv rs1).toNat
  if 255 < p then .trap s 27 (s.xv rs1)
  else if change && s.reservedPlot s.curCore p then .trap s 27 (s.xv rs1)
  else k p

/-- OWNE (R198). -/
def execOwne (rs1 : BitVec 5) (s : State) : Out :=
  issue { instr := .owne rs1, roles := anyRole, regs := [sx rs1] } (fun s => plotCheck s rs1 true fun p =>
    if s.here.plotBusy p then .hold s else .done (s.modHere (fun k => { k with owners := nput k.owners p true }))) s

/-- OWNT (R198): it waits while the plot is in use. -/
def execOwnt (rs1 : BitVec 5) (s : State) : Out :=
  issue { instr := .ownt rs1, roles := anyRole, regs := [sx rs1] } (fun s => plotCheck s rs1 true fun p =>
    if s.plotInUse s.curCore p then .hold s else .done (s.modHere (fun k => { k with owners := nput k.owners p false }))) s

/-- OWNQ (R198). -/
def execOwnq (rs1 rd : BitVec 5) (s : State) : Out :=
  issue { instr := .ownq rs1 rd, roles := anyRole, regs := [sx rs1, dx rd] } (fun s => plotCheck s rs1 false fun p =>
    let r := s.reservedPlot s.curCore p
    let o := (nget s.here.owners p).getD false && !r
    .done (s.setX rd (wd ((if r then 4 else 0) + (if s.plotInUse s.curCore p then 2 else 0) + (if o then 1 else 0))))) s

/-! ## Barriers (R199 to R206) -/

def Barrier.zero : Barrier := { exp := 0, arr := 0, pend := 0, phase := false, waits := [] }

def Core.barrier (k : Core) (b : Nat) : Barrier := (nget k.barriers b).getD Barrier.zero

/-- Event(b, a, n) of R200; a phase that closes fills its waiting claims in the next cycle. -/
def State.barEvent (s : State) (c b : Nat) (a : Nat) (n : BitVec 32) : State :=
  let x := (s.core c).barrier b
  let x := { x with arr := x.arr + BitVec.ofNat 16 a, pend := x.pend - n }
  if x.arr == x.exp && x.pend == 0 then
    let p := x.phase
    let s := s.modCore c (fun k => { k with barriers := nput k.barriers b { x with phase := !p, arr := 0, waits := x.waits.filter (fun w => w.2 != p) } })
    (x.waits.filter (fun w => w.2 == p)).foldl (fun s w => s.fillNext c (some w.1) 0) s
  else s.modCore c (fun k => { k with barriers := nput k.barriers b x })

/-- Barrier number of its two fields (R62). -/
def barNum (hi : BitVec 1) (lo : BitVec 5) : Nat := (hi ++ lo).toNat

/-- BINIT (R202). -/
def execBinit (barHi : BitVec 1) (rs1 bar : BitVec 5) (s : State) : Out :=
  issue { instr := .binit barHi rs1 bar, roles := anyRole, regs := [sx rs1] } (fun s =>
    let b := barNum barHi bar
    let c := s.curCore
    let x := s.here.barrier b
    let s := x.waits.foldl (fun s w => s.deliverAt c (some w.1) (s.here.cycle + 1) (.poison (descriptor 5 0x30 b))) s
    .done (s.modHere (fun k => { k with barriers := nput k.barriers b { Barrier.zero with exp := (s.xv rs1).setWidth 16 } }))) s

/-- BARV (R203). -/
def execBarv (barHi : BitVec 1) (bar : BitVec 5) (s : State) : Out :=
  issue { instr := .barv barHi bar, roles := anyRole } (fun s => .done (s.barEvent s.curCore (barNum barHi bar) 1 0)) s

/-- BEXP (R203). -/
def execBexp (barHi : BitVec 1) (rs1 bar : BitVec 5) (s : State) : Out :=
  issue { instr := .bexp barHi rs1 bar, roles := anyRole, regs := [sx rs1] }
    (fun s => .done (s.barEvent s.curCore (barNum barHi bar) 0 (-((s.xv rs1).setWidth 32)))) s

/-- BWAIT (R204). -/
def execBwait (barHi : BitVec 1) (rd : BitVec 5) (phase : BitVec 1) (bar : BitVec 5) (s : State) : Out :=
  issue { instr := .bwait barHi rd phase bar, roles := anyRole, regs := [dx rd] } (fun s =>
    let b := barNum barHi bar
    let p := phase == 1#1
    let x := s.here.barrier b
    if p != x.phase then .done (s.setX rd 0)
    else withClaim s .x rd.toNat 5 true fun s c =>
      match c with
      | some i => .done (s.modHere (fun k => { k with barriers := nput k.barriers b { x with waits := x.waits ++ [(i, p)] } }))
      | none => .done s) s

/-- BQUERY (R205). -/
def execBquery (barHi : BitVec 1) (rd bar : BitVec 5) (s : State) : Out :=
  issue { instr := .bquery barHi rd bar, roles := anyRole, regs := [dx rd] } (fun s =>
    let x := s.here.barrier (barNum barHi bar)
    .done (s.setX rd (wd ((if x.phase then 2 ^ 63 else 0) + x.arr.toNat * 2 ^ 32 + x.pend.toNat)))) s

/-! ## Queues (R207, R208) -/

def Core.queue (k : Core) (q : Nat) : Queue := (nget k.queues q).getD { entries := [], waits := [], popped := 0 }

/-- Hands a value to the oldest waiting claim, or appends it; none when the queue is full (R208). -/
def State.queuePush (s : State) (c q : Nat) (v : Word) : Option State :=
  let x := (s.core c).queue q
  match x.waits with
  | w :: ws => some ((s.modCore c (fun k => { k with queues := nput k.queues q { x with waits := ws } })).fillNext c (some w) v)
  | [] => if x.entries.length = 16 then none else some (s.modCore c (fun k => { k with queues := nput k.queues q { x with entries := x.entries ++ [v] } }))

/-- QPUSH (R208). -/
def execQpush (rs2 : BitVec 5) (q : BitVec 3) (s : State) : Out :=
  issue { instr := .qpush rs2 q, roles := anyRole, regs := [sx rs2] } (fun s =>
    match s.queuePush s.curCore q.toNat (s.xv rs2) with
    | some s' => .done s'
    | none => .park s (.queue q.toNat (s.here.queue q.toNat).popped)) s

/-- QPOP (R208). -/
def execQpop (q : BitVec 3) (rd : BitVec 5) (s : State) : Out :=
  issue { instr := .qpop q rd, roles := anyRole, regs := [dx rd] } (fun s =>
    let x := s.here.queue q.toNat
    match x.entries with
    | v :: vs => .done ((s.modHere (fun k => { k with queues := nput k.queues q.toNat { x with entries := vs, popped := x.popped + 1 } })).setX rd v)
    | [] => withClaim s .x rd.toNat 4 true fun s c =>
      match c with
      | some i => .done (s.modHere (fun k => { k with queues := nput k.queues q.toNat { x with waits := x.waits ++ [i] } }))
      | none => .done s) s

/-- QLEN (R208). -/
def execQlen (q : BitVec 3) (rd : BitVec 5) (s : State) : Out :=
  issue { instr := .qlen q rd, roles := anyRole, regs := [dx rd] } (fun s =>
    let x := s.here.queue q.toNat
    .done (s.setX rd (wd (x.waits.length % 1024 * 2 ^ 16 + x.entries.length % 32)))) s

/-! ## Bank locks (R209 to R212) -/

/-- BLOCK (R209). -/
def execBlock (rs1 : BitVec 5) (s : State) : Out :=
  issue { instr := .block rs1, roles := anyRole, regs := [sx rs1] } (fun s =>
    let a := s.xv rs1
    if !isLocal a then .trap s 5 a
    else
      let k := bankOf a.toNat
      match nget s.here.locks k with
      | some l => if l.slot != s.curSlot then .park s (s.here.lockPark k) else .done s
      | none => .done (s.modHere (fun c => { c with locks := nput c.locks k { slot := s.curSlot, since := c.cycle, addr := a } }))) s

/-- BUNLOCK (R209). -/
def execBunlock (rs1 : BitVec 5) (s : State) : Out :=
  issue { instr := .bunlock rs1, roles := anyRole, regs := [sx rs1] } (fun s =>
    let a := s.xv rs1
    if !isLocal a then .trap s 5 a
    else
      let k := bankOf a.toNat
      match nget s.here.locks k with
      | some l => .done (if l.slot = s.curSlot then s.modHere (fun c => { c with locks := ndel c.locks k }) else s)
      | none => .done s) s

/-- A lock whose age reaches 4,096 cycles is freed and its holder marked for the cause-30 trap (R212). The age reaches 4,096 in a cycle of the
holder's own; the break comes before that turn, which takes the trap (log 44). -/
def execLockBreak (core bank : Nat) (s : State) : Out :=
  match nget (s.core core).locks bank with
  | some l =>
    if l.since + Config.lockLimit ≤ (s.core core).cycle then
      let s := s.modCore core (fun k => { k with locks := ndel k.locks bank })
      .next ((s.modSlot core l.slot (fun t => { t with broken := some (t.broken.getD l.addr) })).count core 17)
    else .next s
  | none => .next s

end Sys2Proof.Machine
end

