-- ==== Sys2Proof/Machine/Ranges.lean ====
section
/-! DEFINITION. Directories, walks, the range instructions, invalidation and the gleaner (R170 to R192). -/

namespace Sys2Proof.Machine

/-! ## Directory slots (R170 to R172) -/

/-- A slot as eight dwords, lowest address first. -/
abbrev RawSlot := BitVec 512

def RawSlot.dw (r : RawSlot) (i : Nat) : Word := r.extractLsb' (64 * i) 64
def RawSlot.valid (r : RawSlot) : Bool := r.getLsbD 63
def RawSlot.base (r : RawSlot) : Nat := wf (RawSlot.dw r 0) 0 48
def RawSlot.home (r : RawSlot) : Nat := wf (RawSlot.dw r 1) 0 17

/-- The content of a valid slot (R170). -/
def RawSlot.decode (r : RawSlot) : RangeSlot where
  base := BitVec.ofNat 48 (RawSlot.base r)
  limit := BitVec.ofNat 48 (wf (RawSlot.dw r 1) 0 48)
  offset := RawSlot.dw r 2
  proc := BitVec.ofNat 12 (wf (RawSlot.dw r 3) 52 12)
  tensor := BitVec.ofNat 8 (wf (RawSlot.dw r 3) 44 8)
  rmod := BitVec.ofNat 4 (wf (RawSlot.dw r 3) 40 4)
  attrs := BitVec.ofNat 5 (wf (RawSlot.dw r 3) 8 5)
  perms := BitVec.ofNat 5 (wf (RawSlot.dw r 3) 0 5)
  resmap := RawSlot.dw r 4
  stripe := BitVec.ofNat 20 (wf (RawSlot.dw r 5) 0 20)
  moving := (RawSlot.dw r 6).getLsbD 63
  soft := RawSlot.dw r 7

/-- A valid slot's 64 bytes (R170). -/
def RangeSlot.encode (r : RangeSlot) : RawSlot :=
  r.soft ++ (BitVec.ofBool r.moving ++ 0#63) ++ (0#44 ++ r.stripe) ++ r.resmap ++
  (r.proc ++ r.tensor ++ r.rmod ++ 0#27 ++ r.attrs ++ 0#3 ++ r.perms) ++ r.offset ++ (0#16 ++ r.limit) ++ (1#1 ++ 0#15 ++ r.base)

/-- Bytes that each site of a striped range holds. -/
def stripeBytes (r : RangeSlot) : Nat :=
  let n := fieldOf r.stripe.toNat 10 5 * fieldOf r.stripe.toNat 15 5
  let units := (r.limit.toNat - r.base.toNat + 65535) / 65536
  (units + n - 1) / n * 65536

/-- A valid slot that breaks a rule of R172. -/
def RawSlot.malformed (raw : RawSlot) (proc : Nat) : Bool :=
  let r := RawSlot.decode raw
  let b := r.base.toNat
  let l := r.limit.toNat
  let zeroBad := wf (RawSlot.dw raw 0) 48 15 != 0 || wf (RawSlot.dw raw 1) 48 16 != 0 || wf (RawSlot.dw raw 3) 13 27 != 0 || wf (RawSlot.dw raw 3) 5 3 != 0 ||
    wf (RawSlot.dw raw 5) 20 44 != 0 || wf (RawSlot.dw raw 6) 0 63 != 0 || (!r.isRemote && r.rmod != 0) || (!r.striped && r.stripe != 0) ||
    (r.striped && (wf r.offset 33 31 != 0 || wf r.offset 0 16 != 0))
  let spanBad := b % 4096 != 0 || l % 4096 != 0 || b < 0x100000 || l ≤ b || 0xFFFF00000000 < l
  let w := fieldOf r.stripe.toNat 10 5
  let h := fieldOf r.stripe.toNat 15 5
  zeroBad || spanBad || r.proc.toNat != proc || (r.isRemote && (!r.copyOnly || r.striped)) ||
    (if r.striped then w == 0 || h == 0 || rectOut r.stripe || 2 ^ 33 < wf r.offset 0 33 + stripeBytes r
     else 2 ^ 43 ≤ ((r.base.setWidth 64 + r.offset).toNat) || 2 ^ 43 ≤ ((r.limit.setWidth 64 - 1 + r.offset).toNat))

/-! ## The search (R174) -/

/-- Physical address of a directory slot. -/
def slotPA (d : Word) (i : Nat) : Nat := dirBase d + 64 * i

/-- Reads a slot as one 64-byte read, or answers the code that it meets. -/
def State.dirSlot (s : State) (d : Word) (i : Nat) : RawSlot ⊕ BitVec 8 :=
  match s.homeCode (slotPA d i) with
  | some c => .inr c
  | none => .inl (BitVec.ofNat 512 (s.physRead (slotPA d i) 64))

/-- Binary search for the last slot whose base is at most va; a fault ends it. -/
def bisect (s : State) (d : Word) (va : Nat) (fuel lo hi : Nat) : Nat ⊕ (BitVec 8 × Nat) :=
  match fuel with
  | 0 => .inl lo
  | k + 1 =>
    if lo < hi then
      let mid := (lo + hi + 1) / 2
      match s.dirSlot d mid with
      | .inr c => .inr (c, slotPA d mid)
      | .inl r => if r.base ≤ va then bisect s d va k mid hi else bisect s d va k lo (mid - 1)
    else .inl lo

/-- The walk of R174. -/
def State.search (s : State) (d : Word) (va : Nat) : WalkRes :=
  let n := dirCount d
  let check (i : Nat) (r : RawSlot) : WalkRes :=
    if r.malformed (wf d 52 12) then .malformed i
    else if r.decode.limit.toNat ≤ va then .miss
    else .found r.decode i
  if dirBad d then .nodir
  else match bisect s d va 17 0 (n - 1) with
    | .inr (c, pa) => .unreadable c pa
    | .inl 0 => .miss
    | .inl i =>
      match s.dirSlot d i with
      | .inr c => .unreadable c (slotPA d i)
      | .inl r =>
        if r.valid then check i r
        else
          let h := r.home
          if h = 0x1FFFF then .miss
          else if h = 0 ∨ n ≤ h then .malformed i
          else match s.dirSlot d h with
            | .inr c => .unreadable c (slotPA d h)
            | .inl r2 => if r2.valid then check h r2 else .malformed h

/-- The slots that the bisection reads, in order. -/
def bisectReads (s : State) (d : Word) (va fuel lo hi : Nat) : List Nat :=
  match fuel with
  | 0 => []
  | k + 1 =>
    if lo < hi then
      let mid := (lo + hi + 1) / 2
      mid :: (match s.dirSlot d mid with
        | .inr _ => []
        | .inl r => if r.base ≤ va then bisectReads s d va k mid hi else bisectReads s d va k lo (mid - 1))
    else []

/-- The slots that a walk reads, in order (R174). -/
def State.searchReads (s : State) (d : Word) (va : Nat) : List Nat :=
  let n := dirCount d
  if dirBad d then []
  else bisectReads s d va 17 0 (n - 1) ++ (match bisect s d va 17 0 (n - 1) with
    | .inr _ | .inl 0 => []
    | .inl i => i :: (match s.dirSlot d i with
      | .inr _ => []
      | .inl r => if r.valid || r.home = 0x1FFFF || r.home = 0 || n ≤ r.home then [] else [r.home]))

/-- The reads of slots that lie in moved units are forwarded (R190): the first code that stops one, with the slot's address. -/
def State.slotTrips (s : State) (d : Word) (is : List Nat) : State × Option (BitVec 8 × Nat) :=
  is.foldl (fun p i =>
    if p.2.isSome then p
    else match p.1.forwarded (slotPA d i) 1 (dataFlits 64) p.1.gmoves.length with
      | (s, t) => (s, t.code.map (fun x => (x, slotPA d i)))) (s, none)

/-- The walk of R174 at the directory's home agent, the reads of moved slots forwarded. -/
def State.walkDir (s : State) (d : Word) (va : Nat) : State × WalkRes :=
  match s.slotTrips d (s.searchReads d va) with
  | (s, some (c, pa)) => (s, .unreadable c pa)
  | (s, none) => (s, s.search d va)

/-- A walk that met a read whose answer never comes (R44). -/
def WalkRes.lost (r : WalkRes) : Bool := match r with | .unreadable c _ => c == 0x25 | _ => false

/-! ## Status words (R182) -/

def rangeStatus (st index detail : Nat) : Word := wd (st * 2 ^ 56 + index % 65536 * 2 ^ 32 + detail % 2 ^ 32)

/-- Reason code of R180 and slot index of a failed walk. -/
def WalkRes.reason (r : WalkRes) : Nat × Nat :=
  match r with
  | .found _ i => (0, i)
  | .miss => (1, 0)
  | .malformed i => (4, i)
  | .nodir => (7, 0)
  | .unreadable _ _ => (5, 0)

/-- What RPROBE and RLOADT deliver (R183). -/
def probeValue (r : WalkRes) (va : Word) : DVal :=
  match r with
  | .found e i => fillW (rangeStatus 0 i ((va.toNat - e.base.toNat) / segLen e % 64 * 2 ^ 24 + e.tensor.toNat * 2 ^ 16 + e.attrs.toNat * 2 ^ 8 + e.perms.toNat))
  | .miss => fillW (rangeStatus 1 0 0)
  | .nodir => fillW (rangeStatus 7 0 0)
  | .malformed i => fillW (rangeStatus 8 i 0)
  | .unreadable c pa => .poison (descriptor 1 c.toNat pa)

/-! ## Walks (R174 to R176) -/

/-- The home agent searches a directory and answers (R174). -/
def execWalk (fid : Nat) (s : State) : Out :=
  .next (match s.arrivedBody fid with
    | some (.walk _ _ _) => s.withPacket fid (fun f s => match f.body with
        | .walk id va d => (match s.walkDir d va.toNat with | (s, r) => if r.lost then s.loseFlight f else s.answer f (.walkAns id r))
        | _ => s)
    | _ => s)

/-- Fills a table entry: overlapping entries of its process are dropped, the least recently used leaves (R175). -/
def Core.fillRange (k : Core) (e : RangeEntry) : Core :=
  let keep := k.ranges.filter (fun x => !(x.slot.proc == e.slot.proc && x.slot.base.toNat < e.slot.limit.toNat && e.slot.base.toNat < x.slot.limit.toNat))
  { k with ranges := (e :: keep).take Config.rangeEntries }

/-- Tells the users of a walk how it ended (R176, R180, R183, R293). -/
def tellUser (c : Nat) (w : WalkRec) (r : WalkRes) (s : State) (u : WalkUser) : State :=
  let (reason, index) := r.reason
  match u with
  | .slot n =>
    if reason = 0 then s
    else s.modSlot c n (fun t => match t.park with
      | some (.walker id va) => if id = w.id then { t with walkOut := some { va := va, reason := reason, index := index, proc := wf w.dir 52 12 } } else t
      | _ => t)
  | .channel ch => s.modCore c (fun k => { k with channels := match nget k.channels ch with
      | some x => nput k.channels ch { x with walkWait := none, walkOut := if reason = 0 then x.walkOut else some { va := w.va, reason := reason, index := index, proc := wf w.dir 52 12 } }
      | none => k.channels })
  | .probe claim _ => s.deliverAt c claim (s.core c).cycle (probeValue r w.va)

/-- Every slot parked on a walker whose address a new entry matches re-issues, whichever walk it waited on: from then on it waits on the
walk that ends. An entry filled by another slot's walk counts as the fresh one of a slot's own rewalk (R176, R177; log 62). -/
def Core.reissue (k : Core) (id : Nat) (e : RangeEntry) : Core :=
  { k with slots := k.slots.map (fun p => match p.2.park with
    | some (.walker _ va) =>
      if e.slot.proc == BitVec.ofNat 12 (wf k.rdir 52 12) && e.slot.base.toNat ≤ va.toNat && va.toNat < e.slot.limit.toNat
      then (p.1, { p.2 with park := some (.walker id va) }) else p
    | _ => p) }

/-- A walk has ended: it leaves the walker, and the next walk that waits starts (R176). -/
def State.endWalk (s : State) (c id : Nat) : State :=
  let rest := (s.core c).walks.filter (fun x => x.id != id)
  match rest.find? (fun x => !x.running) with
  | some nx => (s.modCore c (fun k => { k with walks := rest.map (fun x => if x.id == nx.id then { x with running := true } else x) })).sendWalk c nx
  | none => s.modCore c (fun k => { k with walks := rest })

/-- The answer of a walk fills the table and the slots that wait for it re-issue or fault; a walk that an RINV discarded is
started again (R176, R188). -/
def execWalkFill (fid : Nat) (s : State) : Out :=
  .next (match s.arrivedFrom fid with
    | some (.core c, .walkAns id res) => s.withPacket fid (fun _ s =>
        match (s.core c).walks.find? (fun w => w.id == id) with
        | none => s
        | some w =>
          if w.restart then
            let s := s.modCore c (fun k => { k with walks := k.walks.map (fun x => if x.id == id then { x with restart := false } else x) })
            s.sendWalk c w
          else
            let fills := w.users.any (fun u => match u with | .probe _ f => f | _ => true)
            let s := w.users.foldl (tellUser c w res) s
            let s := match res with
              | .found r i => if fills then s.modCore c (fun k => (k.fillRange { slot := r, index := i }).reissue id { slot := r, index := i }) else s
              | _ => s
            s.endWalk c id)
    | _ => s)

/-! ## Range instructions (R181 to R189) -/

/-- Form of a range instruction: privileged, K role (R181). -/
def rangeForm (i : Instr) (scope : Option (BitVec 4)) (regs : List (Bool × RFile × Nat)) : Form :=
  { instr := i, roles := onlyK, priv := true, scope := scope, regs := regs }

/-- RPROBE and RLOADT (R183): a walk whose result fills xd. -/
def probeBody (rs1 rd : BitVec 5) (dir : Word) (fill : Bool) (s : State) : Act :=
  let va := s.xv rs1
  withClaim s .x rd.toNat 1 false fun s c => .done (s.startWalk s.curCore va dir (.probe c fill) false).1

/-- RPROBE (R183). -/
def execRprobe (rs1 rd : BitVec 5) (s : State) : Out :=
  issue (rangeForm (.rprobe rs1 rd) none [sx rs1, dx rd]) (fun s => probeBody rs1 rd s.here.rdmnt false s) s

/-- RLOADT (R183). -/
def execRloadt (rs1 rd : BitVec 5) (s : State) : Out :=
  issue (rangeForm (.rloadt rs1 rd) none [sx rs1, dx rd]) (fun s => probeBody rs1 rd s.here.rdir true s) s

/-- Sends a request with a future to the home of the directory of wl.rdmnt; a directory no walk can search is NODIR. -/
def dirFuture (rd : BitVec 5) (op : DirOp) (s : State) : Act :=
  withClaim s .x rd.toNat 1 false fun s c =>
    let d := s.here.rdmnt
    if dirBad d then .done (s.fillNow s.curCore c (rangeStatus 7 0 0))
    else .done (s.inject .request (.core s.curCore) (siteOf s.curCore) (s.site (siteOf s.curCore)).part (.phys (dirProbe d)) (.dir s.curSlot c 0 d op))

/-- RSPLIT (R184). -/
def execRsplit (rs2 rs1 rd : BitVec 5) (s : State) : Out :=
  issue (rangeForm (.rsplit rs2 rs1 rd) none [sx rs1, sx rs2, dx rd]) (fun s => dirFuture rd (.split (s.xv rs1) (s.xv rs2)) s) s

/-- RMERGE (R185). -/
def execRmerge (rs1 rd : BitVec 5) (s : State) : Out :=
  issue (rangeForm (.rmerge rs1 rd) none [sx rs1, dx rd]) (fun s => dirFuture rd (.merge (s.xv rs1)) s) s

/-- RGLEAN (R189). -/
def execRglean (rs2 rs1 rd : BitVec 5) (s : State) : Out :=
  issue (rangeForm (.rglean rs2 rs1 rd) none [sx rs1, sx rs2, dx rd]) (fun s => dirFuture rd (.glean (s.xv rs1) (s.xv rs2)) s) s

/-- RSETRES and RCLRRES (R186): held as SREL.mod, then the slot waits for the update at the directory's home. -/
def resBody (rs1 : BitVec 5) (op : DirOp) (s : State) : Act :=
  let d := s.here.rdmnt
  let fail (reason index : Nat) : Act := .trap (s.modMe (fun t => { t with rfinfo := rfinfoOf reason (wf d 52 12) index })) 13 (s.xv rs1)
  match s.me.dirWait with
  | some (.done reason index) => if reason = 0 then .done s else fail reason index
  | some (.sent _) => .hold s
  | none =>
    if !(s.releaseWaits 3).isEmpty then .hold s
    else if dirBad d then fail 7 0
    else
      let id := s.nextId
      let s := s.bump.inject .request (.core s.curCore) (siteOf s.curCore) (s.site (siteOf s.curCore)).part (.phys (dirProbe d)) (.dir s.curSlot none id d op)
      .hold (s.modMe (fun t => { t with dirWait := some (.sent id) }))

/-- RSETRES (R186). -/
def execRsetres (rs2 rs1 : BitVec 5) (s : State) : Out :=
  issue (rangeForm (.rsetres rs2 rs1) none [sx rs1, sx rs2]) (fun s => resBody rs1 (.setres (s.xv rs1) (s.xv rs2)) s) s

/-- RCLRRES (R186). -/
def execRclrres (rs2 rs1 : BitVec 5) (s : State) : Out :=
  issue (rangeForm (.rclrres rs2 rs1) none [sx rs1, sx rs2]) (fun s => resBody rs1 (.clrres (s.xv rs1) (s.xv rs2)) s) s

/-! ## Invalidation (R187, R188) -/

/-- Cores and sites of a scope instance that an invalidation goes to: at core scope the issuing core alone, with its site's gleaner (R24, R187). -/
def State.rinvTargets (s : State) (c sc : Nat) : List Nat × List Nat :=
  let sites := (List.range Config.sites).filter (fun n => s.inInstance c sc n && s.siteLive n)
  (if sc = 0 then [c] else (sites.flatMap (fun n => (List.range 16).map (16 * n + ·))).filter s.exposed, sites)

/-- Sends an invalidation to the cores and the gleaners of the sites given, and waits for their acknowledgements. -/
def State.sendRinv (s : State) (c : Nat) (to_ : List Nat × List Nat) (proc : BitVec 12) (lo hi : Nat) (claim move : Option Nat) (id : Nat) : State :=
  let part := (s.site (siteOf c)).part
  let s := { s with rinvs := s.rinvs ++ [{ id := id, core := c, claim := claim, move := move, expect := to_.1.length + to_.2.length, got := 0 }] }
  let from_ := match move with | some m => ((s.gmoves.find? (fun g => g.id == m)).map (·.site)).getD (siteOf c) | none => siteOf c
  let src : Sender := match move with | some m => .gleaner m from_ | none => .core c
  let s := to_.1.foldl (fun s d => s.inject .system src from_ part (.coords (siteOf d)) (.rinv id (some d) proc lo hi false)) s
  to_.2.foldl (fun s n => s.inject .system src from_ part (.coords n) (.rinv id none proc lo hi false)) s

/-- RINV (R187). -/
def execRinv (scope : BitVec 4) (rs2 rs1 rd : BitVec 5) (s : State) : Out :=
  issue (rangeForm (.rinv scope rs2 rs1 rd) (some scope) [sx rs1, sx rs2, dx rd]) (fun s =>
    let lo := (s.xv rs1).toNat
    let len := (s.xv rs2).toNat
    if len = 0 then .done (s.setX rd 0)
    else withClaim s .x rd.toNat 1 false fun s c =>
      let sc := s.scopeOf scope
      let id := s.nextId
      let s := s.bump
      let waits := s.releaseWaits sc
      let proc := BitVec.ofNat 12 (wf s.here.rdmnt 52 12)
      let hi := min (lo + len) windowBase
      if waits.isEmpty then .done (s.sendRinv s.curCore (s.rinvTargets s.curCore sc) proc lo hi c none id)
      else
        let h : Held := { core := s.curCore, acc := id, waits := waits, after := [], body := .rinv id c proc lo hi false, dest := .coords sc }
        .done { s with held := s.held ++ [h] }) s

/-- Whether an image of n bytes in translated space meets a span of virtual addresses. -/
def CtxPlace.meetsSpan (p : CtxPlace) (n lo hi : Nat) : Bool :=
  match p with
  | .phys _ va => va < hi && lo < va + n
  | _ => false

/-- The entries of a process that overlap a span. -/
def Core.spanEntries (k : Core) (proc : BitVec 12) (lo hi : Nat) : List RangeEntry :=
  k.ranges.filter (fun e => e.slot.proc == proc && e.slot.base.toNat < hi && lo < e.slot.limit.toNat)

/-- The span with all that the entries which it drops translate: an access through one of them counts wherever its VA lies in it (R188). -/
def Core.dropReach (k : Core) (proc : BitVec 12) (lo hi : Nat) : Nat × Nat :=
  (k.spanEntries proc lo hi).foldl (fun p e => (min p.1 e.slot.base.toNat, max p.2 e.slot.limit.toNat)) (lo, hi)

/-- Whether a core still has translated accesses of the span to perform: those of its slots and channels, the images that it writes and reads, and
the claims re-pointed to an image of the process (R188). -/
def Core.drains (k : Core) (proc : BitVec 12) (lo hi : Nat) : Bool :=
  k.accs.any (fun a => a.translated && a.kind != .none && a.proc == proc && a.va < hi && lo < a.va + a.len) ||
  k.channels.any (fun p => !p.2.started.isEmpty || p.2.outstanding != 0) ||
  k.saves.any (fun r => r.proc == proc && r.place.meetsSpan (roleImageLen ((r.captured.map (·.role)).getD (k.slot r.slot).role)) lo hi) ||
  k.restores.any (fun r => r.proc == proc && r.place.meetsSpan (roleImageLen (k.slot r.slot).role) lo hi) ||
  k.images.any (fun im => im.proc == proc && im.place.meetsSpan (roleImageLen im.saved.role) lo hi && (!im.written || k.claims.any (fun q => match q.2.target with
    | .image b l => im.place.key == (b, l) && !q.2.lost
    | _ => false)))

/-- What a core does first: it drops the entries and discards its walks in flight (R188). -/
def Core.dropSpan (k : Core) (proc : BitVec 12) (lo hi : Nat) : Core :=
  { k with ranges := k.ranges.filter (fun e => !(e.slot.proc == proc && e.slot.base.toNat < hi && lo < e.slot.limit.toNat))
           walks := k.walks.map (fun w => if w.running then { w with restart := true } else w) }

/-- An invalidation at a core or gleaner: the drop at once, the acknowledgement when everything is performed that the dropped entries have
translated (R188). -/
def execRinvAck (fid : Nat) (s : State) : Out :=
  .next (match s.arrivedPacket fid with
    | some f =>
      match f.body with
      | .rinv id core proc lo hi dropped =>
        match core with
        | none => s.withPacket fid (fun f s => s.answer f (.rinvAck id))
        | some c =>
          if (s.site (siteOf c)).state == .fenced then s.withPacket fid (fun f s => s.answer f (.rinvAck id))
          else
            let (lo', hi') := if dropped then (lo, hi) else (s.core c).dropReach proc lo hi
            let s := if dropped then s else (s.modCore c (fun k => k.dropSpan proc lo hi)).setFlight { f with body := .rinv id core proc lo' hi' true }
            if (s.core c).drains proc lo' hi' then s else s.withPacket fid (fun f s => s.answer f (.rinvAck id))
      | _ => s
    | none => s)

/-- An acknowledgement reaches its issuer; the last one fills the future or ends the gleaner's forwarding (R187, R190). -/
def State.takeRinvAck (s : State) (id : Nat) : State :=
  match s.rinvs.find? (fun r => r.id == id) with
  | none => s
  | some r =>
    if r.got + 1 < r.expect then { s with rinvs := s.rinvs.map (fun x => if x.id == id then { x with got := x.got + 1 } else x) }
    else
      let s := { s with rinvs := s.rinvs.filter (fun x => x.id != id) }
      match r.move with
      | none => s.fillNow r.core r.claim (rangeStatus 0 0 r.expect)
      | some m =>
        match s.gmoves.find? (fun g => g.id == m) with
        | some g => { s.fillNow g.core g.claim (rangeStatus 0 g.index g.bad) with gmoves := s.gmoves.filter (fun x => x.id != m) }
        | none => s

/-! ## Directory updates (R184 to R186, R189) -/

/-- Writes a slot at its home, or where the home forwards it. -/
def State.putDirSlot (s : State) (d : Word) (i : Nat) (r : RawSlot) : State :=
  match s.forwarded (slotPA d i) (dataFlits 64) 1 s.gmoves.length with
  | (s, t) => if t.reached then s.homeWrite (slotPA d i) 64 r.toNat .none none else s

/-- The fault of a directory probe (R182): the code with the PA of the slot, which poisons a future of class 1. -/
abbrev DirFault := BitVec 8 × Nat

/-- What a faulty directory probe delivers (R182). -/
def dirPoison (e : DirFault) : DVal := .poison (descriptor 1 e.1.toNat e.2)

/-- A slot as read, or the fault of its probe. -/
def State.probeSlot (s : State) (d : Word) (i : Nat) : RawSlot ⊕ DirFault :=
  match s.dirSlot d i with | .inl r => .inl r | .inr c => .inr (c, slotPA d i)

/-- A VACANT slot with base and home (R171); its other bits stay. -/
def vacantOf (r : RawSlot) (base home : Nat) : RawSlot :=
  let d0 := setField (setField (RawSlot.dw r 0) 63 1 0) 0 48 base
  let d1 := setField (RawSlot.dw r 1) 0 17 home
  r.extractLsb' 128 384 ++ d1 ++ d0

/-- The run of VACANT slots from i on, and the valid slot that ends it, or n; a fault of a probe ends the search. -/
def State.vacantRun (s : State) (d : Word) (n i fuel : Nat) : (List (Nat × RawSlot) × Option (Nat × RawSlot)) ⊕ DirFault :=
  match fuel with
  | 0 => .inl ([], none)
  | k + 1 =>
    if n ≤ i then .inl ([], none)
    else match s.probeSlot d i with
      | .inr e => .inr e
      | .inl r =>
        if r.valid then .inl ([], some (i, r))
        else match s.vacantRun d n (i + 1) k with
          | .inl (l, e) => .inl ((i, r) :: l, e)
          | .inr e => .inr e

/-- The slots that the search for the end of a run of VACANT slots reads, the run after the next valid slot included (R184, R185). -/
def State.runReads (s : State) (d : Word) (n i : Nat) (more : Bool) : List Nat :=
  match s.vacantRun d n i n with
  | .inr _ => []
  | .inl (l, e) =>
    l.map (·.1) ++ (match e with
      | some (k, _) => k :: (if more then (match s.vacantRun d n (k + 1) n with | .inl (m, _) => m.map (·.1) | .inr _ => []) else [])
      | none => [])

/-- Rewrites VACANT slots. -/
def State.vacate (s : State) (d : Word) (l : List (Nat × RawSlot)) (base home : Nat) : State :=
  l.foldl (fun s p => s.putDirSlot d p.1 (vacantOf p.2 base home)) s

/-- resmap of a span of new bounds: a segment is resident iff all its bytes lay in resident segments (R184). -/
def newResmap (lo hi : Nat) (was : Nat → Nat → Bool) : Word :=
  let len := ((hi - lo + 63) / 64 + 4095) / 4096 * 4096
  wd ((List.range 64).foldl (fun a j =>
    let b := lo + j * len
    let e := min (b + len) hi
    if b < hi && was b e then a + 2 ^ j else a) 0)

/-- Every byte of [b, e) lies in a resident segment of a range. -/
def residentSpan (r : RangeSlot) (b e : Nat) : Bool :=
  let len := segLen r
  let i := (b - r.base.toNat) / len
  (List.range ((e - 1 - r.base.toNat) / len + 1 - i)).all (fun k => r.resmap.getLsbD (i + k))

/-- The 64 KiB units per stripe row times their size. -/
def stripeStep (r : RangeSlot) : Nat := 0x10000 * (fieldOf r.stripe.toNat 10 5 * fieldOf r.stripe.toNat 15 5)

/-- RSPLIT at the home (R184): what its future fills with, and the state. -/
def State.doSplit (s : State) (d : Word) (m tag : Word) (r : RangeSlot) (i : Nat) : State × DVal :=
  let n := dirCount d
  if m.toNat % 4096 ≠ 0 ∨ m.toNat = r.base.toNat then (s, fillW (rangeStatus 5 i 0))
  else if r.striped && (m.toNat - r.base.toNat) % stripeStep r != 0 then (s, fillW (rangeStatus 5 i 0))
  else if r.moving then (s, fillW (rangeStatus 6 i 0))
  else match s.vacantRun d n (i + 1) n with
    | .inr e => (s, dirPoison e)
    | .inl ([], _) => (s, fillW (rangeStatus 2 i 0))
    | .inl (_ :: rest, _) =>
      let mid : BitVec 48 := m.setWidth 48
      let right : RangeSlot := { r with
        base := mid
        tensor := if tag.getLsbD 8 then tag.setWidth 8 else r.tensor
        offset := if r.striped then r.offset + wd ((m.toNat - r.base.toNat) / stripeStep r * 0x10000) else r.offset
        resmap := newResmap mid.toNat r.limit.toNat (residentSpan r) }
      let left : RangeSlot := { r with limit := mid, resmap := newResmap r.base.toNat mid.toNat (residentSpan r) }
      let s := s.putDirSlot d (i + 1) right.encode
      let s := s.putDirSlot d i left.encode
      (s.vacate d rest mid.toNat (i + 1), fillW (rangeStatus 0 i (i + 1)))

/-- Whether two adjacent ranges may merge (R185). -/
def mergeable (r q : RangeSlot) : Bool :=
  let len := r.limit.toNat - r.base.toNat
  r.proc == q.proc && r.tensor == q.tensor && r.perms == q.perms && r.attrs == q.attrs && r.rmod == q.rmod && r.stripe == q.stripe &&
    (if r.striped then len % stripeStep r == 0 && q.offset == r.offset + wd (len / stripeStep r * 0x10000) else q.offset == r.offset)

/-- Whether every byte of [b, e) was resident in the range of two that holds it. -/
def residentPair (r q : RangeSlot) (b e : Nat) : Bool :=
  (if b < r.limit.toNat then residentSpan r b (min e r.limit.toNat) else true) && (if q.base.toNat < e then residentSpan q (max b q.base.toNat) e else true)

/-- RMERGE at the home (R185). -/
def State.doMerge (s : State) (d : Word) (r : RangeSlot) (i : Nat) : State × DVal :=
  let n := dirCount d
  match s.vacantRun d n (i + 1) n with
  | .inr e => (s, dirPoison e)
  | .inl (_, none) => (s, fillW (rangeStatus (if r.moving then 6 else 4) i 0))
  | .inl (_, some (k, raw)) =>
    let q := raw.decode
    if r.moving || q.moving then (s, fillW (rangeStatus 6 i 0))
    else if q.base != r.limit then (s, fillW (rangeStatus 4 i 0))
    else if !mergeable r q then (s, fillW (rangeStatus 3 i 0))
    else match s.vacantRun d n (k + 1) n with
      | .inr e => (s, dirPoison e)
      | .inl (more, _) =>
        let all : RangeSlot := { r with limit := q.limit, resmap := newResmap r.base.toNat q.limit.toNat (residentPair r q) }
        let s := s.putDirSlot d i all.encode
        (s.vacate d ((k, raw) :: more) r.base.toNat i, fillW (rangeStatus 0 i k))

/-- Segments that a range has. -/
def segMask (r : RangeSlot) : Word := newResmap r.base.toNat r.limit.toNat (fun _ _ => true)

/-- RGLEAN at the home (R189): the status word, or the claim stays with the move, or a poison. -/
inductive GleanOut where
  | status (w : Word)
  | poison (w : Word)
  | started
  deriving DecidableEq, Repr

/-- RGLEAN at the home (R189). Of a STRIPED or REMOTE range, which is NOTMOVABLE, the old site of the BUSY check is that of base + offset: the
table puts that check first and such a range has no plain old backing (log 41). -/
def State.doGlean (s : State) (c : Nat) (claim : Option Nat) (part : BitVec 4) (d : Word) (r : RangeSlot) (i : Nat) (newPa : Word) : State × GleanOut :=
  let len := r.limit.toNat - r.base.toNat
  let old := (r.base.setWidth 64 + r.offset).toNat
  let oldSite := homeOf old
  let new := newPa.toNat
  if r.moving || 4 ≤ (s.gmoves.filter (fun g => g.site == oldSite && !g.lost)).length then (s, .status (rangeStatus 6 i 0))
  else if r.striped || r.isRemote || homeOf (old + len - 1) != oldSite then (s, .status (rangeStatus 9 i 0))
  else if new % 4096 != 0 || 2 ^ 43 ≤ new || homeOf (new + len - 1) != homeOf new || !s.hasHome new || !inRect (s.partRect part.toNat) (homeOf new) ||
      overlaps old len new len then (s, .status (rangeStatus 10 i 0))
  else match s.chargeSite oldSite part.toNat 2 (len / 32) with
    | none => (s.siteViolation oldSite 2 part.toNat old, .poison (descriptor 1 0x24 old))
    | some s =>
      let g : GMove := { id := s.nextId, site := oldSite, part := part, core := c, claim := claim, dir := d, index := i, base := r.base.toNat, limit := r.limit.toNat,
                         proc := r.proc, oldPa := old, newPa := new, cmp := r.attr.cmp, moved := 0, bad := 0, finishing := none, lost := false }
      let s := s.putDirSlot d i { r with moving := true }.encode
      ({ s.bump with gmoves := s.gmoves ++ [g] }, .started)

/-- A request reaches the directory's home agent, which applies its checks and updates as one step. -/
def execDirectoryUpdate (fid : Nat) (s : State) : Out :=
  .next (match s.arrivedBody fid with
    | some (.dir ..) => s.withPacket fid (fun f s =>
        match f.body, f.src with
        | .dir slot claim acc d op, .core c =>
          let va := match op with | .split m _ => m | .merge v => v | .setres v _ => v | .clrres v _ => v | .glean v _ => v
          let status (p : State × DVal) : State := p.1.answer f (.fill none claim p.2)
          let (s, res) := s.walkDir d va.toNat
          if res.lost then s.loseFlight f
          else match res with
          | .found r i =>
            match op with
            | .split m tag => (match s.slotTrips d (s.runReads d (dirCount d) (i + 1) false) with
              | (s, none) => status (s.doSplit d m tag r i)
              | (s, some e) => if e.1 == 0x25 then s.loseFlight f else status (s, dirPoison e))
            | .merge _ => (match s.slotTrips d (s.runReads d (dirCount d) (i + 1) true) with
              | (s, none) => status (s.doMerge d r i)
              | (s, some e) => if e.1 == 0x25 then s.loseFlight f else status (s, dirPoison e))
            | .setres _ mask => (s.putDirSlot d i { r with resmap := (r.resmap ||| mask) &&& segMask r }.encode).answer f (.dirAns slot acc 0 i)
            | .clrres _ mask => (s.putDirSlot d i { r with resmap := r.resmap &&& ~~~mask &&& segMask r }.encode).answer f (.dirAns slot acc 0 i)
            | .glean _ pa =>
              match s.doGlean c claim f.part d r i pa with
              | (s, .status w) => s.answer f (.fill none claim (fillW w))
              | (s, .poison w) => s.answer f (.fill none claim (.poison w))
              | (s, .started) => s
          | r =>
            match op with
            | .setres .. | .clrres .. => s.answer f (.dirAns slot acc r.reason.1 r.reason.2)
            | _ => s.answer f (.fill none claim (match r with
                | .miss => fillW (rangeStatus 1 0 0)
                | .malformed i => fillW (rangeStatus 8 i 0)
                | .unreadable code pa => .poison (descriptor 1 code.toNat pa)
                | _ => fillW (rangeStatus 7 0 0)))
        | _, _ => s)
    | _ => s)

/-! ## The gleaner (R190 to R192) -/

/-- Moves one block: read at the old home, dropped there, written at the new PA (R190, R192). A block that meets MEMCODE there is carried and counted
as an uncorrectable one is (log 41). -/
def moveBlock (g : GMove) (off : Nat) (s : State) : State × Nat :=
  let lo := lineOf (g.oldPa + off)
  let ln := lineOf (s.gleanPA (g.newPa + off))
  let bad := (s.lineFault lo).isSome
  let d := s.lineData lo
  let s := (s.invalSharers lo none).clearResv lo none
  let s := { s with l2 := ndel s.l2 lo }
  let s := s.homeWrite (g.newPa + off) 128 d.toNat { MemAttr.none with cmp := g.cmp } none
  ({ s with bad := if bad then (if s.bad.contains ln then s.bad else s.bad ++ [ln]) else s.bad.filter (· != ln) }, if bad then 1 else 0)

/-- A move stops with status LOST (R192); its detail is the number of uncorrectable blocks carried so far (log 41). -/
def State.loseMove (s : State) (g : GMove) : State :=
  let s := s.fillNow g.core g.claim (rangeStatus 11 g.index g.bad)
  { s with gmoves := s.gmoves.map (fun x => if x.id == g.id then { x with lost := true, claim := none } else x) }

/-- Flits of the blocks of the next unit of a move, encoded at the port where the range has CMP (R143, R146). -/
def State.unitFlits (s : State) (g : GMove) : Nat :=
  (List.range 32).foldl (fun n i => n + dataFlits (if g.cmp then codeBytes (bestCode (s.lineData (lineOf (g.oldPa + g.moved + 128 * i)))) else 128)) 0

/-- A write of a move has been lost on its way, and its deadline has not come (R44). -/
def State.moveWaits (s : State) (move : Nat) : Bool := s.flights.any (fun f => (match f.src with | .gleaner m _ => m == move | _ => false) && f.st == .lost && f.body == .ack move)

/-- The gleaner moves the next 4 KiB unit, in ascending order (R190); a write that fails ends the move (R192). -/
def execGleanUnit (move : Nat) (s : State) : Out :=
  .next (match s.gmoves.find? (fun g => g.id == move && !g.lost && g.finishing.isNone && g.moved < g.limit - g.base && !s.moveWaits move) with
    | none => s
    | some g =>
      match s.reach (.gleaner move g.site) g.site g.part (g.newPa + g.moved) (s.unitFlits g) 32 with
      | (s, tr) =>
        if tr.code == some 0x25 then s.loseAccess (.gleaner move g.site) g.site g.part (g.newPa + g.moved) (.ack move)
        else if tr.code.isSome || !s.hasHome (s.gleanPA (g.newPa + g.moved)) then s.loseMove g
        else
          let p := (List.range 32).foldl (fun (p : State × Nat) (i : Nat) =>
            let q := moveBlock g (g.moved + 128 * i) p.1
            (q.1, p.2 + q.2)) (s, 0)
          let s : State := p.1
          { s with gmoves := s.gmoves.map (fun x => if x.id == move then { x with moved := x.moved + 4096, bad := x.bad + p.2 } else x) })

/-- Every unit is moved: the directory takes the new offset and an RINV.mod goes out (R190). A directory slot that can no longer be read
stops the move as a failing write does (log 41). -/
def execGleanFinish (move : Nat) (s : State) : Out :=
  .next (match s.gmoves.find? (fun g => g.id == move && !g.lost && g.finishing.isNone && g.limit - g.base ≤ g.moved) with
    | none => s
    | some g =>
      match s.slotTrips g.dir [g.index] with
      | (s, some _) => s.loseMove g
      | (s, none) =>
      match s.probeSlot g.dir g.index with
      | .inr _ => s.loseMove g
      | .inl raw =>
        let done : RangeSlot := { raw.decode with offset := wd g.newPa - wd g.base, moving := false }
        let s : State := s.putDirSlot g.dir g.index done.encode
        let id := s.nextId
        let s : State := { s.bump with gmoves := s.gmoves.map (fun x : GMove => if x.id == move then { x with finishing := some id } else x) }
        let sites := (List.range Config.sites).filter (fun n => inRect (s.partRect g.part.toNat) n && s.siteLive n)
        s.sendRinv g.core ((sites.flatMap (fun n => (List.range 16).map (16 * n + ·))).filter s.exposed, sites) g.proc g.base g.limit none (some move) id)

end Sys2Proof.Machine
end

