-- ==== Sys2Proof/Machine/Float.lean ====
section
/-! DEFINITION. Number formats, rounding, conversions, MX blocks, exact arithmetic and the four functions
(R215 to R228, R232 to R235, R242, R243, R255 to R257). -/

namespace Sys2Proof.Machine

/-- A floating format (R215): width, mantissa bits, bias, emin, largest finite magnitude, infinity, NaN given for a NaN source. -/
structure Fmt where
  w : Nat
  mb : Nat
  bias : Int
  emin : Int
  maxCode : Nat
  inf : Option Nat
  nan : Option Nat
  deriving DecidableEq, Repr

def fp32 : Fmt := ⟨32, 23, 127, -126, 0x7F7FFFFF, some 0x7F800000, some 0x7FC00000⟩
def bf16 : Fmt := ⟨16, 7, 127, -126, 0x7F7F, some 0x7F80, some 0x7FC0⟩
def e4m3 : Fmt := ⟨8, 3, 7, -6, 0x7E, none, some 0x7F⟩
def e5m2 : Fmt := ⟨8, 2, 15, -14, 0x7B, some 0x7C, some 0x7E⟩
def e2m3 : Fmt := ⟨6, 3, 1, 0, 0x1F, none, none⟩
def e3m2 : Fmt := ⟨6, 2, 3, -2, 0x1F, none, none⟩
def e2m1 : Fmt := ⟨4, 1, 1, 0, 7, none, none⟩

/-- Format of a code of R69; codes of integers and E8M0 answer none. -/
def fmtOf (code : Nat) : Option Fmt :=
  match code with
  | 0 => some fp32 | 1 => some bf16 | 2 => some e4m3 | 3 => some e5m2 | 4 => some e2m3 | 5 => some e3m2 | 6 => some e2m1 | _ => none

/-- Element width of a format code (R69). -/
def fmtWidth (code : Nat) : Nat :=
  match code with
  | 0 => 32 | 1 => 16 | 2 => 8 | 3 => 8 | 4 => 6 | 5 => 6 | 6 => 4 | 7 => 8 | 8 => 8 | 9 => 32 | _ => 64

/-- emax of an MX element format (R224). -/
def fmtEmax (code : Nat) : Int := match code with | 2 => 8 | 3 => 15 | 5 => 4 | _ => 2

/-- An exact value: neg is the sign; fin stands for (-1)^neg · mant · 2^exp. -/
inductive Val where
  | nan (neg : Bool)
  | inf (neg : Bool)
  | fin (neg : Bool) (mant : Nat) (exp : Int)
  deriving DecidableEq, Repr

/-- Value of an encoding (R216). -/
def decodeF (f : Fmt) (x : Nat) : Val :=
  let neg := x.testBit (f.w - 1)
  let mag := x % 2 ^ (f.w - 1)
  if f.maxCode < mag then (if f.inf = some mag then .inf neg else .nan neg)
  else
    let e := mag >>> f.mb
    let m := mag % 2 ^ f.mb
    if e = 0 then .fin neg m (f.emin - f.mb) else .fin neg (2 ^ f.mb + m) (Int.ofNat e - f.bias - f.mb)

/-- Value of a two's complement integer of w bits. -/
def decodeI (w x : Nat) : Int := if x % 2 ^ w < 2 ^ (w - 1) then Int.ofNat (x % 2 ^ w) else Int.ofNat (x % 2 ^ w) - 2 ^ w

/-- Rounding modes (R69). -/
inductive RMode where
  | rne | rtz | rup | rdn | sr
  deriving DecidableEq, Repr

def rmOf (n : Nat) : RMode := match n with | 0 => .rne | 1 => .rtz | 2 => .rup | 3 => .rdn | _ => .sr

/-- Flag bits of wl.vflags (R220). -/
def fNX : Nat := 1
def fUF : Nat := 2
def fOF : Nat := 4
def fSAT : Nat := 8
def fNV : Nat := 16
def fNANLOST : Nat := 32

/-- The rounding of R219 in units of 2^qe: mant·2^exp with a sticky tail below it; answers the rounded count and inexactness. -/
def roundAt (qe : Int) (neg : Bool) (mant : Nat) (exp : Int) (sticky : Bool) (mode : RMode) (draw : Nat) : Nat × Bool :=
  let sh := qe - exp
  if sh ≤ 0 then
    let t := mant <<< (-sh).toNat
    let up := sticky && (match mode with | .rup => !neg | .rdn => neg | _ => false)
    (t + (if up then 1 else 0), sticky)
  else
    let n := sh.toNat
    let t := mant >>> n
    let r := mant % 2 ^ n
    let nz := r != 0 || sticky
    let half := 2 ^ (n - 1)
    let up := match mode with
      | .rne => half < r || (r == half && (sticky || t % 2 == 1))
      | .rtz => false
      | .rup => nz && !neg
      | .rdn => nz && neg
      | .sr => draw < (r * 2 ^ 32) >>> n
    (t + (if up then 1 else 0), nz)

/-- Whether an overflow rounds away from zero ("nearest-like", R223). -/
def nearestLike (mode : RMode) (neg : Bool) : Bool :=
  match mode with
  | .rne | .sr => true
  | .rup => !neg
  | .rdn => neg
  | .rtz => false

def signBit (f : Fmt) (neg : Bool) : Nat := if neg then 2 ^ (f.w - 1) else 0

/-- RoundTo into a floating format with its flags (R219, R220, R223); formats without infinity or NaN always saturate. -/
def roundF (f : Fmt) (neg : Bool) (mant : Nat) (exp : Int) (sticky : Bool) (mode : RMode) (sat : Bool) (draw : Nat) : Nat × Nat :=
  if mant = 0 && !sticky then (signBit f neg, 0)
  else
    let l := Int.ofNat (Nat.log2 mant) + exp
    let qe := max l f.emin - f.mb
    let (m, nx) := roundAt qe neg mant exp sticky mode draw
    let ovf := 2 ^ (f.mb + 1) ≤ m
    let m' := if ovf then m / 2 else m
    let qe' := if ovf then qe + 1 else qe
    let code := if m' < 2 ^ f.mb then m' else ((qe' + f.mb + f.bias).toNat) * 2 ^ f.mb + (m' - 2 ^ f.mb)
    if f.maxCode < code then
      let sat := sat || f.nan.isNone
      let mag := if sat || !nearestLike mode neg then f.maxCode else (f.inf.getD (f.nan.getD 0))
      (signBit f neg + mag, fOF + fNX + (if sat then fSAT else 0))
    else (signBit f neg + code, (if nx then fNX else 0) + (if nx && l < f.emin then fUF else 0))

/-- RoundTo of a value into a floating format, specials under R223. -/
def toF (f : Fmt) (v : Val) (mode : RMode) (sat : Bool) (draw : Nat) : Nat × Nat :=
  match v with
  | .nan neg =>
    match f.nan with
    | some n => (signBit f neg + n, 0)
    | none => (0, fNANLOST)
  | .inf neg =>
    match f.inf, f.nan with
    | some i, _ => (signBit f neg + i, 0)
    | none, some n => if sat then (signBit f neg + f.maxCode, fSAT) else (signBit f neg + n, fNV)
    | none, none => (signBit f neg + f.maxCode, fSAT)
  | .fin neg m e => roundF f neg m e false mode sat draw

/-- Conversion into a w-bit integer: saturates, flags NX, SAT, NV (R223). -/
def toI (w : Nat) (v : Val) (mode : RMode) (draw : Nat) : Nat × Nat :=
  match v with
  | .nan _ => (0, fNV)
  | .inf neg => (if neg then 2 ^ (w - 1) else 2 ^ (w - 1) - 1, fNV + fSAT)
  | .fin neg m e =>
    let (t, nx) := roundAt 0 neg m e false mode draw
    if neg then
      if 2 ^ (w - 1) < t then (2 ^ (w - 1), fNX + fSAT) else ((2 ^ w - t) % 2 ^ w, if nx then fNX else 0)
    else if 2 ^ (w - 1) ≤ t then (2 ^ (w - 1) - 1, fNX + fSAT) else (t, if nx then fNX else 0)

/-- Integer as an exact value. -/
def valI (i : Int) : Val := .fin (i < 0) i.natAbs 0

/-- Value of an element of a format code (R69, R217). -/
def decodeCode (code x : Nat) : Val :=
  match fmtOf code with
  | some f => decodeF f x
  | none =>
    if code = 7 then (if x = 255 then .nan false else .fin false 1 (Int.ofNat x - 127))
    else valI (decodeI (fmtWidth code) x)

/-- Conversion between two format codes (R219, R223, R226). -/
def convert (src dst x : Nat) (mode : RMode) (sat : Bool) (draw : Nat) : Nat × Nat :=
  let v := decodeCode src x
  match fmtOf dst with
  | some f => toF f v mode sat draw
  | none => toI (fmtWidth dst) v mode draw

/-! ## The generator (R222, R282) -/

def mix64 (z : Word) : Nat :=
  let z := (z ^^^ (z >>> 30)) * 0xBF58476D1CE4E5B9
  let z := (z ^^^ (z >>> 27)) * 0x94D049BB133111EB
  let z := z ^^^ (z >>> 31)
  z.toNat >>> 32

/-- SrDraw(j) (R222). -/
def srDraw (seed ctr : Word) (j : Nat) : Nat := mix64 (seed + (ctr * 64 + wd j) * 0x9E3779B97F4A7C15)

/-- CopyDraw(g) (R282). -/
def copyDraw (seed ctr : Word) (g : Nat) : Nat := mix64 (seed + (ctr * wd (2 ^ 40) + wd g) * 0x9E3779B97F4A7C15)

/-! ## MX blocks (R224) -/

/-- Magnitude order key of a finite FP32 encoding. -/
def magOf (x : Nat) : Nat := x % 2 ^ 31
def isFin32 (x : Nat) : Bool := magOf x ≤ 0x7F7FFFFF
def isNan32 (x : Nat) : Bool := 0x7F800000 < magOf x

/-- floor(log2 |x|) of a nonzero finite FP32 encoding. -/
def log2F32 (x : Nat) : Int := match decodeF fp32 x with | .fin _ m e => Int.ofNat (Nat.log2 m) + e | _ => 0

/-- Multiplies a value by a power of two. -/
def Val.scale (v : Val) (k : Int) : Val := match v with | .fin n m e => .fin n m (e + k) | x => x

/-- Quantises 32 FP32 elements as an MX block: scale byte, elements, flags (R224). -/
def quantise (code : Nat) (xs : List Nat) (mode : RMode) (draw : Nat → Nat) : Nat × List Nat × Nat :=
  if xs.any isNan32 then (0xFF, xs.map (fun _ => 0), 0)
  else
    let a := (xs.filter isFin32).foldl (fun m x => max m (magOf x)) 0
    let x0 : Int := if a = 0 then -127 else log2F32 a - fmtEmax code
    let x := min (max x0 (-127)) 127
    let f := (fmtOf code).getD e2m1
    let ys := xs.zipIdx.map (fun p => toF f ((decodeF fp32 p.1).scale (-x)) mode true (draw p.2))
    ((x + 127).toNat, ys.map (·.1), ys.foldl (fun fl y => fl ||| y.2) 0)

/-- Dequantises one element under a scale byte (R228). -/
def dequant (code scale x : Nat) : Nat × Nat :=
  if scale = 255 then (0x7FC00000, 0)
  else toF fp32 ((decodeCode code x).scale (Int.ofNat scale - 127)) .rne false 0

/-! ## Exact arithmetic (R232, R234, R235) -/

/-- Signed count of a finite value in units of 2^e. -/
def inUnits (neg : Bool) (m : Nat) (exp e : Int) : Int :=
  let x := Int.ofNat (m <<< (exp - e).toNat)
  if neg then -x else x

/-- Sum of two values with the signs of zero of R234; a NaN result with its NV flag. -/
def addV (a b : Val) : Val × Nat :=
  match a, b with
  | .nan _, _ => (.nan false, 0)
  | _, .nan _ => (.nan false, 0)
  | .inf p, .inf q => if p = q then (.inf p, 0) else (.nan false, fNV)
  | .inf p, _ => (.inf p, 0)
  | _, .inf q => (.inf q, 0)
  | .fin p m e, .fin q n f =>
    let g := min e f
    let t := inUnits p m e g + inUnits q n f g
    if t = 0 then (.fin (p && q) 0 g, 0) else (.fin (t < 0) t.natAbs g, 0)

/-- Product of two values (R234). -/
def mulV (a b : Val) : Val × Nat :=
  match a, b with
  | .inf p, .fin _ 0 _ => (.nan p, fNV)
  | .fin _ 0 _, .inf p => (.nan p, fNV)
  | .nan _, _ => (.nan false, 0)
  | _, .nan _ => (.nan false, 0)
  | .inf p, .inf q => (.inf (p != q), 0)
  | .inf p, .fin q _ _ => (.inf (p != q), 0)
  | .fin p _ _, .inf q => (.inf (p != q), 0)
  | .fin p m e, .fin q n f => (.fin (p != q) (m * n) (e + f), 0)

/-- Rounds an arithmetic result: RNE, sat 0, canonical NaN (R232, R234). -/
def roundV (f : Fmt) (r : Val × Nat) : Nat × Nat :=
  match r.1 with
  | .nan _ => ((f.nan.getD 0), r.2)
  | v =>
    let (x, fl) := toF f v .rne false 0
    (x, fl ||| r.2)

def negV (v : Val) : Val := match v with | .nan n => .nan (!n) | .inf n => .inf (!n) | .fin n m e => .fin (!n) m e

def fAdd (f : Fmt) (a b : Nat) : Nat × Nat := roundV f (addV (decodeF f a) (decodeF f b))
def fSub (f : Fmt) (a b : Nat) : Nat × Nat := roundV f (addV (decodeF f a) (negV (decodeF f b)))
def fMul (f : Fmt) (a b : Nat) : Nat × Nat := roundV f (mulV (decodeF f a) (decodeF f b))
/-- a × b + c, rounded once (R232). -/
def fFma (f : Fmt) (a b c : Nat) : Nat × Nat :=
  let p := mulV (decodeF f a) (decodeF f b)
  if p.2 ≠ 0 then ((f.nan.getD 0), p.2)
  else roundV f (addV p.1 (decodeF f c))

/-- a < b on values that are not NaN. -/
def ltV (a b : Val) : Bool :=
  match a, b with
  | .inf p, .inf q => p && !q
  | .inf p, _ => p
  | _, .inf q => !q
  | .fin p m e, .fin q n f => let g := min e f; inUnits p m e g < inUnits q n f g
  | _, _ => false

def isNanV (v : Val) : Bool := match v with | .nan _ => true | _ => false

/-- VMIN and VMAX of the F class (R235). -/
def fMin (f : Fmt) (isMax : Bool) (a b : Nat) : Nat :=
  let va := decodeF f a
  let vb := decodeF f b
  if isNanV va && isNanV vb then f.nan.getD 0
  else if isNanV va then b
  else if isNanV vb then a
  else if ltV va vb then (if isMax then b else a)
  else if ltV vb va then (if isMax then a else b)
  else
    let na := a.testBit (f.w - 1)
    if na != isMax then a else b

/-- Compares of the F class (R235): 0 equal, 1 less, 2 less or equal. -/
def fCmp (f : Fmt) (k a b : Nat) : Bool :=
  let va := decodeF f a
  let vb := decodeF f b
  if isNanV va || isNanV vb then false
  else
    let lt := ltV va vb
    let eq := !lt && !ltV vb va
    match k with | 0 => eq | 1 => lt | _ => lt || eq

/-! ## The four functions (R242): exact value approximated from below to far more bits than a rounding needs, then rounded once -/

/-- 2^(i + 0.b1b2...) as a fixed-point number with p fraction bits: product of 2^(2^-i) over the set bits of fr/2^n. -/
def exp2Frac (p n fr : Nat) : Nat :=
  ((List.range n).foldl (fun (st : Nat × Nat) i =>
    let root := Nat.sqrt (st.2 * 2 ^ p)
    (if fr.testBit (n - 1 - i) then st.1 * root / 2 ^ p else st.1, root)) (2 ^ p, 2 ^ (p + 1))).1

/-- 2^x (R242). -/
def fExp2 (f : Fmt) (a : Nat) : Nat :=
  match decodeF f a with
  | .nan _ => f.nan.getD 0
  | .inf neg => if neg then 0 else f.inf.getD 0
  | .fin neg m e =>
    let n := (-e).toNat
    let x : Int := if neg then -Int.ofNat (m <<< e.toNat) else Int.ofNat (m <<< e.toNat)
    let ip := x / (2 ^ n : Nat)
    let fr := (x % (2 ^ n : Nat)).toNat
    if 128 ≤ ip then f.inf.getD 0
    else if ip < -200 then (roundF f false 1 (-300) true .rne false 0).1
    else (roundF f false (exp2Frac 320 n fr) (ip - 320) (fr != 0) .rne false 0).1

/-- The first n fraction bits of log2 y, y in [1, 2) with p fraction bits. -/
def log2Frac (p n y : Nat) : Nat :=
  ((List.range n).foldl (fun (st : Nat × Nat) _ =>
    let z := st.2 * st.2 / 2 ^ p
    if 2 ^ (p + 1) ≤ z then (2 * st.1 + 1, z / 2) else (2 * st.1, z)) (0, y)).1

/-- log2 x (R242). -/
def fLog2 (f : Fmt) (a : Nat) : Nat :=
  match decodeF f a with
  | .nan _ => f.nan.getD 0
  | .inf neg => if neg then f.nan.getD 0 else f.inf.getD 0
  | .fin neg m e =>
    if m = 0 then signBit f true + f.inf.getD 0
    else if neg then f.nan.getD 0
    else
      let k := Nat.log2 m
      let ip := Int.ofNat k + e
      if m = 2 ^ k then (roundF f (ip < 0) ip.natAbs 0 false .rne false 0).1
      else
        let t := ip * (2 ^ 200 : Nat) + Int.ofNat (log2Frac 520 200 (m * 2 ^ 520 / 2 ^ k))
        if 0 ≤ t then (roundF f false t.toNat (-200) true .rne false 0).1
        else (roundF f true ((-t - 1).toNat) (-200) true .rne false 0).1

/-- 1/x (R242). -/
def fRcp (f : Fmt) (a : Nat) : Nat :=
  match decodeF f a with
  | .nan _ => f.nan.getD 0
  | .inf neg => signBit f neg
  | .fin neg m e =>
    if m = 0 then signBit f neg + f.inf.getD 0
    else (roundF f neg (2 ^ 128 / m) (-e - 128) (2 ^ 128 % m != 0) .rne false 0).1

/-- 1/√x (R242). -/
def fRsq (f : Fmt) (a : Nat) : Nat :=
  match decodeF f a with
  | .nan _ => f.nan.getD 0
  | .inf neg => if neg then f.nan.getD 0 else 0
  | .fin neg m e =>
    if m = 0 then signBit f neg + f.inf.getD 0
    else if neg then f.nan.getD 0
    else
      let m' := if e % 2 = 0 then m else 2 * m
      let e' := if e % 2 = 0 then e else e - 1
      let r := Nat.sqrt (2 ^ 256 / m')
      (roundF f false r (-(e' / 2) - 128) (r * r * m' != 2 ^ 256) .rne false 0).1

/-! ## Reductions (R243) -/

/-- One level of the pairwise tree. -/
def pairUp {α : Type} (op : α → α → α) (l : List α) : List α :=
  match l with
  | a :: b :: t => op a b :: pairUp op t
  | l => l

/-- The fixed pairwise tree over 2^levels elements (R243). -/
def treeFold {α : Type} (op : α → α → α) (levels : Nat) (l : List α) : List α :=
  match levels with
  | 0 => l
  | k + 1 => treeFold op k (pairUp op l)

/-! ## Chunk values of MDOT (R255, R256) -/

/-- Value of one chunk: products of two lists of values under two scale bytes, rounded once to FP32. -/
def chunkValue (as bs : List Val) (sa sb : Nat) : Nat :=
  if as.any isNanV || bs.any isNanV || sa == 255 || sb == 255 then 0x7FC00000
  else
    let ps := (as.zip bs).map (fun p => (mulV p.1 p.2).1)
    if ps.any isNanV then 0x7FC00000
    else
      let pinf := ps.any (· == .inf false)
      let ninf := ps.any (· == .inf true)
      if pinf && ninf then 0x7FC00000
      else if pinf then 0x7F800000
      else if ninf then 0xFF800000
      else
        let e := ps.foldl (fun e p => match p with | .fin _ _ x => min e x | _ => e) 0
        let t := ps.foldl (fun t p => match p with | .fin n m x => t + inUnits n m x e | _ => t) (0 : Int)
        let allNegZero := ps.all (fun p => match p with | .fin true 0 _ => true | _ => false)
        if t = 0 then (if allNegZero then 0x80000000 else 0)
        else (roundF fp32 (t < 0) t.natAbs (e + (Int.ofNat sa - 127) + (Int.ofNat sb - 127)) false .rne false 0).1

/-- One accumulator element of MDOT over the chunks in ascending order (R255). -/
def dotElem (acc : Nat) (chunks : List (List Val × List Val × Nat × Nat)) : Nat :=
  chunks.foldl (fun a c => (fAdd fp32 a (chunkValue c.1 c.2.1 c.2.2.1 c.2.2.2)).1) acc

/-- Clamp of R257. -/
def clamp32 (i : Int) : Nat :=
  let j := min (max i (-2147483648)) 2147483647
  (j % 4294967296).toNat

end Sys2Proof.Machine
end

