-- ==== Sys2Proof/Machine/Flags.lean ====
section
/-! DEFINITION. wl.vflags and the generator's counter: what an instruction of a slot sets (R220 to R222), and elements of registers (R218). -/

namespace Sys2Proof.Machine

/-- Sets sticky flags of the issuing slot (R220). -/
def State.orFlags (s : State) (f : Nat) : State := s.modMe (fun t => { t with vflags := t.vflags ||| wd (f % 64) })

/-- Counts a stochastic rounding of the issuing slot (R222). -/
def State.useDraw (s : State) (m : RMode) : State := if m = .sr then s.modMe (fun t => { t with srctr := t.srctr + 1 }) else s

/-- SrDraw of the issuing slot (R222). -/
def State.draw (s : State) (j : Nat) : Nat := srDraw s.me.srseed s.me.srctr j

/-- Element j of w bits of a bit string (R218). -/
def elemOf {n : Nat} (v : BitVec n) (w j : Nat) : Nat := fieldOf v.toNat (w * j) w

/-- Elements 0 to n-1 of w bits. -/
def elemsOf {m : Nat} (v : BitVec m) (w n : Nat) : List Nat := (List.range n).map (elemOf v w)

/-- Packs elements of w bits, the first lowest (R218). -/
def packElems (w : Nat) (l : List Nat) : Nat := l.foldr (fun x a => x % 2 ^ w + 2 ^ w * a) 0

/-- All the flags of a list of results. -/
def flagsOf (l : List (Nat × Nat)) : Nat := l.foldl (fun f p => f ||| p.2) 0

end Sys2Proof.Machine
end

