-- ==== Sys2Proof/Machine/Transfers.lean ====
section
/-! DEFINITION. Transfers between local store and a vector or tile register: bank conflicts, the cycle they are performed in,
and their effect (R237, R238, R252, R253). -/

namespace Sys2Proof.Machine

/-- A piece of a transfer: address as an exact integer, bytes, alignment. -/
structure Piece where
  addr : Int
  len : Nat
  align : Nat
  deriving DecidableEq, Repr

/-- First failing address of a piece: misaligned, or its first byte outside local store. -/
def Piece.fail (p : Piece) : Option Int :=
  if p.addr % (p.align : Int) ≠ 0 then some p.addr
  else if p.addr < 0 then some p.addr
  else if (lsTop : Int) < p.addr + p.len then some (max p.addr lsTop)
  else none

def Piece.bytes (p : Piece) : List Nat := span p.addr.toNat p.len

/-- h of R238: sixteenths of the largest number of distinct words in one bank. -/
def turnsOf (addrs : List Nat) : Nat :=
  let words := (addrs.map (· / 8)).eraseDups
  let k := ((List.range 64).map (fun b => (words.filter (fun w => w % 64 == b)).length)).foldl max 0
  (k + 15) / 16

/-! ## Tile configuration (R247, R248) -/

def cfgType (g : Word) : Nat := wf g 0 4
def cfgMx (g : Word) : Bool := g.getLsbD 4
def cfgRows (g : Word) : Nat := wf g 9 7
def cfgCols (g : Word) : Nat := wf g 16 8
def cfgPitch (g : Word) : Nat := wf g 24 12
def cfgSpitch (g : Word) : Nat := wf g 36 12
/-- A signed byte offset in bits 63:48. -/
def cfgSoff (g : Word) : Int := (g.extractLsb' 48 16).toInt

/-- Elements per row of a type (R248). -/
def typeK (t : Nat) : Nat := match t with | 1 => 32 | 6 => 128 | _ => 64
def typeOk (t : Nat) : Bool := (1 ≤ t && t ≤ 6) || t == 8

/-- The pieces that an MLD reads, in the order of the access (R252). -/
def mldPieces (g : Word) (a : Nat) : List Piece :=
  let nw := (cfgCols g * fmtWidth (cfgType g) + 63) / 64
  (List.range (cfgRows g)).flatMap (fun i =>
    { addr := (a + 8 * cfgPitch g * i : Nat), len := 8 * nw, align := 8 } ::
    (if cfgMx g then [{ addr := (a : Int) + cfgSoff g + (4 * cfgSpitch g * i : Nat), len := (cfgCols g + 31) / 32, align := 4 }] else []))

/-- The tile an MLD reads from local store (R252). -/
def mldValue (m : Memory) (g : Word) (a : Nat) : BitVec 34816 :=
  let w := fmtWidth (cfgType g)
  let nw := (cfgCols g * w + 63) / 64
  let row (i : Nat) : Nat := if i < cfgRows g then memRead m (a + 8 * cfgPitch g * i) (8 * nw) % 2 ^ (cfgCols g * w) else 0
  let nb := (cfgCols g + 31) / 32
  let scale (i : Nat) : Nat :=
    if i < cfgRows g && cfgMx g then
      let v := memRead m ((a : Int) + cfgSoff g + (4 * cfgSpitch g * i : Nat)).toNat nb
      v + 0x7F7F7F7F / 2 ^ (8 * nb) * 2 ^ (8 * nb)
    else 0x7F7F7F7F
  BitVec.ofNat 34816 (packElems 512 ((List.range 64).map row) + packElems 32 ((List.range 64).map scale) * 2 ^ 32768)

/-- Performs a transfer as one local-store access (R238, R253). A slot that has been cleared meanwhile takes no register, and neither does a new
thread that it has been given since (log 57). -/
def State.performTransfer (s : State) (c : Nat) (t : Transfer) : State :=
  let alive := (s.slot c t.slot).state != .empty && (s.slot c t.slot).epoch == t.epoch
  match t.kind with
  | .vload vd bytes =>
    let v := bytes.foldl (fun a p => a + (memGet (s.core c).ls p.2).toNat * 2 ^ p.1) 0
    if alive then s.modSlot c t.slot (fun x => x.setVr vd ⟨.full, BitVec.ofNat 2048 v⟩) else s
  | .vstore bytes => s.modCore c (fun k => { k with ls := memPuts k.ls bytes })
  | .mload md cfg base => if alive then s.modSlot c t.slot (fun x => x.setMr md ⟨.full, mldValue (s.core c).ls cfg base.toNat⟩) else s
  | .mstore bytes => s.modCore c (fun k => { k with ls := memPuts k.ls bytes })

/-- Issues a transfer that has passed its checks: performed now when h is 1, else in cycle c + 16(h − 1) (R238). -/
def State.startTransfer (s : State) (kind : TransferKind) (addrs : List Nat) : State :=
  let t : Transfer := { slot := s.curSlot, epoch := s.me.epoch, at_ := s.here.cycle + 16 * (turnsOf addrs - 1), kind := kind, addrs := addrs }
  if turnsOf addrs ≤ 1 then s.performTransfer s.curCore t
  else (s.modHere (fun k => { k with transfer := some t })).modMe (fun x => { x with busyUntil := t.at_ })

/-- A transfer is still to be performed: another is not accepted (R238). -/
def State.transferBusy (s : State) : Bool := s.here.transfer.isSome

/-- A transfer that took more than one turn is performed in its cycle (R238, R253). -/
def execTransferPerform (core : Nat) (s : State) : Out :=
  match (s.core core).transfer with
  | some t => if t.at_ ≤ (s.core core).cycle then .next ((s.performTransfer core t).modCore core (fun k => { k with transfer := none })) else .next s
  | none => .next s

end Sys2Proof.Machine
end

