-- ==== Sys2Proof/Machine/Copy.lean ====
section
/-! DEFINITION. The copy engine: channel registers, CPGO, segments, operations, endings, faults and cancellation (R17, R265 to R287,
R293 to R297). -/

namespace Sys2Proof.Machine

/-! ## Channel registers (R266 to R271) -/

/-- Reset value of a shadow register (R267). -/
def chanReset (i : Nat) : Word := if i = 3 ∨ i = 4 then 0xFFFF else if 8 ≤ i ∧ i ≤ 13 then 1 else 0

def Core.chan (k : Core) (ch : Nat) : Channel := (nget k.channels ch).getD Channel.reset
def Core.setChan (k : Core) (ch : Nat) (x : Channel) : Core := { k with channels := nput k.channels ch x }
def State.chan (s : State) (c ch : Nat) : Channel := (s.core c).chan ch
def State.modChan (s : State) (c ch : Nat) (f : Channel → Channel) : State := s.modCore c (fun k => k.setChan ch (f (k.chan ch)))

/-- A register of the active set. -/
def Channel.reg (x : Channel) (i : Nat) : Word := (nget x.act i).getD (chanReset i)

def chCode (r : ChState) : Nat := match r with | .idle => 0 | .active => 1 | .faulted => 2 | .cancelling => 3

/-- STATUS (R271). -/
def Channel.status (x : Channel) : Word :=
  wd (chCode x.st * 2 ^ 62 + x.side.toNat * 2 ^ 60 + x.slot % 16 * 2 ^ 56 + x.reason.toNat * 2 ^ 52 + x.bytes % 2 ^ 40)

/-- The register that CPR reads (R273). -/
def Channel.read (x : Channel) (i : Nat) : Word :=
  match i with
  | 26 => x.srseed
  | 27 => x.srctr
  | 28 => x.status
  | 29 => x.faddr
  | i => (nget x.shadow i).getD (chanReset i)

/-- Fields of a CTL value (R268). -/
def ctlOp (w : Word) : Nat := wf w 60 4
def ctlFmt (w : Word) : Nat := wf w 56 4
def ctlRm (w : Word) : Nat := wf w 53 3
def ctlEs (w : Word) : Nat := 2 ^ wf w 50 2
def ctlKind (w : Word) : Nat := wf w 48 2
def ctlScope (w : Word) : Nat := wf w 44 4

/-- Whether the slot whose turn runs may write or start a channel (R17). -/
def State.chanOpen (s : State) (ch : Nat) (r : Role) : Bool :=
  notT r && (match nget s.here.bound ch with | some b => b == s.curSlot | none => true)

/-- Bits of a shadow register that are not RSV: those of CTL, BAR and MCSET (R3, R268 to R270). -/
def chanBits (i : Nat) : Word :=
  match i with
  | 0 => 0xFFFFFE0000000000
  | 3 => 0x80000000003FFFFF
  | 5 => 0xFFFFBF00000FFFFF
  | _ => 0xFFFFFFFFFFFFFFFF

/-- CPW (R273). -/
def execCpw (ch : BitVec 2) (idx rs1 : BitVec 5) (s : State) : Out :=
  issue { instr := .cpw ch idx rs1, roles := s.chanOpen ch.toNat, regs := [sx rs1] } (fun s =>
    let v := s.xv rs1
    .done (s.modChan s.curCore ch.toNat (fun x => match idx.toNat with
      | 26 => { x with srseed := v }
      | 27 => { x with srctr := v }
      | 28 | 29 => x
      | i => { x with shadow := nput x.shadow i (v &&& chanBits i) }))) s

/-- CPR (R273). -/
def execCpr (ch : BitVec 2) (idx rd : BitVec 5) (s : State) : Out :=
  issue { instr := .cpr ch idx rd, roles := notT, regs := [dx rd] } (fun s => .done (s.setX rd ((s.chan s.curCore ch.toNat).read idx.toNat))) s

/-! ## CPGO (R274) -/

/-- Extent of a dimension, from CTL-indexed registers. -/
def Channel.shadowReg (x : Channel) (i : Nat) : Word := (nget x.shadow i).getD (chanReset i)

/-- The extent register at which the product, taken outward, first reaches 2^40. -/
def boxIndex (exts : List Nat) (i p : Nat) : Nat :=
  match exts with
  | [] => 8
  | e :: t => if 2 ^ 40 ≤ p * e then i else boxIndex t (i + 1) (p * e)

/-- The configuration checks of R274, on the shadow set: reason and register index of the first failure. -/
def Channel.refused (x : Channel) (scope : Option Nat) : Option (Nat × Nat) :=
  let ctl := x.shadowReg 0
  let op := ctlOp ctl
  let fmt := ctlFmt ctl
  let exts := (List.range 6).map (fun d => wf (x.shadowReg (8 + d)) 0 32)
  let bar := x.shadowReg 3
  let mc := x.shadowReg 5
  let bad := 5 ≤ op || (1 ≤ op && op ≤ 3 && wf ctl 50 2 != 2) || ((op == 2 || op == 3) && 5 ≤ ctlRm ctl) || (op == 2 && (fmt < 2 || 3 < fmt)) || (op == 3 && (fmt < 2 || 6 < fmt))
  if bad then some (1, 0)
  else if 2 ^ 40 ≤ exts.foldl (· * ·) 1 then some (2, boxIndex exts 8 1)
  else if op = 3 ∧ exts.getD 0 0 % 32 ≠ 0 then some (2, 8)
  else if op ≠ 4 ∧ 2 ≤ ctlKind ctl then some (3, 0)
  else if (op = 4 ∨ ctlKind ctl = 1) ∧ 0xFFFFF < (x.shadowReg 2).toNat then some (3, 2)
  else if scope.isNone then some (4, 0)
  else if bar.getLsbD 63 && 48 ≤ wf bar 16 6 then some (5, 3)
  else if op = 4 ∧ mc.getLsbD 47 ∧ 48 ≤ wf mc 40 6 then some (5, 5)
  else if op = 4 ∧ !bar.getLsbD 63 then some (5, 3)
  else none

/-- CPGO (R274). -/
def execCpgo (ch : BitVec 2) (rd : BitVec 5) (s : State) : Out :=
  issue { instr := .cpgo ch rd, roles := s.chanOpen ch.toNat, regs := [dx rd] } (fun s =>
    let c := s.curCore
    let n := ch.toNat
    let x := s.chan c n
    if x.st ≠ .idle then .hold s
    else releaseCheck s <|
      let ctl := x.shadowReg 0
      let scope := s.resolveScope (BitVec.ofNat 4 (ctlScope ctl))
      let rect : BitVec 20 := BitVec.ofNat 20 (wf (x.shadowReg 5) 0 20)
      let part := (s.site (siteOf c)).part.toNat
      match x.refused scope with
      | some (reason, index) => .trap s 50 (wd (reason * 2 ^ 56 + n * 2 ^ 48 + index))
      | none =>
        let nw := fieldOf rect.toNat 5 5 * 24 + fieldOf rect.toNat 0 5
        if ctlOp ctl = 4 ∧ (rectOut rect || !((rectSites rect).all (inRect (s.partRect part)))) then
          .trap (s.siteViolation (siteOf c) 4 part (nw * 2 ^ 33)) 48 (x.shadowReg 5)
        else withClaim s .x rd.toNat 2 false fun s claim =>
          let sr := (ctlOp ctl = 2 ∨ ctlOp ctl = 3) ∧ ctlRm ctl = 4
          let waits := s.releaseWaits (scope.getD 0)
          let sysWaits := s.releaseWaits 4
          let serial := s.nextId
          let s := s.bump
          let y : Channel := { Channel.reset with
            shadow := x.shadow
            srseed := x.srseed
            srctr := if sr then x.srctr + 1 else x.srctr
            st := .active
            act := x.shadow
            slot := s.curSlot
            scope := scope.getD 0
            capSeed := x.srseed
            capCtr := x.srctr
            waits := waits
            sysWaits := sysWaits
            serial := serial
            side := x.side
            reason := x.reason
            faddr := x.faddr
            claim := claim }
          .done ((s.modChan c n (fun _ => y)).modMe (fun t => { t with missScope := none }))) s

/-! ## The box (R276) -/

def Channel.op (x : Channel) : Nat := ctlOp (x.reg 0)
def Channel.es (x : Channel) : Nat := ctlEs (x.reg 0)
def Channel.ext (x : Channel) (d : Nat) : Nat := wf (x.reg (8 + d)) 0 32

/-- Elements of the box. -/
def Channel.total (x : Channel) : Nat := (List.range 6).foldl (fun p d => p * x.ext d) 1

/-- Index of element g in dimension d. -/
def Channel.index (x : Channel) (g d : Nat) : Nat := g / (List.range d).foldl (fun p e => p * x.ext e) 1 % x.ext d

/-- Address of element g from a base register and its strides; MXQ leaves out dimension 0 of the destination. -/
def Channel.addr (x : Channel) (base stride from0 g : Nat) : Word :=
  ((List.range 6).drop from0).foldl (fun a d => a + wd (x.index g d) * x.reg (stride + d)) (x.reg base)

def Channel.srcVA (x : Channel) (g : Nat) : Word := x.addr 1 14 0 g
def Channel.dstVA (x : Channel) (g : Nat) : Word := if x.op = 3 then x.addr 2 20 1 g + wd (x.index g 0 / 32 * (4 * fmtWidth (ctlFmt (x.reg 0)))) else x.addr 2 20 0 g

/-- Bytes of a destination element. -/
def Channel.ds (x : Channel) : Nat := if x.op = 2 then 1 else x.es

/-- Whether the bytes of an element lie in the page of another address. -/
def inPage (a : Word) (n : Nat) (p : Word) : Bool := a.toNat / 4096 == p.toNat / 4096 && (a.toNat % 2 ^ 64 + n - 1) / 4096 == p.toNat / 4096

/-- Elements of the segment that starts at g (R277). -/
def Channel.runLen (x : Channel) (g : Nat) : Nat :=
  if x.op = 3 then 32
  else
    let most := min (4096 / x.es) (x.total - g)
    max 1 ((List.range most).takeWhile (fun i => inPage (x.srcVA (g + i)) x.es (x.srcVA g) && inPage (x.dstVA (g + i)) x.ds (x.dstVA g))).length

/-! ## Translation of a segment (R276, R277, R293) -/

/-- Outcome of resolving an address of a copy. -/
inductive ChTr where
  | loc (s : State) (l : Loc)
  | wait (s : State)
  | fault (s : State) (reason : Nat)

/-- Resolves an address of the channel's own core (R276): local store, or Translate of kind COPY with its walks. -/
def State.chanLoc (s : State) (c ch : Nat) (va : Word) (kind : AccessKind) : ChTr :=
  let x := s.chan c ch
  if !vaOk va || isWindow va then .fault s 9
  else if isLocal va then .loc s (.ls va.toNat)
  else if x.walkWait.isSome then .wait s
  else
    let walk (s : State) (join : Bool) : State :=
      let (s, id) := s.startWalk c va (s.core c).rdir (.channel ch) join
      s.modChan c ch (fun x => { x with walkWait := some id })
    match x.walkOut with
    | some o => if o.va.toNat / 4096 == va.toNat / 4096 then .fault s o.reason else .wait (s.modChan c ch (fun x => { x with walkOut := none }))
    | none =>
      match (s.core c).rangeFor va with
      | none => .wait (walk s true)
      | some e =>
        match checkEntry e.slot va.toNat kind with
        | .fault r => .fault s r
        | .clear _ =>
          if x.rewalked == some va then .fault s 6
          else .wait (walk (s.modChan c ch (fun x => { x with rewalked := some va })) false)
        | .ok =>
          let s := s.modCore c (fun k => k.useRange e)
          if e.slot.isRemote then .loc s (.remote e.slot.rmod.toNat ((va + e.slot.offset).toNat % 2 ^ 43) va.toNat)
          else .loc s (.phys (rangePA e.slot va.toNat) e.slot.attr)

/-- Resolves a list of addresses of n bytes in turn; the first failure or walk ends it with the address it met. -/
def resolveAll (c ch : Nat) (kind : AccessKind) (n : Nat) (vas : List Word) (s : State) (acc : List Loc) : (State × List Loc) ⊕ (Word × ChTr) :=
  match vas with
  | [] => .inl (s, acc.reverse)
  | va :: t =>
    if vaOk va && !isWindow va && va.toNat % n ≠ 0 then .inr (va, .fault s 8)
    else match s.chanLoc c ch va kind with
      | .loc s l => resolveAll c ch kind n t s (l :: acc)
      | r => .inr (va, r)

/-- Destination addresses of another core (R276): above 0xF_FFFF is reason 9, misaligned is reason 8. -/
def resolveFar (name : BitVec 16) (n : Nat) (vas : List Word) (acc : List Loc) : List Loc ⊕ (Word × Nat) :=
  match vas with
  | [] => .inl acc.reverse
  | va :: t =>
    if lsTop ≤ va.toNat then .inr (va, 9)
    else if va.toNat % n ≠ 0 then .inr (va, 8)
    else resolveFar name n t (.far name va.toNat :: acc)

/-- A copy fault (R293): the channel is FAULTED and the buddy is notified. -/
def State.copyFault (s : State) (c ch side reason : Nat) (va : Word) : State :=
  let s := s.modChan c ch (fun x => { x with st := .faulted, side := BitVec.ofNat 2 side, reason := BitVec.ofNat 4 reason, faddr := va, walkOut := none, rewalked := none })
  s.notify c (noteWord 1 (s.coreName c) (s.chan c ch).slot ch 50)

/-- The first failure of a copy decides how it is poisoned (R287). -/
def State.copyFail (s : State) (c ch : Nat) (code : Nat) (detail : Nat) : State :=
  s.modChan c ch (fun x => { x with fail := some ((x.fail.or x.mcFail).getD (BitVec.ofNat 8 code, BitVec.ofNat 48 detail)) })

/-- A copy to another module: the class of the channel and of its claim becomes 7 (R275). -/
def State.remoteClass (s : State) (c ch : Nat) : State :=
  s.modCore c (fun k =>
    let k := match (k.chan ch).claim with
      | some i => (match nget k.claims i with | some cl => { k with claims := nput k.claims i { cl with cls := 7 } } | none => k)
      | none => k
    k.setChan ch { k.chan ch with cls := 7 })

/-- Whether the hold of CPGO still holds (R274). -/
def Core.chanHeld (k : Core) (x : Channel) : Bool := x.waits.any k.outstanding

/-- Core named by NAME, or none for the issuing core (R267, R268). -/
def State.farName (s : State) (c : Nat) (x : Channel) : Option (BitVec 16) :=
  let n : BitVec 16 := BitVec.ofNat 16 (wf (x.reg 4) 0 16)
  if x.op == 4 then some 0xFFFF
  else if ctlKind (x.reg 0) == 1 && n != 0xFFFF && n != s.coreName c then some n else none

/-- Whether the destination addresses are local-store addresses of a named core (R276). -/
def Channel.namesCore (x : Channel) : Bool := x.op == 4 || ctlKind (x.reg 0) == 1

/-- Local addresses among the bytes of locations. -/
def Loc.lsBytes (n : Nat) (l : Loc) : List Nat := match l with | .ls a => span a n | _ => []

/-- The first byte of the issuing core that the engine may not touch (R278). -/
def State.notEngine (s : State) (c : Nat) (addrs : List Nat) : Option Nat :=
  addrs.find? (fun a => !(s.core c).engineOwned a || s.reservedPlot c (plotOf a))

/-- Adds one use to each plot, or takes it away (R195, R278). -/
def Core.usePlots (k : Core) (up : Bool) (ps : List Nat) : Core :=
  { k with inUse := ps.foldl (fun m p => let n := (nget m p).getD 0; if up then nput m p (n + 1) else if n ≤ 1 then ndel m p else nput m p (n - 1)) k.inUse }

/-- Plots that a segment touches in the issuing core. -/
def Segment.plots (g : Segment) (es ds : Nat) : List Nat :=
  ((g.srcs.flatMap (Loc.lsBytes es) ++ g.dsts.flatMap (Loc.lsBytes ds) ++ (g.scale.map (Loc.lsBytes 1)).getD []).map plotOf).eraseDups

/-- Bytes of one location in the destination list of an operation: MXQ lists packed bytes. -/
def Channel.listed (x : Channel) : Nat := if x.op = 3 then 1 else x.ds

/-- Reads a location: the value, or the code and address it meets at its home. It is no demand access of R142: it takes no line into the L2 and
counts no bypass (log 54). -/
def State.readLoc (s : State) (c n : Nat) (l : Loc) : Nat ⊕ (BitVec 8 × Nat) :=
  match l with
  | .ls a => .inl (memRead (s.core c).ls a n)
  | .phys pa _ => match s.spanFault pa n with
    | some (x, a) => .inr (x, faultPA x a)
    | none => .inl (s.physRead pa n)
  | _ => .inl 0

/-- What keeps n bytes of a location from being written at their homes, if anything (R147, R277). -/
def State.writeFault (s : State) (n : Nat) (l : Loc) : Option (BitVec 8 × Nat) :=
  match l with
  | .phys pa _ => (s.spanFault pa n).map (fun x => (x.1, faultPA x.1 x.2))
  | _ => none

/-- A part of an element in one line of global memory: its address and bytes, whether its range has CMP, and the value to be written, if it is
known. -/
structure PagePart where
  pa : Nat
  len : Nat
  cmp : Bool
  val : Option Nat
  deriving DecidableEq, Repr

/-- The parts of an element: an offset of a range need not be a multiple of its size (R170, R172). -/
def partsOf (pa n : Nat) (cmp : Bool) (v : Option Nat) : List PagePart :=
  let m := 128 - pa % 128
  if n ≤ m then [⟨pa, n, cmp, v⟩] else [⟨pa, m, cmp, v.map (· % 2 ^ (8 * m))⟩, ⟨pa + m, n - m, cmp, v.map (· / 2 ^ (8 * m))⟩]

/-- The parts of n bytes at each of the locations, by pages of global memory. -/
def pagesOf (n : Nat) (ls : List Loc) (vals : List Nat) : List (List PagePart) :=
  let ps := ls.zipIdx.flatMap (fun p => match p.1 with | .phys pa a => partsOf pa n a.cmp vals[p.2]? | _ => [])
  ((ps.map (·.pa / 4096)).eraseDups).map (fun q => ps.filter (fun p => p.pa / 4096 == q))

/-- Flits of the parts of a page: a whole block travels in its compression code, the one that it has at its home where it is read, the encoder's
where it is written through a CMP range (R143, R146). -/
def State.pageFlits (s : State) (write : Bool) (ps : List PagePart) : Nat :=
  let lines := ((ps.map (fun p => lineOf p.pa)).eraseDups).map (fun l => (l, ps.filter (fun p => lineOf p.pa == l)))
  let whole (p : Nat × List PagePart) : Bool :=
    ((p.2.map (fun q => (q.pa, q.len))).eraseDups).foldl (fun m q => m + q.2) 0 == 128 && (!write || p.2.all (fun q => q.cmp && q.val.isSome))
  let code (p : Nat × List PagePart) : BitVec 4 :=
    if write then bestCode (p.2.foldl (fun d q => spliceLine d (q.pa % 128) q.len (q.val.getD 0)) 0) else s.lineCode (lineOf (s.gleanPA (p.1 * 128)))
  let plain := (lines.filter (fun p => !whole p)).foldl (fun m p => m + p.2.foldl (fun k q => k + q.len) 0) 0
  (lines.filter whole).foldl (fun m p => m + dataFlits (codeBytes (code p))) (if plain = 0 then 0 else dataFlits plain)

/-- The way of a segment's bytes between the core and their homes (R31, R277): the first code that stops it, and whether every home was
reached all the same. -/
def State.pageTrips (s : State) (c n : Nat) (ls : List Loc) (write : Bool) (vals : List Nat := []) : State × Option (BitVec 8 × Nat) × Bool :=
  (pagesOf n ls vals).foldl (fun p q =>
    if p.2.1.isSome && !p.2.2 then p
    else
      let data := p.1.pageFlits write q
      let pa := (q.map (·.pa)).headD 0
      match p.1.reach (.core c) (siteOf c) (p.1.site (siteOf c)).part pa (if write then data else 1) (if write then 1 else data) with
      | (s, tr) => (s, p.2.1.or (tr.code.map (fun x => (x, pa))), p.2.2 && tr.reached)) (s, none, true)

/-- An access of a copy meets a code: the copy fails with it, or, where the answer was lost on its way, at the deadline (R44). -/
def State.accessFails (s : State) (c ch : Nat) (code : BitVec 8) (pa : Nat) : State :=
  if code == 0x25 then
    (s.modChan c ch (fun x => { x with outstanding := x.outstanding + 1 })).loseAccess (.core c) (siteOf c) (s.site (siteOf c)).part pa (.segment ch [] [])
  else s.copyFail c ch code.toNat pa

/-- A lost access of the channel's copy waits for its deadline. -/
def State.accessLost (s : State) (c ch : Nat) : Bool :=
  s.flights.any (fun f => f.src == .core c && f.st == .lost && (match f.body with | .segment h .. | .rma h .. => h == ch | _ => false))

/-- Writes n bytes at a location of the issuing core's side; a bypass of R142 is counted once for each element (log 54). -/
def State.writeLoc (s : State) (c n : Nat) (l : Loc) (v : Nat) : State :=
  match l with
  | .ls a => s.modCore c (fun k => { k with ls := memWrite k.ls a n v })
  | .phys pa attr =>
    let s := if (s.allocLine (lineOf (s.gleanPA pa)) attr.tensor).2 then s else s.count c 14
    s.homeWrite pa n v attr none
  | _ => s

/-- Reads every location, or answers the first failure. -/
def readAll (s : State) (c n : Nat) (ls : List Loc) (acc : List Nat) : List Nat ⊕ (BitVec 8 × Nat) :=
  match ls with
  | [] => .inl acc.reverse
  | l :: t => match s.readLoc c n l with
    | .inl v => readAll s c n t (v :: acc)
    | .inr e => .inr e

/-! ## Starting a segment (R277, R278, R280) -/

/-- Reads the present scale of QF8 once, before any element (R280): none while it waits or has failed. -/
def State.qfScale (s : State) (c ch : Nat) : State × Bool :=
  let x := s.chan c ch
  if x.op ≠ 2 ∨ x.scaleWord.isSome then (s, true)
  else match resolveAll c ch .copyR 4 [x.reg 6] s [] with
    | .inr (_, .wait s) => (s, false)
    | .inr (va, .fault s r) => (s.copyFault c ch 2 r va, false)
    | .inr (_, .loc s _) => (s, false)
    | .inl (s, ls) =>
      match ls with
      | .remote _ _ va :: _ => (s.copyFail c ch 0x46 va, false)
      | l :: _ =>
        match s.notEngine c (l.lsBytes 4) with
        | some a => (s.copyFail c ch 0x41 a, false)
        | none =>
          match s.pageTrips c 4 [l] false with
          | (s, some (code, pa), _) => (s.accessFails c ch code pa, false)
          | (s, none, _) => match s.readLoc c 4 l with
            | .inr (code, pa) => (s.copyFail c ch code.toNat pa, false)
            | .inl v => (s.modChan c ch (fun x => { x with scaleWord := some (BitVec.ofNat 32 v), srcPlots := x.srcPlots ++ (l.lsBytes 4).map plotOf }), true)
      | [] => (s, false)

/-- Cuts a REMOTE segment where the destination addresses stop being contiguous (R277). -/
def Channel.contiguous (x : Channel) (g n : Nat) : Nat :=
  1 + ((List.range (n - 1)).takeWhile (fun i => x.dstVA (g + i + 1) == x.dstVA (g + i) + wd x.es)).length

/-- Whether any location is REMOTE, with its address. -/
def remoteVA (ls : List Loc) : Option Nat := ls.findSome? (fun l => match l with | .remote _ _ va => some va | _ => none)

/-- What the destination of a segment resolves to. -/
def State.resolveDst (s : State) (c ch : Nat) (far : Option (BitVec 16)) (vas : List Word) : (State × List Loc) ⊕ (Word × ChTr) :=
  let x := s.chan c ch
  match far with
  | some nm => match resolveFar nm x.listed vas [] with
    | .inl ls => .inl (s, ls)
    | .inr (va, r) => .inr (va, .fault s r)
  | none =>
    if x.namesCore then (match resolveFar 0 x.listed vas [] with
      | .inl ls => .inl (s, ls.map (fun l => match l with | .far _ a => .ls a | l => l))
      | .inr (va, r) => .inr (va, .fault s r))
    else resolveAll c ch .copyW x.listed vas s []

/-- Ends the start of a segment that cannot go on: it waits, faults, or fails. -/
def stopStart (c ch side : Nat) (va : Word) (r : ChTr) : State :=
  match r with
  | .wait s => s
  | .fault s reason => s.copyFault c ch side reason va
  | .loc s _ => s

/-- Starts the next segment of a copy (R277). -/
def State.startSegment (s : State) (c ch : Nat) : State :=
  let (s, go) := s.qfScale c ch
  if !go then s
  else
    let x := s.chan c ch
    let g := x.next
    let n := x.runLen g
    match resolveAll c ch .copyR x.es ((List.range n).map (fun i => x.srcVA (g + i))) s [] with
    | .inr (va, r) => stopStart c ch 0 va r
    | .inl (s, srcs) =>
      let far := s.farName c x
      let dvas := if x.op = 3 then (List.range (4 * fmtWidth (ctlFmt (x.reg 0)))).map (fun i => x.dstVA g + wd i) else (List.range n).map (fun i => x.dstVA (g + i))
      match s.resolveDst c ch far dvas with
      | .inr (va, r) => stopStart c ch 1 va r
      | .inl (s, dsts) =>
        let sva := if x.op = 3 then [x.reg 6 + wd (g / 32)] else []
        match resolveAll c ch .copyW 1 sva s [] with
        | .inr (va, r) => stopStart c ch 2 va r
        | .inl (s, scs) =>
          let toRemote := remoteVA (if x.op = 3 then dsts else dsts.take 1)
          let mixed := match dsts, x.rmod with
            | .remote r _ va :: _, some q => if r = q then none else some va
            | .remote _ _ va :: _, none => if g = 0 then none else some va
            | l :: _, some _ => (match l with | .remote .. => none | _ => some (x.dstVA g).toNat)
            | _, _ => none
          let badOp := (remoteVA srcs).or ((remoteVA scs).or (if 2 ≤ x.op then toRemote else none))
          match badOp.or mixed with
          | some va => (if toRemote.isSome && g == 0 then s.remoteClass c ch else s).copyFail c ch 0x46 va
          | none =>
            let s := if toRemote.isSome then s.remoteClass c ch else s
            -- a copy to another module runs at system scope: its hold is taken again before its first segment (R297)
            if toRemote.isSome && x.scope != 4 && x.sysWaits.any (s.core c).outstanding then s.modChan c ch (fun x => { x with scope := 4, waits := x.sysWaits })
            else
            let n := if toRemote.isSome then min n (x.contiguous g n) else n
            let seg : Segment := { g := g, srcs := srcs.take n, dsts := if x.op = 3 then dsts else dsts.take n, scale := scs.head? }
            let own := seg.srcs.flatMap (Loc.lsBytes x.es) ++ seg.dsts.flatMap (Loc.lsBytes x.listed) ++ scs.flatMap (Loc.lsBytes 1)
            match s.notEngine c own with
            | some a => s.copyFail c ch 0x41 a
            | none =>
              let dp := (seg.dsts.flatMap (Loc.lsBytes x.listed)).map plotOf
              let sp := (seg.srcs.flatMap (Loc.lsBytes x.es) ++ scs.flatMap (Loc.lsBytes 1)).map plotOf
              let rm := match dsts with | .remote r _ _ :: _ => some r | _ => none
              let s := s.modCore c (fun k => k.usePlots true (seg.plots x.es x.listed))
              s.modChan c ch (fun x => { x with
                next := g + n
                started := x.started ++ [seg]
                srcPlots := (x.srcPlots ++ sp).eraseDups
                dstPlots := (x.dstPlots ++ dp).eraseDups
                rmod := rm.or x.rmod
                scope := if rm.isSome then 4 else x.scope
                walkOut := none
                rewalked := none })

/-- Whether a copy may start a segment now. -/
def State.mayStart (s : State) (c ch : Nat) : Bool :=
  let x := s.chan c ch
  x.st == .active && x.fail.isNone && !(s.core c).chanHeld x && x.next < x.total && !s.accessLost c ch

/-! ## Performing a segment (R279 to R283) -/

/-- Same storage, for the order of writes within a copy. -/
def Loc.hits (n : Nat) (a b : Loc) : Bool :=
  match a, b with
  | .ls x, .ls y => overlaps x n y n
  | .phys x _, .phys y _ => overlaps x n y n
  | .far m x, .far k y => m == k && overlaps x n y n
  | .remote m x _, .remote k y _ => m == k && overlaps x n y n
  | _, _ => false

/-- A later segment that writes bytes of an earlier one waits for it (R277). -/
def Channel.blockedBy (x : Channel) (i : Nat) (seg : Segment) : Bool :=
  (x.started.take i).any (fun e => e.dsts.any (fun a => seg.dsts.any (fun b => a.hits x.listed b)))

/-- A segment to another module waits for those of its copy on their way to the chiplet or there that write bytes of it (R277). -/
def State.chipHolds (s : State) (c ch : Nat) (x : Channel) (seg : Segment) : Bool :=
  let meets (m at_ n : Nat) : Bool := seg.dsts.any (fun l => match l with | .remote r pa _ => r == m && overlaps at_ n pa x.listed | _ => false)
  s.chips.any (fun p => p.2.peers.any (fun q => q.2.segs.any (fun e => e.core == c && e.ch == ch && meets q.1 e.pa e.bytes.length))) ||
    s.flights.any (fun f => f.src == .core c && !f.dead && (match f.body with | .rma h m _ pa bytes => h == ch && meets m pa bytes.length | _ => false))

/-- What a segment writes: destination values in the order of its locations, scale byte, NaN met, clamped. -/
structure SegOut where
  vals : List Nat
  scale : Nat
  nan : Bool
  sat : Bool
  deriving DecidableEq, Repr

/-- The operation on the source elements of a segment (R279 to R282). -/
def Channel.compute (x : Channel) (g : Nat) (xs : List Nat) : SegOut :=
  let ctl := x.reg 0
  let mode := rmOf (ctlRm ctl)
  let draw (i : Nat) : Nat := copyDraw x.capSeed x.capCtr (g + i)
  match x.op with
  | 2 =>
    let sc := (x.scaleWord.getD 0).toNat
    let ps := xs.map (fun v => (fMul fp32 v sc).1)
    let ys := ps.zipIdx.map (fun p => convert 0 (ctlFmt ctl) p.1 mode (ctl.getLsbD 52) (draw p.2))
    { vals := ys.map (·.1), scale := 0, nan := xs.any isNan32 || ps.any isNan32, sat := flagsOf ys / fSAT % 2 == 1 }
  | 3 =>
    let w := fmtWidth (ctlFmt ctl)
    let (sc, es, fl) := quantise (ctlFmt ctl) xs mode draw
    { vals := (bytesOf (4 * w) (packElems w es)).map BitVec.toNat, scale := sc, nan := xs.any isNan32, sat := fl / fSAT % 2 == 1 }
  | _ => { vals := xs, scale := 0, nan := false, sat := false }

/-- The bytes of a segment for another core or module, and for REDADD its addends. -/
def farBytes (n : Nat) (ds : List (Loc × Nat)) : List (Nat × Byte) :=
  ds.flatMap (fun p => match p.1 with | .far _ a | .ls a => placeAt a (bytesOf n p.2) | .remote _ pa _ => placeAt pa (bytesOf n p.2) | _ => [])

def farAdds (ds : List (Loc × Nat)) : List (Nat × BitVec 32) :=
  ds.map (fun p => ((match p.1 with | .far _ a | .ls a => a | .remote _ pa _ => pa | _ => 0), BitVec.ofNat 32 p.2))

/-- Whether an element of the copy that is still to be handed on writes bytes of an aligned 8-byte unit of a local store (R169). -/
def Channel.unitLater (x : Channel) (u : Nat) : Bool :=
  let w := if x.op = 3 then 4 * fmtWidth (ctlFmt (x.reg 0)) else 1
  x.started.any (fun g => g.dsts.any (fun l => match l with | .far _ a | .ls a => a / 8 == u | _ => false)) ||
    (x.fail.isNone && x.st != .cancelling && (List.range (x.total - x.next)).any (fun i =>
      let a := (x.dstVA (x.next + i)).toNat
      a / 8 ≤ u && u ≤ (a + w - 1) / 8))

/-- Whether a scale byte of MXQ that is still to be handed on lies in an aligned 8-byte unit of the own local store. -/
def Channel.scaleLater (x : Channel) (u : Nat) : Bool :=
  x.op == 3 && (x.started.any (fun g => match g.scale with | some (.ls a) => a / 8 == u | _ => false) ||
    (x.fail.isNone && x.st != .cancelling && (List.range ((x.total - x.next) / 32)).any (fun i => (x.reg 6 + wd (x.next / 32 + i)).toNat / 8 == u)))

/-- Units of bytes and addends that later elements complete. -/
def Channel.laterUnits (x : Channel) (bytes : List (Nat × Byte)) (adds : List (Nat × BitVec 32)) : List Nat :=
  let us : List Nat := bytes.map (fun b => b.1 / 8) ++ adds.map (fun b => b.1 / 8)
  us.eraseDups.filter x.unitLater

/-- Units of scale bytes, and of bytes for the own local store, that later elements or scale bytes of MXQ complete. -/
def Channel.laterOwn (x : Channel) (own : Bool) (bytes : List (Nat × Byte)) (adds : List (Nat × BitVec 32)) : List Nat :=
  let us : List Nat := bytes.map (fun b => b.1 / 8) ++ adds.map (fun b => b.1 / 8)
  us.eraseDups.filter (fun u => x.scaleLater u || (own && x.unitLater u))

/-- Whether a location is one of a local store. -/
def Loc.near (l : Loc) : Bool := match l with | .ls _ | .far .. => true | _ => false

/-- The core that a segment's bytes for a local store go to: none for the own one. -/
def Segment.farTo (g : Segment) : Option (BitVec 16) := g.dsts.findSome? (fun l => match l with | .far nm _ => some nm | _ => none)

/-- Adds FP32 addends to local store (R279). -/
def addAll (m : Memory) (l : List (Nat × BitVec 32)) : Memory := l.foldl (fun m p => memWrite m p.1 4 (fAdd fp32 (memRead m p.1 4) p.2.toNat).1) m

/-- Bytes and addends for a local store leave the channel: into the core's own, or as a segment to another core. -/
def State.sendUnits (s : State) (c ch : Nat) (to_ : Option (BitVec 16)) (bytes : List (Nat × Byte)) (adds : List (Nat × BitVec 32)) : State :=
  if bytes.isEmpty && adds.isEmpty then s
  else match to_ with
    | none =>
      let n := bytes.length + 4 * adds.length
      (s.modChan c ch (fun y => { y with bytes := y.bytes + n })).modCore c (fun k => { (k.count 20 none n) with ls := addAll (memPuts k.ls bytes) adds })
    | some nm =>
      let plots := (bytes.map (fun b => (nm.toNat, plotOf b.1))) ++ adds.flatMap (fun p => (span p.1 4).map (fun b => (nm.toNat, plotOf b)))
      let s := s.modChan c ch (fun y => { y with outstanding := y.outstanding + 1, farPlots := (y.farPlots ++ plots).eraseDups })
      s.inject .request (.core c) (siteOf c) (s.site (siteOf c)).part (.name nm) (.segment ch bytes adds)

/-- The network chiplet that carries a peer: the one whose own entry is valid and names it as port (R298, R299). -/
def State.chipFor (s : State) (rmod : Nat) : Option Nat :=
  (List.range 24).find? (fun n => match nget (s.chip n).peers rmod with
    | some p => p.ctl.getLsbD 63 && wf p.ctl 58 5 == n
    | none => false)

/-- Counts bytes that a copy has written. -/
def State.countBytes (s : State) (c ch k : Nat) : State := (s.modChan c ch (fun y => { y with bytes := y.bytes + k })).modCore c (fun q => q.count 20 none k)

/-- The values of a segment at their homes: a reduce-add reads and writes each element there in one step (R279, R281). -/
def State.deliverHomes (s : State) (c ch : Nat) (x : Channel) (seg : Segment) (o : SegOut) : State :=
  let n := x.listed
  let ds := (seg.dsts.zip o.vals).filter (fun p => match p.1 with | .phys .. => true | _ => false)
  let s := ds.foldl (fun s p =>
    let v := if x.op = 1 then (match s.readLoc c 4 p.1 with | .inl old => (fAdd fp32 old p.2).1 | .inr _ => p.2) else p.2
    s.writeLoc c n p.1 v) s
  match seg.scale with
  | some (.phys pa a) => (s.writeLoc c 1 (.phys pa a) o.scale).countBytes c ch (n * ds.length + 1)
  | _ => s.countBytes c ch (n * ds.length)

/-- The values of a segment for a local store: the bytes whose 8-byte unit later elements complete wait for them with the channel, so that each unit
is written whole (R169; log 18). -/
def State.deliverUnits (s : State) (c ch : Nat) (x : Channel) (seg : Segment) (o : SegOut) : State :=
  let near := (seg.dsts.zip o.vals).filter (fun p => p.1.near)
  let to_ := seg.farTo
  let y := s.chan c ch
  let bytes := y.edge ++ (if x.op = 1 then [] else farBytes x.listed near)
  let adds := y.edgeAdds ++ (if x.op = 1 then farAdds near else [])
  let scales := y.edgeScale ++ (match seg.scale with | some (.ls a) => placeAt a (bytesOf 1 o.scale) | _ => [])
  let later := if to_.isNone then y.laterOwn true bytes adds else y.laterUnits bytes adds
  let laterS := y.laterOwn to_.isNone scales []
  let s := s.modChan c ch (fun y => { y with
    edge := bytes.filter (fun b => later.contains (b.1 / 8))
    edgeAdds := adds.filter (fun b => later.contains (b.1 / 8))
    edgeScale := scales.filter (fun b => laterS.contains (b.1 / 8))
    edgeTo := to_ })
  (s.sendUnits c ch to_ (bytes.filter (fun b => !later.contains (b.1 / 8))) (adds.filter (fun b => !later.contains (b.1 / 8)))).sendUnits c ch none
    (scales.filter (fun b => !laterS.contains (b.1 / 8))) []

/-- Hands the values of a segment on: to the homes and the local store that they are for, or to the network chiplet that carries its peer, as a packet
of the request class (R29, R299). -/
def State.deliverSegment (s : State) (c ch : Nat) (x : Channel) (seg : Segment) (o : SegOut) : State :=
  match seg.dsts with
  | .remote r pa _ :: _ =>
    (match s.chipFor r with
      | none => s.copyFail c ch 0x45 pa
      | some chip =>
        (s.modChan c ch (fun y => { y with outstanding := y.outstanding + 1 })).inject .request (.core c) (siteOf c) (s.site (siteOf c)).part
          (.name (edgeName (chip / 6) (chip % 6))) (.rma ch r (x.op == 1) pa ((farBytes x.listed (seg.dsts.zip o.vals)).map (·.2))))
  | _ => (s.deliverHomes c ch x seg o).deliverUnits c ch x seg o

/-- A network chiplet takes a segment that has come to it, behind those that wait there (R299). -/
def State.chipTakes (s : State) (f : Flight) (ch r : Nat) (red : Bool) (pa : Nat) (bytes : List Byte) : State :=
  match f.dest with
  | .name nm =>
    (match edgeOfName (nm.extractLsb' 4 12).toNat with
      | some (side, k) =>
        let q : RmaSeg := { core := match f.src with | .core c => c | _ => 0, ch := ch, from_ := { f with body := .segAns ch 0 none }, red := red, pa := pa, bytes := bytes,
                            seq := none, sends := 0, nacked := false, acked := false }
        s.modChip (6 * side + k) (fun x => { x with peers := nput x.peers r (let p := (nget x.peers r).getD Peer.reset; { p with segs := p.segs ++ [q] }) })
      | none => s)
  | _ => s

/-- Performs a started segment (R277, R279 to R283). -/
def State.performSegment (s : State) (c ch i : Nat) (deliver : State → Channel → Segment → SegOut → State) : State :=
  let x := s.chan c ch
  match x.started[i]? with
  | none => s
  | some seg =>
    if x.blockedBy i seg || s.chipHolds c ch x seg then s
    else
      let s := (s.modChan c ch (fun y => { y with started := y.started.eraseIdx i })).modCore c (fun k => k.usePlots false (seg.plots x.es x.listed))
      match s.pageTrips c x.es seg.srcs false with
      | (s, some (code, pa), _) => s.accessFails c ch code pa
      | (s, none, _) =>
      match readAll s c x.es seg.srcs [] with
      | .inr (code, pa) => s.copyFail c ch code.toNat pa
      | .inl xs =>
        let o := x.compute seg.g xs
        match s.pageTrips c x.listed (seg.dsts ++ seg.scale.toList) true (if x.op = 1 then [] else o.vals) with
        | (s, some (code, pa), false) => s.accessFails c ch code pa
        | (s, stopped, _) =>
          match (seg.dsts ++ seg.scale.toList).findSome? (s.writeFault x.listed) with
          | some (code, pa) => s.copyFail c ch code.toNat pa
          | none =>
            let amax := (xs.filter isFin32).foldl (fun m v => max m (magOf v)) x.amax.toNat
            let s := s.modChan c ch (fun y => { y with
              nanSeen := y.nanSeen || o.nan
              satSeen := y.satSeen || o.sat
              amax := if x.op = 2 ∨ x.op = 3 then BitVec.ofNat 32 amax else y.amax })
            let s := deliver s x seg o
            match stopped with
            | some (code, pa) => s.accessFails c ch code pa
            | none => s

/-- A copy event: past the started segments the next one starts, else the one named is performed. -/
def State.copyEvent (s : State) (op c ch i : Nat) : State :=
  let x := s.chan c ch
  if x.st == .idle || x.op != op then s
  else if i < x.started.length then s.performSegment c ch i (fun s x seg o => s.deliverSegment c ch x seg o)
  else if s.mayStart c ch then s.startSegment c ch
  else s

/-- COPY (R279). -/
def execCopy (core ch seg : Nat) (s : State) : Out := .next (s.copyEvent 0 core ch seg)

/-- REDADD (R279). -/
def execRedadd (core ch seg : Nat) (s : State) : Out := .next (s.copyEvent 1 core ch seg)

/-- QF8 (R280). -/
def execQf8 (core ch seg : Nat) (s : State) : Out := .next (s.copyEvent 2 core ch seg)

/-- MXQ (R281). -/
def execMxq (core ch seg : Nat) (s : State) : Out := .next (s.copyEvent 3 core ch seg)

/-! ## Endings (R283 to R287) -/

/-- Status word of an ending (R284). -/
def Channel.statusWord (x : Channel) (st : Nat) : Word :=
  wd (st * 2 ^ 56 + x.resumedSide.toNat * 2 ^ 54 + x.resumedReason.toNat * 2 ^ 48 + (if x.nanSeen then 2 ^ 47 else 0) +
    (if x.satSeen then 2 ^ 46 else 0) + (if x.skipped then 2 ^ 45 else 0) + x.bytes % 2 ^ 40)

/-- The amax fold (R283): none when it waits, faults or fails. -/
def State.amaxFold (s : State) (c ch : Nat) : State × Bool :=
  let x := s.chan c ch
  if !((x.op == 2 || x.op == 3) && (x.reg 0).getLsbD 43) || x.total == 0 || x.amaxDone then (s, true)
  else
    let va := x.reg 7
    let fault (r : ChTr) : State × Bool := (stopStart c ch 3 va r, false)
    match resolveAll c ch .copyR 4 [va] s [] with
    | .inr (_, r) => fault r
    | .inl (s, _) =>
      match resolveAll c ch .copyW 4 [va] s [] with
      | .inr (_, r) => fault r
      | .inl (s, ls) =>
        match ls with
        | .remote _ _ va :: _ => (s.copyFail c ch 0x46 va, false)
        | l :: _ =>
          match s.notEngine c (l.lsBytes 4) with
          | some a => (s.copyFail c ch 0x41 a, false)
          | none =>
            match s.pageTrips c 4 [l] true with
            | (s, some (code, pa), _) => (s.accessFails c ch code pa, false)
            | (s, none, _) => match s.readLoc c 4 l with
            | .inr (code, pa) => (s.copyFail c ch code.toNat pa, false)
            | .inl old =>
              let s := s.writeLoc c 4 l (max old x.amax.toNat)
              (s.modChan c ch (fun x => { x with amaxDone := true, srcPlots := (x.srcPlots ++ (l.lsBytes 4).map plotOf).eraseDups, walkOut := none, rewalked := none }), true)
        | [] => (s, false)

/-- Plots that flip at an OK ending: of the issuing core and of other cores (R278). A multicast's receivers flip their own; where the sender is
one of them, its destination plots are no source plots to return. -/
def Channel.flips (x : Channel) (c : Nat) : List Nat × List (Nat × Nat) :=
  let ctl := x.reg 0
  let dst := if x.op == 4 then (if x.receivers.any (fun r => r.core == c) then x.farPlots.map (·.2) else []) else x.dstPlots
  ((if ctl.getLsbD 42 then x.srcPlots.filter (fun p => !dst.contains p) else []) ++ (if ctl.getLsbD 41 && x.op != 4 then x.dstPlots else []),
   if ctl.getLsbD 41 && x.op != 4 then x.farPlots else [])

/-- A plot of the issuing core that is to be flipped is still used by another copy or an inbound segment (R278). -/
def State.flipsWait (s : State) (c : Nat) (x : Channel) : Bool := (x.flips c).1.any (s.plotInUse c)

/-- Returns plots to THREAD (R278). -/
def Core.toThread (k : Core) (ps : List Nat) : Core := { k with owners := ps.foldl (fun m p => nput m p false) k.owners }

def State.flipPlots (s : State) (c : Nat) (x : Channel) : State := s.modCore c (fun k => k.toThread (x.flips c).1)

/-- Plots of other cores that are still to be flipped. -/
def Channel.farFlips (x : Channel) (c : Nat) : List (Nat × Nat) := if x.flipSent then [] else (x.flips c).2

/-- The flips of plots of other cores are sent there, each core's in one packet; it answers when it has made them (R278; log 18). -/
def State.sendFlips (s : State) (c ch : Nat) (far : List (Nat × Nat)) : State :=
  let names := (far.map (·.1)).eraseDups
  let s := s.modChan c ch (fun x => { x with flipSent := true, outstanding := x.outstanding + names.length })
  names.foldl (fun s nm => s.inject .request (.core c) (siteOf c) (s.site (siteOf c)).part (.name (BitVec.ofNat 16 nm)) (.flip ch ((far.filter (·.1 == nm)).map (·.2)))) s

/-- The barrier event of an ending (R285): made at once at the own core, with no more to wait for; sent to another core, where the packet's way and
end decide whether it is lost. -/
def State.sendEvent (s : State) (c ch : Nat) : State × Bool :=
  let x := s.chan c ch
  let bar := x.reg 3
  let b := wf bar 16 6
  let name : BitVec 16 := BitVec.ofNat 16 (wf bar 0 16)
  let n := (x.bytes + 31) / 32
  if !bar.getLsbD 63 || x.op == 4 then (s, true)
  else if name == 0xFFFF || name == s.coreName c then (s.barEvent c b 1 (BitVec.ofNat 32 n), true)
  else ((s.modChan c ch (fun y => { y with evSent := true })).inject .request (.core c) (siteOf c) (s.site (siteOf c)).part (.name name)
    (.barEvent ch x.serial (BitVec.ofNat 6 b) 1 n), false)

/-- The barrier event of a channel's copy is on its way: whether the named core can be reached is still open (R285). -/
def State.eventFlies (s : State) (c ch : Nat) : Bool :=
  let x := s.chan c ch
  s.flights.any (fun f => f.src == .core c && !f.dead && f.st != .arrived && (match f.body with | .barEvent h serial .. => h == ch && serial == x.serial | _ => false))

/-- A copy's barrier event is lost on its way: the future of the copy, while it ends, is poisoned with the code (R285). -/
def State.eventFails (s : State) (c ch serial : Nat) (code : BitVec 8) (detail : Nat) : State :=
  s.modChan c ch (fun x => if x.serial == serial && x.evSent then { x with evFail := x.evFail.or (some (code, BitVec.ofNat 48 detail)) } else x)

/-- Fills or poisons the future and leaves the channel IDLE (R284 step 5); a fill of region scope or wider drops the remote lines (R160). -/
def State.endCopy (s : State) (c ch : Nat) (st : Nat) (fail : Option (BitVec 8 × BitVec 48)) : State :=
  let x := s.chan c ch
  let s := if 2 ≤ x.scope then s.dropRemote c else s
  let s := match fail with
    | some (code, detail) => s.poisonNow c x.claim (descriptor x.cls.toNat code.toNat detail.toNat)
    | none => s.fillNow c x.claim (x.statusWord st)
  s.modChan c ch (fun x => { x with st := .idle, claim := none, started := [], receivers := [], edge := [], edgeAdds := [], edgeScale := [], evSent := false, evFail := none, waits := [], walkWait := none, walkOut := none, rewalked := none })

/-- Whether every write of the copy has been performed (R284, R295). -/
def Channel.written (x : Channel) : Bool := x.next == x.total && x.started.isEmpty && x.outstanding == 0

/-! ## Cancellation and commands (R294, R295) -/

/-- CPCANCEL (R295). -/
def execCpcancel (ch : BitVec 2) (s : State) : Out :=
  issue { instr := .cpcancel ch, roles := s.chanOpen ch.toNat } (fun s =>
    .done (s.modChan s.curCore ch.toNat (fun x => match x.st with
      | .idle | .cancelling => x
      | _ => if x.fail.isSome || x.written || x.flipSent || (x.op == 4 && x.mcSent) then x else { x with st := .cancelling }))) s

/-- A handler's command to a channel (R294): 1 resumes, 2 aborts; a channel that is not FAULTED ignores it. -/
def State.chanCommand (s : State) (c ch : Nat) (cmd : Nat) : State :=
  let x := s.chan c ch
  if x.st != .faulted then s
  else match cmd with
    | 1 =>
      let s := s.modChan c ch (fun x => { x with st := .active, resumedSide := x.side, resumedReason := x.reason, walkOut := none, rewalked := none, walkWait := none })
      if vaOk x.faddr && !isWindow x.faddr && !isLocal x.faddr then
        let (s, id) := s.startWalk c x.faddr (s.core c).rdir (.channel ch) false
        s.modChan c ch (fun x => { x with walkWait := some id })
      else s
    | 2 => (s.modChan c ch (fun x => { x with st := .active })).copyFail c ch 0x40 x.faddr.toNat
    | _ => s

/-! ## Segments at another core (R278, R291) -/

/-- Latches an inbound refusal and counts it (R291). -/
def Core.refuseInbound (k : Core) (code : Nat) (source : BitVec 16) (addr : Nat) : Core :=
  let k := k.count 22 none 1
  if k.inlog.getLsbD 63 then { k with inlog := k.inlog ||| 0x4000000000000000 }
  else { k with inlog := wd (2 ^ 63 + (if k.inlog.getLsbD 62 then 2 ^ 62 else 0) + code * 2 ^ 48 + source.toNat * 2 ^ 32 + addr % 2 ^ 20) }

/-- The answer of a unit that may have waited: its own way back has the whole time of R44. -/
def State.answerLate (s : State) (f : Flight) (body : Body) : State := s.answer { f with left := (s.core f.src.clock).cycle } body

/-- Plots that another copy's ending is to flip return to THREAD once they are in no use (R278). -/
def State.takeFlip (s : State) (fid : Nat) : State :=
  match s.arrivedPacket fid with
  | some f =>
    match f.body with
    | .flip ch ps =>
      if ps.any (s.plotInUse f.destCore) then s
      else s.withPacket fid (fun f s => (s.modCore f.destCore (fun k => k.toThread ps)).answerLate f (.segAns ch 0 none))
    | _ => s
  | none => s

/-- A segment addressed by name arrives (R278): written if every plot is ENGINE-owned, else refused and logged; the flips of an ending are made. -/
def execInboundSegment (fid : Nat) (s : State) : Out :=
  .next (match s.arrivedBody fid with
    | some (.segment ..) => s.withPacket fid (fun f s =>
        match f.body with
        | .segment ch bytes red =>
          let d := f.destCore
          match s.notEngine d (bytes.map (·.1) ++ red.flatMap (fun p => span p.1 4)) with
          | some a =>
            let s := s.modCore d (fun k => k.refuseInbound 0x42 f.srcName a)
            s.answer f (.segAns ch 0 (some (0x42, BitVec.ofNat 48 ((s.coreName d).toNat * 2 ^ 32 + a % 2 ^ 20))))
          | none =>
            let s := s.modCore d (fun k => { k with ls := addAll (memPuts k.ls bytes) red })
            s.answer f (.segAns ch (bytes.length + 4 * red.length) none)
        | _ => s)
    | some (.flip ..) => s.takeFlip fid
    | _ => s)

/-- The answer of a segment reaches the issuing core. -/
def State.takeSegAns (s : State) (c ch n : Nat) (fail : Option (BitVec 8 × BitVec 48)) : State :=
  let s := (s.modChan c ch (fun x => { x with outstanding := x.outstanding - 1, bytes := x.bytes + n })).modCore c (fun k => k.count 20 none n)
  match fail with
  | some (code, d) => s.copyFail c ch code.toNat d.toNat
  | none => s

/-- A copy's barrier event arrives at the named core (R285). -/
def execRemoteBarrierEvent (fid : Nat) (s : State) : Out :=
  .next (match s.arrivedBody fid with
    | some (.barEvent ..) => s.withPacket fid (fun f s =>
        match f.body with
        | .barEvent _ _ bar a n => s.barEvent f.destCore bar.toNat a (BitVec.ofNat 32 n)
        | _ => s)
    | _ => s)

end Sys2Proof.Machine
end

