-- ==== Sys2Proof/Machine/Tasks.lean ====
section
/-! DEFINITION. Task records, messages, mailboxes, the pound, speculation and timers (R312, R313, R316 to R328, R331). -/

namespace Sys2Proof.Machine

/-! ## Records (R312, R313) -/

def recRole (w0 : Word) : Nat := wf w0 51 3
def recPrio (w0 : Word) : Nat := wf w0 48 2
def recTag (w1 : Word) : BitVec 32 := w1.extractLsb' 16 32
def recOrigin (w1 : Word) : BitVec 16 := w1.setWidth 16

/-- A record that software may not supply (R312). -/
def malformedRec (w0 w1 : Word) : Bool := wf w0 54 10 != 0 || 5 ≤ recRole w0 || wf w1 48 16 != 0

def inboxAddr (i : Nat) : Nat := 0xFE000 + 0x40 * i
def mailAddr (slot k : Nat) : Nat := 0xFC000 + 0x100 * slot + 0x40 * k
def poundAddr (i : Nat) : Nat := 0xFD000 + 0x40 * i
def dequeAddr (p e : Nat) : Nat := 0xF0000 + 0x3000 * p + 48 * e

/-- n dwords of local store. -/
def lsWords (m : Memory) (a n : Nat) : List Word := (List.range n).map (fun i => wd (memRead m (a + 8 * i) 8))
/-- Writes dwords into local store. -/
def putWords (m : Memory) (a : Nat) (ws : List Word) : Memory := ws.zipIdx.foldl (fun m p => memWrite m (a + 8 * p.2) 8 p.1.toNat) m

def Core.deque (k : Core) (p : Nat) : List TaskRec := (nget k.deques p).getD []

/-- Room reserved in a deque by YIELDs that have not captured yet (R321). -/
def Core.yieldsTo (k : Core) (p : Nat) : Nat := (k.saves.filter (fun x => x.yieldPrio == some p)).length

/-- Pushes a record on top of a deque: the first two dwords in the unit's own storage, the payload in local store (R313). -/
def Core.pushDeque (k : Core) (p : Nat) (r : TaskRec) (payload : List Word) : Core :=
  let i := (nget k.dequeTop p).getD 0
  { k with deques := nput k.deques p (r :: k.deque p)
           dequeTop := nput k.dequeTop p ((i + 1) % 256)
           ls := putWords k.ls (dequeAddr p i) payload }

/-- Ring index of the record at a depth below the top of a deque. -/
def Core.ringIndex (k : Core) (p depth : Nat) : Nat := ((nget k.dequeTop p).getD 0 + 255 - depth) % 256

/-- All eight dwords of the record at a depth of a deque. -/
def Core.dequeWords (k : Core) (p depth : Nat) : List Word :=
  match (k.deque p)[depth]? with
  | some r => r.dwords ++ lsWords k.ls (dequeAddr p (k.ringIndex p depth)) 6
  | none => []

/-- A free inbox record: the lowest, which R320 and R329 leave open (log 58). -/
def Core.inboxFree (k : Core) : Option Nat := (List.range 16).find? (fun i => (nget k.inbox i).isNone && !k.inboxReserved.contains i)

/-- Stores a record in the inbox, where it is never stealable (R320, R329). -/
def Core.putInbox (k : Core) (i : Nat) (ws : List Word) : Core :=
  { k with inbox := nput k.inbox i { dwords := [], entered := k.cycle, stealable := false, resume := none }
           inboxOrder := k.inboxOrder ++ [i]
           inboxReserved := k.inboxReserved.filter (· != i)
           ls := putWords k.ls (inboxAddr i) ws }

/-- Checks on a record's address, then its 64 bytes (R316). -/
def withRecord (s : State) (a : Word) (k : State → List Word → Act) : Act :=
  if 0xFFFC0 < a.toNat then .trap s 5 a
  else if a.toNat % 64 ≠ 0 then .trap s 4 a
  else localAccess s false (span a.toNat 64) (k s (lsWords s.here.ls a.toNat 8))

/-! ## SPAWN and DONE (R318, R319) -/

/-- SPAWN (R318). -/
def execSpawn (rs1 rd : BitVec 5) (s : State) : Out :=
  issue { instr := .spawn rs1 rd, roles := notT, regs := [sx rs1, dx rd] } (fun s =>
    withRecord s (s.xv rs1) fun s ws =>
      withClaim s .x rd.toNat 6 false fun s claim =>
        let c := s.curCore
        let w0 := ws.getD 0 0
        let w1 := ws.getD 1 0
        let p := recPrio w0
        let name := s.coreName c
        if !s.tasksOn c then .done (s.fillNow c claim (sendStatus 2 0 0))
        else if malformedRec w0 w1 then .done (s.fillNow c claim (sendStatus 3 0 0))
        else
          let n := (s.here.deque p).length
          if 256 ≤ n + s.here.yieldsTo p then .done (s.fillNow c claim (sendStatus 1 (BitVec.ofNat 16 n) 0))
          else
            let w1 := setField w1 0 16 name.toNat
            let r : TaskRec := { dwords := [w0, w1], entered := s.here.cycle, stealable := w0.getLsbD 50, resume := none }
            let s := s.modHere (fun k => k.pushDeque p r (ws.drop 2))
            let s := s.stampRec c 1 0 p false (recTag w1).toNat name.toNat
            .done (s.fillNow c claim (sendStatus 0 (BitVec.ofNat 16 (n + 1)) 0))) s

/-- The end of a slot's work, with its stamp and trace record; its locks are freed and its speculation dropped at once (R212, R319, R327, R332, R376). -/
def State.finishSlot (s : State) (c n : Nat) : State :=
  let t := s.slot c n
  let s := (s.modCore c (fun k => k.freeLocks n)).dropSpec c n
  let s := s.stampRec c 3 n (t.prio.getD 0) t.viaInbox (wf t.tag 0 32) t.origin.toNat
  let s := (s.trace c n 7 0 t.pc (t.tag &&& 0xFFFFFFFF)).endResv c n
  match (s.core c).array with
  | some a => if a.slot = n then s.modSlot c n (fun t => { t with doneWait := true }) else s.becomeEmpty c n
  | none => s.becomeEmpty c n

/-- DONE (R319): the slot becomes EMPTY, or when its MDOT completes. -/
def execDone (s : State) : Out :=
  issue { instr := .done, roles := fun r => r != .none } (fun s => .done (s.finishSlot s.curCore s.curSlot)) s

/-! ## SEND and SENDT (R320, R323, R327) -/

/-- Sends a record or a tagged message by name; to the own name it is handled without leaving the core (R320). -/
def State.sendMsg (s : State) (c slot : Nat) (h : HeldMsg) : State :=
  let me := s.coreName c
  let site := siteOf c
  let now := (s.core c).cycle
  let body : Body := if h.tagged then .sendt h.claim slot h.tag me h.dwords else .send h.claim slot h.dwords
  if h.name == me then
    let f : Flight := { fid := s.nextId, cls := .request, src := .core c, srcSite := site, srcName := me, part := (s.site site).part, dest := .name me, dsite := site, via := none,
                        phase := false, pos := site, yx := false, retry := false, st := .arrived, issued := now, left := now, detail := me.toNat, dead := false, arr := s.nextId,
                        arrAt := now, body := body }
    { s.bump with flights := s.flights ++ [f] }
  else s.inject .request (.core c) site (s.site site).part (.name h.name) body

/-- Sends a message or captures it into an open speculation (R327). -/
def State.sendOrHold (s : State) (h : HeldMsg) : State :=
  let c := s.curCore
  if s.me.specOpen then
    if 32 ≤ s.me.hold.length then s.fillNext c h.claim (sendStatus 6 h.name (if h.tagged then h.tag else 0))
    else s.modMe (fun t => { t with hold := t.hold ++ [h] })
  else s.sendMsg c s.curSlot h

/-- SEND (R320). -/
def execSend (rs2 rs1 rd : BitVec 5) (s : State) : Out :=
  issue { instr := .send rs2 rs1 rd, roles := notT, regs := [sx rs1, sx rs2, dx rd] } (fun s =>
    withRecord s (s.xv rs2) fun s ws =>
      let dst : BitVec 16 := (s.xv rs1).setWidth 16
      withClaim s .x rd.toNat 6 false fun s claim =>
        if malformedRec (ws.getD 0 0) (ws.getD 1 0) then .done (s.fillNext s.curCore claim (sendStatus 3 dst 0))
        else
          let w1 := setField (ws.getD 1 0) 0 16 (s.coreName s.curCore).toNat
          .done (s.sendOrHold { tagged := false, name := dst, tag := 0, claim := claim, dwords := ws.set 1 w1 })) s

/-- SENDT (R323). -/
def execSendt (rs2 rs1 rd : BitVec 5) (s : State) : Out :=
  issue { instr := .sendt rs2 rs1 rd, roles := notT, regs := [sx rs1, sx rs2, dx rd] } (fun s =>
    withRecord s (s.xv rs2) fun s ws =>
      let a := s.xv rs1
      withClaim s .x rd.toNat 6 false fun s claim =>
        .done (s.sendOrHold { tagged := true, name := a.setWidth 16, tag := a.extractLsb' 16 32, claim := claim, dwords := ws.drop 1 })) s

/-- SPECB (R327). -/
def execSpecb (s : State) : Out :=
  issue { instr := .specb, roles := notT } (fun s => .done (s.modMe (fun t => { t with specOpen := true }))) s

/-- SPECC (R327): the held messages are sent in issue order. -/
def execSpecc (s : State) : Out :=
  issue { instr := .specc, roles := notT } (fun s =>
    let c := s.curCore
    let n := s.curSlot
    let s' := s.me.hold.foldl (fun s h => s.sendMsg c n h) s
    .done (s'.modMe (fun t => { t with hold := [], specOpen := false }))) s

/-- SPECA (R327). -/
def execSpeca (s : State) : Out :=
  issue { instr := .speca, roles := notT } (fun s => .done (s.dropSpec s.curCore s.curSlot)) s

/-! ## Landings (R320, R323 to R326, R331) -/

/-- The lowest FREE mailbox entry of four. -/
def freeEntry (m : NMap MailState) : Option Nat := (List.range 4).find? (fun k => (nget m k).getD .free == .free)

/-- Dword 0 of a landed entry (R313). -/
def entryWord (tag : BitVec 32) (origin : BitVec 16) : Word := wd (tag.toNat * 2 ^ 16 + origin.toNat)

/-- A message lands in the pound: lowest entry that is not valid; with all 64 valid it is LOST (R326). Answers its status. -/
def State.toPound (s : State) (c : Nat) (tag : BitVec 32) (origin : BitVec 16) (ws : List Word) : State × Nat :=
  match (List.range 64).find? (fun i => !(memGet (s.core c).ls (poundAddr i + 7)).getLsbD 7) with
  | some i =>
    let s := s.modCore c (fun k => { k with ls := putWords k.ls (poundAddr i) ((entryWord tag origin ||| 0x8000000000000000) :: ws) })
    match s.launchOf c with
    | some l => (if l.pqen then (s.queuePush c l.pq (wd (poundAddr i))).getD s else s, 4)
    | none => (s, 4)
  | none =>
    (s.modCore c (fun k =>
      let k := k.count 25 none 1
      { k with poundReg := if k.poundReg.getLsbD 63 then k.poundReg ||| 0x4000000000000000
                           else wd (2 ^ 63 + (if k.poundReg.getLsbD 62 then 2 ^ 62 else 0) + origin.toNat * 2 ^ 32 + tag.toNat) }), 7)

/-- A message lands in a slot's mailbox: HELD, or TAKEN by a waiting RECVF claim, which fills in the next cycle (R323, R324). A claim that
FDROP or MVF dropped in this very cycle had taken the message before (R331). -/
def State.toMailbox (s : State) (c n : Nat) (tag : BitVec 32) (origin : BitVec 16) (ws : List Word) : State × Nat :=
  match freeEntry (s.slot c n).mail with
  | none => (s, 1)
  | some k =>
    let s := s.modCore c (fun x => { x with ls := putWords x.ls (mailAddr n k) (entryWord tag origin :: ws) })
    match (s.slot c n).recvClaim.filter (fun _ => (s.slot c n).mailOrder.isEmpty) with
    | some i =>
      ((s.modSlot c n (fun t => { t with mail := nput t.mail k .taken, recvClaim := none })).fillNext c (some i) (wd (mailAddr n k)), 0)
    | none =>
      if (s.slot c n).recvDrop == some (s.core c).cycle then (s.modSlot c n (fun t => { t with mail := nput t.mail k .taken, recvDrop := none }), 0)
      else (s.modSlot c n (fun t => { t with mail := nput t.mail k .held, mailOrder := t.mailOrder ++ [k] }), 0)

def mailCode (m : MailState) : Nat := match m with | .free => 0 | .held => 1 | .taken => 2
def mailOf (n : Nat) : MailState := match n with | 1 => .held | 2 => .taken | _ => .free

/-- The mailbox-state dword of an image (R362). -/
def mailWord (m : NMap MailState) (order : List Nat) : Word :=
  wd ((List.range 4).foldl (fun a k => a + mailCode ((nget m k).getD .free) * 2 ^ (2 * k) + (order.idxOf k % 4) * (if order.contains k then 2 ^ (2 * k + 8) else 0)) 0)

/-- Mailbox states and landing order that a dword of an image holds. -/
def mailOfWord (w : Word) : NMap MailState × List Nat :=
  let m := (List.range 4).foldl (fun m k => match mailOf (wf w (2 * k) 2) with | .free => m | x => nput m k x) []
  let held := (List.range 4).filter (fun k => wf w (2 * k) 2 == 1)
  (m, (List.range 4).flatMap (fun r => held.filter (fun k => wf w (2 * k + 8) 2 == r)))

/-- A message lands in a saved context (R323, R325): in the context cache, in an image not yet written, or in the image itself. -/
def State.toSaved (s : State) (c : Nat) (p : CtxPlace) (tag : BitVec 32) (origin : BitVec 16) (ws : List Word) : State × Nat :=
  let put (sv : Saved) : Option Saved := (freeEntry sv.mail).map (fun k =>
    { sv with mail := nput sv.mail k .held, mailOrder := sv.mailOrder ++ [k], mailBytes := nput sv.mailBytes k (entryWord tag origin :: ws) })
  match p with
  | .cache e =>
    match nget (s.core c).ctx e with
    | none => (s, 1)
    | some sv => match put sv with
      | some sv' => (s.modCore c (fun k => { k with ctx := nput k.ctx e sv' }), 0)
      | none => (s, 1)
  | _ =>
    match (s.core c).images.find? (fun im => im.place.key == p.key && !im.written) with
    | some im => match put im.saved with
      | some sv' => (s.modCore c (fun k => { k with images := k.images.map (fun x => if x.place.key == p.key && !x.written then { x with saved := sv' } else x) }), 0)
      | none => (s, 1)
    | none =>
      let (m, order) := mailOfWord (wd (s.placeRead c p 0x48 8))
      match freeEntry m with
      | none => (s, 1)
      | some k =>
        let s := (entryWord tag origin :: ws).zipIdx.foldl (fun s q => s.placeWrite c p (0x200 + 0x40 * k + 8 * q.2) 8 q.1.toNat) s
        (s.placeWrite c p 0x48 8 (mailWord (nput m k .held) (order ++ [k])).toNat, 0)

/-- Where a tagged message lands (R323). -/
def State.landTagged (s : State) (c : Nat) (tag : BitVec 32) (origin : BitVec 16) (ws : List Word) : State × Nat :=
  if !s.tasksOn c then (s, 2)
  else match (if tag = 0 then none else (List.range 16).find? (fun n => wf (s.slot c n).tag 0 32 == tag.toNat)) with
    | some n => s.toMailbox c n tag origin ws
    | none =>
      match (if tag = 0 then none else (s.core c).savedTags.find? (fun p => p.1 == tag)) with
      | some p => s.toSaved c p.2 tag origin ws
      | none => s.toPound c tag origin ws

/-- What a SEND meets at its target (R320). -/
def State.landRecord (s : State) (c : Nat) (ws : List Word) : State × Nat :=
  if !s.tasksOn c then (s, 2)
  else match (s.core c).inboxFree with
    | none => (s, 1)
    | some i =>
      let w1 := ws.getD 1 0
      ((s.modCore c (fun k => k.putInbox i ws)).stampRec c 1 0 (recPrio (ws.getD 0 0)) true (recTag w1).toNat (recOrigin w1).toNat, 0)

/-- A message to the own core is handled 8 cycles after its issue (R320). -/
def State.tooSoon (s : State) (f : Flight) : Bool := f.src == .core f.destCore && (s.core f.destCore).cycle < f.issued + 8

/-- The answer to a message: back to the sender, or in the next cycle to the own core (R317, R320). -/
def State.answerMsg (s : State) (f : Flight) (claim : Option Nat) (w : Word) : State :=
  if f.src == .core f.destCore then s.fillNext f.destCore claim w else s.answer f (.fill none claim (fillW w))

/-- SEND_LANDING (R320). -/
def execSendLanding (fid : Nat) (s : State) : Out :=
  .next (match s.arrivedPacket fid with
    | none => s
    | some g =>
      match g.body with
      | .send claim _ ws =>
        if s.tooSoon g then s
        else s.withPacket fid (fun f s =>
          let (s, st) := s.landRecord f.destCore ws
          s.answerMsg f claim (sendStatus st (s.coreName f.destCore) 0))
      | _ => s)

/-- SENDT_LANDING (R323). -/
def execSendtLanding (fid : Nat) (s : State) : Out :=
  .next (match s.arrivedPacket fid with
    | none => s
    | some g =>
      match g.body with
      | .sendt claim _ tag origin ws =>
        if s.tooSoon g then s
        else s.withPacket fid (fun f s =>
          let (s, st) := s.landTagged f.destCore tag origin ws
          s.answerMsg f claim (sendStatus st (s.coreName f.destCore) tag))
      | _ => s)

/-! ## RECVF and TIMERF (R324, R328) -/

/-- RECVF (R324); one that parks changes no entry (R83). -/
def execRecvf (rd : BitVec 5) (s : State) : Out :=
  issue { instr := .recvf rd, roles := notT, regs := [dx rd] } (fun s =>
    let c := s.curCore
    let n := s.curSlot
    let freed (s : State) : State := s.modMe (fun t => { t with mail := t.mail.filter (fun p => p.2 != .taken) })
    if !s.tasksOn c then
      withClaim s .x rd.toNat 6 true fun s claim => .done ((freed s).deliverAt c claim (s.here.cycle + 1) (.poison (descriptor 6 0x50 0)))
    else match s.me.recvClaim.bind (nget s.here.claims) with
      | some cl => .park s (.reg cl.file cl.reg)
      | none =>
        match s.me.mailOrder with
        | k :: rest => .done (((freed s).modMe (fun t => { t with mail := nput t.mail k .taken, mailOrder := rest })).setX rd (wd (mailAddr n k)))
        | [] =>
          if rd = 0 then .done (freed s)
          else withClaim s .x rd.toNat 6 true fun s claim => .done ((freed s).modMe (fun t => { t with recvClaim := claim }))) s

/-- TIMERF (R328). -/
def execTimerf (rs1 rd : BitVec 5) (s : State) : Out :=
  issue { instr := .timerf rs1 rd, roles := notT, regs := [sx rs1, dx rd] } (fun s =>
    let v := s.xv rs1
    withClaim s .x rd.toNat 8 true fun s claim =>
      .done (match claim with | some i => s.modHere (fun k => { k with timers := k.timers ++ [(i, v, k.cycle)] }) | none => s)) s

/-- TIMER_EXPIRY (R328): the first cycle after the issue cycle whose count has reached the target. -/
def execTimerExpiry (core claim : Nat) (s : State) : Out :=
  .next (match (s.core core).timers.find? (fun t => t.1 == claim) with
    | some t =>
      if max t.2.1.toNat (t.2.2 + 1) ≤ (s.core core).cycle then
        (s.modCore core (fun k => { k with timers := k.timers.filter (fun x => x.1 != claim) })).fillNow core (some claim) (wd (s.core core).cycle)
      else s
    | none => s)

end Sys2Proof.Machine
end

