-- ==== Sys2Proof/Machine/Contexts.lean ====
section
/-! DEFINITION. Saved contexts: images and the context cache, capture, restore, SWAPCTX and LOADCTX (R96 to R99, R325, R360, R362 to R366). -/

namespace Sys2Proof.Machine

/-! ## Layout of an image (R362) -/

/-- The slot registers of an image, in the order of offsets 0x050 to 0x0E8. -/
def imageCsrs : List Nat :=
  [0x800, 0x801, 0x802, 0x803, 0x804, 0x805, 0x806, 0x807, 0xC02, 0xCC2, 0x808, 0x809, 0x80A, 0x80B, 0x80C, 0x80D, 0x80E, 0x80F, 0x810, 0x811]

/-- Bits that a slot register holds. -/
def csrHolds (n : Nat) : Word :=
  match n with
  | 0x804 => 0xC00007FFFFFFFFFF
  | 0x805 => 0xC0FF07FFFFFFFFFF
  | 0xC02 => 0xFFFFFFFFFFFFFFFF
  | 0xCC2 => 0xFFFFFFFF00000000
  | _ => csrRwBits n

/-- Puts a restored value into a slot register; the role must hold it. -/
def Slot.restoreCsr (t : Slot) (n : Nat) (v : Word) : Slot :=
  let w := v &&& csrHolds n
  if !csrRoles n t.role then t
  else if 0x808 ≤ n ∧ n ≤ 0x80F then { t with mcfg := nput t.mcfg (n - 0x808) w }
  else match n with
    | 0x800 => { t with parklim := w }
    | 0x801 => { t with vflags := w }
    | 0x802 => { t with srseed := w }
    | 0x803 => { t with srctr := w }
    | 0x804 => { t with ordctl := w }
    | 0x805 => { t with stfail := w }
    | 0x806 => { t with tag := w }
    | 0x807 => { t with bstream := w }
    | 0xC02 => { t with instret := w }
    | 0xCC2 => { t with rfinfo := w }
    | 0x810 => { t with mstcfg := w }
    | 0x811 => { t with rptstat := w }
    | _ => t

/-- Registers of each file that a role holds. -/
def roleRegs (r : Role) : List (RFile × Nat) :=
  (List.range 32).map (fun i => (RFile.x, i)) ++
  (if r == .v then (List.range 32).map (fun i => (RFile.v, i)) else []) ++
  (if r == .m then (List.range 8).map (fun i => (RFile.m, i)) ++ (List.range 4).map (fun i => (RFile.c, i)) else [])

/-- State and value of a register in a saved context. -/
def Saved.reg (v : Saved) (f : RFile) (n : Nat) : RegState × Nat :=
  match f with
  | .x => let r := (nget v.x n).getD ⟨.full, 0⟩; (r.st, r.val.toNat)
  | .v => let r := (nget v.v n).getD ⟨.full, 0⟩; (r.st, r.val.toNat)
  | .m => let r := (nget v.m n).getD ⟨.full, 0⟩; (r.st, r.val.toNat)
  | .c => let r := (nget v.c n).getD ⟨.full, 0⟩; (r.st, r.val.toNat)

/-- Lists a register of a saved context. -/
def Saved.putReg (v : Saved) (f : RFile) (n : Nat) (st : RegState) (x : Nat) : Saved :=
  match f with
  | .x => { v with x := nput v.x n ⟨st, BitVec.ofNat 64 x⟩ }
  | .v => { v with v := nput v.v n ⟨st, BitVec.ofNat 2048 x⟩ }
  | .m => { v with m := nput v.m n ⟨st, BitVec.ofNat 34816 x⟩ }
  | .c => { v with c := nput v.c n ⟨st, BitVec.ofNat 131072 x⟩ }

/-- States of n registers of a file, two bits each (R354). -/
def Saved.stateWord (v : Saved) (f : RFile) (n : Nat) : Nat := (List.range n).foldl (fun a i => a + stCode (v.reg f i).1 * 4 ^ i) 0

/-- The writes that make an image: offset, bytes, value. -/
def Saved.image (v : Saved) : List (Nat × Nat × Nat) :=
  [(0, 8, 1 + roleCode v.role * 2 ^ 8 + (if v.frozen then 2 ^ 11 else 0) + v.slot % 16 * 2 ^ 12 + v.name.toNat * 2 ^ 16),
   (8, 8, v.pendings.length), (0x10, 8, v.pc.toNat), (0x18, 8, v.tcause.toNat), (0x20, 8, v.tval.toNat), (0x28, 8, v.tpc.toNat),
   (0x30, 8, v.stateWord .x 32), (0x38, 8, v.stateWord .v 32), (0x40, 8, v.stateWord .m 8 + v.stateWord .c 4 * 2 ^ 16),
   (0x48, 8, (mailWord v.mail v.mailOrder).toNat)] ++
  v.csrs.zipIdx.map (fun p => (0x50 + 8 * p.2, 8, p.1.toNat)) ++ [(0xF0, 16, 0)] ++
  (List.range 4).flatMap (fun k => ((nget v.mailBytes k).getD (List.replicate 8 0)).zipIdx.map (fun p => (0x200 + 0x40 * k + 8 * p.2, 8, p.1.toNat))) ++
  (roleRegs v.role).map (fun p => (imageOff p.1 p.2, imageLen p.1, (v.reg p.1 p.2).2)) ++
  (if v.role == .m then (List.range 4).flatMap (fun i =>
    let a := (nget v.streams i).getD { base := 0, stride1 := 0, stride2 := 0, count1 := 0, pos := 0 }
    [(0x300 + 32 * i, 8, a.base.toNat), (0x308 + 32 * i, 8, a.stride1.toNat), (0x310 + 32 * i, 8, a.stride2.toNat),
     (0x318 + 32 * i, 8, (a.pos ++ a.count1).toNat)]) else [])

/-- Role that the header of an image names, and whether its format is 1; code 7 names none (R305, R365). -/
def headerOf (w : Word) : Bool × Option Role := (wf w 0 8 == 1, if wf w 8 3 = 7 then none else some (roleOf (wf w 8 3)))

/-- A context as an image holds it. -/
def State.readImage (s : State) (c : Nat) (p : CtxPlace) : Saved :=
  let rd (off n : Nat) : Nat := s.placeRead c p off n
  let dw (off : Nat) : Word := wd (rd off 8)
  let h := dw 0
  let role := (headerOf h).2.getD .none
  let stWord (f : RFile) : Nat := match f with | .x => rd 0x30 8 | .v => rd 0x38 8 | .m => rd 0x40 2 | .c => rd 0x42 6
  let mail := mailOfWord (dw 0x48)
  let empty : Saved :=
    { core := c, name := BitVec.ofNat 16 (wf h 16 16), slot := wf h 12 4, epoch := 0, role := role, frozen := h.getLsbD 11,
      pc := dw 0x10, tcause := dw 0x18, tval := dw 0x20, tpc := dw 0x28, csrs := (List.range 20).map (fun i => dw (0x50 + 8 * i)),
      x := [], v := [], m := [], c := [],
      streams := if role == .m then (List.range 4).map (fun i =>
        (i, { base := dw (0x300 + 32 * i), stride1 := dw (0x308 + 32 * i), stride2 := dw (0x310 + 32 * i), count1 := BitVec.ofNat 32 (rd (0x318 + 32 * i) 4), pos := BitVec.ofNat 32 (rd (0x31C + 32 * i) 4) })) else [],
      mail := mail.1, mailOrder := mail.2, mailBytes := (List.range 4).map (fun k => (k, (List.range 8).map (fun i => dw (0x200 + 0x40 * k + 8 * i)))),
      pendings := [], recvClaim := none, parked := false, acquires := [], fences := [], missScope := none, saw := [] }
  (roleRegs role).foldl (fun v q =>
    let st := stOf (fieldOf (stWord q.1) (2 * q.2) 2)
    let x := rd (imageOff q.1 q.2) (imageLen q.1)
    let v := v.putReg q.1 q.2 st x
    if st == .pending then { v with pendings := v.pendings ++ [(fileCode q.1, q.2, x % 2 ^ 9)] } else v) empty

/-- What claims that point to a place target (R87). -/
def CtxPlace.target (p : CtxPlace) : Target := match p with | .cache e => .context e | .ls a => .image a true | .phys pa _ => .image pa false

/-- Where a place stands, as a trace record gives it (R376). -/
def CtxPlace.detail (p : CtxPlace) : Word := match p with | .cache e => wd (2 ^ 63 + e) | .ls a => wd a | .phys _ va => wd va

/-! ## Capture (R96, R325, R360, R364) -/

/-- A message that a RECVF claim has taken and whose fill has not come: the claim and its entry (R324). -/
def Core.takenFill (k : Core) (n : Nat) : Option (Nat × Nat) :=
  k.deliveries.findSome? (fun d =>
    match nget k.claims d.claim, d.val with
    | some cl, .value v =>
      if cl.target == .slot && cl.slot == n && cl.cls == 6 && cl.cancellable then some (d.claim, (v.toNat - mailAddr n 0) / 64) else none
    | _, _ => none)

/-- A RECVF claim fills only while it targets a slot register (R324, R411): a fill that has not come when its slot is captured is withdrawn;
the entry is HELD again, before the others, and the claim waits. -/
def Core.withdrawRecv (k : Core) (n : Nat) : Core :=
  match k.takenFill n with
  | none => k
  | some (i, e) =>
    let t := k.slot n
    { k with deliveries := k.deliveries.filter (fun d => d.claim != i) }.setSlot n
      { t with mail := nput t.mail e .held, mailOrder := e :: t.mailOrder.filter (· != e), recvClaim := some i }

/-- The context of a slot as a capture finds it, with the holds of its thread (R155, R163). -/
def State.captureOf (s : State) (c n : Nat) : Saved :=
  let k := s.core c
  let t := k.slot n
  let pend := (roleRegs t.role).filterMap (fun q => if t.regSt q.1 q.2 == .pending then (k.claimOf n q.1 q.2).map (fun i => (fileCode q.1, q.2, i)) else none)
  let v : Saved :=
    { core := c, name := s.coreName c, slot := n, epoch := t.epoch, role := t.role, frozen := t.state == .frozen || (t.state == .halted && t.before == .frozen),
      pc := t.pc, tcause := t.tcause, tval := t.tval, tpc := t.tpc,
      csrs := imageCsrs.map (fun i => if csrRoles i t.role then t.csr i else 0),
      x := t.x, v := t.v, m := t.m, c := t.c, streams := t.streams, mail := t.mail, mailOrder := t.mailOrder,
      mailBytes := if s.tasksOn c then (List.range 4).map (fun j => (j, lsWords k.ls (mailAddr n j) 8)) else [],
      pendings := pend, recvClaim := t.recvClaim, parked := t.state == .parked, acquires := t.acquires, fences := t.fences, missScope := t.missScope, saw := t.saw }
  pend.foldl (fun v q => v.putReg (fileOf q.1) q.2.1 .pending q.2.2) v

/-- A capture as one step: claims re-pointed, the context recorded, the slot EMPTY. -/
def State.capture (s : State) (c : Nat) (r : SaveRec) : State :=
  let n := r.slot
  let s := s.modCore c (fun k => k.withdrawRecv n)
  let v := s.captureOf c n
  let tag : BitVec 32 := (s.slot c n).tag.setWidth 32
  let s := s.trace c n 4 0 v.pc r.place.detail
  let s := s.modCore c (fun k =>
    let claims := v.pendings.foldl (fun m q => match nget m q.2.2 with | some cl => nput m q.2.2 { cl with target := r.place.target } | none => m) k.claims
    let tags := k.savedTags.filter (fun p => p.2.target != r.place.target)
    let full := 64 ≤ tags.length
    let k := if tag != 0 && full then k.count 29 none 1 else k
    { k with
      claims := claims
      savedTags := if tag = 0 || full then tags else tags ++ [(tag, r.place)]
      ctx := match r.place with | .cache e => nput k.ctx e v | _ => k.ctx
      ctxReserved := match r.place with | .cache e => k.ctxReserved.filter (· != e) | _ => k.ctxReserved
      images := match r.place with | .cache _ => k.images | p => k.images.filter (fun i => i.place.key != p.key) ++ [{ place := p, proc := r.proc, saved := v, written := false }]
      saves := k.saves.map (fun x => if x.slot == n && x.captured.isNone then { x with captured := some v } else x) })
  let s := (s.endResv c n).becomeEmpty c n
  match r.yieldPrio with
  | some p => s.modCore c (fun k =>
      let e := r.place.key.1
      let w0 := wd (2 ^ 63 + roleCode v.role * 2 ^ 51 + p % 4 * 2 ^ 48 + e % 32)
      let w1 := wd (tag.toNat * 2 ^ 16 + v.name.toNat)
      k.pushDeque p { dwords := [w0, w1], entered := k.cycle, stealable := false, resume := some e } [])
  | none => s

/-- Whether a slot under save has drained: no unfinished MDOT, BLZC or transfer, no bank lock, and every store has left the buffer (R364). -/
def Core.drained (k : Core) (n : Nat) : Bool :=
  k.locks.all (fun l => l.2.slot != n) && k.array.all (fun a => a.slot != n) && k.blzc.all (fun b => b.slot != n) && k.transfer.all (fun t => t.slot != n) &&
    k.sb.all (fun e => e.sent || e.req.slot != n)

/-- Whether a save may capture its slot: it has drained, and its site is not fenced, which keeps the slots HALTED (R353, R364). -/
def State.saveReady (s : State) (c : Nat) (r : SaveRec) : Bool :=
  r.captured.isNone && (s.core c).drained r.slot && (s.site (siteOf c)).state != .fenced

/-- SAVE_CAPTURE (R364): the oldest save whose slot has drained. -/
def execSaveCapture (core : Nat) (s : State) : Out :=
  .next (match (s.core core).saves.find? (s.saveReady core) with
    | some r =>
      let s := s.capture core r
      match r.yieldPrio with
      | some _ => s.modCore core (fun k => { k with saves := k.saves.filter (fun x => x.slot != r.slot || x.captured.isNone) })
      | none => s
    | none => s)

/-- The way of n bytes of an image to the core that reads them, and the code that stops it. -/
def State.fetchTrip (s : State) (c : Nat) (p : CtxPlace) (n : Nat) : State × Option (BitVec 8) :=
  match p with
  | .phys pa _ => s.coreTrip c pa 1 (dataFlits n)
  | _ => (s, none)

/-- Drops every claim of a core that points to a place (R91). -/
def Core.dropPlace (k : Core) (p : CtxPlace) : Core :=
  (k.claims.filter (fun q => q.2.target == p.target)).foldl (fun k q => k.dropClaim q.1) k

/-- The pieces of an image in memory that its accesses move: 64 bytes each, none crossing a line. -/
def CtxPlace.pieces (p : CtxPlace) (len : Nat) : List Loc :=
  match p with | .phys pa _ => (List.range ((len + 63) / 64)).map (fun i => .phys (pa + 64 * i) .none) | _ => []

/-- The ways of an image between a core and its homes: the first code and address that it meets there or on the way, and whether every piece
is read or written all the same (R99, R147, R364). -/
def State.imageTrips (s : State) (c : Nat) (p : CtxPlace) (len : Nat) (write : Bool) : State × Option (BitVec 8 × Nat) × Bool :=
  match s.pageTrips c 64 (p.pieces len) write with
  | (s, stopped, reached) =>
    let bad := (p.pieces len).findSome? (s.writeFault 64)
    (s, stopped.or bad, reached && bad.isNone)

/-- The future of a save or restore whose image meets a code: poison with class 1, or, where the answer was lost on its way, at the deadline (R44). -/
def State.imageFails (s : State) (c : Nat) (claim : Option Nat) (code : BitVec 8) (pa : Nat) : State :=
  if code == 0x25 then s.loseAccess (.core c) (siteOf c) (s.site (siteOf c)).part pa (.fill none claim (fillW 0))
  else s.poisonNow c claim (descriptor 1 code.toNat pa)

/-- IMAGE_WRITE_DONE (R364): the image stands in memory and the future fills, or the context is lost. An image of which a piece cannot be written
is not written at all (log 20). -/
def execImageWriteDone (core : Nat) (s : State) : Out :=
  .next (match (s.core core).saves.find? (fun r => r.captured.isSome) with
    | none => s
    | some r =>
      let s := s.modCore core (fun k => { k with saves := k.saves.erase r })
      let ok := fillW (wd (roleImageLen ((r.captured.map (·.role)).getD .none)))
      match r.place with
      | .cache _ => s.deliverAt core r.claim (s.core core).cycle ok
      | p =>
        match s.imageTrips core p (roleImageLen ((r.captured.map (·.role)).getD .none)) true with
        | (s, code, all) =>
          let v : Option Saved := (((s.core core).images.find? (fun i => i.place.key == p.key)).map (·.saved)).or r.captured
          let s : State := match v, all with | some v, true => v.image.foldl (fun s w => s.placeWrite core p w.1 w.2.1 w.2.2) s | _, _ => s
          match code with
          | some (x, pa) => (s.imageFails core r.claim x pa).modCore core (fun k =>
              { (k.dropPlace p) with images := k.images.filter (fun i => i.place.key != p.key), savedTags := k.savedTags.filter (fun t => t.2.target != p.target) })
          | none =>
            let s := s.modCore core (fun k => { k with images := k.images.map (fun i => if i.place.key == p.key then { i with written := true } else i) })
            s.deliverAt core r.claim (s.core core).cycle ok)

/-! ## Restore (R97 to R99, R325, R360, R365) -/

/-- The image that a core keeps of a place, and the context there. -/
def State.contextAt (s : State) (c : Nat) (p : CtxPlace) : Saved :=
  match p with
  | .cache e => (nget (s.core c).ctx e).getD (s.readImage c p)
  | _ => match (s.core c).images.find? (fun i => i.place.key == p.key && !i.written) with
    | some i => i.saved
    | none => s.readImage c p

/-- The RECVF claim of a context, while it still points there (R325). -/
def State.contextRecv (s : State) (c : Nat) (p : CtxPlace) : Option Nat :=
  let i : Option Nat := match p with
    | .cache e => (nget (s.core c).ctx e).bind (·.recvClaim)
    | q => ((s.core c).images.find? (fun i => i.place.key == q.key)).bind (·.saved.recvClaim)
  i.filter (fun j => (nget (s.core c).claims j).any (fun cl => cl.target == p.target))

/-- The context that a core keeps of a place where one of its slots was saved. -/
def Core.keptAt (k : Core) (p : CtxPlace) : Option Saved :=
  match p with
  | .cache e => nget k.ctx e
  | q => (k.images.find? (fun i => i.place.key == q.key)).map (·.saved)

/-- What the thread of a context left under way when it was saved: its holds, what it has read in the buffer, and the slot and epoch that its
accesses name (R94, R155, R161, R163; log 43). -/
structure ThreadHolds where
  acquires : List Nat
  fences : List FenceRec
  missScope : Option Nat
  saw : List Nat
  was : Option (Nat × Nat)
  deriving DecidableEq, Repr

def State.contextHolds (s : State) (c : Nat) (p : CtxPlace) : ThreadHolds :=
  match (s.core c).keptAt p with
  | some v => ⟨v.acquires.filter (s.core c).outstanding, v.fences, v.missScope, v.saw.filter (s.core c).outstanding, some (v.slot, v.epoch)⟩
  | none => ⟨[], [], none, [], none⟩

/-- The accesses of a thread name the slot and epoch where it runs on from now on (R94, R158). -/
def Core.moveAccs (k : Core) (was : Option (Nat × Nat)) (n epoch : Nat) : Core :=
  { k with accs := k.accs.map (fun a => if was == some (a.slot, a.epoch) then { a with slot := n, epoch := epoch } else a) }

/-- Writes a register of any file. -/
def State.putAny (s : State) (c n : Nat) (f : RFile) (r : Nat) (st : RegState) (x : Nat) : State :=
  s.modSlot c n (fun t => match f with
    | .x => t.setXr r ⟨st, BitVec.ofNat 64 x⟩
    | .v => t.setVr r ⟨st, BitVec.ofNat 2048 x⟩
    | .m => t.setMr r ⟨st, BitVec.ofNat 34816 x⟩
    | .c => t.setCr r ⟨st, BitVec.ofNat 131072 x⟩)

/-- A register as a restore finds it (R97 to R99). One recorded PENDING: POISON for a lost delivery, re-pointed on the core that saved the
context if its claim targets this image, else FULL zero. The owner is the core whose claims may target the image. -/
def State.restoreReg (s : State) (c n : Nat) (p : CtxPlace) (owner : Option Nat) (v : Saved) (f : RFile) (r : Nat) : State :=
  let (st, x) := v.reg f r
  if st != .pending then s.putAny c n f r st x
  else
    let i := x % 2 ^ 9
    match owner, owner.bind (fun o => (nget (s.core o).claims i).filter (fun cl => cl.target == p.target)) with
    | some o, some cl =>
      if cl.lost then (s.putAny c n f r .poison (descriptor cl.cls.toNat 0x01 p.key.1).toNat).modCore o (fun k => k.freeClaim i)
      else if o == c then
        let fv := s.freeCtr
        let s := s.putAny c n f r .pending (match f with | .x => (Config.freeWord fv).toNat | _ => (Config.freeVec fv).toNat)
        s.useFree.modCore c (fun k => { k with claims := nput k.claims i { cl with target := .slot, slot := n, file := f, reg := r } })
      else s.putAny c n f r .full 0
    | _, _ => s.putAny c n f r .full 0

/-- The mailbox of a restored slot: copied back on the saving core, where a waiting RECVF claim takes the oldest HELD entry in the next
cycle; on another core its HELD entries go to the pound of the core that saved the context (R325, R409). -/
def State.restoreMail (s : State) (c n : Nat) (saver : Option Nat) (v : Saved) (recv : Option Nat) : State :=
  match saver with
  | none => s
  | some o =>
    if o == c then
      let s := if s.tasksOn c then v.mailBytes.foldl (fun s p => s.modCore c (fun k => { k with ls := putWords k.ls (mailAddr n p.1) p.2 })) s else s
      let s := s.modSlot c n (fun t => { t with mail := v.mail, mailOrder := v.mailOrder, recvClaim := recv })
      match recv, v.mailOrder with
      | some i, e :: _ => s.fillNext c (some i) (wd (mailAddr n e))
      | _, _ => s
    else v.mailOrder.foldl (fun s e =>
      let ws := (nget v.mailBytes e).getD (List.replicate 8 0)
      (s.toPound o ((ws.getD 0 0).extractLsb' 16 32) ((ws.getD 0 0).setWidth 16) (ws.drop 1)).1) s

/-- Core of this partition that bears a core name. -/
def State.coreBearing (s : State) (c : Nat) (name : BitVec 16) : Option Nat :=
  (s.siteNamed (s.site (siteOf c)).part.toNat (name.extractLsb' 4 12)).map (fun n => 16 * n + (name.setWidth 4).toNat)

/-- The core that saved the context at a place, whose claims may target it (R87, R97, R98): an entry of the context cache is the core's own, an
image names its core, and is the one that its base and kind name there, in local store too (R411). -/
def State.saverOf (s : State) (c : Nat) (p : CtxPlace) (v : Saved) : Option Nat :=
  match p with
  | .cache _ => some c
  | _ => if v.name == s.coreName c then some c else s.coreBearing c v.name

/-- A restored x register that the context recorded PENDING and that is so no longer has left PENDING: what watches it fires (R105). -/
def State.fireRestored (s : State) (c n : Nat) (v : Saved) : State :=
  s.modCore c (fun k => (List.range 32).foldl (fun k r =>
    if (v.reg .x r).1 == .pending && (k.slot n).regSt .x r != .pending then k.watchFire (fun w => w.target == .slot && w.slot == n) r else k) k)

/-- A restore as one step (R365): registers, slot registers, mailbox, the slot's state; the entry and its saved tag are freed. -/
def State.restore (s : State) (c n : Nat) (p : CtxPlace) : State :=
  let v := s.contextAt c p
  let owner := s.saverOf c p v
  let own := owner == some c
  let recv := if own then s.contextRecv c p else none
  let holds : ThreadHolds := if own then s.contextHolds c p else ⟨[], [], none, [], none⟩
  let s := s.endResv c n
  let s := s.modCore c (fun k => k.clearRegs n)
  let s := s.modSlot c n (fun t =>
    let t := { t with pc := v.pc, tcause := v.tcause, tval := v.tval, tpc := v.tpc, streams := if t.role == .m then v.streams else [], reserved := false,
                      state := if v.frozen then .frozen else .running, park := none, parkCount := 0, prio := none, origin := 0, viaInbox := false,
                      epoch := t.epoch + 1, busyUntil := 0, brk := 0, skipBreak := false, acquires := holds.acquires, fences := holds.fences, missScope := holds.missScope, saw := holds.saw }
    (imageCsrs.zip v.csrs).foldl (fun t q => t.restoreCsr q.1 q.2) t)
  let s := s.modCore c (fun k => k.moveAccs holds.was n (k.slot n).epoch)
  let s := (roleRegs (s.slot c n).role).foldl (fun s q => s.restoreReg c n p owner v q.1 q.2) s
  let s := (s.fireRestored c n v).restoreMail c n owner v recv
  let freeTag (k : Core) : Core := { k with savedTags := k.savedTags.filter (fun t => t.2.target != p.target) }
  let s := match p with
    | .cache e => s.modCore c (fun k => { freeTag k with ctx := ndel k.ctx e })
    | _ => match owner with | some o => s.modCore o freeTag | none => s
  s.trace c n 5 0 v.pc p.detail

/-- A register of an image in the local store of a core that restores it, PENDING with a claim of the core that saved it, becomes FULL zero (R98). -/
def State.zeroCopy (s : State) (c : Nat) (p : CtxPlace) (i : Nat) (cl : Claim) : State :=
  match p with
  | .ls _ =>
    let w := wd (s.placeRead c p (0x30 + 8 * fileCode cl.file) 8)
    if stOf (wf w (2 * cl.reg) 2) == .pending && s.placeRead c p (imageOff cl.file cl.reg) 8 % 2 ^ 9 == i then s.imagePut c p cl.file cl.reg (fillW 0) else s
  | _ => s

/-- What R98 does when a restore on another core starts: the saving core's claims that can be cancelled are dropped, their
registers FULL zero in the image. -/
def State.startRestore (s : State) (c : Nat) (p : CtxPlace) : State :=
  match s.saverOf c p (s.contextAt c p) with
  | none => s
  | some o =>
    if o == c then s
    else
      ((s.core o).claims.filter (fun q => q.2.target == p.target && q.2.cancellable)).foldl (fun s q =>
        ((s.applyDelivery o ⟨q.1, 0, fillW 0⟩).modCore o (fun k => k.freeClaim q.1)).zeroCopy c p q.1 q.2) s

/-- Whether a restore may be applied: the image has been read, and no claim of another saving core points to it, but for lost
deliveries (R98, R99); its home runs (R56), and its own site is not fenced (R353). -/
def State.restoreReady (s : State) (c : Nat) (r : RestoreRec) : Bool :=
  r.due ≤ (s.core c).cycle && (s.site (siteOf c)).state != .fenced && !s.placeGated r.place (roleImageLen (s.slot c r.slot).role) &&
    (match s.saverOf c r.place (s.contextAt c r.place) with
      | none => true
      | some o => o == c || !(s.core o).claims.any (fun q => q.2.target == r.place.target && !q.2.lost))

/-- RESTORE_APPLY (R365): the oldest restore that may be applied; its future fills in the next cycle (R409). -/
def execRestoreApply (core : Nat) (s : State) : Out :=
  .next (match (s.core core).restores.find? (s.restoreReady core) with
    | none => s
    | some r =>
      let s := s.modCore core (fun k => { k with restores := k.restores.erase r })
      match s.imageTrips core r.place (roleImageLen (s.slot core r.slot).role) false with
      | (s, some (code, pa), _) => (s.imageFails core r.claim code pa).modSlot core r.slot (fun t => { t with reserved := false })
      | (s, none, _) =>
        let s := s.restore core r.slot r.place
        s.fillNext core r.claim (wd (roleImageLen (s.slot core r.slot).role)))

/-! ## SWAPCTX and LOADCTX (R364 to R366) -/

/-- A status word of SWAPCTX or LOADCTX that fills at once (R366). -/
def ctxStatus (s : State) (rd : BitVec 5) (st : Nat) : Act := .done (s.setX rd (wd (st * 2 ^ 56)))

/-- The checks on an image address (R364, R365), then its place. -/
def withPlace (s : State) (va : Word) (len : Nat) (save : Bool) (k : State → CtxPlace → Act) : Act :=
  let a := va.toNat
  if a % 64 ≠ 0 then .trap s (if save then 6 else 4) va
  else if !vaOk va || isWindow va || (a < lsTop && lsTop < a + len) then .trap s (if save then 7 else 5) va
  else if isLocal va then
    match (span a len).find? (fun b => s.here.engineOwned b || s.reservedPlot s.curCore (plotOf b)) with
    | some b => .trap s 27 (wd b)
    | none => k s (.ls a)
  else translate s va (if save then .w else .r) fun s pa _ =>
    match s.here.rangeFor va with
    | some e =>
      if e.slot.limit.toNat < a + len || e.slot.striped then
        .trap (s.modMe (fun t => { t with rfinfo := rfinfoOf 2 (wf s.here.rdir 52 12) e.index })) (if save then 15 else 13) va
      else k s (.phys pa a)
    | none => k s (.phys pa a)

/-- The process whose ranges translate an image address now (R188). -/
def Core.placeProc (k : Core) (p : CtxPlace) : BitVec 12 := match p with | .phys _ _ => BitVec.ofNat 12 (wf k.rdir 52 12) | _ => 0

/-- SWAPCTX (R364). -/
def execSwapctx (rs2 rs1 rd : BitVec 5) (s : State) : Out :=
  issue { instr := .swapctx rs2 rs1 rd, roles := onlyK, priv := true, regs := [sx rs1, sx rs2, dx rd] } (fun s =>
    let n := (s.xv rs1).toNat
    let d := s.xv rs2
    let e := wf d 0 5
    if 15 < n || n == s.curSlot then ctxStatus s rd 2
    else
      let t := s.here.slot n
      let go (s : State) (p : CtxPlace) : Act := withClaim s .x rd.toNat 1 false fun s claim =>
        .done ((s.modHere (fun k => { (k.freeLocks n) with
          saves := k.saves ++ [{ slot := n, place := p, claim := claim, captured := none, yieldPrio := none, proc := k.placeProc p }]
          ctxReserved := match p with | .cache e => k.ctxReserved ++ [e] | _ => k.ctxReserved })).modSlot s.curCore n (fun t => { t with underSave := true }))
      if t.state == .empty || t.doneWait then ctxStatus s rd 1
      else if t.state == .halted || t.underSave || (d.getLsbD 63 && ((nget s.here.ctx e).isSome || s.here.ctxReserved.contains e)) then ctxStatus s rd 4
      else if d.getLsbD 63 then
        if t.role == .v || t.role == .m then ctxStatus s rd 3 else go s (.cache e)
      else withPlace s d (roleImageLen t.role) true go) s

/-- LOADCTX (R365); while the home of its image is gated it waits at its turn (R56). -/
def execLoadctx (rs2 rs1 rd : BitVec 5) (s : State) : Out :=
  issue { instr := .loadctx rs2 rs1 rd, roles := onlyK, priv := true, regs := [sx rs1, sx rs2, dx rd] } (fun s =>
    let n := (s.xv rs1).toNat
    let d := s.xv rs2
    let e := wf d 0 5
    if 15 < n || n == s.curSlot then ctxStatus s rd 2
    else
      let t := s.here.slot n
      let go (s : State) (p : CtxPlace) : Act :=
        if s.placeGated p (roleImageLen t.role) then .hold s else
        let (s, fault) := s.fetchTrip s.curCore p 64
        let h : Bool × Option Role := match p with
          | .cache i => (true, some (((nget s.here.ctx i).map (·.role)).getD .none))
          | p => if fault.isSome then (true, some t.role) else
              match s.here.images.find? (fun i => i.place.key == p.key && !i.written) with
              | some i => (true, some i.saved.role)
              | none => headerOf (wd (s.placeRead s.curCore p 0 8))
        if !h.1 then ctxStatus s rd 6
        else if h.2 != some t.role then ctxStatus s rd 3
        else withClaim s .x rd.toNat 1 false fun s claim =>
          let due := s.here.cycle + 1 + Config.restoreCycles s.freeCtr
          .done (((s.useFree.modHere (fun k => { k with restores := k.restores ++ [{ slot := n, place := p, claim := claim, due := due, proc := k.placeProc p }] })).modSlot s.curCore n
            (fun t => { t with reserved := true })).startRestore s.curCore p)
      if t.state != .empty || t.underSave || t.reserved then ctxStatus s rd 4
      else if d.getLsbD 63 then
        if (nget s.here.ctx e).isNone then ctxStatus s rd 5
        else if t.role == .v || t.role == .m then ctxStatus s rd 3 else go s (.cache e)
      else withPlace s d (roleImageLen t.role) false go) s

end Sys2Proof.Machine
end

