-- ==== Sys2Proof/Machine/Crypto.lean ====
section
/-! DEFINITION. SHA-384 and the verification of an ECDSA signature on P-384, which a container's signature, its digest and a site packet's
digest use (R393, R394, R396; the functions are those of FIPS 180-4 and FIPS 186-5, log 46). -/

namespace Sys2Proof.Machine

/-! ## SHA-384 -/

/-- The largest number of the given bits whose k-th power does not exceed n. -/
def rootFloor (k n bits : Nat) : Nat := (List.range bits).foldr (fun b r => if (r + 2 ^ b) ^ k ≤ n then r + 2 ^ b else r) 0

/-- The first 64 bits of the fraction of the k-th root of p. -/
def rootFraction (k p : Nat) : BitVec 64 := BitVec.ofNat 64 (rootFloor k (p * 2 ^ (64 * k)) 70)

/-- The first eighty primes. -/
def shaPrimes : List Nat := (List.range 410).filter (fun n => 2 ≤ n && (List.range 19).all (fun d => d + 2 == n || n % (d + 2) != 0))

/-- The eighty round constants: from the cube roots of the primes. -/
def shaRound : List (BitVec 64) := shaPrimes.map (rootFraction 3)

/-- The starting value: from the square roots of the ninth to the sixteenth prime. -/
def shaStart : List (BitVec 64) := ((shaPrimes.drop 8).take 8).map (rootFraction 2)

/-- The sixteen words of a block extended to eighty, the last one first. -/
def shaExtend (w : List (BitVec 64)) : List (BitVec 64) :=
  (List.range 64).foldl (fun w _ =>
    let a := w.getD 14 0
    let b := w.getD 1 0
    ((b.rotateRight 19 ^^^ b.rotateRight 61 ^^^ (b >>> 6)) + w.getD 6 0 + (a.rotateRight 1 ^^^ a.rotateRight 8 ^^^ (a >>> 7)) + w.getD 15 0) :: w) w.reverse

/-- One round on the eight working words. -/
def shaStep (v : List (BitVec 64)) (x : BitVec 64) : List (BitVec 64) :=
  match v with
  | [a, b, c, d, e, f, g, h] =>
    let t := h + (e.rotateRight 14 ^^^ e.rotateRight 18 ^^^ e.rotateRight 41) + ((e &&& f) ^^^ (~~~e &&& g)) + x
    let u := (a.rotateRight 28 ^^^ a.rotateRight 34 ^^^ a.rotateRight 39) + ((a &&& b) ^^^ (a &&& c) ^^^ (b &&& c))
    [t + u, a, b, c, d + t, e, f, g]
  | _ => v

/-- The digest's words after a block. -/
def shaBlock (v w : List (BitVec 64)) : List (BitVec 64) :=
  List.zipWith (· + ·) v ((List.zipWith (· + ·) (shaExtend w).reverse shaRound).foldl shaStep v)

/-- A big-endian number of bytes. -/
def bigEndian (l : List Byte) : Nat := l.foldl (fun a b => 256 * a + b.toNat) 0

/-- A message padded to whole blocks of 128 bytes: a one bit, zeros, and its length in bits in 128 bits. -/
def shaPad (m : List Byte) : List Byte :=
  m ++ [0x80] ++ List.replicate ((239 - m.length % 128) % 128) 0 ++ (List.range 16).map (fun i => BitVec.ofNat 8 (8 * m.length / 256 ^ (15 - i)))

/-- The SHA-384 digest of a byte string: 48 bytes, the first of them the most significant. -/
def sha384 (m : List Byte) : BitVec 384 :=
  let p := shaPad m
  let word (i j : Nat) : BitVec 64 := BitVec.ofNat 64 (bigEndian ((p.drop (128 * i + 8 * j)).take 8))
  let v := (List.range (p.length / 128)).foldl (fun v i => shaBlock v ((List.range 16).map (word i))) shaStart
  BitVec.ofNat 384 ((v.take 6).foldl (fun a x => 2 ^ 64 * a + x.toNat) 0)

/-! ## ECDSA on P-384 -/

/-- The prime of the field, the order of the group, the curve's b and its base point. -/
def p384Prime : Nat := 2 ^ 384 - 2 ^ 128 - 2 ^ 96 + 2 ^ 32 - 1
def p384Order : Nat := 0xFFFFFFFFFFFFFFFFFFFFFFFFFFFFFFFFFFFFFFFFFFFFFFFFC7634D81F4372DDF581A0DB248B0A77AECEC196ACCC52973
def p384B : Nat := 0xB3312FA7E23EE7E4988E056BE3F82D19181D9C6EFE8141120314088F5013875AC656398D8A2ED19D2A85C8EDD3EC2AEF
def p384X : Nat := 0xAA87CA22BE8B05378EB1C71EF320AD746E1D3B628BA79B9859F741E082542A385502F25DBF55296C3A545E3872760AB7
def p384Y : Nat := 0x3617DE4A96262C6F5D9E98BF9292DC29F8F41DBD289A147CE9DA3113B5F0B8C00A60B1CE1D7E819D7A431D7C90EA0E5F

/-- a to the e modulo m, for e of fewer than 384 bits. -/
def powMod (a e m : Nat) : Nat := (List.range 384).foldr (fun i r => let q := r * r % m; if e.testBit i then q * a % m else q) 1

/-- The inverse of a number modulo a prime. -/
def invMod (a m : Nat) : Nat := powMod (a % m) (m - 2) m

/-- A point of the curve; none is the point at infinity. -/
abbrev Point := Option (Nat × Nat)

/-- Whether a pair is a point of the curve: its y squared is x cubed less 3 x plus b. -/
def onCurve (x y : Nat) : Bool := x < p384Prime && y < p384Prime && (y * y + 3 * x) % p384Prime == (x * x * x + p384B) % p384Prime

/-- The third point on the line of slope k through two points, mirrored. -/
def chord (k x₁ y₁ x₂ : Nat) : Point :=
  let x := (k * k + 2 * p384Prime - x₁ - x₂) % p384Prime
  some (x, (k * (x₁ + p384Prime - x) + p384Prime - y₁) % p384Prime)

/-- The sum of two points. -/
def pointAdd (a b : Point) : Point :=
  match a, b with
  | none, q => q
  | q, none => q
  | some (x₁, y₁), some (x₂, y₂) =>
    if x₁ = x₂ then
      if (y₁ + y₂) % p384Prime = 0 then none
      else chord ((3 * x₁ * x₁ + p384Prime - 3) * invMod (2 * y₁) p384Prime) x₁ y₁ x₂
    else chord ((y₂ + p384Prime - y₁) * invMod (x₂ + p384Prime - x₁) p384Prime) x₁ y₁ x₂

/-- A multiple of a point, for a number of fewer than 384 bits. -/
def pointMul (k : Nat) (a : Point) : Point := (List.range 384).foldr (fun i r => let d := pointAdd r r; if k.testBit i then pointAdd d a else d) none

/-- Whether a signature over a message verifies against a public key: the key's x and y, and the signature's r and s, each 48 bytes, big-endian. -/
def ecdsaGood (key : BitVec 768) (message sig : List Byte) : Bool :=
  let x := (key.extractLsb' 384 384).toNat
  let y := (key.setWidth 384).toNat
  let r := bigEndian (sig.take 48)
  let s := bigEndian ((sig.drop 48).take 48)
  if !onCurve x y || r = 0 || p384Order ≤ r || s = 0 || p384Order ≤ s then false
  else
    let w := invMod s p384Order
    let e := (sha384 message).toNat
    match pointAdd (pointMul (e * w % p384Order) (some (p384X, p384Y))) (pointMul (r * w % p384Order) (some (x, y))) with
    | none => false
    | some (x, _) => x % p384Order == r

end Sys2Proof.Machine
end

