-- ==== Sys2Proof/Machine/Multicast.lean ====
section
/-! DEFINITION. Multicast: receivers, replicas, the inbound table, combining of buffer-free messages, and the ending of every copy
(R284 to R292). -/

namespace Sys2Proof.Machine

/-! ## The tree (R288, R292) -/

/-- The next site of the multicast tree towards the sender's site: up the column to its row, then along the row. -/
def treeUp (n root : Nat) : Nat :=
  if rowOf n < rowOf root then n + Config.cols
  else if rowOf root < rowOf n then n - Config.cols
  else if colOf n < colOf root then n + 1
  else if colOf root < colOf n then n - 1
  else n

/-- Sites from n to the root, n first. -/
def treePath (n root fuel : Nat) : List Nat :=
  match fuel with
  | 0 => [n]
  | k + 1 => if n = root then [n] else n :: treePath (treeUp n root) root k

/-- Hops between two sites. -/
def siteDist (a b : Nat) : Nat := (rowOf a - rowOf b) + (rowOf b - rowOf a) + (colOf a - colOf b) + (colOf b - colOf a)

def Combine.isFor (e : Combine) (sender : BitVec 16) (bar : BitVec 6) : Bool := e.sender == sender && e.bar == bar

/-- Closes a multicast when its buffer-frees match the receivers written (R292). -/
def State.closeMcast (s : State) (c b : Nat) : State :=
  match nget (s.core c).mcasts b with
  | some (freed, some w) => if freed = w then (s.modCore c (fun k => { k with mcasts := ndel k.mcasts b })).barEvent c b 1 0 else s
  | _ => s

/-- Counts that reach the sender's core (R292). -/
def State.addFreed (s : State) (c b n : Nat) : State :=
  let s := s.modCore c (fun k => { k with mcasts := match nget k.mcasts b with | some (f, w) => nput k.mcasts b (f + n, w) | none => k.mcasts })
  s.closeMcast c b

/-- A buffer-free message leaves a site towards the sender, or is added to an entry on its way (R292). -/
def State.freeMsg (s : State) (n : Nat) (here : Bool) (src : Sender) (sender : BitVec 16) (bar : BitVec 6) (count fuel : Nat) : State :=
  let part := (s.site n).part
  match fuel, s.coreNamed part.toNat sender with
  | k + 1, some c =>
    let root := siteOf c
    let path := treePath n root 64
    match (if here then path else path.drop 1).find? (fun m => (s.site m).combines.any (fun e => e.isFor sender bar)) with
    | some m =>
      if m = n then
        match (s.site n).combines.find? (fun e => e.isFor sender bar) with
        | some e =>
          if e.got + 1 < e.expect then
            s.modSite n (fun t => { t with combines := t.combines.map (fun x => if x.isFor sender bar then { x with got := x.got + 1, sum := x.sum + count } else x) })
          else
            (s.modSite n (fun t => { t with combines := t.combines.filter (fun x => !x.isFor sender bar) })).freeMsg n false src sender bar (e.sum + count) k
        | none => s
      else s.inject .request src n part (.coords m) (.bufFree sender bar count)
    | none => if n = root then s.addFreed c bar.toNat count else s.inject .request src n part (.coords root) (.bufFree sender bar count)
  | _, _ => s

/-- Messages that a site of the tree expects: one from each of its branches and from each of its own receivers (R292). -/
def treeFan (nodes : List Nat) (root : Nat) (receivers : List Nat) (n : Nat) : Nat :=
  (nodes.filter (fun m => m != root && treeUp m root == n)).length + (receivers.filter (fun d => siteOf d == n)).length

/-- Allocates the combining entries of a multicast: at every live site with a free entry where it branches (R292). -/
def State.allocCombines (s : State) (root : Nat) (sender : BitVec 16) (bar : BitVec 6) (receivers : List Nat) : State :=
  let nodes := (receivers.flatMap (fun d => treePath (siteOf d) root 64)).eraseDups
  nodes.foldl (fun s n =>
    let e := treeFan nodes root receivers n
    if 2 ≤ e && s.siteLive n && (s.site n).combines.length < 64 then
      (s.modSite n (fun t => { t with combines := t.combines ++ [{ sender := sender, bar := bar, expect := e, got := 0, sum := 0 }] })).countRouter n 12
    else s) s

/-! ## Opening and sending (R288, R289) -/

/-- The sender barrier of a multicast. -/
def Channel.mcBar (x : Channel) : BitVec 6 := BitVec.ofNat 6 (wf (x.reg 3) 16 6)

/-- Cores that MCSET selects (R270). -/
def Channel.mcCores (x : Channel) : List Nat :=
  let set := x.reg 5
  (rectSites (BitVec.ofNat 20 (wf set 0 20))).flatMap (fun n => ((List.range 16).filter (fun i => (wf set 48 16).testBit i)).map (16 * n + ·))

/-- A selected core that is skipped (R289). -/
def State.mcSkips (s : State) (d : Nat) : Bool := !s.exposed d || !s.siteLive (siteOf d) || !(s.site (siteOf d)).computeGood

/-- Whether an earlier multicast of the core that names the same sender barrier is open: from its CPGO on (R288). -/
def Core.mcAhead (k : Core) (x : Channel) : Bool :=
  (nget k.mcasts x.mcBar.toNat).isSome ||
    k.channels.any (fun p => p.2.op == 4 && p.2.st != .idle && !p.2.mcOpen && p.2.serial < x.serial && p.2.mcBar == x.mcBar)

/-- Whether a multicast may start: its hold is over and no other one of the core with its barrier is open (R288). -/
def State.mayOpen (s : State) (c ch : Nat) : Bool :=
  let x := s.chan c ch
  x.st == .active && !x.mcOpen && !(s.core c).chanHeld x && !(s.core c).mcAhead x

/-- Starts a multicast (R288, R289, R292): its receivers, and the combining entries of those whose sites can send. A skipped core of a
live site sends its count of 0 at once. -/
def State.openMcast (s : State) (c ch : Nat) : State :=
  let x := s.chan c ch
  let cores := if x.total = 0 then [] else x.mcCores
  let skips := cores.filter s.mcSkips
  let rs := cores.map (fun d => { core := d, closed := s.mcSkips d, answered := s.mcSkips d, written := false, bytes := 0 : Receiver })
  let s := s.modCore c (fun k => { k with mcasts := nput k.mcasts x.mcBar.toNat (0, none) })
  let s := s.modChan c ch (fun x => { x with mcOpen := true, receivers := rs, skipped := !skips.isEmpty })
  let s := s.allocCombines (siteOf c) (s.coreName c) x.mcBar (cores.filter (fun d => s.siteLive (siteOf d)))
  (skips.filter (fun d => s.siteLive (siteOf d))).foldl (fun s d => s.freeMsg (siteOf d) true (.core d) (s.coreName c) x.mcBar 0 64) s

/-- Sends bytes of a multicast to its receivers: one packet for each of the sender's site and one for the others, which the routers replicate
(R288; log 18). -/
def State.mcSend (s : State) (c ch : Nat) (bytes : List (Nat × Byte)) (tail : Option (List Nat × Option (BitVec 6) × Nat)) : State :=
  let x := s.chan c ch
  let site := siteOf c
  let cores := (x.receivers.filter (fun r => !s.mcSkips r.core)).map (·.core)
  let body (l : List Nat) : Body := .replica ch l (s.coreName c) x.mcBar bytes tail
  let s := (cores.filter (fun d => siteOf d == site)).foldl (fun s d => s.inject .request (.core c) site (s.site site).part (.coords site) (body [d])) s
  match cores.filter (fun d => siteOf d != site) with
  | [] => s
  | d :: t => s.inject .request (.core c) site (s.site site).part (.coords (siteOf d)) (body (d :: t))

/-- A segment of a multicast leaves the core; the last one has the ending with it. The bytes of a unit that later elements complete wait for
them, so that each unit is written whole (R169). -/
def mcDeliver (c ch : Nat) (s : State) (x : Channel) (seg : Segment) (o : SegOut) : State :=
  let all := (s.chan c ch).edge ++ farBytes x.es (seg.dsts.zip o.vals)
  let later := (s.chan c ch).laterUnits all []
  let bytes := all.filter (fun b => !later.contains (b.1 / 8))
  let s := s.modChan c ch (fun y => { y with mcSent := true, edge := all.filter (fun b => later.contains (b.1 / 8)), edgeTo := some 0xFFFF,
                                             farPlots := (y.farPlots ++ (all.map (fun (b : Nat × Byte) => (0xFFFF, plotOf b.1)))).eraseDups })
  let y := s.chan c ch
  let last := y.next == y.total && y.started.isEmpty && y.outstanding == 0 && y.fail.isNone
  let set := x.reg 5
  let tail := if last then
      some (if (x.reg 0).getLsbD 41 then y.farPlots.map (·.2) else [], if set.getLsbD 47 then some (BitVec.ofNat 6 (wf set 40 6)) else none, x.es * x.total)
    else none
  s.mcSend c ch bytes tail

/-- MCAST (R288): it opens, starts its next segment, or sends a started one. -/
def execMcast (core ch seg : Nat) (s : State) : Out :=
  let x := s.chan core ch
  .next (if x.st == .idle || x.op != 4 then s
    else if seg < x.started.length then s.performSegment core ch seg (mcDeliver core ch)
    else if s.mayOpen core ch then s.openMcast core ch
    else if x.mcOpen && s.mayStart core ch && !x.receivers.isEmpty then s.startSegment core ch
    else s)

/-! ## Receivers (R288 to R291) -/

/-- Counts the bytes that a receiver has been written: STATUS shows those of one destination, the largest (R271). -/
def State.mcWrote (s : State) (c ch d n : Nat) : State :=
  let x := s.chan c ch
  let rs := x.receivers.map (fun r => if r.core == d then { r with bytes := r.bytes + n } else r)
  let b := rs.foldl (fun m r => max m r.bytes) 0
  (s.modChan c ch (fun x => { x with receivers := rs, bytes := max x.bytes b })).modCore c (fun k => k.count 20 none (b - x.bytes))

/-- A receiver answers the sender's channel; a refusal carries its code and detail, and poisons the future at the end (R289). -/
def State.mcAnswer (s : State) (c ch d : Nat) (written : Bool) (refused : Option (Nat × Nat)) : State :=
  s.modChan c ch (fun x => { x with
    receivers := x.receivers.map (fun r => if r.core == d then { r with closed := true, answered := true, written := written } else r)
    mcFail := (x.mcFail.or x.fail).or (refused.map (fun p => (BitVec.ofNat 8 p.1, BitVec.ofNat 48 p.2))) })

/-- A failure of a multicast that ends no receiver: it poisons the future at the end (R289). -/
def State.mcFails (s : State) (c ch : Nat) (code : BitVec 8) (detail : Nat) : State :=
  s.modChan c ch (fun x => { x with mcFail := (x.mcFail.or x.fail).or (some (code, BitVec.ofNat 48 detail)) })

/-- The answer of a receiver reaches the sender: the bytes it was written, and with its ending how it ended. -/
def State.takeMcAns (s : State) (c ch d n : Nat) (ending : Option (Bool × Option (Nat × Nat))) : State :=
  let s := s.mcWrote c ch d n
  match ending with
  | some (written, refused) => s.mcAnswer c ch d written refused
  | none => s

/-- A receiver takes no further replica of a multicast. -/
def State.mcOver (s : State) (c ch d : Nat) : State :=
  s.modChan c ch (fun x => { x with receivers := x.receivers.map (fun r => if r.core == d then { r with closed := true } else r) })

/-- A receiver is refused: it logs it, answers the sender, and its site sends a count of 0 (R289, R291, R292). A plot of the sender's own
that the engine may not touch is its OWNER, which no inbound refusal logs (R287). -/
def State.mcRefuse (s : State) (f : Flight) (c ch d : Nat) (sender : BitVec 16) (bar : BitVec 6) (code : Nat) (addr : Nat) : State :=
  let own := c = d ∧ code = 0x42
  let s := if own then s else s.modCore d (fun k => k.refuseInbound code sender addr)
  let dn := (s.coreName d).toNat
  let fail := if code = 0x43 then (code, dn) else if own then (0x41, addr) else (code, dn * 2 ^ 32 + addr % 2 ^ 20)
  ((s.mcOver c ch d).answer f (.mcAns ch d 0 (some (false, some fail)))).freeMsg (siteOf d) true (.core d) sender bar 0 64

/-- A receiver's ending (R288): the flips, its event, and the answer, with the bytes last written. -/
def State.mcEnding (s : State) (f : Flight) (c ch d n : Nat) (last : List Nat × Option (BitVec 6) × Nat) : State :=
  let s := s.modCore d (fun k => k.toThread last.1)
  let s := match last.2.1 with | some b => s.barEvent d b.toNat 1 (BitVec.ofNat 32 ((last.2.2 + 31) / 32)) | none => s
  (s.mcOver c ch d).answerLate f (.mcAns ch d n (some (true, none)))

/-- A replica arrives (R288 to R291): its writes, then with the last one the inbound entry and the receiver's ending. Where a plot that it flips
is still used, the bytes are written and what is left of the packet waits for the end of that use (R278). -/
def execMcastReceive (fid : Nat) (s : State) : Out :=
  .next (match s.arrivedFrom fid with
    | some (Sender.core c, Body.replica ch (d :: _) sender bar bytes last) =>
      let refused := !((s.chan c ch).receivers.any (fun r => r.core == d && !r.closed))
      let waits : Bool := match last with | some (ps, _) => ps.any ((s.dropFlight fid).plotInUse d) | none => false
      if !refused && waits && bytes.isEmpty then s
      else s.withPacket fid (fun f s =>
        if refused then s
        else if bytes.isEmpty then (match last with | some l => s.mcEnding f c ch d 0 l | none => s)
        else match s.notEngine d (bytes.map (·.1)) with
          | some a => s.mcRefuse f c ch d sender bar 0x42 a
          | none =>
            if 16 ≤ (s.core d).inbound.length then s.mcRefuse f c ch d sender bar 0x43 0
            else
              let s := s.modCore d (fun k => { k with ls := memPuts k.ls bytes })
              match last with
              | none => s.answer f (.mcAns ch d bytes.length none)
              | some l =>
                let s := s.modCore d (fun k => { k with inbound := k.inbound ++ [(sender, bar)] })
                if waits then { s.answer f (.mcAns ch d bytes.length none) with flights := (s.answer f (.mcAns ch d bytes.length none)).flights ++ [{ f with body := .replica ch [d] sender bar [] last }] }
                else s.mcEnding f c ch d bytes.length l)
    | _ => s)

/-- MCFREE (R290). -/
def execMcfree (rs1 : BitVec 5) (s : State) : Out :=
  issue { instr := .mcfree rs1, roles := notT, regs := [sx rs1] } (fun s =>
    let sender : BitVec 16 := BitVec.ofNat 16 (wf (s.xv rs1) 0 16)
    let bar : BitVec 6 := BitVec.ofNat 6 (wf (s.xv rs1) 16 6)
    let c := s.curCore
    if s.here.inbound.contains (sender, bar) then
      let s := s.modHere (fun k => { k with inbound := k.inbound.erase (sender, bar) })
      .done (s.freeMsg (siteOf c) true (.core c) sender bar 1 64)
    else .done (s.count c 21)) s

/-- A buffer-free message is combined or reaches the sender (R292). -/
def execBufferFree (fid : Nat) (s : State) : Out :=
  .next (match s.arrivedBody fid with
    | some (.bufFree ..) => s.withPacket fid (fun f s =>
        match f.body with
        | .bufFree sender bar count => s.freeMsg f.dsite true f.src sender bar count 64
        | _ => s)
    | _ => s)

/-! ## The ending of a copy (R284 to R289, R292, R295) -/

/-- Ends a multicast: the receivers written are known; with none the sender event is made now, and the entries of a multicast
that did not send its last segment are removed (R288, R292). A cancelled one ends CANCELLED whatever befell its segments (R295). -/
def State.endMcast (s : State) (c ch st : Nat) : State :=
  let x := s.chan c ch
  let b := x.mcBar
  let w := (x.receivers.filter (·.written)).length
  let me := s.coreName c
  let s := if x.next == x.total && x.fail.isNone then s else { s with sites := s.sites.map (fun p => (p.1, { p.2 with combines := p.2.combines.filter (fun e => !e.isFor me b) })) }
  let s := s.modCore c (fun k => { k with mcasts := match nget k.mcasts b.toNat with | some (f, _) => nput k.mcasts b.toNat (if w = 0 then 0 else f, some w) | none => k.mcasts })
  (s.closeMcast c b.toNat).endCopy c ch st (if st = 2 then none else x.fail.or x.mcFail)

/-- A replica of the channel, or the answer of a receiver, is still on its way. -/
def State.replicasOut (s : State) (c ch : Nat) : Bool :=
  s.flights.any (fun f => f.src == .core c && !f.dead && (match f.body with | .replica h .. | .mcAns h .. => h == ch | _ => false))

/-- Whether a multicast has run to an OK ending, at which the sender's plots flip (R278, R284). -/
def Channel.mcOk (x : Channel) : Bool := x.op == 4 && x.mcOpen && x.next == x.total && x.fail.isNone && x.mcFail.isNone && x.total != 0

/-- Whether a channel still keeps bytes for units that no element will complete any more. -/
def Channel.holdsUnits (x : Channel) : Bool := !(x.edge.isEmpty && x.edgeAdds.isEmpty && x.edgeScale.isEmpty)

/-- A copy that comes to no OK ending hands on what it still keeps: the bytes of its performed segments stay written (R278, R295). -/
def State.flushUnits (s : State) (c ch : Nat) : State :=
  let x := s.chan c ch
  let s := s.modChan c ch (fun y => { y with edge := [], edgeAdds := [], edgeScale := [] })
  if x.op == 4 then s.mcSend c ch x.edge none else (s.sendUnits c ch x.edgeTo x.edge x.edgeAdds).sendUnits c ch none x.edgeScale []

/-- COPY_END (R284 to R288). A device failure ends a FAULTED copy as it ends any other (R293). A copy whose barrier event is on its way to another core
ends once it is known whether that core can be reached (R285). A multicast of zero extent whose set is empty too ends with EMPTY (log 64). -/
def execCopyEnd (core ch : Nat) (s : State) : Out :=
  let x := s.chan core ch
  let drained := x.started.isEmpty && x.outstanding == 0
  let finish (s : State) (st : Nat) : State :=
    match s.sendEvent core ch with
    | (s, true) => s.endCopy core ch st (if st = 2 then none else (s.chan core ch).fail)
    | (s, false) => s
  .next (if x.st == .idle || (x.st == .faulted && x.fail.isNone) then s
    else if x.evSent then
      (if s.eventFlies core ch then s
       else if x.st == .cancelling then s.endCopy core ch 2 x.evFail
       else s.endCopy core ch 0 (x.fail.or x.evFail))
    else if !drained || (x.st == .active && (s.core core).chanHeld x) then s
    else if (x.fail.isSome || x.st == .cancelling) && x.holdsUnits then s.flushUnits core ch
    else if x.op == 4 then
      if !x.mcOpen then
        (if s.mayOpen core ch then s.openMcast core ch
         else if x.st == .cancelling then (s.barEvent core x.mcBar.toNat 1 0).endCopy core ch 2 none
         else if x.fail.isSome then (s.barEvent core x.mcBar.toNat 1 0).endCopy core ch 0 x.fail
         else s)
      else if s.replicasOut core ch then s
      else if x.st == .cancelling then s.endMcast core ch 2
      else if x.total = 0 then s.endMcast core ch (if x.mcCores.isEmpty then 1 else 0)
      else if x.receivers.isEmpty then s.endMcast core ch 1
      else if x.fail.isSome || x.next == x.total then
        (if x.mcOk then (if s.flipsWait core x then s else (s.flipPlots core x).endMcast core ch 0) else s.endMcast core ch 0)
      else s
    else if x.st == .cancelling then finish s 2
    else if x.fail.isSome then finish s 0
    else if !x.written then s
    else
      let (s, go) := s.amaxFold core ch
      let y := s.chan core ch
      if !go || s.flipsWait core y then s
      else match y.farFlips core with
        | [] => finish (s.flipPlots core y) 0
        | far => s.sendFlips core ch far)

end Sys2Proof.Machine
end

