-- ==== Sys2Proof/Machine/Site.lean ====
section
/-! DEFINITION. Bring-up and the life of a site: clocks, greeting, configuration, fencing, retirement and its log (R44, R45, R50 to R58). -/

namespace Sys2Proof.Machine

/-! ## Clocks (R51, R53, R56) -/

/-- Whether an edge chiplet drives its reference clock into a site (R51): it borders two adjacent edge sites. -/
def isBordered (n : Nat) : Bool :=
  (List.range 4).any (fun side => (List.range 7).any (fun k =>
    n == edgeSite side k || n == edgeSecond side k))

/-- A neighbour that qualifies as a clock source (R53). -/
def State.clockFrom (s : State) (n dir : Nat) : Option Nat :=
  match neighbour n dir with
  | none => none
  | some m =>
    let t := s.site m
    if (match t.state with | .dark | .retired => false | _ => true) && t.clksrc != 7 && t.depth.toNat < 31 then some m else none

/-- The first source available in the order of R53: code and depth of the site. -/
def State.clockSource (s : State) (n : Nat) (barred : BitVec 3) (maxDepth : Nat) : Option (BitVec 3 × BitVec 5) :=
  if isBordered n && (s.site n).edgeClock && barred != 0 then some (0, 1)
  else (List.range 4).findSome? (fun d =>
    if barred == BitVec.ofNat 3 (d + 1) then none
    else match s.clockFrom n d with
      | some m => if (s.site m).depth.toNat ≤ maxDepth then some (BitVec.ofNat 3 (d + 1), (s.site m).depth + 1) else none
      | none => none)

def opposite (dir : Nat) : Nat := (dir + 2) % 4

/-- The sites that take their clock from a site (R53). -/
def State.dependents (s : State) (n : Nat) : List Nat :=
  (List.range 4).filterMap (fun d => (neighbour n d).filter (fun m => s.siteLive m && (s.site m).clksrc == BitVec.ofNat 3 (opposite d + 1)))

/-- The depths of the sites whose clocks derive from a site follow its own, each 1 more than its source's (R52, R53); no depth exceeds 31 (log 66). -/
def State.deepen (s : State) (n fuel : Nat) : State :=
  match fuel with
  | 0 => s
  | k + 1 => (s.dependents n).foldl (fun s m =>
      let d := min 31 ((s.site n).depth.toNat + 1)
      if (s.site m).depth.toNat == d then s else (s.modSite m (fun t => { t with depth := BitVec.ofNat 5 d })).deepen m k) s

/-- A site's clock source is lost (R53, R54, R56): it gates and switches to the first other source, and the depths behind it follow; or it is FENCED, and
the sites that took their clock from it lose theirs. -/
def State.loseClock (s : State) (n fuel : Nat) : State :=
  match fuel with
  | 0 => s
  | k + 1 =>
    let t := s.site n
    if !s.siteLive n || t.clksrc == 7 then s
    else match s.clockSource n t.clksrc t.depth.toNat with
      | some (src, depth) =>
        let c := if t.clksw == 0xFFFF then t.clksw else t.clksw + 1
        (((s.modSite n (fun t => { t with clksrc := src, depth := depth, gated := true, clksw := c })).countSite n 31).siteReport n (.siteLog n 1)).deepen n 32
      | none =>
        let s := (if t.state == .fenced then s else s.fenceSite n).modSite n (fun t => { t with clksrc := 7 })
        (s.dependents n).foldl (fun s m => s.loseClock m k) s

/-- Whether a packet is one of a site's cores. -/
def Flight.ofSite (f : Flight) (n : Nat) : Bool := match f.src with | .core c => siteOf c == n | _ => false

/-- Every core of a site as it stands when the site enters CLOCKED: `cycle` at 0 and everything else at reset (R27, R54). What its
cores had sent finds no future when it comes back; what had not left is gone. -/
def State.clearCores (s : State) (n : Nat) : State :=
  { s with
    cores := s.cores.filter (fun p => siteOf p.1 != n)
    resv := s.resv.filter (fun r => siteOf r.core != n)
    held := s.held.filter (fun h => siteOf h.core != n)
    traceWaits := s.traceWaits.filter (fun w => siteOf w.1 != n)
    rinvs := s.rinvs.map (fun r => if siteOf r.core == n then { r with claim := none } else r)
    discs := s.discs.map (fun d => if siteOf d.core == n then { d with claim := none } else d)
    gmoves := s.gmoves.map (fun g => if siteOf g.core == n then { g with claim := none } else g)
    chips := s.chips.map (fun p => (p.1, { p.2 with peers := p.2.peers.map (fun q => (q.1, { q.2 with segs := q.2.segs.map (fun x =>
      if siteOf x.core == n then { x with from_ := { x.from_ with dead := true } } else x) })) }))
    flights := (s.flights.filter (fun f => !(f.ofSite n && f.st.isHeld))).map (fun f => if f.ofSite n then { f with dead := true } else f) }

/-- A site as it stands when it enters CLOCKED (R3, R54): every register at reset. The chiplets' tests have been run; a
link bit that was cleared stays 0 (R44). -/
def Site.again (t : Site) (src : BitVec 3) (depth : BitVec 5) (dramGood computeGood : Bool) : Site :=
  { Site.reset with state := .clocked, clksrc := src, depth := depth, dramGood := dramGood, computeGood := computeGood, edgeClock := t.edgeClock,
                    links := t.links.filter (fun p => !p.2) }

/-- CLOCK_LOCK (R53): a DARK site locks to the first source and enters CLOCKED; its chiplets' self-test results stand. -/
def execClockLock (site : Nat) (dramGood computeGood : Bool) (s : State) : Out :=
  let t := s.site site
  .next (if Config.sites ≤ site || !s.up || t.state != .dark then s
    else match s.clockSource site 7 31 with
      | none => s
      | some (src, depth) => (s.clearCores site).modSite site (fun t => t.again src depth dramGood computeGood))

/-- CLOCK_SWITCH (R56): the source is lost; an edge reference that is lost stays so (log 26). -/
def execClockSwitch (site : Nat) (s : State) : Out :=
  let t := s.site site
  .next (if !s.siteLive site || t.clksrc == 7 then s
    else (if t.clksrc == 0 then s.modSite site (fun t => { t with edgeClock := false }) else s).loseClock site Config.sites)

/-- The trace records that waited for gated DRAM which runs again are written, or dropped (R375). -/
def State.flushTraces (s : State) : State :=
  let waits (w : Nat × Nat × List Byte) : Bool := [w.2.1, s.gleanPA w.2.1].any (fun a => (s.site (homeOf a)).gated)
  (s.traceWaits.filter (fun w => !waits w)).foldl (fun s w =>
    if (s.homeCode w.2.1).isSome || (s.site (homeOf (s.gleanPA w.2.1))).state == .fenced then s.count w.1 30 else s.homePuts (placeAt w.2.1 w.2.2) .none none)
    { s with traceWaits := s.traceWaits.filter waits }

/-- RELOCK_DONE (R56): the gated parts resume, and the trace records that waited for the site's DRAM are written, or dropped (R375). -/
def execRelockDone (site : Nat) (s : State) : Out :=
  .next (s.modSite site (fun t => { t with gated := false })).flushTraces

/-! ## Health and greeting (R44, R45) -/

/-- A link of one mesh goes down at both ends and its health bits with it; it stays down (R44). -/
def Site.linkDown (t : Site) (dir : Nat) (yx : Bool) : Site :=
  let b := 4 * dir + (if yx then 1 else 0)
  { t with links := nput t.links (2 * dir + (if yx then 1 else 0)) false, health := t.health &&& ~~~(1#16 <<< b) }

def State.cutLink (s : State) (n dir : Nat) (yx : Bool) : State :=
  let s := s.modSite n (fun t => t.linkDown dir yx)
  match neighbour n dir with
  | some m => s.modSite m (fun t => t.linkDown (opposite dir) yx)
  | none => s

/-- A site drops its links: its neighbours' nibbles for it read 0 (R54). -/
def State.dropLinks (s : State) (n : Nat) : State :=
  (List.range 4).foldl (fun s d =>
    let s := (s.cutLink n d false).cutLink n d true
    match neighbour n d with
    | some m => s.modSite m (fun t => { t with health := t.health &&& ~~~(0xF#16 <<< (4 * opposite d)) })
    | none => s) s

/-- What a greeting sets at one end: the neighbour's results and its links; a link cleared earlier stays 0 (R44, R45). -/
def Site.greeted (t : Site) (dir : Nat) (o : Site) (xy yx : Bool) : Site :=
  let good (l : Nat) (ok : Bool) : Bool := ok && (nget t.links l).getD true
  let gx := good (2 * dir) xy
  let gy := good (2 * dir + 1) yx
  let nib : Nat := (if o.dramGood then 8 else 0) + (if o.computeGood then 4 else 0) + (if gy then 2 else 0) + (if gx then 1 else 0)
  { t with links := nput (nput t.links (2 * dir) gx) (2 * dir + 1) gy
           health := (t.health &&& ~~~(0xF#16 <<< (4 * dir))) ||| (BitVec.ofNat 16 nib <<< (4 * dir))
           greets := nput t.greets dir true }

/-- GREETING (R44): routers of two live neighbours greet on both meshes; a link is good when it completes in both directions. -/
def execGreeting (site dir : Nat) (xyOk yxOk : Bool) (s : State) : Out :=
  .next (match neighbour site dir with
    | none => s
    | some m =>
      if Config.sites ≤ site || !s.siteLive site || !s.siteLive m || ((s.site site).state != .clocked && (s.site m).state != .clocked) then s
      else
        let a := s.site site
        let b := s.site m
        (s.setSite site (a.greeted dir b xyOk yxOk)).setSite m (b.greeted (opposite dir) a xyOk yxOk))

/-! ## Home bits and edge pins (R34, R50) -/

/-- The 28 pinned entries of the edge chiplets (R50). -/
def edgePins : List (Nat × BitVec 32) :=
  (List.range 28).map (fun i => (0xFE0 + i, rtMake true true 0 0 0 (rowOf (edgeSite (i / 7) (i % 7))) (colOf (edgeSite (i / 7) (i % 7)))))

/-- Whether a site has live DRAM and a base die that has passed its test: its home bit (R34). -/
def State.homeLive (s : State) (n : Nat) : Bool := s.hasHome (n * 2 ^ 33)

/-- Writes the home bit of a site in the table of every router that forwards (R34). -/
def State.putHomes (s : State) (site : Nat) (live : Bool) : State :=
  { s with sites := s.sites.map (fun p => if s.forwards p.1 then
      (p.1, { p.2 with phys := nput p.2.phys site (if live then (nget p.2.phys site).getD 0 ||| 0x1000 else (nget p.2.phys site).getD 0 &&& 0xFFF) }) else p) }

/-- Sets home bits: of every live site in this site's table, and of this site in every table (R34). -/
def State.setHomes (s : State) (site : Nat) : State :=
  let live := (List.range Config.sites).filter s.homeLive
  let s := s.modSite site (fun t => { t with phys := live.foldl (fun m n => nput m n ((nget m n).getD 0 ||| 0x1000)) t.phys })
  if s.homeLive site then s.putHomes site true else s

/-- A site enters GREETED: its routers forward, and the wavefront writes its edge pins and the home bits (R34, R50, R54; log 37). -/
def State.enterGreeted (s : State) (site : Nat) : State :=
  (s.modSite site (fun t => { t with state := .greeted, routes := edgePins.foldl (fun m p => nput m p.1 p.2) t.routes })).setHomes site

/-- SITE_GREETED (R54): every link has been greeted. -/
def execSiteGreeted (site : Nat) (s : State) : Out :=
  let t := s.site site
  let all := (List.range 4).all (fun d => (neighbour site d).isNone || (nget t.greets d).isSome)
  .next (if t.state == .clocked && all then s.enterGreeted site else s)

/-- GREET_TIMEOUT (R54): 65,536 cycles after CLOCKED. -/
def execGreetTimeout (site : Nat) (s : State) : Out :=
  .next (if (s.site site).state == .clocked && 65536 ≤ s.siteClock site then s.enterGreeted site else s)

/-- Whether a packet waits for a link of a mesh at a router. -/
def Flight.waitsFor (f : Flight) (site dir : Nat) (yx : Bool) : Bool :=
  let goal := match f.via, f.phase with | some w, false => w | _, _ => f.dsite
  f.st == .moving && f.pos == site && f.yx == yx && f.pos != goal && hopDir f.pos goal f.yx == dir

/-- LINK_TIMEOUT (R44): the link is marked not good; the packet it was carrying, if any, is lost, and what waits for it is answered
BLOCKED. Which packet was cut off is the event's own word. -/
def execLinkTimeout (site dir : Nat) (cut : LinkCut) (s : State) : Out :=
  if Config.sites ≤ site || !s.linkGood site dir cut.yx then .next s
  else
    let s := (s.cutLink site dir cut.yx).siteReport site (.siteLog site 2)
    let waits := s.flights.filter (fun f => f.waitsFor site dir cut.yx)
    let s := (waits.filter (fun f => some f.fid != cut.packet)).foldl (fun s _ => s.countRouter site 3) s
    .next { s with flights := s.flights.map (fun f => if f.waitsFor site dir cut.yx then { f with st := if some f.fid == cut.packet then .lost else .blocked } else f) }

/-! ## Control-chiplet traffic (R29, R55) -/

/-- A system-class packet of a control chiplet rides by coordinates to a site, on the XY mesh or, where that is blocked, on the YX mesh. -/
def State.sysTrip (s : State) (proc site flits : Nat) : State × Bool :=
  let src := s.procPort proc
  let h : Teach := ⟨edgeName proc 6, src, false, none⟩
  match (s.learn src h).ride src site h flits 64 with
  | (s, p) =>
    if p == site then (s, true)
    else match (s.rideBack none p src (s.siteSource p) false none 1).1.ride src site { h with yx := true } flits 64 with
      | (s, q) => (s, q == site)

/-- A site's error answer to a control chiplet, told to the control node. -/
def State.sysRefuse (s : State) (proc site : Nat) (code : BitVec 8) : State :=
  ((s.rideBack none site (s.procPort proc) (s.siteSource site) false none 1).1).report (.refused proc code)

/-! ## Configuration (R50, R55) -/

/-- CONFIG_RECORD (R55): a system-class packet brings the record by coordinates through greeted sites. It is kept for the commit, a
further record before the commit taking its place (log 38), or refused: after a commit, or for a reserved name (R50). -/
def execConfigRecord (site proc : Nat) (name : BitVec 12) (part : BitVec 4) (rect : BitVec 20) (regionW regionH : BitVec 5) (remap : List (BitVec 5))
    (pins : List (BitVec 12 × BitVec 32)) (s : State) : Out :=
  .next (match s.sysTrip proc site (dataFlits 368) with
    | (s, false) => s.report (.refused proc 0x21)
    | (s, true) =>
      match (s.site site).state with
      | .greeted =>
        if 0xFE0 ≤ name.toNat then s.sysRefuse proc site 0
        else
          let r : ConfigRec := { proc := proc, name := name, part := part, rect := rect, rw := regionW, rh := regionH, remap := remap.take 16, pins := pins.take 64 }
          s.modSite site (fun t => { t with staged := some r })
      | .named | .loaded | .running | .fenced => s.sysRefuse proc site 0
      | _ => s)

/-- CONFIG_COMMIT (R55): the closing packet; the site takes its name, partition, remap and pins, and enters NAMED. -/
def execConfigCommit (site : Nat) (s : State) : Out :=
  let t := s.site site
  .next (match t.state, t.staged with
    | .greeted, some r =>
      match s.sysTrip r.proc site 1 with
      | (s, false) => s.report (.refused r.proc 0x21)
      | (s, true) =>
        let s := s.modSite site (fun t => { t with
          state := .named, name := r.name, part := r.part, regionW := r.rw, regionH := r.rh, chiplet := r.proc, staged := none
          remap := (List.range r.remap.length).foldl (fun m i => nput m i (r.remap.getD i 31)) []
          ncores := if t.computeGood then BitVec.ofNat 5 (r.remap.filter (· != 31)).length else 0
          routes := (r.pins.map (fun p => (p.1.toNat, (p.2 &&& 0x3FFFFFF#32) ||| 0x3000000#32))).foldl (fun m p => nput m p.1 p.2) t.routes })
        { s with partRects := nput s.partRects r.part.toNat r.rect }
    | _, _ => s)

/-! ## Retirement (R54, R57, R58) -/

/-- CRC-32 of a dword's bytes (R57). -/
def crc32 (d : Word) : BitVec 32 :=
  let step (c : BitVec 32) : BitVec 32 := if c.getLsbD 0 then (c >>> 1) ^^^ 0xEDB88320 else c >>> 1
  let byte (c : BitVec 32) (b : Nat) : BitVec 32 := (List.range 8).foldl (fun c _ => step c) (c ^^^ BitVec.ofNat 32 b)
  ~~~((List.range 8).foldl (fun c i => byte c (wf d (8 * i) 8)) (BitVec.allOnes 32))

/-- Whether a slot of the retirement log is valid (R57). -/
def logValid (r : Word × Word × Word) : Bool :=
  let k := wf r.1 56 8
  (k == 1 || k == 2) && wf r.2.1 0 32 == (crc32 r.1).toNat && wf r.2.2 0 32 == (~~~(crc32 r.1)).toNat

/-- The valid records from slot 0 on, up to the first that is not (R58). -/
def State.logScan (s : State) : List (Word × Word × Word) :=
  ((List.range 1024).map (fun i => (nget s.retireLog i).getD (BitVec.allOnes 64, BitVec.allOnes 64, BitVec.allOnes 64))).takeWhile logValid

/-- Appends a retirement: record, then commit word; a full log is told to the control node (R57, R58). -/
def State.logAppend (s : State) (site cause : Nat) : State :=
  let n := s.logScan.length
  if 1024 ≤ n then s.report (.logFull site)
  else
    let d0 := wd (2 ^ 56 + cause * 2 ^ 52 + site % 1024 * 2 ^ 42 + s.boots.toNat)
    { s with retireLog := nput s.retireLog n (d0, (crc32 d0).setWidth 64, (~~~(crc32 d0)).setWidth 64) }

/-- Whether the log's valid records leave a site retired (R57). -/
def retiredBy (l : List (Word × Word × Word)) (site : Nat) : Bool :=
  l.foldl (fun b r => if wf r.1 42 10 = site then wf r.1 56 8 == 1 else b) false

/-- A site enters RETIRED: appended to the log, its links dropped (R54); the sites that took their clock from it lose it (R53). -/
def State.retireSite (s : State) (n cause : Nat) : State :=
  let s := ((s.logAppend n cause).dropLinks n).modSite n (fun t => { t with state := .retired, clksrc := 7 })
  (s.dependents n).foldl (fun s m => s.loseClock m Config.sites) s

/-- BRING_UP (R58): the log is scanned and retired sites enter RETIRED without test. -/
def execBringUp (s : State) : Out :=
  if s.up then .next s
  else
    let l := s.logScan
    let s := { s with up := true, boots := s.boots + 1 }
    .next (((List.range Config.sites).filter (retiredBy l)).foldl (fun s n => s.modSite n (fun t => { t with state := .retired })) s)

/-- SELF_TEST_FAIL (R54): retired with cause 1, base die (R46, R57; log 39). -/
def execSelfTestFail (site : Nat) (s : State) : Out := .next (if (s.site site).state == .clocked then s.retireSite site 1 else s)

/-- BASE_DIE_ERROR (R54): a site of states 1 to 5 is fenced. -/
def execBaseDieError (site : Nat) (s : State) : Out :=
  .next (match (s.site site).state with | .clocked | .greeted | .named | .loaded | .running => s.fenceSite site | _ => s)

/-! ## Commands of the control node (R54, R390) -/

/-- A control chiplet in the budget period of its clock (R48). -/
def Proc.inPeriod (p : Proc) : Proc := { p with used := if p.period == periodOf p.cycles.toNat then p.used else [], period := periodOf p.cycles.toNat }

/-- A request at a control chiplet is charged to the control-link budget of its partition (R48). -/
def State.chargeLink (s : State) (d part pa flits : Nat) : State × Bool :=
  let s := s.modProc d Proc.inPeriod
  let p := s.proc d
  if budgetRefuses p.budgets p.used (4 * part + 1) flits then
    (s.modProc d (fun p => let (m, o) := logViolation p.vlog p.voverflow 1 part pa; { p with vlog := m, voverflow := o }), false)
  else (s.modProc d (fun p => { p with used := nput p.used (4 * part + 1) ((nget p.used (4 * part + 1)).getD 0 + flits) }), true)

/-- The site that a command is for: the one that bears the name in the partition, or, by coordinates, one that bears no name (R19, R54; log 66). -/
def State.targetSite (s : State) (t : SiteTarget) : Option Nat :=
  match t.at_ with
  | none => s.siteNamed t.part.toNat t.name
  | some n => if n < Config.sites && !(s.site n).named then some n else none

/-- A command for a site: one flit of the control link's budget (R48), brought to the site by the chiplet; otherwise it is refused. -/
def State.siteCommand (s : State) (t : SiteTarget) (act : Nat → State → State) : State :=
  if 4 ≤ t.proc then s
  else match s.chargeLink t.proc t.part.toNat (t.at_.elim t.name.toNat (fun n => n * 2 ^ 33)) 1 with
    | (s, false) => s.report (.refused t.proc 0x24)
    | (s, true) =>
      match s.targetSite t with
      | none => s.report (.refused t.proc 0x20)
      | some n => match s.sysTrip t.proc n 1 with
        | (s, true) => act n s
        | (s, false) => s.report (.refused t.proc 0x21)

/-- SITE_FENCE (R54, R390). -/
def execSiteFence (site : SiteTarget) (s : State) : Out :=
  .next (s.siteCommand site (fun n s => match (s.site n).state with | .clocked | .greeted | .named | .loaded | .running => s.fenceSite n | _ => s))

/-- SITE_RESET (R54, R390): a FENCED site with a source no deeper than itself (R53) is cleared and enters CLOCKED; greeting repeats. A site whose
DRAM has failed is the home of nothing any more (R34). -/
def execSiteReset (site : ResetCommand) (s : State) : Out :=
  .next (s.siteCommand site.target (fun n s =>
    match (s.site n).state, s.clockSource n 7 (s.site n).depth.toNat with
    | .fenced, some (src, depth) =>
      let s := if site.dramGood then s else s.putHomes n false
      (((s.clearCores n).modSite n (fun t => t.again src depth site.dramGood site.computeGood)).flushTraces).deepen n 32
    | _, _ => s))

/-- SITE_RETIRE (R54, R390): retired with cause 7 (R46, R57; log 39). -/
def execSiteRetire (site : SiteTarget) (s : State) : Out :=
  .next (s.siteCommand site (fun n s => match (s.site n).state with | .fenced => s.retireSite n 7 | _ => s))

/-- HOME_BIT_CLEAR (R34): a control chiplet clears a retired site's home bit in a router's table, by system-class traffic. -/
def execHomeBitClear (router : RouterTarget) (retired : Nat) (s : State) : Out :=
  .next (if (s.site retired).state == .retired && (nget (s.site router.site).phys retired).isSome then
      match s.sysTrip router.proc router.site 1 with
      | (s, true) => s.modSite router.site (fun t => { t with phys := nput t.phys retired (t.physSel retired &&& 0xFFF) })
      | (s, false) => s
    else s)

/-- POWER_LOSS (R58): everything is lost but the store that keeps its content: the retirement log, the bring-up count, the dead
rectangles, the keys; an append that had not written its commit word reads as it stood before. -/
def execPowerLoss (s : State) : Out :=
  .next { State.reset with
    mover := s.mover
    moves := s.moves
    freeCtr := s.freeCtr
    nextId := s.nextId
    retireLog := s.retireLog
    boots := s.boots
    keys := s.keys
    procs := s.procs.map (fun p => (p.1, { Proc.reset with rects := p.2.rects })) }

/-! ## Budgets (R48) -/

/-- BUDGET_PERIOD (R48): the period of the unit's clock is entered; units 24 to 27 are the control chiplets. A network chiplet's clock
shows in nothing but its periods: it has reached the next one (log 40). -/
def execBudgetPeriod (edge : Bool) (unit : Nat) (s : State) : Out :=
  .next (if !edge then (if unit < Config.sites then s.modSite unit (fun t => t.inPeriod (s.siteClock unit)) else s)
    else if unit < 24 then s.modChip unit (fun k => { k with used := [], cycles := (periodOf k.cycles + 1) * 65536 })
    else if unit < 28 then s.modProc (unit - 24) Proc.inPeriod
    else s)

end Sys2Proof.Machine
end

