-- ==== Sys2Proof/Machine/Memory.lean ====
section
/-! DEFINITION. Scalar loads and stores, the A extension and cache control (R117, R124 to R133, R140, R141). -/

namespace Sys2Proof.Machine

/-- A load: rs1 a source, rd a destination (R117). -/
def memLoad (i : Instr) (imm : BitVec 12) (rs1 rd : BitVec 5) (n : Nat) (sx' : Bool) (s : State) : Out :=
  issue { instr := i, roles := anyRole, regs := [sx rs1, dx rd] } (fun s => scalarLoad s rd (s.xv rs1 + immI imm) n sx' none) s

/-- A store: rs1 and rs2 sources (R117). -/
def memStore (i : Instr) (immHi : BitVec 7) (rs2 rs1 immLo : BitVec 5) (n : Nat) (s : State) : Out :=
  issue { instr := i, roles := anyRole, regs := [sx rs1, sx rs2] } (fun s => scalarStore s (s.xv rs2) (s.xv rs1 + immS immHi immLo) n none) s

/-- An AMO (R131): rs1 and rs2 sources, rd a destination. -/
def memAmo (i : Instr) (fn : Nat) (aq rl : BitVec 1) (rs2 rs1 : BitVec 5) (dbl : BitVec 1) (rd : BitVec 5) (s : State) : Out :=
  issue { instr := i, roles := anyRole, regs := [sx rs1, sx rs2, dx rd] } (amoBody fn aq rl rs2 rs1 dbl rd) s

/-- LB (R117). -/
def execLb (imm : BitVec 12) (rs1 rd : BitVec 5) (s : State) : Out := memLoad (.lb imm rs1 rd) imm rs1 rd 1 true s

/-- LH (R117). -/
def execLh (imm : BitVec 12) (rs1 rd : BitVec 5) (s : State) : Out := memLoad (.lh imm rs1 rd) imm rs1 rd 2 true s

/-- LW (R117). -/
def execLw (imm : BitVec 12) (rs1 rd : BitVec 5) (s : State) : Out := memLoad (.lw imm rs1 rd) imm rs1 rd 4 true s

/-- LD (R117). -/
def execLd (imm : BitVec 12) (rs1 rd : BitVec 5) (s : State) : Out := memLoad (.ld imm rs1 rd) imm rs1 rd 8 true s

/-- LBU (R117). -/
def execLbu (imm : BitVec 12) (rs1 rd : BitVec 5) (s : State) : Out := memLoad (.lbu imm rs1 rd) imm rs1 rd 1 false s

/-- LHU (R117). -/
def execLhu (imm : BitVec 12) (rs1 rd : BitVec 5) (s : State) : Out := memLoad (.lhu imm rs1 rd) imm rs1 rd 2 false s

/-- LWU (R117). -/
def execLwu (imm : BitVec 12) (rs1 rd : BitVec 5) (s : State) : Out := memLoad (.lwu imm rs1 rd) imm rs1 rd 4 false s

/-- SB (R117). -/
def execSb (immHi : BitVec 7) (rs2 rs1 immLo : BitVec 5) (s : State) : Out :=
  memStore (.sb immHi rs2 rs1 immLo) immHi rs2 rs1 immLo 1 s

/-- SH (R117). -/
def execSh (immHi : BitVec 7) (rs2 rs1 immLo : BitVec 5) (s : State) : Out :=
  memStore (.sh immHi rs2 rs1 immLo) immHi rs2 rs1 immLo 2 s

/-- SW (R117). -/
def execSw (immHi : BitVec 7) (rs2 rs1 immLo : BitVec 5) (s : State) : Out :=
  memStore (.sw immHi rs2 rs1 immLo) immHi rs2 rs1 immLo 4 s

/-- SD (R117). -/
def execSd (immHi : BitVec 7) (rs2 rs1 immLo : BitVec 5) (s : State) : Out :=
  memStore (.sd immHi rs2 rs1 immLo) immHi rs2 rs1 immLo 8 s

/-- LR (R133). -/
def execLr (aq rl : BitVec 1) (rs1 : BitVec 5) (dbl : BitVec 1) (rd : BitVec 5) (s : State) : Out :=
  issue { instr := .lr aq rl rs1 dbl rd, roles := anyRole, regs := [sx rs1, dx rd] } (lrBody aq rs1 dbl rd) s

/-- SC (R133). -/
def execSc (aq rl : BitVec 1) (rs2 rs1 : BitVec 5) (dbl : BitVec 1) (rd : BitVec 5) (s : State) : Out :=
  issue { instr := .sc aq rl rs2 rs1 dbl rd, roles := anyRole, regs := [sx rs1, sx rs2, dx rd] } (scBody rl rs2 rs1 dbl rd) s

/-- AMOSWAP (R131). -/
def execAmoswap (aq rl : BitVec 1) (rs2 rs1 : BitVec 5) (dbl : BitVec 1) (rd : BitVec 5) (s : State) : Out :=
  memAmo (.amoswap aq rl rs2 rs1 dbl rd) 0b00001 aq rl rs2 rs1 dbl rd s

/-- AMOADD (R131). -/
def execAmoadd (aq rl : BitVec 1) (rs2 rs1 : BitVec 5) (dbl : BitVec 1) (rd : BitVec 5) (s : State) : Out :=
  memAmo (.amoadd aq rl rs2 rs1 dbl rd) 0b00000 aq rl rs2 rs1 dbl rd s

/-- AMOXOR (R131). -/
def execAmoxor (aq rl : BitVec 1) (rs2 rs1 : BitVec 5) (dbl : BitVec 1) (rd : BitVec 5) (s : State) : Out :=
  memAmo (.amoxor aq rl rs2 rs1 dbl rd) 0b00100 aq rl rs2 rs1 dbl rd s

/-- AMOAND (R131). -/
def execAmoand (aq rl : BitVec 1) (rs2 rs1 : BitVec 5) (dbl : BitVec 1) (rd : BitVec 5) (s : State) : Out :=
  memAmo (.amoand aq rl rs2 rs1 dbl rd) 0b01100 aq rl rs2 rs1 dbl rd s

/-- AMOOR (R131). -/
def execAmoor (aq rl : BitVec 1) (rs2 rs1 : BitVec 5) (dbl : BitVec 1) (rd : BitVec 5) (s : State) : Out :=
  memAmo (.amoor aq rl rs2 rs1 dbl rd) 0b01000 aq rl rs2 rs1 dbl rd s

/-- AMOMIN (R131). -/
def execAmomin (aq rl : BitVec 1) (rs2 rs1 : BitVec 5) (dbl : BitVec 1) (rd : BitVec 5) (s : State) : Out :=
  memAmo (.amomin aq rl rs2 rs1 dbl rd) 0b10000 aq rl rs2 rs1 dbl rd s

/-- AMOMAX (R131). -/
def execAmomax (aq rl : BitVec 1) (rs2 rs1 : BitVec 5) (dbl : BitVec 1) (rd : BitVec 5) (s : State) : Out :=
  memAmo (.amomax aq rl rs2 rs1 dbl rd) 0b10100 aq rl rs2 rs1 dbl rd s

/-- AMOMINU (R131). -/
def execAmominu (aq rl : BitVec 1) (rs2 rs1 : BitVec 5) (dbl : BitVec 1) (rd : BitVec 5) (s : State) : Out :=
  memAmo (.amominu aq rl rs2 rs1 dbl rd) 0b11000 aq rl rs2 rs1 dbl rd s

/-- AMOMAXU (R131). -/
def execAmomaxu (aq rl : BitVec 1) (rs2 rs1 : BitVec 5) (dbl : BitVec 1) (rd : BitVec 5) (s : State) : Out :=
  memAmo (.amomaxu aq rl rs2 rs1 dbl rd) 0b11100 aq rl rs2 rs1 dbl rd s

/-! ## Cache control (R140, R141) -/

/-- Sites of a scope instance whose slices hold lines (R24, R26). -/
def State.scopeSites (s : State) (scope : Nat) : List Nat :=
  (List.range Config.sites).filter (fun n => s.inInstance s.curCore scope n && s.hasHome (n * 2 ^ 33))

/-- TDISC (R140): a request to every site of the scope, whose counts are added. -/
def execTdisc (scope : BitVec 4) (rs1 rd : BitVec 5) (s : State) : Out :=
  issue { instr := .tdisc scope rs1 rd, roles := notT, scope := some scope, regs := [sx rs1, dx rd] } (fun s =>
    let id := (s.xv rs1).setWidth 8
    withClaim s .x rd.toNat 1 false fun s c =>
      if id = 0 then .done (s.fillNow s.curCore c (BitVec.allOnes 64))
      else
        match s.scopeSites (s.scopeOf scope) with
        | [] => .done (s.fillNow s.curCore c 0)
        | sites =>
          let g := s.nextId
          let part := (s.site (siteOf s.curCore)).part
          let s := { s.bump with discs := s.discs ++ [{ group := g, core := s.curCore, claim := c, left := sites.length, sum := 0, fail := none }] }
          .done (sites.foldl (fun s n => s.inject .request (.core s.curCore) (siteOf s.curCore) part (.phys (n * 2 ^ 33)) (.cache none (.discard id g))) s)) s

/-- Lines of a span whose segment is resident, by physical line, in rising order of address (R141). The cached resmap decides: a segment that it
shows absent is skipped without a walk (log 53). -/
def pinLines (r : RangeSlot) (lo hi : Nat) : List Nat :=
  ((List.range ((hi + 127) / 128 - lo / 128)).map (fun i => (lo / 128 + i) * 128)).filterMap (fun va =>
    let v := max va r.base.toNat
    if r.resmap.getLsbD ((v - r.base.toNat) / segLen r) then some (lineOf (rangePA r v)) else none)

/-- LPIN and LUNPIN (R141): the span lies in one readable range, then one request to each home site of its lines.
A span that runs past its range latches reason 2 with that range's index, whatever follows it (log 53). -/
def pinBody (pin : Bool) (rs2 rs1 : BitVec 5) (s : State) : Act :=
  let base := s.xv rs1
  let len := (s.xv rs2).toNat
  if len = 0 then .done s
  else if !vaOk base || isLocal base || isWindow base then .trap s 5 base
  else
    let proc := wf s.here.rdir 52 12
    let fail (reason index proc : Nat) (at_ : Word) : Act := .trap (s.modMe (fun t => { t with rfinfo := rfinfoOf reason proc index })) 13 at_
    match s.me.walkOut.filter (fun o => o.va == base) with
    | some o => fail o.reason o.index o.proc base
    | none =>
      match s.here.rangeFor base with
      | none =>
        let (s, id) := s.startWalk s.curCore base s.here.rdir (.slot s.curSlot) true
        .park s (.walker id base)
      | some e =>
        if e.slot.copyOnly || e.slot.isRemote then fail 3 e.index proc base
        else if !permits e.slot .r then fail 2 e.index proc base
        else if e.slot.limit.toNat < base.toNat + len then fail 2 e.index proc (e.slot.limit.setWidth 64)
        else
          let lines := (pinLines e.slot base.toNat (base.toNat + len)).eraseDups
          let homes := (lines.map (fun l => l / 2 ^ 26)).eraseDups
          let part := (s.site (siteOf s.curCore)).part
          let s := s.modHere (fun c => c.useRange e)
          .done (homes.foldl (fun s h =>
            let ls := lines.filter (fun l => l / 2 ^ 26 == h)
            s.inject .request (.core s.curCore) (siteOf s.curCore) part (.phys (h * 2 ^ 33))
              (.cache none (if pin then .pin ls e.slot.tensor else .unpin ls))) s)

/-- LPIN (R141). -/
def execLpin (rs2 rs1 : BitVec 5) (s : State) : Out :=
  issue { instr := .lpin rs2 rs1, roles := notT, regs := [sx rs1, sx rs2] } (pinBody true rs2 rs1) s

/-- LUNPIN (R141). -/
def execLunpin (rs2 rs1 : BitVec 5) (s : State) : Out :=
  issue { instr := .lunpin rs2 rs1, roles := notT, regs := [sx rs1, sx rs2] } (pinBody false rs2 rs1) s

end Sys2Proof.Machine
end

