-- ==== Sys2Proof/Machine/Rma.lean ====
section
/-! DEFINITION. The network chiplets: segments to other modules, acknowledgements, rates, arrivals (R297 to R304). -/

namespace Sys2Proof.Machine

def NetChip.peer (k : NetChip) (r : Nat) : Peer := (nget k.peers r).getD Peer.reset
def State.modPeer (s : State) (n r : Nat) (f : Peer → Peer) : State := s.modChip n (fun k => { k with peers := nput k.peers r (f (k.peer r)) })

/-- Whether a peer exists (R298). -/
def Peer.valid (p : Peer) : Bool := p.ctl.getLsbD 63 && wf p.ctl 58 5 < 24

/-- Oldest unacknowledged sequence, or the next one (R300). -/
def Peer.floor (p : Peer) : BitVec 32 := (p.segs.findSome? (·.seq)).getD p.nextSeq

/-- Distance of two sequences modulo 2^32. -/
def ahead (a b : BitVec 32) : Nat := (a - b).toNat

/-- A frame between two modules (R299): UDP over IPv6 to the peer, ECT(0), a 32-byte header and the data. aux is the floor of a DATA frame and the
cumulative E of an answer. The module's own IPv6 address is no register of the spec and is left out (log 45). -/
def frame (k : NetChip) (chip rmod : Nat) (p : Peer) (kind : Nat) (ece red : Bool) (seq aux : BitVec 32) (pa : BitVec 43) (len : Nat) (data : List Byte) : Report :=
  let flags := (if ece then 1 else 0) + (if red then 2 else 0)
  let header := bytesOf 4 (1 + kind * 2 ^ 8 + flags * 2 ^ 16 + (wf k.modreg 60 4 + rmod % 16 * 16) * 2 ^ 24) ++ bytesOf 4 seq.toNat ++ bytesOf 4 aux.toNat ++
    bytesOf 6 pa.toNat ++ bytesOf 2 len ++ bytesOf 12 0
  .datagram chip rmod (p.ip1 ++ p.ip0) (0xC000 + BitVec.ofNat 16 (wf p.ctl 58 5)) (BitVec.ofNat 16 (wf p.ctl 32 16)) 0b10 (header ++ data)

/-- The DATA datagram of a segment (R299). -/
def dataGram (k : NetChip) (n r : Nat) (p : Peer) (q : RmaSeg) (seq : BitVec 32) : Report :=
  frame k n r p 1 false q.red seq p.floor (BitVec.ofNat 43 q.pa) q.bytes.length q.bytes

/-- A segment leaves the chiplet's list: the chiplet answers the packet that brought it, that it is acknowledged or with the failure that ends its
copy (R36, R299). -/
def State.endRmaSeg (s : State) (q : RmaSeg) (fail : Option (Nat × Nat)) : State :=
  s.answerLate q.from_ (.segAns q.ch (if fail.isNone then q.bytes.length else 0) (fail.map (fun p => (BitVec.ofNat 8 p.1, BitVec.ofNat 48 p.2))))

/-- The next segment waiting at the chiplet is sent with the next sequence number, within the window (R299, R300); where the peer's entry is no
longer valid its copy ends with RMA_REFUSED (R287). -/
def execRmaSegmentSend (chip rmod : Nat) (s : State) : Out :=
  let p := (s.chip chip).peer rmod
  .next (match p.segs.find? (fun q => q.seq.isNone) with
    | none => s
    | some q =>
      if !p.valid then (s.modPeer chip rmod (fun p => { p with segs := p.segs.erase q })).endRmaSeg q (some (0x45, q.pa))
      else if 4096 ≤ ahead p.nextSeq p.floor then s
      else
        let i := (p.segs.takeWhile (fun q => q.seq.isSome)).length
        let seq := p.nextSeq
        let p' : Peer := { p with nextSeq := seq + 1, segs := p.segs.set i { q with seq := some seq } }
        (s.modPeer chip rmod (fun _ => p')).report (dataGram (s.chip chip) chip rmod p' q seq))

/-- The rate after an answer (R302). -/
def Peer.onAnswer (p : Peer) (m : Word) (cut : Bool) : Peer :=
  let rmax := wf m 40 20
  let rmin := wf m 20 20
  let rai := wf m 0 20
  if cut then
    let a := p.alpha + (65536 - p.alpha) / 16
    { p with target := p.rate, alpha := a, rate := max rmin (p.rate * (131072 - a) / 131072), unmarked := 0 }
  else
    let p := { p with alpha := 15 * p.alpha / 16, unmarked := p.unmarked + 1 }
    if p.unmarked = 32 then { p with rate := (p.rate + p.target) / 2, target := min rmax (p.target + rai), unmarked := 0 } else p

/-- ACK (R300, R302): it acknowledges its sequence and every one below the cumulative E. -/
def execAck (chip rmod : Nat) (seq cumE : BitVec 32) (ece : Bool) (s : State) : Out :=
  let k := s.chip chip
  let p := k.peer rmod
  let acked (q : RmaSeg) : Bool := match q.seq with
    | some x => x == seq || (1 ≤ ahead cumE x && ahead cumE x ≤ 4096)
    | none => false
  let s := s.modPeer chip rmod (fun p => { (p.onAnswer k.modreg ece) with segs := p.segs.filter (fun q => !acked q) })
  .next ((p.segs.filter acked).foldl (fun s q => s.endRmaSeg q none) s)

/-- NACK_BUDGET (R302): the segment waits for its timer. -/
def execNackBudget (chip rmod : Nat) (seq cumE : BitVec 32) (ece : Bool) (s : State) : Out :=
  let _ := cumE
  let k := s.chip chip
  .next (s.modPeer chip rmod (fun p => { (p.onAnswer k.modreg (ece || true)) with segs := p.segs.map (fun q => if q.seq == some seq then { q with nacked := true } else q) }))

/-- NACK_REFUSED (R301): the sending copy ends with RMA_REFUSED. -/
def execNackRefused (chip rmod : Nat) (seq cumE : BitVec 32) (ece : Bool) (s : State) : Out :=
  let _ := cumE
  let k := s.chip chip
  let p := k.peer rmod
  let hit := p.segs.filter (fun q => q.seq == some seq)
  let s := s.modPeer chip rmod (fun p => { (p.onAnswer k.modreg ece) with segs := p.segs.filter (fun q => !(q.seq == some seq)) })
  .next (hit.foldl (fun s q => s.endRmaSeg q (some (0x45, q.pa))) s)

/-- A segment's timer expires (R300, R302): it is sent again, or abandoned after the sixth retransmission. -/
def execRmaTimer (chip rmod : Nat) (seq : BitVec 32) (s : State) : Out :=
  let p := (s.chip chip).peer rmod
  .next (match p.segs.find? (fun q => q.seq == some seq) with
    | none => s
    | some q =>
      if q.nacked || q.sends < 6 then
        let q' : RmaSeg := if q.nacked then { q with nacked := false } else { q with sends := q.sends + 1 }
        let p' : Peer := { p with segs := p.segs.map (fun x => if x.seq == some seq then q' else x) }
        (s.modPeer chip rmod (fun _ => p')).report (dataGram (s.chip chip) chip rmod p' q seq)
      else
        let s := s.modPeer chip rmod (fun p => { p with segs := p.segs.filter (fun x => !(x.seq == some seq)) })
        (s.endRmaSeg q (some (0x44, rmod * 2 ^ 44 + seq.toNat))).report (.rmaAbandoned chip rmod seq))

/-! ## Arrivals (R301) -/

/-- E past the marked run; marks below it are forgotten. -/
def Peer.advance (p : Peer) (fuel : Nat) : Peer :=
  match fuel with
  | 0 => p
  | k + 1 => if p.marks.contains p.recvE.toNat then { p with recvE := p.recvE + 1, marks := p.marks.filter (· != p.recvE.toNat) }.advance k else p

/-- E set to the sender's floor when that lies ahead in the window. -/
def Peer.toFloor (p : Peer) (fl : BitVec 32) : Peer :=
  let d := ahead fl p.recvE
  if 1 ≤ d ∧ d ≤ 4096 then { p with recvE := fl, marks := p.marks.filter (fun m => ahead (BitVec.ofNat 32 m) fl < 4096) }.advance 4096 else p

/-- Writes the bytes of a segment at their homes, untranslated; a reduce-add adds FP32 elements (R279, R301). A block that meets a code of R147
is left as it is (log 45). -/
def State.rmaWrite (s : State) (pa : Nat) (red : Bool) (bytes : List Byte) : State :=
  if red then
    (List.range (bytes.length / 4)).foldl (fun s i =>
      let a := pa + 4 * i
      if (s.spanCode a 4).isSome then s
      else s.homeWrite a 4 (fAdd fp32 (s.physRead a 4) (ofBytes ((bytes.drop (4 * i)).take 4))).1 .none none) s
  else s.homePuts ((placeAt pa bytes).filter (fun b => (s.homeCode b.1).isNone)) .none none

/-- Whether a segment of a peer may be written at a physical address: the sites that its bytes lie in, which are at most two (R301). -/
def State.rmaAllowed (s : State) (chip part pa n : Nat) : Bool :=
  let own := s.port (chip / 6) (chip % 6)
  [pa, pa + n - 1].all (fun a =>
    let h := homeOf a
    inRect (s.partRect part) h && s.hasHome a && physHome ((s.site own).physSel h) && (s.site h).state != .fenced)

/-- The ways of a frame's bytes from a chiplet to the homes that they lie in, which are at most two: whether every home is reached. -/
def State.rmaTrips (s : State) (chip part pa n : Nat) : State × Bool :=
  let go (s : State) (a : Nat) : State × Trip := s.reach (.chip chip) (s.port (chip / 6) (chip % 6)) (BitVec.ofNat 4 part) a (dataFlits n) 1
  match go s pa with
  | (s, t) =>
    if homeOf (pa + n - 1) == homeOf pa then (s, t.reached)
    else match go s (pa + n - 1) with
      | (s, u) => (s, t.reached && u.reached)

/-- DATA (R301): a frame of a peer arrives; ce tells whether it arrived with congestion marked. One whose home cannot be
reached on the mesh is answered NACK_REFUSED (log 45). -/
def execData (chip rmod : Nat) (ce red : Bool) (seq floor : BitVec 32) (pa : BitVec 43) (bytes : List (BitVec 8)) (s : State) : Out :=
  let k := s.chip chip
  let p := k.peer rmod
  let drop (s : State) : State := s.modChip chip (fun k => { k with dropped := k.dropped + 1 })
  if !p.valid || wf p.ctl 58 5 != chip then .next (drop s)
  else
    let p := p.toFloor floor
    let part := wf p.ctl 54 4
    let s := s.modPeer chip rmod (fun _ => p)
    let n := bytes.length
    let answer (s : State) (kind : Nat) : State := s.report (frame (s.chip chip) chip rmod ((s.chip chip).peer rmod) kind ce false seq ((s.chip chip).peer rmod).recvE pa n [])
    let d := ahead seq p.recvE
    let back := ahead p.recvE seq
    let flits := (n + 31) / 32
    .next (if d < 4096 && !p.marks.contains seq.toNat then
        if !s.rmaAllowed chip part pa.toNat n then answer s 4
        else if budgetRefuses k.budgets k.used (4 * part) flits then
          answer (s.modChip chip (fun k => let (m, o) := logViolation k.vlog k.voverflow 0 part pa.toNat; { k with vlog := m, voverflow := o })) 3
        else
          match s.rmaTrips chip part pa.toNat n with
          | (s, reached) =>
            if !reached then answer s 4
            else
              let s := s.modChip chip (fun k => { k with used := nput k.used (4 * part) ((nget k.used (4 * part)).getD 0 + flits) })
              let s := s.rmaWrite pa.toNat red bytes
              answer (s.modPeer chip rmod (fun p => { p with marks := p.marks ++ [seq.toNat] }.advance 4096)) 2
      else if d < 4096 || (1 ≤ back && back ≤ 4096) then answer s 2
      else drop s)

/-! ## Peer entries (R298) -/

/-- A write of dword 2 (R298): with valid 1 the pair starts afresh and copies with segments outstanding end with RMA_UNREACHABLE. -/
def State.peerWrite (s : State) (chip rmod : Nat) (v : Word) : State :=
  let k := s.chip chip
  let p := k.peer rmod
  let ctl := v &&& 0xFFC0FFFF00000000
  if !v.getLsbD 63 then s.modPeer chip rmod (fun p => { p with ctl := ctl })
  else
    let rmax := wf k.modreg 40 20
    let s := s.modPeer chip rmod (fun p => { Peer.reset with ip0 := p.ip0, ip1 := p.ip1, ctl := ctl, rate := rmax, target := rmax })
    p.segs.foldl (fun s q =>
      let oldest := ((p.segs.find? (fun x => x.core == q.core && x.ch == q.ch)).bind (·.seq)).getD p.nextSeq
      s.endRmaSeg q (some (0x44, rmod * 2 ^ 44 + oldest.toNat))) s

/-- PEER_ENTRY_WRITE (R298). -/
def execPeerEntryWrite (chip rmod : Nat) (value : BitVec 64) (s : State) : Out :=
  .next (if chip < 24 && rmod < 16 then s.peerWrite chip rmod value else s)

end Sys2Proof.Machine
end

