-- ==== Sys2Proof/Machine/Window.lean ====
section
/-! DEFINITION. Thread windows and the registers of routers and edge chiplets (R23, R33, R34, R46 to R49, R354 to R357, R367). -/

namespace Sys2Proof.Machine

/-! ## Thread windows (R354 to R357) -/

def windowSlot (va : Nat) : Nat := fieldOf va 12 4
def windowOff (va : Nat) : Nat := va % 4096
/-- Core index of the named core in its site. -/
def windowIndex (va : Nat) : Nat := fieldOf va 16 4

/-- CSR number at a window offset (R368), or none. -/
def windowCsr (off : Nat) : Option Nat :=
  if 0x400 ≤ off ∧ off ≤ 0x488 then some (0x800 + (off - 0x400) / 8)
  else if off = 0x490 then some 0xCC2
  else if off = 0x498 then some 0xC02
  else if 0x4A0 ≤ off ∧ off ≤ 0x4D8 then some (0xCC8 + (off - 0x4A0) / 8)
  else none

/-- States of n registers of a file, two bits each (R354). -/
def stateBits (t : Slot) (f : RFile) (n : Nat) : Nat := (List.range n).foldl (fun a i => a + stCode (t.regSt f i) * 4 ^ i) 0

/-- The register and part that the aperture of a slot shows, if any (R356). -/
def Slot.shown (t : Slot) : Option (RFile × Nat × Nat) :=
  let sel := t.aperture.toNat
  let part := fieldOf sel 10 6
  let n := fieldOf sel 0 5
  match fieldOf sel 8 2 with
  | 1 => if t.role == .v && part == 0 then some (.v, n, 0) else none
  | 2 => if t.role == .m && part ≤ 16 && n < 8 then some (.m, n, part) else none
  | 3 => if t.role == .m && n < 4 then some (.c, n, part) else none
  | _ => none

/-- The 2048 bits that a part shows: part p of m and c stands at bit 2048p, for m the scale side as part 16. -/
def Slot.shownBits (t : Slot) (f : RFile) (n p : Nat) : BitVec 2048 :=
  match f with
  | .x => 0
  | .v => (t.vr n).val
  | .m => (t.mr n).val.extractLsb' (2048 * p) 2048
  | .c => (t.cr n).val.extractLsb' (2048 * p) 2048

/-- Replaces bits of a register through the aperture; the register becomes FULL (R355). -/
def Slot.putShown (t : Slot) (f : RFile) (n lo : Nat) (v mask : Word) : Slot :=
  match f with
  | .x => t
  | .v => t.setVr n ⟨.full, ((t.vr n).val &&& ~~~(mask.setWidth 2048 <<< lo)) ||| ((v &&& mask).setWidth 2048 <<< lo)⟩
  | .m => t.setMr n ⟨.full, ((t.mr n).val &&& ~~~(mask.setWidth 34816 <<< lo)) ||| ((v &&& mask).setWidth 34816 <<< lo)⟩
  | .c => t.setCr n ⟨.full, ((t.cr n).val &&& ~~~(mask.setWidth 131072 <<< lo)) ||| ((v &&& mask).setWidth 131072 <<< lo)⟩

/-- slotstat (R354). -/
def Slot.stat (t : Slot) : Word := wd (slotCode t.state + roleCode t.role * 16 + t.brk.toNat * 256)

/-- Dword of the window of slot n of core d at an offset that is a multiple of 8 (R354, R357). -/
def State.windowDword (s : State) (d n off : Nat) : Word :=
  let k := s.core d
  let t := k.slot n
  if off < 0x100 then (t.xr (off / 8)).val
  else if 0x200 ≤ off ∧ off < 0x300 then
    match t.shown with
    | some (f, r, p) => (t.shownBits f r p).extractLsb' (8 * (off - 0x200)) 64
    | none => 0
  else if 0x500 ≤ off ∧ off < 0x580 then
    let a := (nget t.streams ((off - 0x500) / 32)).getD { base := 0, stride1 := 0, stride2 := 0, count1 := 0, pos := 0 }
    match (off - 0x500) % 32 / 8 with
    | 0 => a.base
    | 1 => a.stride1
    | 2 => a.stride2
    | _ => a.pos ++ a.count1
  else if 0xF00 ≤ off ∧ off < 0xF80 then
    let x := s.chan d ((off - 0xF00) / 32)
    match (off - 0xF00) % 32 / 8 with
    | 1 => x.status
    | 2 => x.faddr
    | _ => 0
  else match windowCsr off with
    | some c => t.csr c
    | none =>
      match off with
      | 0x100 => wd (stateBits t .x 32)
      | 0x108 => wd (stateBits t .v 32)
      | 0x110 => wd (stateBits t .m 8 + stateBits t .c 4 * 2 ^ 16)
      | 0x118 => t.pc
      | 0x120 => t.tcause
      | 0x128 => t.tval
      | 0x130 => t.tpc
      | 0x138 => t.stat
      | 0x140 => t.aperture.setWidth 64
      | 0x4E0 => if n = 14 then k.hepc else 0
      | 0x4E8 => if n = 14 then k.hnote else 0
      | 0x4F0 => if n = 14 then k.hstat else 0
      | _ => 0

/-- n bytes of a window (R355). -/
def State.windowRead (s : State) (d va n : Nat) : Nat :=
  fieldOf (s.windowDword d (windowSlot va) (windowOff va / 8 * 8)).toNat (8 * (va % 8)) (8 * n)

/-- An access through the aperture that names a register of an unfinished MDOT waits (R259, R356). -/
def State.windowWaits (s : State) (d va : Nat) : Bool :=
  let off := windowOff va
  if 0x200 ≤ off ∧ off < 0x300 then
    match (s.core d).array, (s.slot d (windowSlot va)).shown with
    | some a, some (f, r, _) => a.slot == windowSlot va && ((f == .c && r == a.cd) || (f == .m && (r == a.ma || r == a.mb)))
    | _, _ => false
  else false

/-- Offsets that may be written only while the slot is FROZEN or HALTED (R355); those of the K-role slot's registers are nothing in another
slot's window (R354). -/
def liveGuarded (sl off : Nat) : Bool :=
  off < 0x100 || (0x118 ≤ off && off < 0x120) || (0x200 ≤ off && off < 0x300) || (0x400 ≤ off && off < 0x4E0) || (sl == 14 && 0x4E0 ≤ off && off < 0x4F8) ||
    (0x500 ≤ off && off < 0x580)

/-- Writes n bytes of a window (R355): none when the slot is live. Commands of channels are not writes of this kind. -/
def State.windowWrite (s : State) (d va n : Nat) (v : Word) : Option State :=
  let sl := windowSlot va
  let off := windowOff va / 8 * 8
  let sh := 8 * (va % 8)
  let mask : Word := wd (2 ^ (8 * n) - 1) <<< sh
  let w : Word := v <<< sh
  let t := s.slot d sl
  let put (old : Word) : Word := (old &&& ~~~mask) ||| (w &&& mask)
  if liveGuarded sl off && t.state != .frozen && t.state != .halted then none
  else if off < 0x100 then
    some (if off = 0 then s else s.modCore d (fun k =>
      let was := ((k.slot sl).xr (off / 8)).st
      let k := k.dropReg sl .x (off / 8)
      let k := k.setSlot sl ((k.slot sl).setXr (off / 8) ⟨.full, put ((k.slot sl).xr (off / 8)).val⟩)
      if was = .pending then k.watchFire (fun w => w.target == .slot && w.slot == sl) (off / 8) else k))
  else if 0x200 ≤ off ∧ off < 0x300 then
    some (match t.shown with
      | some (f, r, p) => s.modCore d (fun k =>
          let k := k.dropReg sl f r
          k.setSlot sl ((k.slot sl).putShown f r (2048 * p + 8 * (off - 0x200)) w mask))
      | none => s)
  else if 0x500 ≤ off ∧ off < 0x580 then
    let i := (off - 0x500) / 32
    let a := (nget t.streams i).getD { base := 0, stride1 := 0, stride2 := 0, count1 := 0, pos := 0 }
    let b : Stream := match (off - 0x500) % 32 / 8 with
      | 0 => { a with base := put a.base }
      | 1 => { a with stride1 := put a.stride1 }
      | 2 => { a with stride2 := put a.stride2 }
      | _ =>
        let x := put (a.pos ++ a.count1)
        { a with pos := x.extractLsb' 32 32, count1 := x.setWidth 32 }
    some (s.modSlot d sl (fun t => { t with streams := nput t.streams i b }))
  else match windowCsr off with
    | some c => some (s.modSlot d sl (fun t => t.putCsr c w mask))
    | none =>
      match off with
      | 0x118 => some (s.modSlot d sl (fun t => { t with pc := put t.pc }))
      | 0x140 => some (s.modSlot d sl (fun t => { t with aperture := (put (t.aperture.setWidth 64)).setWidth 16 &&& 0xFF1F }))
      | 0x4E0 => some (if sl = 14 then s.putCoreCsr d 0x5C7 w mask else s)
      | _ => some s

/-- The channel and command that a window store gives, if it is one (R294, R357). -/
def windowCommand (va n : Nat) (v : Word) : Option (Nat × Nat) :=
  let off := windowOff va
  if 0xF00 ≤ off ∧ off < 0xF80 ∧ off % 32 = 0 then
    let x := v.toNat % 2 ^ (8 * n)
    if x = 1 ∨ x = 2 then some ((off - 0xF00) / 32, x) else none
  else none

/-! ## Router and edge registers (R367) -/

/-- A violation log and its overflow counter as registers. -/
def vlogRead (m : NMap Word) (ov : Word) (off : Nat) : Word :=
  if off = 0x9440 then ov else (nget m ((off - 0x9400) / 8)).getD 0

/-- A write of 1 to valid frees an entry; its other fields are read-only (R49). -/
def vlogWrite (m : NMap Word) (off : Nat) (v : Word) : NMap Word :=
  let i := (off - 0x9400) / 8
  if off < 0x9440 ∧ v.getLsbD 63 then nput m i ((nget m i).getD 0 &&& 0x7FFFFFFFFFFFFFFF) else m

def isVlog (off : Nat) : Bool := 0x9400 ≤ off && off ≤ 0x9440

/-- A register of a site's routers (R33, R34, R48, R371). -/
def Site.regRead (t : Site) (off : Nat) : Word :=
  if off < 0x8000 then (t.route (off / 8)).setWidth 64
  else if off < 0x9080 then (t.physSel ((off - 0x8000) / 8)).setWidth 64
  else if 0x9100 ≤ off ∧ off < 0x9120 then (nget t.counters ((off - 0x9100) / 8)).getD 0
  else if 0x9120 ≤ off ∧ off < 0x9140 then (nget t.selects ((off - 0x9120) / 8)).getD 0
  else if 0x9200 ≤ off ∧ off < 0x9400 then ((nget t.budgets ((off - 0x9200) / 8)).getD 0xFFFFFFFF).setWidth 64
  else if isVlog off then vlogRead t.vlog t.voverflow off
  else 0

/-- Writes a register of a site's routers other than the two tables. -/
def Site.regWrite (t : Site) (off : Nat) (v : Word) : Site :=
  if 0x9100 ≤ off ∧ off < 0x9120 then { t with counters := nput t.counters ((off - 0x9100) / 8) v }
  else if 0x9120 ≤ off ∧ off < 0x9140 then { t with selects := nput t.selects ((off - 0x9120) / 8) (v &&& 0xF) }
  else if 0x9200 ≤ off ∧ off < 0x9400 then { t with budgets := nput t.budgets ((off - 0x9200) / 8) (v.setWidth 32) }
  else if isVlog off then { t with vlog := vlogWrite t.vlog off v }
  else t

/-- Dword 3 of a peer entry (R298). -/
def Peer.state3 (p : Peer) : Word := wd (p.rate % 2 ^ 32 * 2 ^ 32 + p.alpha % 2 ^ 16 * 2 ^ 16)

def NetChip.regRead (k : NetChip) (off : Nat) : Word :=
  if off = 0xA000 then k.modreg
  else if 0xA100 ≤ off ∧ off < 0xA300 then
    let p := k.peer ((off - 0xA100) / 32)
    match (off - 0xA100) % 32 / 8 with
    | 0 => p.ip0
    | 1 => p.ip1
    | 2 => p.ctl
    | _ => p.state3
  else if isVlog off then vlogRead k.vlog k.voverflow off
  else 0

/-- Writes a register of a network chiplet (R298). -/
def State.chipWrite (s : State) (n off : Nat) (v : Word) : State :=
  if off = 0xA000 then s.modChip n (fun k => { k with modreg := v })
  else if 0xA100 ≤ off ∧ off < 0xA300 then
    let r := (off - 0xA100) / 32
    match (off - 0xA100) % 32 / 8 with
    | 0 => s.modPeer n r (fun p => { p with ip0 := v })
    | 1 => s.modPeer n r (fun p => { p with ip1 := v })
    | 2 => s.peerWrite n r v
    | _ => s
  else if isVlog off then s.modChip n (fun k => { k with vlog := vlogWrite k.vlog off v })
  else s

/-- A register of a control chiplet (R46, R49, R377). -/
def Proc.regRead (p : Proc) (off : Nat) : Word :=
  if 0xB000 ≤ off ∧ off < 0xB100 then (nget p.rects ((off - 0xB000) / 8)).getD 0
  else if off = 0xB100 then p.faultptr
  else if 0xC000 ≤ off ∧ off < 0x10000 then ((nget p.faultlog ((off - 0xC000) / 64)).getD []).getD ((off - 0xC000) % 64 / 8) 0
  else if isVlog off then vlogRead p.vlog p.voverflow off
  else 0

def Proc.regWrite (p : Proc) (off : Nat) (v : Word) : Proc :=
  if 0xB000 ≤ off ∧ off < 0xB100 then { p with rects := nput p.rects ((off - 0xB000) / 8) (v &&& 0xFFFFFF) }
  else if isVlog off then { p with vlog := vlogWrite p.vlog off v }
  else p

/-- Reads a register of the unit that a site name names; here is the site at which the request has arrived. -/
def State.unitRead (s : State) (here : Nat) (name : BitVec 12) (off : Nat) : Word :=
  match edgeOfName name.toNat with
  | some (side, k) => if k = 6 then (s.proc side).regRead off else (s.chip (6 * side + k)).regRead off
  | none => (s.site here).regRead off

/-- A limit of activity 0 or 1 written at a site counts for the edge chiplets that border it: those are its enforcing units (R48; log 50). -/
def State.edgeBudget (s : State) (here i : Nat) (v : Word) : State :=
  ((List.range 28).filter (fun e => here == edgeSite (e / 7) (e % 7) || here == edgeSecond (e / 7) (e % 7))).foldl (fun s e =>
    if e % 7 = 6 then (if i % 4 = 1 then s.modProc (e / 7) (fun p => { p with budgets := nput p.budgets i (v.setWidth 32) }) else s)
    else if i % 4 = 0 then s.modChip (6 * (e / 7) + e % 7) (fun k => { k with budgets := nput k.budgets i (v.setWidth 32) }) else s) s

/-- Writes a register of a unit, other than the two tables of a router. -/
def State.unitWrite (s : State) (here : Nat) (name : BitVec 12) (off : Nat) (v : Word) : State :=
  match edgeOfName name.toNat with
  | some (side, k) => if k = 6 then s.modProc side (fun p => p.regWrite off v) else s.chipWrite (6 * side + k) off v
  | none =>
    let s := if 0x9200 ≤ off ∧ off < 0x9400 then s.edgeBudget here ((off - 0x9200) / 8) v else s
    s.modSite here (fun t => t.regWrite off v)

/-- A route-table write of a partition's software (R33): none when it is refused. -/
def State.routeWrite (s : State) (site part n : Nat) (v : Word) : Option State :=
  let e : BitVec 32 := (v &&& 0x3FFFFFF).setWidth 32
  if 23 < fieldOf e.toNat 0 5 || 21 < fieldOf e.toNat 5 5 || !inRect (s.partRect part) (rtWay e) || Config.sites ≤ rtWay e then none
  else some (s.modSite site (fun t => { t with routes := nput t.routes n e }))

/-- A physical-select write (R34): the home bit stays; a waypoint outside the writer's rectangle is refused. -/
def State.physWrite (s : State) (site part n : Nat) (v : Word) : Option State :=
  let w := wf v 0 10
  if !inRect (s.partRect part) w || Config.sites ≤ w then none
  else some (s.modSite site (fun t => { t with phys := nput t.phys n ((t.physSel n &&& 0x1000) ||| (v.setWidth 13 &&& 0xFFF)) }))

/-- RTRD (R367): a load of a router or edge register. -/
def execRtrd (rs1 rd : BitVec 5) (s : State) : Out :=
  issue { instr := .rtrd rs1 rd, roles := onlyK, priv := true, regs := [sx rs1, dx rd] } (fun s =>
    let a := s.xv rs1
    if a.toNat % 8 ≠ 0 then .trap s 4 a
    else loadGlobal s rd (.router (a.extractLsb' 36 12) (wf a 0 32)) a.toNat 8 false .none none) s

/-- RTWR (R367): a store to a router or edge register, through the store buffer. -/
def execRtwr (rs2 rs1 : BitVec 5) (s : State) : Out :=
  issue { instr := .rtwr rs2 rs1, roles := onlyK, priv := true, regs := [sx rs1, sx rs2] } (fun s =>
    let a := s.xv rs1
    if a.toNat % 8 ≠ 0 then .trap s 6 a
    else if !s.sbRoom then .hold s
    else .done (storeGlobal s (.router (a.extractLsb' 36 12) (wf a 0 32)) a.toNat (.store 8 (s.xv rs2)) .none none [] none)) s

end Sys2Proof.Machine
end

