-- ==== Sys2Proof/Machine/Homes.lean ====
section
/-! DEFINITION. The memory port and the homes: the store buffer, held accesses, loads, stores and atomics at their home slices,
windows and router registers at their units, instruction-cache fills, cache control (R109, R127 to R142, R147 to R151, R155,
R163 to R166, R355, R367). -/

namespace Sys2Proof.Machine

/-! ## Performed accesses (R148) -/

/-- An access is performed: it orders nothing further; an acquire of region scope or wider drops the remote lines (R136, R157). -/
def State.performed (s : State) (c acc : Nat) : State :=
  let drops := (s.core c).accs.any (fun a => a.id == acc && a.drops)
  let s := if drops then s.dropRemote c else s
  s.modCore c (fun k => { k with
    accs := k.accs.map (fun a => if a.id == acc then { a with kind := .none } else a)
    sb := k.sb.filter (fun e => !(e.sent && e.req.acc == acc))
    slots := k.slots.map (fun p => (p.1, { p.2 with acquires := p.2.acquires.filter (· != acc) })) })

/-- An access is performed and answered: nothing of it is left. -/
def State.answered (s : State) (c acc : Nat) : State :=
  (s.performed c acc).modCore c (fun k => { k with accs := k.accs.filter (fun a => a.id != acc) })

/-- A held load has taken its bytes from the buffer: it is performed, and keeps its place in the order of the fills until its own (R94). -/
def State.forwardedLoad (s : State) (c acc : Nat) (claim : Option Nat) : State :=
  match claim with
  | none => s.answered c acc
  | some i => (s.performed c acc).modCore c (fun k => { k with accs := k.accs.map (fun a => if a.id == acc then { a with fillClaim := some i } else a) })

/-- Bits 42:0 that a failed store or a scope miss reports (R130). An RTWR has no physical address: its site name and offset, cut to 43 bits
(log 52). -/
def MemTarget.pa43 (t : MemTarget) : BitVec 43 :=
  match t with
  | .phys pa => BitVec.ofNat 43 pa
  | .window va => BitVec.ofNat 43 va
  | .router n off => BitVec.ofNat 43 (n.toNat * 2 ^ 36 + off)

/-! ## Leaving the core (R129, R151, R155, R163 to R166) -/

/-- A scope miss of a store (R164 to R166). -/
def State.scopeMiss (s : State) (c : Nat) (r : Req) (scope : Nat) (fenced : Bool) : State :=
  let k := s.core c
  let n := min (wf k.scopemiss 43 12 + 1) 0xFFF
  let w := setField k.scopemiss 43 12 n
  let w := if k.scopemiss.getLsbD 63 then w
    else wd (2 ^ 63 + r.slot % 16 * 2 ^ 59 + scope % 8 * 2 ^ 56 + (if fenced then 2 ^ 55 else 0) + n * 2 ^ 43 + r.target.pa43.toNat)
  let s := s.modCore c (fun k => { (k.count 16 none 1) with scopemiss := w })
  let t := s.slot c r.slot
  if t.epoch == r.epoch && !t.ordctl.getLsbD 63 then
    s.modSlot c r.slot (fun t => { t with ordctl := wd (2 ^ 63 + (if t.ordctl.getLsbD 62 then 2 ^ 62 else 0) + r.target.pa43.toNat) })
  else s

/-- The check that the router makes as it injects a checked store (R163): a home in the partition but outside the instance misses. -/
def State.missCheck (s : State) (c : Nat) (e : SbEntry) : State :=
  match e.check, s.targetHome c e.req.target with
  | some (scope, fenced), some h =>
    if scope ≤ 2 && inRect (s.partRect (s.site (siteOf c)).part.toNat) h && !s.inInstance c scope h && (match e.req.target with | .phys pa => s.hasHome pa | _ => true) then
      s.scopeMiss c e.req scope fenced
    else s
  | _, _ => s

/-- Whether the oldest entry still in the buffer may be sent; the fill of an SC keeps its place behind earlier ones (R94, R129, R151, R155). -/
def Core.sbReady (k : Core) (e : SbEntry) : Bool :=
  let sent := k.sb.filter (·.sent)
  !(e.waits.any k.outstanding) && (!e.req.attr.ordered || sent.isEmpty) && !sent.any (fun x => x.req.attr.ordered) &&
    !(e.after.any (fun a => k.accs.any (fun x => x.id == a)))

/-- STORE_BUFFER_SEND (R129): the oldest entry leaves for the memory port. -/
def execStoreBufferSend (core : Nat) (s : State) : Out :=
  let k := s.core core
  .next (match k.sb.find? (fun e => !e.sent) with
    | none => s
    | some e =>
      if !k.sbReady e then s
      else
        let s := s.missCheck core e
        let s := s.modCore core (fun k => { k with sb := k.sb.map (fun x => if x.req.acc == e.req.acc then { x with sent := true } else x) })
        s.inject .request (.core core) (siteOf core) (s.site (siteOf core)).part e.req.target.dest (.mem e.req))

/-- What a held load does once it may go on: it takes the youngest buffered bytes, waits for a store that has been issued meanwhile, or goes
to its home (R129, R149). -/
def State.releaseLoad (s : State) (h : Held) (r : Req) (n : Nat) (sx : Bool) : State :=
  let c := h.core
  match (s.core c).loadPlan r.slot r.acc r.target.lo n with
  | .forward v l =>
    let at_ := (s.core c).cycle + 10
    let s := s.modCore c (fun k => match k.accs.find? (fun a => a.id == r.acc) with | some a => k.sees c a.slot a.epoch l (·.contains r.acc) | none => k)
    (s.forwardedLoad c r.acc r.claim).deliverAt c r.claim at_ (fillW (extendLoad v n sx))
  | .wait l => { s with held := s.held ++ [{ h with waits := l }] }
  | .home => s.inject .request (.core c) (siteOf c) (s.site (siteOf c)).part h.dest h.body

/-- ACCESS_HOLD_RELEASE (R155): an access held at the port goes on once nothing it waits for is outstanding and the fills before its own have
come (R94); an RINV goes to its cores and sites. -/
def execAccessHoldRelease (core access : Nat) (s : State) : Out :=
  .next (match s.held.find? (fun h => h.core == core && h.acc == access) with
    | none => s
    | some h =>
      if h.waits.any (s.core core).outstanding || h.after.any (fun a => (s.core core).accs.any (fun x => x.id == a)) then s
      else
        let s := { s with held := s.held.filter (fun x => !(x.core == core && x.acc == access)) }
        match h.body, h.dest with
        | .rinv id claim proc lo hi _, .coords sc => s.sendRinv core (s.rinvTargets core sc) proc lo hi claim none id
        | .mem r, d =>
          match r.op with
          | .load n sx => s.releaseLoad h r n sx
          | _ => s.inject .request (.core core) (siteOf core) (s.site (siteOf core)).part d (.mem r)
        | b, d => s.inject .request (.core core) (siteOf core) (s.site (siteOf core)).part d b)

/-! ## Failures (R127, R130) -/

/-- A failure that a unit answers: a store's comes back as STORE_FAIL, any other poisons its claim with class 1. A memory code names the block at the
request's own PA, also where the gleaner has moved that block and the error is met at its new home (R147; log 65). -/
def State.failReq (s : State) (f : Flight) (r : Req) (code : BitVec 8) : State :=
  match r.op with
  | .store _ _ => s.answer f (.stFail r.acc r.slot r.epoch code r.target.pa43)
  | _ =>
    let detail := match r.target with | .phys pa => faultPA code ((((s.spanFault pa r.op.size).filter (·.1 == code)).map (·.2)).getD pa) | _ => f.dest.detail
    s.answer f (.fill (some r.acc) r.claim (.poison (descriptor 1 code.toNat detail)))

/-- Latches a failed store, or marks that a further one came (R130). -/
def latchStfail (w : Word) (code : BitVec 8) (pa : BitVec 43) : Word :=
  if w.getLsbD 63 then w ||| 0x4000000000000000 else wd (2 ^ 63 + (if w.getLsbD 62 then 2 ^ 62 else 0) + code.toNat * 2 ^ 48 + pa.toNat)

/-- STORE_FAIL (R130): the failure is counted and latched in the slot that issued the store. -/
def execStoreFail (fid : Nat) (s : State) : Out :=
  .next (match s.arrivedFrom fid with
    | some (Sender.core c, Body.stFail acc slot epoch code pa) => s.withPacket fid (fun _ s =>
        let s := (s.answered c acc).countS c slot 8
        if (s.slot c slot).epoch == epoch then
          s.modSlot c slot (fun t => { t with stfail := latchStfail t.stfail code pa })
        else s)
    | _ => s)

/-! ## Loads (R127, R133, R134, R142, R355, R367) -/

/-- The bytes of a load are taken; answers its delivery. -/
def loadFill (r : Req) (v : Nat) : DVal :=
  match r.op with
  | .load n sx => fillW (extendLoad v n sx)
  | .lr d => fillW (extendLoad v (if d then 8 else 4) true)
  | _ => fillW (wd v)

/-- Registers a reservation at its slice, the oldest of sixteen making room (R133). -/
def State.reserve (s : State) (l c slot : Nat) : State :=
  let s := s.endResv c slot
  let same := s.resv.filter (fun r => r.line % 512 == l % 512 && r.line / 2 ^ 26 == l / 2 ^ 26)
  let s := if same.length < 16 then s else { s with resv := match same with | o :: _ => s.resv.erase o | [] => s.resv }
  { s with resv := s.resv ++ [{ line := l, core := c, slot := slot }] }

/-- A request at the home of its address (R43, R127, R130, R147, R190): what it meets there or on its way on to a moved unit fails it, one
that no answer can reach any more is lost (R44), and one that is served has its effect and its answer. A request that fails is performed when its
poison is delivered (R148). -/
def State.serveHome (s : State) (f : Flight) (c : Nat) (r : Req) (pa back : Nat) (serve : State → State × Body) : State :=
  match s.homeTrip pa r.op.size f.body.flits back with
  | (s, ⟨none, _⟩) => match serve s with | (s, b) => (s.performed c r.acc).answer f b
  | (s, ⟨some code, served⟩) =>
    let s := if served then (serve s).1.performed c r.acc else s
    if code == 0x25 then s.loseFlight f else s.failReq f r code

/-- What a load or LR of physical memory does at its home, and its fill. A line for the L1 takes the place of an older reading of it that is still
on its way, and one that takes none ends the remote-homed copy that the core still has (R149). A unit that the gleaner has moved takes no L1 line as one of
the core's own site (R134; log 61). -/
def State.loadAt (c : Nat) (r : Req) (pa : Nat) (s : State) : State × Body :=
  let at_ := s.gleanPA pa
  let l := lineOf at_
  let (s, inL2) := s.allocLine l r.attr.tensor
  let s := if inL2 then s else s.count c 14
  let d := s.lineAt (lineOf pa)
  let v := s.physRead pa r.op.size
  let isLr := match r.op with | .lr _ => true | _ => false
  let s := if isLr && (s.slot c r.slot).epoch == r.epoch then s.reserve l c r.slot else s
  let own := homeOf at_ == siteOf c && at_ == pa
  let keeps := r.attr.cacheRemote && homeOf pa != siteOf c && !isLr
  let s := if own && !isLr then s.l1Fill c l d false else if keeps then s else s.dropStale c (lineOf pa)
  (if keeps then s.mapFills (fun e m => m == lineOf pa && s.l1Core e m == s.l1Core c m) (fun _ => none) else s,
      if keeps then .lineFill (some r.acc) r.claim (loadFill r v) (lineOf pa) (some d) (s.lineCode l)
      else .fill (some r.acc) r.claim (loadFill r v))

/-- A load or LR of physical memory at its home. -/
def State.loadHome (s : State) (f : Flight) (c : Nat) (r : Req) (pa : Nat) : State :=
  s.serveHome f c r pa (if r.attr.cacheRemote then dataFlits (codeBytes (s.lineCode (lineOf (s.gleanPA pa)))) else 2) (State.loadAt c r pa)

/-- Charges the budget of the unit that a request for a register reaches: a control chiplet has one (R48). -/
def State.chargeUnit (s : State) (f : Flight) (n : BitVec 12) : State × Bool :=
  match edgeOfName n.toNat with
  | some (side, 6) => s.chargeLink side f.part.toNat f.dest.detail 1
  | _ => (s, true)

/-- A load of a router or edge register (R367). -/
def State.loadUnit (s : State) (f : Flight) (c : Nat) (r : Req) (n : BitVec 12) (off : Nat) : State :=
  match s.chargeUnit f n with
  | (s, true) => (s.performed c r.acc).answer f (.fill (some r.acc) r.claim (loadFill r (s.unitRead f.dsite n off).toNat))
  | (s, false) => s.failReq f r 0x24

/-- Whether a request is a load or LR. -/
def MemOp.isLoad (o : MemOp) : Bool := match o with | .load .. | .lr _ => true | _ => false
def MemOp.isAmo (o : MemOp) : Bool := match o with | .amo .. => true | _ => false

/-- HOME_LOAD (R127): a load or LR is performed at its home and its fill sent back. -/
def execHomeLoad (fid : Nat) (s : State) : Out :=
  .next (match s.arrivedFrom fid with
    | some (Sender.core c, Body.mem r) =>
      if !r.op.isLoad then s
      else
        let d := match r.target, s.findFlight fid with | .window va, some f => 16 * f.dsite + windowIndex va | _, _ => 0
        let waits : Bool := match r.target with | .window va => s.windowWaits d va | _ => false
        if waits then s
        else s.withPacket fid (fun f s =>
          match r.target with
          | .phys pa => s.loadHome f c r pa
          | .window va => (s.performed c r.acc).answer f (.fill (some r.acc) r.claim (loadFill r (s.windowRead d va r.op.size)))
          | .router n off => s.loadUnit f c r n off)
    | _ => s)

/-! ## Stores, SC and AMO (R129, R132, R133) -/

/-- A store has been performed: its acknowledgement goes back (R129). -/
def State.ackStore (s : State) (f : Flight) (c : Nat) (r : Req) : State := (s.performed c r.acc).answer f (.ack r.acc)

/-- A store is written at its home. -/
def State.storeHome (s : State) (f : Flight) (c : Nat) (r : Req) (pa n : Nat) (v : Word) : State :=
  s.serveHome f c r pa 1 (fun s => (s.homeWrite pa n v.toNat r.attr (some (c, r.slot)), .ack r.acc))

/-- An SC at its home (R133). One that meets a code of R43 or R147 leaves its slot's reservation as it is; one that finds none and writes
nothing leaves those of other slots (log 42). -/
def State.scHome (s : State) (f : Flight) (c : Nat) (r : Req) (pa n : Nat) (v : Word) : State :=
  s.serveHome f c r pa 2 (fun s =>
    let l := lineOf (s.gleanPA pa)
    let good := s.resv.any (fun x => x.line == l && x.core == c && x.slot == r.slot)
    let s : State := if good then (s.invalSharers l none).homeWrite pa n v.toNat r.attr (some (c, r.slot)) else s
    (s.endResv c r.slot, .fill (some r.acc) r.claim (fillW (if good then 0 else 1))))

/-- A store of a router or edge register that has no row of its own (R367). -/
def State.storeUnit (s : State) (f : Flight) (c : Nat) (r : Req) (n : BitVec 12) (off : Nat) (v : Word) : State :=
  match s.chargeUnit f n with
  | (s, true) => (s.unitWrite f.dsite n off v).ackStore f c r
  | (s, false) => s.failReq f r 0x24

/-- Whether a router store has a row of its own: the two tables of a site (R33, R34). -/
def tableOff (n : BitVec 12) (off : Nat) : Bool := (edgeOfName n.toNat).isNone && off < 0x9080

/-- HOME_STORE (R129, R133): a store or SC is written at its home, or finds no reservation. -/
def execHomeStore (fid : Nat) (s : State) : Out :=
  .next (match s.arrivedFrom fid with
    | some (Sender.core c, Body.mem r) =>
      match r.op, r.target with
      | .store n v, .phys pa => s.withPacket fid (fun f s => s.storeHome f c r pa n v)
      | .sc d v, .phys pa => s.withPacket fid (fun f s => s.scHome f c r pa (if d then 8 else 4) v)
      | .store _ v, .router n off => if tableOff n off then s else s.withPacket fid (fun f s => s.storeUnit f c r n off v)
      | _, _ => s
    | _ => s)

/-- HOME_AMO (R132): one indivisible step at the home. -/
def execHomeAmo (fid : Nat) (s : State) : Out :=
  .next (match s.arrivedFrom fid with
    | some (Sender.core c, Body.mem r) =>
      match r.op, r.target with
      | .amo fn d v, .phys pa => s.withPacket fid (fun f s => s.serveHome f c r pa 2 (fun s =>
          let n := if d then 8 else 4
          let old := wd (s.physRead pa n)
          ((s.invalSharers (lineOf (s.gleanPA pa)) none).homeWrite pa n (amoValue fn d old v).toNat r.attr (some (c, r.slot)),
           .fill (some r.acc) r.claim (fillW (extendLoad old.toNat n true)))))
      | _, _ => s
    | _ => s)

/-! ## Window stores and table writes (R33, R34, R294, R355) -/

/-- Core and slot-window address of a window store's packet. -/
def Flight.windowStore (f : Flight) : Option (Req × Nat × Nat × Nat × Word) :=
  match f.body with
  | .mem r => match r.op, r.target with
    | .store n v, .window va => some (r, 16 * f.dsite + windowIndex va, va, n, v)
    | _, _ => none
  | _ => none

/-- A window store that an event of the table takes: with a command it is a channel's, else the window's. -/
def State.takeWindow (s : State) (fid : Nat) (want : Option Nat) : State :=
  match s.arrivedPacket fid with
  | none => s
  | some f =>
    match f.windowStore, f.src with
    | some (r, d, va, n, v), .core c =>
      match windowCommand va n v, want with
      | some (ch, cmd), some w => if cmd = w then s.withPacket fid (fun f s => (s.chanCommand d ch cmd).ackStore f c r) else s
      | none, none =>
        if s.windowWaits d va then s
        else s.withPacket fid (fun f s => match s.windowWrite d va n v with
          | some s => s.ackStore f c r
          | none => s.failReq f r 0x60)
      | _, _ => s
    | _, _ => s

/-- WINDOW_WRITE (R355). -/
def execWindowWrite (fid : Nat) (s : State) : Out := .next (s.takeWindow fid none)

/-- CHANNEL_RESUME (R294). -/
def execChannelResume (fid : Nat) (s : State) : Out := .next (s.takeWindow fid (some 1))

/-- CHANNEL_ABORT (R294). -/
def execChannelAbort (fid : Nat) (s : State) : Out := .next (s.takeWindow fid (some 2))

/-- A write of one of a site's two tables arrives (R33, R34): applied, or refused with PARTITION. -/
def State.takeTable (s : State) (fid : Nat) (phys : Bool) : State :=
  match s.arrivedPacket fid with
  | none => s
  | some f =>
    match f.body with
    | .mem r =>
      match r.op, r.target with
      | .store _ v, .router n off =>
        if !tableOff n off || (0x8000 ≤ off) != phys then s
        else s.withPacket fid (fun f s =>
          let res := if phys then s.physWrite f.dsite f.part.toNat ((off - 0x8000) / 8) v else s.routeWrite f.dsite f.part.toNat (off / 8) v
          match res, f.src with
          | some s, .core c => s.ackStore f c r
          | some s, _ => s
          | none, .core _ => s.failReq f r 0x23
          | none, .proc d => s.report (.refused d 0x23)
          | none, _ => s)
      | _, _ => s
    | _ => s

/-- ROUTE_ENTRY_WRITE (R33). -/
def execRouteEntryWrite (fid : Nat) (s : State) : Out := .next (s.takeTable fid false)

/-- PHYS_SELECT_WRITE (R34). -/
def execPhysSelectWrite (fid : Nat) (s : State) : Out := .next (s.takeTable fid true)

/-! ## Instruction-cache fills (R109, R138) -/

/-- The line reaches the core, or its failure: a slot that waits for it keeps it for its next turn, or faults there. -/
def State.icacheTake (s : State) (c l : Nat) (d : Option (BitVec 1024)) : State :=
  let v := s.freeCtr
  let s := if d.isSome then s.useFree else s
  s.modCore c (fun k =>
    let k := match d with
      | some x =>
        let keep := if k.icache.length < 256 || (nget k.icache l).isSome then k.icache
          else match k.icache[Config.icacheVictim v % k.icache.length]? with
            | some (j, _) => ndel k.icache j
            | none => k.icache
        { k with icache := nput keep l x }
      | none => k
    let got : FetchWait := match d with | some x => .arrived l x | none => .failed l
    { k with slots := k.slots.map (fun p => (p.1, if p.2.fetch == some (.line l) then { p.2 with fetch := some got } else p.2)) })

/-- ICACHE_FILL (R109): the home reads the line, or the line or its failure arrives at the core. -/
def execIcacheFill (fid : Nat) (s : State) : Out :=
  .next (match s.arrivedFrom fid with
    | some (_, Body.ifetch _ l tensor) => s.withPacket fid (fun f s =>
        match s.homeTrip (l * 128) 128 1 (dataFlits (codeBytes (s.lineCode (lineOf (s.gleanPA (l * 128)))))) with
        | (s, ⟨some code, _⟩) => if code == 0x25 then s.loseFlight f else s.answer f (.ifill l none 0)
        | (s, ⟨none, _⟩) =>
          let a := lineOf (s.gleanPA (l * 128))
          let (s, inL2) := s.allocLine a tensor
          let s := match inL2, f.src with | false, .core c => s.count c 14 | _, _ => s
          s.answer f (.ifill l (some (s.lineAt l)) (s.lineCode a)))
    | some (Sender.core c, Body.ifill l d _) => s.withPacket fid (fun _ s => s.icacheTake c l d)
    | _ => s)

/-! ## Cache control (R140, R141) -/

/-- Pins a line at its slice, or at the one that holds it after a move (R190); a line whose set is all pinned stays unpinned and is counted. -/
def State.pinLine (s : State) (c : Nat) (tensor : BitVec 8) (l : Nat) : State :=
  match s.forwarded (l * 128) 1 1 s.gmoves.length with
  | (s, t) =>
    let l := lineOf (s.gleanPA (l * 128))
    let (u, inL2) := s.allocLine l tensor
    if !t.reached then s
    else if inL2 then { u with l2 := match nget u.l2 l with | some x => nput u.l2 l { x with pin := true } | none => u.l2 }
    else u.count c 13

def State.unpinLine (s : State) (l : Nat) : State :=
  match s.forwarded (l * 128) 1 1 s.gmoves.length with
  | (s, t) =>
    let l := lineOf (s.gleanPA (l * 128))
    if t.reached then { s with l2 := match nget s.l2 l with | some x => nput s.l2 l { x with pin := false } | none => s.l2 } else s

/-- Drops the lines of a tensor identity from the slices of a site, without writing them back (R140). -/
def State.discardSite (s : State) (site : Nat) (id : BitVec 8) : State × Nat :=
  let ls := (s.l2.filter (fun p => p.1 / 2 ^ 26 == site && p.2.tensor == id)).map (·.1)
  (ls.foldl (fun s l => let s := (s.invalSharers l none).clearResv l none; { s with l2 := ndel s.l2 l }) s, ls.length)

/-- CACHE_CONTROL_REQUEST (R140, R141). -/
def execCacheControlRequest (fid : Nat) (s : State) : Out :=
  .next (match s.arrivedFrom fid with
    | some (Sender.core c, Body.cache _ op) => s.withPacket fid (fun f s =>
        match op with
        | .pin ls t => ls.foldl (fun s l => s.pinLine c t l) s
        | .unpin ls => ls.foldl State.unpinLine s
        | .discard id g => let (s, n) := s.discardSite f.dsite id; s.answer f (.discarded g n))
    | _ => s)

/-- The count of one site reaches the core that issued a TDISC; the last one fills or poisons its future (R140). -/
def State.takeDiscard (s : State) (g n : Nat) (fail : Option Word) : State :=
  match s.discs.find? (fun d => d.group == g) with
  | none => s
  | some d =>
    let d' : DiscRec := { d with left := d.left - 1, sum := d.sum + n, fail := d.fail.or fail }
    if 0 < d'.left then { s with discs := s.discs.map (fun x => if x.group == g then d' else x) }
    else
      let s := { s with discs := s.discs.filter (fun x => x.group != g) }
      match d'.fail with
      | some w => s.poisonNow d.core d.claim w
      | none => s.fillNow d.core d.claim (wd d'.sum)

end Sys2Proof.Machine
end

