-- ==== Sys2Proof/Machine/Sched.lean ====
section
/-! DEFINITION. Dispatch, YIELD, stealing and the end of a job (R310, R311, R314, R315, R321, R329 to R332). -/

namespace Sys2Proof.Machine

/-! ## Dispatch (R314, R315) -/

/-- Whether a record of a role may run on a slot, whatever the slot does now. -/
def roleFits (role : Nat) (t : Slot) : Bool := role == 0 || role == roleCode t.role

/-- An EMPTY worker (R314), not named by a LOADCTX. -/
def Slot.emptyWorker (t : Slot) : Bool := t.worker && t.state == .empty && !t.reserved && !t.underSave

/-- Slots that can take a dispatch in a cycle. -/
def Core.dispatchable (k : Core) : List Nat := (List.range 16).filter (fun n => (k.slot n).emptyWorker && (k.slot n).emptied + 16 ≤ k.cycle)

/-- Where a dispatched record stands: an inbox record or the top of a deque. -/
inductive RecSrc where
  | inbox (i : Nat)
  | top (p : Nat)
  deriving DecidableEq, Repr

/-- The eight dwords of a record. -/
def Core.recWords (k : Core) (r : RecSrc) : List Word :=
  match r with
  | .inbox i => lsWords k.ls (inboxAddr i) 8
  | .top p => k.dequeWords p 0

/-- Records in the order in which a dispatch examines them, with the cycle of their entry. -/
def Core.candidates (k : Core) : List (RecSrc × Nat) :=
  k.inboxOrder.map (fun i => (RecSrc.inbox i, ((nget k.inbox i).map (·.entered)).getD 0)) ++
  (List.range 4).filterMap (fun p => match k.deque p with | r :: _ => some (RecSrc.top p, r.entered) | [] => none)

/-- The record and slot of the dispatch of this cycle, if there is one. -/
def Core.choose (k : Core) : Option (RecSrc × Nat) :=
  k.candidates.findSome? (fun q =>
    if q.2 < k.cycle then
      let role := recRole ((k.recWords q.1).getD 0 0)
      (k.dispatchable.find? (fun n => roleFits role (k.slot n))).map (fun n => (q.1, n))
    else none)

/-- Takes a record from its source. -/
def Core.takeRec (k : Core) (r : RecSrc) : Core :=
  match r with
  | .inbox i => { k with inbox := ndel k.inbox i, inboxOrder := k.inboxOrder.filter (· != i) }
  | .top p => { k with deques := nput k.deques p (k.deque p).tail, dequeTop := nput k.dequeTop p (((nget k.dequeTop p).getD 0 + 255) % 256) }

/-- Slot registers at a dispatch (R314, R315). -/
def Slot.dispatched (t : Slot) (ws : List Word) : Slot :=
  let w0 := ws.getD 0 0
  let w1 := ws.getD 1 0
  let t := { t with state := .running, pc := w0 &&& 0xFFFFFFFFFFFF, tag := (recTag w1).setWidth 64, rptstat := 0, stfail := 0,
                    ordctl := t.ordctl &&& 0x4000000000000000, rfinfo := 0, tcause := 0, tval := 0, tpc := 0, park := none, parkCount := 0,
                    epoch := t.epoch + 1, busyUntil := 0, brk := 0, skipBreak := false, acquires := [], fences := [], missScope := none, saw := [],
                    origin := recOrigin w1 }
  let t := (List.range 6).foldl (fun t i => t.setXr (10 + i) ⟨.full, ws.getD (2 + i) 0⟩) t
  (t.setXr 16 ⟨.full, (recOrigin w1).setWidth 64⟩).setXr 17 ⟨.full, (recTag w1).setWidth 64⟩

/-- The task unit of a core can act: it is enabled and its site is RUNNING (R54, R305). -/
def State.unitActs (s : State) (c : Nat) : Bool := s.tasksOn c && (s.site (siteOf c)).state == .running

/-- Whether a dispatch is due at a core in its present cycle. -/
def State.dispatchDue (s : State) (c : Nat) : Bool := s.unitActs c && (s.core c).lastDispatch < (s.core c).cycle && (s.core c).choose.isSome

/-- DISPATCH (R314): a record starts on its slot, or a resume record restores its entry there (R321). -/
def execDispatch (core : Nat) (s : State) : Out :=
  .next (if !s.dispatchDue core then s else match (s.core core).choose with
    | none => s
    | some (r, n) =>
      let k := s.core core
      let ws := k.recWords r
      let w0 := ws.getD 0 0
      let w1 := ws.getD 1 0
      let (p, inbox) := match r with | .inbox _ => (recPrio w0, true) | .top p => (p, false)
      let s := s.modCore core (fun k => { (k.takeRec r) with lastDispatch := k.cycle })
      let s := s.count core 23
      let s := s.stampRec core 2 n p inbox (recTag w1).toNat (recOrigin w1).toNat
      let s := if w0.getLsbD 63 then s.restore core n (.cache (wf w0 0 5))
        else (s.endResv core n).modCore core (fun k => let k := k.clearRegs n; k.setSlot n ((k.slot n).dispatched ws))
      (s.trace core n 6 0 (s.slot core n).pc ((recTag w1).setWidth 64)).modSlot core n (fun t => { t with prio := some p, origin := recOrigin w1, viaInbox := inbox }))

/-! ## YIELD (R321) -/

/-- Whether some waiting record of deque p or above, or of the inbox, may run on a slot of this role. -/
def Core.waitsFor (k : Core) (p : Nat) (t : Slot) : Bool :=
  k.candidates.any (fun q => (match q.1 with | .inbox _ => true | .top i => i ≤ p) && roleFits (recRole ((k.recWords q.1).getD 0 0)) t)

/-- Context-cache entries that are FREE and not reserved (R363). -/
def Core.freeEntries (k : Core) : List Nat := (List.range 32).filter (fun e => (nget k.ctx e).isNone && !k.ctxReserved.contains e)

/-- YIELD (R321): which free entry it takes is open (log 3). It frees the slot's locks as SWAPCTX does (R212; log 20). -/
def execYield (s : State) : Out :=
  issue { instr := .yield, roles := notT } (fun s =>
    let k := s.here
    let t := s.me
    match t.prio, k.freeEntries with
    | some p, e0 :: rest =>
      if !t.specOpen && s.tasksOn s.curCore && (k.deque p).length + k.yieldsTo p < 256 && k.waitsFor p t && (t.role == .s || t.role == .c) then
        let free := e0 :: rest
        let e := free.getD (Config.claimPick s.freeCtr % free.length) e0
        .done ((s.useFree.modHere (fun k => { (k.freeLocks s.curSlot) with
          saves := k.saves ++ [{ slot := s.curSlot, place := .cache e, claim := none, captured := none, yieldPrio := some p, proc := 0 }]
          ctxReserved := k.ctxReserved ++ [e] })).modMe (fun t => { t with underSave := true }))
      else .done s
    | _, _ => .done s) s

/-! ## Stealing (R329, R330) -/

/-- Cores that a thief may ask, in order. -/
def State.victims (s : State) (c : Nat) : List Nat :=
  match s.launchOf c with
  | none => []
  | some l =>
    let sites := match l.levels[l.steal]? with
      | some v => match v.domain with
        | 0 => rectSites l.rect
        | 1 => (rectSites l.rect).filter (s.inInstance c 2)
        | 2 => [siteOf c]
        | _ => []
      | none => []
    (sites.flatMap (fun n => (List.range 16).map (16 * n + ·))).filter s.exposed

/-- The next victim: round-robin after the last one asked, or after the thief, which is skipped. -/
def State.nextVictim (s : State) (c : Nat) : Option Nat :=
  let vs := (s.victims c).filter (· != c)
  let last := (s.core c).stealLast.getD c
  (vs.find? (fun v => last < v)).or vs.head?

/-- Whether a core is idle (R329). -/
def State.idle (s : State) (c : Nat) : Bool :=
  let k := s.core c
  let ws := (List.range 16).filter (fun n => (k.slot n).emptyWorker)
  let roles := k.inboxOrder.map (fun i => recRole ((k.recWords (.inbox i)).getD 0 0)) ++ k.deques.flatMap (fun d => d.2.map (fun r => recRole (r.dwords.getD 0 0)))
  s.unitActs c && (match s.launchOf c with | some l => l.stealen | none => false) && ws.any (fun n => (k.slot n).emptied + 16 ≤ k.cycle) &&
    !roles.any (fun r => ws.any (fun n => roleFits r (k.slot n))) && k.inboxFree.isSome && !k.stealOut && k.stealBlocked ≤ k.cycle

/-- IDLE_STEAL (R329). -/
def execIdleSteal (core : Nat) (s : State) : Out :=
  .next (match s.idle core, s.nextVictim core, (s.core core).inboxFree with
    | true, some v, some i =>
      let k := s.core core
      let mask := ((List.range 16).filter (fun n => (k.slot n).emptyWorker)).foldl (fun (a : BitVec 8) n => a ||| (1#8 <<< roleCode (k.slot n).role)) 0
      let s := s.modCore core (fun k => { k with inboxReserved := k.inboxReserved ++ [i], stealIn := some i, stealOut := true, stealLast := some v })
      let s := s.stampRec core 4 0 0 false 0 (s.coreName v).toNat
      s.inject .steal (.core core) (siteOf core) (s.site (siteOf core)).part (.name (s.coreName v)) (.stealReq mask)
    | _, _, _ => s)

/-- The first deque of a victim whose bottom record may be taken. -/
def Core.stealable (k : Core) (mask : BitVec 8) : Option Nat :=
  (List.range 4).find? (fun p => match (k.deque p).getLast? with
    | some r => r.stealable && (recRole (r.dwords.getD 0 0) == 0 || mask.toNat.testBit (recRole (r.dwords.getD 0 0)))
    | none => false)

/-- STEAL_REQUEST (R329): the victim gives its bottom record or answers FAIL. -/
def execStealRequest (fid : Nat) (s : State) : Out :=
  .next (match s.arrivedFrom fid with
    | some (_, Body.stealReq mask) => s.withPacket fid (fun f s =>
        let c := f.destCore
        let k := s.core c
        match (if s.tasksOn c then k.stealable mask else none) with
        | none => s.answerIn .steal f (.stealAns none)
        | some p =>
          let d := (k.deque p).length - 1
          let ws := k.dequeWords p d
          let r : TaskRec := { dwords := ws.set 0 (ws.getD 0 0 &&& ~~~0x4000000000000), entered := 0, stealable := false, resume := none }
          (s.modCore c (fun k => { k with deques := nput k.deques p (k.deque p).dropLast })).answerIn .steal f (.stealAns (some r)))
    | _ => s)

/-- What a thief does with the answer: the record lands in its reserved place, or the back-off doubles (R329, R330). -/
def State.takeSteal (s : State) (c : Nat) (r : Option TaskRec) : State :=
  match r, (s.core c).stealIn with
  | some r, some i =>
    let s := s.modCore c (fun k => { (k.putInbox i r.dwords) with stealOut := false, stealIn := none, stealBackoff := 64 })
    let w1 := r.dwords.getD 1 0
    s.stampRec c 1 0 (recPrio (r.dwords.getD 0 0)) true (recTag w1).toNat (recOrigin w1).toNat
  | _, _ =>
    let v := (s.core c).stealLast.getD c
    let s := s.modCore c (fun k =>
      let b := min (2 * k.stealBackoff) 4096
      { (k.count 24 none 1) with inboxReserved := k.inboxReserved.filter (fun i => k.stealIn != some i), stealOut := false, stealIn := none,
                                 stealBackoff := b, stealBlocked := k.cycle + b })
    s.stampRec c 5 0 0 false 0 (s.coreName v).toNat

/-- STEAL_ANSWER (R329, R330). -/
def execStealAnswer (fid : Nat) (s : State) : Out :=
  .next (match s.arrivedFrom fid with
    | some (Sender.core c, Body.stealAns r) => s.withPacket fid (fun _ s => s.takeSteal c r)
    | _ => s)

/-- STEAL_BACKOFF (R330): the back-off has expired. -/
def execStealBackoff (core : Nat) (s : State) : Out :=
  .next (if (s.core core).stealBlocked ≤ (s.core core).cycle then s.modCore core (fun k => { k with stealBlocked := 0 }) else s)

/-! ## The end of a job (R311) -/

/-- Whether a core is finished. -/
def Core.finished (k : Core) : Bool :=
  k.slots.all (fun p => p.2.state == .empty && p.2.hold.isEmpty) && k.inboxOrder.isEmpty && k.deques.all (fun d => d.2.isEmpty) &&
    k.claims.isEmpty && k.channels.all (fun x => x.2.st == .idle) && !k.stealOut

/-- Whether a RUNNING site has nothing left to run. -/
def State.siteDone (s : State) (n : Nat) : Bool :=
  (s.site n).state == .running && (List.range (s.site n).ncores.toNat).all (fun i => (s.core (16 * n + i)).finished)

/-- JOB_END (R311): the site returns to LOADED. -/
def execJobEnd (site : Nat) (s : State) : Out :=
  .next (if s.siteDone site then
      let s := ((s.loseMoves site).dropPins site).modSite site (fun t => { t with state := .loaded, launch := none })
      { s with procs := s.procs.map (fun p => (p.1, { p.2 with works := p.2.works.map (fun w => { w with sites := w.sites.filter (· != site) }) })) }
    else s)

end Sys2Proof.Machine
end

