-- ==== Sys2Proof/Machine/Turn.lean ====
section
/-! DEFINITION. A core's next cycle: what is due before it, and what the slot that owns it does (R15, R83, R108, R109, R213, R351, R372). -/

namespace Sys2Proof.Machine

/-- What a turn comes to: a meaning to run, or nothing more. -/
inductive TurnDo where
  | exec (i : Instr) (s : State)
  | next (s : State)

/-! ## Parked slots (R83, R88, R176, R208, R210) -/

/-- Whether the condition of a park still holds. Room that a queue has given up, or a lock that was freed, since the slot parked lets it
issue again, whatever has happened to them meanwhile. -/
def State.parkBlocked (s : State) (c n : Nat) : Bool :=
  let k := s.core c
  let t := k.slot n
  match t.park with
  | none => false
  | some (.reg f r) => t.regSt f r == .pending
  | some (.claims freed) => k.freed == freed
  | some (.walker w _) => k.walks.any (fun x => x.id == w)
  | some (.queue q popped) => match nget k.queues q with | some x => x.popped == popped && x.entries.length == 16 && x.waits.isEmpty | none => false
  | some (.lock b h since) => match nget k.locks b with | some l => l.slot == h && l.since == since && h != n | none => false

/-! ## Fetch (R108 to R110, R138, R372) -/

/-- Word of an instruction-cache line at an address. -/
def lineWord (d : BitVec 1024) (pa : Nat) : IWord := d.extractLsb' (8 * (pa % 128)) 32

/-- The lines that an instruction word at a physical address lies in: an offset of a range need not be a multiple of 4 (R170, R172). -/
def wordLines (pa : Nat) : List Nat := if lineOf (pa + 3) = lineOf pa then [lineOf pa] else [lineOf pa, lineOf pa + 1]

/-- The word at an address, from the lines that it lies in. -/
def wordOf (ds : List (BitVec 1024)) (pa : Nat) : IWord :=
  match ds with
  | [] => 0
  | [d] => lineWord d pa
  | d :: e :: _ => (e ++ d).extractLsb' (8 * (pa % 128)) 32

/-- A line that a slot's fetch finds: in the instruction cache, or come for it. -/
def State.fetched (s : State) (l : Nat) : Option (BitVec 1024) :=
  (match s.me.fetch with | some (.arrived x d) => if x = l then some d else none | _ => none).or (nget s.here.icache l)

/-- The enabled breakpoint that matches the pc, lowest first (R372, R374). -/
def State.bpHit (s : State) : Option (BitVec 3 × Bool) :=
  if s.me.skipBreak then none
  else (List.range 4).findSome? (fun i =>
    let b := (nget s.here.bp i).getD 0
    let mask := wf b 48 16
    if b.getLsbD 0 && (mask == 0 || mask.testBit s.curSlot) && wf b 2 46 == wf s.me.pc 2 46 then some (BitVec.ofNat 3 (i + 1), b.getLsbD 1) else none)

/-- The turn of a slot that may issue: fetch, breakpoints, decoding. -/
def State.fetchTurn (s : State) : TurnDo :=
  let pc := s.me.pc
  if pc.toNat % 4 ≠ 0 then .next (s.trap 0 pc)
  else if !vaOk pc || isLocal pc || isWindow pc then .next (s.trap 1 pc)
  else
    let form : Form := { instr := .ecall, roles := anyRole }
    match translate s pc .x (fun s pa _ => .jump s (wd pa)) with
    | .jump s1 pa =>
      let a := pa.toNat
      match (wordLines a).mapM s1.fetched with
      | some ds =>
        let s1 := s1.modMe (fun t => { t with fetch := none })
        match s1.bpHit with
        | some (b, halt) => .next (if halt then s1.haltBreak b else s1.trapWith 3 pc b)
        | none =>
          let w := wordOf ds a
          match decodeWord w with
          | .ok i => .exec i s1
          | .error _ => .exec (.illegalWord w) s1
      | none =>
        let l := ((wordLines a).find? (fun l => (s1.fetched l).isNone)).getD (lineOf a)
        match s1.me.fetch with
        | some (.failed x) =>
          if x = l then .next (s1.trap 1 pc |>.modMe (fun t => { t with fetch := none }))
          else .next (s1.modMe (fun t => { t with fetch := none })).bubble
        | some (.line x) => if x = l then .next s1.bubble else .next (s1.modMe (fun t => { t with fetch := none })).bubble
        | some (.arrived ..) => .next (s1.modMe (fun t => { t with fetch := none })).bubble
        | none =>
          let tensor := ((s1.here.rangeFor pc).map (·.slot.tensor)).getD 0
          let s1 := (s1.countS s1.curCore s1.curSlot 5).modMe (fun t => { t with fetch := some (.line l) })
          .next (s1.inject .request (.core s1.curCore) (siteOf s1.curCore) (s1.site (siteOf s1.curCore)).part (.phys (l * 128)) (.ifetch s1.curSlot l tensor)).bubble
    | a => .next (finish form s a)

/-! ## The turn (R15, R213) -/

/-- A notification is to enter the handler at this turn of slot 14 (R351). -/
def State.handlerDue (s : State) : Bool :=
  let k := s.here
  s.curSlot == 14 && s.me.role == .k && !k.hbusy && !s.me.underSave &&
    (s.site (siteOf s.curCore)).state != .fenced && (match s.me.state with | .running | .parked | .empty => true | _ => false) &&
    (match k.notes with | n :: _ => n.queued < k.cycle | [] => false)

/-- The slot that owns this cycle takes its turn. -/
def State.slotTurn (s : State) : TurnDo :=
  let t := s.me
  if s.handlerDue then .exec (.handlerEntry s.curCore) s
  else if t.underSave || t.reserved || t.doneWait then .next s.bubble
  else
    match t.state with
    | .empty | .frozen | .halted => .next s.bubble
    | .running =>
      match t.broken with
      | some a => .next (s.trap 30 a)
      | none => if s.here.cycle ≤ t.busyUntil then .next s.bubble else s.fetchTurn
    | .parked =>
      match t.broken with
      | some a => .next (s.trap 30 a)
      | none =>
        if s.parkBlocked s.curCore s.curSlot then
          if t.parklim.toNat % 2 ^ 32 ≠ 0 ∧ t.parklim.toNat % 2 ^ 32 ≤ t.parkCount + 1 then .exec (.parkLimit s.curCore s.curSlot) s
          else .next ((s.modMe (fun t => { t with parkCount := t.parkCount + 1 })).countS s.curCore s.curSlot 4).bubble
        else (s.modMe (fun t => { t with state := .running, park := none, parkCount := 0 })).fetchTurn

/-- The core enters its next cycle (R27). -/
def State.tick (s : State) (c : Nat) : State := s.modCore c (fun k => { k with cycle := k.cycle + 1, turnDue := true })

/-- The slot that owns the core's cycle is the one whose turn runs (R15). -/
def State.seat (s : State) (c : Nat) : State :=
  let s := s.modCore c (fun k => { k with turnDue := false })
  { s with curCore := c, curSlot := (s.core c).cycle % 16 }

/-- Counts the cycle that ends, and whether the array was busy in it (R369, R370). -/
def State.countCycle (s : State) (c : Nat) : State :=
  let s := s.count c 1
  match (s.core c).array with | some _ => s.count c 19 | none => s

/-- Whether a core's clock runs: its site is locked to a source and its cores are not gated (R27, R54, R56). -/
def State.clocked (s : State) (c : Nat) : Bool :=
  let t := s.site (siteOf c)
  c < 16 * Config.sites && !t.gated && (t.ncores == 0 || s.exposed c) && (match t.state with | .dark | .retired => false | .fenced => t.clksrc != 7 | _ => true)

end Sys2Proof.Machine
end

