-- ==== Sys2Proof/Machine/System.lean ====
section
/-! DEFINITION. Notifications, the handler, TRESUME, TKILL, HDONE and the resumption of a slot (R346 to R353, R358 to R361, R374). -/

namespace Sys2Proof.Machine

/-! ## Notifications (R348, R352, R353) -/

/-- A notification that meets a code of R43 on its way: a forwarded one is undelivered, an escalation stops the partition,
any other goes on to the escalation core. -/
def State.noteFails (s : State) (c : Nat) (w : Word) (forwarded : Bool) (code : Nat) : State :=
  if wf w 60 4 == 2 && w.getLsbD 35 then s.partitionStop c
  else
    let esc : BitVec 16 := BitVec.ofNat 16 (wf (s.core c).pair 16 16)
    if forwarded || esc == 0xFFFF then s.undelivered c w code else s.sendNote c esc (forwardNote w) true

/-- Queues a notification: kind 2 goes ahead of all others, in order of arrival within a kind (R348). -/
def queueNote (l : List Note) (n : Note) : List Note :=
  if wf n.word 60 4 = 2 then l.takeWhile (fun x => wf x.word 60 4 == 2) ++ [n] ++ l.dropWhile (fun x => wf x.word 60 4 == 2) else l ++ [n]

/-- NOTIFICATION (R348): queued, or answered BLOCKED-FULL, in which case its sender keeps it for 1,024 cycles. -/
def execNotification (fid : Nat) (s : State) : Out :=
  .next (match s.arrivedFrom fid with
    | some (Sender.core c, Body.note w _) => s.withPacket fid (fun f s =>
        let d := f.destCore
        if (s.core d).notes.length < 64 then s.modCore d (fun k => { k with notes := queueNote k.notes { word := w, queued := k.cycle } })
        else match s.notice f with
          | (s, ok) => { s with flights := s.flights ++ [{ f with st := if ok then .waiting ((s.core c).cycle + Config.noteRetry) else .lost, pos := f.srcSite, phase := false }] })
    | _ => s)

/-- NOTE_RETRY (R348): the notification is sent again, and the packets held behind it go on. -/
def execNoteRetry (fid : Nat) (s : State) : Out :=
  .next (match s.findFlight fid with
    | some f =>
      match f.st, f.src with
      | .waiting t, .core c => if (s.core c).cycle < t then s else ((s.count c 28).reroute fid).settleHeld f.srcSite
      | _, _ => s
    | none => s)

/-- HANDLER_ENTRY (R351): at the turn of slot 14 the head notification enters the handler, and the slot issues nothing. -/
def execHandlerEntry (core : Nat) (s : State) : Out :=
  let s := { s with curCore := core, curSlot := 14 }
  .next (if s.handlerDue then s.enterHandler.bubble else s)

/-- HDONE (R361). -/
def execHdone (s : State) : Out :=
  issue { instr := .hdone, roles := onlyK, priv := true } (fun s => .jump s.leaveHandler.1 s.leaveHandler.2) s

/-! ## TRESUME and TKILL (R359, R360) -/

/-- A resume or kill command: a release at module scope, held until the wait condition holds, then sent by name. -/
def slotCommand (s : State) (rs1 : BitVec 5) (kill : Bool) : Act :=
  releaseCheck s <|
    let a := s.xv rs1
    let id := s.nextId
    let s := s.bump
    let waits := s.releaseWaits 3
    let s := s.modMe (fun t => { t with missScope := none })
    let x : BitVec 20 := a.setWidth 20
    let body : Body := if kill then .tkill (wf a 0 4) id s.curSlot s.me.epoch x else .tresume (wf a 0 4) id s.curSlot s.me.epoch x
    .done (s.portSend waits [] id body (.name (a.extractLsb' 4 16)))

/-- TRESUME (R359). -/
def execTresume (rs1 : BitVec 5) (s : State) : Out :=
  issue { instr := .tresume rs1, roles := onlyK, priv := true, regs := [sx rs1] } (fun s => slotCommand s rs1 false) s

/-- TKILL (R359). -/
def execTkill (rs1 : BitVec 5) (s : State) : Out :=
  issue { instr := .tkill rs1, roles := onlyK, priv := true, regs := [sx rs1] } (fun s => slotCommand s rs1 true) s

/-- A failure of R43 on the way of a command is latched in the slot that issued it (R130, R359). -/
def State.commandFails (s : State) (c issuer epoch : Nat) (code : BitVec 8) (xs1 : BitVec 20) : State :=
  let s := s.countS c issuer 8
  if (s.slot c issuer).epoch == epoch then s.modSlot c issuer (fun t => { t with stfail := latchStfail t.stfail code (xs1.setWidth 43) }) else s

/-- A FROZEN slot goes on at its pc; a break that froze it does not match its first instruction (R359, R374). -/
def State.resumeSlot (s : State) (c n : Nat) : State :=
  let t := s.slot c n
  if t.state == .frozen && !t.underSave && !t.doneWait then
    (s.trace c n 3 0 t.pc 0).modSlot c n (fun t => { t with state := if t.park.isSome then .parked else .running, parkCount := 0, skipBreak := t.brk != 0 })
  else s

/-- A slot that runs, waits or is frozen ends (R359), when its MDOT has completed (R259); one whose DONE waits for its MDOT has ended already. -/
def State.killSlot (s : State) (c n : Nat) : State :=
  let t := s.slot c n
  match t.state with
  | .running | .parked | .frozen =>
    if t.underSave || t.doneWait then s
    else
      let s := (s.trace c n 3 0 t.pc 1).endResv c n
      if (s.core c).array.any (fun a => a.slot == n) then s.modSlot c n (fun t => { t with doneWait := true }) else s.becomeEmpty c n
  | _ => s

/-- TRESUME_APPLY (R359, R360). -/
def execTresumeApply (fid : Nat) (s : State) : Out :=
  .next (match s.arrivedBody fid with
    | some (.tresume n ..) => s.withPacket fid (fun f s => s.resumeSlot f.destCore n)
    | _ => s)

/-- TKILL_APPLY (R359, R360). -/
def execTkillApply (fid : Nat) (s : State) : Out :=
  .next (match s.arrivedBody fid with
    | some (.tkill n ..) => s.withPacket fid (fun f s => s.killSlot f.destCore n)
    | _ => s)

/-- SLOT_RESUME (R310, R374, R390): a HALTED slot of a core by name returns to its earlier state; those of a FENCED site stay (R353). -/
def execSlotResume (core : NodeTarget 16) (slot : BitVec 4) (s : State) : Out :=
  .next (s.siteCommand ⟨core.proc, core.part, core.name.extractLsb' 4 12, none⟩ (fun n s =>
    let c := 16 * n + (core.name.setWidth 4).toNat
    if !s.exposed c then s.sysRefuse core.proc n 0x20
    else if (s.slot c slot.toNat).state == .halted && (s.site n).state != .fenced then s.modSlot c slot.toNat (fun t => { t with state := t.before })
    else s))

end Sys2Proof.Machine
end

