-- ==== Sys2Proof/Machine/Router.lean ====
section
/-! DEFINITION. What routers do with packets on their way (R32, R35 to R44, R443): forwarding, floods for unknown names, BLOCKED,
MOVED, error responses, and what a failure on the way does to the producer's future. -/

namespace Sys2Proof.Machine

/-! ## Failures on the way (R42 to R44) -/

/-- Poisons a claim with a code of R43: the class is that of the waiting future. -/
def State.poisonWith (s : State) (c : Nat) (claim : Option Nat) (code : BitVec 8) (detail : Nat) : State :=
  match claim with
  | some i => s.poisonNow c claim (descriptor (((nget (s.core c).claims i).map (·.cls.toNat)).getD 1) code.toNat detail)
  | none => s

/-- The same packet back at its sender's site with another body, as an answer that has arrived there. -/
def State.comeBack (s : State) (f : Flight) (b : Body) : State :=
  { s.bump with flights := s.flights ++ [{ f with fid := s.nextId, cls := .response, dest := .coords f.srcSite, dsite := f.srcSite, pos := f.srcSite, via := none, phase := false,
                                                  st := .arrived, left := s.nowOf f.src, dead := false, arr := s.nextId, body := b }] }

/-- The slot and epoch that issued an access. -/
def State.issuerOf (s : State) (c acc : Nat) : Option (Nat × Nat) := ((s.core c).accs.find? (fun a => a.id == acc)).map (·.issuer)

/-- A packet of a core fails with a code: its future is poisoned with what its request names (R43), or what waits for it learns the failure. -/
def State.failBody (s : State) (f : Flight) (c : Nat) (code : BitVec 8) : State :=
  let detail := f.detail
  let fail48 : Option (BitVec 8 × BitVec 48) := some (code, BitVec.ofNat 48 detail)
  match f.body with
  | .mem r =>
    match r.op with
    | .store _ _ => s.comeBack f (.stFail r.acc r.slot r.epoch code r.target.pa43)
    | _ => (s.poisonWith c r.claim code detail).answered c r.acc
  | .ifetch _ l _ => s.icacheTake c l none
  | .walk id _ _ => s.comeBack f (.walkAns id (.unreadable code detail))
  | .dir slot claim acc _ op =>
    match op with
    | .setres .. | .clrres .. => s.comeBack f (.dirAns slot acc 5 0)
    | _ => (s.poisonWith c claim code detail).answered c acc
  | .cache _ op => (match op with | .discard _ g => s.takeDiscard g 0 (some (descriptor 1 code.toNat detail)) | _ => s)
  | .rinv id .. | .rinvAck id => s.takeRinvAck id
  | .segment ch .. | .flip ch _ | .rma ch .. => s.takeSegAns c ch 0 fail48
  | .barEvent ch serial .. => s.eventFails c ch serial code detail
  | .replica ch cores sender bar _ _ =>
    cores.foldl (fun s d =>
      if (s.chan c ch).receivers.any (fun r => r.core == d && !r.closed) then
        (s.mcAnswer c ch d false (some (code.toNat, detail))).freeMsg (siteOf d) true (.core d) sender bar 0 64
      else s) s
  | .send claim .. | .sendt claim .. => s.poisonWith c claim code detail
  | .stealReq _ | .stealAns _ => s.takeSteal c none
  | .note w fwd => s.noteFails c w fwd code.toNat
  | .tresume _ _ issuer epoch x | .tkill _ _ issuer epoch x => s.commandFails c issuer epoch code x
  | .fill acc claim _ | .lineFill acc claim _ _ _ _ =>
    let s := s.poisonWith c claim code detail
    (match acc with | some a => s.answered c a | none => s)
  | .ifill l _ _ => s.icacheTake c l none
  | .walkAns id _ => s.comeBack f (.walkAns id (.unreadable code detail))
  | .dirAns slot acc _ _ => s.comeBack f (.dirAns slot acc 5 0)
  | .stFail acc slot epoch _ pa => s.comeBack f (.stFail acc slot epoch code pa)
  | .ack acc => (match s.issuerOf c acc with
    | some (slot, epoch) => s.comeBack f (.stFail acc slot epoch code (BitVec.ofNat 43 detail))
    | none => s)
  | .segAns ch _ _ => s.takeSegAns c ch 0 fail48
  | .mcAns ch d _ (some (w, r)) => s.mcAnswer c ch d w (r.or (some (code.toNat, detail)))
  | .mcAns ch _ _ none => s.mcFails c ch code detail
  | .discarded g _ => s.takeDiscard g 0 (some (descriptor 1 code.toNat detail))
  | .bufFree .. | .sitePacket .. => s

/-- A packet fails with a code of R43. One whose future has been given up fails no more: it is discarded and counted (R44, R371). -/
def State.failFlight (s : State) (f : Flight) (code : BitVec 8) : State :=
  let s := s.dropFlight f.fid
  if f.dead then (if f.body.isAnswer then s.countRouter f.srcSite 10 else s)
  else match f.src with
    | .core c => s.failBody f c code
    | .gleaner m _ => (match f.body with
      | .rinv id .. | .rinvAck id => s.takeRinvAck id
      | .ack _ => (match s.gmoves.find? (fun g => g.id == m) with | some g => s.loseMove g | none => s)
      | _ => s)
    | .proc d => (match f.body with | .mem _ => s.report (.refused d code) | _ => s)
    | .site _ | .chip _ => s

/-! ## Forwarding (R32, R35, R36) -/

/-- Packets that are taken where they arrive, without a row of their own: answers, of which a fill applies in the core's next cycle, and the segments
that a network chiplet takes. -/
def State.absorb (s : State) (f : Flight) (c : Nat) : State :=
  let next := (s.core c).cycle + 1
  match f.body with
  | .fill acc claim v =>
    let s := match acc with | some a => s.answered c a | none => s
    s.deliverAt c claim next v
  | .lineFill acc claim v l d _ =>
    let s := match acc with | some a => s.answered c a | none => s
    (match d with | some x => s.l1Fill c l x true | none => s).deliverAt c claim next v
  | .ack acc => s.answered c acc
  | .dirAns slot acc reason index =>
    (s.modSlot c slot (fun t => { t with dirWait := if t.dirWait == some (.sent acc) then some (.done reason index) else t.dirWait })).answered c acc
  | .segAns ch n fail => s.takeSegAns c ch n fail
  | .mcAns ch d n e => s.takeMcAns c ch d n e
  | .discarded g n => s.takeDiscard g n none
  | .rinvAck id => s.takeRinvAck id
  | .rma ch r red pa bytes => s.chipTakes f ch r red pa bytes
  | _ => s

/-- Whether a body is absorbed by ROUTER_FORWARD. -/
def Body.absorbed (b : Body) : Bool :=
  match b with | .fill .. | .lineFill .. | .ack _ | .dirAns .. | .segAns .. | .mcAns .. | .discarded .. | .rinvAck _ | .rma .. => true | _ => false

/-- The receivers of a replica at a router, by the branch they are on: each core of this site by itself, then the cores behind each link (R288). -/
def replicaBranches (pos : Nat) (yx : Bool) (cores : List Nat) : List (List Nat) :=
  ((cores.filter (fun d => siteOf d == pos)).map ([·])) ++
    (List.range 4).filterMap (fun w => match cores.filter (fun d => siteOf d != pos && hopDir pos (siteOf d) yx == w) with | [] => none | l => some l)

/-- A replica at a router with more than one branch is replicated: the packets stand where it stood, in its place in the order (R32, R288). -/
def State.replicate (s : State) (f : Flight) (branches : List (List Nat)) : State :=
  match f.body with
  | .replica ch _ sender bar bytes last =>
    let gs := branches.zipIdx.map (fun p => { f with fid := s.nextId + p.2, dsite := siteOf (p.1.headD 0), body := .replica ch p.1 sender bar bytes last })
    { s with nextId := s.nextId + branches.length, flights := s.flights.flatMap (fun g => if g.fid == f.fid then gs else [g]) }
  | _ => s

/-- A packet at a router moves on: a replica is replicated first where its receivers part. -/
def State.forward (s : State) (f : Flight) : State :=
  match f.body with
  | .replica _ cores _ _ _ _ =>
    let bs := replicaBranches f.pos f.yx cores
    if 1 < bs.length then s.replicate f bs else s.hop f
  | _ => s.hop f

/-- ROUTER_FORWARD (R35): a packet moves on by one hop, arrives, or meets a link that is not good; one that stood behind others at its
source goes on; an answer that has arrived is taken by its core. -/
def execRouterForward (fid : Nat) (s : State) : Out :=
  .next (match s.findFlight fid with
    | none => s
    | some f =>
      match f.st with
      | .moving => if s.overtakes f then s else s.forward f
      | .behind | .atPort => s.goOn f
      | .arrived =>
        if f.body.absorbed then s.withPacket fid (fun f s => match f.src, f.body with
          | .core c, _ => s.absorb f c
          | .gleaner .., .rinvAck id => s.takeRinvAck id
          | _, _ => s)
        else s
      | _ => s)

/-! ## Floods (R38, R39) -/

/-- Sites that bear a name and can answer a probe; an edge chiplet answers at the site where it joins the meshes (R50, R51). -/
def State.bears (s : State) (n : Nat) (name : BitVec 12) : Bool :=
  (s.site n).name == name && (s.site n).named || (match edgeOfName name.toNat with | some (side, k) => n == s.port side k && s.forwards n | none => false)

/-- Name that the owner of a name at a site sends as the source of its answer. -/
def State.ownerName (s : State) (n : Nat) (name : BitVec 12) : BitVec 16 := if (edgeOfName name.toNat).isSome then name ++ 0#4 else s.siteSource n

/-- Changes the flood of a site for a name. -/
def State.modFlood (s : State) (site : Nat) (name : BitVec 12) (g : Flood → Flood) : State :=
  s.modSite site (fun t => { t with floods := t.floods.map (fun x => if x.name == name then g x else x) })

def State.floodOf (s : State) (site : Nat) (name : BitVec 12) : Option Flood := (s.site site).floods.find? (fun f => f.name == name)

/-- WHERE (R38): the probe reaches every site of the sender's rectangle to which good links lead on its mesh; each router it
passes learns the sender, and a bearer of the name answers HERE. -/
def execWhereProbe (site : Nat) (name : BitVec 12) (s : State) : Out :=
  .next (match s.floodOf site name with
    | some f =>
      if !f.waiting then s
      else
        let yx := f.sent % 2 == 0
        let rect := s.partRect (s.site site).part.toNat
        let reached := (List.range Config.sites).filter (fun n => n == site || (inRect rect n && s.pathGood site n yx 64))
        let owners := (reached.filter (fun n => s.bears n name)).map (fun n => (n, yx))
        let h : Teach := ⟨s.siteSource site, site, yx, none⟩
        let s := reached.foldl (fun s n =>
          let s := s.learn n h
          match (if n == site then none else neighbour n (hopDir n site (!yx))) with
          | some m => s.countFlits m yx 1
          | none => s) s
        let s := owners.foldl (fun s p => s.countRouter p.1 6) s
        s.modFlood site name (fun x => { x with waiting := false, here := x.here ++ owners })
    | none => s)

/-- The oldest HERE for a name reaches the source (R38, R39): it comes on the mesh that retraces the probe's path, every router on its way
learns the owner, and the source releases what it holds. A second HERE with other coordinates for a fresh entry changes nothing and counts. -/
def State.takeHere (s : State) (site : Nat) (name : BitVec 12) : State :=
  match s.floodOf site name with
  | some f =>
    match f.here with
    | [] => s
    | (o, w) :: rest =>
      let e := (s.site site).route name.toNat
      match (s.modFlood site name (fun x => { x with here := rest })).rideBack (some (s.site o).part) o site (s.ownerName o name) w none 1 with
      | (s, false) => s
      | (s, true) =>
        if f.done && rtValid e && rtSite e != o then (s.modSite site (fun t => { t with routes := nput t.routes name.toNat e })).countRouter site 8
        else ((s.modFlood site name (fun x => { x with done := true })).releaseHeld site (.name (name ++ 0#4))).settleHeld site
  | none => s

/-- HERE_REPLY (R38, R39). -/
def execHereReply (site : Nat) (name : BitVec 12) (s : State) : Out := .next (s.takeHere site name)

/-- WHERE_REFLOOD (R38): at 50,000, 100,000 and 150,000 cycles after the first held packet. -/
def execWhereReflood (site : Nat) (name : BitVec 12) (s : State) : Out :=
  .next (match s.floodOf site name with
    | some f =>
      if !f.done && f.sent < 4 && f.since + Config.refloodEvery * f.sent ≤ (s.core f.core).cycle then
        (s.countRouter site 5).modFlood site name (fun x => { x with sent := x.sent + 1, waiting := true })
      else s
    | none => s)

/-- A packet that its router holds for want of a HERE (R39): one held for the name itself, or one behind it. -/
def State.noHere (s : State) (f : Flight) : Bool :=
  match f.st, f.dest with
  | .held, .name _ => true
  | .behind, .name n => (s.floodOf f.srcSite (n.extractLsb' 4 12)).any (fun x => !x.done)
  | _, _ => false

/-- A flood for a name is forgotten when nothing is held for it any more and its own deadline has passed. -/
def State.endFlood (s : State) (site : Nat) (name : BitVec 12) (now : Nat) : State :=
  if s.flights.any (fun g => g.srcSite == site && g.dest.same (.name (name ++ 0#4)) && g.st.isHeld) then s
  else s.modSite site (fun t => { t with floods := t.floods.filter (fun x => !(x.name == name && x.since + Config.nameDeadline ≤ now)) })

/-- UNKNOWN_NAME (R39): a packet held for a name 200,000 cycles after its issue is dropped, unless a HERE has come: the HERE wins. -/
def execUnknownName (fid : Nat) (s : State) : Out :=
  .next (match s.findFlight fid with
    | some f =>
      match f.dest with
      | .name n =>
        let name := n.extractLsb' 4 12
        let now := s.nowOf f.src
        if !s.noHere f || now < f.issued + Config.nameDeadline then s
        else if (s.floodOf f.srcSite name).any (fun x => !x.done && !x.here.isEmpty) then s.takeHere f.srcSite name
        else (((s.countRouter f.srcSite 9).failFlight f 0x20).endFlood f.srcSite name now).settleHeld f.srcSite
      | _ => s
    | none => s)

/-! ## BLOCKED, MOVED and error responses (R40 to R44) -/

/-- The select of the entry that routed a packet, and whether the entry is pinned. -/
def State.entryOf (s : State) (f : Flight) : Option (Nat × Bool) :=
  match f.dest with
  | .name n => let e := (s.site f.srcSite).route (n.extractLsb' 4 12).toNat; some (rtSelect e, rtPinned e)
  | .phys pa => some (physSelect ((s.site f.srcSite).physSel (pa / 2 ^ 33)), false)
  | .coords _ => none

/-- Writes the select of the entry that routed a packet. -/
def State.putSelect (s : State) (f : Flight) (sel : Nat) : State :=
  match f.dest with
  | .name n =>
    let i := (n.extractLsb' 4 12).toNat
    s.modSite f.srcSite (fun t => { t with routes := nput t.routes i ((t.route i &&& 0xFF3FFFFF#32) ||| BitVec.ofNat 32 (sel % 4 * 2 ^ 22)) })
  | .phys pa => s.modSite f.srcSite (fun t => { t with phys := nput t.phys (pa / 2 ^ 33) ((t.physSel (pa / 2 ^ 33) &&& 0x13FF#13) ||| BitVec.ofNat 13 (sel % 4 * 2 ^ 10)) })
  | .coords _ => s

/-- Whether an earlier packet of the same source, class and destination has not come to its end: a blocked one waits for it, so that no
resending reverses their order (R32, R149; log 35). -/
def State.earlierFlies (s : State) (f : Flight) : Bool :=
  (s.flights.takeWhile (fun g => g.fid != f.fid)).any (fun g => g.srcSite == f.srcSite && g.cls == f.cls && g.dest.same f.dest && !g.inCore &&
    (match g.st with | .moving | .arrived | .blocked => true | _ => false))

/-- What the source does with a BLOCKED that has come back (R40); the packet that it sends again teaches its source router (R36). -/
def State.onBlocked (s : State) (f : Flight) : State :=
  let resend (s : State) : State :=
    let g : Flight := { f with retry := true, yx := !f.yx, pos := f.srcSite, phase := false, st := if s.heldAhead f then .behind else .moving }
    let s := s.setFlight g
    if g.st == .moving then s.learn g.srcSite ⟨g.srcName, g.srcSite, g.yx, none⟩ else s
  let replica := match f.body with | .replica .. => true | _ => false
  if f.via.isSome || replica then s.failFlight f 0x21
  else match s.entryOf f with
    | none => if f.retry then s.failFlight f 0x21 else resend s
    | some (sel, pinned) =>
      if pinned || 2 ≤ sel then s.failFlight f 0x21
      else if f.retry then (s.putSelect f 3).failFlight f 0x21
      else resend (s.putSelect f (if f.yx then 0 else 1))

/-- BLOCKED (R40): the answer rides back, and the packet is resent once on the other mesh, or fails; without it the packet is lost (R44). A
replica, a waypoint route, an entry in AUTO and a pinned entry fail. -/
def execBlocked (fid : Nat) (s : State) : Out :=
  .next (match s.findFlight fid with
    | some f =>
      if f.st != .blocked || (f.cls != .response && s.earlierFlies f) then s
      else match s.notice f with
        | (s, true) => s.onBlocked f
        | (s, false) => s.setFlight { f with st := .lost }
    | none => s)

/-- MOVED (R41): the answer rides back; the entry is invalidated, the packet held and the name asked for again; a pinned entry makes it fail. -/
def execMoved (fid : Nat) (s : State) : Out :=
  .next (match s.findFlight fid with
    | some f =>
      match f.st, f.dest with
      | .moved, .name n =>
        match s.notice f with
        | (s, false) => s.setFlight { f with st := .lost }
        | (s, true) =>
          let i := (n.extractLsb' 4 12).toNat
          let e := (s.site f.srcSite).route i
          if rtPinned e then (s.countRouter f.srcSite 7).failFlight f 0x22
          else
            let s := s.modSite f.srcSite (fun t => { t with routes := nput t.routes i (e &&& ~~~(1#32 <<< 25)) })
            let s := if s.holdFull f then s else s.openFlood f.srcSite f.src.clock (n.extractLsb' 4 12) (s.nowOf f.src)
            (s.setFlight { f with st := .behind, pos := f.srcSite, via := none, phase := false }).reroute fid
      | _, _ => s
    | none => s)

/-- ERROR_RESPONSE (R42, R43): the answer rides back and the future is poisoned. -/
def execErrorResponse (fid : Nat) (s : State) : Out :=
  .next (match s.findFlight fid with
    | some f => match f.st with
      | .failed code => (match s.notice f with
        | (s, true) => s.failFlight f code
        | (s, false) => s.setFlight { f with st := .lost })
      | _ => s
    | none => s)

/-- Whether a packet belongs to a request whose future waits for an answer, the request or the answer itself (R44). -/
def Body.awaited (b : Body) : Bool :=
  match b with
  | .mem _ | .ifetch .. | .walk .. | .dir .. | .cache .. | .segment .. | .rma .. | .send .. | .sendt .. | .stealReq _ => true
  | b => b.isAnswer

/-- Whether the sender of a packet waits for an answer or, of a copy's barrier event, for its arrival (R44, R285). -/
def Flight.awaits (f : Flight) : Bool := match f.body with | .barEvent .. => f.st != .arrived | b => b.awaited

/-- Whether the deadline of R44 has passed for a packet that left its site and has not been answered. -/
def Flight.overdue (f : Flight) (now : Nat) : Bool :=
  f.left + Config.responseDeadline ≤ now && (f.st == .lost || (!f.dead && !f.inCore && f.awaits && !f.st.isHeld))

/-- The clock of a unit that counts cycles of its own has come to a cycle (R48, R379). -/
def State.clockTo (s : State) (x : Sender) (now : Nat) : State :=
  match x with
  | .proc d => if (s.proc d).cycles.toNat < now then s.modProc d (fun p => { p with cycles := wd now, started := 0 }) else s
  | .chip n => s.modChip n (fun k => { k with cycles := max k.cycles now, used := if periodOf (max k.cycles now) == periodOf k.cycles then k.used else [] })
  | _ => s

/-- The cycle of a packet's sender in which its deadline is looked at: a unit that counts cycles of its own shows them in nothing else, and has
come to the deadline (log 40). -/
def State.deadlineNow (s : State) (f : Flight) : Nat := if f.src.ownClock then max (s.nowOf f.src) (f.left + Config.responseDeadline) else s.nowOf f.src

/-- NO_RESPONSE (R44): 1,000,000 cycles after the request left the site, on its sender's clock. A lost packet is gone; one still on its way has
no future any more. -/
def execNoResponse (fid : Nat) (s : State) : Out :=
  .next (match s.findFlight fid with
    | some f =>
      if !f.overdue (s.deadlineNow f) then s
      else
      let s := s.clockTo f.src (s.deadlineNow f)
      if f.st == .lost then s.failFlight f 0x25
      else match f.src with
        | .core c => (s.setFlight { f with dead := true }).failBody f c 0x25
        | _ => s.setFlight { f with dead := true }
    | none => s)

end Sys2Proof.Machine
end

