-- ==== Sys2Proof/Machine/Queues.lean ====
section
/-! DEFINITION. The command processors: queues, packets and their checks, launches, queue copies, semaphores (R305 to R309,
R379 to R389, R395, R444). -/

namespace Sys2Proof.Machine

/-! ## Queue registers (R380) -/

def State.queue (s : State) (d q : Nat) : CQueue := (nget (s.proc d).queues q).getD CQueue.reset
def State.modQueue (s : State) (d q : Nat) (f : CQueue → CQueue) : State :=
  s.modProc d (fun p => { p with queues := nput p.queues q (f ((nget p.queues q).getD CQueue.reset)) })

def CQueue.on (x : CQueue) : Bool := x.qcfg.getLsbD 63
def CQueue.part (x : CQueue) : Nat := wf x.qcfg 58 4
def CQueue.ring (x : CQueue) : Nat := 2 ^ (min (wf x.qcfg 0 4) 12 + 4)
def CQueue.base (x : CQueue) : Nat := wf x.qcfg 12 31 * 4096
/-- Address of the packet that rd names. -/
def CQueue.packetPA (x : CQueue) : Nat := x.base + 32 * (x.rd.toNat % x.ring)
/-- State code of QSTAT. -/
def qCode (st : QState) : Nat := match st with | .idle => 0 | .active => 1 | .waiting => 2 | .error => 3 | .halted => 4
def CQueue.qptr (x : CQueue) : Word := x.wr ++ x.rd
def CQueue.qstat (x : CQueue) : Word := wd (qCode x.st * 2 ^ 61 + x.err.toNat * 2 ^ 48 + x.detail.toNat * 2 ^ 40 + x.at_.toNat)

/-- A queue with nothing to wait for is ACTIVE while it holds packets, else IDLE. -/
def CQueue.settled (x : CQueue) : CQueue := { x with wait := none, st := if x.rd == x.wr then .idle else .active }

/-- A packet that a queue waits for has completed: a queue that runs takes its next packet, one in ERROR or HALTED stays so. -/
def CQueue.waitOver (x : CQueue) : CQueue := match x.st with | .error | .halted => { x with wait := none } | _ => x.settled

/-- A queue that fails (R386): state ERROR, and an INTERRUPT to the control node. A packet that has started and waits runs on. -/
def State.queueFail (s : State) (d q err detail : Nat) (at_ : BitVec 32) : State :=
  (s.modQueue d q (fun x => { x with st := .error, err := BitVec.ofNat 8 err, detail := BitVec.ofNat 8 detail, at_ := at_ })).report
    (.interrupt d q (wd (0xFFFF000000000000 + err)))

/-- The processor's cycle count moves on by an amount that is open (log 8). In one cycle a queue starts at most one packet, and queues start
in ascending order: a queue not above the one that started last starts in a later cycle (R381). -/
def State.procTick (s : State) (d q : Nat) : State :=
  let n := s.freshWord.toNat % 2 ^ 32
  s.useFree.modProc d (fun p => { p with cycles := p.cycles + wd (if q < p.started then n + 1 else n), started := q + 1 })

/-- An access of a processor with its effect, and the code of R43 or R147 that it meets, if any. Where its answer is lost the processor waits out
its deadline (R44). -/
def State.linkAccess (s : State) (d part pa out back : Nat) (act : State → State) : State × Option (BitVec 8) :=
  match s.accessBy (.proc d) (s.procPort d) (BitVec.ofNat 4 part) pa out back act with
  | (s, e) => (if e == some 0x25 then s.modProc d (fun p => { p with cycles := p.cycles + wd Config.responseDeadline, started := 0 }) else s, e)

/-- The way of a read of a processor, and the code that it meets. -/
def State.linkTrip (s : State) (d part pa out back : Nat) : State × Option (BitVec 8) := s.linkAccess d part pa out back id

/-- A queue whose access met a code: PARTITION for an address outside its partition or without a home, else COPYFAIL with the code, which R386
names for a COPY alone (log 51). -/
def State.queueCode (s : State) (d q : Nat) (code : BitVec 8) (at_ : BitVec 32) : State :=
  if code == 0x23 || code == 0x27 then s.queueFail d q 5 0 at_ else s.queueFail d q 7 code.toNat at_

/-! ## Packets (R382, R386, R389, R444) -/

/-- A PA inside a partition with a home. -/
def State.paGood (s : State) (part pa : Nat) : Bool := inRect (s.partRect part) (homeOf pa) && s.hasHome pa

/-- Whether bits of a dword above or below its field are zero. -/
def zeroFrom (w : Word) (lo n : Nat) : Bool := wf w lo n == 0

/-- A nonzero field outside R382, or an argument that R386 calls BADFIELD. -/
def badField (ty : Nat) (ring : Nat) (w : List Word) : Bool :=
  let w0 := w.getD 0 0
  let w1 := w.getD 1 0
  let w2 := w.getD 2 0
  let w3 := w.getD 3 0
  let flags := wf w0 8 8
  let hiBad := match ty with
    | 0x01 | 0x02 => !zeroFrom w0 56 7
    | 0x03 | 0x04 => !(zeroFrom w0 56 8 && zeroFrom w0 16 32)
    | _ => !zeroFrom w0 16 48
  let flagBad := match ty with
    | 0x04 | 0x06 => decide (1 < flags)
    | _ => flags != 0
  hiBad || flagBad || (match ty with
    | 0x01 => !zeroFrom w1 43 21 || !zeroFrom w1 0 7 || w2 &&& ~~~(csrRwBits 0x5C0) != 0 || w3 != 0
    | 0x02 => !zeroFrom w1 43 21 || !zeroFrom w2 43 21 || !zeroFrom w3 32 32 || wf w3 0 32 == 0 || overlaps w1.toNat w3.toNat w2.toNat w3.toNat
    | 0x03 => w3 != 0
    | 0x04 | 0x05 => w2 != 0 || w3 != 0
    | 0x07 => !zeroFrom w1 32 32 || w2 != 0 || w3 != 0 || ring ≤ w1.toNat
    | 0x08 => !zeroFrom w1 43 21 || !zeroFrom w1 0 4 || w3 != 0
    | _ => w1 != 0 || w2 != 0 || w3 != 0)

/-- Semaphore of a packet and its address (R387). -/
def semIndex (w0 : Word) : Nat := wf w0 48 8
def State.semPA (s : State) (d i : Nat) : Nat := wf (s.proc d).sembase 11 32 * 2048 + 8 * i

/-! ## Launch records (R305, R306) -/

/-- The launch record of sixteen dwords. -/
def launchOfWords (w : List Word) : Launch :=
  let w0 := w.getD 0 0
  let w1 := w.getD 1 0
  { tasks := w0.getLsbD 63, fusion := w0.getLsbD 62, prof := w0.getLsbD 61, pqen := w0.getLsbD 60, pq := wf w0 57 3, stealen := w0.getLsbD 56, steal := wf w0 53 3,
    rw := wf w0 43 5, rh := wf w0 48 5, rect := w0.setWidth 20, workers := w1.extractLsb' 48 16, roles := w1.setWidth 48, chans := (w.getD 2 0).setWidth 64,
    levels := (List.range 8).map (fun i => let v := w.getD (3 + i) 0
      { valid := v.getLsbD 63, domain := wf v 60 3, scope := wf v 56 4, extent := v.setWidth 32 }) }

def Launch.roleCodeOf (l : Launch) (n : Nat) : Nat := fieldOf l.roles.toNat (3 * n) 3
def Launch.isWorker (l : Launch) (n : Nat) : Bool := l.workers.toNat.testBit n
/-- Slot to which a channel is bound. -/
def Launch.boundTo (l : Launch) (c : Nat) : Option Nat := if l.chans.getLsbD (8 * c + 7) then some (fieldOf l.chans.toNat (8 * c) 4) else none

/-- Whether a launch record is refused for a reason other than the partition (R306). -/
def launchBad (w : List Word) : Bool :=
  let l := launchOfWords w
  let codes := (List.range 16).map l.roleCodeOf
  let count (r : Nat) : Nat := (codes.filter (· == r)).length
  let zeros := !zeroFrom (w.getD 0 0) 20 23 || (w.getD 2 0) &&& ~~~0x8F8F8F8F != 0 || (List.range 8).any (fun i => !zeroFrom (w.getD (3 + i) 0) 32 24) ||
    (List.range 5).any (fun i => w.getD (11 + i) 0 != 0)
  let roles := codes.any (· == 7) || codes.getD 14 0 != 5 || 1 < count 5 || 1 < count 1 || 8 < count 2 || 4 < count 3 ||
    (codes.take 15).any (· == 6) || !(codes.getD 15 0 == 0 || codes.getD 15 0 == 6)
  let workers := (List.range 16).any (fun n => l.isWorker n && (14 ≤ n || l.roleCodeOf n == 0))
  let bounds := (List.range 4).filterMap l.boundTo
  let chans := bounds.any (fun n => l.roleCodeOf n != 3) || (List.range 16).any (fun n => l.roleCodeOf n == 3 && (bounds.filter (· == n)).length != 1)
  let levels := l.levels.any (fun v => v.valid && (5 ≤ v.domain || 5 ≤ v.scope || v.extent == 0))
  let steal := l.stealen && !(l.levels.getD l.steal { valid := false, domain := 0, scope := 0, extent := 0 }).valid
  zeros || roles || workers || chans || levels || steal || ((l.rw == 0) != (l.rh == 0)) || rectOut l.rect

/-- Sixteen dwords of a launch record. -/
def State.recordAt (s : State) (pa : Nat) : List Word := (List.range 16).map (fun i => wd (s.physRead (pa + 8 * i) 8))

/-- Whether every site of a rectangle lies in a partition. -/
def rectInside (r p : BitVec 20) : Bool := (rectSites r).all (inRect p)

/-- Exposed cores of a rectangle. -/
def State.rectCores (s : State) (r : BitVec 20) : List Nat := ((rectSites r).flatMap (fun n => (List.range 16).map (16 * n + ·))).filter s.exposed

/-- A placed core without a K-role image for slot 14 (R395). -/
def State.lacksK (s : State) (c : Nat) : Bool :=
  (s.core c).placed && !(s.core c).roles.any (fun i => i.role == .k && i.slots.getLsbD 14)

/-- Whether a LAUNCH is refused as BADLAUNCH (R306, R386, R395). -/
def State.launchRefused (s : State) (w1 : Nat) : Bool :=
  let r := s.recordAt w1
  let rect := (launchOfWords r).rect
  launchBad r || (s.rectCores rect).any s.lacksK || (rectSites rect).any (fun n => match (s.site n).state with | .loaded | .running => false | _ => true)

/-- The checks of a packet after its type up to PARTITION: the first error of R444, if any. -/
def State.packetError (s : State) (q : CQueue) (ty : Nat) (w : List Word) : Option Nat :=
  let part := q.part
  let w1 := (w.getD 1 0).toNat
  let w2 := (w.getD 2 0).toNat
  let len := (w.getD 3 0).toNat
  let kindBad := (ty == 0x01 && q.qcfg.getLsbD 62) || (ty == 0x02 && !q.qcfg.getLsbD 62)
  let partBad := match ty with
    | 0x01 =>
      let rect : BitVec 20 := (s.recordAt w1).head?.elim 0 (·.setWidth 20)
      !s.paGood part w1 || (!rectOut rect && !rectInside rect (s.partRect part))
    | 0x02 => !(s.paGood part w1 && s.paGood part (w1 + len - 1) && s.paGood part w2 && s.paGood part (w2 + len - 1))
    | 0x08 => !s.paGood part w1
    | _ => false
  if badField ty q.ring w then some 2
  else if kindBad then some 3
  else if partBad then some 5
  else none

/-- A breakpoint that matches the packet of a queue, lowest first (R389). -/
def State.procBreak (s : State) (d q : Nat) (ty : Nat) (w : List Word) : Option Nat :=
  if (s.queue d q).resumed then none
  else (List.range 4).find? (fun i =>
    let b := (nget (s.proc d).bps i).getD 0
    b.getLsbD 63 && (if b.getLsbD 62 then wf b 56 6 == q else ty == 0x01 && wf b 0 43 == (w.getD 1 0).toNat))

/-- A queue with the next packet of a type: its checks, then its start with rd counted; run takes the packet and its index. A
packet that fails a check stops the queue and is not counted (R444). -/
def State.startPacket (s : State) (d q ty : Nat) (run : State → List Word → BitVec 32 → State) : State :=
  let x := s.queue d q
  let ready := match x.st with | .idle | .active => true | _ => false
  if 4 ≤ d || 64 ≤ q || !x.on || !ready || x.wait.isSome || x.rd == x.wr then s
  else if !s.paGood x.part x.base then s.queueFail d q 5 0 x.rd
  else
    let w := (List.range 4).map (fun i => wd (s.physRead (x.packetPA + 8 * i) 8))
    let t := wf (w.getD 0 0) 0 8
    if t != ty && t ≤ 8 then s
    else
      let (s, paid) := (s.procTick d q).chargeLink d x.part x.packetPA 1
      if !paid then s.queueFail d q 8 0 x.rd
      else match s.linkTrip d x.part x.packetPA 1 2 with
      | (s, some code) => s.queueCode d q code x.rd
      | (s, none) =>
        match s.procBreak d q t w with
        | some b =>
          let s := (s.modQueue d q (fun x => { x with resumed := true })).modProc d (fun p =>
            { p with queues := (List.range 64).foldl (fun m i => nput m i { ((nget m i).getD CQueue.reset) with st := .halted }) p.queues })
          s.report (.procHalt d b q)
        | none =>
          if 8 < t then s.queueFail d q 1 0 x.rd
          else match s.packetError x ty w with
            | some e => s.queueFail d q e 0 x.rd
            | none =>
              let w1 := (w.getD 1 0).toNat
              match (if ty == 0x01 then s.linkTrip d x.part w1 1 (dataFlits 128) else (s, none)) with
              | (s, some code) => s.queueCode d q code x.rd
              | (s, none) =>
              if ty == 0x01 && s.launchRefused w1 then s.queueFail d q 4 0 x.rd
              else
              let s := s.modQueue d q (fun y => { y with rd := y.rd + 1, resumed := false, st := if y.rd + 1 == y.wr then .idle else .active })
              run s w x.rd

/-- The queue stays WAITING. -/
def State.queueWaits (s : State) (d q : Nat) (w : QWait) : State := s.modQueue d q (fun x => { x with st := .waiting, wait := some w })

/-! ## Semaphores (R383, R387, R388) -/

/-- Replaces a semaphore at its home; the home reports the write (R388). -/
def State.semPut (s : State) (d i : Nat) (v : Word) : State := s.homeWrite (s.semPA d i) 8 v.toNat .none none
def State.semGet (s : State) (d i : Nat) : Word := wd (s.physRead (s.semPA d i) 8)

/-- Adds to a semaphore as one AMO, at a completion (R384); a refusal by the budget fails the queue. -/
def State.semAdd (s : State) (d : Nat) (w : Work) : State :=
  let q := w.queue
  let dword0 := w.dword0
  if !dword0.getLsbD 63 then s
  else
    let i := semIndex dword0
    let (s, paid) := s.chargeLink d (s.queue d q).part (s.semPA d i) 1
    if !paid then s.queueFail d q 8 0 w.index
    else match s.linkAccess d (s.queue d q).part (s.semPA d i) 2 2 (fun s => s.semPut d i (s.semGet d i + wd (wf dword0 16 32))) with
      | (s, some code) => s.queueCode d q code w.index
      | (s, none) => s

/-! ## Packets that complete at once (R383) -/

/-- NOP (R383). -/
def execNop (proc queue : Nat) (s : State) : Out := .next (s.startPacket proc queue 0x00 (fun s _ _ => s))

/-- INTERRUPT (R383). -/
def execInterrupt (proc queue : Nat) (s : State) : Out :=
  .next (s.startPacket proc queue 0x05 (fun s w _ => s.report (.interrupt proc queue (w.getD 1 0))))

/-- JUMP (R383): rd stays within the current pass of the ring. -/
def execJump (proc queue : Nat) (s : State) : Out :=
  .next (s.startPacket proc queue 0x07 (fun s w j => s.modQueue proc queue (fun x =>
    { x with rd := BitVec.ofNat 32 (j.toNat - j.toNat % x.ring + (w.getD 1 0).toNat) }.settled)))

/-- MARK (R383). -/
def execMark (proc queue : Nat) (s : State) : Out :=
  .next (s.startPacket proc queue 0x08 (fun s w j =>
    let pa := (w.getD 1 0).toNat
    match s.linkAccess proc (s.queue proc queue).part pa 2 1 (fun s =>
        (s.homeWrite pa 8 (s.proc proc).cycles.toNat .none none).homeWrite (pa + 8) 8 (w.getD 2 0).toNat .none none) with
    | (s, some code) => s.queueCode proc queue code j
    | (s, none) => s))

/-- SIGNAL (R383): one indivisible step at the semaphore's home. -/
def execSignal (proc queue : Nat) (s : State) : Out :=
  .next (s.startPacket proc queue 0x04 (fun s w j =>
    let i := semIndex (w.getD 0 0)
    let v := w.getD 1 0
    let (s, paid) := s.chargeLink proc (s.queue proc queue).part (s.semPA proc i) 1
    if !paid then s.queueFail proc queue 8 0 j
    else match s.linkAccess proc (s.queue proc queue).part (s.semPA proc i) 2 2 (fun s => s.semPut proc i (if (w.getD 0 0).getLsbD 8 then v else s.semGet proc i + v)) with
      | (s, some code) => s.queueCode proc queue code j
      | (s, none) => s))

/-! ## WAITGE and FENCE (R383, R386, R388) -/

/-- WAITGE (R383): the semaphore is read once at the start, then every report is tested. -/
def execWaitge (proc queue : Nat) (s : State) : Out :=
  .next (s.startPacket proc queue 0x03 (fun s w j =>
    let i := semIndex (w.getD 0 0)
    let v := w.getD 1 0
    let limit := (w.getD 2 0).toNat
    let (s, paid) := s.chargeLink proc (s.queue proc queue).part (s.semPA proc i) 1
    if !paid then s.queueFail proc queue 8 0 j
    else match s.linkTrip proc (s.queue proc queue).part (s.semPA proc i) 1 2 with
    | (s, some code) => s.queueCode proc queue code j
    | (s, none) =>
    if v.toNat ≤ (s.semGet proc i).toNat then s
    else s.queueWaits proc queue (.waitge i v (if limit = 0 then none else some ((s.proc proc).cycles.toNat + limit)))))

/-- A processor tests a report of a semaphore's value: it completes every WAITGE that it satisfies and whose timeout has not expired first (R383,
R388). -/
def Proc.observes (p : Proc) (i : Nat) (v : Word) : Proc :=
  { p with queues := p.queues.map (fun q => (q.1, match q.2.wait with
      | some (.waitge k w t) => if k == i && w.toNat ≤ v.toNat && t.all (fun t => p.cycles.toNat ≤ t) then q.2.waitOver else q.2
      | _ => q.2)) }

/-- SEMAPHORE_REPORT (R388): the oldest report rides from the semaphore's home to the control chiplet on the system class, and is tested there; one that
finds no way is lost (log 60). -/
def execSemaphoreReport (proc : Nat) (s : State) : Out :=
  .next (match (s.proc proc).reports with
    | [] => s
    | (i, v) :: rest =>
      let home := homeOf (s.gleanPA (s.semPA proc i))
      match (s.modProc proc (fun p => { p with reports := rest })).rideBack none home (s.procPort proc) (s.siteSource home) true none (dataFlits 8) with
      | (s, true) => s.modProc proc (fun p => p.observes i v)
      | (s, false) => s)

/-- WAITGE_TIMEOUT (R383, R444): the queue fails, and rd returns to the WAITGE. -/
def execWaitgeTimeout (proc queue : Nat) (s : State) : Out :=
  .next (match (s.queue proc queue).wait with
    | some (.waitge _ _ (some t)) =>
      let s := s.modProc proc (fun p => if p.cycles.toNat < t then { p with cycles := wd t, started := 0 } else p)
      let s := s.modQueue proc queue (fun x => { x with rd := x.rd - 1, wait := none })
      s.queueFail proc queue 6 0 (s.queue proc queue).rd
    | _ => s)

/-- QUEUE_FENCE (R383): the fence starts, or completes once the work started earlier has completed. -/
def execQueueFence (proc queue : Nat) (s : State) : Out :=
  .next (match (s.queue proc queue).wait with
    | some (.fence ids) =>
      if (s.proc proc).works.any (fun w => ids.contains w.id) then s
      else s.modQueue proc queue CQueue.waitOver
    | some _ => s
    | none => s.startPacket proc queue 0x06 (fun s w _ =>
        let ids := ((s.proc proc).works.filter (fun x => (w.getD 0 0).getLsbD 8 || x.queue == queue)).map (·.id)
        if ids.isEmpty then s else s.queueWaits proc queue (.fence ids)))

/-! ## COPY (R383, R384) -/

/-- QUEUE_COPY (R383): the copy starts, and the next packet may start at once. -/
def execQueueCopy (proc queue : Nat) (s : State) : Out :=
  .next (s.startPacket proc queue 0x02 (fun s w j =>
    let len := (w.getD 3 0).toNat
    let (s, paid) := s.chargeLink proc (s.queue proc queue).part (w.getD 1 0).toNat ((len + 31) / 32)
    if !paid then s.queueFail proc queue 8 0 j
    else
      let x : Work := { id := s.nextId, queue := queue, index := j, dword0 := w.getD 0 0, sites := [], cores := [], copy := some ((w.getD 1 0).toNat, (w.getD 2 0).toNat, len) }
      s.bump.modProc proc (fun p => { p with works := p.works ++ [x] })))

/-- Copies bytes in pieces that fill lines of the destination, in rising order, until an access meets a code; each piece is read whole,
then written whole; a whole block that is read travels in the code that it has at its home (R143). Its reads take no line into the L2, as those of a
copy engine do not (log 54). -/
def State.copyLines (s : State) (d part src dst n fuel : Nat) : State × Option (BitVec 8) :=
  match fuel with
  | 0 => (s, none)
  | k + 1 =>
    if n = 0 then (s, none)
    else
      let m := min n (128 - dst % 128)
      match s.linkTrip d part src 1 (dataFlits (if m = 128 ∧ src % 128 = 0 then codeBytes (s.lineCode (lineOf (s.gleanPA src))) else m)) with
      | (s, some e) => (s, some e)
      | (s, none) =>
        match (if lineOf src == lineOf (src + m - 1) then (s, none) else s.linkTrip d part (src + m - 1) 1 1) with
        | (s, some e) => (s, some e)
        | (s, none) =>
          match s.linkAccess d part dst (dataFlits m) 1 (fun s => s.homeWrite dst m (ofBytes ((List.range m).map (fun i => BitVec.ofNat 8 (s.physRead (src + i) 1)))) .none none) with
          | (s, some e) => (s, some e)
          | (s, none) => s.copyLines d part (src + m) (dst + m) (n - m) k

/-- QUEUE_COPY_COMPLETE (R384, R386): the writes are performed and the semaphore is updated, or the queue fails. -/
def execQueueCopyComplete (proc work : Nat) (s : State) : Out :=
  .next (match (s.proc proc).works.find? (fun w => w.id == work) with
    | some w =>
      match w.copy with
      | some (a, b, n) =>
        let s := s.modProc proc (fun p => { p with works := p.works.filter (fun x => x.id != work) })
        match s.copyLines proc (s.queue proc w.queue).part a b n n with
        | (s, none) => s.semAdd proc w
        | (s, some e) => s.queueFail proc w.queue 7 e.toNat w.index
      | none => s
    | none => s)

/-! ## LAUNCH (R307 to R309, R383, R384, R395) -/

/-- Whether two rectangles share a site. -/
def rectsMeet (a b : BitVec 20) : Bool := (rectSites a).any (inRect b)

/-- LAUNCHes that wait to start, of every processor: work and record. -/
def State.starting (s : State) : List (Nat × Launch) :=
  s.procs.flatMap (fun p => p.2.queues.filterMap (fun q => match q.2.wait with | some (.launch id l _ _) => some (id, l) | _ => none))

/-- Whether an earlier LAUNCH that still starts claims a site of a rectangle (R383). -/
def State.claimedBefore (s : State) (id : Nat) (rect : BitVec 20) : Bool := s.starting.any (fun p => p.1 < id && rectsMeet p.2.rect rect)

/-- Marks the sites that LAUNCHes still starting claim. -/
def State.markClaims (s : State) : State :=
  { s with sites := s.sites.map (fun p => (p.1, { p.2 with claimed := s.starting.any (fun q => inRect q.2.rect p.1) })) }

/-- LAUNCH (R383): a record that passes its checks claims its sites and waits for them. -/
def execLaunch (proc queue : Nat) (s : State) : Out :=
  .next (s.startPacket proc queue 0x01 (fun s w j =>
    let l := launchOfWords (s.recordAt (w.getD 1 0).toNat)
    let x : Work := { id := s.nextId, queue := queue, index := j, dword0 := w.getD 0 0, sites := [], cores := [], copy := none }
    let s := s.bump.modProc proc (fun p => { p with works := p.works ++ [x] })
    (s.queueWaits proc queue (.launch x.id l (w.getD 2 0) (!s.claimedBefore x.id l.rect))).markClaims))

/-- wl.idx of a level for a slot (R309). -/
def State.idxWord (s : State) (l : Launch) (c n level : Nat) : Word :=
  match l.levels[level]? with
  | none => 0
  | some v =>
    if !v.valid then 0
    else
      let site := siteOf c
      let c0 := fieldOf l.rect.toNat 0 5
      let r0 := fieldOf l.rect.toNat 5 5
      let rw := max 1 l.rw
      let rh := max 1 l.rh
      let w := fieldOf l.rect.toNat 10 5
      let rc := (colOf site - c0) / rw
      let rr := (rowOf site - r0) / rh
      let index := match v.domain with
        | 0 => wf (s.chip 0).modreg 60 4
        | 1 => rr * ((w + rw - 1) / rw) + rc
        | 2 => (colOf site - (c0 + rc * rw)) + (rowOf site - (r0 + rr * rh)) * min rw (w - rc * rw)
        | 3 => c % 16
        | _ => n
      v.extent ++ BitVec.ofNat 32 index

/-- The image that gives a slot of a placed core its role (R395). -/
def imageFor (roles : List RoleImage) (n : Nat) : Option RoleImage := roles.find? (fun r => r.slots.getLsbD n)

/-- A slot as a LAUNCH leaves it (R307, R308). -/
def Slot.launched (t : Slot) (l : Launch) (roles : List RoleImage) (n : Nat) : Slot :=
  let role := if l.roleCodeOf n == 0 then none else (imageFor roles n).map (fun r => (roleOf (l.roleCodeOf n), r.entry))
  let base : Slot := { Slot.reset with epoch := t.epoch + 1 }
  match role with
  | none => base
  | some (r, entry) =>
    if l.isWorker n then { base with role := r, worker := true } else { base with role := r, state := .running, pc := entry }

/-- Claims of work that a LAUNCH ends, whose delivery can no longer come: those of its channels' copies (R266), and of saves and restores that
have not taken effect. -/
def Core.endedClaims (k : Core) : List Nat :=
  k.channels.filterMap (fun p => p.2.claim) ++ (k.saves.filter (fun r => r.captured.isNone)).filterMap (·.claim) ++ k.restores.filterMap (·.claim)

/-- A core as a LAUNCH leaves it (R195, R308, R383): claims that target a slot or a context are dropped (R81, R91); what no rule resets is kept,
and the units that hold a claim go on to its delivery (R91). -/
def Core.launched (k : Core) (l : Launch) (dir : Word) (idx : Nat → Nat → Word) : Core :=
  let plots := k.roles.flatMap (fun r => r.plots.flatMap (fun p => placeAt p.1 p.2))
  let k := (k.claims.filter (fun q => match q.2.target with | .slot | .context _ => true | _ => false)).foldl (fun k q => k.dropClaim q.1) k
  let k := k.endedClaims.foldl (fun k i => if (nget k.claims i).isSome then k.freeClaim i else k) k
  { Core.reset with
    cycle := k.cycle, turnDue := k.turnDue, claims := k.claims, freed := k.freed, deliveries := k.deliveries, sb := k.sb, accs := k.accs, ranges := k.ranges, walks := k.walks
    divs := k.divs, vecs := k.vecs, saves := k.saves.filter (fun r => r.captured.isSome)
    l1 := k.l1, images := k.images, roles := k.roles, placed := k.placed, notes := k.notes, pair := k.pair, stamp := k.stamp
    evsel := k.evsel, evcnt := k.evcnt, bp := k.bp, wpa := k.wpa, wpc := k.wpc, trcctl := k.trcctl, trcbase := k.trcbase, trcptr := k.trcptr
    rdir := dirCut dir, rdmnt := dirCut dir
    ls := memPuts [] plots
    bound := (List.range 4).foldl (fun m c => match l.boundTo c with | some n => nput m c n | none => m) []
    slots := (List.range 16).foldl (fun m n =>
      nput m n { ((k.slot n).launched l k.roles n) with idx := (List.range 8).foldl (fun a j => nput a j (idx n j)) [] }) [] }

/-- What a LAUNCH does to a core (R110, R136, R383): its lines and those on their way to it are stale from now on, and a speculation that a slot still
holds open is dropped (R327). -/
def State.launchCore (s : State) (l : Launch) (dir : Word) (c : Nat) : State :=
  let s := (((s.core c).slots.filter (fun p => !p.2.hold.isEmpty)).map (·.1)).foldl (fun s n => s.dropSpec c n) (s.dropRemote c)
  let s := { s with flights := s.flights.filter (fun f => !(f.src == Sender.core c && (match f.body with | .ifetch .. | .ifill .. => true | _ => false))) }
  let idx := s.idxWord l c
  s.modCore c (fun k => k.launched l dir idx)

/-- The start of a launch travels to every site of its rectangle with the record and dword 2, on the system class (R29): the state, and whether every
site was reached. -/
def State.launchTrips (s : State) (d : Nat) (sites : List Nat) : State × Bool :=
  sites.foldl (fun p n => match p.1.sysTrip d n (dataFlits 136) with | (s, ok) => (s, p.2 && ok)) (s, true)

/-- LAUNCH_START (R383): once no earlier LAUNCH claims a site of its rectangle and none of its sites is RUNNING, every slot is prepared and
started. A site that is not LOADED then fails the packet as BADLAUNCH; where a site cannot be reached on either mesh, the LAUNCH waits on (log 66). -/
def execLaunchStart (proc queue : Nat) (s : State) : Out :=
  .next (match (s.queue proc queue).wait with
    | some (.launch id l dir holds) =>
      let sites := rectSites l.rect
      if s.claimedBefore id l.rect then s
      else if sites.any (fun n => (s.site n).state == .running) then
        (if holds then s else s.modQueue proc queue (fun x => { x with wait := some (.launch id l dir true) }))
      else if sites.any (fun n => (s.site n).state != .loaded) then
        (((s.modProc proc (fun p => { p with works := p.works.filter (fun w => w.id != id) })).modQueue proc queue (fun x => { x with wait := none })).queueFail proc queue 4 0
          ((s.queue proc queue).rd - 1)).markClaims
      else match s.launchTrips proc sites with
      | (s, false) => s
      | (s, true) =>
        let cores := s.rectCores l.rect
        let s := cores.foldl (fun s c => s.launchCore l dir c) s
        let s := { s with resv := s.resv.filter (fun r => !cores.contains r.core) }
        let s := sites.foldl (fun s n => s.modSite n (fun t => { t with state := .running, launch := some l })) s
        let s := s.modProc proc (fun p => { p with works := p.works.map (fun w => if w.id == id then { w with sites := sites, cores := cores } else w) })
        (s.modQueue proc queue CQueue.waitOver).markClaims
    | _ => s)

/-- LAUNCH_COMPLETE (R384): every site has returned to LOADED and every store and AMO of its cores is performed; then the semaphore. -/
def execLaunchComplete (proc work : Nat) (s : State) : Out :=
  .next (match (s.proc proc).works.find? (fun w => w.id == work) with
    | some w =>
      let waiting := (s.proc proc).queues.any (fun q => match q.2.wait with | some (.launch id _ _ _) => id == work | _ => false)
      if w.copy.isSome || waiting || !w.sites.isEmpty || w.cores.any (fun c => (s.core c).accs.any (fun a => a.kind == .w || a.kind == .a)) then s
      else (s.modProc proc (fun p => { p with works := p.works.filter (fun x => x.id != work) })).semAdd proc w
    | none => s)

end Sys2Proof.Machine
end

