-- ==== Sys2Proof/Machine/Control.lean ====
section
/-! DEFINITION. Control-link commands: registers, doorbells, containers and their site packets, attestation (R379, R380, R389 to
R396). Where a register of a processor stands is the model's choice (log 16). -/

namespace Sys2Proof.Machine

/-! ## Registers (R52, R367, R380, R387, R389, R390) -/

/-- The unit number by which the control node names the processor's own registers. -/
def ownUnit : BitVec 16 := 0xFFFF

/-- The register of a processor at an offset of its own. -/
def State.ownRead (s : State) (d off : Nat) : Word :=
  let p := s.proc d
  if off < 0x800 then
    let x := s.queue d (off / 32)
    (match off % 32 / 8 with | 0 => x.qcfg | 1 => x.qptr | 2 => x.qstat | _ => 0)
  else if off = 0x800 then p.sembase
  else if 0x808 ≤ off ∧ off < 0x828 then (nget p.bps ((off - 0x808) / 8)).getD 0
  else if 0x840 ≤ off ∧ off < 0x870 then p.digest.extractLsb' (8 * (off - 0x840)) 64
  else if off = 0x870 then s.boots.setWidth 64
  else if 0x1000 ≤ off ∧ off < 0x1080 then (s.partRect ((off - 0x1000) / 8)).setWidth 64
  else if 0x2000 ≤ off ∧ off < 0x2000 + 8 * Config.sites then (s.site ((off - 0x2000) / 8)).stat
  else if 0x4000 ≤ off ∧ off < 0x4000 + 8 * Config.sites then (s.site ((off - 0x4000) / 8)).name.setWidth 64
  else 0

/-- A write of QPTR.wr, the doorbell (R380). -/
def CQueue.doorbell (x : CQueue) (wr : BitVec 32) : CQueue :=
  let y := { x with wr := wr }
  match x.st with
  | .idle | .active => if y.wait.isSome then y else y.settled
  | _ => y

/-- A write of state 1 restarts a queue in ERROR or HALTED at packet rd (R380). -/
def CQueue.restarted (x : CQueue) : CQueue := match x.st with | .error | .halted => { x with st := .active, resumed := false } | _ => x

/-- A write of SEMBASE: the sixteen lines that it names are held as code 0 from now on (R387). -/
def State.putSembase (s : State) (d : Nat) (v : Word) : State :=
  let s := s.modProc d (fun p => { p with sembase := v &&& 0x7FFFFFFF800 })
  (List.range 16).foldl (fun s i => let l := s.semStart d / 128 + i; s.putLine l (s.lineData l) 0) s

/-- Writes a register of a processor at an offset of its own; read-only fields are left. -/
def State.ownWrite (s : State) (d off : Nat) (v : Word) : State :=
  if off < 0x800 then
    (match off % 32 / 8 with
      | 0 => s.modQueue d (off / 32) (fun x => { x with qcfg := v &&& 0xFC0007FFFFFFF00F })
      | 1 => s.modQueue d (off / 32) (fun x => x.doorbell (v.extractLsb' 32 32))
      | 2 => if wf v 61 3 = 1 then s.modQueue d (off / 32) CQueue.restarted else s
      | _ => s)
  else if off = 0x800 then s.putSembase d v
  else if 0x808 ≤ off ∧ off < 0x828 then s.modProc d (fun p => { p with bps := nput p.bps ((off - 0x808) / 8) (v &&& 0xFF0007FFFFFFFFFF) })
  else if 0x1000 ≤ off ∧ off < 0x1080 then { s with partRects := nput s.partRects ((off - 0x1000) / 8) (v.setWidth 20) }
  else if 0x4000 ≤ off ∧ off < 0x4000 + 8 * Config.sites then
    s.modSite ((off - 0x4000) / 8) (fun t => match t.state with | .named | .loaded | .running => { t with name := v.setWidth 12 } | _ => t)
  else s

/-- The site of a unit that a control-link command names in a partition, or the code of its refusal. -/
def State.unitSite (s : State) (part : Nat) (unit : BitVec 16) : Nat × Option (BitVec 8) :=
  let name : BitVec 12 := unit.setWidth 12
  if (edgeOfName name.toNat).isSome then (0, none)
  else match s.siteNamed part name with
    | some n => if (s.site n).state == .fenced then (n, some 0x26) else (n, none)
    | none => (0, some 0x20)

/-- REGWRITE (R390): a register of the processor, of an edge chiplet or of a site's routers; the two tables of a site are written
by a packet on the system class. An offset that is no multiple of 8 is refused with code 0 (log 59). -/
def execRegwrite (proc : Nat) (unit : BitVec 16) (part : BitVec 4) (off : BitVec 32) (value : BitVec 64) (s : State) : Out :=
  .next (if 4 ≤ proc then s
    else if unit == ownUnit then (if off.toNat % 8 = 0 then s.ownWrite proc off.toNat value else s.report (.refused proc 0))
    else
      match s.chargeLink proc part.toNat unit.toNat 1 with
      | (s, false) => s.report (.refused proc 0x24)
      | (s, true) =>
        let name : BitVec 12 := unit.setWidth 12
        match s.unitSite part.toNat unit with
        | (_, some e) => s.report (.refused proc e)
        | (n, none) =>
          if off.toNat % 8 ≠ 0 then s.report (.refused proc 0)
          else if tableOff name off.toNat then
            let r : Req := { acc := 0, slot := 0, epoch := 0, op := .store 8 value, target := .router name off.toNat, attr := .none, claim := none }
            s.inject .system (.proc proc) (s.procPort proc) part (.coords n) (.mem r)
          else if (edgeOfName name.toNat).isSome then s.unitWrite n name off.toNat value
          else match s.sysTrip proc n 2 with
            | (s, true) => s.unitWrite n name off.toNat value
            | (s, false) => s.report (.refused proc 0x21))

/-- REGREAD (R390); an offset that is no multiple of 8 is refused with code 0 (log 59). -/
def execRegread (proc : Nat) (unit : BitVec 16) (part : BitVec 4) (off : BitVec 32) (s : State) : Out :=
  .next (if 4 ≤ proc then s
    else if unit == ownUnit then s.report (if off.toNat % 8 = 0 then .regValue proc (s.ownRead proc off.toNat) else .refused proc 0)
    else
      match s.chargeLink proc part.toNat unit.toNat 1 with
      | (s, false) => s.report (.refused proc 0x24)
      | (s, true) =>
        match s.unitSite part.toNat unit with
        | (_, some e) => s.report (.refused proc e)
        | (n, none) =>
          if off.toNat % 8 ≠ 0 then s.report (.refused proc 0)
          else if (edgeOfName (unit.setWidth 12).toNat).isSome then s.report (.regValue proc (s.unitRead n (unit.setWidth 12) off.toNat))
          else match s.sysTrip proc n 1 with
            | (s, true) => (s.rideBack none n (s.procPort proc) (s.siteSource n) false none 2).1.report (.regValue proc (s.unitRead n (unit.setWidth 12) off.toNat))
            | (s, false) => s.report (.refused proc 0x21))

/-- QUEUE_DOORBELL (R380): a write of QPTR.wr. -/
def execQueueDoorbell (proc queue : Nat) (wr : BitVec 32) (s : State) : Out :=
  .next (if 4 ≤ proc || 64 ≤ queue then s else s.modQueue proc queue (fun x => x.doorbell wr))

/-- QUEUE_RESTART (R380): a write of state 1 to a queue in ERROR or HALTED. -/
def execQueueRestart (proc queue : Nat) (s : State) : Out :=
  .next (if 4 ≤ proc || 64 ≤ queue then s else s.modQueue proc queue CQueue.restarted)

/-- PROCESSOR_RESUME (R389): every HALTED queue becomes ACTIVE; one whose packet has started and waits takes no other before that is over. -/
def execProcessorResume (proc : Nat) (s : State) : Out :=
  .next (s.modProc proc (fun p => { p with queues := p.queues.map (fun q => (q.1, if q.2.st == .halted then { q.2 with st := .active } else q.2)) }))

/-- The parts of n bytes at a physical address that lie in one line each. -/
def linePieces (pa n : Nat) : List (Nat × Nat) :=
  (List.range ((pa % 128 + n + 127) / 128)).map (fun i =>
    let a := max pa ((lineOf pa + i) * 128)
    (a, min (pa + n) ((lineOf pa + i + 1) * 128) - a))

/-- A processor reads n bytes, line by line: the first code that it meets. -/
def State.linkRead (s : State) (d part pa n : Nat) : State × Option (BitVec 8) :=
  (linePieces pa n).foldl (fun p q => match p.2 with | some _ => p | none => p.1.linkTrip d part q.1 1 (dataFlits q.2)) (s, none)

/-- A processor writes bytes, those of one line that follow one another as one write, up to the first code that it meets. -/
def State.linkPuts (s : State) (d part : Nat) (l : List (Nat × Byte)) : State × Option (BitVec 8) :=
  (runsOf l).foldl (fun p r => match p.2 with
    | some _ => p
    | none => p.1.linkAccess d part r.1 (dataFlits r.2.length) 1 (fun s => s.homeWrite r.1 r.2.length (ofBytes r.2) .none none)) (s, none)

/-- The control node writes bytes of DRAM in a partition over the control link of a chiplet, which is charged for them (R48, R49, R378, R380); while
a site is gated it has not come yet (R56). A block that meets a code of R147 is left as a store's is, and so is what comes after it (log 65). -/
def State.hostWrite (s : State) (d : Nat) (part : BitVec 4) (pa : Nat) (bytes : List Byte) : State :=
  if 4 ≤ d || bytes.isEmpty || s.sites.any (fun p => p.2.gated) then s
  else match s.chargeLink d part.toNat pa (dataFlits bytes.length) with
    | (s, false) => s.report (.refused d 0x24)
    | (s, true) =>
      if !s.paGood part.toNat pa || !s.paGood part.toNat (pa + bytes.length - 1) then s.report (.refused d 0x23)
      else match s.linkPuts d part.toNat (placeAt pa bytes) with
        | (s, some e) => s.report (.refused d e)
        | (s, none) => s

/-! ## Containers (R391 to R393) -/

/-- A record of a container: type, role image index, segment kind, start address, body. -/
structure CRec where
  ty : Nat
  image : Nat
  kind : Nat
  start : Word
  body : List Byte
  deriving DecidableEq, Repr

/-- A field of n bytes of a byte string, lowest first. -/
def byteField (l : List Byte) (at_ n : Nat) : Nat := ofBytes ((l.drop at_).take n)

/-- Splits n records off a byte string; none when a record runs beyond the end. Answers the bytes that remain. -/
def splitRecords (n : Nat) (l : List Byte) : Option (List CRec × List Byte) :=
  match n with
  | 0 => some ([], l)
  | k + 1 =>
    let len := byteField l 4 4
    let pad := (len + 15) / 16 * 16
    if l.length < 16 + pad then none
    else
      let r : CRec := { ty := byteField l 0 1, image := byteField l 1 1, kind := byteField l 2 1 % 4, start := wd (byteField l 8 8), body := (l.drop 16).take len }
      (splitRecords k (l.drop (16 + pad))).map (fun p => (r :: p.1, p.2))

/-- Whether a record has the form of R392. -/
def CRec.good (r : CRec) : Bool :=
  match r.ty with
  | 1 => r.body.length == 40 && byteField r.body 24 1 ≤ 6 && byteField r.body 25 1 == 0 && byteField r.body 28 4 == 0
  | 2 => r.kind ≤ 2
  | 3 => r.body.length == 88
  | 4 => r.body.length == 152
  | 5 => r.body.length == 8
  | 6 => 4 ≤ r.body.length && r.body.length == 4 + 2 * byteField r.body 2 2
  | 7 => r.body.length == 32
  | 15 => r.body.length == 112
  | _ => false

/-- The records of a container before its signature; none when the container is refused (R391 to R393). -/
def openContainer (keys : NMap (BitVec 768)) (l : List Byte) : Option (List CRec) :=
  let count := byteField l 6 2
  let total := byteField l 8 8
  if byteField l 0 4 != 0x4D494C57 || byteField l 4 2 != 1 || total != l.length || (List.range 16).any (fun i => (l.drop 48).getD i 0 != 0) then none
  else match splitRecords count (l.drop 64) with
    | some (rs, []) =>
      match rs.getLast? with
      | some sig =>
        let body := rs.dropLast
        let key := byteField sig.body 0 1
        let signed := l.take (l.length - 128)
        if sig.ty == 15 && rs.all CRec.good && !body.any (fun r => r.ty == 15) && (body.filter (fun r => r.ty == 1)).length ≤ 32 && key < 4 &&
            (sig.body.drop 1).take 15 == List.replicate 15 0 && ecdsaGood ((nget keys key).getD 0) signed (sig.body.drop 16) then some body
        else none
      | none => none
    | _ => none

/-- The bytes of a container in DRAM, from its header's length, as a processor reads them; none when they cannot be read (log 66). -/
def State.containerAt (s : State) (d part pa : Nat) : State × Option (List Byte) :=
  if !s.paGood part pa then (s, none)
  else match s.linkRead d part pa 64 with
    | (s, some _) => (s, none)
    | (s, none) =>
      let n := s.physRead (pa + 8) 8
      if 2 ^ 33 < n || !s.paGood part (pa + n - 1) then (s, none)
      else match s.linkRead d part (pa + 64) (n - 64) with
        | (s, some _) => (s, none)
        | (s, none) => (s, some (bytesOf n (s.physRead pa n)))

/-! ## LOAD (R394, R395) -/

/-- Physical address of a byte of a segment through a directory, if it may be written: resident and not REMOTE. -/
def State.loadPA (s : State) (dir : Word) (va : Nat) : Option Nat :=
  match s.search dir va with
  | .found r _ =>
    let pa := rangePA r va
    if r.isRemote || !r.resmap.getLsbD ((va - r.base.toNat) / segLen r) || !s.hasHome pa then none else some pa
  | _ => none

/-- Bytes of the text and data segments with their virtual addresses. -/
def segmentBytes (rs : List CRec) : List (Nat × Byte) :=
  (rs.filter (fun r => r.ty == 2 && r.kind < 2)).flatMap (fun r => placeAt r.start.toNat r.body)

/-- The walks of a processor through the directories for the pages of a LOAD's segments: the first code that a read of a slot meets. -/
def State.loadWalks (s : State) (d part : Nat) (dirs : List Word) (bs : List (Nat × Byte)) : State × Option (BitVec 8) :=
  let pages := (bs.map (·.1 / 4096)).eraseDups
  let reads := dirs.flatMap (fun dir => pages.flatMap (fun v => (s.searchReads dir (4096 * v)).map (slotPA dir)))
  reads.foldl (fun p a => match p.2 with | some _ => p | none => p.1.linkTrip d part a 1 (dataFlits 64)) (s, none)

/-- Writes the segments through the directories: whether every byte could be written (R394). Every place is known before the first write; a write that
meets a code at its home is left out, as a store's is, and so is what comes after it (R147; logs 65 and 66). -/
def State.writeSegments (s : State) (d part : Nat) (dirs : List Word) (bs : List (Nat × Byte)) : State × Bool :=
  match s.loadWalks d part dirs bs with
  | (s, some _) => (s, false)
  | (s, none) =>
    match (dirs.flatMap (fun d => bs.map (fun b => (s.loadPA d b.1, b.2)))).mapM (fun p => p.1.map (fun pa => (pa, p.2))) with
    | some ws => if dirs.isEmpty && !bs.isEmpty then (s, false) else (match s.linkPuts d part ws with | (s, code) => (s, code.isNone))
    | none => (s, false)

/-- Role images of a container, in order, with their plot segments. -/
def roleImages (rs : List CRec) : List RoleImage :=
  ((rs.filter (fun r => r.ty == 1)).zipIdx).map (fun p =>
    { role := roleOf (byteField p.1.body 24 1), slots := BitVec.ofNat 16 (byteField p.1.body 26 2), entry := wd (byteField p.1.body 32 8),
      plots := (rs.filter (fun r => r.ty == 2 && r.kind == 2 && r.image == p.2)).map (fun r => (r.start.toNat, r.body)) })

/-- Cores that the placements name and that are exposed, each with its role images (R394). -/
def State.placedCores (s : State) (part : Nat) (rs : List CRec) : List (Nat × List RoleImage) :=
  let images := roleImages rs
  let ps := rs.filter (fun r => r.ty == 5)
  let at_ (c : Nat) : List RoleImage :=
    let name := (s.coreName c).toNat
    let mask := ps.foldl (fun m r => if byteField r.body 0 2 ≤ name && name ≤ byteField r.body 2 2 then m ||| byteField r.body 4 4 else m) 0
    (images.zipIdx.filter (fun p => mask.testBit p.2)).map (·.1)
  let named (c : Nat) : Bool := ps.any (fun r => byteField r.body 0 2 ≤ (s.coreName c).toNat && (s.coreName c).toNat ≤ byteField r.body 2 2)
  let sites := (List.range Config.sites).filter (fun n => s.siteNamed part (s.site n).name == some n)
  ((sites.flatMap (fun n => (List.range 16).map (16 * n + ·))).filter (fun c => s.exposed c && named c)).map (fun c => (c, at_ c))

/-- Pairs (parent, child) of a boot tree, as sites of the partition. -/
def State.bootTree (s : State) (part : Nat) (rs : List CRec) : List (Nat × Nat) :=
  (rs.filter (fun r => r.ty == 6)).flatMap (fun r =>
    let site (i : Nat) : Option Nat := s.siteNamed part (BitVec.ofNat 12 (byteField r.body i 2))
    match site 0 with
    | some p => (List.range (byteField r.body 2 2)).filterMap (fun i => (site (4 + 2 * i)).map (fun c => (p, c)))
    | none => [])

/-- Sites that the packet reaches down a boot tree. -/
def reachedDown (tree : List (Nat × Nat)) (ns : List Nat) (fuel : Nat) : List Nat :=
  match fuel with
  | 0 => ns
  | k + 1 => reachedDown tree (ns ++ ((tree.filter (fun p => ns.contains p.1 && !ns.contains p.2)).map (·.2)).eraseDups) k

/-- Whether a LOAD is complete: every placed site is LOADED or FENCED (R394). -/
def State.loadEnded (s : State) (placed : List Nat) : Bool := placed.all (fun m => match (s.site m).state with | .loaded | .fenced => true | _ => false)

/-- Every LOAD whose placed sites are all LOADED or FENCED reports its completion (R394). -/
def State.settleLoads (s : State) : State :=
  (List.range 4).foldl (fun s d =>
    ((s.proc d).loads.filter s.loadEnded).foldl (fun s l => (s.modProc d (fun p => { p with loads := p.loads.erase l })).report (.loadDone d true)) s) s

/-- The site packets of a verified container whose segments have been written (R394). -/
def State.sendImages (s : State) (d : Nat) (part : BitVec 4) (l : List Byte) (rs : List CRec) (cores : List (Nat × List RoleImage)) (tree : List (Nat × Nat)) (targets : List Nat) : State :=
  let placed := (cores.map (fun p => siteOf p.1)).eraseDups
  let payload := (rs.filter (fun r => r.ty == 1 || r.ty == 5 || (r.ty == 2 && r.kind == 2))).flatMap (·.body)
  let s := s.modProc d (fun p => { p with digest := sha384 l, loads := p.loads ++ [placed] })
  (targets.foldl (fun s n => s.inject .system (.proc d) (s.procPort d) part (.coords n) (.sitePacket cores placed tree (sha384 payload) payload)) s).settleLoads

/-- LOAD (R48, R393, R394): a packet on the control link, charged to the partition's budget; the container is read and verified, its segments are written,
and site packets go to the roots or to every placed site. -/
def execLoad (proc : Nat) (part : BitVec 4) (pa : BitVec 43) (dirs : List (BitVec 64)) (s : State) : Out :=
  .next (if 4 ≤ proc then s
    else match s.chargeLink proc part.toNat pa.toNat (dataFlits (8 * (1 + dirs.length))) with
    | (s, false) => s.report (.refused proc 0x24)
    | (s, true) =>
      match s.containerAt proc part.toNat pa.toNat with
      | (s, none) => s.report (.loadDone proc false)
      | (s, some l) =>
        match openContainer s.keys l with
        | none => s.report (.loadDone proc false)
        | some rs =>
          let cores := s.placedCores part.toNat rs
          let placed := (cores.map (fun p => siteOf p.1)).eraseDups
          let tree := s.bootTree part.toNat rs
          let hasTree := rs.any (fun r => r.ty == 6)
          let roots := ((tree.map (·.1)).eraseDups).filter (fun n => !tree.any (fun p => p.2 == n))
          let twoParents := tree.any (fun p => tree.any (fun q => p.2 == q.2 && p.1 != q.1))
          let reached := reachedDown tree roots Config.sites
          if hasTree && (twoParents || placed.any (fun n => !reached.contains n)) then s.report (.loadDone proc false)
          else match s.writeSegments proc part.toNat dirs (segmentBytes rs) with
            | (s, false) => s.report (.loadDone proc false)
            | (s, true) => s.sendImages proc part l rs cores tree (if hasTree then roots else placed))

/-- SITE_PACKET (R54, R394): a NAMED site with placed cores keeps their images and enters LOADED, or FENCED on a mismatch; the
packet goes on to the children. -/
def execSitePacket (fid : Nat) (s : State) : Out :=
  .next (match s.arrivedFrom fid with
    | some (Sender.proc d, Body.sitePacket cores placed tree digest payload) => s.withPacket fid (fun f s =>
        let n := f.dsite
        let s :=
          if !(placed.contains n && (s.site n).state == .named) then s
          else if sha384 payload == digest then
            let s := (cores.filter (fun p => siteOf p.1 == n)).foldl (fun s p => s.modCore p.1 (fun k => { k with roles := p.2, placed := true })) s
            s.modSite n (fun t => { t with state := .loaded, image := true })
          else s.fenceSite n
        ((tree.filter (fun p => p.1 == n)).foldl (fun s p =>
          s.inject .system (.proc d) n f.part (.coords p.2) (.sitePacket cores placed tree digest payload)) s).settleLoads)
    | _ => s)

/-- UNLOAD (R54, R390): the named LOADED sites discard their images. -/
def execUnload (proc : Nat) (part : BitVec 4) (names : List (BitVec 12)) (s : State) : Out :=
  .next (if 4 ≤ proc then s
    else names.foldl (fun s name => s.siteCommand ⟨proc, part, name, none⟩ (fun n s =>
      if (s.site n).state == .loaded then
        ((s.coresOf n).foldl (fun s c => s.modCore c (fun k => { k with roles := [], placed := false })) s).modSite n (fun t => { t with state := .named, image := false })
      else s)) s)

/-! ## Attestation (R396) -/

/-- ATTEST (R396): a signed report over the nonce and the firmware digests. -/
def execAttest (proc : Nat) (nonce : BitVec 384) (s : State) : Out :=
  let firmware := (List.range 4).flatMap (fun d => bytesOf 48 (Config.firmwareDigest d).toNat)
  let signed := bytesOf 16 Config.partAndSerial.toNat ++ firmware ++ bytesOf 48 nonce.toNat
  let all := signed ++ bytesOf 96 (Config.deviceSignature signed).toNat
  .next (if 4 ≤ proc then s else s.report (.attestation proc (BitVec.ofNat 2816 (ofBytes all))))

end Sys2Proof.Machine
end

