-- ==== Sys2Proof/Machine/Futures.lean ====
section
/-! DEFINITION. Register-state instructions (R100 to R107), the delivery of a claim (R90) and the park limit (R84, R85). -/

namespace Sys2Proof.Machine

/-- Form of a register-state instruction: the file must be one the role holds (R73). -/
def stateForm (i : Instr) (f : RFile) (regs : List (Bool × RFile × Nat)) (touches : List (RFile × Nat)) : Form :=
  { instr := i, roles := fun r => roleHolds r f, regs := regs, touches := touches }

/-- Drops the claim of a register of a slot for FDROP or MVF (R91); of a waiting RECVF claim the cycle is kept: a message that lands in it
was taken before the drop (R331). -/
def Core.dropNoting (k : Core) (slot : Nat) (f : RFile) (n : Nat) : Core :=
  let was := (k.slot slot).recvClaim
  let k' := k.dropReg slot f n
  if was.isSome && was == k.claimOf slot f n then k'.setSlot slot { (k'.slot slot) with recvDrop := some k.cycle } else k'

/-- The move of R103, once regd is not PENDING and differs from regs. -/
def moveReg (s : State) (f : RFile) (d n : Nat) : State :=
  let s := s.settleReg f n
  let c := s.curCore
  let me := s.curSlot
  if f = .x ∧ d = 0 then
    s.modCore c (fun k =>
      let k := if (k.slot me).regSt f n = .pending then k.dropNoting me f n else k
      let k := k.setSlot me ((k.slot me).setRegLow f n .vacant 0)
      k.watchFire (fun w => w.target == .slot && w.slot == me) n)
  else if f = .x ∧ n = 0 then s.modMe (fun t => t.setRegLow f d .full 0)
  else
    s.modCore c (fun k =>
      let t := k.slot me
      let was := t.regSt f n
      let k := match was, k.claimOf me f n with
        | .pending, some i => { k with claims := match nget k.claims i with | some cl => nput k.claims i { cl with reg := d } | none => k.claims }
        | _, _ => k
      let t := match f with
        | .x => (t.setXr d (t.xr n)).setXr n ⟨.vacant, 0⟩
        | .v => (t.setVr d (t.vr n)).setVr n ⟨.vacant, 0⟩
        | .m => (t.setMr d (t.mr n)).setMr n ⟨.vacant, 0⟩
        | .c => (t.setCr d (t.cr n)).setCr n ⟨.vacant, 0⟩
      let k := k.setSlot me t
      if f = .x ∧ was = .pending then k.watchFire (fun w => w.target == .slot && w.slot == me) n else k)

/-- FSTAT (R102): only xd is examined. -/
def execFstat (file : BitVec 2) (reg rd : BitVec 5) (s : State) : Out :=
  let f := fileOf file.toNat
  issue (stateForm (.fstat file reg rd) f [dx rd] []) (fun s => .done (s.setX rd (wd (stCode (s.me.regSt f reg.toNat))))) s

/-- MVF (R103). -/
def execMvf (file : BitVec 2) (reg rd : BitVec 5) (s : State) : Out :=
  let f := fileOf file.toNat
  issue (stateForm (.mvf file reg rd) f [(false, f, rd.toNat)] [(f, rd.toNat), (f, reg.toNat)])
    (fun s => .done (if rd = reg then s else moveReg s f rd.toNat reg.toNat)) s

/-- FWAIT (R104). -/
def execFwait (file : BitVec 2) (reg : BitVec 5) (s : State) : Out :=
  let f := fileOf file.toNat
  issue (stateForm (.fwait file reg) f [(false, f, reg.toNat)] (if f = .c then [(f, reg.toNat)] else [])) (fun s => .done s) s

/-- The registers that a WAITANY mask names (R105). -/
def watchMask (m : Word) (rd : BitVec 5) : List Nat := ((List.range 32).drop 1).filter (fun i => m.toNat.testBit i && i != rd.toNat)

/-- WAITANY (R105). -/
def execWaitany (rs1 rd : BitVec 5) (s : State) : Out :=
  issue { instr := .waitany rs1 rd, roles := anyRole, regs := [sx rs1, dx rd] } (fun s =>
    let m := watchMask (s.xv rs1) rd
    match m with
    | [] => .done (s.setX rd 0)
    | _ =>
      match m.find? (fun i => s.me.regSt .x i != .pending) with
      | some i => .done (s.setX rd (wd i))
      | none => withClaim s .x rd.toNat 0 true fun s c =>
          let bits := m.foldl (fun a i => a + 2 ^ i) 0
          .done (match c with
            | some j => s.modHere (fun k => match nget k.claims j with | some cl => { k with claims := nput k.claims j { cl with watch := BitVec.ofNat 32 bits } } | none => k)
            | none => s)) s

/-- FDROP (R106): FULL zero in every state; a fill of this cycle comes first. -/
def execFdrop (file : BitVec 2) (reg : BitVec 5) (s : State) : Out :=
  let f := fileOf file.toNat
  issue (stateForm (.fdrop file reg) f [] [(f, reg.toNat)]) (fun s =>
    let s := s.settleReg f reg.toNat
    let me := s.curSlot
    .done (s.modHere (fun k =>
      let was := (k.slot me).regSt f reg.toNat
      let k := if was = .pending then k.dropNoting me f reg.toNat else k
      let k := k.setSlot me ((k.slot me).setRegLow f reg.toNat .full 0)
      if f = .x ∧ was = .pending then k.watchFire (fun w => w.target == .slot && w.slot == me) reg.toNat else k))) s

/-- FPOISON (R107). -/
def execFpoison (file : BitVec 2) (rs1 reg : BitVec 5) (s : State) : Out :=
  let f := fileOf file.toNat
  issue (stateForm (.fpoison file rs1 reg) f [sx rs1, (false, f, reg.toNat)] [(f, reg.toNat)])
    (fun s => .done (s.modMe (fun t => t.setRegLow f reg.toNat .poison (s.xv rs1)))) s

/-- A delivery is applied to its claim's target (R90). -/
def execClaimDelivery (core claim : Nat) (s : State) : Out :=
  match (s.core core).deliveries.find? (fun d => d.claim == claim && d.due ≤ (s.core core).cycle) with
  | some d => if s.deliverable core d then .next (s.applyDelivery core d) else .next s
  | none => .next s

/-- tval of a park limit (R84, R176, R208, R210). -/
def parkTval (on : ParkOn) : Word :=
  match on with
  | .reg f n => regIdent f n
  | .claims _ => 0xFFFFFFFFFFFFFFFF
  | .walker _ _ => 0xFFFFFFFFFFFFFFFE
  | .queue _ _ => 0xFFFFFFFFFFFFFFFC
  | .lock _ _ _ => 0xFFFFFFFFFFFFFFFD

/-- A parked slot reaches its limit (R84, R85): cause 26 instead of the turn. -/
def execParkLimit (core slot : Nat) (s : State) : Out :=
  let t := s.slot core slot
  match t.park with
  | some on =>
    if t.state == .parked && t.parklim.toNat % 2 ^ 32 ≠ 0 && t.parklim.toNat % 2 ^ 32 ≤ t.parkCount + 1 && s.parkBlocked core slot then
      .next ({ s with curCore := core, curSlot := slot }.trap 26 (parkTval on))
    else .next s
  | none => .next s

end Sys2Proof.Machine
end

