-- ==== Sys2Proof/Machine/Ordering.lean ====
section
/-! DEFINITION. Ordering instructions: acquires, releases and fences (R64, R153 to R159). -/

namespace Sys2Proof.Machine

/-- LACQ (R157). -/
def execLacq (scope : BitVec 4) (rs1 rd : BitVec 5) (s : State) : Out :=
  issue { instr := .lacq scope rs1 rd, roles := anyRole, scope := some scope, regs := [sx rs1, dx rd] }
    (fun s => scalarLoad s rd (s.xv rs1) 8 true (some (s.scopeOf scope))) s

/-- LACQW (R157). -/
def execLacqw (scope : BitVec 4) (rs1 rd : BitVec 5) (s : State) : Out :=
  issue { instr := .lacqw scope rs1 rd, roles := anyRole, scope := some scope, regs := [sx rs1, dx rd] }
    (fun s => scalarLoad s rd (s.xv rs1) 4 true (some (s.scopeOf scope))) s

/-- SREL (R158). -/
def execSrel (scope : BitVec 4) (rs2 rs1 : BitVec 5) (s : State) : Out :=
  issue { instr := .srel scope rs2 rs1, roles := anyRole, scope := some scope, regs := [sx rs1, sx rs2] }
    (fun s => scalarStore s (s.xv rs2) (s.xv rs1) 8 (some (s.scopeOf scope))) s

/-- SRELW (R158). -/
def execSrelw (scope : BitVec 4) (rs2 rs1 : BitVec 5) (s : State) : Out :=
  issue { instr := .srelw scope rs2 rs1, roles := anyRole, scope := some scope, regs := [sx rs1, sx rs2] }
    (fun s => scalarStore s (s.xv rs2) (s.xv rs1) 4 (some (s.scopeOf scope))) s

/-- FENCES (R159). -/
def execFences (scope succ pred : BitVec 4) (s : State) : Out :=
  issue { instr := .fences scope succ pred, roles := anyRole, scope := some scope } (fun s => fenceBody (s.scopeOf scope) pred succ s) s

/-- The set that FENCE forms from its R and W bits: an AMO counts as both (R64). Bit 1 of the field is R, bit 0 is W. -/
def fenceSet (b : BitVec 4) : BitVec 4 :=
  let r := b.getLsbD 1
  let w := b.getLsbD 0
  BitVec.ofNat 4 ((if r then 8 else 0) + (if w then 4 else 0) + (if r || w then 2 else 0))

/-- FENCE (R64): FENCES.mod. -/
def execFence (fm pred succ : BitVec 4) (s : State) : Out :=
  issue { instr := .fence fm pred succ, roles := anyRole } (fun s => fenceBody 3 (fenceSet pred) (fenceSet succ) s) s

end Sys2Proof.Machine
end

