-- ==== Sys2Proof/Machine/Scalar.lean ====
section
/-! DEFINITION. Integer computation, divides, jumps and branches, ECALL, EBREAK, and a word that is illegal (R71, R111 to R118). -/

namespace Sys2Proof.Machine

/-- A form that any role may issue. -/
def anyForm (i : Instr) (regs : List (Bool × RFile × Nat)) : Form := { instr := i, roles := anyRole, regs := regs }

/-- Writes a result to rd. -/
def writeRd (rd : BitVec 5) (f : State → Word) (s : State) : Act := .done (s.setX rd (f s))

/-- A 32-bit result, sign-extended (R111). -/
def w32 (v : BitVec 32) : Word := v.signExtend 64

/-- The low 32 bits of a register (R111). -/
def State.xw (s : State) (r : BitVec 5) : BitVec 32 := (s.xv r).setWidth 32

/-- 1 or 0. -/
def bit01 (b : Bool) : Word := if b then 1 else 0

/-- The high 64 bits of a product of two integers (R113). -/
def mulHigh (a b : Int) : Word := BitVec.ofInt 64 (a * b / 2 ^ 64)

/-- A divide (R114, R115): claim of class 3, result captured now, filled when the long-operation unit completes; each vector long operation
ahead may delay it by up to 64 cycles, how much being open (log 3). -/
def divide (rd : BitVec 5) (cycles : Nat) (q : Word) (s : State) : Act :=
  withClaim s .x rd.toNat 3 false fun s c =>
    let n := 64 * s.here.vecs.length
    let at_ := s.here.cycle + cycles
    let d : DivOp := { id := s.nextId, claim := c, result := q, due := at_ + s.freshWord.toNat % (n + 1), late := at_ + n }
    .done (s.useFree.bump.modHere (fun k => { k with divs := k.divs ++ [d] }))

/-- Quotient rounded towards zero with the special cases of R114. -/
def divSigned {w : Nat} (a b : BitVec w) : BitVec w := if b = 0 then BitVec.allOnes w else a.sdiv b
def divUnsigned {w : Nat} (a b : BitVec w) : BitVec w := if b = 0 then BitVec.allOnes w else a / b
/-- Remainder with the sign of the dividend; divisor 0 gives the dividend (R114). -/
def remSigned {w : Nat} (a b : BitVec w) : BitVec w := if b = 0 then a else a.srem b
def remUnsigned {w : Nat} (a b : BitVec w) : BitVec w := if b = 0 then a else a % b

/-- A jump with its link (R116). -/
def jumpTo (rd : BitVec 5) (t : Word) (s : State) : Act :=
  if t.toNat % 4 ≠ 0 then .trap s 0 t else .jump (s.setX rd (s.me.pc + 4)) t

/-- A branch (R116). -/
def branch (taken : Bool) (off : Word) (s : State) : Act :=
  if taken then
    let t := s.me.pc + off
    if t.toNat % 4 ≠ 0 then .trap s 0 t else .jump s t
  else .jump s (s.me.pc + 4)


/-! ## Immediates (R112) -/

/-- LUI (R112). -/
def execLui (imm : BitVec 20) (rd : BitVec 5) (s : State) : Out :=
  issue (anyForm (.lui imm rd) [dx rd]) (writeRd rd fun _ => immU imm) s

/-- AUIPC (R112). -/
def execAuipc (imm : BitVec 20) (rd : BitVec 5) (s : State) : Out :=
  issue (anyForm (.auipc imm rd) [dx rd]) (writeRd rd fun s => s.me.pc + immU imm) s

/-- ADDI (R112). -/
def execAddi (imm : BitVec 12) (rs1 rd : BitVec 5) (s : State) : Out :=
  issue (anyForm (.addi imm rs1 rd) [sx rs1, dx rd]) (writeRd rd fun s => s.xv rs1 + immI imm) s

/-- SLTI (R112). -/
def execSlti (imm : BitVec 12) (rs1 rd : BitVec 5) (s : State) : Out :=
  issue (anyForm (.slti imm rs1 rd) [sx rs1, dx rd]) (writeRd rd fun s => bit01 ((s.xv rs1).slt (immI imm))) s

/-- SLTIU (R112). -/
def execSltiu (imm : BitVec 12) (rs1 rd : BitVec 5) (s : State) : Out :=
  issue (anyForm (.sltiu imm rs1 rd) [sx rs1, dx rd]) (writeRd rd fun s => bit01 ((s.xv rs1).ult (immI imm))) s

/-- XORI (R112). -/
def execXori (imm : BitVec 12) (rs1 rd : BitVec 5) (s : State) : Out :=
  issue (anyForm (.xori imm rs1 rd) [sx rs1, dx rd]) (writeRd rd fun s => s.xv rs1 ^^^ immI imm) s

/-- ORI (R112). -/
def execOri (imm : BitVec 12) (rs1 rd : BitVec 5) (s : State) : Out :=
  issue (anyForm (.ori imm rs1 rd) [sx rs1, dx rd]) (writeRd rd fun s => s.xv rs1 ||| immI imm) s

/-- ANDI (R112). -/
def execAndi (imm : BitVec 12) (rs1 rd : BitVec 5) (s : State) : Out :=
  issue (anyForm (.andi imm rs1 rd) [sx rs1, dx rd]) (writeRd rd fun s => s.xv rs1 &&& immI imm) s

/-- ADDIW (R112). -/
def execAddiw (imm : BitVec 12) (rs1 rd : BitVec 5) (s : State) : Out :=
  issue (anyForm (.addiw imm rs1 rd) [sx rs1, dx rd]) (writeRd rd fun s => w32 ((s.xv rs1 + immI imm).setWidth 32)) s

/-- SLLI (R112). -/
def execSlli (shamt : BitVec 6) (rs1 rd : BitVec 5) (s : State) : Out :=
  issue (anyForm (.slli shamt rs1 rd) [sx rs1, dx rd]) (writeRd rd fun s => s.xv rs1 <<< shamt.toNat) s

/-- SRLI (R112). -/
def execSrli (shamt : BitVec 6) (rs1 rd : BitVec 5) (s : State) : Out :=
  issue (anyForm (.srli shamt rs1 rd) [sx rs1, dx rd]) (writeRd rd fun s => s.xv rs1 >>> shamt.toNat) s

/-- SRAI (R112). -/
def execSrai (shamt : BitVec 6) (rs1 rd : BitVec 5) (s : State) : Out :=
  issue (anyForm (.srai shamt rs1 rd) [sx rs1, dx rd]) (writeRd rd fun s => (s.xv rs1).sshiftRight shamt.toNat) s

/-- SLLIW (R112). -/
def execSlliw (shamt : BitVec 5) (rs1 rd : BitVec 5) (s : State) : Out :=
  issue (anyForm (.slliw shamt rs1 rd) [sx rs1, dx rd]) (writeRd rd fun s => w32 (s.xw rs1 <<< shamt.toNat)) s

/-- SRLIW (R112). -/
def execSrliw (shamt : BitVec 5) (rs1 rd : BitVec 5) (s : State) : Out :=
  issue (anyForm (.srliw shamt rs1 rd) [sx rs1, dx rd]) (writeRd rd fun s => w32 (s.xw rs1 >>> shamt.toNat)) s

/-- SRAIW (R112). -/
def execSraiw (shamt : BitVec 5) (rs1 rd : BitVec 5) (s : State) : Out :=
  issue (anyForm (.sraiw shamt rs1 rd) [sx rs1, dx rd]) (writeRd rd fun s => w32 ((s.xw rs1).sshiftRight shamt.toNat)) s

/-! ## Register-register (R113) -/

/-- ADD (R113). -/
def execAdd (rs2 rs1 rd : BitVec 5) (s : State) : Out :=
  issue (anyForm (.add rs2 rs1 rd) [sx rs1, sx rs2, dx rd]) (writeRd rd fun s => s.xv rs1 + s.xv rs2) s

/-- SUB (R113). -/
def execSub (rs2 rs1 rd : BitVec 5) (s : State) : Out :=
  issue (anyForm (.sub rs2 rs1 rd) [sx rs1, sx rs2, dx rd]) (writeRd rd fun s => s.xv rs1 - s.xv rs2) s

/-- SLL (R113). -/
def execSll (rs2 rs1 rd : BitVec 5) (s : State) : Out :=
  issue (anyForm (.sll rs2 rs1 rd) [sx rs1, sx rs2, dx rd]) (writeRd rd fun s => s.xv rs1 <<< ((s.xv rs2).toNat % 64)) s

/-- SLT (R113). -/
def execSlt (rs2 rs1 rd : BitVec 5) (s : State) : Out :=
  issue (anyForm (.slt rs2 rs1 rd) [sx rs1, sx rs2, dx rd]) (writeRd rd fun s => bit01 ((s.xv rs1).slt (s.xv rs2))) s

/-- SLTU (R113). -/
def execSltu (rs2 rs1 rd : BitVec 5) (s : State) : Out :=
  issue (anyForm (.sltu rs2 rs1 rd) [sx rs1, sx rs2, dx rd]) (writeRd rd fun s => bit01 ((s.xv rs1).ult (s.xv rs2))) s

/-- XOR (R113). -/
def execXor (rs2 rs1 rd : BitVec 5) (s : State) : Out :=
  issue (anyForm (.xor rs2 rs1 rd) [sx rs1, sx rs2, dx rd]) (writeRd rd fun s => s.xv rs1 ^^^ s.xv rs2) s

/-- SRL (R113). -/
def execSrl (rs2 rs1 rd : BitVec 5) (s : State) : Out :=
  issue (anyForm (.srl rs2 rs1 rd) [sx rs1, sx rs2, dx rd]) (writeRd rd fun s => s.xv rs1 >>> ((s.xv rs2).toNat % 64)) s

/-- SRA (R113). -/
def execSra (rs2 rs1 rd : BitVec 5) (s : State) : Out :=
  issue (anyForm (.sra rs2 rs1 rd) [sx rs1, sx rs2, dx rd]) (writeRd rd fun s => (s.xv rs1).sshiftRight ((s.xv rs2).toNat % 64)) s

/-- OR (R113). -/
def execOr (rs2 rs1 rd : BitVec 5) (s : State) : Out :=
  issue (anyForm (.or rs2 rs1 rd) [sx rs1, sx rs2, dx rd]) (writeRd rd fun s => s.xv rs1 ||| s.xv rs2) s

/-- AND (R113). -/
def execAnd (rs2 rs1 rd : BitVec 5) (s : State) : Out :=
  issue (anyForm (.and rs2 rs1 rd) [sx rs1, sx rs2, dx rd]) (writeRd rd fun s => s.xv rs1 &&& s.xv rs2) s

/-- ADDW (R113). -/
def execAddw (rs2 rs1 rd : BitVec 5) (s : State) : Out :=
  issue (anyForm (.addw rs2 rs1 rd) [sx rs1, sx rs2, dx rd]) (writeRd rd fun s => w32 (s.xw rs1 + s.xw rs2)) s

/-- SUBW (R113). -/
def execSubw (rs2 rs1 rd : BitVec 5) (s : State) : Out :=
  issue (anyForm (.subw rs2 rs1 rd) [sx rs1, sx rs2, dx rd]) (writeRd rd fun s => w32 (s.xw rs1 - s.xw rs2)) s

/-- SLLW (R113). -/
def execSllw (rs2 rs1 rd : BitVec 5) (s : State) : Out :=
  issue (anyForm (.sllw rs2 rs1 rd) [sx rs1, sx rs2, dx rd]) (writeRd rd fun s => w32 (s.xw rs1 <<< ((s.xv rs2).toNat % 32))) s

/-- SRLW (R113). -/
def execSrlw (rs2 rs1 rd : BitVec 5) (s : State) : Out :=
  issue (anyForm (.srlw rs2 rs1 rd) [sx rs1, sx rs2, dx rd]) (writeRd rd fun s => w32 (s.xw rs1 >>> ((s.xv rs2).toNat % 32))) s

/-- SRAW (R113). -/
def execSraw (rs2 rs1 rd : BitVec 5) (s : State) : Out :=
  issue (anyForm (.sraw rs2 rs1 rd) [sx rs1, sx rs2, dx rd]) (writeRd rd fun s => w32 ((s.xw rs1).sshiftRight ((s.xv rs2).toNat % 32))) s

/-- MUL (R113). -/
def execMul (rs2 rs1 rd : BitVec 5) (s : State) : Out :=
  issue (anyForm (.mul rs2 rs1 rd) [sx rs1, sx rs2, dx rd]) (writeRd rd fun s => s.xv rs1 * s.xv rs2) s

/-- MULH (R113). -/
def execMulh (rs2 rs1 rd : BitVec 5) (s : State) : Out :=
  issue (anyForm (.mulh rs2 rs1 rd) [sx rs1, sx rs2, dx rd]) (writeRd rd fun s => mulHigh (s.xv rs1).toInt (s.xv rs2).toInt) s

/-- MULHSU (R113). -/
def execMulhsu (rs2 rs1 rd : BitVec 5) (s : State) : Out :=
  issue (anyForm (.mulhsu rs2 rs1 rd) [sx rs1, sx rs2, dx rd]) (writeRd rd fun s => mulHigh (s.xv rs1).toInt (Int.ofNat (s.xv rs2).toNat)) s

/-- MULHU (R113). -/
def execMulhu (rs2 rs1 rd : BitVec 5) (s : State) : Out :=
  issue (anyForm (.mulhu rs2 rs1 rd) [sx rs1, sx rs2, dx rd]) (writeRd rd fun s => mulHigh (Int.ofNat (s.xv rs1).toNat) (Int.ofNat (s.xv rs2).toNat)) s

/-- MULW (R113). -/
def execMulw (rs2 rs1 rd : BitVec 5) (s : State) : Out :=
  issue (anyForm (.mulw rs2 rs1 rd) [sx rs1, sx rs2, dx rd]) (writeRd rd fun s => w32 (s.xw rs1 * s.xw rs2)) s

/-! ## Divides (R114, R115) -/

/-- DIV (R114). -/
def execDiv (rs2 rs1 rd : BitVec 5) (s : State) : Out :=
  issue (anyForm (.div rs2 rs1 rd) [sx rs1, sx rs2, dx rd]) (fun s => divide rd 36 (divSigned (s.xv rs1) (s.xv rs2)) s) s

/-- DIVU (R114). -/
def execDivu (rs2 rs1 rd : BitVec 5) (s : State) : Out :=
  issue (anyForm (.divu rs2 rs1 rd) [sx rs1, sx rs2, dx rd]) (fun s => divide rd 36 (divUnsigned (s.xv rs1) (s.xv rs2)) s) s

/-- REM (R114). -/
def execRem (rs2 rs1 rd : BitVec 5) (s : State) : Out :=
  issue (anyForm (.rem rs2 rs1 rd) [sx rs1, sx rs2, dx rd]) (fun s => divide rd 36 (remSigned (s.xv rs1) (s.xv rs2)) s) s

/-- REMU (R114). -/
def execRemu (rs2 rs1 rd : BitVec 5) (s : State) : Out :=
  issue (anyForm (.remu rs2 rs1 rd) [sx rs1, sx rs2, dx rd]) (fun s => divide rd 36 (remUnsigned (s.xv rs1) (s.xv rs2)) s) s

/-- DIVW (R114). -/
def execDivw (rs2 rs1 rd : BitVec 5) (s : State) : Out :=
  issue (anyForm (.divw rs2 rs1 rd) [sx rs1, sx rs2, dx rd]) (fun s => divide rd 20 (w32 (divSigned (s.xw rs1) (s.xw rs2))) s) s

/-- DIVUW (R114). -/
def execDivuw (rs2 rs1 rd : BitVec 5) (s : State) : Out :=
  issue (anyForm (.divuw rs2 rs1 rd) [sx rs1, sx rs2, dx rd]) (fun s => divide rd 20 (w32 (divUnsigned (s.xw rs1) (s.xw rs2))) s) s

/-- REMW (R114). -/
def execRemw (rs2 rs1 rd : BitVec 5) (s : State) : Out :=
  issue (anyForm (.remw rs2 rs1 rd) [sx rs1, sx rs2, dx rd]) (fun s => divide rd 20 (w32 (remSigned (s.xw rs1) (s.xw rs2))) s) s

/-- REMUW (R114). -/
def execRemuw (rs2 rs1 rd : BitVec 5) (s : State) : Out :=
  issue (anyForm (.remuw rs2 rs1 rd) [sx rs1, sx rs2, dx rd]) (fun s => divide rd 20 (w32 (remUnsigned (s.xw rs1) (s.xw rs2))) s) s

/-- A divide leaves the long-operation unit: its claim is filled (R114, R115). -/
def execDivideComplete (core op : Nat) (s : State) : Out :=
  match (s.core core).divs.find? (fun d => d.id == op && d.due ≤ (s.core core).cycle) with
  | some d =>
    let s := s.modCore core (fun k => { k with divs := k.divs.filter (fun e => e.id != op) })
    .next (s.fillNow core d.claim d.result)
  | none => .next s

/-! ## Control transfer (R116) -/

/-- JAL (R116). -/
def execJal (imm : BitVec 20) (rd : BitVec 5) (s : State) : Out :=
  issue (anyForm (.jal imm rd) [dx rd]) (fun s => jumpTo rd (s.me.pc + immJ imm) s) s

/-- JALR (R116). -/
def execJalr (imm : BitVec 12) (rs1 rd : BitVec 5) (s : State) : Out :=
  issue (anyForm (.jalr imm rs1 rd) [sx rs1, dx rd]) (fun s => jumpTo rd ((s.xv rs1 + immI imm) &&& ~~~1) s) s

/-- BEQ (R116). -/
def execBeq (immHi : BitVec 7) (rs2 rs1 immLo : BitVec 5) (s : State) : Out :=
  issue (anyForm (.beq immHi rs2 rs1 immLo) [sx rs1, sx rs2]) (fun s => branch (s.xv rs1 == s.xv rs2) (immB immHi immLo) s) s

/-- BNE (R116). -/
def execBne (immHi : BitVec 7) (rs2 rs1 immLo : BitVec 5) (s : State) : Out :=
  issue (anyForm (.bne immHi rs2 rs1 immLo) [sx rs1, sx rs2]) (fun s => branch (s.xv rs1 != s.xv rs2) (immB immHi immLo) s) s

/-- BLT (R116). -/
def execBlt (immHi : BitVec 7) (rs2 rs1 immLo : BitVec 5) (s : State) : Out :=
  issue (anyForm (.blt immHi rs2 rs1 immLo) [sx rs1, sx rs2]) (fun s => branch ((s.xv rs1).slt (s.xv rs2)) (immB immHi immLo) s) s

/-- BGE (R116). -/
def execBge (immHi : BitVec 7) (rs2 rs1 immLo : BitVec 5) (s : State) : Out :=
  issue (anyForm (.bge immHi rs2 rs1 immLo) [sx rs1, sx rs2]) (fun s => branch (!(s.xv rs1).slt (s.xv rs2)) (immB immHi immLo) s) s

/-- BLTU (R116). -/
def execBltu (immHi : BitVec 7) (rs2 rs1 immLo : BitVec 5) (s : State) : Out :=
  issue (anyForm (.bltu immHi rs2 rs1 immLo) [sx rs1, sx rs2]) (fun s => branch ((s.xv rs1).ult (s.xv rs2)) (immB immHi immLo) s) s

/-- BGEU (R116). -/
def execBgeu (immHi : BitVec 7) (rs2 rs1 immLo : BitVec 5) (s : State) : Out :=
  issue (anyForm (.bgeu immHi rs2 rs1 immLo) [sx rs1, sx rs2]) (fun s => branch (!(s.xv rs1).ult (s.xv rs2)) (immB immHi immLo) s) s

/-! ## ECALL, EBREAK, illegal words (R71, R118) -/

/-- ECALL (R118): trap 8. -/
def execEcall (s : State) : Out := issue (anyForm .ecall []) (fun s => .trap s 8 0) s

/-- EBREAK (R118): trap 3 with the pc. -/
def execEbreak (s : State) : Out := issue (anyForm .ebreak []) (fun s => .trap s 3 s.me.pc) s

/-- A word that decodes to no instruction traps with cause 2 (R71). -/
def execIllegalWord (word : BitVec 32) (s : State) : Out := .next (s.trap 2 (word.setWidth 64))

end Sys2Proof.Machine
end

