-- ==== Sys2Proof/Machine/Stream.lean ====
section
/-! DEFINITION. Bit-stream instructions and back-references (R334 to R344). -/

namespace Sys2Proof.Machine

def bsOpen (b : Word) : Bool := b.getLsbD 63
def bsLsb (b : Word) : Bool := b.getLsbD 62
/-- Limit of a stream; values above 0x800000 act as 0x800000 (R335). -/
def bsLim (b : Word) : Nat := min (wf b 24 24) 0x800000
def bsPos (b : Word) : Nat := wf b 0 24

/-- Bit p of local store under the stream's order (R336). -/
def streamBit (m : Memory) (lsb : Bool) (p : Nat) : Bool := (memGet m (p / 8)).getLsbD (if lsb then p % 8 else 7 - p % 8)

/-- Field(p, n) of R336. -/
def streamField (m : Memory) (b : Word) (p n : Nat) : Nat :=
  (List.range n).foldl (fun a i =>
    let bit := if p + i < bsLim b && streamBit m (bsLsb b) (p + i) then 1 else 0
    if bsLsb b then a + bit * 2 ^ i else 2 * a + bit) 0

/-- Form of a bit-stream instruction. -/
def streamForm (i : Instr) (regs : List (Bool × RFile × Nat)) : Form := { instr := i, roles := onlyT, regs := regs }

/-- End of an n-bit read at the position (R339). -/
def readEnd (b : Word) (n : Nat) : Nat := max (bsPos b) (min (bsPos b + n) (bsLim b))

/-- Moves the position past n bits, marking a stream that was overrun (R339). -/
def advanceStream (n : Nat) (s : State) : State :=
  s.modMe (fun t =>
    let b := t.bstream
    let b' := setField b 0 24 (readEnd b n)
    { t with bstream := if bsLim b < bsPos b + n then setField b' 61 1 1 else b' })

/-- No stream is open (R339, R340). -/
def closedTrap (s : State) : Act := .trap s 5 (BitVec.allOnes 64)

/-- BGET and BPEEK (R339). -/
def streamRead (n : Nat) (rd : BitVec 5) (after : State → State) (s : State) : Act :=
  let b := s.me.bstream
  if !bsOpen b then closedTrap s
  else
    let p := bsPos b
    let e := readEnd b n
    let bytes := if p < e then span (p / 8) ((e - 1) / 8 + 1 - p / 8) else []
    let k : Act := .done (after (s.setX rd (wd (streamField s.here.ls b p n))))
    if bytes.isEmpty then k else localAccess s false bytes k

/-- BGET (R339). -/
def execBget (nHi : BitVec 1) (nLo rd : BitVec 5) (s : State) : Out :=
  let n := (nHi ++ nLo).toNat
  issue (streamForm (.bget nHi nLo rd) [dx rd]) (streamRead n rd (advanceStream n)) s

/-- BPEEK (R339). -/
def execBpeek (nHi : BitVec 1) (nLo rd : BitVec 5) (s : State) : Out :=
  issue (streamForm (.bpeek nHi nLo rd) [dx rd]) (streamRead (nHi ++ nLo).toNat rd id) s

/-- BSKIP (R339). -/
def execBskip (nHi : BitVec 1) (nLo : BitVec 5) (s : State) : Out :=
  issue (streamForm (.bskip nHi nLo) []) (fun s => if !bsOpen s.me.bstream then closedTrap s else .done (advanceStream (nHi ++ nLo).toNat s)) s

/-- BSOPEN (R338). -/
def execBsopen (order : BitVec 1) (rs2 rs1 : BitVec 5) (s : State) : Out :=
  issue (streamForm (.bsopen order rs2 rs1) [sx rs1, sx rs2]) (fun s =>
    let a := s.xv rs1
    let len := (s.xv rs2).toNat
    if lsTop < a.toNat || lsTop - a.toNat < len then .trap s 5 a
    else .done (s.modMe (fun t => { t with bstream := wd (2 ^ 63 + order.toNat * 2 ^ 62 + 8 * (a.toNat + len) * 2 ^ 24 + 8 * a.toNat) }))) s

/-- BALIGN (R340). -/
def execBalign (s : State) : Out :=
  issue (streamForm .balign []) (fun s =>
    if !bsOpen s.me.bstream then closedTrap s
    else .done (s.modMe (fun t => { t with bstream := setField t.bstream 0 24 ((bsPos t.bstream + 7) / 8 * 8) }))) s

/-! ## Back-references (R341 to R343) -/

/-- Copies bytes one by one, each read seeing the bytes already written (R342). -/
def copySerial (m : Memory) (src dst : Nat) (n : Nat) : Memory :=
  match n with
  | 0 => m
  | k + 1 => copySerial (memSet m dst (memGet m src)) (src + 1) (dst + 1) k

/-- Group k of a BLZC: bytes 64k to 64k + 63 (R342). -/
def blzcGroupOf (m : Memory) (b : BlzcRec) (k : Nat) : Memory :=
  copySerial m (b.dst + 64 * k - b.dist.toNat) (b.dst + 64 * k) (min 64 (b.len - 64 * k))

/-- BLZC (R341, R342). -/
def execBlzc (rs2 rs1 rd : BitVec 5) (s : State) : Out :=
  issue (streamForm (.blzc rs2 rs1 rd) [sx rs1, sx rs2, sx rd]) (fun s =>
    let dst := s.xv rd
    let dist := s.xv rs1
    let len := s.xv rs2
    let n := len.toNat
    if 4096 < n then .trap s 7 len
    else if n = 0 then .done s
    else
      let src : Int := (dst.toNat : Int) - dist.toNat
      if src < 0 then .trap s 5 (BitVec.ofInt 64 src)
      else if (lsTop : Int) < src + n then .trap s 5 (BitVec.ofInt 64 (max src lsTop))
      else if lsTop < dst.toNat + n then .trap s 7 (wd (max dst.toNat lsTop))
      else
        let pairs := (List.range n).flatMap (fun i => [(src.toNat + i, false), (dst.toNat + i, true)])
        match pairs.find? (fun p => s.here.engineOwned p.1 || (p.2 && s.reservedPlot s.curCore (plotOf p.1))) with
        | some p => .trap s 27 (wd p.1)
        | none =>
          match s.lockFail (pairs.map (·.1)) with
          | some b => .park s (s.here.lockPark b)
          | none =>
            if s.localHeld || s.here.blzc.isSome then .hold s
            else
              let b : BlzcRec := { slot := s.curSlot, dst := dst.toNat, dist := dist, len := n, next := 1, start := s.here.cycle }
              let s := s.modHere (fun k => { k with ls := blzcGroupOf k.ls b 0, blzc := if 64 < n then some b else none })
              .done (s.modMe (fun t => { t with busyUntil := s.here.cycle + 16 * ((n + 63) / 64 - 1) }))) s

/-- A further group of a BLZC is performed in its cycle (R342, R343). -/
def execBlzcGroup (core : Nat) (s : State) : Out :=
  match (s.core core).blzc with
  | some b =>
    if b.start + 16 * b.next ≤ (s.core core).cycle then
      .next (s.modCore core (fun k => { k with ls := blzcGroupOf k.ls b b.next
                                               blzc := if 64 * (b.next + 1) < b.len then some { b with next := b.next + 1 } else none }))
    else .next s
  | none => .next s

end Sys2Proof.Machine
end

