-- ==== Sys2Proof/Machine/Tile.lean ====
section
/-! DEFINITION. Tile instructions, address streams and repeats (R245 to R264). -/

namespace Sys2Proof.Machine

/-- Form of a tile instruction: M role; all but RPT may stand in a repeat body, but for MMOVV (R264). -/
def tileForm (i : Instr) (inBody : Bool) (regs : List (Bool × RFile × Nat)) (touches : List (RFile × Nat)) : Form :=
  { instr := i, roles := onlyM, inBody := inBody, regs := regs, touches := touches }

/-- Cause 49 (R251). -/
def tileTrap (s : State) (reason : Nat) (detail : Nat) : Act := .trap s 49 (wd (reason * 2 ^ 56 + detail % 2 ^ 48))

/-- The identity that names wl.mstcfg (R251). -/
def mstIdent : Nat := 0x3FF
def tileIdent (m : Nat) : Nat := (regIdent .m m).toNat

/-- wl.mcfg of a tile. -/
def State.mcfg (s : State) (m : Nat) : Word := (nget s.me.mcfg m).getD mcfgReset

/-- Address checks and local-store checks of a tile transfer (R251 checks 2 to 4, R253). -/
def tileAccess (s : State) (write : Bool) (ps : List Piece) (k : Act) : Act :=
  match ps.findSome? (·.fail) with
  | some a => tileTrap s 5 (BitVec.ofInt 64 a).toNat
  | none =>
    match localAccess s write (ps.flatMap (·.bytes)) (.done s) with
    | .done _ => if s.transferBusy then .hold s else k
    | x => x

/-! ## Streams (R260 to R262) -/

def Stream.zero : Stream := { base := 0, stride1 := 0, stride2 := 0, count1 := 0, pos := 0 }
def State.stream (s : State) (n : Nat) : Stream := (nget s.me.streams n).getD Stream.zero

/-- One advance of a stream (R262). -/
def Stream.advance (x : Stream) : Stream :=
  let p := x.pos + 1
  if p == x.count1 then { x with pos := 0, base := x.base + x.stride2 } else { x with pos := p, base := x.base + x.stride1 }

def State.advance (s : State) (n : Nat) : State := s.modMe (fun t => { t with streams := nput t.streams n (s.stream n).advance })

/-- ASSET (R260). -/
def execAsset (field : BitVec 2) (rs1 : BitVec 5) (as : BitVec 2) (s : State) : Out :=
  issue (tileForm (.asset field rs1 as) true [sx rs1] []) (fun s =>
    let x := { s.stream as.toNat with pos := 0 }
    let v := s.xv rs1
    let y := match field.toNat with
      | 0 => { x with base := v }
      | 1 => { x with stride1 := v }
      | 2 => { x with count1 := v.setWidth 32 }
      | _ => { x with stride2 := v }
    .done (s.modMe (fun t => { t with streams := nput t.streams as.toNat y }))) s

/-! ## MLD and MST (R252, R253) -/

/-- MLD from an address; after is what the stream form adds. -/
def mldBody (md : Nat) (a : Word) (after : State → State) (s : State) : Act :=
  let g := s.mcfg md
  let t := cfgType g
  if !typeOk t then tileTrap s 1 (tileIdent md)
  else if cfgRows g = 0 || 64 < cfgRows g || cfgCols g = 0 || typeK t < cfgCols g then tileTrap s 2 (tileIdent md)
  else if cfgMx g && (t == 1 || t == 8) then tileTrap s 3 (tileIdent md)
  else
    let ps := mldPieces g a.toNat
    tileAccess s false ps (.done (after (s.startTransfer (.mload md g a) (ps.flatMap (·.bytes)))))

/-- MLD from a register address (R252). -/
def execMldAddr (rs1 : BitVec 5) (md : BitVec 3) (s : State) : Out :=
  issue (tileForm (.mldAddr rs1 md) true [sx rs1, (false, .m, md.toNat)] [(.m, md.toNat)]) (fun s => mldBody md.toNat (s.xv rs1) id s) s

/-- MLD through a stream (R252, R261). -/
def execMldStream (as : BitVec 2) (md : BitVec 3) (s : State) : Out :=
  issue (tileForm (.mldStream as md) true [(false, .m, md.toNat)] [(.m, md.toNat)])
    (fun s => mldBody md.toNat (s.stream as.toNat).base (fun s => s.advance as.toNat) s) s

/-- Row of an accumulator, element by element. -/
def accRow (c : BitVec 131072) (r : Nat) : List Nat := elemsOf (c.extractLsb' (2048 * r) 2048) 32 64

/-- Quantises elements in blocks of 32, element index being the column (R224): scales, elements, flags. -/
def quantBlocks (s : State) (code : Nat) (xs : List Nat) (mode : RMode) (blocks : Nat) : List Nat × List Nat × Nat :=
  (List.range blocks).foldl (fun (a : List Nat × List Nat × Nat) b =>
    let (sc, ys, fl) := quantise code ((xs.drop (32 * b)).take 32) mode (fun i => s.draw (32 * b + i))
    (a.1 ++ [sc], a.2.1 ++ ys, a.2.2 ||| fl)) ([], [], 0)

/-- Advances the row cursor of wl.mstcfg (R249). -/
def nextRow (g : Word) : Word := setField g 0 6 ((wf g 0 6 + 1) % 64)

/-- MST at an address (R252). -/
def mstBody (rm : BitVec 3) (sat : BitVec 1) (fmt : BitVec 4) (cs : Nat) (a : Word) (after : State → State) (s : State) : Act :=
  let g := s.me.mstcfg
  let n := wf g 16 8
  let r := wf g 0 6
  let mx := g.getLsbD 6
  let f := fmt.toNat
  let mode := rmOf rm.toNat
  if n = 0 || 64 < n then tileTrap s 2 mstIdent
  else if mx && (!mxFmt fmt || n % 32 ≠ 0) then tileTrap s 3 mstIdent
  else
    let xs := (accRow (s.me.cr cs).val r).take n
    let (scales, ys, fl) := if mx then quantBlocks s f xs mode (n / 32)
      else if f = 0 || f = 9 then ([], xs, 0)
      else
        let rs := xs.zipIdx.map (fun p => convert (if f = 8 then 9 else 0) f p.1 mode (sat == 1#1) (s.draw p.2))
        ([], rs.map (·.1), flagsOf rs)
    let len := (n * fmtWidth f + 7) / 8
    let sa : Int := (a.toNat : Int) + cfgSoff g
    let ps : List Piece := (if mx then [{ addr := sa, len := n / 32, align := 1 }] else []) ++ [{ addr := (a.toNat : Int), len := len, align := 8 }]
    let bytes := placeAt sa.toNat (scales.map (BitVec.ofNat 8)) ++ placeAt a.toNat (bytesOf len (packElems (fmtWidth f) ys))
    tileAccess s true ps (
      let s := s.startTransfer (.mstore bytes) (ps.flatMap (·.bytes))
      let s := (s.orFlags fl).useDraw mode
      .done (after (s.modMe (fun t => { t with mstcfg := nextRow g }))))

/-- MST to a register address (R252). -/
def execMstAddr (rm : BitVec 3) (sat : BitVec 1) (fmt : BitVec 4) (rs1 : BitVec 5) (cs : BitVec 2) (s : State) : Out :=
  issue (tileForm (.mstAddr rm sat fmt rs1 cs) true [sx rs1, (true, .c, cs.toNat)] [(.c, cs.toNat)])
    (fun s => mstBody rm sat fmt cs.toNat (s.xv rs1) id s) s

/-- MST through a stream (R252, R261). -/
def execMstStream (rm : BitVec 3) (sat : BitVec 1) (fmt : BitVec 4) (as cs : BitVec 2) (s : State) : Out :=
  issue (tileForm (.mstStream rm sat fmt as cs) true [(true, .c, cs.toNat)] [(.c, cs.toNat)])
    (fun s => mstBody rm sat fmt cs.toNat (s.stream as.toNat).base (fun s => s.advance as.toNat) s) s

/-! ## Accumulators and moves (R254) -/

/-- MZERO (R254). -/
def execMzero (cd : BitVec 2) (s : State) : Out :=
  issue (tileForm (.mzero cd) true [(false, .c, cd.toNat)] [(.c, cd.toNat)]) (fun s => .done (s.modMe (fun t => t.setCr cd.toNat ⟨.full, 0⟩))) s

/-- Replaces a row of a tile and its scale bytes. -/
def putTileRow (m : BitVec 34816) (r row scale : Nat) : BitVec 34816 :=
  let v := m.toNat
  let v := v - fieldOf v (512 * r) 512 * 2 ^ (512 * r) + row % 2 ^ 512 * 2 ^ (512 * r)
  BitVec.ofNat 34816 (v - fieldOf v (32768 + 32 * r) 32 * 2 ^ (32768 + 32 * r) + scale % 2 ^ 32 * 2 ^ (32768 + 32 * r))

/-- MMOVV (R254). -/
def execMmovv (rm : BitVec 3) (cs : BitVec 2) (md : BitVec 3) (s : State) : Out :=
  issue (tileForm (.mmovv rm cs md) false [(true, .c, cs.toNat), (false, .m, md.toNat)] [(.c, cs.toNat), (.m, md.toNat)]) (fun s =>
    let g := s.mcfg md.toNat
    let t := cfgType g
    let n := cfgCols g
    let mode := rmOf rm.toNat
    let id := tileIdent md.toNat
    let plain : Bool := t == 1 || t == 8
    if !typeOk t then tileTrap s 1 id
    else if n = 0 || min 64 (typeK t) < n then tileTrap s 2 id
    else if cfgMx g && (plain || n % 32 ≠ 0) then tileTrap s 3 id
    else if plain && mode != .rne then tileTrap s 7 id
    else
      let r := wf s.me.mstcfg 0 6
      let xs := (accRow (s.me.cr cs.toNat).val r).take n
      let (scales, ys, fl) := if cfgMx g then quantBlocks s t xs mode (n / 32)
        else
          let rs := xs.zipIdx.map (fun p => convert (if t = 8 then 9 else 0) t p.1 mode true (s.draw p.2))
          ([], rs.map (·.1), flagsOf rs)
      let sc := packElems 8 (scales ++ List.replicate (4 - scales.length) 0x7F)
      let m := s.me.mr md.toNat
      let s := s.modMe (fun x => x.setMr md.toNat ⟨.full, putTileRow m.val r (packElems (fmtWidth t) ys) sc⟩)
      let s := (s.orFlags fl).useDraw mode
      .done (s.modMe (fun x => { x with mstcfg := nextRow x.mstcfg }))) s

/-! ## MDOT and MDOTS (R255 to R259) -/

/-- First n elements of a tile row. -/
def tileElems (m : BitVec 34816) (t n i : Nat) : List Nat := elemsOf (m.extractLsb' (512 * i) 512) (fmtWidth t) n

/-- Scale byte b of a tile row. -/
def tileScale (m : BitVec 34816) (i b : Nat) : Nat := (m.extractLsb' (32768 + 32 * i + 8 * b) 8).toNat

/-- A row as chunks of at most 32 values with their scale bytes. -/
def rowChunks (m : BitVec 34816) (t n i : Nat) : List (List Val × Nat) :=
  let vs := (tileElems m t n i).map (decodeCode t)
  (List.range ((n + 31) / 32)).map (fun b => ((vs.drop (32 * b)).take 32, tileScale m i b))

/-- The accumulator after an operation on every element of its rows and columns in use. -/
def accUpdate (c : BitVec 131072) (rows cols : Nat) (f : Nat → Nat → Nat → Nat) : BitVec 131072 :=
  BitVec.ofNat 131072 (packElems 32 ((List.range 4096).map (fun e =>
    let x := elemOf c 32 e
    if e / 64 < rows && e % 64 < cols then f (e / 64) (e % 64) x else x)))

/-- Result of MDOT (R255). -/
def mdotResult (c : BitVec 131072) (a b : BitVec 34816) (ga gb : Word) : BitVec 131072 :=
  let n := cfgCols ga
  let ra := (List.range 64).map (rowChunks a (cfgType ga) n)
  let rb := (List.range 64).map (rowChunks b (cfgType gb) n)
  accUpdate c (cfgRows ga) (cfgRows gb) (fun i j x =>
    dotElem x (((ra.getD i []).zip (rb.getD j [])).map (fun p => (p.1.1, p.2.1, p.1.2, p.2.2))))

/-- Result of MDOTS (R257). -/
def mdotsResult (c : BitVec 131072) (a b : BitVec 34816) (ga gb : Word) : BitVec 131072 :=
  let n := cfgCols ga
  let rows (m : BitVec 34816) := (List.range 64).map (fun i => (tileElems m 8 n i).map (decodeI 8))
  let ra := rows a
  let rb := rows b
  accUpdate c (cfgRows ga) (cfgRows gb) (fun i j x =>
    clamp32 (((ra.getD i []).zip (rb.getD j [])).foldl (fun t p => t + p.1 * p.2) (decodeI 32 x)))

/-- Tile pairings of MDOT (R248). -/
def pairOk (ints : Bool) (t u : Nat) : Bool :=
  if ints then t == 8 && u == 8
  else (t == 6 && u == 6) || (t == 1 && u == 1) || (2 ≤ t && t ≤ 5 && 2 ≤ u && u ≤ 5)

/-- Reasons 1 and 2 on one configuration of MDOT (R251). -/
def dotShape (g : Word) : Option Nat :=
  if !typeOk (cfgType g) then some 1
  else if cfgRows g = 0 || 64 < cfgRows g || cfgCols g = 0 || typeK (cfgType g) < cfgCols g then some 2
  else none

/-- MDOT and MDOTS (R255, R257, R258): the result is that of the operands as they stand now. -/
def dotBody (ints : Bool) (mb ma : BitVec 3) (cd : BitVec 2) (s : State) : Act :=
  let ga := s.mcfg ma.toNat
  let gb := s.mcfg mb.toNat
  match dotShape ga, dotShape gb with
  | some r, _ => tileTrap s r (tileIdent ma.toNat)
  | none, some r => tileTrap s r (tileIdent mb.toNat)
  | none, none =>
    if !pairOk ints (cfgType ga) (cfgType gb) || cfgCols ga != cfgCols gb then tileTrap s 4 (tileIdent mb.toNat)
    else if s.here.array.isSome then .hold s
    else
      let c := (s.me.cr cd.toNat).val
      let a := (s.me.mr ma.toNat).val
      let b := (s.me.mr mb.toNat).val
      let r := if ints then mdotsResult c a b ga gb else mdotResult c a b ga gb
      .done ((s.modHere (fun k => { k with array := some { slot := s.curSlot, cd := cd.toNat, ma := ma.toNat, mb := mb.toNat, result := r, since := k.cycle } })).count s.curCore 18)

/-- Registers of MDOT in the order of their fields: ma, mb, then cd, which is read and written (R82). -/
def dotRegs (mb ma : BitVec 3) (cd : BitVec 2) : List (Bool × RFile × Nat) := [(true, .m, ma.toNat), (true, .m, mb.toNat), (true, .c, cd.toNat)]

/-- MDOT (R255). -/
def execMdot (mb ma : BitVec 3) (cd : BitVec 2) (s : State) : Out :=
  issue (tileForm (.mdot mb ma cd) true (dotRegs mb ma cd) [(.c, cd.toNat)]) (dotBody false mb ma cd) s

/-- MDOTS (R257). -/
def execMdots (mb ma : BitVec 3) (cd : BitVec 2) (s : State) : Out :=
  issue (tileForm (.mdots mb ma cd) true (dotRegs mb ma cd) [(.c, cd.toNat)]) (dotBody true mb ma cd) s

/-- The array's last cycle ends: the whole result stands in cd (R258). A slot that waits for it ends then (R259), but for one that
its fenced site keeps HALTED (R353). -/
def execMdotComplete (core : Nat) (s : State) : Out :=
  match (s.core core).array with
  | some a =>
    if a.since + 63 ≤ (s.core core).cycle then
      let s := (s.modSlot core a.slot (fun t => if t.state == .empty then t else t.setCr a.cd ⟨.full, a.result⟩)).modCore core (fun k => { k with array := none })
      .next (if (s.slot core a.slot).doneWait && (s.site (siteOf core)).state != .fenced then s.becomeEmpty core a.slot else s)
    else .next s
  | none => .next s

/-! ## Repeats (R263, R264) -/

/-- RPT (R263). -/
def execRpt (lenm1 : BitVec 3) (rs1 : BitVec 5) (s : State) : Out :=
  issue (tileForm (.rpt lenm1 rs1) false [sx rs1] []) (fun s =>
    let n := (s.xv rs1).toNat % 2 ^ 32
    if n = 0 then .jump s (s.me.pc + 4 + wd (4 * (lenm1.toNat + 1)))
    else .done (s.modMe (fun t => { t with rptstat := wd (n * 2 ^ 32 + 2 ^ 11 + lenm1.toNat) }))) s

end Sys2Proof.Machine
end

