-- ==== Sys2Proof/Machine/Vector.lean ====
section
/-! DEFINITION. Vector instructions and conversions (R225 to R244). -/

namespace Sys2Proof.Machine

/-! ## Element types (R229) -/

/-- Element width of a type field. -/
def tyW (ty : BitVec 3) : Nat := match ty.toNat with | 0 => 32 | 1 => 16 | 2 => 8 | 3 => 32 | 4 => 64 | _ => 2048
/-- Elements of a type field. -/
def tyN (ty : BitVec 3) : Nat := 2048 / tyW ty
/-- Floating class. -/
def tyF (ty : BitVec 3) : Bool := ty.toNat < 2
def tyFmt (ty : BitVec 3) : Fmt := if ty = 0 then fp32 else bf16
/-- Levels of the reduction tree (R243). -/
def tyLevels (ty : BitVec 3) : Nat := Nat.log2 (tyN ty)

/-- Form of a vector instruction. -/
def vecForm (i : Instr) (regs : List (Bool × RFile × Nat)) : Form := { instr := i, roles := onlyV, regs := regs }

def vElems (v : BitVec 2048) (ty : BitVec 3) : List Nat := elemsOf v (tyW ty) (tyN ty)
def vPack (ty : BitVec 3) (l : List Nat) : BitVec 2048 := BitVec.ofNat 2048 (packElems (tyW ty) l)

/-- Writes the elements of a result and ORs in their flags (R231). -/
def putElems (s : State) (rd : BitVec 5) (ty : BitVec 3) (rs : List (Nat × Nat)) : Act :=
  .done ((s.setV rd (vPack ty (rs.map (·.1)))).orFlags (flagsOf rs))

/-- An element-wise operation of two sources. -/
def elem2 (s : State) (ty : BitVec 3) (rs2 rs1 rd : BitVec 5) (op : Nat → Nat → Nat × Nat) : Act :=
  putElems s rd ty (((vElems (s.vv rs1) ty).zip (vElems (s.vv rs2) ty)).map (fun p => op p.1 p.2))

/-- An element-wise operation of one source. -/
def elem1 (s : State) (ty : BitVec 3) (rs1 rd : BitVec 5) (op : Nat → Nat × Nat) : Act :=
  putElems s rd ty ((vElems (s.vv rs1) ty).map op)

/-- The all-ones element of a true compare (R233). -/
def ones (w : Nat) (b : Bool) : Nat := if b then 2 ^ w - 1 else 0

/-- Integer result cut to w bits. -/
def cutI (w : Nat) (i : Int) : Nat := (i % (2 ^ w : Nat)).toNat

/-- VADD, VSUB and VMUL by class (R232, R233). -/
def arith (ty : BitVec 3) (f : Fmt → Nat → Nat → Nat × Nat) (g : Int → Int → Int) (a b : Nat) : Nat × Nat :=
  if tyF ty then f (tyFmt ty) a b else (cutI (tyW ty) (g a b), 0)

/-- VMIN and VMAX (R233, R235). -/
def minmax (ty : BitVec 3) (isMax : Bool) (a b : Nat) : Nat :=
  if tyF ty then fMin (tyFmt ty) isMax a b
  else if (decodeI (tyW ty) a < decodeI (tyW ty) b) != isMax then a else b

/-- Compares (R233, R235): 0 equal, 1 less, 2 less or equal. -/
def compare (ty : BitVec 3) (k a b : Nat) : Nat :=
  ones (tyW ty) (if tyF ty then fCmp (tyFmt ty) k a b
    else match k with
      | 0 => a == b
      | 1 => decodeI (tyW ty) a < decodeI (tyW ty) b
      | _ => decodeI (tyW ty) a ≤ decodeI (tyW ty) b)

/-! ## Element-wise operations (R231 to R235) -/

/-- VADD (R233). -/
def execVadd (rs2 rs1 : BitVec 5) (ty : BitVec 3) (rd : BitVec 5) (s : State) : Out :=
  issue (vecForm (.vadd rs2 rs1 ty rd) [sv rs1, sv rs2, dv rd]) (fun s => elem2 s ty rs2 rs1 rd (arith ty fAdd (· + ·))) s

/-- VSUB (R233). -/
def execVsub (rs2 rs1 : BitVec 5) (ty : BitVec 3) (rd : BitVec 5) (s : State) : Out :=
  issue (vecForm (.vsub rs2 rs1 ty rd) [sv rs1, sv rs2, dv rd]) (fun s => elem2 s ty rs2 rs1 rd (arith ty fSub (· - ·))) s

/-- VMUL (R233). -/
def execVmul (rs2 rs1 : BitVec 5) (ty : BitVec 3) (rd : BitVec 5) (s : State) : Out :=
  issue (vecForm (.vmul rs2 rs1 ty rd) [sv rs1, sv rs2, dv rd]) (fun s => elem2 s ty rs2 rs1 rd (arith ty fMul (· * ·))) s

/-- VMIN (R233). -/
def execVmin (rs2 rs1 : BitVec 5) (ty : BitVec 3) (rd : BitVec 5) (s : State) : Out :=
  issue (vecForm (.vmin rs2 rs1 ty rd) [sv rs1, sv rs2, dv rd]) (fun s => elem2 s ty rs2 rs1 rd (fun a b => (minmax ty false a b, 0))) s

/-- VMAX (R233). -/
def execVmax (rs2 rs1 : BitVec 5) (ty : BitVec 3) (rd : BitVec 5) (s : State) : Out :=
  issue (vecForm (.vmax rs2 rs1 ty rd) [sv rs1, sv rs2, dv rd]) (fun s => elem2 s ty rs2 rs1 rd (fun a b => (minmax ty true a b, 0))) s

/-- VABS (R233). -/
def execVabs (rs1 : BitVec 5) (ty : BitVec 3) (rd : BitVec 5) (s : State) : Out :=
  issue (vecForm (.vabs rs1 ty rd) [sv rs1, dv rd]) (fun s => elem1 s ty rs1 rd (fun a => (if tyF ty then a % 2 ^ (tyW ty - 1) else cutI (tyW ty) (decodeI (tyW ty) a).natAbs, 0))) s

/-- VNEG (R233). -/
def execVneg (rs1 : BitVec 5) (ty : BitVec 3) (rd : BitVec 5) (s : State) : Out :=
  issue (vecForm (.vneg rs1 ty rd) [sv rs1, dv rd]) (fun s => elem1 s ty rs1 rd (fun a => (if tyF ty then a ^^^ 2 ^ (tyW ty - 1) else cutI (tyW ty) (-(decodeI (tyW ty) a)), 0))) s

/-- VCMPEQ (R233). -/
def execVcmpeq (rs2 rs1 : BitVec 5) (ty : BitVec 3) (rd : BitVec 5) (s : State) : Out :=
  issue (vecForm (.vcmpeq rs2 rs1 ty rd) [sv rs1, sv rs2, dv rd]) (fun s => elem2 s ty rs2 rs1 rd (fun a b => (compare ty 0 a b, 0))) s

/-- VCMPLT (R233). -/
def execVcmplt (rs2 rs1 : BitVec 5) (ty : BitVec 3) (rd : BitVec 5) (s : State) : Out :=
  issue (vecForm (.vcmplt rs2 rs1 ty rd) [sv rs1, sv rs2, dv rd]) (fun s => elem2 s ty rs2 rs1 rd (fun a b => (compare ty 1 a b, 0))) s

/-- VCMPLE (R233). -/
def execVcmple (rs2 rs1 : BitVec 5) (ty : BitVec 3) (rd : BitVec 5) (s : State) : Out :=
  issue (vecForm (.vcmple rs2 rs1 ty rd) [sv rs1, sv rs2, dv rd]) (fun s => elem2 s ty rs2 rs1 rd (fun a b => (compare ty 2 a b, 0))) s

/-- VAND (R233). -/
def execVand (rs2 rs1 rd : BitVec 5) (s : State) : Out :=
  issue (vecForm (.vand rs2 rs1 rd) [sv rs1, sv rs2, dv rd]) (fun s => .done (s.setV rd (s.vv rs1 &&& s.vv rs2))) s

/-- VOR (R233). -/
def execVor (rs2 rs1 rd : BitVec 5) (s : State) : Out :=
  issue (vecForm (.vor rs2 rs1 rd) [sv rs1, sv rs2, dv rd]) (fun s => .done (s.setV rd (s.vv rs1 ||| s.vv rs2))) s

/-- VXOR (R233). -/
def execVxor (rs2 rs1 rd : BitVec 5) (s : State) : Out :=
  issue (vecForm (.vxor rs2 rs1 rd) [sv rs1, sv rs2, dv rd]) (fun s => .done (s.setV rd (s.vv rs1 ^^^ s.vv rs2))) s

/-- VNOT (R233). -/
def execVnot (rs1 rd : BitVec 5) (s : State) : Out :=
  issue (vecForm (.vnot rs1 rd) [sv rs1, dv rd]) (fun s => .done (s.setV rd (~~~(s.vv rs1)))) s

/-- VSLL (R233). -/
def execVsll (rs2 rs1 : BitVec 5) (ty : BitVec 3) (rd : BitVec 5) (s : State) : Out :=
  issue (vecForm (.vsll rs2 rs1 ty rd) [sv rs1, sv rs2, dv rd]) (fun s => elem2 s ty rs2 rs1 rd (fun a b => (a <<< (b % tyW ty), 0))) s

/-- VSRL (R233). -/
def execVsrl (rs2 rs1 : BitVec 5) (ty : BitVec 3) (rd : BitVec 5) (s : State) : Out :=
  issue (vecForm (.vsrl rs2 rs1 ty rd) [sv rs1, sv rs2, dv rd]) (fun s => elem2 s ty rs2 rs1 rd (fun a b => (a >>> (b % tyW ty), 0))) s

/-- VSRA (R233). -/
def execVsra (rs2 rs1 : BitVec 5) (ty : BitVec 3) (rd : BitVec 5) (s : State) : Out :=
  issue (vecForm (.vsra rs2 rs1 ty rd) [sv rs1, sv rs2, dv rd]) (fun s => elem2 s ty rs2 rs1 rd (fun a b => (cutI (tyW ty) (decodeI (tyW ty) a >>> (b % tyW ty)), 0))) s

/-- VFMA (R232, R233). -/
def execVfma (rs3 rs2 rs1 : BitVec 5) (ty : BitVec 3) (rd : BitVec 5) (s : State) : Out :=
  issue (vecForm (.vfma rs3 rs2 rs1 ty rd) [sv rs1, sv rs2, sv rs3, dv rd]) (fun s =>
    putElems s rd ty (((vElems (s.vv rs1) ty).zip ((vElems (s.vv rs2) ty).zip (vElems (s.vv rs3) ty))).map (fun p =>
      if tyF ty then fFma (tyFmt ty) p.1 p.2.1 p.2.2 else ((p.1 * p.2.1 + p.2.2) % 2 ^ tyW ty, 0)))) s

/-- VSEL (R233): by the top bit of each mask element, or bit by bit in the B class. -/
def execVsel (rs3 rs2 rs1 : BitVec 5) (ty : BitVec 3) (rd : BitVec 5) (s : State) : Out :=
  issue (vecForm (.vsel rs3 rs2 rs1 ty rd) [sv rs1, sv rs2, sv rs3, dv rd]) (fun s =>
    if ty = 5 then .done (s.setV rd ((s.vv rs1 &&& s.vv rs3) ||| (s.vv rs2 &&& ~~~(s.vv rs3))))
    else putElems s rd ty (((vElems (s.vv rs1) ty).zip ((vElems (s.vv rs2) ty).zip (vElems (s.vv rs3) ty))).map (fun p =>
      (if p.2.2.testBit (tyW ty - 1) then p.1 else p.2.1, 0)))) s

/-! ## Long operations (R241 to R243) -/

/-- The vector stage is busy, or an operation waits for it (R241). -/
def Core.stageBusy (k : Core) : Bool :=
  k.vecs.any (fun v => match v.entered with | some e => k.cycle < e + v.holdFor | none => true)

/-- A vector long operation (R241). -/
def longOp (f : RFile) (rd : BitVec 5) (result : BitVec 2048) (holdFor fillAfter : Nat) (s : State) : Act :=
  withClaim s f rd.toNat 3 false fun s c =>
    .done (s.modHere (fun k =>
      let v : VecOp := { claim := c, result := result, holdFor := holdFor, fillAfter := fillAfter, entered := if k.stageBusy then none else some k.cycle }
      { k with vecs := k.vecs ++ [v] }))

/-- VEXP2 (R242). -/
def execVexp2 (rs1 : BitVec 5) (ty : BitVec 3) (rd : BitVec 5) (s : State) : Out :=
  issue (vecForm (.vexp2 rs1 ty rd) [sv rs1, dv rd])
    (fun s => longOp .v rd (vPack ty ((vElems (s.vv rs1) ty).map (fExp2 (tyFmt ty)))) 64 80 s) s

/-- VLOG2 (R242). -/
def execVlog2 (rs1 : BitVec 5) (ty : BitVec 3) (rd : BitVec 5) (s : State) : Out :=
  issue (vecForm (.vlog2 rs1 ty rd) [sv rs1, dv rd])
    (fun s => longOp .v rd (vPack ty ((vElems (s.vv rs1) ty).map (fLog2 (tyFmt ty)))) 64 80 s) s

/-- VRCP (R242). -/
def execVrcp (rs1 : BitVec 5) (ty : BitVec 3) (rd : BitVec 5) (s : State) : Out :=
  issue (vecForm (.vrcp rs1 ty rd) [sv rs1, dv rd])
    (fun s => longOp .v rd (vPack ty ((vElems (s.vv rs1) ty).map (fRcp (tyFmt ty)))) 64 80 s) s

/-- VRSQ (R242). -/
def execVrsq (rs1 : BitVec 5) (ty : BitVec 3) (rd : BitVec 5) (s : State) : Out :=
  issue (vecForm (.vrsq rs1 ty rd) [sv rs1, dv rd])
    (fun s => longOp .v rd (vPack ty ((vElems (s.vv rs1) ty).map (fRsq (tyFmt ty)))) 64 80 s) s

/-- The value a reduction delivers (R243): of the F class zero-extended, of the I class from the exact integer. -/
def reduce (ty : BitVec 3) (fop : Nat → Nat → Nat) (iop : Int → Int → Int) (v : BitVec 2048) : Word :=
  if tyF ty then wd ((treeFold fop (tyLevels ty) (vElems v ty)).headD 0)
  else BitVec.ofInt 64 ((treeFold iop (tyLevels ty) ((vElems v ty).map (decodeI (tyW ty)))).headD 0)

/-- VREDSUM (R243). -/
def execVredsum (rs1 : BitVec 5) (ty : BitVec 3) (rd : BitVec 5) (s : State) : Out :=
  issue (vecForm (.vredsum rs1 ty rd) [sv rs1, dx rd])
    (fun s => longOp .x rd ((reduce ty (fun a b => (fAdd (tyFmt ty) a b).1) (· + ·) (s.vv rs1)).setWidth 2048) 32 40 s) s

/-- VREDMAX (R243). -/
def execVredmax (rs1 : BitVec 5) (ty : BitVec 3) (rd : BitVec 5) (s : State) : Out :=
  issue (vecForm (.vredmax rs1 ty rd) [sv rs1, dx rd])
    (fun s => longOp .x rd ((reduce ty (fMin (tyFmt ty) true) max (s.vv rs1)).setWidth 2048) 32 40 s) s

/-- VREDMIN (R243). -/
def execVredmin (rs1 : BitVec 5) (ty : BitVec 3) (rd : BitVec 5) (s : State) : Out :=
  issue (vecForm (.vredmin rs1 ty rd) [sv rs1, dx rd])
    (fun s => longOp .x rd ((reduce ty (fMin (tyFmt ty) false) min (s.vv rs1)).setWidth 2048) 32 40 s) s

/-- The cycle in which the vector stage frees for the operation that waits first (R241). -/
def Core.stageFrees (k : Core) : Nat := (k.vecs.filterMap (fun v => v.entered.map (· + v.holdFor))).foldl max 0

/-- Lets the first waiting operation enter. -/
def enterFirst (at_ : Nat) : List VecOp → List VecOp
  | [] => []
  | v :: t => if v.entered.isNone then { v with entered := some at_ } :: t else v :: enterFirst at_ t

/-- A waiting vector long operation enters the stage in the cycle it frees (R241). -/
def execVectorStageEnter (core : Nat) (s : State) : Out :=
  let k := s.core core
  if k.vecs.any (fun v => v.entered.isNone) && k.stageFrees ≤ k.cycle then .next (s.modCore core (fun k => { k with vecs := enterFirst k.stageFrees k.vecs })) else .next s

/-- The oldest vector long operation whose time has come fills its claim (R241). -/
def execVectorLongComplete (core : Nat) (s : State) : Out :=
  let k := s.core core
  match k.vecs with
  | v :: rest =>
    match v.entered with
    | some e =>
      if e + v.fillAfter ≤ k.cycle then .next ((s.modCore core (fun k => { k with vecs := rest })).deliverAt core v.claim k.cycle (.value v.result)) else .next s
    | none => .next s
  | [] => .next s

/-! ## Transfers (R236 to R239) -/

/-- A unit of a transfer: its address, bytes and lowest register bit. -/
structure VUnit where
  addr : Word
  len : Nat
  bit : Nat
  deriving DecidableEq, Repr

/-- Checks of R237 over the units, then the transfer (R238). -/
def vecAccess (s : State) (write : Bool) (us : List VUnit) (kind : TransferKind) : Act :=
  match us.find? (fun u => lsTop < u.addr.toNat + u.len) with
  | some u => .trap s (if write then 7 else 5) u.addr
  | none =>
    match us.find? (fun u => u.addr.toNat % u.len != 0) with
    | some u => .trap s (if write then 6 else 4) u.addr
    | none =>
      let addrs := us.flatMap (fun u => span u.addr.toNat u.len)
      match localAccess s write addrs (.done s) with
      | .done _ => if s.transferBusy then .hold s else .done (s.startTransfer kind addrs)
      | x => x

/-- A load of units into vd. -/
def vecLoad (s : State) (vd : BitVec 5) (us : List VUnit) : Act :=
  vecAccess s false us (.vload vd.toNat (us.flatMap (fun u => (List.range u.len).map (fun i => (u.bit + 8 * i, u.addr.toNat + i)))))

/-- A store of units of vs, in ascending order (R239). -/
def vecStore (s : State) (vs : BitVec 5) (us : List VUnit) : Act :=
  vecAccess s true us (.vstore (us.flatMap (fun u => placeAt u.addr.toNat (bytesOf u.len (fieldOf (s.vv vs).toNat u.bit (8 * u.len))))))

/-- Units of VLD, VST, VLDS and VSTS: 32 of 8 bytes. -/
def strideUnits (base stride : Word) : List VUnit := (List.range 32).map (fun j => { addr := base + wd j * stride, len := 8, bit := 64 * j })

/-- Units of VGATH and VSCAT. -/
def indexUnits (ty : BitVec 3) (base : Word) (ix : BitVec 2048) : List VUnit :=
  (List.range (min 64 (tyN ty))).map (fun j => { addr := base + wd (elemOf ix 32 j), len := tyW ty / 8, bit := tyW ty * j })

/-- VLD (R236). -/
def execVld (rs1 rd : BitVec 5) (s : State) : Out :=
  issue (vecForm (.vld rs1 rd) [sx rs1, dv rd]) (fun s => vecLoad s rd (strideUnits (s.xv rs1) 8)) s

/-- VST (R236): rd names the source. -/
def execVst (rs1 rd : BitVec 5) (s : State) : Out :=
  issue (vecForm (.vst rs1 rd) [sx rs1, sv rd]) (fun s => vecStore s rd (strideUnits (s.xv rs1) 8)) s

/-- VLDS (R236). -/
def execVlds (rs2 rs1 rd : BitVec 5) (s : State) : Out :=
  issue (vecForm (.vlds rs2 rs1 rd) [sx rs1, sx rs2, dv rd]) (fun s => vecLoad s rd (strideUnits (s.xv rs1) (s.xv rs2))) s

/-- VSTS (R236). -/
def execVsts (rs2 rs1 rd : BitVec 5) (s : State) : Out :=
  issue (vecForm (.vsts rs2 rs1 rd) [sx rs1, sx rs2, sv rd]) (fun s => vecStore s rd (strideUnits (s.xv rs1) (s.xv rs2))) s

/-- VGATH (R236). -/
def execVgath (rs2 rs1 : BitVec 5) (ty : BitVec 3) (rd : BitVec 5) (s : State) : Out :=
  issue (vecForm (.vgath rs2 rs1 ty rd) [sx rs1, sv rs2, dv rd]) (fun s => vecLoad s rd (indexUnits ty (s.xv rs1) (s.vv rs2))) s

/-- VSCAT (R236). -/
def execVscat (rs2 rs1 : BitVec 5) (ty : BitVec 3) (rd : BitVec 5) (s : State) : Out :=
  issue (vecForm (.vscat rs2 rs1 ty rd) [sx rs1, sv rs2, sv rd]) (fun s => vecStore s rd (indexUnits ty (s.xv rs1) (s.vv rs2))) s

/-! ## Permutes, slides and moves (R240) -/

/-- VPERM (R240). -/
def execVperm (rs2 rs1 : BitVec 5) (ty : BitVec 3) (rd : BitVec 5) (s : State) : Out :=
  issue (vecForm (.vperm rs2 rs1 ty rd) [sv rs1, sv rs2, dv rd]) (fun s =>
    let a := s.vv rs1
    .done (s.setV rd (vPack ty ((vElems (s.vv rs2) ty).map (fun b => elemOf a (tyW ty) (b % tyN ty)))))) s

/-- VBCAST (R240). -/
def execVbcast (rs2 rs1 : BitVec 5) (ty : BitVec 3) (rd : BitVec 5) (s : State) : Out :=
  issue (vecForm (.vbcast rs2 rs1 ty rd) [sv rs1, sx rs2, dv rd]) (fun s =>
    let e := elemOf (s.vv rs1) (tyW ty) ((s.xv rs2).toNat % tyN ty)
    .done (s.setV rd (vPack ty (List.replicate (tyN ty) e)))) s

/-- VSLUP (R240). -/
def execVslup (rs2 rs1 : BitVec 5) (ty : BitVec 3) (rd : BitVec 5) (s : State) : Out :=
  issue (vecForm (.vslup rs2 rs1 ty rd) [sv rs1, sx rs2, dv rd]) (fun s =>
    let k := (s.xv rs2).toNat
    .done (s.setV rd (vPack ty ((List.range (tyN ty)).map (fun j => if k ≤ j then elemOf (s.vv rs1) (tyW ty) (j - k) else 0))))) s

/-- VSLDN (R240). -/
def execVsldn (rs2 rs1 : BitVec 5) (ty : BitVec 3) (rd : BitVec 5) (s : State) : Out :=
  issue (vecForm (.vsldn rs2 rs1 ty rd) [sv rs1, sx rs2, dv rd]) (fun s =>
    let k := (s.xv rs2).toNat
    .done (s.setV rd (vPack ty ((List.range (tyN ty)).map (fun j => if j + k < tyN ty then elemOf (s.vv rs1) (tyW ty) (j + k) else 0))))) s

/-- VSPLAT (R240). -/
def execVsplat (rs1 : BitVec 5) (ty : BitVec 3) (rd : BitVec 5) (s : State) : Out :=
  issue (vecForm (.vsplat rs1 ty rd) [sx rs1, dv rd]) (fun s => .done (s.setV rd (vPack ty (List.replicate (tyN ty) (s.xv rs1).toNat)))) s

/-- VINS (R240): vd is read and written. -/
def execVins (rs2 rs1 : BitVec 5) (ty : BitVec 3) (rd : BitVec 5) (s : State) : Out :=
  issue (vecForm (.vins rs2 rs1 ty rd) [sx rs1, sx rs2, sv rd]) (fun s =>
    let k := (s.xv rs2).toNat % tyN ty
    .done (s.setV rd (vPack ty ((vElems (s.vv rd) ty).set k (s.xv rs1).toNat)))) s

/-- VEXT (R240). -/
def execVext (rs2 rs1 : BitVec 5) (ty : BitVec 3) (rd : BitVec 5) (s : State) : Out :=
  issue (vecForm (.vext rs2 rs1 ty rd) [sv rs1, sx rs2, dx rd]) (fun s =>
    let e := elemOf (s.vv rs1) (tyW ty) ((s.xv rs2).toNat % tyN ty)
    .done (s.setX rd (if tyF ty then wd e else BitVec.ofInt 64 (decodeI (tyW ty) e)))) s

/-! ## Conversions (R225 to R228) -/

/-- VCVT (R226). -/
def execVcvt (src : BitVec 4) (rm : BitVec 3) (sat : BitVec 1) (dst : BitVec 4) (vs1 vd : BitVec 5) (s : State) : Out :=
  issue (vecForm (.vcvt src rm sat dst vs1 vd) [sv vs1, dv vd]) (fun s =>
    let ws := fmtWidth src.toNat
    let wd' := fmtWidth dst.toNat
    let n := min 64 (2048 / max ws wd')
    let mode := rmOf rm.toNat
    let rs := ((elemsOf (s.vv vs1) ws n).zipIdx).map (fun p => convert src.toNat dst.toNat p.1 mode (sat == 1#1) (s.draw p.2))
    let s := s.setV vd (BitVec.ofNat 2048 (packElems wd' (rs.map (·.1))))
    .done ((s.orFlags (flagsOf rs)).useDraw mode)) s

/-- VQMX (R227). -/
def execVqmx (rm : BitVec 3) (fmt : BitVec 4) (vs1 vd : BitVec 5) (s : State) : Out :=
  issue (vecForm (.vqmx rm fmt vs1 vd) [sv vs1, dv vd]) (fun s =>
    let mode := rmOf rm.toNat
    let xs := elemsOf (s.vv vs1) 32 64
    let b0 := quantise fmt.toNat (xs.take 32) mode (fun i => s.draw i)
    let b1 := quantise fmt.toNat (xs.drop 32) mode (fun i => s.draw (32 + i))
    let v := packElems (fmtWidth fmt.toNat) (b0.2.1 ++ b1.2.1) + b0.1 * 2 ^ 2032 + b1.1 * 2 ^ 2040
    let s := s.setV vd (BitVec.ofNat 2048 v)
    .done ((s.orFlags (b0.2.2 ||| b1.2.2)).useDraw mode)) s

/-- VDQMX (R228). -/
def execVdqmx (fmt : BitVec 4) (vs1 vd : BitVec 5) (s : State) : Out :=
  issue (vecForm (.vdqmx fmt vs1 vd) [sv vs1, dv vd]) (fun s =>
    let v := s.vv vs1
    let rs := (elemsOf v (fmtWidth fmt.toNat) 64).zipIdx.map (fun p => dequant fmt.toNat (elemOf v 8 (254 + p.2 / 32)) p.1)
    .done ((s.setV vd (BitVec.ofNat 2048 (packElems 32 (rs.map (·.1))))).orFlags (flagsOf rs))) s

end Sys2Proof.Machine
end

