-- ==== Sys2Proof/Machine/Dispatch.lean ====
section
/-! DEFINITION. What each row of the table of operations and events does: one arm, one meaning. -/

namespace Sys2Proof.Machine

def exec (i : Instr) (s : State) : Host.Outcome State Fault Refusal :=
  match i with
  | .lui imm rd => Sys2Proof.Machine.execLui imm rd s
  | .auipc imm rd => Sys2Proof.Machine.execAuipc imm rd s
  | .jal imm rd => Sys2Proof.Machine.execJal imm rd s
  | .jalr imm rs1 rd => Sys2Proof.Machine.execJalr imm rs1 rd s
  | .beq immHi rs2 rs1 immLo => Sys2Proof.Machine.execBeq immHi rs2 rs1 immLo s
  | .bne immHi rs2 rs1 immLo => Sys2Proof.Machine.execBne immHi rs2 rs1 immLo s
  | .blt immHi rs2 rs1 immLo => Sys2Proof.Machine.execBlt immHi rs2 rs1 immLo s
  | .bge immHi rs2 rs1 immLo => Sys2Proof.Machine.execBge immHi rs2 rs1 immLo s
  | .bltu immHi rs2 rs1 immLo => Sys2Proof.Machine.execBltu immHi rs2 rs1 immLo s
  | .bgeu immHi rs2 rs1 immLo => Sys2Proof.Machine.execBgeu immHi rs2 rs1 immLo s
  | .lb imm rs1 rd => Sys2Proof.Machine.execLb imm rs1 rd s
  | .lh imm rs1 rd => Sys2Proof.Machine.execLh imm rs1 rd s
  | .lw imm rs1 rd => Sys2Proof.Machine.execLw imm rs1 rd s
  | .ld imm rs1 rd => Sys2Proof.Machine.execLd imm rs1 rd s
  | .lbu imm rs1 rd => Sys2Proof.Machine.execLbu imm rs1 rd s
  | .lhu imm rs1 rd => Sys2Proof.Machine.execLhu imm rs1 rd s
  | .lwu imm rs1 rd => Sys2Proof.Machine.execLwu imm rs1 rd s
  | .sb immHi rs2 rs1 immLo => Sys2Proof.Machine.execSb immHi rs2 rs1 immLo s
  | .sh immHi rs2 rs1 immLo => Sys2Proof.Machine.execSh immHi rs2 rs1 immLo s
  | .sw immHi rs2 rs1 immLo => Sys2Proof.Machine.execSw immHi rs2 rs1 immLo s
  | .sd immHi rs2 rs1 immLo => Sys2Proof.Machine.execSd immHi rs2 rs1 immLo s
  | .addi imm rs1 rd => Sys2Proof.Machine.execAddi imm rs1 rd s
  | .slti imm rs1 rd => Sys2Proof.Machine.execSlti imm rs1 rd s
  | .sltiu imm rs1 rd => Sys2Proof.Machine.execSltiu imm rs1 rd s
  | .xori imm rs1 rd => Sys2Proof.Machine.execXori imm rs1 rd s
  | .ori imm rs1 rd => Sys2Proof.Machine.execOri imm rs1 rd s
  | .andi imm rs1 rd => Sys2Proof.Machine.execAndi imm rs1 rd s
  | .slli shamt rs1 rd => Sys2Proof.Machine.execSlli shamt rs1 rd s
  | .srli shamt rs1 rd => Sys2Proof.Machine.execSrli shamt rs1 rd s
  | .srai shamt rs1 rd => Sys2Proof.Machine.execSrai shamt rs1 rd s
  | .addiw imm rs1 rd => Sys2Proof.Machine.execAddiw imm rs1 rd s
  | .slliw shamt rs1 rd => Sys2Proof.Machine.execSlliw shamt rs1 rd s
  | .srliw shamt rs1 rd => Sys2Proof.Machine.execSrliw shamt rs1 rd s
  | .sraiw shamt rs1 rd => Sys2Proof.Machine.execSraiw shamt rs1 rd s
  | .add rs2 rs1 rd => Sys2Proof.Machine.execAdd rs2 rs1 rd s
  | .sub rs2 rs1 rd => Sys2Proof.Machine.execSub rs2 rs1 rd s
  | .sll rs2 rs1 rd => Sys2Proof.Machine.execSll rs2 rs1 rd s
  | .slt rs2 rs1 rd => Sys2Proof.Machine.execSlt rs2 rs1 rd s
  | .sltu rs2 rs1 rd => Sys2Proof.Machine.execSltu rs2 rs1 rd s
  | .xor rs2 rs1 rd => Sys2Proof.Machine.execXor rs2 rs1 rd s
  | .srl rs2 rs1 rd => Sys2Proof.Machine.execSrl rs2 rs1 rd s
  | .sra rs2 rs1 rd => Sys2Proof.Machine.execSra rs2 rs1 rd s
  | .or rs2 rs1 rd => Sys2Proof.Machine.execOr rs2 rs1 rd s
  | .and rs2 rs1 rd => Sys2Proof.Machine.execAnd rs2 rs1 rd s
  | .addw rs2 rs1 rd => Sys2Proof.Machine.execAddw rs2 rs1 rd s
  | .subw rs2 rs1 rd => Sys2Proof.Machine.execSubw rs2 rs1 rd s
  | .sllw rs2 rs1 rd => Sys2Proof.Machine.execSllw rs2 rs1 rd s
  | .srlw rs2 rs1 rd => Sys2Proof.Machine.execSrlw rs2 rs1 rd s
  | .sraw rs2 rs1 rd => Sys2Proof.Machine.execSraw rs2 rs1 rd s
  | .mul rs2 rs1 rd => Sys2Proof.Machine.execMul rs2 rs1 rd s
  | .mulh rs2 rs1 rd => Sys2Proof.Machine.execMulh rs2 rs1 rd s
  | .mulhsu rs2 rs1 rd => Sys2Proof.Machine.execMulhsu rs2 rs1 rd s
  | .mulhu rs2 rs1 rd => Sys2Proof.Machine.execMulhu rs2 rs1 rd s
  | .mulw rs2 rs1 rd => Sys2Proof.Machine.execMulw rs2 rs1 rd s
  | .div rs2 rs1 rd => Sys2Proof.Machine.execDiv rs2 rs1 rd s
  | .divu rs2 rs1 rd => Sys2Proof.Machine.execDivu rs2 rs1 rd s
  | .rem rs2 rs1 rd => Sys2Proof.Machine.execRem rs2 rs1 rd s
  | .remu rs2 rs1 rd => Sys2Proof.Machine.execRemu rs2 rs1 rd s
  | .divw rs2 rs1 rd => Sys2Proof.Machine.execDivw rs2 rs1 rd s
  | .divuw rs2 rs1 rd => Sys2Proof.Machine.execDivuw rs2 rs1 rd s
  | .remw rs2 rs1 rd => Sys2Proof.Machine.execRemw rs2 rs1 rd s
  | .remuw rs2 rs1 rd => Sys2Proof.Machine.execRemuw rs2 rs1 rd s
  | .fence fm pred succ => Sys2Proof.Machine.execFence fm pred succ s
  | .ecall => Sys2Proof.Machine.execEcall s
  | .ebreak => Sys2Proof.Machine.execEbreak s
  | .csrrw csr rs1 rd => Sys2Proof.Machine.execCsrrw csr rs1 rd s
  | .csrrs csr rs1 rd => Sys2Proof.Machine.execCsrrs csr rs1 rd s
  | .csrrc csr rs1 rd => Sys2Proof.Machine.execCsrrc csr rs1 rd s
  | .csrrwi csr uimm rd => Sys2Proof.Machine.execCsrrwi csr uimm rd s
  | .csrrsi csr uimm rd => Sys2Proof.Machine.execCsrrsi csr uimm rd s
  | .csrrci csr uimm rd => Sys2Proof.Machine.execCsrrci csr uimm rd s
  | .lr aq rl rs1 dbl rd => Sys2Proof.Machine.execLr aq rl rs1 dbl rd s
  | .sc aq rl rs2 rs1 dbl rd => Sys2Proof.Machine.execSc aq rl rs2 rs1 dbl rd s
  | .amoswap aq rl rs2 rs1 dbl rd => Sys2Proof.Machine.execAmoswap aq rl rs2 rs1 dbl rd s
  | .amoadd aq rl rs2 rs1 dbl rd => Sys2Proof.Machine.execAmoadd aq rl rs2 rs1 dbl rd s
  | .amoxor aq rl rs2 rs1 dbl rd => Sys2Proof.Machine.execAmoxor aq rl rs2 rs1 dbl rd s
  | .amoand aq rl rs2 rs1 dbl rd => Sys2Proof.Machine.execAmoand aq rl rs2 rs1 dbl rd s
  | .amoor aq rl rs2 rs1 dbl rd => Sys2Proof.Machine.execAmoor aq rl rs2 rs1 dbl rd s
  | .amomin aq rl rs2 rs1 dbl rd => Sys2Proof.Machine.execAmomin aq rl rs2 rs1 dbl rd s
  | .amomax aq rl rs2 rs1 dbl rd => Sys2Proof.Machine.execAmomax aq rl rs2 rs1 dbl rd s
  | .amominu aq rl rs2 rs1 dbl rd => Sys2Proof.Machine.execAmominu aq rl rs2 rs1 dbl rd s
  | .amomaxu aq rl rs2 rs1 dbl rd => Sys2Proof.Machine.execAmomaxu aq rl rs2 rs1 dbl rd s
  | .fstat file reg rd => Sys2Proof.Machine.execFstat file reg rd s
  | .mvf file reg rd => Sys2Proof.Machine.execMvf file reg rd s
  | .fwait file reg => Sys2Proof.Machine.execFwait file reg s
  | .waitany rs1 rd => Sys2Proof.Machine.execWaitany rs1 rd s
  | .fdrop file reg => Sys2Proof.Machine.execFdrop file reg s
  | .fpoison file rs1 reg => Sys2Proof.Machine.execFpoison file rs1 reg s
  | .lacq scope rs1 rd => Sys2Proof.Machine.execLacq scope rs1 rd s
  | .lacqw scope rs1 rd => Sys2Proof.Machine.execLacqw scope rs1 rd s
  | .srel scope rs2 rs1 => Sys2Proof.Machine.execSrel scope rs2 rs1 s
  | .srelw scope rs2 rs1 => Sys2Proof.Machine.execSrelw scope rs2 rs1 s
  | .fences scope succ pred => Sys2Proof.Machine.execFences scope succ pred s
  | .owne rs1 => Sys2Proof.Machine.execOwne rs1 s
  | .ownt rs1 => Sys2Proof.Machine.execOwnt rs1 s
  | .ownq rs1 rd => Sys2Proof.Machine.execOwnq rs1 rd s
  | .binit barHi rs1 bar => Sys2Proof.Machine.execBinit barHi rs1 bar s
  | .barv barHi bar => Sys2Proof.Machine.execBarv barHi bar s
  | .bexp barHi rs1 bar => Sys2Proof.Machine.execBexp barHi rs1 bar s
  | .bwait barHi rd phase bar => Sys2Proof.Machine.execBwait barHi rd phase bar s
  | .bquery barHi rd bar => Sys2Proof.Machine.execBquery barHi rd bar s
  | .qpush rs2 q => Sys2Proof.Machine.execQpush rs2 q s
  | .qpop q rd => Sys2Proof.Machine.execQpop q rd s
  | .qlen q rd => Sys2Proof.Machine.execQlen q rd s
  | .block rs1 => Sys2Proof.Machine.execBlock rs1 s
  | .bunlock rs1 => Sys2Proof.Machine.execBunlock rs1 s
  | .mldAddr rs1 md => Sys2Proof.Machine.execMldAddr rs1 md s
  | .mldStream as md => Sys2Proof.Machine.execMldStream as md s
  | .mstAddr rm sat fmt rs1 cs => Sys2Proof.Machine.execMstAddr rm sat fmt rs1 cs s
  | .mstStream rm sat fmt as cs => Sys2Proof.Machine.execMstStream rm sat fmt as cs s
  | .mzero cd => Sys2Proof.Machine.execMzero cd s
  | .mmovv rm cs md => Sys2Proof.Machine.execMmovv rm cs md s
  | .mdot mb ma cd => Sys2Proof.Machine.execMdot mb ma cd s
  | .mdots mb ma cd => Sys2Proof.Machine.execMdots mb ma cd s
  | .asset field rs1 as => Sys2Proof.Machine.execAsset field rs1 as s
  | .rpt lenm1 rs1 => Sys2Proof.Machine.execRpt lenm1 rs1 s
  | .cpw ch idx rs1 => Sys2Proof.Machine.execCpw ch idx rs1 s
  | .cpr ch idx rd => Sys2Proof.Machine.execCpr ch idx rd s
  | .cpgo ch rd => Sys2Proof.Machine.execCpgo ch rd s
  | .cpcancel ch => Sys2Proof.Machine.execCpcancel ch s
  | .mcfree rs1 => Sys2Proof.Machine.execMcfree rs1 s
  | .tdisc scope rs1 rd => Sys2Proof.Machine.execTdisc scope rs1 rd s
  | .lpin rs2 rs1 => Sys2Proof.Machine.execLpin rs2 rs1 s
  | .lunpin rs2 rs1 => Sys2Proof.Machine.execLunpin rs2 rs1 s
  | .rprobe rs1 rd => Sys2Proof.Machine.execRprobe rs1 rd s
  | .rloadt rs1 rd => Sys2Proof.Machine.execRloadt rs1 rd s
  | .rsplit rs2 rs1 rd => Sys2Proof.Machine.execRsplit rs2 rs1 rd s
  | .rmerge rs1 rd => Sys2Proof.Machine.execRmerge rs1 rd s
  | .rsetres rs2 rs1 => Sys2Proof.Machine.execRsetres rs2 rs1 s
  | .rclrres rs2 rs1 => Sys2Proof.Machine.execRclrres rs2 rs1 s
  | .rinv scope rs2 rs1 rd => Sys2Proof.Machine.execRinv scope rs2 rs1 rd s
  | .rglean rs2 rs1 rd => Sys2Proof.Machine.execRglean rs2 rs1 rd s
  | .vadd rs2 rs1 ty rd => Sys2Proof.Machine.execVadd rs2 rs1 ty rd s
  | .vsub rs2 rs1 ty rd => Sys2Proof.Machine.execVsub rs2 rs1 ty rd s
  | .vmul rs2 rs1 ty rd => Sys2Proof.Machine.execVmul rs2 rs1 ty rd s
  | .vmin rs2 rs1 ty rd => Sys2Proof.Machine.execVmin rs2 rs1 ty rd s
  | .vmax rs2 rs1 ty rd => Sys2Proof.Machine.execVmax rs2 rs1 ty rd s
  | .vabs rs1 ty rd => Sys2Proof.Machine.execVabs rs1 ty rd s
  | .vneg rs1 ty rd => Sys2Proof.Machine.execVneg rs1 ty rd s
  | .vcmpeq rs2 rs1 ty rd => Sys2Proof.Machine.execVcmpeq rs2 rs1 ty rd s
  | .vcmplt rs2 rs1 ty rd => Sys2Proof.Machine.execVcmplt rs2 rs1 ty rd s
  | .vcmple rs2 rs1 ty rd => Sys2Proof.Machine.execVcmple rs2 rs1 ty rd s
  | .vand rs2 rs1 rd => Sys2Proof.Machine.execVand rs2 rs1 rd s
  | .vor rs2 rs1 rd => Sys2Proof.Machine.execVor rs2 rs1 rd s
  | .vxor rs2 rs1 rd => Sys2Proof.Machine.execVxor rs2 rs1 rd s
  | .vnot rs1 rd => Sys2Proof.Machine.execVnot rs1 rd s
  | .vsll rs2 rs1 ty rd => Sys2Proof.Machine.execVsll rs2 rs1 ty rd s
  | .vsrl rs2 rs1 ty rd => Sys2Proof.Machine.execVsrl rs2 rs1 ty rd s
  | .vsra rs2 rs1 ty rd => Sys2Proof.Machine.execVsra rs2 rs1 ty rd s
  | .vexp2 rs1 ty rd => Sys2Proof.Machine.execVexp2 rs1 ty rd s
  | .vlog2 rs1 ty rd => Sys2Proof.Machine.execVlog2 rs1 ty rd s
  | .vrcp rs1 ty rd => Sys2Proof.Machine.execVrcp rs1 ty rd s
  | .vrsq rs1 ty rd => Sys2Proof.Machine.execVrsq rs1 ty rd s
  | .vredsum rs1 ty rd => Sys2Proof.Machine.execVredsum rs1 ty rd s
  | .vredmax rs1 ty rd => Sys2Proof.Machine.execVredmax rs1 ty rd s
  | .vredmin rs1 ty rd => Sys2Proof.Machine.execVredmin rs1 ty rd s
  | .vld rs1 rd => Sys2Proof.Machine.execVld rs1 rd s
  | .vst rs1 rd => Sys2Proof.Machine.execVst rs1 rd s
  | .vlds rs2 rs1 rd => Sys2Proof.Machine.execVlds rs2 rs1 rd s
  | .vsts rs2 rs1 rd => Sys2Proof.Machine.execVsts rs2 rs1 rd s
  | .vgath rs2 rs1 ty rd => Sys2Proof.Machine.execVgath rs2 rs1 ty rd s
  | .vscat rs2 rs1 ty rd => Sys2Proof.Machine.execVscat rs2 rs1 ty rd s
  | .vperm rs2 rs1 ty rd => Sys2Proof.Machine.execVperm rs2 rs1 ty rd s
  | .vbcast rs2 rs1 ty rd => Sys2Proof.Machine.execVbcast rs2 rs1 ty rd s
  | .vslup rs2 rs1 ty rd => Sys2Proof.Machine.execVslup rs2 rs1 ty rd s
  | .vsldn rs2 rs1 ty rd => Sys2Proof.Machine.execVsldn rs2 rs1 ty rd s
  | .vsplat rs1 ty rd => Sys2Proof.Machine.execVsplat rs1 ty rd s
  | .vins rs2 rs1 ty rd => Sys2Proof.Machine.execVins rs2 rs1 ty rd s
  | .vext rs2 rs1 ty rd => Sys2Proof.Machine.execVext rs2 rs1 ty rd s
  | .vfma rs3 rs2 rs1 ty rd => Sys2Proof.Machine.execVfma rs3 rs2 rs1 ty rd s
  | .vsel rs3 rs2 rs1 ty rd => Sys2Proof.Machine.execVsel rs3 rs2 rs1 ty rd s
  | .vcvt src rm sat dst vs1 vd => Sys2Proof.Machine.execVcvt src rm sat dst vs1 vd s
  | .vqmx rm fmt vs1 vd => Sys2Proof.Machine.execVqmx rm fmt vs1 vd s
  | .vdqmx fmt vs1 vd => Sys2Proof.Machine.execVdqmx fmt vs1 vd s
  | .spawn rs1 rd => Sys2Proof.Machine.execSpawn rs1 rd s
  | .done => Sys2Proof.Machine.execDone s
  | .yield => Sys2Proof.Machine.execYield s
  | .send rs2 rs1 rd => Sys2Proof.Machine.execSend rs2 rs1 rd s
  | .sendt rs2 rs1 rd => Sys2Proof.Machine.execSendt rs2 rs1 rd s
  | .recvf rd => Sys2Proof.Machine.execRecvf rd s
  | .timerf rs1 rd => Sys2Proof.Machine.execTimerf rs1 rd s
  | .specb => Sys2Proof.Machine.execSpecb s
  | .specc => Sys2Proof.Machine.execSpecc s
  | .speca => Sys2Proof.Machine.execSpeca s
  | .bget nHi nLo rd => Sys2Proof.Machine.execBget nHi nLo rd s
  | .bpeek nHi nLo rd => Sys2Proof.Machine.execBpeek nHi nLo rd s
  | .bskip nHi nLo => Sys2Proof.Machine.execBskip nHi nLo s
  | .bsopen order rs2 rs1 => Sys2Proof.Machine.execBsopen order rs2 rs1 s
  | .balign => Sys2Proof.Machine.execBalign s
  | .blzc rs2 rs1 rd => Sys2Proof.Machine.execBlzc rs2 rs1 rd s
  | .tresume rs1 => Sys2Proof.Machine.execTresume rs1 s
  | .tkill rs1 => Sys2Proof.Machine.execTkill rs1 s
  | .swapctx rs2 rs1 rd => Sys2Proof.Machine.execSwapctx rs2 rs1 rd s
  | .loadctx rs2 rs1 rd => Sys2Proof.Machine.execLoadctx rs2 rs1 rd s
  | .hdone => Sys2Proof.Machine.execHdone s
  | .rtrd rs1 rd => Sys2Proof.Machine.execRtrd rs1 rd s
  | .rtwr rs2 rs1 => Sys2Proof.Machine.execRtwr rs2 rs1 s
  | .parkLimit core slot => Sys2Proof.Machine.execParkLimit core slot s
  | .icacheFill fid => Sys2Proof.Machine.execIcacheFill fid s
  | .claimDelivery core claim => Sys2Proof.Machine.execClaimDelivery core claim s
  | .divideComplete core op => Sys2Proof.Machine.execDivideComplete core op s
  | .vectorStageEnter core => Sys2Proof.Machine.execVectorStageEnter core s
  | .vectorLongComplete core => Sys2Proof.Machine.execVectorLongComplete core s
  | .storeBufferSend core => Sys2Proof.Machine.execStoreBufferSend core s
  | .accessHoldRelease core access => Sys2Proof.Machine.execAccessHoldRelease core access s
  | .homeLoad fid => Sys2Proof.Machine.execHomeLoad fid s
  | .homeStore fid => Sys2Proof.Machine.execHomeStore fid s
  | .homeAmo fid => Sys2Proof.Machine.execHomeAmo fid s
  | .storeFail fid => Sys2Proof.Machine.execStoreFail fid s
  | .transferPerform core => Sys2Proof.Machine.execTransferPerform core s
  | .mdotComplete core => Sys2Proof.Machine.execMdotComplete core s
  | .blzcGroup core => Sys2Proof.Machine.execBlzcGroup core s
  | .lockBreak core bank => Sys2Proof.Machine.execLockBreak core bank s
  | .walk fid => Sys2Proof.Machine.execWalk fid s
  | .walkFill fid => Sys2Proof.Machine.execWalkFill fid s
  | .rinvAck fid => Sys2Proof.Machine.execRinvAck fid s
  | .gleanUnit move => Sys2Proof.Machine.execGleanUnit move s
  | .gleanFinish move => Sys2Proof.Machine.execGleanFinish move s
  | .copy core ch seg => Sys2Proof.Machine.execCopy core ch seg s
  | .redadd core ch seg => Sys2Proof.Machine.execRedadd core ch seg s
  | .qf8 core ch seg => Sys2Proof.Machine.execQf8 core ch seg s
  | .mxq core ch seg => Sys2Proof.Machine.execMxq core ch seg s
  | .mcast core ch seg => Sys2Proof.Machine.execMcast core ch seg s
  | .copyEnd core ch => Sys2Proof.Machine.execCopyEnd core ch s
  | .channelResume fid => Sys2Proof.Machine.execChannelResume fid s
  | .channelAbort fid => Sys2Proof.Machine.execChannelAbort fid s
  | .inboundSegment fid => Sys2Proof.Machine.execInboundSegment fid s
  | .mcastReceive fid => Sys2Proof.Machine.execMcastReceive fid s
  | .remoteBarrierEvent fid => Sys2Proof.Machine.execRemoteBarrierEvent fid s
  | .bufferFree fid => Sys2Proof.Machine.execBufferFree fid s
  | .rmaSegmentSend chip rmod => Sys2Proof.Machine.execRmaSegmentSend chip rmod s
  | .data chip rmod ce red seq floor pa bytes => Sys2Proof.Machine.execData chip rmod ce red seq floor pa bytes s
  | .ack chip rmod seq cumE ece => Sys2Proof.Machine.execAck chip rmod seq cumE ece s
  | .nackBudget chip rmod seq cumE ece => Sys2Proof.Machine.execNackBudget chip rmod seq cumE ece s
  | .nackRefused chip rmod seq cumE ece => Sys2Proof.Machine.execNackRefused chip rmod seq cumE ece s
  | .rmaTimer chip rmod seq => Sys2Proof.Machine.execRmaTimer chip rmod seq s
  | .routerForward fid => Sys2Proof.Machine.execRouterForward fid s
  | .whereProbe site name => Sys2Proof.Machine.execWhereProbe site name s
  | .whereReflood site name => Sys2Proof.Machine.execWhereReflood site name s
  | .hereReply site name => Sys2Proof.Machine.execHereReply site name s
  | .unknownName fid => Sys2Proof.Machine.execUnknownName fid s
  | .blocked fid => Sys2Proof.Machine.execBlocked fid s
  | .moved fid => Sys2Proof.Machine.execMoved fid s
  | .errorResponse fid => Sys2Proof.Machine.execErrorResponse fid s
  | .greeting site dir xyOk yxOk => Sys2Proof.Machine.execGreeting site dir xyOk yxOk s
  | .linkTimeout site dir cut => Sys2Proof.Machine.execLinkTimeout site dir cut s
  | .noResponse fid => Sys2Proof.Machine.execNoResponse fid s
  | .budgetPeriod edge unit => Sys2Proof.Machine.execBudgetPeriod edge unit s
  | .bringUp => Sys2Proof.Machine.execBringUp s
  | .clockLock site dramGood computeGood => Sys2Proof.Machine.execClockLock site dramGood computeGood s
  | .siteGreeted site => Sys2Proof.Machine.execSiteGreeted site s
  | .greetTimeout site => Sys2Proof.Machine.execGreetTimeout site s
  | .selfTestFail site => Sys2Proof.Machine.execSelfTestFail site s
  | .configRecord site proc name part rect regionW regionH remap pins => Sys2Proof.Machine.execConfigRecord site proc name part rect regionW regionH remap pins s
  | .configCommit site => Sys2Proof.Machine.execConfigCommit site s
  | .sitePacket fid => Sys2Proof.Machine.execSitePacket fid s
  | .jobEnd site => Sys2Proof.Machine.execJobEnd site s
  | .baseDieError site => Sys2Proof.Machine.execBaseDieError site s
  | .clockSwitch site => Sys2Proof.Machine.execClockSwitch site s
  | .relockDone site => Sys2Proof.Machine.execRelockDone site s
  | .dispatch core => Sys2Proof.Machine.execDispatch core s
  | .sendLanding fid => Sys2Proof.Machine.execSendLanding fid s
  | .sendtLanding fid => Sys2Proof.Machine.execSendtLanding fid s
  | .idleSteal core => Sys2Proof.Machine.execIdleSteal core s
  | .stealRequest fid => Sys2Proof.Machine.execStealRequest fid s
  | .stealAnswer fid => Sys2Proof.Machine.execStealAnswer fid s
  | .stealBackoff core => Sys2Proof.Machine.execStealBackoff core s
  | .timerExpiry core claim => Sys2Proof.Machine.execTimerExpiry core claim s
  | .notification fid => Sys2Proof.Machine.execNotification fid s
  | .noteRetry fid => Sys2Proof.Machine.execNoteRetry fid s
  | .handlerEntry core => Sys2Proof.Machine.execHandlerEntry core s
  | .tresumeApply fid => Sys2Proof.Machine.execTresumeApply fid s
  | .tkillApply fid => Sys2Proof.Machine.execTkillApply fid s
  | .windowWrite fid => Sys2Proof.Machine.execWindowWrite fid s
  | .saveCapture core => Sys2Proof.Machine.execSaveCapture core s
  | .imageWriteDone core => Sys2Proof.Machine.execImageWriteDone core s
  | .restoreApply core => Sys2Proof.Machine.execRestoreApply core s
  | .regwrite proc unit part off value => Sys2Proof.Machine.execRegwrite proc unit part off value s
  | .regread proc unit part off => Sys2Proof.Machine.execRegread proc unit part off s
  | .queueDoorbell proc queue wr => Sys2Proof.Machine.execQueueDoorbell proc queue wr s
  | .queueRestart proc queue => Sys2Proof.Machine.execQueueRestart proc queue s
  | .peerEntryWrite chip rmod value => Sys2Proof.Machine.execPeerEntryWrite chip rmod value s
  | .routeEntryWrite fid => Sys2Proof.Machine.execRouteEntryWrite fid s
  | .physSelectWrite fid => Sys2Proof.Machine.execPhysSelectWrite fid s
  | .load proc part pa dirs => Sys2Proof.Machine.execLoad proc part pa dirs s
  | .unload proc part names => Sys2Proof.Machine.execUnload proc part names s
  | .siteFence site => Sys2Proof.Machine.execSiteFence site s
  | .siteReset site => Sys2Proof.Machine.execSiteReset site s
  | .siteRetire site => Sys2Proof.Machine.execSiteRetire site s
  | .slotResume core slot => Sys2Proof.Machine.execSlotResume core slot s
  | .processorResume proc => Sys2Proof.Machine.execProcessorResume proc s
  | .attest proc nonce => Sys2Proof.Machine.execAttest proc nonce s
  | .nop proc queue => Sys2Proof.Machine.execNop proc queue s
  | .launch proc queue => Sys2Proof.Machine.execLaunch proc queue s
  | .launchStart proc queue => Sys2Proof.Machine.execLaunchStart proc queue s
  | .launchComplete proc work => Sys2Proof.Machine.execLaunchComplete proc work s
  | .queueCopy proc queue => Sys2Proof.Machine.execQueueCopy proc queue s
  | .queueCopyComplete proc work => Sys2Proof.Machine.execQueueCopyComplete proc work s
  | .waitge proc queue => Sys2Proof.Machine.execWaitge proc queue s
  | .semaphoreReport proc => Sys2Proof.Machine.execSemaphoreReport proc s
  | .waitgeTimeout proc queue => Sys2Proof.Machine.execWaitgeTimeout proc queue s
  | .signal proc queue => Sys2Proof.Machine.execSignal proc queue s
  | .interrupt proc queue => Sys2Proof.Machine.execInterrupt proc queue s
  | .queueFence proc queue => Sys2Proof.Machine.execQueueFence proc queue s
  | .jump proc queue => Sys2Proof.Machine.execJump proc queue s
  | .mark proc queue => Sys2Proof.Machine.execMark proc queue s
  | .illegalWord word => Sys2Proof.Machine.execIllegalWord word s
  | .directoryUpdate fid => Sys2Proof.Machine.execDirectoryUpdate fid s
  | .cacheControlRequest fid => Sys2Proof.Machine.execCacheControlRequest fid s
  | .homeBitClear router retired => Sys2Proof.Machine.execHomeBitClear router retired s
  | .powerLoss => Sys2Proof.Machine.execPowerLoss s

end Sys2Proof.Machine
end

