-- ==== Sys2Proof/Machine/Due.lean ====
section
/-! DEFINITION. What is due at a core in its present cycle: before the turn of the slot that owns it, and after it in the order of R90,
R331 and R360. -/

namespace Sys2Proof.Machine

/-- A unit whose result comes in this cycle, or a lock that breaks: before the turn, so that a drop of the turn comes after the fill (R90,
R114, R212, R241, R328). -/
def Core.dueFill (k : Core) (c : Nat) : Option Instr :=
  let brk := (k.locks.find? (fun p => p.2.since + Config.lockLimit ≤ k.cycle)).map (fun p => Instr.lockBreak c p.1)
  let div := (k.divs.find? (fun d => d.due ≤ k.cycle)).map (fun d => Instr.divideComplete c d.id)
  let enter := if k.vecs.any (fun v => v.entered.isNone) && k.stageFrees ≤ k.cycle then some (Instr.vectorStageEnter c) else none
  let vec := match k.vecs with
    | v :: _ => (match v.entered with | some e => if e + v.fillAfter ≤ k.cycle then some (Instr.vectorLongComplete c) else none | none => none)
    | [] => none
  let timer := (k.timers.find? (fun t => max t.2.1.toNat (t.2.2 + 1) ≤ k.cycle)).map (fun t => Instr.timerExpiry c t.1)
  [brk, div, enter, vec, timer].findSome? id

/-- A transfer or an operation of the array or the bit stream unit that is performed in this cycle (R238, R253, R258, R342). -/
def Core.dueUnit (k : Core) (c : Nat) : Option Instr :=
  let dot := k.array.bind (fun a => if a.since + 63 ≤ k.cycle then some (Instr.mdotComplete c) else none)
  let move := k.transfer.bind (fun t => if t.at_ ≤ k.cycle then some (Instr.transferPerform c) else none)
  let group := k.blzc.bind (fun b => if b.start + 16 * b.next ≤ k.cycle then some (Instr.blzcGroup c) else none)
  [dot, move, group].findSome? id

/-- A due delivery: those of WAITANY claims come after the others, so that the lowest index of the cycle is delivered (R90, R105). -/
def State.dueDelivery (s : State) (c : Nat) : Option Instr :=
  let k := s.core c
  let ready := k.deliveries.filter (fun d => d.due ≤ k.cycle && s.deliverable c d)
  let watch (d : Delivery) : Bool := (nget k.claims d.claim).any (fun cl => cl.cls == 0)
  ((ready.find? (fun d => !watch d)).or ready.head?).map (fun d => Instr.claimDelivery c d.claim)

/-- The core whose clock the arrival of a packet is counted on. -/
def Flight.arrivesAt (f : Flight) : Nat := match f.body with | .stealAns _ => f.src.clock | _ => f.destCore

/-- Whether an arrived packet of a core has come before the present cycle; a message to the own core, eight cycles after its issue. -/
def State.hasCome (s : State) (c : Nat) (f : Flight) : Bool :=
  f.st == .arrived && f.arrivesAt == c && (if f.inCore then f.issued + 8 ≤ (s.core c).cycle else f.arrAt < (s.core c).cycle) && (s.arrivedPacket f.fid).isSome

/-- The packet of a kind that came first (R331, R360). -/
def State.firstCome (s : State) (c : Nat) (kind : Body → Bool) : Option Flight :=
  (s.flights.filter (fun f => kind f.body && s.hasCome c f)).foldl (fun b f => match b with
    | some g => if f.arr < g.arr then some f else b
    | none => some f) none

def Body.isCommand (b : Body) : Bool := match b with | .tresume .. | .tkill .. => true | _ => false
def Body.isSteal (b : Body) : Bool := match b with | .stealReq _ => true | _ => false
def Body.isLanding (b : Body) : Bool := match b with | .send .. | .sendt .. | .stealAns _ | .note .. => true | _ => false

/-- The event that takes an arrived packet of a core. -/
def Flight.taking (f : Flight) : Instr :=
  match f.body with
  | .tresume .. => .tresumeApply f.fid
  | .tkill .. => .tkillApply f.fid
  | .stealReq _ => .stealRequest f.fid
  | .stealAns _ => .stealAnswer f.fid
  | .send .. => .sendLanding f.fid
  | .sendt .. => .sendtLanding f.fid
  | _ => .notification f.fid

/-- A deadline of a packet on its sender's clock (R39, R44, R348). -/
def State.dueFlight (s : State) (c : Nat) (f : Flight) : Option Instr :=
  if f.src.ownClock || f.src.clock != c then none
  else
    let now := (s.core c).cycle
    match f.st with
    | .waiting t => if t ≤ now && (match f.src with | .core _ => true | _ => false) then some (.noteRetry f.fid) else none
    | _ =>
      if s.noHere f && f.issued + Config.nameDeadline ≤ now then some (.unknownName f.fid)
      else if f.overdue now then some (.noResponse f.fid)
      else none

/-- A flood whose next probe is due on a core's clock (R38). -/
def State.dueFlood (s : State) (c : Nat) : Option Instr :=
  ((s.site (siteOf c)).floods.find? (fun f => f.core == c && !f.done && f.sent < 4 && f.since + Config.refloodEvery * f.sent ≤ (s.core c).cycle)).map
    (fun f => .whereReflood (siteOf c) f.name)

/-- What is due at a core after the turn of its present cycle, in order: captures and restores, commands, the units, the deliveries (R360,
R90), then the dispatch, steal requests and landings (R331), the deadlines, and the end of a job (R311). -/
def State.dueEvent (s : State) (c : Nat) : Option Instr :=
  let k := s.core c
  [if k.saves.any (s.saveReady c) then some (Instr.saveCapture c) else none,
   if k.restores.any (s.restoreReady c) then some (.restoreApply c) else none,
   (s.firstCome c Body.isCommand).map Flight.taking,
   k.dueUnit c,
   s.dueDelivery c,
   if s.dispatchDue c then some (.dispatch c) else none,
   (s.firstCome c Body.isSteal).map Flight.taking,
   (s.firstCome c Body.isLanding).map Flight.taking,
   s.flights.findSome? (s.dueFlight c),
   s.dueFlood c,
   if s.siteDone (siteOf c) then some (.jobEnd (siteOf c)) else none].findSome? id

end Sys2Proof.Machine
end

