-- ==== Sys2Proof/Machine/Move.lean ====
section
/-! DEFINITION. What one move of the machine comes to: a core's next cycle with the events due before it, the end of a move,
the rows that a schedule may name (log 2), and the launch that a placed instruction runs under (log 9). -/

namespace Sys2Proof.Machine

/-- The move is over; LOADs that are complete report it (R394), and the schedule names the agent that moves next. -/
def State.moved (s : State) : State :=
  let s := s.settleLoads
  { s with mover := Config.schedule s.moves, moves := s.moves + 1 }

/-- Ends a move. -/
def endMove (o : Host.Outcome State Fault Refusal) : Host.Outcome State Fault Refusal :=
  match o with
  | .next s => .next s.moved
  | x => x

/-- The core keeps the move while something is due in its cycle. -/
def State.settle (s : State) (c : Nat) : State := if (s.dueEvent c).isSome then s else s.moved

/-- Ends the turn of a core: its cycle is counted, and what is due in it follows. -/
def endTurn (c : Nat) (o : Host.Outcome State Fault Refusal) : Host.Outcome State Fault Refusal :=
  match o with
  | .next s => .next ((s.countCycle c).settle c)
  | x => x

/-- Rows that the schedule may name: events of no slot's turn and of no core's own cycle, which has an order of its own. -/
def scheduled (i : Instr) : Bool :=
  (encode i).isNone && (match i with
    | .illegalWord _ | .parkLimit _ _ | .handlerEntry _ | .lockBreak _ _ | .divideComplete _ _ | .vectorStageEnter _ | .vectorLongComplete _
    | .timerExpiry _ _ | .saveCapture _ | .restoreApply _ | .tresumeApply _ | .tkillApply _ | .mdotComplete _ | .transferPerform _ | .blzcGroup _
    | .claimDelivery _ _ | .dispatch _ | .stealRequest _ | .stealAnswer _ | .sendLanding _ | .sendtLanding _ | .notification _ | .noteRetry _
    | .unknownName _ | .noResponse _ | .whereReflood _ _ | .jobEnd _ => false
    | _ => true)

/-- Events that the schedule may name in a state: those rows, and the deadline of a packet whose sender counts cycles of its own (R44). -/
def State.mayHappen (s : State) (i : Instr) : Bool :=
  scheduled i || (match i with | .noResponse fid => (s.findFlight fid).any (fun f => f.src.ownClock) | _ => false)

/-! ## Gating (R56) -/

/-- The site whose parts other than the routers make an event. -/
def eventSite (s : State) (i : Instr) : Option Nat :=
  match i with
  | .storeBufferSend c | .accessHoldRelease c _ | .copy c _ _ | .redadd c _ _ | .qf8 c _ _ | .mxq c _ _ | .mcast c _ _ | .copyEnd c _ | .idleSteal c
  | .stealBackoff c | .imageWriteDone c => some (siteOf c)
  | .gleanUnit m | .gleanFinish m => (s.gmoves.find? (fun g => g.id == m)).map (·.site)
  | _ => none

/-- Events of an engine whose accesses go to their homes in one step. -/
def reachesHomes (i : Instr) : Bool :=
  match i with
  | .copy .. | .redadd .. | .qf8 .. | .mxq .. | .mcast .. | .copyEnd .. | .gleanUnit _ | .gleanFinish _ | .imageWriteDone _ | .queueCopyComplete .. | .data ..
  | .nop .. | .launch .. | .launchStart .. | .launchComplete .. | .queueCopy .. | .waitge .. | .signal .. | .interrupt .. | .queueFence .. | .jump .. | .mark ..
  | .load .. => true
  | _ => false

/-- Addresses of a packet that its home may forward to where the gleaner has moved their unit. -/
def Body.homeAddrs (b : Body) : List Nat :=
  match b with
  | .mem r => (match r.target with | .phys pa => [pa] | _ => [])
  | .ifetch _ l _ => [l * 128]
  | .cache _ (.pin ls _) | .cache _ (.unpin ls) => ls.map (· * 128)
  | .walk _ _ d | .dir _ _ _ d _ => (List.range (min (dirCount d) 65536)).map (fun i => dirBase d + 64 * i)
  | _ => []

/-- Packet that an event takes at a home. -/
def homePacket (i : Instr) : Option Nat :=
  match i with
  | .homeLoad f | .homeStore f | .homeAmo f | .icacheFill f | .cacheControlRequest f | .walk f | .directoryUpdate f => some f
  | _ => none

/-- Whether a home would have to forward a packet to a gated site (R56, R190). -/
def State.forwardsGated (s : State) (fid : Nat) : Bool :=
  !s.gmoves.isEmpty && s.sites.any (fun p => p.2.gated) &&
    (match s.findFlight fid with | some f => f.body.homeAddrs.any (fun a => (s.site (homeOf (s.gleanPA a))).gated) | none => false)

/-- Whether a gated site keeps an event from happening: it is the event's own, or one whose home slices it may need (R56). -/
def State.gatedOut (s : State) (i : Instr) : Bool := (eventSite s i).any (fun n => (s.site n).gated) || (reachesHomes i && s.sites.any (fun p => p.2.gated)) ||
  (homePacket i).any s.forwardsGated

/-- A core's cycle up to its slot's turn: what fills before it, one event after the other, then the turn. -/
def turnMove (s : State) (c : Nat) : Host.Outcome State Fault Refusal :=
  match (s.core c).dueFill c with
  | some i => exec i s
  | none =>
    match (s.seat c).slotTurn with
    | .exec i s' => endTurn c (exec i s')
    | .next s' => .next ((s'.countCycle c).settle c)

/-- A core's move: the rest of a cycle that has begun, or the next one (R27). A core whose clock does not run does nothing. -/
def coreMove (s : State) (c : Nat) : Host.Outcome State Fault Refusal :=
  if !s.clocked c then .next s.moved
  else if (s.core c).turnDue then turnMove s c
  else
    match s.dueEvent c with
    | some i => (match exec i s with | .next s' => .next (s'.settle c) | x => x)
    | none => turnMove (s.tick c) c

/-! ## Placing an instruction (log 9) -/

/-- Role that issues a word: M for the tile group, its CSRs and register-state words of its files, V for custom-2 and register-state words of
the v file, T for the bit stream, else K. -/
def placeRole (w : Nat) : Role :=
  let op := w % 128
  let f3 := fieldOf w 12 3
  let csr := fieldOf w 20 12
  if op = 0x2B ∧ f3 < 4 then .m
  else if op = 0x5B then .v
  else if op = 0x0B ∧ f3 = 0 ∧ fieldOf w 25 7 ≠ 3 ∧ fieldOf w 20 2 = 1 then .v
  else if op = 0x0B ∧ f3 = 0 ∧ fieldOf w 25 7 ≠ 3 ∧ 2 ≤ fieldOf w 20 2 then .m
  else if op = 0x7B ∧ f3 = 3 then .t
  else if op = 0x73 ∧ f3 ≠ 0 ∧ csr = 0x807 then .t
  else if op = 0x73 ∧ f3 ≠ 0 ∧ 0x808 ≤ csr ∧ csr ≤ 0x811 then .m
  else .k

/-- Slot of a role in the placed launch (R16). -/
def placeSlot (r : Role) : Nat := match r with | .m => 1 | .v => 2 | .t => 15 | _ => 14

/-- Address and physical address of the placed instruction. -/
def placeVa : Nat := 0x10000000

/-- The range that maps the placed instruction: all permissions but COPY_ONLY, every segment resident. -/
def placeRange : RangeSlot where
  base := 0x10000000
  limit := 0x10001000
  offset := 0
  proc := 0
  tensor := 0
  rmod := 0
  attrs := 0
  perms := 0b11101
  resmap := 0xFFFFFFFFFFFFFFFF
  stripe := 0
  moving := false
  soft := 0

/-- The launch record of the placed instruction: one site, slot 1 M, slot 2 V, slot 14 K, slot 15 T. -/
def placeLaunch : Launch where
  tasks := false
  fusion := false
  prof := false
  pqen := false
  pq := 0
  stealen := false
  steal := 0
  rw := 0
  rh := 0
  rect := 0x08400
  workers := 0
  roles := 0b110_101_000_000_000_000_000_000_000_000_000_000_000_010_001_000
  chans := 0
  levels := []

end Sys2Proof.Machine
end

