-- ==== Sys2Proof/Machine/Step.lean ====
section
/-! DEFINITION. One step of the machine, and placing an instruction where the next step fetches. -/

namespace Sys2Proof.Machine

/-- One step of the module. -/
def step (s : State) : Host.Outcome State Fault Refusal :=
  match s.mover with
  | .turn c => coreMove s c
  | .event i => if s.mayHappen i && !s.gatedOut i then endMove (exec i s) else .next s.moved
  | .hostWrite d part pa bytes => .next (s.hostWrite d part pa.toNat bytes).moved
  | .memError l hard => .next (s.memError l hard).moved

/-- The state with an instruction where core 0 of site 0 fetches next: site 0 RUNNING under a launch of its own, the word in
DRAM, in the instruction cache and under a range, and the slot of its role at it. -/
def State.withFetchWord (s : State) (nbits w : Nat) : State :=
  let v := w % 2 ^ nbits % 2 ^ 32
  let r := placeRole v
  let n := placeSlot r
  let s := s.modSite 0 (fun t => { t with state := .running, name := 1, ncores := 16, dramGood := true, computeGood := true, clksrc := 0, depth := 1,
                                          launch := some placeLaunch, phys := nput t.phys 0 0x1000 })
  let s := { s with partRects := nput s.partRects 0 0x08400, mover := .turn 0, dram := memWrite s.dram placeVa 4 v }
  let s := s.modCore 0 (fun k => { k with cycle := k.cycle / 16 * 16 + 16 + n, turnDue := true, ranges := [{ slot := placeRange, index := 1 }],
                                          icache := nput k.icache (lineOf placeVa) (BitVec.ofNat 1024 v), notes := [], deliveries := [], timers := [], divs := [], vecs := [], locks := [] })
  s.modSlot 0 n (fun t => { t with state := .running, role := r, pc := wd placeVa, park := none, fetch := none, broken := none, busyUntil := 0,
                                   underSave := false, reserved := false, doneWait := false, skipBreak := false })

end Sys2Proof.Machine
end

