-- ==== Sys2Proof/Safety.lean ====
section
/-! DEFINITION. What claims say of runs: a move that answers a next state, an instruction that goes on, the checks that an access passes, what it leaves as it was,
memory in its canonical form. -/

namespace Sys2Proof.Machine

/-- A move answers a next state. -/
def State.goesOn (s : State) : Prop := ∃ t, step s = .next t

/-- DRAM and every listed core's local store are in canonical form, and the L2 lists each of its lines once, in rising order. -/
def State.memWf (s : State) : Prop :=
  Memory.wf s.dram = true ∧ (∀ p ∈ s.cores, Memory.wf p.2.ls = true) ∧ (s.l2.map (·.1)).Pairwise (· < ·)

/-! ## When an instruction executes (R72, R82, R259, R264) -/

/-- No repeat is in force in the slot whose turn runs (R263, R264). -/
abbrev State.noRepeat (s : State) : Prop := s.me.rptstat.getLsbD 11 = false

/-- A source register is FULL (R82). -/
abbrev State.readable (s : State) (f : RFile) (n : Nat) : Prop := s.me.regSt f n = .full

/-- A destination register is not PENDING (R82). -/
abbrev State.writable (s : State) (f : RFile) (n : Nat) : Prop := s.me.regSt f n ≠ .pending

/-- No unfinished MDOT or MDOTS of the slot uses these tiles and accumulators (R259). -/
abbrev State.arrayClear (s : State) (rs : List (RFile × Nat)) : Prop := arrayHolds s { instr := .ecall, roles := anyRole, touches := rs } = false

/-- An access of n bytes from an address of local store passes its checks, no watch matches it and nothing holds it: aligned, every
byte in a thread-owned plot (a store, one that the task unit has not reserved) and in no bank held by another slot (R125, R155,
R196, R197, R211, R373). -/
def State.localPasses (s : State) (load store : Bool) (ea : Word) (n : Nat) : Prop :=
  ea.toNat < 2 ^ 20 ∧ ea.toNat % n = 0 ∧ s.watchHit load store ea.toNat n = none ∧
  (∀ a, ea.toNat ≤ a → a < ea.toNat + n → s.here.engineOwned a = false ∧
    (store = true → s.me.role ≠ .k → s.reservedPlot s.curCore (plotOf a) = false) ∧
    ∀ l, nget s.here.locks (bankOf a) = some l → l.slot = s.curSlot) ∧
  s.localHeld = false

/-- A thread access to these bytes of local store is let through: no plot and no bank lock stops it and nothing holds it. -/
def State.bytesPass (s : State) (store : Bool) (addrs : List Nat) : Prop :=
  (∀ a ∈ addrs, s.here.engineOwned a = false ∧ (store = true → s.me.role ≠ .k → s.reservedPlot s.curCore (plotOf a) = false) ∧
    ∀ l, nget s.here.locks (bankOf a) = some l → l.slot = s.curSlot) ∧
  s.localHeld = false

/-- An access of n bytes from an address goes to global memory, aligned, and a range-table entry translates it (R125, R177, R373). -/
abbrev State.globalPasses (s : State) (load store : Bool) (kind : AccessKind) (e : RangeEntry) (ea : Word) (n : Nat) : Prop :=
  2 ^ 20 ≤ ea.toNat ∧ ea.toNat < windowBase ∧ ea.toNat % n = 0 ∧ s.watchHit load store ea.toNat n = none ∧
  s.me.walkOut.filter (fun o => o.va == ea) = none ∧ s.here.rangeFor ea = some e ∧ checkEntry e.slot ea.toNat kind = .ok

/-- A K-role slot's access of n bytes goes to the thread window, aligned, and no watch matches it (R23, R125, R373). -/
abbrev State.windowPasses (s : State) (load store : Bool) (ea : Word) (n : Nat) : Prop :=
  windowBase ≤ ea.toNat ∧ ea.toNat < 2 ^ 48 ∧ ea.toNat % n = 0 ∧ s.watchHit load store ea.toNat n = none ∧ s.me.role = .k

/-- A release or fence is not stopped by a failed store or a scope miss (R130, R166). -/
abbrev State.releaseFree (s : State) : Prop := s.me.stfail.getLsbD 63 = false ∧ ¬(s.me.ordctl.getLsbD 63 = true ∧ s.me.ordctl.getLsbD 62 = true)

/-- A packet is at its destination, its unit may take it now, and it answers no future that has been given up (R32, R42, R44). -/
abbrev State.takes (s : State) (fid : Nat) (f : Flight) : Prop := s.arrivedPacket fid = some f ∧ arrivalState s f = .arrived ∧ (f.dead && f.body.isAnswer) = false

/-! ## The next state of an instruction that executed -/

/-- The instruction executed and the pc is this one: it is counted, and what a re-issue would need is forgotten. -/
def State.goneTo (s : State) (pc : Word) : State := s.retired.modMe (fun t => { t with pc := pc })

/-- It executed, wrote an x register and moved on. -/
def State.wrote (s : State) (rd : BitVec 5) (v : Word) : State := (s.setX rd v).goneTo (s.me.pc + 4)

/-- It executed, wrote a v register and moved on. -/
def State.wroteV (s : State) (vd : BitVec 5) (v : BitVec 2048) : State := (s.setV vd v).goneTo (s.me.pc + 4)

/-! ## The scalar memory instructions (R117, R131, R133, R157, R158) -/

/-- A scalar memory instruction with its operands read: its address and bytes, whether it reads and writes them, the kind that Translate checks, and
whether it first looks for failed stores and scope misses. -/
structure ScalarAccess where
  i : Instr
  ea : Word
  n : Nat
  load : Bool
  store : Bool
  kind : AccessKind
  release : Bool

/-- Traps of an access that may not go to an address, and of a range fault: as a load or as a store (R125, R177). -/
def ScalarAccess.refusedCause (x : ScalarAccess) : Nat := if x.store then 7 else 5
def ScalarAccess.rangeCause (x : ScalarAccess) : Nat := if x.kind = .r then 13 else 15

/-- Every scalar load, store, acquire, release and instruction of the A extension on given registers. -/
def State.scalarAccesses (s : State) (imm : BitVec 12) (hi : BitVec 7) (sc : BitVec 4) (aq rl dbl : BitVec 1) (rs2 rs1 lo rd : BitVec 5) : List ScalarAccess :=
  let la := s.xv rs1 + imm.signExtend 64
  let sa := s.xv rs1 + (hi ++ lo).signExtend 64
  let a := s.xv rs1
  let n := if dbl = 1 then 8 else 4
  let load (i : Instr) (ea : Word) (n : Nat) : ScalarAccess := ⟨i, ea, n, true, false, .r, false⟩
  let store (i : Instr) (ea : Word) (n : Nat) (rel : Bool) : ScalarAccess := ⟨i, ea, n, false, true, .w, rel⟩
  let amo (i : Instr) : ScalarAccess := ⟨i, a, n, true, true, .amo, rl == 1#1⟩
  [load (.lb imm rs1 rd) la 1, load (.lh imm rs1 rd) la 2, load (.lw imm rs1 rd) la 4, load (.ld imm rs1 rd) la 8, load (.lbu imm rs1 rd) la 1,
   load (.lhu imm rs1 rd) la 2, load (.lwu imm rs1 rd) la 4, load (.lacq sc rs1 rd) a 8, load (.lacqw sc rs1 rd) a 4,
   store (.sb hi rs2 rs1 lo) sa 1 false, store (.sh hi rs2 rs1 lo) sa 2 false, store (.sw hi rs2 rs1 lo) sa 4 false, store (.sd hi rs2 rs1 lo) sa 8 false,
   store (.srel sc rs2 rs1) a 8 true, store (.srelw sc rs2 rs1) a 4 true,
   ⟨.lr aq rl rs1 dbl rd, a, n, true, false, .amo, false⟩, ⟨.sc aq rl rs2 rs1 dbl rd, a, n, false, true, .amo, rl == 1#1⟩,
   amo (.amoswap aq rl rs2 rs1 dbl rd), amo (.amoadd aq rl rs2 rs1 dbl rd), amo (.amoxor aq rl rs2 rs1 dbl rd), amo (.amoand aq rl rs2 rs1 dbl rd),
   amo (.amoor aq rl rs2 rs1 dbl rd), amo (.amomin aq rl rs2 rs1 dbl rd), amo (.amomax aq rl rs2 rs1 dbl rd), amo (.amominu aq rl rs2 rs1 dbl rd),
   amo (.amomaxu aq rl rs2 rs1 dbl rd)]

/-! ## Frames -/

/-- Every byte of memory reads as before: at the homes and in every core's local store. -/
def State.sameMemory (s t : State) : Prop := (∀ pa, t.physRead pa 1 = s.physRead pa 1) ∧ ∀ c a, memGet (t.core c).ls a = memGet (s.core c).ls a

/-- The registers of a slot but x, its trap registers and its state: the v, m and c files, address streams, slot CSRs, role and index. -/
def Slot.sameRegs (a b : Slot) : Prop :=
  b.v = a.v ∧ b.m = a.m ∧ b.c = a.c ∧ b.streams = a.streams ∧
  b.parklim = a.parklim ∧ b.vflags = a.vflags ∧ b.srseed = a.srseed ∧ b.srctr = a.srctr ∧ b.ordctl = a.ordctl ∧ b.stfail = a.stfail ∧
  b.tag = a.tag ∧ b.bstream = a.bstream ∧ b.mcfg = a.mcfg ∧ b.mstcfg = a.mstcfg ∧ b.rptstat = a.rptstat ∧ b.rfinfo = a.rfinfo ∧ b.idx = a.idx ∧
  b.role = a.role

/-- Registers of a slot but the x registers of a list: the other x registers, `Slot.sameRegs`, the trap registers and the slot's state. -/
def Slot.sameBut (a b : Slot) (xs : List (BitVec 5)) : Prop :=
  (∀ n : BitVec 5, n ∉ xs → b.xr n.toNat = a.xr n.toNat) ∧ a.sameRegs b ∧ b.tcause = a.tcause ∧ b.tval = a.tval ∧ b.tpc = a.tpc ∧ b.state = a.state

/-- A register has this state and, over its whole width, this value. -/
def Slot.holds (t : Slot) (f : RFile) (n : Nat) (st : RegState) (v : BitVec 131072) : Prop :=
  match f with
  | .x => t.xr n = ⟨st, v.setWidth 64⟩
  | .v => t.vr n = ⟨st, v.setWidth 2048⟩
  | .m => t.mr n = ⟨st, v.setWidth 34816⟩
  | .c => t.cr n = ⟨st, v⟩

/-- Register n of one slot has the state and the whole value of register m of the same file of another. -/
def Slot.takesReg (t : Slot) (f : RFile) (n : Nat) (a : Slot) (m : Nat) : Prop :=
  match f with
  | .x => t.xr n = a.xr m
  | .v => t.vr n = a.vr m
  | .m => t.mr n = a.mr m
  | .c => t.cr n = a.cr m

/-- Core registers that no slot instruction of the scalar and vector families writes: directory, handler, debug and local-store units. -/
def Core.sameRegs (a b : Core) : Prop :=
  b.rdir = a.rdir ∧ b.rdmnt = a.rdmnt ∧ b.scopemiss = a.scopemiss ∧ b.inlog = a.inlog ∧ b.poundReg = a.poundReg ∧ b.pair = a.pair ∧ b.stamp = a.stamp ∧
  b.hvec = a.hvec ∧ b.hepc = a.hepc ∧ b.hscratch = a.hscratch ∧ b.hnote = a.hnote ∧ b.hbusy = a.hbusy ∧ b.hin = a.hin ∧ b.hfromempty = a.hfromempty ∧
  b.evsel = a.evsel ∧ b.bp = a.bp ∧ b.wpa = a.wpa ∧ b.wpc = a.wpc ∧ b.trcctl = a.trcctl ∧ b.trcbase = a.trcbase ∧ b.trcptr = a.trcptr ∧
  b.owners = a.owners ∧ b.barriers = a.barriers ∧ b.queues = a.queues ∧ b.locks = a.locks ∧ b.channels = a.channels

/-- What a core has under way and keeps of memory: claims and deliveries, results to come, the store buffer and the accesses, the L1, the instruction cache,
the range table, walks and notifications. -/
def Core.sameWork (a b : Core) : Prop :=
  b.claims = a.claims ∧ b.deliveries = a.deliveries ∧ b.timers = a.timers ∧ b.divs = a.divs ∧ b.vecs = a.vecs ∧ b.transfer = a.transfer ∧ b.array = a.array ∧
  b.blzc = a.blzc ∧ b.sb = a.sb ∧ b.accs = a.accs ∧ b.l1 = a.l1 ∧ b.icache = a.icache ∧ b.ranges = a.ranges ∧ b.walks = a.walks ∧ b.notes = a.notes

/-- Nothing but the x registers of a list, the pc and the counts of the slot whose turn runs has changed. -/
def State.onlyX (s t : State) (xs : List (BitVec 5)) : Prop :=
  s.me.sameBut t.me xs ∧ s.here.sameRegs t.here ∧ s.here.sameWork t.here ∧ (∀ c n, ¬(c = s.curCore ∧ n = s.curSlot) → t.slot c n = s.slot c n) ∧
  (∀ c, c ≠ s.curCore → t.core c = s.core c) ∧ t.sites = s.sites ∧ t.procs = s.procs ∧ t.chips = s.chips ∧ t.flights = s.flights ∧ s.sameMemory t

/-- Nothing but the listed registers of the slot whose turn runs, its pc, its flags, its draw and its row cursor have changed: no other register
of its files, no slot register, no trap register, no other slot or core, no byte of memory. -/
def State.onlyRegs (s t : State) (rs : List (RFile × Nat)) : Prop :=
  (∀ n, (.x, n) ∉ rs → t.me.xr n = s.me.xr n) ∧ (∀ n, (.v, n) ∉ rs → t.me.vr n = s.me.vr n) ∧ (∀ n, (.m, n) ∉ rs → t.me.mr n = s.me.mr n) ∧
  (∀ n, (.c, n) ∉ rs → t.me.cr n = s.me.cr n) ∧
  (t.me.streams = s.me.streams ∧ t.me.parklim = s.me.parklim ∧ t.me.srseed = s.me.srseed ∧ t.me.ordctl = s.me.ordctl ∧ t.me.stfail = s.me.stfail ∧
    t.me.tag = s.me.tag ∧ t.me.bstream = s.me.bstream ∧ t.me.mcfg = s.me.mcfg ∧ t.me.rptstat = s.me.rptstat ∧ t.me.rfinfo = s.me.rfinfo ∧ t.me.idx = s.me.idx ∧
    t.me.role = s.me.role ∧ t.me.tcause = s.me.tcause ∧ t.me.tval = s.me.tval ∧ t.me.tpc = s.me.tpc ∧ t.me.state = s.me.state) ∧
  s.here.sameRegs t.here ∧ s.here.sameWork t.here ∧ (∀ c n, ¬(c = s.curCore ∧ n = s.curSlot) → t.slot c n = s.slot c n) ∧
  (∀ c, c ≠ s.curCore → t.core c = s.core c) ∧ s.sameMemory t

end Sys2Proof.Machine
end

