-- ==== Sys2Proof/Certificates/Slice0/Obligations.lean ====
section
/-! DEFINITION. The statements for the provers: what the instructions of each family answer, where they trap, what they leave as
it was, what the machine's events do, how words decode, what every step keeps, and what reset leaves. -/

open Sys2Proof Sys2Proof.Machine

/-! ## Integer computation and control transfer (R111 to R118, R346) -/

/-- The immediate forms write the result of R112 to rd (x0 discards it) and move on. The register forms write the result of R113, the multiplies by exact
products of integers, and move on. -/
def Obligations.IntegerResults : Prop :=
  (∀ (s : State) (imm : BitVec 12) (up : BitVec 20) (sh : BitVec 6) (sw : BitVec 5) (rs1 rd : BitVec 5),
    s.noRepeat → s.readable .x rs1.toNat → s.writable .x rd.toNat →
    exec (.addi imm rs1 rd) s = .next (s.wrote rd (s.xv rs1 + imm.signExtend 64)) ∧
    exec (.slti imm rs1 rd) s = .next (s.wrote rd (if (s.xv rs1).toInt < (imm.signExtend 64).toInt then 1 else 0)) ∧
    exec (.sltiu imm rs1 rd) s = .next (s.wrote rd (if (s.xv rs1).toNat < (imm.signExtend 64).toNat then 1 else 0)) ∧
    exec (.xori imm rs1 rd) s = .next (s.wrote rd (s.xv rs1 ^^^ imm.signExtend 64)) ∧
    exec (.ori imm rs1 rd) s = .next (s.wrote rd (s.xv rs1 ||| imm.signExtend 64)) ∧
    exec (.andi imm rs1 rd) s = .next (s.wrote rd (s.xv rs1 &&& imm.signExtend 64)) ∧
    exec (.slli sh rs1 rd) s = .next (s.wrote rd (s.xv rs1 <<< sh.toNat)) ∧
    exec (.srli sh rs1 rd) s = .next (s.wrote rd (s.xv rs1 >>> sh.toNat)) ∧
    exec (.srai sh rs1 rd) s = .next (s.wrote rd ((s.xv rs1).sshiftRight sh.toNat)) ∧
    exec (.addiw imm rs1 rd) s = .next (s.wrote rd (((s.xv rs1 + imm.signExtend 64).setWidth 32).signExtend 64)) ∧
    exec (.slliw sw rs1 rd) s = .next (s.wrote rd (((s.xv rs1).setWidth 32 <<< sw.toNat).signExtend 64)) ∧
    exec (.srliw sw rs1 rd) s = .next (s.wrote rd (((s.xv rs1).setWidth 32 >>> sw.toNat).signExtend 64)) ∧
    exec (.sraiw sw rs1 rd) s = .next (s.wrote rd ((((s.xv rs1).setWidth 32).sshiftRight sw.toNat).signExtend 64)) ∧
    exec (.lui up rd) s = .next (s.wrote rd ((up ++ 0#12).signExtend 64)) ∧
    exec (.auipc up rd) s = .next (s.wrote rd (s.me.pc + (up ++ 0#12).signExtend 64))) ∧
  (∀ (s : State) (rs2 rs1 rd : BitVec 5),
    s.noRepeat → s.readable .x rs1.toNat → s.readable .x rs2.toNat → s.writable .x rd.toNat →
    let a := s.xv rs1
    let b := s.xv rs2
    let aw := a.setWidth 32
    let bw := b.setWidth 32
    exec (.add rs2 rs1 rd) s = .next (s.wrote rd (a + b)) ∧
    exec (.sub rs2 rs1 rd) s = .next (s.wrote rd (a - b)) ∧
    exec (.sll rs2 rs1 rd) s = .next (s.wrote rd (a <<< (b.toNat % 64))) ∧
    exec (.slt rs2 rs1 rd) s = .next (s.wrote rd (if a.toInt < b.toInt then 1 else 0)) ∧
    exec (.sltu rs2 rs1 rd) s = .next (s.wrote rd (if a.toNat < b.toNat then 1 else 0)) ∧
    exec (.xor rs2 rs1 rd) s = .next (s.wrote rd (a ^^^ b)) ∧
    exec (.srl rs2 rs1 rd) s = .next (s.wrote rd (a >>> (b.toNat % 64))) ∧
    exec (.sra rs2 rs1 rd) s = .next (s.wrote rd (a.sshiftRight (b.toNat % 64))) ∧
    exec (.or rs2 rs1 rd) s = .next (s.wrote rd (a ||| b)) ∧
    exec (.and rs2 rs1 rd) s = .next (s.wrote rd (a &&& b)) ∧
    exec (.addw rs2 rs1 rd) s = .next (s.wrote rd ((aw + bw).signExtend 64)) ∧
    exec (.subw rs2 rs1 rd) s = .next (s.wrote rd ((aw - bw).signExtend 64)) ∧
    exec (.sllw rs2 rs1 rd) s = .next (s.wrote rd ((aw <<< (b.toNat % 32)).signExtend 64)) ∧
    exec (.srlw rs2 rs1 rd) s = .next (s.wrote rd ((aw >>> (b.toNat % 32)).signExtend 64)) ∧
    exec (.sraw rs2 rs1 rd) s = .next (s.wrote rd ((aw.sshiftRight (b.toNat % 32)).signExtend 64)) ∧
    exec (.mul rs2 rs1 rd) s = .next (s.wrote rd (BitVec.ofInt 64 (a.toInt * b.toInt))) ∧
    exec (.mulh rs2 rs1 rd) s = .next (s.wrote rd (BitVec.ofInt 64 (a.toInt * b.toInt / 2 ^ 64))) ∧
    exec (.mulhsu rs2 rs1 rd) s = .next (s.wrote rd (BitVec.ofInt 64 (a.toInt * b.toNat / 2 ^ 64))) ∧
    exec (.mulhu rs2 rs1 rd) s = .next (s.wrote rd (BitVec.ofNat 64 (a.toNat * b.toNat / 2 ^ 64))) ∧
    exec (.mulw rs2 rs1 rd) s = .next (s.wrote rd ((aw * bw).signExtend 64)))

/-- A divide takes a claim of class 3 for rd (none for x0), leaves its result with the long-operation unit and moves on; the unit fills after 36 cycles,
20 for a word form, and up to 64 cycles later for each vector long operation ahead, how much being a free value (log 3). Pend of R7: x0 takes no
claim; another destination becomes PENDING with a claim of the class, unless the table is full. A divide that has been in the long-operation unit for
its time fills its claim with its result and leaves the unit (R114, R115). -/
def Obligations.Divides : Prop :=
  (∀ (s u : State) (c : Option Nat) (rs2 rs1 rd : BitVec 5),
    s.noRepeat → s.readable .x rs1.toNat → s.readable .x rs2.toNat → s.writable .x rd.toNat → s.pend .x rd.toNat 3 false = some (u, c) →
    let a := s.xv rs1
    let b := s.xv rs2
    let aw := a.setWidth 32
    let bw := b.setWidth 32
    let n := 64 * u.here.vecs.length
    let out (cycles : Nat) (q : Word) : State := (u.useFree.bump.modHere (fun k => { k with divs := k.divs ++
      [{ id := u.nextId, claim := c, result := q, due := u.here.cycle + cycles + u.freshWord.toNat % (n + 1), late := u.here.cycle + cycles + n }] })).goneTo (s.me.pc + 4)
    exec (.div rs2 rs1 rd) s = .next (out 36 (if b = 0 then BitVec.allOnes 64 else a.sdiv b)) ∧
    exec (.divu rs2 rs1 rd) s = .next (out 36 (if b = 0 then BitVec.allOnes 64 else BitVec.ofNat 64 (a.toNat / b.toNat))) ∧
    exec (.rem rs2 rs1 rd) s = .next (out 36 (if b = 0 then a else a.srem b)) ∧
    exec (.remu rs2 rs1 rd) s = .next (out 36 (if b = 0 then a else BitVec.ofNat 64 (a.toNat % b.toNat))) ∧
    exec (.divw rs2 rs1 rd) s = .next (out 20 ((if bw = 0 then BitVec.allOnes 32 else aw.sdiv bw).signExtend 64)) ∧
    exec (.divuw rs2 rs1 rd) s = .next (out 20 ((if bw = 0 then BitVec.allOnes 32 else BitVec.ofNat 32 (aw.toNat / bw.toNat)).signExtend 64)) ∧
    exec (.remw rs2 rs1 rd) s = .next (out 20 ((if bw = 0 then aw else aw.srem bw).signExtend 64)) ∧
    exec (.remuw rs2 rs1 rd) s = .next (out 20 ((if bw = 0 then aw else BitVec.ofNat 32 (aw.toNat % bw.toNat)).signExtend 64))) ∧
  ((∀ (s : State) (cls : BitVec 4) (k : Bool), s.pend .x 0 cls k = some (s, none)) ∧
  (∀ (s : State) (f : RFile) (n : Nat) (cls : BitVec 4) (k : Bool), ¬(f = .x ∧ n = 0) → s.here.freeClaims = [] → s.pend f n cls k = none) ∧
  ∀ (s : State) (f : RFile) (n : Nat) (cls : BitVec 4) (k : Bool), ¬(f = .x ∧ n = 0) → s.here.freeClaims ≠ [] →
    ∃ t i, s.pend f n cls k = some (t, some i) ∧ i ∈ s.here.freeClaims ∧ t.me.regSt f n = .pending ∧
      nget t.here.claims i = some { target := .slot, cls := cls, cancellable := k, slot := s.curSlot, file := f, reg := n, watch := 0, lost := false } ∧
      ∀ j, j ≠ i → nget t.here.claims j = nget s.here.claims j) ∧
  (∀ (s : State) (c id : Nat) (d : DivOp), (s.core c).divs.find? (fun d => d.id == id && d.due ≤ (s.core c).cycle) = some d →
    ∃ t, exec (.divideComplete c id) s = .next t ∧ (∀ e ∈ (t.core c).divs, e.id ≠ id) ∧
      (∀ i, d.claim = some i → (t.core c).deliveries = (s.core c).deliveries ++ [⟨i, (s.core c).cycle, .value (d.result.setWidth 2048)⟩]) ∧
      (d.claim = none → (t.core c).deliveries = (s.core c).deliveries))

/-- Jumps link and go to an aligned target; a branch goes to its aligned target when its condition holds, else past itself. A taken target that is no
multiple of four traps with cause 0 and the target, rd unwritten (R116). ECALL traps with cause 8 and value 0, EBREAK with cause 3 and the address of
the EBREAK (R118). -/
def Obligations.JumpsAndEnvironmentCalls : Prop :=
  ((∀ (s : State) (imm : BitVec 20) (rd : BitVec 5), s.noRepeat → s.writable .x rd.toNat →
    (s.me.pc + immJ imm).toNat % 4 = 0 → exec (.jal imm rd) s = .next ((s.setX rd (s.me.pc + 4)).goneTo (s.me.pc + immJ imm))) ∧
  (∀ (s : State) (imm : BitVec 12) (rs1 rd : BitVec 5), s.noRepeat → s.readable .x rs1.toNat → s.writable .x rd.toNat →
    ((s.xv rs1 + imm.signExtend 64) &&& ~~~1).toNat % 4 = 0 →
    exec (.jalr imm rs1 rd) s = .next ((s.setX rd (s.me.pc + 4)).goneTo ((s.xv rs1 + imm.signExtend 64) &&& ~~~1))) ∧
  ∀ (s : State) (hi : BitVec 7) (rs2 rs1 lo : BitVec 5), s.noRepeat → s.readable .x rs1.toNat → s.readable .x rs2.toNat →
    let a := s.xv rs1
    let b := s.xv rs2
    let goes (i : Instr) (taken : Prop) : Prop :=
      (taken → (s.me.pc + immB hi lo).toNat % 4 = 0 → exec i s = .next (s.goneTo (s.me.pc + immB hi lo))) ∧
      (¬taken → exec i s = .next (s.goneTo (s.me.pc + 4)))
    goes (.beq hi rs2 rs1 lo) (a = b) ∧ goes (.bne hi rs2 rs1 lo) (a ≠ b) ∧ goes (.blt hi rs2 rs1 lo) (a.toInt < b.toInt) ∧
    goes (.bge hi rs2 rs1 lo) (b.toInt ≤ a.toInt) ∧ goes (.bltu hi rs2 rs1 lo) (a.toNat < b.toNat) ∧ goes (.bgeu hi rs2 rs1 lo) (b.toNat ≤ a.toNat)) ∧
  ((∀ (s : State) (imm : BitVec 20) (rd : BitVec 5), s.noRepeat → s.writable .x rd.toNat →
    (s.me.pc + immJ imm).toNat % 4 ≠ 0 → exec (.jal imm rd) s = .next (s.trap 0 (s.me.pc + immJ imm))) ∧
  (∀ (s : State) (imm : BitVec 12) (rs1 rd : BitVec 5), s.noRepeat → s.readable .x rs1.toNat → s.writable .x rd.toNat →
    ((s.xv rs1 + imm.signExtend 64) &&& ~~~1).toNat % 4 ≠ 0 →
    exec (.jalr imm rs1 rd) s = .next (s.trap 0 ((s.xv rs1 + imm.signExtend 64) &&& ~~~1))) ∧
  ∀ (s : State) (hi : BitVec 7) (rs2 rs1 lo : BitVec 5), s.noRepeat → s.readable .x rs1.toNat → s.readable .x rs2.toNat →
    (s.me.pc + immB hi lo).toNat % 4 ≠ 0 →
    let a := s.xv rs1
    let b := s.xv rs2
    let t := s.trap 0 (s.me.pc + immB hi lo)
    (a = b → exec (.beq hi rs2 rs1 lo) s = .next t) ∧ (a ≠ b → exec (.bne hi rs2 rs1 lo) s = .next t) ∧
    (a.toInt < b.toInt → exec (.blt hi rs2 rs1 lo) s = .next t) ∧ (b.toInt ≤ a.toInt → exec (.bge hi rs2 rs1 lo) s = .next t) ∧
    (a.toNat < b.toNat → exec (.bltu hi rs2 rs1 lo) s = .next t) ∧ (b.toNat ≤ a.toNat → exec (.bgeu hi rs2 rs1 lo) s = .next t)) ∧
  (∀ s : State, s.noRepeat → exec .ecall s = .next (s.trap 8 0) ∧ exec .ebreak s = .next (s.trap 3 s.me.pc))

/-- A trap latches its cause, its value and the pc, and freezes the slot at that pc with its registers as they were and its bank locks free (R346); in the
K-role slot its escalation may go on to halt the frozen slot (R352, R353). -/
def Obligations.TrapLatches : Prop :=
  ∀ (s : State) (cause : Nat) (tval : Word),
    let t := (s.trap cause tval).slot s.curCore s.curSlot
    t.tcause = wd cause ∧ t.tval = tval ∧ t.tpc = s.me.pc ∧ t.pc = s.me.pc ∧
    (t.state = .frozen ∨ s.me.role = .k ∧ t.state = .halted ∧ t.before = .frozen) ∧
    s.me.sameRegs t ∧ (∀ n, t.xr n = s.me.xr n) ∧
    ∀ b l, nget ((s.trap cause tval).core s.curCore).locks b = some l → l.slot ≠ s.curSlot

/-! ## Loads, stores, atomics, ordering and cache control (R64, R117, R124 to R141, R151 to R166) -/

/-- A load from local store writes its bytes, sign- or zero-extended, to rd and moves on (R117, R127). A store to local store writes the low bytes of rs2,
the lowest at the lowest address, and moves on (R2, R117). Frame of the local stores: no register of any file, no claim, no buffered store and no L1
line changes, and no byte of any memory but those stored to, at rs1 + immediate. -/
def Obligations.LocalLoadsAndStores : Prop :=
  (∀ (s : State) (imm : BitVec 12) (rs1 rd : BitVec 5), s.noRepeat → s.readable .x rs1.toNat → s.writable .x rd.toNat →
    let ea := s.xv rs1 + imm.signExtend 64
    let b := memRead s.here.ls ea.toNat
    (s.localPasses true false ea 1 → exec (.lb imm rs1 rd) s = .next (s.wrote rd ((BitVec.ofNat 8 (b 1)).signExtend 64)) ∧
      exec (.lbu imm rs1 rd) s = .next (s.wrote rd (BitVec.ofNat 64 (b 1)))) ∧
    (s.localPasses true false ea 2 → exec (.lh imm rs1 rd) s = .next (s.wrote rd ((BitVec.ofNat 16 (b 2)).signExtend 64)) ∧
      exec (.lhu imm rs1 rd) s = .next (s.wrote rd (BitVec.ofNat 64 (b 2)))) ∧
    (s.localPasses true false ea 4 → exec (.lw imm rs1 rd) s = .next (s.wrote rd ((BitVec.ofNat 32 (b 4)).signExtend 64)) ∧
      exec (.lwu imm rs1 rd) s = .next (s.wrote rd (BitVec.ofNat 64 (b 4)))) ∧
    (s.localPasses true false ea 8 → exec (.ld imm rs1 rd) s = .next (s.wrote rd (BitVec.ofNat 64 (b 8))))) ∧
  (∀ (s : State) (hi : BitVec 7) (rs2 rs1 lo : BitVec 5), s.noRepeat → s.readable .x rs1.toNat → s.readable .x rs2.toNat →
    let ea := s.xv rs1 + (hi ++ lo).signExtend 64
    let out (n : Nat) : State := (s.modHere (fun k => { k with ls := memWrite k.ls ea.toNat n (s.xv rs2).toNat })).goneTo (s.me.pc + 4)
    (s.localPasses false true ea 1 → exec (.sb hi rs2 rs1 lo) s = .next (out 1)) ∧
    (s.localPasses false true ea 2 → exec (.sh hi rs2 rs1 lo) s = .next (out 2)) ∧
    (s.localPasses false true ea 4 → exec (.sw hi rs2 rs1 lo) s = .next (out 4)) ∧
    (s.localPasses false true ea 8 → exec (.sd hi rs2 rs1 lo) s = .next (out 8))) ∧
  (∀ (s t : State) (i : Instr) (n : Nat) (hi : BitVec 7) (rs2 rs1 lo : BitVec 5),
    (i, n) ∈ [(Instr.sb hi rs2 rs1 lo, 1), (.sh hi rs2 rs1 lo, 2), (.sw hi rs2 rs1 lo, 4), (.sd hi rs2 rs1 lo, 8)] →
    s.noRepeat → s.readable .x rs1.toNat → s.readable .x rs2.toNat → s.localPasses false true (s.xv rs1 + (hi ++ lo).signExtend 64) n →
    exec i s = .next t →
    s.me.sameBut t.me [] ∧ s.here.sameRegs t.here ∧ s.here.sameWork t.here ∧
    (∀ pa, t.physRead pa 1 = s.physRead pa 1) ∧
    (∀ a, a < (s.xv rs1 + (hi ++ lo).signExtend 64).toNat ∨ (s.xv rs1 + (hi ++ lo).signExtend 64).toNat + n ≤ a → memGet t.here.ls a = memGet s.here.ls a) ∧
    ∀ c, c ≠ s.curCore → t.core c = s.core c)

/-- An AMO on local store writes the old value, sign-extended, to rd and the new value to memory, on 32 or 64 bits (R131); aq drops remote lines and rl,
with nothing left to wait for, ends the scope check of an earlier fence (R160). Acquires and releases of local store: a load that drops remote lines
from region scope on (R157), and a store once nothing earlier is left to be performed at the scope (R158). -/
def Obligations.LocalAtomicAccesses : Prop :=
  (∀ (s : State) (aq rl : BitVec 1) (rs2 rs1 rd : BitVec 5), s.noRepeat → s.readable .x rs1.toNat → s.readable .x rs2.toNat → s.writable .x rd.toNat →
    (rl = 1 → s.releaseFree ∧ s.releaseWaits 3 = []) →
    let a := (s.xv rs1).toNat
    let u : State := if rl = 1 then s.modMe (fun t => { t with missScope := none }) else s
    let u : State := if aq = 1 then u.dropRemote u.curCore else u
    let old := BitVec.ofNat 64 (memRead s.here.ls a 8)
    let b := s.xv rs2
    let oldw := BitVec.ofNat 32 (memRead s.here.ls a 4)
    let bw := b.setWidth 32
    let out (n : Nat) (v old : Word) : State := ((u.modHere (fun k => { k with ls := memWrite k.ls a n v.toNat })).setX rd old).goneTo (s.me.pc + 4)
    (s.localPasses true true (s.xv rs1) 8 →
      exec (.amoswap aq rl rs2 rs1 1 rd) s = .next (out 8 b old) ∧ exec (.amoadd aq rl rs2 rs1 1 rd) s = .next (out 8 (old + b) old) ∧
      exec (.amoxor aq rl rs2 rs1 1 rd) s = .next (out 8 (old ^^^ b) old) ∧ exec (.amoand aq rl rs2 rs1 1 rd) s = .next (out 8 (old &&& b) old) ∧
      exec (.amoor aq rl rs2 rs1 1 rd) s = .next (out 8 (old ||| b) old) ∧
      exec (.amomin aq rl rs2 rs1 1 rd) s = .next (out 8 (if old.slt b then old else b) old) ∧
      exec (.amomax aq rl rs2 rs1 1 rd) s = .next (out 8 (if old.slt b then b else old) old) ∧
      exec (.amominu aq rl rs2 rs1 1 rd) s = .next (out 8 (if old.ult b then old else b) old) ∧
      exec (.amomaxu aq rl rs2 rs1 1 rd) s = .next (out 8 (if old.ult b then b else old) old)) ∧
    (s.localPasses true true (s.xv rs1) 4 →
      let outw (v : BitVec 32) : State := out 4 (v.setWidth 64) (oldw.signExtend 64)
      exec (.amoswap aq rl rs2 rs1 0 rd) s = .next (outw bw) ∧ exec (.amoadd aq rl rs2 rs1 0 rd) s = .next (outw (oldw + bw)) ∧
      exec (.amoxor aq rl rs2 rs1 0 rd) s = .next (outw (oldw ^^^ bw)) ∧ exec (.amoand aq rl rs2 rs1 0 rd) s = .next (outw (oldw &&& bw)) ∧
      exec (.amoor aq rl rs2 rs1 0 rd) s = .next (outw (oldw ||| bw)) ∧
      exec (.amomin aq rl rs2 rs1 0 rd) s = .next (outw (if oldw.slt bw then oldw else bw)) ∧
      exec (.amomax aq rl rs2 rs1 0 rd) s = .next (outw (if oldw.slt bw then bw else oldw)) ∧
      exec (.amominu aq rl rs2 rs1 0 rd) s = .next (outw (if oldw.ult bw then oldw else bw)) ∧
      exec (.amomaxu aq rl rs2 rs1 0 rd) s = .next (outw (if oldw.ult bw then bw else oldw)))) ∧
  (∀ (s : State) (sc : BitVec 4) (scope : Nat) (rs2 rs1 rd : BitVec 5), s.noRepeat → s.readable .x rs1.toNat → s.resolveScope sc = some scope →
    let a := (s.xv rs1).toNat
    (s.writable .x rd.toNat →
      let u : State := if 2 ≤ scope then s.dropRemote s.curCore else s
      (s.localPasses true false (s.xv rs1) 8 →
        exec (.lacq sc rs1 rd) s = .next ((u.setX rd (BitVec.ofNat 64 (memRead s.here.ls a 8))).goneTo (s.me.pc + 4))) ∧
      (s.localPasses true false (s.xv rs1) 4 →
        exec (.lacqw sc rs1 rd) s = .next ((u.setX rd ((BitVec.ofNat 32 (memRead s.here.ls a 4)).signExtend 64)).goneTo (s.me.pc + 4)))) ∧
    (s.readable .x rs2.toNat → s.releaseFree → s.releaseWaits scope = [] →
      let u := s.modMe (fun t => { t with missScope := none })
      let out (n : Nat) : State := (u.modHere (fun k => { k with ls := memWrite k.ls a n (s.xv rs2).toNat })).goneTo (s.me.pc + 4)
      (s.localPasses false true (s.xv rs1) 8 → exec (.srel sc rs2 rs1) s = .next (out 8)) ∧
      (s.localPasses false true (s.xv rs1) 4 → exec (.srelw sc rs2 rs1) s = .next (out 4))))

/-- A global load, LR or AMO that meets no earlier access of its slot becomes a future: rd is pending with a claim of class 1, and the request leaves for
the physical address that the range gives (R117, R127, R132, R133, R177). A global store enters the store buffer, the youngest entry, and stores
nothing yet; a store-conditional does too, with a claim of class 1 for rd (R117, R129, R133, R151). A load or acquire of global memory or, by the
K-role slot, of a thread window, whatever goes before it. With every byte in buffered stores, or its line in the L1 and nothing of the core to these
bytes under way, it is answered at once, 10 cycles on (16 from a slice of a fused site). Else its request leaves, or is held at the port until what
comes first is done. An acquire of region scope or wider drops the remote lines first, and what the slot does from then on comes after it, and after
the stores that it has read in the buffer (R23, R94, R127 to R129, R134, R137, R151, R155, R157, R351, R355; what a slot reads in the buffer and the
L1's part are log 61). A store or release to global memory or, by the K-role slot, to a thread window enters the store buffer while it has room; a
release takes with it what it waits for and the scope that it checks, and ends the scope check of an earlier fence (R23, R129, R151, R158, R163,
R166). An LR, SC or AMO of global memory with any aq and rl, whatever goes before it. aq drops the remote lines at once and again when it is
performed, and what the slot does from then on comes after it; rl makes it wait for what a release at module scope waits for. An LR or AMO comes after
every access of its slot to its bytes and after the core's stores to them; an SC goes through the store buffer (R94, R132, R133, R149, R151, R155,
R160; the core's stores are log 61). -/
def Obligations.GlobalAccesses : Prop :=
  (∀ (s u : State) (c : Option Nat) (e : RangeEntry) (imm : BitVec 12) (dbl : BitVec 1) (rs2 rs1 rd : BitVec 5),
    s.noRepeat → s.readable .x rs1.toNat → s.writable .x rd.toNat →
    (s.modHere (fun k => k.useRange e)).pend .x rd.toNat 1 false = some (u, c) →
    (∀ lo n, s.meets lo n = []) → s.here.sb = [] → s.me.acquires = [] → s.me.fences = [] → (∀ l, s.l1Line s.curCore l = none) →
    let out (ea : Word) (kind : AccKind) (n : Nat) (op : MemOp) (miss : Bool) : State :=
      let pa := rangePA e.slot ea.toNat
      let v := u.bump
      let v := if miss then v.count s.curCore 7 else v
      let v := v.addAccess u.nextId kind false (.phys pa) n ea.toNat true
      (v.inject .request (.core s.curCore) (siteOf s.curCore) (s.site (siteOf s.curCore)).part (.phys pa)
        (.mem { acc := u.nextId, slot := s.curSlot, epoch := s.me.epoch, op := op, target := .phys pa, attr := e.slot.attr, claim := c })).goneTo (s.me.pc + 4)
    let ea := s.xv rs1 + imm.signExtend 64
    let reads (n : Nat) (sx : Bool) (i : Instr) : Prop := s.globalPasses true false .r e ea n → exec i s = .next (out ea .r n (.load n sx) true)
    let n := if dbl = 1 then 8 else 4
    let amo (fn : Nat) (i : Instr) : Prop := s.readable .x rs2.toNat → s.globalPasses true true .amo e (s.xv rs1) n →
      exec i s = .next (out (s.xv rs1) .a n (.amo fn (dbl == 1#1) (s.xv rs2)) false)
    reads 1 true (.lb imm rs1 rd) ∧ reads 2 true (.lh imm rs1 rd) ∧ reads 4 true (.lw imm rs1 rd) ∧ reads 8 true (.ld imm rs1 rd) ∧
    reads 1 false (.lbu imm rs1 rd) ∧ reads 2 false (.lhu imm rs1 rd) ∧ reads 4 false (.lwu imm rs1 rd) ∧
    (s.globalPasses true false .amo e (s.xv rs1) n → exec (.lr 0 0 rs1 dbl rd) s = .next (out (s.xv rs1) .r n (.lr (dbl == 1#1)) false)) ∧
    amo 0b00001 (.amoswap 0 0 rs2 rs1 dbl rd) ∧ amo 0b00000 (.amoadd 0 0 rs2 rs1 dbl rd) ∧ amo 0b00100 (.amoxor 0 0 rs2 rs1 dbl rd) ∧
    amo 0b01100 (.amoand 0 0 rs2 rs1 dbl rd) ∧ amo 0b01000 (.amoor 0 0 rs2 rs1 dbl rd) ∧ amo 0b10000 (.amomin 0 0 rs2 rs1 dbl rd) ∧
    amo 0b10100 (.amomax 0 0 rs2 rs1 dbl rd) ∧ amo 0b11000 (.amominu 0 0 rs2 rs1 dbl rd) ∧ amo 0b11100 (.amomaxu 0 0 rs2 rs1 dbl rd)) ∧
  (∀ (s : State) (e : RangeEntry) (hi : BitVec 7) (dbl : BitVec 1) (rs2 rs1 lo : BitVec 5), s.noRepeat → s.readable .x rs1.toNat → s.readable .x rs2.toNat →
    (s.here.sb.filter (fun x => !x.sent)).length < 64 →
    let pa (ea : Word) := rangePA e.slot ea.toNat
    let s' := s.modHere (fun k => k.useRange e)
    let out (ea : Word) (op : MemOp) : State := (storeGlobal s' (.phys (pa ea)) ea.toNat op e.slot.attr none [] none).goneTo (s.me.pc + 4)
    let ea := s.xv rs1 + (hi ++ lo).signExtend 64
    (s.globalPasses false true .w e ea 1 → exec (.sb hi rs2 rs1 lo) s = .next (out ea (.store 1 (s.xv rs2)))) ∧
    (s.globalPasses false true .w e ea 2 → exec (.sh hi rs2 rs1 lo) s = .next (out ea (.store 2 (s.xv rs2)))) ∧
    (s.globalPasses false true .w e ea 4 → exec (.sw hi rs2 rs1 lo) s = .next (out ea (.store 4 (s.xv rs2)))) ∧
    (s.globalPasses false true .w e ea 8 → exec (.sd hi rs2 rs1 lo) s = .next (out ea (.store 8 (s.xv rs2)))) ∧
    (∀ (u : State) (c : Option Nat) (rd : BitVec 5), s.globalPasses false true .amo e (s.xv rs1) (if dbl = 1 then 8 else 4) → s.writable .x rd.toNat →
      s'.pend .x rd.toNat 1 false = some (u, c) →
      exec (.sc 0 0 rs2 rs1 dbl rd) s =
        .next ((storeGlobal u (.phys (pa (s.xv rs1))) (s.xv rs1).toNat (.sc (dbl == 1#1) (s.xv rs2)) e.slot.attr c [] none).goneTo (s.me.pc + 4))) ∧
    ∀ (u : State) (t : MemTarget) (va : Nat) (op : MemOp) (attr : MemAttr) (c : Option Nat) (w : List Nat) (chk : Option (Nat × Bool)),
      let t' := storeGlobal u t va op attr c w chk
      let isSc : Bool := match op with | .sc .. => true | _ => false
      t'.dram = u.dram ∧ t'.here.ls = u.here.ls ∧ ∃ x, t'.here.sb = u.here.sb ++ [x] ∧ x.sent = false ∧
        x.req = { acc := u.nextId, slot := u.curSlot, epoch := u.me.epoch, op := op, target := t, attr := attr, claim := c } ∧
        x.waits = w ++ u.orderWaits 2 ++ ((u.meets t.lo op.size).filter (fun a => a.kind == .r || a.kind == .a)).map (·.id) ∧
        x.after = (if isSc then u.fillsBefore t.lo op.size else []) ∧ x.check = (match chk with | some y => some y | none => u.me.missScope.map (fun sc => (sc, true)))) ∧
  (∀ (s u : State) (claim : Option Nat) (imm : BitVec 12) (sc : BitVec 4) (scope : Nat) (rs1 rd : BitVec 5), s.noRepeat → s.readable .x rs1.toNat →
    s.writable .x rd.toNat → s.resolveScope sc = some scope →
    let la := s.xv rs1 + imm.signExtend 64
    let loads : List (Instr × Word × Nat × Bool × Option Nat) := [(.lb imm rs1 rd, la, 1, true, none), (.lh imm rs1 rd, la, 2, true, none),
      (.lw imm rs1 rd, la, 4, true, none), (.ld imm rs1 rd, la, 8, true, none), (.lbu imm rs1 rd, la, 1, false, none), (.lhu imm rs1 rd, la, 2, false, none),
      (.lwu imm rs1 rd, la, 4, false, none), (.lacq sc rs1 rd, s.xv rs1, 8, true, some scope), (.lacqw sc rs1 rd, s.xv rs1, 4, true, some scope)]
    ∀ (i : Instr) (ea : Word) (n : Nat) (sx : Bool) (acq : Option Nat) (t : MemTarget) (attr : MemAttr), (i, ea, n, sx, acq) ∈ loads →
    ((∃ e, s.globalPasses true false .r e ea n ∧ t = .phys (rangePA e.slot ea.toNat) ∧ attr = e.slot.attr ∧
        (s.modHere (fun k => k.useRange e)).pend .x rd.toNat 1 false = some (u, claim)) ∨
      (s.windowPasses true false ea n ∧ t = .window ea.toNat ∧ attr = .none ∧ s.pend .x rd.toNat 1 false = some (u, claim))) →
    let wide : Bool := acq.any (fun sc => 2 ≤ sc)
    let v := (if wide = true then u.dropRemote u.curCore else u).bump
    let c := v.curCore
    let first := v.orderWaits 3
    let fills := v.fillsBefore t.lo n
    let plan := v.here.loadPlan v.curSlot u.nextId t.lo n
    let gone (w : State) : State := (match t with | .window a => w.ackHandler a | _ => w).goneTo (s.me.pc + 4)
    let answered (w : State) (late x : Nat) : State := gone (w.deliverAt c claim (v.here.cycle + late) (fillW (extendLoad x n sx)))
    let inL1 (pa : Nat) (y : L1Line) : Prop := t = .phys pa ∧ plan = .home ∧ first = [] ∧ v.meets t.lo n = [] ∧ v.here.sentMeets t.lo n = false ∧
      lineOf (pa + n - 1) = lineOf pa ∧ v.l1Line c (lineOf pa) = some y
    (∀ x l, plan = .forward x l → first = [] → fills = [] →
      exec i s = .next (answered (v.modHere (fun k => k.sees c v.curSlot v.me.epoch l (fun _ => acq.isSome))) 10 x)) ∧
    (∀ pa y, inL1 pa y → exec i s = .next (answered { ((v.modCore (v.l1Core c (lineOf pa)) (fun k => { k with l1 := nput k.l1 (lineOf pa) { y with used := v.useCtr } })).count c 6)
      with useCtr := v.useCtr + 1 } (if v.fused c = true then 16 else 10) (fieldOf y.data.toNat (8 * (pa % 128)) (8 * n)))) ∧
    (¬((∃ x l, plan = .forward x l) ∧ first = [] ∧ fills = []) → (¬∃ pa y, inL1 pa y) →
      let isPhys : Bool := match t with | .phys _ => true | _ => false
      let waits := first ++ (match plan with | .wait l => l | _ => [])
      let body : Body := .mem { acc := u.nextId, slot := v.curSlot, epoch := v.me.epoch, op := .load n sx, target := t, attr := attr, claim := claim }
      let w := (if isPhys = true then v.count c 7 else v).addAccess u.nextId .r false t n ea.toNat isPhys wide
      let w := if acq.isSome = true then w.modMe (fun m => { m with acquires := m.acquires ++ [u.nextId] }) else w
      exec i s = .next (gone (if waits = [] ∧ fills = [] then w.inject .request (.core c) (siteOf c) (s.site (siteOf c)).part t.dest body
        else { w with held := w.held ++ [{ core := c, acc := u.nextId, waits := waits, after := fills, body := body, dest := t.dest }] })))) ∧
  (∀ (s : State) (hi : BitVec 7) (sc : BitVec 4) (scope : Nat) (rs2 rs1 lo : BitVec 5), s.noRepeat → s.readable .x rs1.toNat → s.readable .x rs2.toNat →
    s.resolveScope sc = some scope → (s.here.sb.filter (fun x => !x.sent)).length < 64 →
    let sa := s.xv rs1 + (hi ++ lo).signExtend 64
    ∀ (i : Instr) (ea : Word) (n : Nat) (rel : Option Nat), (i, ea, n, rel) ∈
      [(Instr.sb hi rs2 rs1 lo, sa, 1, none), (.sh hi rs2 rs1 lo, sa, 2, none), (.sw hi rs2 rs1 lo, sa, 4, none), (.sd hi rs2 rs1 lo, sa, 8, none),
       (.srel sc rs2 rs1, s.xv rs1, 8, some scope), (.srelw sc rs2 rs1, s.xv rs1, 4, some scope)] →
    (rel.isSome = true → s.releaseFree) →
    let out (u : State) (t : MemTarget) (attr : MemAttr) : State :=
      let u := if rel.isSome = true then u.modMe (fun m => { m with missScope := none }) else u
      (storeGlobal u t ea.toNat (.store n (s.xv rs2)) attr none (match rel with | some x => s.releaseWaits x | none => []) (rel.map (fun x => (x, false)))).goneTo (s.me.pc + 4)
    (∀ e, s.globalPasses false true .w e ea n → exec i s = .next (out (s.modHere (fun k => k.useRange e)) (.phys (rangePA e.slot ea.toNat)) e.slot.attr)) ∧
    (s.windowPasses false true ea n → exec i s = .next (out s (.window ea.toNat) .none))) ∧
  (∀ (s u : State) (claim : Option Nat) (e : RangeEntry) (aq rl dbl : BitVec 1) (rs2 rs1 rd : BitVec 5), s.noRepeat → s.readable .x rs1.toNat →
    s.writable .x rd.toNat → (s.modHere (fun k => k.useRange e)).pend .x rd.toNat 1 false = some (u, claim) →
    let a := s.xv rs1
    let pa := rangePA e.slot a.toNat
    let n := if dbl = 1 then 8 else 4
    let v := (if aq = 1 then u.dropRemote u.curCore else u).bump
    let c := v.curCore
    let out (op : MemOp) (kind : AccKind) (rel : Bool) : State :=
      let waits := v.orderWaits (kindBit kind) ++ (if rel = true then v.releaseWaits 3 else []) ++ ((v.meets pa n).map (·.id)).filter v.here.outstanding ++ v.here.storesMeet pa n
      let fills := v.fillsBefore pa n
      let body : Body := .mem { acc := u.nextId, slot := v.curSlot, epoch := v.me.epoch, op := op, target := .phys pa, attr := e.slot.attr, claim := claim }
      let w := (if rel = true then v.modMe (fun t => { t with missScope := none }) else v).addAccess u.nextId kind false (.phys pa) n a.toNat true (aq == 1#1)
      let w := if aq = 1 then w.modMe (fun t => { t with acquires := t.acquires ++ [u.nextId] }) else w
      (if waits = [] ∧ fills = [] then w.inject .request (.core c) (siteOf c) (s.site (siteOf c)).part (.phys pa) body
        else { w with held := w.held ++ [{ core := c, acc := u.nextId, waits := waits, after := fills, body := body, dest := .phys pa }] }).goneTo (s.me.pc + 4)
    (s.globalPasses true false .amo e a n → exec (.lr aq rl rs1 dbl rd) s = .next (out (.lr (dbl == 1#1)) .r false)) ∧
    (s.readable .x rs2.toNat → (rl = 1 → s.releaseFree) →
      let amo (fn : Nat) (i : Instr) : Prop := exec i s = .next (out (.amo fn (dbl == 1#1) (s.xv rs2)) .a (rl == 1#1))
      (s.globalPasses true true .amo e a n →
        amo 0b00001 (.amoswap aq rl rs2 rs1 dbl rd) ∧ amo 0b00000 (.amoadd aq rl rs2 rs1 dbl rd) ∧ amo 0b00100 (.amoxor aq rl rs2 rs1 dbl rd) ∧
        amo 0b01100 (.amoand aq rl rs2 rs1 dbl rd) ∧ amo 0b01000 (.amoor aq rl rs2 rs1 dbl rd) ∧ amo 0b10000 (.amomin aq rl rs2 rs1 dbl rd) ∧
        amo 0b10100 (.amomax aq rl rs2 rs1 dbl rd) ∧ amo 0b11000 (.amominu aq rl rs2 rs1 dbl rd) ∧ amo 0b11100 (.amomaxu aq rl rs2 rs1 dbl rd)) ∧
      (s.globalPasses false true .amo e a n → (s.here.sb.filter (fun x => !x.sent)).length < 64 →
        exec (.sc aq rl rs2 rs1 dbl rd) s = .next ((storeGlobal u (.phys pa) a.toNat (.sc (dbl == 1#1) (s.xv rs2)) e.slot.attr claim
          (if rl = 1 then u.releaseWaits 3 else []) none).goneTo (s.me.pc + 4)))))

/-- A load or store at a misaligned address traps with cause 4 or 6, one above the address space with cause 5 or 7, and one of an ENGINE-owned plot with
cause 27 and the first such byte (R125, R196). A scalar access to translated space that misses the range table parks on the walker; the outcome of a
walk that failed, or an entry that does not admit the access, traps with cause 13 for a load and 15 for a store or atomic, and wl.rfinfo says why
(reason, process, slot); a segment that is not resident is walked for afresh once, then traps with cause 28 and the segment. An instruction fetch
traps with cause 12. An access of the thread window by another role than K, an atomic of any role to it, and an LR or SC of local store, trap with
cause 5 or 7 (R21, R23, R132, R133, R176, R177, R180; how long a walk afresh is remembered and which walk a miss joins are log 62). -/
def Obligations.AccessTraps : Prop :=
  (∀ (s : State) (imm : BitVec 12) (hi : BitVec 7) (rs2 rs1 lo rd : BitVec 5), s.noRepeat → s.readable .x rs1.toNat →
    let la := s.xv rs1 + imm.signExtend 64
    let sa := s.xv rs1 + (hi ++ lo).signExtend 64
    let loads : List (Instr × Nat) := [(.lb imm rs1 rd, 1), (.lh imm rs1 rd, 2), (.lw imm rs1 rd, 4), (.ld imm rs1 rd, 8), (.lbu imm rs1 rd, 1), (.lhu imm rs1 rd, 2),
      (.lwu imm rs1 rd, 4)]
    let stores : List (Instr × Nat) := [(.sb hi rs2 rs1 lo, 1), (.sh hi rs2 rs1 lo, 2), (.sw hi rs2 rs1 lo, 4), (.sd hi rs2 rs1 lo, 8)]
    (s.writable .x rd.toNat → ∀ p ∈ loads,
      (2 ^ 48 ≤ la.toNat → exec p.1 s = .next (s.trap 5 la)) ∧
      (la.toNat < 2 ^ 48 → la.toNat % p.2 ≠ 0 → exec p.1 s = .next (s.trap 4 la)) ∧
      (la.toNat < 2 ^ 20 → la.toNat % p.2 = 0 → s.watchHit true false la.toNat p.2 = none → s.here.engineOwned la.toNat = true →
        exec p.1 s = .next (s.trap 27 la))) ∧
    (s.readable .x rs2.toNat → ∀ p ∈ stores,
      (2 ^ 48 ≤ sa.toNat → exec p.1 s = .next (s.trap 7 sa)) ∧
      (sa.toNat < 2 ^ 48 → sa.toNat % p.2 ≠ 0 → exec p.1 s = .next (s.trap 6 sa)) ∧
      (sa.toNat < 2 ^ 20 → sa.toNat % p.2 = 0 → s.watchHit false true sa.toNat p.2 = none → s.here.engineOwned sa.toNat = true →
        exec p.1 s = .next (s.trap 27 sa)))) ∧
  (∀ (s : State) (imm : BitVec 12) (hi : BitVec 7) (sc : BitVec 4) (aq rl dbl : BitVec 1) (rs2 rs1 lo rd : BitVec 5),
    let latched (r p i : Nat) : State :=
      s.modMe (fun t => { t with rfinfo := BitVec.ofNat 64 (r * 2 ^ 60 + p * 2 ^ 48 + (if r = 1 ∨ r = 5 ∨ r = 7 then 0 else i) * 2 ^ 32) })
    let p := wf s.here.rdir 52 12
    let walks (w : State × Nat) (ea : Word) (afresh : Bool) : State :=
      (w.1.modMe (fun t => { t with state := .parked, park := some (.walker w.2 ea), parkCount := 0, rewalked := if afresh then some ea else t.rewalked })).bubble
    let faults (ea : Word) (kind : AccessKind) (cause : Nat) (goes : State → Prop) : Prop :=
      let miss := s.me.walkOut.filter (fun o => o.va == ea)
      (∀ o, miss = some o → goes ((latched o.reason o.proc o.index).trap cause ea)) ∧
      (miss = none → s.here.rangeFor ea = none → goes (walks (s.startWalk s.curCore ea s.here.rdir (.slot s.curSlot) true) ea false)) ∧
      ∀ e, miss = none → s.here.rangeFor ea = some e →
        let j := (ea.toNat - e.slot.base.toNat) / segLen e.slot
        let denied := e.slot.copyOnly = true ∨ e.slot.isRemote = true
        (denied → goes ((latched 3 p e.index).trap cause ea)) ∧
        (¬denied → permits e.slot kind = false → goes ((latched 2 p e.index).trap cause ea)) ∧
        (¬denied → permits e.slot kind = true → e.slot.resmap.getLsbD j = false →
          (s.me.rewalked = some ea → goes ((latched 6 p e.index).trap 28 (BitVec.ofNat 64 (j * 2 ^ 58 + ea.toNat)))) ∧
          (s.me.rewalked ≠ some ea → goes (walks (s.startWalk s.curCore ea s.here.rdir (.slot s.curSlot) false) ea true)))
    (s.noRepeat → s.readable .x rs1.toNat → s.readable .x rs2.toNat → s.writable .x rd.toNat → s.resolveScope sc ≠ none →
      ∀ x ∈ s.scalarAccesses imm hi sc aq rl dbl rs2 rs1 lo rd, (x.release = true → s.releaseFree) → x.ea.toNat % x.n = 0 →
        s.watchHit x.load x.store x.ea.toNat x.n = none →
        (2 ^ 20 ≤ x.ea.toNat → x.ea.toNat < windowBase → faults x.ea x.kind x.rangeCause (fun t => exec x.i s = .next t)) ∧
        (windowBase ≤ x.ea.toNat → x.ea.toNat < 2 ^ 48 → s.me.role ≠ .k ∨ x.kind = .amo → exec x.i s = .next (s.trap x.refusedCause x.ea)) ∧
        (x.ea.toNat < 2 ^ 20 → x.kind = .amo → x.load = false ∨ x.store = false → exec x.i s = .next (s.trap x.refusedCause x.ea))) ∧
    (s.me.pc.toNat % 4 = 0 → 2 ^ 20 ≤ s.me.pc.toNat → s.me.pc.toNat < windowBase → faults s.me.pc .x 12 (fun t => s.fetchTurn = .next t)))

/-- FENCES records the earlier accesses of the slot that its first set and its scope name, for the kinds of its second set; with R in that set and region
scope or wider it drops the remote lines at once, and each recorded access drops them again when it is performed (R136, R160, R162). With R in the
first set the stores that the slot's loads have read in the buffer come first as well (R151; log 61). FENCE is FENCES at module scope, an AMO counting
as a read and as a write (R64, R159). TDISC is a future of class 1: tensor 0 delivers all ones, another sends a discard to every site of the scope;
LPIN and LUNPIN of no byte do nothing, of a readable range they send each home its resident lines (R140, R141). That a cached entry's residence map
says which lines are resident, with no new walk, is the model's choice (log 53). -/
def Obligations.OrderingAndCacheControl : Prop :=
  (∀ (s : State), s.noRepeat → s.releaseFree →
    let before (scope : Nat) (pred : BitVec 4) : List Nat :=
      (s.here.accs.filter (fun a => a.slot == s.curSlot && a.kind != .none && pred.toNat.testBit (kindBit a.kind) &&
        (match a.home with | some h => s.inInstance s.curCore scope h | none => true))).map (·.id) ++
          (if pred.getLsbD 3 = true then s.me.saw.filter s.here.outstanding else [])
    let out (scope : Nat) (pred succ : BitVec 4) : State :=
      let u : State := if succ.getLsbD 3 = true ∧ 2 ≤ scope then (s.dropRemote s.curCore).modHere (fun k =>
        { k with accs := k.accs.map (fun a => if a.id ∈ before scope pred then { a with drops := true } else a) }) else s
      (u.modMe (fun t => { t with
        fences := t.fences.filter (fun f => f.pred.any u.here.outstanding) ++ (if before scope pred = [] then [] else [{ pred := before scope pred, succ := succ }])
        missScope := if succ.getLsbD 2 then some scope else none })).goneTo (s.me.pc + 4)
    (∀ (sc succ pred : BitVec 4) (scope : Nat), s.resolveScope sc = some scope → exec (.fences sc succ pred) s = .next (out scope pred succ)) ∧
    (∀ fm pred succ : BitVec 4,
      let set (b : BitVec 4) : BitVec 4 := BitVec.ofBool (b.getLsbD 1) ++ BitVec.ofBool (b.getLsbD 0) ++ BitVec.ofBool (b.getLsbD 1 || b.getLsbD 0) ++ 0#1
      exec (.fence fm pred succ) s = .next (out 3 (set pred) (set succ)))) ∧
  (∀ (s : State) (rs2 rs1 rd : BitVec 5), s.noRepeat → s.readable .x rs1.toNat → s.me.role ≠ .t → s.me.role ≠ .none →
    (∀ (sc : BitVec 4) (scope : Nat) (u : State) (c : Option Nat), s.resolveScope sc = some scope → s.writable .x rd.toNat →
      s.pend .x rd.toNat 1 false = some (u, c) →
      let id : BitVec 8 := (s.xv rs1).setWidth 8
      let part := (s.site (siteOf s.curCore)).part
      (id = 0 → exec (.tdisc sc rs1 rd) s = .next ((u.fillNow s.curCore c (BitVec.allOnes 64)).goneTo (s.me.pc + 4))) ∧
      (id ≠ 0 → u.scopeSites scope ≠ [] →
        let v : State := { u.bump with discs := u.discs ++ [{ group := u.nextId, core := s.curCore, claim := c, left := (u.scopeSites scope).length, sum := 0, fail := none }] }
        exec (.tdisc sc rs1 rd) s = .next (((u.scopeSites scope).foldl (fun v n =>
          v.inject .request (.core s.curCore) (siteOf s.curCore) part (.phys (n * 2 ^ 33)) (.cache none (.discard id u.nextId))) v).goneTo (s.me.pc + 4)))) ∧
    (s.readable .x rs2.toNat → s.xv rs2 = 0 → exec (.lpin rs2 rs1) s = .next (s.goneTo (s.me.pc + 4)) ∧ exec (.lunpin rs2 rs1) s = .next (s.goneTo (s.me.pc + 4))) ∧
    ∀ e : RangeEntry, s.readable .x rs2.toNat → s.xv rs2 ≠ 0 → 2 ^ 20 ≤ (s.xv rs1).toNat → (s.xv rs1).toNat < windowBase →
      s.me.walkOut.filter (fun o => o.va == s.xv rs1) = none → s.here.rangeFor (s.xv rs1) = some e → e.slot.copyOnly = false → e.slot.isRemote = false →
      permits e.slot .r = true → (s.xv rs1).toNat + (s.xv rs2).toNat ≤ e.slot.limit.toNat →
      let lines := (pinLines e.slot (s.xv rs1).toNat ((s.xv rs1).toNat + (s.xv rs2).toNat)).eraseDups
      let sent (op : List Nat → CacheOp) : State := (((lines.map (fun l => l / 2 ^ 26)).eraseDups).foldl (fun v h =>
        v.inject .request (.core s.curCore) (siteOf s.curCore) (s.site (siteOf s.curCore)).part (.phys (h * 2 ^ 33))
          (.cache none (op (lines.filter (fun l => l / 2 ^ 26 == h))))) (s.modHere (fun k => k.useRange e))).goneTo (s.me.pc + 4)
      exec (.lpin rs2 rs1) s = .next (sent (fun ls => .pin ls e.slot.tensor)) ∧ exec (.lunpin rs2 rs1) s = .next (sent .unpin))

/-! ## Futures, issue and CSRs (R3, R60, R72, R80 to R107, R119 to R122) -/

/-- FSTAT reads a register's state, FWAIT passes once it is not PENDING, FPOISON poisons with rs1 (R102, R104, R107). A delivery of the present cycle
comes first (R90). MVF then moves a register with its state, its whole value or descriptor and its claim, and leaves the source VACANT (R103); FDROP
makes a register FULL zero over its whole width and its claim, if it has one, dropped (R91, R106). Every other register keeps its state and its whole
value. WAITANY answers 0 to an empty mask and the lowest register of its mask that is not PENDING; with none it takes a cancellable claim of class 0
that watches the mask, for x0 none at all, and parks while the claim table is full (R88, R105). A due delivery fills its claim's register, over its
whole width, with its value or poison and frees the claim; of a saved context it fills the copy, and of a dropped claim it is discarded and counted
(R90, R96). A parked slot that reaches its limit while its condition holds traps with cause 26 and what it waits for (R84, R85). -/
def Obligations.RegisterStates : Prop :=
  (∀ (s : State) (file : BitVec 2) (reg rs1 rd : BitVec 5), s.noRepeat →
    let f := fileOf file.toNat
    roleHolds s.me.role f = true →
    (s.writable .x rd.toNat → exec (.fstat file reg rd) s = .next (s.wrote rd (wd (stCode (s.me.regSt f reg.toNat))))) ∧
    (s.writable f reg.toNat → (f = .c → s.arrayClear [(f, reg.toNat)]) → exec (.fwait file reg) s = .next (s.goneTo (s.me.pc + 4))) ∧
    (s.readable .x rs1.toNat → s.writable f reg.toNat → s.arrayClear [(f, reg.toNat)] →
      exec (.fpoison file rs1 reg) s = .next ((s.modMe (fun t => t.setRegLow f reg.toNat .poison (s.xv rs1))).goneTo (s.me.pc + 4)))) ∧
  (∀ (s : State) (file : BitVec 2) (reg rd : BitVec 5), s.noRepeat →
    let f := fileOf file.toNat
    let u := s.settleReg f reg.toNat
    roleHolds s.me.role f = true →
    (s.writable f rd.toNat → s.arrayClear [(f, rd.toNat), (f, reg.toNat)] →
      (rd = reg → exec (.mvf file reg rd) s = .next (s.goneTo (s.me.pc + 4))) ∧
      (rd ≠ reg → ∃ t, exec (.mvf file reg rd) s = .next t ∧ t.me.pc = s.me.pc + 4 ∧
        (¬(f = .x ∧ rd = 0) → t.me.takesReg f rd.toNat u.me reg.toNat) ∧
        (¬(f = .x ∧ reg = 0) → t.me.regSt f reg.toNat = .vacant) ∧
        (∀ g n, ¬(g = f ∧ (n = rd.toNat ∨ n = reg.toNat)) → t.me.takesReg g n u.me n) ∧
        (u.me.regSt f reg.toNat = .pending → ∀ i cl, u.here.claimOf s.curSlot f reg.toNat = some i → nget u.here.claims i = some cl →
          nget t.here.claims i = if f = .x ∧ rd = 0 then (if cl.cancellable then none else some { cl with target := .dropped })
            else some { cl with reg := rd.toNat }))) ∧
    (s.arrayClear [(f, reg.toNat)] →
      ∃ t, exec (.fdrop file reg) s = .next t ∧ t.me.pc = s.me.pc + 4 ∧ t.me.holds f reg.toNat .full 0 ∧
        (∀ g n, ¬(g = f ∧ n = reg.toNat) → t.me.takesReg g n u.me n) ∧
        (u.me.regSt f reg.toNat = .pending → ∀ i cl, u.here.claimOf s.curSlot f reg.toNat = some i → nget u.here.claims i = some cl →
          nget t.here.claims i = if cl.cancellable then none else some { cl with target := .dropped }))) ∧
  (∀ (s : State) (rs1 rd : BitVec 5), s.noRepeat → s.readable .x rs1.toNat → s.writable .x rd.toNat →
    let named (i : Nat) : Prop := 1 ≤ i ∧ i < 32 ∧ (s.xv rs1).toNat.testBit i = true ∧ i ≠ rd.toNat
    ((∀ i, ¬named i) → exec (.waitany rs1 rd) s = .next (s.wrote rd 0)) ∧
    (∀ i, named i → s.me.regSt .x i ≠ .pending → (∀ j, j < i → named j → s.me.regSt .x j = .pending) → exec (.waitany rs1 rd) s = .next (s.wrote rd (wd i))) ∧
    ((∃ i, named i) → (∀ i, named i → s.me.regSt .x i = .pending) →
      (rd = 0 → exec (.waitany rs1 rd) s = .next (s.goneTo (s.me.pc + 4))) ∧
      (rd ≠ 0 → s.here.freeClaims = [] → exec (.waitany rs1 rd) s = .next
        (((s.modMe (fun t => { t with state := .parked, park := some (.claims s.here.freed), parkCount := 0 })).countS s.curCore s.curSlot 11).countS s.curCore s.curSlot 3)) ∧
      (rd ≠ 0 → s.here.freeClaims ≠ [] →
        ∃ t c cl, exec (.waitany rs1 rd) s = .next t ∧ t.me.pc = s.me.pc + 4 ∧ t.me.regSt .x rd.toNat = .pending ∧ c ∈ s.here.freeClaims ∧ nget t.here.claims c = some cl ∧
          cl.target = .slot ∧ cl.slot = s.curSlot ∧ cl.file = .x ∧ cl.reg = rd.toNat ∧ cl.cls = 0 ∧ cl.cancellable = true ∧
          ∀ i, i < 32 → (cl.watch.getLsbD i = true ↔ named i)))) ∧
  ((∀ (s : State) (c i : Nat) (d : Delivery) (cl : Claim), (s.core c).deliveries.find? (fun d => d.claim == i && d.due ≤ (s.core c).cycle) = some d →
    nget (s.core c).claims i = some cl → cl.lost = false →
    (cl.target = .slot → ¬(cl.file = .x ∧ cl.reg = 0) →
      ∃ t, exec (.claimDelivery c i) s = .next t ∧ nget (t.core c).claims i = none ∧ i ∉ (t.core c).deliveries.map (·.claim) ∧
        (∀ v, d.val = .value v → (t.slot c cl.slot).holds cl.file cl.reg .full (v.setWidth 131072)) ∧
        (∀ p, d.val = .poison p → (t.slot c cl.slot).holds cl.file cl.reg .poison (p.setWidth 131072)) ∧
        ∀ g n, ¬(g = cl.file ∧ n = cl.reg) → (t.slot c cl.slot).takesReg g n (s.slot c cl.slot) n) ∧
    (∀ e sv, cl.target = .context e → nget (s.core c).ctx e = some sv →
      ∃ t, exec (.claimDelivery c i) s = .next t ∧ nget (t.core c).claims i = none ∧ nget (t.core c).ctx e = some (sv.putDelivered cl.file cl.reg d.val)) ∧
    (cl.target = .dropped → exec (.claimDelivery c i) s = .next ((s.modCore c (fun k => { k with deliveries := k.deliveries.filter (fun e => e.claim != i) })).modCore c
      (fun k => (k.count 9 none 1).delClaim i)))) ∧
  ∀ (s : State) (c n : Nat) (on : ParkOn), (s.slot c n).park = some on → (s.slot c n).state = .parked → s.parkBlocked c n = true →
    (s.slot c n).parklim.toNat % 2 ^ 32 ≠ 0 → (s.slot c n).parklim.toNat % 2 ^ 32 ≤ (s.slot c n).parkCount + 1 →
    exec (.parkLimit c n) s = .next ({ s with curCore := c, curSlot := n }.trap 26 (parkTval on)))

/-- FSTAT parks while xd is PENDING and otherwise writes the state code of its register, whatever state that has; x0 reads FULL, code 0 (R102): the word
of `fstat xd, reg` has xd in rd, reg in rs1 and the file code in rs2. It issues as R72 and R264 let it. -/
def Obligations.FstatReads : Prop :=
  (∀ (file : BitVec 2) (reg rd : BitVec 5), regLegal file reg → decodeWord (0#7 ++ 0#3 ++ file ++ reg ++ 0#3 ++ rd ++ 0xB#7) = .ok (.fstat file reg rd)) ∧
  ∀ (s : State) (file : BitVec 2) (reg rd : BitVec 5), s.noRepeat →
    let f := fileOf file.toNat
    roleHolds s.me.role f = true →
    (s.me.regSt .x rd.toNat = .pending → exec (.fstat file reg rd) s =
      .next ((s.modMe (fun t => { t with state := .parked, park := some (.reg .x rd.toNat), parkCount := 0 })).countS s.curCore s.curSlot 3)) ∧
    (s.me.regSt .x rd.toNat ≠ .pending → exec (.fstat file reg rd) s = .next (s.wrote rd (match s.me.regSt f reg.toNat with
      | .full => 0 | .pending => 1 | .poison => 2 | .vacant => 3))) ∧
    (f = .x → reg = 0 → s.me.regSt .x rd.toNat ≠ .pending → exec (.fstat file reg rd) s = .next (s.wrote rd 0))

/-- FWAIT parks while its register is PENDING and otherwise completes and changes nothing but the pc, whatever state the register has; x0 is never PENDING
(R104): the word of `fwait reg` has rd 0, reg in rs1 and the file code in rs2. It issues as R72 and R264 let it, and an accumulator that an unfinished
MDOT names is waited for (R259). -/
def Obligations.FwaitWaits : Prop :=
  (∀ (file : BitVec 2) (reg : BitVec 5), regLegal file reg → decodeWord (2#7 ++ 0#3 ++ file ++ reg ++ 0#3 ++ 0#5 ++ 0xB#7) = .ok (.fwait file reg)) ∧
  ∀ (s : State) (file : BitVec 2) (reg : BitVec 5), s.noRepeat →
    let f := fileOf file.toNat
    roleHolds s.me.role f = true →
    (s.me.regSt f reg.toNat = .pending → exec (.fwait file reg) s =
      .next ((s.modMe (fun t => { t with state := .parked, park := some (.reg f reg.toNat), parkCount := 0 })).countS s.curCore s.curSlot 3)) ∧
    (s.me.regSt f reg.toNat ≠ .pending → (f = .c → s.arrayClear [(f, reg.toNat)]) → exec (.fwait file reg) s = .next (s.goneTo (s.me.pc + 4))) ∧
    (f = .x → reg = 0 → exec (.fwait file reg) s = .next (s.goneTo (s.me.pc + 4)))

/-- The registers of a form are examined in its order (R82): the first one that does not pass decides. An instruction that reads a PENDING register, or
writes one, parks on it with nothing else changed but the bubble (R83, R370); one that reads a POISON register traps with cause 24 and the descriptor,
and one that reads a VACANT register with cause 25 and its identity (R84). The statement ranges over every form, every register of it, and every state
in which the checks of R72 before the registers pass. What the checks of R72 refuse before any register is examined: a privileged word outside the
K-role slot and a scope code that resolves to no scope trap with cause 2 and the word, a word of another role with cause 29 and the word, and a word
that a repeat body may not hold, while a repeat is in force in an M-role slot, with cause 49 and reason 6 (R264). -/
def Obligations.IssueChecks : Prop :=
  (∀ (s : State) (fm : Form) (body : State → Act) (pre rest : List (Bool × RFile × Nat)) (b : Bool) (f : RFile) (n : Nat),
    (fm.priv = true → s.me.role = .k) → (∀ c, fm.scope = some c → s.resolveScope c ≠ none) → fm.roles s.me.role = true →
    (s.me.rptstat.getLsbD 11 = true → s.me.role = .m → fm.inBody = true) →
    fm.regs = pre ++ (b, f, n) :: rest → (∀ p ∈ pre, s.me.regSt p.2.1 p.2.2 ≠ .pending ∧ (p.1 = true → s.me.regSt p.2.1 p.2.2 = .full)) →
    (s.me.regSt f n = .pending → issue fm body s =
      .next ((s.modMe (fun t => { t with state := .parked, park := some (.reg f n), parkCount := 0 })).countS s.curCore s.curSlot 3)) ∧
    (b = true → s.me.regSt f n = .poison → issue fm body s = .next (s.trap 24 (s.me.regLow f n))) ∧
    (b = true → s.me.regSt f n = .vacant → issue fm body s = .next (s.trap 25 (wd (fileCode f * 256 + n))))) ∧
  (∀ (s : State) (fm : Form) (body : State → Act),
    (fm.priv = true → s.me.role ≠ .k → issue fm body s = .next (s.trap 2 (wordOf fm.instr))) ∧
    (∀ c, ¬(fm.priv = true ∧ s.me.role ≠ .k) → fm.scope = some c → s.resolveScope c = none → issue fm body s = .next (s.trap 2 (wordOf fm.instr))) ∧
    (¬(fm.priv = true ∧ s.me.role ≠ .k) → (∀ c, fm.scope = some c → s.resolveScope c ≠ none) → 
      (fm.roles s.me.role = false → issue fm body s = .next (s.trap 29 (wordOf fm.instr))) ∧
      (fm.roles s.me.role = true → s.me.rptstat.getLsbD 11 = true → s.me.role = .m → fm.inBody = false → issue fm body s = .next (s.trap 49 (wd (6 * 2 ^ 56))))))

/-- The six Zicsr instructions write the register from its old value, rs1 or the immediate, and the old value to rd; a set or clear of nothing (rs1 or
immediate field 0) writes nothing (R119). What a write leaves in each CSR, bit by bit: read-write fields take the written bits, write-1-to-clear bits
are cleared by ones, and every other bit stays (R3, R119, R368). The registers with the masks of their read-write and of their write-1-to-clear bits:
wl.parklim (R85), wl.vflags (R220), wl.srseed and wl.srctr (R221), wl.ordctl (R165), wl.stfail (R130), wl.tag (R322), wl.bstream (R335), wl.mcfg0 to 7
(R247), wl.mstcfg (R249), wl.rptstat (R263), wl.stamp (R332), wl.scopemiss (R164), wl.inlog (R291), wl.pound (R326), wl.pair (R347), wl.hvec, wl.hepc
and wl.hscratch (R350), wl.evsel and wl.evcnt (R369), breakpoints (R372), watch addresses and controls (R373), and the trace registers (R375). The
counts of wl.rdir and wl.rdmnt are cut at 65,536 (R173), and the read-only registers keep their values. -/
def Obligations.Csrs : Prop :=
  (∀ (s : State) (csr : BitVec 12) (rs1 rd : BitVec 5), s.noRepeat → s.writable .x rd.toNat → csrRoles csr.toNat s.me.role = true →
    (csrKOnly csr = true → s.me.role = .k) →
    let n := csr.toNat
    let old := s.readCsr n
    let u := rs1.setWidth 64
    let out (v : Word) : State := ((s.writeCsr n v).setX rd old).goneTo (s.me.pc + 4)
    exec (.csrrwi csr rs1 rd) s = .next (out u) ∧
    exec (.csrrsi csr rs1 rd) s = .next (if rs1 = 0 then s.wrote rd old else out (old ||| u)) ∧
    exec (.csrrci csr rs1 rd) s = .next (if rs1 = 0 then s.wrote rd old else out (old &&& ~~~u)) ∧
    (s.readable .x rs1.toNat →
      exec (.csrrw csr rs1 rd) s = .next (out (s.xv rs1)) ∧
      exec (.csrrs csr rs1 rd) s = .next (if rs1 = 0 then s.wrote rd old else out (old ||| s.xv rs1)) ∧
      exec (.csrrc csr rs1 rd) s = .next (if rs1 = 0 then s.wrote rd old else out (old &&& ~~~(s.xv rs1))))) ∧
  (∀ (s : State) (v : Word),
    let one : List (Nat × Word × Word) := [(0x800, 0xFFFFFFFF, 0), (0x801, 0x3F, 0), (0x802, 0xFFFFFFFFFFFFFFFF, 0), (0x803, 0xFFFFFFFFFFFFFFFF, 0),
      (0x804, 0x4000000000000000, 0x8000000000000000), (0x805, 0, 0xC000000000000000), (0x806, 0xFFFFFFFF, 0), (0x807, 0xE000FFFFFFFFFFFF, 0),
      (0x810, 0xFFFF000000FF007F, 0), (0x811, 0xFFFFFFFF0000083F, 0), (0x812, 0, 0x100), (0x5C2, 0x007FF80000000000, 0x8000000000000000),
      (0x5C3, 0, 0xC000000000000000), (0x5C4, 0, 0xC000000000000000), (0x5C5, 0xFFFFFFFF, 0), (0x5C6, 0xFFFFFFFFFFFC, 0),
      (0x5C7, 0xFFFFFFFFFFFFFFFF, 0), (0x5C8, 0xFFFFFFFFFFFFFFFF, 0), (0x9D4, 0xFFFFFFFFFFFF, 0), (0x9D5, 0xFFFFFFFFFFFF, 0), (0x9D6, 0xFFFF000000003F0F, 0),
      (0x9D7, 0xFFFF000000003F0F, 0), (0x9D8, 0xFFFF0000000001FF, 0), (0x9D9, 0xF00007FFFFFFF000, 0), (0x9DA, 0, 0x8000000000000000)]
    let several : List (Nat × Nat × Word) := [(0x808, 0x80F, 0xFFFFFFFFFFFFFE1F), (0x9C0, 0x9C7, 0xFFFF00000000003F), (0x9C8, 0x9CF, 0xFFFFFFFFFFFFFFFF),
      (0x9D0, 0x9D3, 0xFFFFFFFFFFFFFFFF)]
    (∀ p ∈ one, (s.writeCsr p.1 v).readCsr p.1 = (s.readCsr p.1 &&& ~~~p.2.1 ||| v &&& p.2.1) &&& ~~~(v &&& p.2.2)) ∧
    (∀ p ∈ several, ∀ n, p.1 ≤ n → n ≤ p.2.1 → (s.writeCsr n v).readCsr n = (s.readCsr n &&& ~~~p.2.2 ||| v &&& p.2.2)) ∧
    (∀ n, n = 0x5C0 ∨ n = 0x5C1 → wf ((s.writeCsr n v).readCsr n) 35 17 = min (wf v 35 17) 65536 ∧
      wf ((s.writeCsr n v).readCsr n) 0 31 = wf v 0 31 ∧ wf ((s.writeCsr n v).readCsr n) 52 12 = wf v 52 12 ∧
      wf ((s.writeCsr n v).readCsr n) 31 4 = wf (s.readCsr n) 31 4) ∧
    ∀ n, n = 0xC00 ∨ (0xC02 ≤ n ∧ n ≤ 0xC0A) ∨ n = 0xCC0 ∨ n = 0xCC1 ∨ n = 0xCC2 ∨ (0xCC8 ≤ n ∧ n ≤ 0xCCF) ∨ n = 0xDC0 ∨ n = 0xDC1 →
      (s.writeCsr n v).readCsr n = s.readCsr n)

/-! ## Vector instructions (R218 to R244) -/

/-- The element-wise operations with one or two sources, lane by lane: the floating classes through the rounded operations of R232, the integer classes
modulo the element width with signed comparisons (R231 to R235). Flags are OR-ed in. The shifts of the integer classes by the amount modulo the width,
the fused multiply-add rounded once or modulo the width, and the selection by the top bit of a mask element (R232, R233). The bitwise operations, and
VSEL of the B class, work bit by bit (R233). -/
def Obligations.VectorArithmetic : Prop :=
  (∀ (s : State) (ty : BitVec 3) (rs2 rs1 rd : BitVec 5), ty < 5 → s.noRepeat → s.me.role = .v → s.readable .v rs1.toNat → s.readable .v rs2.toNat →
    s.writable .v rd.toNat →
    let w := tyW ty
    let f := tyFmt ty
    let sg := decodeI w
    let lanes (i : Instr) (fop iop : Nat → Nat → Nat × Nat) : Prop :=
      let op (j : Nat) : Nat × Nat := (if ty < 2 then fop else iop) (elemOf (s.vv rs1) w j) (elemOf (s.vv rs2) w j)
      ∃ v fl, exec i s = .next (((s.setV rd v).orFlags fl).goneTo (s.me.pc + 4)) ∧ (∀ j, j < 2048 / w → elemOf v w j = (op j).1 % 2 ^ w) ∧
        ∀ k, fl.testBit k = true ↔ ∃ j, j < 2048 / w ∧ (op j).2.testBit k = true
    let all (b : Prop) [Decidable b] : Nat × Nat := (if b then 2 ^ w - 1 else 0, 0)
    lanes (.vadd rs2 rs1 ty rd) (fAdd f) (fun a b => (a + b, 0)) ∧
    lanes (.vsub rs2 rs1 ty rd) (fSub f) (fun a b => (a + 2 ^ w - b, 0)) ∧
    lanes (.vmul rs2 rs1 ty rd) (fMul f) (fun a b => (a * b, 0)) ∧
    lanes (.vmin rs2 rs1 ty rd) (fun a b => (fMin f false a b, 0)) (fun a b => (if sg a < sg b then a else b, 0)) ∧
    lanes (.vmax rs2 rs1 ty rd) (fun a b => (fMin f true a b, 0)) (fun a b => (if sg a < sg b then b else a, 0)) ∧
    lanes (.vabs rs1 ty rd) (fun a _ => (a % 2 ^ (w - 1), 0)) (fun a _ => ((sg a).natAbs, 0)) ∧
    lanes (.vneg rs1 ty rd) (fun a _ => (a ^^^ 2 ^ (w - 1), 0)) (fun a _ => (2 ^ w - a, 0)) ∧
    lanes (.vcmpeq rs2 rs1 ty rd) (fun a b => all (fCmp f 0 a b = true)) (fun a b => all (a = b)) ∧
    lanes (.vcmplt rs2 rs1 ty rd) (fun a b => all (fCmp f 1 a b = true)) (fun a b => all (sg a < sg b)) ∧
    lanes (.vcmple rs2 rs1 ty rd) (fun a b => all (fCmp f 2 a b = true)) (fun a b => all (sg a ≤ sg b))) ∧
  (∀ (s : State) (ty : BitVec 3) (rs3 rs2 rs1 rd : BitVec 5), ty < 5 → s.noRepeat → s.me.role = .v → s.readable .v rs1.toNat → s.readable .v rs2.toNat →
    s.writable .v rd.toNat →
    let w := tyW ty
    let a (j : Nat) := elemOf (s.vv rs1) w j
    let b (j : Nat) := elemOf (s.vv rs2) w j
    let c (j : Nat) := elemOf (s.vv rs3) w j
    let lanes (i : Instr) (op : Nat → Nat × Nat) : Prop :=
      ∃ v fl, exec i s = .next (((s.setV rd v).orFlags fl).goneTo (s.me.pc + 4)) ∧ (∀ j, j < 2048 / w → elemOf v w j = (op j).1 % 2 ^ w) ∧
        ∀ k, fl.testBit k = true ↔ ∃ j, j < 2048 / w ∧ (op j).2.testBit k = true
    (2 ≤ ty →
      lanes (.vsll rs2 rs1 ty rd) (fun j => (a j <<< (b j % w), 0)) ∧ lanes (.vsrl rs2 rs1 ty rd) (fun j => (a j >>> (b j % w), 0)) ∧
      lanes (.vsra rs2 rs1 ty rd) (fun j => ((decodeI w (a j) / 2 ^ (b j % w) % 2 ^ w).toNat, 0))) ∧
    (s.readable .v rs3.toNat →
      lanes (.vfma rs3 rs2 rs1 ty rd) (fun j => if ty < 2 then fFma (tyFmt ty) (a j) (b j) (c j) else (a j * b j + c j, 0)) ∧
      lanes (.vsel rs3 rs2 rs1 ty rd) (fun j => (if (c j).testBit (w - 1) then a j else b j, 0)))) ∧
  (∀ (s : State) (rs3 rs2 rs1 rd : BitVec 5), s.noRepeat → s.me.role = .v → s.readable .v rs1.toNat → s.writable .v rd.toNat →
    exec (.vnot rs1 rd) s = .next (s.wroteV rd (~~~(s.vv rs1))) ∧
    (s.readable .v rs2.toNat →
      exec (.vand rs2 rs1 rd) s = .next (s.wroteV rd (s.vv rs1 &&& s.vv rs2)) ∧ exec (.vor rs2 rs1 rd) s = .next (s.wroteV rd (s.vv rs1 ||| s.vv rs2)) ∧
      exec (.vxor rs2 rs1 rd) s = .next (s.wroteV rd (s.vv rs1 ^^^ s.vv rs2)) ∧
      (s.readable .v rs3.toNat →
        exec (.vsel rs3 rs2 rs1 5 rd) s = .next (s.wroteV rd ((s.vv rs1 &&& s.vv rs3) ||| (s.vv rs2 &&& ~~~(s.vv rs3)))))))

/-- The vector long operations and reductions take a claim of class 3 and go to the vector stage with their result: the lanes of R242, the exact integer
of an I-class reduction, the tree of R243 for the floating classes. The vector stage: a waiting operation enters in the cycle the stage frees, and the
oldest fills its claim once its time has come (R241). -/
def Obligations.VectorStage : Prop :=
  (∀ (s u : State) (c : Option Nat) (ty : BitVec 3) (rs1 rd : BitVec 5), ty < 5 → s.noRepeat → s.me.role = .v → s.readable .v rs1.toNat →
    let w := tyW ty
    let f := tyFmt ty
    let a (j : Nat) := elemOf (s.vv rs1) w j
    let at_ (k : Core) : Option Nat :=
      if k.vecs.any (fun v => match v.entered with | some e => k.cycle < e + v.holdFor | none => true) then none else some k.cycle
    let out (hold fill : Nat) (r : BitVec 2048) : State := (u.modHere (fun k => { k with vecs := k.vecs ++
      [{ claim := c, result := r, holdFor := hold, fillAfter := fill, entered := at_ k }] })).goneTo (s.me.pc + 4)
    let lanes (i : Instr) (op : Nat → Nat) : Prop := ∃ r, exec i s = .next (out 64 80 r) ∧ ∀ j, j < 2048 / w → elemOf r w j = op (a j) % 2 ^ w
    (ty < 2 → s.writable .v rd.toNat → s.pend .v rd.toNat 3 false = some (u, c) →
      lanes (.vexp2 rs1 ty rd) (fExp2 f) ∧ lanes (.vlog2 rs1 ty rd) (fLog2 f) ∧ lanes (.vrcp rs1 ty rd) (fRcp f) ∧ lanes (.vrsq rs1 ty rd) (fRsq f)) ∧
    (s.writable .x rd.toNat → s.pend .x rd.toNat 3 false = some (u, c) →
      let elems := (List.range (2048 / w)).map a
      let folded (op : Nat → Nat → Nat) : Word := BitVec.ofNat 64 ((treeFold op (Nat.log2 (2048 / w)) elems).headD 0)
      (ty < 2 →
        exec (.vredsum rs1 ty rd) s = .next (out 32 40 ((folded (fun x y => (fAdd f x y).1)).setWidth 2048)) ∧
        exec (.vredmax rs1 ty rd) s = .next (out 32 40 ((folded (fMin f true)).setWidth 2048)) ∧
        exec (.vredmin rs1 ty rd) s = .next (out 32 40 ((folded (fMin f false)).setWidth 2048))) ∧
      (2 ≤ ty →
        exec (.vredsum rs1 ty rd) s = .next (out 32 40 ((BitVec.ofInt 64 (elems.map (decodeI w)).sum).setWidth 2048)) ∧
        (∃ j m, j < 2048 / w ∧ m = decodeI w (a j) ∧ (∀ i, i < 2048 / w → decodeI w (a i) ≤ m) ∧
          exec (.vredmax rs1 ty rd) s = .next (out 32 40 ((BitVec.ofInt 64 m).setWidth 2048))) ∧
        (∃ j m, j < 2048 / w ∧ m = decodeI w (a j) ∧ (∀ i, i < 2048 / w → m ≤ decodeI w (a i)) ∧
          exec (.vredmin rs1 ty rd) s = .next (out 32 40 ((BitVec.ofInt 64 m).setWidth 2048)))))) ∧
  (∀ (s : State) (core : Nat),
    (∀ (v : VecOp) (done rest : List VecOp), (s.core core).vecs = done ++ v :: rest → v.entered = none → (∀ x ∈ done, x.entered ≠ none) →
      (s.core core).stageFrees ≤ (s.core core).cycle →
      exec (.vectorStageEnter core) s =
        .next (s.modCore core (fun k => { k with vecs := done ++ { v with entered := some (s.core core).stageFrees } :: rest }))) ∧
    ∀ (v : VecOp) (rest : List VecOp) (e : Nat), (s.core core).vecs = v :: rest → v.entered = some e → e + v.fillAfter ≤ (s.core core).cycle →
      exec (.vectorLongComplete core) s =
        .next ((s.modCore core (fun k => { k with vecs := rest })).deliverAt core v.claim (s.core core).cycle (.value v.result)))

/-- VLD reads 256 bytes of local store into a register and VST writes them back, at an address that is a multiple of 8 (R236, R237, R239). The strided and
indexed transfers: the units of R236, all in local store and aligned, start one access, performed now when no bank holds more than 16 of its words and
otherwise 16 cycles later for each further 16 (R237 to R239). A load of one turn leaves its register FULL with the element of each unit, and with
zeros where a gather has no unit. A transfer of several turns is performed in its cycle (R238, R253). That a slot cleared meanwhile, or given a new
thread, takes no register is the model's choice (log 57). -/
def Obligations.VectorTransfers : Prop :=
  (∀ (s : State) (rs1 rd : BitVec 5), s.noRepeat → s.me.role = .v → s.readable .x rs1.toNat → s.here.transfer = none →
    let a := (s.xv rs1).toNat
    a + 256 ≤ 2 ^ 20 → a % 8 = 0 → s.me.state ≠ .empty →
    (s.writable .v rd.toNat → s.bytesPass false (span a 256) →
      exec (.vld rs1 rd) s = .next (s.wroteV rd (BitVec.ofNat 2048 (memRead s.here.ls a 256)))) ∧
    (s.readable .v rd.toNat → s.bytesPass true (span a 256) →
      ∃ t, exec (.vst rs1 rd) s = .next t ∧ t.me.pc = s.me.pc + 4 ∧ (∀ i, i < 256 → memGet t.here.ls (a + i) = (s.vv rd).extractLsb' (8 * i) 8) ∧
        (∀ b, b < a ∨ a + 256 ≤ b → memGet t.here.ls b = memGet s.here.ls b) ∧ (∀ f n, t.me.regSt f n = s.me.regSt f n) ∧ t.me.v = s.me.v ∧ t.me.x = s.me.x)) ∧
  (∀ (s : State) (ty : BitVec 3) (rs2 rs1 rd : BitVec 5), ty < 5 → s.noRepeat → s.me.role = .v → s.readable .x rs1.toNat → s.here.transfer = none →
    let fine (us : List VUnit) (store : Bool) : Prop := (∀ u ∈ us, u.addr.toNat + u.len ≤ 2 ^ 20 ∧ u.addr.toNat % u.len = 0) ∧
      s.bytesPass store (us.flatMap (fun u => span u.addr.toNat u.len))
    let one (us : List VUnit) : Prop := turnsOf (us.flatMap (fun u => span u.addr.toNat u.len)) ≤ 1 ∧ s.me.state ≠ .empty
    let load (us : List VUnit) : State := (s.startTransfer (.vload rd.toNat (us.flatMap (fun u => (List.range u.len).map (fun i => (u.bit + 8 * i, u.addr.toNat + i)))))
      (us.flatMap (fun u => span u.addr.toNat u.len))).goneTo (s.me.pc + 4)
    let store (us : List VUnit) : State := (s.startTransfer (.vstore (us.flatMap (fun u => placeAt u.addr.toNat (bytesOf u.len (fieldOf (s.vv rd).toNat u.bit (8 * u.len))))))
      (us.flatMap (fun u => span u.addr.toNat u.len))).goneTo (s.me.pc + 4)
    let strided : List VUnit := (List.range 32).map (fun j => { addr := s.xv rs1 + BitVec.ofNat 64 j * s.xv rs2, len := 8, bit := 64 * j })
    let indexed : List VUnit := (List.range (min 64 (2048 / tyW ty))).map (fun j =>
      { addr := s.xv rs1 + BitVec.ofNat 64 (elemOf (s.vv rs2) 32 j), len := tyW ty / 8, bit := tyW ty * j })
    (s.readable .x rs2.toNat → s.writable .v rd.toNat → fine strided false → exec (.vlds rs2 rs1 rd) s = .next (load strided) ∧
      (one strided → ((load strided).me.vr rd.toNat).st = .full ∧ (load strided).here.ls = s.here.ls ∧
        ∀ j, j < 32 → elemOf ((load strided).me.vr rd.toNat).val 64 j = memRead s.here.ls (s.xv rs1 + BitVec.ofNat 64 j * s.xv rs2).toNat 8)) ∧
    (s.readable .x rs2.toNat → s.readable .v rd.toNat → fine strided true → exec (.vsts rs2 rs1 rd) s = .next (store strided)) ∧
    (s.readable .v rs2.toNat → s.writable .v rd.toNat → fine indexed false → exec (.vgath rs2 rs1 ty rd) s = .next (load indexed) ∧
      (one indexed → ((load indexed).me.vr rd.toNat).st = .full ∧ (load indexed).here.ls = s.here.ls ∧
        ∀ j, j < 2048 / tyW ty → elemOf ((load indexed).me.vr rd.toNat).val (tyW ty) j =
          if j < 64 then memRead s.here.ls (s.xv rs1 + BitVec.ofNat 64 (elemOf (s.vv rs2) 32 j)).toNat (tyW ty / 8) else 0)) ∧
    (∀ (addrs : List Nat) (m : Nat), turnsOf addrs ≤ m ↔
      ∀ b, b < 64 → (((addrs.map (· / 8)).eraseDups).filter (fun w => w % 64 == b)).length ≤ 16 * m) ∧
    (s.readable .v rs2.toNat → s.readable .v rd.toNat → fine indexed true → exec (.vscat rs2 rs1 ty rd) s = .next (store indexed)) ∧
    ∀ (k : TransferKind) (addrs : List Nat),
      let t := s.startTransfer k addrs
      (1 < turnsOf addrs → t.here.ls = s.here.ls ∧ t.me.v = s.me.v ∧ t.me.m = s.me.m ∧ t.me.busyUntil = s.here.cycle + 16 * (turnsOf addrs - 1) ∧
        t.here.transfer = some { slot := s.curSlot, epoch := s.me.epoch, at_ := s.here.cycle + 16 * (turnsOf addrs - 1), kind := k, addrs := addrs }) ∧
      (∀ bytes, turnsOf addrs ≤ 1 → k = .vstore bytes → t.here.ls = memPuts s.here.ls bytes)) ∧
  (∀ (s : State) (core : Nat) (x : Transfer), (s.core core).transfer = some x → x.at_ ≤ (s.core core).cycle → (s.slot core x.slot).state ≠ .empty →
    (s.slot core x.slot).epoch = x.epoch →
    ∃ t, exec (.transferPerform core) s = .next t ∧ (t.core core).transfer = none ∧
      (∀ bytes, x.kind = .vstore bytes ∨ x.kind = .mstore bytes → (t.core core).ls = memPuts (s.core core).ls bytes ∧ (t.slot core x.slot).v = (s.slot core x.slot).v) ∧
      (∀ vd bytes, x.kind = .vload vd bytes → (t.core core).ls = (s.core core).ls ∧ (t.slot core x.slot).vr vd =
        ⟨.full, BitVec.ofNat 2048 (bytes.foldl (fun a p => a + (memGet (s.core core).ls p.2).toNat * 2 ^ p.1) 0)⟩) ∧
      (∀ md cfg base, x.kind = .mload md cfg base → (t.core core).ls = (s.core core).ls ∧ (t.slot core x.slot).mr md = ⟨.full, mldValue (s.core core).ls cfg base.toNat⟩))

/-- Permutes, slides and moves place elements by index (R240). Conversions: VCVT element by element, VQMX as two blocks with their scale bytes in bits
2047:2032, VDQMX under them (R225 to R228); flags are OR-ed in and a stochastic rounding counts a draw (R220, R222). -/
def Obligations.VectorMoves : Prop :=
  (∀ (s : State) (ty : BitVec 3) (rs2 rs1 rd : BitVec 5), ty < 5 → s.noRepeat → s.me.role = .v →
    let w := tyW ty
    let n := 2048 / w
    let a (j : Nat) := elemOf (s.vv rs1) w j
    let lanes (i : Instr) (op : Nat → Nat) : Prop := ∃ v, exec i s = .next (s.wroteV rd v) ∧ ∀ j, j < n → elemOf v w j = op j % 2 ^ w
    let k := (s.xv rs2).toNat
    (s.readable .v rs1.toNat → s.writable .v rd.toNat →
      (s.readable .v rs2.toNat → lanes (.vperm rs2 rs1 ty rd) (fun j => a (elemOf (s.vv rs2) w j % n))) ∧
      (s.readable .x rs2.toNat → lanes (.vbcast rs2 rs1 ty rd) (fun _ => a (k % n)) ∧
        lanes (.vslup rs2 rs1 ty rd) (fun j => if k ≤ j then a (j - k) else 0) ∧ lanes (.vsldn rs2 rs1 ty rd) (fun j => if j + k < n then a (j + k) else 0))) ∧
    (s.readable .x rs1.toNat →
      (s.writable .v rd.toNat → lanes (.vsplat rs1 ty rd) (fun _ => (s.xv rs1).toNat)) ∧
      (s.readable .x rs2.toNat → s.readable .v rd.toNat →
        lanes (.vins rs2 rs1 ty rd) (fun j => if j = k % n then (s.xv rs1).toNat else elemOf (s.vv rd) w j))) ∧
    (s.readable .v rs1.toNat → s.readable .x rs2.toNat → s.writable .x rd.toNat →
      exec (.vext rs2 rs1 ty rd) s = .next (s.wrote rd (if ty < 2 then BitVec.ofNat 64 (a (k % n)) else BitVec.ofInt 64 (decodeI w (a (k % n))))))) ∧
  (∀ (s : State) (src : BitVec 4) (rm : BitVec 3) (sat : BitVec 1) (dst fmt : BitVec 4) (rs1 rd : BitVec 5), s.noRepeat → s.me.role = .v → s.readable .v rs1.toNat →
    s.writable .v rd.toNat →
    let mode := rmOf rm.toNat
    let out (v : BitVec 2048) (fl : Nat) : State := (((s.setV rd v).orFlags fl).useDraw mode).goneTo (s.me.pc + 4)
    let n := min 64 (2048 / max (fmtWidth src.toNat) (fmtWidth dst.toNat))
    let cv (j : Nat) : Nat × Nat := convert src.toNat dst.toNat (elemOf (s.vv rs1) (fmtWidth src.toNat) j) mode (sat == 1#1) (s.draw j)
    exec (.vcvt src rm sat dst rs1 rd) s =
      .next (out (BitVec.ofNat 2048 (packElems (fmtWidth dst.toNat) ((List.range n).map (fun j => (cv j).1)))) (flagsOf ((List.range n).map cv))) ∧
    (let xs := (List.range 64).map (elemOf (s.vv rs1) 32)
     let b0 := quantise fmt.toNat (xs.take 32) mode (fun i => s.draw i)
     let b1 := quantise fmt.toNat (xs.drop 32) mode (fun i => s.draw (32 + i))
     exec (.vqmx rm fmt rs1 rd) s =
       .next (out (BitVec.ofNat 2048 (packElems (fmtWidth fmt.toNat) (b0.2.1 ++ b1.2.1) + b0.1 * 2 ^ 2032 + b1.1 * 2 ^ 2040)) (b0.2.2 ||| b1.2.2))) ∧
    (let dq (j : Nat) : Nat × Nat := dequant fmt.toNat (elemOf (s.vv rs1) 8 (254 + j / 32)) (elemOf (s.vv rs1) (fmtWidth fmt.toNat) j)
     exec (.vdqmx fmt rs1 rd) s =
       .next (((s.setV rd (BitVec.ofNat 2048 (packElems 32 ((List.range 64).map (fun j => (dq j).1))))).orFlags (flagsOf ((List.range 64).map dq))).goneTo (s.me.pc + 4))))

/-! ## Tile instructions (R245 to R264) -/

/-- ASSET sets one field of an address stream and its position to 0 (R260); MZERO makes an accumulator FULL zero (R254). MLD reads the rows and scale
bytes that its tile's configuration lays out, as one access to local store, from a register or a stream's base; a stream advances once (R247, R248,
R252, R253, R261, R262). Where that access takes one turn of the banks, md is FULL with each row's elements in its low bits above zeros, its scale
bytes, 0x7F where the tile has none, and rows beyond the tile's of zeros and 0x7F; no other register and no byte of local store changes. Where it
takes more, the transfer waits for its cycle (VectorTransfers). MST writes one row of an accumulator, converted or quantised in blocks of 32 with its
scale bytes, as one access to local store, and moves the row cursor of wl.mstcfg on, modulo 64 (R249, R252, R253); the stream form advances its stream
once. Where that access takes one turn of the banks, local store holds the elements at the address, the scale bytes at their offset where no element
lies over them, and every other byte as before; the accumulator stays. -/
def Obligations.TileLoadsAndStores : Prop :=
  (∀ (s : State) (rs1 : BitVec 5) (as cd : BitVec 2), s.noRepeat → s.me.role = .m →
    (s.readable .x rs1.toNat →
      let x : Stream := { s.stream as.toNat with pos := 0 }
      let out (y : Stream) : State := (s.modMe (fun t => { t with streams := nput t.streams as.toNat y })).goneTo (s.me.pc + 4)
      exec (.asset 0 rs1 as) s = .next (out { x with base := s.xv rs1 }) ∧ exec (.asset 1 rs1 as) s = .next (out { x with stride1 := s.xv rs1 }) ∧
      exec (.asset 2 rs1 as) s = .next (out { x with count1 := (s.xv rs1).setWidth 32 }) ∧ exec (.asset 3 rs1 as) s = .next (out { x with stride2 := s.xv rs1 })) ∧
    (s.writable .c cd.toNat → s.arrayClear [(.c, cd.toNat)] →
      exec (.mzero cd) s = .next ((s.modMe (fun t => t.setCr cd.toNat ⟨.full, 0⟩)).goneTo (s.me.pc + 4)))) ∧
  (∀ (s : State) (rs1 : BitVec 5) (as : BitVec 2) (md : BitVec 3), s.noRepeat → s.me.role = .m → s.writable .m md.toNat → s.arrayClear [(.m, md.toNat)] →
    s.here.transfer = none →
    let g := s.mcfg md.toNat
    let shape : Prop := typeOk (wf g 0 4) = true ∧ 1 ≤ wf g 9 7 ∧ wf g 9 7 ≤ 64 ∧ 1 ≤ wf g 16 8 ∧ wf g 16 8 ≤ typeK (wf g 0 4) ∧
      (g.getLsbD 4 = true → wf g 0 4 ≠ 1 ∧ wf g 0 4 ≠ 8)
    let fine (a : Nat) : Prop := (∀ p ∈ mldPieces g a, p.fail = none) ∧ s.bytesPass false ((mldPieces g a).flatMap (·.bytes))
    let start (a : Word) : State := s.startTransfer (.mload md.toNat g a) ((mldPieces g a.toNat).flatMap (·.bytes))
    let x := s.stream as.toNat
    let y : Stream := if x.pos + 1 = x.count1 then { x with pos := 0, base := x.base + x.stride2 } else { x with pos := x.pos + 1, base := x.base + x.stride1 }
    let rows := wf g 9 7
    let bits := wf g 16 8 * fmtWidth (wf g 0 4)
    let blocks := (wf g 16 8 + 31) / 32
    let loaded (a : Word) (t : State) : Prop := turnsOf ((mldPieces g a.toNat).flatMap (·.bytes)) ≤ 1 → s.me.state ≠ .empty →
      (t.me.mr md.toNat).st = .full ∧
      (∀ i, i < 64 → ((t.me.mr md.toNat).val.extractLsb' (512 * i) 512).toNat =
        if i < rows then memRead s.here.ls (a.toNat + 8 * wf g 24 12 * i) (8 * ((bits + 63) / 64)) % 2 ^ bits else 0) ∧
      (∀ i b, i < 64 → b < 4 → (t.me.mr md.toNat).val.extractLsb' (32768 + 32 * i + 8 * b) 8 =
        if i < rows ∧ g.getLsbD 4 = true ∧ b < blocks then
          memGet s.here.ls (((a.toNat : Int) + (g.extractLsb' 48 16).toInt + (4 * wf g 36 12 * i : Nat)).toNat + b) else 0x7F) ∧
      (∀ n, n ≠ md.toNat → t.me.mr n = s.me.mr n) ∧ t.me.x = s.me.x ∧ t.me.v = s.me.v ∧ t.me.c = s.me.c ∧ t.here.ls = s.here.ls
    let byAddress := (start (s.xv rs1)).goneTo (s.me.pc + 4)
    let byStream := ((start x.base).modMe (fun t => { t with streams := nput t.streams as.toNat y })).goneTo (s.me.pc + 4)
    shape →
    (s.readable .x rs1.toNat → fine (s.xv rs1).toNat → exec (.mldAddr rs1 md) s = .next byAddress ∧ loaded (s.xv rs1) byAddress) ∧
    (fine x.base.toNat → exec (.mldStream as md) s = .next byStream ∧ loaded x.base byStream)) ∧
  (∀ (s : State) (rm : BitVec 3) (sat : BitVec 1) (fmt : BitVec 4) (rs1 : BitVec 5) (as cs : BitVec 2), s.noRepeat → s.me.role = .m → s.readable .c cs.toNat →
    s.arrayClear [(.c, cs.toNat)] → s.here.transfer = none →
    let g := s.me.mstcfg
    let n := wf g 16 8
    let r := wf g 0 6
    let mx := g.getLsbD 6
    let f := fmt.toNat
    let mode := rmOf rm.toNat
    let xs := (List.range n).map (fun j => elemOf (s.me.cr cs.toNat).val 32 (64 * r + j))
    let rs := (List.range n).map (fun j => convert (if f = 8 then 9 else 0) f (elemOf (s.me.cr cs.toNat).val 32 (64 * r + j)) mode (sat == 1#1) (s.draw j))
    let q : List Nat × List Nat × Nat := if mx then quantBlocks s f xs mode (n / 32) else if f = 0 ∨ f = 9 then ([], xs, 0) else ([], rs.map (·.1), flagsOf rs)
    let len := (n * fmtWidth f + 7) / 8
    let sa (a : Word) : Int := (a.toNat : Int) + (g.extractLsb' 48 16).toInt
    let ps (a : Word) : List Piece := (if mx then [{ addr := sa a, len := n / 32, align := 1 }] else []) ++ [{ addr := (a.toNat : Int), len := len, align := 8 }]
    let bytes (a : Word) : List (Nat × Byte) := placeAt (sa a).toNat (q.1.map (BitVec.ofNat 8)) ++ placeAt a.toNat (bytesOf len (packElems (fmtWidth f) q.2.1))
    let fine (a : Word) : Prop := (∀ p ∈ ps a, p.fail = none) ∧ s.bytesPass true ((ps a).flatMap (·.bytes))
    let out (a : Word) : State := (((s.startTransfer (.mstore (bytes a)) ((ps a).flatMap (·.bytes))).orFlags q.2.2).useDraw mode).modMe
      (fun t => { t with mstcfg := setField g 0 6 ((r + 1) % 64) })
    let x := s.stream as.toNat
    let y : Stream := if x.pos + 1 = x.count1 then { x with pos := 0, base := x.base + x.stride2 } else { x with pos := x.pos + 1, base := x.base + x.stride1 }
    let stored (a : Word) (t : State) : Prop := turnsOf ((ps a).flatMap (·.bytes)) ≤ 1 →
      (∀ b, memGet t.here.ls b =
        if a.toNat ≤ b ∧ b < a.toNat + len then BitVec.ofNat 8 (packElems (fmtWidth f) q.2.1 / 2 ^ (8 * (b - a.toNat)))
        else if mx = true ∧ sa a ≤ b ∧ (b : Int) < sa a + (n / 32 : Nat) then BitVec.ofNat 8 (q.1.getD (b - (sa a).toNat) 0)
        else memGet s.here.ls b) ∧
      t.me.c = s.me.c ∧ t.me.x = s.me.x ∧ t.me.m = s.me.m ∧ t.me.v = s.me.v
    let byAddress := (out (s.xv rs1)).goneTo (s.me.pc + 4)
    let byStream := ((out x.base).modMe (fun t => { t with streams := nput t.streams as.toNat y })).goneTo (s.me.pc + 4)
    1 ≤ n → n ≤ 64 → (mx = true → 2 ≤ f ∧ f < 7 ∧ n % 32 = 0) →
    (s.readable .x rs1.toNat → fine (s.xv rs1) → exec (.mstAddr rm sat fmt rs1 cs) s = .next byAddress ∧ stored (s.xv rs1) byAddress) ∧
    (fine x.base → exec (.mstStream rm sat fmt as cs) s = .next byStream ∧ stored x.base byStream))

/-- MMOVV puts the cursor's row of an accumulator, converted or quantised, into the same row of a tile with its scale bytes (0x7F where the row has no
block), leaves the other rows and moves the cursor on (R254). MDOT and MDOTS occupy the array with the result on their operands as they stand: element
(i, j) of the rows of ma and mb is the sum of R255 or the clamped sum of R257, the others stay; the result stands in cd when the array's 64 cycles end
(R258). -/
def Obligations.TileArithmetic : Prop :=
  (∀ (s : State) (rm : BitVec 3) (cs : BitVec 2) (md : BitVec 3), s.noRepeat → s.me.role = .m → s.readable .c cs.toNat → s.writable .m md.toNat →
    s.arrayClear [(.c, cs.toNat), (.m, md.toNat)] →
    let g := s.mcfg md.toNat
    let ty := wf g 0 4
    let n := wf g 16 8
    let mode := rmOf rm.toNat
    let r := wf s.me.mstcfg 0 6
    typeOk ty = true → 1 ≤ n → n ≤ min 64 (typeK ty) → (g.getLsbD 4 = true → ty ≠ 1 ∧ ty ≠ 8 ∧ n % 32 = 0) → (ty = 1 ∨ ty = 8 → mode = .rne) →
    let xs := (List.range n).map (fun j => elemOf (s.me.cr cs.toNat).val 32 (64 * r + j))
    let rs := (List.range n).map (fun j => convert (if ty = 8 then 9 else 0) ty (elemOf (s.me.cr cs.toNat).val 32 (64 * r + j)) mode true (s.draw j))
    let q : List Nat × List Nat × Nat := if g.getLsbD 4 then quantBlocks s ty xs mode (n / 32) else ([], rs.map (·.1), flagsOf rs)
    ∃ t, exec (.mmovv rm cs md) s = .next t ∧ t.me.pc = s.me.pc + 4 ∧ (t.me.mr md.toNat).st = .full ∧
      ((t.me.mr md.toNat).val.extractLsb' (512 * r) 512).toNat = packElems (fmtWidth ty) q.2.1 % 2 ^ 512 ∧
      ((t.me.mr md.toNat).val.extractLsb' (32768 + 32 * r) 32).toNat = packElems 8 (q.1 ++ List.replicate (4 - q.1.length) 0x7F) % 2 ^ 32 ∧
      (∀ i, i < 64 → i ≠ r → (t.me.mr md.toNat).val.extractLsb' (512 * i) 512 = (s.me.mr md.toNat).val.extractLsb' (512 * i) 512 ∧
        (t.me.mr md.toNat).val.extractLsb' (32768 + 32 * i) 32 = (s.me.mr md.toNat).val.extractLsb' (32768 + 32 * i) 32) ∧
      t.me.mstcfg = setField s.me.mstcfg 0 6 ((r + 1) % 64) ∧ t.me.vflags = (s.me.vflags ||| wd (q.2.2 % 64)) ∧
      t.me.srctr = (if mode = .sr then s.me.srctr + 1 else s.me.srctr) ∧ t.me.c = s.me.c ∧ t.me.x = s.me.x ∧ t.here.ls = s.here.ls) ∧
  ((∀ (s : State) (mb ma : BitVec 3) (cd : BitVec 2), s.noRepeat → s.me.role = .m → s.readable .m ma.toNat → s.readable .m mb.toNat → s.readable .c cd.toNat →
    s.here.array = none →
    let ga := s.mcfg ma.toNat
    let gb := s.mcfg mb.toNat
    let a := (s.me.mr ma.toNat).val
    let b := (s.me.mr mb.toNat).val
    let n := wf ga 16 8
    let shape (g : Word) : Prop := typeOk (wf g 0 4) = true ∧ 1 ≤ wf g 9 7 ∧ wf g 9 7 ≤ 64 ∧ 1 ≤ wf g 16 8 ∧ wf g 16 8 ≤ typeK (wf g 0 4)
    let out (r : BitVec 131072) : State := ((s.modHere (fun k => { k with array := some { slot := s.curSlot, cd := cd.toNat, ma := ma.toNat, mb := mb.toNat, result := r, since := k.cycle } })).count s.curCore 18).goneTo (s.me.pc + 4)
    let each (r : BitVec 131072) (v : Nat → Nat → Nat → Nat) : Prop := ∀ i j, i < 64 → j < 64 →
      elemOf r 32 (64 * i + j) = if i < wf ga 9 7 ∧ j < wf gb 9 7 then v i j (elemOf (s.me.cr cd.toNat).val 32 (64 * i + j)) % 2 ^ 32
        else elemOf (s.me.cr cd.toNat).val 32 (64 * i + j)
    shape ga → shape gb → wf ga 16 8 = wf gb 16 8 →
    (pairOk false (wf ga 0 4) (wf gb 0 4) = true → ∃ r, exec (.mdot mb ma cd) s = .next (out r) ∧
      each r (fun i j x => dotElem x (((rowChunks a (wf ga 0 4) n i).zip (rowChunks b (wf gb 0 4) n j)).map (fun p => (p.1.1, p.2.1, p.1.2, p.2.2))))) ∧
    (wf ga 0 4 = 8 → wf gb 0 4 = 8 → ∃ r, exec (.mdots mb ma cd) s = .next (out r) ∧
      each r (fun i j x => clamp32 ((((List.range n).map (fun k => decodeI 8 (elemOf (a.extractLsb' (512 * i) 512) 8 k) *
        decodeI 8 (elemOf (b.extractLsb' (512 * j) 512) 8 k))).sum) + decodeI 32 x)))) ∧
  ∀ (s : State) (core : Nat) (x : ArrayOp), (s.core core).array = some x → x.since + 63 ≤ (s.core core).cycle → (s.slot core x.slot).state ≠ .empty →
    (s.slot core x.slot).doneWait = false →
    exec (.mdotComplete core) s = .next ((s.modSlot core x.slot (fun t => t.setCr x.cd ⟨.full, x.result⟩)).modCore core (fun k => { k with array := none })))

/-- RPT of a count of 0 jumps over its body; another count opens the repeat (R263). In it, an instruction that may stand in a body and executes moves to
the next of the body, back to its first while rounds are left, or out of the repeat after the last. MLD, MST, MDOT, MDOTS, MZERO and ASSET may stand
there: they have their effect, or the trap of their own checks. The instructions of the list, each of another kind, do not: they trap with cause 49,
reason 6, whatever their registers hold (R251, R264). -/
def Obligations.Repeats : Prop :=
  (∀ (s : State) (lenm1 : BitVec 3) (rs1 : BitVec 5), s.noRepeat → s.me.role = .m → s.readable .x rs1.toNat →
    (wf (s.xv rs1) 0 32 = 0 → exec (.rpt lenm1 rs1) s = .next (s.goneTo (s.me.pc + 4 + BitVec.ofNat 64 (4 * (lenm1.toNat + 1))))) ∧
    (wf (s.xv rs1) 0 32 ≠ 0 → exec (.rpt lenm1 rs1) s =
      .next ((s.modMe (fun t => { t with rptstat := BitVec.ofNat 64 (wf (s.xv rs1) 0 32 * 2 ^ 32 + 2 ^ 11 + lenm1.toNat) })).goneTo (s.me.pc + 4)))) ∧
  (∀ (s : State) (rs2 rs1 rd reg : BitVec 5) (i12 : BitVec 12) (i20 : BitVec 20) (i7 : BitVec 7) (sh : BitVec 6) (sc fm pr su : BitVec 4) (ph aq rl dbl hi : BitVec 1)
      (q len : BitVec 3) (rm md : BitVec 3) (cs ch : BitVec 2), s.me.rptstat.getLsbD 11 = true → s.me.role = .m → sc < 5 →
    let refused (i : Instr) : Prop := exec i s = .next (s.trap 49 (BitVec.ofNat 64 (6 * 2 ^ 56)))
    refused (.lui i20 rd) ∧ refused (.auipc i20 rd) ∧ refused (.jal i20 rd) ∧ refused (.jalr i12 rs1 rd) ∧ refused (.beq i7 rs2 rs1 rd) ∧
    refused (.bne i7 rs2 rs1 rd) ∧ refused (.blt i7 rs2 rs1 rd) ∧ refused (.bge i7 rs2 rs1 rd) ∧ refused (.bltu i7 rs2 rs1 rd) ∧
    refused (.bgeu i7 rs2 rs1 rd) ∧ refused (.lb i12 rs1 rd) ∧ refused (.lw i12 rs1 rd) ∧ refused (.ld i12 rs1 rd) ∧ refused (.sb i7 rs2 rs1 rd) ∧
    refused (.sw i7 rs2 rs1 rd) ∧ refused (.sd i7 rs2 rs1 rd) ∧ refused (.addi i12 rs1 rd) ∧ refused (.slli sh rs1 rd) ∧ refused (.add rs2 rs1 rd) ∧
    refused (.mul rs2 rs1 rd) ∧ refused (.div rs2 rs1 rd) ∧ refused (.fence fm pr su) ∧ refused .ecall ∧ refused .ebreak ∧
    refused (.csrrw 0x808 rs1 rd) ∧ refused (.csrrs 0xC00 rs1 rd) ∧ refused (.csrrci 0x811 reg rd) ∧ refused (.lr aq rl rs1 dbl rd) ∧
    refused (.sc aq rl rs2 rs1 dbl rd) ∧ refused (.amoadd aq rl rs2 rs1 dbl rd) ∧ refused (.fstat 0 reg rd) ∧ refused (.mvf 2 reg rd) ∧
    refused (.fwait 3 reg) ∧ refused (.waitany rs1 rd) ∧ refused (.fdrop 0 reg) ∧ refused (.fpoison 0 rs1 reg) ∧ refused (.lacq sc rs1 rd) ∧
    refused (.srel sc rs2 rs1) ∧ refused (.fences sc su pr) ∧ refused (.owne rs1) ∧ refused (.ownt rs1) ∧ refused (.ownq rs1 rd) ∧
    refused (.binit hi rs1 reg) ∧ refused (.barv hi reg) ∧ refused (.bexp hi rs1 reg) ∧ refused (.bwait hi rd ph reg) ∧ refused (.bquery hi rd reg) ∧
    refused (.qpush rs2 q) ∧ refused (.qpop q rd) ∧ refused (.qlen q rd) ∧ refused (.block rs1) ∧ refused (.bunlock rs1) ∧ refused (.mmovv rm cs md) ∧
    refused (.rpt len rs1) ∧ refused (.cpr ch reg rd) ∧ refused (.mcfree rs1) ∧ refused (.tdisc sc rs1 rd) ∧ refused (.lpin rs2 rs1) ∧
    refused (.lunpin rs2 rs1) ∧ refused (.spawn rs1 rd) ∧ refused .done ∧ refused .yield ∧ refused (.send rs2 rs1 rd) ∧ refused (.sendt rs2 rs1 rd) ∧
    refused (.recvf rd) ∧ refused (.timerf rs1 rd) ∧ refused .specb ∧ refused .specc ∧ refused .speca) ∧
  (∀ (s : State) (rm : BitVec 3) (sat : BitVec 1) (fmt : BitVec 4) (rs1 : BitVec 5) (as cs cd : BitVec 2) (md ma mb : BitVec 3),
    s.me.rptstat.getLsbD 11 = true → s.me.role = .m →
    let own (i : Instr) (reason ident : Nat) : Prop := exec i s = .next (s.trap 49 (BitVec.ofNat 64 (reason * 2 ^ 56 + ident)))
    (s.readable .x rs1.toNat → ∃ t, exec (.asset 0 rs1 as) s = .next t ∧ (t.stream as.toNat).base = s.xv rs1) ∧
    (s.writable .c cd.toNat → s.arrayClear [(.c, cd.toNat)] → ∃ t, exec (.mzero cd) s = .next t ∧ t.me.cr cd.toNat = ⟨.full, 0⟩) ∧
    (s.writable .m md.toNat → s.arrayClear [(.m, md.toNat)] → typeOk (wf (s.mcfg md.toNat) 0 4) = false →
      (s.readable .x rs1.toNat → own (.mldAddr rs1 md) 1 (0x200 + md.toNat)) ∧ own (.mldStream as md) 1 (0x200 + md.toNat)) ∧
    (s.readable .c cs.toNat → s.arrayClear [(.c, cs.toNat)] → wf s.me.mstcfg 16 8 = 0 →
      (s.readable .x rs1.toNat → own (.mstAddr rm sat fmt rs1 cs) 2 0x3FF) ∧ own (.mstStream rm sat fmt as cs) 2 0x3FF) ∧
    (s.readable .m ma.toNat → s.readable .m mb.toNat → s.readable .c cd.toNat → typeOk (wf (s.mcfg ma.toNat) 0 4) = false →
      own (.mdot mb ma cd) 1 (0x200 + ma.toNat) ∧ own (.mdots mb ma cd) 1 (0x200 + ma.toNat))) ∧
  ∀ (s t : State) (fm : Form) (body : State → Act), s.me.rptstat.getLsbD 11 = true → s.me.role = .m → fm.priv = false → fm.scope = none → fm.roles .m = true →
    (fm.inBody = false → issue fm body s = .next (s.trap 49 (BitVec.ofNat 64 (6 * 2 ^ 56)))) ∧
    (fm.inBody = true → examine s.me fm.regs = .pass → s.arrayClear fm.touches → body s = .done t → t.curCore = s.curCore → t.curSlot = s.curSlot →
      let len := wf s.me.rptstat 0 3 + 1
      let pos := wf s.me.rptstat 3 3
      let left := wf s.me.rptstat 32 32
      pos < len → 1 ≤ left →
      ∃ t', issue fm body s = .next t' ∧ wf t'.me.rptstat 0 3 + 1 = len ∧
        (pos + 1 < len → t'.me.pc = s.me.pc + 4 ∧ wf t'.me.rptstat 3 3 = pos + 1 ∧ wf t'.me.rptstat 32 32 = left ∧ t'.me.rptstat.getLsbD 11 = true) ∧
        (pos + 1 = len → 1 < left → t'.me.pc + BitVec.ofNat 64 (4 * len) = s.me.pc + 4 ∧ wf t'.me.rptstat 3 3 = 0 ∧ wf t'.me.rptstat 32 32 = left - 1 ∧
          t'.me.rptstat.getLsbD 11 = true) ∧
        (pos + 1 = len → left = 1 → t'.me.pc = s.me.pc + 4 ∧ wf t'.me.rptstat 32 32 = 0 ∧ t'.me.rptstat.getLsbD 11 = false))

/-! ## Plots, barriers, queues and bank locks (R195 to R212) -/

/-- OWNE gives a plot to the engines and OWNT to the threads, each once nothing it would disturb is unfinished, OWNQ reads owner, use and reservation, a
segment that another core's copy has on its way counting as use (R278); a number of no plot, and a change of a reserved one, trap with cause 27 (R195
to R198). QPUSH hands its value to the oldest waiting claim or appends it, and parks on a full queue; QPOP takes the oldest entry or waits with a
cancellable claim of class 4, for x0 not at all; QLEN reads the numbers of entries and of waiting claims (R207, R208). BLOCK takes the bank of an
address, or parks while another slot holds it; BUNLOCK frees it when its own; a lock as old as 4,096 cycles is broken and its holder marked for the
cause-30 trap (R209 to R212). -/
def Obligations.LocalUnits : Prop :=
  (∀ (s : State) (rs1 rd : BitVec 5), s.noRepeat → s.readable .x rs1.toNat →
    let p := (s.xv rs1).toNat
    let use := s.plotInUse s.curCore p
    (p < 256 → s.reservedPlot s.curCore p = false →
      (s.here.plotBusy p = false → exec (.owne rs1) s = .next ((s.modHere (fun k => { k with owners := nput k.owners p true })).goneTo (s.me.pc + 4))) ∧
      (s.here.plotBusy p = true → exec (.owne rs1) s = .next (s.countS s.curCore s.curSlot 3)) ∧
      (use = false → exec (.ownt rs1) s = .next ((s.modHere (fun k => { k with owners := nput k.owners p false })).goneTo (s.me.pc + 4))) ∧
      (use = true → exec (.ownt rs1) s = .next (s.countS s.curCore s.curSlot 3))) ∧
    (p < 256 → s.writable .x rd.toNat →
      let reserved := s.reservedPlot s.curCore p
      exec (.ownq rs1 rd) s = .next (s.wrote rd (BitVec.ofNat 64 ((if reserved then 4 else 0) + (if use then 2 else 0) +
        (if (nget s.here.owners p).getD false = true ∧ reserved = false then 1 else 0))))) ∧
    (256 ≤ p ∨ s.reservedPlot s.curCore p = true → exec (.owne rs1) s = .next (s.trap 27 (s.xv rs1)) ∧ exec (.ownt rs1) s = .next (s.trap 27 (s.xv rs1))) ∧
    (256 ≤ p → s.writable .x rd.toNat → exec (.ownq rs1 rd) s = .next (s.trap 27 (s.xv rs1)))) ∧
  (∀ (s : State) (q : BitVec 3) (rs2 rd : BitVec 5), s.noRepeat →
    let x := s.here.queue q.toNat
    let put (k : Core) (y : Queue) : Core := { k with queues := nput k.queues q.toNat y }
    (s.readable .x rs2.toNat →
      (∀ w ws, x.waits = w :: ws → exec (.qpush rs2 q) s =
        .next (((s.modHere (fun k => put k { x with waits := ws })).fillNext s.curCore (some w) (s.xv rs2)).goneTo (s.me.pc + 4))) ∧
      (x.waits = [] → x.entries.length ≠ 16 → exec (.qpush rs2 q) s =
        .next ((s.modHere (fun k => put k { x with entries := x.entries ++ [s.xv rs2] })).goneTo (s.me.pc + 4))) ∧
      (x.waits = [] → x.entries.length = 16 → exec (.qpush rs2 q) s =
        .next ((s.modMe (fun t => { t with state := .parked, park := some (.queue q.toNat x.popped), parkCount := 0 })).countS s.curCore s.curSlot 3))) ∧
    (s.writable .x rd.toNat →
      (∀ v vs, x.entries = v :: vs → exec (.qpop q rd) s = .next (((s.modHere (fun k => put k { x with entries := vs, popped := x.popped + 1 })).setX rd v).goneTo (s.me.pc + 4))) ∧
      (∀ (u : State) (c : Nat), x.entries = [] → s.pend .x rd.toNat 4 true = some (u, some c) → exec (.qpop q rd) s =
        .next ((u.modHere (fun k => put k { x with waits := x.waits ++ [c] })).goneTo (s.me.pc + 4))) ∧
      (x.entries = [] → rd = 0 → exec (.qpop q rd) s = .next (s.goneTo (s.me.pc + 4))) ∧
      exec (.qlen q rd) s = .next (s.wrote rd (BitVec.ofNat 64 (x.waits.length % 1024 * 2 ^ 16 + x.entries.length % 32))))) ∧
  ((∀ (s : State) (rs1 : BitVec 5), s.noRepeat → s.readable .x rs1.toNat →
    let a := s.xv rs1
    let b := a.toNat / 8 % 64
    (a.toNat < 2 ^ 20 →
      (nget s.here.locks b = none →
        exec (.block rs1) s = .next ((s.modHere (fun k => { k with locks := nput k.locks b { slot := s.curSlot, since := k.cycle, addr := a } })).goneTo (s.me.pc + 4)) ∧
        exec (.bunlock rs1) s = .next (s.goneTo (s.me.pc + 4))) ∧
      (∀ l, nget s.here.locks b = some l → l.slot = s.curSlot → exec (.block rs1) s = .next (s.goneTo (s.me.pc + 4)) ∧
        exec (.bunlock rs1) s = .next ((s.modHere (fun k => { k with locks := ndel k.locks b })).goneTo (s.me.pc + 4))) ∧
      (∀ l, nget s.here.locks b = some l → l.slot ≠ s.curSlot → exec (.bunlock rs1) s = .next (s.goneTo (s.me.pc + 4)) ∧
        exec (.block rs1) s =
          .next ((s.modMe (fun t => { t with state := .parked, park := some (.lock b l.slot l.since), parkCount := 0 })).countS s.curCore s.curSlot 3))) ∧
    (2 ^ 20 ≤ a.toNat → exec (.block rs1) s = .next (s.trap 5 a) ∧ exec (.bunlock rs1) s = .next (s.trap 5 a))) ∧
  ∀ (s : State) (c b : Nat) (l : Lock), nget (s.core c).locks b = some l → l.since + 4096 ≤ (s.core c).cycle →
    exec (.lockBreak c b) s = .next (((s.modCore c (fun k => { k with locks := ndel k.locks b })).modSlot c l.slot
      (fun t => { t with broken := some (t.broken.getD l.addr) })).count c 17))

/-- The barrier instructions: BINIT sets the expected arrivals and poisons the waiting claims, BARV arrives, BEXP adds pending bytes, BWAIT answers 0 once
its phase is over and otherwise waits (x0 does not), BQUERY reads phase, arrivals and pending (R199 to R205). Event(b, a, n) of R200: arrivals and
pending bytes are counted modulo their widths; when the arrivals are those expected and nothing is pending, the phase flips, the arrivals restart and
every claim that waits for the phase that ends is filled in the next cycle. -/
def Obligations.BarrierInstructions : Prop :=
  (∀ (s : State) (hi : BitVec 1) (bar rs1 rd : BitVec 5) (ph : BitVec 1), s.noRepeat →
    let b := (hi ++ bar).toNat
    let x := s.here.barrier b
    (s.readable .x rs1.toNat → ∃ t, exec (.binit hi rs1 bar) s = .next t ∧ t.me.pc = s.me.pc + 4 ∧
      t.here.barrier b = { exp := (s.xv rs1).setWidth 16, arr := 0, pend := 0, phase := false, waits := [] } ∧
      t.here.deliveries = s.here.deliveries ++ x.waits.map (fun w => ⟨w.1, s.here.cycle + 1, .poison (descriptor 5 0x30 b)⟩) ∧
      ∀ j, j ≠ b → t.here.barrier j = s.here.barrier j) ∧
    exec (.barv hi bar) s = .next ((s.barEvent s.curCore b 1 0).goneTo (s.me.pc + 4)) ∧
    (s.readable .x rs1.toNat → exec (.bexp hi rs1 bar) s = .next ((s.barEvent s.curCore b 0 (-((s.xv rs1).setWidth 32))).goneTo (s.me.pc + 4))) ∧
    (s.writable .x rd.toNat →
      exec (.bquery hi rd bar) s = .next (s.wrote rd (BitVec.ofNat 64 ((if x.phase then 2 ^ 63 else 0) + x.arr.toNat * 2 ^ 32 + x.pend.toNat))) ∧
      ((ph = 1#1) ≠ (x.phase = true) → exec (.bwait hi rd ph bar) s = .next (s.wrote rd 0)) ∧
      ((ph = 1#1) = (x.phase = true) → rd = 0 → exec (.bwait hi rd ph bar) s = .next (s.goneTo (s.me.pc + 4))) ∧
      ((ph = 1#1) = (x.phase = true) → ∀ (u : State) (c : Nat), s.pend .x rd.toNat 5 true = some (u, some c) →
        exec (.bwait hi rd ph bar) s =
          .next ((u.modHere (fun k => { k with barriers := nput k.barriers b { x with waits := x.waits ++ [(c, x.phase)] } })).goneTo (s.me.pc + 4))))) ∧
  (∀ (s : State) (c b a : Nat) (n : BitVec 32),
    let x := (s.core c).barrier b
    let arr := x.arr + BitVec.ofNat 16 a
    let t := s.barEvent c b a n
    let y := (t.core c).barrier b
    (arr = x.exp ∧ x.pend - n = 0 → y.phase = !x.phase ∧ y.arr = 0 ∧ y.pend = 0 ∧ y.exp = x.exp ∧ y.waits = x.waits.filter (fun w => w.2 != x.phase) ∧
      (t.core c).deliveries = (s.core c).deliveries ++ (x.waits.filter (fun w => w.2 == x.phase)).map (fun w => ⟨w.1, (s.core c).cycle + 1, fillW 0⟩)) ∧
    (¬(arr = x.exp ∧ x.pend - n = 0) → y = { x with arr := arr, pend := x.pend - n } ∧ (t.core c).deliveries = (s.core c).deliveries) ∧
    ∀ j, j ≠ b → (t.core c).barrier j = (s.core c).barrier j)

/-- BARV applies Event(b, 1, 0) and BEXP Event(b, 0, −SExt(xs1[31:0])), the upper half of xs1 ignored: the announced flits are added to those pending, so
that a negative operand withdraws some (R203). -/
def Obligations.BarrierArrivals : Prop :=
  ∀ (s : State) (hi : BitVec 1) (bar rs1 : BitVec 5), s.noRepeat →
    let b := (hi ++ bar).toNat
    exec (.barv hi bar) s = .next ((s.barEvent s.curCore b 1 0).goneTo (s.me.pc + 4)) ∧
    (s.readable .x rs1.toNat →
      let n : BitVec 32 := (s.xv rs1).setWidth 32
      exec (.bexp hi rs1 bar) s = .next ((s.barEvent s.curCore b 0 (-n)).goneTo (s.me.pc + 4)) ∧
      (¬((s.here.barrier b).arr = (s.here.barrier b).exp ∧ (s.here.barrier b).pend + n = 0) →
        ((s.barEvent s.curCore b 0 (-n)).here.barrier b).pend = (s.here.barrier b).pend + n))

/-! ## Ranges (R170 to R192) -/

/-- The range instructions of the K-role slot with a future: a walk of wl.rdmnt's or wl.rdir's directory, or a request to the home of the first slot that
a search probes; a directory that cannot be searched answers NODIR (R173, R174, R181 to R185, R189). RSETRES and RCLRRES send their update once
nothing earlier is left to be performed at module scope, hold the slot until that update is answered, and then move on, or trap with cause 13 and the
reason in wl.rfinfo; a directory that cannot be searched has reason 7 (R180, R186). RINV of no byte answers 0; another takes a claim of class 1 and,
once the earlier accesses of its scope are performed, sends its span to every exposed core and every gleaner of the live sites of the scope, at core
scope to the issuing core alone with its site's gleaner (R24, R187). -/
def Obligations.RangeInstructions : Prop :=
  (∀ (s u : State) (c : Option Nat) (rs2 rs1 rd : BitVec 5), s.noRepeat → s.me.role = .k → s.readable .x rs1.toNat → s.writable .x rd.toNat →
    s.pend .x rd.toNat 1 false = some (u, c) →
    let d := u.here.rdmnt
    let probed (dir : Word) (fill : Bool) : State := (u.startWalk u.curCore (s.xv rs1) dir (.probe c fill) false).1.goneTo (s.me.pc + 4)
    let sent (op : DirOp) : State := (u.inject .request (.core u.curCore) (siteOf u.curCore) (u.site (siteOf u.curCore)).part
      (.phys (wf d 0 31 * 4096 + 64 * (min (wf d 35 17) 65536 / 2))) (.dir u.curSlot c 0 d op)).goneTo (s.me.pc + 4)
    let nodir : State := (u.fillNow u.curCore c (BitVec.ofNat 64 (7 * 2 ^ 56))).goneTo (s.me.pc + 4)
    exec (.rprobe rs1 rd) s = .next (probed u.here.rdmnt false) ∧ exec (.rloadt rs1 rd) s = .next (probed u.here.rdir true) ∧
    exec (.rmerge rs1 rd) s = .next (if dirBad d = true then nodir else sent (.merge (s.xv rs1))) ∧
    (s.readable .x rs2.toNat →
      exec (.rsplit rs2 rs1 rd) s = .next (if dirBad d = true then nodir else sent (.split (s.xv rs1) (s.xv rs2))) ∧
      exec (.rglean rs2 rs1 rd) s = .next (if dirBad d = true then nodir else sent (.glean (s.xv rs1) (s.xv rs2))))) ∧
  (∀ (s : State) (rs2 rs1 : BitVec 5), s.noRepeat → s.me.role = .k → s.readable .x rs1.toNat → s.readable .x rs2.toNat →
    let d := s.here.rdmnt
    let sent (op : DirOp) : State := ((s.bump.inject .request (.core s.curCore) (siteOf s.curCore) (s.site (siteOf s.curCore)).part
      (.phys (wf d 0 31 * 4096 + 64 * (min (wf d 35 17) 65536 / 2))) (.dir s.curSlot none s.nextId d op)).modMe (fun t => { t with dirWait := some (.sent s.nextId) })).bubble
    let failed (r i : Nat) : State := (s.modMe (fun t => { t with rfinfo := rfinfoOf r (wf d 52 12) i })).trap 13 (s.xv rs1)
    (s.me.dirWait = none → s.releaseWaits 3 = [] →
      (dirBad d = false →
        exec (.rsetres rs2 rs1) s = .next (sent (.setres (s.xv rs1) (s.xv rs2))) ∧ exec (.rclrres rs2 rs1) s = .next (sent (.clrres (s.xv rs1) (s.xv rs2)))) ∧
      (dirBad d = true → exec (.rsetres rs2 rs1) s = .next (failed 7 0) ∧ exec (.rclrres rs2 rs1) s = .next (failed 7 0))) ∧
    ((∃ a, s.me.dirWait = some (.sent a)) ∨ (s.me.dirWait = none ∧ s.releaseWaits 3 ≠ []) →
      exec (.rsetres rs2 rs1) s = .next s.bubble ∧ exec (.rclrres rs2 rs1) s = .next s.bubble) ∧
    (∀ i, s.me.dirWait = some (.done 0 i) →
      exec (.rsetres rs2 rs1) s = .next (s.goneTo (s.me.pc + 4)) ∧ exec (.rclrres rs2 rs1) s = .next (s.goneTo (s.me.pc + 4))) ∧
    ∀ r i, r ≠ 0 → s.me.dirWait = some (.done r i) → exec (.rsetres rs2 rs1) s = .next (failed r i) ∧ exec (.rclrres rs2 rs1) s = .next (failed r i)) ∧
  ((∀ (s : State) (sc : BitVec 4) (scope : Nat) (rs2 rs1 rd : BitVec 5), s.noRepeat → s.me.role = .k → s.resolveScope sc = some scope →
    s.readable .x rs1.toNat → s.readable .x rs2.toNat → s.writable .x rd.toNat →
    (s.xv rs2 = 0 → exec (.rinv sc rs2 rs1 rd) s = .next (s.wrote rd 0)) ∧
    (s.xv rs2 ≠ 0 → ∀ (u : State) (c : Option Nat), s.pend .x rd.toNat 1 false = some (u, c) →
      let v := u.bump
      let proc := BitVec.ofNat 12 (wf s.here.rdmnt 52 12)
      let lo := (s.xv rs1).toNat
      let hi := min (lo + (s.xv rs2).toNat) windowBase
      (s.releaseWaits scope = [] →
        exec (.rinv sc rs2 rs1 rd) s = .next ((v.sendRinv v.curCore (v.rinvTargets v.curCore scope) proc lo hi c none u.nextId).goneTo (s.me.pc + 4))) ∧
      let h : Held := { core := v.curCore, acc := u.nextId, waits := s.releaseWaits scope, after := [], body := .rinv u.nextId c proc lo hi false, dest := .coords scope }
      (s.releaseWaits scope ≠ [] → exec (.rinv sc rs2 rs1 rd) s = .next ({ v with held := v.held ++ [h] }.goneTo (s.me.pc + 4))))) ∧
  ∀ (s : State) (c scope : Nat),
    let to_ := s.rinvTargets c scope
    (∀ n, n ∈ to_.2 ↔ n < Config.sites ∧ s.inInstance c scope n = true ∧ s.siteLive n = true) ∧
    (scope = 0 → to_.1 = [c]) ∧ (scope ≠ 0 → ∀ d, d ∈ to_.1 ↔ siteOf d ∈ to_.2 ∧ s.exposed d = true))

/-- A walk is answered with what the binary search of R174 finds at its home; a read of a slot that lies in a moved unit goes on to its new home, and one
that is stopped there ends the walk with its code, or with no answer where that answer is lost (R44, R190). The answer tells the users of its walk,
fills the range table for those that asked, lets every slot whose address it matches issue again, and ends the walk; a walk that an RINV discarded
starts again, and the answer of no walk changes nothing (R174 to R176, R180, R183, R188). That an entry which another slot's walk has filled counts as
the fresh one of a slot's own rewalk is the model's choice (log 62). An invalidation at a core drops the table entries of its span at once and
acknowledges once no translated access of the process is left in the span, widened to all that the dropped entries translate; at a gleaner it
acknowledges at once. One for a core of a FENCED site is refused, which counts as its acknowledgement (R43, R187, R188). The last acknowledgement
fills the future of an RINV with how many there were, or, for the invalidation that ends a move, the future of its RGLEAN with the range's index and
the number of blocks carried as uncorrectable, and the forwarding of the range ends (R187, R190). A directory request at its home: the search finds
the range, and the home agent splits, merges, sets or clears residence, or starts a move, and answers (R182, R184 to R186, R189); a search that finds
none answers 1 for a miss, 8 with the slot for a malformed slot, 7 for a directory that cannot be searched, and the code and the slot's address, as a
poison of class 1, for an unreadable slot. A search whose answer is lost on its way back from a moved slot leaves the request unanswered (R44). RSPLIT
and RMERGE in the order of the checks of R184 and R185, with the status words of R182. A split needs an address of 4 KiB inside the range, of a
STRIPED one at a whole row of its units (5), a range that does not move (6) and a VACANT slot after it (2); the right part then stands in that slot
with its tag, the left part in the old one, and the VACANT slots that follow point at the right one. A merge needs a further valid slot (4), no move
of either (6), no gap (4), and equal attributes (3). The gleaner moves a range in units of 4 KiB of 32 blocks; a unit that cannot reach its new home,
or finds none there, ends the move with status 11 LOST and the number of uncorrectable blocks carried so far as its detail, which is the model's
choice (log 41), and one whose answer is lost ends it at its deadline (R44); after the last unit the directory takes the new offset, the MOVING mark
goes, and an invalidation goes to every exposed core and every gleaner of the live sites of the partition (R189 to R192). A directory slot that can no
longer be read ends the move too: the spec states no outcome there, it is the model's choice (log 41). The flits of a unit's blocks are those of their
codes where the range has CMP (R143, R146). -/
def Obligations.WalksAndDirectories : Prop :=
  ((∀ (s : State) (fid : Nat) (f : Flight) (id : Nat) (va d : Word), s.takes fid f → f.body = .walk id va d →
    let u := s.dropFlight fid
    let w := u.walkDir d va.toNat
    (w.2.lost = false → exec (.walk fid) s = .next (w.1.answer f (.walkAns id w.2))) ∧ (w.2.lost = true → exec (.walk fid) s = .next (w.1.loseFlight f)) ∧
    (u.gmoves = [] → w = (u, u.search d va.toNat)) ∧
    (∀ pre i post v t code, u.searchReads d va.toNat = pre ++ i :: post → u.slotTrips d pre = (v, none) →
      v.forwarded (wf d 0 31 * 4096 + 64 * i) 1 (dataFlits 64) v.gmoves.length = (t, ⟨some code, false⟩) →
      w = (t, .unreadable code (wf d 0 31 * 4096 + 64 * i)))) ∧
  (∀ (s : State) (fid c id : Nat) (f : Flight) (res : WalkRes), s.takes fid f → f.src = .core c → f.body = .walkAns id res →
    let u := s.dropFlight fid
    ((s.core c).walks.find? (fun w => w.id == id) = none → exec (.walkFill fid) s = .next u) ∧
    ∀ w, (s.core c).walks.find? (fun w => w.id == id) = some w →
      let told := w.users.foldl (tellUser c w res) u
      let asks : Bool := w.users.any (fun x => match x with | .probe _ f => f | _ => true)
      (w.restart = true → exec (.walkFill fid) s =
        .next ((u.modCore c (fun k => { k with walks := k.walks.map (fun x => if x.id == id then { x with restart := false } else x) })).sendWalk c w)) ∧
      (∀ e i, w.restart = false → res = .found e i → asks = true → exec (.walkFill fid) s =
        .next ((told.modCore c (fun k => (k.fillRange { slot := e, index := i }).reissue id { slot := e, index := i })).endWalk c id)) ∧
      (w.restart = false → ((∀ e i, res ≠ .found e i) ∨ asks = false) → exec (.walkFill fid) s = .next (told.endWalk c id))) ∧
  (∀ (s : State) (c : Nat) (w : WalkRec) (res : WalkRes),
    (∀ claim fill, tellUser c w res s (.probe claim fill) = s.deliverAt c claim (s.core c).cycle (probeValue res w.va)) ∧
    (∀ n va, (s.slot c n).park = some (.walker w.id va) → res.reason.1 ≠ 0 →
      ((tellUser c w res s (.slot n)).slot c n).walkOut = some { va := va, reason := res.reason.1, index := res.reason.2, proc := wf w.dir 52 12 }) ∧
    (∀ n, res.reason.1 = 0 → tellUser c w res s (.slot n) = s) ∧
    ∀ x ∈ ((s.endWalk c w.id).core c).walks, x.id ≠ w.id) ∧
  ∀ (k : Core) (id : Nat) (e : RangeEntry), (k.fillRange e).ranges.head? = some e ∧ (k.fillRange e).ranges.length ≤ 32 ∧
    (∀ x ∈ (k.fillRange e).ranges.tail, x ∈ k.ranges ∧ ¬(x.slot.proc = e.slot.proc ∧ x.slot.base.toNat < e.slot.limit.toNat ∧ e.slot.base.toNat < x.slot.limit.toNat)) ∧
    ∀ n j va, (k.slot n).park = some (.walker j va) →
      ((k.reissue id e).slot n).park = some (.walker (if e.slot.proc = BitVec.ofNat 12 (wf k.rdir 52 12) ∧ e.slot.base.toNat ≤ va.toNat ∧ va.toNat < e.slot.limit.toNat
        then id else j) va)) ∧
  ((∀ (s : State) (fid : Nat) (f : Flight) (id : Nat) (proc : BitVec 12) (lo hi : Nat) (dropped : Bool), s.takes fid f →
    let acked : State := (s.dropFlight fid).answer f (.rinvAck id)
    (f.body = .rinv id none proc lo hi dropped → exec (.rinvAck fid) s = .next acked) ∧
    ∀ c, f.body = .rinv id (some c) proc lo hi dropped → (s.site (siteOf c)).state ≠ .fenced →
      (dropped = true →
        ((s.core c).drains proc lo hi = false → exec (.rinvAck fid) s = .next acked) ∧
        ((s.core c).drains proc lo hi = true → exec (.rinvAck fid) s = .next s)) ∧
      (dropped = false →
        ∀ lo' hi', (s.core c).dropReach proc lo hi = (lo', hi') →
        let g : Flight := { f with body := .rinv id (some c) proc lo' hi' true }
        let v := (s.modCore c (fun k => k.dropSpan proc lo hi)).setFlight g
        (∀ e, e ∈ (v.core c).ranges ↔ e ∈ (s.core c).ranges ∧ ¬(e.slot.proc = proc ∧ e.slot.base.toNat < hi ∧ lo < e.slot.limit.toNat)) ∧
        (lo' ≤ lo ∧ hi ≤ hi' ∧ ∀ e ∈ (s.core c).ranges, e ∉ (v.core c).ranges → lo' ≤ e.slot.base.toNat ∧ e.slot.limit.toNat ≤ hi') ∧
        ((s.core c).drains proc lo' hi' = true → exec (.rinvAck fid) s = .next v) ∧
        ((s.core c).drains proc lo' hi' = false → exec (.rinvAck fid) s = .next ((v.dropFlight fid).answer g (.rinvAck id))))) ∧
  (∀ (k : Core) (proc : BitVec 12) (lo hi : Nat), k.drains proc lo hi = false →
    (∀ a ∈ k.accs, a.translated = true → a.kind ≠ .none → a.proc = proc → hi ≤ a.va ∨ a.va + a.len ≤ lo) ∧
    ∀ p ∈ k.channels, p.2.started = [] ∧ p.2.outstanding = 0) ∧
  (∀ (s : State) (fid c id n : Nat) (f : Flight) (proc : BitVec 12) (lo hi : Nat) (dropped : Bool), s.arrivedPacket fid = some f → f.body = .rinv id (some c) proc lo hi dropped →
    f.dest = .coords n → f.dsite = siteOf c → f.cls = .system → f.dead = false →
    (s.site (siteOf c)).state = .fenced → exec (.rinvAck fid) s = .next (s.setFlight { f with st := .failed 0x26 }) ∧
      ∀ v : State, (∃ i n, f.src = .core i ∨ f.src = .gleaner i n) → v.failFlight f 0x26 = (v.dropFlight f.fid).takeRinvAck id) ∧
  ∀ (s : State) (id : Nat) (r : RinvRec), s.rinvs.find? (fun x => x.id == id) = some r →
    let u : State := { s with rinvs := s.rinvs.filter (fun x => x.id != id) }
    (r.got + 1 < r.expect → s.takeRinvAck id = { s with rinvs := s.rinvs.map (fun x => if x.id == id then { x with got := x.got + 1 } else x) }) ∧
    (r.expect ≤ r.got + 1 →
      (r.move = none → s.takeRinvAck id = u.fillNow r.core r.claim (BitVec.ofNat 64 (r.expect % 2 ^ 32))) ∧
      ∀ m g, r.move = some m → s.gmoves.find? (fun x => x.id == m) = some g → s.takeRinvAck id =
        { u.fillNow g.core g.claim (BitVec.ofNat 64 (g.index % 65536 * 2 ^ 32 + g.bad % 2 ^ 32)) with gmoves := s.gmoves.filter (fun x => x.id != m) })) ∧
  (∀ (s : State) (fid core slot acc : Nat) (claim : Option Nat) (f : Flight) (d : Word) (op : DirOp), s.takes fid f → f.src = .core core → f.body = .dir slot claim acc d op →
    let va : Word := match op with | .split m _ => m | .merge v => v | .setres v _ => v | .clrres v _ => v | .glean v _ => v
    let u := ((s.dropFlight fid).walkDir d va.toNat).1
    let res := ((s.dropFlight fid).walkDir d va.toNat).2
    let n := min (wf d 35 17) 65536
    let filled (v : State) (x : DVal) : State := v.answer f (.fill none claim x)
    (res.lost = true → exec (.directoryUpdate fid) s = .next (u.loseFlight f)) ∧
    (∀ r i, res = .found r i →
      (∀ m tag, op = .split m tag → ∀ v e, u.slotTrips d (u.runReads d n (i + 1) false) = (v, e) →
        (e = none → exec (.directoryUpdate fid) s = .next (filled (v.doSplit d m tag r i).1 (v.doSplit d m tag r i).2)) ∧
        (∀ code pa, e = some (code, pa) → code ≠ 0x25 → exec (.directoryUpdate fid) s = .next (filled v (.poison (descriptor 1 code.toNat pa)))) ∧
        (∀ pa, e = some (0x25, pa) → exec (.directoryUpdate fid) s = .next (v.loseFlight f))) ∧
      (∀ m, op = .merge m → ∀ v e, u.slotTrips d (u.runReads d n (i + 1) true) = (v, e) →
        (e = none → exec (.directoryUpdate fid) s = .next (filled (v.doMerge d r i).1 (v.doMerge d r i).2)) ∧
        (∀ code pa, e = some (code, pa) → code ≠ 0x25 → exec (.directoryUpdate fid) s = .next (filled v (.poison (descriptor 1 code.toNat pa)))) ∧
        (∀ pa, e = some (0x25, pa) → exec (.directoryUpdate fid) s = .next (v.loseFlight f))) ∧
      (∀ v mask, op = .setres v mask → exec (.directoryUpdate fid) s =
        .next ((u.putDirSlot d i { r with resmap := (r.resmap ||| mask) &&& segMask r }.encode).answer f (.dirAns slot acc 0 i))) ∧
      (∀ v mask, op = .clrres v mask → exec (.directoryUpdate fid) s =
        .next ((u.putDirSlot d i { r with resmap := r.resmap &&& ~~~mask &&& segMask r }.encode).answer f (.dirAns slot acc 0 i))) ∧
      ∀ v pa, op = .glean v pa →
        (∀ t, u.doGlean core claim f.part d r i pa = (t, .started) → exec (.directoryUpdate fid) s = .next t) ∧
        (∀ t w, u.doGlean core claim f.part d r i pa = (t, .status w) → exec (.directoryUpdate fid) s = .next (filled t (fillW w))) ∧
        ∀ t w, u.doGlean core claim f.part d r i pa = (t, .poison w) → exec (.directoryUpdate fid) s = .next (filled t (.poison w))) ∧
    ((∀ r i, res ≠ .found r i) → res.lost = false →
      ((∃ v mask, op = .setres v mask ∨ op = .clrres v mask) →
        exec (.directoryUpdate fid) s = .next (u.answer f (.dirAns slot acc res.reason.1 res.reason.2))) ∧
      ((∀ v mask, op ≠ .setres v mask ∧ op ≠ .clrres v mask) → exec (.directoryUpdate fid) s = .next (filled u (match res with
        | .miss => fillW (BitVec.ofNat 64 (2 ^ 56))
        | .malformed i => fillW (BitVec.ofNat 64 (8 * 2 ^ 56 + i % 65536 * 2 ^ 32))
        | .unreadable code pa => .poison (descriptor 1 code.toNat pa)
        | _ => fillW (BitVec.ofNat 64 (7 * 2 ^ 56))))))) ∧
  (∀ (s : State) (d : Word) (r : RangeSlot) (i : Nat),
    let n := min (wf d 35 17) 65536
    let status (st detail : Nat) : DVal := fillW (BitVec.ofNat 64 (st * 2 ^ 56 + i % 65536 * 2 ^ 32 + detail % 2 ^ 32))
    (∀ m tag : Word,
      let away := m.toNat - r.base.toNat
      let unfit : Prop := m.toNat % 4096 ≠ 0 ∨ m.toNat = r.base.toNat ∨ (r.striped = true ∧ away % stripeStep r ≠ 0)
      (unfit → s.doSplit d m tag r i = (s, status 5 0)) ∧
      (¬unfit →
        (r.moving = true → s.doSplit d m tag r i = (s, status 6 0)) ∧
        (r.moving = false → ∀ l e, s.vacantRun d n (i + 1) n = .inl (l, e) →
          (l = [] → s.doSplit d m tag r i = (s, status 2 0)) ∧
          ∀ x rest, l = x :: rest →
            let mid : BitVec 48 := m.setWidth 48
            let right : RangeSlot := { r with base := mid, tensor := if tag.getLsbD 8 then tag.setWidth 8 else r.tensor,
                                                 offset := if r.striped then r.offset + BitVec.ofNat 64 (away / stripeStep r * 0x10000) else r.offset,
                                                 resmap := newResmap mid.toNat r.limit.toNat (residentSpan r) }
            let left : RangeSlot := { r with limit := mid, resmap := newResmap r.base.toNat mid.toNat (residentSpan r) }
            s.doSplit d m tag r i = (((s.putDirSlot d (i + 1) right.encode).putDirSlot d i left.encode).vacate d rest mid.toNat (i + 1), status 0 (i + 1))))) ∧
    (∀ l, s.vacantRun d n (i + 1) n = .inl (l, none) → s.doMerge d r i = (s, status (if r.moving then 6 else 4) 0)) ∧
    ∀ l k raw, s.vacantRun d n (i + 1) n = .inl (l, some (k, raw)) →
      let q := RawSlot.decode raw
      (r.moving = true ∨ q.moving = true → s.doMerge d r i = (s, status 6 0)) ∧
      (r.moving = false → q.moving = false →
        (q.base ≠ r.limit → s.doMerge d r i = (s, status 4 0)) ∧
        (q.base = r.limit → mergeable r q = false → s.doMerge d r i = (s, status 3 0)) ∧
        (q.base = r.limit → mergeable r q = true → ∀ more e, s.vacantRun d n (k + 1) n = .inl (more, e) →
          let all : RangeSlot := { r with limit := q.limit, resmap := newResmap r.base.toNat q.limit.toNat (residentPair r q) }
          s.doMerge d r i = ((s.putDirSlot d i all.encode).vacate d ((k, raw) :: more) r.base.toNat i, status 0 k)))) ∧
  (∀ (s : State) (id : Nat) (g : GMove), s.gmoves.find? (fun x => x.id == id && !x.lost && x.finishing.isNone) = some g → (∀ x ∈ s.gmoves, x.id = id → x = g) →
    let lost (v : State) : State :=
      let t := v.fillNow g.core g.claim (BitVec.ofNat 64 (11 * 2 ^ 56 + g.index % 65536 * 2 ^ 32 + g.bad % 2 ^ 32))
      { t with gmoves := t.gmoves.map (fun x => if x.id == id then { x with lost := true, claim := none } else x) }
    (g.moved < g.limit - g.base → s.moveWaits id = true → exec (.gleanUnit id) s = .next s) ∧
    (g.moved < g.limit - g.base → s.moveWaits id = false →
      let w := s.reach (.gleaner id g.site) g.site g.part (g.newPa + g.moved) (s.unitFlits g) 32
      let good : Prop := w.2.code = none ∧ w.1.hasHome (w.1.gleanPA (g.newPa + g.moved)) = true
      let p := (List.range 32).foldl (fun (p : State × Nat) (i : Nat) => ((moveBlock g (g.moved + 128 * i) p.1).1, p.2 + (moveBlock g (g.moved + 128 * i) p.1).2)) (w.1, 0)
      (good → exec (.gleanUnit id) s = .next { p.1 with gmoves := p.1.gmoves.map (fun x => if x.id == id then { x with moved := x.moved + 4096, bad := x.bad + p.2 } else x) }) ∧
      (w.2.code = some 0x25 → exec (.gleanUnit id) s =
        .next (w.1.loseAccess (.gleaner id g.site) g.site g.part (g.newPa + g.moved) (.ack id))) ∧
      (¬good → w.2.code ≠ some 0x25 → exec (.gleanUnit id) s = .next (lost w.1))) ∧
    (g.limit - g.base ≤ g.moved →
      let r := s.slotTrips g.dir [g.index]
      (∀ e, r.2 = some e → exec (.gleanFinish id) s = .next (lost r.1)) ∧
      (∀ e, r.2 = none → r.1.probeSlot g.dir g.index = .inr e → exec (.gleanFinish id) s = .next (lost r.1)) ∧
      ∀ raw, r.2 = none → r.1.probeSlot g.dir g.index = .inl raw →
        let v := r.1.putDirSlot g.dir g.index { RawSlot.decode raw with offset := BitVec.ofNat 64 g.newPa - BitVec.ofNat 64 g.base, moving := false }.encode
        let u : State := { v.bump with gmoves := v.gmoves.map (fun x => if x.id == id then { x with finishing := some v.nextId } else x) }
        let sites := (List.range Config.sites).filter (fun n => inRect (u.partRect g.part.toNat) n && u.siteLive n)
        exec (.gleanFinish id) s = .next (u.sendRinv g.core ((sites.flatMap (fun n => (List.range 16).map (16 * n + ·))).filter u.exposed, sites) g.proc g.base g.limit none
          (some id) v.nextId)))

/-! ## The memory port and the homes (R2, R109, R127 to R151, R155, R355) -/

/-- The oldest entry of the store buffer leaves once nothing it waits for is outstanding, kept until it is performed, after the scope check of a release
or of the first store after a fence (R129, R151, R163). A held access goes on once nothing it waits for is outstanding and the fills before its own
have come, and not before (R94, R155): an AMO, LR or other request is sent; a load takes the youngest buffered bytes, waits for stores issued
meanwhile, or is sent (R129, R149); an RINV goes to the cores and gleaners of its scope (R187). A thread that has taken bytes from a buffered store of
another slot, or from one homed at its own site, remembers it, and an acquire makes what comes after it wait for that store (R151, R157, R161): the
model's way to keep those orders (log 61). The router's check of a store that is to be checked, as it is injected: a home in the partition, but
outside the instance of a scope core, site or region, misses. The miss is counted; wl.scopemiss latches it while valid is 0, and wl.ordctl of the
issuing slot while smpend is 0, if the slot holds the thread that issued the store (R163 to R166). An access at the home of its address. One that no
unit's move has taken elsewhere meets 0x27 where no home lives, and else the error of its block, if any; one that crosses blocks meets the first of
theirs (R43, R147, R172); on the way on to a moved unit it may meet a code of that way (R190). No byte of memory changes on the way. A load performed
at its home answers with the bytes that stand there, extended (R117, R127), and with its line where its range lets a remote line be cached (R134); a
home that a fault keeps from its bytes answers a poison of class 1 with the code and the address, of a memory code that of the block (R92, R147),
where the unit has been moved the block of the PA that the request names: the model's choice (log 65). One whose answer is lost on that way gets none
(R44). A store, a store-conditional and an AMO are performed at their home as one step and then answered: the bytes and an acknowledgement; the SC's 0
or 1 for the reservation it finds or does not find; the AMO's old value (R129, R131 to R133). A fault answers STORE_FAIL for a store and a poison of
class 1 for the others (R130, R147; which PA it names where the unit has been moved is log 65), a lost answer none (R44), and an access whose answer
alone is stopped has its effect. An SC that finds no reservation leaves those of other slots: the model's choice (log 42). -/
def Obligations.HomeAccesses : Prop :=
  ((∀ (s : State) (c : Nat) (e : SbEntry), (s.core c).sb.find? (fun x => !x.sent) = some e →
    ((s.core c).sbReady e = false → exec (.storeBufferSend c) s = .next s) ∧
    ((s.core c).sbReady e = true →
      let u := (s.missCheck c e).modCore c (fun k => { k with sb := k.sb.map (fun x => if x.req.acc == e.req.acc then { x with sent := true } else x) })
      exec (.storeBufferSend c) s = .next (u.inject .request (.core c) (siteOf c) (u.site (siteOf c)).part e.req.target.dest (.mem e.req)) ∧
      u.dram = s.dram ∧ u.flights = s.flights ∧ (e.check = none → s.missCheck c e = s))) ∧
  (∀ (s : State) (c : Nat), (s.core c).sb.find? (fun x => !x.sent) = none → exec (.storeBufferSend c) s = .next s) ∧
  ∀ (s : State) (c acc : Nat) (h : Held), s.held.find? (fun x => x.core == c && x.acc == acc) = some h →
    let kept : Bool := h.waits.any (s.core c).outstanding || h.after.any (fun a => (s.core c).accs.any (fun x => x.id == a))
    let u : State := { s with held := s.held.filter (fun x => !(x.core == c && x.acc == acc)) }
    let sent (b : Body) : State := u.inject .request (.core c) (siteOf c) (u.site (siteOf c)).part h.dest b
    (kept = true → exec (.accessHoldRelease c acc) s = .next s) ∧
    (kept = false →
      (∀ r, h.body = .mem r → (∀ n sx, r.op ≠ .load n sx) → exec (.accessHoldRelease c acc) s = .next (sent (.mem r))) ∧
      (∀ r n sx, h.body = .mem r → r.op = .load n sx →
        ((u.core c).loadPlan r.slot r.acc r.target.lo n = .home → exec (.accessHoldRelease c acc) s = .next (sent (.mem r))) ∧
        (∀ l, (u.core c).loadPlan r.slot r.acc r.target.lo n = .wait l → exec (.accessHoldRelease c acc) s = .next { u with held := u.held ++ [{ h with waits := l }] }) ∧
        (∀ v l, (u.core c).loadPlan r.slot r.acc r.target.lo n = .forward v l →
          let w := u.modCore c (fun k => match k.accs.find? (fun a => a.id == r.acc) with | some a => k.sees c a.slot a.epoch l (·.contains r.acc) | none => k)
          exec (.accessHoldRelease c acc) s =
            .next ((w.forwardedLoad c r.acc r.claim).deliverAt c r.claim ((u.core c).cycle + 10) (fillW (extendLoad v n sx))))) ∧
      (∀ id claim proc lo hi d sc, h.body = .rinv id claim proc lo hi d → h.dest = .coords sc →
        exec (.accessHoldRelease c acc) s = .next (u.sendRinv c (u.rinvTargets c sc) proc lo hi claim none id))) ∧
    ∀ (k : Core) (slot epoch : Nat) (from_ : List Nat) (acq : List Nat → Bool), (k.slot slot).epoch = epoch →
      let l := k.ordering c slot from_
      (∀ i, i ∈ l ↔ i ∈ from_ ∧ ∃ e ∈ k.sb, e.req.acc = i ∧ (e.req.slot ≠ slot ∨ ∃ pa, e.req.target = .phys pa ∧ homeOf pa = siteOf c)) ∧
      ((k.sees c slot epoch from_ acq).slot slot).acquires = (k.slot slot).acquires ++ (if acq (k.slot slot).acquires = true then l else []) ∧
      ∀ i ∈ l, k.outstanding i = true → i ∈ ((k.sees c slot epoch from_ acq).slot slot).saw) ∧
  (∀ (s : State) (c scope h : Nat) (fenced : Bool) (e : SbEntry), e.check = some (scope, fenced) → s.targetHome c e.req.target = some h →
    let misses : Prop := scope ≤ 2 ∧ inRect (s.partRect (s.site (siteOf c)).part.toNat) h = true ∧ s.inInstance c scope h = false ∧
      ∀ pa, e.req.target = .phys pa → s.hasHome pa = true
    let w := (s.core c).scopemiss
    let n := min (wf w 43 12 + 1) 0xFFF
    let pa : Nat := e.req.target.pa43.toNat
    let x : Word := if w.getLsbD 63 then setField w 43 12 n
      else BitVec.ofNat 64 (2 ^ 63 + e.req.slot % 16 * 2 ^ 59 + scope * 2 ^ 56 + (if fenced then 2 ^ 55 else 0) + n * 2 ^ 43 + pa)
    let u := s.modCore c (fun k => { k.count 16 none 1 with scopemiss := x })
    let o := (u.slot c e.req.slot).ordctl
    let mine : Prop := (u.slot c e.req.slot).epoch = e.req.epoch ∧ o.getLsbD 63 = false
    (¬misses → s.missCheck c e = s) ∧
    (misses → ¬mine → s.missCheck c e = u) ∧
    (misses → mine → s.missCheck c e = u.modSlot c e.req.slot (fun t => { t with ordctl := BitVec.ofNat 64 (2 ^ 63 + (if o.getLsbD 62 then 2 ^ 62 else 0) + pa) }))) ∧
  ((∀ (s : State) (pa n out back : Nat),
    ((∀ g ∈ s.gmoves, ¬(g.oldPa ≤ pa ∧ pa < g.oldPa + g.moved)) →
      s.homeTrip pa n out back = (s, ⟨s.spanCode pa n, (s.spanCode pa n).isNone⟩) ∧
      (pa % 128 + n ≤ 128 → s.spanCode pa n = if s.hasHome pa = false then some 0x27 else if 11 ≤ (s.lineCode (pa / 128)).toNat then some 0x10
        else if s.bad.contains (pa / 128) then some 0x11 else none)) ∧
    (s.spanCode pa n = none ↔ ∀ a, a = pa ∨ (a % 128 = 0 ∧ pa < a ∧ a < pa + n) → s.homeCode a = none) ∧
    ∀ a, (s.homeTrip pa n out back).1.physRead a 1 = s.physRead a 1) ∧
  ∀ (s : State) (fid c pa n : Nat) (sx : Bool) (f : Flight) (r : Req), s.memWf → s.takes fid f → f.src = .core c → f.body = .mem r → r.op = .load n sx → r.target = .phys pa →
    let u := s.dropFlight fid
    ∀ w code served, u.homeTrip pa n f.body.flits (if r.attr.cacheRemote then dataFlits (codeBytes (u.lineCode (lineOf (u.gleanPA pa)))) else 2) = (w, ⟨code, served⟩) →
      (∀ x, code = some x → x ≠ 0x25 → served = false →
        let at_ : Nat := match w.spanFault pa n with | some (y, a) => (if y = x then a else pa) | none => pa
        exec (.homeLoad fid) s = .next (w.answer f (.fill (some r.acc) r.claim (.poison (descriptor 1 x.toNat (if x = 0x10 ∨ x = 0x11 then at_ / 128 * 128 else at_)))))) ∧
      (code = some 0x25 → served = false → exec (.homeLoad fid) s = .next (w.loseFlight f)) ∧
      (code = none → ∃ v t : State, ∃ b : Body, exec (.homeLoad fid) s = .next t ∧ t = v.answer f b ∧ (∀ a, v.physRead a 1 = w.physRead a 1) ∧
        (b = .fill (some r.acc) r.claim (fillW (extendLoad (w.physRead pa n) n sx)) ∨
          r.attr.cacheRemote = true ∧ ∃ d k, b = .lineFill (some r.acc) r.claim (fillW (extendLoad (w.physRead pa n) n sx)) (lineOf pa) (some d) k))) ∧
  (∀ (s : State) (fid c pa : Nat) (f : Flight) (r : Req), s.takes fid f → f.src = .core c → f.body = .mem r → r.target = .phys pa →
    let u := s.dropFlight fid
    let fill (x : DVal) : Body := .fill (some r.acc) r.claim x
    ∀ w code served, u.homeTrip pa r.op.size f.body.flits (match r.op with | .store _ _ => 1 | _ => 2) = (w, ⟨code, served⟩) →
    let l := lineOf (w.gleanPA pa)
    let poison (x : BitVec 8) : DVal :=
      let at_ : Nat := match w.spanFault pa r.op.size with | some (y, a) => (if y = x then a else pa) | none => pa
      .poison (descriptor 1 x.toNat (if x = 0x10 ∨ x = 0x11 then at_ / 128 * 128 else at_))
    let ends (i : Instr) (done : State) (b : Body) (fails : BitVec 8 → Body) : Prop :=
      (code = none → exec i s = .next ((done.performed c r.acc).answer f b)) ∧
      (∀ x, code = some x → let v := if served then done.performed c r.acc else w
        (x ≠ 0x25 → exec i s = .next (v.answer f (fails x))) ∧ (x = 0x25 → exec i s = .next (v.loseFlight f)))
    (∀ n v, r.op = .store n v →
      ends (.homeStore fid) (w.homeWrite pa n v.toNat r.attr (some (c, r.slot))) (.ack r.acc) (fun x => .stFail r.acc r.slot r.epoch x (BitVec.ofNat 43 pa))) ∧
    (∀ d v, r.op = .sc d v →
      let n := if d then 8 else 4
      ((∃ x ∈ w.resv, x.line = l ∧ x.core = c ∧ x.slot = r.slot) →
        ends (.homeStore fid) (((w.invalSharers l none).homeWrite pa n v.toNat r.attr (some (c, r.slot))).endResv c r.slot) (fill (fillW 0)) (fun x => fill (poison x))) ∧
      ((¬∃ x ∈ w.resv, x.line = l ∧ x.core = c ∧ x.slot = r.slot) → ends (.homeStore fid) (w.endResv c r.slot) (fill (fillW 1)) (fun x => fill (poison x)))) ∧
    (∀ fn d v, r.op = .amo fn d v →
      let n := if d then 8 else 4
      let old := BitVec.ofNat 64 (w.physRead pa n)
      ends (.homeAmo fid) ((w.invalSharers l none).homeWrite pa n (amoValue fn d old v).toNat r.attr (some (c, r.slot))) (fill (fillW (extendLoad old.toNat n true)))
        (fun x => fill (poison x))))

/-- A write at the home changes its bytes, in whatever lines they lie, and no other byte of memory (R2, R20, R139, R172); the bytes stand where the old
home of a moved unit forwards them (R190), and an address counts as another byte when it is forwarded elsewhere. Memory as bytes: a byte just written
reads back, and a write of n bytes leaves every byte outside them, in local store and in DRAM alike; n bytes just written read back as the number they
were (R2). -/
def Obligations.BytesReadBack : Prop :=
  (∀ (s : State) (pa n v : Nat) (attr : MemAttr) (who : Option (Nat × Nat)), s.memWf →
    (∀ i j, i < n → j < n → s.gleanPA (pa + i) = s.gleanPA (pa + j) → i = j) →
    let t := s.homeWrite pa n v attr who
    t.physRead pa n = v % 256 ^ n ∧ (∀ a, (∀ i, i < n → s.gleanPA a ≠ s.gleanPA (pa + i)) → t.physRead a 1 = s.physRead a 1) ∧ ∀ c, (t.core c).ls = (s.core c).ls) ∧
  (∀ (m : Memory) (a n v : Nat), memRead (memWrite m a n v) a n = v % 256 ^ n ∧ (∀ i, i < n → memGet (memWrite m a n v) (a + i) = BitVec.ofNat 8 (v / 256 ^ i)) ∧
    (∀ x, (x < a ∨ a + n ≤ x) → memGet (memWrite m a n v) x = memGet m x) ∧ (Memory.wf m = true → Memory.wf (memWrite m a n v) = true))

/-- A failed store is counted and latched in wl.stfail of its slot: valid, code and address of the first, a mark for a further one (R130). Stores to a
thread window and to the two tables of a site: a command reaches its copy channel, another dword is written or fails with 0x60, an entry is written or
refused with 0x23; what has been done is acknowledged (R33, R34, R129, R294, R355). The home of an instruction-cache line answers with the line, or
with its failure (R109, R147). A line that arrives is kept in the cache, and by every slot that waits for it until its next turn; a failure makes them
fault there (R109, R138). The cache requests of TDISC, LPIN and LUNPIN are done at the slices (R140, R141). -/
def Obligations.HomeTables : Prop :=
  (∀ (s : State) (fid c acc slot epoch : Nat) (code : BitVec 8) (pa : BitVec 43) (f : Flight), s.takes fid f → f.src = .core c → f.body = .stFail acc slot epoch code pa →
    let u := ((s.dropFlight fid).answered c acc).countS c slot 8
    ((u.slot c slot).epoch ≠ epoch → exec (.storeFail fid) s = .next u) ∧
    ((u.slot c slot).epoch = epoch → ∃ t, exec (.storeFail fid) s = .next t ∧
      let w := (s.slot c slot).stfail
      let x := (t.slot c slot).stfail
      (w.getLsbD 63 = true → x = w ||| 0x4000000000000000) ∧
      (w.getLsbD 63 = false → x.getLsbD 63 = true ∧ wf x 48 8 = code.toNat ∧ wf x 0 43 = pa.toNat ∧ x.getLsbD 62 = w.getLsbD 62))) ∧
  (∀ (s : State) (fid c : Nat) (f : Flight) (r : Req), s.takes fid f → f.src = .core c → f.body = .mem r →
    let u := s.dropFlight fid
    let acked (v : State) : State := (v.performed c r.acc).answer f (.ack r.acc)
    (∀ n v va, r.op = .store n v → r.target = .window va →
      let d := 16 * f.dsite + windowIndex va
      (∀ ch, windowCommand va n v = some (ch, 1) → exec (.channelResume fid) s = .next (acked (u.chanCommand d ch 1))) ∧
      (∀ ch, windowCommand va n v = some (ch, 2) → exec (.channelAbort fid) s = .next (acked (u.chanCommand d ch 2))) ∧
      (windowCommand va n v = none → s.windowWaits d va = false →
        (∀ t, u.windowWrite d va n v = some t → exec (.windowWrite fid) s = .next (acked t)) ∧
        (u.windowWrite d va n v = none → exec (.windowWrite fid) s = .next (u.answer f (.stFail r.acc r.slot r.epoch 0x60 (BitVec.ofNat 43 va)))))) ∧
    (∀ n v name off, r.op = .store n v → r.target = .router name off → tableOff name off = true →
      (off < 0x8000 →
        (∀ t, u.routeWrite f.dsite f.part.toNat (off / 8) v = some t → exec (.routeEntryWrite fid) s = .next (acked t)) ∧
        (u.routeWrite f.dsite f.part.toNat (off / 8) v = none → exec (.routeEntryWrite fid) s = .next (u.failReq f r 0x23))) ∧
      (0x8000 ≤ off →
        (∀ t, u.physWrite f.dsite f.part.toNat ((off - 0x8000) / 8) v = some t → exec (.physSelectWrite fid) s = .next (acked t)) ∧
        (u.physWrite f.dsite f.part.toNat ((off - 0x8000) / 8) v = none → exec (.physSelectWrite fid) s = .next (u.failReq f r 0x23))))) ∧
  ((∀ (s : State) (fid slot l : Nat) (f : Flight) (tensor : BitVec 8), s.takes fid f → f.body = .ifetch slot l tensor →
    let u := s.dropFlight fid
    ∀ w code served, u.homeTrip (l * 128) 128 1 (dataFlits (codeBytes (u.lineCode (lineOf (u.gleanPA (l * 128)))))) = (w, ⟨code, served⟩) →
      (∀ x, code = some x → x ≠ 0x25 → exec (.icacheFill fid) s = .next (w.answer f (.ifill l none 0))) ∧
      (code = some 0x25 → exec (.icacheFill fid) s = .next (w.loseFlight f)) ∧
      (code = none → ∃ (v : State) (d : BitVec 1024) (k : BitVec 4), exec (.icacheFill fid) s = .next (v.answer f (.ifill l (some d) k)) ∧
        (w.gmoves = [] → d = w.lineData l) ∧ (s.memWf → d = w.lineAt l))) ∧
  (∀ (s : State) (fid c l : Nat) (f : Flight) (d : BitVec 1024) (code : BitVec 4), s.takes fid f → f.src = .core c → f.body = .ifill l (some d) code →
    ∃ t, exec (.icacheFill fid) s = .next t ∧ nget (t.core c).icache l = some d ∧
      (∀ n, (s.slot c n).fetch = some (.line l) → (t.slot c n).fetch = some (.arrived l d)) ∧
      ∀ n, (s.slot c n).fetch ≠ some (.line l) → t.slot c n = s.slot c n) ∧
  (∀ (s : State) (fid c l : Nat) (f : Flight) (code : BitVec 4), s.takes fid f → f.src = .core c → f.body = .ifill l none code →
    ∃ t, exec (.icacheFill fid) s = .next t ∧ (t.core c).icache = (s.core c).icache ∧ ∀ n, (s.slot c n).fetch = some (.line l) → (t.slot c n).fetch = some (.failed l)) ∧
  ∀ (s : State) (fid c : Nat) (f : Flight) (claim : Option Nat) (op : CacheOp), s.takes fid f → f.src = .core c → f.body = .cache claim op →
    let u := s.dropFlight fid
    (∀ ls, op = .unpin ls → exec (.cacheControlRequest fid) s = .next (ls.foldl State.unpinLine u)) ∧
    (∀ ls ty, op = .pin ls ty → exec (.cacheControlRequest fid) s = .next (ls.foldl (fun v l => v.pinLine c ty l) u)) ∧
    ∀ id g, op = .discard id g → ∃ v : State, exec (.cacheControlRequest fid) s =
        .next (v.answer f (.discarded g ((u.l2.filter (fun p => p.1 / 2 ^ 26 == f.dsite && p.2.tensor == id)).length))) ∧
      ∀ l x, nget v.l2 l = some x → ¬(l / 2 ^ 26 = f.dsite ∧ x.tensor = id))

/-! ## Copy channels and multicast (R266 to R297) -/

/-- CPW writes a shadow register or the seed or counter of stochastic rounding, CPR reads what R273 lists, CPCANCEL marks a copy that can still be
cancelled (R266 to R273, R295). The reserved bits of CTL, BAR and MCSET take no write and read zero (R3, R268 to R270). CPGO is held by a busy
channel, stopped by a failed store or a scope miss that is latched, and refused by the first of the checks of R274 that its configuration fails: cause
50 with reason and register. A multicast whose rectangle leaves the partition is logged and traps with cause 48. Else it captures the configuration:
the active set is the shadow set, the channel is ACTIVE and holds what its scope must see performed first, and rd is a future of class 2. A T-role
slot, and any slot but the one that a bound channel names, traps with cause 29 at CPGO, CPW and CPCANCEL (R17, R49, R130, R166, R274). -/
def Obligations.CopyConfiguration : Prop :=
  (∀ (s : State) (ch : BitVec 2) (idx rs1 rd : BitVec 5), s.noRepeat → s.me.role ≠ .t → s.me.role ≠ .none →
    let x := s.chan s.curCore ch.toNat
    let bits : Word := match idx.toNat with | 0 => 0xFFFFFE0000000000 | 3 => 0x80000000003FFFFF | 5 => 0xFFFFBF00000FFFFF | _ => 0xFFFFFFFFFFFFFFFF
    let put (y : Channel) : State := (s.modChan s.curCore ch.toNat (fun _ => y)).goneTo (s.me.pc + 4)
    ((∀ b, nget s.here.bound ch.toNat = some b → b = s.curSlot) →
      (s.readable .x rs1.toNat →
        (idx < 26 → exec (.cpw ch idx rs1) s = .next (put { x with shadow := nput x.shadow idx.toNat (s.xv rs1 &&& bits) })) ∧
        exec (.cpw ch 26 rs1) s = .next (put { x with srseed := s.xv rs1 }) ∧ exec (.cpw ch 27 rs1) s = .next (put { x with srctr := s.xv rs1 }) ∧
        exec (.cpw ch 28 rs1) s = .next (put x) ∧ exec (.cpw ch 29 rs1) s = .next (put x)) ∧
      ((x.st = .idle ∨ x.st = .cancelling ∨ x.fail ≠ none ∨ x.written = true ∨ x.flipSent = true ∨ (x.op = 4 ∧ x.mcSent = true)) → exec (.cpcancel ch) s = .next (put x)) ∧
      (x.st = .active ∨ x.st = .faulted → x.fail = none → x.written = false → x.flipSent = false → ¬(x.op = 4 ∧ x.mcSent = true) →
        exec (.cpcancel ch) s = .next (put { x with st := .cancelling }))) ∧
    (s.writable .x rd.toNat →
      (idx < 26 → exec (.cpr ch idx rd) s = .next (s.wrote rd ((nget x.shadow idx.toNat).getD (chanReset idx.toNat)))) ∧
      exec (.cpr ch 26 rd) s = .next (s.wrote rd x.srseed) ∧ exec (.cpr ch 27 rd) s = .next (s.wrote rd x.srctr) ∧
      exec (.cpr ch 28 rd) s = .next (s.wrote rd (BitVec.ofNat 64 (chCode x.st * 2 ^ 62 + x.side.toNat * 2 ^ 60 + x.slot % 16 * 2 ^ 56 + x.reason.toNat * 2 ^ 52 +
        x.bytes % 2 ^ 40))) ∧
      exec (.cpr ch 29 rd) s = .next (s.wrote rd x.faddr))) ∧
  (∀ (s : State) (ch : BitVec 2) (idx rs1 rd : BitVec 5), s.noRepeat →
    let mine : Prop := ∀ b, nget s.here.bound ch.toNat = some b → b = s.curSlot
    (s.me.role = .t ∨ ¬mine → ∀ i ∈ [Instr.cpgo ch rd, .cpw ch idx rs1, .cpcancel ch], exec i s = .next (s.trap 29 (wordOf i))) ∧
    (s.me.role ≠ .t → s.me.role ≠ .none → mine → s.writable .x rd.toNat →
    let x := s.chan s.curCore ch.toNat
    let ctl := x.shadowReg 0
    let op := wf ctl 60 4
    let fmt := wf ctl 56 4
    let es := wf ctl 50 2
    let product (n : Nat) : Nat := ((List.range n).map (fun d => wf (x.shadowReg (8 + d)) 0 32)).prod
    let scope := s.resolveScope (BitVec.ofNat 4 (wf ctl 44 4))
    let rect : BitVec 20 := BitVec.ofNat 20 (wf (x.shadowReg 5) 0 20)
    let part := (s.site (siteOf s.curCore)).part.toNat
    let leaves : Prop := op = 4 ∧ (rectOut rect = true ∨ ∃ n ∈ rectSites rect, inRect (s.partRect part) n = false)
    let refusal : Option (Nat × Nat) :=
      if 5 ≤ op ∨ (op = 1 ∧ es ≠ 2) ∨ ((op = 2 ∨ op = 3) ∧ (es ≠ 2 ∨ fmt < 2 ∨ (if op = 2 then 3 else 6) < fmt ∨ 5 ≤ wf ctl 53 3)) then some (1, 0)
      else if 2 ^ 40 ≤ product 6 then some (2, 8 + ((List.range 6).find? (fun d => 2 ^ 40 ≤ product (d + 1))).getD 0)
      else if op = 3 ∧ wf (x.shadowReg 8) 0 32 % 32 ≠ 0 then some (2, 8)
      else if op ≠ 4 ∧ 2 ≤ wf ctl 48 2 then some (3, 0)
      else if (op = 4 ∨ wf ctl 48 2 = 1) ∧ 0xFFFFF < (x.shadowReg 2).toNat then some (3, 2)
      else if scope = none then some (4, 0)
      else if (x.shadowReg 3).getLsbD 63 = true ∧ 48 ≤ wf (x.shadowReg 3) 16 6 then some (5, 3)
      else if op = 4 ∧ (x.shadowReg 5).getLsbD 47 = true ∧ 48 ≤ wf (x.shadowReg 5) 40 6 then some (5, 5)
      else if op = 4 ∧ (x.shadowReg 3).getLsbD 63 = false then some (5, 3)
      else none
    (x.st ≠ .idle → exec (.cpgo ch rd) s = .next s.bubble) ∧
    (x.st = .idle → s.me.stfail.getLsbD 63 = true → exec (.cpgo ch rd) s = .next (s.trap 7 (BitVec.ofNat 64 (wf s.me.stfail 0 43)))) ∧
    (x.st = .idle → s.me.stfail.getLsbD 63 = false → s.me.ordctl.getLsbD 63 = true → s.me.ordctl.getLsbD 62 = true →
      exec (.cpgo ch rd) s = .next (s.trap 31 (BitVec.ofNat 64 (wf s.me.ordctl 0 43)))) ∧
    (x.st = .idle → s.releaseFree →
      (∀ r i, refusal = some (r, i) → exec (.cpgo ch rd) s = .next (s.trap 50 (BitVec.ofNat 64 (r * 2 ^ 56 + ch.toNat * 2 ^ 48 + i)))) ∧
      (refusal = none → leaves → exec (.cpgo ch rd) s =
        .next ((s.siteViolation (siteOf s.curCore) 4 part ((fieldOf rect.toNat 5 5 * 24 + fieldOf rect.toNat 0 5) * 2 ^ 33)).trap 48 (x.shadowReg 5))) ∧
      (∀ (u : State) (c : Option Nat), refusal = none → ¬leaves → s.pend .x rd.toNat 2 false = some (u, c) →
        ∃ t, exec (.cpgo ch rd) s = .next t ∧ t.me.pc = s.me.pc + 4 ∧ t.me.missScope = none ∧
          let y := t.chan s.curCore ch.toNat
          y.st = .active ∧ y.act = x.shadow ∧ y.shadow = x.shadow ∧ y.claim = c ∧ y.slot = s.curSlot ∧ y.next = 0 ∧ y.started = [] ∧ y.bytes = 0 ∧ y.fail = none ∧
            some y.scope = scope ∧ y.waits = s.releaseWaits y.scope ∧ y.capSeed = x.srseed ∧ y.capCtr = x.srctr ∧ y.srseed = x.srseed ∧
            y.srctr = (if (op = 2 ∨ op = 3) ∧ wf (x.shadowReg 0) 53 3 = 4 then x.srctr + 1 else x.srctr)))))

/-- Segments between plots of the issuing core's local store: COPY moves the elements, REDADD adds them in FP32, QF8 and MXQ write the values of R280 and
R281, each reading all its sources first (R277, R279 to R282); a segment still to be started starts in their turn. The bytes, addends and scale bytes
of an aligned 8-byte unit that later elements or scale bytes of the copy complete wait for them (R169): that they are kept with the channel is the
model's way to write each unit whole (log 18). The elements of a copy and its segments. Element g has the addresses of R276. A segment is a longest
run of elements whose bytes lie in one page on each side, of at most 4 KiB; for MXQ one block (R277). Its addresses are resolved in turn: local store,
or Translate of kind COPY with its walks; a misaligned one is reason 8, one outside both regions reason 9. The first that fails is a copy fault: the
channel is FAULTED with side, reason and FADDR, and the buddy is notified with cause 50 (R276, R293). One whose bytes in the issuing core lie in a
plot that is not the engine's ends the copy with OWNER 0x41 and that address; a REMOTE source, scale or quantised destination ends it with 0x46 (R278,
R287, R297). Else the segment is started, one to another module cut where its destination stops being contiguous, and its plots are in use (R195,
R277). A segment that arrives by name is written, and its addends added, when every plot is ENGINE-owned, else refused with 0x42 and logged; a barrier
event that arrives is made at its core (R278, R285, R291). Plots that an ending at another core returns are THREAD-owned once none is in use; that its
packet waits for this is the model's choice (log 18). -/
def Obligations.Segments : Prop :=
  (∀ (s : State) (c ch i : Nat),
    let x := s.chan c ch
    let ls := (s.core c).ls
    x.st ≠ .idle →
    (x.started.length ≤ i → s.mayStart c ch = true →
      (x.op = 0 → exec (.copy c ch i) s = .next (s.startSegment c ch)) ∧ (x.op = 1 → exec (.redadd c ch i) s = .next (s.startSegment c ch)) ∧
      (x.op = 2 → exec (.qf8 c ch i) s = .next (s.startSegment c ch)) ∧ (x.op = 3 → exec (.mxq c ch i) s = .next (s.startSegment c ch))) ∧
    ∀ (seg : Segment) (as bs : List Nat), x.started[i]? = some seg → x.blockedBy i seg = false → seg.srcs = as.map .ls → seg.dsts = bs.map .ls →
      let xs := as.map (fun a => memRead ls a x.es)
      let o := x.compute seg.g xs
      let left : Channel := { x with started := x.started.eraseIdx i }
      let later (a : Nat) : Bool := left.unitLater (a / 8) || left.scaleLater (a / 8)
      let after (e : Instr) (bytes : List (Nat × Byte)) (adds : List (Nat × BitVec 32)) (scales : List (Nat × Byte)) : Prop :=
        let scales := x.edgeScale ++ scales
        ∃ t, exec e s = .next t ∧ (t.core c).ls = memPuts ((adds.filter (fun p => !later p.1)).foldl (fun m p => memWrite m p.1 4 (fAdd fp32 (memRead m p.1 4) p.2.toNat).1)
            (memPuts ls (bytes.filter (fun b => !later b.1)))) (scales.filter (fun b => !later b.1)) ∧
          (t.chan c ch).edge = bytes.filter (fun b => later b.1) ∧ (t.chan c ch).edgeAdds = adds.filter (fun p => later p.1) ∧
          (t.chan c ch).edgeScale = scales.filter (fun b => later b.1) ∧
          (t.chan c ch).started = left.started ∧ (t.chan c ch).next = x.next ∧ (t.chan c ch).st = x.st ∧ t.dram = s.dram
      let put (n : Nat) (vs : List Nat) : List (Nat × Byte) := x.edge ++ (bs.zip vs).flatMap (fun p => placeAt p.1 (bytesOf n p.2))
      bs ≠ [] →
      (x.op = 0 → seg.scale = none → as.length = bs.length → after (.copy c ch i) (put x.es xs) x.edgeAdds []) ∧
      (x.op = 1 → x.es = 4 → seg.scale = none → as.length = bs.length →
        after (.redadd c ch i) x.edge (x.edgeAdds ++ (bs.zip xs).map (fun p => (p.1, BitVec.ofNat 32 p.2))) []) ∧
      (x.op = 2 → seg.scale = none → as.length = bs.length → after (.qf8 c ch i) (put 1 o.vals) x.edgeAdds []) ∧
      (∀ q, x.op = 3 → seg.scale = some (.ls q) → after (.mxq c ch i) (put 1 o.vals) x.edgeAdds [(q, BitVec.ofNat 8 o.scale)])) ∧
  ((∀ (x : Channel) (i : Nat → Nat) (g : Nat),
    let e (d : Nat) : Nat := wf (x.reg (8 + d)) 0 32
    (∀ d < 6, i d < e d) → g = i 0 + e 0 * (i 1 + e 1 * (i 2 + e 2 * (i 3 + e 3 * (i 4 + e 4 * i 5)))) →
    let along (r d : Nat) : Word := BitVec.ofNat 64 (i d) * x.reg (r + d)
    let outer (r : Nat) : Word := along r 1 + along r 2 + along r 3 + along r 4 + along r 5
    x.srcVA g = x.reg 1 + along 14 0 + outer 14 ∧ (x.op ≠ 3 → x.dstVA g = x.reg 2 + along 20 0 + outer 20) ∧
    (x.op = 3 → x.dstVA g = x.reg 2 + outer 20 + BitVec.ofNat 64 (i 0 / 32 * (4 * fmtWidth (wf (x.reg 0) 56 4))))) ∧
  (∀ (x : Channel) (g : Nat), g < x.total →
    let n := x.runLen g
    let paged (a p : Word) (m : Nat) : Prop := a.toNat / 4096 = p.toNat / 4096 ∧ (a.toNat + m - 1) / 4096 = p.toNat / 4096
    let fits (i : Nat) : Prop := paged (x.srcVA (g + i)) (x.srcVA g) x.es ∧ paged (x.dstVA (g + i)) (x.dstVA g) (if x.op = 2 then 1 else x.es)
    (x.op = 3 → n = 32) ∧
    (x.op ≠ 3 → 1 ≤ n ∧ g + n ≤ x.total ∧ n * x.es ≤ 4096 ∧
      (fits 0 → (∀ i < n, fits i) ∧ (g + n < x.total → (n + 1) * x.es ≤ 4096 → ¬fits n)))) ∧
  (∀ (s : State) (c ch : Nat) (va : Word) (kind : AccessKind), kind = .copyR ∨ kind = .copyW →
    let x := s.chan c ch
    let walked (u : State) (join : Bool) : State :=
      (u.startWalk c va (u.core c).rdir (.channel ch) join).1.modChan c ch (fun y => { y with walkWait := some (u.startWalk c va (u.core c).rdir (.channel ch) join).2 })
    (2 ^ 48 ≤ va.toNat ∨ windowBase ≤ va.toNat → s.chanLoc c ch va kind = .fault s 9) ∧
    (va.toNat < 2 ^ 20 → s.chanLoc c ch va kind = .loc s (.ls va.toNat)) ∧
    (2 ^ 20 ≤ va.toNat → va.toNat < windowBase →
      (x.walkWait ≠ none → s.chanLoc c ch va kind = .wait s) ∧
      (∀ o, x.walkWait = none → x.walkOut = some o → o.va.toNat / 4096 = va.toNat / 4096 → s.chanLoc c ch va kind = .fault s o.reason) ∧
      (x.walkWait = none → x.walkOut = none → (s.core c).rangeFor va = none → s.chanLoc c ch va kind = .wait (walked s true)) ∧
      ∀ e, x.walkWait = none → x.walkOut = none → (s.core c).rangeFor va = some e →
        let resident := e.slot.resmap.getLsbD ((va.toNat - e.slot.base.toNat) / segLen e.slot)
        (permits e.slot kind = false → s.chanLoc c ch va kind = .fault s 2) ∧
        (permits e.slot kind = true → resident = false →
          (x.rewalked = some va → s.chanLoc c ch va kind = .fault s 6) ∧
          (x.rewalked ≠ some va → s.chanLoc c ch va kind = .wait (walked (s.modChan c ch (fun y => { y with rewalked := some va })) false))) ∧
        (permits e.slot kind = true → resident = true → s.chanLoc c ch va kind = .loc (s.modCore c (fun k => k.useRange e))
          (if e.slot.isRemote = true then .remote e.slot.rmod.toNat ((va + e.slot.offset).toNat % 2 ^ 43) va.toNat else .phys (rangePA e.slot va.toNat) e.slot.attr)))) ∧
  (∀ (s : State) (c ch n : Nat) (kind : AccessKind) (va : Word) (vas : List Word) (acc : List Loc),
    let next := resolveAll c ch kind n (va :: vas) s acc
    let off : Prop := va.toNat < windowBase ∧ va.toNat % n ≠ 0
    (off → next = .inr (va, .fault s 8)) ∧
    (∀ u l, ¬off → s.chanLoc c ch va kind = .loc u l → next = resolveAll c ch kind n vas u (l :: acc)) ∧
    (∀ u r, ¬off → s.chanLoc c ch va kind = .fault u r → next = .inr (va, .fault u r)) ∧ ∀ u, ¬off → s.chanLoc c ch va kind = .wait u → next = .inr (va, .wait u)) ∧
  (∀ (s : State) (c ch side r : Nat) (va : Word), s.copyFault c ch side r va =
    (s.modChan c ch (fun x => { x with st := .faulted, side := BitVec.ofNat 2 side, reason := BitVec.ofNat 4 r, faddr := va, walkOut := none, rewalked := none })).notify c
      (BitVec.ofNat 64 (2 ^ 60 + (s.coreName c).toNat * 2 ^ 16 + (s.chan c ch).slot * 2 ^ 12 + ch * 2 ^ 8 + 50))) ∧
  ∀ (s : State) (c ch : Nat),
    let x := s.chan c ch
    let g := x.next
    let n := x.runLen g
    let new := s.startSegment c ch
    let scaleAt : List Word := if x.op = 3 then [x.reg 6 + BitVec.ofNat 64 (g / 32)] else []
    let dvas := if x.op = 3 then (List.range (4 * fmtWidth (wf (x.reg 0) 56 4))).map (fun i => x.dstVA g + BitVec.ofNat 64 i) else (List.range n).map (fun i => x.dstVA (g + i))
    let src := resolveAll c ch .copyR x.es ((List.range n).map (fun i => x.srcVA (g + i))) s []
    let fails (code a : Nat) (y : Channel) : Prop := y.fail = some ((x.fail.or x.mcFail).getD (BitVec.ofNat 8 code, BitVec.ofNat 48 a)) ∧ y.started = x.started ∧ y.next = g
    (∀ va u r, x.op = 2 → x.scaleWord = none → resolveAll c ch .copyR 4 [x.reg 6] s [] = .inr (va, .fault u r) → new = u.copyFault c ch 2 r va) ∧
    (x.op ≠ 2 ∨ x.scaleWord.isSome = true →
      (∀ va u r, src = .inr (va, .fault u r) → new = u.copyFault c ch 0 r va) ∧ (∀ va u, src = .inr (va, .wait u) → new = u) ∧
      ∀ u srcs, src = .inl (u, srcs) →
        (∀ va v r, u.resolveDst c ch (u.farName c x) dvas = .inr (va, .fault v r) → new = v.copyFault c ch 1 r va) ∧
        (∀ va v, u.resolveDst c ch (u.farName c x) dvas = .inr (va, .wait v) → new = v) ∧
        (∀ nm va vas acc, (2 ^ 20 ≤ va.toNat → resolveFar nm x.listed (va :: vas) acc = .inr (va, 9)) ∧
          (va.toNat < 2 ^ 20 → va.toNat % x.listed ≠ 0 → resolveFar nm x.listed (va :: vas) acc = .inr (va, 8))) ∧
        ∀ v dsts, u.resolveDst c ch (u.farName c x) dvas = .inl (v, dsts) →
          (∀ va w r, resolveAll c ch .copyW 1 scaleAt v [] = .inr (va, .fault w r) → new = w.copyFault c ch 2 r va) ∧
          (∀ va w, resolveAll c ch .copyW 1 scaleAt v [] = .inr (va, .wait w) → new = w) ∧
          ∀ w scs, resolveAll c ch .copyW 1 scaleAt v [] = .inl (w, scs) →
            let remote (l : List Loc) : Option Nat := l.findSome? (fun q => match q with | .remote _ _ va => some va | _ => none)
            let own (srcs dsts : List Loc) : List Nat := srcs.flatMap (Loc.lsBytes x.es) ++ dsts.flatMap (Loc.lsBytes x.listed) ++ scs.flatMap (Loc.lsBytes 1)
            let starts (m : Nat) (dsts : List Loc) : Prop :=
              let bytes := own (srcs.take m) dsts
              (∀ a, w.notEngine c bytes = some a → fails 0x41 a (new.chan c ch)) ∧
              (w.notEngine c bytes = none → (new.chan c ch).next = g + m ∧ (new.chan c ch).started = x.started ++ [{ g := g, srcs := srcs.take m, dsts := dsts, scale := scs.head? }] ∧
                (new.chan c ch).st = x.st ∧ (new.chan c ch).fail = x.fail ∧
                ∀ p, (nget (new.core c).inUse p).getD 0 = (nget (s.core c).inUse p).getD 0 + if p ∈ bytes.map plotOf then 1 else 0)
            (∀ va, (remote srcs).or ((remote scs).or (if 2 ≤ x.op then remote (if x.op = 3 then dsts else dsts.take 1) else none)) = some va → fails 0x46 va (new.chan c ch)) ∧
            (remote srcs = none → remote scs = none → remote dsts = none → x.rmod = none → starts n (if x.op = 3 then dsts else dsts.take n)) ∧
            ∀ r pa va, remote srcs = none → x.op < 2 → dsts.head? = some (.remote r pa va) → (x.rmod = some r ∨ (x.rmod = none ∧ g = 0)) →
              (x.scope = 4 ∨ x.sysWaits.any (s.core c).outstanding = false) →
              ∃ m, 1 ≤ m ∧ m ≤ n ∧ (∀ i, i + 1 < m → x.dstVA (g + i + 1) = x.dstVA (g + i) + BitVec.ofNat 64 x.es) ∧
                (m < n → x.dstVA (g + m) ≠ x.dstVA (g + m - 1) + BitVec.ofNat 64 x.es) ∧ starts m (dsts.take m) ∧ (new.chan c ch).cls = 7)) ∧
  (∀ (s : State) (fid : Nat) (f : Flight), s.takes fid f →
    let u := s.dropFlight fid
    let d := f.destCore
    (∀ ch bytes red, f.body = .segment ch bytes red →
      ((∀ a ∈ bytes.map (·.1) ++ red.flatMap (fun p => span p.1 4), (u.core d).engineOwned a = true ∧ u.reservedPlot d (plotOf a) = false) →
        exec (.inboundSegment fid) s = .next ((u.modCore d (fun k => { k with ls := addAll (memPuts k.ls bytes) red })).answer f
          (.segAns ch (bytes.length + 4 * red.length) none))) ∧
      (∀ a, u.notEngine d (bytes.map (·.1) ++ red.flatMap (fun p => span p.1 4)) = some a →
        ∃ v b, exec (.inboundSegment fid) s = .next (State.answer v f (.segAns ch 0 (some (0x42, b)))) ∧ (v.core d).ls = (s.core d).ls ∧ (v.core d).inlog.getLsbD 63 = true)) ∧
    (∀ ch ps, f.body = .flip ch ps →
      ((∃ p ∈ ps, s.plotInUse d p = true) → exec (.inboundSegment fid) s = .next s) ∧
      ((∀ p ∈ ps, s.plotInUse d p = false) → ∃ v b, exec (.inboundSegment fid) s = .next (State.answer v b (.segAns ch 0 none)) ∧
        ∀ p, nget (v.core d).owners p = if p ∈ ps then some false else nget (s.core d).owners p)) ∧
    ∀ ch sn bar a n, f.body = .barEvent ch sn bar a n → exec (.remoteBarrierEvent fid) s = .next (u.barEvent d bar.toNat a (BitVec.ofNat 32 n)))

/-- A copy ends once everything it wrote is performed: the amax of QF8 and MXQ is folded in, its plots return to the threads, its barrier event is made,
its future is filled with the status of R284, OK 0 or CANCELLED 2, or poisoned, and the channel is IDLE (R278, R283 to R287, R295); a failure ends a
FAULTED copy too (R293). A cancelled copy ends CANCELLED whatever befell its segments (R295), one that comes to no OK ending first hands on the bytes
that it kept for whole units (log 18). It waits while a plot to be returned is in use, and plots of other cores are returned there first (R278). The
event of a copy is made at once at the issuing core; for another core it is sent there, and the copy ends once its way has shown whether that core can
be reached: where it cannot, the future is poisoned with the code that the event met (R285). That a cancelled copy whose event is lost is poisoned too
is the model's reading (log 15). A multicast opens with one receiver for each core that MCSET selects, the skipped ones answered at once, and a
message of count 0 from each skipped core of a live site (R288, R289, R292). A live site with a free entry among its 64 where the tree branches, its
receivers counted, gets a combining entry that expects one message from each of them and from each branch. It then starts its segments in turn. A
performed segment leaves as one packet to each receiver of the sender's site and one that the routers replicate to the others; the bytes of an aligned
8-byte unit that later elements complete wait for them (R169, R288). The packets and the bytes kept for whole units are the model's choices (log 18).
A replica at a receiver that takes it: refused with 0x42 for a byte of no ENGINE-owned plot, with 0x43 for a full inbound table, else written and
answered; the last one enters the inbound table, and once none of the plots that it flips is in use the receiver flips them, makes its event and
answers (R278, R288 to R291). A multicast ends CANCELLED 2 whatever befell its segments, EMPTY 1, or OK once it has run to its end, its plots returned
(R284, R287, R289, R295). One of zero extent has no receiver and ends OK, its single sender event made (R286); that it ends EMPTY where its set is
empty too is the model's choice (log 64). That each receiver answers with packets, and that an ending that waits for plots stays as a packet with no
bytes, are the model's choices (log 18). MCFREE of an inbound entry removes it and sends a count of 1 towards its sender, of another it only counts; a
message is combined on its way, and when the counts match the receivers written the sender's barrier gets its event (R290, R292). -/
def Obligations.CopyEnds : Prop :=
  ((∀ (s : State) (c ch : Nat),
    let x := s.chan c ch
    let ends (u : State) (st : Nat) : Prop := ∀ v b, u.sendEvent c ch = (v, b) →
      exec (.copyEnd c ch) s = .next (if b = true then v.endCopy c ch st (if st = 2 then none else (v.chan c ch).fail) else v)
    let kept : Prop := x.edge ≠ [] ∨ x.edgeAdds ≠ [] ∨ x.edgeScale ≠ []
    (x.evSent = true → x.st = .cancelling ∨ x.st = .active ∨ (x.st = .faulted ∧ x.fail ≠ none) →
      (s.eventFlies c ch = true → exec (.copyEnd c ch) s = .next s) ∧
      (s.eventFlies c ch = false → exec (.copyEnd c ch) s =
        .next (if x.st = .cancelling then s.endCopy c ch 2 x.evFail else s.endCopy c ch 0 (x.fail.or x.evFail)))) ∧
    (x.evSent = false → x.op ≠ 4 → x.started = [] → x.outstanding = 0 →
    (x.st = .cancelling → ¬kept → ends s 2) ∧
    (x.st = .faulted → x.fail ≠ none → ¬kept → ends s 0) ∧
    (x.st = .cancelling ∨ (x.fail ≠ none ∧ (x.st = .faulted ∨ x.st = .active ∧ (s.core c).chanHeld x = false)) → kept → exec (.copyEnd c ch) s =
      .next (((s.modChan c ch (fun y => { y with edge := [], edgeAdds := [], edgeScale := [] })).sendUnits c ch x.edgeTo x.edge x.edgeAdds).sendUnits c ch none
        x.edgeScale [])) ∧
    (x.st = .active → (s.core c).chanHeld x = false →
      (x.fail ≠ none → ¬kept → ends s 0) ∧
      (x.fail = none → x.next ≠ x.total → exec (.copyEnd c ch) s = .next s) ∧
      (x.fail = none → x.next = x.total →
        let v := (s.amaxFold c ch).1
        let y := v.chan c ch
        ((s.amaxFold c ch).2 = false ∨ v.flipsWait c y = true → exec (.copyEnd c ch) s = .next v) ∧
        ((s.amaxFold c ch).2 = true → v.flipsWait c y = false →
          (y.farFlips c = [] → ends (v.flipPlots c y) 0) ∧
          (y.farFlips c ≠ [] → exec (.copyEnd c ch) s = .next (v.sendFlips c ch (y.farFlips c)))) ∧
        (x.op < 2 ∨ (x.reg 0).getLsbD 43 = false → s.amaxFold c ch = (s, true)))))) ∧
  (∀ (s : State) (c ch : Nat),
    let x := s.chan c ch
    let bar := x.reg 3
    let name : BitVec 16 := BitVec.ofNat 16 (wf bar 0 16)
    let n := (x.bytes + 31) / 32
    (bar.getLsbD 63 = false ∨ x.op = 4 → s.sendEvent c ch = (s, true)) ∧
    (bar.getLsbD 63 = true → x.op ≠ 4 →
      (name = 0xFFFF ∨ name = s.coreName c → s.sendEvent c ch = (s.barEvent c (wf bar 16 6) 1 (BitVec.ofNat 32 n), true)) ∧
      (name ≠ 0xFFFF → name ≠ s.coreName c → s.sendEvent c ch = ((s.modChan c ch (fun y => { y with evSent := true })).inject .request (.core c) (siteOf c)
        (s.site (siteOf c)).part (.name name) (.barEvent ch x.serial (BitVec.ofNat 6 (wf bar 16 6)) 1 n), false))) ∧
    ∀ (f : Flight) (b a m : Nat) (code : BitVec 8), s.findFlight f.fid = some f → f.src = .core c → f.body = .barEvent ch x.serial (BitVec.ofNat 6 b) a m →
      f.dead = false → x.evSent = true → ((s.failFlight f code).chan c ch).evFail = x.evFail.or (some (code, BitVec.ofNat 48 f.detail))) ∧
  ∀ (s : State) (c ch st i : Nat), (s.chan c ch).claim = some i → (s.chan c ch).scope < 2 →
    let x := s.chan c ch
    (((s.endCopy c ch st none).core c).deliveries = (s.core c).deliveries ++ [⟨i, (s.core c).cycle, .value ((BitVec.ofNat 64 (st * 2 ^ 56 +
      x.resumedSide.toNat * 2 ^ 54 + x.resumedReason.toNat * 2 ^ 48 + (if x.nanSeen then 2 ^ 47 else 0) + (if x.satSeen then 2 ^ 46 else 0) +
      (if x.skipped then 2 ^ 45 else 0) + x.bytes % 2 ^ 40)).setWidth 2048)⟩]) ∧
    ((s.endCopy c ch st none).chan c ch).st = .idle ∧ ((s.endCopy c ch st none).chan c ch).claim = none ∧
    ∀ code d, ((s.endCopy c ch st (some (code, d))).core c).deliveries = (s.core c).deliveries ++
      [⟨i, (s.core c).cycle, .poison (descriptor x.cls.toNat code.toNat d.toNat)⟩]) ∧
  ((∀ (s : State) (c ch i : Nat),
    let x := s.chan c ch
    x.st = .active → x.op = 4 → x.started.length ≤ i →
    (s.mayOpen c ch = true → exec (.mcast c ch i) s = .next (s.openMcast c ch)) ∧
    (s.mayOpen c ch = false → x.mcOpen = true → s.mayStart c ch = true → x.receivers ≠ [] → exec (.mcast c ch i) s = .next (s.startSegment c ch))) ∧
  (∀ (s : State) (c ch : Nat),
    let x := s.chan c ch
    let cores := if x.total = 0 then [] else x.mcCores
    ∃ u : State, (u.chan c ch).mcOpen = true ∧ (u.chan c ch).receivers = cores.map (fun d => ⟨d, s.mcSkips d, s.mcSkips d, false, 0⟩) ∧
      nget (u.core c).mcasts x.mcBar.toNat = some (0, none) ∧ u.sites = s.sites ∧ u.flights = s.flights ∧
      s.openMcast c ch = (cores.filter (fun d => s.mcSkips d && s.siteLive (siteOf d))).foldl
        (fun v d => v.freeMsg (siteOf d) true (.core d) (s.coreName c) x.mcBar 0 64)
        (u.allocCombines (siteOf c) (s.coreName c) x.mcBar (cores.filter (fun d => s.siteLive (siteOf d))))) ∧
  (∀ (s : State) (root : Nat) (sender : BitVec 16) (bar : BitVec 6) (cores : List Nat), root < Config.sites → (∀ d ∈ cores, siteOf d < Config.sites) →
    let passed := (cores.flatMap (fun d => treePath (siteOf d) root 64)).eraseDups
    let fan (n : Nat) : Nat := (passed.filter (fun m => m != root && treeUp m root == n)).length + (cores.filter (fun d => siteOf d == n)).length
    ∀ n, ((s.allocCombines root sender bar cores).site n).combines = (s.site n).combines ++
      if n ∈ passed ∧ 2 ≤ fan n ∧ s.siteLive n = true ∧ (s.site n).combines.length < 64 then [{ sender := sender, bar := bar, expect := fan n, got := 0, sum := 0 }] else []) ∧
  ∀ (s : State) (c ch i : Nat) (seg : Segment) (as bs : List Nat),
    let x := s.chan c ch
    x.st = .active → x.op = 4 → x.started[i]? = some seg → x.blockedBy i seg = false → seg.srcs = as.map .ls → seg.dsts = bs.map (.far 0xFFFF) → seg.scale = none →
      as.length = bs.length →
    let left : Channel := { x with started := x.started.eraseIdx i }
    let all := x.edge ++ (as.zip bs).flatMap (fun p => placeAt p.2 (bytesOf x.es (memRead (s.core c).ls p.1 x.es)))
    let plots := ((x.farPlots ++ all.map (fun (b : Nat × Byte) => ((0xFFFF : Nat), plotOf b.1))).eraseDups).map (·.2)
    let tail := if x.next = x.total ∧ left.started = [] ∧ x.outstanding = 0 ∧ x.fail = none then
        some (if (x.reg 0).getLsbD 41 then plots else [], if (x.reg 5).getLsbD 47 then some (BitVec.ofNat 6 (wf (x.reg 5) 40 6)) else none, x.es * x.total)
      else none
    let sent (v : State) (l : List Nat) : State := v.inject .request (.core c) (siteOf c) (s.site (siteOf c)).part (.coords (siteOf (l.headD 0)))
      (.replica ch l (s.coreName c) x.mcBar (all.filter (fun b => !left.unitLater (b.1 / 8))) tail)
    let cores := (x.receivers.filter (fun r => !s.mcSkips r.core)).map (·.core)
    let far := cores.filter (fun d => siteOf d != siteOf c)
    ∃ u : State, u.flights = s.flights ∧ (u.core c).ls = (s.core c).ls ∧ (u.chan c ch).mcSent = true ∧ (u.chan c ch).started = left.started ∧
      (u.chan c ch).edge = all.filter (fun b => left.unitLater (b.1 / 8)) ∧
      let own := (cores.filter (fun d => siteOf d == siteOf c)).foldl (fun v d => sent v [d]) u
      exec (.mcast c ch i) s = .next (if far = [] then own else sent own far)) ∧
  ((∀ (s : State) (fid c ch d : Nat) (l : List Nat) (sender : BitVec 16) (bar : BitVec 6) (bytes : List (Nat × Byte)) (last : Option (List Nat × Option (BitVec 6) × Nat)) (f : Flight),
    s.takes fid f → f.src = .core c → f.body = .replica ch (d :: l) sender bar bytes last →
    let u := s.dropFlight fid
    let open_ : Bool := (s.chan c ch).receivers.any (fun r => r.core == d && !r.closed)
    let v := u.modCore d (fun k => { k with ls := memPuts k.ls bytes })
    let ends (w : State) (ps : List Nat) (rbar : Option (BitVec 6)) (n : Nat) : State :=
      let w := w.modCore d (fun k => k.toThread ps)
      let w := match rbar with | some b => w.barEvent d b.toNat 1 (BitVec.ofNat 32 ((n + 31) / 32)) | none => w
      (w.modChan c ch (fun x => { x with receivers := x.receivers.map (fun r => if r.core == d then { r with closed := true } else r) })).answerLate f
        (.mcAns ch d bytes.length (some (true, none)))
    let used (ps : List Nat) : Prop := ∃ p ∈ ps, u.plotInUse d p = true
    (open_ = false → exec (.mcastReceive fid) s = .next u) ∧
    (open_ = true → bytes = [] → last = none → exec (.mcastReceive fid) s = .next u) ∧
    (open_ = true → bytes = [] → ∀ ps rbar n, last = some (ps, rbar, n) →
      (used ps → exec (.mcastReceive fid) s = .next s) ∧ (¬used ps → exec (.mcastReceive fid) s = .next (ends u ps rbar n))) ∧
    (open_ = true → bytes ≠ [] →
      (∀ a, u.notEngine d (bytes.map (·.1)) = some a → exec (.mcastReceive fid) s = .next (u.mcRefuse f c ch d sender bar 0x42 a)) ∧
      (u.notEngine d (bytes.map (·.1)) = none →
        (16 ≤ (u.core d).inbound.length → exec (.mcastReceive fid) s = .next (u.mcRefuse f c ch d sender bar 0x43 0)) ∧
        ((u.core d).inbound.length < 16 →
          let told (w : State) : State := w.answer f (.mcAns ch d bytes.length none)
          (last = none → exec (.mcastReceive fid) s = .next (told v)) ∧
          ∀ ps rbar n, last = some (ps, rbar, n) →
            let w := v.modCore d (fun k => { k with inbound := k.inbound ++ [(sender, bar)] })
            (used ps → exec (.mcastReceive fid) s = .next { told w with flights := (told w).flights ++ [{ f with body := .replica ch [d] sender bar [] last }] }) ∧
            (¬used ps → exec (.mcastReceive fid) s = .next (ends w ps rbar n)))))) ∧
  (∀ (s : State) (c ch d n : Nat) (written : Bool) (refused : Option (Nat × Nat)),
    let x := s.chan c ch
    let y := (s.takeMcAns c ch d n (some (written, refused))).chan c ch
    y.receivers = x.receivers.map (fun r => if r.core = d then { r with closed := true, answered := true, written := written, bytes := r.bytes + n } else r) ∧
    y.mcFail = (x.mcFail.or x.fail).or (refused.map (fun p => (BitVec.ofNat 8 p.1, BitVec.ofNat 48 p.2)))) ∧
  ∀ (s : State) (c ch : Nat),
    let x := s.chan c ch
    x.op = 4 → x.evSent = false → x.started = [] → x.outstanding = 0 → x.mcOpen = true → s.replicasOut c ch = false →
    (x.fail ≠ none ∨ x.st = .cancelling → x.edge = [] ∧ x.edgeAdds = [] ∧ x.edgeScale = []) →
    (x.st = .cancelling → exec (.copyEnd c ch) s = .next (s.endMcast c ch 2)) ∧
    (x.st = .active → (s.core c).chanHeld x = false → x.total = 0 → exec (.copyEnd c ch) s = .next (s.endMcast c ch (if x.mcCores = [] then 1 else 0))) ∧
    (x.st = .active → (s.core c).chanHeld x = false → x.total ≠ 0 →
      (x.receivers = [] → exec (.copyEnd c ch) s = .next (s.endMcast c ch 1)) ∧
      (x.receivers ≠ [] →
        (x.fail = none → x.next ≠ x.total → exec (.copyEnd c ch) s = .next s) ∧
        (x.fail ≠ none ∨ (x.next = x.total ∧ x.mcFail ≠ none) → exec (.copyEnd c ch) s = .next (s.endMcast c ch 0)) ∧
        (x.fail = none → x.mcFail = none → x.next = x.total →
          (s.flipsWait c x = true → exec (.copyEnd c ch) s = .next s) ∧
          (s.flipsWait c x = false → exec (.copyEnd c ch) s = .next ((s.flipPlots c x).endMcast c ch 0))))) ∧
    (∀ st w, x.receivers = [] → nget (s.core c).mcasts x.mcBar.toNat = some w →
      let t := s.endMcast c ch st
      nget (t.core c).mcasts x.mcBar.toNat = none ∧ (t.core c).barrier x.mcBar.toNat = ((s.barEvent c x.mcBar.toNat 1 0).core c).barrier x.mcBar.toNat) ∧
    ∀ i, x.claim = some i → x.scope < 2 →
      ((s.endMcast c ch 2).core c).deliveries.getLast? = some ⟨i, (s.core c).cycle, .value ((x.statusWord 2).setWidth 2048)⟩ ∧
      ((s.endMcast c ch 2).chan c ch).st = .idle) ∧
  ((∀ (s : State) (rs1 : BitVec 5), s.noRepeat → s.me.role ≠ .t → s.me.role ≠ .none → s.readable .x rs1.toNat →
    let e : BitVec 16 × BitVec 6 := (BitVec.ofNat 16 (wf (s.xv rs1) 0 16), BitVec.ofNat 6 (wf (s.xv rs1) 16 6))
    (e ∈ s.here.inbound → exec (.mcfree rs1) s = .next (((s.modHere (fun k => { k with inbound := k.inbound.erase e })).freeMsg (siteOf s.curCore) true
      (.core s.curCore) e.1 e.2 1 64).goneTo (s.me.pc + 4))) ∧
    (e ∉ s.here.inbound → exec (.mcfree rs1) s = .next ((s.count s.curCore 21).goneTo (s.me.pc + 4)))) ∧
  (∀ (s : State) (fid n : Nat) (sender : BitVec 16) (bar : BitVec 6) (f : Flight), s.takes fid f → f.body = .bufFree sender bar n →
    exec (.bufferFree fid) s = .next ((s.dropFlight fid).freeMsg f.dsite true f.src sender bar n 64)) ∧
  ∀ (s : State) (c b n freed written : Nat), nget (s.core c).mcasts b = some (freed, some written) →
    let t := s.addFreed c b n
    (freed + n = written → nget (t.core c).mcasts b = none ∧ (t.core c).barrier b = ((s.barEvent c b 1 0).core c).barrier b) ∧
    (freed + n ≠ written → nget (t.core c).mcasts b = some (freed + n, some written) ∧ (t.core c).barriers = (s.core c).barriers))

/-! ## Tasks, messages and timers (R311 to R331) -/

/-- SPAWN pushes a well-formed record on the deque of its priority with its own core as the origin and answers 0; a core without tasks, a malformed record
and a full deque answer 2, 3 and 1 (R316, R318). A record outside local store or misaligned traps. A dispatch takes the first record that a slot can
run and starts it there: pc, tag, x10 to x17 from the record, every other register FULL zero (R314, R315). -/
def Obligations.TaskRecords : Prop :=
  (∀ (s : State) (rs1 rd : BitVec 5), s.noRepeat → notT s.me.role = true → s.readable .x rs1.toNat → s.writable .x rd.toNat →
    let a := s.xv rs1
    (0xFFFC0 < a.toNat → exec (.spawn rs1 rd) s = .next (s.trap 5 a)) ∧
    (a.toNat ≤ 0xFFFC0 → a.toNat % 64 ≠ 0 → exec (.spawn rs1 rd) s = .next (s.trap 4 a)) ∧
    ∀ (u : State) (c : Option Nat), a.toNat ≤ 0xFFFC0 → a.toNat % 64 = 0 → s.bytesPass false (span a.toNat 64) → s.pend .x rd.toNat 6 false = some (u, c) →
      let ws := lsWords s.here.ls a.toNat 8
      let w0 := ws.getD 0 0
      let p := recPrio w0
      let n := (u.here.deque p).length
      let me := u.coreName s.curCore
      let w1 := setField (ws.getD 1 0) 0 16 me.toNat
      let pushed : State := (u.modHere (fun k => k.pushDeque p { dwords := [w0, w1], entered := u.here.cycle, stealable := w0.getLsbD 50, resume := none }
        (ws.drop 2))).stampRec s.curCore 1 0 p false (recTag w1).toNat me.toNat
      (u.tasksOn s.curCore = false → exec (.spawn rs1 rd) s = .next ((u.fillNow s.curCore c (sendStatus 2 0 0)).goneTo (s.me.pc + 4))) ∧
      (u.tasksOn s.curCore = true → malformedRec w0 (ws.getD 1 0) = true → exec (.spawn rs1 rd) s = .next ((u.fillNow s.curCore c (sendStatus 3 0 0)).goneTo (s.me.pc + 4))) ∧
      (u.tasksOn s.curCore = true → malformedRec w0 (ws.getD 1 0) = false →
        (256 ≤ n + u.here.yieldsTo p → exec (.spawn rs1 rd) s = .next ((u.fillNow s.curCore c (sendStatus 1 (BitVec.ofNat 16 n) 0)).goneTo (s.me.pc + 4))) ∧
        (n + u.here.yieldsTo p < 256 → exec (.spawn rs1 rd) s = .next ((pushed.fillNow s.curCore c (sendStatus 0 (BitVec.ofNat 16 (n + 1)) 0)).goneTo (s.me.pc + 4))))) ∧
  ((∀ (s : State) (core n : Nat) (r : RecSrc), s.unitActs core = true → (s.core core).lastDispatch < (s.core core).cycle → (s.core core).choose = some (r, n) →
    let ws := (s.core core).recWords r
    let w0 := ws.getD 0 0
    let w1 := ws.getD 1 0
    let p := match r with | .inbox _ => recPrio w0 | .top p => p
    let inbox := match r with | .inbox _ => true | .top _ => false
    let u := ((s.modCore core (fun k => { (k.takeRec r) with lastDispatch := k.cycle })).count core 23).stampRec core 2 n p inbox (recTag w1).toNat (recOrigin w1).toNat
    let v := if w0.getLsbD 63 then u.restore core n (.cache (wf w0 0 5))
      else (u.endResv core n).modCore core (fun k => (k.clearRegs n).setSlot n (((k.clearRegs n).slot n).dispatched ws))
    exec (.dispatch core) s = .next ((v.trace core n 6 0 (v.slot core n).pc ((recTag w1).setWidth 64)).modSlot core n
      (fun t => { t with prio := some p, origin := recOrigin w1, viaInbox := inbox }))) ∧
  ∀ (k : Core) (n : Nat) (ws : List Word),
    let t := ((k.clearRegs n).slot n).dispatched ws
    t.state = .running ∧ t.pc = ws.getD 0 0 &&& 0xFFFFFFFFFFFF ∧ t.tag = (recTag (ws.getD 1 0)).setWidth 64 ∧ t.rptstat = 0 ∧ t.stfail = 0 ∧
    t.tcause = 0 ∧ t.tval = 0 ∧ t.tpc = 0 ∧ t.v = [] ∧ t.m = [] ∧ t.c = [] ∧ t.streams = [] ∧
    (∀ i, i < 6 → t.xr (10 + i) = ⟨.full, ws.getD (2 + i) 0⟩) ∧ t.xr 16 = ⟨.full, (recOrigin (ws.getD 1 0)).setWidth 64⟩ ∧
    t.xr 17 = ⟨.full, (recTag (ws.getD 1 0)).setWidth 64⟩ ∧ ∀ i, i < 32 → (i < 10 ∨ 17 < i) → t.xr i = ⟨.full, 0⟩)

/-- SEND and SENDT send by name at once, or into the open speculation, which holds 32; SPECB opens it, SPECC sends what it holds in order, SPECA drops it
(R320, R323, R327). A record that arrives takes a free inbox record or answers full; a tagged message lands in the mailbox of the slot that bears its
tag, in the saved context that does, or in the pound (R320, R323, R326). In a saved context it takes a FREE entry of the context's mailbox, HELD after
those before it: in the context cache, in an image that is still to be written, or in the image's own bytes; with none FREE it answers full (R323,
R325). In a slot's mailbox it takes the lowest FREE entry, dword 0 the tag and the origin, and is HELD, or TAKEN where a RECVF claim waits, which
fills with its address in the next cycle, or where that claim was dropped in this very cycle (R323, R324, R331); with none FREE it answers FULL. In
the pound it takes the lowest entry that is not valid, its address pushed to the queue that the launch names, and answers ORPHAN; with all 64 valid it
is LOST, counted, and wl.pound tells of the first (R326). That a record takes the lowest free inbox record is the model's choice (log 58). -/
def Obligations.Messages : Prop :=
  (∀ s : State, s.noRepeat → notT s.me.role = true →
    (exec .specb s = .next ((s.modMe (fun t => { t with specOpen := true })).goneTo (s.me.pc + 4)) ∧
      exec .specc s = .next (((s.me.hold.foldl (fun v h => v.sendMsg s.curCore s.curSlot h) s).modMe (fun t => { t with hold := [], specOpen := false })).goneTo (s.me.pc + 4)) ∧
      exec .speca s = .next ((s.dropSpec s.curCore s.curSlot).goneTo (s.me.pc + 4))) ∧
    ∀ (rs2 rs1 rd : BitVec 5) (u : State) (c : Option Nat), s.readable .x rs1.toNat → s.readable .x rs2.toNat → s.writable .x rd.toNat →
      (s.xv rs2).toNat ≤ 0xFFFC0 → (s.xv rs2).toNat % 64 = 0 → s.bytesPass false (span (s.xv rs2).toNat 64) → s.pend .x rd.toNat 6 false = some (u, c) →
      let ws := lsWords s.here.ls (s.xv rs2).toNat 8
      let name := (s.xv rs1).setWidth 16
      let plain : HeldMsg := { tagged := false, name := name, tag := 0, claim := c, dwords := ws.set 1 (setField (ws.getD 1 0) 0 16 (u.coreName s.curCore).toNat) }
      let tagged : HeldMsg := { tagged := true, name := name, tag := (s.xv rs1).extractLsb' 16 32, claim := c, dwords := ws.drop 1 }
      let goes (i : Instr) (h : HeldMsg) : Prop :=
        (u.me.specOpen = false → exec i s = .next ((u.sendMsg s.curCore s.curSlot h).goneTo (s.me.pc + 4))) ∧
        (u.me.specOpen = true → u.me.hold.length < 32 → exec i s = .next ((u.modMe (fun t => { t with hold := t.hold ++ [h] })).goneTo (s.me.pc + 4))) ∧
        (u.me.specOpen = true → 32 ≤ u.me.hold.length → exec i s = .next ((u.fillNext s.curCore c (sendStatus 6 name (if h.tagged then h.tag else 0))).goneTo (s.me.pc + 4)))
      (malformedRec (ws.getD 0 0) (ws.getD 1 0) = true → exec (.send rs2 rs1 rd) s = .next ((u.fillNext s.curCore c (sendStatus 3 name 0)).goneTo (s.me.pc + 4))) ∧
      (malformedRec (ws.getD 0 0) (ws.getD 1 0) = false → goes (.send rs2 rs1 rd) plain) ∧ goes (.sendt rs2 rs1 rd) tagged) ∧
  ((∀ (s : State) (fid : Nat) (f : Flight) (claim : Option Nat) (slot : Nat) (ws : List Word), s.takes fid f → f.body = .send claim slot ws → s.tooSoon f = false →
    let u := s.dropFlight fid
    let ans (v : State) (st : Nat) : State := v.answerMsg f claim (sendStatus st (v.coreName f.destCore) 0)
    (u.tasksOn f.destCore = false → exec (.sendLanding fid) s = .next (ans u 2)) ∧
    (u.tasksOn f.destCore = true → (u.core f.destCore).inboxFree = none → exec (.sendLanding fid) s = .next (ans u 1)) ∧
    ∀ i, u.tasksOn f.destCore = true → (u.core f.destCore).inboxFree = some i → exec (.sendLanding fid) s =
      .next (ans ((u.modCore f.destCore (fun k => k.putInbox i ws)).stampRec f.destCore 1 0 (recPrio (ws.getD 0 0)) true (recTag (ws.getD 1 0)).toNat
        (recOrigin (ws.getD 1 0)).toNat) 0)) ∧
  (∀ (s : State) (fid : Nat) (f : Flight) (claim : Option Nat) (slot : Nat) (tag : BitVec 32) (origin : BitVec 16) (ws : List Word), s.takes fid f →
    f.body = .sendt claim slot tag origin ws → s.tooSoon f = false →
    let r := (s.dropFlight fid).landTagged f.destCore tag origin ws
    exec (.sendtLanding fid) s = .next (r.1.answerMsg f claim (sendStatus r.2 (r.1.coreName f.destCore) tag))) ∧
  ∀ (s : State) (c : Nat) (tag : BitVec 32) (origin : BitVec 16) (ws : List Word),
    (s.tasksOn c = false → s.landTagged c tag origin ws = (s, 2)) ∧
    (s.tasksOn c = true → ∀ n, tag ≠ 0 → n < 16 → wf (s.slot c n).tag 0 32 = tag.toNat → (∀ m, m < n → wf (s.slot c m).tag 0 32 ≠ tag.toNat) →
      s.landTagged c tag origin ws = s.toMailbox c n tag origin ws) ∧
    (s.tasksOn c = true → ∀ p, tag ≠ 0 → (∀ n, n < 16 → wf (s.slot c n).tag 0 32 ≠ tag.toNat) → (s.core c).savedTags.find? (fun q => q.1 == tag) = some p →
      s.landTagged c tag origin ws = s.toSaved c p.2 tag origin ws) ∧
    (∀ n, n < 16 → let ready := (List.range 4).find? (fun k => (nget (s.slot c n).mail k).getD .free == .free)
      let line : Word := BitVec.ofNat 64 (tag.toNat * 2 ^ 16 + origin.toNat)
      let at_ (k : Nat) : Nat := 0xFC000 + 0x100 * n + 0x40 * k
      let stored (k : Nat) : State := s.modCore c (fun x => { x with ls := putWords x.ls (at_ k) (line :: ws) })
      (ready = none → s.toMailbox c n tag origin ws = (s, 1)) ∧
      ∀ k, ready = some k →
        (∀ i, (s.slot c n).recvClaim = some i → (s.slot c n).mailOrder = [] → s.toMailbox c n tag origin ws =
          (((stored k).modSlot c n (fun t => { t with mail := nput t.mail k .taken, recvClaim := none })).deliverAt c (some i) ((s.core c).cycle + 1)
            (.value (BitVec.ofNat 2048 (at_ k))), 0)) ∧
        ((s.slot c n).recvClaim = none ∨ (s.slot c n).mailOrder ≠ [] →
          ((s.slot c n).recvDrop ≠ some (s.core c).cycle → s.toMailbox c n tag origin ws =
            ((stored k).modSlot c n (fun t => { t with mail := nput t.mail k .held, mailOrder := t.mailOrder ++ [k] }), 0)) ∧
          ((s.slot c n).recvDrop = some (s.core c).cycle → s.toMailbox c n tag origin ws =
            ((stored k).modSlot c n (fun t => { t with mail := nput t.mail k .taken, recvDrop := none }), 0)))) ∧
    (let entry (i : Nat) : Nat := 0xFD000 + 0x40 * i
      let line : Word := BitVec.ofNat 64 (2 ^ 63 + tag.toNat * 2 ^ 16 + origin.toNat)
      let ready := (List.range 64).find? (fun i => (memGet (s.core c).ls (entry i + 7)).getLsbD 7 == false)
      (∀ i, ready = some i →
        let u := s.modCore c (fun x => { x with ls := putWords x.ls (entry i) (line :: ws) })
        (∀ l, s.launchOf c = some l → l.pqen = true → s.toPound c tag origin ws = ((u.queuePush c l.pq (BitVec.ofNat 64 (entry i))).getD u, 4)) ∧
        ((∀ l, s.launchOf c = some l → l.pqen = false) → s.toPound c tag origin ws = (u, 4))) ∧
      (ready = none →
        let r := (s.core c).poundReg
        let r' : Word := if r.getLsbD 63 = true then r ||| 0x4000000000000000
          else BitVec.ofNat 64 (2 ^ 63 + (if r.getLsbD 62 = true then 2 ^ 62 else 0) + origin.toNat * 2 ^ 32 + tag.toNat)
        s.toPound c tag origin ws = ((s.count c 25).modCore c (fun x => { x with poundReg := r' }), 7))) ∧
    (∀ p, let put (v : Saved) (k : Nat) : Saved := { v with mail := nput v.mail k .held, mailOrder := v.mailOrder ++ [k], mailBytes := nput v.mailBytes k (entryWord tag origin :: ws) }
      let free (m : NMap MailState) : Option Nat := (List.range 4).find? (fun k => (nget m k).getD .free == .free)
      (∀ e v, p = .cache e → nget (s.core c).ctx e = some v →
        (free v.mail = none → s.toSaved c p tag origin ws = (s, 1)) ∧
        ∀ k, free v.mail = some k → s.toSaved c p tag origin ws = (s.modCore c (fun q => { q with ctx := nput q.ctx e (put v k) }), 0)) ∧
      ((∀ e, p ≠ .cache e) →
        let image := (s.core c).images.find? (fun i => i.place.key == p.key && !i.written)
        (∀ i, image = some i →
          (free i.saved.mail = none → s.toSaved c p tag origin ws = (s, 1)) ∧
          ∀ k, free i.saved.mail = some k → s.toSaved c p tag origin ws =
            (s.modCore c (fun q => { q with images := q.images.map (fun x => if x.place.key == p.key && !x.written then { x with saved := put i.saved k } else x) }), 0)) ∧
        (image = none →
          let m := mailOfWord (BitVec.ofNat 64 (s.placeRead c p 0x48 8))
          (free m.1 = none → s.toSaved c p tag origin ws = (s, 1)) ∧
          ∀ k, free m.1 = some k → s.toSaved c p tag origin ws =
            (((entryWord tag origin :: ws).zipIdx.foldl (fun v q => v.placeWrite c p (0x200 + 64 * k + 8 * q.2) 8 q.1.toNat) s).placeWrite c p 0x48 8
              (mailWord (nput m.1 k .held) (m.2 ++ [k])).toNat, 0)))) ∧
    (s.tasksOn c = true → (tag = 0 ∨ (∀ n, n < 16 → wf (s.slot c n).tag 0 32 ≠ tag.toNat) ∧ ∀ p ∈ (s.core c).savedTags, p.1 ≠ tag) →
      s.landTagged c tag origin ws = s.toPound c tag origin ws))

/-- RECVF frees the entries taken before, takes the oldest held entry or waits for one; on a wait of its own it parks and frees none (R83), and on a core
without tasks it is poisoned; TIMERF waits for a count, and its future fills when the cycle count has reached it (R324, R328). DONE ends the slot's
work: its bank locks are freed, and it becomes EMPTY with its registers cleared, or waits for its unfinished MDOT; YIELD asks for a save into a free
context-cache entry when higher work waits, and otherwise does nothing; a site whose cores are finished returns to LOADED (R311, R319, R321). DONE
drops an open speculation at once (R327). That a YIELD frees the slot's bank locks as SWAPCTX does, and that the end of a job clears the site's launch
record, are the model's choices (log 20, log 22). -/
def Obligations.TaskWaits : Prop :=
  ((∀ (s : State) (rd : BitVec 5), s.noRepeat → notT s.me.role = true → s.writable .x rd.toNat →
    let freed (v : State) : State := v.modMe (fun t => { t with mail := t.mail.filter (fun p => p.2 != .taken) })
    (∀ (u : State) (c : Option Nat), s.tasksOn s.curCore = false → s.pend .x rd.toNat 6 true = some (u, c) →
      exec (.recvf rd) s = .next (((freed u).deliverAt s.curCore c (u.here.cycle + 1) (.poison (descriptor 6 0x50 0))).goneTo (s.me.pc + 4))) ∧
    (s.tasksOn s.curCore = true → s.me.recvClaim.bind (nget s.here.claims) = none →
      (∀ k rest, s.me.mailOrder = k :: rest → exec (.recvf rd) s =
        .next ((((freed s).modMe (fun t => { t with mail := nput t.mail k .taken, mailOrder := rest })).setX rd (wd (mailAddr s.curSlot k))).goneTo (s.me.pc + 4))) ∧
      (s.me.mailOrder = [] → rd = 0 → exec (.recvf rd) s = .next ((freed s).goneTo (s.me.pc + 4))) ∧
      ∀ (u : State) (c : Nat), s.me.mailOrder = [] → rd ≠ 0 → s.pend .x rd.toNat 6 true = some (u, some c) →
        exec (.recvf rd) s = .next (((freed u).modMe (fun t => { t with recvClaim := some c })).goneTo (s.me.pc + 4))) ∧
    ∀ cl, s.tasksOn s.curCore = true → s.me.recvClaim.bind (nget s.here.claims) = some cl → exec (.recvf rd) s =
      .next ((s.modMe (fun t => { t with state := .parked, park := some (.reg cl.file cl.reg), parkCount := 0 })).countS s.curCore s.curSlot 3)) ∧
  (∀ (s u : State) (rs1 rd : BitVec 5) (c : Nat), s.noRepeat → notT s.me.role = true → s.readable .x rs1.toNat → s.writable .x rd.toNat →
    (s.pend .x rd.toNat 8 true = some (u, some c) →
      exec (.timerf rs1 rd) s = .next ((u.modHere (fun k => { k with timers := k.timers ++ [(c, s.xv rs1, k.cycle)] })).goneTo (s.me.pc + 4))) ∧
    (rd = 0 → exec (.timerf rs1 rd) s = .next (s.goneTo (s.me.pc + 4)))) ∧
  ∀ (s : State) (core claim : Nat) (v : Word) (t0 : Nat), (s.core core).timers.find? (fun t => t.1 == claim) = some (claim, v, t0) →
    (v.toNat ≤ (s.core core).cycle ∧ t0 < (s.core core).cycle → exec (.timerExpiry core claim) s =
      .next ((s.modCore core (fun k => { k with timers := k.timers.filter (fun x => x.1 != claim) })).fillNow core (some claim) (wd (s.core core).cycle))) ∧
    (¬(v.toNat ≤ (s.core core).cycle ∧ t0 < (s.core core).cycle) → exec (.timerExpiry core claim) s = .next s)) ∧
  ((∀ s : State, s.noRepeat → s.me.role ≠ .none →
    (exec .done s = .next ((s.finishSlot s.curCore s.curSlot).goneTo (s.me.pc + 4))) ∧
    (notT s.me.role = true → (s.me.prio = none ∨ s.here.freeEntries = []) → exec .yield s = .next (s.goneTo (s.me.pc + 4))) ∧
    ∀ p e0 rest, notT s.me.role = true → s.me.prio = some p → s.here.freeEntries = e0 :: rest →
      let may := s.me.specOpen = false ∧ s.tasksOn s.curCore = true ∧ (s.here.deque p).length + s.here.yieldsTo p < 256 ∧ s.here.waitsFor p s.me = true ∧
        (s.me.role = .s ∨ s.me.role = .c)
      let e := (e0 :: rest).getD (Config.claimPick s.freeCtr % (rest.length + 1)) e0
      (¬may → exec .yield s = .next (s.goneTo (s.me.pc + 4))) ∧
      (may → exec .yield s = .next (((s.useFree.modHere (fun k => { (k.freeLocks s.curSlot) with
        saves := k.saves ++ [{ slot := s.curSlot, place := .cache e, claim := none, captured := none, yieldPrio := some p, proc := 0 }]
        ctxReserved := k.ctxReserved ++ [e] })).modMe (fun t => { t with underSave := true })).goneTo (s.me.pc + 4)))) ∧
  (∀ (s : State) (c n : Nat),
    let t := s.finishSlot c n
    (∀ b l, nget (t.core c).locks b = some l → l.slot ≠ n) ∧ (t.slot c n).specOpen = false ∧ (t.slot c n).hold = [] ∧
    ((∀ a, (s.core c).array = some a → a.slot ≠ n) → (t.slot c n).state = .empty ∧ (t.slot c n).x = [] ∧ (t.slot c n).v = [] ∧ (t.slot c n).m = [] ∧ (t.slot c n).c = []) ∧
    (∀ a, (s.core c).array = some a → a.slot = n → (t.slot c n).doneWait = true ∧ (t.slot c n).state = (s.slot c n).state)) ∧
  (∀ (s : State) (site : Nat), s.siteDone site = true → ∃ t, exec (.jobEnd site) s = .next t ∧ (t.site site).state = .loaded ∧ (t.site site).launch = none) ∧
  ∀ (s : State) (site : Nat), s.siteDone site = false → exec (.jobEnd site) s = .next s)

/-- A thief asks the next victim for its bottom record, naming the roles of its EMPTY workers; the victim gives it and keeps the rest, or answers FAIL;
the thief stores the record in its reserved inbox place, or doubles its back-off up to 4,096 cycles (R329, R330). Request and answer are of the steal
class. That the wait before the next request is the doubled back-off is the model's choice (log 22). -/
def Obligations.Stealing : Prop :=
  (∀ (s : State) (core v i : Nat), s.idle core = true → s.nextVictim core = some v → (s.core core).inboxFree = some i →
    ∃ (u : State) (mask : BitVec 8), exec (.idleSteal core) s =
        .next (u.inject .steal (.core core) (siteOf core) (s.site (siteOf core)).part (.name (s.coreName v)) (.stealReq mask)) ∧ u.flights = s.flights ∧
      (u.core core).stealOut = true ∧ (u.core core).stealIn = some i ∧ (u.core core).stealLast = some v ∧
      (u.core core).inboxReserved = (s.core core).inboxReserved ++ [i] ∧
      ∀ b, b < 8 → (mask.getLsbD b = true ↔ ∃ n, n < 16 ∧ ((s.core core).slot n).emptyWorker = true ∧ roleCode ((s.core core).slot n).role = b)) ∧
  (∀ (s : State) (fid : Nat) (f : Flight) (mask : BitVec 8), s.takes fid f → f.body = .stealReq mask →
    let u := s.dropFlight fid
    ((u.tasksOn f.destCore = false ∨ (u.core f.destCore).stealable mask = none) → exec (.stealRequest fid) s = .next (u.answerIn .steal f (.stealAns none))) ∧
    ∀ p, u.tasksOn f.destCore = true → (u.core f.destCore).stealable mask = some p →
      let ws := (u.core f.destCore).dequeWords p (((u.core f.destCore).deque p).length - 1)
      exec (.stealRequest fid) s = .next ((u.modCore f.destCore (fun k => { k with deques := nput k.deques p ((u.core f.destCore).deque p).dropLast })).answerIn .steal f
        (.stealAns (some { dwords := ws.set 0 (ws.getD 0 0 &&& ~~~0x4000000000000), entered := 0, stealable := false, resume := none })))) ∧
  (∀ (s : State) (fid c : Nat) (f : Flight) (r : Option TaskRec), s.arrivedFrom fid = some (.core c, .stealAns r) → s.takes fid f →
    let u := s.dropFlight fid
    (∀ w i, r = some w → (u.core c).stealIn = some i → exec (.stealAnswer fid) s =
      .next ((u.modCore c (fun k => { (k.putInbox i w.dwords) with stealOut := false, stealIn := none, stealBackoff := 64 })).stampRec c 1 0
        (recPrio (w.dwords.getD 0 0)) true (recTag (w.dwords.getD 1 0)).toNat (recOrigin (w.dwords.getD 1 0)).toNat)) ∧
    (r = none → ∃ t, exec (.stealAnswer fid) s = .next t ∧ (t.core c).stealOut = false ∧ (t.core c).stealIn = none ∧
      (t.core c).stealBackoff = min (2 * (u.core c).stealBackoff) 4096 ∧ (t.core c).stealBlocked = (u.core c).cycle + min (2 * (u.core c).stealBackoff) 4096)) ∧
  ∀ (s : State) (core : Nat), ((s.core core).stealBlocked ≤ (s.core core).cycle → exec (.stealBackoff core) s = .next (s.modCore core (fun k => { k with stealBlocked := 0 }))) ∧
    ((s.core core).cycle < (s.core core).stealBlocked → exec (.stealBackoff core) s = .next s)

/-! ## Bit streams and back-references (R334 to R344) -/

/-- BSOPEN opens a stream over bytes of local store, and traps with cause 5 and the address where they pass its end; BGET reads a field of n bits and
moves past it, BPEEK reads it, BSKIP moves, BALIGN moves to a byte; without an open stream each traps. Moving past n bits puts the position at the end
of the read, never beyond the limit nor backward, and sets over where the n bits pass the limit; it changes no other bit (R335 to R340). BLZC checks
its length, its source bytes and its destination bytes against the window, then byte by byte the engine's plots and, for a destination, the task
unit's, and traps on the first that fails with every byte unchanged (R341). Otherwise it copies byte by byte, each read seeing the bytes written
before it, so that the first dist bytes repeat; a distance of 0 changes no byte. Its first group of 64 is performed when it issues, each further one
16 cycles on (R342, R343). A zero length does nothing. -/
def Obligations.StreamsAndCopies : Prop :=
  (∀ (s : State) (nHi order : BitVec 1) (nLo rs2 rs1 rd : BitVec 5), s.noRepeat → s.me.role = .t →
    let b := s.me.bstream
    let n := (nHi ++ nLo).toNat
    let p := bsPos b
    let q := readEnd b n
    let a := s.xv rs1
    let len := (s.xv rs2).toNat
    (s.readable .x rs1.toNat → s.readable .x rs2.toNat →
      (a.toNat ≤ 0x100000 → len ≤ 0x100000 - a.toNat → exec (.bsopen order rs2 rs1) s =
        .next ((s.modMe (fun t => { t with bstream := wd (2 ^ 63 + order.toNat * 2 ^ 62 + 8 * (a.toNat + len) * 2 ^ 24 + 8 * a.toNat) })).goneTo (s.me.pc + 4)))) ∧
    (s.readable .x rs1.toNat → s.readable .x rs2.toNat → 0x100000 < a.toNat ∨ 0x100000 - a.toNat < len → exec (.bsopen order rs2 rs1) s = .next (s.trap 5 a)) ∧
    (let moved := (advanceStream n s).me.bstream
     wf moved 0 24 = max p (min (p + n) (bsLim b)) ∧ moved.getLsbD 61 = (b.getLsbD 61 || decide (bsLim b < p + n)) ∧
      ∀ i, i < 64 → ¬(i < 24) → i ≠ 61 → moved.getLsbD i = b.getLsbD i) ∧
    (b.getLsbD 63 = true → s.writable .x rd.toNat → (p < q → s.bytesPass false (span (p / 8) ((q - 1) / 8 + 1 - p / 8))) →
      exec (.bget nHi nLo rd) s = .next ((advanceStream n (s.setX rd (wd (streamField s.here.ls b p n)))).goneTo (s.me.pc + 4)) ∧
      exec (.bpeek nHi nLo rd) s = .next (s.wrote rd (wd (streamField s.here.ls b p n)))) ∧
    (b.getLsbD 63 = true → exec (.bskip nHi nLo) s = .next ((advanceStream n s).goneTo (s.me.pc + 4)) ∧
      exec .balign s = .next ((s.modMe (fun t => { t with bstream := setField b 0 24 ((p + 7) / 8 * 8) })).goneTo (s.me.pc + 4))) ∧
    (b.getLsbD 63 = false → (s.writable .x rd.toNat → exec (.bget nHi nLo rd) s = .next (s.trap 5 (BitVec.allOnes 64)) ∧
        exec (.bpeek nHi nLo rd) s = .next (s.trap 5 (BitVec.allOnes 64))) ∧
      exec (.bskip nHi nLo) s = .next (s.trap 5 (BitVec.allOnes 64)) ∧ exec .balign s = .next (s.trap 5 (BitVec.allOnes 64)))) ∧
  ((∀ (s : State) (rs2 rs1 rd : BitVec 5), s.noRepeat → s.me.role = .t → s.readable .x rs1.toNat → s.readable .x rs2.toNat → s.readable .x rd.toNat →
    let dst := (s.xv rd).toNat
    let dist := (s.xv rs1).toNat
    let n := (s.xv rs2).toNat
    let b : BlzcRec := { slot := s.curSlot, dst := dst, dist := s.xv rs1, len := n, next := 1, start := s.here.cycle }
    let engine (a : Nat) : Prop := s.here.engineOwned a = true
    let barred (a : Nat) : Prop := engine a ∨ s.reservedPlot s.curCore (plotOf a) = true
    let inside : Prop := dist ≤ dst ∧ dst - dist + n ≤ 0x100000 ∧ dst + n ≤ 0x100000
    let clear (i : Nat) : Prop := ∀ j, j < i → ¬engine (dst - dist + j) ∧ ¬barred (dst + j)
    (4096 < n → exec (.blzc rs2 rs1 rd) s = .next (s.trap 7 (s.xv rs2))) ∧
    (n = 0 → exec (.blzc rs2 rs1 rd) s = .next (s.goneTo (s.me.pc + 4))) ∧
    (0 < n → n ≤ 4096 →
      (dst < dist → exec (.blzc rs2 rs1 rd) s = .next (s.trap 5 (wd dst - wd dist))) ∧
      (dist ≤ dst → 0x100000 < dst - dist + n → exec (.blzc rs2 rs1 rd) s = .next (s.trap 5 (wd (max (dst - dist) 0x100000)))) ∧
      (dist ≤ dst → dst - dist + n ≤ 0x100000 → 0x100000 < dst + n → exec (.blzc rs2 rs1 rd) s = .next (s.trap 7 (wd (max dst 0x100000)))) ∧
      (inside → ∀ i, i < n → clear i →
        (engine (dst - dist + i) → exec (.blzc rs2 rs1 rd) s = .next (s.trap 27 (wd (dst - dist + i)))) ∧
        (¬engine (dst - dist + i) → barred (dst + i) → exec (.blzc rs2 rs1 rd) s = .next (s.trap 27 (wd (dst + i))))) ∧
      (inside → clear n → s.here.blzc = none → s.localHeld = false →
        (∀ i, i < n → ∀ a, (a = dst - dist + i ∨ a = dst + i) → ∀ l, nget s.here.locks (bankOf a) = some l → l.slot = s.curSlot) →
        exec (.blzc rs2 rs1 rd) s = .next ((((s.modHere (fun k => { k with ls := blzcGroupOf k.ls b 0, blzc := if 64 < n then some b else none })).modMe
          (fun t => { t with busyUntil := s.here.cycle + 16 * ((n + 63) / 64 - 1) })).goneTo (s.me.pc + 4)))))) ∧
  (∀ (s : State) (core : Nat) (b : BlzcRec), (s.core core).blzc = some b → b.start + 16 * b.next ≤ (s.core core).cycle →
    exec (.blzcGroup core) s = .next (s.modCore core (fun k => { k with ls := blzcGroupOf k.ls b b.next, blzc := if 64 * (b.next + 1) < b.len then some { b with next := b.next + 1 } else none }))) ∧
  (∀ (m : Memory) (b : BlzcRec) (k : Nat), Memory.wf m = true → b.dist.toNat ≤ b.dst →
    let d := b.dst + 64 * k
    let n := min 64 (b.len - 64 * k)
    (0 < b.dist.toNat → ∀ i, i < n → memGet (blzcGroupOf m b k) (d + i) = memGet m (d - b.dist.toNat + i % b.dist.toNat)) ∧
    (b.dist.toNat = 0 → ∀ a, memGet (blzcGroupOf m b k) a = memGet m a) ∧
    ∀ a, (a < d ∨ d + n ≤ a) → memGet (blzcGroupOf m b k) a = memGet m a) ∧
  ∀ (m : Memory) (src dst n : Nat), src < dst → Memory.wf m = true →
    (∀ i, i < n → memGet (copySerial m src dst n) (dst + i) = memGet m (src + i % (dst - src))) ∧
    ∀ a, (a < dst ∨ dst + n ≤ a) → memGet (copySerial m src dst n) a = memGet m a)

/-- A field of a stream: bit i of an LSB-first field, and of an MSB-first field counted from its top, is the stream's bit at p + i, zero at and past the
limit; bytes number their bits from 0 upward in the first and from 7 downward in the second (R334, R336). The end of a read never passes the limit,
and never falls behind the position (R339). -/
def Obligations.StreamFields : Prop :=
  ∀ (m : Memory) (b : Word) (p n i : Nat),
    let bit (k : Nat) : Bool := decide (k < bsLim b) && (memGet m (k / 8)).getLsbD (if b.getLsbD 62 then k % 8 else 7 - k % 8)
    streamField m b p n < 2 ^ n ∧
    (b.getLsbD 62 = true → i < n → (streamField m b p n).testBit i = bit (p + i)) ∧
    (b.getLsbD 62 = false → i < n → (streamField m b p n).testBit (n - 1 - i) = bit (p + i)) ∧
    bsPos b ≤ readEnd b n ∧ (bsPos b ≤ bsLim b → readEnd b n ≤ bsLim b)

/-! ## Handlers, notifications and contexts (R347 to R366, R374) -/

/-- The head notification enters the handler: the pc is saved and goes to the vector, the notification stands in its register, the slot runs; HDONE
returns to the saved pc, or leaves a slot EMPTY that had been EMPTY (R351, R361). -/
def Obligations.HandlerEntryAndReturn : Prop :=
  (∀ (s : State) (core : Nat) (n : Note) (rest : List Note), { s with curCore := core, curSlot := 14 }.handlerDue = true → (s.core core).notes = n :: rest →
    ∃ t, exec (.handlerEntry core) s = .next t ∧ (t.core core).hepc = (s.slot core 14).pc ∧ (t.core core).hnote = n.word ∧
      (t.core core).hbusy = true ∧ (t.core core).hin = true ∧ (t.core core).notes = rest ∧
      (t.core core).hfromempty = decide ((s.slot core 14).state = .empty) ∧
      (t.slot core 14).pc = (s.core core).hvec ∧ (t.slot core 14).state = .running ∧ ∀ i, (t.slot core 14).xr i = (s.slot core 14).xr i) ∧
  ∀ s : State, s.noRepeat → s.me.role = .k →
    (s.here.hbusy = false → exec .hdone s = .next (s.goneTo (s.me.pc + 4))) ∧
    (s.here.hbusy = true → s.here.hfromempty = false →
      exec .hdone s = .next ((s.modHere (fun k => { k with hbusy := false, hin := false })).goneTo s.here.hepc)) ∧
    (s.here.hbusy = true → s.here.hfromempty = true → exec .hdone s =
      .next (((s.modHere (fun k => { k with hbusy := false, hin := false })).becomeEmpty s.curCore s.curSlot).goneTo s.me.pc))

/-- A notification queues, kind 2 ahead of the others, up to 64; a 65th is answered BLOCKED-FULL and waits 1,024 cycles at its sender, which then sends it
again (R348). That a notice which cannot come back leaves it lost is the model's choice (log 35). TRESUME and TKILL send their command by name once
the release they make is over. At the target a FROZEN slot goes on, and a slot at work is ended, after its MDOT if it has one; every other slot stays
as it is. A HALTED slot of a core by name that is resumed has its earlier state again; that command is one flit of the control-link budget (R48), and
one that the budget refuses, whose name resolves to none or to no exposed core, or that cannot reach its site, is refused (R359, R360, R374, R390).
That a slot which waits for its MDOT takes neither command, and that a HALTED slot of a FENCED site stays as it is, are the model's choices (log 23). -/
def Obligations.NotificationsAndCommands : Prop :=
  ((∀ (s : State) (fid c : Nat) (f : Flight) (w : Word) (fwd : Bool), s.takes fid f → f.src = .core c → f.body = .note w fwd →
    let u := s.dropFlight fid
    ((u.core f.destCore).notes.length < 64 → exec (.notification fid) s =
      .next (u.modCore f.destCore (fun k => { k with notes := queueNote k.notes { word := w, queued := k.cycle } }))) ∧
    (64 ≤ (u.core f.destCore).notes.length →
      (∀ v : State, u.notice f = (v, true) → exec (.notification fid) s =
        .next { v with flights := v.flights ++ [{ f with st := .waiting ((v.core c).cycle + 1024), pos := f.srcSite, phase := false }] }) ∧
      (∀ v : State, u.notice f = (v, false) → exec (.notification fid) s =
        .next { v with flights := v.flights ++ [{ f with st := .lost, pos := f.srcSite, phase := false }] }))) ∧
  (∀ (s : State) (fid t c : Nat) (f : Flight), s.findFlight fid = some f → f.st = .waiting t → f.src = .core c →
    ((s.core c).cycle < t → exec (.noteRetry fid) s = .next s) ∧
    (t ≤ (s.core c).cycle → exec (.noteRetry fid) s = .next (((s.count c 28).reroute fid).settleHeld f.srcSite))) ∧
  ∀ (l : List Note) (n : Note), (wf n.word 60 4 ≠ 2 → queueNote l n = l ++ [n]) ∧
    (wf n.word 60 4 = 2 → ∃ i, queueNote l n = l.take i ++ n :: l.drop i ∧ (∀ x ∈ l.take i, wf x.word 60 4 = 2) ∧
      ∀ x, (l.drop i).head? = some x → wf x.word 60 4 ≠ 2)) ∧
  ((∀ (s : State) (rs1 : BitVec 5), s.noRepeat → s.me.role = .k → s.readable .x rs1.toNat → s.releaseFree →
    let a := s.xv rs1
    let n := wf a 0 4
    let u := s.bump.modMe (fun t => { t with missScope := none })
    let sent (b : Body) : State := (u.portSend (s.bump.releaseWaits 3) [] s.nextId b (.name (a.extractLsb' 4 16))).goneTo (s.me.pc + 4)
    exec (.tresume rs1) s = .next (sent (.tresume n s.nextId s.curSlot s.me.epoch (a.setWidth 20))) ∧
    exec (.tkill rs1) s = .next (sent (.tkill n s.nextId s.curSlot s.me.epoch (a.setWidth 20)))) ∧
  (∀ (s : State) (fid n i issuer epoch : Nat) (f : Flight) (x : BitVec 20), s.takes fid f →
    let u := s.dropFlight fid
    let c := f.destCore
    let t := u.slot c n
    (f.body = .tresume n i issuer epoch x →
      let free : Prop := t.state = .frozen ∧ t.underSave = false ∧ t.doneWait = false
      (free → exec (.tresumeApply fid) s = .next ((u.trace c n 3 0 t.pc 0).modSlot c n
        (fun t => { t with state := if t.park.isSome then .parked else .running, parkCount := 0, skipBreak := t.brk != 0 }))) ∧
      (¬free → exec (.tresumeApply fid) s = .next u)) ∧
    (f.body = .tkill n i issuer epoch x →
      let free : Prop := (t.state = .running ∨ t.state = .parked ∨ t.state = .frozen) ∧ t.underSave = false ∧ t.doneWait = false
      let v := (u.trace c n 3 0 t.pc 1).endResv c n
      (free → (∀ a ∈ (v.core c).array, a.slot ≠ n) → exec (.tkillApply fid) s = .next (v.becomeEmpty c n)) ∧
      (free → (∃ a ∈ (v.core c).array, a.slot = n) → exec (.tkillApply fid) s = .next (v.modSlot c n (fun t => { t with doneWait := true }))) ∧
      (¬free → exec (.tkillApply fid) s = .next u))) ∧
  ∀ (s : State) (proc : Nat) (part : BitVec 4) (core : BitVec 16) (slot : BitVec 4),
    let out := exec (.slotResume ⟨proc, part, core⟩ slot) s
    let name := core.extractLsb' 4 12
    proc < 4 →
    (∀ v : State, s.chargeLink proc part.toNat name.toNat 1 = (v, false) → out = .next (v.report (.refused proc 0x24))) ∧
    ∀ v : State, s.chargeLink proc part.toNat name.toNat 1 = (v, true) →
      (v.siteNamed part.toNat name = none → out = .next (v.report (.refused proc 0x20))) ∧
      ∀ n, v.siteNamed part.toNat name = some n →
        let c := 16 * n + (core.setWidth 4).toNat
        (∀ u : State, v.sysTrip proc n 1 = (u, false) → out = .next (u.report (.refused proc 0x21))) ∧
        ∀ u : State, v.sysTrip proc n 1 = (u, true) →
          (u.exposed c = false → out = .next (u.sysRefuse proc n 0x20)) ∧
          (u.exposed c = true → (u.slot c slot.toNat).state = .halted → (u.site n).state ≠ .fenced →
            out = .next (u.modSlot c slot.toNat (fun t => { t with state := t.before }))) ∧
          (u.exposed c = true → (u.slot c slot.toNat).state ≠ .halted ∨ (u.site n).state = .fenced → out = .next u))

/-- SWAPCTX and LOADCTX: the status of a slot or of a context-cache entry that does not serve, a save that captures later, a restore that is applied
later; each future fills with the image's bytes (R364 to R366). An image in memory is checked as an access of its whole length, with the causes of a
store or of a load (R364, R365). How long the restore takes is free (log 3). That a slot which waits for its MDOT answers EMPTY, that a reserved one
answers BUSY, that the locks are freed at issue, and that a LOADCTX waits at its turn while its image's home is gated are the model's choices (log 20,
log 21, log 35). The steps of a save and a restore: a drained slot is captured and EMPTY; the written image fills the future with its length, or
poisons it with the code that the write of its pieces meets, and the context is lost; a restore that is ready puts the context into its slot, or
poisons its future with the code that the read of its pieces meets (R96, R364, R365). That an image of which a piece cannot be written is not written
at all, and that a restore which cannot be read poisons with class 1 and frees its slot, are the model's choices (log 20). -/
def Obligations.Contexts : Prop :=
  (∀ (s : State) (rs2 rs1 rd : BitVec 5), s.noRepeat → s.me.role = .k → s.readable .x rs1.toNat → s.readable .x rs2.toNat → s.writable .x rd.toNat →
    let n := (s.xv rs1).toNat
    let d := s.xv rs2
    let a := d.toNat
    let e := wf d 0 5
    let t := s.here.slot n
    let len := roleImageLen t.role
    let taken := (nget s.here.ctx e).isSome = true ∨ e ∈ s.here.ctxReserved
    let status (i : Instr) (st : Nat) : Prop := exec i s = .next (s.wrote rd (wd (st * 2 ^ 56)))
    let failed (i : Instr) (v : State) (cause : Nat) (re : RangeEntry) (r : Nat) : Prop :=
      exec i s = .next ((v.modMe (fun t => { t with rfinfo := rfinfoOf r (wf s.here.rdir 52 12) re.index })).trap cause d)
    let saving (v : State) (p : CtxPlace) : Prop := ∀ (u : State) (c : Option Nat), v.pend .x rd.toNat 1 false = some (u, c) → exec (.swapctx rs2 rs1 rd) s =
      .next (((u.modHere (fun k => { (k.freeLocks n) with
        saves := k.saves ++ [{ slot := n, place := p, claim := c, captured := none, yieldPrio := none, proc := k.placeProc p }],
        ctxReserved := match p with | .cache e => k.ctxReserved ++ [e] | _ => k.ctxReserved })).modSlot s.curCore n
          (fun t => { t with underSave := true })).goneTo (s.me.pc + 4))
    let loading (v : State) (p : CtxPlace) : Prop := v.placeGated p len = false → ∀ (u : State) (c : Option Nat), v.pend .x rd.toNat 1 false = some (u, c) → exec (.loadctx rs2 rs1 rd) s =
      .next ((((u.useFree.modHere (fun k => { k with
        restores := k.restores ++ [{ slot := n, place := p, claim := c, due := u.here.cycle + 1 + Config.restoreCycles u.freeCtr, proc := k.placeProc p }] })).modSlot s.curCore n
          (fun t => { t with reserved := true })).startRestore s.curCore p).goneTo (s.me.pc + 4))
    let loadImage (v : State) (p : CtxPlace) : Prop :=
      let h := wd (v.placeRead s.curCore p 0 8)
      let answers (st : Nat) : Prop := exec (.loadctx rs2 rs1 rd) s = .next ((v.setX rd (wd (st * 2 ^ 56))).goneTo (s.me.pc + 4))
      let image := v.here.images.find? (fun i => i.place.key == p.key && !i.written)
      (image = none → (wf h 0 8 ≠ 1 → answers 6) ∧ (wf h 0 8 = 1 → wf h 8 3 = 7 ∨ roleOf (wf h 8 3) ≠ t.role → answers 3) ∧
        (wf h 0 8 = 1 → wf h 8 3 ≠ 7 → roleOf (wf h 8 3) = t.role → loading v p)) ∧
      ∀ i, image = some i → (i.saved.role ≠ t.role → answers 3) ∧ (i.saved.role = t.role → loading v p)
    let ready (save : Bool) : Prop := n ≤ 15 ∧ n ≠ s.curSlot ∧
      if save then t.state ≠ .empty ∧ t.doneWait = false ∧ t.state ≠ .halted ∧ t.underSave = false else t.state = .empty ∧ t.underSave = false ∧ t.reserved = false
    let free := (span a len).find? (fun b => s.here.engineOwned b || s.reservedPlot s.curCore (plotOf b))
    (15 < n ∨ n = s.curSlot → status (.swapctx rs2 rs1 rd) 2 ∧ status (.loadctx rs2 rs1 rd) 2) ∧
    (n ≤ 15 → n ≠ s.curSlot →
      (t.state = .empty ∨ t.doneWait = true → status (.swapctx rs2 rs1 rd) 1) ∧
      (t.state ≠ .empty → t.doneWait = false → t.state = .halted ∨ t.underSave = true → status (.swapctx rs2 rs1 rd) 4) ∧
      (t.state ≠ .empty ∨ t.underSave = true ∨ t.reserved = true → status (.loadctx rs2 rs1 rd) 4)) ∧
    (d.getLsbD 63 = true →
      (ready true → (taken → status (.swapctx rs2 rs1 rd) 4) ∧
        (¬taken → (t.role = .v ∨ t.role = .m → status (.swapctx rs2 rs1 rd) 3) ∧ (t.role ≠ .v → t.role ≠ .m → saving s (.cache e)))) ∧
      (ready false → (nget s.here.ctx e = none → status (.loadctx rs2 rs1 rd) 5) ∧
        ∀ v, nget s.here.ctx e = some v → (t.role = .v ∨ t.role = .m ∨ v.role ≠ t.role → status (.loadctx rs2 rs1 rd) 3) ∧
          (t.role ≠ .v → t.role ≠ .m → v.role = t.role → loading s (.cache e)))) ∧
    (d.getLsbD 63 = false →
      let bad : Prop := 0xFFFF00000000 ≤ a ∨ (a < 2 ^ 20 ∧ 2 ^ 20 < a + len)
      (a % 64 ≠ 0 → (ready true → exec (.swapctx rs2 rs1 rd) s = .next (s.trap 6 d)) ∧ (ready false → exec (.loadctx rs2 rs1 rd) s = .next (s.trap 4 d))) ∧
      (a % 64 = 0 → bad → (ready true → exec (.swapctx rs2 rs1 rd) s = .next (s.trap 7 d)) ∧ (ready false → exec (.loadctx rs2 rs1 rd) s = .next (s.trap 5 d))) ∧
      (a % 64 = 0 → ¬bad → a < 2 ^ 20 →
        (∀ b, free = some b → (ready true → exec (.swapctx rs2 rs1 rd) s = .next (s.trap 27 (wd b))) ∧
          (ready false → exec (.loadctx rs2 rs1 rd) s = .next (s.trap 27 (wd b)))) ∧
        (free = none → (ready true → saving s (.ls a)) ∧ (ready false → loadImage s (.ls a)))) ∧
      (a % 64 = 0 → ¬bad → 2 ^ 20 ≤ a → s.me.walkOut.filter (fun o => o.va == d) = none → ∀ re, s.here.rangeFor d = some re →
        let v := s.modHere (fun k => k.useRange re)
        let p : CtxPlace := .phys (rangePA re.slot a) a
        let past : Prop := re.slot.limit.toNat < a + len ∨ re.slot.striped = true
        (ready true → (∀ r, checkEntry re.slot a .w = .fault r → failed (.swapctx rs2 rs1 rd) s 15 re r) ∧
          (checkEntry re.slot a .w = .ok → (past → failed (.swapctx rs2 rs1 rd) v 15 re 2) ∧ (¬past → saving v p))) ∧
        (ready false → (∀ r, checkEntry re.slot a .r = .fault r → failed (.loadctx rs2 rs1 rd) s 13 re r) ∧
          (checkEntry re.slot a .r = .ok → (past → failed (.loadctx rs2 rs1 rd) v 13 re 2) ∧
            (¬past → v.placeGated p len = true → exec (.loadctx rs2 rs1 rd) s = .next v.bubble) ∧
            (¬past → v.placeGated p len = false → ∀ w : State, v.fetchTrip s.curCore p 64 = (w, none) → loadImage w p)))))) ∧
  ((∀ (s : State) (core : Nat) (r : SaveRec), (s.core core).saves.find? (fun r => r.captured.isNone && (s.core core).drained r.slot && (s.site (siteOf core)).state != .fenced) = some r →
    ((s.capture core r).slot core r.slot).state = .empty ∧
    (r.yieldPrio = none → exec (.saveCapture core) s = .next (s.capture core r)) ∧
    (r.yieldPrio ≠ none → exec (.saveCapture core) s =
      .next ((s.capture core r).modCore core (fun k => { k with saves := k.saves.filter (fun x => x.slot != r.slot || x.captured.isNone) })))) ∧
  (∀ (s : State) (core : Nat) (r : SaveRec) (v : Saved), (s.core core).saves.find? (fun r => r.captured.isSome) = some r → r.captured = some v →
    let u := s.modCore core (fun k => { k with saves := k.saves.erase r })
    let len := roleImageLen v.role
    let key := r.place.key
    (∀ e, r.place = .cache e → exec (.imageWriteDone core) s = .next (u.deliverAt core r.claim (u.core core).cycle (fillW (wd len)))) ∧
    ((∀ e, r.place ≠ .cache e) →
      (∀ (q : State) (i : ImageRec), u.imageTrips core r.place len true = (q, none, true) → (q.core core).images.find? (fun i => i.place.key == key) = some i →
        let w := (i.saved.image.foldl (fun s w => s.placeWrite core r.place w.1 w.2.1 w.2.2) q).modCore core
          (fun k => { k with images := k.images.map (fun i => if i.place.key == key then { i with written := true } else i) })
        exec (.imageWriteDone core) s = .next (w.deliverAt core r.claim (w.core core).cycle (fillW (wd len)))) ∧
      ∀ (q : State) (code : BitVec 8) (pa : Nat), u.imageTrips core r.place len true = (q, some (code, pa), false) → code ≠ 0x25 → exec (.imageWriteDone core) s =
        .next ((q.poisonNow core r.claim (descriptor 1 code.toNat pa)).modCore core (fun k => { (k.dropPlace r.place) with
          images := k.images.filter (fun i => i.place.key != key), savedTags := k.savedTags.filter (fun t => t.2.target != r.place.target) })))) ∧
  ∀ (s : State) (core : Nat),
    ((s.core core).restores.find? (s.restoreReady core) = none → exec (.restoreApply core) s = .next s) ∧
    ∀ (r : RestoreRec), (s.core core).restores.find? (s.restoreReady core) = some r →
      let u := s.modCore core (fun k => { k with restores := k.restores.erase r })
      let len := roleImageLen (u.slot core r.slot).role
      (∀ (q : State) (all : Bool), u.imageTrips core r.place len false = (q, none, all) → exec (.restoreApply core) s = .next (
        let v := q.restore core r.slot r.place
        v.fillNext core r.claim (wd (roleImageLen (v.slot core r.slot).role)))) ∧
      ∀ (q : State) (code : BitVec 8) (pa : Nat) (all : Bool), u.imageTrips core r.place len false = (q, some (code, pa), all) → code ≠ 0x25 → exec (.restoreApply core) s =
        .next ((q.poisonNow core r.claim (descriptor 1 code.toNat pa)).modSlot core r.slot (fun t => { t with reserved := false })))

/-! ## Routers and links (R32 to R49, R443) -/

/-- A moving packet with nothing of its lane ahead goes one hop over a good link, its flits counted and the next router taught, is BLOCKED at a link that
is not good, and at its goal arrives in the state that R443 gives it; a router that does not forward yet holds it, and where the receivers of a
multicast segment part it is replicated (R32, R35, R36, R40, R54, R288, R371). The model's choices: that a packet waits behind earlier ones of its
destination (log 35), and at the port where 32 are held for unknown names (log 13). What ends a packet: no HERE for 200,000 cycles, no response for
1,000,000, a BLOCKED that may not be resent or was, a MOVED through a pinned entry, a failure of R43; a first BLOCKED turns the packet to the other
mesh, and a MOVED invalidates its entry and asks for the name again. A notice that cannot ride back leaves the packet lost (R39 to R44). The model's
choices: the one resending of a packet addressed by coordinates (log 14), the way back of a notice in one step, the packet lost when it cannot come
back, its NO_RESPONSE, the NO_RESPONSE of an overdue request, and a blocked packet's wait for earlier ones (log 35); the deadline of a unit that
counts cycles of its own, which then shows that cycle (log 40); the flood that a MOVED opens afresh, with its counts from the cycle in which the name
is asked for again, which R38 and R41 do not say (log 34). Floods: a probe reaches the sites that good links of the rectangle lead to, teaches them
the sender and finds the bearers of the name; the first HERE comes back by the other mesh and releases what was held, and a second with other
coordinates only counts; the flood is repeated at its times (R38, R39). The model's choices: a probe and a HERE travel in one step, and a HERE whose
way back is blocked twice is lost (log 13). -/
def Obligations.Packets : Prop :=
  ((∀ (s : State) (fid : Nat) (f : Flight), s.findFlight fid = some f → f.st = .moving →
    let g : Flight := if f.via = some f.pos ∧ f.phase = false then { f with phase := true, yx := true } else f
    let goal := match f.via, g.phase with | some w, false => w | _, _ => f.dsite
    let d := hopDir f.pos goal g.yx
    let alone : Prop := ∀ ch cores sender bar bs last, f.body = .replica ch cores sender bar bs last → (replicaBranches f.pos f.yx cores).length ≤ 1
    (s.overtakes f = true → exec (.routerForward fid) s = .next s) ∧
    (s.overtakes f = false →
      (∀ ch cores sender bar bs last, f.body = .replica ch cores sender bar bs last → 1 < (replicaBranches f.pos f.yx cores).length →
        exec (.routerForward fid) s = .next (s.replicate f (replicaBranches f.pos f.yx cores))) ∧
      (alone → s.forwards f.pos = false → exec (.routerForward fid) s = .next s) ∧
      (alone → s.forwards f.pos = true →
        (f.pos = goal →
          let st := arrivalState s g
          let at' := (s.core (match f.body with | .stealAns _ => f.src.clock | _ => g.destCore)).cycle
          let v := (s.setFlight { g with st := st, arr := s.nextId, arrAt := at' }).bump
          exec (.routerForward fid) s = .next (if st = .moved then v.countRouter f.dsite 4 else v)) ∧
        ∀ n, f.pos ≠ goal → neighbour f.pos d = some n →
          (s.linkGood f.pos d g.yx = true → exec (.routerForward fid) s =
            .next (((s.setFlight { g with pos := n }).countFlits f.pos g.yx f.body.flits).learn n ⟨f.srcName, f.srcSite, g.yx, if g.phase then f.via else none⟩)) ∧
          (s.linkGood f.pos d g.yx = false → exec (.routerForward fid) s = .next ((s.setFlight { g with st := .blocked }).countRouter f.pos 3))))) ∧
  ∀ (s : State) (fid : Nat) (f : Flight), s.findFlight fid = some f → f.st = .behind ∨ f.st = .atPort →
    let r := routePacket s f.cls f.src f.srcSite f.part.toNat f.dest
    let r : Routed := match f.dest with | .coords _ => { r with yx := f.yx } | _ => r
    let waits : Prop := s.mustWait f r = true ∨ (f.st = .atPort ∧ s.nameUnknown f.srcSite f.dest = true ∧ 32 ≤ s.holdCount f.srcSite f.fid)
    (waits → exec (.routerForward fid) s = .next s) ∧ (¬waits → exec (.routerForward fid) s = .next (s.reroute fid))) ∧
  (∀ (s : State) (fid : Nat) (f : Flight), s.findFlight fid = some f →
    let now := s.nowOf f.src
    let at_ := if f.src.ownClock then max now (f.left + 1000000) else now
    let late := s.clockTo f.src at_
    let replica := ∃ a b c d e g, f.body = .replica a b c d e g
    (at_ < f.left + 1000000 → exec (.noResponse fid) s = .next s) ∧
    (∀ n, f.src = .chip n → (late.chip n).cycles = max (s.chip n).cycles at_) ∧
    (f.left + 1000000 ≤ at_ →
      (f.st = .lost → exec (.noResponse fid) s = .next (late.failFlight f 0x25)) ∧
      (f.st ≠ .lost → f.dead = false → f.inCore = false → f.awaits = true → f.st.isHeld = false →
        ∀ c, f.src = .core c → exec (.noResponse fid) s = .next ((s.setFlight { f with dead := true }).failBody f c 0x25))) ∧
    (∀ (u : State) (back : Bool), s.notice f = (u, back) →
      let lost := u.setFlight { f with st := .lost }
      (∀ code, f.st = .failed code → exec (.errorResponse fid) s = .next (if back then u.failFlight f code else lost)) ∧
      (f.st = .blocked →
        (f.cls ≠ .response ∧ s.earlierFlies f = true → exec (.blocked fid) s = .next s) ∧
        (f.cls = .response ∨ s.earlierFlies f = false →
          let resent (v : State) : State :=
            let w := v.setFlight { f with retry := true, yx := !f.yx, pos := f.srcSite, phase := false, st := if v.heldAhead f then .behind else .moving }
            if v.heldAhead f then w else w.learn f.srcSite ⟨f.srcName, f.srcSite, !f.yx, none⟩
          (back = false → exec (.blocked fid) s = .next lost) ∧
          (back = true →
            (f.via.isSome = true ∨ replica → exec (.blocked fid) s = .next (u.failFlight f 0x21)) ∧
            (f.via = none → ¬replica →
              (u.entryOf f = none → (f.retry = true → exec (.blocked fid) s = .next (u.failFlight f 0x21)) ∧ (f.retry = false → exec (.blocked fid) s = .next (resent u))) ∧
              ∀ sel pinned, u.entryOf f = some (sel, pinned) →
                (pinned = true ∨ 2 ≤ sel → exec (.blocked fid) s = .next (u.failFlight f 0x21)) ∧
                (pinned = false → sel < 2 →
                  (f.retry = true → exec (.blocked fid) s = .next ((u.putSelect f 3).failFlight f 0x21)) ∧
                  (f.retry = false → exec (.blocked fid) s = .next (resent (u.putSelect f (if f.yx then 0 else 1))))))))) ∧
      ∀ n : BitVec 16, f.dest = .name n → f.st = .moved →
        let i := (n.extractLsb' 4 12).toNat
        let e := (u.site f.srcSite).route i
        (back = false → exec (.moved fid) s = .next lost) ∧
        (back = true →
          (rtPinned e = true → exec (.moved fid) s = .next ((u.countRouter f.srcSite 7).failFlight f 0x22)) ∧
          (rtPinned e = false →
            let v := u.modSite f.srcSite (fun t => { t with routes := nput t.routes i (e &&& ~~~(1#32 <<< 25)) })
            let v := if v.holdFull f then v else v.openFlood f.srcSite f.src.clock (n.extractLsb' 4 12) (v.nowOf f.src)
            exec (.moved fid) s = .next ((v.setFlight { f with st := .behind, pos := f.srcSite, via := none, phase := false }).reroute fid)))) ∧
    ∀ n : BitVec 16, f.dest = .name n → s.noHere f = true →
      let name := n.extractLsb' 4 12
      (now < f.issued + 200000 → exec (.unknownName fid) s = .next s) ∧
      (f.issued + 200000 ≤ now →
        ((s.floodOf f.srcSite name).any (fun x => !x.done && !x.here.isEmpty) = true → exec (.unknownName fid) s = exec (.hereReply f.srcSite name) s) ∧
        ((s.floodOf f.srcSite name).any (fun x => !x.done && !x.here.isEmpty) = false → exec (.unknownName fid) s =
          .next ((((s.countRouter f.srcSite 9).failFlight f 0x20).endFlood f.srcSite name now).settleHeld f.srcSite)))) ∧
  (∀ (s : State) (site : Nat) (name : BitVec 12) (f : Flood), s.floodOf site name = some f →
    let yx := f.sent % 2 == 0
    let reached := (List.range 528).filter (fun n => n == site || (inRect (s.partRect (s.site site).part.toNat) n && s.pathGood site n yx 64))
    let owners := (reached.filter (fun n => s.bears n name)).map (fun n => (n, yx))
    let visit (v : State) (n : Nat) : State :=
      let v := v.learn n ⟨s.siteSource site, site, yx, none⟩
      match (if n == site then none else neighbour n (hopDir n site (!yx))) with | some m => v.countFlits m yx 1 | none => v
    (f.waiting = true → exec (.whereProbe site name) s =
      .next ((owners.foldl (fun s p => s.countRouter p.1 6) (reached.foldl visit s)).modFlood site name (fun x => { x with waiting := false, here := x.here ++ owners }))) ∧
    (f.waiting = false → exec (.whereProbe site name) s = .next s) ∧
    (f.here = [] → exec (.hereReply site name) s = .next s) ∧
    (∀ o w rest, f.here = (o, w) :: rest →
      let u := s.modFlood site name (fun x => { x with here := rest })
      let e := (s.site site).route name.toNat
      let other : Prop := f.done = true ∧ rtValid e = true ∧ rtSite e ≠ o
      (∀ v : State, u.rideBack (some (s.site o).part) o site (s.ownerName o name) w none 1 = (v, false) → exec (.hereReply site name) s = .next v) ∧
      ∀ v : State, u.rideBack (some (s.site o).part) o site (s.ownerName o name) w none 1 = (v, true) →
        (other → exec (.hereReply site name) s = .next ((v.modSite site (fun t => { t with routes := nput t.routes name.toNat e })).countRouter site 8)) ∧
        (¬other → exec (.hereReply site name) s =
          .next (((v.modFlood site name (fun x => { x with done := true })).releaseHeld site (.name (name ++ 0#4))).settleHeld site))) ∧
    (f.done = false ∧ f.sent < 4 ∧ f.since + 50000 * f.sent ≤ (s.core f.core).cycle → exec (.whereReflood site name) s =
      .next ((s.countRouter site 5).modFlood site name (fun x => { x with sent := x.sent + 1, waiting := true }))) ∧
    (¬(f.done = false ∧ f.sent < 4 ∧ f.since + 50000 * f.sent ≤ (s.core f.core).cycle) → exec (.whereReflood site name) s = .next s))

/-- A dimension-ordered route gets there: each hop to a neighbour brings a packet one step closer, so that a packet of the grid is at its goal after as
many hops as its distance (R9, R35). -/
def Obligations.HopsGetCloser : Prop :=
  ∀ (n goal : Nat) (yx : Bool), n < 528 → goal < 528 → n ≠ goal →
    let dist (a b : Nat) : Nat := (if colOf a ≤ colOf b then colOf b - colOf a else colOf a - colOf b) + (if rowOf a ≤ rowOf b then rowOf b - rowOf a else rowOf a - rowOf b)
    ∃ m, neighbour n (hopDir n goal yx) = some m ∧ m < 528 ∧ dist m goal + 1 = dist n goal

/-- A link that times out goes down at both ends with its health bits and stays down, whatever a later greeting finds; the packet it carried is lost and
what waits for it is BLOCKED (R44). A greeting of two live neighbours records each other's results and links (R45). A budget period of a unit's own
clock starts its counts afresh, once; a retired site's home bit is cleared where a chiplet's packet reaches the router; a power loss leaves the
retirement log, the count of bring-ups, the dead rectangles and the keys, and all else as reset (R34, R48, R58). That BUDGET_PERIOD brings a network
chiplet's cycles to its next period is the model's choice (log 40). -/
def Obligations.LinksAndPeriods : Prop :=
  ((∀ (s : State) (site dir : Nat) (yx : Bool) (cut : Option Nat), site < 528 → dir < 4 →
    (s.linkGood site dir yx = false → exec (.linkTimeout site dir ⟨yx, cut⟩) s = .next s) ∧
    (s.linkGood site dir yx = true →
      ∃ t, exec (.linkTimeout site dir ⟨yx, cut⟩) s = .next t ∧ t.linkGood site dir yx = false ∧ (∀ m, neighbour site dir = some m → t.linkGood m (opposite dir) yx = false) ∧
        t.flights = s.flights.map (fun f => if f.waitsFor site dir yx then { f with st := if some f.fid == cut then .lost else .blocked } else f))) ∧
  (∀ (s : State) (site dir m : Nat) (xyOk yxOk : Bool), site < 528 → neighbour site dir = some m → s.siteLive site = true → s.siteLive m = true →
    ((s.site site).state = .clocked ∨ (s.site m).state = .clocked) → exec (.greeting site dir xyOk yxOk) s =
      .next ((s.setSite site ((s.site site).greeted dir (s.site m) xyOk yxOk)).setSite m ((s.site m).greeted (opposite dir) (s.site site) xyOk yxOk))) ∧
  ∀ (t o : Site) (dir : Nat) (xy yx : Bool), dir < 4 →
    let u := t.greeted dir o xy yx
    let up (i : Nat) (ok : Bool) : Bool := ok && (nget t.links i).getD true
    nget u.links (2 * dir) = some (up (2 * dir) xy) ∧ nget u.links (2 * dir + 1) = some (up (2 * dir + 1) yx) ∧
    u.health.getLsbD (4 * dir) = up (2 * dir) xy ∧ u.health.getLsbD (4 * dir + 1) = up (2 * dir + 1) yx ∧
    u.health.getLsbD (4 * dir + 2) = o.computeGood ∧ u.health.getLsbD (4 * dir + 3) = o.dramGood) ∧
  ((∀ (s : State) (unit : Nat),
    (unit < 528 → let p := s.siteClock unit / 65536
      exec (.budgetPeriod false unit) s = .next (s.modSite unit (fun t => if t.period = p then t else { t with used := [], period := p }))) ∧
    (unit < 24 → exec (.budgetPeriod true unit) s = .next (s.modChip unit (fun k => { k with used := [], cycles := (k.cycles / 65536 + 1) * 65536 }))) ∧
    (unit < 4 → exec (.budgetPeriod true (24 + unit)) s = .next (s.modProc unit (fun p =>
      if p.period = p.cycles.toNat / 65536 then p else { p with used := [], period := p.cycles.toNat / 65536 })))) ∧
  (∀ (s u : State) (proc router retired : Nat) (ok : Bool), (s.site retired).state = .retired → (nget (s.site router).phys retired).isSome = true →
    s.sysTrip proc router 1 = (u, ok) → exec (.homeBitClear ⟨proc, router⟩ retired) s =
      .next (if ok then u.modSite router (fun t => { t with phys := nput t.phys retired (t.physSel retired &&& 0xFFF) }) else u)) ∧
  ∀ s : State, ∃ t, exec .powerLoss s = .next t ∧ t.retireLog = s.retireLog ∧ t.boots = s.boots ∧ t.keys = s.keys ∧ t.dram = State.reset.dram ∧
    t.cores = State.reset.cores ∧ t.sites = State.reset.sites ∧ t.flights = State.reset.flights ∧ t.chips = State.reset.chips ∧
    t.partRects = State.reset.partRects ∧ t.up = false ∧ ∀ d, (nget s.procs d).isSome = true → t.proc d = { Proc.reset with rects := (s.proc d).rects })

/-! ## Bring-up and the life of a site (R50 to R58, R390, R394) -/

/-- The states of a site: DARK to CLOCKED at the first source, CLOCKED to GREETED with its edge pins and home bits, a failed self-test to RETIRED, an
error of the base die to FENCED; by command of the control node a site in service to FENCED, and FENCED to CLOCKED at reset values or to RETIRED (R3,
R34, R50, R53, R54, R390). A command is one flit of its partition's control-link budget (R48); one that the budget refuses, whose name resolves to
none, or whose packet cannot reach the site, is refused. The model's choices: the pins and home bits stand from the entry into GREETED on (log 37),
the cause codes 1 of a failed self-test and 7 of the retire command (log 39), and the coordinates by which a site without a name is named (log 66). A
CONFIG_RECORD that reaches its site waits for the commit, and is refused after a commit or for a name of R50; the commit gives the site its name,
partition, directory, remap and pins (R50, R55). That a further record before the commit takes the place of the staged one is the model's choice (log
38). A lost clock source gates the site and moves it to the first other source that is no deeper, the depths of the sites behind it following, or
fences it, and then the sites that took their clock from it lose theirs, as those of a site that is retired do (R53, R54, R56); the end of the relock
opens the gate, and the trace records that waited for the DRAM of a gated site are written, or dropped and counted (R56, R375). That a lost edge
reference stays lost until power-on (log 26), and that no depth exceeds 31 (log 66), are the model's choices. -/
def Obligations.SiteLife : Prop :=
  ((∀ (s : State) (site : Nat) (good comp : Bool),
    let st := (s.site site).state
    let inService : Prop := st = .clocked ∨ st = .greeted ∨ st = .named ∨ st = .loaded ∨ st = .running
    (st = .dark → site < 528 → s.up = true →
      (s.clockSource site 7 31 = none → exec (.clockLock site good comp) s = .next s) ∧
      ∀ src depth, s.clockSource site 7 31 = some (src, depth) → exec (.clockLock site good comp) s =
        .next ((s.clearCores site).modSite site (fun t => { Site.reset with
          state := .clocked, clksrc := src, depth := depth, dramGood := good, computeGood := comp, edgeClock := t.edgeClock, links := t.links.filter (fun p => !p.2) }))) ∧
    (st = .clocked →
      let t := s.enterGreeted site
      let all : Prop := ∀ d, d < 4 → neighbour site d = none ∨ (nget (s.site site).greets d).isSome = true
      (all → exec (.siteGreeted site) s = .next t) ∧ (¬all → exec (.siteGreeted site) s = .next s) ∧
      (65536 ≤ s.siteClock site → exec (.greetTimeout site) s = .next t) ∧ (s.siteClock site < 65536 → exec (.greetTimeout site) s = .next s) ∧
      (t.site site).state = .greeted ∧ (∀ p ∈ edgePins, (t.site site).route p.1 = p.2) ∧ (∀ n, n < 528 → t.homeLive n = true → physHome ((t.site site).physSel n) = true) ∧
      (t.homeLive site = true → ∀ m, t.forwards m = true → physHome ((t.site m).physSel site) = true) ∧
      exec (.selfTestFail site) s = .next (s.retireSite site 1)) ∧
    (inService → exec (.baseDieError site) s = .next (s.fenceSite site)) ∧ (¬inService → exec (.baseDieError site) s = .next s)) ∧
  ∀ (s : State) (tg : SiteTarget) (good comp : Bool), tg.proc < 4 →
    let proc := tg.proc
    let commands : List Instr := [.siteFence tg, .siteReset ⟨tg, good, comp⟩, .siteRetire tg]
    let refused (v : State) (code : BitVec 8) : Prop := ∀ i ∈ commands, exec i s = .next (v.report (.refused proc code))
    (∀ v : State, s.chargeLink proc tg.part.toNat (match tg.at_ with | none => tg.name.toNat | some n => n * 2 ^ 33) 1 = (v, false) → refused v 0x24) ∧
    ∀ v : State, s.chargeLink proc tg.part.toNat (match tg.at_ with | none => tg.name.toNat | some n => n * 2 ^ 33) 1 = (v, true) →
      let found : Option Nat := match tg.at_ with
        | none => v.siteNamed tg.part.toNat tg.name
        | some n => if n < 528 ∧ (v.site n).named = false then some n else none
      (found = none → refused v 0x20) ∧
      ∀ n, found = some n →
      (∀ u : State, v.sysTrip proc n 1 = (u, false) → refused u 0x21) ∧
      ∀ u : State, v.sysTrip proc n 1 = (u, true) →
        let st := (u.site n).state
        let inService : Prop := st = .clocked ∨ st = .greeted ∨ st = .named ∨ st = .loaded ∨ st = .running
        (inService → exec (.siteFence tg) s = .next (u.fenceSite n)) ∧ (¬inService → exec (.siteFence tg) s = .next u) ∧
        (st = .fenced → exec (.siteRetire tg) s = .next (u.retireSite n 7)) ∧ (st ≠ .fenced → exec (.siteRetire tg) s = .next u) ∧
        (st ≠ .fenced ∨ u.clockSource n 7 (u.site n).depth.toNat = none → exec (.siteReset ⟨tg, good, comp⟩) s = .next u) ∧
        ∀ src depth, st = .fenced → u.clockSource n 7 (u.site n).depth.toNat = some (src, depth) →
          let v := if good then u else u.putHomes n false
          (good = false → ∀ m, u.forwards m = true → physHome ((v.site m).physSel n) = false) ∧
          exec (.siteReset ⟨tg, good, comp⟩) s = .next ((((v.clearCores n).modSite n (fun t => { Site.reset with
            state := .clocked, clksrc := src, depth := depth, dramGood := good, computeGood := comp, edgeClock := t.edgeClock,
            links := t.links.filter (fun p => !p.2) })).flushTraces).deepen n 32)) ∧
  ((∀ (s : State) (site proc : Nat) (name : BitVec 12) (part : BitVec 4) (rect : BitVec 20) (rw rh : BitVec 5) (remap : List (BitVec 5)) (pins : List (BitVec 12 × BitVec 32)),
    let out := exec (.configRecord site proc name part rect rw rh remap pins) s
    (∀ u : State, s.sysTrip proc site (dataFlits 368) = (u, false) → out = .next (u.report (.refused proc 0x21))) ∧
    ∀ u : State, s.sysTrip proc site (dataFlits 368) = (u, true) →
      let st := (u.site site).state
      (st = .greeted → 0xFE0 ≤ name.toNat → out = .next (u.sysRefuse proc site 0)) ∧
      (st = .greeted → name.toNat < 0xFE0 → out = .next (u.modSite site (fun t => { t with
        staged := some { proc := proc, name := name, part := part, rect := rect, rw := rw, rh := rh, remap := remap.take 16, pins := pins.take 64 } }))) ∧
      ((st = .named ∨ st = .loaded ∨ st = .running ∨ st = .fenced) → out = .next (u.sysRefuse proc site 0))) ∧
  ∀ (s : State) (site : Nat),
    ((s.site site).state ≠ .greeted ∨ (s.site site).staged = none → exec (.configCommit site) s = .next s) ∧
    ∀ r, (s.site site).state = .greeted → (s.site site).staged = some r →
      (∀ u : State, s.sysTrip r.proc site 1 = (u, false) → exec (.configCommit site) s = .next (u.report (.refused r.proc 0x21))) ∧
      ∀ u : State, s.sysTrip r.proc site 1 = (u, true) → ∃ t, exec (.configCommit site) s = .next t ∧
        (t.site site).state = .named ∧ (t.site site).name = r.name ∧ (t.site site).part = r.part ∧ t.partRect r.part.toNat = r.rect ∧
        (t.site site).regionW = r.rw ∧ (t.site site).regionH = r.rh ∧ (t.site site).chiplet = r.proc ∧ (t.site site).staged = none ∧
        (∀ i, i < r.remap.length → nget (t.site site).remap i = some (r.remap.getD i 31)) ∧
        (t.site site).ncores = (if (u.site site).computeGood then BitVec.ofNat 5 (r.remap.filter (· != 31)).length else 0) ∧
        (∀ p, (r.pins.filter (fun q => q.1 == p.1)).getLast? = some p → (t.site site).route p.1.toNat = (p.2 &&& 0x3FFFFFF#32) ||| 0x3000000#32) ∧
        t.cores = u.cores ∧ ∀ m, m ≠ site → t.site m = u.site m) ∧
  (∀ (s : State) (site : Nat),
    (let u := s.modSite site (fun t => { t with gated := false })
      let waits (w : Nat × Nat × List Byte) : Bool := (u.site (homeOf w.2.1)).gated || (u.site (homeOf (u.gleanPA w.2.1))).gated
      exec (.relockDone site) s = .next u.flushTraces ∧ (u.traceWaits = [] → u.flushTraces = u) ∧ u.flushTraces.traceWaits = u.traceWaits.filter waits ∧
      ∀ w, u.traceWaits = [w] → waits w = false →
        let v : State := { u with traceWaits := [] }
        u.flushTraces = if (u.homeCode w.2.1).isSome ∨ (u.site (homeOf (u.gleanPA w.2.1))).state = .fenced then v.count w.1 30 else v.homePuts (placeAt w.2.1 w.2.2) .none none) ∧
    ((s.site site).state ≠ .dark → (s.site site).state ≠ .retired → (s.site site).clksrc ≠ 7 →
      let u := if (s.site site).clksrc = 0 then s.modSite site (fun t => { t with edgeClock := false }) else s
      (∀ src depth, u.clockSource site (s.site site).clksrc (s.site site).depth.toNat = some (src, depth) → exec (.clockSwitch site) s =
        .next ((((u.modSite site (fun t => { t with clksrc := src, depth := depth, gated := true,
                                                    clksw := if (s.site site).clksw = 0xFFFF then (s.site site).clksw else (s.site site).clksw + 1 })).countSite site 31).siteReport site
                                                   (.siteLog site 1)).deepen site 32)) ∧
      (u.clockSource site (s.site site).clksrc (s.site site).depth.toNat = none → exec (.clockSwitch site) s =
        .next (let v := (if (s.site site).state = .fenced then u else u.fenceSite site).modSite site (fun t => { t with clksrc := 7 })
          (v.dependents site).foldl (fun v m => v.loseClock m 527) v))) ∧
    (∀ m k, s.dependents site = [m] → s.dependents m = [] → ((s.deepen site (k + 1)).site m).depth.toNat = min 31 ((s.site site).depth.toNat + 1)) ∧
    ∀ cause, let u := ((s.logAppend site cause).dropLinks site).modSite site (fun t => { t with state := .retired, clksrc := 7 })
      s.retireSite site cause = (u.dependents site).foldl (fun v m => v.loseClock m 528) u)

/-- A bring-up counts itself and leaves every site that the log has retired RETIRED; an append writes a valid record for its site after the valid ones
(R57, R58). A site that is FENCED has every slot of its cores HALTED, the state before kept, and the bank locks of those that were not HALTED yet free
(R54, R212). -/
def Obligations.RetirementAndFencing : Prop :=
  ((∀ s : State, s.up = true → exec .bringUp s = .next s) ∧
  (∀ s : State, s.up = false → ∃ t, exec .bringUp s = .next t ∧ t.up = true ∧ t.boots = s.boots + 1 ∧ t.retireLog = s.retireLog ∧
    (∀ n, n < 528 → retiredBy s.logScan n = true → (t.site n).state = .retired) ∧
    ∀ n, (528 ≤ n ∨ retiredBy s.logScan n = false) → t.site n = s.site n) ∧
  ∀ (s : State) (site cause : Nat), s.logScan.length < 1024 → cause < 16 → site < 528 →
    let t := s.logAppend site cause
    s.logScan.length < t.logScan.length ∧ (∀ i, i < s.logScan.length → t.logScan[i]? = s.logScan[i]?) ∧ ∃ r, t.logScan[s.logScan.length]? = some r ∧
      wf r.1 42 10 = site ∧ wf r.1 52 4 = cause ∧ wf r.1 0 32 = s.boots.toNat ∧ wf r.1 56 8 = 1) ∧
  (∀ (s : State) (n j i : Nat), j < 16 → i < 16 →
    let c := 16 * n + j
    let t := s.fenceSite n
    (t.site n).state = .fenced ∧ (t.slot c i).state = .halted ∧
      ((s.slot c i).state = .halted → (t.slot c i).before = (s.slot c i).before) ∧
      ((s.slot c i).state ≠ .halted → (t.slot c i).before = (s.slot c i).state ∧ ∀ b l, nget (t.core c).locks b = some l → l.slot ≠ i))

/-- A site packet makes a NAMED site with placed cores LOADED with their images when its digest is right, FENCED when not, and goes on to the site's
children in the boot tree; a LOAD is charged to its partition's control-link budget (R48), verifies its container, writes its segments and sends the
packets, or is refused: that the accesses of its reads, walks and writes are checked in its partition and one that fails refuses it is the model's
choice (logs 65 and 66); UNLOAD, one flit for each name, discards the images of LOADED sites; ATTEST reports the signed digests (R54, R390, R393,
R394, R396). -/
def Obligations.LoadingSites : Prop :=
  (∀ (s : State) (fid d : Nat) (f : Flight) (cores : List (Nat × List RoleImage)) (placed : List Nat) (tree : List (Nat × Nat)) (digest : BitVec 384) (payload : List Byte),
    s.takes fid f → f.src = .proc d → f.body = .sitePacket cores placed tree digest payload →
    let u := s.dropFlight fid
    let n := f.dsite
    let on (v : State) : State := ((tree.filter (fun p => p.1 == n)).foldl (fun v p =>
      v.inject .system (.proc d) n f.part (.coords p.2) (.sitePacket cores placed tree digest payload)) v).settleLoads
    (n ∉ placed ∨ (u.site n).state ≠ .named → exec (.sitePacket fid) s = .next (on u)) ∧
    (n ∈ placed → (u.site n).state = .named →
      (sha384 payload = digest → exec (.sitePacket fid) s = .next (on
        (((cores.filter (fun p => siteOf p.1 == n)).foldl (fun s p => s.modCore p.1 (fun k => { k with roles := p.2, placed := true })) u).modSite n
          (fun t => { t with state := .loaded, image := true })))) ∧
      (sha384 payload ≠ digest → exec (.sitePacket fid) s = .next (on (u.fenceSite n))))) ∧
  (∀ (s : State) (proc : Nat) (part : BitVec 4) (pa : BitVec 43) (dirs : List (BitVec 64)), proc < 4 →
    let refused (v : State) : Prop := exec (.load proc part pa dirs) s = .next (v.report (.loadDone proc false))
    (∀ v : State, s.chargeLink proc part.toNat pa.toNat (dataFlits (8 * (1 + dirs.length))) = (v, false) →
      exec (.load proc part pa dirs) s = .next (v.report (.refused proc 0x24))) ∧
    ∀ v : State, s.chargeLink proc part.toNat pa.toNat (dataFlits (8 * (1 + dirs.length))) = (v, true) →
    (∀ s : State, v.containerAt proc part.toNat pa.toNat = (s, none) → refused s) ∧
    ∀ (w : State) (l : List Byte), v.containerAt proc part.toNat pa.toNat = (w, some l) →
      (openContainer w.keys l = none → refused w) ∧
      ∀ rs, openContainer w.keys l = some rs →
        let cores := w.placedCores part.toNat rs
        let placed := (cores.map (fun p => siteOf p.1)).eraseDups
        let tree := w.bootTree part.toNat rs
        let hasTree := rs.any (fun r => r.ty == 6)
        let roots := ((tree.map (·.1)).eraseDups).filter (fun n => !tree.any (fun p => p.2 == n))
        let treeBad := hasTree && (tree.any (fun p => tree.any (fun q => p.2 == q.2 && p.1 != q.1)) || placed.any (fun n => !(reachedDown tree roots 528).contains n))
        (treeBad = true → refused w) ∧
        (treeBad = false → (∀ u : State, w.writeSegments proc part.toNat dirs (segmentBytes rs) = (u, false) → refused u) ∧
          ∀ u : State, w.writeSegments proc part.toNat dirs (segmentBytes rs) = (u, true) →
            let payload := (rs.filter (fun r => r.ty == 1 || r.ty == 5 || (r.ty == 2 && r.kind == 2))).flatMap (·.body)
            let v := u.modProc proc (fun p => { p with digest := sha384 l, loads := p.loads ++ [placed] })
            exec (.load proc part pa dirs) s = .next (((if hasTree then roots else placed).foldl (fun s n =>
              s.inject .system (.proc proc) (s.procPort proc) part (.coords n) (.sitePacket cores placed tree (sha384 payload) payload)) v).settleLoads))) ∧
  (∀ (s : State) (proc : Nat) (part : BitVec 4) (name : BitVec 12) (rest : List (BitVec 12)), proc < 4 →
    let out := exec (.unload proc part [name]) s
    exec (.unload proc part []) s = .next s ∧
    (∀ u, out = .next u → exec (.unload proc part (name :: rest)) s = exec (.unload proc part rest) u) ∧
    (∀ v : State, s.chargeLink proc part.toNat name.toNat 1 = (v, false) → out = .next (v.report (.refused proc 0x24))) ∧
    ∀ v : State, s.chargeLink proc part.toNat name.toNat 1 = (v, true) →
    (v.siteNamed part.toNat name = none → out = .next (v.report (.refused proc 0x20))) ∧
    ∀ n, v.siteNamed part.toNat name = some n →
      (∀ u : State, v.sysTrip proc n 1 = (u, false) → out = .next (u.report (.refused proc 0x21))) ∧
      ∀ u : State, v.sysTrip proc n 1 = (u, true) →
        ((u.site n).state = .loaded → out = .next (((u.coresOf n).foldl (fun s c => s.modCore c (fun k => { k with roles := [], placed := false })) u).modSite n
          (fun t => { t with state := .named, image := false }))) ∧
        ((u.site n).state ≠ .loaded → out = .next u)) ∧
  ∀ (s : State) (proc : Nat) (nonce : BitVec 384), proc < 4 →
    ∃ r : BitVec 2816, exec (.attest proc nonce) s = .next (s.report (.attestation proc r)) ∧ r.extractLsb' 0 128 = Config.partAndSerial ∧
      (∀ d, d < 4 → r.extractLsb' (128 + 384 * d) 384 = Config.firmwareDigest d) ∧ r.extractLsb' 1664 384 = nonce ∧
      r.extractLsb' 2048 768 = Config.deviceSignature (bytesOf 256 (r.extractLsb' 0 2048).toNat)

/-! ## Segments between modules (R297 to R304) -/

/-- A segment waiting at a valid peer's entry leaves with the next sequence number while fewer than 4,096 are ahead of the oldest unacknowledged; its
timer sends it again, at the seventh expiry it is abandoned with RMA_UNREACHABLE, and a NACK_BUDGET cuts the rate and makes it wait for its timer. The
frame has the header of R299 and the data after it (R299, R300, R302); where the peer's entry is no longer valid the copy ends with RMA_REFUSED
(R287). The module's own IPv6 address is left out (log 45), and the timer is an event without a cycle count (log 19). An ACK ends every segment that
it acknowledges, its own sequence and those below the cumulative one, as delivered; a NACK_REFUSED ends its copy with RMA_REFUSED (R300, R301). A
segment that ends is answered to its copy as the packet that brought it to the chiplet is (R36). The rate of a pair: a marked answer cuts it by half
of alpha but not below the least rate, and 32 unmarked answers in a row bring it half way to its target, which grows up to the greatest rate (R302). -/
def Obligations.RmaSends : Prop :=
  ((∀ (s : State) (chip rmod : Nat) (q : RmaSeg),
    let k := s.chip chip
    let p := k.peer rmod
    (p.segs.find? (fun q => q.seq.isNone) = none → exec (.rmaSegmentSend chip rmod) s = .next s) ∧
    (p.segs.find? (fun q => q.seq.isNone) = some q → p.valid = true → ahead p.nextSeq p.floor < 4096 →
      let p' : Peer := { p with nextSeq := p.nextSeq + 1, segs := p.segs.set ((p.segs.takeWhile (fun q => q.seq.isSome)).length) { q with seq := some p.nextSeq } }
      exec (.rmaSegmentSend chip rmod) s = .next ((s.modPeer chip rmod (fun _ => p')).report (dataGram k chip rmod p' q p.nextSeq))) ∧
    (p.segs.find? (fun q => q.seq.isNone) = some q → p.valid = false → exec (.rmaSegmentSend chip rmod) s =
      .next ((s.modPeer chip rmod (fun p => { p with segs := p.segs.erase q })).endRmaSeg q (some (0x45, q.pa)))) ∧
    (p.valid = true → 4096 ≤ ahead p.nextSeq p.floor → exec (.rmaSegmentSend chip rmod) s = .next s) ∧
    ∀ (seq cumE : BitVec 32) (ece : Bool),
      exec (.nackBudget chip rmod seq cumE ece) s = .next (s.modPeer chip rmod (fun p => { (p.onAnswer k.modreg true) with
        segs := p.segs.map (fun q => if q.seq == some seq then { q with nacked := true } else q) })) ∧
      (p.segs.find? (fun q => q.seq == some seq) = none → exec (.rmaTimer chip rmod seq) s = .next s) ∧
      (p.segs.find? (fun q => q.seq == some seq) = some q →
        let others := p.segs.filter (fun x => !(x.seq == some seq))
        (q.nacked = true ∨ q.sends < 6 →
          let q' : RmaSeg := if q.nacked then { q with nacked := false } else { q with sends := q.sends + 1 }
          let p' : Peer := { p with segs := p.segs.map (fun x => if x.seq == some seq then q' else x) }
          exec (.rmaTimer chip rmod seq) s = .next ((s.modPeer chip rmod (fun _ => p')).report (dataGram k chip rmod p' q seq))) ∧
        (q.nacked = false → 6 ≤ q.sends → exec (.rmaTimer chip rmod seq) s =
          .next (((s.modPeer chip rmod (fun p => { p with segs := others })).endRmaSeg q (some (0x44, rmod * 2 ^ 44 + seq.toNat))).report (.rmaAbandoned chip rmod seq))))) ∧
  ∀ (k : NetChip) (chip rmod : Nat) (p : Peer) (q : RmaSeg) (seq : BitVec 32), q.pa < 2 ^ 43 → q.bytes.length ≤ 4096 → rmod < 16 →
    ∃ l, dataGram k chip rmod p q seq = .datagram chip rmod (p.ip1 ++ p.ip0) (0xC000 + BitVec.ofNat 16 (wf p.ctl 58 5)) (BitVec.ofNat 16 (wf p.ctl 32 16)) 2 l ∧
      l.length = 32 + q.bytes.length ∧ l.drop 32 = q.bytes ∧ byteField l 0 1 = 1 ∧ byteField l 1 1 = 1 ∧ byteField l 2 1 = (if q.red then 2 else 0) ∧
      byteField l 3 1 = wf k.modreg 60 4 + 16 * rmod ∧ byteField l 4 4 = seq.toNat ∧ byteField l 8 4 = p.floor.toNat ∧ byteField l 12 6 = q.pa ∧
      byteField l 18 2 = q.bytes.length ∧ byteField l 20 12 = 0) ∧
  ((∀ (s : State) (q : RmaSeg) (fail : Option (Nat × Nat)), s.endRmaSeg q fail = s.answer { q.from_ with left := (s.core q.from_.src.clock).cycle }
    (.segAns q.ch (if fail.isNone then q.bytes.length else 0) (fail.map (fun p => (BitVec.ofNat 8 p.1, BitVec.ofNat 48 p.2))))) ∧
  ∀ (s : State) (chip rmod : Nat) (seq cumE : BitVec 32) (ece : Bool),
    let k := s.chip chip
    let p := k.peer rmod
    let acked (q : RmaSeg) : Bool := match q.seq with
      | some x => x == seq || (1 ≤ ahead cumE x && ahead cumE x ≤ 4096)
      | none => false
    let hit := p.segs.filter (fun q => q.seq == some seq)
    exec (.ack chip rmod seq cumE ece) s =
      .next ((p.segs.filter acked).foldl (fun s q => s.endRmaSeg q none) (s.modPeer chip rmod (fun p => { (p.onAnswer k.modreg ece) with segs := p.segs.filter (fun q => !acked q) }))) ∧
    exec (.nackRefused chip rmod seq cumE ece) s =
      .next (hit.foldl (fun s q => s.endRmaSeg q (some (0x45, q.pa))) (s.modPeer chip rmod (fun p => { (p.onAnswer k.modreg ece) with segs := p.segs.filter (fun q => !(q.seq == some seq)) })))) ∧
  (∀ (p : Peer) (m : Word), p.alpha ≤ 65536 →
    (let r := p.onAnswer m true; r.alpha = p.alpha + (65536 - p.alpha) / 16 ∧ r.rate = max (wf m 20 20) (p.rate * (131072 - r.alpha) / 131072) ∧ r.target = p.rate ∧
      r.unmarked = 0 ∧ r.alpha ≤ 65536 ∧ (wf m 20 20 ≤ p.rate → r.rate ≤ p.rate)) ∧
    (let r := p.onAnswer m false; r.alpha = 15 * p.alpha / 16 ∧ (p.unmarked ≠ 31 → r.rate = p.rate ∧ r.target = p.target ∧ r.unmarked = p.unmarked + 1) ∧
      (p.unmarked = 31 → r.rate = (p.rate + p.target) / 2 ∧ r.target = min (wf m 40 20) (p.target + wf m 0 20) ∧ r.unmarked = 0)))

/-- A frame that arrives: dropped without a valid entry at this chiplet, acknowledged again when it was written before, refused outside the partition's
homes or when a home of its bytes is not reached, answered with BUDGET when over it, else written and acknowledged (R301). That a segment whose home
is FENCED or is not reached is answered with NACK_REFUSED is the model's choice (logs 19, 35 and 45). A write of a peer entry's control dword with
valid 1 starts the pair afresh and ends every copy that had segments outstanding with RMA_UNREACHABLE and its oldest sequence; one with valid 0 only
writes the dword (R298). -/
def Obligations.RmaArrivals : Prop :=
  (∀ (s : State) (chip rmod : Nat) (ce red : Bool) (seq fl : BitVec 32) (pa : BitVec 43) (bytes : List Byte),
    let k := s.chip chip
    let p0 := k.peer rmod
    let p := p0.toFloor fl
    let part := wf p.ctl 54 4
    let u := s.modPeer chip rmod (fun _ => p)
    let d := ahead seq p.recvE
    let back := ahead p.recvE seq
    let flits := (bytes.length + 31) / 32
    let answer (s : State) (kind : Nat) : State :=
      let q := (s.chip chip).peer rmod
      s.report (frame (s.chip chip) chip rmod q kind ce false seq q.recvE pa bytes.length [])
    let out := exec (.data chip rmod ce red seq fl pa bytes) s
    (p0.valid = false ∨ wf p0.ctl 58 5 ≠ chip → out = .next (s.modChip chip (fun k => { k with dropped := k.dropped + 1 }))) ∧
    (p0.valid = true → wf p0.ctl 58 5 = chip →
      (d < 4096 → p.marks.contains seq.toNat = true → out = .next (answer u 2)) ∧
      (4096 ≤ d → 1 ≤ back → back ≤ 4096 → out = .next (answer u 2)) ∧
      (4096 ≤ d → 4096 < back → out = .next (u.modChip chip (fun k => { k with dropped := k.dropped + 1 }))) ∧
      (d < 4096 → p.marks.contains seq.toNat = false →
        let past := budgetRefuses k.budgets k.used (4 * part) flits
        (u.rmaAllowed chip part pa.toNat bytes.length = false → out = .next (answer u 4)) ∧
        (u.rmaAllowed chip part pa.toNat bytes.length = true → past = true → out = .next (answer (u.modChip chip (fun k =>
          { k with vlog := (logViolation k.vlog k.voverflow 0 part pa.toNat).1, voverflow := (logViolation k.vlog k.voverflow 0 part pa.toNat).2 })) 3)) ∧
        (u.rmaAllowed chip part pa.toNat bytes.length = true → past = false → ∀ (w : State) (reached : Bool),
          u.rmaTrips chip part pa.toNat bytes.length = (w, reached) →
          (reached = false → out = .next (answer w 4)) ∧
          (reached = true →
            let v := (w.modChip chip (fun k => { k with used := nput k.used (4 * part) ((nget k.used (4 * part)).getD 0 + flits) })).rmaWrite pa.toNat red bytes
            out = .next (answer (v.modPeer chip rmod (fun p => { p with marks := p.marks ++ [seq.toNat] }.advance 4096)) 2))))) ∧
    let ends := [pa.toNat, pa.toNat + bytes.length - 1]
    (s.rmaAllowed chip part pa.toNat bytes.length = true ↔ ∀ a ∈ ends, inRect (s.partRect part) (a / 2 ^ 33) = true ∧ s.hasHome a = true ∧
      physHome ((s.site (s.port (chip / 6) (chip % 6))).physSel (a / 2 ^ 33)) = true ∧ (s.site (a / 2 ^ 33)).state ≠ .fenced) ∧
    let trip (v : State) (a : Nat) := v.reach (.chip chip) (v.port (chip / 6) (chip % 6)) (BitVec.ofNat 4 part) a (dataFlits bytes.length) 1
    let one := trip s pa.toNat
    let two := trip one.1 (pa.toNat + bytes.length - 1)
    s.rmaTrips chip part pa.toNat bytes.length =
      if (pa.toNat + bytes.length - 1) / 2 ^ 33 = pa.toNat / 2 ^ 33 then (one.1, one.2.reached) else (two.1, one.2.reached && two.2.reached)) ∧
  (∀ (s : State) (chip rmod : Nat) (v : Word), chip < 24 → rmod < 16 →
    let p := (s.chip chip).peer rmod
    let rmax := wf (s.chip chip).modreg 40 20
    let ctl := v &&& 0xFFC0FFFF00000000
    let oldest (q : RmaSeg) : BitVec 32 := ((p.segs.find? (fun x => x.core == q.core && x.ch == q.ch)).bind (·.seq)).getD p.nextSeq
    (v.getLsbD 63 = false → exec (.peerEntryWrite chip rmod v) s = .next (s.modPeer chip rmod (fun p => { p with ctl := ctl }))) ∧
    (v.getLsbD 63 = true → exec (.peerEntryWrite chip rmod v) s =
      .next (p.segs.foldl (fun s q => s.endRmaSeg q (some (0x44, rmod * 2 ^ 44 + (oldest q).toNat)))
        (s.modPeer chip rmod (fun p => { Peer.reset with ip0 := p.ip0, ip1 := p.ip1, ctl := ctl, rate := rmax, target := rmax })))))

/-! ## Command processors (R305 to R309, R379 to R390) -/

/-- The packet of a queue starts when the queue is on, IDLE or ACTIVE, waits for nothing and holds it, its home lies in the partition, the link's budget
pays for it, no breakpoint matches and its fields are good: rd is counted, and the packet runs. `u` is the state in which it runs (R380 to R383,
R444). An access that meets a code on its way or at its home stops the queue with it (R386). The model's choices: the breakpoint is checked after the
fetch and before the fields (log 27), the accesses ride in one step (log 35), and the error of a code that R386 does not name (log 51). A queue that
is off, waits, is stopped or holds nothing starts no packet. A packet that fails a check stops its queue with the error and is not counted: a ring
outside the partition, an unknown type, a budget that does not pay, a bad field, kind, partition or record; a breakpoint halts all 64 queues (R386,
R389, R444). The model's choices: the breakpoint is checked after the fetch and before the type and the fields (log 27), and what an access of the
queue that meets a code makes of it (logs 35 and 51). -/
def Obligations.CommandPackets : Prop :=
  (∀ (s : State) (d q : Nat), d < 4 → q < 64 →
    let x := s.queue d q
    let w := (List.range 4).map (fun i => wd (s.physRead (x.packetPA + 8 * i) 8))
    let ty := wf (w.getD 0 0) 0 8
    let v := (s.procTick d q).chargeLink d x.part x.packetPA 1
    let begun (g : State) : State := g.modQueue d q (fun y => { y with rd := y.rd + 1, resumed := false, st := if y.rd + 1 == y.wr then .idle else .active })
    x.on = true → (x.st = .idle ∨ x.st = .active) → x.wait = none → x.rd ≠ x.wr → s.paGood x.part x.base = true →
    v.2 = true → ∀ f : State, v.1.linkTrip d x.part x.packetPA 1 2 = (f, none) → f.procBreak d q ty w = none → f.packetError x ty w = none →
      let u := begun f
      let i := semIndex (w.getD 0 0)
      let val := w.getD 1 0
      let c := u.chargeLink d (u.queue d q).part (u.semPA d i) 1
      let sem (g : State) : Word := if (w.getD 0 0).getLsbD 8 then val else g.semGet d i + val
      let stamped (g : State) : State := (g.homeWrite val.toNat 8 (g.proc d).cycles.toNat .none none).homeWrite (val.toNat + 8) 8 (w.getD 2 0).toNat .none none
      (ty = 0 → exec (.nop d q) s = .next u) ∧
      (ty = 5 → exec (.interrupt d q) s = .next (u.report (.interrupt d q val))) ∧
      (ty = 7 → exec (.jump d q) s = .next (u.modQueue d q (fun y => { y with rd := BitVec.ofNat 32 (x.rd.toNat - x.rd.toNat % y.ring + val.toNat) }.settled))) ∧
      (ty = 8 →
        (∀ g : State, u.linkTrip d (u.queue d q).part val.toNat 2 1 = (g, none) → exec (.mark d q) s = .next (stamped g)) ∧
        ∀ (g : State) (code : BitVec 8), u.linkAccess d (u.queue d q).part val.toNat 2 1 stamped = (g, some code) → exec (.mark d q) s = .next (g.queueCode d q code x.rd)) ∧
      (ty = 4 ∨ ty = 3 →
        (c.2 = false → (ty = 4 → exec (.signal d q) s = .next (c.1.queueFail d q 8 0 x.rd)) ∧ (ty = 3 → exec (.waitge d q) s = .next (c.1.queueFail d q 8 0 x.rd))) ∧
        (c.2 = true →
          let part := (c.1.queue d q).part
          let pa := c.1.semPA d i
          (ty = 4 →
            (∀ g : State, c.1.linkTrip d part pa 2 2 = (g, none) → exec (.signal d q) s = .next (g.semPut d i (sem g))) ∧
            ∀ (g : State) (code : BitVec 8), c.1.linkAccess d part pa 2 2 (fun g => g.semPut d i (sem g)) = (g, some code) → exec (.signal d q) s = .next (g.queueCode d q code x.rd)) ∧
          (ty = 3 →
            (∀ (g : State) (code : BitVec 8), c.1.linkTrip d part pa 1 2 = (g, some code) → exec (.waitge d q) s = .next (g.queueCode d q code x.rd)) ∧
            ∀ g : State, c.1.linkTrip d part pa 1 2 = (g, none) →
              (val.toNat ≤ (g.semGet d i).toNat → exec (.waitge d q) s = .next g) ∧
              ((g.semGet d i).toNat < val.toNat → exec (.waitge d q) s = .next (g.queueWaits d q (.waitge i val
                (if (w.getD 2 0).toNat = 0 then none else some ((g.proc d).cycles.toNat + (w.getD 2 0).toNat)))))))) ∧
      (ty = 6 →
        let ids := ((u.proc d).works.filter (fun x => (w.getD 0 0).getLsbD 8 || x.queue == q)).map (·.id)
        exec (.queueFence d q) s = .next (if ids = [] then u else u.queueWaits d q (.fence ids))) ∧
      (ty = 2 →
        let len := (w.getD 3 0).toNat
        let e := u.chargeLink d (u.queue d q).part val.toNat ((len + 31) / 32)
        (e.2 = false → exec (.queueCopy d q) s = .next (e.1.queueFail d q 8 0 x.rd)) ∧
        (e.2 = true → exec (.queueCopy d q) s = .next (e.1.bump.modProc d (fun p => { p with
          works := p.works ++ [{ id := e.1.nextId, queue := q, index := x.rd, dword0 := w.getD 0 0, sites := [], cores := [], copy := some (val.toNat, (w.getD 2 0).toNat, len) }] })))) ∧
      (ty = 1 → ∀ g : State, f.linkTrip d x.part val.toNat 1 (dataFlits 128) = (g, none) → g.launchRefused val.toNat = false →
        let u := begun g
        let l := launchOfWords (u.recordAt val.toNat)
        let e := u.bump.modProc d (fun p => { p with works := p.works ++ [{ id := u.nextId, queue := q, index := x.rd, dword0 := w.getD 0 0, sites := [], cores := [], copy := none }] })
        exec (.launch d q) s = .next ((e.queueWaits d q (.launch u.nextId l (w.getD 2 0) (!e.claimedBefore u.nextId l.rect))).markClaims))) ∧
  (∀ (s : State) (d q : Nat), d < 4 → q < 64 →
    let x := s.queue d q
    let w := (List.range 4).map (fun i => wd (s.physRead (x.packetPA + 8 * i) 8))
    let t := wf (w.getD 0 0) 0 8
    let v := (s.procTick d q).chargeLink d x.part x.packetPA 1
    let ready : Prop := x.on = true ∧ (x.st = .idle ∨ x.st = .active) ∧ x.wait = none ∧ x.rd ≠ x.wr
    let packets : List (Instr × Nat) := [(.nop d q, 0), (.launch d q, 1), (.queueCopy d q, 2), (.waitge d q, 3), (.signal d q, 4), (.interrupt d q, 5), (.queueFence d q, 6),
      (.jump d q, 7), (.mark d q, 8)]
    (∀ (u : State) (code : BitVec 8) (at_ : BitVec 32),
      (code = 0x23 ∨ code = 0x27 → u.queueCode d q code at_ = u.queueFail d q 5 0 at_) ∧
      (code ≠ 0x23 → code ≠ 0x27 → u.queueCode d q code at_ = u.queueFail d q 7 code.toNat at_)) ∧
    ∀ p ∈ packets,
      (¬ready → (p.2 = 6 → x.wait = none) → exec p.1 s = .next s) ∧
      (ready →
        (s.paGood x.part x.base = false → exec p.1 s = .next (s.queueFail d q 5 0 x.rd)) ∧
        (s.paGood x.part x.base = true →
          (t ≠ p.2 → t ≤ 8 → exec p.1 s = .next s) ∧
          (t = p.2 ∨ 8 < t →
            (v.2 = false → exec p.1 s = .next (v.1.queueFail d q 8 0 x.rd)) ∧
            (v.2 = true →
              (∀ (f : State) (code : BitVec 8), v.1.linkTrip d x.part x.packetPA 1 2 = (f, some code) → exec p.1 s = .next (f.queueCode d q code x.rd)) ∧
              ∀ f : State, v.1.linkTrip d x.part x.packetPA 1 2 = (f, none) →
                (∀ b, f.procBreak d q t w = some b → exec p.1 s = .next (((f.modQueue d q (fun x => { x with resumed := true })).modProc d (fun p =>
                  { p with queues := (List.range 64).foldl (fun m i => nput m i { ((nget m i).getD CQueue.reset) with st := .halted }) p.queues })).report (.procHalt d b q))) ∧
                (f.procBreak d q t w = none → (8 < t → exec p.1 s = .next (f.queueFail d q 1 0 x.rd)) ∧
                  (∀ e, t ≤ 8 → f.packetError x t w = some e → exec p.1 s = .next (f.queueFail d q e 0 x.rd)) ∧
                  (t = 1 → f.packetError x 1 w = none → ∀ (g : State) (code : Option (BitVec 8)),
                    f.linkTrip d x.part (w.getD 1 0).toNat 1 (dataFlits 128) = (g, code) →
                    (∀ e, code = some e → exec (.launch d q) s = .next (g.queueCode d q e x.rd)) ∧
                    (code = none → g.launchRefused (w.getD 1 0).toNat = true → exec (.launch d q) s = .next (g.queueFail d q 4 0 x.rd)))))))))

/-- What ends the waits of a queue: a report of a semaphore that has reached the value before the time-out, a time-out, which fails the queue and gives rd
back, the completion of the work that a FENCE waits for, a rectangle that no earlier LAUNCH claims and none of whose sites runs; a site of it that is
not LOADED then fails the LAUNCH (R383, R388, R395, R444). A report and the start of a launch are packets of the system class (R29). The model's
choices: a report that finds no way is lost (log 60), a LAUNCH with a site that its packet cannot reach waits on (log 66), WAITGE_TIMEOUT brings the
processor's cycles to the deadline (log 8), and LAUNCHes that share a site start in the order in which they were counted in rd, before their sites are
checked (log 28). Completion: a LAUNCH that has started, whose sites have returned to LOADED and whose cores' stores and AMOs are performed, or a COPY
that meets no fault, leaves the list of works and updates its semaphore; a copy that meets one fails its queue with the code (R384, R386). That the
bytes move in the step of the completion is the model's choice (log 28). A core as a LAUNCH leaves it: every slot has the role, pc and state that the
record and the role image give it and all its registers at reset, the local store holds the plot segments and zeros, the directory is the packet's
with its count cut at 65,536, and no claim targets a slot or a context any more (R81, R173, R195, R307, R308, R383). What else of the core a LAUNCH
keeps, and that it frees the claims of the channels, is the model's choice (log 28). -/
def Obligations.WaitsAndWorks : Prop :=
  ((∀ (s : State) (d : Nat), (s.proc d).reports = [] → exec (.semaphoreReport d) s = .next s) ∧
  (∀ (s : State) (d i : Nat) (v : Word) (rest : List (Nat × Word)), (s.proc d).reports = (i, v) :: rest →
    let home := homeOf (s.gleanPA (s.semPA d i))
    let ride := (s.modProc d (fun p => { p with reports := rest })).rideBack none home (s.procPort d) (s.siteSource home) true none 2
    (ride.2 = false → exec (.semaphoreReport d) s = .next ride.1) ∧
    (ride.2 = true → ∃ t, exec (.semaphoreReport d) s = .next t ∧ (t.proc d).reports = rest ∧ t.sites = ride.1.sites ∧
    ∀ q, (nget (s.proc d).queues q).isSome = true →
      let met : Prop := ∃ w lim, (s.queue d q).wait = some (.waitge i w lim) ∧ w.toNat ≤ v.toNat ∧ ∀ n, lim = some n → (s.proc d).cycles.toNat ≤ n
      (met → t.queue d q = (s.queue d q).waitOver) ∧ (¬met → t.queue d q = s.queue d q))) ∧
  (∀ (s : State) (d q i : Nat) (v : Word) (lim : Nat), (s.queue d q).wait = some (.waitge i v (some lim)) →
    ∃ t, exec (.waitgeTimeout d q) s = .next t ∧ (t.queue d q).st = .error ∧ (t.queue d q).err = 6 ∧ (t.queue d q).rd = (s.queue d q).rd - 1 ∧
      (t.queue d q).at_ = (s.queue d q).rd - 1 ∧ (t.queue d q).wait = none ∧ lim % 2 ^ 64 ≤ (t.proc d).cycles.toNat) ∧
  (∀ (s : State) (d q : Nat) (ids : List Nat), (s.queue d q).wait = some (.fence ids) →
    ((∃ w ∈ (s.proc d).works, w.id ∈ ids) → exec (.queueFence d q) s = .next s) ∧
    ((∀ w ∈ (s.proc d).works, w.id ∉ ids) → exec (.queueFence d q) s = .next (s.modQueue d q CQueue.waitOver))) ∧
  ∀ (s : State) (d q id : Nat) (l : Launch) (dir : Word) (holds : Bool), (s.queue d q).wait = some (.launch id l dir holds) →
    let sites := rectSites l.rect
    let out := exec (.launchStart d q) s
    let runs : Prop := ∃ n ∈ sites, (s.site n).state = .running
    (s.claimedBefore id l.rect = true → out = .next s) ∧
    (s.claimedBefore id l.rect = false →
      (runs → out = .next (if holds then s else s.modQueue d q (fun x => { x with wait := some (.launch id l dir true) }))) ∧
      (¬runs → (∃ n ∈ sites, (s.site n).state ≠ .loaded) → out = .next ((((s.modProc d (fun p => { p with works := p.works.filter (fun w => w.id != id) })).modQueue d q
        (fun x => { x with wait := none })).queueFail d q 4 0 ((s.queue d q).rd - 1)).markClaims)) ∧
      ((∀ n ∈ sites, (s.site n).state = .loaded) → (s.launchTrips d sites).2 = false → out = .next (s.launchTrips d sites).1) ∧
      ((∀ n ∈ sites, (s.site n).state = .loaded) → (s.launchTrips d sites).2 = true → let s := (s.launchTrips d sites).1
        ∃ t, out = .next t ∧
        (∀ n ∈ sites, (t.site n).state = .running ∧ (t.site n).launch = some l ∧ (t.site n).claimed = t.starting.any (fun p => inRect p.2.rect n)) ∧
        (∀ c ∈ s.rectCores l.rect, (t.core c).rdir = dirCut dir ∧ ∀ n, n < 16 →
          t.slot c n = { ((s.slot c n).launched l (s.core c).roles n) with idx := (List.range 8).foldl (fun a j => nput a j (s.idxWord l c n j)) [] }) ∧
        t.queue d q = (s.queue d q).waitOver))) ∧
  (∀ (s : State) (d work : Nat),
    ((s.proc d).works.find? (fun w => w.id == work) = none → exec (.queueCopyComplete d work) s = .next s ∧ exec (.launchComplete d work) s = .next s) ∧
    ∀ (w : Work), (s.proc d).works.find? (fun w => w.id == work) = some w →
      let u := s.modProc d (fun p => { p with works := p.works.filter (fun x => x.id != work) })
      let started : Prop := ∀ q ∈ (s.proc d).queues, ∀ id l dir h, q.2.wait = some (.launch id l dir h) → id ≠ work
      let performed : Prop := ∀ c ∈ w.cores, ∀ a ∈ (s.core c).accs, a.kind ≠ .w ∧ a.kind ≠ .a
      (∀ a b n, w.copy = some (a, b, n) → exec (.launchComplete d work) s = .next s ∧
        ∀ v : State, (u.copyLines d (u.queue d w.queue).part a b n n = (v, none) → exec (.queueCopyComplete d work) s = .next (v.semAdd d w)) ∧
          ∀ e, u.copyLines d (u.queue d w.queue).part a b n n = (v, some e) → exec (.queueCopyComplete d work) s = .next (v.queueFail d w.queue 7 e.toNat w.index)) ∧
      (w.copy = none → exec (.queueCopyComplete d work) s = .next s ∧
        (w.sites = [] → performed → started → exec (.launchComplete d work) s = .next (u.semAdd d w)) ∧
        (w.sites ≠ [] ∨ ¬performed ∨ ¬started → exec (.launchComplete d work) s = .next s))) ∧
  (∀ (k : Core) (l : Launch) (dir : Word) (idx : Nat → Nat → Word) (n : Nat), n < 16 →
    let t := (k.launched l dir idx).slot n
    let fits (r : RoleImage) : Prop := l.roleCodeOf n ≠ 0 ∧ imageFor k.roles n = some r
    let d := dirCut dir
    (k.launched l dir idx).rdir = d ∧ (k.launched l dir idx).rdmnt = d ∧ wf d 35 17 = min (wf dir 35 17) 65536 ∧ d.setWidth 35 = dir.setWidth 35 ∧ wf d 52 12 = wf dir 52 12 ∧
    (k.launched l dir idx).cycle = k.cycle ∧ (k.launched l dir idx).divs = k.divs ∧ (k.launched l dir idx).vecs = k.vecs ∧
    (∀ p ∈ k.channels, ∀ i, p.2.claim = some i → nget (k.launched l dir idx).claims i = none) ∧
    (∀ i cl, nget (k.launched l dir idx).claims i = some cl → cl.target ≠ .slot ∧ ∀ e, cl.target ≠ .context e) ∧
    (k.launched l dir idx).ls = memPuts [] (k.roles.flatMap (fun r => r.plots.flatMap (fun p => placeAt p.1 p.2))) ∧
    (∀ i, i < 32 → t.xr i = ⟨.full, 0⟩ ∧ t.vr i = ⟨.full, 0⟩ ∧ t.mr i = ⟨.full, 0⟩ ∧ t.cr i = ⟨.full, 0⟩) ∧ t.tcause = 0 ∧ t.mail = [] ∧ (∀ i, i < 8 → (nget t.idx i).getD 0 = idx n i) ∧
    (∀ r, fits r → t.role = roleOf (l.roleCodeOf n) ∧
      (l.isWorker n = true → t.state = .empty ∧ t.worker = true) ∧
      (l.isWorker n = false → t.state = .running ∧ t.pc = r.entry ∧ t.worker = false)) ∧
    (l.roleCodeOf n = 0 ∨ imageFor k.roles n = none → t.role = .none ∧ t.state = .empty))

/-- The control link's registers: a doorbell moves wr, a restart makes a queue in ERROR or HALTED ACTIVE, a resume every HALTED one; the processor's own
registers are read and written by offset, a unit's by a name of the partition, at the cost of one flit and a packet's way; the two tables of a site
are written by a packet of the system class (R367, R380, R389, R390). The model's choices: where a register of the processor stands (log 16), REGWRITE
rides as two flits and REGREAD as one (log 25), and an offset that is no multiple of 8 is refused with code 0 (log 59). RTRD and RTWR reach a router
or edge register: a load with a claim of class 1 that leaves for the register, a store through the store buffer; a misaligned offset traps (R367). A
word that decodes to no instruction traps with cause 2 and itself (R71). -/
def Obligations.Registers : Prop :=
  (∀ (s : State) (d q : Nat) (wr off : BitVec 32) (unit : BitVec 16) (part : BitVec 4) (v : Word), d < 4 →
    let x := s.queue d q
    (q < 64 →
      (x.st = .idle ∨ x.st = .active → x.wait = none → exec (.queueDoorbell d q wr) s = .next (s.modQueue d q (fun x => { x with wr := wr }.settled))) ∧
      ((x.st ≠ .idle ∧ x.st ≠ .active) ∨ x.wait ≠ none → exec (.queueDoorbell d q wr) s = .next (s.modQueue d q (fun x => { x with wr := wr }))) ∧
      (x.st = .error ∨ x.st = .halted → exec (.queueRestart d q) s = .next (s.modQueue d q (fun x => { x with st := .active, resumed := false }))) ∧
      (x.st ≠ .error → x.st ≠ .halted → exec (.queueRestart d q) s = .next (s.modQueue d q (fun x => x)))) ∧
    (∃ t, exec (.processorResume d) s = .next t ∧ ∀ i, (nget (s.proc d).queues i).isSome = true →
      t.queue d i = if (s.queue d i).st = .halted then { s.queue d i with st := .active } else s.queue d i) ∧
    (off.toNat % 8 = 0 → exec (.regwrite d 0xFFFF part off v) s = .next (s.ownWrite d off.toNat v) ∧
      exec (.regread d 0xFFFF part off) s = .next (s.report (.regValue d (s.ownRead d off.toNat)))) ∧
    (off.toNat % 8 ≠ 0 → exec (.regwrite d 0xFFFF part off v) s = .next (s.report (.refused d 0)) ∧ exec (.regread d 0xFFFF part off) s = .next (s.report (.refused d 0))) ∧
    (unit ≠ 0xFFFF →
      let c := s.chargeLink d part.toNat unit.toNat 1
      let name : BitVec 12 := unit.setWidth 12
      let edge := (edgeOfName name.toNat).isSome
      let refused (u : State) (e : BitVec 8) : Prop :=
        exec (.regread d unit part off) s = .next (u.report (.refused d e)) ∧ exec (.regwrite d unit part off v) s = .next (u.report (.refused d e))
      (c.2 = false → refused c.1 0x24) ∧
      (c.2 = true →
        (∀ n e, c.1.unitSite part.toNat unit = (n, some e) → refused c.1 e) ∧
        ∀ n, c.1.unitSite part.toNat unit = (n, none) →
          (off.toNat % 8 ≠ 0 → refused c.1 0) ∧
          (off.toNat % 8 = 0 →
            (tableOff name off.toNat = true → exec (.regwrite d unit part off v) s = .next (c.1.inject .system (.proc d) (c.1.procPort d) part (.coords n)
              (.mem { acc := 0, slot := 0, epoch := 0, op := .store 8 v, target := .router name off.toNat, attr := .none, claim := none }))) ∧
            (edge = true →
              exec (.regread d unit part off) s = .next (c.1.report (.regValue d (c.1.unitRead n name off.toNat))) ∧
              (tableOff name off.toNat = false → exec (.regwrite d unit part off v) s = .next (c.1.unitWrite n name off.toNat v))) ∧
            (edge = false → ∀ (u : State) (ok : Bool),
              (c.1.sysTrip d n 1 = (u, ok) → exec (.regread d unit part off) s = .next (if ok then
                (u.rideBack none n (u.procPort d) (u.siteSource n) false none 2).1.report (.regValue d (u.unitRead n name off.toNat)) else u.report (.refused d 0x21))) ∧
              (c.1.sysTrip d n 2 = (u, ok) → tableOff name off.toNat = false → exec (.regwrite d unit part off v) s =
                .next (if ok then u.unitWrite n name off.toNat v else u.report (.refused d 0x21)))))))) ∧
  (∀ (s : State) (rs2 rs1 rd : BitVec 5) (w : BitVec 32),
    let a := s.xv rs1
    let target : MemTarget := .router (a.extractLsb' 36 12) (wf a 0 32)
    exec (.illegalWord w) s = .next (s.trap 2 (w.setWidth 64)) ∧
    (s.noRepeat → s.me.role = .k → s.readable .x rs1.toNat →
      (s.readable .x rs2.toNat → a.toNat % 8 ≠ 0 → exec (.rtwr rs2 rs1) s = .next (s.trap 6 a)) ∧
      (s.readable .x rs2.toNat → a.toNat % 8 = 0 → (s.here.sb.filter (fun x => !x.sent)).length < 64 →
        exec (.rtwr rs2 rs1) s = .next ((storeGlobal s target a.toNat (.store 8 (s.xv rs2)) .none none [] none).goneTo (s.me.pc + 4))) ∧
      (s.writable .x rd.toNat → a.toNat % 8 ≠ 0 → exec (.rtrd rs1 rd) s = .next (s.trap 4 a)) ∧
      ∀ (u : State) (c : Option Nat), s.writable .x rd.toNat → a.toNat % 8 = 0 → s.pend .x rd.toNat 1 false = some (u, c) →
        (∀ lo n, s.meets lo n = []) → s.here.sb = [] → s.me.acquires = [] → s.me.fences = [] →
        let v := u.bump.addAccess u.nextId .r false target 8 a.toNat false
        exec (.rtrd rs1 rd) s = .next ((v.inject .request (.core s.curCore) (siteOf s.curCore) (s.site (siteOf s.curCore)).part target.dest
          (.mem { acc := u.nextId, slot := s.curSlot, epoch := s.me.epoch, op := .load 8 false, target := target, attr := .none, claim := c })).goneTo (s.me.pc + 4))))

/-! ## Frames -/

/-- Frame of the integer register instructions, the local loads and the branches and jumps that do not trap: nothing changes but the destination x
register and the pc, claims, store buffer and L1 among what stays; a write of x0 changes nothing at all (R60, R111 to R117). Frame of the vector
register instructions: nothing changes but the destination register, the flags, the draw count and the pc; claims, the store buffer and the L1 stay as
they were (R218, R231 to R235, R240). -/
def Obligations.Frames : Prop :=
  (∀ (s : State) (im : BitVec 12) (up : BitVec 20) (sh : BitVec 6) (shw rs2 rs1 rd lo : BitVec 5) (hi : BitVec 7), s.noRepeat → s.readable .x rs1.toNat →
    s.readable .x rs2.toNat → s.writable .x rd.toNat →
    (∀ i ∈ ([.lui up rd, .auipc up rd, .addi im rs1 rd, .slti im rs1 rd, .sltiu im rs1 rd, .xori im rs1 rd, .ori im rs1 rd, .andi im rs1 rd, .slli sh rs1 rd,
      .srli sh rs1 rd, .srai sh rs1 rd, .addiw im rs1 rd, .slliw shw rs1 rd, .srliw shw rs1 rd, .sraiw shw rs1 rd, .add rs2 rs1 rd, .sub rs2 rs1 rd, .sll rs2 rs1 rd,
      .slt rs2 rs1 rd, .sltu rs2 rs1 rd, .xor rs2 rs1 rd, .srl rs2 rs1 rd, .sra rs2 rs1 rd, .or rs2 rs1 rd, .and rs2 rs1 rd, .addw rs2 rs1 rd, .subw rs2 rs1 rd,
      .sllw rs2 rs1 rd, .srlw rs2 rs1 rd, .sraw rs2 rs1 rd, .mul rs2 rs1 rd, .mulh rs2 rs1 rd, .mulhsu rs2 rs1 rd, .mulhu rs2 rs1 rd, .mulw rs2 rs1 rd] : List Instr),
      ∃ t, exec i s = .next t ∧ s.onlyX t [rd] ∧ t.me.pc = s.me.pc + 4 ∧ (rd = 0 → t.me.x = s.me.x)) ∧
    (∀ p ∈ ([(.lb im rs1 rd, 1), (.lh im rs1 rd, 2), (.lw im rs1 rd, 4), (.ld im rs1 rd, 8), (.lbu im rs1 rd, 1), (.lhu im rs1 rd, 2), (.lwu im rs1 rd, 4)] : List (Instr × Nat)),
      s.localPasses true false (s.xv rs1 + im.signExtend 64) p.2 → ∃ t, exec p.1 s = .next t ∧ s.onlyX t [rd] ∧ t.me.pc = s.me.pc + 4) ∧
    (∀ i ∈ ([.beq hi rs2 rs1 lo, .bne hi rs2 rs1 lo, .blt hi rs2 rs1 lo, .bge hi rs2 rs1 lo, .bltu hi rs2 rs1 lo, .bgeu hi rs2 rs1 lo] : List Instr),
      (s.me.pc + immB hi lo).toNat % 4 = 0 → ∃ t, exec i s = .next t ∧ s.onlyX t []) ∧
    ((s.me.pc + immJ up).toNat % 4 = 0 → ∃ t, exec (.jal up rd) s = .next t ∧ s.onlyX t [rd]) ∧
    (((s.xv rs1 + im.signExtend 64) &&& ~~~1).toNat % 4 = 0 → ∃ t, exec (.jalr im rs1 rd) s = .next t ∧ s.onlyX t [rd])) ∧
  (∀ (s : State) (ty : BitVec 3) (rs3 rs2 rs1 rd : BitVec 5), ty < 5 → s.noRepeat → s.me.role = .v → s.readable .v rs1.toNat → s.readable .v rs2.toNat →
    s.readable .v rs3.toNat → s.writable .v rd.toNat →
    (∀ i ∈ ([.vadd rs2 rs1 ty rd, .vsub rs2 rs1 ty rd, .vmul rs2 rs1 ty rd, .vmin rs2 rs1 ty rd, .vmax rs2 rs1 ty rd, .vabs rs1 ty rd, .vneg rs1 ty rd, .vcmpeq rs2 rs1 ty rd,
      .vcmplt rs2 rs1 ty rd, .vcmple rs2 rs1 ty rd, .vfma rs3 rs2 rs1 ty rd, .vsel rs3 rs2 rs1 ty rd, .vsel rs3 rs2 rs1 5 rd, .vand rs2 rs1 rd, .vor rs2 rs1 rd, .vxor rs2 rs1 rd,
      .vnot rs1 rd, .vperm rs2 rs1 ty rd] : List Instr), ∃ t, exec i s = .next t ∧ s.onlyRegs t [(.v, rd.toNat)] ∧ t.me.pc = s.me.pc + 4) ∧
    (2 ≤ ty → ∀ i ∈ ([.vsll rs2 rs1 ty rd, .vsrl rs2 rs1 ty rd, .vsra rs2 rs1 ty rd] : List Instr), ∃ t, exec i s = .next t ∧ s.onlyRegs t [(.v, rd.toNat)] ∧ t.me.pc = s.me.pc + 4) ∧
    (s.readable .x rs2.toNat → ∀ i ∈ ([.vbcast rs2 rs1 ty rd, .vslup rs2 rs1 ty rd, .vsldn rs2 rs1 ty rd] : List Instr),
      ∃ t, exec i s = .next t ∧ s.onlyRegs t [(.v, rd.toNat)] ∧ t.me.pc = s.me.pc + 4) ∧
    ∀ (src dst fmt : BitVec 4) (rm : BitVec 3) (sat : BitVec 1), ∀ i ∈ ([.vcvt src rm sat dst rs1 rd, .vqmx rm fmt rs1 rd, .vdqmx fmt rs1 rd] : List Instr),
      ∃ t, exec i s = .next t ∧ s.onlyRegs t [(.v, rd.toNat)] ∧ t.me.pc = s.me.pc + 4)

/-! ## The machine -/

/-- A step in which a slot's turn comes, in a cycle that the core enters or that has come as far as its turn, runs the instruction that the slot's pc
holds: fetched through the range table and the instruction cache, of which it may lie in two lines, decoded, executed, the cycle counted; with nothing
more due in the cycle, the next mover is named (R15, R61, R108, R109, R172). A step whose mover is an event runs that event if the schedule may name
it and no gated site holds it up. An event that is due at a core runs before the core's next cycle, and what fills in a cycle before its turn runs
before it; the core keeps the move. The schedule may name the deadline of a packet whose sender counts cycles of its own: the model's choice (log 40).
The control node's writes and memory errors are moves as well (R56, R90, R114, R147, R331, R378). -/
def Obligations.Steps : Prop :=
  (∀ (s : State) (c : Nat) (e : RangeEntry) (d d' : BitVec 1024) (w : BitVec 32), s.mover = .turn c → s.clocked c = true →
    let s0 := if (s.core c).turnDue then s else s.tick c
    let u := s0.seat c
    let pc := u.me.pc
    ((s.core c).turnDue = false → s.dueEvent c = none) → (s0.core c).dueFill c = none →
    u.handlerDue = false → u.me.underSave = false → u.me.reserved = false → u.me.doneWait = false → u.me.state = .running → u.me.broken = none →
    u.me.busyUntil < u.here.cycle → pc.toNat % 4 = 0 → 2 ^ 20 ≤ pc.toNat → pc.toNat < windowBase →
    u.me.walkOut.filter (fun o => o.va == pc) = none → u.here.rangeFor pc = some e → checkEntry e.slot pc.toNat .x = .ok →
    let a := (wd (rangePA e.slot pc.toNat)).toNat
    let v := (u.modHere (fun k => k.useRange e)).modMe (fun t => { t with fetch := none })
    let held (l : Nat) (x : BitVec 1024) : Prop := u.me.fetch = some (.arrived l x) ∨ ((∀ y, u.me.fetch ≠ some (.arrived l y)) ∧ nget u.here.icache l = some x)
    held (a / 128) d → (a % 128 ≤ 124 → w = d.extractLsb' (8 * (a % 128)) 32) →
    (124 < a % 128 → held (a / 128 + 1) d' ∧ w = (d' ++ d).extractLsb' (8 * (a % 128)) 32) → v.bpHit = none →
    (∀ i t, decodeWord w = .ok i → exec i v = .next t →
      step s = .next ((t.countCycle c).settle c) ∧ ((t.countCycle c).dueEvent c = none → ∃ z, step s = .next z ∧ z.moves = (t.countCycle c).moves + 1 ∧
        z.mover = Config.schedule (t.countCycle c).moves ∧ ∀ j, z.core j = (t.countCycle c).core j)) ∧
    ∀ x, decodeWord w = .error x → step s = .next (((v.trap 2 (w.setWidth 64)).countCycle c).settle c)) ∧
  (∀ s : State, (s.moved.moves = s.moves + 1 ∧ s.moved.mover = Config.schedule s.moves ∧ ∀ c, s.moved.core c = s.core c) ∧
    (∀ i, s.mover = .event i →
      (s.mayHappen i = true → s.gatedOut i = false → ∀ t, exec i s = .next t → step s = .next t.moved) ∧
      (s.mayHappen i = false ∨ s.gatedOut i = true → step s = .next s.moved)) ∧
    (∀ i, s.mayHappen i = true ↔ scheduled i = true ∨ ∃ fid f, i = .noResponse fid ∧ s.findFlight fid = some f ∧ f.src.ownClock = true) ∧
    (∀ c, s.mover = .turn c →
      (s.clocked c = false → step s = .next s.moved) ∧
      (s.clocked c = true →
        ((s.core c).turnDue = false → ∀ i t, s.dueEvent c = some i → exec i s = .next t → step s = .next (t.settle c)) ∧
        ((s.core c).turnDue = true → ∀ i, (s.core c).dueFill c = some i → step s = exec i s) ∧
        ((s.core c).turnDue = false → s.dueEvent c = none → ∀ i, ((s.tick c).core c).dueFill c = some i → step s = exec i (s.tick c)))) ∧
    (∀ d part pa bytes, s.mover = .hostWrite d part pa bytes → step s = .next (s.hostWrite d part pa.toNat bytes).moved) ∧
    ∀ l hard, s.mover = .memError l hard → step s = .next (s.memError l hard).moved)

/-- No step stops the machine: every state has a next one, without a fault and without a refusal. -/
def Obligations.EveryStepGoesOn : Prop := ∀ s : State, s.goesOn

/-- Words of the encoding tables decode to the instructions they stand for (R61 to R70). -/
def Obligations.WordsDecode : Prop :=
  decodeWord 0x02C5C533 = .ok (.div 12 11 10) ∧ decodeWord 0x00E506B3 = .ok (.add 14 10 13) ∧ decodeWord 0x00000073 = .ok .ecall ∧
  decodeWord 0x00100073 = .ok .ebreak ∧ decodeWord 0x1000002B = .ok (.mldStream 0 0) ∧ decodeWord 0x0000102B = .ok (.mzero 0) ∧
  decodeWord 0x0000002A = .error .notFourByte ∧ decodeWord 0x00200073 = .error .row ∧ decodeWord 0x0000007F = .error .opcode

/-- Decoding an encoded instruction gives it back: every legal instruction of every family, with every operand at every value its fields admit, is what
its four bytes decode to, and the bytes after it are left (R61 to R71). -/
def Obligations.DecodeOfEncode : Prop :=
  ∀ (i : Instr) (w : IWord) (rest : List Byte), encode i = some w → i.wf = true → decode (bytesOfWord w ++ rest) = .ok (i, rest)

/-- Every word that decodes has one meaning, and is the word of that meaning: no bit of it is left unread (R63 to R71). -/
def Obligations.EncodeOfDecode : Prop := ∀ (w : IWord) (i : Instr), decodeWord w = .ok i → encode i = some w ∧ i.wf = true

/-- What reset leaves: every site DARK with no clock source, every core with its slots EMPTY, their registers FULL and zero, `wl.pair` naming no core, no
range, no claim; memory reading as zero, nothing in flight (R54, R58, R307, R347; values the manual does not give are the model's, log 5 and 6). At
reset DRAM, the local stores and the L2 are in their canonical form. -/
def Obligations.Reset : Prop :=
  (let s : State := State.reset
  (∀ n, (s.site n).state = .dark ∧ (s.site n).clksrc = 7) ∧
  (∀ c n, (s.slot c n).state = .empty ∧ (s.slot c n).role = .none ∧ (∀ i, (s.slot c n).xr i = ⟨.full, 0⟩) ∧ (s.slot c n).tcause = 0) ∧
  (∀ c, (s.core c).cycle = 0 ∧ (s.core c).pair = 0xFFFFFFFF ∧ (s.core c).ranges = [] ∧ (s.core c).claims = [] ∧ (s.core c).stealBackoff = 64) ∧
  (∀ a, memGet s.dram a = 0) ∧ s.flights = [] ∧ s.up = false ∧ ∀ d q, (s.queue d q).st = .idle) ∧
  (State.reset.memWf)

/-- Every step keeps DRAM, every local store and the L2 in their canonical form, from every state that has it. -/
def Obligations.StepsKeepMemoryCanonical : Prop := ∀ s t : State, s.memWf → step s = .next t → t.memWf
end

