-- ==== Sys2Proof/Laws/Exec.lean ====
section
/-! SUPPORT. The arm of every instruction, one equation per constructor of Instr. -/

namespace Sys2Proof.Machine

theorem exec_lui : ∀ imm rd s, exec (.lui imm rd) s = execLui imm rd s := fun _ _ _ => rfl
theorem exec_auipc : ∀ imm rd s, exec (.auipc imm rd) s = execAuipc imm rd s := fun _ _ _ => rfl
theorem exec_jal : ∀ imm rd s, exec (.jal imm rd) s = execJal imm rd s := fun _ _ _ => rfl
theorem exec_jalr : ∀ imm rs1 rd s, exec (.jalr imm rs1 rd) s = execJalr imm rs1 rd s := fun _ _ _ _ => rfl
theorem exec_beq : ∀ immHi rs2 rs1 immLo s, exec (.beq immHi rs2 rs1 immLo) s = execBeq immHi rs2 rs1 immLo s := fun _ _ _ _ _ => rfl
theorem exec_bne : ∀ immHi rs2 rs1 immLo s, exec (.bne immHi rs2 rs1 immLo) s = execBne immHi rs2 rs1 immLo s := fun _ _ _ _ _ => rfl
theorem exec_blt : ∀ immHi rs2 rs1 immLo s, exec (.blt immHi rs2 rs1 immLo) s = execBlt immHi rs2 rs1 immLo s := fun _ _ _ _ _ => rfl
theorem exec_bge : ∀ immHi rs2 rs1 immLo s, exec (.bge immHi rs2 rs1 immLo) s = execBge immHi rs2 rs1 immLo s := fun _ _ _ _ _ => rfl
theorem exec_bltu : ∀ immHi rs2 rs1 immLo s, exec (.bltu immHi rs2 rs1 immLo) s = execBltu immHi rs2 rs1 immLo s := fun _ _ _ _ _ => rfl
theorem exec_bgeu : ∀ immHi rs2 rs1 immLo s, exec (.bgeu immHi rs2 rs1 immLo) s = execBgeu immHi rs2 rs1 immLo s := fun _ _ _ _ _ => rfl
theorem exec_lb : ∀ imm rs1 rd s, exec (.lb imm rs1 rd) s = execLb imm rs1 rd s := fun _ _ _ _ => rfl
theorem exec_lh : ∀ imm rs1 rd s, exec (.lh imm rs1 rd) s = execLh imm rs1 rd s := fun _ _ _ _ => rfl
theorem exec_lw : ∀ imm rs1 rd s, exec (.lw imm rs1 rd) s = execLw imm rs1 rd s := fun _ _ _ _ => rfl
theorem exec_ld : ∀ imm rs1 rd s, exec (.ld imm rs1 rd) s = execLd imm rs1 rd s := fun _ _ _ _ => rfl
theorem exec_lbu : ∀ imm rs1 rd s, exec (.lbu imm rs1 rd) s = execLbu imm rs1 rd s := fun _ _ _ _ => rfl
theorem exec_lhu : ∀ imm rs1 rd s, exec (.lhu imm rs1 rd) s = execLhu imm rs1 rd s := fun _ _ _ _ => rfl
theorem exec_lwu : ∀ imm rs1 rd s, exec (.lwu imm rs1 rd) s = execLwu imm rs1 rd s := fun _ _ _ _ => rfl
theorem exec_sb : ∀ immHi rs2 rs1 immLo s, exec (.sb immHi rs2 rs1 immLo) s = execSb immHi rs2 rs1 immLo s := fun _ _ _ _ _ => rfl
theorem exec_sh : ∀ immHi rs2 rs1 immLo s, exec (.sh immHi rs2 rs1 immLo) s = execSh immHi rs2 rs1 immLo s := fun _ _ _ _ _ => rfl
theorem exec_sw : ∀ immHi rs2 rs1 immLo s, exec (.sw immHi rs2 rs1 immLo) s = execSw immHi rs2 rs1 immLo s := fun _ _ _ _ _ => rfl
theorem exec_sd : ∀ immHi rs2 rs1 immLo s, exec (.sd immHi rs2 rs1 immLo) s = execSd immHi rs2 rs1 immLo s := fun _ _ _ _ _ => rfl
theorem exec_addi : ∀ imm rs1 rd s, exec (.addi imm rs1 rd) s = execAddi imm rs1 rd s := fun _ _ _ _ => rfl
theorem exec_slti : ∀ imm rs1 rd s, exec (.slti imm rs1 rd) s = execSlti imm rs1 rd s := fun _ _ _ _ => rfl
theorem exec_sltiu : ∀ imm rs1 rd s, exec (.sltiu imm rs1 rd) s = execSltiu imm rs1 rd s := fun _ _ _ _ => rfl
theorem exec_xori : ∀ imm rs1 rd s, exec (.xori imm rs1 rd) s = execXori imm rs1 rd s := fun _ _ _ _ => rfl
theorem exec_ori : ∀ imm rs1 rd s, exec (.ori imm rs1 rd) s = execOri imm rs1 rd s := fun _ _ _ _ => rfl
theorem exec_andi : ∀ imm rs1 rd s, exec (.andi imm rs1 rd) s = execAndi imm rs1 rd s := fun _ _ _ _ => rfl
theorem exec_slli : ∀ shamt rs1 rd s, exec (.slli shamt rs1 rd) s = execSlli shamt rs1 rd s := fun _ _ _ _ => rfl
theorem exec_srli : ∀ shamt rs1 rd s, exec (.srli shamt rs1 rd) s = execSrli shamt rs1 rd s := fun _ _ _ _ => rfl
theorem exec_srai : ∀ shamt rs1 rd s, exec (.srai shamt rs1 rd) s = execSrai shamt rs1 rd s := fun _ _ _ _ => rfl
theorem exec_addiw : ∀ imm rs1 rd s, exec (.addiw imm rs1 rd) s = execAddiw imm rs1 rd s := fun _ _ _ _ => rfl
theorem exec_slliw : ∀ shamt rs1 rd s, exec (.slliw shamt rs1 rd) s = execSlliw shamt rs1 rd s := fun _ _ _ _ => rfl
theorem exec_srliw : ∀ shamt rs1 rd s, exec (.srliw shamt rs1 rd) s = execSrliw shamt rs1 rd s := fun _ _ _ _ => rfl
theorem exec_sraiw : ∀ shamt rs1 rd s, exec (.sraiw shamt rs1 rd) s = execSraiw shamt rs1 rd s := fun _ _ _ _ => rfl
theorem exec_add : ∀ rs2 rs1 rd s, exec (.add rs2 rs1 rd) s = execAdd rs2 rs1 rd s := fun _ _ _ _ => rfl
theorem exec_sub : ∀ rs2 rs1 rd s, exec (.sub rs2 rs1 rd) s = execSub rs2 rs1 rd s := fun _ _ _ _ => rfl
theorem exec_sll : ∀ rs2 rs1 rd s, exec (.sll rs2 rs1 rd) s = execSll rs2 rs1 rd s := fun _ _ _ _ => rfl
theorem exec_slt : ∀ rs2 rs1 rd s, exec (.slt rs2 rs1 rd) s = execSlt rs2 rs1 rd s := fun _ _ _ _ => rfl
theorem exec_sltu : ∀ rs2 rs1 rd s, exec (.sltu rs2 rs1 rd) s = execSltu rs2 rs1 rd s := fun _ _ _ _ => rfl
theorem exec_xor : ∀ rs2 rs1 rd s, exec (.xor rs2 rs1 rd) s = execXor rs2 rs1 rd s := fun _ _ _ _ => rfl
theorem exec_srl : ∀ rs2 rs1 rd s, exec (.srl rs2 rs1 rd) s = execSrl rs2 rs1 rd s := fun _ _ _ _ => rfl
theorem exec_sra : ∀ rs2 rs1 rd s, exec (.sra rs2 rs1 rd) s = execSra rs2 rs1 rd s := fun _ _ _ _ => rfl
theorem exec_or : ∀ rs2 rs1 rd s, exec (.or rs2 rs1 rd) s = execOr rs2 rs1 rd s := fun _ _ _ _ => rfl
theorem exec_and : ∀ rs2 rs1 rd s, exec (.and rs2 rs1 rd) s = execAnd rs2 rs1 rd s := fun _ _ _ _ => rfl
theorem exec_addw : ∀ rs2 rs1 rd s, exec (.addw rs2 rs1 rd) s = execAddw rs2 rs1 rd s := fun _ _ _ _ => rfl
theorem exec_subw : ∀ rs2 rs1 rd s, exec (.subw rs2 rs1 rd) s = execSubw rs2 rs1 rd s := fun _ _ _ _ => rfl
theorem exec_sllw : ∀ rs2 rs1 rd s, exec (.sllw rs2 rs1 rd) s = execSllw rs2 rs1 rd s := fun _ _ _ _ => rfl
theorem exec_srlw : ∀ rs2 rs1 rd s, exec (.srlw rs2 rs1 rd) s = execSrlw rs2 rs1 rd s := fun _ _ _ _ => rfl
theorem exec_sraw : ∀ rs2 rs1 rd s, exec (.sraw rs2 rs1 rd) s = execSraw rs2 rs1 rd s := fun _ _ _ _ => rfl
theorem exec_mul : ∀ rs2 rs1 rd s, exec (.mul rs2 rs1 rd) s = execMul rs2 rs1 rd s := fun _ _ _ _ => rfl
theorem exec_mulh : ∀ rs2 rs1 rd s, exec (.mulh rs2 rs1 rd) s = execMulh rs2 rs1 rd s := fun _ _ _ _ => rfl
theorem exec_mulhsu : ∀ rs2 rs1 rd s, exec (.mulhsu rs2 rs1 rd) s = execMulhsu rs2 rs1 rd s := fun _ _ _ _ => rfl
theorem exec_mulhu : ∀ rs2 rs1 rd s, exec (.mulhu rs2 rs1 rd) s = execMulhu rs2 rs1 rd s := fun _ _ _ _ => rfl
theorem exec_mulw : ∀ rs2 rs1 rd s, exec (.mulw rs2 rs1 rd) s = execMulw rs2 rs1 rd s := fun _ _ _ _ => rfl
theorem exec_div : ∀ rs2 rs1 rd s, exec (.div rs2 rs1 rd) s = execDiv rs2 rs1 rd s := fun _ _ _ _ => rfl
theorem exec_divu : ∀ rs2 rs1 rd s, exec (.divu rs2 rs1 rd) s = execDivu rs2 rs1 rd s := fun _ _ _ _ => rfl
theorem exec_rem : ∀ rs2 rs1 rd s, exec (.rem rs2 rs1 rd) s = execRem rs2 rs1 rd s := fun _ _ _ _ => rfl
theorem exec_remu : ∀ rs2 rs1 rd s, exec (.remu rs2 rs1 rd) s = execRemu rs2 rs1 rd s := fun _ _ _ _ => rfl
theorem exec_divw : ∀ rs2 rs1 rd s, exec (.divw rs2 rs1 rd) s = execDivw rs2 rs1 rd s := fun _ _ _ _ => rfl
theorem exec_divuw : ∀ rs2 rs1 rd s, exec (.divuw rs2 rs1 rd) s = execDivuw rs2 rs1 rd s := fun _ _ _ _ => rfl
theorem exec_remw : ∀ rs2 rs1 rd s, exec (.remw rs2 rs1 rd) s = execRemw rs2 rs1 rd s := fun _ _ _ _ => rfl
theorem exec_remuw : ∀ rs2 rs1 rd s, exec (.remuw rs2 rs1 rd) s = execRemuw rs2 rs1 rd s := fun _ _ _ _ => rfl
theorem exec_fence : ∀ fm pred succ s, exec (.fence fm pred succ) s = execFence fm pred succ s := fun _ _ _ _ => rfl
theorem exec_ecall : ∀ s, exec .ecall s = execEcall s := fun _ => rfl
theorem exec_ebreak : ∀ s, exec .ebreak s = execEbreak s := fun _ => rfl
theorem exec_csrrw : ∀ csr rs1 rd s, exec (.csrrw csr rs1 rd) s = execCsrrw csr rs1 rd s := fun _ _ _ _ => rfl
theorem exec_csrrs : ∀ csr rs1 rd s, exec (.csrrs csr rs1 rd) s = execCsrrs csr rs1 rd s := fun _ _ _ _ => rfl
theorem exec_csrrc : ∀ csr rs1 rd s, exec (.csrrc csr rs1 rd) s = execCsrrc csr rs1 rd s := fun _ _ _ _ => rfl
theorem exec_csrrwi : ∀ csr uimm rd s, exec (.csrrwi csr uimm rd) s = execCsrrwi csr uimm rd s := fun _ _ _ _ => rfl
theorem exec_csrrsi : ∀ csr uimm rd s, exec (.csrrsi csr uimm rd) s = execCsrrsi csr uimm rd s := fun _ _ _ _ => rfl
theorem exec_csrrci : ∀ csr uimm rd s, exec (.csrrci csr uimm rd) s = execCsrrci csr uimm rd s := fun _ _ _ _ => rfl
theorem exec_lr : ∀ aq rl rs1 dbl rd s, exec (.lr aq rl rs1 dbl rd) s = execLr aq rl rs1 dbl rd s := fun _ _ _ _ _ _ => rfl
theorem exec_sc : ∀ aq rl rs2 rs1 dbl rd s, exec (.sc aq rl rs2 rs1 dbl rd) s = execSc aq rl rs2 rs1 dbl rd s := fun _ _ _ _ _ _ _ => rfl
theorem exec_amoswap : ∀ aq rl rs2 rs1 dbl rd s, exec (.amoswap aq rl rs2 rs1 dbl rd) s = execAmoswap aq rl rs2 rs1 dbl rd s := fun _ _ _ _ _ _ _ => rfl
theorem exec_amoadd : ∀ aq rl rs2 rs1 dbl rd s, exec (.amoadd aq rl rs2 rs1 dbl rd) s = execAmoadd aq rl rs2 rs1 dbl rd s := fun _ _ _ _ _ _ _ => rfl
theorem exec_amoxor : ∀ aq rl rs2 rs1 dbl rd s, exec (.amoxor aq rl rs2 rs1 dbl rd) s = execAmoxor aq rl rs2 rs1 dbl rd s := fun _ _ _ _ _ _ _ => rfl
theorem exec_amoand : ∀ aq rl rs2 rs1 dbl rd s, exec (.amoand aq rl rs2 rs1 dbl rd) s = execAmoand aq rl rs2 rs1 dbl rd s := fun _ _ _ _ _ _ _ => rfl
theorem exec_amoor : ∀ aq rl rs2 rs1 dbl rd s, exec (.amoor aq rl rs2 rs1 dbl rd) s = execAmoor aq rl rs2 rs1 dbl rd s := fun _ _ _ _ _ _ _ => rfl
theorem exec_amomin : ∀ aq rl rs2 rs1 dbl rd s, exec (.amomin aq rl rs2 rs1 dbl rd) s = execAmomin aq rl rs2 rs1 dbl rd s := fun _ _ _ _ _ _ _ => rfl
theorem exec_amomax : ∀ aq rl rs2 rs1 dbl rd s, exec (.amomax aq rl rs2 rs1 dbl rd) s = execAmomax aq rl rs2 rs1 dbl rd s := fun _ _ _ _ _ _ _ => rfl
theorem exec_amominu : ∀ aq rl rs2 rs1 dbl rd s, exec (.amominu aq rl rs2 rs1 dbl rd) s = execAmominu aq rl rs2 rs1 dbl rd s := fun _ _ _ _ _ _ _ => rfl
theorem exec_amomaxu : ∀ aq rl rs2 rs1 dbl rd s, exec (.amomaxu aq rl rs2 rs1 dbl rd) s = execAmomaxu aq rl rs2 rs1 dbl rd s := fun _ _ _ _ _ _ _ => rfl
theorem exec_fstat : ∀ file reg rd s, exec (.fstat file reg rd) s = execFstat file reg rd s := fun _ _ _ _ => rfl
theorem exec_mvf : ∀ file reg rd s, exec (.mvf file reg rd) s = execMvf file reg rd s := fun _ _ _ _ => rfl
theorem exec_fwait : ∀ file reg s, exec (.fwait file reg) s = execFwait file reg s := fun _ _ _ => rfl
theorem exec_waitany : ∀ rs1 rd s, exec (.waitany rs1 rd) s = execWaitany rs1 rd s := fun _ _ _ => rfl
theorem exec_fdrop : ∀ file reg s, exec (.fdrop file reg) s = execFdrop file reg s := fun _ _ _ => rfl
theorem exec_fpoison : ∀ file rs1 reg s, exec (.fpoison file rs1 reg) s = execFpoison file rs1 reg s := fun _ _ _ _ => rfl
theorem exec_lacq : ∀ scope rs1 rd s, exec (.lacq scope rs1 rd) s = execLacq scope rs1 rd s := fun _ _ _ _ => rfl
theorem exec_lacqw : ∀ scope rs1 rd s, exec (.lacqw scope rs1 rd) s = execLacqw scope rs1 rd s := fun _ _ _ _ => rfl
theorem exec_srel : ∀ scope rs2 rs1 s, exec (.srel scope rs2 rs1) s = execSrel scope rs2 rs1 s := fun _ _ _ _ => rfl
theorem exec_srelw : ∀ scope rs2 rs1 s, exec (.srelw scope rs2 rs1) s = execSrelw scope rs2 rs1 s := fun _ _ _ _ => rfl
theorem exec_fences : ∀ scope succ pred s, exec (.fences scope succ pred) s = execFences scope succ pred s := fun _ _ _ _ => rfl
theorem exec_owne : ∀ rs1 s, exec (.owne rs1) s = execOwne rs1 s := fun _ _ => rfl
theorem exec_ownt : ∀ rs1 s, exec (.ownt rs1) s = execOwnt rs1 s := fun _ _ => rfl
theorem exec_ownq : ∀ rs1 rd s, exec (.ownq rs1 rd) s = execOwnq rs1 rd s := fun _ _ _ => rfl
theorem exec_binit : ∀ barHi rs1 bar s, exec (.binit barHi rs1 bar) s = execBinit barHi rs1 bar s := fun _ _ _ _ => rfl
theorem exec_barv : ∀ barHi bar s, exec (.barv barHi bar) s = execBarv barHi bar s := fun _ _ _ => rfl
theorem exec_bexp : ∀ barHi rs1 bar s, exec (.bexp barHi rs1 bar) s = execBexp barHi rs1 bar s := fun _ _ _ _ => rfl
theorem exec_bwait : ∀ barHi rd phase bar s, exec (.bwait barHi rd phase bar) s = execBwait barHi rd phase bar s := fun _ _ _ _ _ => rfl
theorem exec_bquery : ∀ barHi rd bar s, exec (.bquery barHi rd bar) s = execBquery barHi rd bar s := fun _ _ _ _ => rfl
theorem exec_qpush : ∀ rs2 q s, exec (.qpush rs2 q) s = execQpush rs2 q s := fun _ _ _ => rfl
theorem exec_qpop : ∀ q rd s, exec (.qpop q rd) s = execQpop q rd s := fun _ _ _ => rfl
theorem exec_qlen : ∀ q rd s, exec (.qlen q rd) s = execQlen q rd s := fun _ _ _ => rfl
theorem exec_block : ∀ rs1 s, exec (.block rs1) s = execBlock rs1 s := fun _ _ => rfl
theorem exec_bunlock : ∀ rs1 s, exec (.bunlock rs1) s = execBunlock rs1 s := fun _ _ => rfl
theorem exec_mldAddr : ∀ rs1 md s, exec (.mldAddr rs1 md) s = execMldAddr rs1 md s := fun _ _ _ => rfl
theorem exec_mldStream : ∀ as md s, exec (.mldStream as md) s = execMldStream as md s := fun _ _ _ => rfl
theorem exec_mstAddr : ∀ rm sat fmt rs1 cs s, exec (.mstAddr rm sat fmt rs1 cs) s = execMstAddr rm sat fmt rs1 cs s := fun _ _ _ _ _ _ => rfl
theorem exec_mstStream : ∀ rm sat fmt as cs s, exec (.mstStream rm sat fmt as cs) s = execMstStream rm sat fmt as cs s := fun _ _ _ _ _ _ => rfl
theorem exec_mzero : ∀ cd s, exec (.mzero cd) s = execMzero cd s := fun _ _ => rfl
theorem exec_mmovv : ∀ rm cs md s, exec (.mmovv rm cs md) s = execMmovv rm cs md s := fun _ _ _ _ => rfl
theorem exec_mdot : ∀ mb ma cd s, exec (.mdot mb ma cd) s = execMdot mb ma cd s := fun _ _ _ _ => rfl
theorem exec_mdots : ∀ mb ma cd s, exec (.mdots mb ma cd) s = execMdots mb ma cd s := fun _ _ _ _ => rfl
theorem exec_asset : ∀ field rs1 as s, exec (.asset field rs1 as) s = execAsset field rs1 as s := fun _ _ _ _ => rfl
theorem exec_rpt : ∀ lenm1 rs1 s, exec (.rpt lenm1 rs1) s = execRpt lenm1 rs1 s := fun _ _ _ => rfl
theorem exec_cpw : ∀ ch idx rs1 s, exec (.cpw ch idx rs1) s = execCpw ch idx rs1 s := fun _ _ _ _ => rfl
theorem exec_cpr : ∀ ch idx rd s, exec (.cpr ch idx rd) s = execCpr ch idx rd s := fun _ _ _ _ => rfl
theorem exec_cpgo : ∀ ch rd s, exec (.cpgo ch rd) s = execCpgo ch rd s := fun _ _ _ => rfl
theorem exec_cpcancel : ∀ ch s, exec (.cpcancel ch) s = execCpcancel ch s := fun _ _ => rfl
theorem exec_mcfree : ∀ rs1 s, exec (.mcfree rs1) s = execMcfree rs1 s := fun _ _ => rfl
theorem exec_tdisc : ∀ scope rs1 rd s, exec (.tdisc scope rs1 rd) s = execTdisc scope rs1 rd s := fun _ _ _ _ => rfl
theorem exec_lpin : ∀ rs2 rs1 s, exec (.lpin rs2 rs1) s = execLpin rs2 rs1 s := fun _ _ _ => rfl
theorem exec_lunpin : ∀ rs2 rs1 s, exec (.lunpin rs2 rs1) s = execLunpin rs2 rs1 s := fun _ _ _ => rfl
theorem exec_rprobe : ∀ rs1 rd s, exec (.rprobe rs1 rd) s = execRprobe rs1 rd s := fun _ _ _ => rfl
theorem exec_rloadt : ∀ rs1 rd s, exec (.rloadt rs1 rd) s = execRloadt rs1 rd s := fun _ _ _ => rfl
theorem exec_rsplit : ∀ rs2 rs1 rd s, exec (.rsplit rs2 rs1 rd) s = execRsplit rs2 rs1 rd s := fun _ _ _ _ => rfl
theorem exec_rmerge : ∀ rs1 rd s, exec (.rmerge rs1 rd) s = execRmerge rs1 rd s := fun _ _ _ => rfl
theorem exec_rsetres : ∀ rs2 rs1 s, exec (.rsetres rs2 rs1) s = execRsetres rs2 rs1 s := fun _ _ _ => rfl
theorem exec_rclrres : ∀ rs2 rs1 s, exec (.rclrres rs2 rs1) s = execRclrres rs2 rs1 s := fun _ _ _ => rfl
theorem exec_rinv : ∀ scope rs2 rs1 rd s, exec (.rinv scope rs2 rs1 rd) s = execRinv scope rs2 rs1 rd s := fun _ _ _ _ _ => rfl
theorem exec_rglean : ∀ rs2 rs1 rd s, exec (.rglean rs2 rs1 rd) s = execRglean rs2 rs1 rd s := fun _ _ _ _ => rfl
theorem exec_vadd : ∀ rs2 rs1 ty rd s, exec (.vadd rs2 rs1 ty rd) s = execVadd rs2 rs1 ty rd s := fun _ _ _ _ _ => rfl
theorem exec_vsub : ∀ rs2 rs1 ty rd s, exec (.vsub rs2 rs1 ty rd) s = execVsub rs2 rs1 ty rd s := fun _ _ _ _ _ => rfl
theorem exec_vmul : ∀ rs2 rs1 ty rd s, exec (.vmul rs2 rs1 ty rd) s = execVmul rs2 rs1 ty rd s := fun _ _ _ _ _ => rfl
theorem exec_vmin : ∀ rs2 rs1 ty rd s, exec (.vmin rs2 rs1 ty rd) s = execVmin rs2 rs1 ty rd s := fun _ _ _ _ _ => rfl
theorem exec_vmax : ∀ rs2 rs1 ty rd s, exec (.vmax rs2 rs1 ty rd) s = execVmax rs2 rs1 ty rd s := fun _ _ _ _ _ => rfl
theorem exec_vabs : ∀ rs1 ty rd s, exec (.vabs rs1 ty rd) s = execVabs rs1 ty rd s := fun _ _ _ _ => rfl
theorem exec_vneg : ∀ rs1 ty rd s, exec (.vneg rs1 ty rd) s = execVneg rs1 ty rd s := fun _ _ _ _ => rfl
theorem exec_vcmpeq : ∀ rs2 rs1 ty rd s, exec (.vcmpeq rs2 rs1 ty rd) s = execVcmpeq rs2 rs1 ty rd s := fun _ _ _ _ _ => rfl
theorem exec_vcmplt : ∀ rs2 rs1 ty rd s, exec (.vcmplt rs2 rs1 ty rd) s = execVcmplt rs2 rs1 ty rd s := fun _ _ _ _ _ => rfl
theorem exec_vcmple : ∀ rs2 rs1 ty rd s, exec (.vcmple rs2 rs1 ty rd) s = execVcmple rs2 rs1 ty rd s := fun _ _ _ _ _ => rfl
theorem exec_vand : ∀ rs2 rs1 rd s, exec (.vand rs2 rs1 rd) s = execVand rs2 rs1 rd s := fun _ _ _ _ => rfl
theorem exec_vor : ∀ rs2 rs1 rd s, exec (.vor rs2 rs1 rd) s = execVor rs2 rs1 rd s := fun _ _ _ _ => rfl
theorem exec_vxor : ∀ rs2 rs1 rd s, exec (.vxor rs2 rs1 rd) s = execVxor rs2 rs1 rd s := fun _ _ _ _ => rfl
theorem exec_vnot : ∀ rs1 rd s, exec (.vnot rs1 rd) s = execVnot rs1 rd s := fun _ _ _ => rfl
theorem exec_vsll : ∀ rs2 rs1 ty rd s, exec (.vsll rs2 rs1 ty rd) s = execVsll rs2 rs1 ty rd s := fun _ _ _ _ _ => rfl
theorem exec_vsrl : ∀ rs2 rs1 ty rd s, exec (.vsrl rs2 rs1 ty rd) s = execVsrl rs2 rs1 ty rd s := fun _ _ _ _ _ => rfl
theorem exec_vsra : ∀ rs2 rs1 ty rd s, exec (.vsra rs2 rs1 ty rd) s = execVsra rs2 rs1 ty rd s := fun _ _ _ _ _ => rfl
theorem exec_vexp2 : ∀ rs1 ty rd s, exec (.vexp2 rs1 ty rd) s = execVexp2 rs1 ty rd s := fun _ _ _ _ => rfl
theorem exec_vlog2 : ∀ rs1 ty rd s, exec (.vlog2 rs1 ty rd) s = execVlog2 rs1 ty rd s := fun _ _ _ _ => rfl
theorem exec_vrcp : ∀ rs1 ty rd s, exec (.vrcp rs1 ty rd) s = execVrcp rs1 ty rd s := fun _ _ _ _ => rfl
theorem exec_vrsq : ∀ rs1 ty rd s, exec (.vrsq rs1 ty rd) s = execVrsq rs1 ty rd s := fun _ _ _ _ => rfl
theorem exec_vredsum : ∀ rs1 ty rd s, exec (.vredsum rs1 ty rd) s = execVredsum rs1 ty rd s := fun _ _ _ _ => rfl
theorem exec_vredmax : ∀ rs1 ty rd s, exec (.vredmax rs1 ty rd) s = execVredmax rs1 ty rd s := fun _ _ _ _ => rfl
theorem exec_vredmin : ∀ rs1 ty rd s, exec (.vredmin rs1 ty rd) s = execVredmin rs1 ty rd s := fun _ _ _ _ => rfl
theorem exec_vld : ∀ rs1 rd s, exec (.vld rs1 rd) s = execVld rs1 rd s := fun _ _ _ => rfl
theorem exec_vst : ∀ rs1 rd s, exec (.vst rs1 rd) s = execVst rs1 rd s := fun _ _ _ => rfl
theorem exec_vlds : ∀ rs2 rs1 rd s, exec (.vlds rs2 rs1 rd) s = execVlds rs2 rs1 rd s := fun _ _ _ _ => rfl
theorem exec_vsts : ∀ rs2 rs1 rd s, exec (.vsts rs2 rs1 rd) s = execVsts rs2 rs1 rd s := fun _ _ _ _ => rfl
theorem exec_vgath : ∀ rs2 rs1 ty rd s, exec (.vgath rs2 rs1 ty rd) s = execVgath rs2 rs1 ty rd s := fun _ _ _ _ _ => rfl
theorem exec_vscat : ∀ rs2 rs1 ty rd s, exec (.vscat rs2 rs1 ty rd) s = execVscat rs2 rs1 ty rd s := fun _ _ _ _ _ => rfl
theorem exec_vperm : ∀ rs2 rs1 ty rd s, exec (.vperm rs2 rs1 ty rd) s = execVperm rs2 rs1 ty rd s := fun _ _ _ _ _ => rfl
theorem exec_vbcast : ∀ rs2 rs1 ty rd s, exec (.vbcast rs2 rs1 ty rd) s = execVbcast rs2 rs1 ty rd s := fun _ _ _ _ _ => rfl
theorem exec_vslup : ∀ rs2 rs1 ty rd s, exec (.vslup rs2 rs1 ty rd) s = execVslup rs2 rs1 ty rd s := fun _ _ _ _ _ => rfl
theorem exec_vsldn : ∀ rs2 rs1 ty rd s, exec (.vsldn rs2 rs1 ty rd) s = execVsldn rs2 rs1 ty rd s := fun _ _ _ _ _ => rfl
theorem exec_vsplat : ∀ rs1 ty rd s, exec (.vsplat rs1 ty rd) s = execVsplat rs1 ty rd s := fun _ _ _ _ => rfl
theorem exec_vins : ∀ rs2 rs1 ty rd s, exec (.vins rs2 rs1 ty rd) s = execVins rs2 rs1 ty rd s := fun _ _ _ _ _ => rfl
theorem exec_vext : ∀ rs2 rs1 ty rd s, exec (.vext rs2 rs1 ty rd) s = execVext rs2 rs1 ty rd s := fun _ _ _ _ _ => rfl
theorem exec_vfma : ∀ rs3 rs2 rs1 ty rd s, exec (.vfma rs3 rs2 rs1 ty rd) s = execVfma rs3 rs2 rs1 ty rd s := fun _ _ _ _ _ _ => rfl
theorem exec_vsel : ∀ rs3 rs2 rs1 ty rd s, exec (.vsel rs3 rs2 rs1 ty rd) s = execVsel rs3 rs2 rs1 ty rd s := fun _ _ _ _ _ _ => rfl
theorem exec_vcvt : ∀ src rm sat dst vs1 vd s, exec (.vcvt src rm sat dst vs1 vd) s = execVcvt src rm sat dst vs1 vd s := fun _ _ _ _ _ _ _ => rfl
theorem exec_vqmx : ∀ rm fmt vs1 vd s, exec (.vqmx rm fmt vs1 vd) s = execVqmx rm fmt vs1 vd s := fun _ _ _ _ _ => rfl
theorem exec_vdqmx : ∀ fmt vs1 vd s, exec (.vdqmx fmt vs1 vd) s = execVdqmx fmt vs1 vd s := fun _ _ _ _ => rfl
theorem exec_spawn : ∀ rs1 rd s, exec (.spawn rs1 rd) s = execSpawn rs1 rd s := fun _ _ _ => rfl
theorem exec_done : ∀ s, exec .done s = execDone s := fun _ => rfl
theorem exec_yield : ∀ s, exec .yield s = execYield s := fun _ => rfl
theorem exec_send : ∀ rs2 rs1 rd s, exec (.send rs2 rs1 rd) s = execSend rs2 rs1 rd s := fun _ _ _ _ => rfl
theorem exec_sendt : ∀ rs2 rs1 rd s, exec (.sendt rs2 rs1 rd) s = execSendt rs2 rs1 rd s := fun _ _ _ _ => rfl
theorem exec_recvf : ∀ rd s, exec (.recvf rd) s = execRecvf rd s := fun _ _ => rfl
theorem exec_timerf : ∀ rs1 rd s, exec (.timerf rs1 rd) s = execTimerf rs1 rd s := fun _ _ _ => rfl
theorem exec_specb : ∀ s, exec .specb s = execSpecb s := fun _ => rfl
theorem exec_specc : ∀ s, exec .specc s = execSpecc s := fun _ => rfl
theorem exec_speca : ∀ s, exec .speca s = execSpeca s := fun _ => rfl
theorem exec_bget : ∀ nHi nLo rd s, exec (.bget nHi nLo rd) s = execBget nHi nLo rd s := fun _ _ _ _ => rfl
theorem exec_bpeek : ∀ nHi nLo rd s, exec (.bpeek nHi nLo rd) s = execBpeek nHi nLo rd s := fun _ _ _ _ => rfl
theorem exec_bskip : ∀ nHi nLo s, exec (.bskip nHi nLo) s = execBskip nHi nLo s := fun _ _ _ => rfl
theorem exec_bsopen : ∀ order rs2 rs1 s, exec (.bsopen order rs2 rs1) s = execBsopen order rs2 rs1 s := fun _ _ _ _ => rfl
theorem exec_balign : ∀ s, exec .balign s = execBalign s := fun _ => rfl
theorem exec_blzc : ∀ rs2 rs1 rd s, exec (.blzc rs2 rs1 rd) s = execBlzc rs2 rs1 rd s := fun _ _ _ _ => rfl
theorem exec_tresume : ∀ rs1 s, exec (.tresume rs1) s = execTresume rs1 s := fun _ _ => rfl
theorem exec_tkill : ∀ rs1 s, exec (.tkill rs1) s = execTkill rs1 s := fun _ _ => rfl
theorem exec_swapctx : ∀ rs2 rs1 rd s, exec (.swapctx rs2 rs1 rd) s = execSwapctx rs2 rs1 rd s := fun _ _ _ _ => rfl
theorem exec_loadctx : ∀ rs2 rs1 rd s, exec (.loadctx rs2 rs1 rd) s = execLoadctx rs2 rs1 rd s := fun _ _ _ _ => rfl
theorem exec_hdone : ∀ s, exec .hdone s = execHdone s := fun _ => rfl
theorem exec_rtrd : ∀ rs1 rd s, exec (.rtrd rs1 rd) s = execRtrd rs1 rd s := fun _ _ _ => rfl
theorem exec_rtwr : ∀ rs2 rs1 s, exec (.rtwr rs2 rs1) s = execRtwr rs2 rs1 s := fun _ _ _ => rfl
theorem exec_parkLimit : ∀ core slot s, exec (.parkLimit core slot) s = execParkLimit core slot s := fun _ _ _ => rfl
theorem exec_icacheFill : ∀ fid s, exec (.icacheFill fid) s = execIcacheFill fid s := fun _ _ => rfl
theorem exec_claimDelivery : ∀ core claim s, exec (.claimDelivery core claim) s = execClaimDelivery core claim s := fun _ _ _ => rfl
theorem exec_divideComplete : ∀ core op s, exec (.divideComplete core op) s = execDivideComplete core op s := fun _ _ _ => rfl
theorem exec_vectorStageEnter : ∀ core s, exec (.vectorStageEnter core) s = execVectorStageEnter core s := fun _ _ => rfl
theorem exec_vectorLongComplete : ∀ core s, exec (.vectorLongComplete core) s = execVectorLongComplete core s := fun _ _ => rfl
theorem exec_storeBufferSend : ∀ core s, exec (.storeBufferSend core) s = execStoreBufferSend core s := fun _ _ => rfl
theorem exec_accessHoldRelease : ∀ core access s, exec (.accessHoldRelease core access) s = execAccessHoldRelease core access s := fun _ _ _ => rfl
theorem exec_homeLoad : ∀ fid s, exec (.homeLoad fid) s = execHomeLoad fid s := fun _ _ => rfl
theorem exec_homeStore : ∀ fid s, exec (.homeStore fid) s = execHomeStore fid s := fun _ _ => rfl
theorem exec_homeAmo : ∀ fid s, exec (.homeAmo fid) s = execHomeAmo fid s := fun _ _ => rfl
theorem exec_storeFail : ∀ fid s, exec (.storeFail fid) s = execStoreFail fid s := fun _ _ => rfl
theorem exec_transferPerform : ∀ core s, exec (.transferPerform core) s = execTransferPerform core s := fun _ _ => rfl
theorem exec_mdotComplete : ∀ core s, exec (.mdotComplete core) s = execMdotComplete core s := fun _ _ => rfl
theorem exec_blzcGroup : ∀ core s, exec (.blzcGroup core) s = execBlzcGroup core s := fun _ _ => rfl
theorem exec_lockBreak : ∀ core bank s, exec (.lockBreak core bank) s = execLockBreak core bank s := fun _ _ _ => rfl
theorem exec_walk : ∀ fid s, exec (.walk fid) s = execWalk fid s := fun _ _ => rfl
theorem exec_walkFill : ∀ fid s, exec (.walkFill fid) s = execWalkFill fid s := fun _ _ => rfl
theorem exec_rinvAck : ∀ fid s, exec (.rinvAck fid) s = execRinvAck fid s := fun _ _ => rfl
theorem exec_gleanUnit : ∀ move s, exec (.gleanUnit move) s = execGleanUnit move s := fun _ _ => rfl
theorem exec_gleanFinish : ∀ move s, exec (.gleanFinish move) s = execGleanFinish move s := fun _ _ => rfl
theorem exec_copy : ∀ core ch seg s, exec (.copy core ch seg) s = execCopy core ch seg s := fun _ _ _ _ => rfl
theorem exec_redadd : ∀ core ch seg s, exec (.redadd core ch seg) s = execRedadd core ch seg s := fun _ _ _ _ => rfl
theorem exec_qf8 : ∀ core ch seg s, exec (.qf8 core ch seg) s = execQf8 core ch seg s := fun _ _ _ _ => rfl
theorem exec_mxq : ∀ core ch seg s, exec (.mxq core ch seg) s = execMxq core ch seg s := fun _ _ _ _ => rfl
theorem exec_mcast : ∀ core ch seg s, exec (.mcast core ch seg) s = execMcast core ch seg s := fun _ _ _ _ => rfl
theorem exec_copyEnd : ∀ core ch s, exec (.copyEnd core ch) s = execCopyEnd core ch s := fun _ _ _ => rfl
theorem exec_channelResume : ∀ fid s, exec (.channelResume fid) s = execChannelResume fid s := fun _ _ => rfl
theorem exec_channelAbort : ∀ fid s, exec (.channelAbort fid) s = execChannelAbort fid s := fun _ _ => rfl
theorem exec_inboundSegment : ∀ fid s, exec (.inboundSegment fid) s = execInboundSegment fid s := fun _ _ => rfl
theorem exec_mcastReceive : ∀ fid s, exec (.mcastReceive fid) s = execMcastReceive fid s := fun _ _ => rfl
theorem exec_remoteBarrierEvent : ∀ fid s, exec (.remoteBarrierEvent fid) s = execRemoteBarrierEvent fid s := fun _ _ => rfl
theorem exec_bufferFree : ∀ fid s, exec (.bufferFree fid) s = execBufferFree fid s := fun _ _ => rfl
theorem exec_rmaSegmentSend : ∀ chip rmod s, exec (.rmaSegmentSend chip rmod) s = execRmaSegmentSend chip rmod s := fun _ _ _ => rfl
theorem exec_data : ∀ chip rmod ce red seq floor pa bytes s, exec (.data chip rmod ce red seq floor pa bytes) s = execData chip rmod ce red seq floor pa bytes s := fun _ _ _ _ _ _ _ _ _ => rfl
theorem exec_ack : ∀ chip rmod seq cumE ece s, exec (.ack chip rmod seq cumE ece) s = execAck chip rmod seq cumE ece s := fun _ _ _ _ _ _ => rfl
theorem exec_nackBudget : ∀ chip rmod seq cumE ece s, exec (.nackBudget chip rmod seq cumE ece) s = execNackBudget chip rmod seq cumE ece s := fun _ _ _ _ _ _ => rfl
theorem exec_nackRefused : ∀ chip rmod seq cumE ece s, exec (.nackRefused chip rmod seq cumE ece) s = execNackRefused chip rmod seq cumE ece s := fun _ _ _ _ _ _ => rfl
theorem exec_rmaTimer : ∀ chip rmod seq s, exec (.rmaTimer chip rmod seq) s = execRmaTimer chip rmod seq s := fun _ _ _ _ => rfl
theorem exec_routerForward : ∀ fid s, exec (.routerForward fid) s = execRouterForward fid s := fun _ _ => rfl
theorem exec_whereProbe : ∀ site name s, exec (.whereProbe site name) s = execWhereProbe site name s := fun _ _ _ => rfl
theorem exec_whereReflood : ∀ site name s, exec (.whereReflood site name) s = execWhereReflood site name s := fun _ _ _ => rfl
theorem exec_hereReply : ∀ site name s, exec (.hereReply site name) s = execHereReply site name s := fun _ _ _ => rfl
theorem exec_unknownName : ∀ fid s, exec (.unknownName fid) s = execUnknownName fid s := fun _ _ => rfl
theorem exec_blocked : ∀ fid s, exec (.blocked fid) s = execBlocked fid s := fun _ _ => rfl
theorem exec_moved : ∀ fid s, exec (.moved fid) s = execMoved fid s := fun _ _ => rfl
theorem exec_errorResponse : ∀ fid s, exec (.errorResponse fid) s = execErrorResponse fid s := fun _ _ => rfl
theorem exec_greeting : ∀ site dir xyOk yxOk s, exec (.greeting site dir xyOk yxOk) s = execGreeting site dir xyOk yxOk s := fun _ _ _ _ _ => rfl
theorem exec_linkTimeout : ∀ site dir cut s, exec (.linkTimeout site dir cut) s = execLinkTimeout site dir cut s := fun _ _ _ _ => rfl
theorem exec_noResponse : ∀ fid s, exec (.noResponse fid) s = execNoResponse fid s := fun _ _ => rfl
theorem exec_budgetPeriod : ∀ edge unit s, exec (.budgetPeriod edge unit) s = execBudgetPeriod edge unit s := fun _ _ _ => rfl
theorem exec_bringUp : ∀ s, exec .bringUp s = execBringUp s := fun _ => rfl
theorem exec_clockLock : ∀ site dramGood computeGood s, exec (.clockLock site dramGood computeGood) s = execClockLock site dramGood computeGood s := fun _ _ _ _ => rfl
theorem exec_siteGreeted : ∀ site s, exec (.siteGreeted site) s = execSiteGreeted site s := fun _ _ => rfl
theorem exec_greetTimeout : ∀ site s, exec (.greetTimeout site) s = execGreetTimeout site s := fun _ _ => rfl
theorem exec_selfTestFail : ∀ site s, exec (.selfTestFail site) s = execSelfTestFail site s := fun _ _ => rfl
theorem exec_configRecord : ∀ site proc name part rect regionW regionH remap pins s, exec (.configRecord site proc name part rect regionW regionH remap pins) s = execConfigRecord site proc name part rect regionW regionH remap pins s := fun _ _ _ _ _ _ _ _ _ _ => rfl
theorem exec_configCommit : ∀ site s, exec (.configCommit site) s = execConfigCommit site s := fun _ _ => rfl
theorem exec_sitePacket : ∀ fid s, exec (.sitePacket fid) s = execSitePacket fid s := fun _ _ => rfl
theorem exec_jobEnd : ∀ site s, exec (.jobEnd site) s = execJobEnd site s := fun _ _ => rfl
theorem exec_baseDieError : ∀ site s, exec (.baseDieError site) s = execBaseDieError site s := fun _ _ => rfl
theorem exec_clockSwitch : ∀ site s, exec (.clockSwitch site) s = execClockSwitch site s := fun _ _ => rfl
theorem exec_relockDone : ∀ site s, exec (.relockDone site) s = execRelockDone site s := fun _ _ => rfl
theorem exec_dispatch : ∀ core s, exec (.dispatch core) s = execDispatch core s := fun _ _ => rfl
theorem exec_sendLanding : ∀ fid s, exec (.sendLanding fid) s = execSendLanding fid s := fun _ _ => rfl
theorem exec_sendtLanding : ∀ fid s, exec (.sendtLanding fid) s = execSendtLanding fid s := fun _ _ => rfl
theorem exec_idleSteal : ∀ core s, exec (.idleSteal core) s = execIdleSteal core s := fun _ _ => rfl
theorem exec_stealRequest : ∀ fid s, exec (.stealRequest fid) s = execStealRequest fid s := fun _ _ => rfl
theorem exec_stealAnswer : ∀ fid s, exec (.stealAnswer fid) s = execStealAnswer fid s := fun _ _ => rfl
theorem exec_stealBackoff : ∀ core s, exec (.stealBackoff core) s = execStealBackoff core s := fun _ _ => rfl
theorem exec_timerExpiry : ∀ core claim s, exec (.timerExpiry core claim) s = execTimerExpiry core claim s := fun _ _ _ => rfl
theorem exec_notification : ∀ fid s, exec (.notification fid) s = execNotification fid s := fun _ _ => rfl
theorem exec_noteRetry : ∀ fid s, exec (.noteRetry fid) s = execNoteRetry fid s := fun _ _ => rfl
theorem exec_handlerEntry : ∀ core s, exec (.handlerEntry core) s = execHandlerEntry core s := fun _ _ => rfl
theorem exec_tresumeApply : ∀ fid s, exec (.tresumeApply fid) s = execTresumeApply fid s := fun _ _ => rfl
theorem exec_tkillApply : ∀ fid s, exec (.tkillApply fid) s = execTkillApply fid s := fun _ _ => rfl
theorem exec_windowWrite : ∀ fid s, exec (.windowWrite fid) s = execWindowWrite fid s := fun _ _ => rfl
theorem exec_saveCapture : ∀ core s, exec (.saveCapture core) s = execSaveCapture core s := fun _ _ => rfl
theorem exec_imageWriteDone : ∀ core s, exec (.imageWriteDone core) s = execImageWriteDone core s := fun _ _ => rfl
theorem exec_restoreApply : ∀ core s, exec (.restoreApply core) s = execRestoreApply core s := fun _ _ => rfl
theorem exec_regwrite : ∀ proc unit part off value s, exec (.regwrite proc unit part off value) s = execRegwrite proc unit part off value s := fun _ _ _ _ _ _ => rfl
theorem exec_regread : ∀ proc unit part off s, exec (.regread proc unit part off) s = execRegread proc unit part off s := fun _ _ _ _ _ => rfl
theorem exec_queueDoorbell : ∀ proc queue wr s, exec (.queueDoorbell proc queue wr) s = execQueueDoorbell proc queue wr s := fun _ _ _ _ => rfl
theorem exec_queueRestart : ∀ proc queue s, exec (.queueRestart proc queue) s = execQueueRestart proc queue s := fun _ _ _ => rfl
theorem exec_peerEntryWrite : ∀ chip rmod value s, exec (.peerEntryWrite chip rmod value) s = execPeerEntryWrite chip rmod value s := fun _ _ _ _ => rfl
theorem exec_routeEntryWrite : ∀ fid s, exec (.routeEntryWrite fid) s = execRouteEntryWrite fid s := fun _ _ => rfl
theorem exec_physSelectWrite : ∀ fid s, exec (.physSelectWrite fid) s = execPhysSelectWrite fid s := fun _ _ => rfl
theorem exec_load : ∀ proc part pa dirs s, exec (.load proc part pa dirs) s = execLoad proc part pa dirs s := fun _ _ _ _ _ => rfl
theorem exec_unload : ∀ proc part names s, exec (.unload proc part names) s = execUnload proc part names s := fun _ _ _ _ => rfl
theorem exec_siteFence : ∀ site s, exec (.siteFence site) s = execSiteFence site s := fun _ _ => rfl
theorem exec_siteReset : ∀ site s, exec (.siteReset site) s = execSiteReset site s := fun _ _ => rfl
theorem exec_siteRetire : ∀ site s, exec (.siteRetire site) s = execSiteRetire site s := fun _ _ => rfl
theorem exec_slotResume : ∀ core slot s, exec (.slotResume core slot) s = execSlotResume core slot s := fun _ _ _ => rfl
theorem exec_processorResume : ∀ proc s, exec (.processorResume proc) s = execProcessorResume proc s := fun _ _ => rfl
theorem exec_attest : ∀ proc nonce s, exec (.attest proc nonce) s = execAttest proc nonce s := fun _ _ _ => rfl
theorem exec_nop : ∀ proc queue s, exec (.nop proc queue) s = execNop proc queue s := fun _ _ _ => rfl
theorem exec_launch : ∀ proc queue s, exec (.launch proc queue) s = execLaunch proc queue s := fun _ _ _ => rfl
theorem exec_launchStart : ∀ proc queue s, exec (.launchStart proc queue) s = execLaunchStart proc queue s := fun _ _ _ => rfl
theorem exec_launchComplete : ∀ proc work s, exec (.launchComplete proc work) s = execLaunchComplete proc work s := fun _ _ _ => rfl
theorem exec_queueCopy : ∀ proc queue s, exec (.queueCopy proc queue) s = execQueueCopy proc queue s := fun _ _ _ => rfl
theorem exec_queueCopyComplete : ∀ proc work s, exec (.queueCopyComplete proc work) s = execQueueCopyComplete proc work s := fun _ _ _ => rfl
theorem exec_waitge : ∀ proc queue s, exec (.waitge proc queue) s = execWaitge proc queue s := fun _ _ _ => rfl
theorem exec_semaphoreReport : ∀ proc s, exec (.semaphoreReport proc) s = execSemaphoreReport proc s := fun _ _ => rfl
theorem exec_waitgeTimeout : ∀ proc queue s, exec (.waitgeTimeout proc queue) s = execWaitgeTimeout proc queue s := fun _ _ _ => rfl
theorem exec_signal : ∀ proc queue s, exec (.signal proc queue) s = execSignal proc queue s := fun _ _ _ => rfl
theorem exec_interrupt : ∀ proc queue s, exec (.interrupt proc queue) s = execInterrupt proc queue s := fun _ _ _ => rfl
theorem exec_queueFence : ∀ proc queue s, exec (.queueFence proc queue) s = execQueueFence proc queue s := fun _ _ _ => rfl
theorem exec_jump : ∀ proc queue s, exec (.jump proc queue) s = execJump proc queue s := fun _ _ _ => rfl
theorem exec_mark : ∀ proc queue s, exec (.mark proc queue) s = execMark proc queue s := fun _ _ _ => rfl
theorem exec_illegalWord : ∀ word s, exec (.illegalWord word) s = execIllegalWord word s := fun _ _ => rfl
theorem exec_directoryUpdate : ∀ fid s, exec (.directoryUpdate fid) s = execDirectoryUpdate fid s := fun _ _ => rfl
theorem exec_cacheControlRequest : ∀ fid s, exec (.cacheControlRequest fid) s = execCacheControlRequest fid s := fun _ _ => rfl
theorem exec_homeBitClear : ∀ router retired s, exec (.homeBitClear router retired) s = execHomeBitClear router retired s := fun _ _ _ => rfl
theorem exec_powerLoss : ∀ s, exec .powerLoss s = execPowerLoss s := fun _ => rfl

end Sys2Proof.Machine
end

