-- ==== Sys2Proof/Laws/Tables.lean ====
section
/-! SUPPORT. Tables by number and memories: reading after a write, and the canonical form that every memory operation keeps. -/

namespace Sys2Proof.Machine

/-! ## Tables by number -/

@[simp] theorem nget_nil {α : Type} (k : Nat) : nget ([] : NMap α) k = none := rfl

theorem nget_nput {α : Type} (m : NMap α) (k : Nat) (v : α) (j : Nat) : nget (nput m k v) j = if j = k then some v else nget m j := by
  induction m with
  | nil => by_cases h : j = k <;> simp [nput, nget, h]; omega
  | cons p t ih =>
    obtain ⟨a, u⟩ := p
    simp only [nput]
    split
    · next h => subst h; by_cases hj : a = j <;> simp [nget, hj]; omega
    · split
      · by_cases hj : k = j <;> simp [nget, hj]; omega
      · simp only [nget, ih]; by_cases hj : a = j <;> simp [hj]; omega

@[simp] theorem nget_nput_self {α : Type} (m : NMap α) (k : Nat) (v : α) : nget (nput m k v) k = some v := by simp [nget_nput]

theorem nget_nput_ne {α : Type} (m : NMap α) {k j : Nat} (v : α) (h : j ≠ k) : nget (nput m k v) j = nget m j := by simp [nget_nput, h]

theorem nget_ndel {α : Type} (m : NMap α) (k j : Nat) : nget (ndel m k) j = if j = k then none else nget m j := by
  induction m with
  | nil => simp [ndel]
  | cons p t ih =>
    obtain ⟨a, u⟩ := p
    simp only [ndel]
    split
    · next h => subst h; rw [ih]; by_cases hj : j = a <;> simp [hj, nget]; omega
    · next h => simp only [nget, ih]; by_cases hj : a = j <;> simp [hj]; omega

@[simp] theorem nget_ndel_self {α : Type} (m : NMap α) (k : Nat) : nget (ndel m k) k = none := by simp [nget_ndel]

/-! ## Bytes -/

@[simp] theorem memGet_nil (a : Nat) : memGet [] a = 0 := rfl

/-- A write of a byte changes the byte at its address and no other. -/
theorem memGet_memSet (m : Memory) (a : Nat) (b : Byte) (x : Nat) : memGet (memSet m a b) x = if x = a then b else memGet m x := by
  unfold memGet memSet
  split
  · next h => subst h; by_cases hx : x = a <;> simp [nget_ndel, hx]
  · by_cases hx : x = a <;> simp [nget_nput, hx]

@[simp] theorem memGet_memSet_self (m : Memory) (a : Nat) (b : Byte) : memGet (memSet m a b) a = b := by simp [memGet_memSet]

/-- A write of n bytes leaves every byte outside them as it was. -/
theorem memGet_memWrite_out (m : Memory) (a n v x : Nat) (h : x < a ∨ a + n ≤ x) : memGet (memWrite m a n v) x = memGet m x := by
  induction n generalizing m a v with
  | zero => rfl
  | succ k ih =>
    rw [memWrite, ih _ _ _ (by omega), memGet_memSet, if_neg (by omega)]

/-- Byte i of a write of n bytes is byte i of the number (R2). -/
theorem memGet_memWrite_in (m : Memory) (a n v i : Nat) (h : i < n) : memGet (memWrite m a n v) (a + i) = BitVec.ofNat 8 (v / 256 ^ i) := by
  induction n generalizing m a v i with
  | zero => omega
  | succ k ih =>
    rw [memWrite]
    cases i with
    | zero => rw [memGet_memWrite_out _ _ _ _ _ (by omega)]; simp
    | succ j =>
      have := ih (memSet m a (BitVec.ofNat 8 v)) (a + 1) (v / 256) j (by omega)
      rw [show a + (j + 1) = a + 1 + j by omega, this, Nat.div_div_eq_div_mul, Nat.pow_succ, Nat.mul_comm (256 ^ j)]

/-- Reading the bytes just written gives the number back, cut to them. -/
theorem memRead_memWrite (m : Memory) (a n v : Nat) : memRead (memWrite m a n v) a n = v % 256 ^ n := by
  induction n generalizing m a v with
  | zero => simp [memRead, Nat.mod_one]
  | succ k ih =>
    rw [memWrite, memRead, ih, memGet_memWrite_out _ _ _ _ _ (by omega), memGet_memSet_self, BitVec.toNat_ofNat]
    have e : 256 ^ (k + 1) = 256 * 256 ^ k := by ring
    rw [e, Nat.mod_mul]

/-- A read does not see writes outside its bytes. -/
theorem memRead_congr (m m' : Memory) (a n : Nat) (h : ∀ x, a ≤ x → x < a + n → memGet m' x = memGet m x) : memRead m' a n = memRead m a n := by
  induction n generalizing a with
  | zero => rfl
  | succ k ih => rw [memRead, memRead, h a (by omega) (by omega), ih (a + 1) (fun x h1 h2 => h x (by omega) (by omega))]

theorem memRead_memWrite_out (m : Memory) (a n v b k : Nat) (h : b + k ≤ a ∨ a + n ≤ b) : memRead (memWrite m a n v) b k = memRead m b k :=
  memRead_congr _ _ _ _ fun x _ _ => memGet_memWrite_out _ _ _ _ _ (by omega)

/-! ## The canonical form -/

/-- Canonical form said by its parts: no zero at the head, every later address above it, the rest canonical. -/
theorem wf_cons (a : Nat) (b : Byte) (t : Memory) : Memory.wf ((a, b) :: t) = true ↔ b ≠ 0 ∧ (∀ p ∈ t.head?, a < p.1) ∧ Memory.wf t = true := by
  cases t with
  | nil => simp [Memory.wf]
  | cons p t => simp [Memory.wf, and_assoc]

theorem head_ndel (m : Memory) (k a : Nat) (h : Memory.wf m = true) (hm : ∀ p ∈ m.head?, a < p.1) : ∀ p ∈ (ndel m k).head?, a < p.1 := by
  induction m with
  | nil => simp [ndel]
  | cons q t ih =>
    obtain ⟨x, u⟩ := q
    have hx : a < x := hm _ rfl
    obtain ⟨-, h2, h3⟩ := (wf_cons x u t).1 h
    simp only [ndel]
    split
    · exact ih h3 (fun p hp => Nat.lt_trans hx (h2 p hp))
    · intro p hp; simp only [List.head?_cons, Option.mem_def, Option.some.injEq] at hp; subst hp; exact hx

theorem wf_ndel (m : Memory) (k : Nat) (h : Memory.wf m = true) : Memory.wf (ndel m k) = true := by
  induction m with
  | nil => exact h
  | cons q t ih =>
    obtain ⟨x, u⟩ := q
    obtain ⟨h1, h2, h3⟩ := (wf_cons x u t).1 h
    simp only [ndel]
    split
    · exact ih h3
    · exact (wf_cons _ _ _).2 ⟨h1, head_ndel t k x h3 h2, ih h3⟩

theorem head_nput (m : Memory) (k a : Nat) (v : Byte) (hk : a < k) (hm : ∀ p ∈ m.head?, a < p.1) : ∀ p ∈ (nput m k v).head?, a < p.1 := by
  cases m with
  | nil => simpa [nput] using hk
  | cons q t =>
    obtain ⟨x, u⟩ := q
    have hx : a < x := hm _ rfl
    simp only [nput]
    split
    · simpa using hk
    · split <;> simpa

theorem wf_nput (m : Memory) (k : Nat) (v : Byte) (hv : v ≠ 0) (h : Memory.wf m = true) : Memory.wf (nput m k v) = true := by
  induction m with
  | nil => simpa [nput, Memory.wf] using hv
  | cons q t ih =>
    obtain ⟨x, u⟩ := q
    obtain ⟨h1, h2, h3⟩ := (wf_cons x u t).1 h
    simp only [nput]
    split
    · next e => subst e; exact (wf_cons _ _ _).2 ⟨hv, h2, h3⟩
    · split
      · next e => exact (wf_cons _ _ _).2 ⟨hv, by simpa using e, h⟩
      · next e1 e2 => exact (wf_cons _ _ _).2 ⟨h1, head_nput t k x v (by omega) h2, ih h3⟩

/-- Every memory operation keeps the canonical form. -/
theorem wf_memSet (m : Memory) (a : Nat) (b : Byte) (h : Memory.wf m = true) : Memory.wf (memSet m a b) = true := by
  unfold memSet
  split
  · exact wf_ndel m a h
  · next hb => exact wf_nput m a b hb h

theorem wf_memWrite (m : Memory) (a n v : Nat) (h : Memory.wf m = true) : Memory.wf (memWrite m a n v) = true := by
  induction n generalizing m a v with
  | zero => exact h
  | succ k ih => exact ih _ _ _ (wf_memSet m a _ h)

theorem wf_memPuts (m : Memory) (l : List (Nat × Byte)) (h : Memory.wf m = true) : Memory.wf (memPuts m l) = true := by
  induction l generalizing m with
  | nil => exact h
  | cons p t ih => exact ih _ (wf_memSet m p.1 p.2 h)

end Sys2Proof.Machine
end

