-- ==== Sys2Proof/Laws/State.lean ====
section
/-! SUPPORT. What an update of a state, a core or a slot leaves as it was, one lemma per field and update, and what it changes. -/

namespace Sys2Proof.Machine

/-! ## Fields of the module -/

@[simp] theorem setSite_mover (s : State) (n : Nat) (t : Site) : (s.setSite n t).mover = s.mover := rfl
@[simp] theorem setSite_moves (s : State) (n : Nat) (t : Site) : (s.setSite n t).moves = s.moves := rfl
@[simp] theorem setSite_freeCtr (s : State) (n : Nat) (t : Site) : (s.setSite n t).freeCtr = s.freeCtr := rfl
@[simp] theorem setSite_curCore (s : State) (n : Nat) (t : Site) : (s.setSite n t).curCore = s.curCore := rfl
@[simp] theorem setSite_curSlot (s : State) (n : Nat) (t : Site) : (s.setSite n t).curSlot = s.curSlot := rfl
@[simp] theorem setSite_nextId (s : State) (n : Nat) (t : Site) : (s.setSite n t).nextId = s.nextId := rfl
@[simp] theorem setSite_cores (s : State) (n : Nat) (t : Site) : (s.setSite n t).cores = s.cores := rfl
@[simp] theorem setSite_dram (s : State) (n : Nat) (t : Site) : (s.setSite n t).dram = s.dram := rfl
@[simp] theorem setSite_codes (s : State) (n : Nat) (t : Site) : (s.setSite n t).codes = s.codes := rfl
@[simp] theorem setSite_bad (s : State) (n : Nat) (t : Site) : (s.setSite n t).bad = s.bad := rfl
@[simp] theorem setSite_l2 (s : State) (n : Nat) (t : Site) : (s.setSite n t).l2 = s.l2 := rfl
@[simp] theorem setSite_useCtr (s : State) (n : Nat) (t : Site) : (s.setSite n t).useCtr = s.useCtr := rfl
@[simp] theorem setSite_resv (s : State) (n : Nat) (t : Site) : (s.setSite n t).resv = s.resv := rfl
@[simp] theorem setSite_gmoves (s : State) (n : Nat) (t : Site) : (s.setSite n t).gmoves = s.gmoves := rfl
@[simp] theorem setSite_flights (s : State) (n : Nat) (t : Site) : (s.setSite n t).flights = s.flights := rfl
@[simp] theorem setSite_held (s : State) (n : Nat) (t : Site) : (s.setSite n t).held = s.held := rfl
@[simp] theorem setSite_traceWaits (s : State) (n : Nat) (t : Site) : (s.setSite n t).traceWaits = s.traceWaits := rfl
@[simp] theorem setSite_rinvs (s : State) (n : Nat) (t : Site) : (s.setSite n t).rinvs = s.rinvs := rfl
@[simp] theorem setSite_discs (s : State) (n : Nat) (t : Site) : (s.setSite n t).discs = s.discs := rfl
@[simp] theorem setSite_partRects (s : State) (n : Nat) (t : Site) : (s.setSite n t).partRects = s.partRects := rfl
@[simp] theorem setSite_chips (s : State) (n : Nat) (t : Site) : (s.setSite n t).chips = s.chips := rfl
@[simp] theorem setSite_procs (s : State) (n : Nat) (t : Site) : (s.setSite n t).procs = s.procs := rfl
@[simp] theorem setSite_retireLog (s : State) (n : Nat) (t : Site) : (s.setSite n t).retireLog = s.retireLog := rfl
@[simp] theorem setSite_boots (s : State) (n : Nat) (t : Site) : (s.setSite n t).boots = s.boots := rfl
@[simp] theorem setSite_up (s : State) (n : Nat) (t : Site) : (s.setSite n t).up = s.up := rfl
@[simp] theorem setSite_keys (s : State) (n : Nat) (t : Site) : (s.setSite n t).keys = s.keys := rfl
@[simp] theorem setSite_reports (s : State) (n : Nat) (t : Site) : (s.setSite n t).reports = s.reports := rfl

@[simp] theorem modSite_mover (s : State) (n : Nat) (f : Site → Site) : (s.modSite n f).mover = s.mover := rfl
@[simp] theorem modSite_moves (s : State) (n : Nat) (f : Site → Site) : (s.modSite n f).moves = s.moves := rfl
@[simp] theorem modSite_freeCtr (s : State) (n : Nat) (f : Site → Site) : (s.modSite n f).freeCtr = s.freeCtr := rfl
@[simp] theorem modSite_curCore (s : State) (n : Nat) (f : Site → Site) : (s.modSite n f).curCore = s.curCore := rfl
@[simp] theorem modSite_curSlot (s : State) (n : Nat) (f : Site → Site) : (s.modSite n f).curSlot = s.curSlot := rfl
@[simp] theorem modSite_nextId (s : State) (n : Nat) (f : Site → Site) : (s.modSite n f).nextId = s.nextId := rfl
@[simp] theorem modSite_cores (s : State) (n : Nat) (f : Site → Site) : (s.modSite n f).cores = s.cores := rfl
@[simp] theorem modSite_dram (s : State) (n : Nat) (f : Site → Site) : (s.modSite n f).dram = s.dram := rfl
@[simp] theorem modSite_codes (s : State) (n : Nat) (f : Site → Site) : (s.modSite n f).codes = s.codes := rfl
@[simp] theorem modSite_bad (s : State) (n : Nat) (f : Site → Site) : (s.modSite n f).bad = s.bad := rfl
@[simp] theorem modSite_l2 (s : State) (n : Nat) (f : Site → Site) : (s.modSite n f).l2 = s.l2 := rfl
@[simp] theorem modSite_useCtr (s : State) (n : Nat) (f : Site → Site) : (s.modSite n f).useCtr = s.useCtr := rfl
@[simp] theorem modSite_resv (s : State) (n : Nat) (f : Site → Site) : (s.modSite n f).resv = s.resv := rfl
@[simp] theorem modSite_gmoves (s : State) (n : Nat) (f : Site → Site) : (s.modSite n f).gmoves = s.gmoves := rfl
@[simp] theorem modSite_flights (s : State) (n : Nat) (f : Site → Site) : (s.modSite n f).flights = s.flights := rfl
@[simp] theorem modSite_held (s : State) (n : Nat) (f : Site → Site) : (s.modSite n f).held = s.held := rfl
@[simp] theorem modSite_traceWaits (s : State) (n : Nat) (f : Site → Site) : (s.modSite n f).traceWaits = s.traceWaits := rfl
@[simp] theorem modSite_rinvs (s : State) (n : Nat) (f : Site → Site) : (s.modSite n f).rinvs = s.rinvs := rfl
@[simp] theorem modSite_discs (s : State) (n : Nat) (f : Site → Site) : (s.modSite n f).discs = s.discs := rfl
@[simp] theorem modSite_partRects (s : State) (n : Nat) (f : Site → Site) : (s.modSite n f).partRects = s.partRects := rfl
@[simp] theorem modSite_chips (s : State) (n : Nat) (f : Site → Site) : (s.modSite n f).chips = s.chips := rfl
@[simp] theorem modSite_procs (s : State) (n : Nat) (f : Site → Site) : (s.modSite n f).procs = s.procs := rfl
@[simp] theorem modSite_retireLog (s : State) (n : Nat) (f : Site → Site) : (s.modSite n f).retireLog = s.retireLog := rfl
@[simp] theorem modSite_boots (s : State) (n : Nat) (f : Site → Site) : (s.modSite n f).boots = s.boots := rfl
@[simp] theorem modSite_up (s : State) (n : Nat) (f : Site → Site) : (s.modSite n f).up = s.up := rfl
@[simp] theorem modSite_keys (s : State) (n : Nat) (f : Site → Site) : (s.modSite n f).keys = s.keys := rfl
@[simp] theorem modSite_reports (s : State) (n : Nat) (f : Site → Site) : (s.modSite n f).reports = s.reports := rfl

@[simp] theorem setCore_mover (s : State) (c : Nat) (k : Core) : (s.setCore c k).mover = s.mover := rfl
@[simp] theorem setCore_moves (s : State) (c : Nat) (k : Core) : (s.setCore c k).moves = s.moves := rfl
@[simp] theorem setCore_freeCtr (s : State) (c : Nat) (k : Core) : (s.setCore c k).freeCtr = s.freeCtr := rfl
@[simp] theorem setCore_curCore (s : State) (c : Nat) (k : Core) : (s.setCore c k).curCore = s.curCore := rfl
@[simp] theorem setCore_curSlot (s : State) (c : Nat) (k : Core) : (s.setCore c k).curSlot = s.curSlot := rfl
@[simp] theorem setCore_nextId (s : State) (c : Nat) (k : Core) : (s.setCore c k).nextId = s.nextId := rfl
@[simp] theorem setCore_sites (s : State) (c : Nat) (k : Core) : (s.setCore c k).sites = s.sites := rfl
@[simp] theorem setCore_dram (s : State) (c : Nat) (k : Core) : (s.setCore c k).dram = s.dram := rfl
@[simp] theorem setCore_codes (s : State) (c : Nat) (k : Core) : (s.setCore c k).codes = s.codes := rfl
@[simp] theorem setCore_bad (s : State) (c : Nat) (k : Core) : (s.setCore c k).bad = s.bad := rfl
@[simp] theorem setCore_l2 (s : State) (c : Nat) (k : Core) : (s.setCore c k).l2 = s.l2 := rfl
@[simp] theorem setCore_useCtr (s : State) (c : Nat) (k : Core) : (s.setCore c k).useCtr = s.useCtr := rfl
@[simp] theorem setCore_resv (s : State) (c : Nat) (k : Core) : (s.setCore c k).resv = s.resv := rfl
@[simp] theorem setCore_gmoves (s : State) (c : Nat) (k : Core) : (s.setCore c k).gmoves = s.gmoves := rfl
@[simp] theorem setCore_flights (s : State) (c : Nat) (k : Core) : (s.setCore c k).flights = s.flights := rfl
@[simp] theorem setCore_held (s : State) (c : Nat) (k : Core) : (s.setCore c k).held = s.held := rfl
@[simp] theorem setCore_traceWaits (s : State) (c : Nat) (k : Core) : (s.setCore c k).traceWaits = s.traceWaits := rfl
@[simp] theorem setCore_rinvs (s : State) (c : Nat) (k : Core) : (s.setCore c k).rinvs = s.rinvs := rfl
@[simp] theorem setCore_discs (s : State) (c : Nat) (k : Core) : (s.setCore c k).discs = s.discs := rfl
@[simp] theorem setCore_partRects (s : State) (c : Nat) (k : Core) : (s.setCore c k).partRects = s.partRects := rfl
@[simp] theorem setCore_chips (s : State) (c : Nat) (k : Core) : (s.setCore c k).chips = s.chips := rfl
@[simp] theorem setCore_procs (s : State) (c : Nat) (k : Core) : (s.setCore c k).procs = s.procs := rfl
@[simp] theorem setCore_retireLog (s : State) (c : Nat) (k : Core) : (s.setCore c k).retireLog = s.retireLog := rfl
@[simp] theorem setCore_boots (s : State) (c : Nat) (k : Core) : (s.setCore c k).boots = s.boots := rfl
@[simp] theorem setCore_up (s : State) (c : Nat) (k : Core) : (s.setCore c k).up = s.up := rfl
@[simp] theorem setCore_keys (s : State) (c : Nat) (k : Core) : (s.setCore c k).keys = s.keys := rfl
@[simp] theorem setCore_reports (s : State) (c : Nat) (k : Core) : (s.setCore c k).reports = s.reports := rfl

@[simp] theorem modCore_mover (s : State) (c : Nat) (f : Core → Core) : (s.modCore c f).mover = s.mover := rfl
@[simp] theorem modCore_moves (s : State) (c : Nat) (f : Core → Core) : (s.modCore c f).moves = s.moves := rfl
@[simp] theorem modCore_freeCtr (s : State) (c : Nat) (f : Core → Core) : (s.modCore c f).freeCtr = s.freeCtr := rfl
@[simp] theorem modCore_curCore (s : State) (c : Nat) (f : Core → Core) : (s.modCore c f).curCore = s.curCore := rfl
@[simp] theorem modCore_curSlot (s : State) (c : Nat) (f : Core → Core) : (s.modCore c f).curSlot = s.curSlot := rfl
@[simp] theorem modCore_nextId (s : State) (c : Nat) (f : Core → Core) : (s.modCore c f).nextId = s.nextId := rfl
@[simp] theorem modCore_sites (s : State) (c : Nat) (f : Core → Core) : (s.modCore c f).sites = s.sites := rfl
@[simp] theorem modCore_dram (s : State) (c : Nat) (f : Core → Core) : (s.modCore c f).dram = s.dram := rfl
@[simp] theorem modCore_codes (s : State) (c : Nat) (f : Core → Core) : (s.modCore c f).codes = s.codes := rfl
@[simp] theorem modCore_bad (s : State) (c : Nat) (f : Core → Core) : (s.modCore c f).bad = s.bad := rfl
@[simp] theorem modCore_l2 (s : State) (c : Nat) (f : Core → Core) : (s.modCore c f).l2 = s.l2 := rfl
@[simp] theorem modCore_useCtr (s : State) (c : Nat) (f : Core → Core) : (s.modCore c f).useCtr = s.useCtr := rfl
@[simp] theorem modCore_resv (s : State) (c : Nat) (f : Core → Core) : (s.modCore c f).resv = s.resv := rfl
@[simp] theorem modCore_gmoves (s : State) (c : Nat) (f : Core → Core) : (s.modCore c f).gmoves = s.gmoves := rfl
@[simp] theorem modCore_flights (s : State) (c : Nat) (f : Core → Core) : (s.modCore c f).flights = s.flights := rfl
@[simp] theorem modCore_held (s : State) (c : Nat) (f : Core → Core) : (s.modCore c f).held = s.held := rfl
@[simp] theorem modCore_traceWaits (s : State) (c : Nat) (f : Core → Core) : (s.modCore c f).traceWaits = s.traceWaits := rfl
@[simp] theorem modCore_rinvs (s : State) (c : Nat) (f : Core → Core) : (s.modCore c f).rinvs = s.rinvs := rfl
@[simp] theorem modCore_discs (s : State) (c : Nat) (f : Core → Core) : (s.modCore c f).discs = s.discs := rfl
@[simp] theorem modCore_partRects (s : State) (c : Nat) (f : Core → Core) : (s.modCore c f).partRects = s.partRects := rfl
@[simp] theorem modCore_chips (s : State) (c : Nat) (f : Core → Core) : (s.modCore c f).chips = s.chips := rfl
@[simp] theorem modCore_procs (s : State) (c : Nat) (f : Core → Core) : (s.modCore c f).procs = s.procs := rfl
@[simp] theorem modCore_retireLog (s : State) (c : Nat) (f : Core → Core) : (s.modCore c f).retireLog = s.retireLog := rfl
@[simp] theorem modCore_boots (s : State) (c : Nat) (f : Core → Core) : (s.modCore c f).boots = s.boots := rfl
@[simp] theorem modCore_up (s : State) (c : Nat) (f : Core → Core) : (s.modCore c f).up = s.up := rfl
@[simp] theorem modCore_keys (s : State) (c : Nat) (f : Core → Core) : (s.modCore c f).keys = s.keys := rfl
@[simp] theorem modCore_reports (s : State) (c : Nat) (f : Core → Core) : (s.modCore c f).reports = s.reports := rfl

@[simp] theorem setSlot_mover (s : State) (c n : Nat) (t : Slot) : (s.setSlot c n t).mover = s.mover := rfl
@[simp] theorem setSlot_moves (s : State) (c n : Nat) (t : Slot) : (s.setSlot c n t).moves = s.moves := rfl
@[simp] theorem setSlot_freeCtr (s : State) (c n : Nat) (t : Slot) : (s.setSlot c n t).freeCtr = s.freeCtr := rfl
@[simp] theorem setSlot_curCore (s : State) (c n : Nat) (t : Slot) : (s.setSlot c n t).curCore = s.curCore := rfl
@[simp] theorem setSlot_curSlot (s : State) (c n : Nat) (t : Slot) : (s.setSlot c n t).curSlot = s.curSlot := rfl
@[simp] theorem setSlot_nextId (s : State) (c n : Nat) (t : Slot) : (s.setSlot c n t).nextId = s.nextId := rfl
@[simp] theorem setSlot_sites (s : State) (c n : Nat) (t : Slot) : (s.setSlot c n t).sites = s.sites := rfl
@[simp] theorem setSlot_dram (s : State) (c n : Nat) (t : Slot) : (s.setSlot c n t).dram = s.dram := rfl
@[simp] theorem setSlot_codes (s : State) (c n : Nat) (t : Slot) : (s.setSlot c n t).codes = s.codes := rfl
@[simp] theorem setSlot_bad (s : State) (c n : Nat) (t : Slot) : (s.setSlot c n t).bad = s.bad := rfl
@[simp] theorem setSlot_l2 (s : State) (c n : Nat) (t : Slot) : (s.setSlot c n t).l2 = s.l2 := rfl
@[simp] theorem setSlot_useCtr (s : State) (c n : Nat) (t : Slot) : (s.setSlot c n t).useCtr = s.useCtr := rfl
@[simp] theorem setSlot_resv (s : State) (c n : Nat) (t : Slot) : (s.setSlot c n t).resv = s.resv := rfl
@[simp] theorem setSlot_gmoves (s : State) (c n : Nat) (t : Slot) : (s.setSlot c n t).gmoves = s.gmoves := rfl
@[simp] theorem setSlot_flights (s : State) (c n : Nat) (t : Slot) : (s.setSlot c n t).flights = s.flights := rfl
@[simp] theorem setSlot_held (s : State) (c n : Nat) (t : Slot) : (s.setSlot c n t).held = s.held := rfl
@[simp] theorem setSlot_traceWaits (s : State) (c n : Nat) (t : Slot) : (s.setSlot c n t).traceWaits = s.traceWaits := rfl
@[simp] theorem setSlot_rinvs (s : State) (c n : Nat) (t : Slot) : (s.setSlot c n t).rinvs = s.rinvs := rfl
@[simp] theorem setSlot_discs (s : State) (c n : Nat) (t : Slot) : (s.setSlot c n t).discs = s.discs := rfl
@[simp] theorem setSlot_partRects (s : State) (c n : Nat) (t : Slot) : (s.setSlot c n t).partRects = s.partRects := rfl
@[simp] theorem setSlot_chips (s : State) (c n : Nat) (t : Slot) : (s.setSlot c n t).chips = s.chips := rfl
@[simp] theorem setSlot_procs (s : State) (c n : Nat) (t : Slot) : (s.setSlot c n t).procs = s.procs := rfl
@[simp] theorem setSlot_retireLog (s : State) (c n : Nat) (t : Slot) : (s.setSlot c n t).retireLog = s.retireLog := rfl
@[simp] theorem setSlot_boots (s : State) (c n : Nat) (t : Slot) : (s.setSlot c n t).boots = s.boots := rfl
@[simp] theorem setSlot_up (s : State) (c n : Nat) (t : Slot) : (s.setSlot c n t).up = s.up := rfl
@[simp] theorem setSlot_keys (s : State) (c n : Nat) (t : Slot) : (s.setSlot c n t).keys = s.keys := rfl
@[simp] theorem setSlot_reports (s : State) (c n : Nat) (t : Slot) : (s.setSlot c n t).reports = s.reports := rfl

@[simp] theorem modSlot_mover (s : State) (c n : Nat) (f : Slot → Slot) : (s.modSlot c n f).mover = s.mover := rfl
@[simp] theorem modSlot_moves (s : State) (c n : Nat) (f : Slot → Slot) : (s.modSlot c n f).moves = s.moves := rfl
@[simp] theorem modSlot_freeCtr (s : State) (c n : Nat) (f : Slot → Slot) : (s.modSlot c n f).freeCtr = s.freeCtr := rfl
@[simp] theorem modSlot_curCore (s : State) (c n : Nat) (f : Slot → Slot) : (s.modSlot c n f).curCore = s.curCore := rfl
@[simp] theorem modSlot_curSlot (s : State) (c n : Nat) (f : Slot → Slot) : (s.modSlot c n f).curSlot = s.curSlot := rfl
@[simp] theorem modSlot_nextId (s : State) (c n : Nat) (f : Slot → Slot) : (s.modSlot c n f).nextId = s.nextId := rfl
@[simp] theorem modSlot_sites (s : State) (c n : Nat) (f : Slot → Slot) : (s.modSlot c n f).sites = s.sites := rfl
@[simp] theorem modSlot_dram (s : State) (c n : Nat) (f : Slot → Slot) : (s.modSlot c n f).dram = s.dram := rfl
@[simp] theorem modSlot_codes (s : State) (c n : Nat) (f : Slot → Slot) : (s.modSlot c n f).codes = s.codes := rfl
@[simp] theorem modSlot_bad (s : State) (c n : Nat) (f : Slot → Slot) : (s.modSlot c n f).bad = s.bad := rfl
@[simp] theorem modSlot_l2 (s : State) (c n : Nat) (f : Slot → Slot) : (s.modSlot c n f).l2 = s.l2 := rfl
@[simp] theorem modSlot_useCtr (s : State) (c n : Nat) (f : Slot → Slot) : (s.modSlot c n f).useCtr = s.useCtr := rfl
@[simp] theorem modSlot_resv (s : State) (c n : Nat) (f : Slot → Slot) : (s.modSlot c n f).resv = s.resv := rfl
@[simp] theorem modSlot_gmoves (s : State) (c n : Nat) (f : Slot → Slot) : (s.modSlot c n f).gmoves = s.gmoves := rfl
@[simp] theorem modSlot_flights (s : State) (c n : Nat) (f : Slot → Slot) : (s.modSlot c n f).flights = s.flights := rfl
@[simp] theorem modSlot_held (s : State) (c n : Nat) (f : Slot → Slot) : (s.modSlot c n f).held = s.held := rfl
@[simp] theorem modSlot_traceWaits (s : State) (c n : Nat) (f : Slot → Slot) : (s.modSlot c n f).traceWaits = s.traceWaits := rfl
@[simp] theorem modSlot_rinvs (s : State) (c n : Nat) (f : Slot → Slot) : (s.modSlot c n f).rinvs = s.rinvs := rfl
@[simp] theorem modSlot_discs (s : State) (c n : Nat) (f : Slot → Slot) : (s.modSlot c n f).discs = s.discs := rfl
@[simp] theorem modSlot_partRects (s : State) (c n : Nat) (f : Slot → Slot) : (s.modSlot c n f).partRects = s.partRects := rfl
@[simp] theorem modSlot_chips (s : State) (c n : Nat) (f : Slot → Slot) : (s.modSlot c n f).chips = s.chips := rfl
@[simp] theorem modSlot_procs (s : State) (c n : Nat) (f : Slot → Slot) : (s.modSlot c n f).procs = s.procs := rfl
@[simp] theorem modSlot_retireLog (s : State) (c n : Nat) (f : Slot → Slot) : (s.modSlot c n f).retireLog = s.retireLog := rfl
@[simp] theorem modSlot_boots (s : State) (c n : Nat) (f : Slot → Slot) : (s.modSlot c n f).boots = s.boots := rfl
@[simp] theorem modSlot_up (s : State) (c n : Nat) (f : Slot → Slot) : (s.modSlot c n f).up = s.up := rfl
@[simp] theorem modSlot_keys (s : State) (c n : Nat) (f : Slot → Slot) : (s.modSlot c n f).keys = s.keys := rfl
@[simp] theorem modSlot_reports (s : State) (c n : Nat) (f : Slot → Slot) : (s.modSlot c n f).reports = s.reports := rfl

@[simp] theorem modHere_mover (s : State) (f : Core → Core) : (s.modHere f).mover = s.mover := rfl
@[simp] theorem modHere_moves (s : State) (f : Core → Core) : (s.modHere f).moves = s.moves := rfl
@[simp] theorem modHere_freeCtr (s : State) (f : Core → Core) : (s.modHere f).freeCtr = s.freeCtr := rfl
@[simp] theorem modHere_curCore (s : State) (f : Core → Core) : (s.modHere f).curCore = s.curCore := rfl
@[simp] theorem modHere_curSlot (s : State) (f : Core → Core) : (s.modHere f).curSlot = s.curSlot := rfl
@[simp] theorem modHere_nextId (s : State) (f : Core → Core) : (s.modHere f).nextId = s.nextId := rfl
@[simp] theorem modHere_sites (s : State) (f : Core → Core) : (s.modHere f).sites = s.sites := rfl
@[simp] theorem modHere_dram (s : State) (f : Core → Core) : (s.modHere f).dram = s.dram := rfl
@[simp] theorem modHere_codes (s : State) (f : Core → Core) : (s.modHere f).codes = s.codes := rfl
@[simp] theorem modHere_bad (s : State) (f : Core → Core) : (s.modHere f).bad = s.bad := rfl
@[simp] theorem modHere_l2 (s : State) (f : Core → Core) : (s.modHere f).l2 = s.l2 := rfl
@[simp] theorem modHere_useCtr (s : State) (f : Core → Core) : (s.modHere f).useCtr = s.useCtr := rfl
@[simp] theorem modHere_resv (s : State) (f : Core → Core) : (s.modHere f).resv = s.resv := rfl
@[simp] theorem modHere_gmoves (s : State) (f : Core → Core) : (s.modHere f).gmoves = s.gmoves := rfl
@[simp] theorem modHere_flights (s : State) (f : Core → Core) : (s.modHere f).flights = s.flights := rfl
@[simp] theorem modHere_held (s : State) (f : Core → Core) : (s.modHere f).held = s.held := rfl
@[simp] theorem modHere_traceWaits (s : State) (f : Core → Core) : (s.modHere f).traceWaits = s.traceWaits := rfl
@[simp] theorem modHere_rinvs (s : State) (f : Core → Core) : (s.modHere f).rinvs = s.rinvs := rfl
@[simp] theorem modHere_discs (s : State) (f : Core → Core) : (s.modHere f).discs = s.discs := rfl
@[simp] theorem modHere_partRects (s : State) (f : Core → Core) : (s.modHere f).partRects = s.partRects := rfl
@[simp] theorem modHere_chips (s : State) (f : Core → Core) : (s.modHere f).chips = s.chips := rfl
@[simp] theorem modHere_procs (s : State) (f : Core → Core) : (s.modHere f).procs = s.procs := rfl
@[simp] theorem modHere_retireLog (s : State) (f : Core → Core) : (s.modHere f).retireLog = s.retireLog := rfl
@[simp] theorem modHere_boots (s : State) (f : Core → Core) : (s.modHere f).boots = s.boots := rfl
@[simp] theorem modHere_up (s : State) (f : Core → Core) : (s.modHere f).up = s.up := rfl
@[simp] theorem modHere_keys (s : State) (f : Core → Core) : (s.modHere f).keys = s.keys := rfl
@[simp] theorem modHere_reports (s : State) (f : Core → Core) : (s.modHere f).reports = s.reports := rfl

@[simp] theorem modMe_mover (s : State) (f : Slot → Slot) : (s.modMe f).mover = s.mover := rfl
@[simp] theorem modMe_moves (s : State) (f : Slot → Slot) : (s.modMe f).moves = s.moves := rfl
@[simp] theorem modMe_freeCtr (s : State) (f : Slot → Slot) : (s.modMe f).freeCtr = s.freeCtr := rfl
@[simp] theorem modMe_curCore (s : State) (f : Slot → Slot) : (s.modMe f).curCore = s.curCore := rfl
@[simp] theorem modMe_curSlot (s : State) (f : Slot → Slot) : (s.modMe f).curSlot = s.curSlot := rfl
@[simp] theorem modMe_nextId (s : State) (f : Slot → Slot) : (s.modMe f).nextId = s.nextId := rfl
@[simp] theorem modMe_sites (s : State) (f : Slot → Slot) : (s.modMe f).sites = s.sites := rfl
@[simp] theorem modMe_dram (s : State) (f : Slot → Slot) : (s.modMe f).dram = s.dram := rfl
@[simp] theorem modMe_codes (s : State) (f : Slot → Slot) : (s.modMe f).codes = s.codes := rfl
@[simp] theorem modMe_bad (s : State) (f : Slot → Slot) : (s.modMe f).bad = s.bad := rfl
@[simp] theorem modMe_l2 (s : State) (f : Slot → Slot) : (s.modMe f).l2 = s.l2 := rfl
@[simp] theorem modMe_useCtr (s : State) (f : Slot → Slot) : (s.modMe f).useCtr = s.useCtr := rfl
@[simp] theorem modMe_resv (s : State) (f : Slot → Slot) : (s.modMe f).resv = s.resv := rfl
@[simp] theorem modMe_gmoves (s : State) (f : Slot → Slot) : (s.modMe f).gmoves = s.gmoves := rfl
@[simp] theorem modMe_flights (s : State) (f : Slot → Slot) : (s.modMe f).flights = s.flights := rfl
@[simp] theorem modMe_held (s : State) (f : Slot → Slot) : (s.modMe f).held = s.held := rfl
@[simp] theorem modMe_traceWaits (s : State) (f : Slot → Slot) : (s.modMe f).traceWaits = s.traceWaits := rfl
@[simp] theorem modMe_rinvs (s : State) (f : Slot → Slot) : (s.modMe f).rinvs = s.rinvs := rfl
@[simp] theorem modMe_discs (s : State) (f : Slot → Slot) : (s.modMe f).discs = s.discs := rfl
@[simp] theorem modMe_partRects (s : State) (f : Slot → Slot) : (s.modMe f).partRects = s.partRects := rfl
@[simp] theorem modMe_chips (s : State) (f : Slot → Slot) : (s.modMe f).chips = s.chips := rfl
@[simp] theorem modMe_procs (s : State) (f : Slot → Slot) : (s.modMe f).procs = s.procs := rfl
@[simp] theorem modMe_retireLog (s : State) (f : Slot → Slot) : (s.modMe f).retireLog = s.retireLog := rfl
@[simp] theorem modMe_boots (s : State) (f : Slot → Slot) : (s.modMe f).boots = s.boots := rfl
@[simp] theorem modMe_up (s : State) (f : Slot → Slot) : (s.modMe f).up = s.up := rfl
@[simp] theorem modMe_keys (s : State) (f : Slot → Slot) : (s.modMe f).keys = s.keys := rfl
@[simp] theorem modMe_reports (s : State) (f : Slot → Slot) : (s.modMe f).reports = s.reports := rfl

@[simp] theorem setX_mover (s : State) (r : BitVec 5) (v : Word) : (s.setX r v).mover = s.mover := rfl
@[simp] theorem setX_moves (s : State) (r : BitVec 5) (v : Word) : (s.setX r v).moves = s.moves := rfl
@[simp] theorem setX_freeCtr (s : State) (r : BitVec 5) (v : Word) : (s.setX r v).freeCtr = s.freeCtr := rfl
@[simp] theorem setX_curCore (s : State) (r : BitVec 5) (v : Word) : (s.setX r v).curCore = s.curCore := rfl
@[simp] theorem setX_curSlot (s : State) (r : BitVec 5) (v : Word) : (s.setX r v).curSlot = s.curSlot := rfl
@[simp] theorem setX_nextId (s : State) (r : BitVec 5) (v : Word) : (s.setX r v).nextId = s.nextId := rfl
@[simp] theorem setX_sites (s : State) (r : BitVec 5) (v : Word) : (s.setX r v).sites = s.sites := rfl
@[simp] theorem setX_dram (s : State) (r : BitVec 5) (v : Word) : (s.setX r v).dram = s.dram := rfl
@[simp] theorem setX_codes (s : State) (r : BitVec 5) (v : Word) : (s.setX r v).codes = s.codes := rfl
@[simp] theorem setX_bad (s : State) (r : BitVec 5) (v : Word) : (s.setX r v).bad = s.bad := rfl
@[simp] theorem setX_l2 (s : State) (r : BitVec 5) (v : Word) : (s.setX r v).l2 = s.l2 := rfl
@[simp] theorem setX_useCtr (s : State) (r : BitVec 5) (v : Word) : (s.setX r v).useCtr = s.useCtr := rfl
@[simp] theorem setX_resv (s : State) (r : BitVec 5) (v : Word) : (s.setX r v).resv = s.resv := rfl
@[simp] theorem setX_gmoves (s : State) (r : BitVec 5) (v : Word) : (s.setX r v).gmoves = s.gmoves := rfl
@[simp] theorem setX_flights (s : State) (r : BitVec 5) (v : Word) : (s.setX r v).flights = s.flights := rfl
@[simp] theorem setX_held (s : State) (r : BitVec 5) (v : Word) : (s.setX r v).held = s.held := rfl
@[simp] theorem setX_traceWaits (s : State) (r : BitVec 5) (v : Word) : (s.setX r v).traceWaits = s.traceWaits := rfl
@[simp] theorem setX_rinvs (s : State) (r : BitVec 5) (v : Word) : (s.setX r v).rinvs = s.rinvs := rfl
@[simp] theorem setX_discs (s : State) (r : BitVec 5) (v : Word) : (s.setX r v).discs = s.discs := rfl
@[simp] theorem setX_partRects (s : State) (r : BitVec 5) (v : Word) : (s.setX r v).partRects = s.partRects := rfl
@[simp] theorem setX_chips (s : State) (r : BitVec 5) (v : Word) : (s.setX r v).chips = s.chips := rfl
@[simp] theorem setX_procs (s : State) (r : BitVec 5) (v : Word) : (s.setX r v).procs = s.procs := rfl
@[simp] theorem setX_retireLog (s : State) (r : BitVec 5) (v : Word) : (s.setX r v).retireLog = s.retireLog := rfl
@[simp] theorem setX_boots (s : State) (r : BitVec 5) (v : Word) : (s.setX r v).boots = s.boots := rfl
@[simp] theorem setX_up (s : State) (r : BitVec 5) (v : Word) : (s.setX r v).up = s.up := rfl
@[simp] theorem setX_keys (s : State) (r : BitVec 5) (v : Word) : (s.setX r v).keys = s.keys := rfl
@[simp] theorem setX_reports (s : State) (r : BitVec 5) (v : Word) : (s.setX r v).reports = s.reports := rfl

@[simp] theorem setV_mover (s : State) (r : BitVec 5) (v : BitVec 2048) : (s.setV r v).mover = s.mover := rfl
@[simp] theorem setV_moves (s : State) (r : BitVec 5) (v : BitVec 2048) : (s.setV r v).moves = s.moves := rfl
@[simp] theorem setV_freeCtr (s : State) (r : BitVec 5) (v : BitVec 2048) : (s.setV r v).freeCtr = s.freeCtr := rfl
@[simp] theorem setV_curCore (s : State) (r : BitVec 5) (v : BitVec 2048) : (s.setV r v).curCore = s.curCore := rfl
@[simp] theorem setV_curSlot (s : State) (r : BitVec 5) (v : BitVec 2048) : (s.setV r v).curSlot = s.curSlot := rfl
@[simp] theorem setV_nextId (s : State) (r : BitVec 5) (v : BitVec 2048) : (s.setV r v).nextId = s.nextId := rfl
@[simp] theorem setV_sites (s : State) (r : BitVec 5) (v : BitVec 2048) : (s.setV r v).sites = s.sites := rfl
@[simp] theorem setV_dram (s : State) (r : BitVec 5) (v : BitVec 2048) : (s.setV r v).dram = s.dram := rfl
@[simp] theorem setV_codes (s : State) (r : BitVec 5) (v : BitVec 2048) : (s.setV r v).codes = s.codes := rfl
@[simp] theorem setV_bad (s : State) (r : BitVec 5) (v : BitVec 2048) : (s.setV r v).bad = s.bad := rfl
@[simp] theorem setV_l2 (s : State) (r : BitVec 5) (v : BitVec 2048) : (s.setV r v).l2 = s.l2 := rfl
@[simp] theorem setV_useCtr (s : State) (r : BitVec 5) (v : BitVec 2048) : (s.setV r v).useCtr = s.useCtr := rfl
@[simp] theorem setV_resv (s : State) (r : BitVec 5) (v : BitVec 2048) : (s.setV r v).resv = s.resv := rfl
@[simp] theorem setV_gmoves (s : State) (r : BitVec 5) (v : BitVec 2048) : (s.setV r v).gmoves = s.gmoves := rfl
@[simp] theorem setV_flights (s : State) (r : BitVec 5) (v : BitVec 2048) : (s.setV r v).flights = s.flights := rfl
@[simp] theorem setV_held (s : State) (r : BitVec 5) (v : BitVec 2048) : (s.setV r v).held = s.held := rfl
@[simp] theorem setV_traceWaits (s : State) (r : BitVec 5) (v : BitVec 2048) : (s.setV r v).traceWaits = s.traceWaits := rfl
@[simp] theorem setV_rinvs (s : State) (r : BitVec 5) (v : BitVec 2048) : (s.setV r v).rinvs = s.rinvs := rfl
@[simp] theorem setV_discs (s : State) (r : BitVec 5) (v : BitVec 2048) : (s.setV r v).discs = s.discs := rfl
@[simp] theorem setV_partRects (s : State) (r : BitVec 5) (v : BitVec 2048) : (s.setV r v).partRects = s.partRects := rfl
@[simp] theorem setV_chips (s : State) (r : BitVec 5) (v : BitVec 2048) : (s.setV r v).chips = s.chips := rfl
@[simp] theorem setV_procs (s : State) (r : BitVec 5) (v : BitVec 2048) : (s.setV r v).procs = s.procs := rfl
@[simp] theorem setV_retireLog (s : State) (r : BitVec 5) (v : BitVec 2048) : (s.setV r v).retireLog = s.retireLog := rfl
@[simp] theorem setV_boots (s : State) (r : BitVec 5) (v : BitVec 2048) : (s.setV r v).boots = s.boots := rfl
@[simp] theorem setV_up (s : State) (r : BitVec 5) (v : BitVec 2048) : (s.setV r v).up = s.up := rfl
@[simp] theorem setV_keys (s : State) (r : BitVec 5) (v : BitVec 2048) : (s.setV r v).keys = s.keys := rfl
@[simp] theorem setV_reports (s : State) (r : BitVec 5) (v : BitVec 2048) : (s.setV r v).reports = s.reports := rfl

@[simp] theorem bump_mover (s : State) : (s.bump).mover = s.mover := rfl
@[simp] theorem bump_moves (s : State) : (s.bump).moves = s.moves := rfl
@[simp] theorem bump_freeCtr (s : State) : (s.bump).freeCtr = s.freeCtr := rfl
@[simp] theorem bump_curCore (s : State) : (s.bump).curCore = s.curCore := rfl
@[simp] theorem bump_curSlot (s : State) : (s.bump).curSlot = s.curSlot := rfl
@[simp] theorem bump_sites (s : State) : (s.bump).sites = s.sites := rfl
@[simp] theorem bump_cores (s : State) : (s.bump).cores = s.cores := rfl
@[simp] theorem bump_dram (s : State) : (s.bump).dram = s.dram := rfl
@[simp] theorem bump_codes (s : State) : (s.bump).codes = s.codes := rfl
@[simp] theorem bump_bad (s : State) : (s.bump).bad = s.bad := rfl
@[simp] theorem bump_l2 (s : State) : (s.bump).l2 = s.l2 := rfl
@[simp] theorem bump_useCtr (s : State) : (s.bump).useCtr = s.useCtr := rfl
@[simp] theorem bump_resv (s : State) : (s.bump).resv = s.resv := rfl
@[simp] theorem bump_gmoves (s : State) : (s.bump).gmoves = s.gmoves := rfl
@[simp] theorem bump_flights (s : State) : (s.bump).flights = s.flights := rfl
@[simp] theorem bump_held (s : State) : (s.bump).held = s.held := rfl
@[simp] theorem bump_traceWaits (s : State) : (s.bump).traceWaits = s.traceWaits := rfl
@[simp] theorem bump_rinvs (s : State) : (s.bump).rinvs = s.rinvs := rfl
@[simp] theorem bump_discs (s : State) : (s.bump).discs = s.discs := rfl
@[simp] theorem bump_partRects (s : State) : (s.bump).partRects = s.partRects := rfl
@[simp] theorem bump_chips (s : State) : (s.bump).chips = s.chips := rfl
@[simp] theorem bump_procs (s : State) : (s.bump).procs = s.procs := rfl
@[simp] theorem bump_retireLog (s : State) : (s.bump).retireLog = s.retireLog := rfl
@[simp] theorem bump_boots (s : State) : (s.bump).boots = s.boots := rfl
@[simp] theorem bump_up (s : State) : (s.bump).up = s.up := rfl
@[simp] theorem bump_keys (s : State) : (s.bump).keys = s.keys := rfl
@[simp] theorem bump_reports (s : State) : (s.bump).reports = s.reports := rfl

@[simp] theorem useFree_mover (s : State) : (s.useFree).mover = s.mover := rfl
@[simp] theorem useFree_moves (s : State) : (s.useFree).moves = s.moves := rfl
@[simp] theorem useFree_curCore (s : State) : (s.useFree).curCore = s.curCore := rfl
@[simp] theorem useFree_curSlot (s : State) : (s.useFree).curSlot = s.curSlot := rfl
@[simp] theorem useFree_nextId (s : State) : (s.useFree).nextId = s.nextId := rfl
@[simp] theorem useFree_sites (s : State) : (s.useFree).sites = s.sites := rfl
@[simp] theorem useFree_cores (s : State) : (s.useFree).cores = s.cores := rfl
@[simp] theorem useFree_dram (s : State) : (s.useFree).dram = s.dram := rfl
@[simp] theorem useFree_codes (s : State) : (s.useFree).codes = s.codes := rfl
@[simp] theorem useFree_bad (s : State) : (s.useFree).bad = s.bad := rfl
@[simp] theorem useFree_l2 (s : State) : (s.useFree).l2 = s.l2 := rfl
@[simp] theorem useFree_useCtr (s : State) : (s.useFree).useCtr = s.useCtr := rfl
@[simp] theorem useFree_resv (s : State) : (s.useFree).resv = s.resv := rfl
@[simp] theorem useFree_gmoves (s : State) : (s.useFree).gmoves = s.gmoves := rfl
@[simp] theorem useFree_flights (s : State) : (s.useFree).flights = s.flights := rfl
@[simp] theorem useFree_held (s : State) : (s.useFree).held = s.held := rfl
@[simp] theorem useFree_traceWaits (s : State) : (s.useFree).traceWaits = s.traceWaits := rfl
@[simp] theorem useFree_rinvs (s : State) : (s.useFree).rinvs = s.rinvs := rfl
@[simp] theorem useFree_discs (s : State) : (s.useFree).discs = s.discs := rfl
@[simp] theorem useFree_partRects (s : State) : (s.useFree).partRects = s.partRects := rfl
@[simp] theorem useFree_chips (s : State) : (s.useFree).chips = s.chips := rfl
@[simp] theorem useFree_procs (s : State) : (s.useFree).procs = s.procs := rfl
@[simp] theorem useFree_retireLog (s : State) : (s.useFree).retireLog = s.retireLog := rfl
@[simp] theorem useFree_boots (s : State) : (s.useFree).boots = s.boots := rfl
@[simp] theorem useFree_up (s : State) : (s.useFree).up = s.up := rfl
@[simp] theorem useFree_keys (s : State) : (s.useFree).keys = s.keys := rfl
@[simp] theorem useFree_reports (s : State) : (s.useFree).reports = s.reports := rfl

@[simp] theorem report_mover (s : State) (r : Report) : (s.report r).mover = s.mover := rfl
@[simp] theorem report_moves (s : State) (r : Report) : (s.report r).moves = s.moves := rfl
@[simp] theorem report_freeCtr (s : State) (r : Report) : (s.report r).freeCtr = s.freeCtr := rfl
@[simp] theorem report_curCore (s : State) (r : Report) : (s.report r).curCore = s.curCore := rfl
@[simp] theorem report_curSlot (s : State) (r : Report) : (s.report r).curSlot = s.curSlot := rfl
@[simp] theorem report_nextId (s : State) (r : Report) : (s.report r).nextId = s.nextId := rfl
@[simp] theorem report_sites (s : State) (r : Report) : (s.report r).sites = s.sites := rfl
@[simp] theorem report_cores (s : State) (r : Report) : (s.report r).cores = s.cores := rfl
@[simp] theorem report_dram (s : State) (r : Report) : (s.report r).dram = s.dram := rfl
@[simp] theorem report_codes (s : State) (r : Report) : (s.report r).codes = s.codes := rfl
@[simp] theorem report_bad (s : State) (r : Report) : (s.report r).bad = s.bad := rfl
@[simp] theorem report_l2 (s : State) (r : Report) : (s.report r).l2 = s.l2 := rfl
@[simp] theorem report_useCtr (s : State) (r : Report) : (s.report r).useCtr = s.useCtr := rfl
@[simp] theorem report_resv (s : State) (r : Report) : (s.report r).resv = s.resv := rfl
@[simp] theorem report_gmoves (s : State) (r : Report) : (s.report r).gmoves = s.gmoves := rfl
@[simp] theorem report_flights (s : State) (r : Report) : (s.report r).flights = s.flights := rfl
@[simp] theorem report_held (s : State) (r : Report) : (s.report r).held = s.held := rfl
@[simp] theorem report_traceWaits (s : State) (r : Report) : (s.report r).traceWaits = s.traceWaits := rfl
@[simp] theorem report_rinvs (s : State) (r : Report) : (s.report r).rinvs = s.rinvs := rfl
@[simp] theorem report_discs (s : State) (r : Report) : (s.report r).discs = s.discs := rfl
@[simp] theorem report_partRects (s : State) (r : Report) : (s.report r).partRects = s.partRects := rfl
@[simp] theorem report_chips (s : State) (r : Report) : (s.report r).chips = s.chips := rfl
@[simp] theorem report_procs (s : State) (r : Report) : (s.report r).procs = s.procs := rfl
@[simp] theorem report_retireLog (s : State) (r : Report) : (s.report r).retireLog = s.retireLog := rfl
@[simp] theorem report_boots (s : State) (r : Report) : (s.report r).boots = s.boots := rfl
@[simp] theorem report_up (s : State) (r : Report) : (s.report r).up = s.up := rfl
@[simp] theorem report_keys (s : State) (r : Report) : (s.report r).keys = s.keys := rfl

@[simp] theorem modProc_mover (s : State) (d : Nat) (f : Proc → Proc) : (s.modProc d f).mover = s.mover := rfl
@[simp] theorem modProc_moves (s : State) (d : Nat) (f : Proc → Proc) : (s.modProc d f).moves = s.moves := rfl
@[simp] theorem modProc_freeCtr (s : State) (d : Nat) (f : Proc → Proc) : (s.modProc d f).freeCtr = s.freeCtr := rfl
@[simp] theorem modProc_curCore (s : State) (d : Nat) (f : Proc → Proc) : (s.modProc d f).curCore = s.curCore := rfl
@[simp] theorem modProc_curSlot (s : State) (d : Nat) (f : Proc → Proc) : (s.modProc d f).curSlot = s.curSlot := rfl
@[simp] theorem modProc_nextId (s : State) (d : Nat) (f : Proc → Proc) : (s.modProc d f).nextId = s.nextId := rfl
@[simp] theorem modProc_sites (s : State) (d : Nat) (f : Proc → Proc) : (s.modProc d f).sites = s.sites := rfl
@[simp] theorem modProc_cores (s : State) (d : Nat) (f : Proc → Proc) : (s.modProc d f).cores = s.cores := rfl
@[simp] theorem modProc_dram (s : State) (d : Nat) (f : Proc → Proc) : (s.modProc d f).dram = s.dram := rfl
@[simp] theorem modProc_codes (s : State) (d : Nat) (f : Proc → Proc) : (s.modProc d f).codes = s.codes := rfl
@[simp] theorem modProc_bad (s : State) (d : Nat) (f : Proc → Proc) : (s.modProc d f).bad = s.bad := rfl
@[simp] theorem modProc_l2 (s : State) (d : Nat) (f : Proc → Proc) : (s.modProc d f).l2 = s.l2 := rfl
@[simp] theorem modProc_useCtr (s : State) (d : Nat) (f : Proc → Proc) : (s.modProc d f).useCtr = s.useCtr := rfl
@[simp] theorem modProc_resv (s : State) (d : Nat) (f : Proc → Proc) : (s.modProc d f).resv = s.resv := rfl
@[simp] theorem modProc_gmoves (s : State) (d : Nat) (f : Proc → Proc) : (s.modProc d f).gmoves = s.gmoves := rfl
@[simp] theorem modProc_flights (s : State) (d : Nat) (f : Proc → Proc) : (s.modProc d f).flights = s.flights := rfl
@[simp] theorem modProc_held (s : State) (d : Nat) (f : Proc → Proc) : (s.modProc d f).held = s.held := rfl
@[simp] theorem modProc_traceWaits (s : State) (d : Nat) (f : Proc → Proc) : (s.modProc d f).traceWaits = s.traceWaits := rfl
@[simp] theorem modProc_rinvs (s : State) (d : Nat) (f : Proc → Proc) : (s.modProc d f).rinvs = s.rinvs := rfl
@[simp] theorem modProc_discs (s : State) (d : Nat) (f : Proc → Proc) : (s.modProc d f).discs = s.discs := rfl
@[simp] theorem modProc_partRects (s : State) (d : Nat) (f : Proc → Proc) : (s.modProc d f).partRects = s.partRects := rfl
@[simp] theorem modProc_chips (s : State) (d : Nat) (f : Proc → Proc) : (s.modProc d f).chips = s.chips := rfl
@[simp] theorem modProc_retireLog (s : State) (d : Nat) (f : Proc → Proc) : (s.modProc d f).retireLog = s.retireLog := rfl
@[simp] theorem modProc_boots (s : State) (d : Nat) (f : Proc → Proc) : (s.modProc d f).boots = s.boots := rfl
@[simp] theorem modProc_up (s : State) (d : Nat) (f : Proc → Proc) : (s.modProc d f).up = s.up := rfl
@[simp] theorem modProc_keys (s : State) (d : Nat) (f : Proc → Proc) : (s.modProc d f).keys = s.keys := rfl
@[simp] theorem modProc_reports (s : State) (d : Nat) (f : Proc → Proc) : (s.modProc d f).reports = s.reports := rfl

@[simp] theorem modChip_mover (s : State) (n : Nat) (f : NetChip → NetChip) : (s.modChip n f).mover = s.mover := rfl
@[simp] theorem modChip_moves (s : State) (n : Nat) (f : NetChip → NetChip) : (s.modChip n f).moves = s.moves := rfl
@[simp] theorem modChip_freeCtr (s : State) (n : Nat) (f : NetChip → NetChip) : (s.modChip n f).freeCtr = s.freeCtr := rfl
@[simp] theorem modChip_curCore (s : State) (n : Nat) (f : NetChip → NetChip) : (s.modChip n f).curCore = s.curCore := rfl
@[simp] theorem modChip_curSlot (s : State) (n : Nat) (f : NetChip → NetChip) : (s.modChip n f).curSlot = s.curSlot := rfl
@[simp] theorem modChip_nextId (s : State) (n : Nat) (f : NetChip → NetChip) : (s.modChip n f).nextId = s.nextId := rfl
@[simp] theorem modChip_sites (s : State) (n : Nat) (f : NetChip → NetChip) : (s.modChip n f).sites = s.sites := rfl
@[simp] theorem modChip_cores (s : State) (n : Nat) (f : NetChip → NetChip) : (s.modChip n f).cores = s.cores := rfl
@[simp] theorem modChip_dram (s : State) (n : Nat) (f : NetChip → NetChip) : (s.modChip n f).dram = s.dram := rfl
@[simp] theorem modChip_codes (s : State) (n : Nat) (f : NetChip → NetChip) : (s.modChip n f).codes = s.codes := rfl
@[simp] theorem modChip_bad (s : State) (n : Nat) (f : NetChip → NetChip) : (s.modChip n f).bad = s.bad := rfl
@[simp] theorem modChip_l2 (s : State) (n : Nat) (f : NetChip → NetChip) : (s.modChip n f).l2 = s.l2 := rfl
@[simp] theorem modChip_useCtr (s : State) (n : Nat) (f : NetChip → NetChip) : (s.modChip n f).useCtr = s.useCtr := rfl
@[simp] theorem modChip_resv (s : State) (n : Nat) (f : NetChip → NetChip) : (s.modChip n f).resv = s.resv := rfl
@[simp] theorem modChip_gmoves (s : State) (n : Nat) (f : NetChip → NetChip) : (s.modChip n f).gmoves = s.gmoves := rfl
@[simp] theorem modChip_flights (s : State) (n : Nat) (f : NetChip → NetChip) : (s.modChip n f).flights = s.flights := rfl
@[simp] theorem modChip_held (s : State) (n : Nat) (f : NetChip → NetChip) : (s.modChip n f).held = s.held := rfl
@[simp] theorem modChip_traceWaits (s : State) (n : Nat) (f : NetChip → NetChip) : (s.modChip n f).traceWaits = s.traceWaits := rfl
@[simp] theorem modChip_rinvs (s : State) (n : Nat) (f : NetChip → NetChip) : (s.modChip n f).rinvs = s.rinvs := rfl
@[simp] theorem modChip_discs (s : State) (n : Nat) (f : NetChip → NetChip) : (s.modChip n f).discs = s.discs := rfl
@[simp] theorem modChip_partRects (s : State) (n : Nat) (f : NetChip → NetChip) : (s.modChip n f).partRects = s.partRects := rfl
@[simp] theorem modChip_procs (s : State) (n : Nat) (f : NetChip → NetChip) : (s.modChip n f).procs = s.procs := rfl
@[simp] theorem modChip_retireLog (s : State) (n : Nat) (f : NetChip → NetChip) : (s.modChip n f).retireLog = s.retireLog := rfl
@[simp] theorem modChip_boots (s : State) (n : Nat) (f : NetChip → NetChip) : (s.modChip n f).boots = s.boots := rfl
@[simp] theorem modChip_up (s : State) (n : Nat) (f : NetChip → NetChip) : (s.modChip n f).up = s.up := rfl
@[simp] theorem modChip_keys (s : State) (n : Nat) (f : NetChip → NetChip) : (s.modChip n f).keys = s.keys := rfl
@[simp] theorem modChip_reports (s : State) (n : Nat) (f : NetChip → NetChip) : (s.modChip n f).reports = s.reports := rfl

/-! ## Cores, slots and sites -/

theorem core_setCore (s : State) (c : Nat) (k : Core) (d : Nat) : (s.setCore c k).core d = if d = c then k else s.core d := by
  unfold State.core State.setCore
  by_cases h : d = c <;> simp [nget_nput, h]

@[simp] theorem core_setCore_self (s : State) (c : Nat) (k : Core) : (s.setCore c k).core c = k := by simp [core_setCore]

theorem core_modCore (s : State) (c : Nat) (f : Core → Core) (d : Nat) : (s.modCore c f).core d = if d = c then f (s.core c) else s.core d :=
  core_setCore ..

@[simp] theorem core_modCore_self (s : State) (c : Nat) (f : Core → Core) : (s.modCore c f).core c = f (s.core c) := by simp [core_modCore]

theorem slot_setSlot (k : Core) (n : Nat) (t : Slot) (m : Nat) : (k.setSlot n t).slot m = if m = n then t else k.slot m := by
  unfold Core.slot Core.setSlot
  by_cases h : m = n <;> simp [nget_nput, h]

@[simp] theorem slot_setSlot_self (k : Core) (n : Nat) (t : Slot) : (k.setSlot n t).slot n = t := by simp [slot_setSlot]

theorem core_modSlot (s : State) (c n : Nat) (f : Slot → Slot) (d : Nat) :
    (s.modSlot c n f).core d = if d = c then (s.core c).setSlot n (f (s.slot c n)) else s.core d := core_setCore ..

theorem slot_modSlot (s : State) (c n : Nat) (f : Slot → Slot) (d m : Nat) :
    (s.modSlot c n f).slot d m = if d = c ∧ m = n then f (s.slot c n) else s.slot d m := by
  unfold State.slot
  rw [core_modSlot]
  by_cases h : d = c
  · subst h; by_cases hm : m = n <;> simp [slot_setSlot, hm, State.slot]
  · simp [h]

@[simp] theorem slot_modSlot_self (s : State) (c n : Nat) (f : Slot → Slot) : (s.modSlot c n f).slot c n = f (s.slot c n) := by simp [slot_modSlot]

@[simp] theorem me_modMe (s : State) (f : Slot → Slot) : (s.modMe f).me = f s.me := slot_modSlot_self ..

theorem slot_modMe (s : State) (f : Slot → Slot) (d m : Nat) :
    (s.modMe f).slot d m = if d = s.curCore ∧ m = s.curSlot then f s.me else s.slot d m := slot_modSlot ..

@[simp] theorem here_modHere (s : State) (f : Core → Core) : (s.modHere f).here = f s.here := core_modCore_self ..

theorem core_modHere (s : State) (f : Core → Core) (d : Nat) : (s.modHere f).core d = if d = s.curCore then f s.here else s.core d := core_modCore ..

theorem core_modMe (s : State) (f : Slot → Slot) (d : Nat) :
    (s.modMe f).core d = if d = s.curCore then s.here.setSlot s.curSlot (f s.me) else s.core d := core_modSlot ..

@[simp] theorem here_modMe (s : State) (f : Slot → Slot) : (s.modMe f).here = s.here.setSlot s.curSlot (f s.me) := by
  show (s.modMe f).core s.curCore = _
  simp [core_modMe]

/-- Two updates of the slot whose turn runs are one. -/
theorem modMe_modMe (s : State) (f g : Slot → Slot) : ((s.modMe f).modMe g).me = g (f s.me) := by simp

theorem site_setSite (s : State) (n : Nat) (t : Site) (m : Nat) : (s.setSite n t).site m = if m = n then t else s.site m := by
  unfold State.site State.setSite
  by_cases h : m = n <;> simp [nget_nput, h]

@[simp] theorem site_setSite_self (s : State) (n : Nat) (t : Site) : (s.setSite n t).site n = t := by simp [site_setSite]

theorem site_modSite (s : State) (n : Nat) (f : Site → Site) (m : Nat) : (s.modSite n f).site m = if m = n then f (s.site n) else s.site m :=
  site_setSite ..

@[simp] theorem site_modSite_self (s : State) (n : Nat) (f : Site → Site) : (s.modSite n f).site n = f (s.site n) := by simp [site_modSite]

@[simp] theorem site_setCore (s : State) (c : Nat) (k : Core) (n : Nat) : (s.setCore c k).site n = s.site n := rfl
@[simp] theorem site_modCore (s : State) (c : Nat) (f : Core → Core) (n : Nat) : (s.modCore c f).site n = s.site n := rfl
@[simp] theorem site_modMe (s : State) (f : Slot → Slot) (n : Nat) : (s.modMe f).site n = s.site n := rfl
@[simp] theorem core_setSite (s : State) (n : Nat) (t : Site) (c : Nat) : (s.setSite n t).core c = s.core c := rfl
@[simp] theorem core_modSite (s : State) (n : Nat) (f : Site → Site) (c : Nat) : (s.modSite n f).core c = s.core c := rfl
@[simp] theorem slot_modSite (s : State) (n : Nat) (f : Site → Site) (c m : Nat) : (s.modSite n f).slot c m = s.slot c m := rfl
@[simp] theorem proc_modProc_self (s : State) (d : Nat) (f : Proc → Proc) : (s.modProc d f).proc d = f (s.proc d) := by
  simp [State.proc, State.modProc]
@[simp] theorem chip_modChip_self (s : State) (n : Nat) (f : NetChip → NetChip) : (s.modChip n f).chip n = f (s.chip n) := by
  simp [State.chip, State.modChip]

/-! ## Registers of a slot -/

/-- x0 reads zero and FULL in every state (R60). -/
@[simp] theorem xr_zero (t : Slot) : t.xr 0 = ⟨.full, 0⟩ := rfl

/-- A write of x0 changes nothing (R60). -/
@[simp] theorem setXr_zero (t : Slot) (r : Reg 64) : t.setXr 0 r = t := rfl

theorem xr_setXr (t : Slot) (n : Nat) (r : Reg 64) (m : Nat) : (t.setXr n r).xr m = if m = n ∧ n ≠ 0 then r else t.xr m := by
  unfold Slot.setXr Slot.xr
  by_cases hn : n = 0
  · simp [hn]
  · by_cases hm : m = n <;> simp [nget_nput, hm, hn]

theorem vr_setVr (t : Slot) (n : Nat) (r : Reg 2048) (m : Nat) : (t.setVr n r).vr m = if m = n then r else t.vr m := by
  unfold Slot.setVr Slot.vr; by_cases hm : m = n <;> simp [nget_nput, hm]

theorem mr_setMr (t : Slot) (n : Nat) (r : Reg 34816) (m : Nat) : (t.setMr n r).mr m = if m = n then r else t.mr m := by
  unfold Slot.setMr Slot.mr; by_cases hm : m = n <;> simp [nget_nput, hm]

theorem cr_setCr (t : Slot) (n : Nat) (r : Reg 131072) (m : Nat) : (t.setCr n r).cr m = if m = n then r else t.cr m := by
  unfold Slot.setCr Slot.cr; by_cases hm : m = n <;> simp [nget_nput, hm]

@[simp] theorem setXr_state (t : Slot) (n : Nat) (r : Reg 64) : (t.setXr n r).state = t.state := by unfold Slot.setXr; split <;> rfl
@[simp] theorem setXr_before (t : Slot) (n : Nat) (r : Reg 64) : (t.setXr n r).before = t.before := by unfold Slot.setXr; split <;> rfl
@[simp] theorem setXr_role (t : Slot) (n : Nat) (r : Reg 64) : (t.setXr n r).role = t.role := by unfold Slot.setXr; split <;> rfl
@[simp] theorem setXr_worker (t : Slot) (n : Nat) (r : Reg 64) : (t.setXr n r).worker = t.worker := by unfold Slot.setXr; split <;> rfl
@[simp] theorem setXr_pc (t : Slot) (n : Nat) (r : Reg 64) : (t.setXr n r).pc = t.pc := by unfold Slot.setXr; split <;> rfl
@[simp] theorem setXr_tcause (t : Slot) (n : Nat) (r : Reg 64) : (t.setXr n r).tcause = t.tcause := by unfold Slot.setXr; split <;> rfl
@[simp] theorem setXr_tval (t : Slot) (n : Nat) (r : Reg 64) : (t.setXr n r).tval = t.tval := by unfold Slot.setXr; split <;> rfl
@[simp] theorem setXr_tpc (t : Slot) (n : Nat) (r : Reg 64) : (t.setXr n r).tpc = t.tpc := by unfold Slot.setXr; split <;> rfl
@[simp] theorem setXr_v (t : Slot) (n : Nat) (r : Reg 64) : (t.setXr n r).v = t.v := by unfold Slot.setXr; split <;> rfl
@[simp] theorem setXr_m (t : Slot) (n : Nat) (r : Reg 64) : (t.setXr n r).m = t.m := by unfold Slot.setXr; split <;> rfl
@[simp] theorem setXr_c (t : Slot) (n : Nat) (r : Reg 64) : (t.setXr n r).c = t.c := by unfold Slot.setXr; split <;> rfl
@[simp] theorem setXr_streams (t : Slot) (n : Nat) (r : Reg 64) : (t.setXr n r).streams = t.streams := by unfold Slot.setXr; split <;> rfl
@[simp] theorem setXr_park (t : Slot) (n : Nat) (r : Reg 64) : (t.setXr n r).park = t.park := by unfold Slot.setXr; split <;> rfl
@[simp] theorem setXr_parkCount (t : Slot) (n : Nat) (r : Reg 64) : (t.setXr n r).parkCount = t.parkCount := by unfold Slot.setXr; split <;> rfl
@[simp] theorem setXr_parklim (t : Slot) (n : Nat) (r : Reg 64) : (t.setXr n r).parklim = t.parklim := by unfold Slot.setXr; split <;> rfl
@[simp] theorem setXr_vflags (t : Slot) (n : Nat) (r : Reg 64) : (t.setXr n r).vflags = t.vflags := by unfold Slot.setXr; split <;> rfl
@[simp] theorem setXr_srseed (t : Slot) (n : Nat) (r : Reg 64) : (t.setXr n r).srseed = t.srseed := by unfold Slot.setXr; split <;> rfl
@[simp] theorem setXr_srctr (t : Slot) (n : Nat) (r : Reg 64) : (t.setXr n r).srctr = t.srctr := by unfold Slot.setXr; split <;> rfl
@[simp] theorem setXr_ordctl (t : Slot) (n : Nat) (r : Reg 64) : (t.setXr n r).ordctl = t.ordctl := by unfold Slot.setXr; split <;> rfl
@[simp] theorem setXr_stfail (t : Slot) (n : Nat) (r : Reg 64) : (t.setXr n r).stfail = t.stfail := by unfold Slot.setXr; split <;> rfl
@[simp] theorem setXr_tag (t : Slot) (n : Nat) (r : Reg 64) : (t.setXr n r).tag = t.tag := by unfold Slot.setXr; split <;> rfl
@[simp] theorem setXr_bstream (t : Slot) (n : Nat) (r : Reg 64) : (t.setXr n r).bstream = t.bstream := by unfold Slot.setXr; split <;> rfl
@[simp] theorem setXr_mcfg (t : Slot) (n : Nat) (r : Reg 64) : (t.setXr n r).mcfg = t.mcfg := by unfold Slot.setXr; split <;> rfl
@[simp] theorem setXr_mstcfg (t : Slot) (n : Nat) (r : Reg 64) : (t.setXr n r).mstcfg = t.mstcfg := by unfold Slot.setXr; split <;> rfl
@[simp] theorem setXr_rptstat (t : Slot) (n : Nat) (r : Reg 64) : (t.setXr n r).rptstat = t.rptstat := by unfold Slot.setXr; split <;> rfl
@[simp] theorem setXr_instret (t : Slot) (n : Nat) (r : Reg 64) : (t.setXr n r).instret = t.instret := by unfold Slot.setXr; split <;> rfl
@[simp] theorem setXr_rfinfo (t : Slot) (n : Nat) (r : Reg 64) : (t.setXr n r).rfinfo = t.rfinfo := by unfold Slot.setXr; split <;> rfl
@[simp] theorem setXr_idx (t : Slot) (n : Nat) (r : Reg 64) : (t.setXr n r).idx = t.idx := by unfold Slot.setXr; split <;> rfl
@[simp] theorem setXr_aperture (t : Slot) (n : Nat) (r : Reg 64) : (t.setXr n r).aperture = t.aperture := by unfold Slot.setXr; split <;> rfl
@[simp] theorem setXr_brk (t : Slot) (n : Nat) (r : Reg 64) : (t.setXr n r).brk = t.brk := by unfold Slot.setXr; split <;> rfl
@[simp] theorem setXr_skipBreak (t : Slot) (n : Nat) (r : Reg 64) : (t.setXr n r).skipBreak = t.skipBreak := by unfold Slot.setXr; split <;> rfl
@[simp] theorem setXr_broken (t : Slot) (n : Nat) (r : Reg 64) : (t.setXr n r).broken = t.broken := by unfold Slot.setXr; split <;> rfl
@[simp] theorem setXr_mail (t : Slot) (n : Nat) (r : Reg 64) : (t.setXr n r).mail = t.mail := by unfold Slot.setXr; split <;> rfl
@[simp] theorem setXr_mailOrder (t : Slot) (n : Nat) (r : Reg 64) : (t.setXr n r).mailOrder = t.mailOrder := by unfold Slot.setXr; split <;> rfl
@[simp] theorem setXr_recvClaim (t : Slot) (n : Nat) (r : Reg 64) : (t.setXr n r).recvClaim = t.recvClaim := by unfold Slot.setXr; split <;> rfl
@[simp] theorem setXr_recvDrop (t : Slot) (n : Nat) (r : Reg 64) : (t.setXr n r).recvDrop = t.recvDrop := by unfold Slot.setXr; split <;> rfl
@[simp] theorem setXr_specOpen (t : Slot) (n : Nat) (r : Reg 64) : (t.setXr n r).specOpen = t.specOpen := by unfold Slot.setXr; split <;> rfl
@[simp] theorem setXr_hold (t : Slot) (n : Nat) (r : Reg 64) : (t.setXr n r).hold = t.hold := by unfold Slot.setXr; split <;> rfl
@[simp] theorem setXr_prio (t : Slot) (n : Nat) (r : Reg 64) : (t.setXr n r).prio = t.prio := by unfold Slot.setXr; split <;> rfl
@[simp] theorem setXr_origin (t : Slot) (n : Nat) (r : Reg 64) : (t.setXr n r).origin = t.origin := by unfold Slot.setXr; split <;> rfl
@[simp] theorem setXr_viaInbox (t : Slot) (n : Nat) (r : Reg 64) : (t.setXr n r).viaInbox = t.viaInbox := by unfold Slot.setXr; split <;> rfl
@[simp] theorem setXr_emptied (t : Slot) (n : Nat) (r : Reg 64) : (t.setXr n r).emptied = t.emptied := by unfold Slot.setXr; split <;> rfl
@[simp] theorem setXr_epoch (t : Slot) (n : Nat) (r : Reg 64) : (t.setXr n r).epoch = t.epoch := by unfold Slot.setXr; split <;> rfl
@[simp] theorem setXr_underSave (t : Slot) (n : Nat) (r : Reg 64) : (t.setXr n r).underSave = t.underSave := by unfold Slot.setXr; split <;> rfl
@[simp] theorem setXr_reserved (t : Slot) (n : Nat) (r : Reg 64) : (t.setXr n r).reserved = t.reserved := by unfold Slot.setXr; split <;> rfl
@[simp] theorem setXr_doneWait (t : Slot) (n : Nat) (r : Reg 64) : (t.setXr n r).doneWait = t.doneWait := by unfold Slot.setXr; split <;> rfl
@[simp] theorem setXr_acquires (t : Slot) (n : Nat) (r : Reg 64) : (t.setXr n r).acquires = t.acquires := by unfold Slot.setXr; split <;> rfl
@[simp] theorem setXr_fences (t : Slot) (n : Nat) (r : Reg 64) : (t.setXr n r).fences = t.fences := by unfold Slot.setXr; split <;> rfl
@[simp] theorem setXr_missScope (t : Slot) (n : Nat) (r : Reg 64) : (t.setXr n r).missScope = t.missScope := by unfold Slot.setXr; split <;> rfl
@[simp] theorem setXr_saw (t : Slot) (n : Nat) (r : Reg 64) : (t.setXr n r).saw = t.saw := by unfold Slot.setXr; split <;> rfl
@[simp] theorem setXr_busyUntil (t : Slot) (n : Nat) (r : Reg 64) : (t.setXr n r).busyUntil = t.busyUntil := by unfold Slot.setXr; split <;> rfl
@[simp] theorem setXr_fetch (t : Slot) (n : Nat) (r : Reg 64) : (t.setXr n r).fetch = t.fetch := by unfold Slot.setXr; split <;> rfl
@[simp] theorem setXr_walkOut (t : Slot) (n : Nat) (r : Reg 64) : (t.setXr n r).walkOut = t.walkOut := by unfold Slot.setXr; split <;> rfl
@[simp] theorem setXr_rewalked (t : Slot) (n : Nat) (r : Reg 64) : (t.setXr n r).rewalked = t.rewalked := by unfold Slot.setXr; split <;> rfl
@[simp] theorem setXr_dirWait (t : Slot) (n : Nat) (r : Reg 64) : (t.setXr n r).dirWait = t.dirWait := by unfold Slot.setXr; split <;> rfl

@[simp] theorem setVr_state (t : Slot) (n : Nat) (r : Reg 2048) : (t.setVr n r).state = t.state := rfl
@[simp] theorem setVr_before (t : Slot) (n : Nat) (r : Reg 2048) : (t.setVr n r).before = t.before := rfl
@[simp] theorem setVr_role (t : Slot) (n : Nat) (r : Reg 2048) : (t.setVr n r).role = t.role := rfl
@[simp] theorem setVr_worker (t : Slot) (n : Nat) (r : Reg 2048) : (t.setVr n r).worker = t.worker := rfl
@[simp] theorem setVr_pc (t : Slot) (n : Nat) (r : Reg 2048) : (t.setVr n r).pc = t.pc := rfl
@[simp] theorem setVr_tcause (t : Slot) (n : Nat) (r : Reg 2048) : (t.setVr n r).tcause = t.tcause := rfl
@[simp] theorem setVr_tval (t : Slot) (n : Nat) (r : Reg 2048) : (t.setVr n r).tval = t.tval := rfl
@[simp] theorem setVr_tpc (t : Slot) (n : Nat) (r : Reg 2048) : (t.setVr n r).tpc = t.tpc := rfl
@[simp] theorem setVr_x (t : Slot) (n : Nat) (r : Reg 2048) : (t.setVr n r).x = t.x := rfl
@[simp] theorem setVr_m (t : Slot) (n : Nat) (r : Reg 2048) : (t.setVr n r).m = t.m := rfl
@[simp] theorem setVr_c (t : Slot) (n : Nat) (r : Reg 2048) : (t.setVr n r).c = t.c := rfl
@[simp] theorem setVr_streams (t : Slot) (n : Nat) (r : Reg 2048) : (t.setVr n r).streams = t.streams := rfl
@[simp] theorem setVr_park (t : Slot) (n : Nat) (r : Reg 2048) : (t.setVr n r).park = t.park := rfl
@[simp] theorem setVr_parkCount (t : Slot) (n : Nat) (r : Reg 2048) : (t.setVr n r).parkCount = t.parkCount := rfl
@[simp] theorem setVr_parklim (t : Slot) (n : Nat) (r : Reg 2048) : (t.setVr n r).parklim = t.parklim := rfl
@[simp] theorem setVr_vflags (t : Slot) (n : Nat) (r : Reg 2048) : (t.setVr n r).vflags = t.vflags := rfl
@[simp] theorem setVr_srseed (t : Slot) (n : Nat) (r : Reg 2048) : (t.setVr n r).srseed = t.srseed := rfl
@[simp] theorem setVr_srctr (t : Slot) (n : Nat) (r : Reg 2048) : (t.setVr n r).srctr = t.srctr := rfl
@[simp] theorem setVr_ordctl (t : Slot) (n : Nat) (r : Reg 2048) : (t.setVr n r).ordctl = t.ordctl := rfl
@[simp] theorem setVr_stfail (t : Slot) (n : Nat) (r : Reg 2048) : (t.setVr n r).stfail = t.stfail := rfl
@[simp] theorem setVr_tag (t : Slot) (n : Nat) (r : Reg 2048) : (t.setVr n r).tag = t.tag := rfl
@[simp] theorem setVr_bstream (t : Slot) (n : Nat) (r : Reg 2048) : (t.setVr n r).bstream = t.bstream := rfl
@[simp] theorem setVr_mcfg (t : Slot) (n : Nat) (r : Reg 2048) : (t.setVr n r).mcfg = t.mcfg := rfl
@[simp] theorem setVr_mstcfg (t : Slot) (n : Nat) (r : Reg 2048) : (t.setVr n r).mstcfg = t.mstcfg := rfl
@[simp] theorem setVr_rptstat (t : Slot) (n : Nat) (r : Reg 2048) : (t.setVr n r).rptstat = t.rptstat := rfl
@[simp] theorem setVr_instret (t : Slot) (n : Nat) (r : Reg 2048) : (t.setVr n r).instret = t.instret := rfl
@[simp] theorem setVr_rfinfo (t : Slot) (n : Nat) (r : Reg 2048) : (t.setVr n r).rfinfo = t.rfinfo := rfl
@[simp] theorem setVr_idx (t : Slot) (n : Nat) (r : Reg 2048) : (t.setVr n r).idx = t.idx := rfl
@[simp] theorem setVr_aperture (t : Slot) (n : Nat) (r : Reg 2048) : (t.setVr n r).aperture = t.aperture := rfl
@[simp] theorem setVr_brk (t : Slot) (n : Nat) (r : Reg 2048) : (t.setVr n r).brk = t.brk := rfl
@[simp] theorem setVr_skipBreak (t : Slot) (n : Nat) (r : Reg 2048) : (t.setVr n r).skipBreak = t.skipBreak := rfl
@[simp] theorem setVr_broken (t : Slot) (n : Nat) (r : Reg 2048) : (t.setVr n r).broken = t.broken := rfl
@[simp] theorem setVr_mail (t : Slot) (n : Nat) (r : Reg 2048) : (t.setVr n r).mail = t.mail := rfl
@[simp] theorem setVr_mailOrder (t : Slot) (n : Nat) (r : Reg 2048) : (t.setVr n r).mailOrder = t.mailOrder := rfl
@[simp] theorem setVr_recvClaim (t : Slot) (n : Nat) (r : Reg 2048) : (t.setVr n r).recvClaim = t.recvClaim := rfl
@[simp] theorem setVr_recvDrop (t : Slot) (n : Nat) (r : Reg 2048) : (t.setVr n r).recvDrop = t.recvDrop := rfl
@[simp] theorem setVr_specOpen (t : Slot) (n : Nat) (r : Reg 2048) : (t.setVr n r).specOpen = t.specOpen := rfl
@[simp] theorem setVr_hold (t : Slot) (n : Nat) (r : Reg 2048) : (t.setVr n r).hold = t.hold := rfl
@[simp] theorem setVr_prio (t : Slot) (n : Nat) (r : Reg 2048) : (t.setVr n r).prio = t.prio := rfl
@[simp] theorem setVr_origin (t : Slot) (n : Nat) (r : Reg 2048) : (t.setVr n r).origin = t.origin := rfl
@[simp] theorem setVr_viaInbox (t : Slot) (n : Nat) (r : Reg 2048) : (t.setVr n r).viaInbox = t.viaInbox := rfl
@[simp] theorem setVr_emptied (t : Slot) (n : Nat) (r : Reg 2048) : (t.setVr n r).emptied = t.emptied := rfl
@[simp] theorem setVr_epoch (t : Slot) (n : Nat) (r : Reg 2048) : (t.setVr n r).epoch = t.epoch := rfl
@[simp] theorem setVr_underSave (t : Slot) (n : Nat) (r : Reg 2048) : (t.setVr n r).underSave = t.underSave := rfl
@[simp] theorem setVr_reserved (t : Slot) (n : Nat) (r : Reg 2048) : (t.setVr n r).reserved = t.reserved := rfl
@[simp] theorem setVr_doneWait (t : Slot) (n : Nat) (r : Reg 2048) : (t.setVr n r).doneWait = t.doneWait := rfl
@[simp] theorem setVr_acquires (t : Slot) (n : Nat) (r : Reg 2048) : (t.setVr n r).acquires = t.acquires := rfl
@[simp] theorem setVr_fences (t : Slot) (n : Nat) (r : Reg 2048) : (t.setVr n r).fences = t.fences := rfl
@[simp] theorem setVr_missScope (t : Slot) (n : Nat) (r : Reg 2048) : (t.setVr n r).missScope = t.missScope := rfl
@[simp] theorem setVr_saw (t : Slot) (n : Nat) (r : Reg 2048) : (t.setVr n r).saw = t.saw := rfl
@[simp] theorem setVr_busyUntil (t : Slot) (n : Nat) (r : Reg 2048) : (t.setVr n r).busyUntil = t.busyUntil := rfl
@[simp] theorem setVr_fetch (t : Slot) (n : Nat) (r : Reg 2048) : (t.setVr n r).fetch = t.fetch := rfl
@[simp] theorem setVr_walkOut (t : Slot) (n : Nat) (r : Reg 2048) : (t.setVr n r).walkOut = t.walkOut := rfl
@[simp] theorem setVr_rewalked (t : Slot) (n : Nat) (r : Reg 2048) : (t.setVr n r).rewalked = t.rewalked := rfl
@[simp] theorem setVr_dirWait (t : Slot) (n : Nat) (r : Reg 2048) : (t.setVr n r).dirWait = t.dirWait := rfl

@[simp] theorem setMr_state (t : Slot) (n : Nat) (r : Reg 34816) : (t.setMr n r).state = t.state := rfl
@[simp] theorem setMr_before (t : Slot) (n : Nat) (r : Reg 34816) : (t.setMr n r).before = t.before := rfl
@[simp] theorem setMr_role (t : Slot) (n : Nat) (r : Reg 34816) : (t.setMr n r).role = t.role := rfl
@[simp] theorem setMr_worker (t : Slot) (n : Nat) (r : Reg 34816) : (t.setMr n r).worker = t.worker := rfl
@[simp] theorem setMr_pc (t : Slot) (n : Nat) (r : Reg 34816) : (t.setMr n r).pc = t.pc := rfl
@[simp] theorem setMr_tcause (t : Slot) (n : Nat) (r : Reg 34816) : (t.setMr n r).tcause = t.tcause := rfl
@[simp] theorem setMr_tval (t : Slot) (n : Nat) (r : Reg 34816) : (t.setMr n r).tval = t.tval := rfl
@[simp] theorem setMr_tpc (t : Slot) (n : Nat) (r : Reg 34816) : (t.setMr n r).tpc = t.tpc := rfl
@[simp] theorem setMr_x (t : Slot) (n : Nat) (r : Reg 34816) : (t.setMr n r).x = t.x := rfl
@[simp] theorem setMr_v (t : Slot) (n : Nat) (r : Reg 34816) : (t.setMr n r).v = t.v := rfl
@[simp] theorem setMr_c (t : Slot) (n : Nat) (r : Reg 34816) : (t.setMr n r).c = t.c := rfl
@[simp] theorem setMr_streams (t : Slot) (n : Nat) (r : Reg 34816) : (t.setMr n r).streams = t.streams := rfl
@[simp] theorem setMr_park (t : Slot) (n : Nat) (r : Reg 34816) : (t.setMr n r).park = t.park := rfl
@[simp] theorem setMr_parkCount (t : Slot) (n : Nat) (r : Reg 34816) : (t.setMr n r).parkCount = t.parkCount := rfl
@[simp] theorem setMr_parklim (t : Slot) (n : Nat) (r : Reg 34816) : (t.setMr n r).parklim = t.parklim := rfl
@[simp] theorem setMr_vflags (t : Slot) (n : Nat) (r : Reg 34816) : (t.setMr n r).vflags = t.vflags := rfl
@[simp] theorem setMr_srseed (t : Slot) (n : Nat) (r : Reg 34816) : (t.setMr n r).srseed = t.srseed := rfl
@[simp] theorem setMr_srctr (t : Slot) (n : Nat) (r : Reg 34816) : (t.setMr n r).srctr = t.srctr := rfl
@[simp] theorem setMr_ordctl (t : Slot) (n : Nat) (r : Reg 34816) : (t.setMr n r).ordctl = t.ordctl := rfl
@[simp] theorem setMr_stfail (t : Slot) (n : Nat) (r : Reg 34816) : (t.setMr n r).stfail = t.stfail := rfl
@[simp] theorem setMr_tag (t : Slot) (n : Nat) (r : Reg 34816) : (t.setMr n r).tag = t.tag := rfl
@[simp] theorem setMr_bstream (t : Slot) (n : Nat) (r : Reg 34816) : (t.setMr n r).bstream = t.bstream := rfl
@[simp] theorem setMr_mcfg (t : Slot) (n : Nat) (r : Reg 34816) : (t.setMr n r).mcfg = t.mcfg := rfl
@[simp] theorem setMr_mstcfg (t : Slot) (n : Nat) (r : Reg 34816) : (t.setMr n r).mstcfg = t.mstcfg := rfl
@[simp] theorem setMr_rptstat (t : Slot) (n : Nat) (r : Reg 34816) : (t.setMr n r).rptstat = t.rptstat := rfl
@[simp] theorem setMr_instret (t : Slot) (n : Nat) (r : Reg 34816) : (t.setMr n r).instret = t.instret := rfl
@[simp] theorem setMr_rfinfo (t : Slot) (n : Nat) (r : Reg 34816) : (t.setMr n r).rfinfo = t.rfinfo := rfl
@[simp] theorem setMr_idx (t : Slot) (n : Nat) (r : Reg 34816) : (t.setMr n r).idx = t.idx := rfl
@[simp] theorem setMr_aperture (t : Slot) (n : Nat) (r : Reg 34816) : (t.setMr n r).aperture = t.aperture := rfl
@[simp] theorem setMr_brk (t : Slot) (n : Nat) (r : Reg 34816) : (t.setMr n r).brk = t.brk := rfl
@[simp] theorem setMr_skipBreak (t : Slot) (n : Nat) (r : Reg 34816) : (t.setMr n r).skipBreak = t.skipBreak := rfl
@[simp] theorem setMr_broken (t : Slot) (n : Nat) (r : Reg 34816) : (t.setMr n r).broken = t.broken := rfl
@[simp] theorem setMr_mail (t : Slot) (n : Nat) (r : Reg 34816) : (t.setMr n r).mail = t.mail := rfl
@[simp] theorem setMr_mailOrder (t : Slot) (n : Nat) (r : Reg 34816) : (t.setMr n r).mailOrder = t.mailOrder := rfl
@[simp] theorem setMr_recvClaim (t : Slot) (n : Nat) (r : Reg 34816) : (t.setMr n r).recvClaim = t.recvClaim := rfl
@[simp] theorem setMr_recvDrop (t : Slot) (n : Nat) (r : Reg 34816) : (t.setMr n r).recvDrop = t.recvDrop := rfl
@[simp] theorem setMr_specOpen (t : Slot) (n : Nat) (r : Reg 34816) : (t.setMr n r).specOpen = t.specOpen := rfl
@[simp] theorem setMr_hold (t : Slot) (n : Nat) (r : Reg 34816) : (t.setMr n r).hold = t.hold := rfl
@[simp] theorem setMr_prio (t : Slot) (n : Nat) (r : Reg 34816) : (t.setMr n r).prio = t.prio := rfl
@[simp] theorem setMr_origin (t : Slot) (n : Nat) (r : Reg 34816) : (t.setMr n r).origin = t.origin := rfl
@[simp] theorem setMr_viaInbox (t : Slot) (n : Nat) (r : Reg 34816) : (t.setMr n r).viaInbox = t.viaInbox := rfl
@[simp] theorem setMr_emptied (t : Slot) (n : Nat) (r : Reg 34816) : (t.setMr n r).emptied = t.emptied := rfl
@[simp] theorem setMr_epoch (t : Slot) (n : Nat) (r : Reg 34816) : (t.setMr n r).epoch = t.epoch := rfl
@[simp] theorem setMr_underSave (t : Slot) (n : Nat) (r : Reg 34816) : (t.setMr n r).underSave = t.underSave := rfl
@[simp] theorem setMr_reserved (t : Slot) (n : Nat) (r : Reg 34816) : (t.setMr n r).reserved = t.reserved := rfl
@[simp] theorem setMr_doneWait (t : Slot) (n : Nat) (r : Reg 34816) : (t.setMr n r).doneWait = t.doneWait := rfl
@[simp] theorem setMr_acquires (t : Slot) (n : Nat) (r : Reg 34816) : (t.setMr n r).acquires = t.acquires := rfl
@[simp] theorem setMr_fences (t : Slot) (n : Nat) (r : Reg 34816) : (t.setMr n r).fences = t.fences := rfl
@[simp] theorem setMr_missScope (t : Slot) (n : Nat) (r : Reg 34816) : (t.setMr n r).missScope = t.missScope := rfl
@[simp] theorem setMr_saw (t : Slot) (n : Nat) (r : Reg 34816) : (t.setMr n r).saw = t.saw := rfl
@[simp] theorem setMr_busyUntil (t : Slot) (n : Nat) (r : Reg 34816) : (t.setMr n r).busyUntil = t.busyUntil := rfl
@[simp] theorem setMr_fetch (t : Slot) (n : Nat) (r : Reg 34816) : (t.setMr n r).fetch = t.fetch := rfl
@[simp] theorem setMr_walkOut (t : Slot) (n : Nat) (r : Reg 34816) : (t.setMr n r).walkOut = t.walkOut := rfl
@[simp] theorem setMr_rewalked (t : Slot) (n : Nat) (r : Reg 34816) : (t.setMr n r).rewalked = t.rewalked := rfl
@[simp] theorem setMr_dirWait (t : Slot) (n : Nat) (r : Reg 34816) : (t.setMr n r).dirWait = t.dirWait := rfl

@[simp] theorem setCr_state (t : Slot) (n : Nat) (r : Reg 131072) : (t.setCr n r).state = t.state := rfl
@[simp] theorem setCr_before (t : Slot) (n : Nat) (r : Reg 131072) : (t.setCr n r).before = t.before := rfl
@[simp] theorem setCr_role (t : Slot) (n : Nat) (r : Reg 131072) : (t.setCr n r).role = t.role := rfl
@[simp] theorem setCr_worker (t : Slot) (n : Nat) (r : Reg 131072) : (t.setCr n r).worker = t.worker := rfl
@[simp] theorem setCr_pc (t : Slot) (n : Nat) (r : Reg 131072) : (t.setCr n r).pc = t.pc := rfl
@[simp] theorem setCr_tcause (t : Slot) (n : Nat) (r : Reg 131072) : (t.setCr n r).tcause = t.tcause := rfl
@[simp] theorem setCr_tval (t : Slot) (n : Nat) (r : Reg 131072) : (t.setCr n r).tval = t.tval := rfl
@[simp] theorem setCr_tpc (t : Slot) (n : Nat) (r : Reg 131072) : (t.setCr n r).tpc = t.tpc := rfl
@[simp] theorem setCr_x (t : Slot) (n : Nat) (r : Reg 131072) : (t.setCr n r).x = t.x := rfl
@[simp] theorem setCr_v (t : Slot) (n : Nat) (r : Reg 131072) : (t.setCr n r).v = t.v := rfl
@[simp] theorem setCr_m (t : Slot) (n : Nat) (r : Reg 131072) : (t.setCr n r).m = t.m := rfl
@[simp] theorem setCr_streams (t : Slot) (n : Nat) (r : Reg 131072) : (t.setCr n r).streams = t.streams := rfl
@[simp] theorem setCr_park (t : Slot) (n : Nat) (r : Reg 131072) : (t.setCr n r).park = t.park := rfl
@[simp] theorem setCr_parkCount (t : Slot) (n : Nat) (r : Reg 131072) : (t.setCr n r).parkCount = t.parkCount := rfl
@[simp] theorem setCr_parklim (t : Slot) (n : Nat) (r : Reg 131072) : (t.setCr n r).parklim = t.parklim := rfl
@[simp] theorem setCr_vflags (t : Slot) (n : Nat) (r : Reg 131072) : (t.setCr n r).vflags = t.vflags := rfl
@[simp] theorem setCr_srseed (t : Slot) (n : Nat) (r : Reg 131072) : (t.setCr n r).srseed = t.srseed := rfl
@[simp] theorem setCr_srctr (t : Slot) (n : Nat) (r : Reg 131072) : (t.setCr n r).srctr = t.srctr := rfl
@[simp] theorem setCr_ordctl (t : Slot) (n : Nat) (r : Reg 131072) : (t.setCr n r).ordctl = t.ordctl := rfl
@[simp] theorem setCr_stfail (t : Slot) (n : Nat) (r : Reg 131072) : (t.setCr n r).stfail = t.stfail := rfl
@[simp] theorem setCr_tag (t : Slot) (n : Nat) (r : Reg 131072) : (t.setCr n r).tag = t.tag := rfl
@[simp] theorem setCr_bstream (t : Slot) (n : Nat) (r : Reg 131072) : (t.setCr n r).bstream = t.bstream := rfl
@[simp] theorem setCr_mcfg (t : Slot) (n : Nat) (r : Reg 131072) : (t.setCr n r).mcfg = t.mcfg := rfl
@[simp] theorem setCr_mstcfg (t : Slot) (n : Nat) (r : Reg 131072) : (t.setCr n r).mstcfg = t.mstcfg := rfl
@[simp] theorem setCr_rptstat (t : Slot) (n : Nat) (r : Reg 131072) : (t.setCr n r).rptstat = t.rptstat := rfl
@[simp] theorem setCr_instret (t : Slot) (n : Nat) (r : Reg 131072) : (t.setCr n r).instret = t.instret := rfl
@[simp] theorem setCr_rfinfo (t : Slot) (n : Nat) (r : Reg 131072) : (t.setCr n r).rfinfo = t.rfinfo := rfl
@[simp] theorem setCr_idx (t : Slot) (n : Nat) (r : Reg 131072) : (t.setCr n r).idx = t.idx := rfl
@[simp] theorem setCr_aperture (t : Slot) (n : Nat) (r : Reg 131072) : (t.setCr n r).aperture = t.aperture := rfl
@[simp] theorem setCr_brk (t : Slot) (n : Nat) (r : Reg 131072) : (t.setCr n r).brk = t.brk := rfl
@[simp] theorem setCr_skipBreak (t : Slot) (n : Nat) (r : Reg 131072) : (t.setCr n r).skipBreak = t.skipBreak := rfl
@[simp] theorem setCr_broken (t : Slot) (n : Nat) (r : Reg 131072) : (t.setCr n r).broken = t.broken := rfl
@[simp] theorem setCr_mail (t : Slot) (n : Nat) (r : Reg 131072) : (t.setCr n r).mail = t.mail := rfl
@[simp] theorem setCr_mailOrder (t : Slot) (n : Nat) (r : Reg 131072) : (t.setCr n r).mailOrder = t.mailOrder := rfl
@[simp] theorem setCr_recvClaim (t : Slot) (n : Nat) (r : Reg 131072) : (t.setCr n r).recvClaim = t.recvClaim := rfl
@[simp] theorem setCr_recvDrop (t : Slot) (n : Nat) (r : Reg 131072) : (t.setCr n r).recvDrop = t.recvDrop := rfl
@[simp] theorem setCr_specOpen (t : Slot) (n : Nat) (r : Reg 131072) : (t.setCr n r).specOpen = t.specOpen := rfl
@[simp] theorem setCr_hold (t : Slot) (n : Nat) (r : Reg 131072) : (t.setCr n r).hold = t.hold := rfl
@[simp] theorem setCr_prio (t : Slot) (n : Nat) (r : Reg 131072) : (t.setCr n r).prio = t.prio := rfl
@[simp] theorem setCr_origin (t : Slot) (n : Nat) (r : Reg 131072) : (t.setCr n r).origin = t.origin := rfl
@[simp] theorem setCr_viaInbox (t : Slot) (n : Nat) (r : Reg 131072) : (t.setCr n r).viaInbox = t.viaInbox := rfl
@[simp] theorem setCr_emptied (t : Slot) (n : Nat) (r : Reg 131072) : (t.setCr n r).emptied = t.emptied := rfl
@[simp] theorem setCr_epoch (t : Slot) (n : Nat) (r : Reg 131072) : (t.setCr n r).epoch = t.epoch := rfl
@[simp] theorem setCr_underSave (t : Slot) (n : Nat) (r : Reg 131072) : (t.setCr n r).underSave = t.underSave := rfl
@[simp] theorem setCr_reserved (t : Slot) (n : Nat) (r : Reg 131072) : (t.setCr n r).reserved = t.reserved := rfl
@[simp] theorem setCr_doneWait (t : Slot) (n : Nat) (r : Reg 131072) : (t.setCr n r).doneWait = t.doneWait := rfl
@[simp] theorem setCr_acquires (t : Slot) (n : Nat) (r : Reg 131072) : (t.setCr n r).acquires = t.acquires := rfl
@[simp] theorem setCr_fences (t : Slot) (n : Nat) (r : Reg 131072) : (t.setCr n r).fences = t.fences := rfl
@[simp] theorem setCr_missScope (t : Slot) (n : Nat) (r : Reg 131072) : (t.setCr n r).missScope = t.missScope := rfl
@[simp] theorem setCr_saw (t : Slot) (n : Nat) (r : Reg 131072) : (t.setCr n r).saw = t.saw := rfl
@[simp] theorem setCr_busyUntil (t : Slot) (n : Nat) (r : Reg 131072) : (t.setCr n r).busyUntil = t.busyUntil := rfl
@[simp] theorem setCr_fetch (t : Slot) (n : Nat) (r : Reg 131072) : (t.setCr n r).fetch = t.fetch := rfl
@[simp] theorem setCr_walkOut (t : Slot) (n : Nat) (r : Reg 131072) : (t.setCr n r).walkOut = t.walkOut := rfl
@[simp] theorem setCr_rewalked (t : Slot) (n : Nat) (r : Reg 131072) : (t.setCr n r).rewalked = t.rewalked := rfl
@[simp] theorem setCr_dirWait (t : Slot) (n : Nat) (r : Reg 131072) : (t.setCr n r).dirWait = t.dirWait := rfl

theorem xv_setX (s : State) (r : BitVec 5) (v : Word) (q : BitVec 5) : (s.setX r v).xv q = if q = r ∧ r ≠ 0 then v else s.xv q := by
  unfold State.setX State.xv
  rw [me_modMe, xr_setXr]
  by_cases h : q.toNat = r.toNat ∧ r.toNat ≠ 0
  · have h1 : q = r := BitVec.eq_of_toNat_eq h.1
    have h2 : r ≠ 0 := fun e => h.2 (by simp [e])
    rw [if_pos h, if_pos ⟨h1, h2⟩]
  · have h1 : ¬(q = r ∧ r ≠ 0) := fun e => h ⟨by rw [e.1], fun z => e.2 (BitVec.eq_of_toNat_eq (by simpa using z))⟩
    rw [if_neg h, if_neg h1]

/-! ## A slot update and the counters leave the rest of a core as it was -/

@[simp] theorem coreSetSlot_cycle (k : Core) (n : Nat) (t : Slot) : (k.setSlot n t).cycle = k.cycle := rfl
@[simp] theorem coreSetSlot_claims (k : Core) (n : Nat) (t : Slot) : (k.setSlot n t).claims = k.claims := rfl
@[simp] theorem coreSetSlot_deliveries (k : Core) (n : Nat) (t : Slot) : (k.setSlot n t).deliveries = k.deliveries := rfl
@[simp] theorem coreSetSlot_timers (k : Core) (n : Nat) (t : Slot) : (k.setSlot n t).timers = k.timers := rfl
@[simp] theorem coreSetSlot_divs (k : Core) (n : Nat) (t : Slot) : (k.setSlot n t).divs = k.divs := rfl
@[simp] theorem coreSetSlot_vecs (k : Core) (n : Nat) (t : Slot) : (k.setSlot n t).vecs = k.vecs := rfl
@[simp] theorem coreSetSlot_ls (k : Core) (n : Nat) (t : Slot) : (k.setSlot n t).ls = k.ls := rfl
@[simp] theorem coreSetSlot_owners (k : Core) (n : Nat) (t : Slot) : (k.setSlot n t).owners = k.owners := rfl
@[simp] theorem coreSetSlot_inUse (k : Core) (n : Nat) (t : Slot) : (k.setSlot n t).inUse = k.inUse := rfl
@[simp] theorem coreSetSlot_barriers (k : Core) (n : Nat) (t : Slot) : (k.setSlot n t).barriers = k.barriers := rfl
@[simp] theorem coreSetSlot_queues (k : Core) (n : Nat) (t : Slot) : (k.setSlot n t).queues = k.queues := rfl
@[simp] theorem coreSetSlot_locks (k : Core) (n : Nat) (t : Slot) : (k.setSlot n t).locks = k.locks := rfl
@[simp] theorem coreSetSlot_channels (k : Core) (n : Nat) (t : Slot) : (k.setSlot n t).channels = k.channels := rfl
@[simp] theorem coreSetSlot_bound (k : Core) (n : Nat) (t : Slot) : (k.setSlot n t).bound = k.bound := rfl
@[simp] theorem coreSetSlot_l1 (k : Core) (n : Nat) (t : Slot) : (k.setSlot n t).l1 = k.l1 := rfl
@[simp] theorem coreSetSlot_icache (k : Core) (n : Nat) (t : Slot) : (k.setSlot n t).icache = k.icache := rfl
@[simp] theorem coreSetSlot_ranges (k : Core) (n : Nat) (t : Slot) : (k.setSlot n t).ranges = k.ranges := rfl
@[simp] theorem coreSetSlot_walks (k : Core) (n : Nat) (t : Slot) : (k.setSlot n t).walks = k.walks := rfl
@[simp] theorem coreSetSlot_sb (k : Core) (n : Nat) (t : Slot) : (k.setSlot n t).sb = k.sb := rfl
@[simp] theorem coreSetSlot_accs (k : Core) (n : Nat) (t : Slot) : (k.setSlot n t).accs = k.accs := rfl
@[simp] theorem coreSetSlot_array (k : Core) (n : Nat) (t : Slot) : (k.setSlot n t).array = k.array := rfl
@[simp] theorem coreSetSlot_transfer (k : Core) (n : Nat) (t : Slot) : (k.setSlot n t).transfer = k.transfer := rfl
@[simp] theorem coreSetSlot_blzc (k : Core) (n : Nat) (t : Slot) : (k.setSlot n t).blzc = k.blzc := rfl
@[simp] theorem coreSetSlot_rdir (k : Core) (n : Nat) (t : Slot) : (k.setSlot n t).rdir = k.rdir := rfl
@[simp] theorem coreSetSlot_rdmnt (k : Core) (n : Nat) (t : Slot) : (k.setSlot n t).rdmnt = k.rdmnt := rfl
@[simp] theorem coreSetSlot_scopemiss (k : Core) (n : Nat) (t : Slot) : (k.setSlot n t).scopemiss = k.scopemiss := rfl
@[simp] theorem coreSetSlot_inlog (k : Core) (n : Nat) (t : Slot) : (k.setSlot n t).inlog = k.inlog := rfl
@[simp] theorem coreSetSlot_poundReg (k : Core) (n : Nat) (t : Slot) : (k.setSlot n t).poundReg = k.poundReg := rfl
@[simp] theorem coreSetSlot_pair (k : Core) (n : Nat) (t : Slot) : (k.setSlot n t).pair = k.pair := rfl
@[simp] theorem coreSetSlot_stamp (k : Core) (n : Nat) (t : Slot) : (k.setSlot n t).stamp = k.stamp := rfl
@[simp] theorem coreSetSlot_hvec (k : Core) (n : Nat) (t : Slot) : (k.setSlot n t).hvec = k.hvec := rfl
@[simp] theorem coreSetSlot_hepc (k : Core) (n : Nat) (t : Slot) : (k.setSlot n t).hepc = k.hepc := rfl
@[simp] theorem coreSetSlot_hscratch (k : Core) (n : Nat) (t : Slot) : (k.setSlot n t).hscratch = k.hscratch := rfl
@[simp] theorem coreSetSlot_hnote (k : Core) (n : Nat) (t : Slot) : (k.setSlot n t).hnote = k.hnote := rfl
@[simp] theorem coreSetSlot_hbusy (k : Core) (n : Nat) (t : Slot) : (k.setSlot n t).hbusy = k.hbusy := rfl
@[simp] theorem coreSetSlot_hin (k : Core) (n : Nat) (t : Slot) : (k.setSlot n t).hin = k.hin := rfl
@[simp] theorem coreSetSlot_hfromempty (k : Core) (n : Nat) (t : Slot) : (k.setSlot n t).hfromempty = k.hfromempty := rfl
@[simp] theorem coreSetSlot_notes (k : Core) (n : Nat) (t : Slot) : (k.setSlot n t).notes = k.notes := rfl
@[simp] theorem coreSetSlot_evsel (k : Core) (n : Nat) (t : Slot) : (k.setSlot n t).evsel = k.evsel := rfl
@[simp] theorem coreSetSlot_evcnt (k : Core) (n : Nat) (t : Slot) : (k.setSlot n t).evcnt = k.evcnt := rfl
@[simp] theorem coreSetSlot_bp (k : Core) (n : Nat) (t : Slot) : (k.setSlot n t).bp = k.bp := rfl
@[simp] theorem coreSetSlot_wpa (k : Core) (n : Nat) (t : Slot) : (k.setSlot n t).wpa = k.wpa := rfl
@[simp] theorem coreSetSlot_wpc (k : Core) (n : Nat) (t : Slot) : (k.setSlot n t).wpc = k.wpc := rfl
@[simp] theorem coreSetSlot_trcctl (k : Core) (n : Nat) (t : Slot) : (k.setSlot n t).trcctl = k.trcctl := rfl
@[simp] theorem coreSetSlot_trcbase (k : Core) (n : Nat) (t : Slot) : (k.setSlot n t).trcbase = k.trcbase := rfl
@[simp] theorem coreSetSlot_trcptr (k : Core) (n : Nat) (t : Slot) : (k.setSlot n t).trcptr = k.trcptr := rfl
@[simp] theorem coreSetSlot_inbox (k : Core) (n : Nat) (t : Slot) : (k.setSlot n t).inbox = k.inbox := rfl
@[simp] theorem coreSetSlot_inboxOrder (k : Core) (n : Nat) (t : Slot) : (k.setSlot n t).inboxOrder = k.inboxOrder := rfl
@[simp] theorem coreSetSlot_inboxReserved (k : Core) (n : Nat) (t : Slot) : (k.setSlot n t).inboxReserved = k.inboxReserved := rfl
@[simp] theorem coreSetSlot_deques (k : Core) (n : Nat) (t : Slot) : (k.setSlot n t).deques = k.deques := rfl
@[simp] theorem coreSetSlot_lastDispatch (k : Core) (n : Nat) (t : Slot) : (k.setSlot n t).lastDispatch = k.lastDispatch := rfl
@[simp] theorem coreSetSlot_stealLast (k : Core) (n : Nat) (t : Slot) : (k.setSlot n t).stealLast = k.stealLast := rfl
@[simp] theorem coreSetSlot_stealBackoff (k : Core) (n : Nat) (t : Slot) : (k.setSlot n t).stealBackoff = k.stealBackoff := rfl
@[simp] theorem coreSetSlot_stealBlocked (k : Core) (n : Nat) (t : Slot) : (k.setSlot n t).stealBlocked = k.stealBlocked := rfl
@[simp] theorem coreSetSlot_stealOut (k : Core) (n : Nat) (t : Slot) : (k.setSlot n t).stealOut = k.stealOut := rfl
@[simp] theorem coreSetSlot_stealIn (k : Core) (n : Nat) (t : Slot) : (k.setSlot n t).stealIn = k.stealIn := rfl
@[simp] theorem coreSetSlot_dequeTop (k : Core) (n : Nat) (t : Slot) : (k.setSlot n t).dequeTop = k.dequeTop := rfl
@[simp] theorem coreSetSlot_ctx (k : Core) (n : Nat) (t : Slot) : (k.setSlot n t).ctx = k.ctx := rfl
@[simp] theorem coreSetSlot_ctxReserved (k : Core) (n : Nat) (t : Slot) : (k.setSlot n t).ctxReserved = k.ctxReserved := rfl
@[simp] theorem coreSetSlot_savedTags (k : Core) (n : Nat) (t : Slot) : (k.setSlot n t).savedTags = k.savedTags := rfl
@[simp] theorem coreSetSlot_saves (k : Core) (n : Nat) (t : Slot) : (k.setSlot n t).saves = k.saves := rfl
@[simp] theorem coreSetSlot_restores (k : Core) (n : Nat) (t : Slot) : (k.setSlot n t).restores = k.restores := rfl
@[simp] theorem coreSetSlot_images (k : Core) (n : Nat) (t : Slot) : (k.setSlot n t).images = k.images := rfl
@[simp] theorem coreSetSlot_inbound (k : Core) (n : Nat) (t : Slot) : (k.setSlot n t).inbound = k.inbound := rfl
@[simp] theorem coreSetSlot_mcasts (k : Core) (n : Nat) (t : Slot) : (k.setSlot n t).mcasts = k.mcasts := rfl
@[simp] theorem coreSetSlot_roles (k : Core) (n : Nat) (t : Slot) : (k.setSlot n t).roles = k.roles := rfl
@[simp] theorem coreSetSlot_placed (k : Core) (n : Nat) (t : Slot) : (k.setSlot n t).placed = k.placed := rfl
@[simp] theorem coreSetSlot_freed (k : Core) (n : Nat) (t : Slot) : (k.setSlot n t).freed = k.freed := rfl
@[simp] theorem coreSetSlot_turnDue (k : Core) (n : Nat) (t : Slot) : (k.setSlot n t).turnDue = k.turnDue := rfl

@[simp] theorem count_cycle (k : Core) (code : Nat) (slot : Option Nat) (n : Nat) : (k.count code slot n).cycle = k.cycle := rfl
@[simp] theorem count_slots (k : Core) (code : Nat) (slot : Option Nat) (n : Nat) : (k.count code slot n).slots = k.slots := rfl
@[simp] theorem count_claims (k : Core) (code : Nat) (slot : Option Nat) (n : Nat) : (k.count code slot n).claims = k.claims := rfl
@[simp] theorem count_deliveries (k : Core) (code : Nat) (slot : Option Nat) (n : Nat) : (k.count code slot n).deliveries = k.deliveries := rfl
@[simp] theorem count_timers (k : Core) (code : Nat) (slot : Option Nat) (n : Nat) : (k.count code slot n).timers = k.timers := rfl
@[simp] theorem count_divs (k : Core) (code : Nat) (slot : Option Nat) (n : Nat) : (k.count code slot n).divs = k.divs := rfl
@[simp] theorem count_vecs (k : Core) (code : Nat) (slot : Option Nat) (n : Nat) : (k.count code slot n).vecs = k.vecs := rfl
@[simp] theorem count_ls (k : Core) (code : Nat) (slot : Option Nat) (n : Nat) : (k.count code slot n).ls = k.ls := rfl
@[simp] theorem count_owners (k : Core) (code : Nat) (slot : Option Nat) (n : Nat) : (k.count code slot n).owners = k.owners := rfl
@[simp] theorem count_inUse (k : Core) (code : Nat) (slot : Option Nat) (n : Nat) : (k.count code slot n).inUse = k.inUse := rfl
@[simp] theorem count_barriers (k : Core) (code : Nat) (slot : Option Nat) (n : Nat) : (k.count code slot n).barriers = k.barriers := rfl
@[simp] theorem count_queues (k : Core) (code : Nat) (slot : Option Nat) (n : Nat) : (k.count code slot n).queues = k.queues := rfl
@[simp] theorem count_locks (k : Core) (code : Nat) (slot : Option Nat) (n : Nat) : (k.count code slot n).locks = k.locks := rfl
@[simp] theorem count_channels (k : Core) (code : Nat) (slot : Option Nat) (n : Nat) : (k.count code slot n).channels = k.channels := rfl
@[simp] theorem count_bound (k : Core) (code : Nat) (slot : Option Nat) (n : Nat) : (k.count code slot n).bound = k.bound := rfl
@[simp] theorem count_l1 (k : Core) (code : Nat) (slot : Option Nat) (n : Nat) : (k.count code slot n).l1 = k.l1 := rfl
@[simp] theorem count_icache (k : Core) (code : Nat) (slot : Option Nat) (n : Nat) : (k.count code slot n).icache = k.icache := rfl
@[simp] theorem count_ranges (k : Core) (code : Nat) (slot : Option Nat) (n : Nat) : (k.count code slot n).ranges = k.ranges := rfl
@[simp] theorem count_walks (k : Core) (code : Nat) (slot : Option Nat) (n : Nat) : (k.count code slot n).walks = k.walks := rfl
@[simp] theorem count_sb (k : Core) (code : Nat) (slot : Option Nat) (n : Nat) : (k.count code slot n).sb = k.sb := rfl
@[simp] theorem count_accs (k : Core) (code : Nat) (slot : Option Nat) (n : Nat) : (k.count code slot n).accs = k.accs := rfl
@[simp] theorem count_array (k : Core) (code : Nat) (slot : Option Nat) (n : Nat) : (k.count code slot n).array = k.array := rfl
@[simp] theorem count_transfer (k : Core) (code : Nat) (slot : Option Nat) (n : Nat) : (k.count code slot n).transfer = k.transfer := rfl
@[simp] theorem count_blzc (k : Core) (code : Nat) (slot : Option Nat) (n : Nat) : (k.count code slot n).blzc = k.blzc := rfl
@[simp] theorem count_rdir (k : Core) (code : Nat) (slot : Option Nat) (n : Nat) : (k.count code slot n).rdir = k.rdir := rfl
@[simp] theorem count_rdmnt (k : Core) (code : Nat) (slot : Option Nat) (n : Nat) : (k.count code slot n).rdmnt = k.rdmnt := rfl
@[simp] theorem count_scopemiss (k : Core) (code : Nat) (slot : Option Nat) (n : Nat) : (k.count code slot n).scopemiss = k.scopemiss := rfl
@[simp] theorem count_inlog (k : Core) (code : Nat) (slot : Option Nat) (n : Nat) : (k.count code slot n).inlog = k.inlog := rfl
@[simp] theorem count_poundReg (k : Core) (code : Nat) (slot : Option Nat) (n : Nat) : (k.count code slot n).poundReg = k.poundReg := rfl
@[simp] theorem count_pair (k : Core) (code : Nat) (slot : Option Nat) (n : Nat) : (k.count code slot n).pair = k.pair := rfl
@[simp] theorem count_stamp (k : Core) (code : Nat) (slot : Option Nat) (n : Nat) : (k.count code slot n).stamp = k.stamp := rfl
@[simp] theorem count_hvec (k : Core) (code : Nat) (slot : Option Nat) (n : Nat) : (k.count code slot n).hvec = k.hvec := rfl
@[simp] theorem count_hepc (k : Core) (code : Nat) (slot : Option Nat) (n : Nat) : (k.count code slot n).hepc = k.hepc := rfl
@[simp] theorem count_hscratch (k : Core) (code : Nat) (slot : Option Nat) (n : Nat) : (k.count code slot n).hscratch = k.hscratch := rfl
@[simp] theorem count_hnote (k : Core) (code : Nat) (slot : Option Nat) (n : Nat) : (k.count code slot n).hnote = k.hnote := rfl
@[simp] theorem count_hbusy (k : Core) (code : Nat) (slot : Option Nat) (n : Nat) : (k.count code slot n).hbusy = k.hbusy := rfl
@[simp] theorem count_hin (k : Core) (code : Nat) (slot : Option Nat) (n : Nat) : (k.count code slot n).hin = k.hin := rfl
@[simp] theorem count_hfromempty (k : Core) (code : Nat) (slot : Option Nat) (n : Nat) : (k.count code slot n).hfromempty = k.hfromempty := rfl
@[simp] theorem count_notes (k : Core) (code : Nat) (slot : Option Nat) (n : Nat) : (k.count code slot n).notes = k.notes := rfl
@[simp] theorem count_evsel (k : Core) (code : Nat) (slot : Option Nat) (n : Nat) : (k.count code slot n).evsel = k.evsel := rfl
@[simp] theorem count_bp (k : Core) (code : Nat) (slot : Option Nat) (n : Nat) : (k.count code slot n).bp = k.bp := rfl
@[simp] theorem count_wpa (k : Core) (code : Nat) (slot : Option Nat) (n : Nat) : (k.count code slot n).wpa = k.wpa := rfl
@[simp] theorem count_wpc (k : Core) (code : Nat) (slot : Option Nat) (n : Nat) : (k.count code slot n).wpc = k.wpc := rfl
@[simp] theorem count_trcctl (k : Core) (code : Nat) (slot : Option Nat) (n : Nat) : (k.count code slot n).trcctl = k.trcctl := rfl
@[simp] theorem count_trcbase (k : Core) (code : Nat) (slot : Option Nat) (n : Nat) : (k.count code slot n).trcbase = k.trcbase := rfl
@[simp] theorem count_trcptr (k : Core) (code : Nat) (slot : Option Nat) (n : Nat) : (k.count code slot n).trcptr = k.trcptr := rfl
@[simp] theorem count_inbox (k : Core) (code : Nat) (slot : Option Nat) (n : Nat) : (k.count code slot n).inbox = k.inbox := rfl
@[simp] theorem count_inboxOrder (k : Core) (code : Nat) (slot : Option Nat) (n : Nat) : (k.count code slot n).inboxOrder = k.inboxOrder := rfl
@[simp] theorem count_inboxReserved (k : Core) (code : Nat) (slot : Option Nat) (n : Nat) : (k.count code slot n).inboxReserved = k.inboxReserved := rfl
@[simp] theorem count_deques (k : Core) (code : Nat) (slot : Option Nat) (n : Nat) : (k.count code slot n).deques = k.deques := rfl
@[simp] theorem count_lastDispatch (k : Core) (code : Nat) (slot : Option Nat) (n : Nat) : (k.count code slot n).lastDispatch = k.lastDispatch := rfl
@[simp] theorem count_stealLast (k : Core) (code : Nat) (slot : Option Nat) (n : Nat) : (k.count code slot n).stealLast = k.stealLast := rfl
@[simp] theorem count_stealBackoff (k : Core) (code : Nat) (slot : Option Nat) (n : Nat) : (k.count code slot n).stealBackoff = k.stealBackoff := rfl
@[simp] theorem count_stealBlocked (k : Core) (code : Nat) (slot : Option Nat) (n : Nat) : (k.count code slot n).stealBlocked = k.stealBlocked := rfl
@[simp] theorem count_stealOut (k : Core) (code : Nat) (slot : Option Nat) (n : Nat) : (k.count code slot n).stealOut = k.stealOut := rfl
@[simp] theorem count_stealIn (k : Core) (code : Nat) (slot : Option Nat) (n : Nat) : (k.count code slot n).stealIn = k.stealIn := rfl
@[simp] theorem count_dequeTop (k : Core) (code : Nat) (slot : Option Nat) (n : Nat) : (k.count code slot n).dequeTop = k.dequeTop := rfl
@[simp] theorem count_ctx (k : Core) (code : Nat) (slot : Option Nat) (n : Nat) : (k.count code slot n).ctx = k.ctx := rfl
@[simp] theorem count_ctxReserved (k : Core) (code : Nat) (slot : Option Nat) (n : Nat) : (k.count code slot n).ctxReserved = k.ctxReserved := rfl
@[simp] theorem count_savedTags (k : Core) (code : Nat) (slot : Option Nat) (n : Nat) : (k.count code slot n).savedTags = k.savedTags := rfl
@[simp] theorem count_saves (k : Core) (code : Nat) (slot : Option Nat) (n : Nat) : (k.count code slot n).saves = k.saves := rfl
@[simp] theorem count_restores (k : Core) (code : Nat) (slot : Option Nat) (n : Nat) : (k.count code slot n).restores = k.restores := rfl
@[simp] theorem count_images (k : Core) (code : Nat) (slot : Option Nat) (n : Nat) : (k.count code slot n).images = k.images := rfl
@[simp] theorem count_inbound (k : Core) (code : Nat) (slot : Option Nat) (n : Nat) : (k.count code slot n).inbound = k.inbound := rfl
@[simp] theorem count_mcasts (k : Core) (code : Nat) (slot : Option Nat) (n : Nat) : (k.count code slot n).mcasts = k.mcasts := rfl
@[simp] theorem count_roles (k : Core) (code : Nat) (slot : Option Nat) (n : Nat) : (k.count code slot n).roles = k.roles := rfl
@[simp] theorem count_placed (k : Core) (code : Nat) (slot : Option Nat) (n : Nat) : (k.count code slot n).placed = k.placed := rfl
@[simp] theorem count_freed (k : Core) (code : Nat) (slot : Option Nat) (n : Nat) : (k.count code slot n).freed = k.freed := rfl
@[simp] theorem count_turnDue (k : Core) (code : Nat) (slot : Option Nat) (n : Nat) : (k.count code slot n).turnDue = k.turnDue := rfl
@[simp] theorem count_slot (k : Core) (code : Nat) (o : Option Nat) (n m : Nat) : (k.count code o n).slot m = k.slot m := rfl

end Sys2Proof.Machine
end

