-- ==== Sys2Proof/Laws/Issue.lean ====
section
/-! SUPPORT. What the issue of an instruction comes to, once per outcome of R72 and R82: executing, jumping, parking, trapping. -/

namespace Sys2Proof.Machine

theorem examine_pass (t : Slot) (regs : List (Bool × RFile × Nat))
    (h : ∀ r ∈ regs, if r.1 then t.regSt r.2.1 r.2.2 = .full else t.regSt r.2.1 r.2.2 ≠ .pending ) : examine t regs = .pass := by
  induction regs with
  | nil => rfl
  | cons r rest ih =>
    obtain ⟨src, f, n⟩ := r
    have hr := h _ (List.mem_cons_self ..)
    have ih := ih fun x hx => h x (List.mem_cons_of_mem _ hx)
    cases src <;> simp only [Bool.false_eq_true, if_false, if_true] at hr <;> unfold examine
    · cases e : t.regSt f n <;> simp_all
    · simp_all

/-- A PENDING register met first parks the slot on it (R82, R83). -/
theorem examine_park (t : Slot) (src : Bool) (f : RFile) (n : Nat) (rest : List (Bool × RFile × Nat)) (h : t.regSt f n = .pending) :
    examine t ((src, f, n) :: rest) = .park f n := by simp [examine, h]

/-- An instruction that passes checks 2 to 5 of R72 comes to what its body comes to. -/
theorem issue_eq (fm : Form) (body : State → Act) (s : State)
    (hp : fm.priv = true → s.me.role = .k) (hs : ∀ c, fm.scope = some c → (s.resolveScope c).isSome = true) (hr : fm.roles s.me.role = true)
    (hn : s.noRepeat) (he : examine s.me fm.regs = .pass) : issue fm body s = .next (finish fm s (body s)) := by
  unfold State.noRepeat at hn
  unfold issue
  rw [if_neg, if_neg, if_neg, if_neg, he]
  · rw [hn]; simp
  · simp [hr]
  · cases h : fm.scope with
    | none => simp
    | some c => have := hs c h; cases e : s.resolveScope c <;> simp_all
  · cases h : fm.priv with
    | false => simp
    | true => simp [hp h]

/-- An instruction that passes every check and whose body executes moves on by one word. -/
theorem issue_done (fm : Form) (body : State → Act) (s t : State)
    (hp : fm.priv = true → s.me.role = .k) (hs : ∀ c, fm.scope = some c → (s.resolveScope c).isSome = true) (hr : fm.roles s.me.role = true)
    (hn : s.noRepeat) (he : examine s.me fm.regs = .pass) (ha : arrayHolds s fm = false) (hb : body s = .done t) :
    issue fm body s = .next (t.goneTo (s.me.pc + 4)) := by
  rw [issue_eq fm body s hp hs hr hn he, hb]
  unfold State.noRepeat at hn
  simp only [finish, ha, hn, repeatNext, State.goneTo, Bool.not_false, Bool.false_eq_true, if_false, if_true]

/-- The same for an instruction that sets the pc. -/
theorem issue_jump (fm : Form) (body : State → Act) (s t : State) (pc : Word)
    (hp : fm.priv = true → s.me.role = .k) (hs : ∀ c, fm.scope = some c → (s.resolveScope c).isSome = true) (hr : fm.roles s.me.role = true)
    (hn : s.noRepeat) (he : examine s.me fm.regs = .pass) (ha : arrayHolds s fm = false) (hb : body s = .jump t pc) :
    issue fm body s = .next (t.goneTo pc) := by
  rw [issue_eq fm body s hp hs hr hn he, hb]
  simp only [finish, ha, State.goneTo, Bool.false_eq_true, if_false]

/-- An instruction whose body traps latches the cause and the value (R346). -/
theorem issue_trap (fm : Form) (body : State → Act) (s t : State) (cause : Nat) (tval : Word)
    (hp : fm.priv = true → s.me.role = .k) (hs : ∀ c, fm.scope = some c → (s.resolveScope c).isSome = true) (hr : fm.roles s.me.role = true)
    (hn : s.noRepeat) (he : examine s.me fm.regs = .pass) (hb : body s = .trap t cause tval) : issue fm body s = .next (t.trap cause tval) := by
  rw [issue_eq fm body s hp hs hr hn he, hb]; rfl

/-- A form that touches no tile and no accumulator is never held back by the array (R259). -/
theorem arrayHolds_nil (s : State) (fm : Form) (h : fm.touches = []) : arrayHolds s fm = false := by
  unfold arrayHolds
  cases s.here.array <;> simp [h]

/-- The array holds back by the tiles a form touches and by nothing else. -/
theorem arrayHolds_congr (s : State) (fm fm' : Form) (h : fm.touches = fm'.touches) : arrayHolds s fm = arrayHolds s fm' := by
  unfold arrayHolds; rw [h]

/-- Every issue answers a next state. -/
theorem issue_next (fm : Form) (body : State → Act) (s : State) : ∃ t, issue fm body s = .next t := by
  by_contra h
  have h' : ∀ t, issue fm body s ≠ .next t := by simpa using h
  unfold issue at h'
  dsimp only at h'
  split_ifs at h' <;> first | exact h' _ rfl | (cases e : examine s.me fm.regs <;> rw [e] at h' <;> exact h' _ rfl)

end Sys2Proof.Machine
end

