-- ==== Sys2Proof/Laws/Journeys.lean ====
section
/-! SUPPORT. The journeys of engines: an access that does not reach its home has a code, so that one without a code has its effect, and a journey changes nothing but the
sites' tables, counters and logs. -/

namespace Sys2Proof.Machine

/-- An engine's access that does not reach its home has a code (R40, R43, R44). -/
theorem travel_code (s : State) (src : Sender) (site : Nat) (part : BitVec 4) (pa out back : Nat)
    (h : (s.travel src site part pa out back).2.reached = false) : (s.travel src site part pa out back).2.code.isSome = true := by
  have hb : ∀ (u : State) (p : BitVec 4) (a b : Nat) (yx : Bool) (way : Option Nat) (code : Option (BitVec 8)) (f : Nat),
      (u.tripBack p a b yx way code f).2.reached = false → (u.tripBack p a b yx way code f).2.code.isSome = true := by
    intro u p a b yx way code f h
    unfold State.tripBack at *
    cases code <;> simp_all
    split <;> rfl
  revert h
  unfold State.travel
  dsimp only
  repeat' split
  all_goals first | exact fun _ => rfl | exact hb _ _ _ _ _ _ _ _

/-- A forwarded access that does not reach the unit's place has a code (R190). -/
theorem forwarded_code (s : State) (pa out back fuel : Nat) (h : (s.forwarded pa out back fuel).2.reached = false) :
    (s.forwarded pa out back fuel).2.code.isSome = true := by
  induction fuel generalizing s pa with
  | zero => simp [State.forwarded] at h
  | succ k ih =>
    revert h
    unfold State.forwarded
    split
    · simp
    · dsimp only
      split
      · exact ih _ _
      · split
        · next hr => intro _; exact travel_code _ _ _ _ _ _ _ (by simpa using hr)
        · intro h
          have := ih _ _ h
          simp only [Option.isSome_or, this, Bool.or_true]

/-- An access of an engine that does not reach where it is served has a code. -/
theorem reach_code (s : State) (src : Sender) (site : Nat) (part : BitVec 4) (pa out back : Nat)
    (h : (s.reach src site part pa out back).2.reached = false) : (s.reach src site part pa out back).2.code.isSome = true := by
  revert h
  unfold State.reach
  dsimp only
  split
  · next hr => intro _; exact travel_code _ _ _ _ _ _ _ (by simpa using hr)
  · intro h
    simp only [Option.isSome_or, forwarded_code _ _ _ _ _ h, Bool.or_true]

/-- An engine's access that meets no code has its effect after the way that the same access without effect makes. -/
theorem accessBy_of_none {s v : State} {src : Sender} {site : Nat} {part : BitVec 4} {pa out back : Nat}
    (h : s.accessBy src site part pa out back id = (v, none)) (act : State → State) : s.accessBy src site part pa out back act = (act v, none) := by
  have hr := reach_code s src site part pa out back
  unfold State.accessBy at *
  generalize s.reach src site part pa out back = x at *
  obtain ⟨u, t⟩ := x
  dsimp only at *
  split at h
  · next hc => simp_all
  · next hc =>
    simp only [Prod.mk.injEq, Option.or_eq_none_iff] at h
    obtain ⟨rfl, h1, h2⟩ := h
    cases ht : t.reached <;> simp_all [h1]

/-- A processor's access that meets no code has its effect (R386). -/
theorem linkAccess_of_none {s v : State} {d part pa out back : Nat} (h : s.linkTrip d part pa out back = (v, none)) (act : State → State) :
    s.linkAccess d part pa out back act = (act v, none) := by
  unfold State.linkTrip State.linkAccess at h
  unfold State.linkAccess
  generalize hx : s.accessBy (.proc d) (s.procPort d) (BitVec.ofNat 4 part) pa out back id = x at h
  obtain ⟨u, e⟩ := x
  dsimp only at h
  obtain ⟨h1, rfl⟩ := Prod.mk.inj h
  have h2 : u = v := by simpa using h1
  subst h2
  rw [accessBy_of_none hx act]
  simp

/-! ## What a journey leaves as it was -/

/-- Only the sites of a state differ: their tables, counters and logs. -/
def State.onlySites (s t : State) : Prop := ∃ x, t = { s with sites := x }

theorem onlySites_refl (s : State) : s.onlySites s := ⟨s.sites, rfl⟩

theorem onlySites_trans {s t u : State} (h : s.onlySites t) (k : t.onlySites u) : s.onlySites u := by
  obtain ⟨x, rfl⟩ := h; obtain ⟨y, rfl⟩ := k; exact ⟨y, rfl⟩

theorem onlySites_setSite (s : State) (n : Nat) (t : Site) : s.onlySites (s.setSite n t) := ⟨_, rfl⟩

theorem onlySites_countRouter (s : State) (n c : Nat) : s.onlySites (s.countRouter n c) := ⟨_, rfl⟩

theorem onlySites_learn (s : State) (r : Nat) (h : Teach) : s.onlySites (s.learn r h) := by
  unfold State.learn
  dsimp only
  repeat' split
  all_goals exact ⟨_, rfl⟩

theorem onlySites_countFlits (s : State) (n : Nat) (yx : Bool) (k : Nat) : s.onlySites (s.countFlits n yx k) := by
  unfold State.countFlits
  generalize List.range k = l
  induction l generalizing s with
  | nil => exact onlySites_refl s
  | cons a l ih => exact onlySites_trans (onlySites_countRouter s n _) (ih _)

theorem onlySites_ride (s : State) (pos goal : Nat) (h : Teach) (flits fuel : Nat) : s.onlySites (s.ride pos goal h flits fuel).1 := by
  induction fuel generalizing s pos with
  | zero => exact onlySites_refl s
  | succ k ih =>
    unfold State.ride
    dsimp only
    repeat' split
    · exact onlySites_refl s
    · exact onlySites_refl s
    · exact onlySites_trans (onlySites_trans (onlySites_countFlits s _ _ _) (onlySites_learn _ _ _)) (ih _ _)
    · exact onlySites_countRouter s pos 3

theorem onlySites_rideVia (s : State) (pos goal : Nat) (h : Teach) (via : Option Nat) (flits : Nat) : s.onlySites (s.rideVia pos goal h via flits).1 := by
  unfold State.rideVia
  split
  · exact onlySites_ride s pos goal h flits 64
  · next w =>
    have h1 := onlySites_ride s pos w { h with yx := false } flits 64
    generalize s.ride pos w { h with yx := false } flits 64 = x at h1
    obtain ⟨u, p⟩ := x
    dsimp only at *
    split
    · exact onlySites_trans h1 (onlySites_ride u w goal _ flits 64)
    · exact h1

/-- The way back of an answer or notice changes nothing but the sites' tables, counters and logs (R36, R40, R47). -/
theorem onlySites_rideBack (s : State) (part : Option (BitVec 4)) (pos src : Nat) (name : BitVec 16) (yx : Bool) (way : Option Nat) (flits : Nat) :
    s.onlySites (s.rideBack part pos src name yx way flits).1 := by
  unfold State.rideBack
  split
  · exact ⟨_, rfl⟩
  · dsimp only
    have h0 := onlySites_learn s pos ⟨name, pos, !yx, none⟩
    have h1 := onlySites_rideVia (s.learn pos ⟨name, pos, !yx, none⟩) pos src ⟨name, pos, !yx, none⟩ way flits
    generalize (s.learn pos ⟨name, pos, !yx, none⟩).rideVia pos src ⟨name, pos, !yx, none⟩ way flits = x at h1 ⊢
    obtain ⟨u, p, m, w⟩ := x
    dsimp only at *
    split
    · exact onlySites_trans h0 h1
    · exact onlySites_trans (onlySites_trans h0 h1) (onlySites_ride u pos src _ flits 64)

/-- A packet of a control chiplet on its way to a site changes nothing but the sites' tables, counters and logs (R29, R36). -/
theorem onlySites_sysTrip (s : State) (proc site flits : Nat) : s.onlySites (s.sysTrip proc site flits).1 := by
  unfold State.sysTrip
  dsimp only
  have h0 := onlySites_learn s (s.procPort proc) ⟨edgeName proc 6, s.procPort proc, false, none⟩
  have h1 := onlySites_ride (s.learn (s.procPort proc) ⟨edgeName proc 6, s.procPort proc, false, none⟩) (s.procPort proc) site
    ⟨edgeName proc 6, s.procPort proc, false, none⟩ flits 64
  generalize (s.learn (s.procPort proc) ⟨edgeName proc 6, s.procPort proc, false, none⟩).ride (s.procPort proc) site
    ⟨edgeName proc 6, s.procPort proc, false, none⟩ flits 64 = x at h1
  obtain ⟨u, p⟩ := x
  dsimp only at *
  split
  · exact onlySites_trans h0 h1
  · exact onlySites_trans (onlySites_trans h0 h1) (onlySites_trans (onlySites_rideBack u none p _ _ _ _ _) (onlySites_ride _ _ _ _ _ _))

theorem onlySites_launchTrips (s : State) (d : Nat) (sites : List Nat) : s.onlySites (s.launchTrips d sites).1 := by
  unfold State.launchTrips
  suffices h : ∀ (u : State) (b : Bool), u.onlySites (sites.foldl (fun p n => match p.1.sysTrip d n (dataFlits 136) with | (s, ok) => (s, p.2 && ok)) (u, b)).1 from h s true
  induction sites with
  | nil => exact fun u _ => onlySites_refl u
  | cons n l ih => exact fun u b => onlySites_trans (onlySites_sysTrip u d n _) (ih _ _)

end Sys2Proof.Machine
end

