-- ==== Sys2Proof/Laws/Paths.lean ====
section
/-! SUPPORT. What the checks of an address, a local-store access, a translation and a claim come to when they pass. -/

namespace Sys2Proof.Machine

/-! ## Examination of registers (R82) -/

theorem examine_nil (t : Slot) : examine t [] = .pass := rfl

theorem examine_src (t : Slot) (f : RFile) (n : Nat) (r : List (Bool × RFile × Nat)) (h : t.regSt f n = .full) : examine t ((true, f, n) :: r) = examine t r := by
  simp [examine, h]

theorem examine_dst (t : Slot) (f : RFile) (n : Nat) (r : List (Bool × RFile × Nat)) (h : t.regSt f n ≠ .pending) : examine t ((false, f, n) :: r) = examine t r := by
  rw [examine]; cases e : t.regSt f n <;> simp_all

theorem examine_sx (s : State) (n : BitVec 5) (r : List (Bool × RFile × Nat)) (h : s.readable .x n.toNat) : examine s.me (sx n :: r) = examine s.me r := examine_src _ _ _ _ h

theorem examine_dx (s : State) (n : BitVec 5) (r : List (Bool × RFile × Nat)) (h : s.writable .x n.toNat) : examine s.me (dx n :: r) = examine s.me r := examine_dst _ _ _ _ h

theorem examine_sv (s : State) (n : BitVec 5) (r : List (Bool × RFile × Nat)) (h : s.readable .v n.toNat) : examine s.me (sv n :: r) = examine s.me r := examine_src _ _ _ _ h

theorem examine_dv (s : State) (n : BitVec 5) (r : List (Bool × RFile × Nat)) (h : s.writable .v n.toNat) : examine s.me (dv n :: r) = examine s.me r := examine_dst _ _ _ _ h

/-- A register that is not FULL stops a source with its trap (R84). -/
theorem examine_poison (t : Slot) (f : RFile) (n : Nat) (r : List (Bool × RFile × Nat)) (h : t.regSt f n = .poison) :
    examine t ((true, f, n) :: r) = .trap 24 (t.regLow f n) := by simp [examine, h]

theorem examine_vacant (t : Slot) (f : RFile) (n : Nat) (r : List (Bool × RFile × Nat)) (h : t.regSt f n = .vacant) :
    examine t ((true, f, n) :: r) = .trap 25 (regIdent f n) := by simp [examine, h]

/-! ## Addresses (R125, R196, R211, R373) -/

/-- An address that passes its checks goes on to the access. -/
theorem addrChecks_pass (s : State) (ea : Word) (n : Nat) (l st : Bool) (a m : Nat) (k : Act) (h1 : ea.toNat < 2 ^ 48) (h2 : ea.toNat % n = 0)
    (h3 : s.watchHit l st ea.toNat n = none) : addrChecks s ea n l st a m k = k := by
  have e : vaOk ea = true := by simpa [vaOk] using h1
  simp [addrChecks, e, h2, h3]

/-- A byte string is a span of the addresses from its first. -/
theorem mem_span (a n x : Nat) : x ∈ span a n ↔ a ≤ x ∧ x < a + n := by
  unfold span
  simp only [List.mem_map, List.mem_range]
  constructor
  · rintro ⟨i, h, rfl⟩; omega
  · rintro ⟨h1, h2⟩; exact ⟨x - a, by omega, by omega⟩

/-- A local access that passes performs what follows. -/
theorem localAccess_pass (s : State) (l st w : Bool) (ea : Word) (n : Nat) (k : Act) (h : s.localPasses l st ea n) (hw : w = true → st = true) :
    localAccess s w (span ea.toNat n) k = k := by
  obtain ⟨-, -, -, hb, hh⟩ := h
  have hp : s.plotFail w (span ea.toNat n) = none := by
    unfold State.plotFail
    rw [List.find?_eq_none]
    intro a ha
    obtain ⟨h1, h2⟩ := (mem_span _ _ _).1 ha
    obtain ⟨e, r, -⟩ := hb a h1 h2
    rw [e]
    cases w
    · simp
    · by_cases hr : s.me.role = .k
      · simp [hr]
      · simp [r (hw rfl) hr]
  have hl : s.lockFail (span ea.toNat n) = none := by
    unfold State.lockFail
    rw [Option.map_eq_none_iff, List.find?_eq_none]
    intro a ha
    obtain ⟨h1, h2⟩ := (mem_span _ _ _).1 ha
    obtain ⟨-, -, q⟩ := hb a h1 h2
    cases e : nget s.here.locks (bankOf a) with
    | none => simp
    | some x => simp [q x e]
  simp [localAccess, hp, hl, hh]

/-- The checks of a local address that passes. -/
theorem addrChecks_local (s : State) (ea : Word) (n : Nat) (l st : Bool) (a m : Nat) (k : Act) (h : s.localPasses l st ea n) :
    addrChecks s ea n l st a m k = k :=
  addrChecks_pass s ea n l st a m k (Nat.lt_trans h.1 (by decide)) h.2.1 h.2.2.1

theorem isLocal_of (s : State) (l st : Bool) (ea : Word) (n : Nat) (h : s.localPasses l st ea n) : isLocal ea = true := by
  unfold isLocal lsTop
  have := h.1
  simpa using this

/-- The checks of a global address that passes. -/
theorem addrChecks_global (s : State) (ea : Word) (n : Nat) (l st : Bool) (kd : AccessKind) (e : RangeEntry) (a m : Nat) (k : Act)
    (h : s.globalPasses l st kd e ea n) : addrChecks s ea n l st a m k = k :=
  addrChecks_pass s ea n l st a m k (Nat.lt_trans h.2.1 (by decide)) h.2.2.1 h.2.2.2.1

theorem isLocal_global (s : State) (l st : Bool) (kd : AccessKind) (e : RangeEntry) (ea : Word) (n : Nat) (h : s.globalPasses l st kd e ea n) :
    isLocal ea = false := by
  unfold isLocal lsTop
  have := h.1
  simp only [decide_eq_false_iff_not]; omega

theorem isWindow_global (s : State) (l st : Bool) (kd : AccessKind) (e : RangeEntry) (ea : Word) (n : Nat) (h : s.globalPasses l st kd e ea n) :
    isWindow ea = false := by
  unfold isWindow
  have := h.2.1
  simp only [Bool.and_eq_false_iff, decide_eq_false_iff_not]; omega

/-- A translation that a range-table entry admits goes on with its physical address and attributes (R177). -/
theorem translate_ok (s : State) (l st : Bool) (kd : AccessKind) (e : RangeEntry) (ea : Word) (n : Nat) (k : State → Nat → MemAttr → Act)
    (h : s.globalPasses l st kd e ea n) :
    translate s ea kd k = k (s.modHere (fun c => c.useRange e)) (rangePA e.slot ea.toNat) e.slot.attr := by
  obtain ⟨-, -, -, -, h1, h2, h3⟩ := h
  simp [translate, h1, h2, h3]

/-- A release or fence that nothing stops goes on (R130, R166). -/
theorem releaseCheck_free (s : State) (k : Act) (h : s.releaseFree) : releaseCheck s k = k := by
  obtain ⟨h1, h2⟩ := h
  unfold releaseCheck
  rw [h1]
  cases e1 : s.me.ordctl.getLsbD 63 <;> cases e2 : s.me.ordctl.getLsbD 62 <;> simp_all

/-! ## Claims (R88) -/

theorem withClaim_some (s s' : State) (f : RFile) (n : Nat) (cls : BitVec 4) (b : Bool) (c : Option Nat) (k : State → Option Nat → Act)
    (h : s.pend f n cls b = some (s', c)) : withClaim s f n cls b k = k s' c := by simp [withClaim, h]

/-- A full claim table parks the slot (R88). -/
theorem withClaim_none (s : State) (f : RFile) (n : Nat) (cls : BitVec 4) (b : Bool) (k : State → Option Nat → Act) (h : s.pend f n cls b = none) :
    withClaim s f n cls b k = .park s (.claims s.here.freed) := by simp [withClaim, h]

theorem pend_x0 (s : State) (cls : BitVec 4) (b : Bool) : s.pend .x 0 cls b = some (s, none) := by simp [State.pend]

end Sys2Proof.Machine
end

