-- ==== Sys2Proof/Laws/PerInstr.lean ====
section
/-! SUPPORT. Per instruction: the word that the encoder gives a legal instruction carries the fixed fields of its row, so that the decoder
reads that row with every field as it was written. -/

namespace Sys2Proof.Laws.Encoding

open Sys2Proof

/-- What the family says of an instruction: the decoder reads the row of its word, with its fields. -/
def Statement (i : Instr) : Prop := ∀ w, encode i = some w → i.wf = true → decodeRow w = some i

/-! ## Fields of a concatenation -/

theorem bits_hi {a b : Nat} (x : BitVec a) (y : BitVec b) (lo len : Nat) (h : b ≤ lo) : (x ++ y).extractLsb' lo len = x.extractLsb' (lo - b) len := by
  ext i hi
  simp only [BitVec.getElem_extractLsb', BitVec.getLsbD_append, show ¬ lo + i < b by omega, if_false]
  congr 1; omega

theorem bits_lo {a b : Nat} (x : BitVec a) (y : BitVec b) (lo len : Nat) (h : lo + len ≤ b) : (x ++ y).extractLsb' lo len = y.extractLsb' lo len := by
  ext i hi
  simp only [BitVec.getElem_extractLsb', BitVec.getLsbD_append, show lo + i < b by omega, if_true]

theorem bits_all {a : Nat} (x : BitVec a) : x.extractLsb' 0 a = x := by simp

/-- The last field of a concatenation. -/
theorem bits_last {a b : Nat} (x : BitVec a) (y : BitVec b) : (x ++ y).extractLsb' 0 b = y := (bits_lo x y 0 b (by omega)).trans (bits_all y)

/-- A word whose top bits differ from those of a funct7 has not that funct7. -/
theorem top_ne (w : IWord) (k n : Nat) (f : BitVec n) (c : BitVec 7) (h : bitsAt w (25 + k) n = f) (hk : k + n ≤ 7) (hc : c.extractLsb' k n ≠ f) :
    (bitsAt w 25 7 == c) = false := by
  rw [beq_eq_false_iff_ne]
  intro e
  apply hc
  rw [← e, ← h]
  ext i hi
  simp [show k + i < 7 by omega, Nat.add_assoc]

/-! ## Dispatch by opcode and by funct3 -/

theorem at_decodeLoad_0 (w : IWord) (h : bitsAt w 12 3 = 0#3) : decodeLoad w = decodeLoad0 w := by unfold decodeLoad; rw [h]; rfl

theorem at_decodeLoad_1 (w : IWord) (h : bitsAt w 12 3 = 1#3) : decodeLoad w = decodeLoad1 w := by unfold decodeLoad; rw [h]; rfl

theorem at_decodeLoad_2 (w : IWord) (h : bitsAt w 12 3 = 2#3) : decodeLoad w = decodeLoad2 w := by unfold decodeLoad; rw [h]; rfl

theorem at_decodeLoad_3 (w : IWord) (h : bitsAt w 12 3 = 3#3) : decodeLoad w = decodeLoad3 w := by unfold decodeLoad; rw [h]; rfl

theorem at_decodeLoad_4 (w : IWord) (h : bitsAt w 12 3 = 4#3) : decodeLoad w = decodeLoad4 w := by unfold decodeLoad; rw [h]; rfl

theorem at_decodeLoad_5 (w : IWord) (h : bitsAt w 12 3 = 5#3) : decodeLoad w = decodeLoad5 w := by unfold decodeLoad; rw [h]; rfl

theorem at_decodeLoad_6 (w : IWord) (h : bitsAt w 12 3 = 6#3) : decodeLoad w = decodeLoad6 w := by unfold decodeLoad; rw [h]; rfl

theorem at_decodeCustom0_0 (w : IWord) (h : bitsAt w 12 3 = 0#3) : decodeCustom0 w = decodeCustom00 w := by unfold decodeCustom0; rw [h]; rfl

theorem at_decodeCustom0_1 (w : IWord) (h : bitsAt w 12 3 = 1#3) : decodeCustom0 w = decodeCustom01 w := by unfold decodeCustom0; rw [h]; rfl

theorem at_decodeCustom0_2 (w : IWord) (h : bitsAt w 12 3 = 2#3) : decodeCustom0 w = decodeCustom02 w := by unfold decodeCustom0; rw [h]; rfl

theorem at_decodeCustom0_3 (w : IWord) (h : bitsAt w 12 3 = 3#3) : decodeCustom0 w = decodeCustom03 w := by unfold decodeCustom0; rw [h]; rfl

theorem at_decodeCustom0_4 (w : IWord) (h : bitsAt w 12 3 = 4#3) : decodeCustom0 w = decodeCustom04 w := by unfold decodeCustom0; rw [h]; rfl

theorem at_decodeCustom0_5 (w : IWord) (h : bitsAt w 12 3 = 5#3) : decodeCustom0 w = decodeCustom05 w := by unfold decodeCustom0; rw [h]; rfl

theorem at_decodeOpImm_0 (w : IWord) (h : bitsAt w 12 3 = 0#3) : decodeOpImm w = decodeOpImm0 w := by unfold decodeOpImm; rw [h]; rfl

theorem at_decodeOpImm_1 (w : IWord) (h : bitsAt w 12 3 = 1#3) : decodeOpImm w = decodeOpImm1 w := by unfold decodeOpImm; rw [h]; rfl

theorem at_decodeOpImm_2 (w : IWord) (h : bitsAt w 12 3 = 2#3) : decodeOpImm w = decodeOpImm2 w := by unfold decodeOpImm; rw [h]; rfl

theorem at_decodeOpImm_3 (w : IWord) (h : bitsAt w 12 3 = 3#3) : decodeOpImm w = decodeOpImm3 w := by unfold decodeOpImm; rw [h]; rfl

theorem at_decodeOpImm_4 (w : IWord) (h : bitsAt w 12 3 = 4#3) : decodeOpImm w = decodeOpImm4 w := by unfold decodeOpImm; rw [h]; rfl

theorem at_decodeOpImm_5 (w : IWord) (h : bitsAt w 12 3 = 5#3) : decodeOpImm w = decodeOpImm5 w := by unfold decodeOpImm; rw [h]; rfl

theorem at_decodeOpImm_6 (w : IWord) (h : bitsAt w 12 3 = 6#3) : decodeOpImm w = decodeOpImm6 w := by unfold decodeOpImm; rw [h]; rfl

theorem at_decodeOpImm_7 (w : IWord) (h : bitsAt w 12 3 = 7#3) : decodeOpImm w = decodeOpImm7 w := by unfold decodeOpImm; rw [h]; rfl

theorem at_decodeOpImm32_0 (w : IWord) (h : bitsAt w 12 3 = 0#3) : decodeOpImm32 w = decodeOpImm320 w := by unfold decodeOpImm32; rw [h]; rfl

theorem at_decodeOpImm32_1 (w : IWord) (h : bitsAt w 12 3 = 1#3) : decodeOpImm32 w = decodeOpImm321 w := by unfold decodeOpImm32; rw [h]; rfl

theorem at_decodeOpImm32_5 (w : IWord) (h : bitsAt w 12 3 = 5#3) : decodeOpImm32 w = decodeOpImm325 w := by unfold decodeOpImm32; rw [h]; rfl

theorem at_decodeStore_0 (w : IWord) (h : bitsAt w 12 3 = 0#3) : decodeStore w = decodeStore0 w := by unfold decodeStore; rw [h]; rfl

theorem at_decodeStore_1 (w : IWord) (h : bitsAt w 12 3 = 1#3) : decodeStore w = decodeStore1 w := by unfold decodeStore; rw [h]; rfl

theorem at_decodeStore_2 (w : IWord) (h : bitsAt w 12 3 = 2#3) : decodeStore w = decodeStore2 w := by unfold decodeStore; rw [h]; rfl

theorem at_decodeStore_3 (w : IWord) (h : bitsAt w 12 3 = 3#3) : decodeStore w = decodeStore3 w := by unfold decodeStore; rw [h]; rfl

theorem at_decodeCustom1_0 (w : IWord) (h : bitsAt w 12 3 = 0#3) : decodeCustom1 w = decodeCustom10 w := by unfold decodeCustom1; rw [h]; rfl

theorem at_decodeCustom1_1 (w : IWord) (h : bitsAt w 12 3 = 1#3) : decodeCustom1 w = decodeCustom11 w := by unfold decodeCustom1; rw [h]; rfl

theorem at_decodeCustom1_2 (w : IWord) (h : bitsAt w 12 3 = 2#3) : decodeCustom1 w = decodeCustom12 w := by unfold decodeCustom1; rw [h]; rfl

theorem at_decodeCustom1_3 (w : IWord) (h : bitsAt w 12 3 = 3#3) : decodeCustom1 w = decodeCustom13 w := by unfold decodeCustom1; rw [h]; rfl

theorem at_decodeCustom1_4 (w : IWord) (h : bitsAt w 12 3 = 4#3) : decodeCustom1 w = decodeCustom14 w := by unfold decodeCustom1; rw [h]; rfl

theorem at_decodeCustom1_5 (w : IWord) (h : bitsAt w 12 3 = 5#3) : decodeCustom1 w = decodeCustom15 w := by unfold decodeCustom1; rw [h]; rfl

theorem at_decodeCustom1_6 (w : IWord) (h : bitsAt w 12 3 = 6#3) : decodeCustom1 w = decodeCustom16 w := by unfold decodeCustom1; rw [h]; rfl

theorem at_decodeCustom1_7 (w : IWord) (h : bitsAt w 12 3 = 7#3) : decodeCustom1 w = decodeCustom17 w := by unfold decodeCustom1; rw [h]; rfl

theorem at_decodeOp_0 (w : IWord) (h : bitsAt w 12 3 = 0#3) : decodeOp w = decodeOp0 w := by unfold decodeOp; rw [h]; rfl

theorem at_decodeOp_1 (w : IWord) (h : bitsAt w 12 3 = 1#3) : decodeOp w = decodeOp1 w := by unfold decodeOp; rw [h]; rfl

theorem at_decodeOp_2 (w : IWord) (h : bitsAt w 12 3 = 2#3) : decodeOp w = decodeOp2 w := by unfold decodeOp; rw [h]; rfl

theorem at_decodeOp_3 (w : IWord) (h : bitsAt w 12 3 = 3#3) : decodeOp w = decodeOp3 w := by unfold decodeOp; rw [h]; rfl

theorem at_decodeOp_4 (w : IWord) (h : bitsAt w 12 3 = 4#3) : decodeOp w = decodeOp4 w := by unfold decodeOp; rw [h]; rfl

theorem at_decodeOp_5 (w : IWord) (h : bitsAt w 12 3 = 5#3) : decodeOp w = decodeOp5 w := by unfold decodeOp; rw [h]; rfl

theorem at_decodeOp_6 (w : IWord) (h : bitsAt w 12 3 = 6#3) : decodeOp w = decodeOp6 w := by unfold decodeOp; rw [h]; rfl

theorem at_decodeOp_7 (w : IWord) (h : bitsAt w 12 3 = 7#3) : decodeOp w = decodeOp7 w := by unfold decodeOp; rw [h]; rfl

theorem at_decodeOp32_0 (w : IWord) (h : bitsAt w 12 3 = 0#3) : decodeOp32 w = decodeOp320 w := by unfold decodeOp32; rw [h]; rfl

theorem at_decodeOp32_1 (w : IWord) (h : bitsAt w 12 3 = 1#3) : decodeOp32 w = decodeOp321 w := by unfold decodeOp32; rw [h]; rfl

theorem at_decodeOp32_4 (w : IWord) (h : bitsAt w 12 3 = 4#3) : decodeOp32 w = decodeOp324 w := by unfold decodeOp32; rw [h]; rfl

theorem at_decodeOp32_5 (w : IWord) (h : bitsAt w 12 3 = 5#3) : decodeOp32 w = decodeOp325 w := by unfold decodeOp32; rw [h]; rfl

theorem at_decodeOp32_6 (w : IWord) (h : bitsAt w 12 3 = 6#3) : decodeOp32 w = decodeOp326 w := by unfold decodeOp32; rw [h]; rfl

theorem at_decodeOp32_7 (w : IWord) (h : bitsAt w 12 3 = 7#3) : decodeOp32 w = decodeOp327 w := by unfold decodeOp32; rw [h]; rfl

theorem at_decodeCustom2_6 (w : IWord) (h : bitsAt w 12 3 = 6#3) : decodeCustom2 w = decodeCustom2Mx w := by unfold decodeCustom2; rw [h]; rfl

theorem at_decodeCustom2_7 (w : IWord) (h : bitsAt w 12 3 = 7#3) : decodeCustom2 w = decodeCustom2Cvt w := by unfold decodeCustom2; rw [h]; rfl

theorem at_decodeBranch_0 (w : IWord) (h : bitsAt w 12 3 = 0#3) : decodeBranch w = decodeBranch0 w := by unfold decodeBranch; rw [h]; rfl

theorem at_decodeBranch_1 (w : IWord) (h : bitsAt w 12 3 = 1#3) : decodeBranch w = decodeBranch1 w := by unfold decodeBranch; rw [h]; rfl

theorem at_decodeBranch_4 (w : IWord) (h : bitsAt w 12 3 = 4#3) : decodeBranch w = decodeBranch4 w := by unfold decodeBranch; rw [h]; rfl

theorem at_decodeBranch_5 (w : IWord) (h : bitsAt w 12 3 = 5#3) : decodeBranch w = decodeBranch5 w := by unfold decodeBranch; rw [h]; rfl

theorem at_decodeBranch_6 (w : IWord) (h : bitsAt w 12 3 = 6#3) : decodeBranch w = decodeBranch6 w := by unfold decodeBranch; rw [h]; rfl

theorem at_decodeBranch_7 (w : IWord) (h : bitsAt w 12 3 = 7#3) : decodeBranch w = decodeBranch7 w := by unfold decodeBranch; rw [h]; rfl

theorem at_decodeSystem_0 (w : IWord) (h : bitsAt w 12 3 = 0#3) : decodeSystem w = decodeSystem0 w := by unfold decodeSystem; rw [h]; rfl

theorem at_decodeSystem_1 (w : IWord) (h : bitsAt w 12 3 = 1#3) : decodeSystem w = decodeSystem1 w := by unfold decodeSystem; rw [h]; rfl

theorem at_decodeSystem_2 (w : IWord) (h : bitsAt w 12 3 = 2#3) : decodeSystem w = decodeSystem2 w := by unfold decodeSystem; rw [h]; rfl

theorem at_decodeSystem_3 (w : IWord) (h : bitsAt w 12 3 = 3#3) : decodeSystem w = decodeSystem3 w := by unfold decodeSystem; rw [h]; rfl

theorem at_decodeSystem_5 (w : IWord) (h : bitsAt w 12 3 = 5#3) : decodeSystem w = decodeSystem5 w := by unfold decodeSystem; rw [h]; rfl

theorem at_decodeSystem_6 (w : IWord) (h : bitsAt w 12 3 = 6#3) : decodeSystem w = decodeSystem6 w := by unfold decodeSystem; rw [h]; rfl

theorem at_decodeSystem_7 (w : IWord) (h : bitsAt w 12 3 = 7#3) : decodeSystem w = decodeSystem7 w := by unfold decodeSystem; rw [h]; rfl

theorem at_decodeCustom3_0 (w : IWord) (h : bitsAt w 12 3 = 0#3) : decodeCustom3 w = decodeCustom30 w := by unfold decodeCustom3; rw [h]; rfl

theorem at_decodeCustom3_1 (w : IWord) (h : bitsAt w 12 3 = 1#3) : decodeCustom3 w = decodeCustom31 w := by unfold decodeCustom3; rw [h]; rfl

theorem at_decodeCustom3_2 (w : IWord) (h : bitsAt w 12 3 = 2#3) : decodeCustom3 w = decodeCustom32 w := by unfold decodeCustom3; rw [h]; rfl

theorem at_decodeCustom3_3 (w : IWord) (h : bitsAt w 12 3 = 3#3) : decodeCustom3 w = decodeCustom33 w := by unfold decodeCustom3; rw [h]; rfl

theorem at_decodeCustom3_4 (w : IWord) (h : bitsAt w 12 3 = 4#3) : decodeCustom3 w = decodeCustom34 w := by unfold decodeCustom3; rw [h]; rfl

theorem at_decodeCustom3_5 (w : IWord) (h : bitsAt w 12 3 = 5#3) : decodeCustom3 w = decodeCustom35 w := by unfold decodeCustom3; rw [h]; rfl

theorem at_decodeRow_3 (w : IWord) (h : bitsAt w 0 7 = 3#7) : decodeRow w = decodeLoad w := by unfold decodeRow; rw [h]; rfl

theorem at_decodeRow_11 (w : IWord) (h : bitsAt w 0 7 = 11#7) : decodeRow w = decodeCustom0 w := by unfold decodeRow; rw [h]; rfl

theorem at_decodeRow_15 (w : IWord) (h : bitsAt w 0 7 = 15#7) : decodeRow w = decodeMiscMem w := by unfold decodeRow; rw [h]; rfl

theorem at_decodeRow_19 (w : IWord) (h : bitsAt w 0 7 = 19#7) : decodeRow w = decodeOpImm w := by unfold decodeRow; rw [h]; rfl

theorem at_decodeRow_23 (w : IWord) (h : bitsAt w 0 7 = 23#7) : decodeRow w = decodeAuipc w := by unfold decodeRow; rw [h]; rfl

theorem at_decodeRow_27 (w : IWord) (h : bitsAt w 0 7 = 27#7) : decodeRow w = decodeOpImm32 w := by unfold decodeRow; rw [h]; rfl

theorem at_decodeRow_35 (w : IWord) (h : bitsAt w 0 7 = 35#7) : decodeRow w = decodeStore w := by unfold decodeRow; rw [h]; rfl

theorem at_decodeRow_43 (w : IWord) (h : bitsAt w 0 7 = 43#7) : decodeRow w = decodeCustom1 w := by unfold decodeRow; rw [h]; rfl

theorem at_decodeRow_47 (w : IWord) (h : bitsAt w 0 7 = 47#7) : decodeRow w = decodeAmo w := by unfold decodeRow; rw [h]; rfl

theorem at_decodeRow_51 (w : IWord) (h : bitsAt w 0 7 = 51#7) : decodeRow w = decodeOp w := by unfold decodeRow; rw [h]; rfl

theorem at_decodeRow_55 (w : IWord) (h : bitsAt w 0 7 = 55#7) : decodeRow w = decodeLui w := by unfold decodeRow; rw [h]; rfl

theorem at_decodeRow_59 (w : IWord) (h : bitsAt w 0 7 = 59#7) : decodeRow w = decodeOp32 w := by unfold decodeRow; rw [h]; rfl

theorem at_decodeRow_91 (w : IWord) (h : bitsAt w 0 7 = 91#7) : decodeRow w = decodeCustom2 w := by unfold decodeRow; rw [h]; rfl

theorem at_decodeRow_99 (w : IWord) (h : bitsAt w 0 7 = 99#7) : decodeRow w = decodeBranch w := by unfold decodeRow; rw [h]; rfl

theorem at_decodeRow_103 (w : IWord) (h : bitsAt w 0 7 = 103#7) : decodeRow w = decodeJalr w := by unfold decodeRow; rw [h]; rfl

theorem at_decodeRow_111 (w : IWord) (h : bitsAt w 0 7 = 111#7) : decodeRow w = decodeJal w := by unfold decodeRow; rw [h]; rfl

theorem at_decodeRow_115 (w : IWord) (h : bitsAt w 0 7 = 115#7) : decodeRow w = decodeSystem w := by unfold decodeRow; rw [h]; rfl

theorem at_decodeRow_123 (w : IWord) (h : bitsAt w 0 7 = 123#7) : decodeRow w = decodeCustom3 w := by unfold decodeRow; rw [h]; rfl

theorem at_custom2 (w : IWord) (t : BitVec 3) (h : bitsAt w 12 3 = t) (h6 : t ≠ 6#3) (h7 : t ≠ 7#3) :
    decodeCustom2 w = if bitsAt w 25 1 == 1#1 then decodeCustom2Q w else decodeCustom2R w := by
  unfold decodeCustom2
  rw [h]
  have h : t.toNat ≠ 6 ∧ t.toNat ≠ 7 := ⟨fun e => h6 (BitVec.eq_of_toNat_eq e), fun e => h7 (BitVec.eq_of_toNat_eq e)⟩
  split <;> simp_all

/-! ## The constructors -/

theorem lui (imm : BitVec 20) (rd : BitVec 5) : Statement (.lui imm rd) := by
  intro w h _
  have e : w = imm ++ rd ++ 0x37#7 := (Option.some.inj h).symm
  have b0_7 : bitsAt w 0 7 = 0x37#7 := by rw [e]; exact bits_last _ _
  have b7_5 : bitsAt w 7 5 = rd := by rw [e]; exact (bits_hi _ _ _ _ (by decide)).trans (bits_last _ _)
  have b12_20 : bitsAt w 12 20 = imm := by rw [e]; exact (bits_hi _ _ _ _ (by decide)).trans ((bits_hi _ _ _ _ (by decide)).trans (bits_all _))
  rw [at_decodeRow_55 w b0_7]
  unfold decodeLui
  rw [b7_5, b12_20]

theorem auipc (imm : BitVec 20) (rd : BitVec 5) : Statement (.auipc imm rd) := by
  intro w h _
  have e : w = imm ++ rd ++ 0x17#7 := (Option.some.inj h).symm
  have b0_7 : bitsAt w 0 7 = 0x17#7 := by rw [e]; exact bits_last _ _
  have b7_5 : bitsAt w 7 5 = rd := by rw [e]; exact (bits_hi _ _ _ _ (by decide)).trans (bits_last _ _)
  have b12_20 : bitsAt w 12 20 = imm := by rw [e]; exact (bits_hi _ _ _ _ (by decide)).trans ((bits_hi _ _ _ _ (by decide)).trans (bits_all _))
  rw [at_decodeRow_23 w b0_7]
  unfold decodeAuipc
  rw [b7_5, b12_20]

theorem jal (imm : BitVec 20) (rd : BitVec 5) : Statement (.jal imm rd) := by
  intro w h _
  have e : w = imm ++ rd ++ 0x6F#7 := (Option.some.inj h).symm
  have b0_7 : bitsAt w 0 7 = 0x6F#7 := by rw [e]; exact bits_last _ _
  have b7_5 : bitsAt w 7 5 = rd := by rw [e]; exact (bits_hi _ _ _ _ (by decide)).trans (bits_last _ _)
  have b12_20 : bitsAt w 12 20 = imm := by rw [e]; exact (bits_hi _ _ _ _ (by decide)).trans ((bits_hi _ _ _ _ (by decide)).trans (bits_all _))
  rw [at_decodeRow_111 w b0_7]
  unfold decodeJal
  rw [b7_5, b12_20]

theorem jalr (imm : BitVec 12) (rs1 : BitVec 5) (rd : BitVec 5) : Statement (.jalr imm rs1 rd) := by
  intro w h _
  have e : w = imm ++ rs1 ++ 0x0#3 ++ rd ++ 0x67#7 := (Option.some.inj h).symm
  have b0_7 : bitsAt w 0 7 = 0x67#7 := by rw [e]; exact bits_last _ _
  have b7_5 : bitsAt w 7 5 = rd := by rw [e]; exact (bits_hi _ _ _ _ (by decide)).trans (bits_last _ _)
  have b12_3 : bitsAt w 12 3 = 0x0#3 := by rw [e]; exact (bits_hi _ _ _ _ (by decide)).trans ((bits_hi _ _ _ _ (by decide)).trans (bits_last _ _))
  have b15_5 : bitsAt w 15 5 = rs1 := by rw [e]; exact (bits_hi _ _ _ _ (by decide)).trans ((bits_hi _ _ _ _ (by decide)).trans ((bits_hi _ _ _ _ (by decide)).trans (bits_last _ _)))
  have b20_12 : bitsAt w 20 12 = imm := by rw [e]; exact (bits_hi _ _ _ _ (by decide)).trans ((bits_hi _ _ _ _ (by decide)).trans ((bits_hi _ _ _ _ (by decide)).trans ((bits_hi _ _ _ _ (by decide)).trans (bits_all _))))
  rw [at_decodeRow_103 w b0_7]
  unfold decodeJalr
  rw [b7_5, b12_3, b15_5, b20_12]
  rfl

theorem beq (immHi : BitVec 7) (rs2 : BitVec 5) (rs1 : BitVec 5) (immLo : BitVec 5) : Statement (.beq immHi rs2 rs1 immLo) := by
  intro w h _
  have e : w = immHi ++ rs2 ++ rs1 ++ 0x0#3 ++ immLo ++ 0x63#7 := (Option.some.inj h).symm
  have b0_7 : bitsAt w 0 7 = 0x63#7 := by rw [e]; exact bits_last _ _
  have b7_5 : bitsAt w 7 5 = immLo := by rw [e]; exact (bits_hi _ _ _ _ (by decide)).trans (bits_last _ _)
  have b12_3 : bitsAt w 12 3 = 0x0#3 := by rw [e]; exact (bits_hi _ _ _ _ (by decide)).trans ((bits_hi _ _ _ _ (by decide)).trans (bits_last _ _))
  have b15_5 : bitsAt w 15 5 = rs1 := by rw [e]; exact (bits_hi _ _ _ _ (by decide)).trans ((bits_hi _ _ _ _ (by decide)).trans ((bits_hi _ _ _ _ (by decide)).trans (bits_last _ _)))
  have b20_5 : bitsAt w 20 5 = rs2 := by rw [e]; exact (bits_hi _ _ _ _ (by decide)).trans ((bits_hi _ _ _ _ (by decide)).trans ((bits_hi _ _ _ _ (by decide)).trans ((bits_hi _ _ _ _ (by decide)).trans (bits_last _ _))))
  have b25_7 : bitsAt w 25 7 = immHi := by rw [e]; exact (bits_hi _ _ _ _ (by decide)).trans ((bits_hi _ _ _ _ (by decide)).trans ((bits_hi _ _ _ _ (by decide)).trans ((bits_hi _ _ _ _ (by decide)).trans ((bits_hi _ _ _ _ (by decide)).trans (bits_all _)))))
  rw [at_decodeRow_99 w b0_7, at_decodeBranch_0 w b12_3]
  unfold decodeBranch0
  rw [b7_5, b15_5, b20_5, b25_7]

theorem bne (immHi : BitVec 7) (rs2 : BitVec 5) (rs1 : BitVec 5) (immLo : BitVec 5) : Statement (.bne immHi rs2 rs1 immLo) := by
  intro w h _
  have e : w = immHi ++ rs2 ++ rs1 ++ 0x1#3 ++ immLo ++ 0x63#7 := (Option.some.inj h).symm
  have b0_7 : bitsAt w 0 7 = 0x63#7 := by rw [e]; exact bits_last _ _
  have b7_5 : bitsAt w 7 5 = immLo := by rw [e]; exact (bits_hi _ _ _ _ (by decide)).trans (bits_last _ _)
  have b12_3 : bitsAt w 12 3 = 0x1#3 := by rw [e]; exact (bits_hi _ _ _ _ (by decide)).trans ((bits_hi _ _ _ _ (by decide)).trans (bits_last _ _))
  have b15_5 : bitsAt w 15 5 = rs1 := by rw [e]; exact (bits_hi _ _ _ _ (by decide)).trans ((bits_hi _ _ _ _ (by decide)).trans ((bits_hi _ _ _ _ (by decide)).trans (bits_last _ _)))
  have b20_5 : bitsAt w 20 5 = rs2 := by rw [e]; exact (bits_hi _ _ _ _ (by decide)).trans ((bits_hi _ _ _ _ (by decide)).trans ((bits_hi _ _ _ _ (by decide)).trans ((bits_hi _ _ _ _ (by decide)).trans (bits_last _ _))))
  have b25_7 : bitsAt w 25 7 = immHi := by rw [e]; exact (bits_hi _ _ _ _ (by decide)).trans ((bits_hi _ _ _ _ (by decide)).trans ((bits_hi _ _ _ _ (by decide)).trans ((bits_hi _ _ _ _ (by decide)).trans ((bits_hi _ _ _ _ (by decide)).trans (bits_all _)))))
  rw [at_decodeRow_99 w b0_7, at_decodeBranch_1 w b12_3]
  unfold decodeBranch1
  rw [b7_5, b15_5, b20_5, b25_7]

theorem blt (immHi : BitVec 7) (rs2 : BitVec 5) (rs1 : BitVec 5) (immLo : BitVec 5) : Statement (.blt immHi rs2 rs1 immLo) := by
  intro w h _
  have e : w = immHi ++ rs2 ++ rs1 ++ 0x4#3 ++ immLo ++ 0x63#7 := (Option.some.inj h).symm
  have b0_7 : bitsAt w 0 7 = 0x63#7 := by rw [e]; exact bits_last _ _
  have b7_5 : bitsAt w 7 5 = immLo := by rw [e]; exact (bits_hi _ _ _ _ (by decide)).trans (bits_last _ _)
  have b12_3 : bitsAt w 12 3 = 0x4#3 := by rw [e]; exact (bits_hi _ _ _ _ (by decide)).trans ((bits_hi _ _ _ _ (by decide)).trans (bits_last _ _))
  have b15_5 : bitsAt w 15 5 = rs1 := by rw [e]; exact (bits_hi _ _ _ _ (by decide)).trans ((bits_hi _ _ _ _ (by decide)).trans ((bits_hi _ _ _ _ (by decide)).trans (bits_last _ _)))
  have b20_5 : bitsAt w 20 5 = rs2 := by rw [e]; exact (bits_hi _ _ _ _ (by decide)).trans ((bits_hi _ _ _ _ (by decide)).trans ((bits_hi _ _ _ _ (by decide)).trans ((bits_hi _ _ _ _ (by decide)).trans (bits_last _ _))))
  have b25_7 : bitsAt w 25 7 = immHi := by rw [e]; exact (bits_hi _ _ _ _ (by decide)).trans ((bits_hi _ _ _ _ (by decide)).trans ((bits_hi _ _ _ _ (by decide)).trans ((bits_hi _ _ _ _ (by decide)).trans ((bits_hi _ _ _ _ (by decide)).trans (bits_all _)))))
  rw [at_decodeRow_99 w b0_7, at_decodeBranch_4 w b12_3]
  unfold decodeBranch4
  rw [b7_5, b15_5, b20_5, b25_7]

theorem bge (immHi : BitVec 7) (rs2 : BitVec 5) (rs1 : BitVec 5) (immLo : BitVec 5) : Statement (.bge immHi rs2 rs1 immLo) := by
  intro w h _
  have e : w = immHi ++ rs2 ++ rs1 ++ 0x5#3 ++ immLo ++ 0x63#7 := (Option.some.inj h).symm
  have b0_7 : bitsAt w 0 7 = 0x63#7 := by rw [e]; exact bits_last _ _
  have b7_5 : bitsAt w 7 5 = immLo := by rw [e]; exact (bits_hi _ _ _ _ (by decide)).trans (bits_last _ _)
  have b12_3 : bitsAt w 12 3 = 0x5#3 := by rw [e]; exact (bits_hi _ _ _ _ (by decide)).trans ((bits_hi _ _ _ _ (by decide)).trans (bits_last _ _))
  have b15_5 : bitsAt w 15 5 = rs1 := by rw [e]; exact (bits_hi _ _ _ _ (by decide)).trans ((bits_hi _ _ _ _ (by decide)).trans ((bits_hi _ _ _ _ (by decide)).trans (bits_last _ _)))
  have b20_5 : bitsAt w 20 5 = rs2 := by rw [e]; exact (bits_hi _ _ _ _ (by decide)).trans ((bits_hi _ _ _ _ (by decide)).trans ((bits_hi _ _ _ _ (by decide)).trans ((bits_hi _ _ _ _ (by decide)).trans (bits_last _ _))))
  have b25_7 : bitsAt w 25 7 = immHi := by rw [e]; exact (bits_hi _ _ _ _ (by decide)).trans ((bits_hi _ _ _ _ (by decide)).trans ((bits_hi _ _ _ _ (by decide)).trans ((bits_hi _ _ _ _ (by decide)).trans ((bits_hi _ _ _ _ (by decide)).trans (bits_all _)))))
  rw [at_decodeRow_99 w b0_7, at_decodeBranch_5 w b12_3]
  unfold decodeBranch5
  rw [b7_5, b15_5, b20_5, b25_7]

theorem bltu (immHi : BitVec 7) (rs2 : BitVec 5) (rs1 : BitVec 5) (immLo : BitVec 5) : Statement (.bltu immHi rs2 rs1 immLo) := by
  intro w h _
  have e : w = immHi ++ rs2 ++ rs1 ++ 0x6#3 ++ immLo ++ 0x63#7 := (Option.some.inj h).symm
  have b0_7 : bitsAt w 0 7 = 0x63#7 := by rw [e]; exact bits_last _ _
  have b7_5 : bitsAt w 7 5 = immLo := by rw [e]; exact (bits_hi _ _ _ _ (by decide)).trans (bits_last _ _)
  have b12_3 : bitsAt w 12 3 = 0x6#3 := by rw [e]; exact (bits_hi _ _ _ _ (by decide)).trans ((bits_hi _ _ _ _ (by decide)).trans (bits_last _ _))
  have b15_5 : bitsAt w 15 5 = rs1 := by rw [e]; exact (bits_hi _ _ _ _ (by decide)).trans ((bits_hi _ _ _ _ (by decide)).trans ((bits_hi _ _ _ _ (by decide)).trans (bits_last _ _)))
  have b20_5 : bitsAt w 20 5 = rs2 := by rw [e]; exact (bits_hi _ _ _ _ (by decide)).trans ((bits_hi _ _ _ _ (by decide)).trans ((bits_hi _ _ _ _ (by decide)).trans ((bits_hi _ _ _ _ (by decide)).trans (bits_last _ _))))
  have b25_7 : bitsAt w 25 7 = immHi := by rw [e]; exact (bits_hi _ _ _ _ (by decide)).trans ((bits_hi _ _ _ _ (by decide)).trans ((bits_hi _ _ _ _ (by decide)).trans ((bits_hi _ _ _ _ (by decide)).trans ((bits_hi _ _ _ _ (by decide)).trans (bits_all _)))))
  rw [at_decodeRow_99 w b0_7, at_decodeBranch_6 w b12_3]
  unfold decodeBranch6
  rw [b7_5, b15_5, b20_5, b25_7]

theorem bgeu (immHi : BitVec 7) (rs2 : BitVec 5) (rs1 : BitVec 5) (immLo : BitVec 5) : Statement (.bgeu immHi rs2 rs1 immLo) := by
  intro w h _
  have e : w = immHi ++ rs2 ++ rs1 ++ 0x7#3 ++ immLo ++ 0x63#7 := (Option.some.inj h).symm
  have b0_7 : bitsAt w 0 7 = 0x63#7 := by rw [e]; exact bits_last _ _
  have b7_5 : bitsAt w 7 5 = immLo := by rw [e]; exact (bits_hi _ _ _ _ (by decide)).trans (bits_last _ _)
  have b12_3 : bitsAt w 12 3 = 0x7#3 := by rw [e]; exact (bits_hi _ _ _ _ (by decide)).trans ((bits_hi _ _ _ _ (by decide)).trans (bits_last _ _))
  have b15_5 : bitsAt w 15 5 = rs1 := by rw [e]; exact (bits_hi _ _ _ _ (by decide)).trans ((bits_hi _ _ _ _ (by decide)).trans ((bits_hi _ _ _ _ (by decide)).trans (bits_last _ _)))
  have b20_5 : bitsAt w 20 5 = rs2 := by rw [e]; exact (bits_hi _ _ _ _ (by decide)).trans ((bits_hi _ _ _ _ (by decide)).trans ((bits_hi _ _ _ _ (by decide)).trans ((bits_hi _ _ _ _ (by decide)).trans (bits_last _ _))))
  have b25_7 : bitsAt w 25 7 = immHi := by rw [e]; exact (bits_hi _ _ _ _ (by decide)).trans ((bits_hi _ _ _ _ (by decide)).trans ((bits_hi _ _ _ _ (by decide)).trans ((bits_hi _ _ _ _ (by decide)).trans ((bits_hi _ _ _ _ (by decide)).trans (bits_all _)))))
  rw [at_decodeRow_99 w b0_7, at_decodeBranch_7 w b12_3]
  unfold decodeBranch7
  rw [b7_5, b15_5, b20_5, b25_7]

theorem lb (imm : BitVec 12) (rs1 : BitVec 5) (rd : BitVec 5) : Statement (.lb imm rs1 rd) := by
  intro w h _
  have e : w = imm ++ rs1 ++ 0x0#3 ++ rd ++ 0x3#7 := (Option.some.inj h).symm
  have b0_7 : bitsAt w 0 7 = 0x3#7 := by rw [e]; exact bits_last _ _
  have b7_5 : bitsAt w 7 5 = rd := by rw [e]; exact (bits_hi _ _ _ _ (by decide)).trans (bits_last _ _)
  have b12_3 : bitsAt w 12 3 = 0x0#3 := by rw [e]; exact (bits_hi _ _ _ _ (by decide)).trans ((bits_hi _ _ _ _ (by decide)).trans (bits_last _ _))
  have b15_5 : bitsAt w 15 5 = rs1 := by rw [e]; exact (bits_hi _ _ _ _ (by decide)).trans ((bits_hi _ _ _ _ (by decide)).trans ((bits_hi _ _ _ _ (by decide)).trans (bits_last _ _)))
  have b20_12 : bitsAt w 20 12 = imm := by rw [e]; exact (bits_hi _ _ _ _ (by decide)).trans ((bits_hi _ _ _ _ (by decide)).trans ((bits_hi _ _ _ _ (by decide)).trans ((bits_hi _ _ _ _ (by decide)).trans (bits_all _))))
  rw [at_decodeRow_3 w b0_7, at_decodeLoad_0 w b12_3]
  unfold decodeLoad0
  rw [b7_5, b15_5, b20_12]

theorem lh (imm : BitVec 12) (rs1 : BitVec 5) (rd : BitVec 5) : Statement (.lh imm rs1 rd) := by
  intro w h _
  have e : w = imm ++ rs1 ++ 0x1#3 ++ rd ++ 0x3#7 := (Option.some.inj h).symm
  have b0_7 : bitsAt w 0 7 = 0x3#7 := by rw [e]; exact bits_last _ _
  have b7_5 : bitsAt w 7 5 = rd := by rw [e]; exact (bits_hi _ _ _ _ (by decide)).trans (bits_last _ _)
  have b12_3 : bitsAt w 12 3 = 0x1#3 := by rw [e]; exact (bits_hi _ _ _ _ (by decide)).trans ((bits_hi _ _ _ _ (by decide)).trans (bits_last _ _))
  have b15_5 : bitsAt w 15 5 = rs1 := by rw [e]; exact (bits_hi _ _ _ _ (by decide)).trans ((bits_hi _ _ _ _ (by decide)).trans ((bits_hi _ _ _ _ (by decide)).trans (bits_last _ _)))
  have b20_12 : bitsAt w 20 12 = imm := by rw [e]; exact (bits_hi _ _ _ _ (by decide)).trans ((bits_hi _ _ _ _ (by decide)).trans ((bits_hi _ _ _ _ (by decide)).trans ((bits_hi _ _ _ _ (by decide)).trans (bits_all _))))
  rw [at_decodeRow_3 w b0_7, at_decodeLoad_1 w b12_3]
  unfold decodeLoad1
  rw [b7_5, b15_5, b20_12]

theorem lw (imm : BitVec 12) (rs1 : BitVec 5) (rd : BitVec 5) : Statement (.lw imm rs1 rd) := by
  intro w h _
  have e : w = imm ++ rs1 ++ 0x2#3 ++ rd ++ 0x3#7 := (Option.some.inj h).symm
  have b0_7 : bitsAt w 0 7 = 0x3#7 := by rw [e]; exact bits_last _ _
  have b7_5 : bitsAt w 7 5 = rd := by rw [e]; exact (bits_hi _ _ _ _ (by decide)).trans (bits_last _ _)
  have b12_3 : bitsAt w 12 3 = 0x2#3 := by rw [e]; exact (bits_hi _ _ _ _ (by decide)).trans ((bits_hi _ _ _ _ (by decide)).trans (bits_last _ _))
  have b15_5 : bitsAt w 15 5 = rs1 := by rw [e]; exact (bits_hi _ _ _ _ (by decide)).trans ((bits_hi _ _ _ _ (by decide)).trans ((bits_hi _ _ _ _ (by decide)).trans (bits_last _ _)))
  have b20_12 : bitsAt w 20 12 = imm := by rw [e]; exact (bits_hi _ _ _ _ (by decide)).trans ((bits_hi _ _ _ _ (by decide)).trans ((bits_hi _ _ _ _ (by decide)).trans ((bits_hi _ _ _ _ (by decide)).trans (bits_all _))))
  rw [at_decodeRow_3 w b0_7, at_decodeLoad_2 w b12_3]
  unfold decodeLoad2
  rw [b7_5, b15_5, b20_12]

theorem ld (imm : BitVec 12) (rs1 : BitVec 5) (rd : BitVec 5) : Statement (.ld imm rs1 rd) := by
  intro w h _
  have e : w = imm ++ rs1 ++ 0x3#3 ++ rd ++ 0x3#7 := (Option.some.inj h).symm
  have b0_7 : bitsAt w 0 7 = 0x3#7 := by rw [e]; exact bits_last _ _
  have b7_5 : bitsAt w 7 5 = rd := by rw [e]; exact (bits_hi _ _ _ _ (by decide)).trans (bits_last _ _)
  have b12_3 : bitsAt w 12 3 = 0x3#3 := by rw [e]; exact (bits_hi _ _ _ _ (by decide)).trans ((bits_hi _ _ _ _ (by decide)).trans (bits_last _ _))
  have b15_5 : bitsAt w 15 5 = rs1 := by rw [e]; exact (bits_hi _ _ _ _ (by decide)).trans ((bits_hi _ _ _ _ (by decide)).trans ((bits_hi _ _ _ _ (by decide)).trans (bits_last _ _)))
  have b20_12 : bitsAt w 20 12 = imm := by rw [e]; exact (bits_hi _ _ _ _ (by decide)).trans ((bits_hi _ _ _ _ (by decide)).trans ((bits_hi _ _ _ _ (by decide)).trans ((bits_hi _ _ _ _ (by decide)).trans (bits_all _))))
  rw [at_decodeRow_3 w b0_7, at_decodeLoad_3 w b12_3]
  unfold decodeLoad3
  rw [b7_5, b15_5, b20_12]

theorem lbu (imm : BitVec 12) (rs1 : BitVec 5) (rd : BitVec 5) : Statement (.lbu imm rs1 rd) := by
  intro w h _
  have e : w = imm ++ rs1 ++ 0x4#3 ++ rd ++ 0x3#7 := (Option.some.inj h).symm
  have b0_7 : bitsAt w 0 7 = 0x3#7 := by rw [e]; exact bits_last _ _
  have b7_5 : bitsAt w 7 5 = rd := by rw [e]; exact (bits_hi _ _ _ _ (by decide)).trans (bits_last _ _)
  have b12_3 : bitsAt w 12 3 = 0x4#3 := by rw [e]; exact (bits_hi _ _ _ _ (by decide)).trans ((bits_hi _ _ _ _ (by decide)).trans (bits_last _ _))
  have b15_5 : bitsAt w 15 5 = rs1 := by rw [e]; exact (bits_hi _ _ _ _ (by decide)).trans ((bits_hi _ _ _ _ (by decide)).trans ((bits_hi _ _ _ _ (by decide)).trans (bits_last _ _)))
  have b20_12 : bitsAt w 20 12 = imm := by rw [e]; exact (bits_hi _ _ _ _ (by decide)).trans ((bits_hi _ _ _ _ (by decide)).trans ((bits_hi _ _ _ _ (by decide)).trans ((bits_hi _ _ _ _ (by decide)).trans (bits_all _))))
  rw [at_decodeRow_3 w b0_7, at_decodeLoad_4 w b12_3]
  unfold decodeLoad4
  rw [b7_5, b15_5, b20_12]

theorem lhu (imm : BitVec 12) (rs1 : BitVec 5) (rd : BitVec 5) : Statement (.lhu imm rs1 rd) := by
  intro w h _
  have e : w = imm ++ rs1 ++ 0x5#3 ++ rd ++ 0x3#7 := (Option.some.inj h).symm
  have b0_7 : bitsAt w 0 7 = 0x3#7 := by rw [e]; exact bits_last _ _
  have b7_5 : bitsAt w 7 5 = rd := by rw [e]; exact (bits_hi _ _ _ _ (by decide)).trans (bits_last _ _)
  have b12_3 : bitsAt w 12 3 = 0x5#3 := by rw [e]; exact (bits_hi _ _ _ _ (by decide)).trans ((bits_hi _ _ _ _ (by decide)).trans (bits_last _ _))
  have b15_5 : bitsAt w 15 5 = rs1 := by rw [e]; exact (bits_hi _ _ _ _ (by decide)).trans ((bits_hi _ _ _ _ (by decide)).trans ((bits_hi _ _ _ _ (by decide)).trans (bits_last _ _)))
  have b20_12 : bitsAt w 20 12 = imm := by rw [e]; exact (bits_hi _ _ _ _ (by decide)).trans ((bits_hi _ _ _ _ (by decide)).trans ((bits_hi _ _ _ _ (by decide)).trans ((bits_hi _ _ _ _ (by decide)).trans (bits_all _))))
  rw [at_decodeRow_3 w b0_7, at_decodeLoad_5 w b12_3]
  unfold decodeLoad5
  rw [b7_5, b15_5, b20_12]

theorem lwu (imm : BitVec 12) (rs1 : BitVec 5) (rd : BitVec 5) : Statement (.lwu imm rs1 rd) := by
  intro w h _
  have e : w = imm ++ rs1 ++ 0x6#3 ++ rd ++ 0x3#7 := (Option.some.inj h).symm
  have b0_7 : bitsAt w 0 7 = 0x3#7 := by rw [e]; exact bits_last _ _
  have b7_5 : bitsAt w 7 5 = rd := by rw [e]; exact (bits_hi _ _ _ _ (by decide)).trans (bits_last _ _)
  have b12_3 : bitsAt w 12 3 = 0x6#3 := by rw [e]; exact (bits_hi _ _ _ _ (by decide)).trans ((bits_hi _ _ _ _ (by decide)).trans (bits_last _ _))
  have b15_5 : bitsAt w 15 5 = rs1 := by rw [e]; exact (bits_hi _ _ _ _ (by decide)).trans ((bits_hi _ _ _ _ (by decide)).trans ((bits_hi _ _ _ _ (by decide)).trans (bits_last _ _)))
  have b20_12 : bitsAt w 20 12 = imm := by rw [e]; exact (bits_hi _ _ _ _ (by decide)).trans ((bits_hi _ _ _ _ (by decide)).trans ((bits_hi _ _ _ _ (by decide)).trans ((bits_hi _ _ _ _ (by decide)).trans (bits_all _))))
  rw [at_decodeRow_3 w b0_7, at_decodeLoad_6 w b12_3]
  unfold decodeLoad6
  rw [b7_5, b15_5, b20_12]

theorem sb (immHi : BitVec 7) (rs2 : BitVec 5) (rs1 : BitVec 5) (immLo : BitVec 5) : Statement (.sb immHi rs2 rs1 immLo) := by
  intro w h _
  have e : w = immHi ++ rs2 ++ rs1 ++ 0x0#3 ++ immLo ++ 0x23#7 := (Option.some.inj h).symm
  have b0_7 : bitsAt w 0 7 = 0x23#7 := by rw [e]; exact bits_last _ _
  have b7_5 : bitsAt w 7 5 = immLo := by rw [e]; exact (bits_hi _ _ _ _ (by decide)).trans (bits_last _ _)
  have b12_3 : bitsAt w 12 3 = 0x0#3 := by rw [e]; exact (bits_hi _ _ _ _ (by decide)).trans ((bits_hi _ _ _ _ (by decide)).trans (bits_last _ _))
  have b15_5 : bitsAt w 15 5 = rs1 := by rw [e]; exact (bits_hi _ _ _ _ (by decide)).trans ((bits_hi _ _ _ _ (by decide)).trans ((bits_hi _ _ _ _ (by decide)).trans (bits_last _ _)))
  have b20_5 : bitsAt w 20 5 = rs2 := by rw [e]; exact (bits_hi _ _ _ _ (by decide)).trans ((bits_hi _ _ _ _ (by decide)).trans ((bits_hi _ _ _ _ (by decide)).trans ((bits_hi _ _ _ _ (by decide)).trans (bits_last _ _))))
  have b25_7 : bitsAt w 25 7 = immHi := by rw [e]; exact (bits_hi _ _ _ _ (by decide)).trans ((bits_hi _ _ _ _ (by decide)).trans ((bits_hi _ _ _ _ (by decide)).trans ((bits_hi _ _ _ _ (by decide)).trans ((bits_hi _ _ _ _ (by decide)).trans (bits_all _)))))
  rw [at_decodeRow_35 w b0_7, at_decodeStore_0 w b12_3]
  unfold decodeStore0
  rw [b7_5, b15_5, b20_5, b25_7]

theorem sh (immHi : BitVec 7) (rs2 : BitVec 5) (rs1 : BitVec 5) (immLo : BitVec 5) : Statement (.sh immHi rs2 rs1 immLo) := by
  intro w h _
  have e : w = immHi ++ rs2 ++ rs1 ++ 0x1#3 ++ immLo ++ 0x23#7 := (Option.some.inj h).symm
  have b0_7 : bitsAt w 0 7 = 0x23#7 := by rw [e]; exact bits_last _ _
  have b7_5 : bitsAt w 7 5 = immLo := by rw [e]; exact (bits_hi _ _ _ _ (by decide)).trans (bits_last _ _)
  have b12_3 : bitsAt w 12 3 = 0x1#3 := by rw [e]; exact (bits_hi _ _ _ _ (by decide)).trans ((bits_hi _ _ _ _ (by decide)).trans (bits_last _ _))
  have b15_5 : bitsAt w 15 5 = rs1 := by rw [e]; exact (bits_hi _ _ _ _ (by decide)).trans ((bits_hi _ _ _ _ (by decide)).trans ((bits_hi _ _ _ _ (by decide)).trans (bits_last _ _)))
  have b20_5 : bitsAt w 20 5 = rs2 := by rw [e]; exact (bits_hi _ _ _ _ (by decide)).trans ((bits_hi _ _ _ _ (by decide)).trans ((bits_hi _ _ _ _ (by decide)).trans ((bits_hi _ _ _ _ (by decide)).trans (bits_last _ _))))
  have b25_7 : bitsAt w 25 7 = immHi := by rw [e]; exact (bits_hi _ _ _ _ (by decide)).trans ((bits_hi _ _ _ _ (by decide)).trans ((bits_hi _ _ _ _ (by decide)).trans ((bits_hi _ _ _ _ (by decide)).trans ((bits_hi _ _ _ _ (by decide)).trans (bits_all _)))))
  rw [at_decodeRow_35 w b0_7, at_decodeStore_1 w b12_3]
  unfold decodeStore1
  rw [b7_5, b15_5, b20_5, b25_7]

theorem sw (immHi : BitVec 7) (rs2 : BitVec 5) (rs1 : BitVec 5) (immLo : BitVec 5) : Statement (.sw immHi rs2 rs1 immLo) := by
  intro w h _
  have e : w = immHi ++ rs2 ++ rs1 ++ 0x2#3 ++ immLo ++ 0x23#7 := (Option.some.inj h).symm
  have b0_7 : bitsAt w 0 7 = 0x23#7 := by rw [e]; exact bits_last _ _
  have b7_5 : bitsAt w 7 5 = immLo := by rw [e]; exact (bits_hi _ _ _ _ (by decide)).trans (bits_last _ _)
  have b12_3 : bitsAt w 12 3 = 0x2#3 := by rw [e]; exact (bits_hi _ _ _ _ (by decide)).trans ((bits_hi _ _ _ _ (by decide)).trans (bits_last _ _))
  have b15_5 : bitsAt w 15 5 = rs1 := by rw [e]; exact (bits_hi _ _ _ _ (by decide)).trans ((bits_hi _ _ _ _ (by decide)).trans ((bits_hi _ _ _ _ (by decide)).trans (bits_last _ _)))
  have b20_5 : bitsAt w 20 5 = rs2 := by rw [e]; exact (bits_hi _ _ _ _ (by decide)).trans ((bits_hi _ _ _ _ (by decide)).trans ((bits_hi _ _ _ _ (by decide)).trans ((bits_hi _ _ _ _ (by decide)).trans (bits_last _ _))))
  have b25_7 : bitsAt w 25 7 = immHi := by rw [e]; exact (bits_hi _ _ _ _ (by decide)).trans ((bits_hi _ _ _ _ (by decide)).trans ((bits_hi _ _ _ _ (by decide)).trans ((bits_hi _ _ _ _ (by decide)).trans ((bits_hi _ _ _ _ (by decide)).trans (bits_all _)))))
  rw [at_decodeRow_35 w b0_7, at_decodeStore_2 w b12_3]
  unfold decodeStore2
  rw [b7_5, b15_5, b20_5, b25_7]

theorem sd (immHi : BitVec 7) (rs2 : BitVec 5) (rs1 : BitVec 5) (immLo : BitVec 5) : Statement (.sd immHi rs2 rs1 immLo) := by
  intro w h _
  have e : w = immHi ++ rs2 ++ rs1 ++ 0x3#3 ++ immLo ++ 0x23#7 := (Option.some.inj h).symm
  have b0_7 : bitsAt w 0 7 = 0x23#7 := by rw [e]; exact bits_last _ _
  have b7_5 : bitsAt w 7 5 = immLo := by rw [e]; exact (bits_hi _ _ _ _ (by decide)).trans (bits_last _ _)
  have b12_3 : bitsAt w 12 3 = 0x3#3 := by rw [e]; exact (bits_hi _ _ _ _ (by decide)).trans ((bits_hi _ _ _ _ (by decide)).trans (bits_last _ _))
  have b15_5 : bitsAt w 15 5 = rs1 := by rw [e]; exact (bits_hi _ _ _ _ (by decide)).trans ((bits_hi _ _ _ _ (by decide)).trans ((bits_hi _ _ _ _ (by decide)).trans (bits_last _ _)))
  have b20_5 : bitsAt w 20 5 = rs2 := by rw [e]; exact (bits_hi _ _ _ _ (by decide)).trans ((bits_hi _ _ _ _ (by decide)).trans ((bits_hi _ _ _ _ (by decide)).trans ((bits_hi _ _ _ _ (by decide)).trans (bits_last _ _))))
  have b25_7 : bitsAt w 25 7 = immHi := by rw [e]; exact (bits_hi _ _ _ _ (by decide)).trans ((bits_hi _ _ _ _ (by decide)).trans ((bits_hi _ _ _ _ (by decide)).trans ((bits_hi _ _ _ _ (by decide)).trans ((bits_hi _ _ _ _ (by decide)).trans (bits_all _)))))
  rw [at_decodeRow_35 w b0_7, at_decodeStore_3 w b12_3]
  unfold decodeStore3
  rw [b7_5, b15_5, b20_5, b25_7]

theorem addi (imm : BitVec 12) (rs1 : BitVec 5) (rd : BitVec 5) : Statement (.addi imm rs1 rd) := by
  intro w h _
  have e : w = imm ++ rs1 ++ 0x0#3 ++ rd ++ 0x13#7 := (Option.some.inj h).symm
  have b0_7 : bitsAt w 0 7 = 0x13#7 := by rw [e]; exact bits_last _ _
  have b7_5 : bitsAt w 7 5 = rd := by rw [e]; exact (bits_hi _ _ _ _ (by decide)).trans (bits_last _ _)
  have b12_3 : bitsAt w 12 3 = 0x0#3 := by rw [e]; exact (bits_hi _ _ _ _ (by decide)).trans ((bits_hi _ _ _ _ (by decide)).trans (bits_last _ _))
  have b15_5 : bitsAt w 15 5 = rs1 := by rw [e]; exact (bits_hi _ _ _ _ (by decide)).trans ((bits_hi _ _ _ _ (by decide)).trans ((bits_hi _ _ _ _ (by decide)).trans (bits_last _ _)))
  have b20_12 : bitsAt w 20 12 = imm := by rw [e]; exact (bits_hi _ _ _ _ (by decide)).trans ((bits_hi _ _ _ _ (by decide)).trans ((bits_hi _ _ _ _ (by decide)).trans ((bits_hi _ _ _ _ (by decide)).trans (bits_all _))))
  rw [at_decodeRow_19 w b0_7, at_decodeOpImm_0 w b12_3]
  unfold decodeOpImm0
  rw [b7_5, b15_5, b20_12]

theorem slti (imm : BitVec 12) (rs1 : BitVec 5) (rd : BitVec 5) : Statement (.slti imm rs1 rd) := by
  intro w h _
  have e : w = imm ++ rs1 ++ 0x2#3 ++ rd ++ 0x13#7 := (Option.some.inj h).symm
  have b0_7 : bitsAt w 0 7 = 0x13#7 := by rw [e]; exact bits_last _ _
  have b7_5 : bitsAt w 7 5 = rd := by rw [e]; exact (bits_hi _ _ _ _ (by decide)).trans (bits_last _ _)
  have b12_3 : bitsAt w 12 3 = 0x2#3 := by rw [e]; exact (bits_hi _ _ _ _ (by decide)).trans ((bits_hi _ _ _ _ (by decide)).trans (bits_last _ _))
  have b15_5 : bitsAt w 15 5 = rs1 := by rw [e]; exact (bits_hi _ _ _ _ (by decide)).trans ((bits_hi _ _ _ _ (by decide)).trans ((bits_hi _ _ _ _ (by decide)).trans (bits_last _ _)))
  have b20_12 : bitsAt w 20 12 = imm := by rw [e]; exact (bits_hi _ _ _ _ (by decide)).trans ((bits_hi _ _ _ _ (by decide)).trans ((bits_hi _ _ _ _ (by decide)).trans ((bits_hi _ _ _ _ (by decide)).trans (bits_all _))))
  rw [at_decodeRow_19 w b0_7, at_decodeOpImm_2 w b12_3]
  unfold decodeOpImm2
  rw [b7_5, b15_5, b20_12]

theorem sltiu (imm : BitVec 12) (rs1 : BitVec 5) (rd : BitVec 5) : Statement (.sltiu imm rs1 rd) := by
  intro w h _
  have e : w = imm ++ rs1 ++ 0x3#3 ++ rd ++ 0x13#7 := (Option.some.inj h).symm
  have b0_7 : bitsAt w 0 7 = 0x13#7 := by rw [e]; exact bits_last _ _
  have b7_5 : bitsAt w 7 5 = rd := by rw [e]; exact (bits_hi _ _ _ _ (by decide)).trans (bits_last _ _)
  have b12_3 : bitsAt w 12 3 = 0x3#3 := by rw [e]; exact (bits_hi _ _ _ _ (by decide)).trans ((bits_hi _ _ _ _ (by decide)).trans (bits_last _ _))
  have b15_5 : bitsAt w 15 5 = rs1 := by rw [e]; exact (bits_hi _ _ _ _ (by decide)).trans ((bits_hi _ _ _ _ (by decide)).trans ((bits_hi _ _ _ _ (by decide)).trans (bits_last _ _)))
  have b20_12 : bitsAt w 20 12 = imm := by rw [e]; exact (bits_hi _ _ _ _ (by decide)).trans ((bits_hi _ _ _ _ (by decide)).trans ((bits_hi _ _ _ _ (by decide)).trans ((bits_hi _ _ _ _ (by decide)).trans (bits_all _))))
  rw [at_decodeRow_19 w b0_7, at_decodeOpImm_3 w b12_3]
  unfold decodeOpImm3
  rw [b7_5, b15_5, b20_12]

theorem xori (imm : BitVec 12) (rs1 : BitVec 5) (rd : BitVec 5) : Statement (.xori imm rs1 rd) := by
  intro w h _
  have e : w = imm ++ rs1 ++ 0x4#3 ++ rd ++ 0x13#7 := (Option.some.inj h).symm
  have b0_7 : bitsAt w 0 7 = 0x13#7 := by rw [e]; exact bits_last _ _
  have b7_5 : bitsAt w 7 5 = rd := by rw [e]; exact (bits_hi _ _ _ _ (by decide)).trans (bits_last _ _)
  have b12_3 : bitsAt w 12 3 = 0x4#3 := by rw [e]; exact (bits_hi _ _ _ _ (by decide)).trans ((bits_hi _ _ _ _ (by decide)).trans (bits_last _ _))
  have b15_5 : bitsAt w 15 5 = rs1 := by rw [e]; exact (bits_hi _ _ _ _ (by decide)).trans ((bits_hi _ _ _ _ (by decide)).trans ((bits_hi _ _ _ _ (by decide)).trans (bits_last _ _)))
  have b20_12 : bitsAt w 20 12 = imm := by rw [e]; exact (bits_hi _ _ _ _ (by decide)).trans ((bits_hi _ _ _ _ (by decide)).trans ((bits_hi _ _ _ _ (by decide)).trans ((bits_hi _ _ _ _ (by decide)).trans (bits_all _))))
  rw [at_decodeRow_19 w b0_7, at_decodeOpImm_4 w b12_3]
  unfold decodeOpImm4
  rw [b7_5, b15_5, b20_12]

theorem ori (imm : BitVec 12) (rs1 : BitVec 5) (rd : BitVec 5) : Statement (.ori imm rs1 rd) := by
  intro w h _
  have e : w = imm ++ rs1 ++ 0x6#3 ++ rd ++ 0x13#7 := (Option.some.inj h).symm
  have b0_7 : bitsAt w 0 7 = 0x13#7 := by rw [e]; exact bits_last _ _
  have b7_5 : bitsAt w 7 5 = rd := by rw [e]; exact (bits_hi _ _ _ _ (by decide)).trans (bits_last _ _)
  have b12_3 : bitsAt w 12 3 = 0x6#3 := by rw [e]; exact (bits_hi _ _ _ _ (by decide)).trans ((bits_hi _ _ _ _ (by decide)).trans (bits_last _ _))
  have b15_5 : bitsAt w 15 5 = rs1 := by rw [e]; exact (bits_hi _ _ _ _ (by decide)).trans ((bits_hi _ _ _ _ (by decide)).trans ((bits_hi _ _ _ _ (by decide)).trans (bits_last _ _)))
  have b20_12 : bitsAt w 20 12 = imm := by rw [e]; exact (bits_hi _ _ _ _ (by decide)).trans ((bits_hi _ _ _ _ (by decide)).trans ((bits_hi _ _ _ _ (by decide)).trans ((bits_hi _ _ _ _ (by decide)).trans (bits_all _))))
  rw [at_decodeRow_19 w b0_7, at_decodeOpImm_6 w b12_3]
  unfold decodeOpImm6
  rw [b7_5, b15_5, b20_12]

theorem andi (imm : BitVec 12) (rs1 : BitVec 5) (rd : BitVec 5) : Statement (.andi imm rs1 rd) := by
  intro w h _
  have e : w = imm ++ rs1 ++ 0x7#3 ++ rd ++ 0x13#7 := (Option.some.inj h).symm
  have b0_7 : bitsAt w 0 7 = 0x13#7 := by rw [e]; exact bits_last _ _
  have b7_5 : bitsAt w 7 5 = rd := by rw [e]; exact (bits_hi _ _ _ _ (by decide)).trans (bits_last _ _)
  have b12_3 : bitsAt w 12 3 = 0x7#3 := by rw [e]; exact (bits_hi _ _ _ _ (by decide)).trans ((bits_hi _ _ _ _ (by decide)).trans (bits_last _ _))
  have b15_5 : bitsAt w 15 5 = rs1 := by rw [e]; exact (bits_hi _ _ _ _ (by decide)).trans ((bits_hi _ _ _ _ (by decide)).trans ((bits_hi _ _ _ _ (by decide)).trans (bits_last _ _)))
  have b20_12 : bitsAt w 20 12 = imm := by rw [e]; exact (bits_hi _ _ _ _ (by decide)).trans ((bits_hi _ _ _ _ (by decide)).trans ((bits_hi _ _ _ _ (by decide)).trans ((bits_hi _ _ _ _ (by decide)).trans (bits_all _))))
  rw [at_decodeRow_19 w b0_7, at_decodeOpImm_7 w b12_3]
  unfold decodeOpImm7
  rw [b7_5, b15_5, b20_12]

theorem slli (shamt : BitVec 6) (rs1 : BitVec 5) (rd : BitVec 5) : Statement (.slli shamt rs1 rd) := by
  intro w h _
  have e : w = 0x0#6 ++ shamt ++ rs1 ++ 0x1#3 ++ rd ++ 0x13#7 := (Option.some.inj h).symm
  have b0_7 : bitsAt w 0 7 = 0x13#7 := by rw [e]; exact bits_last _ _
  have b7_5 : bitsAt w 7 5 = rd := by rw [e]; exact (bits_hi _ _ _ _ (by decide)).trans (bits_last _ _)
  have b12_3 : bitsAt w 12 3 = 0x1#3 := by rw [e]; exact (bits_hi _ _ _ _ (by decide)).trans ((bits_hi _ _ _ _ (by decide)).trans (bits_last _ _))
  have b15_5 : bitsAt w 15 5 = rs1 := by rw [e]; exact (bits_hi _ _ _ _ (by decide)).trans ((bits_hi _ _ _ _ (by decide)).trans ((bits_hi _ _ _ _ (by decide)).trans (bits_last _ _)))
  have b20_6 : bitsAt w 20 6 = shamt := by rw [e]; exact (bits_hi _ _ _ _ (by decide)).trans ((bits_hi _ _ _ _ (by decide)).trans ((bits_hi _ _ _ _ (by decide)).trans ((bits_hi _ _ _ _ (by decide)).trans (bits_last _ _))))
  have b26_6 : bitsAt w 26 6 = 0x0#6 := by rw [e]; exact (bits_hi _ _ _ _ (by decide)).trans ((bits_hi _ _ _ _ (by decide)).trans ((bits_hi _ _ _ _ (by decide)).trans ((bits_hi _ _ _ _ (by decide)).trans ((bits_hi _ _ _ _ (by decide)).trans (bits_all _)))))
  rw [at_decodeRow_19 w b0_7, at_decodeOpImm_1 w b12_3]
  unfold decodeOpImm1
  rw [b7_5, b15_5, b20_6, b26_6]
  rfl

theorem srli (shamt : BitVec 6) (rs1 : BitVec 5) (rd : BitVec 5) : Statement (.srli shamt rs1 rd) := by
  intro w h _
  have e : w = 0x0#6 ++ shamt ++ rs1 ++ 0x5#3 ++ rd ++ 0x13#7 := (Option.some.inj h).symm
  have b0_7 : bitsAt w 0 7 = 0x13#7 := by rw [e]; exact bits_last _ _
  have b7_5 : bitsAt w 7 5 = rd := by rw [e]; exact (bits_hi _ _ _ _ (by decide)).trans (bits_last _ _)
  have b12_3 : bitsAt w 12 3 = 0x5#3 := by rw [e]; exact (bits_hi _ _ _ _ (by decide)).trans ((bits_hi _ _ _ _ (by decide)).trans (bits_last _ _))
  have b15_5 : bitsAt w 15 5 = rs1 := by rw [e]; exact (bits_hi _ _ _ _ (by decide)).trans ((bits_hi _ _ _ _ (by decide)).trans ((bits_hi _ _ _ _ (by decide)).trans (bits_last _ _)))
  have b20_6 : bitsAt w 20 6 = shamt := by rw [e]; exact (bits_hi _ _ _ _ (by decide)).trans ((bits_hi _ _ _ _ (by decide)).trans ((bits_hi _ _ _ _ (by decide)).trans ((bits_hi _ _ _ _ (by decide)).trans (bits_last _ _))))
  have b26_6 : bitsAt w 26 6 = 0x0#6 := by rw [e]; exact (bits_hi _ _ _ _ (by decide)).trans ((bits_hi _ _ _ _ (by decide)).trans ((bits_hi _ _ _ _ (by decide)).trans ((bits_hi _ _ _ _ (by decide)).trans ((bits_hi _ _ _ _ (by decide)).trans (bits_all _)))))
  rw [at_decodeRow_19 w b0_7, at_decodeOpImm_5 w b12_3]
  unfold decodeOpImm5
  rw [b7_5, b15_5, b20_6, b26_6]
  rfl

theorem srai (shamt : BitVec 6) (rs1 : BitVec 5) (rd : BitVec 5) : Statement (.srai shamt rs1 rd) := by
  intro w h _
  have e : w = 0x10#6 ++ shamt ++ rs1 ++ 0x5#3 ++ rd ++ 0x13#7 := (Option.some.inj h).symm
  have b0_7 : bitsAt w 0 7 = 0x13#7 := by rw [e]; exact bits_last _ _
  have b7_5 : bitsAt w 7 5 = rd := by rw [e]; exact (bits_hi _ _ _ _ (by decide)).trans (bits_last _ _)
  have b12_3 : bitsAt w 12 3 = 0x5#3 := by rw [e]; exact (bits_hi _ _ _ _ (by decide)).trans ((bits_hi _ _ _ _ (by decide)).trans (bits_last _ _))
  have b15_5 : bitsAt w 15 5 = rs1 := by rw [e]; exact (bits_hi _ _ _ _ (by decide)).trans ((bits_hi _ _ _ _ (by decide)).trans ((bits_hi _ _ _ _ (by decide)).trans (bits_last _ _)))
  have b20_6 : bitsAt w 20 6 = shamt := by rw [e]; exact (bits_hi _ _ _ _ (by decide)).trans ((bits_hi _ _ _ _ (by decide)).trans ((bits_hi _ _ _ _ (by decide)).trans ((bits_hi _ _ _ _ (by decide)).trans (bits_last _ _))))
  have b26_6 : bitsAt w 26 6 = 0x10#6 := by rw [e]; exact (bits_hi _ _ _ _ (by decide)).trans ((bits_hi _ _ _ _ (by decide)).trans ((bits_hi _ _ _ _ (by decide)).trans ((bits_hi _ _ _ _ (by decide)).trans ((bits_hi _ _ _ _ (by decide)).trans (bits_all _)))))
  rw [at_decodeRow_19 w b0_7, at_decodeOpImm_5 w b12_3]
  unfold decodeOpImm5
  rw [b7_5, b15_5, b20_6, b26_6]
  rfl

theorem addiw (imm : BitVec 12) (rs1 : BitVec 5) (rd : BitVec 5) : Statement (.addiw imm rs1 rd) := by
  intro w h _
  have e : w = imm ++ rs1 ++ 0x0#3 ++ rd ++ 0x1B#7 := (Option.some.inj h).symm
  have b0_7 : bitsAt w 0 7 = 0x1B#7 := by rw [e]; exact bits_last _ _
  have b7_5 : bitsAt w 7 5 = rd := by rw [e]; exact (bits_hi _ _ _ _ (by decide)).trans (bits_last _ _)
  have b12_3 : bitsAt w 12 3 = 0x0#3 := by rw [e]; exact (bits_hi _ _ _ _ (by decide)).trans ((bits_hi _ _ _ _ (by decide)).trans (bits_last _ _))
  have b15_5 : bitsAt w 15 5 = rs1 := by rw [e]; exact (bits_hi _ _ _ _ (by decide)).trans ((bits_hi _ _ _ _ (by decide)).trans ((bits_hi _ _ _ _ (by decide)).trans (bits_last _ _)))
  have b20_12 : bitsAt w 20 12 = imm := by rw [e]; exact (bits_hi _ _ _ _ (by decide)).trans ((bits_hi _ _ _ _ (by decide)).trans ((bits_hi _ _ _ _ (by decide)).trans ((bits_hi _ _ _ _ (by decide)).trans (bits_all _))))
  rw [at_decodeRow_27 w b0_7, at_decodeOpImm32_0 w b12_3]
  unfold decodeOpImm320
  rw [b7_5, b15_5, b20_12]

theorem slliw (shamt : BitVec 5) (rs1 : BitVec 5) (rd : BitVec 5) : Statement (.slliw shamt rs1 rd) := by
  intro w h _
  have e : w = 0x0#7 ++ shamt ++ rs1 ++ 0x1#3 ++ rd ++ 0x1B#7 := (Option.some.inj h).symm
  have b0_7 : bitsAt w 0 7 = 0x1B#7 := by rw [e]; exact bits_last _ _
  have b7_5 : bitsAt w 7 5 = rd := by rw [e]; exact (bits_hi _ _ _ _ (by decide)).trans (bits_last _ _)
  have b12_3 : bitsAt w 12 3 = 0x1#3 := by rw [e]; exact (bits_hi _ _ _ _ (by decide)).trans ((bits_hi _ _ _ _ (by decide)).trans (bits_last _ _))
  have b15_5 : bitsAt w 15 5 = rs1 := by rw [e]; exact (bits_hi _ _ _ _ (by decide)).trans ((bits_hi _ _ _ _ (by decide)).trans ((bits_hi _ _ _ _ (by decide)).trans (bits_last _ _)))
  have b20_5 : bitsAt w 20 5 = shamt := by rw [e]; exact (bits_hi _ _ _ _ (by decide)).trans ((bits_hi _ _ _ _ (by decide)).trans ((bits_hi _ _ _ _ (by decide)).trans ((bits_hi _ _ _ _ (by decide)).trans (bits_last _ _))))
  have b25_7 : bitsAt w 25 7 = 0x0#7 := by rw [e]; exact (bits_hi _ _ _ _ (by decide)).trans ((bits_hi _ _ _ _ (by decide)).trans ((bits_hi _ _ _ _ (by decide)).trans ((bits_hi _ _ _ _ (by decide)).trans ((bits_hi _ _ _ _ (by decide)).trans (bits_all _)))))
  rw [at_decodeRow_27 w b0_7, at_decodeOpImm32_1 w b12_3]
  unfold decodeOpImm321
  rw [b7_5, b15_5, b20_5, b25_7]
  rfl

theorem srliw (shamt : BitVec 5) (rs1 : BitVec 5) (rd : BitVec 5) : Statement (.srliw shamt rs1 rd) := by
  intro w h _
  have e : w = 0x0#7 ++ shamt ++ rs1 ++ 0x5#3 ++ rd ++ 0x1B#7 := (Option.some.inj h).symm
  have b0_7 : bitsAt w 0 7 = 0x1B#7 := by rw [e]; exact bits_last _ _
  have b7_5 : bitsAt w 7 5 = rd := by rw [e]; exact (bits_hi _ _ _ _ (by decide)).trans (bits_last _ _)
  have b12_3 : bitsAt w 12 3 = 0x5#3 := by rw [e]; exact (bits_hi _ _ _ _ (by decide)).trans ((bits_hi _ _ _ _ (by decide)).trans (bits_last _ _))
  have b15_5 : bitsAt w 15 5 = rs1 := by rw [e]; exact (bits_hi _ _ _ _ (by decide)).trans ((bits_hi _ _ _ _ (by decide)).trans ((bits_hi _ _ _ _ (by decide)).trans (bits_last _ _)))
  have b20_5 : bitsAt w 20 5 = shamt := by rw [e]; exact (bits_hi _ _ _ _ (by decide)).trans ((bits_hi _ _ _ _ (by decide)).trans ((bits_hi _ _ _ _ (by decide)).trans ((bits_hi _ _ _ _ (by decide)).trans (bits_last _ _))))
  have b25_7 : bitsAt w 25 7 = 0x0#7 := by rw [e]; exact (bits_hi _ _ _ _ (by decide)).trans ((bits_hi _ _ _ _ (by decide)).trans ((bits_hi _ _ _ _ (by decide)).trans ((bits_hi _ _ _ _ (by decide)).trans ((bits_hi _ _ _ _ (by decide)).trans (bits_all _)))))
  rw [at_decodeRow_27 w b0_7, at_decodeOpImm32_5 w b12_3]
  unfold decodeOpImm325
  rw [b7_5, b15_5, b20_5, b25_7]
  rfl

theorem sraiw (shamt : BitVec 5) (rs1 : BitVec 5) (rd : BitVec 5) : Statement (.sraiw shamt rs1 rd) := by
  intro w h _
  have e : w = 0x20#7 ++ shamt ++ rs1 ++ 0x5#3 ++ rd ++ 0x1B#7 := (Option.some.inj h).symm
  have b0_7 : bitsAt w 0 7 = 0x1B#7 := by rw [e]; exact bits_last _ _
  have b7_5 : bitsAt w 7 5 = rd := by rw [e]; exact (bits_hi _ _ _ _ (by decide)).trans (bits_last _ _)
  have b12_3 : bitsAt w 12 3 = 0x5#3 := by rw [e]; exact (bits_hi _ _ _ _ (by decide)).trans ((bits_hi _ _ _ _ (by decide)).trans (bits_last _ _))
  have b15_5 : bitsAt w 15 5 = rs1 := by rw [e]; exact (bits_hi _ _ _ _ (by decide)).trans ((bits_hi _ _ _ _ (by decide)).trans ((bits_hi _ _ _ _ (by decide)).trans (bits_last _ _)))
  have b20_5 : bitsAt w 20 5 = shamt := by rw [e]; exact (bits_hi _ _ _ _ (by decide)).trans ((bits_hi _ _ _ _ (by decide)).trans ((bits_hi _ _ _ _ (by decide)).trans ((bits_hi _ _ _ _ (by decide)).trans (bits_last _ _))))
  have b25_7 : bitsAt w 25 7 = 0x20#7 := by rw [e]; exact (bits_hi _ _ _ _ (by decide)).trans ((bits_hi _ _ _ _ (by decide)).trans ((bits_hi _ _ _ _ (by decide)).trans ((bits_hi _ _ _ _ (by decide)).trans ((bits_hi _ _ _ _ (by decide)).trans (bits_all _)))))
  rw [at_decodeRow_27 w b0_7, at_decodeOpImm32_5 w b12_3]
  unfold decodeOpImm325
  rw [b7_5, b15_5, b20_5, b25_7]
  rfl

theorem add (rs2 : BitVec 5) (rs1 : BitVec 5) (rd : BitVec 5) : Statement (.add rs2 rs1 rd) := by
  intro w h _
  have e : w = 0x0#7 ++ rs2 ++ rs1 ++ 0x0#3 ++ rd ++ 0x33#7 := (Option.some.inj h).symm
  have b0_7 : bitsAt w 0 7 = 0x33#7 := by rw [e]; exact bits_last _ _
  have b7_5 : bitsAt w 7 5 = rd := by rw [e]; exact (bits_hi _ _ _ _ (by decide)).trans (bits_last _ _)
  have b12_3 : bitsAt w 12 3 = 0x0#3 := by rw [e]; exact (bits_hi _ _ _ _ (by decide)).trans ((bits_hi _ _ _ _ (by decide)).trans (bits_last _ _))
  have b15_5 : bitsAt w 15 5 = rs1 := by rw [e]; exact (bits_hi _ _ _ _ (by decide)).trans ((bits_hi _ _ _ _ (by decide)).trans ((bits_hi _ _ _ _ (by decide)).trans (bits_last _ _)))
  have b20_5 : bitsAt w 20 5 = rs2 := by rw [e]; exact (bits_hi _ _ _ _ (by decide)).trans ((bits_hi _ _ _ _ (by decide)).trans ((bits_hi _ _ _ _ (by decide)).trans ((bits_hi _ _ _ _ (by decide)).trans (bits_last _ _))))
  have b25_7 : bitsAt w 25 7 = 0x0#7 := by rw [e]; exact (bits_hi _ _ _ _ (by decide)).trans ((bits_hi _ _ _ _ (by decide)).trans ((bits_hi _ _ _ _ (by decide)).trans ((bits_hi _ _ _ _ (by decide)).trans ((bits_hi _ _ _ _ (by decide)).trans (bits_all _)))))
  rw [at_decodeRow_51 w b0_7, at_decodeOp_0 w b12_3]
  unfold decodeOp0
  rw [b7_5, b15_5, b20_5, b25_7]
  rfl

theorem sub (rs2 : BitVec 5) (rs1 : BitVec 5) (rd : BitVec 5) : Statement (.sub rs2 rs1 rd) := by
  intro w h _
  have e : w = 0x20#7 ++ rs2 ++ rs1 ++ 0x0#3 ++ rd ++ 0x33#7 := (Option.some.inj h).symm
  have b0_7 : bitsAt w 0 7 = 0x33#7 := by rw [e]; exact bits_last _ _
  have b7_5 : bitsAt w 7 5 = rd := by rw [e]; exact (bits_hi _ _ _ _ (by decide)).trans (bits_last _ _)
  have b12_3 : bitsAt w 12 3 = 0x0#3 := by rw [e]; exact (bits_hi _ _ _ _ (by decide)).trans ((bits_hi _ _ _ _ (by decide)).trans (bits_last _ _))
  have b15_5 : bitsAt w 15 5 = rs1 := by rw [e]; exact (bits_hi _ _ _ _ (by decide)).trans ((bits_hi _ _ _ _ (by decide)).trans ((bits_hi _ _ _ _ (by decide)).trans (bits_last _ _)))
  have b20_5 : bitsAt w 20 5 = rs2 := by rw [e]; exact (bits_hi _ _ _ _ (by decide)).trans ((bits_hi _ _ _ _ (by decide)).trans ((bits_hi _ _ _ _ (by decide)).trans ((bits_hi _ _ _ _ (by decide)).trans (bits_last _ _))))
  have b25_7 : bitsAt w 25 7 = 0x20#7 := by rw [e]; exact (bits_hi _ _ _ _ (by decide)).trans ((bits_hi _ _ _ _ (by decide)).trans ((bits_hi _ _ _ _ (by decide)).trans ((bits_hi _ _ _ _ (by decide)).trans ((bits_hi _ _ _ _ (by decide)).trans (bits_all _)))))
  rw [at_decodeRow_51 w b0_7, at_decodeOp_0 w b12_3]
  unfold decodeOp0
  rw [b7_5, b15_5, b20_5, b25_7]
  rfl

theorem sll (rs2 : BitVec 5) (rs1 : BitVec 5) (rd : BitVec 5) : Statement (.sll rs2 rs1 rd) := by
  intro w h _
  have e : w = 0x0#7 ++ rs2 ++ rs1 ++ 0x1#3 ++ rd ++ 0x33#7 := (Option.some.inj h).symm
  have b0_7 : bitsAt w 0 7 = 0x33#7 := by rw [e]; exact bits_last _ _
  have b7_5 : bitsAt w 7 5 = rd := by rw [e]; exact (bits_hi _ _ _ _ (by decide)).trans (bits_last _ _)
  have b12_3 : bitsAt w 12 3 = 0x1#3 := by rw [e]; exact (bits_hi _ _ _ _ (by decide)).trans ((bits_hi _ _ _ _ (by decide)).trans (bits_last _ _))
  have b15_5 : bitsAt w 15 5 = rs1 := by rw [e]; exact (bits_hi _ _ _ _ (by decide)).trans ((bits_hi _ _ _ _ (by decide)).trans ((bits_hi _ _ _ _ (by decide)).trans (bits_last _ _)))
  have b20_5 : bitsAt w 20 5 = rs2 := by rw [e]; exact (bits_hi _ _ _ _ (by decide)).trans ((bits_hi _ _ _ _ (by decide)).trans ((bits_hi _ _ _ _ (by decide)).trans ((bits_hi _ _ _ _ (by decide)).trans (bits_last _ _))))
  have b25_7 : bitsAt w 25 7 = 0x0#7 := by rw [e]; exact (bits_hi _ _ _ _ (by decide)).trans ((bits_hi _ _ _ _ (by decide)).trans ((bits_hi _ _ _ _ (by decide)).trans ((bits_hi _ _ _ _ (by decide)).trans ((bits_hi _ _ _ _ (by decide)).trans (bits_all _)))))
  rw [at_decodeRow_51 w b0_7, at_decodeOp_1 w b12_3]
  unfold decodeOp1
  rw [b7_5, b15_5, b20_5, b25_7]
  rfl

theorem slt (rs2 : BitVec 5) (rs1 : BitVec 5) (rd : BitVec 5) : Statement (.slt rs2 rs1 rd) := by
  intro w h _
  have e : w = 0x0#7 ++ rs2 ++ rs1 ++ 0x2#3 ++ rd ++ 0x33#7 := (Option.some.inj h).symm
  have b0_7 : bitsAt w 0 7 = 0x33#7 := by rw [e]; exact bits_last _ _
  have b7_5 : bitsAt w 7 5 = rd := by rw [e]; exact (bits_hi _ _ _ _ (by decide)).trans (bits_last _ _)
  have b12_3 : bitsAt w 12 3 = 0x2#3 := by rw [e]; exact (bits_hi _ _ _ _ (by decide)).trans ((bits_hi _ _ _ _ (by decide)).trans (bits_last _ _))
  have b15_5 : bitsAt w 15 5 = rs1 := by rw [e]; exact (bits_hi _ _ _ _ (by decide)).trans ((bits_hi _ _ _ _ (by decide)).trans ((bits_hi _ _ _ _ (by decide)).trans (bits_last _ _)))
  have b20_5 : bitsAt w 20 5 = rs2 := by rw [e]; exact (bits_hi _ _ _ _ (by decide)).trans ((bits_hi _ _ _ _ (by decide)).trans ((bits_hi _ _ _ _ (by decide)).trans ((bits_hi _ _ _ _ (by decide)).trans (bits_last _ _))))
  have b25_7 : bitsAt w 25 7 = 0x0#7 := by rw [e]; exact (bits_hi _ _ _ _ (by decide)).trans ((bits_hi _ _ _ _ (by decide)).trans ((bits_hi _ _ _ _ (by decide)).trans ((bits_hi _ _ _ _ (by decide)).trans ((bits_hi _ _ _ _ (by decide)).trans (bits_all _)))))
  rw [at_decodeRow_51 w b0_7, at_decodeOp_2 w b12_3]
  unfold decodeOp2
  rw [b7_5, b15_5, b20_5, b25_7]
  rfl

theorem sltu (rs2 : BitVec 5) (rs1 : BitVec 5) (rd : BitVec 5) : Statement (.sltu rs2 rs1 rd) := by
  intro w h _
  have e : w = 0x0#7 ++ rs2 ++ rs1 ++ 0x3#3 ++ rd ++ 0x33#7 := (Option.some.inj h).symm
  have b0_7 : bitsAt w 0 7 = 0x33#7 := by rw [e]; exact bits_last _ _
  have b7_5 : bitsAt w 7 5 = rd := by rw [e]; exact (bits_hi _ _ _ _ (by decide)).trans (bits_last _ _)
  have b12_3 : bitsAt w 12 3 = 0x3#3 := by rw [e]; exact (bits_hi _ _ _ _ (by decide)).trans ((bits_hi _ _ _ _ (by decide)).trans (bits_last _ _))
  have b15_5 : bitsAt w 15 5 = rs1 := by rw [e]; exact (bits_hi _ _ _ _ (by decide)).trans ((bits_hi _ _ _ _ (by decide)).trans ((bits_hi _ _ _ _ (by decide)).trans (bits_last _ _)))
  have b20_5 : bitsAt w 20 5 = rs2 := by rw [e]; exact (bits_hi _ _ _ _ (by decide)).trans ((bits_hi _ _ _ _ (by decide)).trans ((bits_hi _ _ _ _ (by decide)).trans ((bits_hi _ _ _ _ (by decide)).trans (bits_last _ _))))
  have b25_7 : bitsAt w 25 7 = 0x0#7 := by rw [e]; exact (bits_hi _ _ _ _ (by decide)).trans ((bits_hi _ _ _ _ (by decide)).trans ((bits_hi _ _ _ _ (by decide)).trans ((bits_hi _ _ _ _ (by decide)).trans ((bits_hi _ _ _ _ (by decide)).trans (bits_all _)))))
  rw [at_decodeRow_51 w b0_7, at_decodeOp_3 w b12_3]
  unfold decodeOp3
  rw [b7_5, b15_5, b20_5, b25_7]
  rfl

theorem xor (rs2 : BitVec 5) (rs1 : BitVec 5) (rd : BitVec 5) : Statement (.xor rs2 rs1 rd) := by
  intro w h _
  have e : w = 0x0#7 ++ rs2 ++ rs1 ++ 0x4#3 ++ rd ++ 0x33#7 := (Option.some.inj h).symm
  have b0_7 : bitsAt w 0 7 = 0x33#7 := by rw [e]; exact bits_last _ _
  have b7_5 : bitsAt w 7 5 = rd := by rw [e]; exact (bits_hi _ _ _ _ (by decide)).trans (bits_last _ _)
  have b12_3 : bitsAt w 12 3 = 0x4#3 := by rw [e]; exact (bits_hi _ _ _ _ (by decide)).trans ((bits_hi _ _ _ _ (by decide)).trans (bits_last _ _))
  have b15_5 : bitsAt w 15 5 = rs1 := by rw [e]; exact (bits_hi _ _ _ _ (by decide)).trans ((bits_hi _ _ _ _ (by decide)).trans ((bits_hi _ _ _ _ (by decide)).trans (bits_last _ _)))
  have b20_5 : bitsAt w 20 5 = rs2 := by rw [e]; exact (bits_hi _ _ _ _ (by decide)).trans ((bits_hi _ _ _ _ (by decide)).trans ((bits_hi _ _ _ _ (by decide)).trans ((bits_hi _ _ _ _ (by decide)).trans (bits_last _ _))))
  have b25_7 : bitsAt w 25 7 = 0x0#7 := by rw [e]; exact (bits_hi _ _ _ _ (by decide)).trans ((bits_hi _ _ _ _ (by decide)).trans ((bits_hi _ _ _ _ (by decide)).trans ((bits_hi _ _ _ _ (by decide)).trans ((bits_hi _ _ _ _ (by decide)).trans (bits_all _)))))
  rw [at_decodeRow_51 w b0_7, at_decodeOp_4 w b12_3]
  unfold decodeOp4
  rw [b7_5, b15_5, b20_5, b25_7]
  rfl

theorem srl (rs2 : BitVec 5) (rs1 : BitVec 5) (rd : BitVec 5) : Statement (.srl rs2 rs1 rd) := by
  intro w h _
  have e : w = 0x0#7 ++ rs2 ++ rs1 ++ 0x5#3 ++ rd ++ 0x33#7 := (Option.some.inj h).symm
  have b0_7 : bitsAt w 0 7 = 0x33#7 := by rw [e]; exact bits_last _ _
  have b7_5 : bitsAt w 7 5 = rd := by rw [e]; exact (bits_hi _ _ _ _ (by decide)).trans (bits_last _ _)
  have b12_3 : bitsAt w 12 3 = 0x5#3 := by rw [e]; exact (bits_hi _ _ _ _ (by decide)).trans ((bits_hi _ _ _ _ (by decide)).trans (bits_last _ _))
  have b15_5 : bitsAt w 15 5 = rs1 := by rw [e]; exact (bits_hi _ _ _ _ (by decide)).trans ((bits_hi _ _ _ _ (by decide)).trans ((bits_hi _ _ _ _ (by decide)).trans (bits_last _ _)))
  have b20_5 : bitsAt w 20 5 = rs2 := by rw [e]; exact (bits_hi _ _ _ _ (by decide)).trans ((bits_hi _ _ _ _ (by decide)).trans ((bits_hi _ _ _ _ (by decide)).trans ((bits_hi _ _ _ _ (by decide)).trans (bits_last _ _))))
  have b25_7 : bitsAt w 25 7 = 0x0#7 := by rw [e]; exact (bits_hi _ _ _ _ (by decide)).trans ((bits_hi _ _ _ _ (by decide)).trans ((bits_hi _ _ _ _ (by decide)).trans ((bits_hi _ _ _ _ (by decide)).trans ((bits_hi _ _ _ _ (by decide)).trans (bits_all _)))))
  rw [at_decodeRow_51 w b0_7, at_decodeOp_5 w b12_3]
  unfold decodeOp5
  rw [b7_5, b15_5, b20_5, b25_7]
  rfl

theorem sra (rs2 : BitVec 5) (rs1 : BitVec 5) (rd : BitVec 5) : Statement (.sra rs2 rs1 rd) := by
  intro w h _
  have e : w = 0x20#7 ++ rs2 ++ rs1 ++ 0x5#3 ++ rd ++ 0x33#7 := (Option.some.inj h).symm
  have b0_7 : bitsAt w 0 7 = 0x33#7 := by rw [e]; exact bits_last _ _
  have b7_5 : bitsAt w 7 5 = rd := by rw [e]; exact (bits_hi _ _ _ _ (by decide)).trans (bits_last _ _)
  have b12_3 : bitsAt w 12 3 = 0x5#3 := by rw [e]; exact (bits_hi _ _ _ _ (by decide)).trans ((bits_hi _ _ _ _ (by decide)).trans (bits_last _ _))
  have b15_5 : bitsAt w 15 5 = rs1 := by rw [e]; exact (bits_hi _ _ _ _ (by decide)).trans ((bits_hi _ _ _ _ (by decide)).trans ((bits_hi _ _ _ _ (by decide)).trans (bits_last _ _)))
  have b20_5 : bitsAt w 20 5 = rs2 := by rw [e]; exact (bits_hi _ _ _ _ (by decide)).trans ((bits_hi _ _ _ _ (by decide)).trans ((bits_hi _ _ _ _ (by decide)).trans ((bits_hi _ _ _ _ (by decide)).trans (bits_last _ _))))
  have b25_7 : bitsAt w 25 7 = 0x20#7 := by rw [e]; exact (bits_hi _ _ _ _ (by decide)).trans ((bits_hi _ _ _ _ (by decide)).trans ((bits_hi _ _ _ _ (by decide)).trans ((bits_hi _ _ _ _ (by decide)).trans ((bits_hi _ _ _ _ (by decide)).trans (bits_all _)))))
  rw [at_decodeRow_51 w b0_7, at_decodeOp_5 w b12_3]
  unfold decodeOp5
  rw [b7_5, b15_5, b20_5, b25_7]
  rfl

theorem or (rs2 : BitVec 5) (rs1 : BitVec 5) (rd : BitVec 5) : Statement (.or rs2 rs1 rd) := by
  intro w h _
  have e : w = 0x0#7 ++ rs2 ++ rs1 ++ 0x6#3 ++ rd ++ 0x33#7 := (Option.some.inj h).symm
  have b0_7 : bitsAt w 0 7 = 0x33#7 := by rw [e]; exact bits_last _ _
  have b7_5 : bitsAt w 7 5 = rd := by rw [e]; exact (bits_hi _ _ _ _ (by decide)).trans (bits_last _ _)
  have b12_3 : bitsAt w 12 3 = 0x6#3 := by rw [e]; exact (bits_hi _ _ _ _ (by decide)).trans ((bits_hi _ _ _ _ (by decide)).trans (bits_last _ _))
  have b15_5 : bitsAt w 15 5 = rs1 := by rw [e]; exact (bits_hi _ _ _ _ (by decide)).trans ((bits_hi _ _ _ _ (by decide)).trans ((bits_hi _ _ _ _ (by decide)).trans (bits_last _ _)))
  have b20_5 : bitsAt w 20 5 = rs2 := by rw [e]; exact (bits_hi _ _ _ _ (by decide)).trans ((bits_hi _ _ _ _ (by decide)).trans ((bits_hi _ _ _ _ (by decide)).trans ((bits_hi _ _ _ _ (by decide)).trans (bits_last _ _))))
  have b25_7 : bitsAt w 25 7 = 0x0#7 := by rw [e]; exact (bits_hi _ _ _ _ (by decide)).trans ((bits_hi _ _ _ _ (by decide)).trans ((bits_hi _ _ _ _ (by decide)).trans ((bits_hi _ _ _ _ (by decide)).trans ((bits_hi _ _ _ _ (by decide)).trans (bits_all _)))))
  rw [at_decodeRow_51 w b0_7, at_decodeOp_6 w b12_3]
  unfold decodeOp6
  rw [b7_5, b15_5, b20_5, b25_7]
  rfl

theorem and (rs2 : BitVec 5) (rs1 : BitVec 5) (rd : BitVec 5) : Statement (.and rs2 rs1 rd) := by
  intro w h _
  have e : w = 0x0#7 ++ rs2 ++ rs1 ++ 0x7#3 ++ rd ++ 0x33#7 := (Option.some.inj h).symm
  have b0_7 : bitsAt w 0 7 = 0x33#7 := by rw [e]; exact bits_last _ _
  have b7_5 : bitsAt w 7 5 = rd := by rw [e]; exact (bits_hi _ _ _ _ (by decide)).trans (bits_last _ _)
  have b12_3 : bitsAt w 12 3 = 0x7#3 := by rw [e]; exact (bits_hi _ _ _ _ (by decide)).trans ((bits_hi _ _ _ _ (by decide)).trans (bits_last _ _))
  have b15_5 : bitsAt w 15 5 = rs1 := by rw [e]; exact (bits_hi _ _ _ _ (by decide)).trans ((bits_hi _ _ _ _ (by decide)).trans ((bits_hi _ _ _ _ (by decide)).trans (bits_last _ _)))
  have b20_5 : bitsAt w 20 5 = rs2 := by rw [e]; exact (bits_hi _ _ _ _ (by decide)).trans ((bits_hi _ _ _ _ (by decide)).trans ((bits_hi _ _ _ _ (by decide)).trans ((bits_hi _ _ _ _ (by decide)).trans (bits_last _ _))))
  have b25_7 : bitsAt w 25 7 = 0x0#7 := by rw [e]; exact (bits_hi _ _ _ _ (by decide)).trans ((bits_hi _ _ _ _ (by decide)).trans ((bits_hi _ _ _ _ (by decide)).trans ((bits_hi _ _ _ _ (by decide)).trans ((bits_hi _ _ _ _ (by decide)).trans (bits_all _)))))
  rw [at_decodeRow_51 w b0_7, at_decodeOp_7 w b12_3]
  unfold decodeOp7
  rw [b7_5, b15_5, b20_5, b25_7]
  rfl

theorem addw (rs2 : BitVec 5) (rs1 : BitVec 5) (rd : BitVec 5) : Statement (.addw rs2 rs1 rd) := by
  intro w h _
  have e : w = 0x0#7 ++ rs2 ++ rs1 ++ 0x0#3 ++ rd ++ 0x3B#7 := (Option.some.inj h).symm
  have b0_7 : bitsAt w 0 7 = 0x3B#7 := by rw [e]; exact bits_last _ _
  have b7_5 : bitsAt w 7 5 = rd := by rw [e]; exact (bits_hi _ _ _ _ (by decide)).trans (bits_last _ _)
  have b12_3 : bitsAt w 12 3 = 0x0#3 := by rw [e]; exact (bits_hi _ _ _ _ (by decide)).trans ((bits_hi _ _ _ _ (by decide)).trans (bits_last _ _))
  have b15_5 : bitsAt w 15 5 = rs1 := by rw [e]; exact (bits_hi _ _ _ _ (by decide)).trans ((bits_hi _ _ _ _ (by decide)).trans ((bits_hi _ _ _ _ (by decide)).trans (bits_last _ _)))
  have b20_5 : bitsAt w 20 5 = rs2 := by rw [e]; exact (bits_hi _ _ _ _ (by decide)).trans ((bits_hi _ _ _ _ (by decide)).trans ((bits_hi _ _ _ _ (by decide)).trans ((bits_hi _ _ _ _ (by decide)).trans (bits_last _ _))))
  have b25_7 : bitsAt w 25 7 = 0x0#7 := by rw [e]; exact (bits_hi _ _ _ _ (by decide)).trans ((bits_hi _ _ _ _ (by decide)).trans ((bits_hi _ _ _ _ (by decide)).trans ((bits_hi _ _ _ _ (by decide)).trans ((bits_hi _ _ _ _ (by decide)).trans (bits_all _)))))
  rw [at_decodeRow_59 w b0_7, at_decodeOp32_0 w b12_3]
  unfold decodeOp320
  rw [b7_5, b15_5, b20_5, b25_7]
  rfl

theorem subw (rs2 : BitVec 5) (rs1 : BitVec 5) (rd : BitVec 5) : Statement (.subw rs2 rs1 rd) := by
  intro w h _
  have e : w = 0x20#7 ++ rs2 ++ rs1 ++ 0x0#3 ++ rd ++ 0x3B#7 := (Option.some.inj h).symm
  have b0_7 : bitsAt w 0 7 = 0x3B#7 := by rw [e]; exact bits_last _ _
  have b7_5 : bitsAt w 7 5 = rd := by rw [e]; exact (bits_hi _ _ _ _ (by decide)).trans (bits_last _ _)
  have b12_3 : bitsAt w 12 3 = 0x0#3 := by rw [e]; exact (bits_hi _ _ _ _ (by decide)).trans ((bits_hi _ _ _ _ (by decide)).trans (bits_last _ _))
  have b15_5 : bitsAt w 15 5 = rs1 := by rw [e]; exact (bits_hi _ _ _ _ (by decide)).trans ((bits_hi _ _ _ _ (by decide)).trans ((bits_hi _ _ _ _ (by decide)).trans (bits_last _ _)))
  have b20_5 : bitsAt w 20 5 = rs2 := by rw [e]; exact (bits_hi _ _ _ _ (by decide)).trans ((bits_hi _ _ _ _ (by decide)).trans ((bits_hi _ _ _ _ (by decide)).trans ((bits_hi _ _ _ _ (by decide)).trans (bits_last _ _))))
  have b25_7 : bitsAt w 25 7 = 0x20#7 := by rw [e]; exact (bits_hi _ _ _ _ (by decide)).trans ((bits_hi _ _ _ _ (by decide)).trans ((bits_hi _ _ _ _ (by decide)).trans ((bits_hi _ _ _ _ (by decide)).trans ((bits_hi _ _ _ _ (by decide)).trans (bits_all _)))))
  rw [at_decodeRow_59 w b0_7, at_decodeOp32_0 w b12_3]
  unfold decodeOp320
  rw [b7_5, b15_5, b20_5, b25_7]
  rfl

theorem sllw (rs2 : BitVec 5) (rs1 : BitVec 5) (rd : BitVec 5) : Statement (.sllw rs2 rs1 rd) := by
  intro w h _
  have e : w = 0x0#7 ++ rs2 ++ rs1 ++ 0x1#3 ++ rd ++ 0x3B#7 := (Option.some.inj h).symm
  have b0_7 : bitsAt w 0 7 = 0x3B#7 := by rw [e]; exact bits_last _ _
  have b7_5 : bitsAt w 7 5 = rd := by rw [e]; exact (bits_hi _ _ _ _ (by decide)).trans (bits_last _ _)
  have b12_3 : bitsAt w 12 3 = 0x1#3 := by rw [e]; exact (bits_hi _ _ _ _ (by decide)).trans ((bits_hi _ _ _ _ (by decide)).trans (bits_last _ _))
  have b15_5 : bitsAt w 15 5 = rs1 := by rw [e]; exact (bits_hi _ _ _ _ (by decide)).trans ((bits_hi _ _ _ _ (by decide)).trans ((bits_hi _ _ _ _ (by decide)).trans (bits_last _ _)))
  have b20_5 : bitsAt w 20 5 = rs2 := by rw [e]; exact (bits_hi _ _ _ _ (by decide)).trans ((bits_hi _ _ _ _ (by decide)).trans ((bits_hi _ _ _ _ (by decide)).trans ((bits_hi _ _ _ _ (by decide)).trans (bits_last _ _))))
  have b25_7 : bitsAt w 25 7 = 0x0#7 := by rw [e]; exact (bits_hi _ _ _ _ (by decide)).trans ((bits_hi _ _ _ _ (by decide)).trans ((bits_hi _ _ _ _ (by decide)).trans ((bits_hi _ _ _ _ (by decide)).trans ((bits_hi _ _ _ _ (by decide)).trans (bits_all _)))))
  rw [at_decodeRow_59 w b0_7, at_decodeOp32_1 w b12_3]
  unfold decodeOp321
  rw [b7_5, b15_5, b20_5, b25_7]
  rfl

theorem srlw (rs2 : BitVec 5) (rs1 : BitVec 5) (rd : BitVec 5) : Statement (.srlw rs2 rs1 rd) := by
  intro w h _
  have e : w = 0x0#7 ++ rs2 ++ rs1 ++ 0x5#3 ++ rd ++ 0x3B#7 := (Option.some.inj h).symm
  have b0_7 : bitsAt w 0 7 = 0x3B#7 := by rw [e]; exact bits_last _ _
  have b7_5 : bitsAt w 7 5 = rd := by rw [e]; exact (bits_hi _ _ _ _ (by decide)).trans (bits_last _ _)
  have b12_3 : bitsAt w 12 3 = 0x5#3 := by rw [e]; exact (bits_hi _ _ _ _ (by decide)).trans ((bits_hi _ _ _ _ (by decide)).trans (bits_last _ _))
  have b15_5 : bitsAt w 15 5 = rs1 := by rw [e]; exact (bits_hi _ _ _ _ (by decide)).trans ((bits_hi _ _ _ _ (by decide)).trans ((bits_hi _ _ _ _ (by decide)).trans (bits_last _ _)))
  have b20_5 : bitsAt w 20 5 = rs2 := by rw [e]; exact (bits_hi _ _ _ _ (by decide)).trans ((bits_hi _ _ _ _ (by decide)).trans ((bits_hi _ _ _ _ (by decide)).trans ((bits_hi _ _ _ _ (by decide)).trans (bits_last _ _))))
  have b25_7 : bitsAt w 25 7 = 0x0#7 := by rw [e]; exact (bits_hi _ _ _ _ (by decide)).trans ((bits_hi _ _ _ _ (by decide)).trans ((bits_hi _ _ _ _ (by decide)).trans ((bits_hi _ _ _ _ (by decide)).trans ((bits_hi _ _ _ _ (by decide)).trans (bits_all _)))))
  rw [at_decodeRow_59 w b0_7, at_decodeOp32_5 w b12_3]
  unfold decodeOp325
  rw [b7_5, b15_5, b20_5, b25_7]
  rfl

theorem sraw (rs2 : BitVec 5) (rs1 : BitVec 5) (rd : BitVec 5) : Statement (.sraw rs2 rs1 rd) := by
  intro w h _
  have e : w = 0x20#7 ++ rs2 ++ rs1 ++ 0x5#3 ++ rd ++ 0x3B#7 := (Option.some.inj h).symm
  have b0_7 : bitsAt w 0 7 = 0x3B#7 := by rw [e]; exact bits_last _ _
  have b7_5 : bitsAt w 7 5 = rd := by rw [e]; exact (bits_hi _ _ _ _ (by decide)).trans (bits_last _ _)
  have b12_3 : bitsAt w 12 3 = 0x5#3 := by rw [e]; exact (bits_hi _ _ _ _ (by decide)).trans ((bits_hi _ _ _ _ (by decide)).trans (bits_last _ _))
  have b15_5 : bitsAt w 15 5 = rs1 := by rw [e]; exact (bits_hi _ _ _ _ (by decide)).trans ((bits_hi _ _ _ _ (by decide)).trans ((bits_hi _ _ _ _ (by decide)).trans (bits_last _ _)))
  have b20_5 : bitsAt w 20 5 = rs2 := by rw [e]; exact (bits_hi _ _ _ _ (by decide)).trans ((bits_hi _ _ _ _ (by decide)).trans ((bits_hi _ _ _ _ (by decide)).trans ((bits_hi _ _ _ _ (by decide)).trans (bits_last _ _))))
  have b25_7 : bitsAt w 25 7 = 0x20#7 := by rw [e]; exact (bits_hi _ _ _ _ (by decide)).trans ((bits_hi _ _ _ _ (by decide)).trans ((bits_hi _ _ _ _ (by decide)).trans ((bits_hi _ _ _ _ (by decide)).trans ((bits_hi _ _ _ _ (by decide)).trans (bits_all _)))))
  rw [at_decodeRow_59 w b0_7, at_decodeOp32_5 w b12_3]
  unfold decodeOp325
  rw [b7_5, b15_5, b20_5, b25_7]
  rfl

theorem mul (rs2 : BitVec 5) (rs1 : BitVec 5) (rd : BitVec 5) : Statement (.mul rs2 rs1 rd) := by
  intro w h _
  have e : w = 0x1#7 ++ rs2 ++ rs1 ++ 0x0#3 ++ rd ++ 0x33#7 := (Option.some.inj h).symm
  have b0_7 : bitsAt w 0 7 = 0x33#7 := by rw [e]; exact bits_last _ _
  have b7_5 : bitsAt w 7 5 = rd := by rw [e]; exact (bits_hi _ _ _ _ (by decide)).trans (bits_last _ _)
  have b12_3 : bitsAt w 12 3 = 0x0#3 := by rw [e]; exact (bits_hi _ _ _ _ (by decide)).trans ((bits_hi _ _ _ _ (by decide)).trans (bits_last _ _))
  have b15_5 : bitsAt w 15 5 = rs1 := by rw [e]; exact (bits_hi _ _ _ _ (by decide)).trans ((bits_hi _ _ _ _ (by decide)).trans ((bits_hi _ _ _ _ (by decide)).trans (bits_last _ _)))
  have b20_5 : bitsAt w 20 5 = rs2 := by rw [e]; exact (bits_hi _ _ _ _ (by decide)).trans ((bits_hi _ _ _ _ (by decide)).trans ((bits_hi _ _ _ _ (by decide)).trans ((bits_hi _ _ _ _ (by decide)).trans (bits_last _ _))))
  have b25_7 : bitsAt w 25 7 = 0x1#7 := by rw [e]; exact (bits_hi _ _ _ _ (by decide)).trans ((bits_hi _ _ _ _ (by decide)).trans ((bits_hi _ _ _ _ (by decide)).trans ((bits_hi _ _ _ _ (by decide)).trans ((bits_hi _ _ _ _ (by decide)).trans (bits_all _)))))
  rw [at_decodeRow_51 w b0_7, at_decodeOp_0 w b12_3]
  unfold decodeOp0
  rw [b7_5, b15_5, b20_5, b25_7]
  rfl

theorem mulh (rs2 : BitVec 5) (rs1 : BitVec 5) (rd : BitVec 5) : Statement (.mulh rs2 rs1 rd) := by
  intro w h _
  have e : w = 0x1#7 ++ rs2 ++ rs1 ++ 0x1#3 ++ rd ++ 0x33#7 := (Option.some.inj h).symm
  have b0_7 : bitsAt w 0 7 = 0x33#7 := by rw [e]; exact bits_last _ _
  have b7_5 : bitsAt w 7 5 = rd := by rw [e]; exact (bits_hi _ _ _ _ (by decide)).trans (bits_last _ _)
  have b12_3 : bitsAt w 12 3 = 0x1#3 := by rw [e]; exact (bits_hi _ _ _ _ (by decide)).trans ((bits_hi _ _ _ _ (by decide)).trans (bits_last _ _))
  have b15_5 : bitsAt w 15 5 = rs1 := by rw [e]; exact (bits_hi _ _ _ _ (by decide)).trans ((bits_hi _ _ _ _ (by decide)).trans ((bits_hi _ _ _ _ (by decide)).trans (bits_last _ _)))
  have b20_5 : bitsAt w 20 5 = rs2 := by rw [e]; exact (bits_hi _ _ _ _ (by decide)).trans ((bits_hi _ _ _ _ (by decide)).trans ((bits_hi _ _ _ _ (by decide)).trans ((bits_hi _ _ _ _ (by decide)).trans (bits_last _ _))))
  have b25_7 : bitsAt w 25 7 = 0x1#7 := by rw [e]; exact (bits_hi _ _ _ _ (by decide)).trans ((bits_hi _ _ _ _ (by decide)).trans ((bits_hi _ _ _ _ (by decide)).trans ((bits_hi _ _ _ _ (by decide)).trans ((bits_hi _ _ _ _ (by decide)).trans (bits_all _)))))
  rw [at_decodeRow_51 w b0_7, at_decodeOp_1 w b12_3]
  unfold decodeOp1
  rw [b7_5, b15_5, b20_5, b25_7]
  rfl

theorem mulhsu (rs2 : BitVec 5) (rs1 : BitVec 5) (rd : BitVec 5) : Statement (.mulhsu rs2 rs1 rd) := by
  intro w h _
  have e : w = 0x1#7 ++ rs2 ++ rs1 ++ 0x2#3 ++ rd ++ 0x33#7 := (Option.some.inj h).symm
  have b0_7 : bitsAt w 0 7 = 0x33#7 := by rw [e]; exact bits_last _ _
  have b7_5 : bitsAt w 7 5 = rd := by rw [e]; exact (bits_hi _ _ _ _ (by decide)).trans (bits_last _ _)
  have b12_3 : bitsAt w 12 3 = 0x2#3 := by rw [e]; exact (bits_hi _ _ _ _ (by decide)).trans ((bits_hi _ _ _ _ (by decide)).trans (bits_last _ _))
  have b15_5 : bitsAt w 15 5 = rs1 := by rw [e]; exact (bits_hi _ _ _ _ (by decide)).trans ((bits_hi _ _ _ _ (by decide)).trans ((bits_hi _ _ _ _ (by decide)).trans (bits_last _ _)))
  have b20_5 : bitsAt w 20 5 = rs2 := by rw [e]; exact (bits_hi _ _ _ _ (by decide)).trans ((bits_hi _ _ _ _ (by decide)).trans ((bits_hi _ _ _ _ (by decide)).trans ((bits_hi _ _ _ _ (by decide)).trans (bits_last _ _))))
  have b25_7 : bitsAt w 25 7 = 0x1#7 := by rw [e]; exact (bits_hi _ _ _ _ (by decide)).trans ((bits_hi _ _ _ _ (by decide)).trans ((bits_hi _ _ _ _ (by decide)).trans ((bits_hi _ _ _ _ (by decide)).trans ((bits_hi _ _ _ _ (by decide)).trans (bits_all _)))))
  rw [at_decodeRow_51 w b0_7, at_decodeOp_2 w b12_3]
  unfold decodeOp2
  rw [b7_5, b15_5, b20_5, b25_7]
  rfl

theorem mulhu (rs2 : BitVec 5) (rs1 : BitVec 5) (rd : BitVec 5) : Statement (.mulhu rs2 rs1 rd) := by
  intro w h _
  have e : w = 0x1#7 ++ rs2 ++ rs1 ++ 0x3#3 ++ rd ++ 0x33#7 := (Option.some.inj h).symm
  have b0_7 : bitsAt w 0 7 = 0x33#7 := by rw [e]; exact bits_last _ _
  have b7_5 : bitsAt w 7 5 = rd := by rw [e]; exact (bits_hi _ _ _ _ (by decide)).trans (bits_last _ _)
  have b12_3 : bitsAt w 12 3 = 0x3#3 := by rw [e]; exact (bits_hi _ _ _ _ (by decide)).trans ((bits_hi _ _ _ _ (by decide)).trans (bits_last _ _))
  have b15_5 : bitsAt w 15 5 = rs1 := by rw [e]; exact (bits_hi _ _ _ _ (by decide)).trans ((bits_hi _ _ _ _ (by decide)).trans ((bits_hi _ _ _ _ (by decide)).trans (bits_last _ _)))
  have b20_5 : bitsAt w 20 5 = rs2 := by rw [e]; exact (bits_hi _ _ _ _ (by decide)).trans ((bits_hi _ _ _ _ (by decide)).trans ((bits_hi _ _ _ _ (by decide)).trans ((bits_hi _ _ _ _ (by decide)).trans (bits_last _ _))))
  have b25_7 : bitsAt w 25 7 = 0x1#7 := by rw [e]; exact (bits_hi _ _ _ _ (by decide)).trans ((bits_hi _ _ _ _ (by decide)).trans ((bits_hi _ _ _ _ (by decide)).trans ((bits_hi _ _ _ _ (by decide)).trans ((bits_hi _ _ _ _ (by decide)).trans (bits_all _)))))
  rw [at_decodeRow_51 w b0_7, at_decodeOp_3 w b12_3]
  unfold decodeOp3
  rw [b7_5, b15_5, b20_5, b25_7]
  rfl

theorem mulw (rs2 : BitVec 5) (rs1 : BitVec 5) (rd : BitVec 5) : Statement (.mulw rs2 rs1 rd) := by
  intro w h _
  have e : w = 0x1#7 ++ rs2 ++ rs1 ++ 0x0#3 ++ rd ++ 0x3B#7 := (Option.some.inj h).symm
  have b0_7 : bitsAt w 0 7 = 0x3B#7 := by rw [e]; exact bits_last _ _
  have b7_5 : bitsAt w 7 5 = rd := by rw [e]; exact (bits_hi _ _ _ _ (by decide)).trans (bits_last _ _)
  have b12_3 : bitsAt w 12 3 = 0x0#3 := by rw [e]; exact (bits_hi _ _ _ _ (by decide)).trans ((bits_hi _ _ _ _ (by decide)).trans (bits_last _ _))
  have b15_5 : bitsAt w 15 5 = rs1 := by rw [e]; exact (bits_hi _ _ _ _ (by decide)).trans ((bits_hi _ _ _ _ (by decide)).trans ((bits_hi _ _ _ _ (by decide)).trans (bits_last _ _)))
  have b20_5 : bitsAt w 20 5 = rs2 := by rw [e]; exact (bits_hi _ _ _ _ (by decide)).trans ((bits_hi _ _ _ _ (by decide)).trans ((bits_hi _ _ _ _ (by decide)).trans ((bits_hi _ _ _ _ (by decide)).trans (bits_last _ _))))
  have b25_7 : bitsAt w 25 7 = 0x1#7 := by rw [e]; exact (bits_hi _ _ _ _ (by decide)).trans ((bits_hi _ _ _ _ (by decide)).trans ((bits_hi _ _ _ _ (by decide)).trans ((bits_hi _ _ _ _ (by decide)).trans ((bits_hi _ _ _ _ (by decide)).trans (bits_all _)))))
  rw [at_decodeRow_59 w b0_7, at_decodeOp32_0 w b12_3]
  unfold decodeOp320
  rw [b7_5, b15_5, b20_5, b25_7]
  rfl

theorem div (rs2 : BitVec 5) (rs1 : BitVec 5) (rd : BitVec 5) : Statement (.div rs2 rs1 rd) := by
  intro w h _
  have e : w = 0x1#7 ++ rs2 ++ rs1 ++ 0x4#3 ++ rd ++ 0x33#7 := (Option.some.inj h).symm
  have b0_7 : bitsAt w 0 7 = 0x33#7 := by rw [e]; exact bits_last _ _
  have b7_5 : bitsAt w 7 5 = rd := by rw [e]; exact (bits_hi _ _ _ _ (by decide)).trans (bits_last _ _)
  have b12_3 : bitsAt w 12 3 = 0x4#3 := by rw [e]; exact (bits_hi _ _ _ _ (by decide)).trans ((bits_hi _ _ _ _ (by decide)).trans (bits_last _ _))
  have b15_5 : bitsAt w 15 5 = rs1 := by rw [e]; exact (bits_hi _ _ _ _ (by decide)).trans ((bits_hi _ _ _ _ (by decide)).trans ((bits_hi _ _ _ _ (by decide)).trans (bits_last _ _)))
  have b20_5 : bitsAt w 20 5 = rs2 := by rw [e]; exact (bits_hi _ _ _ _ (by decide)).trans ((bits_hi _ _ _ _ (by decide)).trans ((bits_hi _ _ _ _ (by decide)).trans ((bits_hi _ _ _ _ (by decide)).trans (bits_last _ _))))
  have b25_7 : bitsAt w 25 7 = 0x1#7 := by rw [e]; exact (bits_hi _ _ _ _ (by decide)).trans ((bits_hi _ _ _ _ (by decide)).trans ((bits_hi _ _ _ _ (by decide)).trans ((bits_hi _ _ _ _ (by decide)).trans ((bits_hi _ _ _ _ (by decide)).trans (bits_all _)))))
  rw [at_decodeRow_51 w b0_7, at_decodeOp_4 w b12_3]
  unfold decodeOp4
  rw [b7_5, b15_5, b20_5, b25_7]
  rfl

theorem divu (rs2 : BitVec 5) (rs1 : BitVec 5) (rd : BitVec 5) : Statement (.divu rs2 rs1 rd) := by
  intro w h _
  have e : w = 0x1#7 ++ rs2 ++ rs1 ++ 0x5#3 ++ rd ++ 0x33#7 := (Option.some.inj h).symm
  have b0_7 : bitsAt w 0 7 = 0x33#7 := by rw [e]; exact bits_last _ _
  have b7_5 : bitsAt w 7 5 = rd := by rw [e]; exact (bits_hi _ _ _ _ (by decide)).trans (bits_last _ _)
  have b12_3 : bitsAt w 12 3 = 0x5#3 := by rw [e]; exact (bits_hi _ _ _ _ (by decide)).trans ((bits_hi _ _ _ _ (by decide)).trans (bits_last _ _))
  have b15_5 : bitsAt w 15 5 = rs1 := by rw [e]; exact (bits_hi _ _ _ _ (by decide)).trans ((bits_hi _ _ _ _ (by decide)).trans ((bits_hi _ _ _ _ (by decide)).trans (bits_last _ _)))
  have b20_5 : bitsAt w 20 5 = rs2 := by rw [e]; exact (bits_hi _ _ _ _ (by decide)).trans ((bits_hi _ _ _ _ (by decide)).trans ((bits_hi _ _ _ _ (by decide)).trans ((bits_hi _ _ _ _ (by decide)).trans (bits_last _ _))))
  have b25_7 : bitsAt w 25 7 = 0x1#7 := by rw [e]; exact (bits_hi _ _ _ _ (by decide)).trans ((bits_hi _ _ _ _ (by decide)).trans ((bits_hi _ _ _ _ (by decide)).trans ((bits_hi _ _ _ _ (by decide)).trans ((bits_hi _ _ _ _ (by decide)).trans (bits_all _)))))
  rw [at_decodeRow_51 w b0_7, at_decodeOp_5 w b12_3]
  unfold decodeOp5
  rw [b7_5, b15_5, b20_5, b25_7]
  rfl

theorem rem (rs2 : BitVec 5) (rs1 : BitVec 5) (rd : BitVec 5) : Statement (.rem rs2 rs1 rd) := by
  intro w h _
  have e : w = 0x1#7 ++ rs2 ++ rs1 ++ 0x6#3 ++ rd ++ 0x33#7 := (Option.some.inj h).symm
  have b0_7 : bitsAt w 0 7 = 0x33#7 := by rw [e]; exact bits_last _ _
  have b7_5 : bitsAt w 7 5 = rd := by rw [e]; exact (bits_hi _ _ _ _ (by decide)).trans (bits_last _ _)
  have b12_3 : bitsAt w 12 3 = 0x6#3 := by rw [e]; exact (bits_hi _ _ _ _ (by decide)).trans ((bits_hi _ _ _ _ (by decide)).trans (bits_last _ _))
  have b15_5 : bitsAt w 15 5 = rs1 := by rw [e]; exact (bits_hi _ _ _ _ (by decide)).trans ((bits_hi _ _ _ _ (by decide)).trans ((bits_hi _ _ _ _ (by decide)).trans (bits_last _ _)))
  have b20_5 : bitsAt w 20 5 = rs2 := by rw [e]; exact (bits_hi _ _ _ _ (by decide)).trans ((bits_hi _ _ _ _ (by decide)).trans ((bits_hi _ _ _ _ (by decide)).trans ((bits_hi _ _ _ _ (by decide)).trans (bits_last _ _))))
  have b25_7 : bitsAt w 25 7 = 0x1#7 := by rw [e]; exact (bits_hi _ _ _ _ (by decide)).trans ((bits_hi _ _ _ _ (by decide)).trans ((bits_hi _ _ _ _ (by decide)).trans ((bits_hi _ _ _ _ (by decide)).trans ((bits_hi _ _ _ _ (by decide)).trans (bits_all _)))))
  rw [at_decodeRow_51 w b0_7, at_decodeOp_6 w b12_3]
  unfold decodeOp6
  rw [b7_5, b15_5, b20_5, b25_7]
  rfl

theorem remu (rs2 : BitVec 5) (rs1 : BitVec 5) (rd : BitVec 5) : Statement (.remu rs2 rs1 rd) := by
  intro w h _
  have e : w = 0x1#7 ++ rs2 ++ rs1 ++ 0x7#3 ++ rd ++ 0x33#7 := (Option.some.inj h).symm
  have b0_7 : bitsAt w 0 7 = 0x33#7 := by rw [e]; exact bits_last _ _
  have b7_5 : bitsAt w 7 5 = rd := by rw [e]; exact (bits_hi _ _ _ _ (by decide)).trans (bits_last _ _)
  have b12_3 : bitsAt w 12 3 = 0x7#3 := by rw [e]; exact (bits_hi _ _ _ _ (by decide)).trans ((bits_hi _ _ _ _ (by decide)).trans (bits_last _ _))
  have b15_5 : bitsAt w 15 5 = rs1 := by rw [e]; exact (bits_hi _ _ _ _ (by decide)).trans ((bits_hi _ _ _ _ (by decide)).trans ((bits_hi _ _ _ _ (by decide)).trans (bits_last _ _)))
  have b20_5 : bitsAt w 20 5 = rs2 := by rw [e]; exact (bits_hi _ _ _ _ (by decide)).trans ((bits_hi _ _ _ _ (by decide)).trans ((bits_hi _ _ _ _ (by decide)).trans ((bits_hi _ _ _ _ (by decide)).trans (bits_last _ _))))
  have b25_7 : bitsAt w 25 7 = 0x1#7 := by rw [e]; exact (bits_hi _ _ _ _ (by decide)).trans ((bits_hi _ _ _ _ (by decide)).trans ((bits_hi _ _ _ _ (by decide)).trans ((bits_hi _ _ _ _ (by decide)).trans ((bits_hi _ _ _ _ (by decide)).trans (bits_all _)))))
  rw [at_decodeRow_51 w b0_7, at_decodeOp_7 w b12_3]
  unfold decodeOp7
  rw [b7_5, b15_5, b20_5, b25_7]
  rfl

theorem divw (rs2 : BitVec 5) (rs1 : BitVec 5) (rd : BitVec 5) : Statement (.divw rs2 rs1 rd) := by
  intro w h _
  have e : w = 0x1#7 ++ rs2 ++ rs1 ++ 0x4#3 ++ rd ++ 0x3B#7 := (Option.some.inj h).symm
  have b0_7 : bitsAt w 0 7 = 0x3B#7 := by rw [e]; exact bits_last _ _
  have b7_5 : bitsAt w 7 5 = rd := by rw [e]; exact (bits_hi _ _ _ _ (by decide)).trans (bits_last _ _)
  have b12_3 : bitsAt w 12 3 = 0x4#3 := by rw [e]; exact (bits_hi _ _ _ _ (by decide)).trans ((bits_hi _ _ _ _ (by decide)).trans (bits_last _ _))
  have b15_5 : bitsAt w 15 5 = rs1 := by rw [e]; exact (bits_hi _ _ _ _ (by decide)).trans ((bits_hi _ _ _ _ (by decide)).trans ((bits_hi _ _ _ _ (by decide)).trans (bits_last _ _)))
  have b20_5 : bitsAt w 20 5 = rs2 := by rw [e]; exact (bits_hi _ _ _ _ (by decide)).trans ((bits_hi _ _ _ _ (by decide)).trans ((bits_hi _ _ _ _ (by decide)).trans ((bits_hi _ _ _ _ (by decide)).trans (bits_last _ _))))
  have b25_7 : bitsAt w 25 7 = 0x1#7 := by rw [e]; exact (bits_hi _ _ _ _ (by decide)).trans ((bits_hi _ _ _ _ (by decide)).trans ((bits_hi _ _ _ _ (by decide)).trans ((bits_hi _ _ _ _ (by decide)).trans ((bits_hi _ _ _ _ (by decide)).trans (bits_all _)))))
  rw [at_decodeRow_59 w b0_7, at_decodeOp32_4 w b12_3]
  unfold decodeOp324
  rw [b7_5, b15_5, b20_5, b25_7]
  rfl

theorem divuw (rs2 : BitVec 5) (rs1 : BitVec 5) (rd : BitVec 5) : Statement (.divuw rs2 rs1 rd) := by
  intro w h _
  have e : w = 0x1#7 ++ rs2 ++ rs1 ++ 0x5#3 ++ rd ++ 0x3B#7 := (Option.some.inj h).symm
  have b0_7 : bitsAt w 0 7 = 0x3B#7 := by rw [e]; exact bits_last _ _
  have b7_5 : bitsAt w 7 5 = rd := by rw [e]; exact (bits_hi _ _ _ _ (by decide)).trans (bits_last _ _)
  have b12_3 : bitsAt w 12 3 = 0x5#3 := by rw [e]; exact (bits_hi _ _ _ _ (by decide)).trans ((bits_hi _ _ _ _ (by decide)).trans (bits_last _ _))
  have b15_5 : bitsAt w 15 5 = rs1 := by rw [e]; exact (bits_hi _ _ _ _ (by decide)).trans ((bits_hi _ _ _ _ (by decide)).trans ((bits_hi _ _ _ _ (by decide)).trans (bits_last _ _)))
  have b20_5 : bitsAt w 20 5 = rs2 := by rw [e]; exact (bits_hi _ _ _ _ (by decide)).trans ((bits_hi _ _ _ _ (by decide)).trans ((bits_hi _ _ _ _ (by decide)).trans ((bits_hi _ _ _ _ (by decide)).trans (bits_last _ _))))
  have b25_7 : bitsAt w 25 7 = 0x1#7 := by rw [e]; exact (bits_hi _ _ _ _ (by decide)).trans ((bits_hi _ _ _ _ (by decide)).trans ((bits_hi _ _ _ _ (by decide)).trans ((bits_hi _ _ _ _ (by decide)).trans ((bits_hi _ _ _ _ (by decide)).trans (bits_all _)))))
  rw [at_decodeRow_59 w b0_7, at_decodeOp32_5 w b12_3]
  unfold decodeOp325
  rw [b7_5, b15_5, b20_5, b25_7]
  rfl

theorem remw (rs2 : BitVec 5) (rs1 : BitVec 5) (rd : BitVec 5) : Statement (.remw rs2 rs1 rd) := by
  intro w h _
  have e : w = 0x1#7 ++ rs2 ++ rs1 ++ 0x6#3 ++ rd ++ 0x3B#7 := (Option.some.inj h).symm
  have b0_7 : bitsAt w 0 7 = 0x3B#7 := by rw [e]; exact bits_last _ _
  have b7_5 : bitsAt w 7 5 = rd := by rw [e]; exact (bits_hi _ _ _ _ (by decide)).trans (bits_last _ _)
  have b12_3 : bitsAt w 12 3 = 0x6#3 := by rw [e]; exact (bits_hi _ _ _ _ (by decide)).trans ((bits_hi _ _ _ _ (by decide)).trans (bits_last _ _))
  have b15_5 : bitsAt w 15 5 = rs1 := by rw [e]; exact (bits_hi _ _ _ _ (by decide)).trans ((bits_hi _ _ _ _ (by decide)).trans ((bits_hi _ _ _ _ (by decide)).trans (bits_last _ _)))
  have b20_5 : bitsAt w 20 5 = rs2 := by rw [e]; exact (bits_hi _ _ _ _ (by decide)).trans ((bits_hi _ _ _ _ (by decide)).trans ((bits_hi _ _ _ _ (by decide)).trans ((bits_hi _ _ _ _ (by decide)).trans (bits_last _ _))))
  have b25_7 : bitsAt w 25 7 = 0x1#7 := by rw [e]; exact (bits_hi _ _ _ _ (by decide)).trans ((bits_hi _ _ _ _ (by decide)).trans ((bits_hi _ _ _ _ (by decide)).trans ((bits_hi _ _ _ _ (by decide)).trans ((bits_hi _ _ _ _ (by decide)).trans (bits_all _)))))
  rw [at_decodeRow_59 w b0_7, at_decodeOp32_6 w b12_3]
  unfold decodeOp326
  rw [b7_5, b15_5, b20_5, b25_7]
  rfl

theorem remuw (rs2 : BitVec 5) (rs1 : BitVec 5) (rd : BitVec 5) : Statement (.remuw rs2 rs1 rd) := by
  intro w h _
  have e : w = 0x1#7 ++ rs2 ++ rs1 ++ 0x7#3 ++ rd ++ 0x3B#7 := (Option.some.inj h).symm
  have b0_7 : bitsAt w 0 7 = 0x3B#7 := by rw [e]; exact bits_last _ _
  have b7_5 : bitsAt w 7 5 = rd := by rw [e]; exact (bits_hi _ _ _ _ (by decide)).trans (bits_last _ _)
  have b12_3 : bitsAt w 12 3 = 0x7#3 := by rw [e]; exact (bits_hi _ _ _ _ (by decide)).trans ((bits_hi _ _ _ _ (by decide)).trans (bits_last _ _))
  have b15_5 : bitsAt w 15 5 = rs1 := by rw [e]; exact (bits_hi _ _ _ _ (by decide)).trans ((bits_hi _ _ _ _ (by decide)).trans ((bits_hi _ _ _ _ (by decide)).trans (bits_last _ _)))
  have b20_5 : bitsAt w 20 5 = rs2 := by rw [e]; exact (bits_hi _ _ _ _ (by decide)).trans ((bits_hi _ _ _ _ (by decide)).trans ((bits_hi _ _ _ _ (by decide)).trans ((bits_hi _ _ _ _ (by decide)).trans (bits_last _ _))))
  have b25_7 : bitsAt w 25 7 = 0x1#7 := by rw [e]; exact (bits_hi _ _ _ _ (by decide)).trans ((bits_hi _ _ _ _ (by decide)).trans ((bits_hi _ _ _ _ (by decide)).trans ((bits_hi _ _ _ _ (by decide)).trans ((bits_hi _ _ _ _ (by decide)).trans (bits_all _)))))
  rw [at_decodeRow_59 w b0_7, at_decodeOp32_7 w b12_3]
  unfold decodeOp327
  rw [b7_5, b15_5, b20_5, b25_7]
  rfl

theorem fence (fm : BitVec 4) (pred : BitVec 4) (succ : BitVec 4) : Statement (.fence fm pred succ) := by
  intro w h _
  have e : w = fm ++ pred ++ succ ++ 0x0#5 ++ 0x0#3 ++ 0x0#5 ++ 0xF#7 := (Option.some.inj h).symm
  have b0_7 : bitsAt w 0 7 = 0xF#7 := by rw [e]; exact bits_last _ _
  have b7_5 : bitsAt w 7 5 = 0x0#5 := by rw [e]; exact (bits_hi _ _ _ _ (by decide)).trans (bits_last _ _)
  have b12_3 : bitsAt w 12 3 = 0x0#3 := by rw [e]; exact (bits_hi _ _ _ _ (by decide)).trans ((bits_hi _ _ _ _ (by decide)).trans (bits_last _ _))
  have b15_5 : bitsAt w 15 5 = 0x0#5 := by rw [e]; exact (bits_hi _ _ _ _ (by decide)).trans ((bits_hi _ _ _ _ (by decide)).trans ((bits_hi _ _ _ _ (by decide)).trans (bits_last _ _)))
  have b20_4 : bitsAt w 20 4 = succ := by rw [e]; exact (bits_hi _ _ _ _ (by decide)).trans ((bits_hi _ _ _ _ (by decide)).trans ((bits_hi _ _ _ _ (by decide)).trans ((bits_hi _ _ _ _ (by decide)).trans (bits_last _ _))))
  have b24_4 : bitsAt w 24 4 = pred := by rw [e]; exact (bits_hi _ _ _ _ (by decide)).trans ((bits_hi _ _ _ _ (by decide)).trans ((bits_hi _ _ _ _ (by decide)).trans ((bits_hi _ _ _ _ (by decide)).trans ((bits_hi _ _ _ _ (by decide)).trans (bits_last _ _)))))
  have b28_4 : bitsAt w 28 4 = fm := by rw [e]; exact (bits_hi _ _ _ _ (by decide)).trans ((bits_hi _ _ _ _ (by decide)).trans ((bits_hi _ _ _ _ (by decide)).trans ((bits_hi _ _ _ _ (by decide)).trans ((bits_hi _ _ _ _ (by decide)).trans ((bits_hi _ _ _ _ (by decide)).trans (bits_all _))))))
  rw [at_decodeRow_15 w b0_7]
  unfold decodeMiscMem
  rw [b7_5, b12_3, b15_5, b20_4, b24_4, b28_4]
  rfl

theorem ecall : Statement .ecall := by
  intro w h _
  have e : w = 0x0#7 ++ 0x0#5 ++ 0x0#5 ++ 0x0#3 ++ 0x0#5 ++ 0x73#7 := (Option.some.inj h).symm
  have b0_7 : bitsAt w 0 7 = 0x73#7 := by rw [e]; exact bits_last _ _
  have b7_5 : bitsAt w 7 5 = 0x0#5 := by rw [e]; exact (bits_hi _ _ _ _ (by decide)).trans (bits_last _ _)
  have b12_3 : bitsAt w 12 3 = 0x0#3 := by rw [e]; exact (bits_hi _ _ _ _ (by decide)).trans ((bits_hi _ _ _ _ (by decide)).trans (bits_last _ _))
  have b15_5 : bitsAt w 15 5 = 0x0#5 := by rw [e]; exact (bits_hi _ _ _ _ (by decide)).trans ((bits_hi _ _ _ _ (by decide)).trans ((bits_hi _ _ _ _ (by decide)).trans (bits_last _ _)))
  have b20_5 : bitsAt w 20 5 = 0x0#5 := by rw [e]; exact (bits_hi _ _ _ _ (by decide)).trans ((bits_hi _ _ _ _ (by decide)).trans ((bits_hi _ _ _ _ (by decide)).trans ((bits_hi _ _ _ _ (by decide)).trans (bits_last _ _))))
  have b25_7 : bitsAt w 25 7 = 0x0#7 := by rw [e]; exact (bits_hi _ _ _ _ (by decide)).trans ((bits_hi _ _ _ _ (by decide)).trans ((bits_hi _ _ _ _ (by decide)).trans ((bits_hi _ _ _ _ (by decide)).trans ((bits_hi _ _ _ _ (by decide)).trans (bits_all _)))))
  rw [at_decodeRow_115 w b0_7, at_decodeSystem_0 w b12_3]
  unfold decodeSystem0
  rw [b7_5, b15_5, b20_5, b25_7]
  rfl

theorem ebreak : Statement .ebreak := by
  intro w h _
  have e : w = 0x0#7 ++ 0x1#5 ++ 0x0#5 ++ 0x0#3 ++ 0x0#5 ++ 0x73#7 := (Option.some.inj h).symm
  have b0_7 : bitsAt w 0 7 = 0x73#7 := by rw [e]; exact bits_last _ _
  have b7_5 : bitsAt w 7 5 = 0x0#5 := by rw [e]; exact (bits_hi _ _ _ _ (by decide)).trans (bits_last _ _)
  have b12_3 : bitsAt w 12 3 = 0x0#3 := by rw [e]; exact (bits_hi _ _ _ _ (by decide)).trans ((bits_hi _ _ _ _ (by decide)).trans (bits_last _ _))
  have b15_5 : bitsAt w 15 5 = 0x0#5 := by rw [e]; exact (bits_hi _ _ _ _ (by decide)).trans ((bits_hi _ _ _ _ (by decide)).trans ((bits_hi _ _ _ _ (by decide)).trans (bits_last _ _)))
  have b20_5 : bitsAt w 20 5 = 0x1#5 := by rw [e]; exact (bits_hi _ _ _ _ (by decide)).trans ((bits_hi _ _ _ _ (by decide)).trans ((bits_hi _ _ _ _ (by decide)).trans ((bits_hi _ _ _ _ (by decide)).trans (bits_last _ _))))
  have b25_7 : bitsAt w 25 7 = 0x0#7 := by rw [e]; exact (bits_hi _ _ _ _ (by decide)).trans ((bits_hi _ _ _ _ (by decide)).trans ((bits_hi _ _ _ _ (by decide)).trans ((bits_hi _ _ _ _ (by decide)).trans ((bits_hi _ _ _ _ (by decide)).trans (bits_all _)))))
  rw [at_decodeRow_115 w b0_7, at_decodeSystem_0 w b12_3]
  unfold decodeSystem0
  rw [b7_5, b15_5, b20_5, b25_7]
  rfl

theorem csrrw (csr : BitVec 12) (rs1 : BitVec 5) (rd : BitVec 5) : Statement (.csrrw csr rs1 rd) := by
  intro w h _
  have e : w = csr ++ rs1 ++ 0x1#3 ++ rd ++ 0x73#7 := (Option.some.inj h).symm
  have b0_7 : bitsAt w 0 7 = 0x73#7 := by rw [e]; exact bits_last _ _
  have b7_5 : bitsAt w 7 5 = rd := by rw [e]; exact (bits_hi _ _ _ _ (by decide)).trans (bits_last _ _)
  have b12_3 : bitsAt w 12 3 = 0x1#3 := by rw [e]; exact (bits_hi _ _ _ _ (by decide)).trans ((bits_hi _ _ _ _ (by decide)).trans (bits_last _ _))
  have b15_5 : bitsAt w 15 5 = rs1 := by rw [e]; exact (bits_hi _ _ _ _ (by decide)).trans ((bits_hi _ _ _ _ (by decide)).trans ((bits_hi _ _ _ _ (by decide)).trans (bits_last _ _)))
  have b20_12 : bitsAt w 20 12 = csr := by rw [e]; exact (bits_hi _ _ _ _ (by decide)).trans ((bits_hi _ _ _ _ (by decide)).trans ((bits_hi _ _ _ _ (by decide)).trans ((bits_hi _ _ _ _ (by decide)).trans (bits_all _))))
  rw [at_decodeRow_115 w b0_7, at_decodeSystem_1 w b12_3]
  unfold decodeSystem1
  rw [b7_5, b15_5, b20_12]

theorem csrrs (csr : BitVec 12) (rs1 : BitVec 5) (rd : BitVec 5) : Statement (.csrrs csr rs1 rd) := by
  intro w h _
  have e : w = csr ++ rs1 ++ 0x2#3 ++ rd ++ 0x73#7 := (Option.some.inj h).symm
  have b0_7 : bitsAt w 0 7 = 0x73#7 := by rw [e]; exact bits_last _ _
  have b7_5 : bitsAt w 7 5 = rd := by rw [e]; exact (bits_hi _ _ _ _ (by decide)).trans (bits_last _ _)
  have b12_3 : bitsAt w 12 3 = 0x2#3 := by rw [e]; exact (bits_hi _ _ _ _ (by decide)).trans ((bits_hi _ _ _ _ (by decide)).trans (bits_last _ _))
  have b15_5 : bitsAt w 15 5 = rs1 := by rw [e]; exact (bits_hi _ _ _ _ (by decide)).trans ((bits_hi _ _ _ _ (by decide)).trans ((bits_hi _ _ _ _ (by decide)).trans (bits_last _ _)))
  have b20_12 : bitsAt w 20 12 = csr := by rw [e]; exact (bits_hi _ _ _ _ (by decide)).trans ((bits_hi _ _ _ _ (by decide)).trans ((bits_hi _ _ _ _ (by decide)).trans ((bits_hi _ _ _ _ (by decide)).trans (bits_all _))))
  rw [at_decodeRow_115 w b0_7, at_decodeSystem_2 w b12_3]
  unfold decodeSystem2
  rw [b7_5, b15_5, b20_12]

theorem csrrc (csr : BitVec 12) (rs1 : BitVec 5) (rd : BitVec 5) : Statement (.csrrc csr rs1 rd) := by
  intro w h _
  have e : w = csr ++ rs1 ++ 0x3#3 ++ rd ++ 0x73#7 := (Option.some.inj h).symm
  have b0_7 : bitsAt w 0 7 = 0x73#7 := by rw [e]; exact bits_last _ _
  have b7_5 : bitsAt w 7 5 = rd := by rw [e]; exact (bits_hi _ _ _ _ (by decide)).trans (bits_last _ _)
  have b12_3 : bitsAt w 12 3 = 0x3#3 := by rw [e]; exact (bits_hi _ _ _ _ (by decide)).trans ((bits_hi _ _ _ _ (by decide)).trans (bits_last _ _))
  have b15_5 : bitsAt w 15 5 = rs1 := by rw [e]; exact (bits_hi _ _ _ _ (by decide)).trans ((bits_hi _ _ _ _ (by decide)).trans ((bits_hi _ _ _ _ (by decide)).trans (bits_last _ _)))
  have b20_12 : bitsAt w 20 12 = csr := by rw [e]; exact (bits_hi _ _ _ _ (by decide)).trans ((bits_hi _ _ _ _ (by decide)).trans ((bits_hi _ _ _ _ (by decide)).trans ((bits_hi _ _ _ _ (by decide)).trans (bits_all _))))
  rw [at_decodeRow_115 w b0_7, at_decodeSystem_3 w b12_3]
  unfold decodeSystem3
  rw [b7_5, b15_5, b20_12]

theorem csrrwi (csr : BitVec 12) (uimm : BitVec 5) (rd : BitVec 5) : Statement (.csrrwi csr uimm rd) := by
  intro w h _
  have e : w = csr ++ uimm ++ 0x5#3 ++ rd ++ 0x73#7 := (Option.some.inj h).symm
  have b0_7 : bitsAt w 0 7 = 0x73#7 := by rw [e]; exact bits_last _ _
  have b7_5 : bitsAt w 7 5 = rd := by rw [e]; exact (bits_hi _ _ _ _ (by decide)).trans (bits_last _ _)
  have b12_3 : bitsAt w 12 3 = 0x5#3 := by rw [e]; exact (bits_hi _ _ _ _ (by decide)).trans ((bits_hi _ _ _ _ (by decide)).trans (bits_last _ _))
  have b15_5 : bitsAt w 15 5 = uimm := by rw [e]; exact (bits_hi _ _ _ _ (by decide)).trans ((bits_hi _ _ _ _ (by decide)).trans ((bits_hi _ _ _ _ (by decide)).trans (bits_last _ _)))
  have b20_12 : bitsAt w 20 12 = csr := by rw [e]; exact (bits_hi _ _ _ _ (by decide)).trans ((bits_hi _ _ _ _ (by decide)).trans ((bits_hi _ _ _ _ (by decide)).trans ((bits_hi _ _ _ _ (by decide)).trans (bits_all _))))
  rw [at_decodeRow_115 w b0_7, at_decodeSystem_5 w b12_3]
  unfold decodeSystem5
  rw [b7_5, b15_5, b20_12]

theorem csrrsi (csr : BitVec 12) (uimm : BitVec 5) (rd : BitVec 5) : Statement (.csrrsi csr uimm rd) := by
  intro w h _
  have e : w = csr ++ uimm ++ 0x6#3 ++ rd ++ 0x73#7 := (Option.some.inj h).symm
  have b0_7 : bitsAt w 0 7 = 0x73#7 := by rw [e]; exact bits_last _ _
  have b7_5 : bitsAt w 7 5 = rd := by rw [e]; exact (bits_hi _ _ _ _ (by decide)).trans (bits_last _ _)
  have b12_3 : bitsAt w 12 3 = 0x6#3 := by rw [e]; exact (bits_hi _ _ _ _ (by decide)).trans ((bits_hi _ _ _ _ (by decide)).trans (bits_last _ _))
  have b15_5 : bitsAt w 15 5 = uimm := by rw [e]; exact (bits_hi _ _ _ _ (by decide)).trans ((bits_hi _ _ _ _ (by decide)).trans ((bits_hi _ _ _ _ (by decide)).trans (bits_last _ _)))
  have b20_12 : bitsAt w 20 12 = csr := by rw [e]; exact (bits_hi _ _ _ _ (by decide)).trans ((bits_hi _ _ _ _ (by decide)).trans ((bits_hi _ _ _ _ (by decide)).trans ((bits_hi _ _ _ _ (by decide)).trans (bits_all _))))
  rw [at_decodeRow_115 w b0_7, at_decodeSystem_6 w b12_3]
  unfold decodeSystem6
  rw [b7_5, b15_5, b20_12]

theorem csrrci (csr : BitVec 12) (uimm : BitVec 5) (rd : BitVec 5) : Statement (.csrrci csr uimm rd) := by
  intro w h _
  have e : w = csr ++ uimm ++ 0x7#3 ++ rd ++ 0x73#7 := (Option.some.inj h).symm
  have b0_7 : bitsAt w 0 7 = 0x73#7 := by rw [e]; exact bits_last _ _
  have b7_5 : bitsAt w 7 5 = rd := by rw [e]; exact (bits_hi _ _ _ _ (by decide)).trans (bits_last _ _)
  have b12_3 : bitsAt w 12 3 = 0x7#3 := by rw [e]; exact (bits_hi _ _ _ _ (by decide)).trans ((bits_hi _ _ _ _ (by decide)).trans (bits_last _ _))
  have b15_5 : bitsAt w 15 5 = uimm := by rw [e]; exact (bits_hi _ _ _ _ (by decide)).trans ((bits_hi _ _ _ _ (by decide)).trans ((bits_hi _ _ _ _ (by decide)).trans (bits_last _ _)))
  have b20_12 : bitsAt w 20 12 = csr := by rw [e]; exact (bits_hi _ _ _ _ (by decide)).trans ((bits_hi _ _ _ _ (by decide)).trans ((bits_hi _ _ _ _ (by decide)).trans ((bits_hi _ _ _ _ (by decide)).trans (bits_all _))))
  rw [at_decodeRow_115 w b0_7, at_decodeSystem_7 w b12_3]
  unfold decodeSystem7
  rw [b7_5, b15_5, b20_12]

theorem lr (aq : BitVec 1) (rl : BitVec 1) (rs1 : BitVec 5) (dbl : BitVec 1) (rd : BitVec 5) : Statement (.lr aq rl rs1 dbl rd) := by
  intro w h _
  have e : w = 0x2#5 ++ aq ++ rl ++ 0x0#5 ++ rs1 ++ 0x1#2 ++ dbl ++ rd ++ 0x2F#7 := (Option.some.inj h).symm
  have b0_7 : bitsAt w 0 7 = 0x2F#7 := by rw [e]; exact bits_last _ _
  have b7_5 : bitsAt w 7 5 = rd := by rw [e]; exact (bits_hi _ _ _ _ (by decide)).trans (bits_last _ _)
  have b12_1 : bitsAt w 12 1 = dbl := by rw [e]; exact (bits_hi _ _ _ _ (by decide)).trans ((bits_hi _ _ _ _ (by decide)).trans (bits_last _ _))
  have b13_2 : bitsAt w 13 2 = 0x1#2 := by rw [e]; exact (bits_hi _ _ _ _ (by decide)).trans ((bits_hi _ _ _ _ (by decide)).trans ((bits_hi _ _ _ _ (by decide)).trans (bits_last _ _)))
  have b15_5 : bitsAt w 15 5 = rs1 := by rw [e]; exact (bits_hi _ _ _ _ (by decide)).trans ((bits_hi _ _ _ _ (by decide)).trans ((bits_hi _ _ _ _ (by decide)).trans ((bits_hi _ _ _ _ (by decide)).trans (bits_last _ _))))
  have b20_5 : bitsAt w 20 5 = 0x0#5 := by rw [e]; exact (bits_hi _ _ _ _ (by decide)).trans ((bits_hi _ _ _ _ (by decide)).trans ((bits_hi _ _ _ _ (by decide)).trans ((bits_hi _ _ _ _ (by decide)).trans ((bits_hi _ _ _ _ (by decide)).trans (bits_last _ _)))))
  have b25_1 : bitsAt w 25 1 = rl := by rw [e]; exact (bits_hi _ _ _ _ (by decide)).trans ((bits_hi _ _ _ _ (by decide)).trans ((bits_hi _ _ _ _ (by decide)).trans ((bits_hi _ _ _ _ (by decide)).trans ((bits_hi _ _ _ _ (by decide)).trans ((bits_hi _ _ _ _ (by decide)).trans (bits_last _ _))))))
  have b26_1 : bitsAt w 26 1 = aq := by rw [e]; exact (bits_hi _ _ _ _ (by decide)).trans ((bits_hi _ _ _ _ (by decide)).trans ((bits_hi _ _ _ _ (by decide)).trans ((bits_hi _ _ _ _ (by decide)).trans ((bits_hi _ _ _ _ (by decide)).trans ((bits_hi _ _ _ _ (by decide)).trans ((bits_hi _ _ _ _ (by decide)).trans (bits_last _ _)))))))
  have b27_5 : bitsAt w 27 5 = 0x2#5 := by rw [e]; exact (bits_hi _ _ _ _ (by decide)).trans ((bits_hi _ _ _ _ (by decide)).trans ((bits_hi _ _ _ _ (by decide)).trans ((bits_hi _ _ _ _ (by decide)).trans ((bits_hi _ _ _ _ (by decide)).trans ((bits_hi _ _ _ _ (by decide)).trans ((bits_hi _ _ _ _ (by decide)).trans ((bits_hi _ _ _ _ (by decide)).trans (bits_all _))))))))
  rw [at_decodeRow_47 w b0_7]
  unfold decodeAmo
  rw [b7_5, b12_1, b13_2, b15_5, b20_5, b25_1, b26_1, b27_5]
  rfl

theorem sc (aq : BitVec 1) (rl : BitVec 1) (rs2 : BitVec 5) (rs1 : BitVec 5) (dbl : BitVec 1) (rd : BitVec 5) : Statement (.sc aq rl rs2 rs1 dbl rd) := by
  intro w h _
  have e : w = 0x3#5 ++ aq ++ rl ++ rs2 ++ rs1 ++ 0x1#2 ++ dbl ++ rd ++ 0x2F#7 := (Option.some.inj h).symm
  have b0_7 : bitsAt w 0 7 = 0x2F#7 := by rw [e]; exact bits_last _ _
  have b7_5 : bitsAt w 7 5 = rd := by rw [e]; exact (bits_hi _ _ _ _ (by decide)).trans (bits_last _ _)
  have b12_1 : bitsAt w 12 1 = dbl := by rw [e]; exact (bits_hi _ _ _ _ (by decide)).trans ((bits_hi _ _ _ _ (by decide)).trans (bits_last _ _))
  have b13_2 : bitsAt w 13 2 = 0x1#2 := by rw [e]; exact (bits_hi _ _ _ _ (by decide)).trans ((bits_hi _ _ _ _ (by decide)).trans ((bits_hi _ _ _ _ (by decide)).trans (bits_last _ _)))
  have b15_5 : bitsAt w 15 5 = rs1 := by rw [e]; exact (bits_hi _ _ _ _ (by decide)).trans ((bits_hi _ _ _ _ (by decide)).trans ((bits_hi _ _ _ _ (by decide)).trans ((bits_hi _ _ _ _ (by decide)).trans (bits_last _ _))))
  have b20_5 : bitsAt w 20 5 = rs2 := by rw [e]; exact (bits_hi _ _ _ _ (by decide)).trans ((bits_hi _ _ _ _ (by decide)).trans ((bits_hi _ _ _ _ (by decide)).trans ((bits_hi _ _ _ _ (by decide)).trans ((bits_hi _ _ _ _ (by decide)).trans (bits_last _ _)))))
  have b25_1 : bitsAt w 25 1 = rl := by rw [e]; exact (bits_hi _ _ _ _ (by decide)).trans ((bits_hi _ _ _ _ (by decide)).trans ((bits_hi _ _ _ _ (by decide)).trans ((bits_hi _ _ _ _ (by decide)).trans ((bits_hi _ _ _ _ (by decide)).trans ((bits_hi _ _ _ _ (by decide)).trans (bits_last _ _))))))
  have b26_1 : bitsAt w 26 1 = aq := by rw [e]; exact (bits_hi _ _ _ _ (by decide)).trans ((bits_hi _ _ _ _ (by decide)).trans ((bits_hi _ _ _ _ (by decide)).trans ((bits_hi _ _ _ _ (by decide)).trans ((bits_hi _ _ _ _ (by decide)).trans ((bits_hi _ _ _ _ (by decide)).trans ((bits_hi _ _ _ _ (by decide)).trans (bits_last _ _)))))))
  have b27_5 : bitsAt w 27 5 = 0x3#5 := by rw [e]; exact (bits_hi _ _ _ _ (by decide)).trans ((bits_hi _ _ _ _ (by decide)).trans ((bits_hi _ _ _ _ (by decide)).trans ((bits_hi _ _ _ _ (by decide)).trans ((bits_hi _ _ _ _ (by decide)).trans ((bits_hi _ _ _ _ (by decide)).trans ((bits_hi _ _ _ _ (by decide)).trans ((bits_hi _ _ _ _ (by decide)).trans (bits_all _))))))))
  rw [at_decodeRow_47 w b0_7]
  unfold decodeAmo
  rw [b7_5, b12_1, b13_2, b15_5, b20_5, b25_1, b26_1, b27_5]
  rfl

theorem amoswap (aq : BitVec 1) (rl : BitVec 1) (rs2 : BitVec 5) (rs1 : BitVec 5) (dbl : BitVec 1) (rd : BitVec 5) : Statement (.amoswap aq rl rs2 rs1 dbl rd) := by
  intro w h _
  have e : w = 0x1#5 ++ aq ++ rl ++ rs2 ++ rs1 ++ 0x1#2 ++ dbl ++ rd ++ 0x2F#7 := (Option.some.inj h).symm
  have b0_7 : bitsAt w 0 7 = 0x2F#7 := by rw [e]; exact bits_last _ _
  have b7_5 : bitsAt w 7 5 = rd := by rw [e]; exact (bits_hi _ _ _ _ (by decide)).trans (bits_last _ _)
  have b12_1 : bitsAt w 12 1 = dbl := by rw [e]; exact (bits_hi _ _ _ _ (by decide)).trans ((bits_hi _ _ _ _ (by decide)).trans (bits_last _ _))
  have b13_2 : bitsAt w 13 2 = 0x1#2 := by rw [e]; exact (bits_hi _ _ _ _ (by decide)).trans ((bits_hi _ _ _ _ (by decide)).trans ((bits_hi _ _ _ _ (by decide)).trans (bits_last _ _)))
  have b15_5 : bitsAt w 15 5 = rs1 := by rw [e]; exact (bits_hi _ _ _ _ (by decide)).trans ((bits_hi _ _ _ _ (by decide)).trans ((bits_hi _ _ _ _ (by decide)).trans ((bits_hi _ _ _ _ (by decide)).trans (bits_last _ _))))
  have b20_5 : bitsAt w 20 5 = rs2 := by rw [e]; exact (bits_hi _ _ _ _ (by decide)).trans ((bits_hi _ _ _ _ (by decide)).trans ((bits_hi _ _ _ _ (by decide)).trans ((bits_hi _ _ _ _ (by decide)).trans ((bits_hi _ _ _ _ (by decide)).trans (bits_last _ _)))))
  have b25_1 : bitsAt w 25 1 = rl := by rw [e]; exact (bits_hi _ _ _ _ (by decide)).trans ((bits_hi _ _ _ _ (by decide)).trans ((bits_hi _ _ _ _ (by decide)).trans ((bits_hi _ _ _ _ (by decide)).trans ((bits_hi _ _ _ _ (by decide)).trans ((bits_hi _ _ _ _ (by decide)).trans (bits_last _ _))))))
  have b26_1 : bitsAt w 26 1 = aq := by rw [e]; exact (bits_hi _ _ _ _ (by decide)).trans ((bits_hi _ _ _ _ (by decide)).trans ((bits_hi _ _ _ _ (by decide)).trans ((bits_hi _ _ _ _ (by decide)).trans ((bits_hi _ _ _ _ (by decide)).trans ((bits_hi _ _ _ _ (by decide)).trans ((bits_hi _ _ _ _ (by decide)).trans (bits_last _ _)))))))
  have b27_5 : bitsAt w 27 5 = 0x1#5 := by rw [e]; exact (bits_hi _ _ _ _ (by decide)).trans ((bits_hi _ _ _ _ (by decide)).trans ((bits_hi _ _ _ _ (by decide)).trans ((bits_hi _ _ _ _ (by decide)).trans ((bits_hi _ _ _ _ (by decide)).trans ((bits_hi _ _ _ _ (by decide)).trans ((bits_hi _ _ _ _ (by decide)).trans ((bits_hi _ _ _ _ (by decide)).trans (bits_all _))))))))
  rw [at_decodeRow_47 w b0_7]
  unfold decodeAmo
  rw [b7_5, b12_1, b13_2, b15_5, b20_5, b25_1, b26_1, b27_5]
  rfl

theorem amoadd (aq : BitVec 1) (rl : BitVec 1) (rs2 : BitVec 5) (rs1 : BitVec 5) (dbl : BitVec 1) (rd : BitVec 5) : Statement (.amoadd aq rl rs2 rs1 dbl rd) := by
  intro w h _
  have e : w = 0x0#5 ++ aq ++ rl ++ rs2 ++ rs1 ++ 0x1#2 ++ dbl ++ rd ++ 0x2F#7 := (Option.some.inj h).symm
  have b0_7 : bitsAt w 0 7 = 0x2F#7 := by rw [e]; exact bits_last _ _
  have b7_5 : bitsAt w 7 5 = rd := by rw [e]; exact (bits_hi _ _ _ _ (by decide)).trans (bits_last _ _)
  have b12_1 : bitsAt w 12 1 = dbl := by rw [e]; exact (bits_hi _ _ _ _ (by decide)).trans ((bits_hi _ _ _ _ (by decide)).trans (bits_last _ _))
  have b13_2 : bitsAt w 13 2 = 0x1#2 := by rw [e]; exact (bits_hi _ _ _ _ (by decide)).trans ((bits_hi _ _ _ _ (by decide)).trans ((bits_hi _ _ _ _ (by decide)).trans (bits_last _ _)))
  have b15_5 : bitsAt w 15 5 = rs1 := by rw [e]; exact (bits_hi _ _ _ _ (by decide)).trans ((bits_hi _ _ _ _ (by decide)).trans ((bits_hi _ _ _ _ (by decide)).trans ((bits_hi _ _ _ _ (by decide)).trans (bits_last _ _))))
  have b20_5 : bitsAt w 20 5 = rs2 := by rw [e]; exact (bits_hi _ _ _ _ (by decide)).trans ((bits_hi _ _ _ _ (by decide)).trans ((bits_hi _ _ _ _ (by decide)).trans ((bits_hi _ _ _ _ (by decide)).trans ((bits_hi _ _ _ _ (by decide)).trans (bits_last _ _)))))
  have b25_1 : bitsAt w 25 1 = rl := by rw [e]; exact (bits_hi _ _ _ _ (by decide)).trans ((bits_hi _ _ _ _ (by decide)).trans ((bits_hi _ _ _ _ (by decide)).trans ((bits_hi _ _ _ _ (by decide)).trans ((bits_hi _ _ _ _ (by decide)).trans ((bits_hi _ _ _ _ (by decide)).trans (bits_last _ _))))))
  have b26_1 : bitsAt w 26 1 = aq := by rw [e]; exact (bits_hi _ _ _ _ (by decide)).trans ((bits_hi _ _ _ _ (by decide)).trans ((bits_hi _ _ _ _ (by decide)).trans ((bits_hi _ _ _ _ (by decide)).trans ((bits_hi _ _ _ _ (by decide)).trans ((bits_hi _ _ _ _ (by decide)).trans ((bits_hi _ _ _ _ (by decide)).trans (bits_last _ _)))))))
  have b27_5 : bitsAt w 27 5 = 0x0#5 := by rw [e]; exact (bits_hi _ _ _ _ (by decide)).trans ((bits_hi _ _ _ _ (by decide)).trans ((bits_hi _ _ _ _ (by decide)).trans ((bits_hi _ _ _ _ (by decide)).trans ((bits_hi _ _ _ _ (by decide)).trans ((bits_hi _ _ _ _ (by decide)).trans ((bits_hi _ _ _ _ (by decide)).trans ((bits_hi _ _ _ _ (by decide)).trans (bits_all _))))))))
  rw [at_decodeRow_47 w b0_7]
  unfold decodeAmo
  rw [b7_5, b12_1, b13_2, b15_5, b20_5, b25_1, b26_1, b27_5]
  rfl

theorem amoxor (aq : BitVec 1) (rl : BitVec 1) (rs2 : BitVec 5) (rs1 : BitVec 5) (dbl : BitVec 1) (rd : BitVec 5) : Statement (.amoxor aq rl rs2 rs1 dbl rd) := by
  intro w h _
  have e : w = 0x4#5 ++ aq ++ rl ++ rs2 ++ rs1 ++ 0x1#2 ++ dbl ++ rd ++ 0x2F#7 := (Option.some.inj h).symm
  have b0_7 : bitsAt w 0 7 = 0x2F#7 := by rw [e]; exact bits_last _ _
  have b7_5 : bitsAt w 7 5 = rd := by rw [e]; exact (bits_hi _ _ _ _ (by decide)).trans (bits_last _ _)
  have b12_1 : bitsAt w 12 1 = dbl := by rw [e]; exact (bits_hi _ _ _ _ (by decide)).trans ((bits_hi _ _ _ _ (by decide)).trans (bits_last _ _))
  have b13_2 : bitsAt w 13 2 = 0x1#2 := by rw [e]; exact (bits_hi _ _ _ _ (by decide)).trans ((bits_hi _ _ _ _ (by decide)).trans ((bits_hi _ _ _ _ (by decide)).trans (bits_last _ _)))
  have b15_5 : bitsAt w 15 5 = rs1 := by rw [e]; exact (bits_hi _ _ _ _ (by decide)).trans ((bits_hi _ _ _ _ (by decide)).trans ((bits_hi _ _ _ _ (by decide)).trans ((bits_hi _ _ _ _ (by decide)).trans (bits_last _ _))))
  have b20_5 : bitsAt w 20 5 = rs2 := by rw [e]; exact (bits_hi _ _ _ _ (by decide)).trans ((bits_hi _ _ _ _ (by decide)).trans ((bits_hi _ _ _ _ (by decide)).trans ((bits_hi _ _ _ _ (by decide)).trans ((bits_hi _ _ _ _ (by decide)).trans (bits_last _ _)))))
  have b25_1 : bitsAt w 25 1 = rl := by rw [e]; exact (bits_hi _ _ _ _ (by decide)).trans ((bits_hi _ _ _ _ (by decide)).trans ((bits_hi _ _ _ _ (by decide)).trans ((bits_hi _ _ _ _ (by decide)).trans ((bits_hi _ _ _ _ (by decide)).trans ((bits_hi _ _ _ _ (by decide)).trans (bits_last _ _))))))
  have b26_1 : bitsAt w 26 1 = aq := by rw [e]; exact (bits_hi _ _ _ _ (by decide)).trans ((bits_hi _ _ _ _ (by decide)).trans ((bits_hi _ _ _ _ (by decide)).trans ((bits_hi _ _ _ _ (by decide)).trans ((bits_hi _ _ _ _ (by decide)).trans ((bits_hi _ _ _ _ (by decide)).trans ((bits_hi _ _ _ _ (by decide)).trans (bits_last _ _)))))))
  have b27_5 : bitsAt w 27 5 = 0x4#5 := by rw [e]; exact (bits_hi _ _ _ _ (by decide)).trans ((bits_hi _ _ _ _ (by decide)).trans ((bits_hi _ _ _ _ (by decide)).trans ((bits_hi _ _ _ _ (by decide)).trans ((bits_hi _ _ _ _ (by decide)).trans ((bits_hi _ _ _ _ (by decide)).trans ((bits_hi _ _ _ _ (by decide)).trans ((bits_hi _ _ _ _ (by decide)).trans (bits_all _))))))))
  rw [at_decodeRow_47 w b0_7]
  unfold decodeAmo
  rw [b7_5, b12_1, b13_2, b15_5, b20_5, b25_1, b26_1, b27_5]
  rfl

theorem amoand (aq : BitVec 1) (rl : BitVec 1) (rs2 : BitVec 5) (rs1 : BitVec 5) (dbl : BitVec 1) (rd : BitVec 5) : Statement (.amoand aq rl rs2 rs1 dbl rd) := by
  intro w h _
  have e : w = 0xC#5 ++ aq ++ rl ++ rs2 ++ rs1 ++ 0x1#2 ++ dbl ++ rd ++ 0x2F#7 := (Option.some.inj h).symm
  have b0_7 : bitsAt w 0 7 = 0x2F#7 := by rw [e]; exact bits_last _ _
  have b7_5 : bitsAt w 7 5 = rd := by rw [e]; exact (bits_hi _ _ _ _ (by decide)).trans (bits_last _ _)
  have b12_1 : bitsAt w 12 1 = dbl := by rw [e]; exact (bits_hi _ _ _ _ (by decide)).trans ((bits_hi _ _ _ _ (by decide)).trans (bits_last _ _))
  have b13_2 : bitsAt w 13 2 = 0x1#2 := by rw [e]; exact (bits_hi _ _ _ _ (by decide)).trans ((bits_hi _ _ _ _ (by decide)).trans ((bits_hi _ _ _ _ (by decide)).trans (bits_last _ _)))
  have b15_5 : bitsAt w 15 5 = rs1 := by rw [e]; exact (bits_hi _ _ _ _ (by decide)).trans ((bits_hi _ _ _ _ (by decide)).trans ((bits_hi _ _ _ _ (by decide)).trans ((bits_hi _ _ _ _ (by decide)).trans (bits_last _ _))))
  have b20_5 : bitsAt w 20 5 = rs2 := by rw [e]; exact (bits_hi _ _ _ _ (by decide)).trans ((bits_hi _ _ _ _ (by decide)).trans ((bits_hi _ _ _ _ (by decide)).trans ((bits_hi _ _ _ _ (by decide)).trans ((bits_hi _ _ _ _ (by decide)).trans (bits_last _ _)))))
  have b25_1 : bitsAt w 25 1 = rl := by rw [e]; exact (bits_hi _ _ _ _ (by decide)).trans ((bits_hi _ _ _ _ (by decide)).trans ((bits_hi _ _ _ _ (by decide)).trans ((bits_hi _ _ _ _ (by decide)).trans ((bits_hi _ _ _ _ (by decide)).trans ((bits_hi _ _ _ _ (by decide)).trans (bits_last _ _))))))
  have b26_1 : bitsAt w 26 1 = aq := by rw [e]; exact (bits_hi _ _ _ _ (by decide)).trans ((bits_hi _ _ _ _ (by decide)).trans ((bits_hi _ _ _ _ (by decide)).trans ((bits_hi _ _ _ _ (by decide)).trans ((bits_hi _ _ _ _ (by decide)).trans ((bits_hi _ _ _ _ (by decide)).trans ((bits_hi _ _ _ _ (by decide)).trans (bits_last _ _)))))))
  have b27_5 : bitsAt w 27 5 = 0xC#5 := by rw [e]; exact (bits_hi _ _ _ _ (by decide)).trans ((bits_hi _ _ _ _ (by decide)).trans ((bits_hi _ _ _ _ (by decide)).trans ((bits_hi _ _ _ _ (by decide)).trans ((bits_hi _ _ _ _ (by decide)).trans ((bits_hi _ _ _ _ (by decide)).trans ((bits_hi _ _ _ _ (by decide)).trans ((bits_hi _ _ _ _ (by decide)).trans (bits_all _))))))))
  rw [at_decodeRow_47 w b0_7]
  unfold decodeAmo
  rw [b7_5, b12_1, b13_2, b15_5, b20_5, b25_1, b26_1, b27_5]
  rfl

theorem amoor (aq : BitVec 1) (rl : BitVec 1) (rs2 : BitVec 5) (rs1 : BitVec 5) (dbl : BitVec 1) (rd : BitVec 5) : Statement (.amoor aq rl rs2 rs1 dbl rd) := by
  intro w h _
  have e : w = 0x8#5 ++ aq ++ rl ++ rs2 ++ rs1 ++ 0x1#2 ++ dbl ++ rd ++ 0x2F#7 := (Option.some.inj h).symm
  have b0_7 : bitsAt w 0 7 = 0x2F#7 := by rw [e]; exact bits_last _ _
  have b7_5 : bitsAt w 7 5 = rd := by rw [e]; exact (bits_hi _ _ _ _ (by decide)).trans (bits_last _ _)
  have b12_1 : bitsAt w 12 1 = dbl := by rw [e]; exact (bits_hi _ _ _ _ (by decide)).trans ((bits_hi _ _ _ _ (by decide)).trans (bits_last _ _))
  have b13_2 : bitsAt w 13 2 = 0x1#2 := by rw [e]; exact (bits_hi _ _ _ _ (by decide)).trans ((bits_hi _ _ _ _ (by decide)).trans ((bits_hi _ _ _ _ (by decide)).trans (bits_last _ _)))
  have b15_5 : bitsAt w 15 5 = rs1 := by rw [e]; exact (bits_hi _ _ _ _ (by decide)).trans ((bits_hi _ _ _ _ (by decide)).trans ((bits_hi _ _ _ _ (by decide)).trans ((bits_hi _ _ _ _ (by decide)).trans (bits_last _ _))))
  have b20_5 : bitsAt w 20 5 = rs2 := by rw [e]; exact (bits_hi _ _ _ _ (by decide)).trans ((bits_hi _ _ _ _ (by decide)).trans ((bits_hi _ _ _ _ (by decide)).trans ((bits_hi _ _ _ _ (by decide)).trans ((bits_hi _ _ _ _ (by decide)).trans (bits_last _ _)))))
  have b25_1 : bitsAt w 25 1 = rl := by rw [e]; exact (bits_hi _ _ _ _ (by decide)).trans ((bits_hi _ _ _ _ (by decide)).trans ((bits_hi _ _ _ _ (by decide)).trans ((bits_hi _ _ _ _ (by decide)).trans ((bits_hi _ _ _ _ (by decide)).trans ((bits_hi _ _ _ _ (by decide)).trans (bits_last _ _))))))
  have b26_1 : bitsAt w 26 1 = aq := by rw [e]; exact (bits_hi _ _ _ _ (by decide)).trans ((bits_hi _ _ _ _ (by decide)).trans ((bits_hi _ _ _ _ (by decide)).trans ((bits_hi _ _ _ _ (by decide)).trans ((bits_hi _ _ _ _ (by decide)).trans ((bits_hi _ _ _ _ (by decide)).trans ((bits_hi _ _ _ _ (by decide)).trans (bits_last _ _)))))))
  have b27_5 : bitsAt w 27 5 = 0x8#5 := by rw [e]; exact (bits_hi _ _ _ _ (by decide)).trans ((bits_hi _ _ _ _ (by decide)).trans ((bits_hi _ _ _ _ (by decide)).trans ((bits_hi _ _ _ _ (by decide)).trans ((bits_hi _ _ _ _ (by decide)).trans ((bits_hi _ _ _ _ (by decide)).trans ((bits_hi _ _ _ _ (by decide)).trans ((bits_hi _ _ _ _ (by decide)).trans (bits_all _))))))))
  rw [at_decodeRow_47 w b0_7]
  unfold decodeAmo
  rw [b7_5, b12_1, b13_2, b15_5, b20_5, b25_1, b26_1, b27_5]
  rfl

theorem amomin (aq : BitVec 1) (rl : BitVec 1) (rs2 : BitVec 5) (rs1 : BitVec 5) (dbl : BitVec 1) (rd : BitVec 5) : Statement (.amomin aq rl rs2 rs1 dbl rd) := by
  intro w h _
  have e : w = 0x10#5 ++ aq ++ rl ++ rs2 ++ rs1 ++ 0x1#2 ++ dbl ++ rd ++ 0x2F#7 := (Option.some.inj h).symm
  have b0_7 : bitsAt w 0 7 = 0x2F#7 := by rw [e]; exact bits_last _ _
  have b7_5 : bitsAt w 7 5 = rd := by rw [e]; exact (bits_hi _ _ _ _ (by decide)).trans (bits_last _ _)
  have b12_1 : bitsAt w 12 1 = dbl := by rw [e]; exact (bits_hi _ _ _ _ (by decide)).trans ((bits_hi _ _ _ _ (by decide)).trans (bits_last _ _))
  have b13_2 : bitsAt w 13 2 = 0x1#2 := by rw [e]; exact (bits_hi _ _ _ _ (by decide)).trans ((bits_hi _ _ _ _ (by decide)).trans ((bits_hi _ _ _ _ (by decide)).trans (bits_last _ _)))
  have b15_5 : bitsAt w 15 5 = rs1 := by rw [e]; exact (bits_hi _ _ _ _ (by decide)).trans ((bits_hi _ _ _ _ (by decide)).trans ((bits_hi _ _ _ _ (by decide)).trans ((bits_hi _ _ _ _ (by decide)).trans (bits_last _ _))))
  have b20_5 : bitsAt w 20 5 = rs2 := by rw [e]; exact (bits_hi _ _ _ _ (by decide)).trans ((bits_hi _ _ _ _ (by decide)).trans ((bits_hi _ _ _ _ (by decide)).trans ((bits_hi _ _ _ _ (by decide)).trans ((bits_hi _ _ _ _ (by decide)).trans (bits_last _ _)))))
  have b25_1 : bitsAt w 25 1 = rl := by rw [e]; exact (bits_hi _ _ _ _ (by decide)).trans ((bits_hi _ _ _ _ (by decide)).trans ((bits_hi _ _ _ _ (by decide)).trans ((bits_hi _ _ _ _ (by decide)).trans ((bits_hi _ _ _ _ (by decide)).trans ((bits_hi _ _ _ _ (by decide)).trans (bits_last _ _))))))
  have b26_1 : bitsAt w 26 1 = aq := by rw [e]; exact (bits_hi _ _ _ _ (by decide)).trans ((bits_hi _ _ _ _ (by decide)).trans ((bits_hi _ _ _ _ (by decide)).trans ((bits_hi _ _ _ _ (by decide)).trans ((bits_hi _ _ _ _ (by decide)).trans ((bits_hi _ _ _ _ (by decide)).trans ((bits_hi _ _ _ _ (by decide)).trans (bits_last _ _)))))))
  have b27_5 : bitsAt w 27 5 = 0x10#5 := by rw [e]; exact (bits_hi _ _ _ _ (by decide)).trans ((bits_hi _ _ _ _ (by decide)).trans ((bits_hi _ _ _ _ (by decide)).trans ((bits_hi _ _ _ _ (by decide)).trans ((bits_hi _ _ _ _ (by decide)).trans ((bits_hi _ _ _ _ (by decide)).trans ((bits_hi _ _ _ _ (by decide)).trans ((bits_hi _ _ _ _ (by decide)).trans (bits_all _))))))))
  rw [at_decodeRow_47 w b0_7]
  unfold decodeAmo
  rw [b7_5, b12_1, b13_2, b15_5, b20_5, b25_1, b26_1, b27_5]
  rfl

theorem amomax (aq : BitVec 1) (rl : BitVec 1) (rs2 : BitVec 5) (rs1 : BitVec 5) (dbl : BitVec 1) (rd : BitVec 5) : Statement (.amomax aq rl rs2 rs1 dbl rd) := by
  intro w h _
  have e : w = 0x14#5 ++ aq ++ rl ++ rs2 ++ rs1 ++ 0x1#2 ++ dbl ++ rd ++ 0x2F#7 := (Option.some.inj h).symm
  have b0_7 : bitsAt w 0 7 = 0x2F#7 := by rw [e]; exact bits_last _ _
  have b7_5 : bitsAt w 7 5 = rd := by rw [e]; exact (bits_hi _ _ _ _ (by decide)).trans (bits_last _ _)
  have b12_1 : bitsAt w 12 1 = dbl := by rw [e]; exact (bits_hi _ _ _ _ (by decide)).trans ((bits_hi _ _ _ _ (by decide)).trans (bits_last _ _))
  have b13_2 : bitsAt w 13 2 = 0x1#2 := by rw [e]; exact (bits_hi _ _ _ _ (by decide)).trans ((bits_hi _ _ _ _ (by decide)).trans ((bits_hi _ _ _ _ (by decide)).trans (bits_last _ _)))
  have b15_5 : bitsAt w 15 5 = rs1 := by rw [e]; exact (bits_hi _ _ _ _ (by decide)).trans ((bits_hi _ _ _ _ (by decide)).trans ((bits_hi _ _ _ _ (by decide)).trans ((bits_hi _ _ _ _ (by decide)).trans (bits_last _ _))))
  have b20_5 : bitsAt w 20 5 = rs2 := by rw [e]; exact (bits_hi _ _ _ _ (by decide)).trans ((bits_hi _ _ _ _ (by decide)).trans ((bits_hi _ _ _ _ (by decide)).trans ((bits_hi _ _ _ _ (by decide)).trans ((bits_hi _ _ _ _ (by decide)).trans (bits_last _ _)))))
  have b25_1 : bitsAt w 25 1 = rl := by rw [e]; exact (bits_hi _ _ _ _ (by decide)).trans ((bits_hi _ _ _ _ (by decide)).trans ((bits_hi _ _ _ _ (by decide)).trans ((bits_hi _ _ _ _ (by decide)).trans ((bits_hi _ _ _ _ (by decide)).trans ((bits_hi _ _ _ _ (by decide)).trans (bits_last _ _))))))
  have b26_1 : bitsAt w 26 1 = aq := by rw [e]; exact (bits_hi _ _ _ _ (by decide)).trans ((bits_hi _ _ _ _ (by decide)).trans ((bits_hi _ _ _ _ (by decide)).trans ((bits_hi _ _ _ _ (by decide)).trans ((bits_hi _ _ _ _ (by decide)).trans ((bits_hi _ _ _ _ (by decide)).trans ((bits_hi _ _ _ _ (by decide)).trans (bits_last _ _)))))))
  have b27_5 : bitsAt w 27 5 = 0x14#5 := by rw [e]; exact (bits_hi _ _ _ _ (by decide)).trans ((bits_hi _ _ _ _ (by decide)).trans ((bits_hi _ _ _ _ (by decide)).trans ((bits_hi _ _ _ _ (by decide)).trans ((bits_hi _ _ _ _ (by decide)).trans ((bits_hi _ _ _ _ (by decide)).trans ((bits_hi _ _ _ _ (by decide)).trans ((bits_hi _ _ _ _ (by decide)).trans (bits_all _))))))))
  rw [at_decodeRow_47 w b0_7]
  unfold decodeAmo
  rw [b7_5, b12_1, b13_2, b15_5, b20_5, b25_1, b26_1, b27_5]
  rfl

theorem amominu (aq : BitVec 1) (rl : BitVec 1) (rs2 : BitVec 5) (rs1 : BitVec 5) (dbl : BitVec 1) (rd : BitVec 5) : Statement (.amominu aq rl rs2 rs1 dbl rd) := by
  intro w h _
  have e : w = 0x18#5 ++ aq ++ rl ++ rs2 ++ rs1 ++ 0x1#2 ++ dbl ++ rd ++ 0x2F#7 := (Option.some.inj h).symm
  have b0_7 : bitsAt w 0 7 = 0x2F#7 := by rw [e]; exact bits_last _ _
  have b7_5 : bitsAt w 7 5 = rd := by rw [e]; exact (bits_hi _ _ _ _ (by decide)).trans (bits_last _ _)
  have b12_1 : bitsAt w 12 1 = dbl := by rw [e]; exact (bits_hi _ _ _ _ (by decide)).trans ((bits_hi _ _ _ _ (by decide)).trans (bits_last _ _))
  have b13_2 : bitsAt w 13 2 = 0x1#2 := by rw [e]; exact (bits_hi _ _ _ _ (by decide)).trans ((bits_hi _ _ _ _ (by decide)).trans ((bits_hi _ _ _ _ (by decide)).trans (bits_last _ _)))
  have b15_5 : bitsAt w 15 5 = rs1 := by rw [e]; exact (bits_hi _ _ _ _ (by decide)).trans ((bits_hi _ _ _ _ (by decide)).trans ((bits_hi _ _ _ _ (by decide)).trans ((bits_hi _ _ _ _ (by decide)).trans (bits_last _ _))))
  have b20_5 : bitsAt w 20 5 = rs2 := by rw [e]; exact (bits_hi _ _ _ _ (by decide)).trans ((bits_hi _ _ _ _ (by decide)).trans ((bits_hi _ _ _ _ (by decide)).trans ((bits_hi _ _ _ _ (by decide)).trans ((bits_hi _ _ _ _ (by decide)).trans (bits_last _ _)))))
  have b25_1 : bitsAt w 25 1 = rl := by rw [e]; exact (bits_hi _ _ _ _ (by decide)).trans ((bits_hi _ _ _ _ (by decide)).trans ((bits_hi _ _ _ _ (by decide)).trans ((bits_hi _ _ _ _ (by decide)).trans ((bits_hi _ _ _ _ (by decide)).trans ((bits_hi _ _ _ _ (by decide)).trans (bits_last _ _))))))
  have b26_1 : bitsAt w 26 1 = aq := by rw [e]; exact (bits_hi _ _ _ _ (by decide)).trans ((bits_hi _ _ _ _ (by decide)).trans ((bits_hi _ _ _ _ (by decide)).trans ((bits_hi _ _ _ _ (by decide)).trans ((bits_hi _ _ _ _ (by decide)).trans ((bits_hi _ _ _ _ (by decide)).trans ((bits_hi _ _ _ _ (by decide)).trans (bits_last _ _)))))))
  have b27_5 : bitsAt w 27 5 = 0x18#5 := by rw [e]; exact (bits_hi _ _ _ _ (by decide)).trans ((bits_hi _ _ _ _ (by decide)).trans ((bits_hi _ _ _ _ (by decide)).trans ((bits_hi _ _ _ _ (by decide)).trans ((bits_hi _ _ _ _ (by decide)).trans ((bits_hi _ _ _ _ (by decide)).trans ((bits_hi _ _ _ _ (by decide)).trans ((bits_hi _ _ _ _ (by decide)).trans (bits_all _))))))))
  rw [at_decodeRow_47 w b0_7]
  unfold decodeAmo
  rw [b7_5, b12_1, b13_2, b15_5, b20_5, b25_1, b26_1, b27_5]
  rfl

theorem amomaxu (aq : BitVec 1) (rl : BitVec 1) (rs2 : BitVec 5) (rs1 : BitVec 5) (dbl : BitVec 1) (rd : BitVec 5) : Statement (.amomaxu aq rl rs2 rs1 dbl rd) := by
  intro w h _
  have e : w = 0x1C#5 ++ aq ++ rl ++ rs2 ++ rs1 ++ 0x1#2 ++ dbl ++ rd ++ 0x2F#7 := (Option.some.inj h).symm
  have b0_7 : bitsAt w 0 7 = 0x2F#7 := by rw [e]; exact bits_last _ _
  have b7_5 : bitsAt w 7 5 = rd := by rw [e]; exact (bits_hi _ _ _ _ (by decide)).trans (bits_last _ _)
  have b12_1 : bitsAt w 12 1 = dbl := by rw [e]; exact (bits_hi _ _ _ _ (by decide)).trans ((bits_hi _ _ _ _ (by decide)).trans (bits_last _ _))
  have b13_2 : bitsAt w 13 2 = 0x1#2 := by rw [e]; exact (bits_hi _ _ _ _ (by decide)).trans ((bits_hi _ _ _ _ (by decide)).trans ((bits_hi _ _ _ _ (by decide)).trans (bits_last _ _)))
  have b15_5 : bitsAt w 15 5 = rs1 := by rw [e]; exact (bits_hi _ _ _ _ (by decide)).trans ((bits_hi _ _ _ _ (by decide)).trans ((bits_hi _ _ _ _ (by decide)).trans ((bits_hi _ _ _ _ (by decide)).trans (bits_last _ _))))
  have b20_5 : bitsAt w 20 5 = rs2 := by rw [e]; exact (bits_hi _ _ _ _ (by decide)).trans ((bits_hi _ _ _ _ (by decide)).trans ((bits_hi _ _ _ _ (by decide)).trans ((bits_hi _ _ _ _ (by decide)).trans ((bits_hi _ _ _ _ (by decide)).trans (bits_last _ _)))))
  have b25_1 : bitsAt w 25 1 = rl := by rw [e]; exact (bits_hi _ _ _ _ (by decide)).trans ((bits_hi _ _ _ _ (by decide)).trans ((bits_hi _ _ _ _ (by decide)).trans ((bits_hi _ _ _ _ (by decide)).trans ((bits_hi _ _ _ _ (by decide)).trans ((bits_hi _ _ _ _ (by decide)).trans (bits_last _ _))))))
  have b26_1 : bitsAt w 26 1 = aq := by rw [e]; exact (bits_hi _ _ _ _ (by decide)).trans ((bits_hi _ _ _ _ (by decide)).trans ((bits_hi _ _ _ _ (by decide)).trans ((bits_hi _ _ _ _ (by decide)).trans ((bits_hi _ _ _ _ (by decide)).trans ((bits_hi _ _ _ _ (by decide)).trans ((bits_hi _ _ _ _ (by decide)).trans (bits_last _ _)))))))
  have b27_5 : bitsAt w 27 5 = 0x1C#5 := by rw [e]; exact (bits_hi _ _ _ _ (by decide)).trans ((bits_hi _ _ _ _ (by decide)).trans ((bits_hi _ _ _ _ (by decide)).trans ((bits_hi _ _ _ _ (by decide)).trans ((bits_hi _ _ _ _ (by decide)).trans ((bits_hi _ _ _ _ (by decide)).trans ((bits_hi _ _ _ _ (by decide)).trans ((bits_hi _ _ _ _ (by decide)).trans (bits_all _))))))))
  rw [at_decodeRow_47 w b0_7]
  unfold decodeAmo
  rw [b7_5, b12_1, b13_2, b15_5, b20_5, b25_1, b26_1, b27_5]
  rfl

theorem fstat (file : BitVec 2) (reg : BitVec 5) (rd : BitVec 5) : Statement (.fstat file reg rd) := by
  intro w h _
  have e : w = 0x0#7 ++ 0x0#3 ++ file ++ reg ++ 0x0#3 ++ rd ++ 0xB#7 := (Option.some.inj h).symm
  have b0_7 : bitsAt w 0 7 = 0xB#7 := by rw [e]; exact bits_last _ _
  have b7_5 : bitsAt w 7 5 = rd := by rw [e]; exact (bits_hi _ _ _ _ (by decide)).trans (bits_last _ _)
  have b12_3 : bitsAt w 12 3 = 0x0#3 := by rw [e]; exact (bits_hi _ _ _ _ (by decide)).trans ((bits_hi _ _ _ _ (by decide)).trans (bits_last _ _))
  have b15_5 : bitsAt w 15 5 = reg := by rw [e]; exact (bits_hi _ _ _ _ (by decide)).trans ((bits_hi _ _ _ _ (by decide)).trans ((bits_hi _ _ _ _ (by decide)).trans (bits_last _ _)))
  have b20_2 : bitsAt w 20 2 = file := by rw [e]; exact (bits_hi _ _ _ _ (by decide)).trans ((bits_hi _ _ _ _ (by decide)).trans ((bits_hi _ _ _ _ (by decide)).trans ((bits_hi _ _ _ _ (by decide)).trans (bits_last _ _))))
  have b22_3 : bitsAt w 22 3 = 0x0#3 := by rw [e]; exact (bits_hi _ _ _ _ (by decide)).trans ((bits_hi _ _ _ _ (by decide)).trans ((bits_hi _ _ _ _ (by decide)).trans ((bits_hi _ _ _ _ (by decide)).trans ((bits_hi _ _ _ _ (by decide)).trans (bits_last _ _)))))
  have b25_7 : bitsAt w 25 7 = 0x0#7 := by rw [e]; exact (bits_hi _ _ _ _ (by decide)).trans ((bits_hi _ _ _ _ (by decide)).trans ((bits_hi _ _ _ _ (by decide)).trans ((bits_hi _ _ _ _ (by decide)).trans ((bits_hi _ _ _ _ (by decide)).trans ((bits_hi _ _ _ _ (by decide)).trans (bits_all _))))))
  rw [at_decodeRow_11 w b0_7, at_decodeCustom0_0 w b12_3]
  unfold decodeCustom00
  rw [b7_5, b15_5, b20_2, b22_3, b25_7]
  rfl

theorem mvf (file : BitVec 2) (reg : BitVec 5) (rd : BitVec 5) : Statement (.mvf file reg rd) := by
  intro w h _
  have e : w = 0x1#7 ++ 0x0#3 ++ file ++ reg ++ 0x0#3 ++ rd ++ 0xB#7 := (Option.some.inj h).symm
  have b0_7 : bitsAt w 0 7 = 0xB#7 := by rw [e]; exact bits_last _ _
  have b7_5 : bitsAt w 7 5 = rd := by rw [e]; exact (bits_hi _ _ _ _ (by decide)).trans (bits_last _ _)
  have b12_3 : bitsAt w 12 3 = 0x0#3 := by rw [e]; exact (bits_hi _ _ _ _ (by decide)).trans ((bits_hi _ _ _ _ (by decide)).trans (bits_last _ _))
  have b15_5 : bitsAt w 15 5 = reg := by rw [e]; exact (bits_hi _ _ _ _ (by decide)).trans ((bits_hi _ _ _ _ (by decide)).trans ((bits_hi _ _ _ _ (by decide)).trans (bits_last _ _)))
  have b20_2 : bitsAt w 20 2 = file := by rw [e]; exact (bits_hi _ _ _ _ (by decide)).trans ((bits_hi _ _ _ _ (by decide)).trans ((bits_hi _ _ _ _ (by decide)).trans ((bits_hi _ _ _ _ (by decide)).trans (bits_last _ _))))
  have b22_3 : bitsAt w 22 3 = 0x0#3 := by rw [e]; exact (bits_hi _ _ _ _ (by decide)).trans ((bits_hi _ _ _ _ (by decide)).trans ((bits_hi _ _ _ _ (by decide)).trans ((bits_hi _ _ _ _ (by decide)).trans ((bits_hi _ _ _ _ (by decide)).trans (bits_last _ _)))))
  have b25_7 : bitsAt w 25 7 = 0x1#7 := by rw [e]; exact (bits_hi _ _ _ _ (by decide)).trans ((bits_hi _ _ _ _ (by decide)).trans ((bits_hi _ _ _ _ (by decide)).trans ((bits_hi _ _ _ _ (by decide)).trans ((bits_hi _ _ _ _ (by decide)).trans ((bits_hi _ _ _ _ (by decide)).trans (bits_all _))))))
  rw [at_decodeRow_11 w b0_7, at_decodeCustom0_0 w b12_3]
  unfold decodeCustom00
  rw [b7_5, b15_5, b20_2, b22_3, b25_7]
  rfl

theorem fwait (file : BitVec 2) (reg : BitVec 5) : Statement (.fwait file reg) := by
  intro w h _
  have e : w = 0x2#7 ++ 0x0#3 ++ file ++ reg ++ 0x0#3 ++ 0x0#5 ++ 0xB#7 := (Option.some.inj h).symm
  have b0_7 : bitsAt w 0 7 = 0xB#7 := by rw [e]; exact bits_last _ _
  have b7_5 : bitsAt w 7 5 = 0x0#5 := by rw [e]; exact (bits_hi _ _ _ _ (by decide)).trans (bits_last _ _)
  have b12_3 : bitsAt w 12 3 = 0x0#3 := by rw [e]; exact (bits_hi _ _ _ _ (by decide)).trans ((bits_hi _ _ _ _ (by decide)).trans (bits_last _ _))
  have b15_5 : bitsAt w 15 5 = reg := by rw [e]; exact (bits_hi _ _ _ _ (by decide)).trans ((bits_hi _ _ _ _ (by decide)).trans ((bits_hi _ _ _ _ (by decide)).trans (bits_last _ _)))
  have b20_2 : bitsAt w 20 2 = file := by rw [e]; exact (bits_hi _ _ _ _ (by decide)).trans ((bits_hi _ _ _ _ (by decide)).trans ((bits_hi _ _ _ _ (by decide)).trans ((bits_hi _ _ _ _ (by decide)).trans (bits_last _ _))))
  have b22_3 : bitsAt w 22 3 = 0x0#3 := by rw [e]; exact (bits_hi _ _ _ _ (by decide)).trans ((bits_hi _ _ _ _ (by decide)).trans ((bits_hi _ _ _ _ (by decide)).trans ((bits_hi _ _ _ _ (by decide)).trans ((bits_hi _ _ _ _ (by decide)).trans (bits_last _ _)))))
  have b25_7 : bitsAt w 25 7 = 0x2#7 := by rw [e]; exact (bits_hi _ _ _ _ (by decide)).trans ((bits_hi _ _ _ _ (by decide)).trans ((bits_hi _ _ _ _ (by decide)).trans ((bits_hi _ _ _ _ (by decide)).trans ((bits_hi _ _ _ _ (by decide)).trans ((bits_hi _ _ _ _ (by decide)).trans (bits_all _))))))
  rw [at_decodeRow_11 w b0_7, at_decodeCustom0_0 w b12_3]
  unfold decodeCustom00
  rw [b7_5, b15_5, b20_2, b22_3, b25_7]
  rfl

theorem waitany (rs1 : BitVec 5) (rd : BitVec 5) : Statement (.waitany rs1 rd) := by
  intro w h _
  have e : w = 0x3#7 ++ 0x0#5 ++ rs1 ++ 0x0#3 ++ rd ++ 0xB#7 := (Option.some.inj h).symm
  have b0_7 : bitsAt w 0 7 = 0xB#7 := by rw [e]; exact bits_last _ _
  have b7_5 : bitsAt w 7 5 = rd := by rw [e]; exact (bits_hi _ _ _ _ (by decide)).trans (bits_last _ _)
  have b12_3 : bitsAt w 12 3 = 0x0#3 := by rw [e]; exact (bits_hi _ _ _ _ (by decide)).trans ((bits_hi _ _ _ _ (by decide)).trans (bits_last _ _))
  have b15_5 : bitsAt w 15 5 = rs1 := by rw [e]; exact (bits_hi _ _ _ _ (by decide)).trans ((bits_hi _ _ _ _ (by decide)).trans ((bits_hi _ _ _ _ (by decide)).trans (bits_last _ _)))
  have b20_2 : bitsAt w 20 2 = 0#2 := by rw [e]; exact (bits_hi _ _ _ _ (by decide)).trans ((bits_hi _ _ _ _ (by decide)).trans ((bits_hi _ _ _ _ (by decide)).trans ((bits_hi _ _ _ _ (by decide)).trans ((bits_lo _ _ _ _ (by decide)).trans rfl))))
  have b20_5 : bitsAt w 20 5 = 0x0#5 := by rw [e]; exact (bits_hi _ _ _ _ (by decide)).trans ((bits_hi _ _ _ _ (by decide)).trans ((bits_hi _ _ _ _ (by decide)).trans ((bits_hi _ _ _ _ (by decide)).trans (bits_last _ _))))
  have b22_3 : bitsAt w 22 3 = 0#3 := by rw [e]; exact (bits_hi _ _ _ _ (by decide)).trans ((bits_hi _ _ _ _ (by decide)).trans ((bits_hi _ _ _ _ (by decide)).trans ((bits_hi _ _ _ _ (by decide)).trans ((bits_lo _ _ _ _ (by decide)).trans rfl))))
  have b25_7 : bitsAt w 25 7 = 0x3#7 := by rw [e]; exact (bits_hi _ _ _ _ (by decide)).trans ((bits_hi _ _ _ _ (by decide)).trans ((bits_hi _ _ _ _ (by decide)).trans ((bits_hi _ _ _ _ (by decide)).trans ((bits_hi _ _ _ _ (by decide)).trans (bits_all _)))))
  rw [at_decodeRow_11 w b0_7, at_decodeCustom0_0 w b12_3]
  unfold decodeCustom00
  rw [b7_5, b15_5, b20_2, b20_5, b22_3, b25_7]
  rfl

theorem fdrop (file : BitVec 2) (reg : BitVec 5) : Statement (.fdrop file reg) := by
  intro w h _
  have e : w = 0x4#7 ++ 0x0#3 ++ file ++ 0x0#5 ++ 0x0#3 ++ reg ++ 0xB#7 := (Option.some.inj h).symm
  have b0_7 : bitsAt w 0 7 = 0xB#7 := by rw [e]; exact bits_last _ _
  have b7_5 : bitsAt w 7 5 = reg := by rw [e]; exact (bits_hi _ _ _ _ (by decide)).trans (bits_last _ _)
  have b12_3 : bitsAt w 12 3 = 0x0#3 := by rw [e]; exact (bits_hi _ _ _ _ (by decide)).trans ((bits_hi _ _ _ _ (by decide)).trans (bits_last _ _))
  have b15_5 : bitsAt w 15 5 = 0x0#5 := by rw [e]; exact (bits_hi _ _ _ _ (by decide)).trans ((bits_hi _ _ _ _ (by decide)).trans ((bits_hi _ _ _ _ (by decide)).trans (bits_last _ _)))
  have b20_2 : bitsAt w 20 2 = file := by rw [e]; exact (bits_hi _ _ _ _ (by decide)).trans ((bits_hi _ _ _ _ (by decide)).trans ((bits_hi _ _ _ _ (by decide)).trans ((bits_hi _ _ _ _ (by decide)).trans (bits_last _ _))))
  have b22_3 : bitsAt w 22 3 = 0x0#3 := by rw [e]; exact (bits_hi _ _ _ _ (by decide)).trans ((bits_hi _ _ _ _ (by decide)).trans ((bits_hi _ _ _ _ (by decide)).trans ((bits_hi _ _ _ _ (by decide)).trans ((bits_hi _ _ _ _ (by decide)).trans (bits_last _ _)))))
  have b25_7 : bitsAt w 25 7 = 0x4#7 := by rw [e]; exact (bits_hi _ _ _ _ (by decide)).trans ((bits_hi _ _ _ _ (by decide)).trans ((bits_hi _ _ _ _ (by decide)).trans ((bits_hi _ _ _ _ (by decide)).trans ((bits_hi _ _ _ _ (by decide)).trans ((bits_hi _ _ _ _ (by decide)).trans (bits_all _))))))
  rw [at_decodeRow_11 w b0_7, at_decodeCustom0_0 w b12_3]
  unfold decodeCustom00
  rw [b7_5, b15_5, b20_2, b22_3, b25_7]
  rfl

theorem fpoison (file : BitVec 2) (rs1 : BitVec 5) (reg : BitVec 5) : Statement (.fpoison file rs1 reg) := by
  intro w h _
  have e : w = 0x5#7 ++ 0x0#3 ++ file ++ rs1 ++ 0x0#3 ++ reg ++ 0xB#7 := (Option.some.inj h).symm
  have b0_7 : bitsAt w 0 7 = 0xB#7 := by rw [e]; exact bits_last _ _
  have b7_5 : bitsAt w 7 5 = reg := by rw [e]; exact (bits_hi _ _ _ _ (by decide)).trans (bits_last _ _)
  have b12_3 : bitsAt w 12 3 = 0x0#3 := by rw [e]; exact (bits_hi _ _ _ _ (by decide)).trans ((bits_hi _ _ _ _ (by decide)).trans (bits_last _ _))
  have b15_5 : bitsAt w 15 5 = rs1 := by rw [e]; exact (bits_hi _ _ _ _ (by decide)).trans ((bits_hi _ _ _ _ (by decide)).trans ((bits_hi _ _ _ _ (by decide)).trans (bits_last _ _)))
  have b20_2 : bitsAt w 20 2 = file := by rw [e]; exact (bits_hi _ _ _ _ (by decide)).trans ((bits_hi _ _ _ _ (by decide)).trans ((bits_hi _ _ _ _ (by decide)).trans ((bits_hi _ _ _ _ (by decide)).trans (bits_last _ _))))
  have b22_3 : bitsAt w 22 3 = 0x0#3 := by rw [e]; exact (bits_hi _ _ _ _ (by decide)).trans ((bits_hi _ _ _ _ (by decide)).trans ((bits_hi _ _ _ _ (by decide)).trans ((bits_hi _ _ _ _ (by decide)).trans ((bits_hi _ _ _ _ (by decide)).trans (bits_last _ _)))))
  have b25_7 : bitsAt w 25 7 = 0x5#7 := by rw [e]; exact (bits_hi _ _ _ _ (by decide)).trans ((bits_hi _ _ _ _ (by decide)).trans ((bits_hi _ _ _ _ (by decide)).trans ((bits_hi _ _ _ _ (by decide)).trans ((bits_hi _ _ _ _ (by decide)).trans ((bits_hi _ _ _ _ (by decide)).trans (bits_all _))))))
  rw [at_decodeRow_11 w b0_7, at_decodeCustom0_0 w b12_3]
  unfold decodeCustom00
  rw [b7_5, b15_5, b20_2, b22_3, b25_7]
  rfl

theorem lacq (scope : BitVec 4) (rs1 : BitVec 5) (rd : BitVec 5) : Statement (.lacq scope rs1 rd) := by
  intro w h _
  have e : w = 0x0#3 ++ scope ++ 0x0#5 ++ rs1 ++ 0x1#3 ++ rd ++ 0xB#7 := (Option.some.inj h).symm
  have b0_7 : bitsAt w 0 7 = 0xB#7 := by rw [e]; exact bits_last _ _
  have b7_5 : bitsAt w 7 5 = rd := by rw [e]; exact (bits_hi _ _ _ _ (by decide)).trans (bits_last _ _)
  have b12_3 : bitsAt w 12 3 = 0x1#3 := by rw [e]; exact (bits_hi _ _ _ _ (by decide)).trans ((bits_hi _ _ _ _ (by decide)).trans (bits_last _ _))
  have b15_5 : bitsAt w 15 5 = rs1 := by rw [e]; exact (bits_hi _ _ _ _ (by decide)).trans ((bits_hi _ _ _ _ (by decide)).trans ((bits_hi _ _ _ _ (by decide)).trans (bits_last _ _)))
  have b20_5 : bitsAt w 20 5 = 0x0#5 := by rw [e]; exact (bits_hi _ _ _ _ (by decide)).trans ((bits_hi _ _ _ _ (by decide)).trans ((bits_hi _ _ _ _ (by decide)).trans ((bits_hi _ _ _ _ (by decide)).trans (bits_last _ _))))
  have b25_4 : bitsAt w 25 4 = scope := by rw [e]; exact (bits_hi _ _ _ _ (by decide)).trans ((bits_hi _ _ _ _ (by decide)).trans ((bits_hi _ _ _ _ (by decide)).trans ((bits_hi _ _ _ _ (by decide)).trans ((bits_hi _ _ _ _ (by decide)).trans (bits_last _ _)))))
  have b29_3 : bitsAt w 29 3 = 0x0#3 := by rw [e]; exact (bits_hi _ _ _ _ (by decide)).trans ((bits_hi _ _ _ _ (by decide)).trans ((bits_hi _ _ _ _ (by decide)).trans ((bits_hi _ _ _ _ (by decide)).trans ((bits_hi _ _ _ _ (by decide)).trans ((bits_hi _ _ _ _ (by decide)).trans (bits_all _))))))
  rw [at_decodeRow_11 w b0_7, at_decodeCustom0_1 w b12_3]
  unfold decodeCustom01
  rw [b7_5, b15_5, b20_5, b25_4, b29_3]
  rfl

theorem lacqw (scope : BitVec 4) (rs1 : BitVec 5) (rd : BitVec 5) : Statement (.lacqw scope rs1 rd) := by
  intro w h _
  have e : w = 0x1#3 ++ scope ++ 0x0#5 ++ rs1 ++ 0x1#3 ++ rd ++ 0xB#7 := (Option.some.inj h).symm
  have b0_7 : bitsAt w 0 7 = 0xB#7 := by rw [e]; exact bits_last _ _
  have b7_5 : bitsAt w 7 5 = rd := by rw [e]; exact (bits_hi _ _ _ _ (by decide)).trans (bits_last _ _)
  have b12_3 : bitsAt w 12 3 = 0x1#3 := by rw [e]; exact (bits_hi _ _ _ _ (by decide)).trans ((bits_hi _ _ _ _ (by decide)).trans (bits_last _ _))
  have b15_5 : bitsAt w 15 5 = rs1 := by rw [e]; exact (bits_hi _ _ _ _ (by decide)).trans ((bits_hi _ _ _ _ (by decide)).trans ((bits_hi _ _ _ _ (by decide)).trans (bits_last _ _)))
  have b20_5 : bitsAt w 20 5 = 0x0#5 := by rw [e]; exact (bits_hi _ _ _ _ (by decide)).trans ((bits_hi _ _ _ _ (by decide)).trans ((bits_hi _ _ _ _ (by decide)).trans ((bits_hi _ _ _ _ (by decide)).trans (bits_last _ _))))
  have b25_4 : bitsAt w 25 4 = scope := by rw [e]; exact (bits_hi _ _ _ _ (by decide)).trans ((bits_hi _ _ _ _ (by decide)).trans ((bits_hi _ _ _ _ (by decide)).trans ((bits_hi _ _ _ _ (by decide)).trans ((bits_hi _ _ _ _ (by decide)).trans (bits_last _ _)))))
  have b29_3 : bitsAt w 29 3 = 0x1#3 := by rw [e]; exact (bits_hi _ _ _ _ (by decide)).trans ((bits_hi _ _ _ _ (by decide)).trans ((bits_hi _ _ _ _ (by decide)).trans ((bits_hi _ _ _ _ (by decide)).trans ((bits_hi _ _ _ _ (by decide)).trans ((bits_hi _ _ _ _ (by decide)).trans (bits_all _))))))
  rw [at_decodeRow_11 w b0_7, at_decodeCustom0_1 w b12_3]
  unfold decodeCustom01
  rw [b7_5, b15_5, b20_5, b25_4, b29_3]
  rfl

theorem srel (scope : BitVec 4) (rs2 : BitVec 5) (rs1 : BitVec 5) : Statement (.srel scope rs2 rs1) := by
  intro w h _
  have e : w = 0x2#3 ++ scope ++ rs2 ++ rs1 ++ 0x1#3 ++ 0x0#5 ++ 0xB#7 := (Option.some.inj h).symm
  have b0_7 : bitsAt w 0 7 = 0xB#7 := by rw [e]; exact bits_last _ _
  have b7_5 : bitsAt w 7 5 = 0x0#5 := by rw [e]; exact (bits_hi _ _ _ _ (by decide)).trans (bits_last _ _)
  have b12_3 : bitsAt w 12 3 = 0x1#3 := by rw [e]; exact (bits_hi _ _ _ _ (by decide)).trans ((bits_hi _ _ _ _ (by decide)).trans (bits_last _ _))
  have b15_5 : bitsAt w 15 5 = rs1 := by rw [e]; exact (bits_hi _ _ _ _ (by decide)).trans ((bits_hi _ _ _ _ (by decide)).trans ((bits_hi _ _ _ _ (by decide)).trans (bits_last _ _)))
  have b20_5 : bitsAt w 20 5 = rs2 := by rw [e]; exact (bits_hi _ _ _ _ (by decide)).trans ((bits_hi _ _ _ _ (by decide)).trans ((bits_hi _ _ _ _ (by decide)).trans ((bits_hi _ _ _ _ (by decide)).trans (bits_last _ _))))
  have b25_4 : bitsAt w 25 4 = scope := by rw [e]; exact (bits_hi _ _ _ _ (by decide)).trans ((bits_hi _ _ _ _ (by decide)).trans ((bits_hi _ _ _ _ (by decide)).trans ((bits_hi _ _ _ _ (by decide)).trans ((bits_hi _ _ _ _ (by decide)).trans (bits_last _ _)))))
  have b29_3 : bitsAt w 29 3 = 0x2#3 := by rw [e]; exact (bits_hi _ _ _ _ (by decide)).trans ((bits_hi _ _ _ _ (by decide)).trans ((bits_hi _ _ _ _ (by decide)).trans ((bits_hi _ _ _ _ (by decide)).trans ((bits_hi _ _ _ _ (by decide)).trans ((bits_hi _ _ _ _ (by decide)).trans (bits_all _))))))
  rw [at_decodeRow_11 w b0_7, at_decodeCustom0_1 w b12_3]
  unfold decodeCustom01
  rw [b7_5, b15_5, b20_5, b25_4, b29_3]
  rfl

theorem srelw (scope : BitVec 4) (rs2 : BitVec 5) (rs1 : BitVec 5) : Statement (.srelw scope rs2 rs1) := by
  intro w h _
  have e : w = 0x3#3 ++ scope ++ rs2 ++ rs1 ++ 0x1#3 ++ 0x0#5 ++ 0xB#7 := (Option.some.inj h).symm
  have b0_7 : bitsAt w 0 7 = 0xB#7 := by rw [e]; exact bits_last _ _
  have b7_5 : bitsAt w 7 5 = 0x0#5 := by rw [e]; exact (bits_hi _ _ _ _ (by decide)).trans (bits_last _ _)
  have b12_3 : bitsAt w 12 3 = 0x1#3 := by rw [e]; exact (bits_hi _ _ _ _ (by decide)).trans ((bits_hi _ _ _ _ (by decide)).trans (bits_last _ _))
  have b15_5 : bitsAt w 15 5 = rs1 := by rw [e]; exact (bits_hi _ _ _ _ (by decide)).trans ((bits_hi _ _ _ _ (by decide)).trans ((bits_hi _ _ _ _ (by decide)).trans (bits_last _ _)))
  have b20_5 : bitsAt w 20 5 = rs2 := by rw [e]; exact (bits_hi _ _ _ _ (by decide)).trans ((bits_hi _ _ _ _ (by decide)).trans ((bits_hi _ _ _ _ (by decide)).trans ((bits_hi _ _ _ _ (by decide)).trans (bits_last _ _))))
  have b25_4 : bitsAt w 25 4 = scope := by rw [e]; exact (bits_hi _ _ _ _ (by decide)).trans ((bits_hi _ _ _ _ (by decide)).trans ((bits_hi _ _ _ _ (by decide)).trans ((bits_hi _ _ _ _ (by decide)).trans ((bits_hi _ _ _ _ (by decide)).trans (bits_last _ _)))))
  have b29_3 : bitsAt w 29 3 = 0x3#3 := by rw [e]; exact (bits_hi _ _ _ _ (by decide)).trans ((bits_hi _ _ _ _ (by decide)).trans ((bits_hi _ _ _ _ (by decide)).trans ((bits_hi _ _ _ _ (by decide)).trans ((bits_hi _ _ _ _ (by decide)).trans ((bits_hi _ _ _ _ (by decide)).trans (bits_all _))))))
  rw [at_decodeRow_11 w b0_7, at_decodeCustom0_1 w b12_3]
  unfold decodeCustom01
  rw [b7_5, b15_5, b20_5, b25_4, b29_3]
  rfl

theorem fences (scope : BitVec 4) (succ : BitVec 4) (pred : BitVec 4) : Statement (.fences scope succ pred) := by
  intro w h _
  have e : w = 0x4#3 ++ scope ++ 0x0#1 ++ succ ++ 0x0#1 ++ pred ++ 0x1#3 ++ 0x0#5 ++ 0xB#7 := (Option.some.inj h).symm
  have b0_7 : bitsAt w 0 7 = 0xB#7 := by rw [e]; exact bits_last _ _
  have b7_5 : bitsAt w 7 5 = 0x0#5 := by rw [e]; exact (bits_hi _ _ _ _ (by decide)).trans (bits_last _ _)
  have b12_3 : bitsAt w 12 3 = 0x1#3 := by rw [e]; exact (bits_hi _ _ _ _ (by decide)).trans ((bits_hi _ _ _ _ (by decide)).trans (bits_last _ _))
  have b15_4 : bitsAt w 15 4 = pred := by rw [e]; exact (bits_hi _ _ _ _ (by decide)).trans ((bits_hi _ _ _ _ (by decide)).trans ((bits_hi _ _ _ _ (by decide)).trans (bits_last _ _)))
  have b19_1 : bitsAt w 19 1 = 0x0#1 := by rw [e]; exact (bits_hi _ _ _ _ (by decide)).trans ((bits_hi _ _ _ _ (by decide)).trans ((bits_hi _ _ _ _ (by decide)).trans ((bits_hi _ _ _ _ (by decide)).trans (bits_last _ _))))
  have b20_4 : bitsAt w 20 4 = succ := by rw [e]; exact (bits_hi _ _ _ _ (by decide)).trans ((bits_hi _ _ _ _ (by decide)).trans ((bits_hi _ _ _ _ (by decide)).trans ((bits_hi _ _ _ _ (by decide)).trans ((bits_hi _ _ _ _ (by decide)).trans (bits_last _ _)))))
  have b24_1 : bitsAt w 24 1 = 0x0#1 := by rw [e]; exact (bits_hi _ _ _ _ (by decide)).trans ((bits_hi _ _ _ _ (by decide)).trans ((bits_hi _ _ _ _ (by decide)).trans ((bits_hi _ _ _ _ (by decide)).trans ((bits_hi _ _ _ _ (by decide)).trans ((bits_hi _ _ _ _ (by decide)).trans (bits_last _ _))))))
  have b25_4 : bitsAt w 25 4 = scope := by rw [e]; exact (bits_hi _ _ _ _ (by decide)).trans ((bits_hi _ _ _ _ (by decide)).trans ((bits_hi _ _ _ _ (by decide)).trans ((bits_hi _ _ _ _ (by decide)).trans ((bits_hi _ _ _ _ (by decide)).trans ((bits_hi _ _ _ _ (by decide)).trans ((bits_hi _ _ _ _ (by decide)).trans (bits_last _ _)))))))
  have b29_3 : bitsAt w 29 3 = 0x4#3 := by rw [e]; exact (bits_hi _ _ _ _ (by decide)).trans ((bits_hi _ _ _ _ (by decide)).trans ((bits_hi _ _ _ _ (by decide)).trans ((bits_hi _ _ _ _ (by decide)).trans ((bits_hi _ _ _ _ (by decide)).trans ((bits_hi _ _ _ _ (by decide)).trans ((bits_hi _ _ _ _ (by decide)).trans ((bits_hi _ _ _ _ (by decide)).trans (bits_all _))))))))
  rw [at_decodeRow_11 w b0_7, at_decodeCustom0_1 w b12_3]
  unfold decodeCustom01
  rw [b7_5, b15_4, b19_1, b20_4, b24_1, b25_4, b29_3]
  rfl

theorem owne (rs1 : BitVec 5) : Statement (.owne rs1) := by
  intro w h _
  have e : w = 0x0#7 ++ 0x0#5 ++ rs1 ++ 0x2#3 ++ 0x0#5 ++ 0xB#7 := (Option.some.inj h).symm
  have b0_7 : bitsAt w 0 7 = 0xB#7 := by rw [e]; exact bits_last _ _
  have b7_5 : bitsAt w 7 5 = 0x0#5 := by rw [e]; exact (bits_hi _ _ _ _ (by decide)).trans (bits_last _ _)
  have b12_3 : bitsAt w 12 3 = 0x2#3 := by rw [e]; exact (bits_hi _ _ _ _ (by decide)).trans ((bits_hi _ _ _ _ (by decide)).trans (bits_last _ _))
  have b15_5 : bitsAt w 15 5 = rs1 := by rw [e]; exact (bits_hi _ _ _ _ (by decide)).trans ((bits_hi _ _ _ _ (by decide)).trans ((bits_hi _ _ _ _ (by decide)).trans (bits_last _ _)))
  have b20_5 : bitsAt w 20 5 = 0x0#5 := by rw [e]; exact (bits_hi _ _ _ _ (by decide)).trans ((bits_hi _ _ _ _ (by decide)).trans ((bits_hi _ _ _ _ (by decide)).trans ((bits_hi _ _ _ _ (by decide)).trans (bits_last _ _))))
  have b25_7 : bitsAt w 25 7 = 0x0#7 := by rw [e]; exact (bits_hi _ _ _ _ (by decide)).trans ((bits_hi _ _ _ _ (by decide)).trans ((bits_hi _ _ _ _ (by decide)).trans ((bits_hi _ _ _ _ (by decide)).trans ((bits_hi _ _ _ _ (by decide)).trans (bits_all _)))))
  rw [at_decodeRow_11 w b0_7, at_decodeCustom0_2 w b12_3]
  unfold decodeCustom02
  rw [b7_5, b15_5, b20_5, b25_7]
  rfl

theorem ownt (rs1 : BitVec 5) : Statement (.ownt rs1) := by
  intro w h _
  have e : w = 0x1#7 ++ 0x0#5 ++ rs1 ++ 0x2#3 ++ 0x0#5 ++ 0xB#7 := (Option.some.inj h).symm
  have b0_7 : bitsAt w 0 7 = 0xB#7 := by rw [e]; exact bits_last _ _
  have b7_5 : bitsAt w 7 5 = 0x0#5 := by rw [e]; exact (bits_hi _ _ _ _ (by decide)).trans (bits_last _ _)
  have b12_3 : bitsAt w 12 3 = 0x2#3 := by rw [e]; exact (bits_hi _ _ _ _ (by decide)).trans ((bits_hi _ _ _ _ (by decide)).trans (bits_last _ _))
  have b15_5 : bitsAt w 15 5 = rs1 := by rw [e]; exact (bits_hi _ _ _ _ (by decide)).trans ((bits_hi _ _ _ _ (by decide)).trans ((bits_hi _ _ _ _ (by decide)).trans (bits_last _ _)))
  have b20_5 : bitsAt w 20 5 = 0x0#5 := by rw [e]; exact (bits_hi _ _ _ _ (by decide)).trans ((bits_hi _ _ _ _ (by decide)).trans ((bits_hi _ _ _ _ (by decide)).trans ((bits_hi _ _ _ _ (by decide)).trans (bits_last _ _))))
  have b25_7 : bitsAt w 25 7 = 0x1#7 := by rw [e]; exact (bits_hi _ _ _ _ (by decide)).trans ((bits_hi _ _ _ _ (by decide)).trans ((bits_hi _ _ _ _ (by decide)).trans ((bits_hi _ _ _ _ (by decide)).trans ((bits_hi _ _ _ _ (by decide)).trans (bits_all _)))))
  rw [at_decodeRow_11 w b0_7, at_decodeCustom0_2 w b12_3]
  unfold decodeCustom02
  rw [b7_5, b15_5, b20_5, b25_7]
  rfl

theorem ownq (rs1 : BitVec 5) (rd : BitVec 5) : Statement (.ownq rs1 rd) := by
  intro w h _
  have e : w = 0x2#7 ++ 0x0#5 ++ rs1 ++ 0x2#3 ++ rd ++ 0xB#7 := (Option.some.inj h).symm
  have b0_7 : bitsAt w 0 7 = 0xB#7 := by rw [e]; exact bits_last _ _
  have b7_5 : bitsAt w 7 5 = rd := by rw [e]; exact (bits_hi _ _ _ _ (by decide)).trans (bits_last _ _)
  have b12_3 : bitsAt w 12 3 = 0x2#3 := by rw [e]; exact (bits_hi _ _ _ _ (by decide)).trans ((bits_hi _ _ _ _ (by decide)).trans (bits_last _ _))
  have b15_5 : bitsAt w 15 5 = rs1 := by rw [e]; exact (bits_hi _ _ _ _ (by decide)).trans ((bits_hi _ _ _ _ (by decide)).trans ((bits_hi _ _ _ _ (by decide)).trans (bits_last _ _)))
  have b20_5 : bitsAt w 20 5 = 0x0#5 := by rw [e]; exact (bits_hi _ _ _ _ (by decide)).trans ((bits_hi _ _ _ _ (by decide)).trans ((bits_hi _ _ _ _ (by decide)).trans ((bits_hi _ _ _ _ (by decide)).trans (bits_last _ _))))
  have b25_7 : bitsAt w 25 7 = 0x2#7 := by rw [e]; exact (bits_hi _ _ _ _ (by decide)).trans ((bits_hi _ _ _ _ (by decide)).trans ((bits_hi _ _ _ _ (by decide)).trans ((bits_hi _ _ _ _ (by decide)).trans ((bits_hi _ _ _ _ (by decide)).trans (bits_all _)))))
  rw [at_decodeRow_11 w b0_7, at_decodeCustom0_2 w b12_3]
  unfold decodeCustom02
  rw [b7_5, b15_5, b20_5, b25_7]
  rfl

theorem binit (barHi : BitVec 1) (rs1 : BitVec 5) (bar : BitVec 5) : Statement (.binit barHi rs1 bar) := by
  intro w h _
  have e : w = 0x0#6 ++ barHi ++ 0x0#5 ++ rs1 ++ 0x3#3 ++ bar ++ 0xB#7 := (Option.some.inj h).symm
  have b0_7 : bitsAt w 0 7 = 0xB#7 := by rw [e]; exact bits_last _ _
  have b7_5 : bitsAt w 7 5 = bar := by rw [e]; exact (bits_hi _ _ _ _ (by decide)).trans (bits_last _ _)
  have b12_3 : bitsAt w 12 3 = 0x3#3 := by rw [e]; exact (bits_hi _ _ _ _ (by decide)).trans ((bits_hi _ _ _ _ (by decide)).trans (bits_last _ _))
  have b15_5 : bitsAt w 15 5 = rs1 := by rw [e]; exact (bits_hi _ _ _ _ (by decide)).trans ((bits_hi _ _ _ _ (by decide)).trans ((bits_hi _ _ _ _ (by decide)).trans (bits_last _ _)))
  have b20_5 : bitsAt w 20 5 = 0x0#5 := by rw [e]; exact (bits_hi _ _ _ _ (by decide)).trans ((bits_hi _ _ _ _ (by decide)).trans ((bits_hi _ _ _ _ (by decide)).trans ((bits_hi _ _ _ _ (by decide)).trans (bits_last _ _))))
  have b25_1 : bitsAt w 25 1 = barHi := by rw [e]; exact (bits_hi _ _ _ _ (by decide)).trans ((bits_hi _ _ _ _ (by decide)).trans ((bits_hi _ _ _ _ (by decide)).trans ((bits_hi _ _ _ _ (by decide)).trans ((bits_hi _ _ _ _ (by decide)).trans (bits_last _ _)))))
  have b26_6 : bitsAt w 26 6 = 0x0#6 := by rw [e]; exact (bits_hi _ _ _ _ (by decide)).trans ((bits_hi _ _ _ _ (by decide)).trans ((bits_hi _ _ _ _ (by decide)).trans ((bits_hi _ _ _ _ (by decide)).trans ((bits_hi _ _ _ _ (by decide)).trans ((bits_hi _ _ _ _ (by decide)).trans (bits_all _))))))
  rw [at_decodeRow_11 w b0_7, at_decodeCustom0_3 w b12_3]
  unfold decodeCustom03
  rw [b7_5, b15_5, b20_5, b25_1, b26_6]
  rfl

theorem barv (barHi : BitVec 1) (bar : BitVec 5) : Statement (.barv barHi bar) := by
  intro w h _
  have e : w = 0x1#6 ++ barHi ++ 0x0#5 ++ 0x0#5 ++ 0x3#3 ++ bar ++ 0xB#7 := (Option.some.inj h).symm
  have b0_7 : bitsAt w 0 7 = 0xB#7 := by rw [e]; exact bits_last _ _
  have b7_5 : bitsAt w 7 5 = bar := by rw [e]; exact (bits_hi _ _ _ _ (by decide)).trans (bits_last _ _)
  have b12_3 : bitsAt w 12 3 = 0x3#3 := by rw [e]; exact (bits_hi _ _ _ _ (by decide)).trans ((bits_hi _ _ _ _ (by decide)).trans (bits_last _ _))
  have b15_5 : bitsAt w 15 5 = 0x0#5 := by rw [e]; exact (bits_hi _ _ _ _ (by decide)).trans ((bits_hi _ _ _ _ (by decide)).trans ((bits_hi _ _ _ _ (by decide)).trans (bits_last _ _)))
  have b20_5 : bitsAt w 20 5 = 0x0#5 := by rw [e]; exact (bits_hi _ _ _ _ (by decide)).trans ((bits_hi _ _ _ _ (by decide)).trans ((bits_hi _ _ _ _ (by decide)).trans ((bits_hi _ _ _ _ (by decide)).trans (bits_last _ _))))
  have b25_1 : bitsAt w 25 1 = barHi := by rw [e]; exact (bits_hi _ _ _ _ (by decide)).trans ((bits_hi _ _ _ _ (by decide)).trans ((bits_hi _ _ _ _ (by decide)).trans ((bits_hi _ _ _ _ (by decide)).trans ((bits_hi _ _ _ _ (by decide)).trans (bits_last _ _)))))
  have b26_6 : bitsAt w 26 6 = 0x1#6 := by rw [e]; exact (bits_hi _ _ _ _ (by decide)).trans ((bits_hi _ _ _ _ (by decide)).trans ((bits_hi _ _ _ _ (by decide)).trans ((bits_hi _ _ _ _ (by decide)).trans ((bits_hi _ _ _ _ (by decide)).trans ((bits_hi _ _ _ _ (by decide)).trans (bits_all _))))))
  rw [at_decodeRow_11 w b0_7, at_decodeCustom0_3 w b12_3]
  unfold decodeCustom03
  rw [b7_5, b15_5, b20_5, b25_1, b26_6]
  rfl

theorem bexp (barHi : BitVec 1) (rs1 : BitVec 5) (bar : BitVec 5) : Statement (.bexp barHi rs1 bar) := by
  intro w h _
  have e : w = 0x2#6 ++ barHi ++ 0x0#5 ++ rs1 ++ 0x3#3 ++ bar ++ 0xB#7 := (Option.some.inj h).symm
  have b0_7 : bitsAt w 0 7 = 0xB#7 := by rw [e]; exact bits_last _ _
  have b7_5 : bitsAt w 7 5 = bar := by rw [e]; exact (bits_hi _ _ _ _ (by decide)).trans (bits_last _ _)
  have b12_3 : bitsAt w 12 3 = 0x3#3 := by rw [e]; exact (bits_hi _ _ _ _ (by decide)).trans ((bits_hi _ _ _ _ (by decide)).trans (bits_last _ _))
  have b15_5 : bitsAt w 15 5 = rs1 := by rw [e]; exact (bits_hi _ _ _ _ (by decide)).trans ((bits_hi _ _ _ _ (by decide)).trans ((bits_hi _ _ _ _ (by decide)).trans (bits_last _ _)))
  have b20_5 : bitsAt w 20 5 = 0x0#5 := by rw [e]; exact (bits_hi _ _ _ _ (by decide)).trans ((bits_hi _ _ _ _ (by decide)).trans ((bits_hi _ _ _ _ (by decide)).trans ((bits_hi _ _ _ _ (by decide)).trans (bits_last _ _))))
  have b25_1 : bitsAt w 25 1 = barHi := by rw [e]; exact (bits_hi _ _ _ _ (by decide)).trans ((bits_hi _ _ _ _ (by decide)).trans ((bits_hi _ _ _ _ (by decide)).trans ((bits_hi _ _ _ _ (by decide)).trans ((bits_hi _ _ _ _ (by decide)).trans (bits_last _ _)))))
  have b26_6 : bitsAt w 26 6 = 0x2#6 := by rw [e]; exact (bits_hi _ _ _ _ (by decide)).trans ((bits_hi _ _ _ _ (by decide)).trans ((bits_hi _ _ _ _ (by decide)).trans ((bits_hi _ _ _ _ (by decide)).trans ((bits_hi _ _ _ _ (by decide)).trans ((bits_hi _ _ _ _ (by decide)).trans (bits_all _))))))
  rw [at_decodeRow_11 w b0_7, at_decodeCustom0_3 w b12_3]
  unfold decodeCustom03
  rw [b7_5, b15_5, b20_5, b25_1, b26_6]
  rfl

theorem bwait (barHi : BitVec 1) (rd : BitVec 5) (phase : BitVec 1) (bar : BitVec 5) : Statement (.bwait barHi rd phase bar) := by
  intro w h _
  have e : w = 0x3#6 ++ barHi ++ rd ++ 0x0#4 ++ phase ++ 0x3#3 ++ bar ++ 0xB#7 := (Option.some.inj h).symm
  have b0_7 : bitsAt w 0 7 = 0xB#7 := by rw [e]; exact bits_last _ _
  have b7_5 : bitsAt w 7 5 = bar := by rw [e]; exact (bits_hi _ _ _ _ (by decide)).trans (bits_last _ _)
  have b12_3 : bitsAt w 12 3 = 0x3#3 := by rw [e]; exact (bits_hi _ _ _ _ (by decide)).trans ((bits_hi _ _ _ _ (by decide)).trans (bits_last _ _))
  have b15_1 : bitsAt w 15 1 = phase := by rw [e]; exact (bits_hi _ _ _ _ (by decide)).trans ((bits_hi _ _ _ _ (by decide)).trans ((bits_hi _ _ _ _ (by decide)).trans (bits_last _ _)))
  have b16_4 : bitsAt w 16 4 = 0x0#4 := by rw [e]; exact (bits_hi _ _ _ _ (by decide)).trans ((bits_hi _ _ _ _ (by decide)).trans ((bits_hi _ _ _ _ (by decide)).trans ((bits_hi _ _ _ _ (by decide)).trans (bits_last _ _))))
  have b20_5 : bitsAt w 20 5 = rd := by rw [e]; exact (bits_hi _ _ _ _ (by decide)).trans ((bits_hi _ _ _ _ (by decide)).trans ((bits_hi _ _ _ _ (by decide)).trans ((bits_hi _ _ _ _ (by decide)).trans ((bits_hi _ _ _ _ (by decide)).trans (bits_last _ _)))))
  have b25_1 : bitsAt w 25 1 = barHi := by rw [e]; exact (bits_hi _ _ _ _ (by decide)).trans ((bits_hi _ _ _ _ (by decide)).trans ((bits_hi _ _ _ _ (by decide)).trans ((bits_hi _ _ _ _ (by decide)).trans ((bits_hi _ _ _ _ (by decide)).trans ((bits_hi _ _ _ _ (by decide)).trans (bits_last _ _))))))
  have b26_6 : bitsAt w 26 6 = 0x3#6 := by rw [e]; exact (bits_hi _ _ _ _ (by decide)).trans ((bits_hi _ _ _ _ (by decide)).trans ((bits_hi _ _ _ _ (by decide)).trans ((bits_hi _ _ _ _ (by decide)).trans ((bits_hi _ _ _ _ (by decide)).trans ((bits_hi _ _ _ _ (by decide)).trans ((bits_hi _ _ _ _ (by decide)).trans (bits_all _)))))))
  rw [at_decodeRow_11 w b0_7, at_decodeCustom0_3 w b12_3]
  unfold decodeCustom03
  rw [b7_5, b15_1, b16_4, b20_5, b25_1, b26_6]
  rfl

theorem bquery (barHi : BitVec 1) (rd : BitVec 5) (bar : BitVec 5) : Statement (.bquery barHi rd bar) := by
  intro w h _
  have e : w = 0x4#6 ++ barHi ++ rd ++ 0x0#5 ++ 0x3#3 ++ bar ++ 0xB#7 := (Option.some.inj h).symm
  have b0_7 : bitsAt w 0 7 = 0xB#7 := by rw [e]; exact bits_last _ _
  have b7_5 : bitsAt w 7 5 = bar := by rw [e]; exact (bits_hi _ _ _ _ (by decide)).trans (bits_last _ _)
  have b12_3 : bitsAt w 12 3 = 0x3#3 := by rw [e]; exact (bits_hi _ _ _ _ (by decide)).trans ((bits_hi _ _ _ _ (by decide)).trans (bits_last _ _))
  have b15_1 : bitsAt w 15 1 = 0#1 := by rw [e]; exact (bits_hi _ _ _ _ (by decide)).trans ((bits_hi _ _ _ _ (by decide)).trans ((bits_hi _ _ _ _ (by decide)).trans ((bits_lo _ _ _ _ (by decide)).trans rfl)))
  have b15_5 : bitsAt w 15 5 = 0x0#5 := by rw [e]; exact (bits_hi _ _ _ _ (by decide)).trans ((bits_hi _ _ _ _ (by decide)).trans ((bits_hi _ _ _ _ (by decide)).trans (bits_last _ _)))
  have b16_4 : bitsAt w 16 4 = 0#4 := by rw [e]; exact (bits_hi _ _ _ _ (by decide)).trans ((bits_hi _ _ _ _ (by decide)).trans ((bits_hi _ _ _ _ (by decide)).trans ((bits_lo _ _ _ _ (by decide)).trans rfl)))
  have b20_5 : bitsAt w 20 5 = rd := by rw [e]; exact (bits_hi _ _ _ _ (by decide)).trans ((bits_hi _ _ _ _ (by decide)).trans ((bits_hi _ _ _ _ (by decide)).trans ((bits_hi _ _ _ _ (by decide)).trans (bits_last _ _))))
  have b25_1 : bitsAt w 25 1 = barHi := by rw [e]; exact (bits_hi _ _ _ _ (by decide)).trans ((bits_hi _ _ _ _ (by decide)).trans ((bits_hi _ _ _ _ (by decide)).trans ((bits_hi _ _ _ _ (by decide)).trans ((bits_hi _ _ _ _ (by decide)).trans (bits_last _ _)))))
  have b26_6 : bitsAt w 26 6 = 0x4#6 := by rw [e]; exact (bits_hi _ _ _ _ (by decide)).trans ((bits_hi _ _ _ _ (by decide)).trans ((bits_hi _ _ _ _ (by decide)).trans ((bits_hi _ _ _ _ (by decide)).trans ((bits_hi _ _ _ _ (by decide)).trans ((bits_hi _ _ _ _ (by decide)).trans (bits_all _))))))
  rw [at_decodeRow_11 w b0_7, at_decodeCustom0_3 w b12_3]
  unfold decodeCustom03
  rw [b7_5, b15_1, b15_5, b16_4, b20_5, b25_1, b26_6]
  rfl

theorem qpush (rs2 : BitVec 5) (q : BitVec 3) : Statement (.qpush rs2 q) := by
  intro w h _
  have e : w = 0x0#7 ++ rs2 ++ 0x0#2 ++ q ++ 0x4#3 ++ 0x0#5 ++ 0xB#7 := (Option.some.inj h).symm
  have b0_7 : bitsAt w 0 7 = 0xB#7 := by rw [e]; exact bits_last _ _
  have b7_5 : bitsAt w 7 5 = 0x0#5 := by rw [e]; exact (bits_hi _ _ _ _ (by decide)).trans (bits_last _ _)
  have b12_3 : bitsAt w 12 3 = 0x4#3 := by rw [e]; exact (bits_hi _ _ _ _ (by decide)).trans ((bits_hi _ _ _ _ (by decide)).trans (bits_last _ _))
  have b15_3 : bitsAt w 15 3 = q := by rw [e]; exact (bits_hi _ _ _ _ (by decide)).trans ((bits_hi _ _ _ _ (by decide)).trans ((bits_hi _ _ _ _ (by decide)).trans (bits_last _ _)))
  have b18_2 : bitsAt w 18 2 = 0x0#2 := by rw [e]; exact (bits_hi _ _ _ _ (by decide)).trans ((bits_hi _ _ _ _ (by decide)).trans ((bits_hi _ _ _ _ (by decide)).trans ((bits_hi _ _ _ _ (by decide)).trans (bits_last _ _))))
  have b20_5 : bitsAt w 20 5 = rs2 := by rw [e]; exact (bits_hi _ _ _ _ (by decide)).trans ((bits_hi _ _ _ _ (by decide)).trans ((bits_hi _ _ _ _ (by decide)).trans ((bits_hi _ _ _ _ (by decide)).trans ((bits_hi _ _ _ _ (by decide)).trans (bits_last _ _)))))
  have b25_7 : bitsAt w 25 7 = 0x0#7 := by rw [e]; exact (bits_hi _ _ _ _ (by decide)).trans ((bits_hi _ _ _ _ (by decide)).trans ((bits_hi _ _ _ _ (by decide)).trans ((bits_hi _ _ _ _ (by decide)).trans ((bits_hi _ _ _ _ (by decide)).trans ((bits_hi _ _ _ _ (by decide)).trans (bits_all _))))))
  rw [at_decodeRow_11 w b0_7, at_decodeCustom0_4 w b12_3]
  unfold decodeCustom04
  rw [b7_5, b15_3, b18_2, b20_5, b25_7]
  rfl

theorem qpop (q : BitVec 3) (rd : BitVec 5) : Statement (.qpop q rd) := by
  intro w h _
  have e : w = 0x1#7 ++ 0x0#5 ++ 0x0#2 ++ q ++ 0x4#3 ++ rd ++ 0xB#7 := (Option.some.inj h).symm
  have b0_7 : bitsAt w 0 7 = 0xB#7 := by rw [e]; exact bits_last _ _
  have b7_5 : bitsAt w 7 5 = rd := by rw [e]; exact (bits_hi _ _ _ _ (by decide)).trans (bits_last _ _)
  have b12_3 : bitsAt w 12 3 = 0x4#3 := by rw [e]; exact (bits_hi _ _ _ _ (by decide)).trans ((bits_hi _ _ _ _ (by decide)).trans (bits_last _ _))
  have b15_3 : bitsAt w 15 3 = q := by rw [e]; exact (bits_hi _ _ _ _ (by decide)).trans ((bits_hi _ _ _ _ (by decide)).trans ((bits_hi _ _ _ _ (by decide)).trans (bits_last _ _)))
  have b18_2 : bitsAt w 18 2 = 0x0#2 := by rw [e]; exact (bits_hi _ _ _ _ (by decide)).trans ((bits_hi _ _ _ _ (by decide)).trans ((bits_hi _ _ _ _ (by decide)).trans ((bits_hi _ _ _ _ (by decide)).trans (bits_last _ _))))
  have b20_5 : bitsAt w 20 5 = 0x0#5 := by rw [e]; exact (bits_hi _ _ _ _ (by decide)).trans ((bits_hi _ _ _ _ (by decide)).trans ((bits_hi _ _ _ _ (by decide)).trans ((bits_hi _ _ _ _ (by decide)).trans ((bits_hi _ _ _ _ (by decide)).trans (bits_last _ _)))))
  have b25_7 : bitsAt w 25 7 = 0x1#7 := by rw [e]; exact (bits_hi _ _ _ _ (by decide)).trans ((bits_hi _ _ _ _ (by decide)).trans ((bits_hi _ _ _ _ (by decide)).trans ((bits_hi _ _ _ _ (by decide)).trans ((bits_hi _ _ _ _ (by decide)).trans ((bits_hi _ _ _ _ (by decide)).trans (bits_all _))))))
  rw [at_decodeRow_11 w b0_7, at_decodeCustom0_4 w b12_3]
  unfold decodeCustom04
  rw [b7_5, b15_3, b18_2, b20_5, b25_7]
  rfl

theorem qlen (q : BitVec 3) (rd : BitVec 5) : Statement (.qlen q rd) := by
  intro w h _
  have e : w = 0x2#7 ++ 0x0#5 ++ 0x0#2 ++ q ++ 0x4#3 ++ rd ++ 0xB#7 := (Option.some.inj h).symm
  have b0_7 : bitsAt w 0 7 = 0xB#7 := by rw [e]; exact bits_last _ _
  have b7_5 : bitsAt w 7 5 = rd := by rw [e]; exact (bits_hi _ _ _ _ (by decide)).trans (bits_last _ _)
  have b12_3 : bitsAt w 12 3 = 0x4#3 := by rw [e]; exact (bits_hi _ _ _ _ (by decide)).trans ((bits_hi _ _ _ _ (by decide)).trans (bits_last _ _))
  have b15_3 : bitsAt w 15 3 = q := by rw [e]; exact (bits_hi _ _ _ _ (by decide)).trans ((bits_hi _ _ _ _ (by decide)).trans ((bits_hi _ _ _ _ (by decide)).trans (bits_last _ _)))
  have b18_2 : bitsAt w 18 2 = 0x0#2 := by rw [e]; exact (bits_hi _ _ _ _ (by decide)).trans ((bits_hi _ _ _ _ (by decide)).trans ((bits_hi _ _ _ _ (by decide)).trans ((bits_hi _ _ _ _ (by decide)).trans (bits_last _ _))))
  have b20_5 : bitsAt w 20 5 = 0x0#5 := by rw [e]; exact (bits_hi _ _ _ _ (by decide)).trans ((bits_hi _ _ _ _ (by decide)).trans ((bits_hi _ _ _ _ (by decide)).trans ((bits_hi _ _ _ _ (by decide)).trans ((bits_hi _ _ _ _ (by decide)).trans (bits_last _ _)))))
  have b25_7 : bitsAt w 25 7 = 0x2#7 := by rw [e]; exact (bits_hi _ _ _ _ (by decide)).trans ((bits_hi _ _ _ _ (by decide)).trans ((bits_hi _ _ _ _ (by decide)).trans ((bits_hi _ _ _ _ (by decide)).trans ((bits_hi _ _ _ _ (by decide)).trans ((bits_hi _ _ _ _ (by decide)).trans (bits_all _))))))
  rw [at_decodeRow_11 w b0_7, at_decodeCustom0_4 w b12_3]
  unfold decodeCustom04
  rw [b7_5, b15_3, b18_2, b20_5, b25_7]
  rfl

theorem block (rs1 : BitVec 5) : Statement (.block rs1) := by
  intro w h _
  have e : w = 0x0#7 ++ 0x0#5 ++ rs1 ++ 0x5#3 ++ 0x0#5 ++ 0xB#7 := (Option.some.inj h).symm
  have b0_7 : bitsAt w 0 7 = 0xB#7 := by rw [e]; exact bits_last _ _
  have b7_5 : bitsAt w 7 5 = 0x0#5 := by rw [e]; exact (bits_hi _ _ _ _ (by decide)).trans (bits_last _ _)
  have b12_3 : bitsAt w 12 3 = 0x5#3 := by rw [e]; exact (bits_hi _ _ _ _ (by decide)).trans ((bits_hi _ _ _ _ (by decide)).trans (bits_last _ _))
  have b15_5 : bitsAt w 15 5 = rs1 := by rw [e]; exact (bits_hi _ _ _ _ (by decide)).trans ((bits_hi _ _ _ _ (by decide)).trans ((bits_hi _ _ _ _ (by decide)).trans (bits_last _ _)))
  have b20_5 : bitsAt w 20 5 = 0x0#5 := by rw [e]; exact (bits_hi _ _ _ _ (by decide)).trans ((bits_hi _ _ _ _ (by decide)).trans ((bits_hi _ _ _ _ (by decide)).trans ((bits_hi _ _ _ _ (by decide)).trans (bits_last _ _))))
  have b25_7 : bitsAt w 25 7 = 0x0#7 := by rw [e]; exact (bits_hi _ _ _ _ (by decide)).trans ((bits_hi _ _ _ _ (by decide)).trans ((bits_hi _ _ _ _ (by decide)).trans ((bits_hi _ _ _ _ (by decide)).trans ((bits_hi _ _ _ _ (by decide)).trans (bits_all _)))))
  rw [at_decodeRow_11 w b0_7, at_decodeCustom0_5 w b12_3]
  unfold decodeCustom05
  rw [b7_5, b15_5, b20_5, b25_7]
  rfl

theorem bunlock (rs1 : BitVec 5) : Statement (.bunlock rs1) := by
  intro w h _
  have e : w = 0x1#7 ++ 0x0#5 ++ rs1 ++ 0x5#3 ++ 0x0#5 ++ 0xB#7 := (Option.some.inj h).symm
  have b0_7 : bitsAt w 0 7 = 0xB#7 := by rw [e]; exact bits_last _ _
  have b7_5 : bitsAt w 7 5 = 0x0#5 := by rw [e]; exact (bits_hi _ _ _ _ (by decide)).trans (bits_last _ _)
  have b12_3 : bitsAt w 12 3 = 0x5#3 := by rw [e]; exact (bits_hi _ _ _ _ (by decide)).trans ((bits_hi _ _ _ _ (by decide)).trans (bits_last _ _))
  have b15_5 : bitsAt w 15 5 = rs1 := by rw [e]; exact (bits_hi _ _ _ _ (by decide)).trans ((bits_hi _ _ _ _ (by decide)).trans ((bits_hi _ _ _ _ (by decide)).trans (bits_last _ _)))
  have b20_5 : bitsAt w 20 5 = 0x0#5 := by rw [e]; exact (bits_hi _ _ _ _ (by decide)).trans ((bits_hi _ _ _ _ (by decide)).trans ((bits_hi _ _ _ _ (by decide)).trans ((bits_hi _ _ _ _ (by decide)).trans (bits_last _ _))))
  have b25_7 : bitsAt w 25 7 = 0x1#7 := by rw [e]; exact (bits_hi _ _ _ _ (by decide)).trans ((bits_hi _ _ _ _ (by decide)).trans ((bits_hi _ _ _ _ (by decide)).trans ((bits_hi _ _ _ _ (by decide)).trans ((bits_hi _ _ _ _ (by decide)).trans (bits_all _)))))
  rw [at_decodeRow_11 w b0_7, at_decodeCustom0_5 w b12_3]
  unfold decodeCustom05
  rw [b7_5, b15_5, b20_5, b25_7]
  rfl

theorem mldAddr (rs1 : BitVec 5) (md : BitVec 3) : Statement (.mldAddr rs1 md) := by
  intro w h _
  have e : w = 0x0#7 ++ 0x0#5 ++ rs1 ++ 0x0#3 ++ 0x0#2 ++ md ++ 0x2B#7 := (Option.some.inj h).symm
  have b0_7 : bitsAt w 0 7 = 0x2B#7 := by rw [e]; exact bits_last _ _
  have b7_3 : bitsAt w 7 3 = md := by rw [e]; exact (bits_hi _ _ _ _ (by decide)).trans (bits_last _ _)
  have b10_2 : bitsAt w 10 2 = 0x0#2 := by rw [e]; exact (bits_hi _ _ _ _ (by decide)).trans ((bits_hi _ _ _ _ (by decide)).trans (bits_last _ _))
  have b12_3 : bitsAt w 12 3 = 0x0#3 := by rw [e]; exact (bits_hi _ _ _ _ (by decide)).trans ((bits_hi _ _ _ _ (by decide)).trans ((bits_hi _ _ _ _ (by decide)).trans (bits_last _ _)))
  have b15_5 : bitsAt w 15 5 = rs1 := by rw [e]; exact (bits_hi _ _ _ _ (by decide)).trans ((bits_hi _ _ _ _ (by decide)).trans ((bits_hi _ _ _ _ (by decide)).trans ((bits_hi _ _ _ _ (by decide)).trans (bits_last _ _))))
  have b20_5 : bitsAt w 20 5 = 0x0#5 := by rw [e]; exact (bits_hi _ _ _ _ (by decide)).trans ((bits_hi _ _ _ _ (by decide)).trans ((bits_hi _ _ _ _ (by decide)).trans ((bits_hi _ _ _ _ (by decide)).trans ((bits_hi _ _ _ _ (by decide)).trans (bits_last _ _)))))
  have b25_7 : bitsAt w 25 7 = 0x0#7 := by rw [e]; exact (bits_hi _ _ _ _ (by decide)).trans ((bits_hi _ _ _ _ (by decide)).trans ((bits_hi _ _ _ _ (by decide)).trans ((bits_hi _ _ _ _ (by decide)).trans ((bits_hi _ _ _ _ (by decide)).trans ((bits_hi _ _ _ _ (by decide)).trans (bits_all _))))))
  rw [at_decodeRow_43 w b0_7, at_decodeCustom1_0 w b12_3]
  unfold decodeCustom10
  rw [b7_3, b10_2, b15_5, b20_5, b25_7]
  rfl

theorem mldStream (as : BitVec 2) (md : BitVec 3) : Statement (.mldStream as md) := by
  intro w h _
  have e : w = 0x8#7 ++ 0x0#5 ++ 0x0#3 ++ as ++ 0x0#3 ++ 0x0#2 ++ md ++ 0x2B#7 := (Option.some.inj h).symm
  have b0_7 : bitsAt w 0 7 = 0x2B#7 := by rw [e]; exact bits_last _ _
  have b7_3 : bitsAt w 7 3 = md := by rw [e]; exact (bits_hi _ _ _ _ (by decide)).trans (bits_last _ _)
  have b10_2 : bitsAt w 10 2 = 0x0#2 := by rw [e]; exact (bits_hi _ _ _ _ (by decide)).trans ((bits_hi _ _ _ _ (by decide)).trans (bits_last _ _))
  have b12_3 : bitsAt w 12 3 = 0x0#3 := by rw [e]; exact (bits_hi _ _ _ _ (by decide)).trans ((bits_hi _ _ _ _ (by decide)).trans ((bits_hi _ _ _ _ (by decide)).trans (bits_last _ _)))
  have b15_2 : bitsAt w 15 2 = as := by rw [e]; exact (bits_hi _ _ _ _ (by decide)).trans ((bits_hi _ _ _ _ (by decide)).trans ((bits_hi _ _ _ _ (by decide)).trans ((bits_hi _ _ _ _ (by decide)).trans (bits_last _ _))))
  have b17_3 : bitsAt w 17 3 = 0x0#3 := by rw [e]; exact (bits_hi _ _ _ _ (by decide)).trans ((bits_hi _ _ _ _ (by decide)).trans ((bits_hi _ _ _ _ (by decide)).trans ((bits_hi _ _ _ _ (by decide)).trans ((bits_hi _ _ _ _ (by decide)).trans (bits_last _ _)))))
  have b20_5 : bitsAt w 20 5 = 0x0#5 := by rw [e]; exact (bits_hi _ _ _ _ (by decide)).trans ((bits_hi _ _ _ _ (by decide)).trans ((bits_hi _ _ _ _ (by decide)).trans ((bits_hi _ _ _ _ (by decide)).trans ((bits_hi _ _ _ _ (by decide)).trans ((bits_hi _ _ _ _ (by decide)).trans (bits_last _ _))))))
  have b25_7 : bitsAt w 25 7 = 0x8#7 := by rw [e]; exact (bits_hi _ _ _ _ (by decide)).trans ((bits_hi _ _ _ _ (by decide)).trans ((bits_hi _ _ _ _ (by decide)).trans ((bits_hi _ _ _ _ (by decide)).trans ((bits_hi _ _ _ _ (by decide)).trans ((bits_hi _ _ _ _ (by decide)).trans ((bits_hi _ _ _ _ (by decide)).trans (bits_all _)))))))
  rw [at_decodeRow_43 w b0_7, at_decodeCustom1_0 w b12_3]
  unfold decodeCustom10
  rw [b7_3, b10_2, b15_2, b17_3, b20_5, b25_7]
  rfl

theorem mstAddr (rm : BitVec 3) (sat : BitVec 1) (fmt : BitVec 4) (rs1 : BitVec 5) (cs : BitVec 2) : Statement (.mstAddr rm sat fmt rs1 cs) := by
  intro w h _
  have e : w = 0x2#4 ++ rm ++ sat ++ fmt ++ rs1 ++ 0x0#3 ++ 0x0#3 ++ cs ++ 0x2B#7 := (Option.some.inj h).symm
  have b0_7 : bitsAt w 0 7 = 0x2B#7 := by rw [e]; exact bits_last _ _
  have b7_2 : bitsAt w 7 2 = cs := by rw [e]; exact (bits_hi _ _ _ _ (by decide)).trans (bits_last _ _)
  have b9_3 : bitsAt w 9 3 = 0x0#3 := by rw [e]; exact (bits_hi _ _ _ _ (by decide)).trans ((bits_hi _ _ _ _ (by decide)).trans (bits_last _ _))
  have b10_2 : bitsAt w 10 2 = 0#2 := by rw [e]; exact (bits_hi _ _ _ _ (by decide)).trans ((bits_hi _ _ _ _ (by decide)).trans ((bits_lo _ _ _ _ (by decide)).trans rfl))
  have b12_3 : bitsAt w 12 3 = 0x0#3 := by rw [e]; exact (bits_hi _ _ _ _ (by decide)).trans ((bits_hi _ _ _ _ (by decide)).trans ((bits_hi _ _ _ _ (by decide)).trans (bits_last _ _)))
  have b15_5 : bitsAt w 15 5 = rs1 := by rw [e]; exact (bits_hi _ _ _ _ (by decide)).trans ((bits_hi _ _ _ _ (by decide)).trans ((bits_hi _ _ _ _ (by decide)).trans ((bits_hi _ _ _ _ (by decide)).trans (bits_last _ _))))
  have b20_4 : bitsAt w 20 4 = fmt := by rw [e]; exact (bits_hi _ _ _ _ (by decide)).trans ((bits_hi _ _ _ _ (by decide)).trans ((bits_hi _ _ _ _ (by decide)).trans ((bits_hi _ _ _ _ (by decide)).trans ((bits_hi _ _ _ _ (by decide)).trans (bits_last _ _)))))
  have b24_1 : bitsAt w 24 1 = sat := by rw [e]; exact (bits_hi _ _ _ _ (by decide)).trans ((bits_hi _ _ _ _ (by decide)).trans ((bits_hi _ _ _ _ (by decide)).trans ((bits_hi _ _ _ _ (by decide)).trans ((bits_hi _ _ _ _ (by decide)).trans ((bits_hi _ _ _ _ (by decide)).trans (bits_last _ _))))))
  have b25_3 : bitsAt w 25 3 = rm := by rw [e]; exact (bits_hi _ _ _ _ (by decide)).trans ((bits_hi _ _ _ _ (by decide)).trans ((bits_hi _ _ _ _ (by decide)).trans ((bits_hi _ _ _ _ (by decide)).trans ((bits_hi _ _ _ _ (by decide)).trans ((bits_hi _ _ _ _ (by decide)).trans ((bits_hi _ _ _ _ (by decide)).trans (bits_last _ _)))))))
  have b28_4 : bitsAt w 28 4 = 0x2#4 := by rw [e]; exact (bits_hi _ _ _ _ (by decide)).trans ((bits_hi _ _ _ _ (by decide)).trans ((bits_hi _ _ _ _ (by decide)).trans ((bits_hi _ _ _ _ (by decide)).trans ((bits_hi _ _ _ _ (by decide)).trans ((bits_hi _ _ _ _ (by decide)).trans ((bits_hi _ _ _ _ (by decide)).trans ((bits_hi _ _ _ _ (by decide)).trans (bits_all _))))))))
  rw [at_decodeRow_43 w b0_7, at_decodeCustom1_0 w b12_3]
  unfold decodeCustom10
  rw [top_ne w 3 4 _ 0x0#7 b28_4 (by decide) (by decide), top_ne w 3 4 _ 0x8#7 b28_4 (by decide) (by decide)]
  rw [b7_2, b9_3, b10_2, b15_5, b20_4, b24_1, b25_3, b28_4]
  rfl

theorem mstStream (rm : BitVec 3) (sat : BitVec 1) (fmt : BitVec 4) (as : BitVec 2) (cs : BitVec 2) : Statement (.mstStream rm sat fmt as cs) := by
  intro w h _
  have e : w = 0x3#4 ++ rm ++ sat ++ fmt ++ 0x0#3 ++ as ++ 0x0#3 ++ 0x0#3 ++ cs ++ 0x2B#7 := (Option.some.inj h).symm
  have b0_7 : bitsAt w 0 7 = 0x2B#7 := by rw [e]; exact bits_last _ _
  have b7_2 : bitsAt w 7 2 = cs := by rw [e]; exact (bits_hi _ _ _ _ (by decide)).trans (bits_last _ _)
  have b9_3 : bitsAt w 9 3 = 0x0#3 := by rw [e]; exact (bits_hi _ _ _ _ (by decide)).trans ((bits_hi _ _ _ _ (by decide)).trans (bits_last _ _))
  have b10_2 : bitsAt w 10 2 = 0#2 := by rw [e]; exact (bits_hi _ _ _ _ (by decide)).trans ((bits_hi _ _ _ _ (by decide)).trans ((bits_lo _ _ _ _ (by decide)).trans rfl))
  have b12_3 : bitsAt w 12 3 = 0x0#3 := by rw [e]; exact (bits_hi _ _ _ _ (by decide)).trans ((bits_hi _ _ _ _ (by decide)).trans ((bits_hi _ _ _ _ (by decide)).trans (bits_last _ _)))
  have b15_2 : bitsAt w 15 2 = as := by rw [e]; exact (bits_hi _ _ _ _ (by decide)).trans ((bits_hi _ _ _ _ (by decide)).trans ((bits_hi _ _ _ _ (by decide)).trans ((bits_hi _ _ _ _ (by decide)).trans (bits_last _ _))))
  have b17_3 : bitsAt w 17 3 = 0x0#3 := by rw [e]; exact (bits_hi _ _ _ _ (by decide)).trans ((bits_hi _ _ _ _ (by decide)).trans ((bits_hi _ _ _ _ (by decide)).trans ((bits_hi _ _ _ _ (by decide)).trans ((bits_hi _ _ _ _ (by decide)).trans (bits_last _ _)))))
  have b20_4 : bitsAt w 20 4 = fmt := by rw [e]; exact (bits_hi _ _ _ _ (by decide)).trans ((bits_hi _ _ _ _ (by decide)).trans ((bits_hi _ _ _ _ (by decide)).trans ((bits_hi _ _ _ _ (by decide)).trans ((bits_hi _ _ _ _ (by decide)).trans ((bits_hi _ _ _ _ (by decide)).trans (bits_last _ _))))))
  have b24_1 : bitsAt w 24 1 = sat := by rw [e]; exact (bits_hi _ _ _ _ (by decide)).trans ((bits_hi _ _ _ _ (by decide)).trans ((bits_hi _ _ _ _ (by decide)).trans ((bits_hi _ _ _ _ (by decide)).trans ((bits_hi _ _ _ _ (by decide)).trans ((bits_hi _ _ _ _ (by decide)).trans ((bits_hi _ _ _ _ (by decide)).trans (bits_last _ _)))))))
  have b25_3 : bitsAt w 25 3 = rm := by rw [e]; exact (bits_hi _ _ _ _ (by decide)).trans ((bits_hi _ _ _ _ (by decide)).trans ((bits_hi _ _ _ _ (by decide)).trans ((bits_hi _ _ _ _ (by decide)).trans ((bits_hi _ _ _ _ (by decide)).trans ((bits_hi _ _ _ _ (by decide)).trans ((bits_hi _ _ _ _ (by decide)).trans ((bits_hi _ _ _ _ (by decide)).trans (bits_last _ _))))))))
  have b28_4 : bitsAt w 28 4 = 0x3#4 := by rw [e]; exact (bits_hi _ _ _ _ (by decide)).trans ((bits_hi _ _ _ _ (by decide)).trans ((bits_hi _ _ _ _ (by decide)).trans ((bits_hi _ _ _ _ (by decide)).trans ((bits_hi _ _ _ _ (by decide)).trans ((bits_hi _ _ _ _ (by decide)).trans ((bits_hi _ _ _ _ (by decide)).trans ((bits_hi _ _ _ _ (by decide)).trans ((bits_hi _ _ _ _ (by decide)).trans (bits_all _)))))))))
  rw [at_decodeRow_43 w b0_7, at_decodeCustom1_0 w b12_3]
  unfold decodeCustom10
  rw [top_ne w 3 4 _ 0x0#7 b28_4 (by decide) (by decide), top_ne w 3 4 _ 0x8#7 b28_4 (by decide) (by decide)]
  rw [b7_2, b9_3, b10_2, b15_2, b17_3, b20_4, b24_1, b25_3, b28_4]
  rfl

theorem mzero (cd : BitVec 2) : Statement (.mzero cd) := by
  intro w h _
  have e : w = 0x0#7 ++ 0x0#5 ++ 0x0#5 ++ 0x1#3 ++ 0x0#3 ++ cd ++ 0x2B#7 := (Option.some.inj h).symm
  have b0_7 : bitsAt w 0 7 = 0x2B#7 := by rw [e]; exact bits_last _ _
  have b7_2 : bitsAt w 7 2 = cd := by rw [e]; exact (bits_hi _ _ _ _ (by decide)).trans (bits_last _ _)
  have b9_3 : bitsAt w 9 3 = 0x0#3 := by rw [e]; exact (bits_hi _ _ _ _ (by decide)).trans ((bits_hi _ _ _ _ (by decide)).trans (bits_last _ _))
  have b12_3 : bitsAt w 12 3 = 0x1#3 := by rw [e]; exact (bits_hi _ _ _ _ (by decide)).trans ((bits_hi _ _ _ _ (by decide)).trans ((bits_hi _ _ _ _ (by decide)).trans (bits_last _ _)))
  have b15_5 : bitsAt w 15 5 = 0x0#5 := by rw [e]; exact (bits_hi _ _ _ _ (by decide)).trans ((bits_hi _ _ _ _ (by decide)).trans ((bits_hi _ _ _ _ (by decide)).trans ((bits_hi _ _ _ _ (by decide)).trans (bits_last _ _))))
  have b20_5 : bitsAt w 20 5 = 0x0#5 := by rw [e]; exact (bits_hi _ _ _ _ (by decide)).trans ((bits_hi _ _ _ _ (by decide)).trans ((bits_hi _ _ _ _ (by decide)).trans ((bits_hi _ _ _ _ (by decide)).trans ((bits_hi _ _ _ _ (by decide)).trans (bits_last _ _)))))
  have b25_7 : bitsAt w 25 7 = 0x0#7 := by rw [e]; exact (bits_hi _ _ _ _ (by decide)).trans ((bits_hi _ _ _ _ (by decide)).trans ((bits_hi _ _ _ _ (by decide)).trans ((bits_hi _ _ _ _ (by decide)).trans ((bits_hi _ _ _ _ (by decide)).trans ((bits_hi _ _ _ _ (by decide)).trans (bits_all _))))))
  rw [at_decodeRow_43 w b0_7, at_decodeCustom1_1 w b12_3]
  unfold decodeCustom11
  rw [b7_2, b9_3, b15_5, b20_5, b25_7]
  rfl

theorem mmovv (rm : BitVec 3) (cs : BitVec 2) (md : BitVec 3) : Statement (.mmovv rm cs md) := by
  intro w h _
  have e : w = 0x1#4 ++ rm ++ 0x0#5 ++ 0x0#3 ++ cs ++ 0x1#3 ++ 0x0#2 ++ md ++ 0x2B#7 := (Option.some.inj h).symm
  have b0_7 : bitsAt w 0 7 = 0x2B#7 := by rw [e]; exact bits_last _ _
  have b7_3 : bitsAt w 7 3 = md := by rw [e]; exact (bits_hi _ _ _ _ (by decide)).trans (bits_last _ _)
  have b10_2 : bitsAt w 10 2 = 0x0#2 := by rw [e]; exact (bits_hi _ _ _ _ (by decide)).trans ((bits_hi _ _ _ _ (by decide)).trans (bits_last _ _))
  have b12_3 : bitsAt w 12 3 = 0x1#3 := by rw [e]; exact (bits_hi _ _ _ _ (by decide)).trans ((bits_hi _ _ _ _ (by decide)).trans ((bits_hi _ _ _ _ (by decide)).trans (bits_last _ _)))
  have b15_2 : bitsAt w 15 2 = cs := by rw [e]; exact (bits_hi _ _ _ _ (by decide)).trans ((bits_hi _ _ _ _ (by decide)).trans ((bits_hi _ _ _ _ (by decide)).trans ((bits_hi _ _ _ _ (by decide)).trans (bits_last _ _))))
  have b17_3 : bitsAt w 17 3 = 0x0#3 := by rw [e]; exact (bits_hi _ _ _ _ (by decide)).trans ((bits_hi _ _ _ _ (by decide)).trans ((bits_hi _ _ _ _ (by decide)).trans ((bits_hi _ _ _ _ (by decide)).trans ((bits_hi _ _ _ _ (by decide)).trans (bits_last _ _)))))
  have b20_5 : bitsAt w 20 5 = 0x0#5 := by rw [e]; exact (bits_hi _ _ _ _ (by decide)).trans ((bits_hi _ _ _ _ (by decide)).trans ((bits_hi _ _ _ _ (by decide)).trans ((bits_hi _ _ _ _ (by decide)).trans ((bits_hi _ _ _ _ (by decide)).trans ((bits_hi _ _ _ _ (by decide)).trans (bits_last _ _))))))
  have b25_3 : bitsAt w 25 3 = rm := by rw [e]; exact (bits_hi _ _ _ _ (by decide)).trans ((bits_hi _ _ _ _ (by decide)).trans ((bits_hi _ _ _ _ (by decide)).trans ((bits_hi _ _ _ _ (by decide)).trans ((bits_hi _ _ _ _ (by decide)).trans ((bits_hi _ _ _ _ (by decide)).trans ((bits_hi _ _ _ _ (by decide)).trans (bits_last _ _)))))))
  have b28_4 : bitsAt w 28 4 = 0x1#4 := by rw [e]; exact (bits_hi _ _ _ _ (by decide)).trans ((bits_hi _ _ _ _ (by decide)).trans ((bits_hi _ _ _ _ (by decide)).trans ((bits_hi _ _ _ _ (by decide)).trans ((bits_hi _ _ _ _ (by decide)).trans ((bits_hi _ _ _ _ (by decide)).trans ((bits_hi _ _ _ _ (by decide)).trans ((bits_hi _ _ _ _ (by decide)).trans (bits_all _))))))))
  rw [at_decodeRow_43 w b0_7, at_decodeCustom1_1 w b12_3]
  unfold decodeCustom11
  rw [top_ne w 3 4 _ 0x0#7 b28_4 (by decide) (by decide)]
  rw [b7_3, b10_2, b15_2, b17_3, b20_5, b25_3, b28_4]
  rfl

theorem mdot (mb : BitVec 3) (ma : BitVec 3) (cd : BitVec 2) : Statement (.mdot mb ma cd) := by
  intro w h _
  have e : w = 0x0#7 ++ 0x0#2 ++ mb ++ 0x0#2 ++ ma ++ 0x2#3 ++ 0x0#3 ++ cd ++ 0x2B#7 := (Option.some.inj h).symm
  have b0_7 : bitsAt w 0 7 = 0x2B#7 := by rw [e]; exact bits_last _ _
  have b7_2 : bitsAt w 7 2 = cd := by rw [e]; exact (bits_hi _ _ _ _ (by decide)).trans (bits_last _ _)
  have b9_3 : bitsAt w 9 3 = 0x0#3 := by rw [e]; exact (bits_hi _ _ _ _ (by decide)).trans ((bits_hi _ _ _ _ (by decide)).trans (bits_last _ _))
  have b12_3 : bitsAt w 12 3 = 0x2#3 := by rw [e]; exact (bits_hi _ _ _ _ (by decide)).trans ((bits_hi _ _ _ _ (by decide)).trans ((bits_hi _ _ _ _ (by decide)).trans (bits_last _ _)))
  have b15_3 : bitsAt w 15 3 = ma := by rw [e]; exact (bits_hi _ _ _ _ (by decide)).trans ((bits_hi _ _ _ _ (by decide)).trans ((bits_hi _ _ _ _ (by decide)).trans ((bits_hi _ _ _ _ (by decide)).trans (bits_last _ _))))
  have b18_2 : bitsAt w 18 2 = 0x0#2 := by rw [e]; exact (bits_hi _ _ _ _ (by decide)).trans ((bits_hi _ _ _ _ (by decide)).trans ((bits_hi _ _ _ _ (by decide)).trans ((bits_hi _ _ _ _ (by decide)).trans ((bits_hi _ _ _ _ (by decide)).trans (bits_last _ _)))))
  have b20_3 : bitsAt w 20 3 = mb := by rw [e]; exact (bits_hi _ _ _ _ (by decide)).trans ((bits_hi _ _ _ _ (by decide)).trans ((bits_hi _ _ _ _ (by decide)).trans ((bits_hi _ _ _ _ (by decide)).trans ((bits_hi _ _ _ _ (by decide)).trans ((bits_hi _ _ _ _ (by decide)).trans (bits_last _ _))))))
  have b23_2 : bitsAt w 23 2 = 0x0#2 := by rw [e]; exact (bits_hi _ _ _ _ (by decide)).trans ((bits_hi _ _ _ _ (by decide)).trans ((bits_hi _ _ _ _ (by decide)).trans ((bits_hi _ _ _ _ (by decide)).trans ((bits_hi _ _ _ _ (by decide)).trans ((bits_hi _ _ _ _ (by decide)).trans ((bits_hi _ _ _ _ (by decide)).trans (bits_last _ _)))))))
  have b25_7 : bitsAt w 25 7 = 0x0#7 := by rw [e]; exact (bits_hi _ _ _ _ (by decide)).trans ((bits_hi _ _ _ _ (by decide)).trans ((bits_hi _ _ _ _ (by decide)).trans ((bits_hi _ _ _ _ (by decide)).trans ((bits_hi _ _ _ _ (by decide)).trans ((bits_hi _ _ _ _ (by decide)).trans ((bits_hi _ _ _ _ (by decide)).trans ((bits_hi _ _ _ _ (by decide)).trans (bits_all _))))))))
  rw [at_decodeRow_43 w b0_7, at_decodeCustom1_2 w b12_3]
  unfold decodeCustom12
  rw [b7_2, b9_3, b15_3, b18_2, b20_3, b23_2, b25_7]
  rfl

theorem mdots (mb : BitVec 3) (ma : BitVec 3) (cd : BitVec 2) : Statement (.mdots mb ma cd) := by
  intro w h _
  have e : w = 0x1#7 ++ 0x0#2 ++ mb ++ 0x0#2 ++ ma ++ 0x2#3 ++ 0x0#3 ++ cd ++ 0x2B#7 := (Option.some.inj h).symm
  have b0_7 : bitsAt w 0 7 = 0x2B#7 := by rw [e]; exact bits_last _ _
  have b7_2 : bitsAt w 7 2 = cd := by rw [e]; exact (bits_hi _ _ _ _ (by decide)).trans (bits_last _ _)
  have b9_3 : bitsAt w 9 3 = 0x0#3 := by rw [e]; exact (bits_hi _ _ _ _ (by decide)).trans ((bits_hi _ _ _ _ (by decide)).trans (bits_last _ _))
  have b12_3 : bitsAt w 12 3 = 0x2#3 := by rw [e]; exact (bits_hi _ _ _ _ (by decide)).trans ((bits_hi _ _ _ _ (by decide)).trans ((bits_hi _ _ _ _ (by decide)).trans (bits_last _ _)))
  have b15_3 : bitsAt w 15 3 = ma := by rw [e]; exact (bits_hi _ _ _ _ (by decide)).trans ((bits_hi _ _ _ _ (by decide)).trans ((bits_hi _ _ _ _ (by decide)).trans ((bits_hi _ _ _ _ (by decide)).trans (bits_last _ _))))
  have b18_2 : bitsAt w 18 2 = 0x0#2 := by rw [e]; exact (bits_hi _ _ _ _ (by decide)).trans ((bits_hi _ _ _ _ (by decide)).trans ((bits_hi _ _ _ _ (by decide)).trans ((bits_hi _ _ _ _ (by decide)).trans ((bits_hi _ _ _ _ (by decide)).trans (bits_last _ _)))))
  have b20_3 : bitsAt w 20 3 = mb := by rw [e]; exact (bits_hi _ _ _ _ (by decide)).trans ((bits_hi _ _ _ _ (by decide)).trans ((bits_hi _ _ _ _ (by decide)).trans ((bits_hi _ _ _ _ (by decide)).trans ((bits_hi _ _ _ _ (by decide)).trans ((bits_hi _ _ _ _ (by decide)).trans (bits_last _ _))))))
  have b23_2 : bitsAt w 23 2 = 0x0#2 := by rw [e]; exact (bits_hi _ _ _ _ (by decide)).trans ((bits_hi _ _ _ _ (by decide)).trans ((bits_hi _ _ _ _ (by decide)).trans ((bits_hi _ _ _ _ (by decide)).trans ((bits_hi _ _ _ _ (by decide)).trans ((bits_hi _ _ _ _ (by decide)).trans ((bits_hi _ _ _ _ (by decide)).trans (bits_last _ _)))))))
  have b25_7 : bitsAt w 25 7 = 0x1#7 := by rw [e]; exact (bits_hi _ _ _ _ (by decide)).trans ((bits_hi _ _ _ _ (by decide)).trans ((bits_hi _ _ _ _ (by decide)).trans ((bits_hi _ _ _ _ (by decide)).trans ((bits_hi _ _ _ _ (by decide)).trans ((bits_hi _ _ _ _ (by decide)).trans ((bits_hi _ _ _ _ (by decide)).trans ((bits_hi _ _ _ _ (by decide)).trans (bits_all _))))))))
  rw [at_decodeRow_43 w b0_7, at_decodeCustom1_2 w b12_3]
  unfold decodeCustom12
  rw [b7_2, b9_3, b15_3, b18_2, b20_3, b23_2, b25_7]
  rfl

theorem asset (field : BitVec 2) (rs1 : BitVec 5) (as : BitVec 2) : Statement (.asset field rs1 as) := by
  intro w h _
  have e : w = 0x0#5 ++ field ++ 0x0#5 ++ rs1 ++ 0x3#3 ++ 0x0#3 ++ as ++ 0x2B#7 := (Option.some.inj h).symm
  have b0_7 : bitsAt w 0 7 = 0x2B#7 := by rw [e]; exact bits_last _ _
  have b7_2 : bitsAt w 7 2 = as := by rw [e]; exact (bits_hi _ _ _ _ (by decide)).trans (bits_last _ _)
  have b9_3 : bitsAt w 9 3 = 0x0#3 := by rw [e]; exact (bits_hi _ _ _ _ (by decide)).trans ((bits_hi _ _ _ _ (by decide)).trans (bits_last _ _))
  have b12_3 : bitsAt w 12 3 = 0x3#3 := by rw [e]; exact (bits_hi _ _ _ _ (by decide)).trans ((bits_hi _ _ _ _ (by decide)).trans ((bits_hi _ _ _ _ (by decide)).trans (bits_last _ _)))
  have b15_5 : bitsAt w 15 5 = rs1 := by rw [e]; exact (bits_hi _ _ _ _ (by decide)).trans ((bits_hi _ _ _ _ (by decide)).trans ((bits_hi _ _ _ _ (by decide)).trans ((bits_hi _ _ _ _ (by decide)).trans (bits_last _ _))))
  have b20_5 : bitsAt w 20 5 = 0x0#5 := by rw [e]; exact (bits_hi _ _ _ _ (by decide)).trans ((bits_hi _ _ _ _ (by decide)).trans ((bits_hi _ _ _ _ (by decide)).trans ((bits_hi _ _ _ _ (by decide)).trans ((bits_hi _ _ _ _ (by decide)).trans (bits_last _ _)))))
  have b25_2 : bitsAt w 25 2 = field := by rw [e]; exact (bits_hi _ _ _ _ (by decide)).trans ((bits_hi _ _ _ _ (by decide)).trans ((bits_hi _ _ _ _ (by decide)).trans ((bits_hi _ _ _ _ (by decide)).trans ((bits_hi _ _ _ _ (by decide)).trans ((bits_hi _ _ _ _ (by decide)).trans (bits_last _ _))))))
  have b27_5 : bitsAt w 27 5 = 0x0#5 := by rw [e]; exact (bits_hi _ _ _ _ (by decide)).trans ((bits_hi _ _ _ _ (by decide)).trans ((bits_hi _ _ _ _ (by decide)).trans ((bits_hi _ _ _ _ (by decide)).trans ((bits_hi _ _ _ _ (by decide)).trans ((bits_hi _ _ _ _ (by decide)).trans ((bits_hi _ _ _ _ (by decide)).trans (bits_all _)))))))
  rw [at_decodeRow_43 w b0_7, at_decodeCustom1_3 w b12_3]
  unfold decodeCustom13
  rw [b7_2, b9_3, b15_5, b20_5, b25_2, b27_5]
  rfl

theorem rpt (lenm1 : BitVec 3) (rs1 : BitVec 5) : Statement (.rpt lenm1 rs1) := by
  intro w h _
  have e : w = 0x10#7 ++ 0x0#2 ++ lenm1 ++ rs1 ++ 0x3#3 ++ 0x0#5 ++ 0x2B#7 := (Option.some.inj h).symm
  have b0_7 : bitsAt w 0 7 = 0x2B#7 := by rw [e]; exact bits_last _ _
  have b7_2 : bitsAt w 7 2 = 0#2 := by rw [e]; exact (bits_hi _ _ _ _ (by decide)).trans ((bits_lo _ _ _ _ (by decide)).trans rfl)
  have b7_5 : bitsAt w 7 5 = 0x0#5 := by rw [e]; exact (bits_hi _ _ _ _ (by decide)).trans (bits_last _ _)
  have b9_3 : bitsAt w 9 3 = 0#3 := by rw [e]; exact (bits_hi _ _ _ _ (by decide)).trans ((bits_lo _ _ _ _ (by decide)).trans rfl)
  have b12_3 : bitsAt w 12 3 = 0x3#3 := by rw [e]; exact (bits_hi _ _ _ _ (by decide)).trans ((bits_hi _ _ _ _ (by decide)).trans (bits_last _ _))
  have b15_5 : bitsAt w 15 5 = rs1 := by rw [e]; exact (bits_hi _ _ _ _ (by decide)).trans ((bits_hi _ _ _ _ (by decide)).trans ((bits_hi _ _ _ _ (by decide)).trans (bits_last _ _)))
  have b20_3 : bitsAt w 20 3 = lenm1 := by rw [e]; exact (bits_hi _ _ _ _ (by decide)).trans ((bits_hi _ _ _ _ (by decide)).trans ((bits_hi _ _ _ _ (by decide)).trans ((bits_hi _ _ _ _ (by decide)).trans (bits_last _ _))))
  have b23_2 : bitsAt w 23 2 = 0x0#2 := by rw [e]; exact (bits_hi _ _ _ _ (by decide)).trans ((bits_hi _ _ _ _ (by decide)).trans ((bits_hi _ _ _ _ (by decide)).trans ((bits_hi _ _ _ _ (by decide)).trans ((bits_hi _ _ _ _ (by decide)).trans (bits_last _ _)))))
  have b25_2 : bitsAt w 25 2 = 0#2 := by rw [e]; exact (bits_hi _ _ _ _ (by decide)).trans ((bits_hi _ _ _ _ (by decide)).trans ((bits_hi _ _ _ _ (by decide)).trans ((bits_hi _ _ _ _ (by decide)).trans ((bits_hi _ _ _ _ (by decide)).trans ((bits_hi _ _ _ _ (by decide)).trans (rfl))))))
  have b25_7 : bitsAt w 25 7 = 0x10#7 := by rw [e]; exact (bits_hi _ _ _ _ (by decide)).trans ((bits_hi _ _ _ _ (by decide)).trans ((bits_hi _ _ _ _ (by decide)).trans ((bits_hi _ _ _ _ (by decide)).trans ((bits_hi _ _ _ _ (by decide)).trans ((bits_hi _ _ _ _ (by decide)).trans (bits_all _))))))
  have b27_5 : bitsAt w 27 5 = 4#5 := by rw [e]; exact (bits_hi _ _ _ _ (by decide)).trans ((bits_hi _ _ _ _ (by decide)).trans ((bits_hi _ _ _ _ (by decide)).trans ((bits_hi _ _ _ _ (by decide)).trans ((bits_hi _ _ _ _ (by decide)).trans ((bits_hi _ _ _ _ (by decide)).trans (rfl))))))
  rw [at_decodeRow_43 w b0_7, at_decodeCustom1_3 w b12_3]
  unfold decodeCustom13
  rw [b7_2, b7_5, b9_3, b15_5, b20_3, b23_2, b25_2, b25_7, b27_5]
  rfl

theorem cpw (ch : BitVec 2) (idx : BitVec 5) (rs1 : BitVec 5) : Statement (.cpw ch idx rs1) := by
  intro w h _
  have e : w = 0x0#5 ++ ch ++ idx ++ rs1 ++ 0x4#3 ++ 0x0#5 ++ 0x2B#7 := (Option.some.inj h).symm
  have b0_7 : bitsAt w 0 7 = 0x2B#7 := by rw [e]; exact bits_last _ _
  have b7_5 : bitsAt w 7 5 = 0x0#5 := by rw [e]; exact (bits_hi _ _ _ _ (by decide)).trans (bits_last _ _)
  have b12_3 : bitsAt w 12 3 = 0x4#3 := by rw [e]; exact (bits_hi _ _ _ _ (by decide)).trans ((bits_hi _ _ _ _ (by decide)).trans (bits_last _ _))
  have b15_5 : bitsAt w 15 5 = rs1 := by rw [e]; exact (bits_hi _ _ _ _ (by decide)).trans ((bits_hi _ _ _ _ (by decide)).trans ((bits_hi _ _ _ _ (by decide)).trans (bits_last _ _)))
  have b20_5 : bitsAt w 20 5 = idx := by rw [e]; exact (bits_hi _ _ _ _ (by decide)).trans ((bits_hi _ _ _ _ (by decide)).trans ((bits_hi _ _ _ _ (by decide)).trans ((bits_hi _ _ _ _ (by decide)).trans (bits_last _ _))))
  have b25_2 : bitsAt w 25 2 = ch := by rw [e]; exact (bits_hi _ _ _ _ (by decide)).trans ((bits_hi _ _ _ _ (by decide)).trans ((bits_hi _ _ _ _ (by decide)).trans ((bits_hi _ _ _ _ (by decide)).trans ((bits_hi _ _ _ _ (by decide)).trans (bits_last _ _)))))
  have b27_5 : bitsAt w 27 5 = 0x0#5 := by rw [e]; exact (bits_hi _ _ _ _ (by decide)).trans ((bits_hi _ _ _ _ (by decide)).trans ((bits_hi _ _ _ _ (by decide)).trans ((bits_hi _ _ _ _ (by decide)).trans ((bits_hi _ _ _ _ (by decide)).trans ((bits_hi _ _ _ _ (by decide)).trans (bits_all _))))))
  rw [at_decodeRow_43 w b0_7, at_decodeCustom1_4 w b12_3]
  unfold decodeCustom14
  rw [b7_5, b15_5, b20_5, b25_2, b27_5]
  rfl

theorem cpr (ch : BitVec 2) (idx : BitVec 5) (rd : BitVec 5) : Statement (.cpr ch idx rd) := by
  intro w h _
  have e : w = 0x1#5 ++ ch ++ idx ++ 0x0#5 ++ 0x4#3 ++ rd ++ 0x2B#7 := (Option.some.inj h).symm
  have b0_7 : bitsAt w 0 7 = 0x2B#7 := by rw [e]; exact bits_last _ _
  have b7_5 : bitsAt w 7 5 = rd := by rw [e]; exact (bits_hi _ _ _ _ (by decide)).trans (bits_last _ _)
  have b12_3 : bitsAt w 12 3 = 0x4#3 := by rw [e]; exact (bits_hi _ _ _ _ (by decide)).trans ((bits_hi _ _ _ _ (by decide)).trans (bits_last _ _))
  have b15_5 : bitsAt w 15 5 = 0x0#5 := by rw [e]; exact (bits_hi _ _ _ _ (by decide)).trans ((bits_hi _ _ _ _ (by decide)).trans ((bits_hi _ _ _ _ (by decide)).trans (bits_last _ _)))
  have b20_5 : bitsAt w 20 5 = idx := by rw [e]; exact (bits_hi _ _ _ _ (by decide)).trans ((bits_hi _ _ _ _ (by decide)).trans ((bits_hi _ _ _ _ (by decide)).trans ((bits_hi _ _ _ _ (by decide)).trans (bits_last _ _))))
  have b25_2 : bitsAt w 25 2 = ch := by rw [e]; exact (bits_hi _ _ _ _ (by decide)).trans ((bits_hi _ _ _ _ (by decide)).trans ((bits_hi _ _ _ _ (by decide)).trans ((bits_hi _ _ _ _ (by decide)).trans ((bits_hi _ _ _ _ (by decide)).trans (bits_last _ _)))))
  have b27_5 : bitsAt w 27 5 = 0x1#5 := by rw [e]; exact (bits_hi _ _ _ _ (by decide)).trans ((bits_hi _ _ _ _ (by decide)).trans ((bits_hi _ _ _ _ (by decide)).trans ((bits_hi _ _ _ _ (by decide)).trans ((bits_hi _ _ _ _ (by decide)).trans ((bits_hi _ _ _ _ (by decide)).trans (bits_all _))))))
  rw [at_decodeRow_43 w b0_7, at_decodeCustom1_4 w b12_3]
  unfold decodeCustom14
  rw [b7_5, b15_5, b20_5, b25_2, b27_5]
  rfl

theorem cpgo (ch : BitVec 2) (rd : BitVec 5) : Statement (.cpgo ch rd) := by
  intro w h _
  have e : w = 0x0#5 ++ ch ++ 0x0#5 ++ 0x0#5 ++ 0x5#3 ++ rd ++ 0x2B#7 := (Option.some.inj h).symm
  have b0_7 : bitsAt w 0 7 = 0x2B#7 := by rw [e]; exact bits_last _ _
  have b7_5 : bitsAt w 7 5 = rd := by rw [e]; exact (bits_hi _ _ _ _ (by decide)).trans (bits_last _ _)
  have b12_3 : bitsAt w 12 3 = 0x5#3 := by rw [e]; exact (bits_hi _ _ _ _ (by decide)).trans ((bits_hi _ _ _ _ (by decide)).trans (bits_last _ _))
  have b15_5 : bitsAt w 15 5 = 0x0#5 := by rw [e]; exact (bits_hi _ _ _ _ (by decide)).trans ((bits_hi _ _ _ _ (by decide)).trans ((bits_hi _ _ _ _ (by decide)).trans (bits_last _ _)))
  have b20_5 : bitsAt w 20 5 = 0x0#5 := by rw [e]; exact (bits_hi _ _ _ _ (by decide)).trans ((bits_hi _ _ _ _ (by decide)).trans ((bits_hi _ _ _ _ (by decide)).trans ((bits_hi _ _ _ _ (by decide)).trans (bits_last _ _))))
  have b25_2 : bitsAt w 25 2 = ch := by rw [e]; exact (bits_hi _ _ _ _ (by decide)).trans ((bits_hi _ _ _ _ (by decide)).trans ((bits_hi _ _ _ _ (by decide)).trans ((bits_hi _ _ _ _ (by decide)).trans ((bits_hi _ _ _ _ (by decide)).trans (bits_last _ _)))))
  have b27_5 : bitsAt w 27 5 = 0x0#5 := by rw [e]; exact (bits_hi _ _ _ _ (by decide)).trans ((bits_hi _ _ _ _ (by decide)).trans ((bits_hi _ _ _ _ (by decide)).trans ((bits_hi _ _ _ _ (by decide)).trans ((bits_hi _ _ _ _ (by decide)).trans ((bits_hi _ _ _ _ (by decide)).trans (bits_all _))))))
  rw [at_decodeRow_43 w b0_7, at_decodeCustom1_5 w b12_3]
  unfold decodeCustom15
  rw [b7_5, b15_5, b20_5, b25_2, b27_5]
  rfl

theorem cpcancel (ch : BitVec 2) : Statement (.cpcancel ch) := by
  intro w h _
  have e : w = 0x1#5 ++ ch ++ 0x0#5 ++ 0x0#5 ++ 0x5#3 ++ 0x0#5 ++ 0x2B#7 := (Option.some.inj h).symm
  have b0_7 : bitsAt w 0 7 = 0x2B#7 := by rw [e]; exact bits_last _ _
  have b7_5 : bitsAt w 7 5 = 0x0#5 := by rw [e]; exact (bits_hi _ _ _ _ (by decide)).trans (bits_last _ _)
  have b12_3 : bitsAt w 12 3 = 0x5#3 := by rw [e]; exact (bits_hi _ _ _ _ (by decide)).trans ((bits_hi _ _ _ _ (by decide)).trans (bits_last _ _))
  have b15_5 : bitsAt w 15 5 = 0x0#5 := by rw [e]; exact (bits_hi _ _ _ _ (by decide)).trans ((bits_hi _ _ _ _ (by decide)).trans ((bits_hi _ _ _ _ (by decide)).trans (bits_last _ _)))
  have b20_5 : bitsAt w 20 5 = 0x0#5 := by rw [e]; exact (bits_hi _ _ _ _ (by decide)).trans ((bits_hi _ _ _ _ (by decide)).trans ((bits_hi _ _ _ _ (by decide)).trans ((bits_hi _ _ _ _ (by decide)).trans (bits_last _ _))))
  have b25_2 : bitsAt w 25 2 = ch := by rw [e]; exact (bits_hi _ _ _ _ (by decide)).trans ((bits_hi _ _ _ _ (by decide)).trans ((bits_hi _ _ _ _ (by decide)).trans ((bits_hi _ _ _ _ (by decide)).trans ((bits_hi _ _ _ _ (by decide)).trans (bits_last _ _)))))
  have b27_5 : bitsAt w 27 5 = 0x1#5 := by rw [e]; exact (bits_hi _ _ _ _ (by decide)).trans ((bits_hi _ _ _ _ (by decide)).trans ((bits_hi _ _ _ _ (by decide)).trans ((bits_hi _ _ _ _ (by decide)).trans ((bits_hi _ _ _ _ (by decide)).trans ((bits_hi _ _ _ _ (by decide)).trans (bits_all _))))))
  rw [at_decodeRow_43 w b0_7, at_decodeCustom1_5 w b12_3]
  unfold decodeCustom15
  rw [b7_5, b15_5, b20_5, b25_2, b27_5]
  rfl

theorem mcfree (rs1 : BitVec 5) : Statement (.mcfree rs1) := by
  intro w h _
  have e : w = 0x8#7 ++ 0x0#5 ++ rs1 ++ 0x5#3 ++ 0x0#5 ++ 0x2B#7 := (Option.some.inj h).symm
  have b0_7 : bitsAt w 0 7 = 0x2B#7 := by rw [e]; exact bits_last _ _
  have b7_5 : bitsAt w 7 5 = 0x0#5 := by rw [e]; exact (bits_hi _ _ _ _ (by decide)).trans (bits_last _ _)
  have b12_3 : bitsAt w 12 3 = 0x5#3 := by rw [e]; exact (bits_hi _ _ _ _ (by decide)).trans ((bits_hi _ _ _ _ (by decide)).trans (bits_last _ _))
  have b15_5 : bitsAt w 15 5 = rs1 := by rw [e]; exact (bits_hi _ _ _ _ (by decide)).trans ((bits_hi _ _ _ _ (by decide)).trans ((bits_hi _ _ _ _ (by decide)).trans (bits_last _ _)))
  have b20_5 : bitsAt w 20 5 = 0x0#5 := by rw [e]; exact (bits_hi _ _ _ _ (by decide)).trans ((bits_hi _ _ _ _ (by decide)).trans ((bits_hi _ _ _ _ (by decide)).trans ((bits_hi _ _ _ _ (by decide)).trans (bits_last _ _))))
  have b25_2 : bitsAt w 25 2 = 0#2 := by rw [e]; exact (bits_hi _ _ _ _ (by decide)).trans ((bits_hi _ _ _ _ (by decide)).trans ((bits_hi _ _ _ _ (by decide)).trans ((bits_hi _ _ _ _ (by decide)).trans ((bits_hi _ _ _ _ (by decide)).trans (rfl)))))
  have b25_7 : bitsAt w 25 7 = 0x8#7 := by rw [e]; exact (bits_hi _ _ _ _ (by decide)).trans ((bits_hi _ _ _ _ (by decide)).trans ((bits_hi _ _ _ _ (by decide)).trans ((bits_hi _ _ _ _ (by decide)).trans ((bits_hi _ _ _ _ (by decide)).trans (bits_all _)))))
  have b27_5 : bitsAt w 27 5 = 2#5 := by rw [e]; exact (bits_hi _ _ _ _ (by decide)).trans ((bits_hi _ _ _ _ (by decide)).trans ((bits_hi _ _ _ _ (by decide)).trans ((bits_hi _ _ _ _ (by decide)).trans ((bits_hi _ _ _ _ (by decide)).trans (rfl)))))
  rw [at_decodeRow_43 w b0_7, at_decodeCustom1_5 w b12_3]
  unfold decodeCustom15
  rw [b7_5, b15_5, b20_5, b25_2, b25_7, b27_5]
  rfl

theorem tdisc (scope : BitVec 4) (rs1 : BitVec 5) (rd : BitVec 5) : Statement (.tdisc scope rs1 rd) := by
  intro w h _
  have e : w = 0x0#3 ++ scope ++ 0x0#5 ++ rs1 ++ 0x6#3 ++ rd ++ 0x2B#7 := (Option.some.inj h).symm
  have b0_7 : bitsAt w 0 7 = 0x2B#7 := by rw [e]; exact bits_last _ _
  have b7_5 : bitsAt w 7 5 = rd := by rw [e]; exact (bits_hi _ _ _ _ (by decide)).trans (bits_last _ _)
  have b12_3 : bitsAt w 12 3 = 0x6#3 := by rw [e]; exact (bits_hi _ _ _ _ (by decide)).trans ((bits_hi _ _ _ _ (by decide)).trans (bits_last _ _))
  have b15_5 : bitsAt w 15 5 = rs1 := by rw [e]; exact (bits_hi _ _ _ _ (by decide)).trans ((bits_hi _ _ _ _ (by decide)).trans ((bits_hi _ _ _ _ (by decide)).trans (bits_last _ _)))
  have b20_5 : bitsAt w 20 5 = 0x0#5 := by rw [e]; exact (bits_hi _ _ _ _ (by decide)).trans ((bits_hi _ _ _ _ (by decide)).trans ((bits_hi _ _ _ _ (by decide)).trans ((bits_hi _ _ _ _ (by decide)).trans (bits_last _ _))))
  have b25_4 : bitsAt w 25 4 = scope := by rw [e]; exact (bits_hi _ _ _ _ (by decide)).trans ((bits_hi _ _ _ _ (by decide)).trans ((bits_hi _ _ _ _ (by decide)).trans ((bits_hi _ _ _ _ (by decide)).trans ((bits_hi _ _ _ _ (by decide)).trans (bits_last _ _)))))
  have b29_3 : bitsAt w 29 3 = 0x0#3 := by rw [e]; exact (bits_hi _ _ _ _ (by decide)).trans ((bits_hi _ _ _ _ (by decide)).trans ((bits_hi _ _ _ _ (by decide)).trans ((bits_hi _ _ _ _ (by decide)).trans ((bits_hi _ _ _ _ (by decide)).trans ((bits_hi _ _ _ _ (by decide)).trans (bits_all _))))))
  rw [at_decodeRow_43 w b0_7, at_decodeCustom1_6 w b12_3]
  unfold decodeCustom16
  rw [b7_5, b15_5, b20_5, b25_4, b29_3]
  rfl

theorem lpin (rs2 : BitVec 5) (rs1 : BitVec 5) : Statement (.lpin rs2 rs1) := by
  intro w h _
  have e : w = 0x10#7 ++ rs2 ++ rs1 ++ 0x6#3 ++ 0x0#5 ++ 0x2B#7 := (Option.some.inj h).symm
  have b0_7 : bitsAt w 0 7 = 0x2B#7 := by rw [e]; exact bits_last _ _
  have b7_5 : bitsAt w 7 5 = 0x0#5 := by rw [e]; exact (bits_hi _ _ _ _ (by decide)).trans (bits_last _ _)
  have b12_3 : bitsAt w 12 3 = 0x6#3 := by rw [e]; exact (bits_hi _ _ _ _ (by decide)).trans ((bits_hi _ _ _ _ (by decide)).trans (bits_last _ _))
  have b15_5 : bitsAt w 15 5 = rs1 := by rw [e]; exact (bits_hi _ _ _ _ (by decide)).trans ((bits_hi _ _ _ _ (by decide)).trans ((bits_hi _ _ _ _ (by decide)).trans (bits_last _ _)))
  have b20_5 : bitsAt w 20 5 = rs2 := by rw [e]; exact (bits_hi _ _ _ _ (by decide)).trans ((bits_hi _ _ _ _ (by decide)).trans ((bits_hi _ _ _ _ (by decide)).trans ((bits_hi _ _ _ _ (by decide)).trans (bits_last _ _))))
  have b25_4 : bitsAt w 25 4 = 0#4 := by rw [e]; exact (bits_hi _ _ _ _ (by decide)).trans ((bits_hi _ _ _ _ (by decide)).trans ((bits_hi _ _ _ _ (by decide)).trans ((bits_hi _ _ _ _ (by decide)).trans ((bits_hi _ _ _ _ (by decide)).trans (rfl)))))
  have b25_7 : bitsAt w 25 7 = 0x10#7 := by rw [e]; exact (bits_hi _ _ _ _ (by decide)).trans ((bits_hi _ _ _ _ (by decide)).trans ((bits_hi _ _ _ _ (by decide)).trans ((bits_hi _ _ _ _ (by decide)).trans ((bits_hi _ _ _ _ (by decide)).trans (bits_all _)))))
  have b29_3 : bitsAt w 29 3 = 1#3 := by rw [e]; exact (bits_hi _ _ _ _ (by decide)).trans ((bits_hi _ _ _ _ (by decide)).trans ((bits_hi _ _ _ _ (by decide)).trans ((bits_hi _ _ _ _ (by decide)).trans ((bits_hi _ _ _ _ (by decide)).trans (rfl)))))
  rw [at_decodeRow_43 w b0_7, at_decodeCustom1_6 w b12_3]
  unfold decodeCustom16
  rw [b7_5, b15_5, b20_5, b25_4, b25_7, b29_3]
  rfl

theorem lunpin (rs2 : BitVec 5) (rs1 : BitVec 5) : Statement (.lunpin rs2 rs1) := by
  intro w h _
  have e : w = 0x20#7 ++ rs2 ++ rs1 ++ 0x6#3 ++ 0x0#5 ++ 0x2B#7 := (Option.some.inj h).symm
  have b0_7 : bitsAt w 0 7 = 0x2B#7 := by rw [e]; exact bits_last _ _
  have b7_5 : bitsAt w 7 5 = 0x0#5 := by rw [e]; exact (bits_hi _ _ _ _ (by decide)).trans (bits_last _ _)
  have b12_3 : bitsAt w 12 3 = 0x6#3 := by rw [e]; exact (bits_hi _ _ _ _ (by decide)).trans ((bits_hi _ _ _ _ (by decide)).trans (bits_last _ _))
  have b15_5 : bitsAt w 15 5 = rs1 := by rw [e]; exact (bits_hi _ _ _ _ (by decide)).trans ((bits_hi _ _ _ _ (by decide)).trans ((bits_hi _ _ _ _ (by decide)).trans (bits_last _ _)))
  have b20_5 : bitsAt w 20 5 = rs2 := by rw [e]; exact (bits_hi _ _ _ _ (by decide)).trans ((bits_hi _ _ _ _ (by decide)).trans ((bits_hi _ _ _ _ (by decide)).trans ((bits_hi _ _ _ _ (by decide)).trans (bits_last _ _))))
  have b25_4 : bitsAt w 25 4 = 0#4 := by rw [e]; exact (bits_hi _ _ _ _ (by decide)).trans ((bits_hi _ _ _ _ (by decide)).trans ((bits_hi _ _ _ _ (by decide)).trans ((bits_hi _ _ _ _ (by decide)).trans ((bits_hi _ _ _ _ (by decide)).trans (rfl)))))
  have b25_7 : bitsAt w 25 7 = 0x20#7 := by rw [e]; exact (bits_hi _ _ _ _ (by decide)).trans ((bits_hi _ _ _ _ (by decide)).trans ((bits_hi _ _ _ _ (by decide)).trans ((bits_hi _ _ _ _ (by decide)).trans ((bits_hi _ _ _ _ (by decide)).trans (bits_all _)))))
  have b29_3 : bitsAt w 29 3 = 2#3 := by rw [e]; exact (bits_hi _ _ _ _ (by decide)).trans ((bits_hi _ _ _ _ (by decide)).trans ((bits_hi _ _ _ _ (by decide)).trans ((bits_hi _ _ _ _ (by decide)).trans ((bits_hi _ _ _ _ (by decide)).trans (rfl)))))
  rw [at_decodeRow_43 w b0_7, at_decodeCustom1_6 w b12_3]
  unfold decodeCustom16
  rw [b7_5, b15_5, b20_5, b25_4, b25_7, b29_3]
  rfl

theorem rprobe (rs1 : BitVec 5) (rd : BitVec 5) : Statement (.rprobe rs1 rd) := by
  intro w h _
  have e : w = 0x0#7 ++ 0x0#5 ++ rs1 ++ 0x7#3 ++ rd ++ 0x2B#7 := (Option.some.inj h).symm
  have b0_7 : bitsAt w 0 7 = 0x2B#7 := by rw [e]; exact bits_last _ _
  have b7_5 : bitsAt w 7 5 = rd := by rw [e]; exact (bits_hi _ _ _ _ (by decide)).trans (bits_last _ _)
  have b12_3 : bitsAt w 12 3 = 0x7#3 := by rw [e]; exact (bits_hi _ _ _ _ (by decide)).trans ((bits_hi _ _ _ _ (by decide)).trans (bits_last _ _))
  have b15_5 : bitsAt w 15 5 = rs1 := by rw [e]; exact (bits_hi _ _ _ _ (by decide)).trans ((bits_hi _ _ _ _ (by decide)).trans ((bits_hi _ _ _ _ (by decide)).trans (bits_last _ _)))
  have b20_5 : bitsAt w 20 5 = 0x0#5 := by rw [e]; exact (bits_hi _ _ _ _ (by decide)).trans ((bits_hi _ _ _ _ (by decide)).trans ((bits_hi _ _ _ _ (by decide)).trans ((bits_hi _ _ _ _ (by decide)).trans (bits_last _ _))))
  have b25_7 : bitsAt w 25 7 = 0x0#7 := by rw [e]; exact (bits_hi _ _ _ _ (by decide)).trans ((bits_hi _ _ _ _ (by decide)).trans ((bits_hi _ _ _ _ (by decide)).trans ((bits_hi _ _ _ _ (by decide)).trans ((bits_hi _ _ _ _ (by decide)).trans (bits_all _)))))
  rw [at_decodeRow_43 w b0_7, at_decodeCustom1_7 w b12_3]
  unfold decodeCustom17
  rw [b7_5, b15_5, b20_5, b25_7]
  rfl

theorem rloadt (rs1 : BitVec 5) (rd : BitVec 5) : Statement (.rloadt rs1 rd) := by
  intro w h _
  have e : w = 0x10#7 ++ 0x0#5 ++ rs1 ++ 0x7#3 ++ rd ++ 0x2B#7 := (Option.some.inj h).symm
  have b0_7 : bitsAt w 0 7 = 0x2B#7 := by rw [e]; exact bits_last _ _
  have b7_5 : bitsAt w 7 5 = rd := by rw [e]; exact (bits_hi _ _ _ _ (by decide)).trans (bits_last _ _)
  have b12_3 : bitsAt w 12 3 = 0x7#3 := by rw [e]; exact (bits_hi _ _ _ _ (by decide)).trans ((bits_hi _ _ _ _ (by decide)).trans (bits_last _ _))
  have b15_5 : bitsAt w 15 5 = rs1 := by rw [e]; exact (bits_hi _ _ _ _ (by decide)).trans ((bits_hi _ _ _ _ (by decide)).trans ((bits_hi _ _ _ _ (by decide)).trans (bits_last _ _)))
  have b20_5 : bitsAt w 20 5 = 0x0#5 := by rw [e]; exact (bits_hi _ _ _ _ (by decide)).trans ((bits_hi _ _ _ _ (by decide)).trans ((bits_hi _ _ _ _ (by decide)).trans ((bits_hi _ _ _ _ (by decide)).trans (bits_last _ _))))
  have b25_7 : bitsAt w 25 7 = 0x10#7 := by rw [e]; exact (bits_hi _ _ _ _ (by decide)).trans ((bits_hi _ _ _ _ (by decide)).trans ((bits_hi _ _ _ _ (by decide)).trans ((bits_hi _ _ _ _ (by decide)).trans ((bits_hi _ _ _ _ (by decide)).trans (bits_all _)))))
  rw [at_decodeRow_43 w b0_7, at_decodeCustom1_7 w b12_3]
  unfold decodeCustom17
  rw [b7_5, b15_5, b20_5, b25_7]
  rfl

theorem rsplit (rs2 : BitVec 5) (rs1 : BitVec 5) (rd : BitVec 5) : Statement (.rsplit rs2 rs1 rd) := by
  intro w h _
  have e : w = 0x20#7 ++ rs2 ++ rs1 ++ 0x7#3 ++ rd ++ 0x2B#7 := (Option.some.inj h).symm
  have b0_7 : bitsAt w 0 7 = 0x2B#7 := by rw [e]; exact bits_last _ _
  have b7_5 : bitsAt w 7 5 = rd := by rw [e]; exact (bits_hi _ _ _ _ (by decide)).trans (bits_last _ _)
  have b12_3 : bitsAt w 12 3 = 0x7#3 := by rw [e]; exact (bits_hi _ _ _ _ (by decide)).trans ((bits_hi _ _ _ _ (by decide)).trans (bits_last _ _))
  have b15_5 : bitsAt w 15 5 = rs1 := by rw [e]; exact (bits_hi _ _ _ _ (by decide)).trans ((bits_hi _ _ _ _ (by decide)).trans ((bits_hi _ _ _ _ (by decide)).trans (bits_last _ _)))
  have b20_5 : bitsAt w 20 5 = rs2 := by rw [e]; exact (bits_hi _ _ _ _ (by decide)).trans ((bits_hi _ _ _ _ (by decide)).trans ((bits_hi _ _ _ _ (by decide)).trans ((bits_hi _ _ _ _ (by decide)).trans (bits_last _ _))))
  have b25_7 : bitsAt w 25 7 = 0x20#7 := by rw [e]; exact (bits_hi _ _ _ _ (by decide)).trans ((bits_hi _ _ _ _ (by decide)).trans ((bits_hi _ _ _ _ (by decide)).trans ((bits_hi _ _ _ _ (by decide)).trans ((bits_hi _ _ _ _ (by decide)).trans (bits_all _)))))
  rw [at_decodeRow_43 w b0_7, at_decodeCustom1_7 w b12_3]
  unfold decodeCustom17
  rw [b7_5, b15_5, b20_5, b25_7]
  rfl

theorem rmerge (rs1 : BitVec 5) (rd : BitVec 5) : Statement (.rmerge rs1 rd) := by
  intro w h _
  have e : w = 0x30#7 ++ 0x0#5 ++ rs1 ++ 0x7#3 ++ rd ++ 0x2B#7 := (Option.some.inj h).symm
  have b0_7 : bitsAt w 0 7 = 0x2B#7 := by rw [e]; exact bits_last _ _
  have b7_5 : bitsAt w 7 5 = rd := by rw [e]; exact (bits_hi _ _ _ _ (by decide)).trans (bits_last _ _)
  have b12_3 : bitsAt w 12 3 = 0x7#3 := by rw [e]; exact (bits_hi _ _ _ _ (by decide)).trans ((bits_hi _ _ _ _ (by decide)).trans (bits_last _ _))
  have b15_5 : bitsAt w 15 5 = rs1 := by rw [e]; exact (bits_hi _ _ _ _ (by decide)).trans ((bits_hi _ _ _ _ (by decide)).trans ((bits_hi _ _ _ _ (by decide)).trans (bits_last _ _)))
  have b20_5 : bitsAt w 20 5 = 0x0#5 := by rw [e]; exact (bits_hi _ _ _ _ (by decide)).trans ((bits_hi _ _ _ _ (by decide)).trans ((bits_hi _ _ _ _ (by decide)).trans ((bits_hi _ _ _ _ (by decide)).trans (bits_last _ _))))
  have b25_7 : bitsAt w 25 7 = 0x30#7 := by rw [e]; exact (bits_hi _ _ _ _ (by decide)).trans ((bits_hi _ _ _ _ (by decide)).trans ((bits_hi _ _ _ _ (by decide)).trans ((bits_hi _ _ _ _ (by decide)).trans ((bits_hi _ _ _ _ (by decide)).trans (bits_all _)))))
  rw [at_decodeRow_43 w b0_7, at_decodeCustom1_7 w b12_3]
  unfold decodeCustom17
  rw [b7_5, b15_5, b20_5, b25_7]
  rfl

theorem rsetres (rs2 : BitVec 5) (rs1 : BitVec 5) : Statement (.rsetres rs2 rs1) := by
  intro w h _
  have e : w = 0x40#7 ++ rs2 ++ rs1 ++ 0x7#3 ++ 0x0#5 ++ 0x2B#7 := (Option.some.inj h).symm
  have b0_7 : bitsAt w 0 7 = 0x2B#7 := by rw [e]; exact bits_last _ _
  have b7_5 : bitsAt w 7 5 = 0x0#5 := by rw [e]; exact (bits_hi _ _ _ _ (by decide)).trans (bits_last _ _)
  have b12_3 : bitsAt w 12 3 = 0x7#3 := by rw [e]; exact (bits_hi _ _ _ _ (by decide)).trans ((bits_hi _ _ _ _ (by decide)).trans (bits_last _ _))
  have b15_5 : bitsAt w 15 5 = rs1 := by rw [e]; exact (bits_hi _ _ _ _ (by decide)).trans ((bits_hi _ _ _ _ (by decide)).trans ((bits_hi _ _ _ _ (by decide)).trans (bits_last _ _)))
  have b20_5 : bitsAt w 20 5 = rs2 := by rw [e]; exact (bits_hi _ _ _ _ (by decide)).trans ((bits_hi _ _ _ _ (by decide)).trans ((bits_hi _ _ _ _ (by decide)).trans ((bits_hi _ _ _ _ (by decide)).trans (bits_last _ _))))
  have b25_7 : bitsAt w 25 7 = 0x40#7 := by rw [e]; exact (bits_hi _ _ _ _ (by decide)).trans ((bits_hi _ _ _ _ (by decide)).trans ((bits_hi _ _ _ _ (by decide)).trans ((bits_hi _ _ _ _ (by decide)).trans ((bits_hi _ _ _ _ (by decide)).trans (bits_all _)))))
  rw [at_decodeRow_43 w b0_7, at_decodeCustom1_7 w b12_3]
  unfold decodeCustom17
  rw [b7_5, b15_5, b20_5, b25_7]
  rfl

theorem rclrres (rs2 : BitVec 5) (rs1 : BitVec 5) : Statement (.rclrres rs2 rs1) := by
  intro w h _
  have e : w = 0x50#7 ++ rs2 ++ rs1 ++ 0x7#3 ++ 0x0#5 ++ 0x2B#7 := (Option.some.inj h).symm
  have b0_7 : bitsAt w 0 7 = 0x2B#7 := by rw [e]; exact bits_last _ _
  have b7_5 : bitsAt w 7 5 = 0x0#5 := by rw [e]; exact (bits_hi _ _ _ _ (by decide)).trans (bits_last _ _)
  have b12_3 : bitsAt w 12 3 = 0x7#3 := by rw [e]; exact (bits_hi _ _ _ _ (by decide)).trans ((bits_hi _ _ _ _ (by decide)).trans (bits_last _ _))
  have b15_5 : bitsAt w 15 5 = rs1 := by rw [e]; exact (bits_hi _ _ _ _ (by decide)).trans ((bits_hi _ _ _ _ (by decide)).trans ((bits_hi _ _ _ _ (by decide)).trans (bits_last _ _)))
  have b20_5 : bitsAt w 20 5 = rs2 := by rw [e]; exact (bits_hi _ _ _ _ (by decide)).trans ((bits_hi _ _ _ _ (by decide)).trans ((bits_hi _ _ _ _ (by decide)).trans ((bits_hi _ _ _ _ (by decide)).trans (bits_last _ _))))
  have b25_7 : bitsAt w 25 7 = 0x50#7 := by rw [e]; exact (bits_hi _ _ _ _ (by decide)).trans ((bits_hi _ _ _ _ (by decide)).trans ((bits_hi _ _ _ _ (by decide)).trans ((bits_hi _ _ _ _ (by decide)).trans ((bits_hi _ _ _ _ (by decide)).trans (bits_all _)))))
  rw [at_decodeRow_43 w b0_7, at_decodeCustom1_7 w b12_3]
  unfold decodeCustom17
  rw [b7_5, b15_5, b20_5, b25_7]
  rfl

theorem rinv (scope : BitVec 4) (rs2 : BitVec 5) (rs1 : BitVec 5) (rd : BitVec 5) : Statement (.rinv scope rs2 rs1 rd) := by
  intro w h _
  have e : w = 0x6#3 ++ scope ++ rs2 ++ rs1 ++ 0x7#3 ++ rd ++ 0x2B#7 := (Option.some.inj h).symm
  have b0_7 : bitsAt w 0 7 = 0x2B#7 := by rw [e]; exact bits_last _ _
  have b7_5 : bitsAt w 7 5 = rd := by rw [e]; exact (bits_hi _ _ _ _ (by decide)).trans (bits_last _ _)
  have b12_3 : bitsAt w 12 3 = 0x7#3 := by rw [e]; exact (bits_hi _ _ _ _ (by decide)).trans ((bits_hi _ _ _ _ (by decide)).trans (bits_last _ _))
  have b15_5 : bitsAt w 15 5 = rs1 := by rw [e]; exact (bits_hi _ _ _ _ (by decide)).trans ((bits_hi _ _ _ _ (by decide)).trans ((bits_hi _ _ _ _ (by decide)).trans (bits_last _ _)))
  have b20_5 : bitsAt w 20 5 = rs2 := by rw [e]; exact (bits_hi _ _ _ _ (by decide)).trans ((bits_hi _ _ _ _ (by decide)).trans ((bits_hi _ _ _ _ (by decide)).trans ((bits_hi _ _ _ _ (by decide)).trans (bits_last _ _))))
  have b25_4 : bitsAt w 25 4 = scope := by rw [e]; exact (bits_hi _ _ _ _ (by decide)).trans ((bits_hi _ _ _ _ (by decide)).trans ((bits_hi _ _ _ _ (by decide)).trans ((bits_hi _ _ _ _ (by decide)).trans ((bits_hi _ _ _ _ (by decide)).trans (bits_last _ _)))))
  have b29_3 : bitsAt w 29 3 = 0x6#3 := by rw [e]; exact (bits_hi _ _ _ _ (by decide)).trans ((bits_hi _ _ _ _ (by decide)).trans ((bits_hi _ _ _ _ (by decide)).trans ((bits_hi _ _ _ _ (by decide)).trans ((bits_hi _ _ _ _ (by decide)).trans ((bits_hi _ _ _ _ (by decide)).trans (bits_all _))))))
  rw [at_decodeRow_43 w b0_7, at_decodeCustom1_7 w b12_3]
  unfold decodeCustom17
  rw [top_ne w 4 3 _ 0x0#7 b29_3 (by decide) (by decide), top_ne w 4 3 _ 0x10#7 b29_3 (by decide) (by decide), top_ne w 4 3 _ 0x20#7 b29_3 (by decide) (by decide), top_ne w 4 3 _ 0x30#7 b29_3 (by decide) (by decide), top_ne w 4 3 _ 0x40#7 b29_3 (by decide) (by decide), top_ne w 4 3 _ 0x50#7 b29_3 (by decide) (by decide)]
  rw [b7_5, b15_5, b20_5, b25_4, b29_3]
  rfl

theorem rglean (rs2 : BitVec 5) (rs1 : BitVec 5) (rd : BitVec 5) : Statement (.rglean rs2 rs1 rd) := by
  intro w h _
  have e : w = 0x70#7 ++ rs2 ++ rs1 ++ 0x7#3 ++ rd ++ 0x2B#7 := (Option.some.inj h).symm
  have b0_7 : bitsAt w 0 7 = 0x2B#7 := by rw [e]; exact bits_last _ _
  have b7_5 : bitsAt w 7 5 = rd := by rw [e]; exact (bits_hi _ _ _ _ (by decide)).trans (bits_last _ _)
  have b12_3 : bitsAt w 12 3 = 0x7#3 := by rw [e]; exact (bits_hi _ _ _ _ (by decide)).trans ((bits_hi _ _ _ _ (by decide)).trans (bits_last _ _))
  have b15_5 : bitsAt w 15 5 = rs1 := by rw [e]; exact (bits_hi _ _ _ _ (by decide)).trans ((bits_hi _ _ _ _ (by decide)).trans ((bits_hi _ _ _ _ (by decide)).trans (bits_last _ _)))
  have b20_5 : bitsAt w 20 5 = rs2 := by rw [e]; exact (bits_hi _ _ _ _ (by decide)).trans ((bits_hi _ _ _ _ (by decide)).trans ((bits_hi _ _ _ _ (by decide)).trans ((bits_hi _ _ _ _ (by decide)).trans (bits_last _ _))))
  have b25_4 : bitsAt w 25 4 = 0#4 := by rw [e]; exact (bits_hi _ _ _ _ (by decide)).trans ((bits_hi _ _ _ _ (by decide)).trans ((bits_hi _ _ _ _ (by decide)).trans ((bits_hi _ _ _ _ (by decide)).trans ((bits_hi _ _ _ _ (by decide)).trans (rfl)))))
  have b25_7 : bitsAt w 25 7 = 0x70#7 := by rw [e]; exact (bits_hi _ _ _ _ (by decide)).trans ((bits_hi _ _ _ _ (by decide)).trans ((bits_hi _ _ _ _ (by decide)).trans ((bits_hi _ _ _ _ (by decide)).trans ((bits_hi _ _ _ _ (by decide)).trans (bits_all _)))))
  have b29_3 : bitsAt w 29 3 = 7#3 := by rw [e]; exact (bits_hi _ _ _ _ (by decide)).trans ((bits_hi _ _ _ _ (by decide)).trans ((bits_hi _ _ _ _ (by decide)).trans ((bits_hi _ _ _ _ (by decide)).trans ((bits_hi _ _ _ _ (by decide)).trans (rfl)))))
  rw [at_decodeRow_43 w b0_7, at_decodeCustom1_7 w b12_3]
  unfold decodeCustom17
  rw [b7_5, b15_5, b20_5, b25_4, b25_7, b29_3]
  rfl

theorem vadd (rs2 : BitVec 5) (rs1 : BitVec 5) (ty : BitVec 3) (rd : BitVec 5) : Statement (.vadd rs2 rs1 ty rd) := by
  intro w h hw
  have e : w = 0x0#7 ++ rs2 ++ rs1 ++ ty ++ rd ++ 0x5B#7 := (Option.some.inj h).symm
  have b0_7 : bitsAt w 0 7 = 0x5B#7 := by rw [e]; exact bits_last _ _
  have b7_5 : bitsAt w 7 5 = rd := by rw [e]; exact (bits_hi _ _ _ _ (by decide)).trans (bits_last _ _)
  have b12_3 : bitsAt w 12 3 = ty := by rw [e]; exact (bits_hi _ _ _ _ (by decide)).trans ((bits_hi _ _ _ _ (by decide)).trans (bits_last _ _))
  have b15_5 : bitsAt w 15 5 = rs1 := by rw [e]; exact (bits_hi _ _ _ _ (by decide)).trans ((bits_hi _ _ _ _ (by decide)).trans ((bits_hi _ _ _ _ (by decide)).trans (bits_last _ _)))
  have b20_5 : bitsAt w 20 5 = rs2 := by rw [e]; exact (bits_hi _ _ _ _ (by decide)).trans ((bits_hi _ _ _ _ (by decide)).trans ((bits_hi _ _ _ _ (by decide)).trans ((bits_hi _ _ _ _ (by decide)).trans (bits_last _ _))))
  have b25_1 : bitsAt w 25 1 = 0#1 := by rw [e]; exact (bits_hi _ _ _ _ (by decide)).trans ((bits_hi _ _ _ _ (by decide)).trans ((bits_hi _ _ _ _ (by decide)).trans ((bits_hi _ _ _ _ (by decide)).trans ((bits_hi _ _ _ _ (by decide)).trans (rfl)))))
  have b25_7 : bitsAt w 25 7 = 0x0#7 := by rw [e]; exact (bits_hi _ _ _ _ (by decide)).trans ((bits_hi _ _ _ _ (by decide)).trans ((bits_hi _ _ _ _ (by decide)).trans ((bits_hi _ _ _ _ (by decide)).trans ((bits_hi _ _ _ _ (by decide)).trans (bits_all _)))))
  rw [at_decodeRow_91 w b0_7, at_custom2 w _ b12_3 (by rintro rfl; cases hw) (by rintro rfl; cases hw), b25_1]
  change decodeCustom2R w = _
  unfold decodeCustom2R
  rw [b7_5, b12_3, b15_5, b20_5, b25_7]
  rfl

theorem vsub (rs2 : BitVec 5) (rs1 : BitVec 5) (ty : BitVec 3) (rd : BitVec 5) : Statement (.vsub rs2 rs1 ty rd) := by
  intro w h hw
  have e : w = 0x2#7 ++ rs2 ++ rs1 ++ ty ++ rd ++ 0x5B#7 := (Option.some.inj h).symm
  have b0_7 : bitsAt w 0 7 = 0x5B#7 := by rw [e]; exact bits_last _ _
  have b7_5 : bitsAt w 7 5 = rd := by rw [e]; exact (bits_hi _ _ _ _ (by decide)).trans (bits_last _ _)
  have b12_3 : bitsAt w 12 3 = ty := by rw [e]; exact (bits_hi _ _ _ _ (by decide)).trans ((bits_hi _ _ _ _ (by decide)).trans (bits_last _ _))
  have b15_5 : bitsAt w 15 5 = rs1 := by rw [e]; exact (bits_hi _ _ _ _ (by decide)).trans ((bits_hi _ _ _ _ (by decide)).trans ((bits_hi _ _ _ _ (by decide)).trans (bits_last _ _)))
  have b20_5 : bitsAt w 20 5 = rs2 := by rw [e]; exact (bits_hi _ _ _ _ (by decide)).trans ((bits_hi _ _ _ _ (by decide)).trans ((bits_hi _ _ _ _ (by decide)).trans ((bits_hi _ _ _ _ (by decide)).trans (bits_last _ _))))
  have b25_1 : bitsAt w 25 1 = 0#1 := by rw [e]; exact (bits_hi _ _ _ _ (by decide)).trans ((bits_hi _ _ _ _ (by decide)).trans ((bits_hi _ _ _ _ (by decide)).trans ((bits_hi _ _ _ _ (by decide)).trans ((bits_hi _ _ _ _ (by decide)).trans (rfl)))))
  have b25_7 : bitsAt w 25 7 = 0x2#7 := by rw [e]; exact (bits_hi _ _ _ _ (by decide)).trans ((bits_hi _ _ _ _ (by decide)).trans ((bits_hi _ _ _ _ (by decide)).trans ((bits_hi _ _ _ _ (by decide)).trans ((bits_hi _ _ _ _ (by decide)).trans (bits_all _)))))
  rw [at_decodeRow_91 w b0_7, at_custom2 w _ b12_3 (by rintro rfl; cases hw) (by rintro rfl; cases hw), b25_1]
  change decodeCustom2R w = _
  unfold decodeCustom2R
  rw [b7_5, b12_3, b15_5, b20_5, b25_7]
  rfl

theorem vmul (rs2 : BitVec 5) (rs1 : BitVec 5) (ty : BitVec 3) (rd : BitVec 5) : Statement (.vmul rs2 rs1 ty rd) := by
  intro w h hw
  have e : w = 0x4#7 ++ rs2 ++ rs1 ++ ty ++ rd ++ 0x5B#7 := (Option.some.inj h).symm
  have b0_7 : bitsAt w 0 7 = 0x5B#7 := by rw [e]; exact bits_last _ _
  have b7_5 : bitsAt w 7 5 = rd := by rw [e]; exact (bits_hi _ _ _ _ (by decide)).trans (bits_last _ _)
  have b12_3 : bitsAt w 12 3 = ty := by rw [e]; exact (bits_hi _ _ _ _ (by decide)).trans ((bits_hi _ _ _ _ (by decide)).trans (bits_last _ _))
  have b15_5 : bitsAt w 15 5 = rs1 := by rw [e]; exact (bits_hi _ _ _ _ (by decide)).trans ((bits_hi _ _ _ _ (by decide)).trans ((bits_hi _ _ _ _ (by decide)).trans (bits_last _ _)))
  have b20_5 : bitsAt w 20 5 = rs2 := by rw [e]; exact (bits_hi _ _ _ _ (by decide)).trans ((bits_hi _ _ _ _ (by decide)).trans ((bits_hi _ _ _ _ (by decide)).trans ((bits_hi _ _ _ _ (by decide)).trans (bits_last _ _))))
  have b25_1 : bitsAt w 25 1 = 0#1 := by rw [e]; exact (bits_hi _ _ _ _ (by decide)).trans ((bits_hi _ _ _ _ (by decide)).trans ((bits_hi _ _ _ _ (by decide)).trans ((bits_hi _ _ _ _ (by decide)).trans ((bits_hi _ _ _ _ (by decide)).trans (rfl)))))
  have b25_7 : bitsAt w 25 7 = 0x4#7 := by rw [e]; exact (bits_hi _ _ _ _ (by decide)).trans ((bits_hi _ _ _ _ (by decide)).trans ((bits_hi _ _ _ _ (by decide)).trans ((bits_hi _ _ _ _ (by decide)).trans ((bits_hi _ _ _ _ (by decide)).trans (bits_all _)))))
  rw [at_decodeRow_91 w b0_7, at_custom2 w _ b12_3 (by rintro rfl; cases hw) (by rintro rfl; cases hw), b25_1]
  change decodeCustom2R w = _
  unfold decodeCustom2R
  rw [b7_5, b12_3, b15_5, b20_5, b25_7]
  rfl

theorem vmin (rs2 : BitVec 5) (rs1 : BitVec 5) (ty : BitVec 3) (rd : BitVec 5) : Statement (.vmin rs2 rs1 ty rd) := by
  intro w h hw
  have e : w = 0x6#7 ++ rs2 ++ rs1 ++ ty ++ rd ++ 0x5B#7 := (Option.some.inj h).symm
  have b0_7 : bitsAt w 0 7 = 0x5B#7 := by rw [e]; exact bits_last _ _
  have b7_5 : bitsAt w 7 5 = rd := by rw [e]; exact (bits_hi _ _ _ _ (by decide)).trans (bits_last _ _)
  have b12_3 : bitsAt w 12 3 = ty := by rw [e]; exact (bits_hi _ _ _ _ (by decide)).trans ((bits_hi _ _ _ _ (by decide)).trans (bits_last _ _))
  have b15_5 : bitsAt w 15 5 = rs1 := by rw [e]; exact (bits_hi _ _ _ _ (by decide)).trans ((bits_hi _ _ _ _ (by decide)).trans ((bits_hi _ _ _ _ (by decide)).trans (bits_last _ _)))
  have b20_5 : bitsAt w 20 5 = rs2 := by rw [e]; exact (bits_hi _ _ _ _ (by decide)).trans ((bits_hi _ _ _ _ (by decide)).trans ((bits_hi _ _ _ _ (by decide)).trans ((bits_hi _ _ _ _ (by decide)).trans (bits_last _ _))))
  have b25_1 : bitsAt w 25 1 = 0#1 := by rw [e]; exact (bits_hi _ _ _ _ (by decide)).trans ((bits_hi _ _ _ _ (by decide)).trans ((bits_hi _ _ _ _ (by decide)).trans ((bits_hi _ _ _ _ (by decide)).trans ((bits_hi _ _ _ _ (by decide)).trans (rfl)))))
  have b25_7 : bitsAt w 25 7 = 0x6#7 := by rw [e]; exact (bits_hi _ _ _ _ (by decide)).trans ((bits_hi _ _ _ _ (by decide)).trans ((bits_hi _ _ _ _ (by decide)).trans ((bits_hi _ _ _ _ (by decide)).trans ((bits_hi _ _ _ _ (by decide)).trans (bits_all _)))))
  rw [at_decodeRow_91 w b0_7, at_custom2 w _ b12_3 (by rintro rfl; cases hw) (by rintro rfl; cases hw), b25_1]
  change decodeCustom2R w = _
  unfold decodeCustom2R
  rw [b7_5, b12_3, b15_5, b20_5, b25_7]
  rfl

theorem vmax (rs2 : BitVec 5) (rs1 : BitVec 5) (ty : BitVec 3) (rd : BitVec 5) : Statement (.vmax rs2 rs1 ty rd) := by
  intro w h hw
  have e : w = 0x8#7 ++ rs2 ++ rs1 ++ ty ++ rd ++ 0x5B#7 := (Option.some.inj h).symm
  have b0_7 : bitsAt w 0 7 = 0x5B#7 := by rw [e]; exact bits_last _ _
  have b7_5 : bitsAt w 7 5 = rd := by rw [e]; exact (bits_hi _ _ _ _ (by decide)).trans (bits_last _ _)
  have b12_3 : bitsAt w 12 3 = ty := by rw [e]; exact (bits_hi _ _ _ _ (by decide)).trans ((bits_hi _ _ _ _ (by decide)).trans (bits_last _ _))
  have b15_5 : bitsAt w 15 5 = rs1 := by rw [e]; exact (bits_hi _ _ _ _ (by decide)).trans ((bits_hi _ _ _ _ (by decide)).trans ((bits_hi _ _ _ _ (by decide)).trans (bits_last _ _)))
  have b20_5 : bitsAt w 20 5 = rs2 := by rw [e]; exact (bits_hi _ _ _ _ (by decide)).trans ((bits_hi _ _ _ _ (by decide)).trans ((bits_hi _ _ _ _ (by decide)).trans ((bits_hi _ _ _ _ (by decide)).trans (bits_last _ _))))
  have b25_1 : bitsAt w 25 1 = 0#1 := by rw [e]; exact (bits_hi _ _ _ _ (by decide)).trans ((bits_hi _ _ _ _ (by decide)).trans ((bits_hi _ _ _ _ (by decide)).trans ((bits_hi _ _ _ _ (by decide)).trans ((bits_hi _ _ _ _ (by decide)).trans (rfl)))))
  have b25_7 : bitsAt w 25 7 = 0x8#7 := by rw [e]; exact (bits_hi _ _ _ _ (by decide)).trans ((bits_hi _ _ _ _ (by decide)).trans ((bits_hi _ _ _ _ (by decide)).trans ((bits_hi _ _ _ _ (by decide)).trans ((bits_hi _ _ _ _ (by decide)).trans (bits_all _)))))
  rw [at_decodeRow_91 w b0_7, at_custom2 w _ b12_3 (by rintro rfl; cases hw) (by rintro rfl; cases hw), b25_1]
  change decodeCustom2R w = _
  unfold decodeCustom2R
  rw [b7_5, b12_3, b15_5, b20_5, b25_7]
  rfl

theorem vabs (rs1 : BitVec 5) (ty : BitVec 3) (rd : BitVec 5) : Statement (.vabs rs1 ty rd) := by
  intro w h hw
  have e : w = 0xA#7 ++ 0x0#5 ++ rs1 ++ ty ++ rd ++ 0x5B#7 := (Option.some.inj h).symm
  have b0_7 : bitsAt w 0 7 = 0x5B#7 := by rw [e]; exact bits_last _ _
  have b7_5 : bitsAt w 7 5 = rd := by rw [e]; exact (bits_hi _ _ _ _ (by decide)).trans (bits_last _ _)
  have b12_3 : bitsAt w 12 3 = ty := by rw [e]; exact (bits_hi _ _ _ _ (by decide)).trans ((bits_hi _ _ _ _ (by decide)).trans (bits_last _ _))
  have b15_5 : bitsAt w 15 5 = rs1 := by rw [e]; exact (bits_hi _ _ _ _ (by decide)).trans ((bits_hi _ _ _ _ (by decide)).trans ((bits_hi _ _ _ _ (by decide)).trans (bits_last _ _)))
  have b20_5 : bitsAt w 20 5 = 0x0#5 := by rw [e]; exact (bits_hi _ _ _ _ (by decide)).trans ((bits_hi _ _ _ _ (by decide)).trans ((bits_hi _ _ _ _ (by decide)).trans ((bits_hi _ _ _ _ (by decide)).trans (bits_last _ _))))
  have b25_1 : bitsAt w 25 1 = 0#1 := by rw [e]; exact (bits_hi _ _ _ _ (by decide)).trans ((bits_hi _ _ _ _ (by decide)).trans ((bits_hi _ _ _ _ (by decide)).trans ((bits_hi _ _ _ _ (by decide)).trans ((bits_hi _ _ _ _ (by decide)).trans (rfl)))))
  have b25_7 : bitsAt w 25 7 = 0xA#7 := by rw [e]; exact (bits_hi _ _ _ _ (by decide)).trans ((bits_hi _ _ _ _ (by decide)).trans ((bits_hi _ _ _ _ (by decide)).trans ((bits_hi _ _ _ _ (by decide)).trans ((bits_hi _ _ _ _ (by decide)).trans (bits_all _)))))
  rw [at_decodeRow_91 w b0_7, at_custom2 w _ b12_3 (by rintro rfl; cases hw) (by rintro rfl; cases hw), b25_1]
  change decodeCustom2R w = _
  unfold decodeCustom2R
  rw [b7_5, b12_3, b15_5, b20_5, b25_7]
  rfl

theorem vneg (rs1 : BitVec 5) (ty : BitVec 3) (rd : BitVec 5) : Statement (.vneg rs1 ty rd) := by
  intro w h hw
  have e : w = 0xC#7 ++ 0x0#5 ++ rs1 ++ ty ++ rd ++ 0x5B#7 := (Option.some.inj h).symm
  have b0_7 : bitsAt w 0 7 = 0x5B#7 := by rw [e]; exact bits_last _ _
  have b7_5 : bitsAt w 7 5 = rd := by rw [e]; exact (bits_hi _ _ _ _ (by decide)).trans (bits_last _ _)
  have b12_3 : bitsAt w 12 3 = ty := by rw [e]; exact (bits_hi _ _ _ _ (by decide)).trans ((bits_hi _ _ _ _ (by decide)).trans (bits_last _ _))
  have b15_5 : bitsAt w 15 5 = rs1 := by rw [e]; exact (bits_hi _ _ _ _ (by decide)).trans ((bits_hi _ _ _ _ (by decide)).trans ((bits_hi _ _ _ _ (by decide)).trans (bits_last _ _)))
  have b20_5 : bitsAt w 20 5 = 0x0#5 := by rw [e]; exact (bits_hi _ _ _ _ (by decide)).trans ((bits_hi _ _ _ _ (by decide)).trans ((bits_hi _ _ _ _ (by decide)).trans ((bits_hi _ _ _ _ (by decide)).trans (bits_last _ _))))
  have b25_1 : bitsAt w 25 1 = 0#1 := by rw [e]; exact (bits_hi _ _ _ _ (by decide)).trans ((bits_hi _ _ _ _ (by decide)).trans ((bits_hi _ _ _ _ (by decide)).trans ((bits_hi _ _ _ _ (by decide)).trans ((bits_hi _ _ _ _ (by decide)).trans (rfl)))))
  have b25_7 : bitsAt w 25 7 = 0xC#7 := by rw [e]; exact (bits_hi _ _ _ _ (by decide)).trans ((bits_hi _ _ _ _ (by decide)).trans ((bits_hi _ _ _ _ (by decide)).trans ((bits_hi _ _ _ _ (by decide)).trans ((bits_hi _ _ _ _ (by decide)).trans (bits_all _)))))
  rw [at_decodeRow_91 w b0_7, at_custom2 w _ b12_3 (by rintro rfl; cases hw) (by rintro rfl; cases hw), b25_1]
  change decodeCustom2R w = _
  unfold decodeCustom2R
  rw [b7_5, b12_3, b15_5, b20_5, b25_7]
  rfl

theorem vcmpeq (rs2 : BitVec 5) (rs1 : BitVec 5) (ty : BitVec 3) (rd : BitVec 5) : Statement (.vcmpeq rs2 rs1 ty rd) := by
  intro w h hw
  have e : w = 0xE#7 ++ rs2 ++ rs1 ++ ty ++ rd ++ 0x5B#7 := (Option.some.inj h).symm
  have b0_7 : bitsAt w 0 7 = 0x5B#7 := by rw [e]; exact bits_last _ _
  have b7_5 : bitsAt w 7 5 = rd := by rw [e]; exact (bits_hi _ _ _ _ (by decide)).trans (bits_last _ _)
  have b12_3 : bitsAt w 12 3 = ty := by rw [e]; exact (bits_hi _ _ _ _ (by decide)).trans ((bits_hi _ _ _ _ (by decide)).trans (bits_last _ _))
  have b15_5 : bitsAt w 15 5 = rs1 := by rw [e]; exact (bits_hi _ _ _ _ (by decide)).trans ((bits_hi _ _ _ _ (by decide)).trans ((bits_hi _ _ _ _ (by decide)).trans (bits_last _ _)))
  have b20_5 : bitsAt w 20 5 = rs2 := by rw [e]; exact (bits_hi _ _ _ _ (by decide)).trans ((bits_hi _ _ _ _ (by decide)).trans ((bits_hi _ _ _ _ (by decide)).trans ((bits_hi _ _ _ _ (by decide)).trans (bits_last _ _))))
  have b25_1 : bitsAt w 25 1 = 0#1 := by rw [e]; exact (bits_hi _ _ _ _ (by decide)).trans ((bits_hi _ _ _ _ (by decide)).trans ((bits_hi _ _ _ _ (by decide)).trans ((bits_hi _ _ _ _ (by decide)).trans ((bits_hi _ _ _ _ (by decide)).trans (rfl)))))
  have b25_7 : bitsAt w 25 7 = 0xE#7 := by rw [e]; exact (bits_hi _ _ _ _ (by decide)).trans ((bits_hi _ _ _ _ (by decide)).trans ((bits_hi _ _ _ _ (by decide)).trans ((bits_hi _ _ _ _ (by decide)).trans ((bits_hi _ _ _ _ (by decide)).trans (bits_all _)))))
  rw [at_decodeRow_91 w b0_7, at_custom2 w _ b12_3 (by rintro rfl; cases hw) (by rintro rfl; cases hw), b25_1]
  change decodeCustom2R w = _
  unfold decodeCustom2R
  rw [b7_5, b12_3, b15_5, b20_5, b25_7]
  rfl

theorem vcmplt (rs2 : BitVec 5) (rs1 : BitVec 5) (ty : BitVec 3) (rd : BitVec 5) : Statement (.vcmplt rs2 rs1 ty rd) := by
  intro w h hw
  have e : w = 0x10#7 ++ rs2 ++ rs1 ++ ty ++ rd ++ 0x5B#7 := (Option.some.inj h).symm
  have b0_7 : bitsAt w 0 7 = 0x5B#7 := by rw [e]; exact bits_last _ _
  have b7_5 : bitsAt w 7 5 = rd := by rw [e]; exact (bits_hi _ _ _ _ (by decide)).trans (bits_last _ _)
  have b12_3 : bitsAt w 12 3 = ty := by rw [e]; exact (bits_hi _ _ _ _ (by decide)).trans ((bits_hi _ _ _ _ (by decide)).trans (bits_last _ _))
  have b15_5 : bitsAt w 15 5 = rs1 := by rw [e]; exact (bits_hi _ _ _ _ (by decide)).trans ((bits_hi _ _ _ _ (by decide)).trans ((bits_hi _ _ _ _ (by decide)).trans (bits_last _ _)))
  have b20_5 : bitsAt w 20 5 = rs2 := by rw [e]; exact (bits_hi _ _ _ _ (by decide)).trans ((bits_hi _ _ _ _ (by decide)).trans ((bits_hi _ _ _ _ (by decide)).trans ((bits_hi _ _ _ _ (by decide)).trans (bits_last _ _))))
  have b25_1 : bitsAt w 25 1 = 0#1 := by rw [e]; exact (bits_hi _ _ _ _ (by decide)).trans ((bits_hi _ _ _ _ (by decide)).trans ((bits_hi _ _ _ _ (by decide)).trans ((bits_hi _ _ _ _ (by decide)).trans ((bits_hi _ _ _ _ (by decide)).trans (rfl)))))
  have b25_7 : bitsAt w 25 7 = 0x10#7 := by rw [e]; exact (bits_hi _ _ _ _ (by decide)).trans ((bits_hi _ _ _ _ (by decide)).trans ((bits_hi _ _ _ _ (by decide)).trans ((bits_hi _ _ _ _ (by decide)).trans ((bits_hi _ _ _ _ (by decide)).trans (bits_all _)))))
  rw [at_decodeRow_91 w b0_7, at_custom2 w _ b12_3 (by rintro rfl; cases hw) (by rintro rfl; cases hw), b25_1]
  change decodeCustom2R w = _
  unfold decodeCustom2R
  rw [b7_5, b12_3, b15_5, b20_5, b25_7]
  rfl

theorem vcmple (rs2 : BitVec 5) (rs1 : BitVec 5) (ty : BitVec 3) (rd : BitVec 5) : Statement (.vcmple rs2 rs1 ty rd) := by
  intro w h hw
  have e : w = 0x12#7 ++ rs2 ++ rs1 ++ ty ++ rd ++ 0x5B#7 := (Option.some.inj h).symm
  have b0_7 : bitsAt w 0 7 = 0x5B#7 := by rw [e]; exact bits_last _ _
  have b7_5 : bitsAt w 7 5 = rd := by rw [e]; exact (bits_hi _ _ _ _ (by decide)).trans (bits_last _ _)
  have b12_3 : bitsAt w 12 3 = ty := by rw [e]; exact (bits_hi _ _ _ _ (by decide)).trans ((bits_hi _ _ _ _ (by decide)).trans (bits_last _ _))
  have b15_5 : bitsAt w 15 5 = rs1 := by rw [e]; exact (bits_hi _ _ _ _ (by decide)).trans ((bits_hi _ _ _ _ (by decide)).trans ((bits_hi _ _ _ _ (by decide)).trans (bits_last _ _)))
  have b20_5 : bitsAt w 20 5 = rs2 := by rw [e]; exact (bits_hi _ _ _ _ (by decide)).trans ((bits_hi _ _ _ _ (by decide)).trans ((bits_hi _ _ _ _ (by decide)).trans ((bits_hi _ _ _ _ (by decide)).trans (bits_last _ _))))
  have b25_1 : bitsAt w 25 1 = 0#1 := by rw [e]; exact (bits_hi _ _ _ _ (by decide)).trans ((bits_hi _ _ _ _ (by decide)).trans ((bits_hi _ _ _ _ (by decide)).trans ((bits_hi _ _ _ _ (by decide)).trans ((bits_hi _ _ _ _ (by decide)).trans (rfl)))))
  have b25_7 : bitsAt w 25 7 = 0x12#7 := by rw [e]; exact (bits_hi _ _ _ _ (by decide)).trans ((bits_hi _ _ _ _ (by decide)).trans ((bits_hi _ _ _ _ (by decide)).trans ((bits_hi _ _ _ _ (by decide)).trans ((bits_hi _ _ _ _ (by decide)).trans (bits_all _)))))
  rw [at_decodeRow_91 w b0_7, at_custom2 w _ b12_3 (by rintro rfl; cases hw) (by rintro rfl; cases hw), b25_1]
  change decodeCustom2R w = _
  unfold decodeCustom2R
  rw [b7_5, b12_3, b15_5, b20_5, b25_7]
  rfl

theorem vand (rs2 : BitVec 5) (rs1 : BitVec 5) (rd : BitVec 5) : Statement (.vand rs2 rs1 rd) := by
  intro w h _
  have e : w = 0x14#7 ++ rs2 ++ rs1 ++ 0x5#3 ++ rd ++ 0x5B#7 := (Option.some.inj h).symm
  have b0_7 : bitsAt w 0 7 = 0x5B#7 := by rw [e]; exact bits_last _ _
  have b7_5 : bitsAt w 7 5 = rd := by rw [e]; exact (bits_hi _ _ _ _ (by decide)).trans (bits_last _ _)
  have b12_3 : bitsAt w 12 3 = 0x5#3 := by rw [e]; exact (bits_hi _ _ _ _ (by decide)).trans ((bits_hi _ _ _ _ (by decide)).trans (bits_last _ _))
  have b15_5 : bitsAt w 15 5 = rs1 := by rw [e]; exact (bits_hi _ _ _ _ (by decide)).trans ((bits_hi _ _ _ _ (by decide)).trans ((bits_hi _ _ _ _ (by decide)).trans (bits_last _ _)))
  have b20_5 : bitsAt w 20 5 = rs2 := by rw [e]; exact (bits_hi _ _ _ _ (by decide)).trans ((bits_hi _ _ _ _ (by decide)).trans ((bits_hi _ _ _ _ (by decide)).trans ((bits_hi _ _ _ _ (by decide)).trans (bits_last _ _))))
  have b25_1 : bitsAt w 25 1 = 0#1 := by rw [e]; exact (bits_hi _ _ _ _ (by decide)).trans ((bits_hi _ _ _ _ (by decide)).trans ((bits_hi _ _ _ _ (by decide)).trans ((bits_hi _ _ _ _ (by decide)).trans ((bits_hi _ _ _ _ (by decide)).trans (rfl)))))
  have b25_7 : bitsAt w 25 7 = 0x14#7 := by rw [e]; exact (bits_hi _ _ _ _ (by decide)).trans ((bits_hi _ _ _ _ (by decide)).trans ((bits_hi _ _ _ _ (by decide)).trans ((bits_hi _ _ _ _ (by decide)).trans ((bits_hi _ _ _ _ (by decide)).trans (bits_all _)))))
  rw [at_decodeRow_91 w b0_7, at_custom2 w _ b12_3 (by decide) (by decide), b25_1]
  change decodeCustom2R w = _
  unfold decodeCustom2R
  rw [b7_5, b12_3, b15_5, b20_5, b25_7]
  rfl

theorem vor (rs2 : BitVec 5) (rs1 : BitVec 5) (rd : BitVec 5) : Statement (.vor rs2 rs1 rd) := by
  intro w h _
  have e : w = 0x16#7 ++ rs2 ++ rs1 ++ 0x5#3 ++ rd ++ 0x5B#7 := (Option.some.inj h).symm
  have b0_7 : bitsAt w 0 7 = 0x5B#7 := by rw [e]; exact bits_last _ _
  have b7_5 : bitsAt w 7 5 = rd := by rw [e]; exact (bits_hi _ _ _ _ (by decide)).trans (bits_last _ _)
  have b12_3 : bitsAt w 12 3 = 0x5#3 := by rw [e]; exact (bits_hi _ _ _ _ (by decide)).trans ((bits_hi _ _ _ _ (by decide)).trans (bits_last _ _))
  have b15_5 : bitsAt w 15 5 = rs1 := by rw [e]; exact (bits_hi _ _ _ _ (by decide)).trans ((bits_hi _ _ _ _ (by decide)).trans ((bits_hi _ _ _ _ (by decide)).trans (bits_last _ _)))
  have b20_5 : bitsAt w 20 5 = rs2 := by rw [e]; exact (bits_hi _ _ _ _ (by decide)).trans ((bits_hi _ _ _ _ (by decide)).trans ((bits_hi _ _ _ _ (by decide)).trans ((bits_hi _ _ _ _ (by decide)).trans (bits_last _ _))))
  have b25_1 : bitsAt w 25 1 = 0#1 := by rw [e]; exact (bits_hi _ _ _ _ (by decide)).trans ((bits_hi _ _ _ _ (by decide)).trans ((bits_hi _ _ _ _ (by decide)).trans ((bits_hi _ _ _ _ (by decide)).trans ((bits_hi _ _ _ _ (by decide)).trans (rfl)))))
  have b25_7 : bitsAt w 25 7 = 0x16#7 := by rw [e]; exact (bits_hi _ _ _ _ (by decide)).trans ((bits_hi _ _ _ _ (by decide)).trans ((bits_hi _ _ _ _ (by decide)).trans ((bits_hi _ _ _ _ (by decide)).trans ((bits_hi _ _ _ _ (by decide)).trans (bits_all _)))))
  rw [at_decodeRow_91 w b0_7, at_custom2 w _ b12_3 (by decide) (by decide), b25_1]
  change decodeCustom2R w = _
  unfold decodeCustom2R
  rw [b7_5, b12_3, b15_5, b20_5, b25_7]
  rfl

theorem vxor (rs2 : BitVec 5) (rs1 : BitVec 5) (rd : BitVec 5) : Statement (.vxor rs2 rs1 rd) := by
  intro w h _
  have e : w = 0x18#7 ++ rs2 ++ rs1 ++ 0x5#3 ++ rd ++ 0x5B#7 := (Option.some.inj h).symm
  have b0_7 : bitsAt w 0 7 = 0x5B#7 := by rw [e]; exact bits_last _ _
  have b7_5 : bitsAt w 7 5 = rd := by rw [e]; exact (bits_hi _ _ _ _ (by decide)).trans (bits_last _ _)
  have b12_3 : bitsAt w 12 3 = 0x5#3 := by rw [e]; exact (bits_hi _ _ _ _ (by decide)).trans ((bits_hi _ _ _ _ (by decide)).trans (bits_last _ _))
  have b15_5 : bitsAt w 15 5 = rs1 := by rw [e]; exact (bits_hi _ _ _ _ (by decide)).trans ((bits_hi _ _ _ _ (by decide)).trans ((bits_hi _ _ _ _ (by decide)).trans (bits_last _ _)))
  have b20_5 : bitsAt w 20 5 = rs2 := by rw [e]; exact (bits_hi _ _ _ _ (by decide)).trans ((bits_hi _ _ _ _ (by decide)).trans ((bits_hi _ _ _ _ (by decide)).trans ((bits_hi _ _ _ _ (by decide)).trans (bits_last _ _))))
  have b25_1 : bitsAt w 25 1 = 0#1 := by rw [e]; exact (bits_hi _ _ _ _ (by decide)).trans ((bits_hi _ _ _ _ (by decide)).trans ((bits_hi _ _ _ _ (by decide)).trans ((bits_hi _ _ _ _ (by decide)).trans ((bits_hi _ _ _ _ (by decide)).trans (rfl)))))
  have b25_7 : bitsAt w 25 7 = 0x18#7 := by rw [e]; exact (bits_hi _ _ _ _ (by decide)).trans ((bits_hi _ _ _ _ (by decide)).trans ((bits_hi _ _ _ _ (by decide)).trans ((bits_hi _ _ _ _ (by decide)).trans ((bits_hi _ _ _ _ (by decide)).trans (bits_all _)))))
  rw [at_decodeRow_91 w b0_7, at_custom2 w _ b12_3 (by decide) (by decide), b25_1]
  change decodeCustom2R w = _
  unfold decodeCustom2R
  rw [b7_5, b12_3, b15_5, b20_5, b25_7]
  rfl

theorem vnot (rs1 : BitVec 5) (rd : BitVec 5) : Statement (.vnot rs1 rd) := by
  intro w h _
  have e : w = 0x1A#7 ++ 0x0#5 ++ rs1 ++ 0x5#3 ++ rd ++ 0x5B#7 := (Option.some.inj h).symm
  have b0_7 : bitsAt w 0 7 = 0x5B#7 := by rw [e]; exact bits_last _ _
  have b7_5 : bitsAt w 7 5 = rd := by rw [e]; exact (bits_hi _ _ _ _ (by decide)).trans (bits_last _ _)
  have b12_3 : bitsAt w 12 3 = 0x5#3 := by rw [e]; exact (bits_hi _ _ _ _ (by decide)).trans ((bits_hi _ _ _ _ (by decide)).trans (bits_last _ _))
  have b15_5 : bitsAt w 15 5 = rs1 := by rw [e]; exact (bits_hi _ _ _ _ (by decide)).trans ((bits_hi _ _ _ _ (by decide)).trans ((bits_hi _ _ _ _ (by decide)).trans (bits_last _ _)))
  have b20_5 : bitsAt w 20 5 = 0x0#5 := by rw [e]; exact (bits_hi _ _ _ _ (by decide)).trans ((bits_hi _ _ _ _ (by decide)).trans ((bits_hi _ _ _ _ (by decide)).trans ((bits_hi _ _ _ _ (by decide)).trans (bits_last _ _))))
  have b25_1 : bitsAt w 25 1 = 0#1 := by rw [e]; exact (bits_hi _ _ _ _ (by decide)).trans ((bits_hi _ _ _ _ (by decide)).trans ((bits_hi _ _ _ _ (by decide)).trans ((bits_hi _ _ _ _ (by decide)).trans ((bits_hi _ _ _ _ (by decide)).trans (rfl)))))
  have b25_7 : bitsAt w 25 7 = 0x1A#7 := by rw [e]; exact (bits_hi _ _ _ _ (by decide)).trans ((bits_hi _ _ _ _ (by decide)).trans ((bits_hi _ _ _ _ (by decide)).trans ((bits_hi _ _ _ _ (by decide)).trans ((bits_hi _ _ _ _ (by decide)).trans (bits_all _)))))
  rw [at_decodeRow_91 w b0_7, at_custom2 w _ b12_3 (by decide) (by decide), b25_1]
  change decodeCustom2R w = _
  unfold decodeCustom2R
  rw [b7_5, b12_3, b15_5, b20_5, b25_7]
  rfl

theorem vsll (rs2 : BitVec 5) (rs1 : BitVec 5) (ty : BitVec 3) (rd : BitVec 5) : Statement (.vsll rs2 rs1 ty rd) := by
  intro w h hw
  have e : w = 0x1C#7 ++ rs2 ++ rs1 ++ ty ++ rd ++ 0x5B#7 := (Option.some.inj h).symm
  have b0_7 : bitsAt w 0 7 = 0x5B#7 := by rw [e]; exact bits_last _ _
  have b7_5 : bitsAt w 7 5 = rd := by rw [e]; exact (bits_hi _ _ _ _ (by decide)).trans (bits_last _ _)
  have b12_3 : bitsAt w 12 3 = ty := by rw [e]; exact (bits_hi _ _ _ _ (by decide)).trans ((bits_hi _ _ _ _ (by decide)).trans (bits_last _ _))
  have b15_5 : bitsAt w 15 5 = rs1 := by rw [e]; exact (bits_hi _ _ _ _ (by decide)).trans ((bits_hi _ _ _ _ (by decide)).trans ((bits_hi _ _ _ _ (by decide)).trans (bits_last _ _)))
  have b20_5 : bitsAt w 20 5 = rs2 := by rw [e]; exact (bits_hi _ _ _ _ (by decide)).trans ((bits_hi _ _ _ _ (by decide)).trans ((bits_hi _ _ _ _ (by decide)).trans ((bits_hi _ _ _ _ (by decide)).trans (bits_last _ _))))
  have b25_1 : bitsAt w 25 1 = 0#1 := by rw [e]; exact (bits_hi _ _ _ _ (by decide)).trans ((bits_hi _ _ _ _ (by decide)).trans ((bits_hi _ _ _ _ (by decide)).trans ((bits_hi _ _ _ _ (by decide)).trans ((bits_hi _ _ _ _ (by decide)).trans (rfl)))))
  have b25_7 : bitsAt w 25 7 = 0x1C#7 := by rw [e]; exact (bits_hi _ _ _ _ (by decide)).trans ((bits_hi _ _ _ _ (by decide)).trans ((bits_hi _ _ _ _ (by decide)).trans ((bits_hi _ _ _ _ (by decide)).trans ((bits_hi _ _ _ _ (by decide)).trans (bits_all _)))))
  rw [at_decodeRow_91 w b0_7, at_custom2 w _ b12_3 (by rintro rfl; cases hw) (by rintro rfl; cases hw), b25_1]
  change decodeCustom2R w = _
  unfold decodeCustom2R
  rw [b7_5, b12_3, b15_5, b20_5, b25_7]
  rfl

theorem vsrl (rs2 : BitVec 5) (rs1 : BitVec 5) (ty : BitVec 3) (rd : BitVec 5) : Statement (.vsrl rs2 rs1 ty rd) := by
  intro w h hw
  have e : w = 0x1E#7 ++ rs2 ++ rs1 ++ ty ++ rd ++ 0x5B#7 := (Option.some.inj h).symm
  have b0_7 : bitsAt w 0 7 = 0x5B#7 := by rw [e]; exact bits_last _ _
  have b7_5 : bitsAt w 7 5 = rd := by rw [e]; exact (bits_hi _ _ _ _ (by decide)).trans (bits_last _ _)
  have b12_3 : bitsAt w 12 3 = ty := by rw [e]; exact (bits_hi _ _ _ _ (by decide)).trans ((bits_hi _ _ _ _ (by decide)).trans (bits_last _ _))
  have b15_5 : bitsAt w 15 5 = rs1 := by rw [e]; exact (bits_hi _ _ _ _ (by decide)).trans ((bits_hi _ _ _ _ (by decide)).trans ((bits_hi _ _ _ _ (by decide)).trans (bits_last _ _)))
  have b20_5 : bitsAt w 20 5 = rs2 := by rw [e]; exact (bits_hi _ _ _ _ (by decide)).trans ((bits_hi _ _ _ _ (by decide)).trans ((bits_hi _ _ _ _ (by decide)).trans ((bits_hi _ _ _ _ (by decide)).trans (bits_last _ _))))
  have b25_1 : bitsAt w 25 1 = 0#1 := by rw [e]; exact (bits_hi _ _ _ _ (by decide)).trans ((bits_hi _ _ _ _ (by decide)).trans ((bits_hi _ _ _ _ (by decide)).trans ((bits_hi _ _ _ _ (by decide)).trans ((bits_hi _ _ _ _ (by decide)).trans (rfl)))))
  have b25_7 : bitsAt w 25 7 = 0x1E#7 := by rw [e]; exact (bits_hi _ _ _ _ (by decide)).trans ((bits_hi _ _ _ _ (by decide)).trans ((bits_hi _ _ _ _ (by decide)).trans ((bits_hi _ _ _ _ (by decide)).trans ((bits_hi _ _ _ _ (by decide)).trans (bits_all _)))))
  rw [at_decodeRow_91 w b0_7, at_custom2 w _ b12_3 (by rintro rfl; cases hw) (by rintro rfl; cases hw), b25_1]
  change decodeCustom2R w = _
  unfold decodeCustom2R
  rw [b7_5, b12_3, b15_5, b20_5, b25_7]
  rfl

theorem vsra (rs2 : BitVec 5) (rs1 : BitVec 5) (ty : BitVec 3) (rd : BitVec 5) : Statement (.vsra rs2 rs1 ty rd) := by
  intro w h hw
  have e : w = 0x20#7 ++ rs2 ++ rs1 ++ ty ++ rd ++ 0x5B#7 := (Option.some.inj h).symm
  have b0_7 : bitsAt w 0 7 = 0x5B#7 := by rw [e]; exact bits_last _ _
  have b7_5 : bitsAt w 7 5 = rd := by rw [e]; exact (bits_hi _ _ _ _ (by decide)).trans (bits_last _ _)
  have b12_3 : bitsAt w 12 3 = ty := by rw [e]; exact (bits_hi _ _ _ _ (by decide)).trans ((bits_hi _ _ _ _ (by decide)).trans (bits_last _ _))
  have b15_5 : bitsAt w 15 5 = rs1 := by rw [e]; exact (bits_hi _ _ _ _ (by decide)).trans ((bits_hi _ _ _ _ (by decide)).trans ((bits_hi _ _ _ _ (by decide)).trans (bits_last _ _)))
  have b20_5 : bitsAt w 20 5 = rs2 := by rw [e]; exact (bits_hi _ _ _ _ (by decide)).trans ((bits_hi _ _ _ _ (by decide)).trans ((bits_hi _ _ _ _ (by decide)).trans ((bits_hi _ _ _ _ (by decide)).trans (bits_last _ _))))
  have b25_1 : bitsAt w 25 1 = 0#1 := by rw [e]; exact (bits_hi _ _ _ _ (by decide)).trans ((bits_hi _ _ _ _ (by decide)).trans ((bits_hi _ _ _ _ (by decide)).trans ((bits_hi _ _ _ _ (by decide)).trans ((bits_hi _ _ _ _ (by decide)).trans (rfl)))))
  have b25_7 : bitsAt w 25 7 = 0x20#7 := by rw [e]; exact (bits_hi _ _ _ _ (by decide)).trans ((bits_hi _ _ _ _ (by decide)).trans ((bits_hi _ _ _ _ (by decide)).trans ((bits_hi _ _ _ _ (by decide)).trans ((bits_hi _ _ _ _ (by decide)).trans (bits_all _)))))
  rw [at_decodeRow_91 w b0_7, at_custom2 w _ b12_3 (by rintro rfl; cases hw) (by rintro rfl; cases hw), b25_1]
  change decodeCustom2R w = _
  unfold decodeCustom2R
  rw [b7_5, b12_3, b15_5, b20_5, b25_7]
  rfl

theorem vexp2 (rs1 : BitVec 5) (ty : BitVec 3) (rd : BitVec 5) : Statement (.vexp2 rs1 ty rd) := by
  intro w h hw
  have e : w = 0x22#7 ++ 0x0#5 ++ rs1 ++ ty ++ rd ++ 0x5B#7 := (Option.some.inj h).symm
  have b0_7 : bitsAt w 0 7 = 0x5B#7 := by rw [e]; exact bits_last _ _
  have b7_5 : bitsAt w 7 5 = rd := by rw [e]; exact (bits_hi _ _ _ _ (by decide)).trans (bits_last _ _)
  have b12_3 : bitsAt w 12 3 = ty := by rw [e]; exact (bits_hi _ _ _ _ (by decide)).trans ((bits_hi _ _ _ _ (by decide)).trans (bits_last _ _))
  have b15_5 : bitsAt w 15 5 = rs1 := by rw [e]; exact (bits_hi _ _ _ _ (by decide)).trans ((bits_hi _ _ _ _ (by decide)).trans ((bits_hi _ _ _ _ (by decide)).trans (bits_last _ _)))
  have b20_5 : bitsAt w 20 5 = 0x0#5 := by rw [e]; exact (bits_hi _ _ _ _ (by decide)).trans ((bits_hi _ _ _ _ (by decide)).trans ((bits_hi _ _ _ _ (by decide)).trans ((bits_hi _ _ _ _ (by decide)).trans (bits_last _ _))))
  have b25_1 : bitsAt w 25 1 = 0#1 := by rw [e]; exact (bits_hi _ _ _ _ (by decide)).trans ((bits_hi _ _ _ _ (by decide)).trans ((bits_hi _ _ _ _ (by decide)).trans ((bits_hi _ _ _ _ (by decide)).trans ((bits_hi _ _ _ _ (by decide)).trans (rfl)))))
  have b25_7 : bitsAt w 25 7 = 0x22#7 := by rw [e]; exact (bits_hi _ _ _ _ (by decide)).trans ((bits_hi _ _ _ _ (by decide)).trans ((bits_hi _ _ _ _ (by decide)).trans ((bits_hi _ _ _ _ (by decide)).trans ((bits_hi _ _ _ _ (by decide)).trans (bits_all _)))))
  rw [at_decodeRow_91 w b0_7, at_custom2 w _ b12_3 (by rintro rfl; cases hw) (by rintro rfl; cases hw), b25_1]
  change decodeCustom2R w = _
  unfold decodeCustom2R
  rw [b7_5, b12_3, b15_5, b20_5, b25_7]
  rfl

theorem vlog2 (rs1 : BitVec 5) (ty : BitVec 3) (rd : BitVec 5) : Statement (.vlog2 rs1 ty rd) := by
  intro w h hw
  have e : w = 0x24#7 ++ 0x0#5 ++ rs1 ++ ty ++ rd ++ 0x5B#7 := (Option.some.inj h).symm
  have b0_7 : bitsAt w 0 7 = 0x5B#7 := by rw [e]; exact bits_last _ _
  have b7_5 : bitsAt w 7 5 = rd := by rw [e]; exact (bits_hi _ _ _ _ (by decide)).trans (bits_last _ _)
  have b12_3 : bitsAt w 12 3 = ty := by rw [e]; exact (bits_hi _ _ _ _ (by decide)).trans ((bits_hi _ _ _ _ (by decide)).trans (bits_last _ _))
  have b15_5 : bitsAt w 15 5 = rs1 := by rw [e]; exact (bits_hi _ _ _ _ (by decide)).trans ((bits_hi _ _ _ _ (by decide)).trans ((bits_hi _ _ _ _ (by decide)).trans (bits_last _ _)))
  have b20_5 : bitsAt w 20 5 = 0x0#5 := by rw [e]; exact (bits_hi _ _ _ _ (by decide)).trans ((bits_hi _ _ _ _ (by decide)).trans ((bits_hi _ _ _ _ (by decide)).trans ((bits_hi _ _ _ _ (by decide)).trans (bits_last _ _))))
  have b25_1 : bitsAt w 25 1 = 0#1 := by rw [e]; exact (bits_hi _ _ _ _ (by decide)).trans ((bits_hi _ _ _ _ (by decide)).trans ((bits_hi _ _ _ _ (by decide)).trans ((bits_hi _ _ _ _ (by decide)).trans ((bits_hi _ _ _ _ (by decide)).trans (rfl)))))
  have b25_7 : bitsAt w 25 7 = 0x24#7 := by rw [e]; exact (bits_hi _ _ _ _ (by decide)).trans ((bits_hi _ _ _ _ (by decide)).trans ((bits_hi _ _ _ _ (by decide)).trans ((bits_hi _ _ _ _ (by decide)).trans ((bits_hi _ _ _ _ (by decide)).trans (bits_all _)))))
  rw [at_decodeRow_91 w b0_7, at_custom2 w _ b12_3 (by rintro rfl; cases hw) (by rintro rfl; cases hw), b25_1]
  change decodeCustom2R w = _
  unfold decodeCustom2R
  rw [b7_5, b12_3, b15_5, b20_5, b25_7]
  rfl

theorem vrcp (rs1 : BitVec 5) (ty : BitVec 3) (rd : BitVec 5) : Statement (.vrcp rs1 ty rd) := by
  intro w h hw
  have e : w = 0x26#7 ++ 0x0#5 ++ rs1 ++ ty ++ rd ++ 0x5B#7 := (Option.some.inj h).symm
  have b0_7 : bitsAt w 0 7 = 0x5B#7 := by rw [e]; exact bits_last _ _
  have b7_5 : bitsAt w 7 5 = rd := by rw [e]; exact (bits_hi _ _ _ _ (by decide)).trans (bits_last _ _)
  have b12_3 : bitsAt w 12 3 = ty := by rw [e]; exact (bits_hi _ _ _ _ (by decide)).trans ((bits_hi _ _ _ _ (by decide)).trans (bits_last _ _))
  have b15_5 : bitsAt w 15 5 = rs1 := by rw [e]; exact (bits_hi _ _ _ _ (by decide)).trans ((bits_hi _ _ _ _ (by decide)).trans ((bits_hi _ _ _ _ (by decide)).trans (bits_last _ _)))
  have b20_5 : bitsAt w 20 5 = 0x0#5 := by rw [e]; exact (bits_hi _ _ _ _ (by decide)).trans ((bits_hi _ _ _ _ (by decide)).trans ((bits_hi _ _ _ _ (by decide)).trans ((bits_hi _ _ _ _ (by decide)).trans (bits_last _ _))))
  have b25_1 : bitsAt w 25 1 = 0#1 := by rw [e]; exact (bits_hi _ _ _ _ (by decide)).trans ((bits_hi _ _ _ _ (by decide)).trans ((bits_hi _ _ _ _ (by decide)).trans ((bits_hi _ _ _ _ (by decide)).trans ((bits_hi _ _ _ _ (by decide)).trans (rfl)))))
  have b25_7 : bitsAt w 25 7 = 0x26#7 := by rw [e]; exact (bits_hi _ _ _ _ (by decide)).trans ((bits_hi _ _ _ _ (by decide)).trans ((bits_hi _ _ _ _ (by decide)).trans ((bits_hi _ _ _ _ (by decide)).trans ((bits_hi _ _ _ _ (by decide)).trans (bits_all _)))))
  rw [at_decodeRow_91 w b0_7, at_custom2 w _ b12_3 (by rintro rfl; cases hw) (by rintro rfl; cases hw), b25_1]
  change decodeCustom2R w = _
  unfold decodeCustom2R
  rw [b7_5, b12_3, b15_5, b20_5, b25_7]
  rfl

theorem vrsq (rs1 : BitVec 5) (ty : BitVec 3) (rd : BitVec 5) : Statement (.vrsq rs1 ty rd) := by
  intro w h hw
  have e : w = 0x28#7 ++ 0x0#5 ++ rs1 ++ ty ++ rd ++ 0x5B#7 := (Option.some.inj h).symm
  have b0_7 : bitsAt w 0 7 = 0x5B#7 := by rw [e]; exact bits_last _ _
  have b7_5 : bitsAt w 7 5 = rd := by rw [e]; exact (bits_hi _ _ _ _ (by decide)).trans (bits_last _ _)
  have b12_3 : bitsAt w 12 3 = ty := by rw [e]; exact (bits_hi _ _ _ _ (by decide)).trans ((bits_hi _ _ _ _ (by decide)).trans (bits_last _ _))
  have b15_5 : bitsAt w 15 5 = rs1 := by rw [e]; exact (bits_hi _ _ _ _ (by decide)).trans ((bits_hi _ _ _ _ (by decide)).trans ((bits_hi _ _ _ _ (by decide)).trans (bits_last _ _)))
  have b20_5 : bitsAt w 20 5 = 0x0#5 := by rw [e]; exact (bits_hi _ _ _ _ (by decide)).trans ((bits_hi _ _ _ _ (by decide)).trans ((bits_hi _ _ _ _ (by decide)).trans ((bits_hi _ _ _ _ (by decide)).trans (bits_last _ _))))
  have b25_1 : bitsAt w 25 1 = 0#1 := by rw [e]; exact (bits_hi _ _ _ _ (by decide)).trans ((bits_hi _ _ _ _ (by decide)).trans ((bits_hi _ _ _ _ (by decide)).trans ((bits_hi _ _ _ _ (by decide)).trans ((bits_hi _ _ _ _ (by decide)).trans (rfl)))))
  have b25_7 : bitsAt w 25 7 = 0x28#7 := by rw [e]; exact (bits_hi _ _ _ _ (by decide)).trans ((bits_hi _ _ _ _ (by decide)).trans ((bits_hi _ _ _ _ (by decide)).trans ((bits_hi _ _ _ _ (by decide)).trans ((bits_hi _ _ _ _ (by decide)).trans (bits_all _)))))
  rw [at_decodeRow_91 w b0_7, at_custom2 w _ b12_3 (by rintro rfl; cases hw) (by rintro rfl; cases hw), b25_1]
  change decodeCustom2R w = _
  unfold decodeCustom2R
  rw [b7_5, b12_3, b15_5, b20_5, b25_7]
  rfl

theorem vredsum (rs1 : BitVec 5) (ty : BitVec 3) (rd : BitVec 5) : Statement (.vredsum rs1 ty rd) := by
  intro w h hw
  have e : w = 0x2A#7 ++ 0x0#5 ++ rs1 ++ ty ++ rd ++ 0x5B#7 := (Option.some.inj h).symm
  have b0_7 : bitsAt w 0 7 = 0x5B#7 := by rw [e]; exact bits_last _ _
  have b7_5 : bitsAt w 7 5 = rd := by rw [e]; exact (bits_hi _ _ _ _ (by decide)).trans (bits_last _ _)
  have b12_3 : bitsAt w 12 3 = ty := by rw [e]; exact (bits_hi _ _ _ _ (by decide)).trans ((bits_hi _ _ _ _ (by decide)).trans (bits_last _ _))
  have b15_5 : bitsAt w 15 5 = rs1 := by rw [e]; exact (bits_hi _ _ _ _ (by decide)).trans ((bits_hi _ _ _ _ (by decide)).trans ((bits_hi _ _ _ _ (by decide)).trans (bits_last _ _)))
  have b20_5 : bitsAt w 20 5 = 0x0#5 := by rw [e]; exact (bits_hi _ _ _ _ (by decide)).trans ((bits_hi _ _ _ _ (by decide)).trans ((bits_hi _ _ _ _ (by decide)).trans ((bits_hi _ _ _ _ (by decide)).trans (bits_last _ _))))
  have b25_1 : bitsAt w 25 1 = 0#1 := by rw [e]; exact (bits_hi _ _ _ _ (by decide)).trans ((bits_hi _ _ _ _ (by decide)).trans ((bits_hi _ _ _ _ (by decide)).trans ((bits_hi _ _ _ _ (by decide)).trans ((bits_hi _ _ _ _ (by decide)).trans (rfl)))))
  have b25_7 : bitsAt w 25 7 = 0x2A#7 := by rw [e]; exact (bits_hi _ _ _ _ (by decide)).trans ((bits_hi _ _ _ _ (by decide)).trans ((bits_hi _ _ _ _ (by decide)).trans ((bits_hi _ _ _ _ (by decide)).trans ((bits_hi _ _ _ _ (by decide)).trans (bits_all _)))))
  rw [at_decodeRow_91 w b0_7, at_custom2 w _ b12_3 (by rintro rfl; cases hw) (by rintro rfl; cases hw), b25_1]
  change decodeCustom2R w = _
  unfold decodeCustom2R
  rw [b7_5, b12_3, b15_5, b20_5, b25_7]
  rfl

theorem vredmax (rs1 : BitVec 5) (ty : BitVec 3) (rd : BitVec 5) : Statement (.vredmax rs1 ty rd) := by
  intro w h hw
  have e : w = 0x2C#7 ++ 0x0#5 ++ rs1 ++ ty ++ rd ++ 0x5B#7 := (Option.some.inj h).symm
  have b0_7 : bitsAt w 0 7 = 0x5B#7 := by rw [e]; exact bits_last _ _
  have b7_5 : bitsAt w 7 5 = rd := by rw [e]; exact (bits_hi _ _ _ _ (by decide)).trans (bits_last _ _)
  have b12_3 : bitsAt w 12 3 = ty := by rw [e]; exact (bits_hi _ _ _ _ (by decide)).trans ((bits_hi _ _ _ _ (by decide)).trans (bits_last _ _))
  have b15_5 : bitsAt w 15 5 = rs1 := by rw [e]; exact (bits_hi _ _ _ _ (by decide)).trans ((bits_hi _ _ _ _ (by decide)).trans ((bits_hi _ _ _ _ (by decide)).trans (bits_last _ _)))
  have b20_5 : bitsAt w 20 5 = 0x0#5 := by rw [e]; exact (bits_hi _ _ _ _ (by decide)).trans ((bits_hi _ _ _ _ (by decide)).trans ((bits_hi _ _ _ _ (by decide)).trans ((bits_hi _ _ _ _ (by decide)).trans (bits_last _ _))))
  have b25_1 : bitsAt w 25 1 = 0#1 := by rw [e]; exact (bits_hi _ _ _ _ (by decide)).trans ((bits_hi _ _ _ _ (by decide)).trans ((bits_hi _ _ _ _ (by decide)).trans ((bits_hi _ _ _ _ (by decide)).trans ((bits_hi _ _ _ _ (by decide)).trans (rfl)))))
  have b25_7 : bitsAt w 25 7 = 0x2C#7 := by rw [e]; exact (bits_hi _ _ _ _ (by decide)).trans ((bits_hi _ _ _ _ (by decide)).trans ((bits_hi _ _ _ _ (by decide)).trans ((bits_hi _ _ _ _ (by decide)).trans ((bits_hi _ _ _ _ (by decide)).trans (bits_all _)))))
  rw [at_decodeRow_91 w b0_7, at_custom2 w _ b12_3 (by rintro rfl; cases hw) (by rintro rfl; cases hw), b25_1]
  change decodeCustom2R w = _
  unfold decodeCustom2R
  rw [b7_5, b12_3, b15_5, b20_5, b25_7]
  rfl

theorem vredmin (rs1 : BitVec 5) (ty : BitVec 3) (rd : BitVec 5) : Statement (.vredmin rs1 ty rd) := by
  intro w h hw
  have e : w = 0x2E#7 ++ 0x0#5 ++ rs1 ++ ty ++ rd ++ 0x5B#7 := (Option.some.inj h).symm
  have b0_7 : bitsAt w 0 7 = 0x5B#7 := by rw [e]; exact bits_last _ _
  have b7_5 : bitsAt w 7 5 = rd := by rw [e]; exact (bits_hi _ _ _ _ (by decide)).trans (bits_last _ _)
  have b12_3 : bitsAt w 12 3 = ty := by rw [e]; exact (bits_hi _ _ _ _ (by decide)).trans ((bits_hi _ _ _ _ (by decide)).trans (bits_last _ _))
  have b15_5 : bitsAt w 15 5 = rs1 := by rw [e]; exact (bits_hi _ _ _ _ (by decide)).trans ((bits_hi _ _ _ _ (by decide)).trans ((bits_hi _ _ _ _ (by decide)).trans (bits_last _ _)))
  have b20_5 : bitsAt w 20 5 = 0x0#5 := by rw [e]; exact (bits_hi _ _ _ _ (by decide)).trans ((bits_hi _ _ _ _ (by decide)).trans ((bits_hi _ _ _ _ (by decide)).trans ((bits_hi _ _ _ _ (by decide)).trans (bits_last _ _))))
  have b25_1 : bitsAt w 25 1 = 0#1 := by rw [e]; exact (bits_hi _ _ _ _ (by decide)).trans ((bits_hi _ _ _ _ (by decide)).trans ((bits_hi _ _ _ _ (by decide)).trans ((bits_hi _ _ _ _ (by decide)).trans ((bits_hi _ _ _ _ (by decide)).trans (rfl)))))
  have b25_7 : bitsAt w 25 7 = 0x2E#7 := by rw [e]; exact (bits_hi _ _ _ _ (by decide)).trans ((bits_hi _ _ _ _ (by decide)).trans ((bits_hi _ _ _ _ (by decide)).trans ((bits_hi _ _ _ _ (by decide)).trans ((bits_hi _ _ _ _ (by decide)).trans (bits_all _)))))
  rw [at_decodeRow_91 w b0_7, at_custom2 w _ b12_3 (by rintro rfl; cases hw) (by rintro rfl; cases hw), b25_1]
  change decodeCustom2R w = _
  unfold decodeCustom2R
  rw [b7_5, b12_3, b15_5, b20_5, b25_7]
  rfl

theorem vld (rs1 : BitVec 5) (rd : BitVec 5) : Statement (.vld rs1 rd) := by
  intro w h _
  have e : w = 0x30#7 ++ 0x0#5 ++ rs1 ++ 0x5#3 ++ rd ++ 0x5B#7 := (Option.some.inj h).symm
  have b0_7 : bitsAt w 0 7 = 0x5B#7 := by rw [e]; exact bits_last _ _
  have b7_5 : bitsAt w 7 5 = rd := by rw [e]; exact (bits_hi _ _ _ _ (by decide)).trans (bits_last _ _)
  have b12_3 : bitsAt w 12 3 = 0x5#3 := by rw [e]; exact (bits_hi _ _ _ _ (by decide)).trans ((bits_hi _ _ _ _ (by decide)).trans (bits_last _ _))
  have b15_5 : bitsAt w 15 5 = rs1 := by rw [e]; exact (bits_hi _ _ _ _ (by decide)).trans ((bits_hi _ _ _ _ (by decide)).trans ((bits_hi _ _ _ _ (by decide)).trans (bits_last _ _)))
  have b20_5 : bitsAt w 20 5 = 0x0#5 := by rw [e]; exact (bits_hi _ _ _ _ (by decide)).trans ((bits_hi _ _ _ _ (by decide)).trans ((bits_hi _ _ _ _ (by decide)).trans ((bits_hi _ _ _ _ (by decide)).trans (bits_last _ _))))
  have b25_1 : bitsAt w 25 1 = 0#1 := by rw [e]; exact (bits_hi _ _ _ _ (by decide)).trans ((bits_hi _ _ _ _ (by decide)).trans ((bits_hi _ _ _ _ (by decide)).trans ((bits_hi _ _ _ _ (by decide)).trans ((bits_hi _ _ _ _ (by decide)).trans (rfl)))))
  have b25_7 : bitsAt w 25 7 = 0x30#7 := by rw [e]; exact (bits_hi _ _ _ _ (by decide)).trans ((bits_hi _ _ _ _ (by decide)).trans ((bits_hi _ _ _ _ (by decide)).trans ((bits_hi _ _ _ _ (by decide)).trans ((bits_hi _ _ _ _ (by decide)).trans (bits_all _)))))
  rw [at_decodeRow_91 w b0_7, at_custom2 w _ b12_3 (by decide) (by decide), b25_1]
  change decodeCustom2R w = _
  unfold decodeCustom2R
  rw [b7_5, b12_3, b15_5, b20_5, b25_7]
  rfl

theorem vst (rs1 : BitVec 5) (rd : BitVec 5) : Statement (.vst rs1 rd) := by
  intro w h _
  have e : w = 0x32#7 ++ 0x0#5 ++ rs1 ++ 0x5#3 ++ rd ++ 0x5B#7 := (Option.some.inj h).symm
  have b0_7 : bitsAt w 0 7 = 0x5B#7 := by rw [e]; exact bits_last _ _
  have b7_5 : bitsAt w 7 5 = rd := by rw [e]; exact (bits_hi _ _ _ _ (by decide)).trans (bits_last _ _)
  have b12_3 : bitsAt w 12 3 = 0x5#3 := by rw [e]; exact (bits_hi _ _ _ _ (by decide)).trans ((bits_hi _ _ _ _ (by decide)).trans (bits_last _ _))
  have b15_5 : bitsAt w 15 5 = rs1 := by rw [e]; exact (bits_hi _ _ _ _ (by decide)).trans ((bits_hi _ _ _ _ (by decide)).trans ((bits_hi _ _ _ _ (by decide)).trans (bits_last _ _)))
  have b20_5 : bitsAt w 20 5 = 0x0#5 := by rw [e]; exact (bits_hi _ _ _ _ (by decide)).trans ((bits_hi _ _ _ _ (by decide)).trans ((bits_hi _ _ _ _ (by decide)).trans ((bits_hi _ _ _ _ (by decide)).trans (bits_last _ _))))
  have b25_1 : bitsAt w 25 1 = 0#1 := by rw [e]; exact (bits_hi _ _ _ _ (by decide)).trans ((bits_hi _ _ _ _ (by decide)).trans ((bits_hi _ _ _ _ (by decide)).trans ((bits_hi _ _ _ _ (by decide)).trans ((bits_hi _ _ _ _ (by decide)).trans (rfl)))))
  have b25_7 : bitsAt w 25 7 = 0x32#7 := by rw [e]; exact (bits_hi _ _ _ _ (by decide)).trans ((bits_hi _ _ _ _ (by decide)).trans ((bits_hi _ _ _ _ (by decide)).trans ((bits_hi _ _ _ _ (by decide)).trans ((bits_hi _ _ _ _ (by decide)).trans (bits_all _)))))
  rw [at_decodeRow_91 w b0_7, at_custom2 w _ b12_3 (by decide) (by decide), b25_1]
  change decodeCustom2R w = _
  unfold decodeCustom2R
  rw [b7_5, b12_3, b15_5, b20_5, b25_7]
  rfl

theorem vlds (rs2 : BitVec 5) (rs1 : BitVec 5) (rd : BitVec 5) : Statement (.vlds rs2 rs1 rd) := by
  intro w h _
  have e : w = 0x34#7 ++ rs2 ++ rs1 ++ 0x5#3 ++ rd ++ 0x5B#7 := (Option.some.inj h).symm
  have b0_7 : bitsAt w 0 7 = 0x5B#7 := by rw [e]; exact bits_last _ _
  have b7_5 : bitsAt w 7 5 = rd := by rw [e]; exact (bits_hi _ _ _ _ (by decide)).trans (bits_last _ _)
  have b12_3 : bitsAt w 12 3 = 0x5#3 := by rw [e]; exact (bits_hi _ _ _ _ (by decide)).trans ((bits_hi _ _ _ _ (by decide)).trans (bits_last _ _))
  have b15_5 : bitsAt w 15 5 = rs1 := by rw [e]; exact (bits_hi _ _ _ _ (by decide)).trans ((bits_hi _ _ _ _ (by decide)).trans ((bits_hi _ _ _ _ (by decide)).trans (bits_last _ _)))
  have b20_5 : bitsAt w 20 5 = rs2 := by rw [e]; exact (bits_hi _ _ _ _ (by decide)).trans ((bits_hi _ _ _ _ (by decide)).trans ((bits_hi _ _ _ _ (by decide)).trans ((bits_hi _ _ _ _ (by decide)).trans (bits_last _ _))))
  have b25_1 : bitsAt w 25 1 = 0#1 := by rw [e]; exact (bits_hi _ _ _ _ (by decide)).trans ((bits_hi _ _ _ _ (by decide)).trans ((bits_hi _ _ _ _ (by decide)).trans ((bits_hi _ _ _ _ (by decide)).trans ((bits_hi _ _ _ _ (by decide)).trans (rfl)))))
  have b25_7 : bitsAt w 25 7 = 0x34#7 := by rw [e]; exact (bits_hi _ _ _ _ (by decide)).trans ((bits_hi _ _ _ _ (by decide)).trans ((bits_hi _ _ _ _ (by decide)).trans ((bits_hi _ _ _ _ (by decide)).trans ((bits_hi _ _ _ _ (by decide)).trans (bits_all _)))))
  rw [at_decodeRow_91 w b0_7, at_custom2 w _ b12_3 (by decide) (by decide), b25_1]
  change decodeCustom2R w = _
  unfold decodeCustom2R
  rw [b7_5, b12_3, b15_5, b20_5, b25_7]
  rfl

theorem vsts (rs2 : BitVec 5) (rs1 : BitVec 5) (rd : BitVec 5) : Statement (.vsts rs2 rs1 rd) := by
  intro w h _
  have e : w = 0x36#7 ++ rs2 ++ rs1 ++ 0x5#3 ++ rd ++ 0x5B#7 := (Option.some.inj h).symm
  have b0_7 : bitsAt w 0 7 = 0x5B#7 := by rw [e]; exact bits_last _ _
  have b7_5 : bitsAt w 7 5 = rd := by rw [e]; exact (bits_hi _ _ _ _ (by decide)).trans (bits_last _ _)
  have b12_3 : bitsAt w 12 3 = 0x5#3 := by rw [e]; exact (bits_hi _ _ _ _ (by decide)).trans ((bits_hi _ _ _ _ (by decide)).trans (bits_last _ _))
  have b15_5 : bitsAt w 15 5 = rs1 := by rw [e]; exact (bits_hi _ _ _ _ (by decide)).trans ((bits_hi _ _ _ _ (by decide)).trans ((bits_hi _ _ _ _ (by decide)).trans (bits_last _ _)))
  have b20_5 : bitsAt w 20 5 = rs2 := by rw [e]; exact (bits_hi _ _ _ _ (by decide)).trans ((bits_hi _ _ _ _ (by decide)).trans ((bits_hi _ _ _ _ (by decide)).trans ((bits_hi _ _ _ _ (by decide)).trans (bits_last _ _))))
  have b25_1 : bitsAt w 25 1 = 0#1 := by rw [e]; exact (bits_hi _ _ _ _ (by decide)).trans ((bits_hi _ _ _ _ (by decide)).trans ((bits_hi _ _ _ _ (by decide)).trans ((bits_hi _ _ _ _ (by decide)).trans ((bits_hi _ _ _ _ (by decide)).trans (rfl)))))
  have b25_7 : bitsAt w 25 7 = 0x36#7 := by rw [e]; exact (bits_hi _ _ _ _ (by decide)).trans ((bits_hi _ _ _ _ (by decide)).trans ((bits_hi _ _ _ _ (by decide)).trans ((bits_hi _ _ _ _ (by decide)).trans ((bits_hi _ _ _ _ (by decide)).trans (bits_all _)))))
  rw [at_decodeRow_91 w b0_7, at_custom2 w _ b12_3 (by decide) (by decide), b25_1]
  change decodeCustom2R w = _
  unfold decodeCustom2R
  rw [b7_5, b12_3, b15_5, b20_5, b25_7]
  rfl

theorem vgath (rs2 : BitVec 5) (rs1 : BitVec 5) (ty : BitVec 3) (rd : BitVec 5) : Statement (.vgath rs2 rs1 ty rd) := by
  intro w h hw
  have e : w = 0x38#7 ++ rs2 ++ rs1 ++ ty ++ rd ++ 0x5B#7 := (Option.some.inj h).symm
  have b0_7 : bitsAt w 0 7 = 0x5B#7 := by rw [e]; exact bits_last _ _
  have b7_5 : bitsAt w 7 5 = rd := by rw [e]; exact (bits_hi _ _ _ _ (by decide)).trans (bits_last _ _)
  have b12_3 : bitsAt w 12 3 = ty := by rw [e]; exact (bits_hi _ _ _ _ (by decide)).trans ((bits_hi _ _ _ _ (by decide)).trans (bits_last _ _))
  have b15_5 : bitsAt w 15 5 = rs1 := by rw [e]; exact (bits_hi _ _ _ _ (by decide)).trans ((bits_hi _ _ _ _ (by decide)).trans ((bits_hi _ _ _ _ (by decide)).trans (bits_last _ _)))
  have b20_5 : bitsAt w 20 5 = rs2 := by rw [e]; exact (bits_hi _ _ _ _ (by decide)).trans ((bits_hi _ _ _ _ (by decide)).trans ((bits_hi _ _ _ _ (by decide)).trans ((bits_hi _ _ _ _ (by decide)).trans (bits_last _ _))))
  have b25_1 : bitsAt w 25 1 = 0#1 := by rw [e]; exact (bits_hi _ _ _ _ (by decide)).trans ((bits_hi _ _ _ _ (by decide)).trans ((bits_hi _ _ _ _ (by decide)).trans ((bits_hi _ _ _ _ (by decide)).trans ((bits_hi _ _ _ _ (by decide)).trans (rfl)))))
  have b25_7 : bitsAt w 25 7 = 0x38#7 := by rw [e]; exact (bits_hi _ _ _ _ (by decide)).trans ((bits_hi _ _ _ _ (by decide)).trans ((bits_hi _ _ _ _ (by decide)).trans ((bits_hi _ _ _ _ (by decide)).trans ((bits_hi _ _ _ _ (by decide)).trans (bits_all _)))))
  rw [at_decodeRow_91 w b0_7, at_custom2 w _ b12_3 (by rintro rfl; cases hw) (by rintro rfl; cases hw), b25_1]
  change decodeCustom2R w = _
  unfold decodeCustom2R
  rw [b7_5, b12_3, b15_5, b20_5, b25_7]
  rfl

theorem vscat (rs2 : BitVec 5) (rs1 : BitVec 5) (ty : BitVec 3) (rd : BitVec 5) : Statement (.vscat rs2 rs1 ty rd) := by
  intro w h hw
  have e : w = 0x3A#7 ++ rs2 ++ rs1 ++ ty ++ rd ++ 0x5B#7 := (Option.some.inj h).symm
  have b0_7 : bitsAt w 0 7 = 0x5B#7 := by rw [e]; exact bits_last _ _
  have b7_5 : bitsAt w 7 5 = rd := by rw [e]; exact (bits_hi _ _ _ _ (by decide)).trans (bits_last _ _)
  have b12_3 : bitsAt w 12 3 = ty := by rw [e]; exact (bits_hi _ _ _ _ (by decide)).trans ((bits_hi _ _ _ _ (by decide)).trans (bits_last _ _))
  have b15_5 : bitsAt w 15 5 = rs1 := by rw [e]; exact (bits_hi _ _ _ _ (by decide)).trans ((bits_hi _ _ _ _ (by decide)).trans ((bits_hi _ _ _ _ (by decide)).trans (bits_last _ _)))
  have b20_5 : bitsAt w 20 5 = rs2 := by rw [e]; exact (bits_hi _ _ _ _ (by decide)).trans ((bits_hi _ _ _ _ (by decide)).trans ((bits_hi _ _ _ _ (by decide)).trans ((bits_hi _ _ _ _ (by decide)).trans (bits_last _ _))))
  have b25_1 : bitsAt w 25 1 = 0#1 := by rw [e]; exact (bits_hi _ _ _ _ (by decide)).trans ((bits_hi _ _ _ _ (by decide)).trans ((bits_hi _ _ _ _ (by decide)).trans ((bits_hi _ _ _ _ (by decide)).trans ((bits_hi _ _ _ _ (by decide)).trans (rfl)))))
  have b25_7 : bitsAt w 25 7 = 0x3A#7 := by rw [e]; exact (bits_hi _ _ _ _ (by decide)).trans ((bits_hi _ _ _ _ (by decide)).trans ((bits_hi _ _ _ _ (by decide)).trans ((bits_hi _ _ _ _ (by decide)).trans ((bits_hi _ _ _ _ (by decide)).trans (bits_all _)))))
  rw [at_decodeRow_91 w b0_7, at_custom2 w _ b12_3 (by rintro rfl; cases hw) (by rintro rfl; cases hw), b25_1]
  change decodeCustom2R w = _
  unfold decodeCustom2R
  rw [b7_5, b12_3, b15_5, b20_5, b25_7]
  rfl

theorem vperm (rs2 : BitVec 5) (rs1 : BitVec 5) (ty : BitVec 3) (rd : BitVec 5) : Statement (.vperm rs2 rs1 ty rd) := by
  intro w h hw
  have e : w = 0x3C#7 ++ rs2 ++ rs1 ++ ty ++ rd ++ 0x5B#7 := (Option.some.inj h).symm
  have b0_7 : bitsAt w 0 7 = 0x5B#7 := by rw [e]; exact bits_last _ _
  have b7_5 : bitsAt w 7 5 = rd := by rw [e]; exact (bits_hi _ _ _ _ (by decide)).trans (bits_last _ _)
  have b12_3 : bitsAt w 12 3 = ty := by rw [e]; exact (bits_hi _ _ _ _ (by decide)).trans ((bits_hi _ _ _ _ (by decide)).trans (bits_last _ _))
  have b15_5 : bitsAt w 15 5 = rs1 := by rw [e]; exact (bits_hi _ _ _ _ (by decide)).trans ((bits_hi _ _ _ _ (by decide)).trans ((bits_hi _ _ _ _ (by decide)).trans (bits_last _ _)))
  have b20_5 : bitsAt w 20 5 = rs2 := by rw [e]; exact (bits_hi _ _ _ _ (by decide)).trans ((bits_hi _ _ _ _ (by decide)).trans ((bits_hi _ _ _ _ (by decide)).trans ((bits_hi _ _ _ _ (by decide)).trans (bits_last _ _))))
  have b25_1 : bitsAt w 25 1 = 0#1 := by rw [e]; exact (bits_hi _ _ _ _ (by decide)).trans ((bits_hi _ _ _ _ (by decide)).trans ((bits_hi _ _ _ _ (by decide)).trans ((bits_hi _ _ _ _ (by decide)).trans ((bits_hi _ _ _ _ (by decide)).trans (rfl)))))
  have b25_7 : bitsAt w 25 7 = 0x3C#7 := by rw [e]; exact (bits_hi _ _ _ _ (by decide)).trans ((bits_hi _ _ _ _ (by decide)).trans ((bits_hi _ _ _ _ (by decide)).trans ((bits_hi _ _ _ _ (by decide)).trans ((bits_hi _ _ _ _ (by decide)).trans (bits_all _)))))
  rw [at_decodeRow_91 w b0_7, at_custom2 w _ b12_3 (by rintro rfl; cases hw) (by rintro rfl; cases hw), b25_1]
  change decodeCustom2R w = _
  unfold decodeCustom2R
  rw [b7_5, b12_3, b15_5, b20_5, b25_7]
  rfl

theorem vbcast (rs2 : BitVec 5) (rs1 : BitVec 5) (ty : BitVec 3) (rd : BitVec 5) : Statement (.vbcast rs2 rs1 ty rd) := by
  intro w h hw
  have e : w = 0x3E#7 ++ rs2 ++ rs1 ++ ty ++ rd ++ 0x5B#7 := (Option.some.inj h).symm
  have b0_7 : bitsAt w 0 7 = 0x5B#7 := by rw [e]; exact bits_last _ _
  have b7_5 : bitsAt w 7 5 = rd := by rw [e]; exact (bits_hi _ _ _ _ (by decide)).trans (bits_last _ _)
  have b12_3 : bitsAt w 12 3 = ty := by rw [e]; exact (bits_hi _ _ _ _ (by decide)).trans ((bits_hi _ _ _ _ (by decide)).trans (bits_last _ _))
  have b15_5 : bitsAt w 15 5 = rs1 := by rw [e]; exact (bits_hi _ _ _ _ (by decide)).trans ((bits_hi _ _ _ _ (by decide)).trans ((bits_hi _ _ _ _ (by decide)).trans (bits_last _ _)))
  have b20_5 : bitsAt w 20 5 = rs2 := by rw [e]; exact (bits_hi _ _ _ _ (by decide)).trans ((bits_hi _ _ _ _ (by decide)).trans ((bits_hi _ _ _ _ (by decide)).trans ((bits_hi _ _ _ _ (by decide)).trans (bits_last _ _))))
  have b25_1 : bitsAt w 25 1 = 0#1 := by rw [e]; exact (bits_hi _ _ _ _ (by decide)).trans ((bits_hi _ _ _ _ (by decide)).trans ((bits_hi _ _ _ _ (by decide)).trans ((bits_hi _ _ _ _ (by decide)).trans ((bits_hi _ _ _ _ (by decide)).trans (rfl)))))
  have b25_7 : bitsAt w 25 7 = 0x3E#7 := by rw [e]; exact (bits_hi _ _ _ _ (by decide)).trans ((bits_hi _ _ _ _ (by decide)).trans ((bits_hi _ _ _ _ (by decide)).trans ((bits_hi _ _ _ _ (by decide)).trans ((bits_hi _ _ _ _ (by decide)).trans (bits_all _)))))
  rw [at_decodeRow_91 w b0_7, at_custom2 w _ b12_3 (by rintro rfl; cases hw) (by rintro rfl; cases hw), b25_1]
  change decodeCustom2R w = _
  unfold decodeCustom2R
  rw [b7_5, b12_3, b15_5, b20_5, b25_7]
  rfl

theorem vslup (rs2 : BitVec 5) (rs1 : BitVec 5) (ty : BitVec 3) (rd : BitVec 5) : Statement (.vslup rs2 rs1 ty rd) := by
  intro w h hw
  have e : w = 0x40#7 ++ rs2 ++ rs1 ++ ty ++ rd ++ 0x5B#7 := (Option.some.inj h).symm
  have b0_7 : bitsAt w 0 7 = 0x5B#7 := by rw [e]; exact bits_last _ _
  have b7_5 : bitsAt w 7 5 = rd := by rw [e]; exact (bits_hi _ _ _ _ (by decide)).trans (bits_last _ _)
  have b12_3 : bitsAt w 12 3 = ty := by rw [e]; exact (bits_hi _ _ _ _ (by decide)).trans ((bits_hi _ _ _ _ (by decide)).trans (bits_last _ _))
  have b15_5 : bitsAt w 15 5 = rs1 := by rw [e]; exact (bits_hi _ _ _ _ (by decide)).trans ((bits_hi _ _ _ _ (by decide)).trans ((bits_hi _ _ _ _ (by decide)).trans (bits_last _ _)))
  have b20_5 : bitsAt w 20 5 = rs2 := by rw [e]; exact (bits_hi _ _ _ _ (by decide)).trans ((bits_hi _ _ _ _ (by decide)).trans ((bits_hi _ _ _ _ (by decide)).trans ((bits_hi _ _ _ _ (by decide)).trans (bits_last _ _))))
  have b25_1 : bitsAt w 25 1 = 0#1 := by rw [e]; exact (bits_hi _ _ _ _ (by decide)).trans ((bits_hi _ _ _ _ (by decide)).trans ((bits_hi _ _ _ _ (by decide)).trans ((bits_hi _ _ _ _ (by decide)).trans ((bits_hi _ _ _ _ (by decide)).trans (rfl)))))
  have b25_7 : bitsAt w 25 7 = 0x40#7 := by rw [e]; exact (bits_hi _ _ _ _ (by decide)).trans ((bits_hi _ _ _ _ (by decide)).trans ((bits_hi _ _ _ _ (by decide)).trans ((bits_hi _ _ _ _ (by decide)).trans ((bits_hi _ _ _ _ (by decide)).trans (bits_all _)))))
  rw [at_decodeRow_91 w b0_7, at_custom2 w _ b12_3 (by rintro rfl; cases hw) (by rintro rfl; cases hw), b25_1]
  change decodeCustom2R w = _
  unfold decodeCustom2R
  rw [b7_5, b12_3, b15_5, b20_5, b25_7]
  rfl

theorem vsldn (rs2 : BitVec 5) (rs1 : BitVec 5) (ty : BitVec 3) (rd : BitVec 5) : Statement (.vsldn rs2 rs1 ty rd) := by
  intro w h hw
  have e : w = 0x42#7 ++ rs2 ++ rs1 ++ ty ++ rd ++ 0x5B#7 := (Option.some.inj h).symm
  have b0_7 : bitsAt w 0 7 = 0x5B#7 := by rw [e]; exact bits_last _ _
  have b7_5 : bitsAt w 7 5 = rd := by rw [e]; exact (bits_hi _ _ _ _ (by decide)).trans (bits_last _ _)
  have b12_3 : bitsAt w 12 3 = ty := by rw [e]; exact (bits_hi _ _ _ _ (by decide)).trans ((bits_hi _ _ _ _ (by decide)).trans (bits_last _ _))
  have b15_5 : bitsAt w 15 5 = rs1 := by rw [e]; exact (bits_hi _ _ _ _ (by decide)).trans ((bits_hi _ _ _ _ (by decide)).trans ((bits_hi _ _ _ _ (by decide)).trans (bits_last _ _)))
  have b20_5 : bitsAt w 20 5 = rs2 := by rw [e]; exact (bits_hi _ _ _ _ (by decide)).trans ((bits_hi _ _ _ _ (by decide)).trans ((bits_hi _ _ _ _ (by decide)).trans ((bits_hi _ _ _ _ (by decide)).trans (bits_last _ _))))
  have b25_1 : bitsAt w 25 1 = 0#1 := by rw [e]; exact (bits_hi _ _ _ _ (by decide)).trans ((bits_hi _ _ _ _ (by decide)).trans ((bits_hi _ _ _ _ (by decide)).trans ((bits_hi _ _ _ _ (by decide)).trans ((bits_hi _ _ _ _ (by decide)).trans (rfl)))))
  have b25_7 : bitsAt w 25 7 = 0x42#7 := by rw [e]; exact (bits_hi _ _ _ _ (by decide)).trans ((bits_hi _ _ _ _ (by decide)).trans ((bits_hi _ _ _ _ (by decide)).trans ((bits_hi _ _ _ _ (by decide)).trans ((bits_hi _ _ _ _ (by decide)).trans (bits_all _)))))
  rw [at_decodeRow_91 w b0_7, at_custom2 w _ b12_3 (by rintro rfl; cases hw) (by rintro rfl; cases hw), b25_1]
  change decodeCustom2R w = _
  unfold decodeCustom2R
  rw [b7_5, b12_3, b15_5, b20_5, b25_7]
  rfl

theorem vsplat (rs1 : BitVec 5) (ty : BitVec 3) (rd : BitVec 5) : Statement (.vsplat rs1 ty rd) := by
  intro w h hw
  have e : w = 0x44#7 ++ 0x0#5 ++ rs1 ++ ty ++ rd ++ 0x5B#7 := (Option.some.inj h).symm
  have b0_7 : bitsAt w 0 7 = 0x5B#7 := by rw [e]; exact bits_last _ _
  have b7_5 : bitsAt w 7 5 = rd := by rw [e]; exact (bits_hi _ _ _ _ (by decide)).trans (bits_last _ _)
  have b12_3 : bitsAt w 12 3 = ty := by rw [e]; exact (bits_hi _ _ _ _ (by decide)).trans ((bits_hi _ _ _ _ (by decide)).trans (bits_last _ _))
  have b15_5 : bitsAt w 15 5 = rs1 := by rw [e]; exact (bits_hi _ _ _ _ (by decide)).trans ((bits_hi _ _ _ _ (by decide)).trans ((bits_hi _ _ _ _ (by decide)).trans (bits_last _ _)))
  have b20_5 : bitsAt w 20 5 = 0x0#5 := by rw [e]; exact (bits_hi _ _ _ _ (by decide)).trans ((bits_hi _ _ _ _ (by decide)).trans ((bits_hi _ _ _ _ (by decide)).trans ((bits_hi _ _ _ _ (by decide)).trans (bits_last _ _))))
  have b25_1 : bitsAt w 25 1 = 0#1 := by rw [e]; exact (bits_hi _ _ _ _ (by decide)).trans ((bits_hi _ _ _ _ (by decide)).trans ((bits_hi _ _ _ _ (by decide)).trans ((bits_hi _ _ _ _ (by decide)).trans ((bits_hi _ _ _ _ (by decide)).trans (rfl)))))
  have b25_7 : bitsAt w 25 7 = 0x44#7 := by rw [e]; exact (bits_hi _ _ _ _ (by decide)).trans ((bits_hi _ _ _ _ (by decide)).trans ((bits_hi _ _ _ _ (by decide)).trans ((bits_hi _ _ _ _ (by decide)).trans ((bits_hi _ _ _ _ (by decide)).trans (bits_all _)))))
  rw [at_decodeRow_91 w b0_7, at_custom2 w _ b12_3 (by rintro rfl; cases hw) (by rintro rfl; cases hw), b25_1]
  change decodeCustom2R w = _
  unfold decodeCustom2R
  rw [b7_5, b12_3, b15_5, b20_5, b25_7]
  rfl

theorem vins (rs2 : BitVec 5) (rs1 : BitVec 5) (ty : BitVec 3) (rd : BitVec 5) : Statement (.vins rs2 rs1 ty rd) := by
  intro w h hw
  have e : w = 0x46#7 ++ rs2 ++ rs1 ++ ty ++ rd ++ 0x5B#7 := (Option.some.inj h).symm
  have b0_7 : bitsAt w 0 7 = 0x5B#7 := by rw [e]; exact bits_last _ _
  have b7_5 : bitsAt w 7 5 = rd := by rw [e]; exact (bits_hi _ _ _ _ (by decide)).trans (bits_last _ _)
  have b12_3 : bitsAt w 12 3 = ty := by rw [e]; exact (bits_hi _ _ _ _ (by decide)).trans ((bits_hi _ _ _ _ (by decide)).trans (bits_last _ _))
  have b15_5 : bitsAt w 15 5 = rs1 := by rw [e]; exact (bits_hi _ _ _ _ (by decide)).trans ((bits_hi _ _ _ _ (by decide)).trans ((bits_hi _ _ _ _ (by decide)).trans (bits_last _ _)))
  have b20_5 : bitsAt w 20 5 = rs2 := by rw [e]; exact (bits_hi _ _ _ _ (by decide)).trans ((bits_hi _ _ _ _ (by decide)).trans ((bits_hi _ _ _ _ (by decide)).trans ((bits_hi _ _ _ _ (by decide)).trans (bits_last _ _))))
  have b25_1 : bitsAt w 25 1 = 0#1 := by rw [e]; exact (bits_hi _ _ _ _ (by decide)).trans ((bits_hi _ _ _ _ (by decide)).trans ((bits_hi _ _ _ _ (by decide)).trans ((bits_hi _ _ _ _ (by decide)).trans ((bits_hi _ _ _ _ (by decide)).trans (rfl)))))
  have b25_7 : bitsAt w 25 7 = 0x46#7 := by rw [e]; exact (bits_hi _ _ _ _ (by decide)).trans ((bits_hi _ _ _ _ (by decide)).trans ((bits_hi _ _ _ _ (by decide)).trans ((bits_hi _ _ _ _ (by decide)).trans ((bits_hi _ _ _ _ (by decide)).trans (bits_all _)))))
  rw [at_decodeRow_91 w b0_7, at_custom2 w _ b12_3 (by rintro rfl; cases hw) (by rintro rfl; cases hw), b25_1]
  change decodeCustom2R w = _
  unfold decodeCustom2R
  rw [b7_5, b12_3, b15_5, b20_5, b25_7]
  rfl

theorem vext (rs2 : BitVec 5) (rs1 : BitVec 5) (ty : BitVec 3) (rd : BitVec 5) : Statement (.vext rs2 rs1 ty rd) := by
  intro w h hw
  have e : w = 0x48#7 ++ rs2 ++ rs1 ++ ty ++ rd ++ 0x5B#7 := (Option.some.inj h).symm
  have b0_7 : bitsAt w 0 7 = 0x5B#7 := by rw [e]; exact bits_last _ _
  have b7_5 : bitsAt w 7 5 = rd := by rw [e]; exact (bits_hi _ _ _ _ (by decide)).trans (bits_last _ _)
  have b12_3 : bitsAt w 12 3 = ty := by rw [e]; exact (bits_hi _ _ _ _ (by decide)).trans ((bits_hi _ _ _ _ (by decide)).trans (bits_last _ _))
  have b15_5 : bitsAt w 15 5 = rs1 := by rw [e]; exact (bits_hi _ _ _ _ (by decide)).trans ((bits_hi _ _ _ _ (by decide)).trans ((bits_hi _ _ _ _ (by decide)).trans (bits_last _ _)))
  have b20_5 : bitsAt w 20 5 = rs2 := by rw [e]; exact (bits_hi _ _ _ _ (by decide)).trans ((bits_hi _ _ _ _ (by decide)).trans ((bits_hi _ _ _ _ (by decide)).trans ((bits_hi _ _ _ _ (by decide)).trans (bits_last _ _))))
  have b25_1 : bitsAt w 25 1 = 0#1 := by rw [e]; exact (bits_hi _ _ _ _ (by decide)).trans ((bits_hi _ _ _ _ (by decide)).trans ((bits_hi _ _ _ _ (by decide)).trans ((bits_hi _ _ _ _ (by decide)).trans ((bits_hi _ _ _ _ (by decide)).trans (rfl)))))
  have b25_7 : bitsAt w 25 7 = 0x48#7 := by rw [e]; exact (bits_hi _ _ _ _ (by decide)).trans ((bits_hi _ _ _ _ (by decide)).trans ((bits_hi _ _ _ _ (by decide)).trans ((bits_hi _ _ _ _ (by decide)).trans ((bits_hi _ _ _ _ (by decide)).trans (bits_all _)))))
  rw [at_decodeRow_91 w b0_7, at_custom2 w _ b12_3 (by rintro rfl; cases hw) (by rintro rfl; cases hw), b25_1]
  change decodeCustom2R w = _
  unfold decodeCustom2R
  rw [b7_5, b12_3, b15_5, b20_5, b25_7]
  rfl

theorem vfma (rs3 : BitVec 5) (rs2 : BitVec 5) (rs1 : BitVec 5) (ty : BitVec 3) (rd : BitVec 5) : Statement (.vfma rs3 rs2 rs1 ty rd) := by
  intro w h hw
  have e : w = rs3 ++ 0x1#2 ++ rs2 ++ rs1 ++ ty ++ rd ++ 0x5B#7 := (Option.some.inj h).symm
  have b0_7 : bitsAt w 0 7 = 0x5B#7 := by rw [e]; exact bits_last _ _
  have b7_5 : bitsAt w 7 5 = rd := by rw [e]; exact (bits_hi _ _ _ _ (by decide)).trans (bits_last _ _)
  have b12_3 : bitsAt w 12 3 = ty := by rw [e]; exact (bits_hi _ _ _ _ (by decide)).trans ((bits_hi _ _ _ _ (by decide)).trans (bits_last _ _))
  have b15_5 : bitsAt w 15 5 = rs1 := by rw [e]; exact (bits_hi _ _ _ _ (by decide)).trans ((bits_hi _ _ _ _ (by decide)).trans ((bits_hi _ _ _ _ (by decide)).trans (bits_last _ _)))
  have b20_5 : bitsAt w 20 5 = rs2 := by rw [e]; exact (bits_hi _ _ _ _ (by decide)).trans ((bits_hi _ _ _ _ (by decide)).trans ((bits_hi _ _ _ _ (by decide)).trans ((bits_hi _ _ _ _ (by decide)).trans (bits_last _ _))))
  have b25_1 : bitsAt w 25 1 = 1#1 := by rw [e]; exact (bits_hi _ _ _ _ (by decide)).trans ((bits_hi _ _ _ _ (by decide)).trans ((bits_hi _ _ _ _ (by decide)).trans ((bits_hi _ _ _ _ (by decide)).trans ((bits_hi _ _ _ _ (by decide)).trans ((bits_lo _ _ _ _ (by decide)).trans rfl)))))
  have b25_2 : bitsAt w 25 2 = 0x1#2 := by rw [e]; exact (bits_hi _ _ _ _ (by decide)).trans ((bits_hi _ _ _ _ (by decide)).trans ((bits_hi _ _ _ _ (by decide)).trans ((bits_hi _ _ _ _ (by decide)).trans ((bits_hi _ _ _ _ (by decide)).trans (bits_last _ _)))))
  have b27_5 : bitsAt w 27 5 = rs3 := by rw [e]; exact (bits_hi _ _ _ _ (by decide)).trans ((bits_hi _ _ _ _ (by decide)).trans ((bits_hi _ _ _ _ (by decide)).trans ((bits_hi _ _ _ _ (by decide)).trans ((bits_hi _ _ _ _ (by decide)).trans ((bits_hi _ _ _ _ (by decide)).trans (bits_all _))))))
  rw [at_decodeRow_91 w b0_7, at_custom2 w _ b12_3 (by rintro rfl; cases hw) (by rintro rfl; cases hw), b25_1]
  change decodeCustom2Q w = _
  unfold decodeCustom2Q
  rw [b7_5, b12_3, b15_5, b20_5, b25_2, b27_5]
  rfl

theorem vsel (rs3 : BitVec 5) (rs2 : BitVec 5) (rs1 : BitVec 5) (ty : BitVec 3) (rd : BitVec 5) : Statement (.vsel rs3 rs2 rs1 ty rd) := by
  intro w h hw
  have e : w = rs3 ++ 0x3#2 ++ rs2 ++ rs1 ++ ty ++ rd ++ 0x5B#7 := (Option.some.inj h).symm
  have b0_7 : bitsAt w 0 7 = 0x5B#7 := by rw [e]; exact bits_last _ _
  have b7_5 : bitsAt w 7 5 = rd := by rw [e]; exact (bits_hi _ _ _ _ (by decide)).trans (bits_last _ _)
  have b12_3 : bitsAt w 12 3 = ty := by rw [e]; exact (bits_hi _ _ _ _ (by decide)).trans ((bits_hi _ _ _ _ (by decide)).trans (bits_last _ _))
  have b15_5 : bitsAt w 15 5 = rs1 := by rw [e]; exact (bits_hi _ _ _ _ (by decide)).trans ((bits_hi _ _ _ _ (by decide)).trans ((bits_hi _ _ _ _ (by decide)).trans (bits_last _ _)))
  have b20_5 : bitsAt w 20 5 = rs2 := by rw [e]; exact (bits_hi _ _ _ _ (by decide)).trans ((bits_hi _ _ _ _ (by decide)).trans ((bits_hi _ _ _ _ (by decide)).trans ((bits_hi _ _ _ _ (by decide)).trans (bits_last _ _))))
  have b25_1 : bitsAt w 25 1 = 1#1 := by rw [e]; exact (bits_hi _ _ _ _ (by decide)).trans ((bits_hi _ _ _ _ (by decide)).trans ((bits_hi _ _ _ _ (by decide)).trans ((bits_hi _ _ _ _ (by decide)).trans ((bits_hi _ _ _ _ (by decide)).trans ((bits_lo _ _ _ _ (by decide)).trans rfl)))))
  have b25_2 : bitsAt w 25 2 = 0x3#2 := by rw [e]; exact (bits_hi _ _ _ _ (by decide)).trans ((bits_hi _ _ _ _ (by decide)).trans ((bits_hi _ _ _ _ (by decide)).trans ((bits_hi _ _ _ _ (by decide)).trans ((bits_hi _ _ _ _ (by decide)).trans (bits_last _ _)))))
  have b27_5 : bitsAt w 27 5 = rs3 := by rw [e]; exact (bits_hi _ _ _ _ (by decide)).trans ((bits_hi _ _ _ _ (by decide)).trans ((bits_hi _ _ _ _ (by decide)).trans ((bits_hi _ _ _ _ (by decide)).trans ((bits_hi _ _ _ _ (by decide)).trans ((bits_hi _ _ _ _ (by decide)).trans (bits_all _))))))
  rw [at_decodeRow_91 w b0_7, at_custom2 w _ b12_3 (by rintro rfl; cases hw) (by rintro rfl; cases hw), b25_1]
  change decodeCustom2Q w = _
  unfold decodeCustom2Q
  rw [b7_5, b12_3, b15_5, b20_5, b25_2, b27_5]
  rfl

theorem vcvt (src : BitVec 4) (rm : BitVec 3) (sat : BitVec 1) (dst : BitVec 4) (vs1 : BitVec 5) (vd : BitVec 5) : Statement (.vcvt src rm sat dst vs1 vd) := by
  intro w h _
  have e : w = src ++ rm ++ sat ++ dst ++ vs1 ++ 0x7#3 ++ vd ++ 0x5B#7 := (Option.some.inj h).symm
  have b0_7 : bitsAt w 0 7 = 0x5B#7 := by rw [e]; exact bits_last _ _
  have b7_5 : bitsAt w 7 5 = vd := by rw [e]; exact (bits_hi _ _ _ _ (by decide)).trans (bits_last _ _)
  have b12_3 : bitsAt w 12 3 = 0x7#3 := by rw [e]; exact (bits_hi _ _ _ _ (by decide)).trans ((bits_hi _ _ _ _ (by decide)).trans (bits_last _ _))
  have b15_5 : bitsAt w 15 5 = vs1 := by rw [e]; exact (bits_hi _ _ _ _ (by decide)).trans ((bits_hi _ _ _ _ (by decide)).trans ((bits_hi _ _ _ _ (by decide)).trans (bits_last _ _)))
  have b20_4 : bitsAt w 20 4 = dst := by rw [e]; exact (bits_hi _ _ _ _ (by decide)).trans ((bits_hi _ _ _ _ (by decide)).trans ((bits_hi _ _ _ _ (by decide)).trans ((bits_hi _ _ _ _ (by decide)).trans (bits_last _ _))))
  have b24_1 : bitsAt w 24 1 = sat := by rw [e]; exact (bits_hi _ _ _ _ (by decide)).trans ((bits_hi _ _ _ _ (by decide)).trans ((bits_hi _ _ _ _ (by decide)).trans ((bits_hi _ _ _ _ (by decide)).trans ((bits_hi _ _ _ _ (by decide)).trans (bits_last _ _)))))
  have b25_3 : bitsAt w 25 3 = rm := by rw [e]; exact (bits_hi _ _ _ _ (by decide)).trans ((bits_hi _ _ _ _ (by decide)).trans ((bits_hi _ _ _ _ (by decide)).trans ((bits_hi _ _ _ _ (by decide)).trans ((bits_hi _ _ _ _ (by decide)).trans ((bits_hi _ _ _ _ (by decide)).trans (bits_last _ _))))))
  have b28_4 : bitsAt w 28 4 = src := by rw [e]; exact (bits_hi _ _ _ _ (by decide)).trans ((bits_hi _ _ _ _ (by decide)).trans ((bits_hi _ _ _ _ (by decide)).trans ((bits_hi _ _ _ _ (by decide)).trans ((bits_hi _ _ _ _ (by decide)).trans ((bits_hi _ _ _ _ (by decide)).trans ((bits_hi _ _ _ _ (by decide)).trans (bits_all _)))))))
  rw [at_decodeRow_91 w b0_7, at_decodeCustom2_7 w b12_3]
  unfold decodeCustom2Cvt
  rw [b7_5, b15_5, b20_4, b24_1, b25_3, b28_4]

theorem vqmx (rm : BitVec 3) (fmt : BitVec 4) (vs1 : BitVec 5) (vd : BitVec 5) : Statement (.vqmx rm fmt vs1 vd) := by
  intro w h _
  have e : w = 0x0#2 ++ rm ++ 0x0#2 ++ 0x0#1 ++ fmt ++ vs1 ++ 0x6#3 ++ vd ++ 0x5B#7 := (Option.some.inj h).symm
  have b0_7 : bitsAt w 0 7 = 0x5B#7 := by rw [e]; exact bits_last _ _
  have b7_5 : bitsAt w 7 5 = vd := by rw [e]; exact (bits_hi _ _ _ _ (by decide)).trans (bits_last _ _)
  have b12_3 : bitsAt w 12 3 = 0x6#3 := by rw [e]; exact (bits_hi _ _ _ _ (by decide)).trans ((bits_hi _ _ _ _ (by decide)).trans (bits_last _ _))
  have b15_5 : bitsAt w 15 5 = vs1 := by rw [e]; exact (bits_hi _ _ _ _ (by decide)).trans ((bits_hi _ _ _ _ (by decide)).trans ((bits_hi _ _ _ _ (by decide)).trans (bits_last _ _)))
  have b20_4 : bitsAt w 20 4 = fmt := by rw [e]; exact (bits_hi _ _ _ _ (by decide)).trans ((bits_hi _ _ _ _ (by decide)).trans ((bits_hi _ _ _ _ (by decide)).trans ((bits_hi _ _ _ _ (by decide)).trans (bits_last _ _))))
  have b24_1 : bitsAt w 24 1 = 0x0#1 := by rw [e]; exact (bits_hi _ _ _ _ (by decide)).trans ((bits_hi _ _ _ _ (by decide)).trans ((bits_hi _ _ _ _ (by decide)).trans ((bits_hi _ _ _ _ (by decide)).trans ((bits_hi _ _ _ _ (by decide)).trans (bits_last _ _)))))
  have b25_2 : bitsAt w 25 2 = 0x0#2 := by rw [e]; exact (bits_hi _ _ _ _ (by decide)).trans ((bits_hi _ _ _ _ (by decide)).trans ((bits_hi _ _ _ _ (by decide)).trans ((bits_hi _ _ _ _ (by decide)).trans ((bits_hi _ _ _ _ (by decide)).trans ((bits_hi _ _ _ _ (by decide)).trans (bits_last _ _))))))
  have b27_3 : bitsAt w 27 3 = rm := by rw [e]; exact (bits_hi _ _ _ _ (by decide)).trans ((bits_hi _ _ _ _ (by decide)).trans ((bits_hi _ _ _ _ (by decide)).trans ((bits_hi _ _ _ _ (by decide)).trans ((bits_hi _ _ _ _ (by decide)).trans ((bits_hi _ _ _ _ (by decide)).trans ((bits_hi _ _ _ _ (by decide)).trans (bits_last _ _)))))))
  have b30_2 : bitsAt w 30 2 = 0x0#2 := by rw [e]; exact (bits_hi _ _ _ _ (by decide)).trans ((bits_hi _ _ _ _ (by decide)).trans ((bits_hi _ _ _ _ (by decide)).trans ((bits_hi _ _ _ _ (by decide)).trans ((bits_hi _ _ _ _ (by decide)).trans ((bits_hi _ _ _ _ (by decide)).trans ((bits_hi _ _ _ _ (by decide)).trans ((bits_hi _ _ _ _ (by decide)).trans (bits_all _))))))))
  rw [at_decodeRow_91 w b0_7, at_decodeCustom2_6 w b12_3]
  unfold decodeCustom2Mx
  rw [b7_5, b15_5, b20_4, b24_1, b25_2, b27_3, b30_2]
  rfl

theorem vdqmx (fmt : BitVec 4) (vs1 : BitVec 5) (vd : BitVec 5) : Statement (.vdqmx fmt vs1 vd) := by
  intro w h _
  have e : w = 0x20#7 ++ 0x0#1 ++ fmt ++ vs1 ++ 0x6#3 ++ vd ++ 0x5B#7 := (Option.some.inj h).symm
  have b0_7 : bitsAt w 0 7 = 0x5B#7 := by rw [e]; exact bits_last _ _
  have b7_5 : bitsAt w 7 5 = vd := by rw [e]; exact (bits_hi _ _ _ _ (by decide)).trans (bits_last _ _)
  have b12_3 : bitsAt w 12 3 = 0x6#3 := by rw [e]; exact (bits_hi _ _ _ _ (by decide)).trans ((bits_hi _ _ _ _ (by decide)).trans (bits_last _ _))
  have b15_5 : bitsAt w 15 5 = vs1 := by rw [e]; exact (bits_hi _ _ _ _ (by decide)).trans ((bits_hi _ _ _ _ (by decide)).trans ((bits_hi _ _ _ _ (by decide)).trans (bits_last _ _)))
  have b20_4 : bitsAt w 20 4 = fmt := by rw [e]; exact (bits_hi _ _ _ _ (by decide)).trans ((bits_hi _ _ _ _ (by decide)).trans ((bits_hi _ _ _ _ (by decide)).trans ((bits_hi _ _ _ _ (by decide)).trans (bits_last _ _))))
  have b24_1 : bitsAt w 24 1 = 0x0#1 := by rw [e]; exact (bits_hi _ _ _ _ (by decide)).trans ((bits_hi _ _ _ _ (by decide)).trans ((bits_hi _ _ _ _ (by decide)).trans ((bits_hi _ _ _ _ (by decide)).trans ((bits_hi _ _ _ _ (by decide)).trans (bits_last _ _)))))
  have b25_2 : bitsAt w 25 2 = 0#2 := by rw [e]; exact (bits_hi _ _ _ _ (by decide)).trans ((bits_hi _ _ _ _ (by decide)).trans ((bits_hi _ _ _ _ (by decide)).trans ((bits_hi _ _ _ _ (by decide)).trans ((bits_hi _ _ _ _ (by decide)).trans ((bits_hi _ _ _ _ (by decide)).trans (rfl))))))
  have b25_7 : bitsAt w 25 7 = 0x20#7 := by rw [e]; exact (bits_hi _ _ _ _ (by decide)).trans ((bits_hi _ _ _ _ (by decide)).trans ((bits_hi _ _ _ _ (by decide)).trans ((bits_hi _ _ _ _ (by decide)).trans ((bits_hi _ _ _ _ (by decide)).trans ((bits_hi _ _ _ _ (by decide)).trans (bits_all _))))))
  have b27_3 : bitsAt w 27 3 = 0#3 := by rw [e]; exact (bits_hi _ _ _ _ (by decide)).trans ((bits_hi _ _ _ _ (by decide)).trans ((bits_hi _ _ _ _ (by decide)).trans ((bits_hi _ _ _ _ (by decide)).trans ((bits_hi _ _ _ _ (by decide)).trans ((bits_hi _ _ _ _ (by decide)).trans (rfl))))))
  have b30_2 : bitsAt w 30 2 = 1#2 := by rw [e]; exact (bits_hi _ _ _ _ (by decide)).trans ((bits_hi _ _ _ _ (by decide)).trans ((bits_hi _ _ _ _ (by decide)).trans ((bits_hi _ _ _ _ (by decide)).trans ((bits_hi _ _ _ _ (by decide)).trans ((bits_hi _ _ _ _ (by decide)).trans (rfl))))))
  rw [at_decodeRow_91 w b0_7, at_decodeCustom2_6 w b12_3]
  unfold decodeCustom2Mx
  rw [b7_5, b15_5, b20_4, b24_1, b25_2, b25_7, b27_3, b30_2]
  rfl

theorem spawn (rs1 : BitVec 5) (rd : BitVec 5) : Statement (.spawn rs1 rd) := by
  intro w h _
  have e : w = 0x0#7 ++ 0x0#5 ++ rs1 ++ 0x0#3 ++ rd ++ 0x7B#7 := (Option.some.inj h).symm
  have b0_7 : bitsAt w 0 7 = 0x7B#7 := by rw [e]; exact bits_last _ _
  have b7_5 : bitsAt w 7 5 = rd := by rw [e]; exact (bits_hi _ _ _ _ (by decide)).trans (bits_last _ _)
  have b12_3 : bitsAt w 12 3 = 0x0#3 := by rw [e]; exact (bits_hi _ _ _ _ (by decide)).trans ((bits_hi _ _ _ _ (by decide)).trans (bits_last _ _))
  have b15_5 : bitsAt w 15 5 = rs1 := by rw [e]; exact (bits_hi _ _ _ _ (by decide)).trans ((bits_hi _ _ _ _ (by decide)).trans ((bits_hi _ _ _ _ (by decide)).trans (bits_last _ _)))
  have b20_5 : bitsAt w 20 5 = 0x0#5 := by rw [e]; exact (bits_hi _ _ _ _ (by decide)).trans ((bits_hi _ _ _ _ (by decide)).trans ((bits_hi _ _ _ _ (by decide)).trans ((bits_hi _ _ _ _ (by decide)).trans (bits_last _ _))))
  have b25_7 : bitsAt w 25 7 = 0x0#7 := by rw [e]; exact (bits_hi _ _ _ _ (by decide)).trans ((bits_hi _ _ _ _ (by decide)).trans ((bits_hi _ _ _ _ (by decide)).trans ((bits_hi _ _ _ _ (by decide)).trans ((bits_hi _ _ _ _ (by decide)).trans (bits_all _)))))
  rw [at_decodeRow_123 w b0_7, at_decodeCustom3_0 w b12_3]
  unfold decodeCustom30
  rw [b7_5, b15_5, b20_5, b25_7]
  rfl

theorem done : Statement .done := by
  intro w h _
  have e : w = 0x1#7 ++ 0x0#5 ++ 0x0#5 ++ 0x0#3 ++ 0x0#5 ++ 0x7B#7 := (Option.some.inj h).symm
  have b0_7 : bitsAt w 0 7 = 0x7B#7 := by rw [e]; exact bits_last _ _
  have b7_5 : bitsAt w 7 5 = 0x0#5 := by rw [e]; exact (bits_hi _ _ _ _ (by decide)).trans (bits_last _ _)
  have b12_3 : bitsAt w 12 3 = 0x0#3 := by rw [e]; exact (bits_hi _ _ _ _ (by decide)).trans ((bits_hi _ _ _ _ (by decide)).trans (bits_last _ _))
  have b15_5 : bitsAt w 15 5 = 0x0#5 := by rw [e]; exact (bits_hi _ _ _ _ (by decide)).trans ((bits_hi _ _ _ _ (by decide)).trans ((bits_hi _ _ _ _ (by decide)).trans (bits_last _ _)))
  have b20_5 : bitsAt w 20 5 = 0x0#5 := by rw [e]; exact (bits_hi _ _ _ _ (by decide)).trans ((bits_hi _ _ _ _ (by decide)).trans ((bits_hi _ _ _ _ (by decide)).trans ((bits_hi _ _ _ _ (by decide)).trans (bits_last _ _))))
  have b25_7 : bitsAt w 25 7 = 0x1#7 := by rw [e]; exact (bits_hi _ _ _ _ (by decide)).trans ((bits_hi _ _ _ _ (by decide)).trans ((bits_hi _ _ _ _ (by decide)).trans ((bits_hi _ _ _ _ (by decide)).trans ((bits_hi _ _ _ _ (by decide)).trans (bits_all _)))))
  rw [at_decodeRow_123 w b0_7, at_decodeCustom3_0 w b12_3]
  unfold decodeCustom30
  rw [b7_5, b15_5, b20_5, b25_7]
  rfl

theorem yield : Statement .yield := by
  intro w h _
  have e : w = 0x2#7 ++ 0x0#5 ++ 0x0#5 ++ 0x0#3 ++ 0x0#5 ++ 0x7B#7 := (Option.some.inj h).symm
  have b0_7 : bitsAt w 0 7 = 0x7B#7 := by rw [e]; exact bits_last _ _
  have b7_5 : bitsAt w 7 5 = 0x0#5 := by rw [e]; exact (bits_hi _ _ _ _ (by decide)).trans (bits_last _ _)
  have b12_3 : bitsAt w 12 3 = 0x0#3 := by rw [e]; exact (bits_hi _ _ _ _ (by decide)).trans ((bits_hi _ _ _ _ (by decide)).trans (bits_last _ _))
  have b15_5 : bitsAt w 15 5 = 0x0#5 := by rw [e]; exact (bits_hi _ _ _ _ (by decide)).trans ((bits_hi _ _ _ _ (by decide)).trans ((bits_hi _ _ _ _ (by decide)).trans (bits_last _ _)))
  have b20_5 : bitsAt w 20 5 = 0x0#5 := by rw [e]; exact (bits_hi _ _ _ _ (by decide)).trans ((bits_hi _ _ _ _ (by decide)).trans ((bits_hi _ _ _ _ (by decide)).trans ((bits_hi _ _ _ _ (by decide)).trans (bits_last _ _))))
  have b25_7 : bitsAt w 25 7 = 0x2#7 := by rw [e]; exact (bits_hi _ _ _ _ (by decide)).trans ((bits_hi _ _ _ _ (by decide)).trans ((bits_hi _ _ _ _ (by decide)).trans ((bits_hi _ _ _ _ (by decide)).trans ((bits_hi _ _ _ _ (by decide)).trans (bits_all _)))))
  rw [at_decodeRow_123 w b0_7, at_decodeCustom3_0 w b12_3]
  unfold decodeCustom30
  rw [b7_5, b15_5, b20_5, b25_7]
  rfl

theorem send (rs2 : BitVec 5) (rs1 : BitVec 5) (rd : BitVec 5) : Statement (.send rs2 rs1 rd) := by
  intro w h _
  have e : w = 0x0#7 ++ rs2 ++ rs1 ++ 0x1#3 ++ rd ++ 0x7B#7 := (Option.some.inj h).symm
  have b0_7 : bitsAt w 0 7 = 0x7B#7 := by rw [e]; exact bits_last _ _
  have b7_5 : bitsAt w 7 5 = rd := by rw [e]; exact (bits_hi _ _ _ _ (by decide)).trans (bits_last _ _)
  have b12_3 : bitsAt w 12 3 = 0x1#3 := by rw [e]; exact (bits_hi _ _ _ _ (by decide)).trans ((bits_hi _ _ _ _ (by decide)).trans (bits_last _ _))
  have b15_5 : bitsAt w 15 5 = rs1 := by rw [e]; exact (bits_hi _ _ _ _ (by decide)).trans ((bits_hi _ _ _ _ (by decide)).trans ((bits_hi _ _ _ _ (by decide)).trans (bits_last _ _)))
  have b20_5 : bitsAt w 20 5 = rs2 := by rw [e]; exact (bits_hi _ _ _ _ (by decide)).trans ((bits_hi _ _ _ _ (by decide)).trans ((bits_hi _ _ _ _ (by decide)).trans ((bits_hi _ _ _ _ (by decide)).trans (bits_last _ _))))
  have b25_7 : bitsAt w 25 7 = 0x0#7 := by rw [e]; exact (bits_hi _ _ _ _ (by decide)).trans ((bits_hi _ _ _ _ (by decide)).trans ((bits_hi _ _ _ _ (by decide)).trans ((bits_hi _ _ _ _ (by decide)).trans ((bits_hi _ _ _ _ (by decide)).trans (bits_all _)))))
  rw [at_decodeRow_123 w b0_7, at_decodeCustom3_1 w b12_3]
  unfold decodeCustom31
  rw [b7_5, b15_5, b20_5, b25_7]
  rfl

theorem sendt (rs2 : BitVec 5) (rs1 : BitVec 5) (rd : BitVec 5) : Statement (.sendt rs2 rs1 rd) := by
  intro w h _
  have e : w = 0x1#7 ++ rs2 ++ rs1 ++ 0x1#3 ++ rd ++ 0x7B#7 := (Option.some.inj h).symm
  have b0_7 : bitsAt w 0 7 = 0x7B#7 := by rw [e]; exact bits_last _ _
  have b7_5 : bitsAt w 7 5 = rd := by rw [e]; exact (bits_hi _ _ _ _ (by decide)).trans (bits_last _ _)
  have b12_3 : bitsAt w 12 3 = 0x1#3 := by rw [e]; exact (bits_hi _ _ _ _ (by decide)).trans ((bits_hi _ _ _ _ (by decide)).trans (bits_last _ _))
  have b15_5 : bitsAt w 15 5 = rs1 := by rw [e]; exact (bits_hi _ _ _ _ (by decide)).trans ((bits_hi _ _ _ _ (by decide)).trans ((bits_hi _ _ _ _ (by decide)).trans (bits_last _ _)))
  have b20_5 : bitsAt w 20 5 = rs2 := by rw [e]; exact (bits_hi _ _ _ _ (by decide)).trans ((bits_hi _ _ _ _ (by decide)).trans ((bits_hi _ _ _ _ (by decide)).trans ((bits_hi _ _ _ _ (by decide)).trans (bits_last _ _))))
  have b25_7 : bitsAt w 25 7 = 0x1#7 := by rw [e]; exact (bits_hi _ _ _ _ (by decide)).trans ((bits_hi _ _ _ _ (by decide)).trans ((bits_hi _ _ _ _ (by decide)).trans ((bits_hi _ _ _ _ (by decide)).trans ((bits_hi _ _ _ _ (by decide)).trans (bits_all _)))))
  rw [at_decodeRow_123 w b0_7, at_decodeCustom3_1 w b12_3]
  unfold decodeCustom31
  rw [b7_5, b15_5, b20_5, b25_7]
  rfl

theorem recvf (rd : BitVec 5) : Statement (.recvf rd) := by
  intro w h _
  have e : w = 0x2#7 ++ 0x0#5 ++ 0x0#5 ++ 0x1#3 ++ rd ++ 0x7B#7 := (Option.some.inj h).symm
  have b0_7 : bitsAt w 0 7 = 0x7B#7 := by rw [e]; exact bits_last _ _
  have b7_5 : bitsAt w 7 5 = rd := by rw [e]; exact (bits_hi _ _ _ _ (by decide)).trans (bits_last _ _)
  have b12_3 : bitsAt w 12 3 = 0x1#3 := by rw [e]; exact (bits_hi _ _ _ _ (by decide)).trans ((bits_hi _ _ _ _ (by decide)).trans (bits_last _ _))
  have b15_5 : bitsAt w 15 5 = 0x0#5 := by rw [e]; exact (bits_hi _ _ _ _ (by decide)).trans ((bits_hi _ _ _ _ (by decide)).trans ((bits_hi _ _ _ _ (by decide)).trans (bits_last _ _)))
  have b20_5 : bitsAt w 20 5 = 0x0#5 := by rw [e]; exact (bits_hi _ _ _ _ (by decide)).trans ((bits_hi _ _ _ _ (by decide)).trans ((bits_hi _ _ _ _ (by decide)).trans ((bits_hi _ _ _ _ (by decide)).trans (bits_last _ _))))
  have b25_7 : bitsAt w 25 7 = 0x2#7 := by rw [e]; exact (bits_hi _ _ _ _ (by decide)).trans ((bits_hi _ _ _ _ (by decide)).trans ((bits_hi _ _ _ _ (by decide)).trans ((bits_hi _ _ _ _ (by decide)).trans ((bits_hi _ _ _ _ (by decide)).trans (bits_all _)))))
  rw [at_decodeRow_123 w b0_7, at_decodeCustom3_1 w b12_3]
  unfold decodeCustom31
  rw [b7_5, b15_5, b20_5, b25_7]
  rfl

theorem timerf (rs1 : BitVec 5) (rd : BitVec 5) : Statement (.timerf rs1 rd) := by
  intro w h _
  have e : w = 0x0#7 ++ 0x0#5 ++ rs1 ++ 0x2#3 ++ rd ++ 0x7B#7 := (Option.some.inj h).symm
  have b0_7 : bitsAt w 0 7 = 0x7B#7 := by rw [e]; exact bits_last _ _
  have b7_5 : bitsAt w 7 5 = rd := by rw [e]; exact (bits_hi _ _ _ _ (by decide)).trans (bits_last _ _)
  have b12_3 : bitsAt w 12 3 = 0x2#3 := by rw [e]; exact (bits_hi _ _ _ _ (by decide)).trans ((bits_hi _ _ _ _ (by decide)).trans (bits_last _ _))
  have b15_5 : bitsAt w 15 5 = rs1 := by rw [e]; exact (bits_hi _ _ _ _ (by decide)).trans ((bits_hi _ _ _ _ (by decide)).trans ((bits_hi _ _ _ _ (by decide)).trans (bits_last _ _)))
  have b20_5 : bitsAt w 20 5 = 0x0#5 := by rw [e]; exact (bits_hi _ _ _ _ (by decide)).trans ((bits_hi _ _ _ _ (by decide)).trans ((bits_hi _ _ _ _ (by decide)).trans ((bits_hi _ _ _ _ (by decide)).trans (bits_last _ _))))
  have b25_7 : bitsAt w 25 7 = 0x0#7 := by rw [e]; exact (bits_hi _ _ _ _ (by decide)).trans ((bits_hi _ _ _ _ (by decide)).trans ((bits_hi _ _ _ _ (by decide)).trans ((bits_hi _ _ _ _ (by decide)).trans ((bits_hi _ _ _ _ (by decide)).trans (bits_all _)))))
  rw [at_decodeRow_123 w b0_7, at_decodeCustom3_2 w b12_3]
  unfold decodeCustom32
  rw [b7_5, b15_5, b20_5, b25_7]
  rfl

theorem specb : Statement .specb := by
  intro w h _
  have e : w = 0x1#7 ++ 0x0#5 ++ 0x0#5 ++ 0x2#3 ++ 0x0#5 ++ 0x7B#7 := (Option.some.inj h).symm
  have b0_7 : bitsAt w 0 7 = 0x7B#7 := by rw [e]; exact bits_last _ _
  have b7_5 : bitsAt w 7 5 = 0x0#5 := by rw [e]; exact (bits_hi _ _ _ _ (by decide)).trans (bits_last _ _)
  have b12_3 : bitsAt w 12 3 = 0x2#3 := by rw [e]; exact (bits_hi _ _ _ _ (by decide)).trans ((bits_hi _ _ _ _ (by decide)).trans (bits_last _ _))
  have b15_5 : bitsAt w 15 5 = 0x0#5 := by rw [e]; exact (bits_hi _ _ _ _ (by decide)).trans ((bits_hi _ _ _ _ (by decide)).trans ((bits_hi _ _ _ _ (by decide)).trans (bits_last _ _)))
  have b20_5 : bitsAt w 20 5 = 0x0#5 := by rw [e]; exact (bits_hi _ _ _ _ (by decide)).trans ((bits_hi _ _ _ _ (by decide)).trans ((bits_hi _ _ _ _ (by decide)).trans ((bits_hi _ _ _ _ (by decide)).trans (bits_last _ _))))
  have b25_7 : bitsAt w 25 7 = 0x1#7 := by rw [e]; exact (bits_hi _ _ _ _ (by decide)).trans ((bits_hi _ _ _ _ (by decide)).trans ((bits_hi _ _ _ _ (by decide)).trans ((bits_hi _ _ _ _ (by decide)).trans ((bits_hi _ _ _ _ (by decide)).trans (bits_all _)))))
  rw [at_decodeRow_123 w b0_7, at_decodeCustom3_2 w b12_3]
  unfold decodeCustom32
  rw [b7_5, b15_5, b20_5, b25_7]
  rfl

theorem specc : Statement .specc := by
  intro w h _
  have e : w = 0x2#7 ++ 0x0#5 ++ 0x0#5 ++ 0x2#3 ++ 0x0#5 ++ 0x7B#7 := (Option.some.inj h).symm
  have b0_7 : bitsAt w 0 7 = 0x7B#7 := by rw [e]; exact bits_last _ _
  have b7_5 : bitsAt w 7 5 = 0x0#5 := by rw [e]; exact (bits_hi _ _ _ _ (by decide)).trans (bits_last _ _)
  have b12_3 : bitsAt w 12 3 = 0x2#3 := by rw [e]; exact (bits_hi _ _ _ _ (by decide)).trans ((bits_hi _ _ _ _ (by decide)).trans (bits_last _ _))
  have b15_5 : bitsAt w 15 5 = 0x0#5 := by rw [e]; exact (bits_hi _ _ _ _ (by decide)).trans ((bits_hi _ _ _ _ (by decide)).trans ((bits_hi _ _ _ _ (by decide)).trans (bits_last _ _)))
  have b20_5 : bitsAt w 20 5 = 0x0#5 := by rw [e]; exact (bits_hi _ _ _ _ (by decide)).trans ((bits_hi _ _ _ _ (by decide)).trans ((bits_hi _ _ _ _ (by decide)).trans ((bits_hi _ _ _ _ (by decide)).trans (bits_last _ _))))
  have b25_7 : bitsAt w 25 7 = 0x2#7 := by rw [e]; exact (bits_hi _ _ _ _ (by decide)).trans ((bits_hi _ _ _ _ (by decide)).trans ((bits_hi _ _ _ _ (by decide)).trans ((bits_hi _ _ _ _ (by decide)).trans ((bits_hi _ _ _ _ (by decide)).trans (bits_all _)))))
  rw [at_decodeRow_123 w b0_7, at_decodeCustom3_2 w b12_3]
  unfold decodeCustom32
  rw [b7_5, b15_5, b20_5, b25_7]
  rfl

theorem speca : Statement .speca := by
  intro w h _
  have e : w = 0x3#7 ++ 0x0#5 ++ 0x0#5 ++ 0x2#3 ++ 0x0#5 ++ 0x7B#7 := (Option.some.inj h).symm
  have b0_7 : bitsAt w 0 7 = 0x7B#7 := by rw [e]; exact bits_last _ _
  have b7_5 : bitsAt w 7 5 = 0x0#5 := by rw [e]; exact (bits_hi _ _ _ _ (by decide)).trans (bits_last _ _)
  have b12_3 : bitsAt w 12 3 = 0x2#3 := by rw [e]; exact (bits_hi _ _ _ _ (by decide)).trans ((bits_hi _ _ _ _ (by decide)).trans (bits_last _ _))
  have b15_5 : bitsAt w 15 5 = 0x0#5 := by rw [e]; exact (bits_hi _ _ _ _ (by decide)).trans ((bits_hi _ _ _ _ (by decide)).trans ((bits_hi _ _ _ _ (by decide)).trans (bits_last _ _)))
  have b20_5 : bitsAt w 20 5 = 0x0#5 := by rw [e]; exact (bits_hi _ _ _ _ (by decide)).trans ((bits_hi _ _ _ _ (by decide)).trans ((bits_hi _ _ _ _ (by decide)).trans ((bits_hi _ _ _ _ (by decide)).trans (bits_last _ _))))
  have b25_7 : bitsAt w 25 7 = 0x3#7 := by rw [e]; exact (bits_hi _ _ _ _ (by decide)).trans ((bits_hi _ _ _ _ (by decide)).trans ((bits_hi _ _ _ _ (by decide)).trans ((bits_hi _ _ _ _ (by decide)).trans ((bits_hi _ _ _ _ (by decide)).trans (bits_all _)))))
  rw [at_decodeRow_123 w b0_7, at_decodeCustom3_2 w b12_3]
  unfold decodeCustom32
  rw [b7_5, b15_5, b20_5, b25_7]
  rfl

theorem bget (nHi : BitVec 1) (nLo : BitVec 5) (rd : BitVec 5) : Statement (.bget nHi nLo rd) := by
  intro w h _
  have e : w = 0x0#6 ++ nHi ++ nLo ++ 0x0#5 ++ 0x3#3 ++ rd ++ 0x7B#7 := (Option.some.inj h).symm
  have b0_7 : bitsAt w 0 7 = 0x7B#7 := by rw [e]; exact bits_last _ _
  have b7_5 : bitsAt w 7 5 = rd := by rw [e]; exact (bits_hi _ _ _ _ (by decide)).trans (bits_last _ _)
  have b12_3 : bitsAt w 12 3 = 0x3#3 := by rw [e]; exact (bits_hi _ _ _ _ (by decide)).trans ((bits_hi _ _ _ _ (by decide)).trans (bits_last _ _))
  have b15_5 : bitsAt w 15 5 = 0x0#5 := by rw [e]; exact (bits_hi _ _ _ _ (by decide)).trans ((bits_hi _ _ _ _ (by decide)).trans ((bits_hi _ _ _ _ (by decide)).trans (bits_last _ _)))
  have b20_5 : bitsAt w 20 5 = nLo := by rw [e]; exact (bits_hi _ _ _ _ (by decide)).trans ((bits_hi _ _ _ _ (by decide)).trans ((bits_hi _ _ _ _ (by decide)).trans ((bits_hi _ _ _ _ (by decide)).trans (bits_last _ _))))
  have b25_1 : bitsAt w 25 1 = nHi := by rw [e]; exact (bits_hi _ _ _ _ (by decide)).trans ((bits_hi _ _ _ _ (by decide)).trans ((bits_hi _ _ _ _ (by decide)).trans ((bits_hi _ _ _ _ (by decide)).trans ((bits_hi _ _ _ _ (by decide)).trans (bits_last _ _)))))
  have b26_6 : bitsAt w 26 6 = 0x0#6 := by rw [e]; exact (bits_hi _ _ _ _ (by decide)).trans ((bits_hi _ _ _ _ (by decide)).trans ((bits_hi _ _ _ _ (by decide)).trans ((bits_hi _ _ _ _ (by decide)).trans ((bits_hi _ _ _ _ (by decide)).trans ((bits_hi _ _ _ _ (by decide)).trans (bits_all _))))))
  rw [at_decodeRow_123 w b0_7, at_decodeCustom3_3 w b12_3]
  unfold decodeCustom33
  rw [b7_5, b15_5, b20_5, b25_1, b26_6]
  rfl

theorem bpeek (nHi : BitVec 1) (nLo : BitVec 5) (rd : BitVec 5) : Statement (.bpeek nHi nLo rd) := by
  intro w h _
  have e : w = 0x1#6 ++ nHi ++ nLo ++ 0x0#5 ++ 0x3#3 ++ rd ++ 0x7B#7 := (Option.some.inj h).symm
  have b0_7 : bitsAt w 0 7 = 0x7B#7 := by rw [e]; exact bits_last _ _
  have b7_5 : bitsAt w 7 5 = rd := by rw [e]; exact (bits_hi _ _ _ _ (by decide)).trans (bits_last _ _)
  have b12_3 : bitsAt w 12 3 = 0x3#3 := by rw [e]; exact (bits_hi _ _ _ _ (by decide)).trans ((bits_hi _ _ _ _ (by decide)).trans (bits_last _ _))
  have b15_5 : bitsAt w 15 5 = 0x0#5 := by rw [e]; exact (bits_hi _ _ _ _ (by decide)).trans ((bits_hi _ _ _ _ (by decide)).trans ((bits_hi _ _ _ _ (by decide)).trans (bits_last _ _)))
  have b20_5 : bitsAt w 20 5 = nLo := by rw [e]; exact (bits_hi _ _ _ _ (by decide)).trans ((bits_hi _ _ _ _ (by decide)).trans ((bits_hi _ _ _ _ (by decide)).trans ((bits_hi _ _ _ _ (by decide)).trans (bits_last _ _))))
  have b25_1 : bitsAt w 25 1 = nHi := by rw [e]; exact (bits_hi _ _ _ _ (by decide)).trans ((bits_hi _ _ _ _ (by decide)).trans ((bits_hi _ _ _ _ (by decide)).trans ((bits_hi _ _ _ _ (by decide)).trans ((bits_hi _ _ _ _ (by decide)).trans (bits_last _ _)))))
  have b26_6 : bitsAt w 26 6 = 0x1#6 := by rw [e]; exact (bits_hi _ _ _ _ (by decide)).trans ((bits_hi _ _ _ _ (by decide)).trans ((bits_hi _ _ _ _ (by decide)).trans ((bits_hi _ _ _ _ (by decide)).trans ((bits_hi _ _ _ _ (by decide)).trans ((bits_hi _ _ _ _ (by decide)).trans (bits_all _))))))
  rw [at_decodeRow_123 w b0_7, at_decodeCustom3_3 w b12_3]
  unfold decodeCustom33
  rw [b7_5, b15_5, b20_5, b25_1, b26_6]
  rfl

theorem bskip (nHi : BitVec 1) (nLo : BitVec 5) : Statement (.bskip nHi nLo) := by
  intro w h _
  have e : w = 0x2#6 ++ nHi ++ nLo ++ 0x0#5 ++ 0x3#3 ++ 0x0#5 ++ 0x7B#7 := (Option.some.inj h).symm
  have b0_7 : bitsAt w 0 7 = 0x7B#7 := by rw [e]; exact bits_last _ _
  have b7_5 : bitsAt w 7 5 = 0x0#5 := by rw [e]; exact (bits_hi _ _ _ _ (by decide)).trans (bits_last _ _)
  have b12_3 : bitsAt w 12 3 = 0x3#3 := by rw [e]; exact (bits_hi _ _ _ _ (by decide)).trans ((bits_hi _ _ _ _ (by decide)).trans (bits_last _ _))
  have b15_5 : bitsAt w 15 5 = 0x0#5 := by rw [e]; exact (bits_hi _ _ _ _ (by decide)).trans ((bits_hi _ _ _ _ (by decide)).trans ((bits_hi _ _ _ _ (by decide)).trans (bits_last _ _)))
  have b20_5 : bitsAt w 20 5 = nLo := by rw [e]; exact (bits_hi _ _ _ _ (by decide)).trans ((bits_hi _ _ _ _ (by decide)).trans ((bits_hi _ _ _ _ (by decide)).trans ((bits_hi _ _ _ _ (by decide)).trans (bits_last _ _))))
  have b25_1 : bitsAt w 25 1 = nHi := by rw [e]; exact (bits_hi _ _ _ _ (by decide)).trans ((bits_hi _ _ _ _ (by decide)).trans ((bits_hi _ _ _ _ (by decide)).trans ((bits_hi _ _ _ _ (by decide)).trans ((bits_hi _ _ _ _ (by decide)).trans (bits_last _ _)))))
  have b26_6 : bitsAt w 26 6 = 0x2#6 := by rw [e]; exact (bits_hi _ _ _ _ (by decide)).trans ((bits_hi _ _ _ _ (by decide)).trans ((bits_hi _ _ _ _ (by decide)).trans ((bits_hi _ _ _ _ (by decide)).trans ((bits_hi _ _ _ _ (by decide)).trans ((bits_hi _ _ _ _ (by decide)).trans (bits_all _))))))
  rw [at_decodeRow_123 w b0_7, at_decodeCustom3_3 w b12_3]
  unfold decodeCustom33
  rw [b7_5, b15_5, b20_5, b25_1, b26_6]
  rfl

theorem bsopen (order : BitVec 1) (rs2 : BitVec 5) (rs1 : BitVec 5) : Statement (.bsopen order rs2 rs1) := by
  intro w h _
  have e : w = 0x3#6 ++ order ++ rs2 ++ rs1 ++ 0x3#3 ++ 0x0#5 ++ 0x7B#7 := (Option.some.inj h).symm
  have b0_7 : bitsAt w 0 7 = 0x7B#7 := by rw [e]; exact bits_last _ _
  have b7_5 : bitsAt w 7 5 = 0x0#5 := by rw [e]; exact (bits_hi _ _ _ _ (by decide)).trans (bits_last _ _)
  have b12_3 : bitsAt w 12 3 = 0x3#3 := by rw [e]; exact (bits_hi _ _ _ _ (by decide)).trans ((bits_hi _ _ _ _ (by decide)).trans (bits_last _ _))
  have b15_5 : bitsAt w 15 5 = rs1 := by rw [e]; exact (bits_hi _ _ _ _ (by decide)).trans ((bits_hi _ _ _ _ (by decide)).trans ((bits_hi _ _ _ _ (by decide)).trans (bits_last _ _)))
  have b20_5 : bitsAt w 20 5 = rs2 := by rw [e]; exact (bits_hi _ _ _ _ (by decide)).trans ((bits_hi _ _ _ _ (by decide)).trans ((bits_hi _ _ _ _ (by decide)).trans ((bits_hi _ _ _ _ (by decide)).trans (bits_last _ _))))
  have b25_1 : bitsAt w 25 1 = order := by rw [e]; exact (bits_hi _ _ _ _ (by decide)).trans ((bits_hi _ _ _ _ (by decide)).trans ((bits_hi _ _ _ _ (by decide)).trans ((bits_hi _ _ _ _ (by decide)).trans ((bits_hi _ _ _ _ (by decide)).trans (bits_last _ _)))))
  have b26_6 : bitsAt w 26 6 = 0x3#6 := by rw [e]; exact (bits_hi _ _ _ _ (by decide)).trans ((bits_hi _ _ _ _ (by decide)).trans ((bits_hi _ _ _ _ (by decide)).trans ((bits_hi _ _ _ _ (by decide)).trans ((bits_hi _ _ _ _ (by decide)).trans ((bits_hi _ _ _ _ (by decide)).trans (bits_all _))))))
  rw [at_decodeRow_123 w b0_7, at_decodeCustom3_3 w b12_3]
  unfold decodeCustom33
  rw [b7_5, b15_5, b20_5, b25_1, b26_6]
  rfl

theorem balign : Statement .balign := by
  intro w h _
  have e : w = 0x8#7 ++ 0x0#5 ++ 0x0#5 ++ 0x3#3 ++ 0x0#5 ++ 0x7B#7 := (Option.some.inj h).symm
  have b0_7 : bitsAt w 0 7 = 0x7B#7 := by rw [e]; exact bits_last _ _
  have b7_5 : bitsAt w 7 5 = 0x0#5 := by rw [e]; exact (bits_hi _ _ _ _ (by decide)).trans (bits_last _ _)
  have b12_3 : bitsAt w 12 3 = 0x3#3 := by rw [e]; exact (bits_hi _ _ _ _ (by decide)).trans ((bits_hi _ _ _ _ (by decide)).trans (bits_last _ _))
  have b15_5 : bitsAt w 15 5 = 0x0#5 := by rw [e]; exact (bits_hi _ _ _ _ (by decide)).trans ((bits_hi _ _ _ _ (by decide)).trans ((bits_hi _ _ _ _ (by decide)).trans (bits_last _ _)))
  have b20_5 : bitsAt w 20 5 = 0x0#5 := by rw [e]; exact (bits_hi _ _ _ _ (by decide)).trans ((bits_hi _ _ _ _ (by decide)).trans ((bits_hi _ _ _ _ (by decide)).trans ((bits_hi _ _ _ _ (by decide)).trans (bits_last _ _))))
  have b25_1 : bitsAt w 25 1 = 0#1 := by rw [e]; exact (bits_hi _ _ _ _ (by decide)).trans ((bits_hi _ _ _ _ (by decide)).trans ((bits_hi _ _ _ _ (by decide)).trans ((bits_hi _ _ _ _ (by decide)).trans ((bits_hi _ _ _ _ (by decide)).trans (rfl)))))
  have b25_7 : bitsAt w 25 7 = 0x8#7 := by rw [e]; exact (bits_hi _ _ _ _ (by decide)).trans ((bits_hi _ _ _ _ (by decide)).trans ((bits_hi _ _ _ _ (by decide)).trans ((bits_hi _ _ _ _ (by decide)).trans ((bits_hi _ _ _ _ (by decide)).trans (bits_all _)))))
  have b26_6 : bitsAt w 26 6 = 4#6 := by rw [e]; exact (bits_hi _ _ _ _ (by decide)).trans ((bits_hi _ _ _ _ (by decide)).trans ((bits_hi _ _ _ _ (by decide)).trans ((bits_hi _ _ _ _ (by decide)).trans ((bits_hi _ _ _ _ (by decide)).trans (rfl)))))
  rw [at_decodeRow_123 w b0_7, at_decodeCustom3_3 w b12_3]
  unfold decodeCustom33
  rw [b7_5, b15_5, b20_5, b25_1, b25_7, b26_6]
  rfl

theorem blzc (rs2 : BitVec 5) (rs1 : BitVec 5) (rd : BitVec 5) : Statement (.blzc rs2 rs1 rd) := by
  intro w h _
  have e : w = 0xA#7 ++ rs2 ++ rs1 ++ 0x3#3 ++ rd ++ 0x7B#7 := (Option.some.inj h).symm
  have b0_7 : bitsAt w 0 7 = 0x7B#7 := by rw [e]; exact bits_last _ _
  have b7_5 : bitsAt w 7 5 = rd := by rw [e]; exact (bits_hi _ _ _ _ (by decide)).trans (bits_last _ _)
  have b12_3 : bitsAt w 12 3 = 0x3#3 := by rw [e]; exact (bits_hi _ _ _ _ (by decide)).trans ((bits_hi _ _ _ _ (by decide)).trans (bits_last _ _))
  have b15_5 : bitsAt w 15 5 = rs1 := by rw [e]; exact (bits_hi _ _ _ _ (by decide)).trans ((bits_hi _ _ _ _ (by decide)).trans ((bits_hi _ _ _ _ (by decide)).trans (bits_last _ _)))
  have b20_5 : bitsAt w 20 5 = rs2 := by rw [e]; exact (bits_hi _ _ _ _ (by decide)).trans ((bits_hi _ _ _ _ (by decide)).trans ((bits_hi _ _ _ _ (by decide)).trans ((bits_hi _ _ _ _ (by decide)).trans (bits_last _ _))))
  have b25_1 : bitsAt w 25 1 = 0#1 := by rw [e]; exact (bits_hi _ _ _ _ (by decide)).trans ((bits_hi _ _ _ _ (by decide)).trans ((bits_hi _ _ _ _ (by decide)).trans ((bits_hi _ _ _ _ (by decide)).trans ((bits_hi _ _ _ _ (by decide)).trans (rfl)))))
  have b25_7 : bitsAt w 25 7 = 0xA#7 := by rw [e]; exact (bits_hi _ _ _ _ (by decide)).trans ((bits_hi _ _ _ _ (by decide)).trans ((bits_hi _ _ _ _ (by decide)).trans ((bits_hi _ _ _ _ (by decide)).trans ((bits_hi _ _ _ _ (by decide)).trans (bits_all _)))))
  have b26_6 : bitsAt w 26 6 = 5#6 := by rw [e]; exact (bits_hi _ _ _ _ (by decide)).trans ((bits_hi _ _ _ _ (by decide)).trans ((bits_hi _ _ _ _ (by decide)).trans ((bits_hi _ _ _ _ (by decide)).trans ((bits_hi _ _ _ _ (by decide)).trans (rfl)))))
  rw [at_decodeRow_123 w b0_7, at_decodeCustom3_3 w b12_3]
  unfold decodeCustom33
  rw [b7_5, b15_5, b20_5, b25_1, b25_7, b26_6]
  rfl

theorem tresume (rs1 : BitVec 5) : Statement (.tresume rs1) := by
  intro w h _
  have e : w = 0x0#7 ++ 0x0#5 ++ rs1 ++ 0x4#3 ++ 0x0#5 ++ 0x7B#7 := (Option.some.inj h).symm
  have b0_7 : bitsAt w 0 7 = 0x7B#7 := by rw [e]; exact bits_last _ _
  have b7_5 : bitsAt w 7 5 = 0x0#5 := by rw [e]; exact (bits_hi _ _ _ _ (by decide)).trans (bits_last _ _)
  have b12_3 : bitsAt w 12 3 = 0x4#3 := by rw [e]; exact (bits_hi _ _ _ _ (by decide)).trans ((bits_hi _ _ _ _ (by decide)).trans (bits_last _ _))
  have b15_5 : bitsAt w 15 5 = rs1 := by rw [e]; exact (bits_hi _ _ _ _ (by decide)).trans ((bits_hi _ _ _ _ (by decide)).trans ((bits_hi _ _ _ _ (by decide)).trans (bits_last _ _)))
  have b20_5 : bitsAt w 20 5 = 0x0#5 := by rw [e]; exact (bits_hi _ _ _ _ (by decide)).trans ((bits_hi _ _ _ _ (by decide)).trans ((bits_hi _ _ _ _ (by decide)).trans ((bits_hi _ _ _ _ (by decide)).trans (bits_last _ _))))
  have b25_7 : bitsAt w 25 7 = 0x0#7 := by rw [e]; exact (bits_hi _ _ _ _ (by decide)).trans ((bits_hi _ _ _ _ (by decide)).trans ((bits_hi _ _ _ _ (by decide)).trans ((bits_hi _ _ _ _ (by decide)).trans ((bits_hi _ _ _ _ (by decide)).trans (bits_all _)))))
  rw [at_decodeRow_123 w b0_7, at_decodeCustom3_4 w b12_3]
  unfold decodeCustom34
  rw [b7_5, b15_5, b20_5, b25_7]
  rfl

theorem tkill (rs1 : BitVec 5) : Statement (.tkill rs1) := by
  intro w h _
  have e : w = 0x1#7 ++ 0x0#5 ++ rs1 ++ 0x4#3 ++ 0x0#5 ++ 0x7B#7 := (Option.some.inj h).symm
  have b0_7 : bitsAt w 0 7 = 0x7B#7 := by rw [e]; exact bits_last _ _
  have b7_5 : bitsAt w 7 5 = 0x0#5 := by rw [e]; exact (bits_hi _ _ _ _ (by decide)).trans (bits_last _ _)
  have b12_3 : bitsAt w 12 3 = 0x4#3 := by rw [e]; exact (bits_hi _ _ _ _ (by decide)).trans ((bits_hi _ _ _ _ (by decide)).trans (bits_last _ _))
  have b15_5 : bitsAt w 15 5 = rs1 := by rw [e]; exact (bits_hi _ _ _ _ (by decide)).trans ((bits_hi _ _ _ _ (by decide)).trans ((bits_hi _ _ _ _ (by decide)).trans (bits_last _ _)))
  have b20_5 : bitsAt w 20 5 = 0x0#5 := by rw [e]; exact (bits_hi _ _ _ _ (by decide)).trans ((bits_hi _ _ _ _ (by decide)).trans ((bits_hi _ _ _ _ (by decide)).trans ((bits_hi _ _ _ _ (by decide)).trans (bits_last _ _))))
  have b25_7 : bitsAt w 25 7 = 0x1#7 := by rw [e]; exact (bits_hi _ _ _ _ (by decide)).trans ((bits_hi _ _ _ _ (by decide)).trans ((bits_hi _ _ _ _ (by decide)).trans ((bits_hi _ _ _ _ (by decide)).trans ((bits_hi _ _ _ _ (by decide)).trans (bits_all _)))))
  rw [at_decodeRow_123 w b0_7, at_decodeCustom3_4 w b12_3]
  unfold decodeCustom34
  rw [b7_5, b15_5, b20_5, b25_7]
  rfl

theorem swapctx (rs2 : BitVec 5) (rs1 : BitVec 5) (rd : BitVec 5) : Statement (.swapctx rs2 rs1 rd) := by
  intro w h _
  have e : w = 0x2#7 ++ rs2 ++ rs1 ++ 0x4#3 ++ rd ++ 0x7B#7 := (Option.some.inj h).symm
  have b0_7 : bitsAt w 0 7 = 0x7B#7 := by rw [e]; exact bits_last _ _
  have b7_5 : bitsAt w 7 5 = rd := by rw [e]; exact (bits_hi _ _ _ _ (by decide)).trans (bits_last _ _)
  have b12_3 : bitsAt w 12 3 = 0x4#3 := by rw [e]; exact (bits_hi _ _ _ _ (by decide)).trans ((bits_hi _ _ _ _ (by decide)).trans (bits_last _ _))
  have b15_5 : bitsAt w 15 5 = rs1 := by rw [e]; exact (bits_hi _ _ _ _ (by decide)).trans ((bits_hi _ _ _ _ (by decide)).trans ((bits_hi _ _ _ _ (by decide)).trans (bits_last _ _)))
  have b20_5 : bitsAt w 20 5 = rs2 := by rw [e]; exact (bits_hi _ _ _ _ (by decide)).trans ((bits_hi _ _ _ _ (by decide)).trans ((bits_hi _ _ _ _ (by decide)).trans ((bits_hi _ _ _ _ (by decide)).trans (bits_last _ _))))
  have b25_7 : bitsAt w 25 7 = 0x2#7 := by rw [e]; exact (bits_hi _ _ _ _ (by decide)).trans ((bits_hi _ _ _ _ (by decide)).trans ((bits_hi _ _ _ _ (by decide)).trans ((bits_hi _ _ _ _ (by decide)).trans ((bits_hi _ _ _ _ (by decide)).trans (bits_all _)))))
  rw [at_decodeRow_123 w b0_7, at_decodeCustom3_4 w b12_3]
  unfold decodeCustom34
  rw [b7_5, b15_5, b20_5, b25_7]
  rfl

theorem loadctx (rs2 : BitVec 5) (rs1 : BitVec 5) (rd : BitVec 5) : Statement (.loadctx rs2 rs1 rd) := by
  intro w h _
  have e : w = 0x3#7 ++ rs2 ++ rs1 ++ 0x4#3 ++ rd ++ 0x7B#7 := (Option.some.inj h).symm
  have b0_7 : bitsAt w 0 7 = 0x7B#7 := by rw [e]; exact bits_last _ _
  have b7_5 : bitsAt w 7 5 = rd := by rw [e]; exact (bits_hi _ _ _ _ (by decide)).trans (bits_last _ _)
  have b12_3 : bitsAt w 12 3 = 0x4#3 := by rw [e]; exact (bits_hi _ _ _ _ (by decide)).trans ((bits_hi _ _ _ _ (by decide)).trans (bits_last _ _))
  have b15_5 : bitsAt w 15 5 = rs1 := by rw [e]; exact (bits_hi _ _ _ _ (by decide)).trans ((bits_hi _ _ _ _ (by decide)).trans ((bits_hi _ _ _ _ (by decide)).trans (bits_last _ _)))
  have b20_5 : bitsAt w 20 5 = rs2 := by rw [e]; exact (bits_hi _ _ _ _ (by decide)).trans ((bits_hi _ _ _ _ (by decide)).trans ((bits_hi _ _ _ _ (by decide)).trans ((bits_hi _ _ _ _ (by decide)).trans (bits_last _ _))))
  have b25_7 : bitsAt w 25 7 = 0x3#7 := by rw [e]; exact (bits_hi _ _ _ _ (by decide)).trans ((bits_hi _ _ _ _ (by decide)).trans ((bits_hi _ _ _ _ (by decide)).trans ((bits_hi _ _ _ _ (by decide)).trans ((bits_hi _ _ _ _ (by decide)).trans (bits_all _)))))
  rw [at_decodeRow_123 w b0_7, at_decodeCustom3_4 w b12_3]
  unfold decodeCustom34
  rw [b7_5, b15_5, b20_5, b25_7]
  rfl

theorem hdone : Statement .hdone := by
  intro w h _
  have e : w = 0x0#7 ++ 0x0#5 ++ 0x0#5 ++ 0x5#3 ++ 0x0#5 ++ 0x7B#7 := (Option.some.inj h).symm
  have b0_7 : bitsAt w 0 7 = 0x7B#7 := by rw [e]; exact bits_last _ _
  have b7_5 : bitsAt w 7 5 = 0x0#5 := by rw [e]; exact (bits_hi _ _ _ _ (by decide)).trans (bits_last _ _)
  have b12_3 : bitsAt w 12 3 = 0x5#3 := by rw [e]; exact (bits_hi _ _ _ _ (by decide)).trans ((bits_hi _ _ _ _ (by decide)).trans (bits_last _ _))
  have b15_5 : bitsAt w 15 5 = 0x0#5 := by rw [e]; exact (bits_hi _ _ _ _ (by decide)).trans ((bits_hi _ _ _ _ (by decide)).trans ((bits_hi _ _ _ _ (by decide)).trans (bits_last _ _)))
  have b20_5 : bitsAt w 20 5 = 0x0#5 := by rw [e]; exact (bits_hi _ _ _ _ (by decide)).trans ((bits_hi _ _ _ _ (by decide)).trans ((bits_hi _ _ _ _ (by decide)).trans ((bits_hi _ _ _ _ (by decide)).trans (bits_last _ _))))
  have b25_7 : bitsAt w 25 7 = 0x0#7 := by rw [e]; exact (bits_hi _ _ _ _ (by decide)).trans ((bits_hi _ _ _ _ (by decide)).trans ((bits_hi _ _ _ _ (by decide)).trans ((bits_hi _ _ _ _ (by decide)).trans ((bits_hi _ _ _ _ (by decide)).trans (bits_all _)))))
  rw [at_decodeRow_123 w b0_7, at_decodeCustom3_5 w b12_3]
  unfold decodeCustom35
  rw [b7_5, b15_5, b20_5, b25_7]
  rfl

theorem rtrd (rs1 : BitVec 5) (rd : BitVec 5) : Statement (.rtrd rs1 rd) := by
  intro w h _
  have e : w = 0x1#7 ++ 0x0#5 ++ rs1 ++ 0x5#3 ++ rd ++ 0x7B#7 := (Option.some.inj h).symm
  have b0_7 : bitsAt w 0 7 = 0x7B#7 := by rw [e]; exact bits_last _ _
  have b7_5 : bitsAt w 7 5 = rd := by rw [e]; exact (bits_hi _ _ _ _ (by decide)).trans (bits_last _ _)
  have b12_3 : bitsAt w 12 3 = 0x5#3 := by rw [e]; exact (bits_hi _ _ _ _ (by decide)).trans ((bits_hi _ _ _ _ (by decide)).trans (bits_last _ _))
  have b15_5 : bitsAt w 15 5 = rs1 := by rw [e]; exact (bits_hi _ _ _ _ (by decide)).trans ((bits_hi _ _ _ _ (by decide)).trans ((bits_hi _ _ _ _ (by decide)).trans (bits_last _ _)))
  have b20_5 : bitsAt w 20 5 = 0x0#5 := by rw [e]; exact (bits_hi _ _ _ _ (by decide)).trans ((bits_hi _ _ _ _ (by decide)).trans ((bits_hi _ _ _ _ (by decide)).trans ((bits_hi _ _ _ _ (by decide)).trans (bits_last _ _))))
  have b25_7 : bitsAt w 25 7 = 0x1#7 := by rw [e]; exact (bits_hi _ _ _ _ (by decide)).trans ((bits_hi _ _ _ _ (by decide)).trans ((bits_hi _ _ _ _ (by decide)).trans ((bits_hi _ _ _ _ (by decide)).trans ((bits_hi _ _ _ _ (by decide)).trans (bits_all _)))))
  rw [at_decodeRow_123 w b0_7, at_decodeCustom3_5 w b12_3]
  unfold decodeCustom35
  rw [b7_5, b15_5, b20_5, b25_7]
  rfl

theorem rtwr (rs2 : BitVec 5) (rs1 : BitVec 5) : Statement (.rtwr rs2 rs1) := by
  intro w h _
  have e : w = 0x2#7 ++ rs2 ++ rs1 ++ 0x5#3 ++ 0x0#5 ++ 0x7B#7 := (Option.some.inj h).symm
  have b0_7 : bitsAt w 0 7 = 0x7B#7 := by rw [e]; exact bits_last _ _
  have b7_5 : bitsAt w 7 5 = 0x0#5 := by rw [e]; exact (bits_hi _ _ _ _ (by decide)).trans (bits_last _ _)
  have b12_3 : bitsAt w 12 3 = 0x5#3 := by rw [e]; exact (bits_hi _ _ _ _ (by decide)).trans ((bits_hi _ _ _ _ (by decide)).trans (bits_last _ _))
  have b15_5 : bitsAt w 15 5 = rs1 := by rw [e]; exact (bits_hi _ _ _ _ (by decide)).trans ((bits_hi _ _ _ _ (by decide)).trans ((bits_hi _ _ _ _ (by decide)).trans (bits_last _ _)))
  have b20_5 : bitsAt w 20 5 = rs2 := by rw [e]; exact (bits_hi _ _ _ _ (by decide)).trans ((bits_hi _ _ _ _ (by decide)).trans ((bits_hi _ _ _ _ (by decide)).trans ((bits_hi _ _ _ _ (by decide)).trans (bits_last _ _))))
  have b25_7 : bitsAt w 25 7 = 0x2#7 := by rw [e]; exact (bits_hi _ _ _ _ (by decide)).trans ((bits_hi _ _ _ _ (by decide)).trans ((bits_hi _ _ _ _ (by decide)).trans ((bits_hi _ _ _ _ (by decide)).trans ((bits_hi _ _ _ _ (by decide)).trans (bits_all _)))))
  rw [at_decodeRow_123 w b0_7, at_decodeCustom3_5 w b12_3]
  unfold decodeCustom35
  rw [b7_5, b15_5, b20_5, b25_7]
  rfl

theorem parkLimit (core slot : Nat) : Statement (.parkLimit core slot) := by
  intro _ h _; cases h

theorem icacheFill (fid : Nat) : Statement (.icacheFill fid) := by
  intro _ h _; cases h

theorem claimDelivery (core claim : Nat) : Statement (.claimDelivery core claim) := by
  intro _ h _; cases h

theorem divideComplete (core op : Nat) : Statement (.divideComplete core op) := by
  intro _ h _; cases h

theorem vectorStageEnter (core : Nat) : Statement (.vectorStageEnter core) := by
  intro _ h _; cases h

theorem vectorLongComplete (core : Nat) : Statement (.vectorLongComplete core) := by
  intro _ h _; cases h

theorem storeBufferSend (core : Nat) : Statement (.storeBufferSend core) := by
  intro _ h _; cases h

theorem accessHoldRelease (core access : Nat) : Statement (.accessHoldRelease core access) := by
  intro _ h _; cases h

theorem homeLoad (fid : Nat) : Statement (.homeLoad fid) := by
  intro _ h _; cases h

theorem homeStore (fid : Nat) : Statement (.homeStore fid) := by
  intro _ h _; cases h

theorem homeAmo (fid : Nat) : Statement (.homeAmo fid) := by
  intro _ h _; cases h

theorem storeFail (fid : Nat) : Statement (.storeFail fid) := by
  intro _ h _; cases h

theorem transferPerform (core : Nat) : Statement (.transferPerform core) := by
  intro _ h _; cases h

theorem mdotComplete (core : Nat) : Statement (.mdotComplete core) := by
  intro _ h _; cases h

theorem blzcGroup (core : Nat) : Statement (.blzcGroup core) := by
  intro _ h _; cases h

theorem lockBreak (core bank : Nat) : Statement (.lockBreak core bank) := by
  intro _ h _; cases h

theorem walk (fid : Nat) : Statement (.walk fid) := by
  intro _ h _; cases h

theorem walkFill (fid : Nat) : Statement (.walkFill fid) := by
  intro _ h _; cases h

theorem rinvAck (fid : Nat) : Statement (.rinvAck fid) := by
  intro _ h _; cases h

theorem gleanUnit (move : Nat) : Statement (.gleanUnit move) := by
  intro _ h _; cases h

theorem gleanFinish (move : Nat) : Statement (.gleanFinish move) := by
  intro _ h _; cases h

theorem copy (core ch seg : Nat) : Statement (.copy core ch seg) := by
  intro _ h _; cases h

theorem redadd (core ch seg : Nat) : Statement (.redadd core ch seg) := by
  intro _ h _; cases h

theorem qf8 (core ch seg : Nat) : Statement (.qf8 core ch seg) := by
  intro _ h _; cases h

theorem mxq (core ch seg : Nat) : Statement (.mxq core ch seg) := by
  intro _ h _; cases h

theorem mcast (core ch seg : Nat) : Statement (.mcast core ch seg) := by
  intro _ h _; cases h

theorem copyEnd (core ch : Nat) : Statement (.copyEnd core ch) := by
  intro _ h _; cases h

theorem channelResume (fid : Nat) : Statement (.channelResume fid) := by
  intro _ h _; cases h

theorem channelAbort (fid : Nat) : Statement (.channelAbort fid) := by
  intro _ h _; cases h

theorem inboundSegment (fid : Nat) : Statement (.inboundSegment fid) := by
  intro _ h _; cases h

theorem mcastReceive (fid : Nat) : Statement (.mcastReceive fid) := by
  intro _ h _; cases h

theorem remoteBarrierEvent (fid : Nat) : Statement (.remoteBarrierEvent fid) := by
  intro _ h _; cases h

theorem bufferFree (fid : Nat) : Statement (.bufferFree fid) := by
  intro _ h _; cases h

theorem rmaSegmentSend (chip rmod : Nat) : Statement (.rmaSegmentSend chip rmod) := by
  intro _ h _; cases h

theorem data (chip rmod : Nat) (ce red : Bool) (seq floor : BitVec 32) (pa : BitVec 43) (bytes : List (BitVec 8)) : Statement (.data chip rmod ce red seq floor pa bytes) := by
  intro _ h _; cases h

theorem ack (chip rmod : Nat) (seq cumE : BitVec 32) (ece : Bool) : Statement (.ack chip rmod seq cumE ece) := by
  intro _ h _; cases h

theorem nackBudget (chip rmod : Nat) (seq cumE : BitVec 32) (ece : Bool) : Statement (.nackBudget chip rmod seq cumE ece) := by
  intro _ h _; cases h

theorem nackRefused (chip rmod : Nat) (seq cumE : BitVec 32) (ece : Bool) : Statement (.nackRefused chip rmod seq cumE ece) := by
  intro _ h _; cases h

theorem rmaTimer (chip rmod : Nat) (seq : BitVec 32) : Statement (.rmaTimer chip rmod seq) := by
  intro _ h _; cases h

theorem routerForward (fid : Nat) : Statement (.routerForward fid) := by
  intro _ h _; cases h

theorem whereProbe (site : Nat) (name : BitVec 12) : Statement (.whereProbe site name) := by
  intro _ h _; cases h

theorem whereReflood (site : Nat) (name : BitVec 12) : Statement (.whereReflood site name) := by
  intro _ h _; cases h

theorem hereReply (site : Nat) (name : BitVec 12) : Statement (.hereReply site name) := by
  intro _ h _; cases h

theorem unknownName (fid : Nat) : Statement (.unknownName fid) := by
  intro _ h _; cases h

theorem blocked (fid : Nat) : Statement (.blocked fid) := by
  intro _ h _; cases h

theorem moved (fid : Nat) : Statement (.moved fid) := by
  intro _ h _; cases h

theorem errorResponse (fid : Nat) : Statement (.errorResponse fid) := by
  intro _ h _; cases h

theorem greeting (site dir : Nat) (xyOk yxOk : Bool) : Statement (.greeting site dir xyOk yxOk) := by
  intro _ h _; cases h

theorem linkTimeout (site dir : Nat) (cut : LinkCut) : Statement (.linkTimeout site dir cut) := by
  intro _ h _; cases h

theorem noResponse (fid : Nat) : Statement (.noResponse fid) := by
  intro _ h _; cases h

theorem budgetPeriod (edge : Bool) (unit : Nat) : Statement (.budgetPeriod edge unit) := by
  intro _ h _; cases h

theorem bringUp : Statement .bringUp := by
  intro _ h _; cases h

theorem clockLock (site : Nat) (dramGood computeGood : Bool) : Statement (.clockLock site dramGood computeGood) := by
  intro _ h _; cases h

theorem siteGreeted (site : Nat) : Statement (.siteGreeted site) := by
  intro _ h _; cases h

theorem greetTimeout (site : Nat) : Statement (.greetTimeout site) := by
  intro _ h _; cases h

theorem selfTestFail (site : Nat) : Statement (.selfTestFail site) := by
  intro _ h _; cases h

theorem configRecord (site proc : Nat) (name : BitVec 12) (part : BitVec 4) (rect : BitVec 20) (regionW regionH : BitVec 5) (remap : List (BitVec 5)) (pins : List (BitVec 12 × BitVec 32)) : Statement (.configRecord site proc name part rect regionW regionH remap pins) := by
  intro _ h _; cases h

theorem configCommit (site : Nat) : Statement (.configCommit site) := by
  intro _ h _; cases h

theorem sitePacket (fid : Nat) : Statement (.sitePacket fid) := by
  intro _ h _; cases h

theorem jobEnd (site : Nat) : Statement (.jobEnd site) := by
  intro _ h _; cases h

theorem baseDieError (site : Nat) : Statement (.baseDieError site) := by
  intro _ h _; cases h

theorem clockSwitch (site : Nat) : Statement (.clockSwitch site) := by
  intro _ h _; cases h

theorem relockDone (site : Nat) : Statement (.relockDone site) := by
  intro _ h _; cases h

theorem dispatch (core : Nat) : Statement (.dispatch core) := by
  intro _ h _; cases h

theorem sendLanding (fid : Nat) : Statement (.sendLanding fid) := by
  intro _ h _; cases h

theorem sendtLanding (fid : Nat) : Statement (.sendtLanding fid) := by
  intro _ h _; cases h

theorem idleSteal (core : Nat) : Statement (.idleSteal core) := by
  intro _ h _; cases h

theorem stealRequest (fid : Nat) : Statement (.stealRequest fid) := by
  intro _ h _; cases h

theorem stealAnswer (fid : Nat) : Statement (.stealAnswer fid) := by
  intro _ h _; cases h

theorem stealBackoff (core : Nat) : Statement (.stealBackoff core) := by
  intro _ h _; cases h

theorem timerExpiry (core claim : Nat) : Statement (.timerExpiry core claim) := by
  intro _ h _; cases h

theorem notification (fid : Nat) : Statement (.notification fid) := by
  intro _ h _; cases h

theorem noteRetry (fid : Nat) : Statement (.noteRetry fid) := by
  intro _ h _; cases h

theorem handlerEntry (core : Nat) : Statement (.handlerEntry core) := by
  intro _ h _; cases h

theorem tresumeApply (fid : Nat) : Statement (.tresumeApply fid) := by
  intro _ h _; cases h

theorem tkillApply (fid : Nat) : Statement (.tkillApply fid) := by
  intro _ h _; cases h

theorem windowWrite (fid : Nat) : Statement (.windowWrite fid) := by
  intro _ h _; cases h

theorem saveCapture (core : Nat) : Statement (.saveCapture core) := by
  intro _ h _; cases h

theorem imageWriteDone (core : Nat) : Statement (.imageWriteDone core) := by
  intro _ h _; cases h

theorem restoreApply (core : Nat) : Statement (.restoreApply core) := by
  intro _ h _; cases h

theorem regwrite (proc : Nat) (unit : BitVec 16) (part : BitVec 4) (off : BitVec 32) (value : BitVec 64) : Statement (.regwrite proc unit part off value) := by
  intro _ h _; cases h

theorem regread (proc : Nat) (unit : BitVec 16) (part : BitVec 4) (off : BitVec 32) : Statement (.regread proc unit part off) := by
  intro _ h _; cases h

theorem queueDoorbell (proc queue : Nat) (wr : BitVec 32) : Statement (.queueDoorbell proc queue wr) := by
  intro _ h _; cases h

theorem queueRestart (proc queue : Nat) : Statement (.queueRestart proc queue) := by
  intro _ h _; cases h

theorem peerEntryWrite (chip rmod : Nat) (value : BitVec 64) : Statement (.peerEntryWrite chip rmod value) := by
  intro _ h _; cases h

theorem routeEntryWrite (fid : Nat) : Statement (.routeEntryWrite fid) := by
  intro _ h _; cases h

theorem physSelectWrite (fid : Nat) : Statement (.physSelectWrite fid) := by
  intro _ h _; cases h

theorem load (proc : Nat) (part : BitVec 4) (pa : BitVec 43) (dirs : List (BitVec 64)) : Statement (.load proc part pa dirs) := by
  intro _ h _; cases h

theorem unload (proc : Nat) (part : BitVec 4) (names : List (BitVec 12)) : Statement (.unload proc part names) := by
  intro _ h _; cases h

theorem siteFence (site : SiteTarget) : Statement (.siteFence site) := by
  intro _ h _; cases h

theorem siteReset (site : ResetCommand) : Statement (.siteReset site) := by
  intro _ h _; cases h

theorem siteRetire (site : SiteTarget) : Statement (.siteRetire site) := by
  intro _ h _; cases h

theorem slotResume (core : NodeTarget 16) (slot : BitVec 4) : Statement (.slotResume core slot) := by
  intro _ h _; cases h

theorem processorResume (proc : Nat) : Statement (.processorResume proc) := by
  intro _ h _; cases h

theorem attest (proc : Nat) (nonce : BitVec 384) : Statement (.attest proc nonce) := by
  intro _ h _; cases h

theorem nop (proc queue : Nat) : Statement (.nop proc queue) := by
  intro _ h _; cases h

theorem launch (proc queue : Nat) : Statement (.launch proc queue) := by
  intro _ h _; cases h

theorem launchStart (proc queue : Nat) : Statement (.launchStart proc queue) := by
  intro _ h _; cases h

theorem launchComplete (proc work : Nat) : Statement (.launchComplete proc work) := by
  intro _ h _; cases h

theorem queueCopy (proc queue : Nat) : Statement (.queueCopy proc queue) := by
  intro _ h _; cases h

theorem queueCopyComplete (proc work : Nat) : Statement (.queueCopyComplete proc work) := by
  intro _ h _; cases h

theorem waitge (proc queue : Nat) : Statement (.waitge proc queue) := by
  intro _ h _; cases h

theorem semaphoreReport (proc : Nat) : Statement (.semaphoreReport proc) := by
  intro _ h _; cases h

theorem waitgeTimeout (proc queue : Nat) : Statement (.waitgeTimeout proc queue) := by
  intro _ h _; cases h

theorem signal (proc queue : Nat) : Statement (.signal proc queue) := by
  intro _ h _; cases h

theorem interrupt (proc queue : Nat) : Statement (.interrupt proc queue) := by
  intro _ h _; cases h

theorem queueFence (proc queue : Nat) : Statement (.queueFence proc queue) := by
  intro _ h _; cases h

theorem jump (proc queue : Nat) : Statement (.jump proc queue) := by
  intro _ h _; cases h

theorem mark (proc queue : Nat) : Statement (.mark proc queue) := by
  intro _ h _; cases h

theorem illegalWord (word : BitVec 32) : Statement (.illegalWord word) := by
  intro _ h _; cases h

theorem directoryUpdate (fid : Nat) : Statement (.directoryUpdate fid) := by
  intro _ h _; cases h

theorem cacheControlRequest (fid : Nat) : Statement (.cacheControlRequest fid) := by
  intro _ h _; cases h

theorem homeBitClear (router : RouterTarget) (retired : Nat) : Statement (.homeBitClear router retired) := by
  intro _ h _; cases h

theorem powerLoss : Statement .powerLoss := by
  intro _ h _; cases h

end Sys2Proof.Laws.Encoding
end

