-- ==== Sys2Proof/Tests/Slice0.lean ====
section
/-! SUPPORT. The model's own tests: ill-formed terms and words refused, every row's word decoded, one step of each family against
the manual's tables and worked examples, and for every statement of Certificates/Slice0/Obligations.lean a state that meets its
hypotheses. -/

open Sys2Proof Sys2Proof.Machine

namespace Sys2Proof.Tests

set_option Elab.async false

/-! ## Ill-formed terms: one or more for each check of WellFormed, which refuses them -/

theorem test_wf_csr : ∀ i ∈ ([
    .csrrw 0xC01 1 1, -- time is undefined (R122)
    .csrrs 0x7FF 0 1, -- no such number (R121)
    .csrrw 0xC00 1 1, .csrrs 0xC00 1 1, .csrrc 0xC02 3 1, .csrrwi 0xCC0 1 1, .csrrsi 0xCC0 1 1, .csrrci 0xDC0 1 1 -- writes of read-only numbers (R64)
  ] : List Instr), i.wf = false := by decide

theorem test_wf_csr_reads : ∀ i ∈ ([.csrrs 0xC00 0 1, .csrrci 0xDC0 0 1, .csrrw 0x800 1 1] : List Instr), i.wf = true := by decide

theorem test_wf_scope : ∀ i ∈ ([ -- scope codes 5 to 7 (R66), and fm of FENCE (R64)
    .lacq 5 1 1, .lacqw 6 1 1, .srel 7 1 1, .srelw 5 1 1, .fences 6 1 1, .tdisc 7 1 1, .rinv 5 1 1 1, .fence 1 3 3
  ] : List Instr), i.wf = false := by decide

theorem test_wf_numbers : ∀ i ∈ ([
    .fstat 2 8 1, .mvf 3 4 0, .mvf 2 0 8, .fwait 3 31, .fdrop 2 15, .fpoison 3 1 4, -- m0 to m7, c0 to c3 (R62, R65)
    .binit 1 1 16, .barv 1 31, .bexp 1 1 17, .bwait 1 1 0 16, .bquery 1 1 30, -- barriers 48 to 63 (R62)
    .cpw 0 30 1, .cpr 3 31 1, -- channel register indices (R272)
    .bget 0 0 1, .bpeek 1 26 1, .bskip 1 31 -- bit counts outside 1 to 57 (R337)
  ] : List Instr), i.wf = false := by decide

theorem test_wf_formats : ∀ i ∈ ([
    .mmovv 5 0 0, .mstAddr 0 0 7 1 0, .mstAddr 1 0 0 1 0, .mstStream 0 1 9 0 0, .mstAddr 5 0 2 1 0, -- rounding codes and MST's formats (R69, R252)
    .vcvt 0 1 0 1 1 1, .vcvt 2 0 0 2 1 1, .vcvt 1 0 1 0 1 1, .vqmx 0 1 1 1, .vqmx 6 3 1 1, .vdqmx 7 1 1 -- pairs and MX formats (R69, R226)
  ] : List Instr), i.wf = false := by decide

theorem test_wf_types : ∀ i ∈ ([ -- element types (R67, R233, R242)
    .vadd 1 1 5 1, .vsub 1 1 6 1, .vmul 1 1 7 1, .vmin 1 1 5 1, .vmax 1 1 5 1, .vabs 1 5 1, .vneg 1 6 1, .vcmpeq 1 1 5 1, .vcmplt 1 1 5 1, .vcmple 1 1 7 1,
    .vsll 1 1 0 1, .vsrl 1 1 1 1, .vsra 1 1 5 1, .vexp2 1 2 1, .vlog2 1 3 1, .vrcp 1 4 1, .vrsq 1 2 1, .vredsum 1 5 1, .vredmax 1 6 1, .vredmin 1 7 1,
    .vgath 1 1 5 1, .vscat 1 1 6 1, .vperm 1 1 5 1, .vbcast 1 1 5 1, .vslup 1 1 5 1, .vsldn 1 1 5 1, .vsplat 1 5 1, .vins 1 1 5 1, .vext 1 1 5 1,
    .vfma 1 1 1 5 1, .vsel 1 1 1 6 1
  ] : List Instr), i.wf = false := by decide

/-- Words the decoder refuses, by the name of what is wrong (R63, R71). -/
theorem test_words_refused :
    decodeWord 0x00000002 = .error .notFourByte ∧ decodeWord 0x0000007F = .error .opcode ∧ decodeWord 0x00200073 = .error .row ∧
    decodeWord 0x4000001B = .ok (.addiw 0x400 0 0) ∧ decodeWord 0x0000201B = .error .row ∧ decodeWord 0x40001033 = .error .row ∧
    decodeWord 0xC0100073 ≠ .ok .ebreak ∧ decodeWord 0xC0102573 = .error .field ∧ decode [0x13, 0, 0] = .error .short := by decide

/-! ## Decoding: every row's word. An assembly line names a word that the manual prints beside it (its section on the instruction);
the others are put together from the row's fixed bits and the operand fields written out (R61 to R71). -/

theorem test_decode_upper_jumps_branches : ∀ p ∈ ([
    (0x20000537, .lui 0x20000 10), -- lui a0, %hi(0x2000_0000)
    (0x81234697, .auipc 0x81234 13), -- auipc with i=0x81234 d=13
    (0x812346EF, .jal 0x81234 13), -- jal with i=0x81234 d=13
    (0xC05506E7, .jalr 0xc05 10 13), -- jalr with i=0xC05 s=10 d=13
    (0xA2E509E3, .beq 0x51 14 10 19), -- beq with i=81 t=14 s=10 j=19
    (0xA2E519E3, .bne 0x51 14 10 19), -- bne with i=81 t=14 s=10 j=19
    (0xA2E549E3, .blt 0x51 14 10 19), -- blt with i=81 t=14 s=10 j=19
    (0xA2E559E3, .bge 0x51 14 10 19), -- bge with i=81 t=14 s=10 j=19
    (0xA2E569E3, .bltu 0x51 14 10 19), -- bltu with i=81 t=14 s=10 j=19
    (0xA2E579E3, .bgeu 0x51 14 10 19) -- bgeu with i=81 t=14 s=10 j=19
  ] : List (IWord × Instr)), decodeWord p.1 = .ok p.2 := by decide

theorem test_decode_loads_stores : ∀ p ∈ ([
    (0xC0550683, .lb 0xc05 10 13), -- lb with i=0xC05 s=10 d=13
    (0xC0551683, .lh 0xc05 10 13), -- lh with i=0xC05 s=10 d=13
    (0x00062803, .lw 0x0 12 16), -- lw a6, 0(a2)
    (0x00053583, .ld 0x0 10 11), -- ld a1, 0(a0)
    (0xC0554683, .lbu 0xc05 10 13), -- lbu with i=0xC05 s=10 d=13
    (0xC0555683, .lhu 0xc05 10 13), -- lhu with i=0xC05 s=10 d=13
    (0xC0556683, .lwu 0xc05 10 13), -- lwu with i=0xC05 s=10 d=13
    (0xA2E509A3, .sb 0x51 14 10 19), -- sb with i=81 t=14 s=10 j=19
    (0xA2E519A3, .sh 0x51 14 10 19), -- sh with i=81 t=14 s=10 j=19
    (0xA2E529A3, .sw 0x51 14 10 19), -- sw with i=81 t=14 s=10 j=19
    (0x08A03023, .sd 0x4 10 0 0) -- sd a0, 128(zero)
  ] : List (IWord × Instr)), decodeWord p.1 = .ok p.2 := by decide

theorem test_decode_op_imm : ∀ p ∈ ([
    (0x00000013, .addi 0x0 0 0), -- addi x0, x0, 0
    (0xC0552693, .slti 0xc05 10 13), -- slti with i=0xC05 s=10 d=13
    (0xC0553693, .sltiu 0xc05 10 13), -- sltiu with i=0xC05 s=10 d=13
    (0xC0554693, .xori 0xc05 10 13), -- xori with i=0xC05 s=10 d=13
    (0xC0556693, .ori 0xc05 10 13), -- ori with i=0xC05 s=10 d=13
    (0xC0557693, .andi 0xc05 10 13), -- andi with i=0xC05 s=10 d=13
    (0x02029293, .slli 32 5 5), -- slli t0, t0, 32
    (0x03855293, .srli 56 10 5), -- srli t0, a0, 56
    (0x42555693, .srai 37 10 13), -- srai with h=37 s=10 d=13
    (0xC055069B, .addiw 0xc05 10 13), -- addiw with i=0xC05 s=10 d=13
    (0x0135169B, .slliw 19 10 13), -- slliw with h=19 s=10 d=13
    (0x0135569B, .srliw 19 10 13), -- srliw with h=19 s=10 d=13
    (0x4135569B, .sraiw 19 10 13) -- sraiw with h=19 s=10 d=13
  ] : List (IWord × Instr)), decodeWord p.1 = .ok p.2 := by decide

theorem test_decode_op : ∀ p ∈ ([
    (0x00C586B3, .add 12 11 13), -- add a3, a1, a2
    (0x40A58633, .sub 10 11 12), -- sub a2, a1, a0
    (0x00E516B3, .sll 14 10 13), -- sll with t=14 s=10 d=13
    (0x00E526B3, .slt 14 10 13), -- slt with t=14 s=10 d=13
    (0x00E536B3, .sltu 14 10 13), -- sltu with t=14 s=10 d=13
    (0x00E546B3, .xor 14 10 13), -- xor with t=14 s=10 d=13
    (0x00E556B3, .srl 14 10 13), -- srl with t=14 s=10 d=13
    (0x40E556B3, .sra 14 10 13), -- sra with t=14 s=10 d=13
    (0x00736333, .or 7 6 6), -- or t1, t1, t2
    (0x0062F333, .and 6 5 6), -- and t1, t0, t1
    (0x00E506BB, .addw 14 10 13), -- addw with t=14 s=10 d=13
    (0x40E506BB, .subw 14 10 13), -- subw with t=14 s=10 d=13
    (0x00E516BB, .sllw 14 10 13), -- sllw with t=14 s=10 d=13
    (0x00E556BB, .srlw 14 10 13), -- srlw with t=14 s=10 d=13
    (0x40E556BB, .sraw 14 10 13), -- sraw with t=14 s=10 d=13
    (0x02E506B3, .mul 14 10 13), -- mul with t=14 s=10 d=13
    (0x02E516B3, .mulh 14 10 13), -- mulh with t=14 s=10 d=13
    (0x02E526B3, .mulhsu 14 10 13), -- mulhsu with t=14 s=10 d=13
    (0x02E536B3, .mulhu 14 10 13), -- mulhu with t=14 s=10 d=13
    (0x02E506BB, .mulw 14 10 13) -- mulw with t=14 s=10 d=13
  ] : List (IWord × Instr)), decodeWord p.1 = .ok p.2 := by decide

theorem test_decode_divides : ∀ p ∈ ([
    (0x02C5C533, .div 12 11 10), -- div a0, a1, a2
    (0x02E556B3, .divu 14 10 13), -- divu with t=14 s=10 d=13
    (0x02E566B3, .rem 14 10 13), -- rem with t=14 s=10 d=13
    (0x02E576B3, .remu 14 10 13), -- remu with t=14 s=10 d=13
    (0x02C5C7BB, .divw 12 11 15), -- divw a5, a1, a2
    (0x02E556BB, .divuw 14 10 13), -- divuw with t=14 s=10 d=13
    (0x02E566BB, .remw 14 10 13), -- remw with t=14 s=10 d=13
    (0x02E576BB, .remuw 14 10 13) -- remuw with t=14 s=10 d=13
  ] : List (IWord × Instr)), decodeWord p.1 = .ok p.2 := by decide

theorem test_decode_system : ∀ p ∈ ([
    (0x8350000F, .fence 8 3 5), -- fence with f=8 p=3 u=5
    (0x00000073, .ecall), -- ecall
    (0x00100073, .ebreak), -- ebreak
    (0x80629073, .csrrw 0x806 5 0), -- csrrw zero, wl.tag, t0
    (0xC0002573, .csrrs 0xc00 0 10), -- csrrs a0, cycle, zero
    (0x803536F3, .csrrc 0x803 10 13), -- csrrc with c=0x803 s=10 d=13
    (0x8039D6F3, .csrrwi 0x803 19 13), -- csrrwi with c=0x803 u=19 d=13
    (0x8039E6F3, .csrrsi 0x803 19 13), -- csrrsi with c=0x803 u=19 d=13
    (0x8039F6F3, .csrrci 0x803 19 13) -- csrrci with c=0x803 u=19 d=13
  ] : List (IWord × Instr)), decodeWord p.1 = .ok p.2 := by decide

theorem test_decode_amo : ∀ p ∈ ([
    (0x140536AF, .lr 1 0 10 1 13), -- lr with q=1 l=0 s=10 w=1 d=13
    (0x1CE536AF, .sc 1 0 14 10 1 13), -- sc with q=1 l=0 t=14 s=10 w=1 d=13
    (0x0CE536AF, .amoswap 1 0 14 10 1 13), -- amoswap with q=1 l=0 t=14 s=10 w=1 d=13
    (0x04E536AF, .amoadd 1 0 14 10 1 13), -- amoadd with q=1 l=0 t=14 s=10 w=1 d=13
    (0x24E536AF, .amoxor 1 0 14 10 1 13), -- amoxor with q=1 l=0 t=14 s=10 w=1 d=13
    (0x64E536AF, .amoand 1 0 14 10 1 13), -- amoand with q=1 l=0 t=14 s=10 w=1 d=13
    (0x44E536AF, .amoor 1 0 14 10 1 13), -- amoor with q=1 l=0 t=14 s=10 w=1 d=13
    (0x84E536AF, .amomin 1 0 14 10 1 13), -- amomin with q=1 l=0 t=14 s=10 w=1 d=13
    (0xA4E536AF, .amomax 1 0 14 10 1 13), -- amomax with q=1 l=0 t=14 s=10 w=1 d=13
    (0xC4E536AF, .amominu 1 0 14 10 1 13), -- amominu with q=1 l=0 t=14 s=10 w=1 d=13
    (0xE4E536AF, .amomaxu 1 0 14 10 1 13) -- amomaxu with q=1 l=0 t=14 s=10 w=1 d=13
  ] : List (IWord × Instr)), decodeWord p.1 = .ok p.2 := by decide

theorem test_decode_register_states : ∀ p ∈ ([
    (0x0005850B, .fstat 0 11 10), -- fstat a0, a1
    (0x0222818B, .mvf 2 5 3), -- mvf m3, m5
    (0x0421000B, .fwait 2 2), -- fwait m2
    (0x0606028B, .waitany 12 5), -- waitany t0, a2
    (0x0830008B, .fdrop 3 1), -- fdrop c1
    (0x0A16838B, .fpoison 1 13 7) -- fpoison v7, a3
  ] : List (IWord × Instr)), decodeWord p.1 = .ok p.2 := by decide

theorem test_decode_ordered : ∀ p ∈ ([
    (0x0607178B, .lacq 3 14 15), -- lacq.mod a5, (a4)
    (0x2605168B, .lacqw 3 10 13), -- lacqw with c=3 s=10 d=13
    (0x42B5100B, .srel 1 11 10), -- srel.site a1, (a0)
    (0x6462900B, .srelw 2 6 5), -- srelw.rgn t1, (t0)
    (0x8242100B, .fences 1 4 4) -- fences.site w, w
  ] : List (IWord × Instr)), decodeWord p.1 = .ok p.2 := by decide

theorem test_decode_local_units : ∀ p ∈ ([
    (0x0005200B, .owne 10), -- owne a0
    (0x0205200B, .ownt 10), -- ownt a0
    (0x0405258B, .ownq 10 11), -- ownq a1, a0
    (0x0005318B, .binit 0 10 3), -- binit b3, a0
    (0x0400318B, .barv 0 3), -- barv b3
    (0x0805B18B, .bexp 0 11 3), -- bexp b3, a1
    (0x0EC0B28B, .bwait 1 12 1 5), -- bwait a2, b37, 1
    (0x12A0340B, .bquery 1 10 8), -- bquery a0, b40
    (0x00B1400B, .qpush 11 2), -- qpush q2, a1
    (0x0201450B, .qpop 2 10), -- qpop a0, q2
    (0x0401450B, .qlen 2 10), -- qlen a0, q2
    (0x0005500B, .block 10), -- block a0
    (0x0205500B, .bunlock 10) -- bunlock a0
  ] : List (IWord × Instr)), decodeWord p.1 = .ok p.2 := by decide

theorem test_decode_tile : ∀ p ∈ ([
    (0x0005012B, .mldAddr 10 2), -- mld m2, (a0)
    (0x100081AB, .mldStream 1 3), -- mld m3, as1
    (0x2005802B, .mstAddr 0 0 0 11 0), -- mst.f32.rne c0, (a1)
    (0x312100AB, .mstStream 0 1 2 2 1), -- mst.e4m3.rne.sat c1, as2
    (0x0000112B, .mzero 2), -- mzero c2
    (0x1800922B, .mmovv 4 1 4), -- mmovv.sr m4, c1
    (0x0010202B, .mdot 1 0 0), -- mdot c0, m0, m1
    (0x025221AB, .mdots 5 4 3), -- mdots c3, m4, m5
    (0x020630AB, .asset 1 12 1), -- asset as1, stride1, a2
    (0x2022B02B, .rpt 2 5) -- rpt t0, 3
  ] : List (IWord × Instr)), decodeWord p.1 = .ok p.2 := by decide

theorem test_decode_copy_and_cache : ∀ p ∈ ([
    (0x0215402B, .cpw 1 1 10), -- cpw ch1, 1, a0
    (0x0BC0452B, .cpr 1 28 10), -- cpr a0, ch1, 28
    (0x0200552B, .cpgo 1 10), -- cpgo a0, ch1
    (0x0A00502B, .cpcancel 1), -- cpcancel ch1
    (0x1005502B, .mcfree 10), -- mcfree a0
    (0x0405E52B, .tdisc 2 11 10), -- tdisc.rgn a0, a1
    (0x20B5602B, .lpin 11 10), -- lpin a0, a1
    (0x40B5602B, .lunpin 11 10) -- lunpin a0, a1
  ] : List (IWord × Instr)), decodeWord p.1 = .ok p.2 := by decide

theorem test_decode_ranges : ∀ p ∈ ([
    (0x0005F52B, .rprobe 11 10), -- rprobe a0, a1
    (0x2005F52B, .rloadt 11 10), -- rloadt a0, a1
    (0x40C5F52B, .rsplit 12 11 10), -- rsplit a0, a1, a2
    (0x6005F52B, .rmerge 11 10), -- rmerge a0, a1
    (0x80C5F02B, .rsetres 12 11), -- rsetres a1, a2
    (0xA0C5F02B, .rclrres 12 11), -- rclrres a1, a2
    (0xC6C5F52B, .rinv 3 12 11 10), -- rinv.mod a0, a1, a2
    (0xE0C5F52B, .rglean 12 11 10) -- rglean a0, a1, a2
  ] : List (IWord × Instr)), decodeWord p.1 = .ok p.2 := by decide

theorem test_decode_vector_elementwise : ∀ p ∈ ([
    (0x003100DB, .vadd 3 2 0 1), -- vadd.f32 v1, v2, v3
    (0x0483B6DB, .vsub 8 7 3 13), -- vsub with b=8 a=7 t=3 d=13
    (0x0883B6DB, .vmul 8 7 3 13), -- vmul with b=8 a=7 t=3 d=13
    (0x0C83B6DB, .vmin 8 7 3 13), -- vmin with b=8 a=7 t=3 d=13
    (0x1083B6DB, .vmax 8 7 3 13), -- vmax with b=8 a=7 t=3 d=13
    (0x1403B6DB, .vabs 7 3 13), -- vabs with a=7 t=3 d=13
    (0x1803B6DB, .vneg 7 3 13), -- vneg with a=7 t=3 d=13
    (0x1C94465B, .vcmpeq 9 8 4 12), -- vcmpeq.i64 v12, v8, v9
    (0x2020825B, .vcmplt 2 1 0 4), -- vcmplt.f32 v4, v1, v2
    (0x2483B6DB, .vcmple 8 7 3 13), -- vcmple with b=8 a=7 t=3 d=13
    (0x2824545B, .vand 2 8 8), -- vand.b v8, v8, v2
    (0x2C83D6DB, .vor 8 7 13), -- vor with b=8 a=7 d=13
    (0x3083D6DB, .vxor 8 7 13), -- vxor with b=8 a=7 d=13
    (0x3403D6DB, .vnot 7 13), -- vnot with a=7 d=13
    (0x3883B6DB, .vsll 8 7 3 13), -- vsll with b=8 a=7 t=3 d=13
    (0x3C83B6DB, .vsrl 8 7 3 13), -- vsrl with b=8 a=7 t=3 d=13
    (0x4083B6DB, .vsra 8 7 3 13) -- vsra with b=8 a=7 t=3 d=13
  ] : List (IWord × Instr)), decodeWord p.1 = .ok p.2 := by decide

theorem test_decode_vector_long : ∀ p ∈ ([
    (0x440396DB, .vexp2 7 1 13), -- vexp2 with a=7 t=1 d=13
    (0x480396DB, .vlog2 7 1 13), -- vlog2 with a=7 t=1 d=13
    (0x4C0396DB, .vrcp 7 1 13), -- vrcp with a=7 t=1 d=13
    (0x500396DB, .vrsq 7 1 13), -- vrsq with a=7 t=1 d=13
    (0x5400855B, .vredsum 1 0 10), -- vredsum.f32 a0, v1
    (0x580085DB, .vredmax 1 0 11), -- vredmax.f32 a1, v1
    (0x5C06475B, .vredmin 12 4 14) -- vredmin.i64 a4, v12
  ] : List (IWord × Instr)), decodeWord p.1 = .ok p.2 := by decide

theorem test_decode_vector_transfers : ∀ p ∈ ([
    (0x6005515B, .vld 10 2), -- vld.b v2, (a0)
    (0x6405D15B, .vst 11 2), -- vst.b v2, (a1)
    (0x68E556DB, .vlds 14 10 13), -- vlds with t=14 s=10 d=13
    (0x6CE556DB, .vsts 14 10 13), -- vsts with t=14 s=10 d=13
    (0x706532DB, .vgath 6 10 3 5), -- vgath.i32 v5, (a0), v6
    (0x744023DB, .vscat 4 0 2 7) -- vscat.i8 v7, (zero), v4
  ] : List (IWord × Instr)), decodeWord p.1 = .ok p.2 := by decide

theorem test_decode_vector_moves : ∀ p ∈ ([
    (0x7883B6DB, .vperm 8 7 3 13), -- vperm with b=8 a=7 t=3 d=13
    (0x7C83B6DB, .vbcast 8 7 3 13), -- vbcast with b=8 a=7 t=3 d=13
    (0x8143045B, .vslup 20 6 0 8), -- vslup.f32 v8, v6, s4
    (0x8483B6DB, .vsldn 8 7 3 13), -- vsldn with b=8 a=7 t=3 d=13
    (0x880536DB, .vsplat 10 3 13), -- vsplat with s=10 t=3 d=13
    (0x8C8536DB, .vins 8 10 3 13), -- vins with b=8 s=10 t=3 d=13
    (0x9083B6DB, .vext 8 7 3 13), -- vext with b=8 a=7 t=3 d=13
    (0x325201DB, .vfma 6 5 4 0 3), -- vfma.f32 v3, v4, v5, v6
    (0x263150DB, .vsel 4 3 2 5 1), -- vsel.b v1, v2, v3, v4
    (0x0820F15B, .vcvt 0 4 0 2 1 2), -- vcvt.e4m3.f32.sr v2, v1
    (0x0061E25B, .vqmx 0 6 3 4), -- vqmx.e2m1.rne v4, v3
    (0x406262DB, .vdqmx 6 4 5) -- vdqmx.e2m1 v5, v4
  ] : List (IWord × Instr)), decodeWord p.1 = .ok p.2 := by decide

theorem test_decode_tasks : ∀ p ∈ ([
    (0x0005857B, .spawn 11 10), -- spawn a0, a1
    (0x0200007B, .done), -- done
    (0x0400007B, .yield), -- yield
    (0x00C5957B, .send 12 11 10), -- send a0, a1, a2
    (0x02C296FB, .sendt 12 5 13), -- sendt a3, t0, a2
    (0x0400137B, .recvf 6), -- recvf t1
    (0x0005A57B, .timerf 11 10), -- timerf a0, a1
    (0x0200207B, .specb), -- specb
    (0x0400207B, .specc), -- specc
    (0x0600207B, .speca) -- speca
  ] : List (IWord × Instr)), decodeWord p.1 = .ok p.2 := by decide

theorem test_decode_streams : ∀ p ∈ ([
    (0x003032FB, .bget 0 3 5), -- bget t0, 3
    (0x04C033FB, .bpeek 0 12 7), -- bpeek t2, 12
    (0x0A00307B, .bskip 1 0), -- bskip 32
    (0x0EE5307B, .bsopen 1 14 10), -- bsopen with o=1 t=14 s=10
    (0x1000307B, .balign), -- balign
    (0x14C5B57B, .blzc 12 11 10) -- blzc a0, a1, a2
  ] : List (IWord × Instr)), decodeWord p.1 = .ok p.2 := by decide

theorem test_decode_system_control : ∀ p ∈ ([
    (0x0005407B, .tresume 10), -- tresume a0
    (0x0205407B, .tkill 10), -- tkill a0
    (0x04C5C57B, .swapctx 12 11 10), -- swapctx a0, a1, a2
    (0x06C5C57B, .loadctx 12 11 10), -- loadctx a0, a1, a2
    (0x0000507B, .hdone), -- hdone
    (0x0205D57B, .rtrd 11 10), -- rtrd a0, a1
    (0x04C5D07B, .rtwr 12 11) -- rtwr a1, a2
  ] : List (IWord × Instr)), decodeWord p.1 = .ok p.2 := by decide
/-! ## The small states the tests start from -/

/-- A slot of a role at work: x10 an aligned address of local store, x11 a small number, x12 all ones, x13 an address of translated
space, x14 PENDING, x15 POISON, x16 VACANT, x17 a stride. -/
def tSlot (r : Role) : Slot :=
  { Slot.reset with state := .running, role := r, pc := 0x10000100
                    x := [(10, ⟨.full, 0x140⟩), (11, ⟨.full, 7⟩), (12, ⟨.full, 0xFFFFFFFFFFFFFFFF⟩), (13, ⟨.full, 0x10000040⟩),
                          (14, ⟨.pending, 0⟩), (15, ⟨.poison, 0x0123000000000000⟩), (16, ⟨.vacant, 0⟩), (17, ⟨.full, 8⟩)] }

def tEntry : RangeEntry := { slot := placeRange, index := 1 }

/-- A core whose slot 3 is this one, with a range over the translated page of x13. -/
def tCore (t : Slot) : Core := { Core.reset with cycle := 5000, slots := [(3, t)], ranges := [tEntry] }

/-- Site 0 RUNNING under a launch, named 1, the home of its own memory. -/
def tSite : Site :=
  { Site.reset with state := .running, name := 1, ncores := 16, dramGood := true, computeGood := true, clksrc := 0, depth := 1, launch := some placeLaunch,
                    phys := [(0, 0x1000)] }

/-- Core 0 of site 0 in the turn of its slot 3. -/
def tState (k : Core) : State := { State.reset with curSlot := 3, sites := [(0, tSite)], cores := [(0, k)], partRects := [(0, 0x08400)], up := true, nextId := 100 }

/-- The same with a fresh slot of a role. -/
def tS (r : Role) : State := tState (tCore (tSlot r))

/-- What an instruction answers, read. -/
def tAfter (o : Host.Outcome State Fault Refusal) : State := match o with | .next t => t | _ => State.reset

/-- Local store is open where no plot is the engines', no bank is locked, no task unit works and nothing is held. -/
theorem localPasses_of (s : State) (l st : Bool) (ea : Word) (n : Nat)
    (h : s.here.owners = [] ∧ s.here.locks = [] ∧ s.tasksOn s.curCore = false ∧ s.localHeld = false ∧ ea.toNat < 2 ^ 20 ∧ ea.toNat % n = 0 ∧
      s.watchHit l st ea.toNat n = none) : s.localPasses l st ea n := by
  obtain ⟨h1, h2, h3, h4, h5, h6, h7⟩ := h
  refine ⟨h5, h6, h7, fun a _ _ => ⟨?_, fun _ _ => ?_, fun l hl => ?_⟩, h4⟩
  · simp [Core.engineOwned, h1]
  · simp [State.reservedPlot, h3]
  · rw [h2] at hl; cases hl

theorem bytesPass_of (s : State) (st : Bool) (as : List Nat)
    (h : s.here.owners = [] ∧ s.here.locks = [] ∧ (st = true → s.tasksOn s.curCore = false) ∧ s.localHeld = false) : s.bytesPass st as := by
  obtain ⟨h1, h2, h3, h4⟩ := h
  refine ⟨fun a _ => ⟨?_, fun h _ => ?_, fun l hl => ?_⟩, h4⟩
  · simp [Core.engineOwned, h1]
  · simp [State.reservedPlot, h3 h]
  · rw [h2] at hl; cases hl

/-- A claim is free where claim 0 is, so that a future is taken. -/
theorem free_of (s : State) (h : nget s.here.claims 0 = none) : s.here.freeClaims ≠ [] := by
  intro e
  have : 0 ∈ s.here.freeClaims := by
    unfold Core.freeClaims
    exact List.mem_filter.2 ⟨List.mem_range.2 (by decide), by simp [h]⟩
  rw [e] at this
  cases this

theorem pend_of (s : State) (f : RFile) (n : Nat) (cls : BitVec 4) (b : Bool) (h : nget s.here.claims 0 = none) : ∃ u c, s.pend f n cls b = some (u, c) := by
  have := free_of s h
  unfold State.pend
  split
  · exact ⟨_, _, rfl⟩
  · split
    · contradiction
    · exact ⟨_, _, rfl⟩

/-- A future of a register that is not x0 has a claim. -/
theorem claim_of (s : State) (f : RFile) (n : Nat) (cls : BitVec 4) (b : Bool) (h : nget s.here.claims 0 = none) (hn : n ≠ 0) :
    ∃ u c, s.pend f n cls b = some (u, some c) := by
  obtain ⟨u, c, e⟩ := pend_of s f n cls b h
  cases c with
  | some c => exact ⟨u, c, e⟩
  | none =>
    unfold State.pend at e
    rw [if_neg (fun e => hn e.2)] at e
    split at e
    · cases e
    · injection e with e
      injection e with _ e
      cases e

/-- No line of the L1 where no listed core has one. -/
theorem noL1_of (s : State) (h : ∀ p ∈ s.cores, p.2.l1 = []) (l : Nat) : s.l1Line s.curCore l = none := by
  have key : ∀ (m : NMap Core) (c : Nat), (∀ p ∈ m, p.2.l1 = []) → ((nget m c).getD Core.reset).l1 = [] := by
    intro m c
    induction m with
    | nil => intro _; rfl
    | cons p t ih =>
      intro hp
      obtain ⟨j, k⟩ := p
      by_cases e : j = c
      · simpa [nget, e] using hp (j, k) (by simp)
      · simpa [nget, e] using ih (fun q hq => hp q (by simp [hq]))
  unfold State.l1Line State.core
  rw [key s.cores _ h]
  rfl

/-- A packet at its destination, site 0. -/
def tFlight (src : Sender) (dest : Dest) (b : Body) : Flight :=
  { fid := 50, cls := .request, src := src, srcSite := 0, srcName := 0x10, part := 0, dest := dest, dsite := 0, via := none, phase := false, pos := 0, yx := false, retry := false,
    st := .arrived, issued := 4980, left := 4980, detail := 0, dead := false, arr := 50, arrAt := 4990, body := b }

/-- The state with that packet from core 0 to site 0 in it. -/
def tArrive (s : State) (b : Body) : State := { s with flights := [tFlight (.core 0) (.coords 0) b] }

/-- That packet has arrived and its unit takes it. -/
abbrev tTaken (s : State) (b : Body) : Prop := (tArrive s b).takes 50 (tFlight (.core 0) (.coords 0) b)

/-! ## Integer computation and control transfer -/

theorem test_hyp_integer : (tS .c).noRepeat ∧ (tS .c).readable .x 10 ∧ (tS .c).readable .x 12 ∧ (tS .c).writable .x 0 ∧ (tS .c).writable .x 31 ∧
    (tS .c).writable .x 15 ∧ (tS .c).writable .x 16 := by decide

/-- ADDI wraps, a shift of a word form by 31 fills with the sign, x0 discards (R60, R112). -/
theorem test_immediates : (tAfter (exec (.addi 1 12 5) (tS .c))).me.xr 5 = ⟨.full, 0⟩ ∧ (tAfter (exec (.sraiw 31 12 5) (tS .c))).me.xr 5 = ⟨.full, 0xFFFFFFFFFFFFFFFF⟩ ∧
    (tAfter (exec (.addi 1 12 0) (tS .c))).me.xr 0 = ⟨.full, 0⟩ ∧ (tAfter (exec (.sltiu 0xFFF 11 5) (tS .c))).me.xr 5 = ⟨.full, 1⟩ ∧
    (tAfter (exec (.auipc 0xFFFFF 5) (tS .c))).me.xr 5 = ⟨.full, 0xFFFF100⟩ := by decide +kernel

/-- The products of -1 with 7 (R113): low half, signed, mixed and unsigned high halves; the shift amount is taken modulo 64. -/
theorem test_products : (tAfter (exec (.mul 11 12 5) (tS .c))).me.xr 5 = ⟨.full, 0xFFFFFFFFFFFFFFF9⟩ ∧ (tAfter (exec (.mulh 11 12 5) (tS .c))).me.xr 5 = ⟨.full, 0xFFFFFFFFFFFFFFFF⟩ ∧
    (tAfter (exec (.mulhsu 12 11 5) (tS .c))).me.xr 5 = ⟨.full, 6⟩ ∧ (tAfter (exec (.mulhu 11 12 5) (tS .c))).me.xr 5 = ⟨.full, 6⟩ ∧
    (tAfter (exec (.sll 12 11 5) (tS .c))).me.xr 5 = ⟨.full, 0x8000000000000000⟩ ∧ (tAfter (exec (.sub 10 11 5) (tS .c))).me.xr 5 = ⟨.full, 0xFFFFFFFFFFFFFEC7⟩ := by decide +kernel

/-- The worked example of R115: DIV of 0x8000_0000_8000_0000 by -1, and DIVW of the same operands. -/
theorem test_div_values : divSigned 0x8000000080000000#64 0xFFFFFFFFFFFFFFFF#64 = 0x7FFFFFFF80000000#64 ∧
    (divSigned 0x80000000#32 0xFFFFFFFF#32).signExtend 64 = 0xFFFFFFFF80000000#64 := by decide

theorem test_hyp_divide : (tS .c).noRepeat ∧ (tS .c).readable .x 10 ∧ (tS .c).readable .x 11 ∧ (tS .c).writable .x 9 ∧
    (∃ u c, (tS .c).pend .x 9 3 false = some (u, c)) ∧ (tS .c).here.freeClaims ≠ [] :=
  ⟨by decide, by decide, by decide, by decide, pend_of _ _ _ _ _ rfl, free_of _ rfl⟩

theorem test_hyp_divide_done :
    let s := tState { tCore (tSlot .c) with divs := [{ id := 7, claim := some 3, result := 5, due := 5000, late := 5100 }] }
    ((s.core 0).divs.find? (fun d => d.id == 7 && d.due ≤ (s.core 0).cycle)).isSome = true := by decide

theorem test_hyp_jumps : ((tS .c).me.pc + immJ 0).toNat % 4 = 0 ∧ ((tS .c).me.pc + immJ 0x200).toNat % 4 ≠ 0 ∧ (((tS .c).xv 10 + (0#12).signExtend 64) &&& ~~~1).toNat % 4 = 0 ∧
    (((tS .c).xv 10 + (2#12).signExtend 64) &&& ~~~1).toNat % 4 ≠ 0 ∧ ((tS .c).me.pc + immB 0 4).toNat % 4 = 0 ∧ ((tS .c).me.pc + immB 0 2).toNat % 4 ≠ 0 := by decide

/-- A branch of each kind, taken and not, between -1 and 7 (R116). -/
theorem test_branches : (∀ p ∈ ([(.beq 0 12 11 4, 4), (.bne 0 12 11 8, 8), (.blt 0 11 12 8, 8), (.bge 0 11 12 8, 4), (.bltu 0 11 12 8, 4), (.bgeu 0 11 12 8, 8)] : List (Instr × Word)),
    (tAfter (exec p.1 (tS .c))).me.pc = 0x10000100 + p.2) ∧ (tAfter (exec (.jalr 1 10 10) (tS .c))).me.pc = 0x140 ∧
    (tAfter (exec (.jalr 1 10 10) (tS .c))).me.xr 10 = ⟨.full, 0x10000104⟩ := by decide +kernel

/-- A misaligned target latches cause 0 and the target, and leaves rd (R116, R346). -/
theorem test_misaligned_target : let t := (tAfter (exec (.jal 0x200 10) (tS .c))).me
    t.tcause = 0 ∧ t.tval = 0x10000102 ∧ t.tpc = 0x10000100 ∧ t.state = .frozen ∧ t.xr 10 = ⟨.full, 0x140⟩ := by decide +kernel

/-- ECALL and EBREAK (R118). -/
theorem test_ecall_ebreak : (tAfter (exec .ecall (tS .s))).me.tcause = 8 ∧ (tAfter (exec .ecall (tS .s))).me.tval = 0 ∧ (tAfter (exec .ebreak (tS .s))).me.tcause = 3 ∧
    (tAfter (exec .ebreak (tS .s))).me.tval = 0x10000100 ∧ (tAfter (exec .ebreak (tS .s))).me.tpc = 0x10000100 := by decide +kernel

/-! ## Loads, stores, atomics and ordering -/

theorem test_hyp_local : ∀ n ∈ [1, 2, 4, 8], (tS .c).localPasses true false ((tS .c).xv 10 + (0x7F8#12).signExtend 64) n ∧
    (tS .c).localPasses false true ((tS .c).xv 10 + (0#7 ++ 0x18#5).signExtend 64) n ∧ (tS .c).localPasses true true ((tS .c).xv 10) n := by
  intro n h
  refine ⟨localPasses_of _ _ _ _ _ ?_, localPasses_of _ _ _ _ _ ?_, localPasses_of _ _ _ _ _ ?_⟩ <;> revert n <;> decide +kernel

theorem test_hyp_local_store : ∃ t, exec (.sb 0 11 10 0) (tS .c) = .next t := by rw [exec_sb]; unfold execSb memStore; exact issue_next ..

/-- Bytes go to rising addresses, lowest first, and loads extend (R2, R117). -/
theorem test_bytes : let s := tAfter (exec (.sd 0 12 10 0) (tS .c))
    (tAfter (exec (.sh 0 11 10 2) s)).here.ls = [(0x140, 0xFF), (0x141, 0xFF), (0x142, 7), (0x144, 0xFF), (0x145, 0xFF), (0x146, 0xFF), (0x147, 0xFF)] ∧
    (tAfter (exec (.lh 0 10 5) s)).me.xr 5 = ⟨.full, 0xFFFFFFFFFFFFFFFF⟩ ∧ (tAfter (exec (.lhu 0 10 5) s)).me.xr 5 = ⟨.full, 0xFFFF⟩ ∧
    (tAfter (exec (.lwu 4 10 10) s)).me.xr 10 = ⟨.full, 0xFFFFFFFF⟩ := by decide +kernel

theorem test_hyp_atomics : (tS .c).releaseFree ∧ (tS .c).releaseWaits 3 = [] ∧ (∀ sc ∈ [0#4, 1, 2, 3, 4], (tS .c).resolveScope sc = some sc.toNat) ∧
    (tS .c).resolveScope 5 = none ∧ (tS .c).releaseWaits 4 = [] := by decide +kernel

/-- AMOMIN and AMOMINU of a word that holds -1 against 7, the old value sign-extended (R131). -/
theorem test_amo : let s := tAfter (exec (.sw 0 12 10 0) (tS .c))
    (tAfter (exec (.amomin 0 0 11 10 0 5) s)).here.ls = s.here.ls ∧ (tAfter (exec (.amominu 0 0 11 10 0 5) s)).here.ls = [(0x140, 7)] ∧
    (tAfter (exec (.amominu 0 0 11 10 0 5) s)).me.xr 5 = ⟨.full, 0xFFFFFFFFFFFFFFFF⟩ := by decide +kernel

theorem test_hyp_global :
    ((∀ n ∈ [1, 2, 4, 8], (tS .c).globalPasses true false .r tEntry ((tS .c).xv 13 + (0x18#12).signExtend 64) n ∧ (tS .c).globalPasses false true .w tEntry ((tS .c).xv 13 + (0#7 ++ 8#5).signExtend 64) n) ∧
      (∀ n ∈ [4, 8], (tS .c).globalPasses true false .amo tEntry ((tS .c).xv 13) n ∧ (tS .c).globalPasses true true .amo tEntry ((tS .c).xv 13) n ∧
        (tS .c).globalPasses false true .amo tEntry ((tS .c).xv 13) n)) ∧
    (∃ u c, ((tS .c).modHere (fun k => k.useRange tEntry)).pend .x 9 1 false = some (u, c)) ∧ (∀ lo n, (tS .c).meets lo n = []) ∧ (tS .c).here.sb = [] ∧ (tS .c).me.acquires = [] ∧
    (tS .c).me.fences = [] ∧ (∀ l, (tS .c).l1Line 0 l = none) ∧ ((tS .c).here.sb.filter (fun x => !x.sent)).length < 64 :=
  ⟨by decide +kernel, pend_of _ _ _ _ _ rfl, fun _ _ => rfl, rfl, rfl, rfl, noL1_of (tS .c) (by decide +kernel), by decide⟩

theorem test_hyp_access_traps : 2 ^ 48 ≤ ((tS .c).xv 12 + (0#12).signExtend 64).toNat ∧ ((tS .c).xv 11 + (0#12).signExtend 64).toNat % 2 ≠ 0 ∧
    (let s := tState { tCore (tSlot .c) with owners := [(0, true)] };
      s.xv 10 + (0#12).signExtend 64 = 0x140 ∧ ((s.xv 10 + (0#12).signExtend 64).toNat < 2 ^ 20 ∧ (s.xv 10 + (0#12).signExtend 64).toNat % 8 = 0 ∧ s.watchHit true false 0x140 8 = none ∧
        s.watchHit false true 0x140 8 = none ∧ s.here.engineOwned 0x140 = true)) := by decide +kernel

/-- A load of an ENGINE-owned plot traps with cause 27 and its first byte; a misaligned one with cause 4 (R125, R196). -/
theorem test_access_traps : let s := tState { tCore (tSlot .c) with owners := [(0, true)] }
    (tAfter (exec (.ld 0 10 5) s)).me.tcause = 27 ∧ (tAfter (exec (.ld 0 10 5) s)).me.tval = 0x140 ∧ (tAfter (exec (.lw 2 10 5) s)).me.tcause = 4 ∧
    (tAfter (exec (.sw 0 11 12 0) s)).me.tcause = 7 := by decide +kernel

/-- A store of another slot to the eight bytes at x13 is in the buffer, or has left it; or their line is in the L1; or an acquire of the slot is out. -/
def tBuf (sent : Bool) : State := (tS .c).modHere (fun k => { k with
  sb := [{ req := { acc := 40, slot := 4, epoch := 0, op := .store 8 5, target := .phys 0x10000040, attr := placeRange.attr, claim := none }, waits := [], after := [], sent := sent, check := none }]
  accs := [{ id := 40, slot := 4, epoch := 0, issuer := (4, 0), kind := .w, isSc := false, home := some 0, lo := 0x10000040, len := 8, va := 0, proc := 0, translated := true, drops := false,
             fills := false, fillClaim := none }] })
def tInL1 : State := (tS .c).modHere (fun k => { k with l1 := [(lineOf 0x10000040, { data := 9 * 2 ^ 512, remote := false, used := 0 })] })
def tAfterAcq : State := (tBuf true).modMe (fun t => { t with acquires := [40] })

/-- What a load of the eight bytes at x13 meets at its issue: plan, what comes first, fills before its own, a store that has left the buffer, an L1 line. -/
def tMeets (s : State) : Option (LoadPlan × List (List Nat) × Bool × Bool) :=
  ((s.modHere (fun k => k.useRange tEntry)).pend .x 9 1 false).map (fun p => let v := p.1.bump
    (v.here.loadPlan 3 p.1.nextId 0x10000040 8, [v.orderWaits 3, v.fillsBefore 0x10000040 8], v.here.sentMeets 0x10000040 8, (v.l1Line 0 (lineOf 0x10000040)).isSome))

theorem test_hyp_loads_issue : tMeets (tBuf false) = some (.forward 5 [40], [[], []], false, false) ∧ tMeets tInL1 = some (.home, [[], []], false, true) ∧
    tMeets (tS .c) = some (.home, [[], []], false, false) ∧ tMeets tAfterAcq = some (.home, [[40], []], true, false) :=
  ⟨by decide +kernel, by decide +kernel, by decide +kernel, by decide +kernel⟩

theorem test_hyp_loads_pass : (∀ s ∈ [tBuf false, tInL1, tS .c, tAfterAcq], s.noRepeat ∧ s.readable .x 13 ∧ s.writable .x 9 ∧ s.resolveScope 2 = some 2 ∧ s.globalPasses true false .r tEntry (s.xv 13) 8) ∧
    0x10000040 + 8 - 1 < 0x10000080 ∧ (tBuf false).meets 0x10000040 8 = [] := by decide +kernel

/-- x13 of a slot is an address of the thread window: dword 1 of slot 3 of core 0. -/
def tWin (r : Role) : State := (tS r).modMe (fun t => t.setXr 13 ⟨.full, 0xFFFF00003008⟩)

theorem test_hyp_window_issue : (tWin .k).windowPasses true false ((tWin .k).xv 13) 8 ∧ (tWin .k).windowPasses false true ((tWin .k).xv 13 + (0#7 ++ 0#5).signExtend 64) 8 ∧
    (tWin .k).releaseFree ∧ ((tWin .k).here.sb.filter (fun x => !x.sent)).length < 64 ∧ (tWin .k).readable .x 11 ∧ ∀ s ∈ [tS .c, tWin .k], s.globalPasses false true .w tEntry (s.xv 13) 8 ∨ s.me.role = .k := by
  decide +kernel

theorem test_hyp_window_claim : (∃ u c, (tWin .k).pend .x 9 1 false = some (u, c)) ∧ ∀ s ∈ [tBuf false, tInL1, tAfterAcq], ∃ u c, (s.modHere (fun k => k.useRange tEntry)).pend .x 9 1 false = some (u, c) := by
  refine ⟨pend_of _ _ _ _ _ rfl, fun s h => pend_of _ _ _ _ _ ?_⟩
  revert s
  decide +kernel

/-- A load takes another slot's buffered bytes, or its L1 line's, 10 cycles on, and the slot remembers that store; one behind an acquire is held (R127, R129, R151, R155). -/
theorem test_loads_issue : (tAfter (exec (.ld 0 13 9) (tBuf false))).here.deliveries.map (fun d => (d.due, d.val)) = [(5010, .value 5)] ∧
    (tAfter (exec (.ld 0 13 9) (tBuf false))).me.saw = [40] ∧ (tAfter (exec (.ld 0 13 9) tInL1)).here.deliveries.map (fun d => (d.due, d.val)) = [(5010, .value 9)] ∧
    (tAfter (exec (.ld 0 13 9) tAfterAcq)).held.map (fun h => (h.acc, h.waits)) = [(100, [40])] ∧
    (tAfter (exec (.lacq 2 13 9) (tS .c))).me.acquires = [100] ∧ (tAfter (exec (.amoadd 1 1 11 13 1 9) (tBuf true))).held.map (fun h => h.waits) = [[40]] ∧
    (tAfter (exec (.sd 0 11 13 0) (tWin .k))).here.sb.map (fun e => (e.req.target, e.sent)) = [(.window 0xFFFF00003008, false)] := by decide +kernel

/-- The range of x13 with other permissions, attributes or residence. -/
def tRanged (f : RangeSlot → RangeSlot) (r : Role := .c) : State := (tS r).modHere (fun k => { k with ranges := [{ tEntry with slot := f tEntry.slot }] })

theorem test_hyp_range_faults : (let s := (tS .c).modMe (fun t => { t with walkOut := some ⟨0x10000040, 1, 0, 5⟩ }); s.me.walkOut.filter (fun o => o.va == s.xv 13) = some ⟨0x10000040, 1, 0, 5⟩) ∧
    ((tS .c).modHere (fun k => { k with ranges := [] })).here.rangeFor 0x10000040 = none ∧
    (∀ f ∈ ([fun r => { r with perms := 0x1E }, fun r => { r with attrs := 1 }, fun r => { r with perms := 0 }, fun r => { r with resmap := 0 }] : List (RangeSlot → RangeSlot)),
      (tRanged f).here.rangeFor ((tRanged f).xv 13) = some { tEntry with slot := f tEntry.slot } ∧ (tRanged f).me.walkOut.filter (fun o => o.va == (tRanged f).xv 13) = none) ∧
    ({ tEntry.slot with perms := 0x1E } : RangeSlot).copyOnly = true ∧ ({ tEntry.slot with attrs := 1 } : RangeSlot).isRemote = true ∧ permits { tEntry.slot with perms := 0 } .r = false ∧
    tEntry.slot.copyOnly = false ∧ tEntry.slot.isRemote = false ∧ permits tEntry.slot .r = true ∧ permits tEntry.slot .amo = true ∧ permits tEntry.slot .x = true ∧
    (let s := tS .c; s.releaseFree ∧ s.resolveScope 2 ≠ none ∧ s.readable .x 11 ∧ s.xv 13 = 0x10000040 ∧ s.watchHit true true 0x10000040 8 = none ∧ s.me.pc = 0x10000100 ∧ s.me.rewalked ≠ some 0x10000040) ∧
    ((tS .c).modMe (fun t => { t with rewalked := some 0x10000040 })).me.rewalked = some 0x10000040 ∧
    (tWin .c).me.role ≠ .k ∧ windowBase ≤ ((tWin .c).xv 13).toNat ∧ ((tWin .c).xv 13).toNat < 2 ^ 48 ∧ ((tS .c).xv 10).toNat < 2 ^ 20 := by decide +kernel

/-- Loads without a range, without permission and without residence, an LR of local store, an AMO of the window (R21, R133, R177, R180). -/
theorem test_range_faults : (let t := tAfter (exec (.ld 0 13 9) (tRanged (fun r => { r with perms := 0 }))); (t.me.tcause, t.me.tval, t.me.rfinfo) = (13, 0x10000040, 0x2000000100000000)) ∧
    (let t := tAfter (exec (.sd 0 11 13 0) ((tRanged (fun r => { r with resmap := 0 })).modMe (fun t => { t with rewalked := some 0x10000040 }))); (t.me.tcause, t.me.rfinfo) = (28, 0x6000000100000000)) ∧
    ((tAfter (exec (.ld 0 13 9) (tRanged (fun r => { r with resmap := 0 })))).here.walks.map (fun w => w.va) = [0x10000040]) ∧
    (tAfter (exec (.lr 0 0 10 1 9) (tS .c))).me.tcause = 5 ∧ (tAfter (exec (.amoadd 0 0 11 13 1 9) (tWin .k))).me.tcause = 7 ∧ (tAfter (exec (.ld 0 13 9) (tWin .c))).me.tcause = 5 := by decide +kernel

theorem test_hyp_fences : ((tBuf true).modMe (fun t => { t with saw := [40] })).sawWaits = [40] ∧ (tS .c).noRepeat ∧ (tS .c).releaseFree ∧ (tS .c).resolveScope 2 = some 2 := by decide

theorem test_hyp_cache_control :
    ((tS .c).me.role ≠ .t ∧ (tS .c).me.role ≠ .none ∧ ((tS .c).xv 10).setWidth 8 ≠ (0 : BitVec 8) ∧ ((tS .c).xv 9).setWidth 8 = (0 : BitVec 8) ∧ (tS .c).xv 9 = 0 ∧ (tS .c).xv 11 ≠ 0 ∧
      2 ^ 20 ≤ ((tS .c).xv 13).toNat ∧ ((tS .c).xv 13).toNat < windowBase ∧ (tS .c).me.walkOut.filter (fun o => o.va == (tS .c).xv 13) = none ∧
      (tS .c).here.rangeFor ((tS .c).xv 13) = some tEntry ∧ tEntry.slot.copyOnly = false ∧ tEntry.slot.isRemote = false ∧ permits tEntry.slot .r = true ∧
      ((tS .c).xv 13).toNat + ((tS .c).xv 11).toNat ≤ tEntry.slot.limit.toNat) ∧
    ∃ u c, (tS .c).pend .x 9 1 false = some (u, c) ∧ u.scopeSites 2 ≠ [] :=
  ⟨by decide +kernel, by
    obtain ⟨u, c, h⟩ := pend_of (tS .c) .x 9 1 false rfl
    refine ⟨u, c, h, ?_⟩
    have e : (((tS .c).pend .x 9 1 false).map (fun p => p.1.scopeSites 2)) = some [0] := by decide +kernel
    rw [h] at e
    simp at e
    simp [e]⟩

/-! ## Register states, issue and CSRs -/

/-- Slot 3 of a core where x9 is PENDING on claim 4 and x8 on the cancellable claim 6. -/
def tPend : State :=
  let cl : Claim := { target := .slot, cls := 1, cancellable := false, slot := 3, file := .x, reg := 9, watch := 0, lost := false }
  let t := tSlot .m
  tState { tCore { t with x := nput (nput t.x 9 ⟨.pending, 0⟩) 8 ⟨.pending, 0⟩ } with claims := [(4, cl), (6, { cl with cancellable := true, reg := 8 })] }

theorem test_hyp_register_states : (∀ f ∈ [0#2, 1, 2, 3], roleHolds (if f = 1 then Role.v else .m) (fileOf f.toNat) = true) ∧ tPend.noRepeat ∧ tPend.writable .x 5 ∧
    tPend.writable .x 15 ∧ tPend.readable .x 10 ∧ (∀ f ∈ [RFile.x, .m, .c], tPend.writable f 3 ∧ tPend.arrayClear [(f, 3)]) := by decide +kernel

/-- FSTAT reads the four states (R80, R102), FDROP makes each FULL zero (R106), FPOISON latches its descriptor and keeps no higher bit (R107). -/
theorem test_states : (tAfter (exec (.fstat 0 10 5) (tS .c))).me.xr 5 = ⟨.full, 0⟩ ∧ (tAfter (exec (.fstat 0 14 5) (tS .c))).me.xr 5 = ⟨.full, 1⟩ ∧
    (tAfter (exec (.fstat 0 15 5) (tS .c))).me.xr 5 = ⟨.full, 2⟩ ∧ (tAfter (exec (.fstat 0 16 5) (tS .c))).me.xr 5 = ⟨.full, 3⟩ ∧
    (∀ n ∈ [8#5, 9, 15, 16], (tAfter (exec (.fdrop 0 n) tPend)).me.xr n.toNat = ⟨.full, 0⟩) ∧
    nget (tAfter (exec (.fdrop 0 8) tPend)).here.claims 6 = none ∧ ((nget (tAfter (exec (.fdrop 0 9) tPend)).here.claims 4).map (·.target)) = some .dropped ∧
    ((tAfter (exec (.fpoison 1 10 7) (tS .v))).me.regSt .v 7 = .poison ∧ (tAfter (exec (.fpoison 1 10 7) (tS .v))).me.regLow .v 7 = 0x140) := by decide +kernel

theorem test_hyp_moves : roleHolds tPend.me.role (fileOf 0) = true ∧ tPend.writable .x 5 ∧ tPend.writable .x 0 ∧ tPend.arrayClear [(.x, 5), (.x, 9)] ∧ tPend.arrayClear [(.x, 9)] ∧
    (tPend.settleReg .x 9).me.regSt .x 9 = .pending ∧ (tPend.settleReg .x 9).here.claimOf 3 .x 9 = some 4 ∧ (nget (tPend.settleReg .x 9).here.claims 4).isSome = true ∧
    (tPend.settleReg .x 8).me.regSt .x 8 = .pending ∧ (tPend.settleReg .x 8).here.claimOf 3 .x 8 = some 6 ∧ (nget (tPend.settleReg .x 8).here.claims 6).isSome = true := by decide +kernel

/-- A fill of this very cycle comes before FDROP and MVF: the register is FULL and no fill is discarded (R90, R103, R106). -/
theorem test_settled : let s := tPend.modHere (fun k => { k with deliveries := [⟨4, 5000, .value 7⟩] })
    (tAfter (exec (.mvf 0 9 5) s)).me.xr 5 = ⟨.full, 7⟩ ∧ (tAfter (exec (.fdrop 0 9) s)).me.xr 9 = ⟨.full, 0⟩ ∧ nget (tAfter (exec (.fdrop 0 9) s)).here.claims 4 = none := by decide +kernel

/-- MVF of a PENDING register moves its claim and leaves the source VACANT (R103). -/
theorem test_mvf : let t := tAfter (exec (.mvf 0 9 5) tPend)
    t.me.xr 9 = ⟨.vacant, 0⟩ ∧ (t.me.xr 5).st = .pending ∧ ((nget t.here.claims 4).map (·.reg)) = some 5 := by decide +kernel

theorem test_hyp_waitany : let m (v : Word) : State := tPend.modMe (fun t => t.setXr 12 ⟨.full, v⟩);
    (m 0xFFFFFFFF00000001).readable .x 12 ∧ watchMask 0xFFFFFFFF00000001 5 = [] ∧ watchMask 0x80000002 5 = [1, 31] ∧ (tPend.me.regSt .x 1) ≠ .pending ∧
    (∀ i ∈ watchMask 0x300 5, tPend.me.regSt .x i = .pending) ∧ watchMask 0x300 5 = [8, 9] ∧ watchMask 0x300 0 = [8, 9] := by decide +kernel

theorem test_hyp_waitany_claim : tPend.here.freeClaims ≠ [] ∧ { tPend.here with claims := (List.range 512).map (fun i => (i, ⟨.dropped, 1, false, 3, .x, 9, 0, false⟩)) }.freeClaims = [] := by
  decide +kernel

/-- The lowest register that is not PENDING answers, above the PENDING x8 and x9 of the mask (R105). -/
theorem test_waitany : (tAfter (exec (.waitany 12 5) (tPend.modMe (fun t => t.setXr 12 ⟨.full, 0x80000300⟩)))).me.xr 5 = ⟨.full, 31⟩ ∧
    (tAfter (exec (.waitany 12 5) (tPend.modMe (fun t => t.setXr 12 ⟨.full, 0x21⟩)))).me.xr 5 = ⟨.full, 0⟩ := by decide +kernel

theorem test_hyp_fwait : tPend.me.regSt .x 9 = .pending ∧ tPend.me.regSt .x 16 ≠ .pending ∧ tPend.me.regSt .c 3 ≠ .pending ∧ tPend.arrayClear [(.c, 3)] ∧
    roleHolds tPend.me.role .c = true := by decide +kernel

theorem test_hyp_fstat : tPend.noRepeat ∧ regLegal 0 0 ∧ regLegal 3 3 ∧ roleHolds tPend.me.role .c = true ∧ roleHolds tPend.me.role (fileOf 0) = true ∧
    tPend.me.regSt .x 9 = .pending ∧ tPend.me.regSt .x 16 ≠ .pending ∧ fileOf 0 = .x := by decide +kernel

theorem test_hyp_issue : let fm : Form := { instr := .fstat 0 9 9, roles := anyRole, regs := [(false, .x, 9)] }
    tPend.noRepeat ∧ fm.priv = false ∧ fm.scope = none ∧ fm.roles tPend.me.role = true ∧ fm.regs = (false, .x, 9) :: [] ∧ tPend.me.regSt .x 9 = .pending ∧
    (tS .c).me.regSt .x 15 = .poison ∧ (tS .c).me.regSt .x 16 = .vacant ∧ tPend.me.role ≠ .k ∧ tPend.resolveScope 7 = none ∧ onlyV tPend.me.role = false ∧
    (∀ p ∈ [(true, RFile.x, 10), (false, .x, 15), (false, .x, 16)], tPend.me.regSt p.2.1 p.2.2 ≠ .pending ∧ (p.1 = true → tPend.me.regSt p.2.1 p.2.2 = .full)) ∧
    (let s := tPend.modMe (fun t => { t with rptstat := 0x800 }); s.me.rptstat.getLsbD 11 = true ∧ s.me.role = .m) := by decide +kernel

/-- What the checks refuse: a privileged word of a task slot, a vector word of a tile slot, a scope the launch does not declare (R71, R73, R154). -/
theorem test_checks : (tAfter (exec .hdone (tS .s))).me.tcause = 2 ∧ (tAfter (exec .hdone (tS .s))).me.tval = 0x507B ∧ (tAfter (exec (.vadd 3 2 0 1) (tS .m))).me.tcause = 29 ∧
    (tAfter (exec (.vadd 3 2 0 1) (tS .m))).me.tval = 0x3100DB ∧ (tAfter (exec (.lacq 8 10 5) (tS .c))).me.tcause = 2 ∧
    (tAfter (exec (.add 15 10 5) (tS .c))).me.tcause = 24 ∧ (tAfter (exec (.add 15 10 5) (tS .c))).me.tval = 0x0123000000000000 ∧
    (tAfter (exec (.add 16 10 5) (tS .c))).me.tcause = 25 ∧ (tAfter (exec (.add 16 10 5) (tS .c))).me.tval = 16 ∧
    (tAfter (exec (.add 15 14 5) (tS .c))).me.park = some (.reg .x 14) ∧ (tAfter (exec (.add 15 10 14) (tS .c))).me.tcause = 24 ∧
    (tAfter (exec (.add 11 10 14) (tS .c))).me.park = some (.reg .x 14) := by decide +kernel

/-- A saved context of role C. -/
def tSaved : Saved :=
  { core := 0, name := 0x10, slot := 7, epoch := 0, role := .c, frozen := true, pc := 0x40, tcause := 0, tval := 0, tpc := 0, csrs := [], x := [(10, ⟨.full, 77⟩)], v := [], m := [], c := [], streams := [], mail := [],
    mailOrder := [], mailBytes := [], pendings := [], recvClaim := none, parked := false, acquires := [], fences := [], missScope := none, saw := [] }

theorem test_hyp_delivery : let s := tPend.modHere (fun k => { k with deliveries := [⟨4, 5000, .value 7⟩] })
    ((s.core 0).deliveries.find? (fun d => d.claim == 4 && d.due ≤ (s.core 0).cycle)) = some ⟨4, 5000, .value 7⟩ ∧
    ((nget (s.core 0).claims 4).map (fun cl => (cl.lost, cl.target, cl.file, cl.reg))) = some (false, .slot, .x, 9) ∧
    (let u := s.modHere (fun k => { k with ctx := [(31, tSaved)], claims := [(4, ⟨.context 31, 1, false, 7, .x, 9, 0, false⟩)] }); nget (u.core 0).ctx 31 = some tSaved) := by decide +kernel

theorem test_delivery : let s := tPend.modHere (fun k => { k with deliveries := [⟨4, 5000, .value 7⟩] })
    (tAfter (exec (.claimDelivery 0 4) s)).me.xr 9 = ⟨.full, 7⟩ ∧ nget (tAfter (exec (.claimDelivery 0 4) s)).here.claims 4 = none := by decide +kernel

theorem test_hyp_park_limit : let s := tPend.modMe (fun t => { t with state := .parked, park := some (.reg .x 9), parklim := 3, parkCount := 2 })
    (s.slot 0 3).park = some (.reg .x 9) ∧ (s.slot 0 3).state = .parked ∧ s.parkBlocked 0 3 = true ∧ (s.slot 0 3).parklim.toNat % 2 ^ 32 ≠ 0 ∧
    (s.slot 0 3).parklim.toNat % 2 ^ 32 ≤ (s.slot 0 3).parkCount + 1 := by decide +kernel

theorem test_hyp_csr : csrRoles 0x800 (tS .c).me.role = true ∧ csrKOnly 0x800 = false ∧ csrRoles 0x5C7 (tS .k).me.role = true ∧ csrKOnly 0x5C7 = true ∧ (tS .k).me.role = .k ∧
    csrRoles 0x807 (tS .t).me.role = true ∧ csrRoles 0x808 (tS .m).me.role = true ∧ (tS .c).writable .x 5 ∧ (tS .c).readable .x 10 := by decide +kernel

/-- A set and a clear of wl.vflags field by field, and the reads (R119). -/
theorem test_csr : let s := tAfter (exec (.csrrwi 0x800 21 5) (tS .c))
    (s.readCsr 0x800) = 21 ∧ (tAfter (exec (.csrrci 0x800 4 5) s)).readCsr 0x800 = 17 ∧ (tAfter (exec (.csrrci 0x800 4 5) s)).me.xr 5 = ⟨.full, 21⟩ ∧
    (tAfter (exec (.csrrs 0xC00 0 5) s)).me.xr 5 = ⟨.full, 5000⟩ ∧ (tAfter (exec (.csrrw 0x800 12 0) s)).readCsr 0x800 = 0xFFFFFFFF := by decide +kernel

/-! ## Vector instructions -/

/-- Vector registers v1 to v3: lanes of 32 bits 1.5 (0x3FC00000) and of 0xFFFFFFFF, and one whose lane 0 is 0x00000002. -/
def tVec : State := (tS .v).modMe (fun t => { t with v := [(1, ⟨.full, 0x3FC000003FC000003FC00000⟩), (2, ⟨.full, 0xFFFFFFFF00000001FFFFFFFF⟩), (3, ⟨.full, 2⟩), (4, ⟨.pending, 0⟩)] })

theorem test_hyp_vector : tVec.noRepeat ∧ tVec.me.role = .v ∧ tVec.readable .v 1 ∧ tVec.readable .v 2 ∧ tVec.readable .v 3 ∧ tVec.writable .v 5 ∧ tVec.writable .v 1 ∧
    (0#3 < 5 ∧ 1#3 < 5 ∧ 4#3 < 5 ∧ 2 ≤ 2#3 ∧ 2 ≤ 4#3 ∧ 1#3 < 2) := by decide +kernel

/-- Lane 0 of 1.5 + 1.5 is 3.0 in FP32; lanes of the 32-bit integer class wrap and compare signed (R232, R233). -/
theorem test_vector_lanes : elemOf ((tAfter (exec (.vadd 1 1 0 5) tVec)).me.vr 5).val 32 0 = 0x40400000 ∧
    elemOf ((tAfter (exec (.vadd 2 2 3 5) tVec)).me.vr 5).val 32 0 = 0xFFFFFFFE ∧ elemOf ((tAfter (exec (.vcmplt 3 2 3 5) tVec)).me.vr 5).val 32 0 = 0xFFFFFFFF ∧
    elemOf ((tAfter (exec (.vmax 3 2 3 5) tVec)).me.vr 5).val 32 0 = 2 := by decide +kernel

theorem test_hyp_vector_long : (∃ u c, tVec.pend .v 5 3 false = some (u, c)) ∧ (∃ u c, tVec.pend .x 5 3 false = some (u, c)) ∧ tVec.writable .v 5 ∧ tVec.writable .x 5 :=
  ⟨pend_of _ _ _ _ _ rfl, pend_of _ _ _ _ _ rfl, by decide +kernel, by decide +kernel⟩

theorem test_hyp_vector_stage : let v : VecOp := { claim := some 1, result := 0, holdFor := 64, fillAfter := 80, entered := none }
    let s := tState { tCore (tSlot .v) with vecs := [v] }
    let s' := tState { tCore (tSlot .v) with vecs := [{ v with entered := some 4920 }, v] }
    (s.core 0).vecs = [] ++ v :: [] ∧ (s.core 0).stageFrees ≤ (s.core 0).cycle ∧ (s'.core 0).vecs = { v with entered := some 4920 } :: [v] ∧ 4920 + 80 ≤ (s'.core 0).cycle := by
  decide +kernel

theorem test_hyp_vector_memory : tVec.here.transfer = none ∧ (tVec.xv 10).toNat + 256 ≤ 2 ^ 20 ∧ (tVec.xv 10).toNat % 8 = 0 ∧ tVec.me.state ≠ .empty ∧
    (∀ st as, tVec.bytesPass st as) ∧
    (∀ u ∈ (List.range 32).map (fun j => ({ addr := tVec.xv 10 + BitVec.ofNat 64 j * tVec.xv 17, len := 8, bit := 64 * j } : VUnit)),
      u.addr.toNat + u.len ≤ 2 ^ 20 ∧ u.addr.toNat % u.len = 0) ∧
    (∀ u ∈ (List.range (min 64 (2048 / tyW 3))).map (fun j => ({ addr := tVec.xv 10 + BitVec.ofNat 64 (elemOf (tVec.vv 6) 32 j), len := tyW 3 / 8, bit := tyW 3 * j } : VUnit)),
      u.addr.toNat + u.len ≤ 2 ^ 20 ∧ u.addr.toNat % u.len = 0) :=
  ⟨by decide +kernel, by decide +kernel, by decide +kernel, by decide +kernel, fun _ _ => bytesPass_of _ _ _ ⟨by decide +kernel, by decide +kernel, fun _ => by decide +kernel, by decide +kernel⟩, by decide +kernel, by decide +kernel⟩

/-- Thirty-three words of one bank take three turns, sixteen take one (R238). -/
theorem test_turns : turnsOf ((List.range 33).map (fun i => 512 * i)) = 3 ∧ turnsOf ((List.range 16).map (fun i => 512 * i)) = 1 ∧
    turnsOf ((List.range 17).map (fun i => 512 * i)) = 2 := by decide +kernel

/-- VLD reads what VST wrote, bytes at rising bit positions (R237). -/
theorem test_vld_vst : let s := tAfter (exec (.vst 10 2) tVec)
    (tAfter (exec (.vld 10 7) s)).me.vr 7 = ⟨.full, 0xFFFFFFFF00000001FFFFFFFF⟩ ∧ memGet s.here.ls 0x144 = 1 := by decide +kernel

theorem test_hyp_transfer : let x : Transfer := { slot := 3, epoch := 0, at_ := 5000, kind := .vstore [(0x140, 7)], addrs := [0x140] }
    let s := tState { tCore (tSlot .v) with transfer := some x }
    (s.core 0).transfer = some x ∧ x.at_ ≤ (s.core 0).cycle ∧ (s.slot 0 x.slot).state ≠ .empty ∧ (s.slot 0 x.slot).epoch = x.epoch := by decide +kernel

/-- Consecutive units of 8 bytes take one turn: they spread over the banks (R238). -/
theorem test_hyp_one_turn : turnsOf (((List.range 32).map (fun j => ({ addr := 0x140 + BitVec.ofNat 64 j * 8, len := 8, bit := 64 * j } : VUnit))).flatMap
    (fun u => span u.addr.toNat u.len)) ≤ 1 ∧
    turnsOf (((List.range (min 64 (2048 / tyW 3))).map (fun j => ({ addr := tVec.xv 10 + BitVec.ofNat 64 (elemOf (tVec.vv 6) 32 j), len := tyW 3 / 8, bit := tyW 3 * j } : VUnit))).flatMap
      (fun u => span u.addr.toNat u.len)) ≤ 1 := by decide +kernel

/-- A gather of one turn: lane 0 is the word at the base plus index 0 (R237). -/
theorem test_gather : let t := tAfter (exec (.vgath 3 10 3 7) ((tVec.modHere (fun k => { k with ls := [(0x140, 9), (0x144, 5)] })).modMe (fun t => { t with v := [(3, ⟨.full, 4⟩)] })))
    elemOf (t.me.vr 7).val 32 0 = 5 ∧ elemOf (t.me.vr 7).val 32 1 = 9 := by decide +kernel

/-- VSEL of class B picks bit by bit, VSLUP by one lane fills with zero, VEXT of a negative lane is sign-extended (R233, R240). -/
theorem test_vector_moves : (tAfter (exec (.vsel 3 2 1 5 7) tVec)).me.vr 7 = ⟨.full, 0xFFFFFFFF00000001FFFFFFFD⟩ ∧
    (tAfter (exec (.vext 9 2 3 5) tVec)).me.xr 5 = ⟨.full, 0xFFFFFFFFFFFFFFFF⟩ := by decide +kernel

/-! ## Tile instructions -/

/-- A tile slot whose m0 and m1 are E4M3 of two rows and 32 columns, m2 the same with block scales, m3 INT8; x18 a repeat count. -/
def tTile : State :=
  (tS .m).modMe (fun t => { t with mcfg := [(0, 0x0000001008200402), (1, 0x0000001008200402), (2, 0x0000001008200412), (3, 0x0000001008200408)]
                                   x := nput t.x 18 ⟨.full, 3⟩ })

theorem test_hyp_tile : tTile.noRepeat ∧ tTile.me.role = .m ∧ tTile.readable .x 10 ∧ tTile.writable .c 1 ∧ tTile.arrayClear [(.c, 1)] ∧ tTile.writable .m 0 ∧
    tTile.arrayClear [(.m, 0)] ∧ tTile.here.transfer = none ∧ tTile.readable .c 1 ∧ tTile.readable .m 0 ∧ tTile.readable .m 1 ∧ tTile.here.array = none ∧
    tTile.arrayClear [(.c, 1), (.m, 2)] := by decide +kernel

theorem test_hyp_tile_load : (∀ n ∈ [0, 2, 3], let g := tTile.mcfg n
      typeOk (wf g 0 4) = true ∧ 1 ≤ wf g 9 7 ∧ wf g 9 7 ≤ 64 ∧ 1 ≤ wf g 16 8 ∧ wf g 16 8 ≤ typeK (wf g 0 4) ∧ (g.getLsbD 4 = true → wf g 0 4 ≠ 1 ∧ wf g 0 4 ≠ 8)) ∧
    (∀ p ∈ mldPieces (tTile.mcfg 2) 0x140, p.fail = none) ∧ (∀ p ∈ mldPieces (tTile.mcfg 0) (tTile.stream 0).base.toNat, p.fail = none) ∧
    (turnsOf ((mldPieces (tTile.mcfg 2) 0x140).flatMap (·.bytes)) ≤ 1 ∧ turnsOf ((mldPieces (tTile.mcfg 0) (tTile.stream 0).base.toNat).flatMap (·.bytes)) ≤ 1 ∧
      tTile.me.state ≠ .empty) ∧
    ∀ as, tTile.bytesPass false as :=
  ⟨by decide +kernel, by decide +kernel, by decide +kernel, by decide +kernel, fun _ => bytesPass_of _ _ _ (by decide +kernel)⟩

theorem test_hyp_tile_store : (let g := tTile.me.mstcfg
      1 ≤ wf g 16 8 ∧ wf g 16 8 ≤ 64 ∧ g.getLsbD 6 = false ∧ (∀ p ∈ [({ addr := 0x140, len := (64 * fmtWidth 0 + 7) / 8, align := 8 } : Piece)], p.fail = none)) ∧
    (let g : Word := 0x1000000000400040;
      1 ≤ wf g 16 8 ∧ wf g 16 8 ≤ 64 ∧ g.getLsbD 6 = true ∧ (2 ≤ 6 ∧ 6 < 7 ∧ wf g 16 8 % 32 = 0) ∧
      turnsOf ([({ addr := 0x1140, len := 2, align := 1 } : Piece), { addr := 0x140, len := (64 * fmtWidth 6 + 7) / 8, align := 8 }].flatMap (·.bytes)) ≤ 1 ∧ (0x140 : Int) + (g.extractLsb' 48 16).toInt = 0x1140 ∧
      ∀ p ∈ [({ addr := 0x1140, len := 2, align := 1 } : Piece), { addr := 0x140, len := (64 * fmtWidth 6 + 7) / 8, align := 8 }], p.fail = none) := by decide +kernel

theorem test_hyp_rows : let g := tTile.mcfg 2
    typeOk (wf g 0 4) = true ∧ 1 ≤ wf g 16 8 ∧ wf g 16 8 ≤ min 64 (typeK (wf g 0 4)) ∧ (g.getLsbD 4 = true → wf g 0 4 ≠ 1 ∧ wf g 0 4 ≠ 8 ∧ wf g 16 8 % 32 = 0) ∧
    (wf g 0 4 = 1 ∨ wf g 0 4 = 8 → rmOf (0#3).toNat = .rne) := by decide +kernel

theorem test_hyp_dots : wf (tTile.mcfg 0) 16 8 = wf (tTile.mcfg 1) 16 8 ∧ pairOk false (wf (tTile.mcfg 0) 0 4) (wf (tTile.mcfg 1) 0 4) = true ∧ wf (tTile.mcfg 3) 0 4 = 8 ∧
    wf (tTile.mcfg 3) 16 8 = wf (tTile.mcfg 3) 16 8 ∧
    (let x : ArrayOp := { slot := 3, cd := 1, ma := 0, mb := 1, result := 0, since := 4937 };
      let s := tState { tCore (tSlot .m) with array := some x };
      (s.core 0).array = some x ∧ x.since + 63 ≤ (s.core 0).cycle ∧ (s.slot 0 x.slot).state ≠ .empty ∧ (s.slot 0 x.slot).doneWait = false) := by decide +kernel

/-- MLD of two rows of 32 E4M3 elements with block scales: bytes fill the row from bit 0, each row's first scale byte is read and the others are 0x7F,
rows beyond the tile are zero (R252). -/
theorem test_tile_load : let t := tAfter (exec (.mldAddr 10 2) (tTile.modHere (fun k => { k with ls := [(0x140, 0x38), (0x144, 0x81), (0x15F, 0x12), (0x180, 0x40)] })))
    (t.me.mr 2).st = .full ∧ ((t.me.mr 2).val.extractLsb' 0 512).toNat = 0x38 + 0x81 * 2 ^ 32 + 0x12 * 2 ^ 248 ∧ ((t.me.mr 2).val.extractLsb' 512 512).toNat = 0x40 ∧
      (t.me.mr 2).val.extractLsb' 32768 64 = 0x7F7F7F817F7F7F38 ∧ (t.me.mr 2).val.extractLsb' 32832 32 = 0x7F7F7F7F ∧ ((t.me.mr 2).val.extractLsb' 1024 512).toNat = 0 := by
  decide +kernel

/-- MZERO, ASSET and RPT of 0 and of 3 (R254, R260, R263). -/
theorem test_tile_plain : (tAfter (exec (.asset 2 12 1) tTile)).stream 1 = { base := 0, stride1 := 0, stride2 := 0, count1 := 0xFFFFFFFF, pos := 0 } ∧
    (tAfter (exec (.rpt 1 9) tTile)).me.pc = 0x1000010C ∧ (tAfter (exec (.rpt 1 18) tTile)).me.rptstat = 0x300000801 := by decide +kernel

theorem test_hyp_repeats : wf (tTile.xv 9) 0 32 = 0 ∧ wf (tTile.xv 18) 0 32 ≠ 0 ∧
    (let s := tAfter (exec (.rpt 1 18) tTile);
      s.me.rptstat.getLsbD 11 = true ∧ s.me.role = .m ∧ onlyM .m = true ∧ examine s.me [] = .pass ∧ s.arrayClear [] ∧
      wf s.me.rptstat 3 3 < wf s.me.rptstat 0 3 + 1 ∧ wf s.me.rptstat 3 3 + 1 < wf s.me.rptstat 0 3 + 1 ∧ 1 ≤ wf s.me.rptstat 32 32 ∧ 1 < wf s.me.rptstat 32 32) ∧
    (let s := tAfter (exec (.rpt 0 17) tTile);
      wf s.me.rptstat 3 3 + 1 = wf s.me.rptstat 0 3 + 1 ∧ 1 < wf s.me.rptstat 32 32) ∧
    (let s := tAfter (exec (.rpt 0 17) (tTile.modMe (fun t => { t with x := nput t.x 17 ⟨.full, 1⟩ })));
      wf s.me.rptstat 3 3 + 1 = wf s.me.rptstat 0 3 + 1 ∧ wf s.me.rptstat 32 32 = 1) := by decide +kernel

theorem test_hyp_repeat_own : let s := (tAfter (exec (.rpt 1 18) tTile)).modMe (fun t => { t with mcfg := nput t.mcfg 0 7, mstcfg := 0 })
    s.me.rptstat.getLsbD 11 = true ∧ s.me.role = .m ∧ typeOk (wf (s.mcfg 0) 0 4) = false ∧ wf s.me.mstcfg 16 8 = 0 ∧ s.readable .x 10 ∧ s.writable .c 1 ∧ s.readable .c 1 ∧
      s.writable .m 0 ∧ s.readable .m 0 ∧ s.readable .m 1 ∧ s.arrayClear [(.c, 1)] ∧ s.arrayClear [(.m, 0)] ∧ 0#4 < 5 := by decide +kernel

/-- In a body an ADDI traps with reason 6, an ASSET has its effect (R264). -/
theorem test_repeat_body : let s := tAfter (exec (.rpt 1 18) tTile)
    (tAfter (exec (.addi 0 0 0) s)).me.tcause = 49 ∧ (tAfter (exec (.addi 0 0 0) s)).me.tval = 0x600000000000000 ∧ ((tAfter (exec (.asset 0 10 1) s)).stream 1).base = 0x140 := by
  decide +kernel

/-- A body of two words: the second word of a round leads back to the first (R263). -/
theorem test_repeat : let s := tAfter (exec (.mzero 1) (tAfter (exec (.rpt 1 18) tTile)))
    s.me.pc = 0x10000108 ∧ (tAfter (exec (.mzero 1) s)).me.pc = 0x10000104 ∧ wf (tAfter (exec (.mzero 1) s)).me.rptstat 32 32 = 2 := by decide +kernel

/-! ## Plots, barriers, queues and bank locks -/

theorem test_hyp_plots : ((tS .c).xv 11).toNat < 256 ∧ (tS .c).reservedPlot 0 7 = false ∧ (tS .c).here.plotBusy 7 = false ∧ (tS .c).plotInUse 0 7 = false ∧
    256 ≤ ((tS .c).xv 10).toNat ∧ (tState { tCore (tSlot .c) with inUse := [(7, 2)] }).plotInUse 0 7 = true ∧
    (tState { tCore (tSlot .c) with transfer := some { slot := 2, epoch := 0, at_ := 6000, kind := .vstore [], addrs := [0x7000] } }).here.plotBusy 7 = true ∧
    (({ tS .c with sites := [(0, { tSite with launch := some { placeLaunch with tasks := true } })] } : State).reservedPlot 0 255) = true := by decide +kernel

/-- A segment of core 1's copy on its way to core 0 uses its plot, and OWNT waits for it (R195, R278). -/
theorem test_far_use : let s : State := { tS .c with flights := [tFlight (.core 1) (.name 0x10) (.segment 0 [(0x7000, 1)] [])] }
    s.plotInUse 0 7 = true ∧ s.plotInUse 0 8 = false ∧ (tAfter (exec (.ownt 11) s)).me.pc = s.me.pc := by decide +kernel

theorem test_plots : let s := tAfter (exec (.owne 11) (tS .c))
    (tAfter (exec (.ownq 11 5) s)).me.xr 5 = ⟨.full, 1⟩ ∧ (tAfter (exec (.ownq 11 5) (tAfter (exec (.ownt 11) s)))).me.xr 5 = ⟨.full, 0⟩ ∧
    (tAfter (exec (.owne 10) (tS .c))).me.tcause = 27 := by decide +kernel

/-- Core 0 with barrier b3 open in phase 0, one claim waiting for it, and b4 in phase 1. -/
def tBar : State := tState { tCore (tSlot .c) with barriers := [(3, { exp := 3, arr := 2, pend := 0, phase := false, waits := [(9, false)] }),
                                                                (4, { exp := 1, arr := 0, pend := 8, phase := true, waits := [] })] }

theorem test_hyp_barriers : (tBar.noRepeat ∧ tBar.readable .x 11 ∧ tBar.writable .x 5 ∧ (0#1 ++ 3#5).toNat = 3 ∧ (0#1 ++ 4#5).toNat = 4 ∧
    ((tBar.here.barrier 3).arr + 1 = (tBar.here.barrier 3).exp ∧ (tBar.here.barrier 3).pend - 0 = 0) ∧ ¬((tBar.here.barrier 4).arr + 1 = (tBar.here.barrier 4).exp ∧ (tBar.here.barrier 4).pend - 0 = 0) ∧
    ¬((tBar.here.barrier 4).arr = (tBar.here.barrier 4).exp ∧ (tBar.here.barrier 4).pend + ((tBar.xv 11).setWidth 32) = 0)) ∧
    (0#1 = 1#1) = ((tBar.here.barrier 3).phase = true) ∧ (0#1 = 1#1) ≠ ((tBar.here.barrier 4).phase = true) := by
  refine ⟨by decide +kernel, ?_, ?_⟩
  · exact propext (by decide +kernel)
  · exact fun e => by have : (0#1 = 1#1) ↔ ((tBar.here.barrier 4).phase = true) := by rw [e]
                      revert this; decide +kernel

theorem test_hyp_barrier_wait : ∃ u c, tBar.pend .x 5 5 true = some (u, some c) := claim_of _ _ _ _ _ rfl (by decide)

/-- The worked example of R206: the third arrival closes phase 0 and fills the waiting claim with 0 in the next cycle. -/
theorem test_barrier_closes : let t := tAfter (exec (.barv 0 3) tBar)
    (t.here.barrier 3).phase = true ∧ (t.here.barrier 3).arr = 0 ∧ t.here.deliveries = [⟨9, 5001, .value 0⟩] ∧
    (tAfter (exec (.bquery 0 5 3) t)).me.xr 5 = ⟨.full, 0x8000000000000000⟩ ∧ (tAfter (exec (.bquery 0 5 3) tBar)).me.xr 5 = ⟨.full, 0x200000000⟩ := by decide +kernel

/-- Core 0 with q1 full, q2 holding one value and q3 with a waiting claim. -/
def tQueues : State := tState { tCore (tSlot .c) with queues := [(1, { entries := List.replicate 16 5, waits := [], popped := 2 }), (2, { entries := [6], waits := [], popped := 0 }), (3, { entries := [], waits := [9], popped := 0 })] }

theorem test_hyp_queues : (tQueues.here.queue 3).waits = 9 :: [] ∧ (tQueues.here.queue 2).waits = [] ∧ (tQueues.here.queue 2).entries.length ≠ 16 ∧
    (tQueues.here.queue 1).waits = [] ∧ (tQueues.here.queue 1).entries.length = 16 ∧ (tQueues.here.queue 2).entries = 6 :: [] ∧ (tQueues.here.queue 0).entries = [] := by decide +kernel

theorem test_hyp_queue_wait : ∃ u c, tQueues.pend .x 5 4 true = some (u, some c) := claim_of _ _ _ _ _ rfl (by decide)

theorem test_queues : (tAfter (exec (.qpop 2 5) tQueues)).me.xr 5 = ⟨.full, 6⟩ ∧ (tAfter (exec (.qlen 3 5) tQueues)).me.xr 5 = ⟨.full, 0x10000⟩ ∧
    (tAfter (exec (.qlen 1 5) tQueues)).me.xr 5 = ⟨.full, 16⟩ ∧ (tAfter (exec (.qpush 11 1) tQueues)).me.park = some (.queue 1 2) ∧
    (tAfter (exec (.qpush 11 3) tQueues)).here.deliveries = [⟨9, 5001, .value 7⟩] := by decide +kernel

/-- A pusher of a full queue issues again once an entry has been popped, although another slot has filled the place; so does a waiter for a lock that
another slot has taken anew (R208, R210). -/
theorem test_reissue : let s := tQueues.modHere (fun k => { k with locks := [(40, { slot := 4, since := 904, addr := 0x140 })] })
    let on (p : ParkOn) : State := s.modMe (fun t => { t with state := .parked, park := some p })
    (on (.queue 1 2)).parkBlocked 0 3 = true ∧ (on (.queue 1 1)).parkBlocked 0 3 = false ∧ (on (.lock 40 4 904)).parkBlocked 0 3 = true ∧ (on (.lock 40 4 800)).parkBlocked 0 3 = false := by
  decide +kernel

theorem test_hyp_locks : let s := tState { tCore (tSlot .c) with locks := [(40, { slot := 3, since := 904, addr := 0x140 })] }
    let s' := tState { tCore (tSlot .c) with locks := [(40, { slot := 4, since := 904, addr := 0x140 })] }
    (s.xv 10).toNat < 2 ^ 20 ∧ (s.xv 10).toNat / 8 % 64 = 40 ∧ nget (tS .c).here.locks 40 = none ∧ (nget s.here.locks 40).map (·.slot) = some s.curSlot ∧
    (nget s'.here.locks 40).map (·.slot) = some 4 ∧ 4 ≠ s'.curSlot ∧ 2 ^ 20 ≤ (s.xv 12).toNat ∧ 904 + 4096 ≤ (s'.core 0).cycle := by decide +kernel

theorem test_locks : (tAfter (exec (.block 10) (tS .c))).here.locks = [(40, { slot := 3, since := 5000, addr := 0x140 })] ∧
    (tAfter (exec (.bunlock 10) (tAfter (exec (.block 10) (tS .c))))).here.locks = [] ∧
    (tAfter (exec (.lockBreak 0 40) (tState { tCore (tSlot .c) with locks := [(40, { slot := 3, since := 904, addr := 0x140 })] }))).me.broken = some 0x140 := by decide +kernel

/-! ## Ranges, the memory port and the homes -/

/-- The K-role slot of a core whose directory of four slots stands at 0x4000 of site 0. -/
def tDir : State := tState { tCore (tSlot .k) with rdmnt := 0x2000000004, rdir := 0x2000000004 }

theorem test_hyp_ranges : tDir.noRepeat ∧ tDir.me.role = .k ∧ tDir.readable .x 13 ∧ tDir.readable .x 11 ∧ tDir.readable .x 9 ∧ tDir.writable .x 5 ∧ dirBad tDir.here.rdmnt = false ∧
    dirBad (tS .k).here.rdmnt = true ∧ tDir.me.dirWait = none ∧ tDir.releaseWaits 3 = [] ∧ tDir.resolveScope 3 = some 3 ∧ tDir.xv 9 = 0 ∧ tDir.xv 11 ≠ 0 := by decide +kernel

theorem test_hyp_range_claim : ∃ u c, tDir.pend .x 5 1 false = some (u, c) := pend_of _ _ _ _ _ rfl

/-- An earlier store of the slot is left to be performed. -/
def tStored : State := tDir.modHere (fun k => { k with accs := [{ id := 40, slot := 3, epoch := 0, issuer := (3, 0), kind := .w, isSc := false, home := some 0, lo := 0, len := 8, va := 0, proc := 0, translated := true, drops := false, fills := false, fillClaim := none }] })

theorem test_hyp_range_held : (tStored.releaseWaits 3 ≠ [] ∧ ∀ w ∈ [DirWait.sent 40, .done 0 2, .done 7 0], (tDir.modMe (fun t => { t with dirWait := some w })).me.dirWait = some w) ∧
    (∃ u c, tStored.pend .x 5 1 false = some (u, c)) := ⟨by decide +kernel, pend_of _ _ _ _ _ rfl⟩

/-- At core scope an RINV goes to the issuing core alone and its site's gleaner, at site scope to every exposed core of the site (R24, R187). -/
theorem test_rinv_targets : tDir.rinvTargets 5 0 = ([5], [0]) ∧ tDir.rinvTargets 5 1 = (List.range 16, [0]) := by decide +kernel

/-- Three sites in a row of which the first reaches the second on the XY mesh and nothing leads on or back: what goes to site 2 is lost, what goes to
site 24 is BLOCKED at once (R40, R44). -/
def tLost : State :=
  { tDir with sites := [(0, { tSite with links := [(2, true)], phys := [(0, 0x1000), (2, 0x1000), (24, 0x1000)] }), (1, { tSite with name := 2 }), (2, { tSite with name := 3 }),
                                (24, { tSite with name := 4 })], partRects := [(0, 0x10C00)] }

theorem test_lost : (tLost.travel (.core 0) 0 0 (2 * 2 ^ 33) 1 1).2 = ⟨some 0x25, false⟩ ∧ (tLost.travel (.core 0) 0 0 (600 * 2 ^ 33) 1 1).2 = ⟨some 0x27, false⟩ ∧
    (tLost.travel (.core 0) 0 0 0x40 1 1).2 = ⟨none, true⟩ ∧
    (tLost.travel (.core 0) 0 0 (24 * 2 ^ 33) 1 1).2 = ⟨some 0x21, false⟩ := by decide +kernel

/-- A walk of core 0 for the slot, and the same to be walked again. -/
def tWalk : WalkRec := { id := 60, va := 0x10000040, dir := 0x2000000004, running := true, users := [.slot 3], restart := false }

theorem test_hyp_walks : (let s (w : WalkRec) : State := tDir.modHere (fun k => { k with walks := [w] });
      tTaken tDir (.walk 60 0x10000040 0x2000000004) ∧ tTaken (s tWalk) (.walkAns 60 (.found placeRange 1)) ∧ (s tWalk).here.walks.find? (fun w => w.id == 60) = some tWalk ∧
      tTaken (s { tWalk with restart := true }) (.walkAns 60 .miss) ∧ tTaken tDir (.walkAns 60 .miss) ∧ tDir.here.walks.find? (fun w => w.id == 60) = none) ∧
    (tWalk.restart = false ∧ tWalk.users.any (fun x => match x with | .probe _ f => f | _ => true) = true ∧
      [WalkUser.probe none false].any (fun x => match x with | .probe _ f => f | _ => true) = false) ∧
    ((tDir.modMe (fun t => { t with park := some (.walker 60 0x10000040) })).slot 0 3).park = some (.walker tWalk.id 0x10000040) ∧ WalkRes.miss.reason.1 ≠ 0 ∧
    (WalkRes.found placeRange 1).reason.1 = 0 := by decide +kernel

/-- A directory of zeros ends its walk at the last slot, VACANT with home 0; the answer of a found entry fills the table (R173, R175). -/
theorem test_walk : (tAfter (exec (.walk 50) (tArrive tDir (.walk 60 0x10000040 0x2000000004)))).flights.map (·.body) = [.walkAns 60 (.malformed 3)] ∧
    (tAfter (exec (.walkFill 50) (tArrive ((tDir.modHere (fun k => { k with walks := [tWalk], ranges := [] }))) (.walkAns 60 (.found placeRange 1))))).here.ranges = [tEntry] := by decide +kernel

/-- A directory with its range in slot 1, of which one slot has moved away: slot 2, the first that a search reads, or slot 3, which the search of that
range does not read. -/
def tAway (at_ new : Nat) : State :=
  let s := (tLost.putDirSlot 0x2000000004 1 placeRange.encode).putDirSlot 0x2000000004 2 (vacantOf placeRange.encode 0x10001000 0)
  { s with gmoves := [{ id := 70, site := 0, part := 0, core := 0, claim := none, dir := 0x2000000004, index := 1, base := 0, limit := 0x1000, proc := 0, oldPa := at_,
                        newPa := new, cmp := false, moved := 64, bad := 0, finishing := none, lost := true }] }

theorem test_hyp_walk_away : ((tAway 0x4080 (600 * 2 ^ 33)).searchReads 0x2000000004 0x10000040 = [] ++ 2 :: [] ∧
      ((tAway 0x4080 (600 * 2 ^ 33)).forwarded (wf 0x2000000004 0 31 * 4096 + 64 * 2) 1 (dataFlits 64) 1).2 = ⟨some 0x27, false⟩ ∧
      ((tAway 0x4080 (600 * 2 ^ 33)).walkDir 0x2000000004 0x10000040).2 = .unreadable 0x27 0x4080) ∧
    ((tAway 0x4080 (2 * 2 ^ 33)).walkDir 0x2000000004 0x10000040).2.lost = true ∧ (tDir.walkDir 0x2000000004 0x10000040).2.lost = false ∧
    (tArrive (tAway 0x4080 (2 * 2 ^ 33)) (.walk 60 0x10000040 0x2000000004)).takes 50 (tFlight (.core 0) (.coords 0) (.walk 60 0x10000040 0x2000000004)) := by decide +kernel

/-- The last acknowledgement is still out, or this is it: of an RINV, and of a move. -/
def tAcks (move : Option Nat) (expect : Nat) : State := { tAway 0x8000 0x9000 with rinvs := [{ id := 61, core := 0, claim := some 4, move := move, expect := expect, got := 0 }] }

theorem test_hyp_acks : (∀ p ∈ [((none : Option Nat), 1), (none, 2), (some 70, 1)], (tAcks p.1 p.2).rinvs.find? (fun x => x.id == 61) = some ⟨61, 0, some 4, p.1, p.2, 0⟩) ∧
    ((tAcks (some 70) 1).gmoves.find? (fun x => x.id == 70)).isSome = true ∧ 0 + 1 < 2 ∧ 1 ≤ 0 + 1 := by decide +kernel

/-- The last acknowledgement of an RINV fills its future with their number, that of a move ends the forwarding (R187, R190). -/
theorem test_acks : ((tAcks none 1).takeRinvAck 61).here.deliveries.map (fun d => (d.claim, d.val)) = [(4, .value 1)] ∧ ((tAcks none 1).takeRinvAck 61).rinvs = [] ∧
    ((tAcks (some 70) 1).takeRinvAck 61).gmoves = [] ∧ ((tAcks none 2).takeRinvAck 61).rinvs.map (·.got) = [1] := by decide +kernel

theorem test_hyp_rinv : (tTaken tDir (.rinv 61 none 0 0 4096 false) ∧ (∀ d ∈ [true, false], tTaken tDir (.rinv 61 (some 0) 0 0 4096 d)) ∧ (tDir.site (siteOf 0)).state ≠ .fenced ∧
    tDir.here.drains 0 0 4096 = false ∧ (∀ d ∈ [true, false], tTaken tStored (.rinv 61 (some 0) 0 0 4096 d)) ∧ tStored.here.drains 0 0 4096 = true) ∧
    (let f : Flight := { tFlight (.core 0) (.coords 0) (.rinv 61 (some 0) 0 0 4096 false) with cls := .system };
      let s : State := { tDir with sites := [(0, { tSite with state := .fenced })], flights := [f] };
      s.arrivedPacket 50 = some f ∧ f.dsite = siteOf 0 ∧ (s.site (siteOf 0)).state = .fenced) := by
  decide +kernel

/-- Directory 0x4000 of two slots: the second holds the range of the small states. -/
def tDirs : State := (tDir.modHere (fun k => { k with rdmnt := 0x1000000004 })).putDirSlot 0x1000000004 1 placeRange.encode

theorem test_hyp_directory : tDirs.search 0x1000000004 0x10000040 = .found placeRange 1 ∧ (∀ va ∈ [0x20000040, 0x40], tDirs.search 0x1000000004 va = .miss) ∧
    (∀ op ∈ [DirOp.split 0x10000800 0, .merge 0x10000040, .setres 0x10000040 1, .clrres 0x10000040 1, .glean 0x10000040 0x8000, .merge 0x20000040, .setres 0x40 1],
      (tArrive tDirs (.dir 3 none 0 0x1000000004 op)).takes 50 (tFlight (.core 0) (.coords 0) (.dir 3 none 0 0x1000000004 op))) ∧
    (let g (s : State) (pa : Word) : GleanOut := (s.doGlean 0 none 0 0x1000000004 placeRange 1 pa).2;
      (g tDirs 0x30000000, g tDirs 5, g { tDirs with sites := [(0, { tSite with budgets := [(2, 1)] })] } 0x30000000) =
        (.started, .status 0xA00000100000000, .poison 0x0124000010000000)) := by decide +kernel

theorem test_hyp_directory_away : (let e (new : Nat) : Option (BitVec 8 × Nat) := ((tAway 0x40C0 new).slotTrips 0x2000000004 ((tAway 0x40C0 new).runReads 0x2000000004 4 2 false)).2
      e (24 * 2 ^ 33) = some (0x21, 0x40C0) ∧ e (2 * 2 ^ 33) = some (0x25, 0x40C0)) ∧ (tDirs.slotTrips 0x1000000004 (tDirs.runReads 0x1000000004 2 2 true)).2 = none ∧
    ((tAway 0x40C0 (2 * 2 ^ 33)).search 0x2000000004 0x10000040) = .found placeRange 1 := by decide +kernel

/-- The directory of two ranges that abut: slot 1, slot 2 VACANT and slot 3. -/
def tDir4 : State := (tDir.putDirSlot 0x2000000004 1 placeRange.encode).putDirSlot 0x2000000004 3 { placeRange with base := 0x10001000, limit := 0x10002000 }.encode

/-- What a search for VACANT slots finds: their number, and the index and base of the slot that ends it. -/
def tRun (s : State) (d : Word) (n i : Nat) : Option (Nat × Option (Nat × BitVec 48)) :=
  match s.vacantRun d n i n with
  | .inl (l, e) => some (l.length, e.map (fun p => (p.1, p.2.decode.base)))
  | .inr _ => none

theorem test_hyp_splits : (tRun tDir4 0x2000000004 4 2 = some (1, some (3, 0x10001000)) ∧ tRun tDirs 0x1000000004 2 2 = some (0, none) ∧ tRun tDir 0x2000000004 4 2 = some (2, none)) ∧
    (let q : RangeSlot := { placeRange with base := 0x10001000, limit := 0x10002000 };
      q.base = placeRange.limit ∧ mergeable placeRange q = true ∧ mergeable placeRange { q with tensor := 5 } = false ∧ placeRange.base ≠ placeRange.limit ∧ placeRange.moving = false) ∧
    ((0x10000800#64).toNat % 4096 ≠ 0 ∧ (0x10001000#64).toNat % 4096 = 0 ∧ (0x10001000#64).toNat ≠ placeRange.base.toNat) := by decide +kernel

/-- RMERGE joins the two ranges: slot 1 then ends where slot 3 ended (R185). -/
theorem test_merge : (match (tDir4.doMerge 0x2000000004 placeRange 1).1.search 0x2000000004 0x10001040 with | .found r i => (r.base, r.limit, i) | _ => (0, 0, 0)) = (0x10000000, 0x10002000, 1) ∧
    (match (tDir4.doMerge 0x2000000004 placeRange 1).2 with | .value v => v.toNat | _ => 0) = 0x100000003 := by decide +kernel

/-- RCLRRES at the home clears the bit of the directory's slot and answers (R186). -/
theorem test_directory : let t := tAfter (exec (.directoryUpdate 50) (tArrive tDirs (.dir 3 none 0 0x1000000004 (.clrres 0x10000040 1))))
    (match t.search 0x1000000004 0x10000040 with | .found r i => (r.resmap.getLsbD 0, i) | _ => (true, 0)) = (false, 1) ∧
    t.flights.map (·.body) = [.dirAns 3 0 0 1] := by decide +kernel

/-- A move of one unit from 0x10000 to 0x20000 of site 0. -/
def tMove : GMove := { id := 70, site := 0, part := 0, core := 0, claim := none, dir := 0x1000000004, index := 1, base := 0x10000000, limit := 0x10001000, proc := 0, oldPa := 0x10000,
                       newPa := 0x20000, cmp := false, moved := 0, bad := 0, finishing := none, lost := false }

theorem test_hyp_gleaner : let s : State := { tDirs with gmoves := [tMove] }
    (s.gmoves.find? (fun x => x.id == 70 && !x.lost && x.finishing.isNone) = some tMove ∧ (∀ x ∈ s.gmoves, x.id = 70 → x = tMove) ∧ tMove.moved < tMove.limit - tMove.base) ∧
    ((s.reach (.gleaner 70 0) 0 0 0x20000 (s.unitFlits tMove) 32).2.code = none ∧ s.hasHome (s.gleanPA 0x20000) = true ∧ s.moveWaits 70 = false ∧
      s.hasHome (600 * 2 ^ 33) = false ∧ (s.reach (.gleaner 70 0) 0 0 (600 * 2 ^ 33) (s.unitFlits tMove) 32).2.code = some 0x27) ∧
    (let v : State := { tLost with gmoves := [{ tMove with newPa := 2 * 2 ^ 33 }] };
      (v.reach (.gleaner 70 0) 0 0 (2 * 2 ^ 33) (v.unitFlits tMove) 32).2.code = some 0x25 ∧ (tAfter (exec (.gleanUnit 70) v)).moveWaits 70 = true) ∧
    ((s.slotTrips 0x1000000004 [1]).2 = none ∧ (({ tAway 0x4040 (600 * 2 ^ 33) with nextId := 0 } : State).slotTrips 0x1000000004 [1]).2 = some (0x27, 0x4040)) ∧
    tMove.limit - tMove.base ≤ 4096 ∧ (s.probeSlot 0x1000000004 1).isLeft = true ∧ (({ s with bad := [lineOf 0x4040] } : State).probeSlot 0x1000000004 1).isRight = true := by decide +kernel

/-- A unit of 4 KiB moves, and an access to its old home is forwarded (R190). -/
theorem test_glean : let s := tAfter (exec (.gleanUnit 70) { tDirs with gmoves := [tMove], dram := [(0x10008, 9)] })
    s.gmoves.map (·.moved) = [4096] ∧ s.gleanPA 0x10008 = 0x20008 ∧ s.physRead 0x10008 1 = 9 := by decide +kernel

/-- A core with this store buffer, held access and these accesses. -/
def tPort (e : SbEntry) (h : Held) (accs : List Access) : State := { tState { tCore (tSlot .c) with sb := [e], accs := accs } with held := [h] }

theorem test_hyp_port : let r (op : MemOp) : Req := { acc := 42, slot := 3, epoch := 0, op := op, target := .phys 0x10000040, attr := placeRange.attr, claim := none }
    let e : SbEntry := { req := { r (.store 8 5) with acc := 40 }, waits := [], after := [], sent := false, check := none }
    let h (b : Body) : Held := { core := 0, acc := 42, waits := [], after := [], body := b, dest := .phys 0x10000040 }
    let acc : Access := { id := 40, slot := 3, epoch := 0, issuer := (3, 0), kind := .w, isSc := false, home := some 0, lo := 0x10000040, len := 8, va := 0, proc := 0, translated := true, drops := false, fills := false, fillClaim := none }
    let s (b : Body) : State := tPort e (h b) [acc]
    ((s (.mem (r (.lr true)))).here.sb.find? (fun x => !x.sent) = some e ∧ (s (.mem (r (.lr true)))).here.sbReady e = true ∧
      (tPort { e with waits := [40] } (h (.mem (r (.lr true)))) [acc]).here.sbReady { e with waits := [40] } = false ∧ tDir.here.sb.find? (fun x => !x.sent) = none) ∧
    (∀ b ∈ [Body.mem (r (.lr true)), .mem (r (.load 8 false)), .rinv 1 none 0 0 4096 false], (s b).held.find? (fun x => x.core == 0 && x.acc == 42) = some (h b) ∧
      (h b).waits.any (s b).here.outstanding = false ∧ [40].any (s b).here.outstanding = true) ∧
    ((s (.walk 0 0 0)).here.loadPlan 3 42 0x10000040 8 = .forward 5 [40] ∧ (s (.walk 0 0 0)).here.loadPlan 3 42 0x1000003C 8 = .wait [40, 40, 40, 40, 40] ∧
      (s (.walk 0 0 0)).here.loadPlan 3 42 0x10000080 8 = .home) ∧
    ((s (.walk 0 0 0)).here.ordering 0 5 [40] = [40] ∧ (s (.walk 0 0 0)).here.ordering 0 3 [40] = [40] ∧ (s (.walk 0 0 0)).here.ordering 16 3 [40] = [] ∧
      (s (.walk 0 0 0)).here.outstanding 40 = true) := by decide +kernel

/-- A request of core 0 for the home of site 0. -/
def tReq (op : MemOp) (t : MemTarget := .phys 0x10000040) : Body :=
  .mem { acc := 40, slot := 3, epoch := 0, op := op, target := t, attr := { tensor := 0, cmp := false, cacheRemote := false, ordered := false }, claim := none }

theorem test_hyp_homes : ((∀ op ∈ [MemOp.load 8 false, .store 4 5, .sc true 5, .amo 0 true 1], tTaken tDir (tReq op)) ∧ (tDir.homeTrip 0x10000040 8 2 2).2 = ⟨none, true⟩ ∧
      (tDir.homeTrip (600 * 2 ^ 33) 8 2 2).2 = ⟨some 0x27, false⟩ ∧ (({ tDir with bad := [lineOf 0x10000040] } : State).homeTrip 0x10000040 8 2 2).2 = ⟨some 0x11, false⟩ ∧
      ((tAway 0x10000040 (2 * 2 ^ 33)).homeTrip 0x10000040 8 2 2).2 = ⟨some 0x25, false⟩ ∧
      (∃ x ∈ ({ tDir with resv := [⟨lineOf 0x10000040, 0, 3⟩] } : State).resv, x.line = lineOf 0x10000040 ∧ x.core = 0 ∧ x.slot = 3) ∧
      ¬(∃ x ∈ tDir.resv, x.line = lineOf 0x10000040 ∧ x.core = 0 ∧ x.slot = 3) ∧ (∀ i, i < 8 → ∀ j, j < 8 → tDir.gleanPA (0x1000007C + i) = tDir.gleanPA (0x1000007C + j) → i = j) ∧ tDir.gmoves = [] ∧
      (tAway 0x10000040 (600 * 2 ^ 33)).spanFault 0x10000040 8 = some (0x27, 0x10000040)) ∧ tDir.memWf :=
  ⟨by decide +kernel, by decide +kernel, by decide +kernel, by decide +kernel⟩

/-- Slot 4 of core 0, whose partition is the wafer; site 149 is the home of x. -/
def tMisses : State :=
  { tDir with sites := [(0, tSite), (149, { tSite with name := 2 })], partRects := [(0, 0xB6000)], cores := [(0, { tCore (tSlot .k) with slots := [(4, tSlot .k)] })] }

/-- A store to f of site 149 that is checked at site scope. -/
def tMissing (fenced : Bool) : SbEntry :=
  { req := { acc := 40, slot := 4, epoch := 0, op := .store 8 1, target := .phys 0x12A00002000, attr := placeRange.attr, claim := none }, waits := [], after := [], sent := false,
    check := some (1, fenced) }

theorem test_hyp_misses : tMisses.targetHome 0 (tMissing false).req.target = some 149 ∧ inRect (tMisses.partRect 0) 149 = true ∧ tMisses.inInstance 0 1 149 = false ∧
    tMisses.hasHome 0x12A00002000 = true ∧ tMisses.inInstance 0 3 149 = true ∧ (tMisses.slot 0 4).epoch = 0 ∧ (tMisses.slot 0 4).ordctl.getLsbD 63 = false ∧
    ((tMisses.modSlot 0 4 (fun t => { t with ordctl := 0x8000000000000000 })).slot 0 4).ordctl.getLsbD 63 = true ∧ tMisses.here.scopemiss.getLsbD 63 = false ∧
    (tMisses.missCheck 0 (tMissing false)).here.scopemiss.getLsbD 63 = true := by decide +kernel

/-- The worked example of R166: wl.scopemiss reads valid, slot 4, scope site, kind 0, count 1 and the address; a second miss of a fence only counts. -/
theorem test_miss : let s := tMisses.missCheck 0 (tMissing false)
    s.here.scopemiss = 0xA100092A00002000 ∧ (s.slot 0 4).ordctl = 0x8000012A00002000 ∧ (s.missCheck 0 (tMissing true)).here.scopemiss = 0xA100112A00002000 := by decide +kernel

/-- An AMO at its home answers the old value and leaves the sum; an SC without a reservation answers 1 (R131, R133). -/
theorem test_homes : let s := tAfter (exec (.homeStore 50) (tArrive tDir (tReq (.store 8 5))))
    s.physRead 0x10000040 8 = 5 ∧ (tAfter (exec (.homeAmo 50) (tArrive s (tReq (.amo 0 true 9))))).physRead 0x10000040 8 = 14 ∧
    (tAfter (exec (.homeAmo 50) (tArrive s (tReq (.amo 0 true 9))))).flights.map (·.body) = [.fill (some 40) none (.value 5)] ∧
    (tAfter (exec (.homeStore 50) (tArrive s (tReq (.sc true 9))))).flights.map (·.body) = [.fill (some 40) none (.value 1)] := by decide +kernel

theorem test_hyp_store_failed : tTaken tDir (.stFail 40 3 0 0x27 5) ∧ tTaken tDir (.stFail 40 3 1 0x27 5) ∧ (tDir.slot 0 3).epoch = 0 ∧ (tDir.slot 0 3).stfail.getLsbD 63 = false ∧
    ((tDir.modMe (fun t => { t with stfail := 0x8000000000000000 })).slot 0 3).stfail.getLsbD 63 = true := by decide +kernel

theorem test_store_failed : ((tAfter (exec (.storeFail 50) (tArrive tDir (.stFail 40 3 0 0x27 5)))).slot 0 3).stfail = 0x8027000000000005 := by decide +kernel

/-! ## Windows, tables and caches -/

theorem test_hyp_tables :
    windowCommand 0xFF0000003F20 8 1 = some (1, 1) ∧ windowCommand 0xFF0000003F60 8 2 = some (3, 2) ∧ windowCommand 0xFF0000003008 8 5 = none ∧ windowCommand 0xFF0000003F20 8 3 = none ∧
    tTaken tDir (tReq (.store 8 1) (.window 0xFF0000003F20)) ∧ tTaken tDir (tReq (.store 8 2) (.window 0xFF0000003F60)) ∧ tTaken tDir (tReq (.store 8 5) (.window 0xFF0000003008)) ∧
    tDir.windowWaits 0 0xFF0000003008 = false ∧ tDir.windowWrite 0 0xFF0000003008 8 5 = none ∧
    ((tDir.modMe (fun t => { t with state := .frozen })).windowWrite 0 0xFF0000003008 8 5).isSome = true ∧
    tableOff 1 0 = true ∧ tableOff 1 0x7FF8 = true ∧ tableOff 1 0x8000 = true ∧ tableOff 1 0x9078 = true ∧ tableOff 1 0x9080 = false ∧
    tTaken tDir (tReq (.store 8 0) (.router 1 0)) ∧ (tDir.routeWrite 0 0 0 0).isSome = true ∧ tDir.routeWrite 0 0 0 0x18 = none ∧
    (tDir.physWrite 0 0 0 0).isSome = true ∧ tDir.physWrite 0 0 0 0x3FF = none := by decide +kernel

/-- The write of x1 of a frozen slot through its window, and a route entry (R355, R33). -/
theorem test_tables :
    ((tAfter (exec (.windowWrite 50) (tArrive (tDir.modMe (fun t => { t with state := .frozen })) (tReq (.store 8 5) (.window 0xFF0000003008))))).slot 0 3).xr 1 = ⟨.full, 5⟩ ∧
    ((tAfter (exec (.routeEntryWrite 50) (tArrive tDir (tReq (.store 8 0x21) (.router 1 0x10))))).site 0).route 2 = 0x21 := by decide +kernel

/-- The slot waits for a line of instructions. -/
def tFetching : State := tDir.modMe (fun t => { t with fetch := some (.line 0x80) })

theorem test_hyp_caches : tTaken tFetching (.ifill 0x80 (some 7) 0) ∧ tTaken tFetching (.ifill 0x80 none 0) ∧ (tFetching.slot 0 3).fetch = some (.line 0x80) ∧ (tFetching.slot 0 4).fetch ≠ some (.line 0x80) ∧
    tTaken tDir (.cache none (.unpin [0x20])) ∧ tTaken tDir (.cache none (.pin [0x20] 1)) ∧ tTaken tDir (.cache none (.discard 1 9)) ∧
    tTaken tDir (.ifetch 3 0x80 0) ∧ (tDir.homeTrip (0x80 * 128) 128 1 5).2 = ⟨none, true⟩ ∧ tTaken tDir (.ifetch 3 (600 * 2 ^ 26) 0) ∧ (tDir.homeTrip (600 * 2 ^ 26 * 128) 128 1 5).2 = ⟨some 0x27, false⟩ ∧
    ((tAway 0x4000 (2 * 2 ^ 33)).homeTrip (0x80 * 128) 128 1 5).2 = ⟨some 0x25, false⟩ := by decide +kernel

theorem test_caches : nget ((tAfter (exec (.icacheFill 50) (tArrive tFetching (.ifill 0x80 (some 7) 0)))).core 0).icache 0x80 = some 7 ∧
    (nget (tAfter (exec (.cacheControlRequest 50) (tArrive tDir (.cache none (.pin [0x20] 1))))).l2 0x20).map (·.pin) = some true := by decide +kernel

/-! ## The copy engine and multicast -/

/-- CTL of an operation on elements of 4 bytes. -/
def tCtl (op : Nat) : Word := BitVec.ofNat 64 (op * 2 ^ 60 + 3 * 2 ^ 56 + 2 * 2 ^ 50 + 2 ^ 44)

/-- Channel 0 of core 0 in a state, configured for an operation on one element from 0x800 to 0x1000. -/
def tChan (op : Nat) (f : Channel → Channel) : State :=
  (tS .c).modChan 0 0 (fun x => f { x with shadow := [(0, tCtl op), (1, 0x800), (2, 0x1000)], act := [(0, tCtl op), (1, 0x800), (2, 0x1000)] })

/-- One segment of elements between plots of core 0. -/
def tSeg (as bs : List Nat) (sc : Option Nat) : Segment := { g := 0, srcs := as.map .ls, dsts := bs.map .ls, scale := sc.map .ls }

theorem test_hyp_channel_registers : (tChan 0 id).noRepeat ∧ (tChan 0 id).me.role = .c ∧ (∀ b, nget (tChan 0 id).here.bound 0 = some b → b = (tChan 0 id).curSlot) ∧ (tChan 0 id).readable .x 11 ∧
    (tChan 0 id).writable .x 5 ∧ ((tChan 0 id).chan 0 0).st = .idle ∧ ((tChan 0 (fun x => { x with st := .cancelling })).chan 0 0).st = .cancelling ∧
    ((tChan 0 (fun x => { x with st := .active, fail := some (0x42, 1) })).chan 0 0).fail ≠ none ∧ ((tChan 0 (fun x => { x with st := .active, next := 1 })).chan 0 0).written = true ∧
    ((tChan 4 (fun x => { x with st := .active, mcSent := true })).chan 0 0).op = 4 ∧ ((tChan 0 (fun x => { x with st := .faulted })).chan 0 0).written = false ∧
    ((tChan 0 (fun x => { x with st := .faulted })).chan 0 0).fail = none := by
  refine ⟨by decide +kernel, by decide +kernel, fun b h => ?_, ?_⟩
  · rw [(by decide +kernel : nget (tChan 0 id).here.bound 0 = none)] at h; cases h
  · decide +kernel

/-- Channel 0 configured for a multicast over a rectangle. -/
def tCast (rect : Word) : State :=
  (tS .c).modChan 0 0 (fun x => { x with shadow := [(0, tCtl 4), (1, 0x800), (2, 0x1000), (3, 0x8000000000000000), (5, 0x0001000000000000 + rect)] })

theorem test_hyp_copy_starts : ((tChan 0 id).releaseFree ∧ (tChan 0 id).resolveScope 1 = some 1 ∧
      ((tChan 0 (fun x => { x with st := .active })).chan 0 0).st ≠ .idle ∧ wf (((tChan 0 id).chan 0 0).shadowReg 0) 60 4 ≠ 4 ∧ wf (((tCast 0x108400).chan 0 0).shadowReg 0) 60 4 = 4 ∧ (rectOut 0x8C00 = true ∨ ∃ n ∈ rectSites 0x8C00, inRect ((tCast 0x8C00).partRect 0) n = false)) ∧
    (∃ u c, (tChan 0 id).pend .x 5 2 false = some (u, some c)) ∧ ∃ u, (tChan 0 id).pend .x 0 2 false = some (u, none) :=
  ⟨by decide +kernel, claim_of (tChan 0 id) .x 5 2 false rfl (by decide), ⟨_, rfl⟩⟩

/-- The checks of R274 in their order, on the shadow set of channel 0: reason and register, with the product of the extents. -/
def tRefusal (s : State) : Option (Nat × Nat) :=
  let x := s.chan 0 0
  let ctl := x.shadowReg 0
  let op := wf ctl 60 4
  let product (n : Nat) : Nat := ((List.range n).map (fun d => wf (x.shadowReg (8 + d)) 0 32)).prod
  if 5 ≤ op then some (1, 0) else if 2 ^ 40 ≤ product 6 then some (2, 8 + ((List.range 6).find? (fun d => 2 ^ 40 ≤ product (d + 1))).getD 0)
  else if op = 3 ∧ wf (x.shadowReg 8) 0 32 % 32 ≠ 0 then some (2, 8) else none

/-- The same channel with other shadow registers. -/
def tShadow (l : List (Nat × Word)) : State := (tChan 0 id).modChan 0 0 (fun x => { x with shadow := l.foldl (fun m p => nput m p.1 p.2) x.shadow })

theorem test_hyp_refusals : tRefusal (tChan 0 id) = none ∧ tRefusal (tChan 5 id) = some (1, 0) ∧ tRefusal (tChan 3 id) = some (2, 8) ∧ tRefusal (tShadow [(8, 0x10000), (9, 0x10000), (10, 0x10000)]) = some (2, 10) ∧
    ((tChan 0 id).modMe (fun t => { t with stfail := 0x8000000000000000 })).me.stfail.getLsbD 63 = true ∧
    (let s := (tChan 0 id).modMe (fun t => { t with ordctl := 0xC000000000000000 }); s.me.stfail.getLsbD 63 = false ∧ s.me.ordctl.getLsbD 63 = true ∧ s.me.ordctl.getLsbD 62 = true) ∧
    ((tS .t).me.role = .t) ∧ (let s := (tChan 0 id).modHere (fun k => { k with bound := [(0, 5)] }); nget s.here.bound 0 = some 5 ∧ 5 ≠ s.curSlot) := by decide +kernel

/-- What CPGO answers to each configuration: cause 50 with reason, channel and register (R274); causes 7, 31 and 29. -/
theorem test_refusals : (let f (l : List (Nat × Word)) : Word × Word := let t := tAfter (exec (.cpgo 0 5) (tShadow l)); (t.me.tcause, t.me.tval)
      (f [(0, tCtl 5)], f [(8, 0x10000), (9, 0x10000), (10, 0x10000)], f [(0, tCtl 0 + 2 ^ 49)], f [(0, tCtl 0 + 2 ^ 48), (2, 0x100000)]) =
        ((50, 0x0100000000000000), (50, 0x020000000000000A), (50, 0x0300000000000000), (50, 0x0300000000000002)) ∧
      (f [(0, tCtl 0 + 4 * 2 ^ 44)], f [(3, 0x8000000000300000)]) = ((50, 0x0400000000000000), (50, 0x0500000000000003))) ∧
    (tAfter (exec (.cpgo 0 5) ((tChan 0 id).modMe (fun t => { t with stfail := 0x8000000000000040 })))).me.tcause = 7 ∧
    (tAfter (exec (.cpgo 0 5) ((tChan 0 id).modMe (fun t => { t with ordctl := 0xC000000000000040 })))).me.tval = 0x40 ∧
    (tAfter (exec (.cpcancel 0) ((tChan 0 id).modHere (fun k => { k with bound := [(0, 5)] })))).me.tcause = 29 := by decide +kernel

/-- The seed of rounding, the STATUS word of an active channel, and a start (R270, R271, R274). -/
theorem test_channel_registers : ((tAfter (exec (.cpw 0 26 11) (tChan 0 id))).chan 0 0).srseed = 7 ∧
    ((tAfter (exec (.cpr 0 28 5) (tChan 0 (fun x => { x with st := .active, slot := 3, bytes := 9 })))).me.xr 5).val = 0x4300000000000009 ∧
    ((tAfter (exec (.cpcancel 0) (tChan 0 (fun x => { x with st := .active })))).chan 0 0).st = .cancelling ∧
    ((tAfter (exec (.cpgo 0 5) (tChan 0 id))).chan 0 0).st = .active ∧ (tAfter (exec (.cpgo 0 5) (tChan 3 id))).me.tval = 0x0200000000000008 := by decide +kernel

theorem test_hyp_segments : (∀ op ∈ [0, 1, 2, 3], (tChan op (fun x => { x with st := .active, act := x.act ++ [(8, 32)] })).mayStart 0 0 = true) ∧
    (∀ op ∈ [0, 1, 2], let x := (tChan op (fun x => { x with st := .active, started := [tSeg [0x800] [0x1000] none] })).chan 0 0;
      x.op = op ∧ x.es = 4 ∧ x.st ≠ .idle ∧ x.started[0]? = some (tSeg [0x800] [0x1000] none) ∧ x.blockedBy 0 (tSeg [0x800] [0x1000] none) = false ∧ x.started.length ≤ 1) ∧
    (let x := (tChan 3 (fun x => { x with st := .active, started := [tSeg [0x800] [0x1000] (some 0x1800)] })).chan 0 0;
      x.op = 3 ∧ x.started[0]? = some (tSeg [0x800] [0x1000] (some 0x1800)) ∧ x.blockedBy 0 (tSeg [0x800] [0x1000] (some 0x1800)) = false) := by decide +kernel

/-- Channel 0 ACTIVE on a box of 2 × 3 elements whose source rows lie 0x100 apart, with more registers set. -/
def tBoxed (op : Nat) (l : List (Nat × Word)) (f : Channel → Channel := id) : State :=
  (tChan op (fun x => f { x with st := .active, slot := 3, act := l.foldl (fun m p => nput m p.1 p.2) (x.act ++ [(8, 2), (9, 3), (14, 4), (15, 0x100), (20, 4), (21, 8)]) })).modCore 0
    (fun k => { k with owners := [(0, true), (1, true), (2, true)], pair := 0xFFFF0011 })

theorem test_hyp_elements : (∀ d, d < 6 → ([1, 2, 0, 0, 0, 0].getD d 0) < wf (((tBoxed 0 []).chan 0 0).reg (8 + d)) 0 32) ∧ 5 = 1 + 2 * (2 + 3 * (0 + 1 * (0 + 1 * (0 + 1 * 0)))) ∧
    (5 < ((tBoxed 0 []).chan 0 0).total ∧ ((tBoxed 0 []).chan 0 0).op ≠ 3 ∧ ((tBoxed 3 []).chan 0 0).op = 3) := by decide +kernel

/-- Element 5 of the box is (1, 2); the six elements lie in one page and make one segment, that a step of a page would cut (R276, R277). -/
theorem test_elements : (let x := (tBoxed 0 []).chan 0 0; (x.srcVA 5, x.dstVA 5, x.runLen 0) = (0xA04, 0x1014, 6)) ∧ ((tBoxed 0 [(15, 0x1000)]).chan 0 0).runLen 0 = 2 := by decide +kernel

theorem test_hyp_locations : (∀ s ∈ [tBoxed 0 [], tRanged (fun r => { r with perms := 0 })], (s.chan 0 0).walkWait = none ∧ (s.chan 0 0).walkOut = none ∧ (s.core 0).rangeFor 0x10000040 ≠ none) ∧
    (tBoxed 0 []).here.rangeFor 0x20000000 = none ∧ ((tBoxed 0 [] (fun x => { x with walkWait := some 1, walkOut := some ⟨0x10000000, 1, 0, 0⟩, rewalked := some 0x10000040 })).chan 0 0).walkWait ≠ none ∧
    permits { tEntry.slot with perms := 0 } .copyR = false ∧ permits tEntry.slot .copyW = true := by decide +kernel

/-- What an address of a copy resolves to, and what stops it (R276, R293). -/
theorem test_locations : (let f (s : State) (va : Word) : Nat × List Loc := match s.chanLoc 0 0 va .copyR with | .loc _ l => (0, [l]) | .wait _ => (100, []) | .fault _ r => (r, [])
      (f (tBoxed 0 []) 0x40, f (tBoxed 0 []) 0x10000040, f (tBoxed 0 []) 0xFFFF00000000, f (tBoxed 0 []) 0x20000000) = ((0, [.ls 0x40]), (0, [.phys 0x10000040 tEntry.slot.attr]), (9, []), (100, [])) ∧
      f (tRanged (fun r => { r with perms := 0 })) 0x10000040 = (2, [])) ∧
    (match resolveAll 0 0 .copyR 4 [0x40, 0x42] (tBoxed 0 []) [] with | .inr (va, .fault _ r) => (va, r) | _ => (0, 0)) = (0x42, 8) := by decide +kernel

/-- The starts of a segment: done, OWNER, a misaligned source, one to another module that a gap in its destination cuts, and RMA_OP of a REMOTE source. -/
def tRemote (f : RangeSlot → RangeSlot := id) : RangeEntry := { tEntry with slot := f { tEntry.slot with attrs := 1, rmod := 2, perms := 0x1A } }
def tToModule (op : Nat) (l : List (Nat × Word)) : State := (tBoxed op l).modHere (fun k => { k with ranges := [tRemote] })

theorem test_hyp_starts : (let n (s : State) : Option Nat := ((s.core 0).channels.head?).map (fun p => p.2.next); n (tBoxed 0 []) = some 0) ∧ ((tBoxed 0 []).chan 0 0).op ≠ 2 ∧
    ((tBoxed 2 []).chan 0 0).scaleWord = none ∧ ((tBoxed 2 [] (fun x => { x with scaleWord := some 0 })).chan 0 0).scaleWord.isSome = true ∧ ((tToModule 0 []).chan 0 0).rmod = none ∧
    ((tToModule 0 []).chan 0 0).sysWaits.any ((tToModule 0 []).core 0).outstanding = false ∧
    (match resolveAll 0 0 .copyW 4 [0x10000040] (tToModule 0 []) [] with | .inl (_, l) => l | _ => []) = [.remote 2 0x10000040 0x10000040] := by decide +kernel

theorem test_starts : (let t := (tBoxed 0 []).startSegment 0 0; ((t.chan 0 0).next, (t.chan 0 0).started.map (fun g => (g.g, g.srcs.length)), (t.core 0).inUse) = (6, [(0, 6)], [(0, 1), (1, 1)])) ∧
    ((tBoxed 0 [(1, 0x3000)]).startSegment 0 0).chan 0 0 = { (tBoxed 0 [(1, 0x3000)]).chan 0 0 with fail := some (0x41, 0x3000) } ∧
    (let t := (tBoxed 0 [(1, 0x802)]).startSegment 0 0; let x := t.chan 0 0; (x.st, x.side, x.reason, x.faddr) = (.faulted, 0, 8, 0x802)) ∧
    (let t := (tToModule 0 [(2, 0x10000040), (20, 4), (21, 16)]).startSegment 0 0; let x := t.chan 0 0; (x.next, x.cls, x.rmod, x.scope) = (2, 7, some 2, 4)) ∧
    (let t := (tToModule 2 [(2, 0x10000040), (6, 0x800)]).startSegment 0 0; (t.chan 0 0).fail = some (0x46, 0x10000040)) := by decide +kernel

/-- What a segment of one element leaves: 1.0 copied over 2.0, or added to it (R279, R282). -/
def tMoved (op : Nat) (e : Instr) : Memory :=
  ((tAfter (exec e ((tChan op (fun x => { x with st := .active, scaleWord := some 0x3F800000, next := 1, started := [tSeg [0x800] [0x1000] none] })).modCore 0
    (fun k => { k with ls := memWrite (memWrite [] 0x800 4 0x3F800000) 0x1000 4 0x40000000 })))).core 0).ls

theorem test_segments : memRead (tMoved 0 (.copy 0 0 0)) 0x1000 4 = 0x3F800000 ∧ memRead (tMoved 1 (.redadd 0 0 0)) 0x1000 4 = 0x40400000 := by decide +kernel

/-- A copy all of whose elements are written, with a future. -/
def tDone (f : Channel → Channel) : State := (tChan 0 (fun x => f { x with st := .active, next := 1, claim := some 3, cls := 2, scope := 1, bytes := 4 })).modCore 0 (fun k => { k with claims := [(3, { target := .slot, cls := 2, cancellable := false, slot := 3, file := .x, reg := 5, watch := 0, lost := false })] })

theorem test_hyp_copy_ends :
    (let s := tDone id; let x := s.chan 0 0;
     x.op ≠ 4 ∧ x.started = [] ∧ x.outstanding = 0 ∧ x.st = .active ∧ (s.core 0).chanHeld x = false ∧ x.fail = none ∧ x.next = x.total ∧ s.flipsWait 0 x = false ∧ x.claim = some 3 ∧ x.scope < 2) ∧
    (let s := tDone (fun x => { x with fail := some (0x42, 1) }); let x := s.chan 0 0; x.fail ≠ none ∧ x.st = .active ∧ (s.core 0).chanHeld x = false) ∧
    ((tDone (fun x => { x with st := .cancelling })).chan 0 0).st = .cancelling ∧
    (let x := (tDone (fun x => { x with st := .faulted, fail := some (0x42, 1) })).chan 0 0; x.st = .faulted ∧ x.fail ≠ none) ∧
    (let s := (tDone (fun x => { x with act := (0, tCtl 0 + 2 ^ 42) :: x.act, srcPlots := [1] })).modCore 0 (fun k => { k with inUse := [(1, 2)] });
      (s.amaxFold 0 0).2 = true ∧ (s.amaxFold 0 0).1.flipsWait 0 ((s.amaxFold 0 0).1.chan 0 0) = true) ∧
    ((tChan 2 (fun x => { x with st := .active, next := 1, act := (0, tCtl 2 + 2 ^ 43) :: x.act })).amaxFold 0 0).2 = false ∧
    (∀ f ∈ ([fun x => { x with st := .cancelling }, fun x => { x with fail := some (0x42, 1) }] : List (Channel → Channel)), ((tDone (fun x => { f x with edge := [(0x1000, 7)] })).chan 0 0).edge ≠ []) ∧
    (let s := tDone (fun x => { x with act := (0, tCtl 0 + 2 ^ 41) :: x.act, farPlots := [(0x11, 4)] });
      (s.chan 0 0).farFlips 0 ≠ [] ∧ (s.amaxFold 0 0).2 = true ∧ s.flipsWait 0 (s.chan 0 0) = false ∧ ((tDone id).chan 0 0).farFlips 0 = []) ∧
    ((tDone (fun x => { x with flipSent := true })).chan 0 0).flipSent = true := by decide +kernel

theorem test_copy_ends : ((tAfter (exec (.copyEnd 0 0) (tDone id))).core 0).deliveries = [⟨3, 5000, .value 4⟩] ∧
    ((tAfter (exec (.copyEnd 0 0) (tDone (fun x => { x with st := .cancelling })))).core 0).deliveries = [⟨3, 5000, .value 0x200000000000004⟩] := by decide +kernel

/-- The barrier event of a copy that ends: none, at the own core, or at another. -/
theorem test_hyp_copy_event : (∀ l ∈ ([[], [(3, 0x8000000000010010)], [(3, 0x8000000000010011)]] : List (List (Nat × Word))), ((tBoxed 0 l).chan 0 0).op ≠ 4) ∧
    (let b (l : List (Nat × Word)) : Word := ((tBoxed 0 l).chan 0 0).reg 3;
      (b []).getLsbD 63 = false ∧ (b [(3, 0x8000000000010010)]).getLsbD 63 = true ∧ BitVec.ofNat 16 (wf (b [(3, 0x8000000000010010)]) 0 16) = (tBoxed 0 []).coreName 0 ∧
      BitVec.ofNat 16 (wf (b [(3, 0x8000000000010011)]) 0 16) ≠ (0xFFFF : BitVec 16) ∧ BitVec.ofNat 16 (wf (b [(3, 0x8000000000010011)]) 0 16) ≠ (tBoxed 0 []).coreName 0) ∧
    (let s := tDone (fun x => { x with evSent := true }); (s.chan 0 0).evSent = true ∧ s.eventFlies 0 0 = false ∧
      ({ s with flights := [{ tFlight (.core 0) (.name 0x11) (.barEvent 0 0 1 1 0) with st := .moving }] } : State).eventFlies 0 0 = true ∧
      (({ s with flights := [tFlight (.core 0) (.name 0x11) (.barEvent 0 0 1 1 0)] } : State).findFlight 50 = some (tFlight (.core 0) (.name 0x11) (.barEvent 0 0 1 1 0)))) ∧
    ((tDone (fun x => { x with st := .cancelling, edgeScale := [(0x1000, 7)] })).chan 0 0).edgeScale ≠ [] := by decide +kernel

/-- A copy whose event meets a code is poisoned with it, the class of its claim before (R285). -/
theorem test_copy_event : ((tAfter (exec (.copyEnd 0 0) (tDone (fun x => { x with evSent := true, evFail := some (0x20, 0x11) })))).core 0).deliveries = [⟨3, 5000, .poison (descriptor 2 0x20 0x11)⟩] ∧
    (tAfter (exec (.copyEnd 0 0) (tDone (fun x => { x with act := (3, 0x8000000000010011) :: x.act })))).flights.map (fun f => (f.dest, f.body)) = [(.name 0x11, .barEvent 0 0 1 1 1)] := by decide +kernel

/-- Core 0 whose plot of address 0x800 is the engines'. -/
def tOwned : State := (tS .c).modCore 0 (fun k => { k with owners := [(plotOf 0x800, true)] })

/-- The packet from core 0 for core 0 by its coordinates, that leaves a barrier event or bytes. -/
theorem test_hyp_arriving : tTaken tOwned (.segment 0 [(0x800, 1)] []) ∧ (tOwned.core 0).engineOwned 0x800 = true ∧ tOwned.reservedPlot 0 (plotOf 0x800) = false ∧
    (tArrive (tS .c) (.segment 0 [(0x800, 1)] [])).notEngine 0 [0x800] = some 0x800 ∧ tTaken (tS .c) (.segment 0 [(0x800, 1)] []) ∧ tTaken (tS .c) (.barEvent 0 0 1 1 0) ∧
    (tFlight (.core 0) (.coords 0) (.barEvent 0 0 1 1 0)).destCore = 0 ∧ tTaken tOwned (.flip 0 [0]) ∧ (∀ p ∈ [0], (tArrive tOwned (.flip 0 [0])).plotInUse 0 p = false) ∧
    (∃ p ∈ [0], ((tArrive tOwned (.flip 0 [0])).modCore 0 (fun k => { k with inUse := [(0, 1)] })).plotInUse 0 p = true) := by decide +kernel

/-- Plots that a copy of another core returns are the threads' (R278). -/
theorem test_far_flip : ((tAfter (exec (.inboundSegment 50) (tArrive tOwned (.flip 0 [0])))).core 0).engineOwned 0x800 = false := by decide +kernel

theorem test_arriving : ((tAfter (exec (.inboundSegment 50) (tArrive tOwned (.segment 0 [(0x800, 9)] [])))).core 0).ls = [(0x800, 9)] := by decide +kernel

/-- A multicast that has opened for one receiver, core 5. -/
def tMc (f : Channel → Channel) : State :=
  (tS .c).modChan 0 0 (fun x => f { x with st := .active, act := [(0, tCtl 4), (1, 0x800), (2, 0x1000), (8, 2)], mcOpen := true, receivers := [⟨5, false, false, false, 0⟩] }) |>.modCore 0 (fun k => { k with owners := [(plotOf 0x800, true), (plotOf 0x1000, true)] })

/-- A segment for the receivers of a multicast. -/
def tFar : Segment := { g := 0, srcs := [.ls 0x800], dsts := [.far 0xFFFF 0x1000], scale := none }

theorem test_hyp_multicast : ((tMc (fun x => { x with mcOpen := false })).mayOpen 0 0 = true) ∧ (tMc id).mayOpen 0 0 = false ∧ (tMc id).mayStart 0 0 = true ∧ ((tMc id).chan 0 0).op = 4 ∧
    ((tMc id).chan 0 0).st = .active ∧ ((tMc id).chan 0 0).started.length ≤ 0 ∧ ((tMc id).chan 0 0).receivers ≠ [] ∧
    (let x := (tMc (fun x => { x with started := [tFar], next := 1 })).chan 0 0;
     x.started[0]? = some tFar ∧ x.blockedBy 0 tFar = false ∧ tFar.srcs = [0x800].map .ls ∧ tFar.dsts = [0x1000].map (.far 0xFFFF) ∧ tFar.scale = none ∧ x.receivers = [⟨5, false, false, false, 0⟩] ∧ x.next ≠ x.total) := by decide +kernel

/-- Two receivers of one site pass its router, which waits for two messages; from it one passes the sender's (R289). -/
theorem test_combines : let s : State := { tS .c with sites := [(0, tSite), (1, { tSite with name := 2 })] }
    ((s.allocCombines 0 0x10 1 [16, 17]).site 1).combines = [{ sender := 0x10, bar := 1, expect := 2, got := 0, sum := 0 }] ∧
    ((s.allocCombines 0 0x10 1 [16, 17]).site 0).combines = [] ∧ ((s.allocCombines 0 0x10 1 [5, 16]).site 0).combines = [{ sender := 0x10, bar := 1, expect := 2, got := 0, sum := 0 }] := by
  decide +kernel

/-- The replica at core 5, whose plot at 0x800 is the engines', and the last one, which flips it. -/
def tAt5 : State := (tMc id).modCore 5 (fun k => { k with owners := [(plotOf 0x800, true)] })

theorem test_hyp_replicas : tTaken tAt5 (.replica 0 [5] 0x10 1 [(0x800, 1)] none) ∧ (tAt5.chan 0 0).receivers.any (fun r => r.core == 5 && !r.closed) = true ∧ (tAt5.core 5).engineOwned 0x800 = true ∧
    tAt5.reservedPlot 5 (plotOf 0x800) = false ∧ (tAt5.core 5).inbound.length < 16 ∧ (tArrive (tMc id) (.replica 0 [5] 0x10 1 [(0x800, 1)] none)).notEngine 5 [0x800] = some 0x800 ∧
    tTaken (tMc id) (.replica 0 [5] 0x10 1 [(0x800, 1)] none) ∧
    tTaken tAt5 (.replica 0 [5] 0x10 1 [] (some ([plotOf 0x800], none, 4))) ∧ (∀ p ∈ [plotOf 0x800], tAt5.plotInUse 5 p = false) ∧
    ((tAt5.modCore 5 (fun k => { k with inUse := [(plotOf 0x800, 1)] })).plotInUse 5 (plotOf 0x800) = true) ∧
    16 ≤ ((tAt5.modCore 5 (fun k => { k with inbound := List.replicate 16 (0, 0) })).core 5).inbound.length ∧
    (tAt5.chan 0 1).receivers.any (fun r => r.core == 5 && !r.closed) = false ∧ tTaken tAt5 (.replica 1 [5] 0x10 1 [(0x800, 1)] none) := by decide +kernel

/-- Multicasts that have sent everything: cancelled, without receivers, refused, and well ended with a plot to return or not. -/
theorem test_hyp_multicast_ends : (∀ f ∈ ([fun x => { x with st := .cancelling }, fun x => { x with receivers := [] }, fun x => { x with fail := some (0x42, 1) }, fun x => { x with mcFail := some (0x42, 1) },
      fun x => x] : List (Channel → Channel)), let s := tMc (fun x => { f { x with next := 2, receivers := [⟨5, true, true, true, 0⟩] } with act := (8, 2) :: x.act });
      let x := s.chan 0 0; x.op = 4 ∧ x.started = [] ∧ x.outstanding = 0 ∧ x.mcOpen = true ∧ s.replicasOut 0 0 = false ∧ (s.core 0).chanHeld x = false ∧ x.total ≠ 0 ∧ x.next = x.total) ∧
    (let s := tMc (fun x => { x with next := 2, act := (0, tCtl 4 + 2 ^ 42) :: x.act, srcPlots := [1] });
      s.flipsWait 0 (s.chan 0 0) = false ∧ (s.modCore 0 (fun k => { k with inUse := [(1, 2)] })).flipsWait 0 (s.chan 0 0) = true) := by decide +kernel

/-- A cancelled multicast one of whose segments failed ends CANCELLED with the bytes written (R295). -/
def tMcCut : State := tMc (fun x => { x with st := .cancelling, next := 1, claim := some 3, scope := 1, bytes := 4, fail := some (0x42, 1) })

theorem test_hyp_multicast_cancelled : let s := tMcCut; let x := s.chan 0 0
    x.op = 4 ∧ x.started = [] ∧ x.outstanding = 0 ∧ x.mcOpen = true ∧ s.replicasOut 0 0 = false ∧ x.edge = [] ∧ x.edgeAdds = [] ∧ x.st = .cancelling ∧ x.claim = some 3 ∧ x.scope < 2 := by
  decide +kernel
theorem test_multicast_cancelled : ((tAfter (exec (.copyEnd 0 0) tMcCut)).core 0).deliveries = [⟨3, 5000, .value 0x200000000000004⟩] := by decide +kernel

/-- A receiver's answer closes it and adds its bytes; a refusal is the multicast's failure (R287, R291). -/
theorem test_multicast_answer : (((tMc id).takeMcAns 0 0 5 8 (some (true, none))).chan 0 0).receivers = [⟨5, true, true, true, 8⟩] ∧
    (((tMc id).takeMcAns 0 0 5 0 (some (false, some (0x43, 0)))).chan 0 0).mcFail = some (0x43, 0) := by decide +kernel

theorem test_multicast :
    (let t := tAfter (exec (.mcastReceive 50) (tArrive tAt5 (.replica 0 [5] 0x10 1 [(0x800, 7)] (some ([plotOf 0x800], none, 4)))))
     (t.core 5).inbound = [(0x10, 1)] ∧ (t.core 5).engineOwned 0x800 = false ∧ ((t.chan 0 0).receivers.map (·.closed)) = [true] ∧
       t.flights.map (fun f => (f.cls, f.body)) = [(.response, .mcAns 0 5 1 (some (true, none)))]) ∧
    ((tAfter (exec (.mcastReceive 50) (tArrive tAt5 (.replica 0 [5] 0x10 1 [(0x800, 7)] none)))).core 5).ls = [(0x800, 7)] := by decide +kernel

/-- x11 names entry (7, 0) of the inbound table, which stands in the first of these. -/
theorem test_hyp_buffer_free : (7, 0) ∈ ((tS .c).modHere (fun k => { k with inbound := [(7, 0)] })).here.inbound ∧ (7, 0) ∉ (tS .c).here.inbound ∧
    (BitVec.ofNat 16 (wf ((tS .c).xv 11) 0 16), BitVec.ofNat 6 (wf ((tS .c).xv 11) 16 6)) = ((7, 0) : BitVec 16 × BitVec 6) ∧ (tS .c).noRepeat ∧ (tS .c).readable .x 11 ∧ (tS .c).me.role = .c ∧
    tTaken (tS .c) (.bufFree 7 0 2) ∧ nget (((tS .c).modCore 0 (fun k => { k with mcasts := [(1, (1, some 3))] })).core 0).mcasts 1 = some (1, some 3) := by decide +kernel

theorem test_buffer_free : (tAfter (exec (.mcfree 11) ((tS .c).modHere (fun k => { k with inbound := [(7, 0)] })))).here.inbound = [] := by decide +kernel

/-! ## Tasks, messages, timers and bit streams -/

/-- A launch with tasks, in which cores steal from the cores of their site. -/
def tTaskLaunch : Launch := { placeLaunch with tasks := true, stealen := true, levels := [{ valid := true, domain := 2, scope := 1, extent := 16 }] }

/-- The small state of slot 3 under that launch. -/
def tTask (t : Slot) (f : Core → Core) : State :=
  { tState (f (tCore t)) with sites := [(0, { tSite with launch := some tTaskLaunch })] }

/-- Eight dwords of a record: entry 0x40, priority 1, role 0, stealable, tag 5. -/
def tRec : List Word := [0x5000000000040, 0x50000, 11, 12, 13, 14, 15, 16]

def tT : State := tTask (tSlot .s) id

theorem test_hyp_spawn : ((tT.noRepeat ∧ notT tT.me.role = true ∧ (∀ n ∈ [10, 11, 12, 17], tT.readable .x n) ∧ tT.writable .x 5 ∧ 0xFFFC0 < (tT.xv 12).toNat) ∧
      ((tT.xv 17).toNat ≤ 0xFFFC0 ∧ (tT.xv 17).toNat % 64 ≠ 0 ∧ (tT.xv 10).toNat % 64 = 0 ∧ tT.tasksOn 0 = true ∧ (tS .s).tasksOn 0 = false) ∧
      (malformedRec 0 0 = false ∧ malformedRec (lsWords tT.here.ls 0x140 8).head! 0 = false ∧ malformedRec ((lsWords (memWrite [] 0x147 1 0x80) 0x140 8).getD 0 0) 0 = true) ∧
      (tT.here.deque 0).length = 0 ∧ ((tTask (tSlot .s) (fun k => { k with deques := [(0, List.replicate 256 ⟨[], 0, false, none⟩)] })).here.deque 0).length = 256) ∧
    (tT.bytesPass false (span (tT.xv 10).toNat 64) ∧ (tS .s).bytesPass false (span (tT.xv 10).toNat 64)) ∧
    (∃ u c, tT.pend .x 5 6 false = some (u, some c)) ∧ ∃ u c, (tS .s).pend .x 5 6 false = some (u, some c) :=
  ⟨by decide +kernel, ⟨bytesPass_of _ _ _ (by decide +kernel), bytesPass_of _ _ _ (by decide +kernel)⟩, claim_of _ .x 5 6 false rfl (by decide), claim_of _ .x 5 6 false rfl (by decide)⟩

/-- SPAWN of a record of zeros answers OK with the depth 1; on a core without tasks it answers OFF (R316, R318). -/
theorem test_spawn : (tAfter (exec (.spawn 10 5) tT)).here.deliveries.map (fun d => (d.due, d.val)) = [(5000, .value 0x100000000)] ∧
    ((tAfter (exec (.spawn 10 5) tT)).here.deque 0).length = 1 ∧ (tAfter (exec (.spawn 10 5) (tS .s))).here.deliveries.map (·.val) = [.value 0x200000000000000] := by decide +kernel

theorem test_hyp_sends : tT.me.specOpen = false ∧ (tTask { tSlot .s with specOpen := true } id).me.hold.length < 32 ∧
    32 ≤ (tTask { tSlot .s with specOpen := true, hold := List.replicate 32 ⟨true, 0, 0, none, []⟩ } id).me.hold.length ∧
    (∃ u c, (tTask { tSlot .s with specOpen := true } id).pend .x 5 6 false = some (u, some c) ∧ u.me.specOpen = true) := by
  refine ⟨by decide +kernel, by decide +kernel, by decide +kernel, ?_⟩
  obtain ⟨u, c, h⟩ := claim_of (tTask { tSlot .s with specOpen := true } id) .x 5 6 false rfl (by decide)
  have e : ((tTask { tSlot .s with specOpen := true } id).pend .x 5 6 false).map (·.1.me.specOpen) = some true := by decide +kernel
  rw [h] at e
  exact ⟨u, c, h, by simpa using e⟩

/-- SENDT while a speculation is open is held, and SPECA drops it (R327). -/
theorem test_sends : (tAfter (exec (.sendt 10 11 5) (tTask { tSlot .s with specOpen := true } id))).me.hold.length = 1 ∧
    (tAfter (exec (.sendt 10 11 5) tT)).flights.map (·.dest) = [.name 7] ∧ (tAfter (exec .specb tT)).me.specOpen = true ∧
    (tAfter (exec .speca (tTask { tSlot .s with specOpen := true, hold := [⟨true, 0, 0, none, []⟩] } id))).me.hold = [] := by decide +kernel

theorem test_hyp_landings : tTaken tT (.send none 3 tRec) ∧ tTaken (tS .s) (.send none 3 tRec) ∧ tT.tooSoon (tFlight (.core 0) (.coords 0) (.send none 3 tRec)) = false ∧ (tT.core 0).inboxFree = some 0 ∧
    ((tTask (tSlot .s) (fun k => { k with inboxReserved := List.range 16 })).core 0).inboxFree = none ∧ tTaken tT (.sendt none 3 9 0x10 tRec.tail) ∧
    tT.tooSoon (tFlight (.core 0) (.coords 0) (.sendt none 3 9 0x10 tRec.tail)) = false ∧
    (let s := tTask { tSlot .s with tag := 9 } id; wf (s.slot 0 3).tag 0 32 = 9 ∧ ∀ m, m < 3 → wf (s.slot 0 m).tag 0 32 ≠ 9) ∧
    (∀ n, n < 16 → wf (tT.slot 0 n).tag 0 32 ≠ 9) ∧ tT.here.savedTags = [] := by decide +kernel

/-- Core 0 with a context whose mailbox is free or full, in the cache and in an image at 0x400 that is still to be written or has been. -/
def tMailed (m : NMap MailState) (written : Bool) : State :=
  tTask (tSlot .s) (fun k => { k with ctx := [(31, { tSaved with mail := m })], images := [⟨.ls 0x400, 0, { tSaved with mail := m }, written⟩], savedTags := [(9, .cache 31)] })

theorem test_hyp_saved_landings : (tMailed [] true).tasksOn 0 = true ∧ (∀ n, n < 16 → wf ((tMailed [] true).slot 0 n).tag 0 32 ≠ 9) ∧
    ((tMailed [] true).core 0).savedTags.find? (fun q => q.1 == 9) = some (9, .cache 31) ∧ nget ((tMailed [] true).core 0).ctx 31 = some { tSaved with mail := [] } ∧
    (let free (m : NMap MailState) : Option Nat := (List.range 4).find? (fun k => (nget m k).getD .free == .free);
      free [] = some 0 ∧ free ((List.range 4).map (fun k => (k, .held))) = none ∧ free [(0, .taken)] = some 1) ∧
    ((tMailed [] false).core 0).images.find? (fun i => i.place.key == CtxPlace.key (.ls 0x400) && !i.written) = some ⟨.ls 0x400, 0, { tSaved with mail := [] }, false⟩ ∧
    ((tMailed [] true).core 0).images.find? (fun i => i.place.key == CtxPlace.key (.ls 0x400) && !i.written) = none := by decide +kernel

/-- A tagged message for a saved context is HELD in its mailbox, in an image by its bytes: entry 0 at 0x200 (R323, R325). -/
theorem test_saved_landings : (let t := (tMailed [] true).toSaved 0 (.cache 31) 9 0x10 tRec.tail
      ((nget (t.1.core 0).ctx 31).map (fun v => (v.mail, v.mailOrder)), t.2) = (some ([(0, .held)], [0]), 0)) ∧
    ((tMailed ((List.range 4).map (fun k => (k, .held))) true).toSaved 0 (.cache 31) 9 0x10 tRec.tail).2 = 1 ∧
    memRead (((tMailed [] true).toSaved 0 (.ls 0x400) 9 0x10 tRec.tail).1.core 0).ls 0x608 8 = 0x50000 := by decide +kernel

/-- Slot 3 with its mailbox as given, and the pound empty or full. -/
def tBox (f : Slot → Slot) : State := tTask (f (tSlot .s)) id
def tPound : State := tTask (tSlot .s) (fun k => { k with ls := (List.range 64).foldl (fun m i => memSet m (0xFD000 + 0x40 * i + 7) 0x80) [] })

theorem test_hyp_mailbox : (let free (m : NMap MailState) : Option Nat := (List.range 4).find? (fun k => (nget m k).getD .free == .free);
      free ((tBox id).slot 0 3).mail = some 0 ∧ free ((tBox (fun t => { t with mail := [(0, .held), (1, .taken), (2, .held), (3, .held)] })).slot 0 3).mail = none) ∧
    (let t := (tBox (fun t => { t with recvClaim := some 4, recvDrop := some 5000 })).slot 0 3; t.recvClaim = some 4 ∧ t.mailOrder = [] ∧ t.recvDrop = some ((tBox id).core 0).cycle) ∧
    ((tBox id).slot 0 3).recvClaim = none ∧ ((tBox id).slot 0 3).recvDrop ≠ some ((tBox id).core 0).cycle ∧
    (let ready (m : Memory) : Option Nat := (List.range 64).find? (fun i => (memGet m (0xFD000 + 0x40 * i + 7)).getLsbD 7 == false);
      ready (tT.core 0).ls = some 0 ∧ ready (tPound.core 0).ls = none) ∧
    (∃ l, tT.launchOf 0 = some l ∧ l.pqen = false) ∧ ∃ l, ({ tT with sites := [(0, { tSite with launch := some { tTaskLaunch with pqen := true } })] } : State).launchOf 0 = some l ∧ l.pqen = true :=
  ⟨by decide +kernel, by decide +kernel, by decide +kernel, by decide +kernel, by decide +kernel, ⟨_, rfl, rfl⟩, ⟨_, rfl, rfl⟩⟩

/-- A message takes mailbox entry 0 and wakes the waiting RECVF in the next cycle; in the pound it takes entry 0, and in a full one it is LOST (R323, R324, R326). -/
theorem test_mailbox : (let r := (tBox (fun t => { t with recvClaim := some 4 })).toMailbox 0 3 9 0x10 tRec.tail
      (r.2, (r.1.core 0).deliveries.map (fun d => (d.claim, d.due, d.val)), (r.1.slot 0 3).mail) = (0, [(4, 5001, .value 0xFC300)], [(0, .taken)])) ∧
    (let r := tT.toPound 0 9 0x10 tRec.tail; (r.2, memRead (r.1.core 0).ls 0xFD000 8) = (4, 0x8000000000090010)) ∧
    (let r := tPound.toPound 0 9 0x10 tRec.tail; (r.2, (r.1.core 0).poundReg) = (7, 0x8000001000000009)) := by decide +kernel

/-- A record that lands fills inbox record 0; a tagged message for an unknown tag goes to the pound (R320, R326). -/
theorem test_landings : (tAfter (exec (.sendLanding 50) (tArrive tT (.send none 3 tRec)))).here.inboxOrder = [0] ∧
    ((tAfter (exec (.sendtLanding 50) (tArrive (tTask { tSlot .s with tag := 9 } id) (.sendt none 3 9 0x10 tRec.tail)))).slot 0 3).mailOrder = [0] := by decide +kernel

theorem test_hyp_receives : (tT.me.recvClaim.bind (nget tT.here.claims) = none ∧ tT.me.mailOrder = [] ∧ (tTask { tSlot .s with mail := [(2, .held)], mailOrder := [2] } id).me.mailOrder = [2] ∧
      (let cl : Claim := { target := .slot, cls := 6, cancellable := true, slot := 3, file := .x, reg := 5, watch := 0, lost := false };
        let s := tTask { tSlot .s with recvClaim := some 4 } (fun k => { k with claims := [(4, cl)] }); s.me.recvClaim.bind (nget s.here.claims) = some cl) ∧
      ((tTask (tSlot .s) (fun k => { k with timers := [(4, 5000, 4000)] })).core 0).timers.find? (fun t => t.1 == 4) = some (4, 5000, 4000) ∧
      ((tTask (tSlot .s) (fun k => { k with timers := [(4, 5001, 4000)] })).core 0).timers.find? (fun t => t.1 == 4) = some (4, 5001, 4000) ∧ (tT.core 0).cycle = 5000) ∧
    (∃ u c, (tS .s).pend .x 5 6 true = some (u, some c)) ∧ (∃ u, (tS .s).pend .x 0 6 true = some (u, none)) ∧ (∃ u c, tT.pend .x 5 6 true = some (u, some c)) ∧
    (∃ u c, tT.pend .x 5 8 true = some (u, some c)) :=
  ⟨by decide +kernel, claim_of _ .x 5 6 true rfl (by decide), ⟨_, rfl⟩, claim_of _ .x 5 6 true rfl (by decide), claim_of _ .x 5 8 true rfl (by decide)⟩

/-- RECVF answers the address of mailbox entry 2 of slot 3, which is TAKEN; a timer fills with the cycle (R323, R324, R328). -/
theorem test_receives : (let t := tAfter (exec (.recvf 5) (tTask { tSlot .s with mail := [(2, .held)], mailOrder := [2] } id)); (t.me.xr 5).val = 0xFC380 ∧ nget t.me.mail 2 = some .taken) ∧
    (tAfter (exec (.timerExpiry 0 4) (tTask (tSlot .s) (fun k => { k with timers := [(4, 5000, 4000)] })))).here.deliveries = [⟨4, 5000, .value 5000⟩] ∧
    (tAfter (exec (.timerf 11 5) tT)).here.timers.map (fun p => p.2) = [(7, 5000)] := by decide +kernel

/-- A core whose inbox holds a record and whose slot 4 is an EMPTY worker of role C. -/
def tInbox : State :=
  tTask (tSlot .s) (fun k => { k with inbox := [(0, ⟨[], 10, false, none⟩)], inboxOrder := [0], ls := putWords [] (inboxAddr 0) tRec,
                                      slots := nput k.slots 4 { Slot.reset with role := .c, worker := true } })

theorem test_hyp_dispatch : tInbox.unitActs 0 = true ∧ (tInbox.core 0).lastDispatch < (tInbox.core 0).cycle ∧ (tInbox.core 0).choose = some (.inbox 0, 4) ∧
    (tTask (tSlot .s) (fun k => { (k.pushDeque 1 ⟨tRec.take 2, 10, true, none⟩ (tRec.drop 2)) with slots := nput k.slots 4 { Slot.reset with role := .c, worker := true } })).here.choose = some (.top 1, 4) := by
  decide +kernel

theorem test_dispatch : let t := tAfter (exec (.dispatch 0) tInbox)
    (t.slot 0 4).pc = 0x40 ∧ (t.slot 0 4).tag = 5 ∧ ((t.slot 0 4).xr 10).val = 11 ∧ ((t.slot 0 4).xr 17).val = 5 ∧ (t.slot 0 4).state = .running ∧ (t.slot 0 4).prio = some 1 := by decide +kernel

/-- Slot 3 runs a record of priority 1 while one of priority 1 waits in the inbox. -/
def tYields : State := tTask { tSlot .s with prio := some 1 } (fun k => { k with inbox := [(0, ⟨[], 10, false, none⟩)], inboxOrder := [0], ls := putWords [] (inboxAddr 0) tRec })

theorem test_hyp_work_ends : (tT.me.prio = none ∧ tYields.me.prio = some 1 ∧ tYields.me.specOpen = false ∧ (tYields.here.deque 1).length = 0 ∧
      tYields.here.waitsFor 1 tYields.me = true ∧ tYields.me.role = .s ∧ (tTask { tSlot .s with prio := some 1 } id).here.waitsFor 1 tT.me = false ∧
      (tTask (tSlot .s) (fun k => { k with ctxReserved := List.range 32 })).here.freeEntries = [] ∧ tT.siteDone 0 = false ∧ ({ tT with cores := [] } : State).siteDone 0 = true ∧
      (let s := tTask (tSlot .s) (fun k => { k with array := some { slot := 3, cd := 1, ma := 0, mb := 1, result := 0, since := 4990 }, locks := [(2, ⟨3, 4000, 0x10⟩)] });
        ((s.core 0).array.map (·.slot)) = some 3 ∧ ((tAfter (exec .done s)).core 0).locks = [] ∧ ((tAfter (exec .done s)).slot 0 3).doneWait = true)) ∧
    ∃ rest, tYields.here.freeEntries = 0 :: rest :=
  ⟨by decide +kernel, ⟨_, rfl⟩⟩

/-- DONE with an MDOT unfinished drops an open speculation at once; YIELD frees the bank locks (R327, R364). -/
theorem test_drops : (let s := tTask { tSlot .s with specOpen := true, hold := [⟨true, 0, 0, none, []⟩] } (fun k => { k with array := some { slot := 3, cd := 1, ma := 0, mb := 1, result := 0, since := 4990 } })
      ((tAfter (exec .done s)).slot 0 3).specOpen = false ∧ ((tAfter (exec .done s)).slot 0 3).hold = []) ∧
    ((tAfter (exec .yield (tYields.modHere (fun k => { k with locks := [(2, ⟨3, 4000, 0x10⟩)] })))).core 0).locks = [] := by decide +kernel

theorem test_work_ends : (tAfter (exec .done tT)).me.state = .empty ∧ (tAfter (exec (.jobEnd 0) { tT with cores := [] })).sites.map (·.2.state) = [.loaded] := by decide +kernel

/-- A core with nothing but an EMPTY worker of role C, and one with a stealable record. -/
def tThief : State := tTask Slot.reset (fun k => { k with slots := [(4, { Slot.reset with role := .c, worker := true })] })
def tVictim : State := tTask (tSlot .s) (fun k => k.pushDeque 1 ⟨tRec.take 2, 10, true, none⟩ (tRec.drop 2))

theorem test_hyp_stealing : tThief.idle 0 = true ∧ tThief.nextVictim 0 = some 1 ∧ (tThief.core 0).inboxFree = some 0 ∧ tTaken tVictim (.stealReq 8) ∧ (tVictim.core 0).stealable 8 = some 1 ∧
    tVictim.tasksOn 0 = true ∧ (tT.core 0).stealable 8 = none ∧ tTaken tT (.stealReq 8) ∧ tTaken (tTask (tSlot .s) (fun k => { k with stealIn := some 2 })) (.stealAns (some ⟨tRec, 0, false, none⟩)) ∧
    tTaken tT (.stealAns none) ∧ (tArrive tT (.stealAns none)).arrivedFrom 50 = some (.core 0, .stealAns none) ∧ (tT.core 0).stealBlocked ≤ (tT.core 0).cycle ∧
    ((tTask (tSlot .s) (fun k => { k with stealBlocked := 6000 })).core 0).cycle < 6000 := by decide +kernel

theorem test_stealing : (tAfter (exec (.idleSteal 0) tThief)).flights.map (fun f => (f.dest, f.body)) = [(.name 0x11, .stealReq 8)] ∧
    (tAfter (exec (.stealRequest 50) (tArrive tVictim (.stealReq 8)))).flights.map (·.body) = [.stealAns (some ⟨0x1000000000040 :: tRec.tail, 0, false, none⟩)] := by decide +kernel

/-- A role T slot with an LSB-first stream of two bytes at 0x40. -/
def tBits (at_ : Word) : State := (tState (tCore { tSlot .t with bstream := at_ })).modHere (fun k => { k with ls := [(0x40, 0xA5), (0x41, 0x3C)] })

theorem test_hyp_streams : ((tBits 0xC000000210000200).noRepeat ∧ (tBits 0).me.role = .t ∧ (tBits 0).readable .x 10 ∧ (tBits 0).writable .x 5 ∧ ((tBits 0).xv 10).toNat ≤ 0x100000 ∧
      ((tBits 0).readable .x 12 ∧ 0x100000 < ((tBits 0).xv 12).toNat) ∧ ((tBits 0).xv 17).toNat ≤ 0x100000 - ((tBits 0).xv 10).toNat ∧ (tBits 0xC000000210000200).me.bstream.getLsbD 63 = true ∧ (tBits 0).me.bstream.getLsbD 63 = false ∧
      bsPos 0xC000000210000200 = 0x200 ∧ bsLim 0xC000000210000200 = 0x210) ∧
    (tBits 0xC000000210000200).bytesPass false (span 0x40 1) := ⟨by decide +kernel, bytesPass_of _ _ _ (by decide +kernel)⟩

/-- Six bits of A5, 3C from the lowest: 25; the position moves past them (R334, R336). -/
theorem test_streams : let t := tAfter (exec (.bget 0 6 5) (tBits 0xC000000210000200))
    (t.me.xr 5).val = 0x25 ∧ bsPos t.me.bstream = 0x206 ∧ ((tAfter (exec (.bpeek 0 6 5) (tBits 0x8000000210000200))).me.xr 5).val = 0x29 ∧ (tAfter (exec .balign t)).me.bstream = 0xC000000210000208 ∧
    (tAfter (exec (.bsopen 1 17 10) (tBits 0))).me.bstream = 0xC000000A40000A00 ∧ bsPos (tAfter (exec (.bskip 0 3) t)).me.bstream = 0x209 ∧
    (tAfter (exec (.bskip 0 31) t)).me.bstream = 0xE000000210000210 ∧ (let u := tAfter (exec (.bsopen 1 17 12) (tBits 0)); (u.me.tcause, u.me.tval) = (5, 0xFFFFFFFFFFFFFFFF)) := by decide +kernel

/-- BLZC with x13 the length, x11 the distance and x10 the destination. -/
def tBack (len : Word) : State := tState (tCore { tSlot .t with x := (10, ⟨.full, 0x140⟩) :: (11, ⟨.full, 2⟩) :: [(13, ⟨.full, len⟩)] })

theorem test_hyp_back : ((∀ n ∈ [10, 11, 13], (tBack 70).readable .x n) ∧ (tBack 70).noRepeat ∧ 4096 < ((tBack 4097).xv 13).toNat ∧ ((tBack 0).xv 13).toNat = 0 ∧ ((tBack 70).xv 13).toNat = 70 ∧
      ((tBack 70).xv 11).toNat ≤ ((tBack 70).xv 10).toNat ∧ (tBack 70).here.blzc = none ∧ (tBack 70).localHeld = false ∧
      (let b : BlzcRec := { slot := 3, dst := 0x140, dist := 2, len := 70, next := 1, start := 4000 }; b.start + 16 * b.next ≤ 5000) ∧ Memory.wf [] = true) ∧
    (let s (dst dist : Word) : State := tState (tCore { tSlot .t with x := [(10, ⟨.full, dst⟩), (11, ⟨.full, dist⟩), (13, ⟨.full, 70⟩)] });
      (((s 1 2).xv 10).toNat < ((s 1 2).xv 11).toNat ∧ 0x100000 < ((s 0x100010 2).xv 10).toNat - ((s 0x100010 2).xv 11).toNat + 70 ∧
        ((s 0xFFFF0 0x40).xv 10).toNat - ((s 0xFFFF0 0x40).xv 11).toNat + 70 ≤ 0x100000 ∧ 0x100000 < ((s 0xFFFF0 0x40).xv 10).toNat + 70) ∧
      ((tBack 70).modHere (fun k => { k with owners := [(0, true)] })).here.engineOwned (0x140 - 2) = true ∧
      ({ s 0xF0000 0x1000 with sites := [(0, { tSite with launch := some tTaskLaunch })] } : State).reservedPlot 0 (plotOf 0xF0000) = true ∧
      ({ s 0xF0000 0x1000 with sites := [(0, { tSite with launch := some tTaskLaunch })] } : State).reservedPlot 0 (plotOf (0xF0000 - 0x1000)) = false) ∧
    ∀ a, (tBack 70).here.engineOwned a = false ∧ (tBack 70).reservedPlot 0 (plotOf a) = false ∧ ∀ l, nget (tBack 70).here.locks (bankOf a) = some l → l.slot = 3 := by
  refine ⟨by decide +kernel, by decide +kernel, fun a => ⟨?_, ?_, fun l h => ?_⟩⟩
  · unfold Core.engineOwned; rw [(by decide +kernel : (tBack 70).here.owners = [])]; rfl
  · unfold State.reservedPlot; rw [(by decide +kernel : (tBack 70).tasksOn 0 = false), Bool.and_false]
  · rw [(by decide +kernel : (tBack 70).here.locks = [])] at h; cases h

/-- Back-references trap on a source below the window, on a destination in a plot of the task unit and on one that runs past
the window; with a distance of 0 nothing traps (R341, R342). -/
theorem test_back_traps : let s (dst dist : Word) : State := { tState (tCore { tSlot .t with x := [(10, ⟨.full, dst⟩), (11, ⟨.full, dist⟩), (13, ⟨.full, 4⟩)] }) with sites := [(0, { tSite with launch := some tTaskLaunch })] }
    let at_ (dst dist : Word) : BitVec 6 × Word := ((tAfter (exec (.blzc 13 11 10) (s dst dist))).me.tcause.setWidth 6, (tAfter (exec (.blzc 13 11 10) (s dst dist))).me.tval)
    at_ 1 2 = (5, 0xFFFFFFFFFFFFFFFF) ∧ at_ 0xF0000 0x1000 = (27, 0xF0000) ∧ at_ 0xFFFFE 0x100 = (7, 0x100000) ∧ at_ 0x1000 0 = (0, 0) := by decide +kernel

theorem test_back : memRead ((tAfter (exec (.blzc 13 11 10) ((tBack 3).modHere (fun k => { k with ls := [(0x13E, 1), (0x13F, 2)] })))).here.ls) 0x140 4 = 0x010201 := by decide +kernel

/-! ## Handlers, notifications, commands and contexts -/

/-- A core with the K role on slots 3 and 14 and a notification for slot 14. -/
def tNoted (f : Core → Core) : State :=
  tState (f { tCore (tSlot .k) with slots := [(3, tSlot .k), (14, { tSlot .k with state := .empty })], notes := [⟨0x1000000000000009, 10⟩], hvec := 0x8000 })

theorem test_hyp_handlers : { tNoted id with curCore := 0, curSlot := 14 }.handlerDue = true ∧ ((tNoted id).core 0).notes = [⟨0x1000000000000009, 10⟩] ∧ (tNoted id).noRepeat ∧ (tNoted id).me.role = .k ∧
    (tNoted id).here.hbusy = false ∧ (tNoted (fun k => { k with hbusy := true })).here.hbusy = true ∧ (tNoted id).here.hfromempty = false ∧
    (tNoted (fun k => { k with hbusy := true, hfromempty := true })).here.hfromempty = true := by decide +kernel

theorem test_handlers : (let t := tAfter (exec (.handlerEntry 0) (tNoted id)); ((t.slot 0 14).pc, (t.core 0).hnote, (t.core 0).hfromempty) = (0x8000, 0x1000000000000009, true)) ∧
    (tAfter (exec .hdone (tNoted (fun k => { k with hbusy := true, hepc := 0x900 })))).me.pc = 0x900 := by decide +kernel

/-- A notification that was turned away and waits until a cycle. -/
def tWaiting (c : Nat) : State := { tS .k with flights := [{ tFlight (.core 0) (.coords 0) (.note 9 false) with st := .waiting c }] }

theorem test_hyp_notes : tTaken (tS .k) (.note 9 false) ∧ (tNoted id).here.notes.length < 64 ∧ 64 ≤ (tNoted (fun k => { k with notes := List.replicate 64 ⟨0, 0⟩ })).here.notes.length ∧
    ((tS .k).notice (tFlight (.core 0) (.coords 0) (.note 9 false))).2 = true ∧
    (let f : Flight := { tFlight (.core 0) (.coords 1) (.note 9 false) with dsite := 1, pos := 1 }; let s : State := { tS .k with flights := [f] };
     s.takes 50 f ∧ ((s.dropFlight 50).notice f).2 = false) ∧
    ((tWaiting 5000).findFlight 50).map (·.st) = some (.waiting 5000) ∧ ((tWaiting 5001).findFlight 50).map (·.st) = some (.waiting 5001) ∧ ((tWaiting 5000).core 0).cycle = 5000 ∧
    wf 0x2000000000000000 60 4 = 2 ∧ wf 0x1000000000000000 60 4 ≠ 2 := by decide +kernel

theorem test_notes : ((tAfter (exec (.notification 50) (tArrive (tNoted id) (.note 0x2000000000000001 false)))).core 0).notes.map (·.word) = [0x2000000000000001, 0x1000000000000009] ∧
    (tAfter (exec (.noteRetry 50) (tWaiting 5000))).flights.map (·.st) = [.arrived] := by decide +kernel

/-- Slot 7 beside slot 3. -/
def tOther (t : Slot) (f : Core → Core) : State := tState (f { tCore (tSlot .k) with slots := [(3, tSlot .k), (7, t)] })

/-- Site 11, at which control chiplet 0 sits, with a HALTED slot 7 of core 0 in front of it and of its own core 176. -/
def tAtChiplet (g : Site) (n : Word) : State :=
  { tOther { tSlot .c with state := .halted, before := .frozen } id with
    sites := [(11, g)], partRects := [(0, 0xB6000)], cores := [(176, { tCore (tSlot .k) with cycle := n.toNat, slots := [(7, { tSlot .c with state := .halted, before := .frozen })] })] }

theorem test_hyp_commands : (tS .k).releaseFree ∧ tTaken (tOther { tSlot .c with state := .frozen } id) (.tresume 7 9 3 0 0x107) ∧ ((tOther { tSlot .c with state := .frozen } id).slot 0 7).state = .frozen ∧
    ((tOther (tSlot .c) id).slot 0 7).state = .running ∧ tTaken (tOther (tSlot .c) id) (.tkill 7 9 3 0 0x107) ∧ ((tOther { tSlot .c with state := .parked } id).slot 0 7).underSave = false ∧
    ((tOther { tSlot .c with state := .frozen } id).slot 0 7).doneWait = false ∧ (∀ a ∈ (tOther (tSlot .c) id).here.array, a.slot ≠ 7) ∧
    (let s := tOther (tSlot .c) (fun k => { k with array := some ⟨7, 0, 0, 1, 0, 4990⟩ }); tTaken s (.tkill 7 9 3 0 0x107) ∧
      ∃ a ∈ ((((s.dropFlight 50).trace 0 7 3 0 0 1).endResv 0 7).core 0).array, a.slot = 7) ∧
    ((tOther { tSlot .c with state := .empty } id).slot 0 7).state = .empty ∧ (tS .k).siteNamed 0 0x20 = none ∧
    ((tAtChiplet tSite 5).chargeLink 0 0 1 1).2 = true ∧ (({ tS .k with procs := [(0, { Proc.reset with budgets := [(1, 0)] })] } : State).chargeLink 0 0 1 1).2 = false ∧
    ((tS .k).siteNamed 0 1 = some 0 ∧ ((tS .k).sysTrip 0 0 1).2 = false) ∧
    (let s := tAtChiplet tSite 5; let u := (s.sysTrip 0 11 1).1; s.siteNamed 0 1 = some 11 ∧ (s.sysTrip 0 11 1).2 = true ∧ u.exposed 176 = true ∧ (u.slot 176 7).state = .halted ∧
      (u.site 11).state ≠ .fenced ∧ (u.slot 176 6).state ≠ .halted) ∧
    (let s := tAtChiplet { tSite with state := .fenced, before := 5, ncores := 4 } 5; let u := (s.sysTrip 0 11 1).1; s.siteNamed 0 1 = some 11 ∧ (s.sysTrip 0 11 1).2 = true ∧ u.exposed 191 = false ∧
      u.exposed 176 = true ∧ (u.site 11).state = .fenced) := by decide +kernel

theorem test_commands : ((tAfter (exec (.tresumeApply 50) (tArrive (tOther { tSlot .c with state := .frozen } id) (.tresume 7 9 3 0 0x107)))).slot 0 7).state = .running ∧
    ((tAfter (exec (.tkillApply 50) (tArrive (tOther (tSlot .c) id) (.tkill 7 9 3 0 0x107)))).slot 0 7).state = .empty ∧
    ((tAfter (exec (.slotResume ⟨0, 0, 0x10⟩ 7) (tAtChiplet tSite 5))).slot 176 7).state = .frozen ∧
    (tAfter (exec (.tresume 11) (tS .k))).flights.map (·.dest) = [.name 0] := by decide +kernel

theorem test_hyp_contexts : ((tOther (tSlot .c) id).xv 11 = 7 ∧ (tOther (tSlot .c) id).noRepeat ∧ (∀ n ∈ [10, 11, 12, 13, 17], (tOther (tSlot .c) id).readable .x n) ∧ (tOther (tSlot .c) id).writable .x 5 ∧
      (tOther (tSlot .c) id).curSlot ≠ 7 ∧ 15 < ((tOther (tSlot .c) id).xv 10).toNat ∧ ((tOther (tSlot .c) id).xv 12).getLsbD 63 = true ∧ wf ((tOther (tSlot .c) id).xv 12) 0 5 = 31) ∧
    (∃ u c, (tOther (tSlot .c) id).pend .x 5 1 false = some (u, some c)) :=
  ⟨by decide +kernel, claim_of _ .x 5 1 false rfl (by decide)⟩

/-- Slots and entries of the context cache that serve, and ones that do not. -/
theorem test_hyp_context_states : nget (tOther (tSlot .c) id).here.ctx 31 = none ∧ 31 ∉ (tOther (tSlot .c) id).here.ctxReserved ∧ 31 ∈ (tOther (tSlot .c) (fun k => { k with ctxReserved := [31] })).here.ctxReserved ∧
    (let t := (tOther (tSlot .c) id).here.slot 7; t.state ≠ .empty ∧ t.state ≠ .halted ∧ t.doneWait = false ∧ t.underSave = false ∧ t.role = .c) ∧
    (let t := (tOther { tSlot .m with doneWait := true } id).here.slot 7; t.role = .m ∧ t.doneWait = true) ∧
    (let t := (tOther { tSlot .c with state := .halted } id).here.slot 7; t.state = .halted ∧ t.doneWait = false) ∧
    (let t := (tOther { tSlot .c with underSave := true } id).here.slot 7; t.underSave = true ∧ t.doneWait = false) ∧
    (let s := tOther { tSlot .c with state := .empty } (fun k => { k with ctx := [(31, tSaved)] });
     nget s.here.ctx 31 = some tSaved ∧ (s.here.slot 7).state = .empty ∧ (s.here.slot 7).reserved = false ∧ (s.here.slot 7).underSave = false ∧ tSaved.role = (s.here.slot 7).role) ∧
    (let t := (tOther { tSlot .v with state := .empty } id).here.slot 7; t.role = .v ∧ t.state = .empty ∧ nget (tOther t id).here.ctx 31 = none) ∧
    ((tOther { tSlot .c with state := .empty, reserved := true } id).here.slot 7).reserved = true := by decide +kernel

/-- Slot 7 beside slot 3, whose x18 is this address, over a range. -/
def tImage (t : Slot) (d : Word) (r : RangeSlot → RangeSlot) (f : Core → Core) : State :=
  tState (f { tCore (tSlot .k) with slots := [(3, (tSlot .k).setXr 18 ⟨.full, d⟩), (7, t)], ranges := [{ slot := r placeRange, index := 1 }] })

/-- Addresses of images in local store: one that no image can have, plots of the engines, headers, and images that the core keeps (R362, R364, R365). -/
theorem test_hyp_images : (tOther (tSlot .c) id).xv 17 = 8 ∧ (8 : Nat) % 64 ≠ 0 ∧
    (let s := tImage (tSlot .c) 0xFFFF00000000 id id; (s.xv 18).getLsbD 63 = false ∧ (s.xv 18).toNat % 64 = 0 ∧ 0xFFFF00000000 ≤ (s.xv 18).toNat) ∧
    (let a := ((tImage (tSlot .c) 0xFFF00 id id).xv 18).toNat; a % 64 = 0 ∧ a < 2 ^ 20 ∧ 2 ^ 20 < a + roleImageLen .c) ∧
    (let s := tImage (tSlot .c) 0x4000 id id; (span 0x4000 (roleImageLen .c)).find? (fun b => s.here.engineOwned b || s.reservedPlot s.curCore (plotOf b)) = none) ∧
    (let s := tImage (tSlot .c) 0x4000 id (fun k => { k with owners := [(plotOf 0x4200, true)] });
     (span 0x4000 (roleImageLen .c)).find? (fun b => s.here.engineOwned b || s.reservedPlot s.curCore (plotOf b)) = some (2 ^ 12 * plotOf 0x4200)) ∧
    (let s := tImage { tSlot .c with state := .empty } 0x4000 id (fun k => { k with ls := [(0x4000, 1), (0x4001, 3)] }); let h := wd (s.placeRead s.curCore (.ls 0x4000) 0 8);
     wf h 0 8 = 1 ∧ wf h 8 3 ≠ 7 ∧ roleOf (wf h 8 3) = (s.here.slot 7).role ∧ s.here.images.find? (fun i => i.place.key == (CtxPlace.ls 0x4000).key && !i.written) = none) ∧
    (let s := tImage { tSlot .s with state := .empty } 0x4000 id (fun k => { k with ls := [(0x4000, 1), (0x4001, 3)] }); let h := wd (s.placeRead s.curCore (.ls 0x4000) 0 8);
     wf h 0 8 = 1 ∧ roleOf (wf h 8 3) ≠ (s.here.slot 7).role) ∧
    wf (wd ((tImage (tSlot .c) 0x4000 id (fun k => { k with ls := [(0x4000, 1), (0x4001, 7)] })).placeRead 0 (.ls 0x4000) 0 8)) 8 3 = 7 ∧
    wf (wd ((tImage (tSlot .c) 0x4000 id id).placeRead 0 (.ls 0x4000) 0 8)) 0 8 ≠ 1 ∧
    (let i : ImageRec := { place := .ls 0x4000, proc := 0, saved := tSaved, written := false }; let s := tImage { tSlot .c with state := .empty } 0x4000 id (fun k => { k with images := [i] });
     s.here.images.find? (fun i => i.place.key == (CtxPlace.ls 0x4000).key && !i.written) = some i ∧ i.saved.role = (s.here.slot 7).role ∧ i.saved.role ≠ ((tImage (tSlot .s) 0x4000 id id).here.slot 7).role) := by
  decide +kernel

/-- Images in translated space: a range that permits, one that does not, and one that ends too early (R362, R364, R365). -/
theorem test_hyp_images_translated :
    (let s := tImage (tSlot .c) 0x10000040 id id; let re := s.here.rangeFor 0x10000040;
     s.xv 18 = 0x10000040 ∧ s.me.walkOut = none ∧ re = some ⟨placeRange, 1⟩ ∧ checkEntry placeRange 0x10000040 .w = .ok ∧
     checkEntry placeRange 0x10000040 .r = .ok ∧ ¬(0x10001000 < 0x10000040 + roleImageLen .c) ∧ placeRange.striped = false ∧
     (let v := s.modHere (fun k => k.useRange ⟨placeRange, 1⟩); let p : CtxPlace := .phys (rangePA placeRange 0x10000040) 0x10000040;
       (v.fetchTrip s.curCore p 64).2 = none ∧ v.placeGated p (roleImageLen .c) = false ∧
         (v.modSite (homeOf (rangePA placeRange 0x10000040)) (fun t => { t with gated := true })).placeGated p (roleImageLen .c) = true)) ∧
    checkEntry { placeRange with perms := 0 } 0x10000040 .w = .fault 2 ∧ checkEntry { placeRange with perms := 0 } 0x10000040 .r = .fault 2 ∧
    0x10000100 < 0x10000040 + roleImageLen .c ∧ ({ placeRange with limit := 0x10000100 } : RangeSlot).limit.toNat = 0x10000100 := by decide +kernel

theorem test_hyp_saves :
    (let r : SaveRec := { slot := 7, place := .cache 31, claim := none, captured := none, yieldPrio := none, proc := 0 };
     let s := tOther (tSlot .c) (fun k => { k with saves := [r] }); (s.core 0).saves.find? (fun r => r.captured.isNone && (s.core 0).drained r.slot && (s.site (siteOf 0)).state != .fenced) = some r) ∧
    (let r : SaveRec := { slot := 7, place := .cache 31, claim := none, captured := none, yieldPrio := some 2, proc := 0 };
     let s := tOther (tSlot .c) (fun k => { k with saves := [r] }); (s.core 0).saves.find? (fun r => r.captured.isNone && (s.core 0).drained r.slot && (s.site (siteOf 0)).state != .fenced) = some r) ∧
    (∀ p ∈ [CtxPlace.cache 31, .ls 0x4000, .phys 0x4000 0x10000040, .phys (600 * 2 ^ 33) 0], let r : SaveRec := { slot := 7, place := p, claim := none, captured := some tSaved, yieldPrio := none, proc := 0 };
      let s := tOther (tSlot .c) (fun k => { k with saves := [r], images := [{ place := p, proc := 0, saved := tSaved, written := false }] });
      let u := s.modCore 0 (fun k => { k with saves := k.saves.erase r })
      let q := u.imageTrips 0 p (roleImageLen tSaved.role) true
      (s.core 0).saves.find? (fun r => r.captured.isSome) = some r ∧ q.2 = (if p = .phys (600 * 2 ^ 33) 0 then (some (0x27, 600 * 2 ^ 33), false) else (none, true)) ∧
        (q.1.core 0).images.find? (fun i => i.place.key == p.key) = some { place := p, proc := 0, saved := tSaved, written := false }) := by decide +kernel

theorem test_hyp_restores :
    (∀ p ∈ [CtxPlace.cache 31, .phys (600 * 2 ^ 33) 0], let r : RestoreRec := { slot := 7, place := p, claim := none, due := 5000, proc := 0 };
     let s := tOther { tSlot .c with state := .empty, reserved := true } (fun k => { k with ctx := [(31, tSaved)], restores := [r] });
     let u := s.modCore 0 (fun k => { k with restores := k.restores.erase r })
     (s.core 0).restores.find? (s.restoreReady 0) = some r ∧
       (u.imageTrips 0 p (roleImageLen (u.slot 0 7).role) false).2.1 = (if p = .cache 31 then none else some (0x27, 600 * 2 ^ 33))) ∧
    (let r : RestoreRec := { slot := 7, place := .cache 31, claim := none, due := 5001, proc := 0 };
     let s := tOther { tSlot .c with state := .empty, reserved := true } (fun k => { k with ctx := [(31, tSaved)], restores := [r] });
     (s.core 0).restores.find? (s.restoreReady 0) = none) := by decide +kernel

/-- SWAPCTX of a slot of role M into the context cache is refused, a save captures, a restore puts the context back (R364, R365). -/
theorem test_contexts : ((tAfter (exec (.swapctx 12 11 5) (tOther (tSlot .m) id))).me.xr 5).val = 0x300000000000000 ∧
    (let t := tAfter (exec (.saveCapture 0) (tOther (tSlot .c) (fun k => { k with saves := [{ slot := 7, place := .cache 31, claim := none, captured := none, yieldPrio := none, proc := 0 }] })));
     (t.slot 0 7).state = .empty ∧ ((nget (t.core 0).ctx 31).map (·.pc)) = some 0x10000100) ∧
    (let t := tAfter (exec (.restoreApply 0) (tOther { tSlot .c with state := .empty, reserved := true } (fun k => { k with ctx := [(31, tSaved)], restores := [{ slot := 7, place := .cache 31, claim := none, due := 5000, proc := 0 }] })));
     (t.slot 0 7).state = .frozen ∧ ((t.slot 0 7).xr 10).val = 77 ∧ nget (t.core 0).ctx 31 = none) := by decide +kernel

/-! ## Routers and links -/

/-- Sites 0 and 1 with good links between them, and a packet from core 0 for site 1 at site 0. -/
def tMesh (f : Flight → Flight) : State :=
  { tS .c with sites := [(0, { tSite with links := [(2, true), (3, true)] }), (1, { tSite with name := 2, links := [(6, true), (7, true)] })],
               flights := [f { tFlight (.core 0) (.coords 1) (.barEvent 0 0 1 1 0) with dsite := 1, st := .moving }] }

/-- The packet of that state. -/
def tPacket (f : Flight → Flight) : Flight := f { tFlight (.core 0) (.coords 1) (.barEvent 0 0 1 1 0) with dsite := 1, st := .moving }

theorem test_hyp_hops : (tMesh id).findFlight 50 = some (tPacket id) ∧ (tPacket id).st = .moving ∧ (tMesh id).overtakes (tPacket id) = false ∧ neighbour 0 (hopDir 0 1 false) = some 1 ∧
    (tMesh id).linkGood 0 1 false = true ∧ (tS .c).linkGood 0 1 false = false ∧ ({ tS .c with flights := (tMesh id).flights } : State).findFlight 50 = some (tPacket id) ∧
    (tMesh id).forwards 0 = true ∧ (let s : State := { tMesh id with sites := [(0, { tSite with state := .clocked })] }; s.forwards 0 = false) ∧
    (tPacket (fun f => { f with pos := 1 })).pos = 1 ∧ (let s : State := { tMesh id with flights := { tPacket id with fid := 49 } :: (tMesh id).flights }; s.overtakes (tPacket id) = true) ∧
    (let f := tPacket (fun f => { f with body := .replica 0 [5, 16] 0x10 1 [] none }); (tMesh (fun _ => f)).findFlight 50 = some f ∧ (tMesh (fun _ => f)).overtakes f = false ∧
      1 < (replicaBranches f.pos f.yx [5, 16]).length ∧ (replicaBranches f.pos f.yx [16]).length ≤ 1) ∧
    (let f := tPacket (fun f => { f with st := .behind }); (tMesh (fun _ => f)).findFlight 50 = some f ∧ (tMesh (fun _ => f)).mustWait f ⟨.moving, 1, none, false⟩ = false ∧
      (let s : State := { tMesh (fun _ => f) with flights := [{ f with fid := 49, st := .held }, f] }; s.mustWait f ⟨.moving, 1, none, false⟩ = true)) ∧
    (let f := tPacket (fun f => { f with st := .atPort, dest := .name 0x20 }); (tMesh (fun _ => f)).holdCount 0 50 < 32 ∧ f.dest.byName = true ∧ (tMesh id).nameUnknown 0 (.name 0x30) = true ∧
      (let s : State := { tMesh id with flights := List.replicate 32 { f with fid := 49, st := .held, dest := .name 0x30 } ++ [f] };
       s.findFlight 50 = some f ∧ 32 ≤ s.holdCount 0 50 ∧ s.mustWait f (routePacket s f.cls f.src 0 0 f.dest) = false)) := by decide +kernel

theorem test_hops : (tAfter (exec (.routerForward 50) (tMesh id))).flights.map (·.pos) = [1] ∧
    (tAfter (exec (.routerForward 50) (tMesh (fun f => { f with pos := 1 })))).flights.map (·.st) = [.arrived] ∧
    (tAfter (exec (.routerForward 50) ({ tS .c with flights := (tMesh id).flights }))).flights.map (·.st) = [.blocked] ∧
    (tAfter (exec (.routerForward 50) (tMesh (fun f => { f with body := .replica 0 [5, 16] 0x10 1 [] none })))).flights.map (fun f => (f.fid, f.dsite)) = [(100, 0), (101, 1)] := by
  decide +kernel

/-- A flood of site 0 for the name of site 1. -/
def tFlood (f : Flood → Flood) : State :=
  { tMesh id with flights := [], partRects := [(0, 0x08800)],
                  sites := [(0, { tSite with links := [(2, true), (3, true)], floods := [f { name := 2, core := 0, since := 100, sent := 0, waiting := true, here := [], done := false }] }),
                            (1, { tSite with name := 2, links := [(6, true), (7, true)] })] }

theorem test_hyp_floods : ((tFlood id).floodOf 0 2).map (·.waiting) = some true ∧ ((tFlood (fun f => { f with waiting := false })).floodOf 0 2).map (·.here) = some [] ∧
    ((tFlood (fun f => { f with here := [(1, true)] })).floodOf 0 2).map (·.here) = some [(1, true)] ∧ (tFlood id).pathGood 1 0 false 64 = true ∧ (tFlood id).pathGood 24 0 false 64 = false ∧
    (let s := tFlood (fun f => { f with here := [(1, true)] }); ((s.modFlood 0 2 (fun x => { x with here := [] })).rideBack (some (s.site 1).part) 1 0 (s.ownerName 1 2) true none 1).2 = true) ∧
    (let s := tFlood (fun f => { f with here := [(2, true)] }); ((s.modFlood 0 2 (fun x => { x with here := [] })).rideBack (some (s.site 2).part) 2 0 (s.ownerName 2 2) true none 1).2 = false) ∧
    (let s := (tFlood (fun f => { f with here := [(1, true)], done := true })).modSite 0 (fun t => { t with routes := [(2, BitVec.ofNat 32 (2 ^ 25 + 5))] });
     let e := (s.site 0).route 2; (s.floodOf 0 2).map (·.done) = some true ∧ rtValid e = true ∧ rtSite e ≠ 1) ∧
    ((tFlood id).core 0).cycle = 5000 ∧ ((tFlood (fun f => { f with sent := 1 })).floodOf 0 2).map (fun f => decide (f.since + 50000 * f.sent ≤ 5000)) = some false := by decide +kernel

theorem test_floods : ((tAfter (exec (.whereProbe 0 2) (tFlood id))).floodOf 0 2).map (·.here) = some [(1, true)] ∧
    ((tAfter (exec (.hereReply 0 2) (tFlood (fun f => { f with here := [(1, true)] })))).floodOf 0 2).map (fun f => (f.here, f.done)) = some ([], true) ∧
    ((tAfter (exec (.whereReflood 0 2) (tFlood (fun f => { f with waiting := false })))).floodOf 0 2).map (·.sent) = some 1 := by decide +kernel

/-- A packet for a name that no entry gives. -/
def tNamed (f : Flight → Flight) (now : Nat) : State :=
  { tState { tCore (tSlot .c) with cycle := now } with flights := [f { tFlight (.core 0) (.name 0x20) (.barEvent 0 0 1 1 0) with dsite := 0, st := .held, issued := 0 }] }

theorem test_hyp_packet_endings : (∀ st ∈ [FState.lost, .failed 0x24, .blocked, .moved, .held], ((tNamed (fun f => { f with st := st }) 999999).findFlight 50).map (·.st) = some st) ∧
    (Sender.core 0).clock = 0 ∧ ((tNamed id 1000000).core 0).cycle = 1000000 ∧ ((tNamed id 0).site 0).route 2 = 0 ∧ rtPinned 0 = false ∧
    (let f : Flight := { tFlight (.core 0) (.name 0x20) (.barEvent 0 0 1 1 0) with dsite := 0, st := .held, issued := 0 };
     (tNamed id 0).entryOf f = some (0, false) ∧ ((tNamed id 0).notice f).2 = true ∧ ((tNamed id 0).notice { f with pos := 1 }).2 = false ∧ (tNamed id 0).noHere f = true ∧
     ((tNamed id 0).floodOf 0 2).isNone = true ∧ (let s := (tNamed id 0).modSite 0 (fun t => { t with floods := [⟨2, 0, 0, 1, false, [(1, true)], false⟩] });
       (s.floodOf 0 2).any (fun x => !x.done && !x.here.isEmpty) = true ∧ s.noHere f = true)) ∧
    (routePacket (tNamed id 0) .request (.core 0) 0 0 (.name 0x20)).st = .held ∧
    (let s : State := { tNamed id 0 with sites := [(0, { tSite with routes := [(2, 0x1000000)] })] }; rtPinned ((s.site 0).route 2) = true) := by decide +kernel

/-- Blocked packets: one with an earlier one on its way, one that no entry routed, one on a waypoint route, replicas, entries with each select; and
a request on its way whose answer is overdue (R40, R44). -/
theorem test_hyp_blocked : (let f := tPacket (fun f => { f with st := .blocked }); (tMesh (fun _ => f)).earlierFlies f = false ∧ (tMesh (fun _ => f)).entryOf f = none ∧ f.retry = false ∧ f.via = none ∧
      (∀ a b c d e g, f.body ≠ .replica a b c d e g) ∧ (let s : State := { tMesh id with flights := [{ f with fid := 49, st := .moving }, f] }; s.findFlight 50 = some f ∧ s.earlierFlies f = true)) ∧
    (∀ sel ∈ [0, 1, 2, 3], let s := (tNamed id 0).modSite 0 (fun t => { t with routes := [(2, BitVec.ofNat 32 (2 ^ 25 + 2 ^ 22 * sel))] });
      s.entryOf { tFlight (.core 0) (.name 0x20) (.barEvent 0 0 1 1 0) with st := .blocked } = some (sel, false)) ∧
    (let f : Flight := { tFlight (.core 0) (.coords 1) (.ifetch 3 0 0) with dsite := 1, st := .moving, left := 0 }; let s : State := { tNamed id 1000000 with flights := [f] };
      s.findFlight 50 = some f ∧ f.left + 1000000 ≤ (s.core f.src.clock).cycle ∧ f.dead = false ∧ f.inCore = false ∧ f.body.awaited = true ∧ f.st.isHeld = false) := by
  refine ⟨⟨by decide +kernel, by decide +kernel, rfl, rfl, ?_, by decide +kernel⟩, by decide +kernel⟩
  intro a b c d e g h
  cases h

theorem test_packet_endings : (tAfter (exec (.blocked 50) (tNamed (fun f => { f with st := .blocked }) 10))).flights.map (fun f => (f.yx, f.retry)) = [(true, true)] ∧
    (tAfter (exec (.unknownName 50) (tNamed id 199999))).flights.map (·.st) = [.held] ∧ (tAfter (exec (.unknownName 50) (tNamed id 200000))).flights = [] ∧
    (tAfter (exec (.noResponse 50) (tNamed (fun f => { f with st := .lost, left := 1 }) 1000000))).flights.map (·.st) = [.lost] ∧
    (tAfter (exec (.noResponse 50) (tNamed (fun f => { f with st := .lost, left := 0 }) 1000000))).flights = [] ∧ (tAfter (exec (.errorResponse 50) (tNamed (fun f => { f with st := .failed 0x24 }) 0))).flights = [] := by
  decide +kernel

theorem test_hyp_links : (tMesh id).linkGood 0 1 true = true ∧ (tPacket id).waitsFor 0 1 false = true ∧ neighbour 0 1 = some 1 ∧ (tMesh id).siteLive 0 = true ∧ (tMesh id).siteLive 1 = true ∧
    (let s : State := { tMesh id with sites := [(0, { tSite with state := .clocked }), (1, { tSite with state := .greeted })] }; (s.site 0).state = .clocked ∧ s.siteLive 0 = true ∧ s.siteLive 1 = true) ∧
    nget ({ tSite with links := [(2, false)] } : Site).links (2 * 1) = some false ∧
    (let s : State := { tS .c with sites := [(0, { tSite with phys := [(1, 0x1000)] }), (1, { tSite with state := .retired })] };
     (s.site 1).state = .retired ∧ (nget (s.site 0).phys 1).isSome = true) := by decide +kernel

theorem test_links : (let t := tAfter (exec (.linkTimeout 0 1 ⟨false, none⟩) (tMesh id)); (t.linkGood 0 1 false, t.linkGood 1 3 false, t.linkGood 0 1 true, t.flights.map (·.st)) = (false, false, true, [.blocked])) ∧
    (tAfter (exec (.linkTimeout 0 1 ⟨false, some 50⟩) (tMesh id))).flights.map (·.st) = [.lost] ∧
    (let s : State := { tMesh id with sites := [(0, { tSite with state := .clocked }), (1, { tSite with state := .greeted })] };
     (tAfter (exec (.greeting 0 1 true false) s)).linkGood 0 1 false = true) ∧ (tAfter (exec .powerLoss (tMesh id))).flights = [] := by decide +kernel

/-! ## The life of a site, and segments between modules -/

/-- Site 0 of the small state, changed. -/
def tSited (f : Site → Site) : State := { tS .k with sites := [(0, f tSite)] }

/-- The same with a clocked neighbour, site 1. -/
def tBeside (f : Site → Site) : State := { tS .k with sites := [(0, f tSite), (1, tSite)] }

theorem test_hyp_site_states : (tSited id).up = true ∧ (let s := tSited (fun t => { t with state := .dark }); (s.site 0).state = .dark ∧ s.clockSource 0 7 31 = none) ∧
    (tBeside (fun t => { t with state := .dark })).clockSource 0 7 31 = some (2, 2) ∧ (tBeside (fun t => { t with state := .dark })).up = true ∧
    (let s := tSited (fun t => { t with state := .clocked, greets := [(0, true), (1, true), (2, true), (3, true)] });
     (s.site 0).state = .clocked ∧ ∀ d, d < 4 → neighbour 0 d = none ∨ (nget (s.site 0).greets d).isSome = true) ∧
    (let s : State := { tSited (fun t => { t with state := .clocked }) with cores := [(0, { Core.reset with cycle := 65536 })] }; 65536 ≤ s.siteClock 0) ∧ (tSited id).siteClock 0 < 65536 ∧
    (∀ st ∈ [SiteState.clocked, .greeted, .named, .loaded, .running, .fenced], ((tSited (fun t => { t with state := st })).site 0).state = st) ∧
    (tSited id).siteNamed 0 9 = none ∧ ((tSited id).siteNamed 0 1 = some 0 ∧ ((tSited id).sysTrip 0 0 1).2 = false) ∧
    (∀ st ∈ [SiteState.named, .fenced], let s := tAtChiplet { tSite with state := st, before := 5 } 5; (s.chargeLink 0 0 1 1).2 = true ∧ (let v := (s.chargeLink 0 0 1 1).1; v.siteNamed 0 1 = some 11 ∧ (v.sysTrip 0 11 1).2 = true ∧ ((v.sysTrip 0 11 1).1.site 11).state = st)) ∧
    (let s := tAtChiplet { tSite with state := .fenced, before := 5 } 5; let u := (s.sysTrip 0 11 1).1; u.clockSource 11 7 (u.site 11).depth.toNat = some (0, 1)) ∧
    (let s := tAtChiplet { tSite with state := .fenced, before := 5, edgeClock := false } 5; let u := (s.sysTrip 0 11 1).1; u.clockSource 11 7 (u.site 11).depth.toNat = none) ∧
    (let s := tAtChiplet { tSite with state := .fenced, before := 5, phys := [(11, 0x1000)] } 5; let u := (s.sysTrip 0 11 1).1; let v := u.putHomes 11 false; u.forwards 11 = true ∧ physHome ((u.site 11).physSel 11) = true ∧ physHome ((v.site 11).physSel 11) = false) ∧
    (let t := (tSited (fun t => { t with state := .clocked })).enterGreeted 0; t.homeLive 0 = true ∧ t.forwards 0 = true) ∧
    (tBeside (fun t => { t with state := .fenced, before := 5 })).clockSource 0 7 31 = some (2, 2) ∧ (tSited (fun t => { t with state := .fenced })).clockSource 0 7 31 = none := by decide +kernel

/-- A command by coordinates, for a site without a name; and one that its partition's budget refuses. -/
theorem test_hyp_site_targets : (let s := tAtChiplet { tSite with state := .greeted } 5; (s.chargeLink 0 0 (11 * 2 ^ 33) 1).2 = true ∧ (let v := (s.chargeLink 0 0 (11 * 2 ^ 33) 1).1;
      (v.site 11).named = false ∧ (v.sysTrip 0 11 1).2 = true ∧ ((v.sysTrip 0 11 1).1.site 11).state = .greeted)) ∧
    ((tSited id).chargeLink 0 0 9 1).2 = true ∧ ((tSited id).chargeLink 0 0 1 1).2 = true ∧ (((tSited id).chargeLink 0 0 1 1).1.sysTrip 0 0 1).2 = false ∧
    (({ tSited id with procs := [(0, { Proc.reset with budgets := [(1, 0)] })] } : State).chargeLink 0 0 1 1).2 = false ∧ (tSited id).dependents 0 = [] ∧
    (tBeside (fun t => { t with clksrc := 2, depth := 2 })).dependents 1 = [0] ∧ (tBeside (fun t => { t with clksrc := 2, depth := 2 })).dependents 0 = [] := by decide +kernel

theorem test_site_states : (let t := tAfter (exec (.clockLock 0 true true) (tBeside (fun t => { t with state := .dark }))); ((t.site 0).state, (t.site 0).depth) = (.clocked, 2)) ∧
    ((tAfter (exec (.siteFence ⟨0, 0, 1, none⟩) (tAtChiplet tSite 5))).site 11).state = .fenced ∧ (tAfter (exec (.siteFence ⟨0, 0, 9, none⟩) (tAtChiplet tSite 5))).reports = [.refused 0 0x20] ∧
    (let u := (tAfter (exec (.siteReset ⟨⟨0, 0, 1, none⟩, true, false⟩) (tAtChiplet { tSite with state := .fenced, before := 5 } 5))).site 11; (u.state, u.name, u.depth, u.dramGood, u.computeGood) = (.clocked, 0, 1, true, false)) ∧
    ((tAfter (exec (.siteRetire ⟨0, 0, 1, none⟩) (tAtChiplet { tSite with state := .fenced, before := 5 } 5))).site 11).state = .retired ∧
    ((tAfter (exec (.siteGreeted 0) (tSited (fun t => { t with state := .clocked, greets := [(1, true), (2, true)] })))).site 0).state = .greeted := by decide +kernel

/-- A record for site 0. -/
def tRecord : ConfigRec := { proc := 0, name := 7, part := 1, rect := 0x08400, rw := 0, rh := 0, remap := [0, 1, 31], pins := [] }

theorem test_hyp_configuration : (let s := tAtChiplet { tSite with state := .greeted, staged := some tRecord } 5; (s.site 11).state = .greeted ∧ (s.site 11).staged = some tRecord ∧ tRecord.proc = 0 ∧
      (s.sysTrip 0 11 1).2 = true ∧ (s.sysTrip 0 11 (dataFlits 368)).2 = true ∧ ((s.sysTrip 0 11 (dataFlits 368)).1.site 11).state = .greeted) ∧
    ((tSited id).sysTrip 0 0 1).2 = false ∧ ((tSited id).sysTrip 0 0 (dataFlits 368)).2 = false ∧ (tSited (fun t => { t with state := .greeted })).site 0 ≠ tSite ∧
    (0xFDF : BitVec 12).toNat < 0xFE0 ∧ 0xFE0 ≤ (0xFE0 : BitVec 12).toNat ∧
    (∀ st ∈ [SiteState.named, .loaded, .running, .fenced], (((tAtChiplet { tSite with state := st } 5).sysTrip 0 11 (dataFlits 368)).1.site 11).state = st) := by
  decide +kernel

theorem test_configuration : (let t := tAfter (exec (.configCommit 11) (tAtChiplet { tSite with state := .greeted, staged := some tRecord } 5));
     ((t.site 11).state, (t.site 11).name, (t.site 11).ncores) = (.named, 7, 2)) ∧
    (tAfter (exec (.configRecord 11 0 0xFE0 1 0 0 0 [] []) (tAtChiplet { tSite with state := .greeted } 5))).reports = [.refused 0 0] ∧
    (tAfter (exec (.configRecord 0 0 7 1 0 0 0 [] []) (tSited (fun t => { t with state := .greeted })))).reports = [.refused 0 0x21] := by decide +kernel

theorem test_hyp_clock_switch : (tSited id).clockSource 0 0 1 = none ∧ (let s := tBeside (fun t => { t with clksrc := 3, depth := 2 });
     s.clockSource 0 3 2 = some (2, 2) ∧ (s.site 0).clksrc ≠ 7 ∧ (s.site 0).state ≠ .dark ∧ (s.site 0).state ≠ .retired) ∧ (tSited id).site 0 = tSite := by decide +kernel

/-- A trace record that waits for the DRAM of site 0: of a gated site, of one that serves, and of one that is FENCED. -/
theorem test_hyp_relock : let w : Nat × Nat × List Byte := (0, 0x10000, [1, 2]); let s (f : Site → Site) : State := { tSited f with traceWaits := [w] };
    let waits (u : State) : Bool := (u.site (homeOf w.2.1)).gated || (u.site (homeOf (u.gleanPA w.2.1))).gated;
    (tSited id).traceWaits = [] ∧ waits (s (fun t => { t with gated := true })) = true ∧ (s id).traceWaits = [w] ∧ waits (s id) = false ∧
    ((s id).homeCode w.2.1).isSome = false ∧ ((s id).site (homeOf ((s id).gleanPA w.2.1))).state ≠ .fenced ∧
    waits (s (fun t => { t with state := .fenced, before := 5 })) = false ∧ ((s (fun t => { t with state := .fenced })).site 0).state = .fenced := by decide +kernel

theorem test_relock : let s : State := { tSited (fun t => { t with gated := true }) with traceWaits := [(0, 0x10000, [1, 2])] };
    ((tAfter (exec (.relockDone 0) s)).physRead 0x10000 2, (tAfter (exec (.relockDone 0) s)).traceWaits) = (0x0201, []) := by decide +kernel

theorem test_clock_switch : (let t := tAfter (exec (.clockSwitch 0) (tBeside (fun t => { t with clksrc := 3, depth := 2 }))); ((t.site 0).clksrc, (t.site 0).clksw, (t.site 0).gated) = (2, 1, true)) ∧
    ((tAfter (exec (.clockSwitch 0) (tSited id))).site 0).state = .fenced := by decide +kernel

theorem test_hyp_retirement : State.reset.up = false ∧ (tSited id).up = true ∧ retiredBy ((State.reset.logAppend 5 7).logScan) 5 = true ∧ retiredBy ((State.reset.logAppend 5 7).logScan) 6 = false ∧
    State.reset.logScan.length < 1024 := by decide +kernel

theorem test_retirement : ((tAfter (exec .bringUp (State.reset.logAppend 5 7))).site 5).state = .retired ∧ (tAfter (exec .bringUp (State.reset.logAppend 5 7))).boots = 1 := by decide +kernel

theorem test_hyp_fencing : 0 ∈ (tSited id).coresOf 0 ∧ ((tSited id).slot 0 3).state = .running ∧ ((tSited id).slot 0 4).state = .empty ∧ ((tOther { tSlot .c with state := .frozen } id).slot 0 7).state = .frozen := by
  decide +kernel

theorem test_fencing : (let t := tAfter (exec (.baseDieError 0) (tSited id)); ((t.slot 0 3).state, (t.slot 0 3).before) = (.halted, .running)) := by decide +kernel

/-- The site packet of a load to site 0, from processor 0, with this digest. -/
def tLoadFlight (digest : BitVec 384) (placed : List Nat) : Flight :=
  { tFlight (.proc 0) (.coords 0) (.sitePacket [(0, [])] placed [] digest []) with cls := .system }

theorem test_hyp_site_packet : (∀ p ∈ [[0], [1]], ({ tSited (fun t => { t with state := .named }) with flights := [tLoadFlight 5 p] } : State).takes 50 (tLoadFlight 5 p)) ∧
    sha384 [] ≠ 5 ∧ (∀ d : BitVec 384, d = sha384 [] → ({ tSited (fun t => { t with state := .named }) with flights := [tLoadFlight d [0]] } : State).takes 50 (tLoadFlight d [0])) :=
  ⟨by decide +kernel, by decide +kernel, fun _ _ => ⟨rfl, rfl, rfl⟩⟩

theorem test_hyp_loading : (tSited (fun t => { t with state := .loaded })).siteNamed 0 1 = some 0 ∧ (tSited id).siteNamed 0 9 = none ∧ ((tSited id).sysTrip 0 0 1).2 = false ∧
    (∀ st ∈ [SiteState.loaded, .named], let s := ((tAtChiplet { tSite with state := st } 5).chargeLink 0 0 1 1).1; s.siteNamed 0 1 = some 11 ∧ (s.sysTrip 0 11 1).2 = true ∧ ((s.sysTrip 0 11 1).1.site 11).state = st) ∧
    ((tSited id).chargeLink 0 0 9 1).2 = true ∧ ((tSited id).chargeLink 0 0 1 (dataFlits 8)).2 = true ∧ ((tSited id).containerAt 0 0 (600 * 2 ^ 33)).2 = none ∧
    (({ tSited id with procs := [(0, { Proc.reset with budgets := [(1, 0)] })] } : State).chargeLink 0 0 0x10000 (dataFlits 8)).2 = false := by decide +kernel

theorem test_unload : ((tAfter (exec (.unload 0 0 [1]) (tAtChiplet { tSite with state := .loaded } 5))).site 11).state = .named ∧
    (tAfter (exec (.load 0 0 0x10000 []) (tSited id))).reports = [.loadDone 0 false] := by decide +kernel

/-- Peer 1 of network chiplet 2, valid there for partition 0. -/
def tPeer (f : Peer → Peer) : State := { tS .k with chips := [(2, { NetChip.reset with peers := [(1, f { Peer.reset with ctl := 0x8800000000000000 })] })] }

/-- A segment of four bytes of channel 0 of core 0. -/
def tRma (seq : Option (BitVec 32)) (sends : Nat) (nacked : Bool) : RmaSeg := { core := 0, ch := 0, from_ := tFlight (.core 0) (.coords 0) (.segAns 0 4 none), red := false, pa := 0x10000, bytes := [1, 2, 3, 4], seq := seq, sends := sends, nacked := nacked, acked := false }

/-- An address at site 8, and one at site 0, to which no links lead. -/
def tPA8 : BitVec 43 := 0x1000010000
def tPA0 : BitVec 43 := 0x10000

/-- The header of a frame of a segment at site 8 with this kind and these numbers. -/
def tHeader (kind seq aux : Nat) (pa : BitVec 43) : List Byte :=
  bytesOf 4 (1 + 256 * kind + 2 ^ 24 * 16) ++ bytesOf 4 seq ++ bytesOf 4 aux ++ bytesOf 6 pa.toNat ++ bytesOf 2 4 ++ List.replicate 12 0

theorem test_hyp_rma_sends : (let p := ((tPeer (fun p => { p with segs := [tRma none 0 false] })).chip 2).peer 1
     p.segs.find? (fun q => q.seq.isNone) = some (tRma none 0 false) ∧ p.valid = true ∧ ahead p.nextSeq p.floor < 4096) ∧ ((tPeer id).chip 2).peer 2 = Peer.reset ∧ Peer.reset.valid = false ∧
    (let p := ((tPeer (fun p => { p with nextSeq := 4096, segs := [tRma (some 0) 1 false] })).chip 2).peer 1; 4096 ≤ ahead p.nextSeq p.floor) ∧
    (∀ q ∈ [tRma (some 0) 5 false, tRma (some 0) 6 false, tRma (some 0) 6 true], (((tPeer (fun p => { p with nextSeq := 1, segs := [q] })).chip 2).peer 1).segs.find? (fun q => q.seq == some 0) = some q) := by
  decide +kernel

theorem test_rma_sends : (tAfter (exec (.rmaSegmentSend 2 1) (tPeer (fun p => { p with nextSeq := 9, segs := [tRma none 0 false] })))).reports = [.datagram 2 1 0 0xC002 0 2 (tHeader 1 9 9 tPA0 ++ [1, 2, 3, 4])] ∧
    (tAfter (exec (.rmaTimer 2 1 0) (tPeer (fun p => { p with segs := [tRma (some 0) 6 false] })))).reports = [.rmaAbandoned 2 1 0] ∧
    (((tAfter (exec (.ack 2 1 0 0 false) (tPeer (fun p => { p with nextSeq := 1, segs := [tRma (some 0) 1 false] })))).chip 2).peer 1).segs = [] := by decide +kernel

/-- A segment that waits at an entry written invalid meanwhile ends its copy with RMA_REFUSED (R287). -/
theorem test_hyp_rma_refused : let p := ((tPeer (fun p => { p with ctl := 0, segs := [tRma none 0 false] })).chip 2).peer 1;
    p.segs.find? (fun q => q.seq.isNone) = some (tRma none 0 false) ∧ p.valid = false ∧
    ((tAfter (exec (.rmaSegmentSend 2 1) (tPeer (fun p => { p with ctl := 0, segs := [tRma none 0 false] })))).chip 2).peer 1 = { Peer.reset with ctl := 0 } := by decide +kernel

theorem test_hyp_rates : Peer.reset.alpha ≤ 65536 ∧ ({ Peer.reset with unmarked := 31 } : Peer).unmarked = 31 ∧ wf modregReset 20 20 ≤ Peer.reset.rate := by decide +kernel

/-- A module whose site 8, next to chiplet 2, marks itself and site 0 as homes. -/
def tHomed (f : Peer → Peer) : State := { tPeer f with sites := nput (tPeer f).sites 8 { tSite with phys := [(0, 0x1000), (8, 0x1000)] }, partRects := [(0, 0xB6000)] }

theorem test_hyp_rma_arrives : ((tPeer id).chip 2).peer 2 = Peer.reset ∧ wf 0x8800000000000000 58 5 = 2 ∧ (((tHomed id).chip 2).peer 1).valid = true ∧ ahead 0 0 < 4096 ∧ (Peer.reset.toFloor 0).marks = [] ∧
    ({ Peer.reset with marks := [5] } : Peer).marks.contains (5 : BitVec 32).toNat = true ∧ 4096 ≤ ahead 0xFFFFFFFF 0 ∧ 1 ≤ ahead 0 0xFFFFFFFF ∧ ahead 0 0xFFFFFFFF ≤ 4096 ∧
    4096 < ahead 0 0x80000000 ∧ 4096 ≤ ahead 0x80000000 0 ∧ (tHomed id).rmaAllowed 2 0 tPA8.toNat 4 = true ∧ ((tHomed id).reach (.chip 2) ((tHomed id).port 0 2) 0 tPA8.toNat (dataFlits 4) 1).2.reached = true ∧ (tHomed id).port 0 2 = 8 ∧
    (tHomed id).rmaAllowed 2 0 tPA0.toNat 4 = true ∧ ((tHomed id).reach (.chip 2) ((tHomed id).port 0 2) 0 tPA0.toNat (dataFlits 4) 1).2.reached = false ∧ (tPeer id).rmaAllowed 2 0 (600 * 2 ^ 33) 4 = false ∧
    budgetRefuses [] [] 0 1 = false ∧ budgetRefuses [(0, 1)] [(0, 1)] 0 1 = true := by decide +kernel

theorem test_rma_arrives : (tAfter (exec (.data 2 1 false false 0 0 tPA8 [1, 2, 3, 4]) (tHomed id))).physRead tPA8.toNat 4 = 0x04030201 ∧
    (tAfter (exec (.data 2 1 false false 0 0 tPA8 [1, 2, 3, 4]) (tHomed id))).reports = [.datagram 2 1 0 0xC002 0 2 (tHeader 2 0 1 tPA8)] ∧
    (tAfter (exec (.data 2 1 false false 0 0 tPA0 [1, 2, 3, 4]) (tHomed id))).reports = [.datagram 2 1 0 0xC002 0 2 (tHeader 4 0 0 tPA0)] := by decide +kernel

theorem test_peer_entries : (((tAfter (exec (.peerEntryWrite 2 1 0x8800000000000000) (tPeer (fun p => { p with nextSeq := 1, segs := [tRma (some 0) 1 false] })))).chip 2).peer 1).segs = [] ∧
    (((tAfter (exec (.peerEntryWrite 2 1 0) (tPeer (fun p => { p with nextSeq := 1, segs := [tRma (some 0) 1 false] })))).chip 2).peer 1).segs.length = 1 := by decide +kernel

/-- The digest of the bytes that the container below signs, which is also an x of the curve: with r = s = x, a signature verifies against the key
that is the difference of a point over x and the base point. -/
def tDigest : Nat := 0x806f23c96ce2a5ed2bd2f4b522eca8b22071ef857c8653c45da18d5fdb9f36c4009bc00360b474357e4298e9474b1814

/-- That key. -/
def tKey : BitVec 768 :=
  0x3f9446ef7573e54b1afcbf245b4c13212b965bd718ef542a85f1502e244386441c3a60eb166c9904e7218c4c507a2baa56a89dabf8e6bcea538ce8efde8a8bb534de508c5d02e9427b9d13a0c0369cfbded5b863ccfdffe69f552ee7fe9cfbe4

/-- A container of its signature record alone. -/
def tContainer : List Byte :=
  bytesOf 4 0x4D494C57 ++ bytesOf 2 1 ++ bytesOf 2 1 ++ bytesOf 8 192 ++ List.replicate 48 0 ++ bytesOf 4 15 ++ bytesOf 4 112 ++ List.replicate 24 0 ++
    (bytesOf 48 tDigest).reverse ++ (bytesOf 48 tDigest).reverse

/-- The digest of the three bytes "abc", as FIPS 180-4 gives it, and of what the container signs. -/
theorem test_sha384 : sha384 [0x61, 0x62, 0x63] = 0xcb00753f45a35e8bb5a03d699ac65007272c32ab0eded1631a8b605a43ff5bed8086072ba1e7cc2358baeca134c825a7 ∧
    (sha384 (tContainer.take 64)).toNat = tDigest := by decide +kernel

/-- That container opens under its key, and not under another (R393). -/
theorem test_container : openContainer [(0, tKey)] tContainer = some [] ∧ openContainer [(0, tKey + 1)] tContainer = none := by decide +kernel

/-- It stands at 0x10000 of site 11, next to control chiplet 0. -/
def tLoadPA : Nat := 11 * 2 ^ 33 + 0x10000
def tLoad : State := { tAtChiplet { tSite with phys := [(11, 0x1000)] } 5 with dram := memPuts [] (placeAt tLoadPA tContainer), keys := [(0, tKey)] }

/-- Its LOAD is paid for. -/
def tLoads : State := (tLoad.chargeLink 0 0 tLoadPA (dataFlits 8)).1

/-- Its two lines, by the number of a byte. -/
def tLoadsLine (i : Nat) : BitVec 1024 :=
  if i < 128 then
    0xc4369fdb5f8da15dc453867c85ef7120b2a8ec22b5f4d22beda5e26cc9236f80000000000000000000000000000000000000000000000000000000700000000f00000000000000000000000000000000000000000000000000000000000000000000000000000000000000000000000000000000000000c0000100014d494c57#1024
  else 0x14184b47e998427e3574b46003c09b00c4369fdb5f8da15dc453867c85ef7120b2a8ec22b5f4d22beda5e26cc9236f8014184b47e998427e3574b46003c09b00#1024

theorem tLoads_lines (i : Nat) (h : i < 192) : tLoads.lineData (lineOf (tLoadPA + i)) = tLoadsLine i := by
  have e : lineOf (tLoadPA + i) = if i < 128 then 11 * 2 ^ 26 + 0x200 else 11 * 2 ^ 26 + 0x201 := by unfold lineOf tLoadPA; split <;> omega
  rw [e]
  unfold tLoadsLine
  split <;> decide +kernel

/-- Where nothing has been moved, nothing is forwarded. -/
theorem gleanPA_none (s : State) (h : s.gmoves = []) (pa : Nat) : s.gleanPA pa = pa := by
  unfold State.gleanPA
  rw [h]
  rfl

/-- What a processor reads of it, in any state with that memory. -/
theorem tLoads_read (s : State) (h : s.gmoves = [] ∧ s.l2 = [] ∧ s.dram = tLoads.dram) (a n : Nat) (l : a + n ≤ 192) :
    s.physRead (tLoadPA + a) n = ofBytes ((List.range n).map (fun i => BitVec.ofNat 8 (fieldOf (tLoadsLine (a + i)).toNat (8 * ((tLoadPA + (a + i)) % 128)) 8))) := by
  have same : ∀ x, s.lineData x = tLoads.lineData x := fun x => by
    unfold State.lineData State.dramLine
    rw [h.2.1, h.2.2, show tLoads.l2 = [] from rfl]
  unfold State.physRead
  rw [List.map_congr_left (fun i hi => ?_)]
  have hi := List.mem_range.1 hi
  rw [gleanPA_none s h.1, Nat.add_assoc]
  dsimp only
  rw [same, tLoads_lines (a + i) (by omega)]

/-- The state once the chiplet has read its header, and once it has read it all. -/
def tLoads1 : State := (tLoads.linkRead 0 0 tLoadPA 64).1
def tLoads2 : State := (tLoads1.linkRead 0 0 (tLoadPA + 64) 128).1

theorem test_hyp_container : tLoads.containerAt 0 0 tLoadPA = (tLoads2, some tContainer) := by
  have h1 : tLoads1.gmoves = [] ∧ tLoads1.l2 = [] ∧ tLoads1.dram = tLoads.dram := by decide +kernel
  have n : tLoads1.physRead (tLoadPA + 8) 8 = 192 := (tLoads_read _ h1 8 8 (by decide)).trans (by decide +kernel)
  have h2 : tLoads2.gmoves = [] ∧ tLoads2.l2 = [] ∧ tLoads2.dram = tLoads.dram := by decide +kernel
  unfold State.containerAt
  rw [if_neg (by decide +kernel), show tLoads.linkRead 0 0 tLoadPA 64 = (tLoads1, none) from Prod.ext rfl (by decide +kernel)]
  dsimp only
  rw [n, if_neg (by decide +kernel), show tLoads1.linkRead 0 0 (tLoadPA + 64) (192 - 64) = (tLoads2, none) from Prod.ext rfl (by decide +kernel)]
  dsimp only
  rw [← Nat.add_zero tLoadPA, tLoads_read _ h2 0 192 (by decide), (by decide +kernel : bytesOf 192 (ofBytes ((List.range 192).map _)) = tContainer)]

theorem test_hyp_load : (tLoad.chargeLink 0 0 tLoadPA (dataFlits 8)).2 = true ∧ tLoads2.keys = [(0, tKey)] ∧ openContainer tLoads2.keys [] = none ∧
    tLoads2.placedCores 0 [] = [] ∧ tLoads2.bootTree 0 [] = [] := by decide +kernel

theorem test_hyp_load_segments : tLoads2.writeSegments 0 0 [] (segmentBytes []) = (tLoads2, true) ∧
    (tLoads2.writeSegments 0 0 [] [(0, 1)]).2 = false := by decide +kernel

/-! ## Command processors -/

/-- An L2 line of these dwords. -/
def tLine (w : List Word) : L2Line := { data := BitVec.ofNat 1024 (w.foldr (fun x n => x.toNat + 2 ^ 64 * n) 0), code := 0, tensor := 0, pin := false, used := 0 }

/-- Processor 0, which sits at site 11, whose queue 1 holds one packet of four dwords at 0x100000 of that site; its semaphores stand at 0x200000, a
launch record at 0x180000. -/
def tQueue (kind : Bool) (w : List Word) (f : CQueue → CQueue) : State :=
  { tS .k with l2 := [(0x2C002000, tLine w), (0x2C003000, tLine [0x08400, 0x140000000000])], partRects := [(0, 0xB6000)],
               sites := [(0, tSite), (11, { tSite with name := 2, phys := [(11, 0x1000)] })],
               procs := [(0, { Proc.reset with sembase := 0x1600200000, queues := [(1, f { CQueue.reset with qcfg := if kind then 0xC000001600100000 else 0x8000001600100000, wr := 1 })] })] }

/-- The packet of that queue passes its checks: the fetch meets no code. -/
def tRuns (s : State) (ty : Nat) : Bool :=
  let x := s.queue 0 1
  let w := (List.range 4).map (fun i => wd (s.physRead (x.packetPA + 8 * i) 8))
  let v := (s.procTick 0 1).chargeLink 0 x.part x.packetPA 1
  let t := v.1.linkTrip 0 x.part x.packetPA 1 2
  x.on && x.st == .idle && x.wait.isNone && x.rd != x.wr && s.paGood x.part x.base && wf (w.getD 0 0) 0 8 == ty && v.2 && t.2.isNone && (t.1.procBreak 0 1 ty w).isNone && (t.1.packetError x ty w).isNone

theorem test_hyp_packets : tRuns (tQueue false [0] id) 0 = true ∧ tRuns (tQueue false [1, 0x1600180000] id) 1 = true ∧ tRuns (tQueue true [2, 0x1600300000, 0x1600400000, 64] id) 2 = true ∧
    tRuns (tQueue false [3, 1, 50] id) 3 = true ∧ tRuns (tQueue false [4, 5] id) 4 = true ∧ tRuns (tQueue false [5, 99] id) 5 = true ∧ tRuns (tQueue false [6] id) 6 = true ∧
    tRuns (tQueue false [7, 3] id) 7 = true ∧ tRuns (tQueue false [8, 0x1600200100, 9] id) 8 = true := by
  refine ⟨?_, ?_, ?_, ?_, ?_, ?_, ?_, ?_, ?_⟩ <;> decide +kernel

/-- The charges that SIGNAL, WAITGE and COPY pay, the homes of their semaphores and what a WAITGE finds. -/
theorem test_hyp_packet_costs : (let s := tQueue false [4, 5] id; let c := s.chargeLink 0 (s.queue 0 1).part (s.semPA 0 0) 1;
      c.2 = true ∧ c.1.hasHome (c.1.semPA 0 0) = true ∧ (0 : Word).toNat ≤ (c.1.semGet 0 0).toNat ∧ (c.1.semGet 0 0).toNat < (1 : Word).toNat) ∧
    (let s := tQueue true [2, 0x1600300000, 0x1600400000, 64] id; (s.chargeLink 0 (s.queue 0 1).part 0x1600300000 2).2 = true) ∧ ((tQueue false [6] id).queue 0 1).wait = none := by decide +kernel

/-- A state whose site 11 is FENCED, or is the home of nothing for its router; and one whose line at that address has failed. -/
def tFenced (s : State) : State := { s with sites := [(0, tSite), (11, { tSite with name := 2, state := .fenced, before := 5, phys := [(11, 0x1000)] })] }
def tNoHome (s : State) : State := { s with sites := [(0, tSite), (11, { tSite with name := 2 })] }
def tBadLine (s : State) (a : Nat) : State := { s with bad := [lineOf a] }

/-- The ways of a queue's accesses that meet no code and that meet one: the fetch, a MARK, a semaphore, the record of a LAUNCH, a LAUNCH whose sites
are not LOADED. -/
theorem test_hyp_packet_ways : (let trip (s : State) (out back a : Nat) : Option (BitVec 8) := (s.linkTrip 0 (s.queue 0 1).part a out back).2; let s := tQueue true [0] id;
      trip s 1 2 0x1600100000 = none ∧ trip (tFenced s) 1 2 0x1600100000 = some 0x26 ∧ trip (tNoHome s) 1 2 0x1600100000 = some 0x27 ∧ trip s 2 1 0x1600200100 = none ∧
      trip s 2 2 0x1600200000 = none ∧ trip (tBadLine s 0x1600200000) 2 2 0x1600200000 = some 0x11 ∧ trip s 1 2 0x1600200000 = none ∧ trip (tBadLine s 0x1600200000) 1 2 0x1600200000 = some 0x11 ∧
      trip s 1 (dataFlits 128) 0x1600180000 = none ∧ trip (tBadLine s 0x1600180000) 1 (dataFlits 128) 0x1600180000 = some 0x11 ∧ (0x11 : BitVec 8) ≠ 0x23 ∧ (0x11 : BitVec 8) ≠ 0x27 ∧
      ((tBadLine s 0x1600200100).linkAccess 0 0 0x1600200100 2 1 id).2 = some 0x11 ∧ ((tBadLine s 0x1600200000).linkAccess 0 0 0x1600200000 2 2 (fun g => g.semPut 0 0 1)).2 = some 0x11) ∧
    (let s := tQueue false [1, 0x1600180000] id; s.launchRefused 0x1600180000 = false ∧
      ({ s with sites := [(0, { tSite with state := .named }), (11, { tSite with name := 2, phys := [(11, 0x1000)] })] } : State).launchRefused 0x1600180000 = true) := by decide +kernel

theorem test_packet_ways : ((tAfter (exec (.nop 0 1) (tFenced (tQueue false [0] id)))).queue 0 1).detail = 0x26 ∧
    (let x := (tAfter (exec (.signal 0 1) (tBadLine (tQueue false [4, 5] id) 0x1600200000))).queue 0 1; (x.err, x.detail) = (7, 0x11)) := by decide +kernel

theorem test_packets : (tAfter (exec (.interrupt 0 1) (tQueue false [5, 99] id))).reports = [.interrupt 0 1 99] ∧ ((tAfter (exec (.jump 0 1) (tQueue false [7, 3] id))).queue 0 1).rd = 3 ∧
    ((tAfter (exec (.nop 0 1) (tQueue false [0] id))).queue 0 1).rd = 1 ∧ ((tAfter (exec (.waitge 0 1) (tQueue false [3, 1, 50] id))).queue 0 1).st = .waiting := by decide +kernel

theorem test_packets_memory : (tAfter (exec (.signal 0 1) (tQueue false [4, 5] id))).physRead 0x1600200000 8 = 5 ∧ ((tAfter (exec (.launch 0 1) (tQueue false [1, 0x1600180000] id))).site 0).claimed = true ∧
    ((tAfter (exec (.queueCopy 0 1) (tQueue true [2, 0x1600300000, 0x1600400000, 64] id))).proc 0).works.map (·.copy) = [some (0x1600300000, 0x1600400000, 64)] := by decide +kernel

theorem test_hyp_packet_checks : ((tQueue false [0] (fun x => { x with qcfg := 0 })).queue 0 1).on = false ∧ ((tQueue false [0] (fun x => { x with st := .waiting })).queue 0 1).st = .waiting ∧
    ((tQueue false [0] (fun x => { x with rd := 1 })).queue 0 1).rd = 1 ∧ (let s := tQueue false [0] (fun x => { x with qcfg := 0x8400001600100000 }); s.paGood (s.queue 0 1).part (s.queue 0 1).base = false) ∧
    (let s := tQueue false [9] id; let x := s.queue 0 1; let w := (List.range 4).map (fun i => wd (s.physRead (x.packetPA + 8 * i) 8));
      8 < wf (w.getD 0 0) 0 8 ∧ s.paGood x.part x.base = true ∧ ((s.procTick 0 1).chargeLink 0 x.part x.packetPA 1).2 = true) ∧
    (let s := tQueue false [0, 1] id; let x := s.queue 0 1; let w := (List.range 4).map (fun i => wd (s.physRead (x.packetPA + 8 * i) 8)); let v := (s.procTick 0 1).chargeLink 0 x.part x.packetPA 1;
      let t := v.1.linkTrip 0 x.part x.packetPA 1 2; v.2 = true ∧ t.2 = none ∧ t.1.procBreak 0 1 0 w = none ∧ t.1.packetError x 0 w = some 2) ∧
    (let s : State := { tQueue false [0] id with procs := (tQueue false [0] id).procs.map (fun p => (p.1, { p.2 with budgets := [(1, 0)] })) };
      ((s.procTick 0 1).chargeLink 0 (s.queue 0 1).part 0x1600100000 1).2 = false) ∧
    (let s : State := { tQueue false [0] id with procs := (tQueue false [0] id).procs.map (fun p => (p.1, { p.2 with bps := [(0, 0xC100000000000000)] })) };
      let v := (s.procTick 0 1).chargeLink 0 (s.queue 0 1).part 0x100000 1; let t := v.1.linkTrip 0 (s.queue 0 1).part 0x1600100000 1 2; v.2 = true ∧ t.2 = none ∧ t.1.procBreak 0 1 0 [0, 0, 0, 0] = some 0) := by decide +kernel

theorem test_packet_checks : ((tAfter (exec (.nop 0 1) (tQueue false [9] id))).queue 0 1).err = 1 ∧ ((tAfter (exec (.nop 0 1) (tQueue false [0, 1] id))).queue 0 1).err = 2 := by decide +kernel

/-- A launch of site 0 with the K role on slot 14. -/
def tLaunch : Launch := launchOfWords [0x08400, 0x140000000000]

theorem test_hyp_waits : ((tQueue false [0] (fun x => { x with st := .waiting, wait := some (.waitge 3 5 (some 70)) })).queue 0 1).wait = some (.waitge 3 5 (some 70)) ∧
    (let s := tQueue false [0] (fun x => { x with st := .waiting, wait := some (.waitge 3 5 none) }); let t : State := s.modProc 0 (fun p => { p with reports := [(3, 5), (3, 4)] });
      (t.proc 0).reports = [(3, 5), (3, 4)] ∧ (nget (t.proc 0).queues 1).isSome = true ∧ (t.queue 0 1).wait = some (.waitge 3 5 none)) ∧
    (let s := (tQueue false [0] (fun x => { x with st := .waiting, wait := some (.fence [7]) })).modProc 0 (fun p => { p with works := [{ id := 7, queue := 1, index := 0, dword0 := 0, sites := [], cores := [], copy := none }] });
      (s.queue 0 1).wait = some (.fence [7]) ∧ (∃ w ∈ (s.proc 0).works, w.id ∈ [7])) ∧
    (let s := tQueue false [0] (fun x => { x with st := .waiting, wait := some (.fence [7]) }); (∀ w ∈ (s.proc 0).works, w.id ∉ [7]) ∧ (s.queue 0 1).st = .waiting) ∧
    (let s := tQueue false [0] (fun x => { x with st := .waiting, wait := some (.launch 7 tLaunch 0 true) });
      (s.queue 0 1).wait = some (.launch 7 tLaunch 0 true) ∧ (rectSites tLaunch.rect).any (fun n => (s.site n).state == .running) = true ∧
        ∀ n ∈ rectSites tLaunch.rect, (({ s with sites := [(0, { tSite with state := .loaded })] } : State).site n).state = .loaded) := by decide +kernel

/-- Two LAUNCHes that wait: the later one's sites are claimed by the earlier, and one of them is not LOADED. -/
theorem test_hyp_launch_waits : let s := (tQueue false [0] (fun x => { x with st := .waiting, wait := some (.launch 7 tLaunch 0 true) })).modQueue 0 2 (fun x => { x with wait := some (.launch 6 tLaunch 0 false) });
    s.claimedBefore 7 tLaunch.rect = true ∧ s.claimedBefore 6 tLaunch.rect = false ∧ (s.queue 0 2).wait = some (.launch 6 tLaunch 0 false) ∧ (∃ n ∈ rectSites tLaunch.rect, (s.site n).state = .running) ∧
    (let u : State := { s with sites := [(0, { tSite with state := .named })] }; (∃ n ∈ rectSites tLaunch.rect, (u.site n).state ≠ .loaded) ∧ ¬∃ n ∈ rectSites tLaunch.rect, (u.site n).state = .running) := by
  decide +kernel

theorem test_waits : (let s := (tQueue false [0] (fun x => { x with st := .waiting, wait := some (.waitge 3 5 none) })).modProc 0 (fun p => { p with reports := [(3, 5)] }); ((tAfter (exec (.semaphoreReport 0) s)).queue 0 1).wait = none) ∧
    ((tAfter (exec (.waitgeTimeout 0 1) (tQueue false [0] (fun x => { x with rd := 1, st := .waiting, wait := some (.waitge 3 5 (some 70)) })))).queue 0 1).rd = 0 ∧
    ((tAfter (exec (.queueFence 0 1) (tQueue false [0] (fun x => { x with st := .waiting, wait := some (.fence [7]) })))).queue 0 1).st = .active := by decide +kernel

/-- The K-role image for slot 14. -/
def tRole : RoleImage := { role := .k, slots := 0x4000, entry := 0x10000, plots := [] }

theorem test_hyp_launch : tLaunch.roleCodeOf 14 = 5 ∧ imageFor [tRole] 14 = some tRole ∧ tLaunch.isWorker 14 = false ∧ ({ tLaunch with workers := 0x4000 } : Launch).isWorker 14 = true ∧
    tLaunch.roleCodeOf 0 = 0 ∧ imageFor [tRole] 3 = none ∧
    (let k : Core := { Core.reset with channels := [(0, { Channel.reset with claim := some 3 })], claims := [(3, { target := .slot, cls := 6, cancellable := false, slot := 3, file := .x, reg := 5, watch := 0, lost := false })] };
      (∀ p ∈ k.channels, p.2.claim = some 3) ∧ (nget k.claims 3).isSome = true ∧ nget (k.launched tLaunch 0 (fun _ _ => 0)).claims 3 = none) := by decide +kernel

/-- The same launch of site 11, which processor 0 reaches. -/
def tLaunches : State := { tQueue false [0] (fun x => { x with st := .waiting, wait := some (.launch 7 (launchOfWords [0x0840B, 0x140000000000]) 0x2000000004 true) }) with
  sites := [(11, { tSite with name := 2, state := .loaded, phys := [(11, 0x1000)] })], cores := [(176, { Core.reset with roles := [tRole] })] }

theorem test_launch : (let t := tAfter (exec (.launchStart 0 1) tLaunches);
    (t.site 11).state = .running ∧ (t.slot 176 14).pc = 0x10000 ∧ (t.slot 176 14).role = .k ∧ (t.core 176).rdir = 0x2000000004) := by decide +kernel

/-- The trips of a launch and the way of a semaphore's report: one that is reached, and one that is not. -/
theorem test_hyp_launch_trips : (tLaunches.launchTrips 0 [11]).2 = true ∧ (({ tLaunches with sites := [(0, { tSite with state := .loaded })] } : State).launchTrips 0 [0]).2 = false ∧
    (let s := (tQueue false [0] id).modProc 0 (fun p => { p with reports := [(3, 5)] });
      (s.rideBack none 11 (s.procPort 0) (s.siteSource 11) true none 2).2 = true ∧ (s.rideBack none 0 (s.procPort 0) (s.siteSource 0) true none 2).2 = false) := by decide +kernel

/-- Processor 0 with this work. -/
def tWork (w : Work) : State := (tQueue false [0] id).modProc 0 (fun p => { p with works := [w] })

theorem test_hyp_works : (let w : Work := { id := 7, queue := 1, index := 0, dword0 := 0x8000000000010000, sites := [], cores := [0], copy := none };
      ((tWork w).proc 0).works.find? (fun w => w.id == 7) = some w ∧ ((tWork w).proc 0).works.find? (fun w => w.id == 8) = none ∧ (∀ c ∈ w.cores, ∀ a ∈ ((tWork w).core c).accs, a.kind ≠ .w ∧ a.kind ≠ .a) ∧
        (∀ q ∈ ((tWork w).proc 0).queues, q.2.wait = none) ∧ ∃ q ∈ ((tQueue false [0] (fun x => { x with st := .waiting, wait := some (.launch 7 (launchOfWords [0x08400]) 0 true) })).proc 0).queues, q.2.wait.isSome = true) ∧
    (let w : Work := { id := 7, queue := 1, index := 0, dword0 := 0x8000000000010000, sites := [], cores := [], copy := some (0x1600180000, 0x1600400000, 2) };
      ((tWork w).proc 0).works.find? (fun w => w.id == 7) = some w ∧ ((tWork w).copyLines 0 0 0x1600180000 0x1600400000 2 2).2 = none ∧ ((tWork w).copyLines 0 0 (600 * 2 ^ 33) 0 2 2).2 = some 0x27) ∧
    (let w : Work := { id := 7, queue := 1, index := 0, dword0 := 0, sites := [0], cores := [], copy := none }; w.sites ≠ []) := by decide +kernel

theorem test_works : (let s := (tQueue false [0] id).modProc 0 (fun p => { p with works := [{ id := 7, queue := 1, index := 0, dword0 := 0x8000000000020000, sites := [], cores := [0], copy := none }] });
     (tAfter (exec (.launchComplete 0 7) s)).physRead 0x1600200000 8 = 2) ∧
    (tAfter (exec (.queueCopyComplete 0 7) (tWork { id := 7, queue := 1, index := 0, dword0 := 0, sites := [], cores := [], copy := some (0x1600180000, 0x1600400000, 2) }))).physRead 0x1600400000 2 = 0x8400 := by decide +kernel

theorem test_hyp_control : ((tQueue false [0] (fun x => { x with st := .error })).queue 0 1).st = .error ∧ ((tQueue false [0] id).queue 0 1).st = .idle ∧ ((tQueue false [0] (fun x => { x with st := .halted })).queue 0 1).st = .halted ∧
    ((tQueue false [0] id).chargeLink 0 0 1 1).2 = true ∧ ((tQueue false [0] id).chargeLink 0 0 1 1).1.unitSite 0 1 = (0, none) ∧ ((tQueue false [0] id).chargeLink 0 0 9 1).1.unitSite 0 9 = (0, some 0x20) ∧
    ((({ tQueue false [0] id with procs := [(0, { Proc.reset with budgets := [(1, 0)] })] } : State)).chargeLink 0 0 1 1).2 = false ∧ (8 : BitVec 32).toNat % 8 = 0 ∧ tableOff 1 0x9080 = false := by decide +kernel

theorem test_control : ((tAfter (exec (.queueDoorbell 0 1 9) (tQueue false [0] id))).queue 0 1).wr = 9 ∧ ((tAfter (exec (.queueRestart 0 1) (tQueue false [0] (fun x => { x with st := .error })))).queue 0 1).st = .active ∧
    ((tAfter (exec (.processorResume 0) (tQueue false [0] (fun x => { x with st := .halted })))).queue 0 1).st = .active ∧
    (tAfter (exec (.regread 0 9 0 0) (tQueue false [0] id))).reports = [.refused 0 0x20] := by decide +kernel

/-! ## Frames and the machine -/

theorem test_hyp_scalar_frame : (tS .c).noRepeat ∧ (∀ n ∈ [0, 10, 11, 31], (tS .c).readable .x n) ∧ (tS .c).writable .x 5 ∧ (tS .c).writable .x 0 ∧
    ((tS .c).me.pc + immB 0 4).toNat % 4 = 0 ∧ ((tS .c).me.pc + immJ 0x80400).toNat % 4 = 0 ∧ (((tS .c).xv 10 + (4 : BitVec 12).signExtend 64) &&& ~~~1).toNat % 4 = 0 := by decide +kernel

theorem test_hyp_vector_frame : (tS .v).noRepeat ∧ (tS .v).me.role = .v ∧ (∀ n ∈ [0, 1, 31], (tS .v).readable .v n ∧ (tS .v).writable .v n) ∧ (0 : BitVec 3) < 5 ∧ (2 : BitVec 3) ≤ 4 ∧ (4 : BitVec 3) < 5 ∧
    (tS .v).readable .x 11 := by decide +kernel

/-- A slot of role K whose x10 is the address of register 0x9400 of site 1's router, and one that is not aligned. -/
def tRouter (a : Word) : State := tState (tCore { tSlot .k with x := [(10, ⟨.full, a⟩), (11, ⟨.full, 7⟩)] })

theorem test_hyp_router : ((tRouter 0x1000009400).noRepeat ∧ (∀ n ∈ [10, 11], (tRouter 0x1000009400).readable .x n) ∧ (tRouter 0x1000009400).writable .x 5 ∧ ((tRouter 0x1000009400).xv 10).toNat % 8 = 0 ∧
      ((tRouter 0x1000009404).xv 10).toNat % 8 ≠ 0 ∧ ((tRouter 0x1000009400).here.sb.filter (fun x => !x.sent)).length < 64 ∧ (tRouter 0x1000009400).here.sb = [] ∧
      (tRouter 0x1000009400).me.acquires = [] ∧ (tRouter 0x1000009400).me.fences = []) ∧
    (∀ lo n, (tRouter 0x1000009400).meets lo n = []) ∧ ∃ u c, (tRouter 0x1000009400).pend .x 5 1 false = some (u, some c) := by
  refine ⟨by decide +kernel, fun lo n => ?_, claim_of _ .x 5 1 false rfl (by decide)⟩
  unfold State.meets
  rw [(by decide +kernel : (tRouter 0x1000009400).here.accs = [])]
  rfl

theorem test_router : (tAfter (exec (.rtrd 10 5) (tRouter 0x1000009400))).flights.map (·.dest) = [.name 0x10] ∧ (tAfter (exec (.rtrd 10 5) (tRouter 0x1000009404))).me.tcause = 4 := by decide +kernel

/-- The state after reset with ADD x13, x10, x14 where the next step fetches. -/
def tFetch (w : Nat) : State := State.reset.withFetchWord 32 w

theorem test_hyp_step : ∀ s ∈ [tFetch 0x00E506B3, (tFetch 0x00E506B3).modCore 0 (fun k => { k with turnDue := false, cycle := k.cycle - 1 })], s.mover = .turn 0 ∧ s.clocked 0 = true ∧
    (let s0 := if (s.core 0).turnDue then s else s.tick 0; let u := s0.seat 0; let pc := u.me.pc; let e := tEntry
      let v := (u.modHere (fun k => k.useRange e)).modMe (fun t => { t with fetch := none });
      ((s.core 0).turnDue = false → s.dueEvent 0 = none) ∧ (s0.core 0).dueFill 0 = none ∧
      u.handlerDue = false ∧ u.me.underSave = false ∧ u.me.reserved = false ∧ u.me.doneWait = false ∧ u.me.state = .running ∧ u.me.broken = none ∧ u.me.busyUntil < u.here.cycle ∧ pc.toNat % 4 = 0 ∧
      2 ^ 20 ≤ pc.toNat ∧ pc.toNat < windowBase ∧ u.me.walkOut.filter (fun o => o.va == pc) = none ∧ u.here.rangeFor pc = some e ∧ checkEntry e.slot pc.toNat .x = .ok ∧
      u.me.fetch = none ∧ nget u.here.icache (lineOf (wd (rangePA e.slot pc.toNat)).toNat) = some 0x00E506B3 ∧ v.bpHit = none) := by decide +kernel

theorem test_hyp_step_decodes : decodeWord (lineWord 0x00E506B3 (wd (rangePA placeRange placeVa)).toNat) = .ok (.add 14 10 13) ∧
    decodeWord (lineWord 0 (wd (rangePA placeRange placeVa)).toNat) = .error .notFourByte := by decide +kernel

/-- The same word where a range's offset lays it across two lines: the low half ends the first, the high half begins the second. -/
def tSplit : State := (tFetch 0).modCore 0 (fun k => { k with
  ranges := [{ slot := { placeRange with offset := 126 }, index := 1 }],
  icache := [(lineOf placeVa, BitVec.ofNat 1024 (0x06B3 * 2 ^ 1008)), (lineOf placeVa + 1, 0x00E5)] })

theorem test_hyp_split_word : (let e : RangeEntry := { slot := { placeRange with offset := 126 }, index := 1 }; let u := tSplit.seat 0; let a := (wd (rangePA e.slot u.me.pc.toNat)).toNat
      a % 128 = 126 ∧ u.here.rangeFor u.me.pc = some e ∧ checkEntry e.slot u.me.pc.toNat .x = .ok ∧ u.me.fetch = none ∧
      (nget u.here.icache (a / 128)).isSome = true ∧ (nget u.here.icache (a / 128 + 1)).isSome = true ∧
      (0x00E506B3 : BitVec 32) = ((0x00E5 : BitVec 1024) ++ BitVec.ofNat 1024 (0x06B3 * 2 ^ 1008)).extractLsb' (8 * (a % 128)) 32) ∧
    (let t := tAfter (step tSplit); (t.moves, (t.slot 0 t.curSlot).pc)) = (1, wd placeVa + 4) := by decide +kernel

/-- A step at that state runs the instruction: the pc moves on; at a word of zeros it traps with cause 2. -/
theorem test_step : (let t := tAfter (step (tFetch 0x00E506B3)); (t.moves, (t.slot 0 t.curSlot).pc)) = (1, wd placeVa + 4) ∧
    (let t := tAfter (step (tFetch 0)); (t.slot 0 t.curSlot).tcause) = 2 := by decide +kernel

/-- The deadline of a packet of a command processor may be named, that of a core's packet may not. -/
theorem test_hyp_deadlines : ({ tS .c with flights := [tFlight (.proc 0) (.coords 0) (.segAns 0 0 none)] } : State).mayHappen (.noResponse 50) = true ∧
    (tArrive (tS .c) (.segAns 0 0 none)).mayHappen (.noResponse 50) = false := by decide +kernel

theorem test_hyp_step_events : ({ State.reset with mover := .event .bringUp } : State).mover = .event .bringUp ∧ scheduled .bringUp = true ∧ State.reset.gatedOut .bringUp = false ∧ scheduled .ecall = false ∧
    ({ tS .c with sites := [(0, { tSite with gated := true })] } : State).gatedOut (.copy 0 0 0) = true ∧ (tS .c).clocked 0 = true ∧ State.reset.clocked 0 = false ∧
    (tState { tCore (tSlot .c) with deliveries := [⟨4, 5000, .value 7⟩] }).dueEvent 0 = some (.claimDelivery 0 4) ∧
    ({ tCore (tSlot .c) with turnDue := true, timers := [(4, 5000, 4000)] } : Core).dueFill 0 = some (.timerExpiry 0 4) ∧
    (let s := tState { tCore (tSlot .c) with timers := [(4, 5001, 4000)] }; s.dueEvent 0 = none ∧ ((s.tick 0).core 0).dueFill 0 = some (.timerExpiry 0 4)) := by decide +kernel

theorem test_step_events : (tAfter (step { State.reset with mover := .event .bringUp })).up = true ∧
    (tAfter (step { tWork { id := 7, queue := 1, index := 0, dword0 := 0, sites := [], cores := [], copy := none } with mover := .hostWrite 0 0 0x1600010000 [1, 2] })).physRead 0x1600010000 2 = 0x0201 := by decide +kernel

theorem test_encode : encode (.add 14 10 13) = some 0x00E506B3 ∧ (Instr.add 14 10 13).wf = true ∧ decode (bytesOfWord 0x00E506B3 ++ [1]) = .ok (.add 14 10 13, [1]) ∧
    encode (.cpw 3 29 1) ≠ none ∧ encode .bringUp = none := by decide +kernel

theorem test_reset : (State.reset.site 0).state = .dark ∧ (State.reset.core 0).pair = 0xFFFFFFFF ∧ (State.reset.queue 0 0).st = .idle := by decide +kernel

theorem test_hyp_memory : Memory.wf (memWrite [] 0x10 4 0x01020304) = true ∧ memRead (memWrite [] 0x10 4 0x01020304) 0x10 4 = 0x01020304 ∧ memGet (memWrite [] 0x10 4 0x01020304) 0x14 = 0 ∧
    memWrite (memWrite [] 0x10 4 0x01020304) 0x10 4 0 = [] := by decide +kernel

/-- The invariant holds at reset, and a step from there answers a next state. -/
theorem test_hyp_canonical : State.reset.memWf ∧ ∃ t, step State.reset = .next t := by
  refine ⟨⟨by decide, fun c => ?_, by decide⟩, tAfter (step State.reset), by rfl⟩
  simp [State.reset]

end Sys2Proof.Tests
end

section
/-! Memory in canonical form, from the tables up: the sorted tables, the cores' local stores, and what an update of the state must leave alone to keep it
(R2, R20, R193). -/

namespace Sys2Proof.Machine

/-! ## Tables in rising order -/

/-- The keys of a table rise strictly: each is listed once. -/
abbrev keysRise {α : Type} (m : NMap α) : Prop := (m.map (·.1)).Pairwise (· < ·)

theorem mem_nput {α : Type} {m : NMap α} {k : Nat} {v : α} {p : Nat × α} (h : p ∈ nput m k v) : p = (k, v) ∨ p ∈ m := by
  induction m with
  | nil => simpa [nput] using h
  | cons q t ih =>
    simp only [nput] at h
    split at h
    · rcases List.mem_cons.1 h with h | h <;> simp [h]
    · split at h
      · rcases List.mem_cons.1 h with h | h
        · exact .inl h
        · exact .inr h
      · rcases List.mem_cons.1 h with h | h
        · simp [h]
        · rcases ih h with h | h <;> simp [h]

theorem ndel_sublist {α : Type} (m : NMap α) (k : Nat) : (ndel m k).Sublist m := by
  induction m with
  | nil => exact .slnil
  | cons q t ih =>
    simp only [ndel]
    split
    · exact ih.cons q
    · exact ih.cons_cons q

theorem mem_of_nget {α : Type} {m : NMap α} {k : Nat} {v : α} (h : nget m k = some v) : (k, v) ∈ m := by
  induction m with
  | nil => simp at h
  | cons q t ih =>
    obtain ⟨j, u⟩ := q
    simp only [nget] at h
    split at h
    · next e => simp_all
    · exact List.mem_cons_of_mem _ (ih h)

theorem keysRise_ndel {α : Type} {m : NMap α} (k : Nat) (h : keysRise m) : keysRise (ndel m k) :=
  h.sublist ((ndel_sublist m k).map _)

theorem keysRise_nput {α : Type} {m : NMap α} (k : Nat) (v : α) (h : keysRise m) : keysRise (nput m k v) := by
  induction m with
  | nil => simp [keysRise, nput]
  | cons q t ih =>
    obtain ⟨j, u⟩ := q
    obtain ⟨h1, h2⟩ := List.pairwise_cons.1 h
    simp only [nput]
    split
    · next e => subst e; exact h
    · split
      · next e =>
        refine List.pairwise_cons.2 ⟨fun a ha => ?_, h⟩
        rcases List.mem_cons.1 ha with rfl | ha
        · exact e
        · exact Nat.lt_trans e (h1 a ha)
      · next e1 e2 =>
        refine List.pairwise_cons.2 ⟨fun a ha => ?_, ih h2⟩
        obtain ⟨p, hp, rfl⟩ := List.mem_map.1 ha
        rcases mem_nput hp with rfl | hp
        · show j < k; omega
        · exact h1 _ (List.mem_map_of_mem hp)

/-! ## What an update must leave alone -/

/-- The canonical form, said of the three parts of the state that hold memory. -/
def MemoryWf (dram : Memory) (cores : NMap Core) (l2 : NMap L2Line) : Prop :=
  Memory.wf dram = true ∧ (∀ p ∈ cores, Memory.wf p.2.ls = true) ∧ keysRise l2

namespace State

variable {s : State}

theorem memWf_iff (s : State) : s.memWf ↔ MemoryWf s.dram s.cores s.l2 := Iff.rfl

/-- An update that leaves DRAM, the cores and the L2 as they were keeps the canonical form. -/
theorem memWf.of_eq {t : State} (h : s.memWf) (hd : t.dram = s.dram) (hc : t.cores = s.cores) (hl : t.l2 = s.l2) : t.memWf := by
  rw [memWf_iff, hd, hc, hl]; exact h

theorem memWf.dram_wf (h : s.memWf) : Memory.wf s.dram = true := h.1

theorem memWf.l2_rises (h : s.memWf) : keysRise s.l2 := h.2.2

theorem memWf.ls_wf (h : s.memWf) (c : Nat) : Memory.wf (s.core c).ls = true := by
  unfold State.core
  cases e : nget s.cores c with
  | none => rfl
  | some k => exact h.2.1 _ (mem_of_nget e)

theorem memWf.withDram (h : s.memWf) {m : Memory} (hm : Memory.wf m = true) : ({ s with dram := m } : State).memWf := ⟨hm, h.2⟩

theorem memWf.withL2 (h : s.memWf) {m : NMap L2Line} (hm : keysRise m) : ({ s with l2 := m } : State).memWf := ⟨h.1, h.2.1, hm⟩

theorem memWf.onlySites {t : State} (h : s.memWf) (o : s.onlySites t) : t.memWf := by
  obtain ⟨x, rfl⟩ := o; exact h

theorem memWf.setCore (h : s.memWf) {k : Core} (hk : Memory.wf k.ls = true) (c : Nat) : (s.setCore c k).memWf := by
  refine ⟨h.1, fun p hp => ?_, h.2.2⟩
  rcases mem_nput hp with rfl | hp
  · exact hk
  · exact h.2.1 p hp

/-- An update of a core that keeps its local store in canonical form. -/
theorem memWf.modCore' (h : s.memWf) {f : Core → Core} (hf : ∀ k : Core, Memory.wf k.ls = true → Memory.wf (f k).ls = true) (c : Nat) :
    (s.modCore c f).memWf := h.setCore (hf _ (h.ls_wf c)) c

/-- An update of a core that leaves its local store as it was. -/
theorem memWf.modCore (h : s.memWf) {f : Core → Core} (hf : ∀ k : Core, (f k).ls = k.ls) (c : Nat) : (s.modCore c f).memWf :=
  h.modCore' (fun k hk => by rwa [hf]) c

theorem memWf.modHere' (h : s.memWf) {f : Core → Core} (hf : ∀ k : Core, Memory.wf k.ls = true → Memory.wf (f k).ls = true) :
    (s.modHere f).memWf := h.modCore' hf _

theorem memWf.modHere (h : s.memWf) {f : Core → Core} (hf : ∀ k : Core, (f k).ls = k.ls) : (s.modHere f).memWf := h.modCore hf _

/-- A run of updates, each of which keeps the canonical form. -/
theorem memWf.foldl {α : Type} (h : s.memWf) {f : State → α → State} (hf : ∀ (u : State) (x : α), u.memWf → (f u x).memWf) (l : List α) :
    (l.foldl f s).memWf := by
  induction l generalizing s with
  | nil => exact h
  | cons x l ih => exact ih (hf s x h)

/-- The same where the run carries something along with the state. -/
theorem memWf.foldl_fst {α β : Type} {b : β} (h : s.memWf) {f : State × β → α → State × β} (hf : ∀ (u : State) (b : β) (x : α), u.memWf → (f (u, b) x).1.memWf)
    (l : List α) : (l.foldl f (s, b)).1.memWf := by
  induction l generalizing s b with
  | nil => exact h
  | cons x l ih => exact ih (hf s b x h)

end State

end Sys2Proof.Machine
end

section
namespace Sys2Proof.Machine
/-- The state in which what a turn comes to leaves the machine. -/
def Act.memWf (a : Act) : Prop :=
  match a with
  | .done s | .jump s _ | .hold s | .park s _ | .trap s _ _ | .watch s _ _ _ => s.memWf

/-- The state that a step answers is in canonical form. -/
def AnswerWf (o : Out) : Prop := ∀ t, o = .next t → t.memWf

theorem answerWf_next {s : State} : AnswerWf (.next s) ↔ s.memWf := ⟨fun h => h s rfl, fun h t e => by cases e; exact h⟩

def TurnDo.memWf (a : TurnDo) : Prop :=
  match a with
  | .next s | .exec _ s => s.memWf

@[simp] theorem Act.memWf_done {s : State} : (Act.done s).memWf = s.memWf := rfl
@[simp] theorem Act.memWf_jump {s : State} {pc : Word} : (Act.jump s pc).memWf = s.memWf := rfl
@[simp] theorem Act.memWf_hold {s : State} : (Act.hold s).memWf = s.memWf := rfl
@[simp] theorem Act.memWf_park {s : State} {on : ParkOn} : (Act.park s on).memWf = s.memWf := rfl
@[simp] theorem Act.memWf_trap {s : State} {c : Nat} {v : Word} : (Act.trap s c v).memWf = s.memWf := rfl
@[simp] theorem Act.memWf_watch {s : State} {brk : BitVec 3} {halt : Bool} {va : Word} : (Act.watch s brk halt va).memWf = s.memWf := rfl
end Sys2Proof.Machine
end

section
/-! Canonical memory: what leaves a local store alone, and what writes it. -/

namespace Sys2Proof.Machine

/-! ## Updates of a core that leave its local store alone -/

@[simp] theorem endFill_ls (k : Core) (i : Nat) : (k.endFill i).ls = k.ls := rfl
@[simp] theorem delClaim_ls (k : Core) (i : Nat) : (k.delClaim i).ls = k.ls := rfl
@[simp] theorem freeClaim_ls (k : Core) (i : Nat) : (k.freeClaim i).ls = k.ls := by unfold Core.freeClaim; grind [endFill_ls, delClaim_ls]
@[simp] theorem dropClaim_ls (k : Core) (i : Nat) : (k.dropClaim i).ls = k.ls := by unfold Core.dropClaim; grind [freeClaim_ls, delClaim_ls]
@[simp] theorem dropReg_ls (k : Core) (slot : Nat) (f : RFile) (n : Nat) : (k.dropReg slot f n).ls = k.ls := by unfold Core.dropReg; grind [dropClaim_ls]

/-- A run of updates of a core, each of which leaves the local store as it was. -/
theorem foldl_ls {α : Type} (k : Core) {f : Core → α → Core} (hf : ∀ k x, (f k x).ls = k.ls) (l : List α) : (l.foldl f k).ls = k.ls := by
  induction l generalizing k with
  | nil => rfl
  | cons x l ih => exact (ih _).trans (hf k x)

@[simp] theorem dropSlotClaims_ls (k : Core) (slot : Nat) : (k.dropSlotClaims slot).ls = k.ls := by unfold Core.dropSlotClaims; grind [dropClaim_ls, foldl_ls]
@[simp] theorem watchFire_ls (k : Core) (watching : Claim → Bool) (reg : Nat) : (k.watchFire watching reg).ls = k.ls := by unfold Core.watchFire; grind [foldl_ls, delClaim_ls]
@[simp] theorem freeLocks_ls (k : Core) (slot : Nat) : (k.freeLocks slot).ls = k.ls := rfl
@[simp] theorem clearRegs_ls (k : Core) (n : Nat) : (k.clearRegs n).ls = k.ls := by unfold Core.clearRegs; grind [foldl_ls, freeLocks_ls, dropSlotClaims_ls, coreSetSlot_ls]
@[simp] theorem halt_ls (k : Core) (n : Nat) : (k.halt n).ls = k.ls := by unfold Core.halt; grind [coreSetSlot_ls, freeLocks_ls]
@[simp] theorem useRange_ls (k : Core) (e : RangeEntry) : (k.useRange e).ls = k.ls := rfl
@[simp] theorem fillRange_ls (k : Core) (e : RangeEntry) : (k.fillRange e).ls = k.ls := by unfold Core.fillRange; grind
@[simp] theorem reissue_ls (k : Core) (id : Nat) (e : RangeEntry) : (k.reissue id e).ls = k.ls := by unfold Core.reissue; grind [foldl_ls,coreSetSlot_ls]
@[simp] theorem dropSpan_ls (k : Core) (proc : BitVec 12) (lo hi : Nat) : (k.dropSpan proc lo hi).ls = k.ls := by unfold Core.dropSpan; grind
@[simp] theorem setChan_ls (k : Core) (ch : Nat) (x : Channel) : (k.setChan ch x).ls = k.ls := rfl
@[simp] theorem usePlots_ls (k : Core) (up : Bool) (ps : List Nat) : (k.usePlots up ps).ls = k.ls := by unfold Core.usePlots; grind [foldl_ls]
@[simp] theorem toThread_ls (k : Core) (ps : List Nat) : (k.toThread ps).ls = k.ls := rfl
@[simp] theorem refuseInbound_ls (k : Core) (code : Nat) (source : BitVec 16) (addr : Nat) : (k.refuseInbound code source addr).ls = k.ls := by unfold Core.refuseInbound; grind [count_ls]
@[simp] theorem withdrawRecv_ls (k : Core) (n : Nat) : (k.withdrawRecv n).ls = k.ls := by unfold Core.withdrawRecv; grind [coreSetSlot_ls]
@[simp] theorem dropPlace_ls (k : Core) (p : CtxPlace) : (k.dropPlace p).ls = k.ls := by unfold Core.dropPlace; grind [foldl_ls, dropClaim_ls]
@[simp] theorem moveAccs_ls (k : Core) (was : Option (Nat × Nat)) (n epoch : Nat) : (k.moveAccs was n epoch).ls = k.ls := by unfold Core.moveAccs; grind
@[simp] theorem takeRec_ls (k : Core) (r : RecSrc) : (k.takeRec r).ls = k.ls := by unfold Core.takeRec; grind
@[simp] theorem dropNoting_ls (k : Core) (slot : Nat) (f : RFile) (n : Nat) : (k.dropNoting slot f n).ls = k.ls := by unfold Core.dropNoting; grind [dropReg_ls, coreSetSlot_ls]
@[simp] theorem sees_ls (k : Core) (c slot epoch : Nat) (from_ : List Nat) (acq : List Nat → Bool) : (k.sees c slot epoch from_ acq).ls = k.ls := by
  unfold Core.sees; grind [coreSetSlot_ls]

/-! ## Writes of local store -/

theorem wf_putWords {m : Memory} (h : Memory.wf m = true) (a : Nat) (ws : List Word) : Memory.wf (putWords m a ws) = true := by
  unfold putWords
  induction ws.zipIdx generalizing m with
  | nil => exact h
  | cons p l ih => exact ih (wf_memWrite _ _ _ _ h)

theorem wf_addAll {m : Memory} (h : Memory.wf m = true) (l : List (Nat × BitVec 32)) : Memory.wf (addAll m l) = true := by
  unfold addAll
  induction l generalizing m with
  | nil => exact h
  | cons p l ih => exact ih (wf_memWrite _ _ _ _ h)

theorem wf_copySerial {m : Memory} (h : Memory.wf m = true) (src dst n : Nat) : Memory.wf (copySerial m src dst n) = true := by
  induction n generalizing m src dst with
  | zero => exact h
  | succ k ih => exact ih (wf_memSet _ _ _ h) _ _

theorem wf_blzcGroupOf {m : Memory} (h : Memory.wf m = true) (b : BlzcRec) (k : Nat) : Memory.wf (blzcGroupOf m b k) = true := wf_copySerial h _ _ _

theorem pushDeque_wf {k : Core} (h : Memory.wf k.ls = true) (p : Nat) (r : TaskRec) (payload : List Word) : Memory.wf (k.pushDeque p r payload).ls = true :=
  wf_putWords h _ _

theorem putInbox_wf {k : Core} (h : Memory.wf k.ls = true) (i : Nat) (ws : List Word) : Memory.wf (k.putInbox i ws).ls = true := wf_putWords h _ _

theorem launched_wf (k : Core) (l : Launch) (dir : Word) (idx : Nat → Nat → Word) : Memory.wf (k.launched l dir idx).ls = true := wf_memPuts _ _ rfl

end Sys2Proof.Machine
end

section
/-! Canonical memory: the functions of addresses, the network and the homes, one lemma each, in the order of the model. Most follow from the lemmas of the
functions that they call. -/

namespace Sys2Proof.Machine.State

variable {s : State}

/-! ## Machine/Access -/

theorem memWf.setSite (h : s.memWf) (n : Nat) (t : Site) : (s.setSite n t).memWf := by
  unfold State.setSite
  grind [memWf_iff]

theorem memWf.modSite (h : s.memWf) (n : Nat) (f : Site → Site) : (s.modSite n f).memWf := by
  unfold State.modSite
  grind [memWf.setSite]

theorem memWf.setSlot (h : s.memWf) (c n : Nat) (t : Slot) : (s.setSlot c n t).memWf := by
  unfold State.setSlot
  exact h.setCore (by exact h.ls_wf c) c

theorem memWf.modSlot (h : s.memWf) (c n : Nat) (f : Slot → Slot) : (s.modSlot c n f).memWf := by
  unfold State.modSlot
  grind [memWf.setSlot]

theorem memWf.modMe (h : s.memWf) (f : Slot → Slot) : (s.modMe f).memWf := by
  unfold State.modMe
  grind [memWf.modSlot]

theorem memWf.bump (h : s.memWf) : s.bump.memWf := by
  unfold State.bump
  grind [memWf_iff]

theorem memWf.modProc (h : s.memWf) (d : Nat) (f : Proc → Proc) : (s.modProc d f).memWf := by
  unfold State.modProc
  grind [memWf_iff]

theorem memWf.modChip (h : s.memWf) (n : Nat) (f : NetChip → NetChip) : (s.modChip n f).memWf := by
  unfold State.modChip
  grind [memWf_iff]

theorem memWf.report (h : s.memWf) (r : Report) : (s.report r).memWf := by
  unfold State.report
  grind [memWf_iff]

theorem memWf.setX (h : s.memWf) (n : BitVec 5) (v : Word) : (s.setX n v).memWf := by
  unfold State.setX
  grind [memWf.modMe]

theorem memWf.setV (h : s.memWf) (n : BitVec 5) (v : BitVec 2048) : (s.setV n v).memWf := by
  unfold State.setV
  grind [memWf.modMe]

theorem memWf.count (h : s.memWf) (c code : Nat) : (s.count c code).memWf := by
  unfold State.count
  exact h.modCore (fun k => count_ls k code none 1) c

theorem memWf.countS (h : s.memWf) (c n code : Nat) : (s.countS c n code).memWf := by
  unfold State.countS
  exact h.modCore (fun k => count_ls k code (some n) 1) c

theorem memWf.countSite (h : s.memWf) (site code : Nat) : (s.countSite site code).memWf := by
  unfold State.countSite
  grind [memWf.foldl, memWf.count]

theorem memWf.countRouter (h : s.memWf) (site code : Nat) : (s.countRouter site code).memWf := by
  unfold State.countRouter
  grind [memWf_iff, memWf.foldl, memWf.modSite]

theorem memWf.useFree (h : s.memWf) : s.useFree.memWf := by
  unfold State.useFree
  grind [memWf_iff]

/-! ## Machine/Net -/

theorem memWf.learn (h : s.memWf) (r : Nat) (h2 : Teach) : (s.learn r h2).memWf := by
  unfold State.learn
  grind [memWf_iff, memWf.setSite, memWf.countRouter]

theorem memWf.siteViolation (h : s.memWf) (site activity : Nat) (part addr : Nat) : (s.siteViolation site activity part addr).memWf := by
  unfold State.siteViolation
  grind [memWf_iff, memWf.modSite]

theorem memWf.refusePart (h : s.memWf) (site part addr : Nat) : (s.refusePart site part addr).memWf := by
  unfold State.refusePart
  grind [memWf.countRouter, memWf.siteViolation]

theorem memWf.openFlood (h : s.memWf) (site core : Nat) (name : BitVec 12) (since : Nat) : (s.openFlood site core name since).memWf := by
  unfold State.openFlood
  grind [memWf_iff, memWf.modSite, memWf.countRouter]

theorem memWf.dropFlight (h : s.memWf) (fid : Nat) : (s.dropFlight fid).memWf := by
  unfold State.dropFlight
  grind [memWf_iff]

theorem memWf.setFlight (h : s.memWf) (g : Flight) : (s.setFlight g).memWf := by
  unfold State.setFlight
  grind [memWf_iff]

theorem memWf.countMoved (h : s.memWf) (f : Flight) (st : FState) : (s.countMoved f st).memWf := by
  unfold State.countMoved
  grind [memWf.countRouter]

theorem memWf.land (h : s.memWf) (f : Flight) : (s.land f).memWf := by
  unfold State.land
  grind [memWf_iff, memWf.countMoved, memWf.bump, memWf.setFlight]

theorem memWf.dispatchFlight (h : s.memWf) (f : Flight) (r : Routed) (ahead : Bool) : (s.dispatchFlight f r ahead).memWf := by
  unfold State.dispatchFlight
  extract_lets full st g u v
  have hu : u.memWf := h.setFlight g
  have hv : v.memWf := hu.learn ..
  clear_value v u g st
  split
  · exact hu.refusePart ..
  · split
    · exact hu.openFlood ..
    · exact hu
  · split
    · exact hv.land g
    · exact hv
  · exact hu

theorem memWf.reroute (h : s.memWf) (fid : Nat) : (s.reroute fid).memWf := by
  unfold State.reroute
  grind [memWf_iff, memWf.setSite, memWf.dispatchFlight]

theorem memWf.inject (h : s.memWf) (cls : PClass) (src : Sender) (site : Nat) (part : BitVec 4) (dest : Dest) (body : Body) (yx : Bool := false) :
    (s.inject cls src site part dest body yx).memWf := by
  unfold State.inject
  grind [memWf_iff, memWf.reroute, memWf.bump]

theorem memWf.answerIn (h : s.memWf) (cls : PClass) (f : Flight) (body : Body) : (s.answerIn cls f body).memWf := by
  unfold State.answerIn
  grind [memWf_iff, memWf.reroute, memWf.bump]

theorem memWf.answer (h : s.memWf) (f : Flight) (body : Body) : (s.answer f body).memWf := by
  unfold State.answer
  grind [memWf.answerIn]

theorem memWf.countFlits (h : s.memWf) (n : Nat) (yx : Bool) (flits : Nat) : (s.countFlits n yx flits).memWf := by
  unfold State.countFlits
  grind [memWf.foldl, memWf.countRouter]

theorem memWf.hop (h : s.memWf) (f : Flight) : (s.hop f).memWf := by
  unfold State.hop
  grind [memWf_iff, memWf.land, memWf.learn, memWf.countFlits, memWf.setFlight, memWf.countRouter]

theorem memWf.ride (h : s.memWf) (pos goal : Nat) (t : Teach) (flits fuel : Nat) : (s.ride pos goal t flits fuel).1.memWf :=
  h.onlySites (onlySites_ride ..)

theorem memWf.rideVia (h : s.memWf) (pos goal : Nat) (h2 : Teach) (via : Option Nat) (flits : Nat) : (s.rideVia pos goal h2 via flits).1.memWf := by
  unfold State.rideVia
  grind [memWf_iff, memWf.ride]

theorem memWf.rideBack (h : s.memWf) (part : Option (BitVec 4)) (pos src : Nat) (name : BitVec 16) (yx : Bool) (way : Option Nat) (flits : Nat) :
    (s.rideBack part pos src name yx way flits).1.memWf := by
  unfold State.rideBack
  grind [memWf_iff, memWf.refusePart, memWf.rideVia, memWf.learn, memWf.ride]

theorem memWf.logRide (h : s.memWf) (n flits : Nat) : (s.logRide n flits).1.memWf := by
  unfold State.logRide
  grind [memWf.rideBack]

theorem memWf.siteReport (h : s.memWf) (n : Nat) (r : Report) : (s.siteReport n r).memWf := by
  unfold State.siteReport
  grind [memWf.logRide, memWf.report]

theorem memWf.notice (h : s.memWf) (f : Flight) : (s.notice f).1.memWf := by
  unfold State.notice
  grind [memWf.rideBack]

theorem memWf.putPhysSelect (h : s.memWf) (site n sel : Nat) : (s.putPhysSelect site n sel).memWf := by
  unfold State.putPhysSelect
  grind [memWf_iff, memWf.modSite]

theorem memWf.tripBack (h : s.memWf) (part : BitVec 4) (home site : Nat) (yx : Bool) (way : Option Nat) (code : Option (BitVec 8)) (flits : Nat) :
    (s.tripBack part home site yx way code flits).1.memWf := by
  unfold State.tripBack
  grind [memWf.rideBack]

theorem memWf.travel (h : s.memWf) (src : Sender) (site : Nat) (part : BitVec 4) (pa out back : Nat) : (s.travel src site part pa out back).1.memWf := by
  unfold State.travel
  grind [memWf_iff, memWf.refusePart, memWf.learn, memWf.rideVia, memWf.tripBack, memWf.rideBack, memWf.putPhysSelect, memWf.ride]

theorem memWf.loseFlight (h : s.memWf) (f : Flight) : (s.loseFlight f).memWf := by
  unfold State.loseFlight
  grind [memWf_iff]

theorem memWf.loseAccess (h : s.memWf) (src : Sender) (site : Nat) (part : BitVec 4) (detail : Nat) (body : Body) :
    (s.loseAccess src site part detail body).memWf := by
  unfold State.loseAccess
  grind [memWf_iff, memWf.loseFlight, memWf.bump]

theorem memWf.withPacket (h : s.memWf) {act : Flight → State → State} (ha : ∀ (f : Flight) (u : State), u.memWf → (act f u).memWf) (fid : Nat) :
    (s.withPacket fid act).memWf := by
  unfold State.withPacket
  grind [memWf.dropFlight, memWf.countRouter, memWf.setFlight, memWf.countMoved]

theorem memWf.releaseHeld (h : s.memWf) (site : Nat) (d : Dest) : (s.releaseHeld site d).memWf := by
  unfold State.releaseHeld
  grind [memWf.foldl, memWf.reroute]

theorem memWf.goOn (h : s.memWf) (f : Flight) : (s.goOn f).memWf := by
  unfold State.goOn
  grind [memWf_iff, memWf.reroute]

theorem memWf.settleHeld (h : s.memWf) (site : Nat) : (s.settleHeld site).memWf := by
  unfold State.settleHeld
  grind [memWf.foldl, memWf.goOn]

/-! ## Machine/Mem -/

theorem memWf.putDram (h : s.memWf) (l : Nat) (d : BitVec 1024) (code : BitVec 4) : (s.putDram l d code).memWf :=
  h.withDram (wf_memWrite _ _ _ _ h.dram_wf)

theorem memWf.allocLine (h : s.memWf) (l : Nat) (tensor : BitVec 8) : (s.allocLine l tensor).1.memWf := by
  unfold State.allocLine
  split
  · exact h.withL2 (keysRise_nput _ _ h.l2_rises)
  · dsimp only
    split
    · exact h.withL2 (keysRise_nput _ _ h.l2_rises)
    · split
      · exact h
      · next v x _ => exact (h.putDram v x.data x.code).withL2 (keysRise_nput _ _ (keysRise_ndel _ h.l2_rises))

theorem memWf.putLine (h : s.memWf) (l : Nat) (d : BitVec 1024) (code : BitVec 4) : (s.putLine l d code).memWf := by
  unfold State.putLine
  split
  · exact h.withL2 (keysRise_nput _ _ h.l2_rises)
  · exact h.putDram ..

theorem memWf.forwarded (h : s.memWf) (pa out back fuel : Nat) : (s.forwarded pa out back fuel).1.memWf := by
  induction fuel generalizing s pa with
  | zero => exact h
  | succ k ih => unfold State.forwarded; grind [memWf.travel]

theorem memWf.homeTrip (h : s.memWf) (pa n : Nat) (out back : Nat) : (s.homeTrip pa n out back).1.memWf := by
  unfold State.homeTrip
  grind [memWf.forwarded]

theorem memWf.reach (h : s.memWf) (src : Sender) (site : Nat) (part : BitVec 4) (pa out back : Nat) : (s.reach src site part pa out back).1.memWf := by
  unfold State.reach
  grind [memWf.travel, memWf.forwarded]

theorem memWf.accessBy (h : s.memWf) {act : State → State} (ha : ∀ u : State, u.memWf → (act u).memWf) (src : Sender) (site : Nat) (part : BitVec 4)
    (pa out back : Nat) : (s.accessBy src site part pa out back act).1.memWf := by
  unfold State.accessBy
  grind [memWf.reach]

theorem memWf.reachCode (h : s.memWf) (src : Sender) (site : Nat) (part : BitVec 4) (pa out back : Nat) :
    (s.reachCode src site part pa out back).1.memWf :=
  h.accessBy (fun _ hu => hu) ..

theorem memWf.memError (h : s.memWf) (l : Nat) (hard : Bool) : (s.memError l hard).memWf := by
  unfold State.memError
  grind [memWf_iff, memWf.countSite]

theorem memWf.l1Fill (h : s.memWf) (c l : Nat) (d : BitVec 1024) (remote : Bool) : (s.l1Fill c l d remote).memWf := by
  unfold State.l1Fill
  grind [memWf_iff, memWf.foldl, memWf.modCore]

theorem memWf.invalSharers (h : s.memWf) (l : Nat) (keep : Option Nat) : (s.invalSharers l keep).memWf := by
  unfold State.invalSharers
  grind [memWf_iff, memWf.foldl, memWf.modCore]

theorem memWf.mapFills (h : s.memWf) (which : Nat → Nat → Bool) (g : BitVec 1024 → Option (BitVec 1024)) : (s.mapFills which g).memWf := by
  unfold State.mapFills
  grind [memWf_iff]

theorem memWf.writeThrough (h : s.memWf) (c l : Nat) (off n v : Nat) : (s.writeThrough c l off n v).memWf := by
  unfold State.writeThrough
  grind [memWf_iff, memWf.mapFills, memWf.modCore]

theorem memWf.dropStale (h : s.memWf) (c l : Nat) : (s.dropStale c l).memWf := by
  unfold State.dropStale
  grind [memWf_iff, memWf.mapFills, memWf.modCore]

theorem memWf.dropRemote (h : s.memWf) (c : Nat) : (s.dropRemote c).memWf := by
  unfold State.dropRemote
  grind [memWf_iff, memWf.foldl, memWf.mapFills, memWf.modCore]

theorem memWf.clearResv (h : s.memWf) (l : Nat) (keep : Option (Nat × Nat)) : (s.clearResv l keep).memWf := by
  unfold State.clearResv
  grind [memWf_iff]

theorem memWf.semReport (h : s.memWf) (pa n : Nat) : (s.semReport pa n).memWf := by
  unfold State.semReport
  grind [memWf_iff, memWf.foldl, memWf.modProc]

theorem memWf.lineWrite (h : s.memWf) (pa n v : Nat) (a : MemAttr) (who : Option (Nat × Nat)) : (s.lineWrite pa n v a who).memWf := by
  unfold State.lineWrite
  grind [memWf_iff, memWf.invalSharers, memWf.allocLine, memWf.count, memWf.putLine, memWf.writeThrough, memWf.semReport, memWf.clearResv]

theorem memWf.writeParts (h : s.memWf) (pa n v : Nat) (a : MemAttr) (who : Option (Nat × Nat)) (fuel : Nat) :
    (s.writeParts pa n v a who fuel).memWf := by
  induction fuel generalizing s pa n v with
  | zero => exact h
  | succ k ih => unfold State.writeParts; grind [memWf.lineWrite]

theorem memWf.homeWrite (h : s.memWf) (pa n v : Nat) (a : MemAttr) (who : Option (Nat × Nat)) : (s.homeWrite pa n v a who).memWf := by
  unfold State.homeWrite
  grind [memWf.writeParts]

theorem memWf.homePuts (h : s.memWf) (l : List (Nat × Byte)) (a : MemAttr) (who : Option (Nat × Nat)) : (s.homePuts l a who).memWf := by
  unfold State.homePuts
  grind [memWf.foldl, memWf.homeWrite]

end Sys2Proof.Machine.State
end

section
/-! Canonical memory: the operations of a slot, its operands and the paths of its accesses, one lemma for each function. -/

namespace Sys2Proof.Machine.State

variable {s : State}

/-! ## Machine/Ops -/

theorem memWf.deliverAt (h : s.memWf) (c : Nat) (claim : Option Nat) (due : Nat) (v : DVal) : (s.deliverAt c claim due v).memWf := by
  unfold State.deliverAt
  grind [memWf_iff, memWf.modCore]

theorem memWf.fillNow (h : s.memWf) (c : Nat) (claim : Option Nat) (v : Word) : (s.fillNow c claim v).memWf := by
  unfold State.fillNow
  grind [memWf.deliverAt]

theorem memWf.fillNext (h : s.memWf) (c : Nat) (claim : Option Nat) (v : Word) : (s.fillNext c claim v).memWf := by
  unfold State.fillNext
  grind [memWf.deliverAt]

theorem memWf.poisonNow (h : s.memWf) (c : Nat) (claim : Option Nat) (d : Word) : (s.poisonNow c claim d).memWf := by
  unfold State.poisonNow
  grind [memWf.deliverAt]

theorem memWf.pend (h : s.memWf) {t : State} {c : Option Nat} {f : RFile} {n : Nat} {cls : BitVec 4} {cancel : Bool} (e : s.pend f n cls cancel = some (t, c)) :
    t.memWf := by
  unfold State.pend at e
  split at e
  · cases e; exact h
  · split at e
    · cases e
    · cases e
      refine ((h.modHere ?_).modMe _).useFree
      exact fun k => count_ls _ 10 (some s.curSlot) 1

theorem memWf.placeWrite (h : s.memWf) (c : Nat) (p : CtxPlace) (off n v : Nat) : (s.placeWrite c p off n v).memWf := by
  unfold State.placeWrite
  split
  · exact h
  · exact h.modCore' (fun k hk => wf_memWrite _ _ _ _ hk) c
  · exact h.homePuts ..

theorem memWf.coreTrip (h : s.memWf) (c pa : Nat) (out back : Nat) : (s.coreTrip c pa out back).1.memWf := by
  unfold State.coreTrip
  grind [memWf.reachCode]

theorem memWf.placeTrip (h : s.memWf) (c : Nat) (p : CtxPlace) (off n : Nat) : (s.placeTrip c p off n).1.memWf := by
  unfold State.placeTrip
  grind [memWf.coreTrip]

theorem memWf.imagePut (h : s.memWf) (c : Nat) (p : CtxPlace) (f : RFile) (n : Nat) (d : DVal) : (s.imagePut c p f n d).memWf := by
  unfold State.imagePut
  grind [memWf_iff, memWf.placeWrite]

theorem memWf.imageTrip (h : s.memWf) (c : Nat) (p : CtxPlace) (f : RFile) (n : Nat) : (s.imageTrip c p f n).1.memWf := by
  unfold State.imageTrip
  grind [memWf.placeTrip]

theorem memWf.faultLog (h : s.memWf) (site kind slot : Nat) (core : BitVec 16) (cycle : Nat) (details : List Word) :
    (s.faultLog site kind slot core cycle details).memWf := by
  unfold State.faultLog
  grind [memWf.logRide, memWf.modProc]

theorem memWf.applyDelivery (h : s.memWf) (c : Nat) (d : Delivery) : (s.applyDelivery c d).memWf := by
  unfold State.applyDelivery
  extract_lets k s0
  have h0 : s0.memWf := h.setCore (by exact h.ls_wf c) c
  clear_value s0 k
  split
  · exact h0
  · next cl _ =>
    split
    · refine h0.modCore (fun k => ?_) c
      grind [delClaim_ls, coreSetSlot_ls, watchFire_ls]
    · refine h0.modCore (fun k => ?_) c
      grind [delClaim_ls, watchFire_ls]
    · exact h0.modCore (fun k => by rw [delClaim_ls, count_ls]) c
    · split
      · exact h0.modCore (fun k => delClaim_ls k _) c
      · next im _ =>
        have ht := h0.imageTrip c im.place cl.file cl.reg
        split
        · next e => 
          rw [e] at ht
          exact (ht.modCore (fun _ => by rfl) c).faultLog ..
        · next e =>
          rw [e] at ht
          refine memWf.modCore ?_ (fun k => ?_) c
          · split
            · exact ht.imagePut ..
            · exact ht
          · grind [delClaim_ls, watchFire_ls]

theorem memWf.settleReg (h : s.memWf) (f : RFile) (n : Nat) : (s.settleReg f n).memWf := by
  unfold State.settleReg
  grind [memWf.applyDelivery]

theorem memWf.dropSpec (h : s.memWf) (c n : Nat) : (s.dropSpec c n).memWf := by
  unfold State.dropSpec
  grind [memWf_iff, memWf.foldl, memWf.fillNext, memWf.modSlot]

theorem memWf.endResv (h : s.memWf) (c n : Nat) : (s.endResv c n).memWf := by
  unfold State.endResv
  grind [memWf_iff]

theorem memWf.becomeEmpty (h : s.memWf) (c n : Nat) : (s.becomeEmpty c n).memWf := by
  unfold State.becomeEmpty
  grind [memWf_iff, freeLocks_ls, clearRegs_ls, memWf.dropSpec, memWf.modCore, memWf.modSlot]

theorem memWf.chargeSite (h : s.memWf) (site part : Nat) (activity flits : Nat) : ∀ t, State.chargeSite s site part activity flits = some t → t.memWf := by
  unfold State.chargeSite
  grind [memWf_iff, memWf.setSite]

theorem memWf.trace (h : s.memWf) (c n kind extra : Nat) (pc detail : Word) : (s.trace c n kind extra pc detail).memWf := by
  unfold State.trace
  extract_lets k mask size next base pa part
  split
  · have ht := h.coreTrip c pa (dataFlits 32) 1
    generalize s.coreTrip c pa (dataFlits 32) 1 = x at ht
    obtain ⟨u, e⟩ := x
    cases e with
    | some e => exact memWf.count ht ..
    | none =>
      dsimp only
      split
      · exact (memWf.siteViolation ht ..).count ..
      · next v hv =>
        have hv := memWf.chargeSite ht _ _ _ _ _ hv
        refine memWf.modCore ?_ (fun _ => by rfl) c
        split
        · exact hv
        · exact hv.homePuts ..
  · exact h

theorem memWf.stampRec (h : s.memWf) (c kind slot prio : Nat) (inbox : Bool) (tag core : Nat) : (s.stampRec c kind slot prio inbox tag core).memWf := by
  unfold State.stampRec
  split
  · split
    · exact h.modCore' (fun k hk => wf_memWrite _ _ _ _ (wf_memWrite _ _ _ _ hk)) c
    · exact h
  · exact h

theorem memWf.loseMoves (h : s.memWf) (site : Nat) : (s.loseMoves site).memWf := by
  unfold State.loseMoves
  grind [memWf_iff, memWf.foldl, memWf.fillNow]

theorem memWf.dropPins (h : s.memWf) (n : Nat) : (s.dropPins n).memWf := by
  refine h.withL2 ?_
  have e : (s.l2.map (fun p => if p.1 / 2 ^ 26 == n then (p.1, { p.2 with pin := false }) else p)).map (·.1) = s.l2.map (·.1) := by
    rw [List.map_map]
    exact List.map_congr_left fun p _ => by dsimp only [Function.comp]; split <;> rfl
  unfold keysRise
  rw [e]
  exact h.l2_rises

theorem memWf.fenceSite (h : s.memWf) (n : Nat) : (s.fenceSite n).memWf := by
  unfold State.fenceSite
  grind [memWf_iff, memWf.foldl, halt_ls, foldl_ls, memWf.modCore, memWf.modSite, memWf.dropPins, memWf.loseMoves]

theorem memWf.partitionStop (h : s.memWf) (c : Nat) : (s.partitionStop c).memWf := by
  unfold State.partitionStop
  grind [memWf.foldl, memWf.faultLog, memWf.fenceSite]

theorem memWf.undelivered (h : s.memWf) (c : Nat) (w : Word) (code : Nat) : (s.undelivered c w code).memWf := by
  unfold State.undelivered
  grind [memWf.report, memWf.faultLog]

theorem memWf.sendNote (h : s.memWf) (c : Nat) (dst : BitVec 16) (w : Word) (fwd : Bool) : (s.sendNote c dst w fwd).memWf := by
  unfold State.sendNote
  grind [memWf.inject]

theorem memWf.notify (h : s.memWf) (c : Nat) (w : Word) : (s.notify c w).memWf := by
  unfold State.notify
  grind [memWf.sendNote, memWf.undelivered]

theorem memWf.escalate (h : s.memWf) (c : Nat) : (s.escalate c).memWf := by
  unfold State.escalate
  grind [memWf.partitionStop, memWf.sendNote]

theorem memWf.trapWith (h : s.memWf) (cause : Nat) (tval : Word) (brk : BitVec 3) : (s.trapWith cause tval brk).memWf := by
  unfold State.trapWith
  grind [memWf_iff, freeLocks_ls, memWf.modMe, memWf.modHere, memWf.countS, memWf.endResv, memWf.trace, memWf.escalate, memWf.notify]

theorem memWf.trap (h : s.memWf) (cause : Nat) (tval : Word) : (s.trap cause tval).memWf := by
  unfold State.trap
  grind [memWf.trapWith]

theorem memWf.haltBreak (h : s.memWf) (brk : BitVec 3) : (s.haltBreak brk).memWf := by
  unfold State.haltBreak
  grind [memWf_iff, halt_ls, memWf.modHere, memWf.modMe, memWf.report, memWf.trace]

theorem memWf.enterHandler (h : s.memWf) : s.enterHandler.memWf := by
  unfold State.enterHandler
  grind [memWf_iff, memWf.modHere, memWf.modMe, memWf.trace, memWf.count]

theorem memWf.leaveHandler (h : s.memWf) : s.leaveHandler.1.memWf := by
  unfold State.leaveHandler
  grind [memWf_iff, memWf.modHere, memWf.becomeEmpty]

/-! ## Machine/Operands -/

theorem memWf.retired (h : s.memWf) : s.retired.memWf := by
  unfold State.retired
  grind [memWf_iff, memWf.countS, memWf.modMe]

theorem memWf.bubble (h : s.memWf) : s.bubble.memWf := by
  unfold State.bubble
  grind [memWf.countS]

theorem memWf.finish (h : s.memWf) {a : Act} (ha : a.memWf) (fm : Form) : (finish fm s a).memWf := by
  cases a with
  | done u =>
    have hu : u.memWf := ha
    dsimp only [Machine.finish]
    split
    · exact h.bubble
    · exact hu.retired.modMe _
  | jump u pc =>
    have hu : u.memWf := ha
    dsimp only [Machine.finish]
    split
    · exact h.bubble
    · exact hu.retired.modMe _
  | hold u => exact bubble ha
  | park u on =>
    have hu : u.memWf := ha
    dsimp only [Machine.finish]
    split
    · exact ((hu.modMe _).countS ..).bubble
    · exact (hu.modMe _).bubble
  | trap u cause tval => exact memWf.trap ha _ _
  | watch u brk halt va =>
    have hu : u.memWf := ha
    dsimp only [Machine.finish]
    split
    · exact hu.haltBreak _
    · exact hu.trapWith ..

theorem memWf.issue (h : s.memWf) {body : State → Act} (hb : (body s).memWf) (fm : Form) : AnswerWf (issue fm body s) := by
  unfold Machine.issue
  have ht (c : Nat) (v : Word) : AnswerWf (.next (s.trap c v)) := answerWf_next.2 (h.trap c v)
  dsimp only
  repeat' split
  all_goals first
    | exact ht _ _
    | exact answerWf_next.2 (h.finish (by first | exact hb | exact h) fm)

theorem memWf.withClaim (h : s.memWf) {k : State → Option Nat → Act} (hk : ∀ (u : State) (c : Option Nat), u.memWf → (k u c).memWf) (f : RFile) (n : Nat)
    (cls : BitVec 4) (cancel : Bool) : (withClaim s f n cls cancel k).memWf := by
  unfold Machine.withClaim
  split
  · exact h
  · next e => exact hk _ _ (h.pend e)

/-! ## Machine/Paths -/

theorem memWf.localAccess (h : s.memWf) {k : Act} (hk : k.memWf) (write : Bool) (addrs : List Nat) : (localAccess s write addrs k).memWf := by
  unfold Machine.localAccess
  repeat' split
  exacts [h, h, h, hk]

theorem memWf.lsWrite (h : s.memWf) (a n v : Nat) : (s.lsWrite a n v).memWf := h.modHere' fun _ hk => wf_memWrite _ _ _ _ hk

theorem memWf.sendWalk (h : s.memWf) (c : Nat) (w : WalkRec) : (s.sendWalk c w).memWf := by
  unfold State.sendWalk
  grind [memWf.count, memWf.inject]

theorem memWf.startWalk (h : s.memWf) (c : Nat) (va dir : Word) (user : WalkUser) (join : Bool) : (s.startWalk c va dir user join).1.memWf := by
  unfold State.startWalk
  grind [memWf_iff, memWf.modCore, memWf.bump, memWf.sendWalk]

theorem memWf.translate (h : s.memWf) {k : State → Nat → MemAttr → Act} (hk : ∀ (u : State) (pa : Nat) (a : MemAttr), u.memWf → (k u pa a).memWf)
    (va : Word) (kind : AccessKind) : (translate s va kind k).memWf := by
  unfold Machine.translate
  have hf (f : Slot → Slot) (c : Nat) (v : Word) : (Act.trap (s.modMe f) c v).memWf := h.modMe f
  have hw (va dir : Word) (user : WalkUser) (join : Bool) := h.startWalk s.curCore va dir user join
  dsimp only
  repeat' split
  exacts [hf .., hw .., hf .., hf .., (hw ..).modMe _, hk _ _ _ (h.modHere fun _ => rfl)]

theorem memWf.releaseCheck (h : s.memWf) {k : Act} (hk : k.memWf) : (releaseCheck s k).memWf := by
  unfold Machine.releaseCheck
  repeat' split
  exacts [h, h, hk]

theorem memWf.addAccess (h : s.memWf) (id : Nat) (kind : AccKind) (isSc : Bool) (t : MemTarget) (n va : Nat) (translated : Bool) (drops : Bool := false) :
    (s.addAccess id kind isSc t n va translated drops).memWf := by
  unfold State.addAccess
  grind [memWf_iff, memWf.modHere]

theorem memWf.portSend (h : s.memWf) (waits after : List Nat) (acc : Nat) (body : Body) (dest : Dest) (cls : PClass := PClass.request) :
    (s.portSend waits after acc body dest cls).memWf := by
  unfold State.portSend
  grind [memWf_iff, memWf.inject]

theorem memWf.loadGlobal (h : s.memWf) (rd : BitVec 5) (t : MemTarget) (va n : Nat) (sx : Bool) (attr : MemAttr) (acq : Option Nat) :
    (loadGlobal s rd t va n sx attr acq).memWf := by
  refine h.withClaim (fun u c hu => ?_) ..
  grind [memWf_iff, sees_ls, Act.memWf_done, memWf.dropRemote, memWf.bump, memWf.modHere, memWf.modCore, memWf.modMe, memWf.addAccess, memWf.portSend,
    memWf.count, memWf.deliverAt]

theorem memWf.storeGlobal (h : s.memWf) (t : MemTarget) (va : Nat) (op : MemOp) (attr : MemAttr) (claim : Option Nat) (waits : List Nat) (check : Option (Nat × Bool)) :
    (storeGlobal s t va op attr claim waits check).memWf := by
  unfold Machine.storeGlobal
  grind [memWf_iff, coreSetSlot_ls, memWf.bump, memWf.addAccess, memWf.modCore]

theorem memWf.addrChecks (h : s.memWf) {k : Act} (hk : k.memWf) (ea : Word) (n : Nat) (isLoad isStore : Bool) (access misalign : Nat) :
    (addrChecks s ea n isLoad isStore access misalign k).memWf := by
  unfold Machine.addrChecks
  repeat' split
  exacts [h, h, h, hk]

theorem memWf.ackHandler (h : s.memWf) (va : Nat) : (s.ackHandler va).memWf := by
  unfold State.ackHandler
  grind [memWf_iff, memWf.modHere]

theorem memWf.scalarLoad (h : s.memWf) (rd : BitVec 5) (ea : Word) (n : Nat) (sx : Bool) (acq : Option Nat) : (scalarLoad s rd ea n sx acq).memWf := by
  refine h.addrChecks ?_ ..
  split
  · refine h.localAccess ?_ ..
    grind [Act.memWf_done, memWf.dropRemote, memWf.setX]
  · split
    · have hl := h.loadGlobal rd (.window ea.toNat) ea.toNat n sx .none acq
      split
      · exact h
      · split
        · next u e => exact memWf.ackHandler (by rw [e] at hl; exact hl) _
        · exact hl
    · exact h.translate (fun u pa attr hu => hu.loadGlobal ..) ..

theorem memWf.scalarStore (h : s.memWf) (v ea : Word) (n : Nat) (rel : Option Nat) : (scalarStore s v ea n rel).memWf := by
  unfold Machine.scalarStore
  refine h.addrChecks ?_ ..
  extract_lets waits check unfence go
  have hf (u : State) (hu : u.memWf) : (unfence u).memWf := by
    unfold unfence
    split
    · exact hu.modMe _
    · exact hu
  clear_value unfence
  have hgo : go.memWf := by
    unfold go
    split
    · refine h.localAccess ?_ ..
      split
      · exact h
      · exact (hf s h).lsWrite ..
    · split
      · split
        · exact h
        · split
          · exact h
          · exact (hf s h).storeGlobal ..
      · refine h.translate (fun u pa attr hu => ?_) ..
        split
        · exact hu
        · exact (hf u hu).storeGlobal ..
  split
  · exact h.releaseCheck hgo
  · exact hgo

theorem memWf.acquireId (h : s.memWf) (aq : Bool) (id : Nat) : (acquireId s aq id).memWf := by
  unfold Machine.acquireId
  grind [memWf_iff, memWf.modMe]

theorem memWf.atomicGlobal (h : s.memWf) (rd : BitVec 5) (va pa : Nat) (attr : MemAttr) (op : MemOp) (kind : AccKind) (aq rl : Bool) :
    (atomicGlobal s rd va pa attr op kind aq rl).memWf := by
  refine h.withClaim (fun u c hu => ?_) ..
  grind [Act.memWf_done, memWf.dropRemote, memWf.bump, memWf.modMe, memWf.acquireId, memWf.addAccess, memWf.portSend]

theorem memWf.amoBody (h : s.memWf) (fn : Nat) (aq rl : BitVec 1) (rs2 rs1 : BitVec 5) (dbl : BitVec 1) (rd : BitVec 5) :
    (amoBody fn aq rl rs2 rs1 dbl rd s).memWf := by
  unfold Machine.amoBody
  extract_lets ea d n old u v go
  have hu : u.memWf := by
    unfold u
    split
    · exact h.modMe _
    · exact h
  have hv : v.memWf := by
    unfold v
    split
    · exact hu.dropRemote _
    · exact hu
  have hgo : go.memWf := by
    unfold go
    split
    · refine h.localAccess ?_ ..
      split
      · exact h
      · exact (hv.lsWrite ..).setX ..
    · split
      · exact h
      · exact h.translate (fun u pa attr hu => hu.atomicGlobal ..) ..
  refine h.addrChecks ?_ ..
  split
  · exact h.releaseCheck hgo
  · exact hgo

theorem memWf.lrBody (h : s.memWf) (aq : BitVec 1) (rs1 : BitVec 5) (dbl : BitVec 1) (rd : BitVec 5) : (lrBody aq rs1 dbl rd s).memWf := by
  refine h.addrChecks ?_ ..
  split
  · exact h
  · exact h.translate (fun u pa attr hu => hu.atomicGlobal ..) ..

theorem memWf.scBody (h : s.memWf) (rl : BitVec 1) (rs2 rs1 : BitVec 5) (dbl : BitVec 1) (rd : BitVec 5) : (scBody rl rs2 rs1 dbl rd s).memWf := by
  refine h.addrChecks ?_ ..
  extract_lets go
  have hgo : go.memWf := by
    unfold go
    split
    · exact h
    · refine h.translate (fun u pa attr hu => ?_) ..
      split
      · exact hu
      · refine hu.withClaim (fun v c hv => ?_) ..
        exact hv.storeGlobal ..
  split
  · exact h.releaseCheck hgo
  · exact hgo

theorem memWf.fenceBody (h : s.memWf) (scope : Nat) (pred succ : BitVec 4) : (fenceBody scope pred succ s).memWf := by
  refine h.releaseCheck ?_
  grind [Act.memWf_done, memWf.dropRemote, memWf.modHere, memWf.modMe]

end Sys2Proof.Machine.State
end

section
/-! Canonical memory: the CSRs, local store and the ranges, one lemma for each function. -/

namespace Sys2Proof.Machine.State

variable {s : State}

/-! ## Machine/Csr -/

theorem memWf.putCoreCsr (h : s.memWf) (c n : Nat) (v mask : Word) : (s.putCoreCsr c n v mask).memWf := by
  unfold State.putCoreCsr
  grind [memWf_iff, memWf.modCore]

theorem memWf.writeCsr (h : s.memWf) (n : Nat) (v : Word) : (s.writeCsr n v).memWf := by
  unfold State.writeCsr
  grind [memWf.modMe, memWf.putCoreCsr]

theorem memWf.csrBody (h : s.memWf) (csr : BitVec 12) (rd : BitVec 5) (writes : Bool) (new : Word → Word) : (csrBody csr rd writes new s).memWf := by
  unfold Machine.csrBody
  grind [Act.memWf_done, memWf.writeCsr, memWf.setX]

theorem memWf.execCsrrw (h : s.memWf) (csr : BitVec 12) (rs1 rd : BitVec 5) : AnswerWf (execCsrrw csr rs1 rd s) := by
  unfold Machine.execCsrrw
  grind [memWf.issue, memWf.csrBody, answerWf_next]

theorem memWf.execCsrrs (h : s.memWf) (csr : BitVec 12) (rs1 rd : BitVec 5) : AnswerWf (execCsrrs csr rs1 rd s) := by
  unfold Machine.execCsrrs
  grind [memWf.issue, memWf.csrBody, answerWf_next]

theorem memWf.execCsrrc (h : s.memWf) (csr : BitVec 12) (rs1 rd : BitVec 5) : AnswerWf (execCsrrc csr rs1 rd s) := by
  unfold Machine.execCsrrc
  grind [memWf.issue, memWf.csrBody, answerWf_next]

theorem memWf.execCsrrwi (h : s.memWf) (csr : BitVec 12) (uimm rd : BitVec 5) : AnswerWf (execCsrrwi csr uimm rd s) := by
  unfold Machine.execCsrrwi
  grind [memWf.issue, memWf.csrBody, answerWf_next]

theorem memWf.execCsrrsi (h : s.memWf) (csr : BitVec 12) (uimm rd : BitVec 5) : AnswerWf (execCsrrsi csr uimm rd s) := by
  unfold Machine.execCsrrsi
  grind [memWf.issue, memWf.csrBody, answerWf_next]

theorem memWf.execCsrrci (h : s.memWf) (csr : BitVec 12) (uimm rd : BitVec 5) : AnswerWf (execCsrrci csr uimm rd s) := by
  unfold Machine.execCsrrci
  grind [memWf.issue, memWf.csrBody, answerWf_next]

/-! ## Machine/Local -/

theorem memWf.plotCheck (h : s.memWf) {k : Nat → Act} (hk : ∀ p, (k p).memWf) (rs1 : BitVec 5) (change : Bool) : (plotCheck s rs1 change k).memWf := by
  unfold Machine.plotCheck
  dsimp only
  repeat' split
  exacts [h, h, hk _]

theorem memWf.execOwne (h : s.memWf) (rs1 : BitVec 5) : AnswerWf (execOwne rs1 s) := by
  unfold Machine.execOwne
  grind [memWf_iff, Act.memWf_done, Act.memWf_hold, memWf.issue, memWf.plotCheck, memWf.modHere, answerWf_next]

theorem memWf.execOwnt (h : s.memWf) (rs1 : BitVec 5) : AnswerWf (execOwnt rs1 s) := by
  unfold Machine.execOwnt
  grind [memWf_iff, Act.memWf_done, Act.memWf_hold, memWf.issue, memWf.plotCheck, memWf.modHere, answerWf_next]

theorem memWf.execOwnq (h : s.memWf) (rs1 rd : BitVec 5) : AnswerWf (execOwnq rs1 rd s) := by
  unfold Machine.execOwnq
  grind [Act.memWf_done, memWf.issue, memWf.plotCheck, memWf.setX, answerWf_next]

theorem memWf.barEvent (h : s.memWf) (c b a : Nat) (n : BitVec 32) : (s.barEvent c b a n).memWf := by
  unfold State.barEvent
  grind [memWf_iff, memWf.foldl, memWf.modCore, memWf.fillNext]

theorem memWf.execBinit (h : s.memWf) (barHi : BitVec 1) (rs1 bar : BitVec 5) : AnswerWf (execBinit barHi rs1 bar s) := by
  unfold Machine.execBinit
  grind [memWf_iff, memWf.foldl, Act.memWf_done, memWf.issue, memWf.deliverAt, memWf.modHere, answerWf_next]

theorem memWf.execBarv (h : s.memWf) (barHi : BitVec 1) (bar : BitVec 5) : AnswerWf (execBarv barHi bar s) := by
  unfold Machine.execBarv
  grind [Act.memWf_done, memWf.issue, memWf.barEvent, answerWf_next]

theorem memWf.execBexp (h : s.memWf) (barHi : BitVec 1) (rs1 bar : BitVec 5) : AnswerWf (execBexp barHi rs1 bar s) := by
  unfold Machine.execBexp
  grind [Act.memWf_done, memWf.issue, memWf.barEvent, answerWf_next]

theorem memWf.execBwait (h : s.memWf) (barHi : BitVec 1) (rd : BitVec 5) (phase : BitVec 1) (bar : BitVec 5) :
    AnswerWf (execBwait barHi rd phase bar s) := by
  unfold Machine.execBwait
  grind [memWf_iff, Act.memWf_done, memWf.issue, memWf.setX, memWf.withClaim, memWf.modHere, answerWf_next]

theorem memWf.execBquery (h : s.memWf) (barHi : BitVec 1) (rd bar : BitVec 5) : AnswerWf (execBquery barHi rd bar s) := by
  unfold Machine.execBquery
  grind [Act.memWf_done, memWf.issue, memWf.setX, answerWf_next]

theorem memWf.queuePush (h : s.memWf) (c q : Nat) (v : Word) : ∀ t, State.queuePush s c q v = some t → t.memWf := by
  unfold State.queuePush
  grind [memWf_iff, memWf.fillNext, memWf.modCore]

theorem memWf.execQpush (h : s.memWf) (rs2 : BitVec 5) (q : BitVec 3) : AnswerWf (execQpush rs2 q s) := by
  unfold Machine.execQpush
  grind [Act.memWf_done, Act.memWf_park, memWf.issue, memWf.queuePush, answerWf_next]

theorem memWf.execQpop (h : s.memWf) (q : BitVec 3) (rd : BitVec 5) : AnswerWf (execQpop q rd s) := by
  unfold Machine.execQpop
  grind [memWf_iff, Act.memWf_done, memWf.issue, memWf.setX, memWf.modHere, memWf.withClaim, answerWf_next]

theorem memWf.execQlen (h : s.memWf) (q : BitVec 3) (rd : BitVec 5) : AnswerWf (execQlen q rd s) := by
  unfold Machine.execQlen
  grind [Act.memWf_done, memWf.issue, memWf.setX, answerWf_next]

theorem memWf.execBlock (h : s.memWf) (rs1 : BitVec 5) : AnswerWf (execBlock rs1 s) := by
  unfold Machine.execBlock
  grind [memWf_iff, Act.memWf_done, Act.memWf_park, Act.memWf_trap, memWf.issue, memWf.modHere, answerWf_next]

theorem memWf.execBunlock (h : s.memWf) (rs1 : BitVec 5) : AnswerWf (execBunlock rs1 s) := by
  unfold Machine.execBunlock
  grind [memWf_iff, Act.memWf_done, Act.memWf_trap, memWf.issue, memWf.modHere, answerWf_next]

theorem memWf.execLockBreak (h : s.memWf) (core bank : Nat) : AnswerWf (execLockBreak core bank s) := by
  unfold Machine.execLockBreak
  grind [memWf_iff, count_ls, memWf.modCore, memWf.count, memWf.modSlot, answerWf_next]

/-! ## Machine/Ranges -/

theorem memWf.slotTrips (h : s.memWf) (d : Word) (is : List Nat) : (s.slotTrips d is).1.memWf := by
  refine h.foldl_fst (fun u b i hu => ?_) is
  grind [memWf.forwarded]

theorem memWf.walkDir (h : s.memWf) (d : Word) (va : Nat) : (s.walkDir d va).1.memWf := by
  unfold State.walkDir
  grind [memWf.slotTrips]

theorem memWf.execWalk (h : s.memWf) (fid : Nat) : AnswerWf (execWalk fid s) := by
  unfold Machine.execWalk
  grind [memWf_iff, memWf.withPacket, memWf.walkDir, memWf.loseFlight, memWf.answer, answerWf_next]

theorem memWf.tellUser (h : s.memWf) (c : Nat) (w : WalkRec) (r : WalkRes) (u : WalkUser) : (tellUser c w r s u).memWf := by
  unfold Machine.tellUser
  grind [memWf_iff, memWf.modSlot, memWf.modCore, memWf.deliverAt]

theorem memWf.endWalk (h : s.memWf) (c id : Nat) : (s.endWalk c id).memWf := by
  unfold State.endWalk
  grind [memWf_iff, memWf.sendWalk, memWf.modCore]

theorem memWf.execWalkFill (h : s.memWf) (fid : Nat) : AnswerWf (execWalkFill fid s) := by
  refine answerWf_next.2 ?_
  split
  · next c id res _ =>
    refine h.withPacket (fun f u hu => ?_) fid
    split
    · exact hu
    · next w _ =>
      split
      · exact (hu.modCore (fun _ => by rfl) c).sendWalk ..
      · have hv := hu.foldl (fun v x hv => hv.tellUser c w res x) w.users
        refine memWf.endWalk ?_ ..
        split
        · split
          · exact hv.modCore (fun k => by rw [reissue_ls, fillRange_ls]) c
          · exact hv
        · exact hv
  · exact h

theorem memWf.probeBody (h : s.memWf) (rs1 rd : BitVec 5) (dir : Word) (fill : Bool) : (probeBody rs1 rd dir fill s).memWf := by
  unfold Machine.probeBody
  grind [Act.memWf_done, memWf.withClaim, memWf.startWalk, answerWf_next]

theorem memWf.execRprobe (h : s.memWf) (rs1 rd : BitVec 5) : AnswerWf (execRprobe rs1 rd s) := by
  unfold Machine.execRprobe
  grind [memWf.issue, memWf.probeBody, answerWf_next]

theorem memWf.execRloadt (h : s.memWf) (rs1 rd : BitVec 5) : AnswerWf (execRloadt rs1 rd s) := by
  unfold Machine.execRloadt
  grind [memWf.issue, memWf.probeBody, answerWf_next]

theorem memWf.dirFuture (h : s.memWf) (rd : BitVec 5) (op : DirOp) : (dirFuture rd op s).memWf := by
  unfold Machine.dirFuture
  grind [memWf_iff, Act.memWf_done, memWf.withClaim, memWf.fillNow, memWf.inject, answerWf_next]

theorem memWf.execRsplit (h : s.memWf) (rs2 rs1 rd : BitVec 5) : AnswerWf (execRsplit rs2 rs1 rd s) := by
  unfold Machine.execRsplit
  grind [memWf.issue, memWf.dirFuture, answerWf_next]

theorem memWf.execRmerge (h : s.memWf) (rs1 rd : BitVec 5) : AnswerWf (execRmerge rs1 rd s) := by
  unfold Machine.execRmerge
  grind [memWf.issue, memWf.dirFuture, answerWf_next]

theorem memWf.execRglean (h : s.memWf) (rs2 rs1 rd : BitVec 5) : AnswerWf (execRglean rs2 rs1 rd s) := by
  unfold Machine.execRglean
  grind [memWf.issue, memWf.dirFuture, answerWf_next]

theorem memWf.resBody (h : s.memWf) (rs1 : BitVec 5) (op : DirOp) : (resBody rs1 op s).memWf := by
  unfold Machine.resBody
  grind [memWf_iff, Act.memWf_done, Act.memWf_hold, Act.memWf_trap, memWf.modMe, memWf.inject, memWf.bump]

theorem memWf.execRsetres (h : s.memWf) (rs2 rs1 : BitVec 5) : AnswerWf (execRsetres rs2 rs1 s) := by
  unfold Machine.execRsetres
  grind [memWf.issue, memWf.resBody, answerWf_next]

theorem memWf.execRclrres (h : s.memWf) (rs2 rs1 : BitVec 5) : AnswerWf (execRclrres rs2 rs1 s) := by
  unfold Machine.execRclrres
  grind [memWf.issue, memWf.resBody, answerWf_next]

theorem memWf.sendRinv (h : s.memWf) (c : Nat) (to_ : List Nat × List Nat) (proc : BitVec 12) (lo hi : Nat) (claim move : Option Nat) (id : Nat) :
    (s.sendRinv c to_ proc lo hi claim move id).memWf := by
  unfold State.sendRinv
  grind [memWf_iff, memWf.foldl, memWf.inject]

theorem memWf.execRinv (h : s.memWf) (scope : BitVec 4) (rs2 rs1 rd : BitVec 5) : AnswerWf (execRinv scope rs2 rs1 rd s) := by
  unfold Machine.execRinv
  grind [memWf_iff, Act.memWf_done, memWf.issue, memWf.setX, memWf.withClaim, memWf.bump, memWf.sendRinv, answerWf_next]

theorem memWf.execRinvAck (h : s.memWf) (fid : Nat) : AnswerWf (execRinvAck fid s) := by
  unfold Machine.execRinvAck
  grind [memWf_iff, dropSpan_ls, memWf.withPacket, memWf.answer, memWf.setFlight, memWf.modCore, answerWf_next]

theorem memWf.takeRinvAck (h : s.memWf) (id : Nat) : (s.takeRinvAck id).memWf := by
  unfold State.takeRinvAck
  grind [memWf_iff, memWf.fillNow]

theorem memWf.putDirSlot (h : s.memWf) (d : Word) (i : Nat) (r : RawSlot) : (s.putDirSlot d i r).memWf := by
  unfold State.putDirSlot
  grind [memWf.forwarded, memWf.homeWrite]

theorem memWf.vacate (h : s.memWf) (d : Word) (l : List (Nat × RawSlot)) (base home : Nat) : (s.vacate d l base home).memWf := by
  unfold State.vacate
  grind [memWf.foldl, memWf.putDirSlot]

theorem memWf.doSplit (h : s.memWf) (d m tag : Word) (r : RangeSlot) (i : Nat) : (s.doSplit d m tag r i).1.memWf := by
  unfold State.doSplit
  grind [memWf_iff, memWf.putDirSlot, memWf.vacate]

theorem memWf.doMerge (h : s.memWf) (d : Word) (r : RangeSlot) (i : Nat) : (s.doMerge d r i).1.memWf := by
  unfold State.doMerge
  grind [memWf_iff, memWf.putDirSlot, memWf.vacate]

theorem memWf.doGlean (h : s.memWf) (c : Nat) (claim : Option Nat) (part : BitVec 4) (d : Word) (r : RangeSlot) (i : Nat) (newPa : Word) :
    (s.doGlean c claim part d r i newPa).1.memWf := by
  unfold State.doGlean
  grind [memWf_iff, memWf.chargeSite, memWf.siteViolation, memWf.putDirSlot, memWf.bump]

theorem memWf.execDirectoryUpdate (h : s.memWf) (fid : Nat) : AnswerWf (execDirectoryUpdate fid s) := by
  refine answerWf_next.2 ?_
  split
  · refine h.withPacket (fun f u hu => ?_) fid
    split
    · next slot claim acc d op c _ _ =>
      extract_lets va status
      have hw := hu.walkDir d va.toNat
      generalize u.walkDir d va.toNat = x at hw
      obtain ⟨v, res⟩ := x
      have hv : v.memWf := hw
      dsimp only
      split
      · exact hv.loseFlight f
      · grind [memWf.slotTrips, memWf.doSplit, memWf.doMerge, memWf.loseFlight, memWf.answer, memWf.putDirSlot, memWf.doGlean]
    · exact hu
  · exact h

theorem memWf.moveBlock (h : s.memWf) (g : GMove) (off : Nat) : (moveBlock g off s).1.memWf := by
  have hi := (h.invalSharers (lineOf (g.oldPa + off)) none).clearResv (lineOf (g.oldPa + off)) none
  have hd := hi.withL2 (keysRise_ndel (lineOf (g.oldPa + off)) hi.l2_rises)
  exact (hd.homeWrite ..).of_eq rfl rfl rfl

theorem memWf.loseMove (h : s.memWf) (g : GMove) : (s.loseMove g).memWf := by
  unfold State.loseMove
  grind [memWf_iff, memWf.fillNow]

theorem memWf.execGleanUnit (h : s.memWf) (move : Nat) : AnswerWf (execGleanUnit move s) := by
  refine answerWf_next.2 ?_
  split
  · exact h
  · next g _ =>
    have hr := h.reach (.gleaner move g.site) g.site g.part (g.newPa + g.moved) (s.unitFlits g) 32
    generalize s.reach (.gleaner move g.site) g.site g.part (g.newPa + g.moved) (s.unitFlits g) 32 = x at hr
    obtain ⟨u, tr⟩ := x
    have hu : u.memWf := hr
    dsimp only
    split
    · exact hu.loseAccess ..
    · split
      · exact hu.loseMove g
      · refine memWf.of_eq (?_ : memWf _) rfl rfl rfl
        exact hu.foldl_fst (fun v b i hv => hv.moveBlock ..) _

theorem memWf.execGleanFinish (h : s.memWf) (move : Nat) : AnswerWf (execGleanFinish move s) := by
  unfold Machine.execGleanFinish
  grind [memWf_iff, memWf.slotTrips, memWf.loseMove, memWf.putDirSlot, memWf.bump, memWf.sendRinv, answerWf_next]

/-! ## Machine/Flags -/

theorem memWf.orFlags (h : s.memWf) (f : Nat) : (s.orFlags f).memWf := by
  unfold State.orFlags
  grind [memWf_iff, memWf.modMe]

theorem memWf.useDraw (h : s.memWf) (m : RMode) : (s.useDraw m).memWf := by
  unfold State.useDraw
  grind [memWf_iff, memWf.modMe]

end Sys2Proof.Machine.State
end

section
/-! Canonical memory: what the functions of the copy channels answer. -/

namespace Sys2Proof.Machine

/-- The state in which the resolution of an address of a copy leaves the machine. -/
def ChTr.memWf (r : ChTr) : Prop :=
  match r with
  | .loc s _ | .wait s | .fault s _ => s.memWf

@[simp] theorem ChTr.memWf_loc {s : State} {l : Loc} : (ChTr.loc s l).memWf = s.memWf := rfl
@[simp] theorem ChTr.memWf_wait {s : State} : (ChTr.wait s).memWf = s.memWf := rfl
@[simp] theorem ChTr.memWf_fault {s : State} {n : Nat} : (ChTr.fault s n).memWf = s.memWf := rfl

/-- The same of a list of addresses. -/
def ResolvedWf (r : (State × List Loc) ⊕ (Word × ChTr)) : Prop :=
  match r with
  | .inl p => p.1.memWf
  | .inr p => p.2.memWf

@[simp] theorem resolvedWf_inl {p : State × List Loc} : ResolvedWf (.inl p) = p.1.memWf := rfl
@[simp] theorem resolvedWf_inr {p : Word × ChTr} : ResolvedWf (.inr p) = p.2.memWf := rfl

theorem ResolvedWf.inl {r : (State × List Loc) ⊕ (Word × ChTr)} (h : ResolvedWf r) {u : State} {ls : List Loc} (e : r = .inl (u, ls)) : u.memWf := by
  subst e; exact h

theorem ResolvedWf.inr {r : (State × List Loc) ⊕ (Word × ChTr)} (h : ResolvedWf r) {va : Word} {t : ChTr} (e : r = .inr (va, t)) : t.memWf := by
  subst e; exact h

theorem State.memWf_ite {p : Prop} [Decidable p] {s t : State} (hs : s.memWf) (ht : t.memWf) : (if p then s else t).memWf := by
  split
  · exact hs
  · exact ht

/-- A canonical state that comes with something else. -/
theorem State.memWf_of_eq_mk {β : Type} {x : State × β} (h : x.1.memWf) {u : State} {b : β} (e : x = (u, b)) : u.memWf := by
  subst e; exact h

end Sys2Proof.Machine
end

section
/-! Canonical memory: copies, tasks, contexts and multicasts, one lemma for each function. -/

namespace Sys2Proof.Machine.State

variable {s : State}

/-! ## Machine/Transfers -/

theorem memWf.performTransfer (h : s.memWf) (c : Nat) (t : Transfer) : (s.performTransfer c t).memWf := by
  unfold State.performTransfer
  grind [memWf.modSlot, memWf.modCore', wf_memPuts]

theorem memWf.startTransfer (h : s.memWf) (kind : TransferKind) (addrs : List Nat) : (s.startTransfer kind addrs).memWf := by
  unfold State.startTransfer
  grind [memWf_iff, memWf.performTransfer, memWf.modMe, memWf.modHere]

theorem memWf.execTransferPerform (h : s.memWf) (core : Nat) : AnswerWf (execTransferPerform core s) := by
  unfold Machine.execTransferPerform
  grind [memWf_iff, memWf.modCore, memWf.performTransfer, answerWf_next]

/-! ## Machine/Copy -/

theorem memWf.modChan (h : s.memWf) (c ch : Nat) (f : Channel → Channel) : (s.modChan c ch f).memWf := by
  unfold State.modChan
  grind [setChan_ls, memWf.modCore]

theorem memWf.execCpw (h : s.memWf) (ch : BitVec 2) (idx rs1 : BitVec 5) : AnswerWf (execCpw ch idx rs1 s) := by
  unfold Machine.execCpw
  grind [memWf_iff, Act.memWf_done, memWf.issue, memWf.modChan, answerWf_next]

theorem memWf.execCpr (h : s.memWf) (ch : BitVec 2) (idx rd : BitVec 5) : AnswerWf (execCpr ch idx rd s) := by
  unfold Machine.execCpr
  grind [Act.memWf_done, memWf.issue, memWf.setX, answerWf_next]

theorem memWf.execCpgo (h : s.memWf) (ch : BitVec 2) (rd : BitVec 5) : AnswerWf (execCpgo ch rd s) := by
  unfold Machine.execCpgo
  grind [memWf_iff, Act.memWf_done, Act.memWf_hold, Act.memWf_trap, memWf.issue, memWf.releaseCheck, memWf.siteViolation, memWf.withClaim, memWf.bump,
    memWf.modMe, memWf.modChan, answerWf_next]

theorem memWf.chanLoc (h : s.memWf) (c ch : Nat) (va : Word) (kind : AccessKind) : (s.chanLoc c ch va kind).memWf := by
  unfold State.chanLoc
  extract_lets x walk
  have hw (u : State) (join : Bool) (hu : u.memWf) : (walk u join).memWf := (hu.startWalk ..).modChan ..
  clear_value walk
  grind [ChTr.memWf_loc, ChTr.memWf_wait, ChTr.memWf_fault, memWf.modChan, memWf.modCore, useRange_ls]
--

theorem memWf.resolveAll (h : s.memWf) (c ch : Nat) (kind : AccessKind) (n : Nat) (vas : List Word) (acc : List Loc) :
    ResolvedWf (resolveAll c ch kind n vas s acc) := by
  induction vas generalizing s acc with
  | nil => exact h
  | cons va l ih =>
    unfold Machine.resolveAll
    grind [resolvedWf_inr, ChTr.memWf_loc, ChTr.memWf_wait, ChTr.memWf_fault, memWf.chanLoc]

theorem memWf.copyFault (h : s.memWf) (c ch : Nat) (side reason : Nat) (va : Word) : (s.copyFault c ch side reason va).memWf := by
  unfold State.copyFault
  grind [memWf_iff, memWf.modChan, memWf.notify]

theorem memWf.copyFail (h : s.memWf) (c ch : Nat) (code detail : Nat) : (s.copyFail c ch code detail).memWf := by
  unfold State.copyFail
  grind [memWf_iff, memWf.modChan]

theorem memWf.remoteClass (h : s.memWf) (c ch : Nat) : (s.remoteClass c ch).memWf := by
  unfold State.remoteClass
  grind [memWf_iff, setChan_ls, memWf.modCore]

theorem memWf.pageTrips (h : s.memWf) (c n : Nat) (ls : List Loc) (write : Bool) (vals : List Nat) : (s.pageTrips c n ls write vals).1.memWf := by
  refine h.foldl_fst (fun u b q hu => ?_) (pagesOf n ls vals)
  grind [memWf.reach]

theorem memWf.accessFails (h : s.memWf) (c ch : Nat) (code : BitVec 8) (pa : Nat) : (s.accessFails c ch code pa).memWf := by
  unfold State.accessFails
  grind [memWf_iff, memWf.loseAccess, memWf.modChan, memWf.copyFail]

theorem memWf.writeLoc (h : s.memWf) (c n : Nat) (l : Loc) (v : Nat) : (s.writeLoc c n l v).memWf := by
  unfold State.writeLoc
  grind [memWf.modCore', wf_memWrite, memWf.allocLine, memWf.count, memWf.homeWrite]

theorem memWf.qfScale (h : s.memWf) (c ch : Nat) : (s.qfScale c ch).1.memWf := by
  unfold State.qfScale
  extract_lets x
  have hr := h.resolveAll c ch .copyR 4 [x.reg 6] []
  split
  · exact h
  · split
    · next e => exact hr.inr e
    · next e => exact memWf.copyFault (hr.inr e) ..
    · next e => exact hr.inr e
    · next u ls e =>
      have hu : u.memWf := hr.inl e
      split
      · exact hu.copyFail ..
      · next l _ _ =>
        have hp := hu.pageTrips c 4 [l] false []
        split
        · exact hu.copyFail ..
        · split
          · next e => exact (memWf_of_eq_mk hp e).accessFails ..
          · next e =>
            split
            · exact (memWf_of_eq_mk hp e).copyFail ..
            · exact (memWf_of_eq_mk hp e).modChan ..
      · exact hu

theorem memWf.resolveDst (h : s.memWf) (c ch : Nat) (far : Option (BitVec 16)) (vas : List Word) : ResolvedWf (s.resolveDst c ch far vas) := by
  unfold State.resolveDst
  grind [resolvedWf_inl, resolvedWf_inr, ChTr.memWf_fault, memWf.resolveAll]

theorem memWf.stopStart {r : ChTr} (h : r.memWf) (c ch side : Nat) (va : Word) : (stopStart c ch side va r).memWf := by
  cases r with
  | loc u l => exact h
  | wait u => exact h
  | fault u reason => exact memWf.copyFault h ..

theorem memWf.startSegment (h : s.memWf) (c ch : Nat) : (s.startSegment c ch).memWf := by
  unfold State.startSegment
  have hq := h.qfScale c ch
  generalize s.qfScale c ch = q at hq
  obtain ⟨u, go⟩ := q
  have hu : u.memWf := hq
  dsimp only
  split
  · exact hu
  · split
    · next e => exact memWf.stopStart ((hu.resolveAll ..).inr e) ..
    · next v srcs e =>
      have hv : v.memWf := (hu.resolveAll ..).inl e
      split
      · next e => exact memWf.stopStart ((hv.resolveDst ..).inr e) ..
      · next w dsts e =>
        have hw : w.memWf := (hv.resolveDst ..).inl e
        split
        · next e => exact memWf.stopStart ((hw.resolveAll ..).inr e) ..
        · next y scs e =>
          have hy : y.memWf := (hw.resolveAll ..).inl e
          generalize remoteVA (if (u.chan c ch).op = 3 then dsts else dsts.take 1) = toRemote
          have hr : (if toRemote.isSome then y.remoteClass c ch else y).memWf := by
            split
            · exact hy.remoteClass ..
            · exact hy
          split
          · refine memWf.copyFail ?_ ..
            split
            · exact hy.remoteClass ..
            · exact hy
          · generalize (if toRemote.isSome then y.remoteClass c ch else y) = z at hr
            split
            · exact hr.modChan ..
            · split
              · exact hr.copyFail ..
              · exact (hr.modCore (fun k => usePlots_ls k _ _) c).modChan ..

theorem memWf.sendUnits (h : s.memWf) (c ch : Nat) (to_ : Option (BitVec 16)) (bytes : List (Nat × Byte)) (adds : List (Nat × BitVec 32)) :
    (s.sendUnits c ch to_ bytes adds).memWf := by
  unfold State.sendUnits
  grind [memWf.modChan, memWf.modCore', wf_addAll, wf_memPuts, memWf.inject]

theorem memWf.countBytes (h : s.memWf) (c ch k : Nat) : (s.countBytes c ch k).memWf :=
  (h.modChan c ch _).modCore (fun q => count_ls q 20 none k) c

theorem memWf.deliverHomes (h : s.memWf) (c ch : Nat) (x : Channel) (seg : Segment) (o : SegOut) : (s.deliverHomes c ch x seg o).memWf := by
  unfold State.deliverHomes
  grind [memWf_iff, memWf.foldl, memWf.writeLoc, memWf.countBytes]

theorem memWf.deliverUnits (h : s.memWf) (c ch : Nat) (x : Channel) (seg : Segment) (o : SegOut) : (s.deliverUnits c ch x seg o).memWf := by
  unfold State.deliverUnits
  grind [memWf_iff, memWf.modChan, memWf.sendUnits]

theorem memWf.deliverSegment (h : s.memWf) (c ch : Nat) (x : Channel) (seg : Segment) (o : SegOut) : (s.deliverSegment c ch x seg o).memWf := by
  unfold State.deliverSegment
  grind [memWf_iff, memWf.copyFail, memWf.inject, memWf.modChan, memWf.deliverUnits, memWf.deliverHomes]

theorem memWf.chipTakes (h : s.memWf) (f : Flight) (ch r : Nat) (red : Bool) (pa : Nat) (bytes : List Byte) : (s.chipTakes f ch r red pa bytes).memWf := by
  unfold State.chipTakes
  grind [memWf_iff, memWf.modChip]

theorem memWf.performSegment (h : s.memWf) {deliver : State → Channel → Segment → SegOut → State}
    (hd : ∀ (u : State) (x : Channel) (seg : Segment) (o : SegOut), u.memWf → (deliver u x seg o).memWf) (c ch i : Nat) :
    (s.performSegment c ch i deliver).memWf := by
  unfold State.performSegment
  extract_lets x
  split
  · exact h
  · next seg _ =>
    split
    · exact h
    · extract_lets u
      have hu : u.memWf := (h.modChan c ch _).modCore (fun k => usePlots_ls k _ _) c
      clear_value u
      have hp := hu.pageTrips c x.es seg.srcs false []
      split
      · next e => exact (memWf_of_eq_mk hp e).accessFails ..
      · next v y e =>
        have hv : v.memWf := memWf_of_eq_mk hp e
        clear_value x
        split
        · exact hv.copyFail ..
        · next xs _ =>
          extract_lets o
          have hq := hv.pageTrips c x.listed (seg.dsts ++ seg.scale.toList) true (if x.op = 1 then [] else o.vals)
          split
          · next e => exact (memWf_of_eq_mk hq e).accessFails ..
          · next w stopped z _ e =>
            have hw : w.memWf := memWf_of_eq_mk hq e
            split
            · exact hw.copyFail ..
            · cases stopped with
              | some p => exact (hd _ _ _ _ (hw.modChan ..)).accessFails ..
              | none => exact hd _ _ _ _ (hw.modChan ..)

theorem memWf.copyEvent (h : s.memWf) (op c : Nat) (ch i : Nat) : (s.copyEvent op c ch i).memWf := by
  unfold State.copyEvent
  grind [memWf.performSegment, memWf.deliverSegment, memWf.startSegment]

theorem memWf.execCopy (h : s.memWf) (core ch seg : Nat) : AnswerWf (execCopy core ch seg s) := by
  unfold Machine.execCopy
  grind [memWf.copyEvent, answerWf_next]

theorem memWf.execRedadd (h : s.memWf) (core ch seg : Nat) : AnswerWf (execRedadd core ch seg s) := by
  unfold Machine.execRedadd
  grind [memWf.copyEvent, answerWf_next]

theorem memWf.execQf8 (h : s.memWf) (core ch seg : Nat) : AnswerWf (execQf8 core ch seg s) := by
  unfold Machine.execQf8
  grind [memWf.copyEvent, answerWf_next]

theorem memWf.execMxq (h : s.memWf) (core ch seg : Nat) : AnswerWf (execMxq core ch seg s) := by
  unfold Machine.execMxq
  grind [memWf.copyEvent, answerWf_next]

theorem memWf.amaxFold (h : s.memWf) (c ch : Nat) : (s.amaxFold c ch).1.memWf := by
  unfold State.amaxFold
  extract_lets x va fault
  have hf (r : ChTr) (hr : r.memWf) : (fault r).1.memWf := memWf.stopStart hr ..
  clear_value fault
  split
  · exact h
  · have hr := h.resolveAll c ch .copyR 4 [va] []
    split
    · next e => exact hf _ (hr.inr e)
    · next u _ e =>
      have hw := (hr.inl e).resolveAll c ch .copyW 4 [va] []
      split
      · next e => exact hf _ (hw.inr e)
      · next v ls e =>
        have hv : v.memWf := hw.inl e
        split
        · exact hv.copyFail ..
        · next l _ _ =>
          have hp := hv.pageTrips c 4 [l] true []
          split
          · exact hv.copyFail ..
          · split
            · next e => exact (memWf_of_eq_mk hp e).accessFails ..
            · next e =>
              split
              · exact (memWf_of_eq_mk hp e).copyFail ..
              · exact ((memWf_of_eq_mk hp e).writeLoc ..).modChan ..
        · exact hv

theorem memWf.flipPlots (h : s.memWf) (c : Nat) (x : Channel) : (s.flipPlots c x).memWf := by
  unfold State.flipPlots
  grind [toThread_ls, memWf.modCore]

theorem memWf.sendFlips (h : s.memWf) (c ch : Nat) (far : List (Nat × Nat)) : (s.sendFlips c ch far).memWf := by
  unfold State.sendFlips
  grind [memWf_iff, memWf.foldl, memWf.modChan, memWf.inject]

theorem memWf.sendEvent (h : s.memWf) (c ch : Nat) : (s.sendEvent c ch).1.memWf := by
  unfold State.sendEvent
  grind [memWf_iff, memWf.barEvent, memWf.inject, memWf.modChan]

theorem memWf.eventFails (h : s.memWf) (c ch serial : Nat) (code : BitVec 8) (detail : Nat) : (s.eventFails c ch serial code detail).memWf := by
  unfold State.eventFails
  grind [memWf_iff, memWf.modChan]

theorem memWf.endCopy (h : s.memWf) (c ch st : Nat) (fail : Option (BitVec 8 × BitVec 48)) : (s.endCopy c ch st fail).memWf := by
  unfold State.endCopy
  grind [memWf_iff, memWf.dropRemote, memWf.poisonNow, memWf.fillNow, memWf.modChan]

theorem memWf.execCpcancel (h : s.memWf) (ch : BitVec 2) : AnswerWf (execCpcancel ch s) := by
  unfold Machine.execCpcancel
  grind [memWf_iff, Act.memWf_done, memWf.issue, memWf.modChan, answerWf_next]

theorem memWf.chanCommand (h : s.memWf) (c ch cmd : Nat) : (s.chanCommand c ch cmd).memWf := by
  unfold State.chanCommand
  grind [memWf_iff, memWf.modChan, memWf.startWalk, memWf.copyFail]

theorem memWf.answerLate (h : s.memWf) (f : Flight) (body : Body) : (s.answerLate f body).memWf := by
  unfold State.answerLate
  grind [memWf_iff, memWf.answer]

theorem memWf.takeFlip (h : s.memWf) (fid : Nat) : (s.takeFlip fid).memWf := by
  unfold State.takeFlip
  grind [toThread_ls, memWf.withPacket, memWf.answerLate, memWf.modCore]

theorem memWf.execInboundSegment (h : s.memWf) (fid : Nat) : AnswerWf (execInboundSegment fid s) := by
  refine answerWf_next.2 ?_
  split
  · refine h.withPacket (fun f u hu => ?_) fid
    split
    · dsimp only
      split
      · exact (hu.modCore (fun k => refuseInbound_ls k _ _ _) _).answer ..
      · exact (hu.modCore' (fun k hk => wf_addAll (wf_memPuts _ _ hk) _) _).answer ..
    · exact hu
  · exact h.takeFlip fid
  · exact h

theorem memWf.takeSegAns (h : s.memWf) (c ch n : Nat) (fail : Option (BitVec 8 × BitVec 48)) : (s.takeSegAns c ch n fail).memWf := by
  unfold State.takeSegAns
  grind [memWf_iff, count_ls, memWf.modCore, memWf.modChan, memWf.copyFail]

theorem memWf.execRemoteBarrierEvent (h : s.memWf) (fid : Nat) : AnswerWf (execRemoteBarrierEvent fid s) := by
  unfold Machine.execRemoteBarrierEvent
  grind [memWf.withPacket, memWf.barEvent, answerWf_next]

/-! ## Machine/Tasks -/

theorem memWf.withRecord (h : s.memWf) {k : State → List Word → Act} (hk : ∀ ws, (k s ws).memWf) (a : Word) : (withRecord s a k).memWf := by
  unfold Machine.withRecord
  repeat' split
  exacts [h, h, h.localAccess (hk _) ..]

theorem memWf.execSpawn (h : s.memWf) (rs1 rd : BitVec 5) : AnswerWf (execSpawn rs1 rd s) := by
  unfold Machine.execSpawn
  grind [pushDeque_wf, memWf.modHere', Act.memWf_done, memWf.issue, memWf.withRecord, memWf.withClaim, memWf.fillNow, memWf.modHere, memWf.stampRec,
    answerWf_next]

theorem memWf.finishSlot (h : s.memWf) (c n : Nat) : (s.finishSlot c n).memWf := by
  unfold State.finishSlot
  grind [memWf_iff, freeLocks_ls, memWf.dropSpec, memWf.modCore, memWf.stampRec, memWf.endResv, memWf.trace, memWf.modSlot, memWf.becomeEmpty]

theorem memWf.execDone (h : s.memWf) : AnswerWf (execDone s) := by
  unfold Machine.execDone
  grind [Act.memWf_done, memWf.issue, memWf.finishSlot, answerWf_next]

theorem memWf.sendMsg (h : s.memWf) (c slot : Nat) (h2 : HeldMsg) : (s.sendMsg c slot h2).memWf := by
  unfold State.sendMsg
  grind [memWf_iff, memWf.bump, memWf.inject]

theorem memWf.sendOrHold (h : s.memWf) (h2 : HeldMsg) : (s.sendOrHold h2).memWf := by
  unfold State.sendOrHold
  grind [memWf_iff, memWf.fillNext, memWf.modMe, memWf.sendMsg]

theorem memWf.execSend (h : s.memWf) (rs2 rs1 rd : BitVec 5) : AnswerWf (execSend rs2 rs1 rd s) := by
  unfold Machine.execSend
  grind [Act.memWf_done, memWf.issue, memWf.withRecord, memWf.withClaim, memWf.fillNext, memWf.sendOrHold, answerWf_next]

theorem memWf.execSendt (h : s.memWf) (rs2 rs1 rd : BitVec 5) : AnswerWf (execSendt rs2 rs1 rd s) := by
  unfold Machine.execSendt
  grind [Act.memWf_done, memWf.issue, memWf.withRecord, memWf.withClaim, memWf.sendOrHold, answerWf_next]

theorem memWf.execSpecb (h : s.memWf) : AnswerWf (execSpecb s) := by
  unfold Machine.execSpecb
  grind [memWf_iff, Act.memWf_done, memWf.issue, memWf.modMe, answerWf_next]

theorem memWf.execSpecc (h : s.memWf) : AnswerWf (execSpecc s) := by
  unfold Machine.execSpecc
  grind [memWf_iff, memWf.foldl, Act.memWf_done, memWf.issue, memWf.sendMsg, memWf.modMe, answerWf_next]

theorem memWf.execSpeca (h : s.memWf) : AnswerWf (execSpeca s) := by
  unfold Machine.execSpeca
  grind [Act.memWf_done, memWf.issue, memWf.dropSpec, answerWf_next]

theorem memWf.toPound (h : s.memWf) (c : Nat) (tag : BitVec 32) (origin : BitVec 16) (ws : List Word) : (s.toPound c tag origin ws).1.memWf := by
  unfold State.toPound
  split
  · next i _ =>
    extract_lets u
    have hu : u.memWf := h.modCore' (fun k hk => wf_putWords hk _ _) c
    clear_value u
    split
    · next l _ =>
      dsimp only
      split
      · cases e : u.queuePush c l.pq (wd (poundAddr i)) with
        | none => exact hu
        | some v => exact hu.queuePush _ _ _ v e
      · exact hu
    · exact hu
  · exact h.modCore (fun k => by rfl) c

theorem memWf.toMailbox (h : s.memWf) (c n : Nat) (tag : BitVec 32) (origin : BitVec 16) (ws : List Word) : (s.toMailbox c n tag origin ws).1.memWf := by
  unfold State.toMailbox
  grind [memWf.modCore', wf_putWords, memWf.modSlot, memWf.fillNext]

theorem memWf.toSaved (h : s.memWf) (c : Nat) (p : CtxPlace) (tag : BitVec 32) (origin : BitVec 16) (ws : List Word) :
    (s.toSaved c p tag origin ws).1.memWf := by
  unfold State.toSaved
  grind [memWf_iff, memWf.foldl, memWf.modCore, memWf.placeWrite]

theorem memWf.landTagged (h : s.memWf) (c : Nat) (tag : BitVec 32) (origin : BitVec 16) (ws : List Word) : (s.landTagged c tag origin ws).1.memWf := by
  unfold State.landTagged
  grind [memWf.toMailbox, memWf.toSaved, memWf.toPound]

theorem memWf.landRecord (h : s.memWf) (c : Nat) (ws : List Word) : (s.landRecord c ws).1.memWf := by
  unfold State.landRecord
  grind [memWf.modCore', putInbox_wf, memWf.stampRec]

theorem memWf.answerMsg (h : s.memWf) (f : Flight) (claim : Option Nat) (w : Word) : (s.answerMsg f claim w).memWf := by
  unfold State.answerMsg
  grind [memWf.fillNext, memWf.answer]

theorem memWf.execSendLanding (h : s.memWf) (fid : Nat) : AnswerWf (execSendLanding fid s) := by
  unfold Machine.execSendLanding
  grind [memWf.withPacket, memWf.landRecord, memWf.answerMsg, answerWf_next]

theorem memWf.execSendtLanding (h : s.memWf) (fid : Nat) : AnswerWf (execSendtLanding fid s) := by
  unfold Machine.execSendtLanding
  grind [memWf.withPacket, memWf.landTagged, memWf.answerMsg, answerWf_next]

theorem memWf.execRecvf (h : s.memWf) (rd : BitVec 5) : AnswerWf (execRecvf rd s) := by
  unfold Machine.execRecvf
  grind [memWf_iff, Act.memWf_done, Act.memWf_park, memWf.issue, memWf.modMe, memWf.withClaim, memWf.deliverAt, memWf.setX, answerWf_next]

theorem memWf.execTimerf (h : s.memWf) (rs1 rd : BitVec 5) : AnswerWf (execTimerf rs1 rd s) := by
  unfold Machine.execTimerf
  grind [memWf_iff, Act.memWf_done, memWf.issue, memWf.withClaim, memWf.modHere, answerWf_next]

theorem memWf.execTimerExpiry (h : s.memWf) (core claim : Nat) : AnswerWf (execTimerExpiry core claim s) := by
  unfold Machine.execTimerExpiry
  grind [memWf_iff, memWf.fillNow, memWf.modCore, answerWf_next]

/-! ## Machine/Contexts -/

theorem memWf.capture (h : s.memWf) (c : Nat) (r : SaveRec) : (s.capture c r).memWf := by
  unfold State.capture
  extract_lets n u v tag u1 u2 u3
  have hu : u.memWf := h.modCore (fun k => withdrawRecv_ls k _) c
  have h1 : u1.memWf := hu.trace ..
  have h2 : u2.memWf := by
    subst u2
    clear_value u1 v tag u
    refine h1.modCore (fun k => ?_) c
    dsimp only
    split <;> rfl
  clear_value u2
  have h3 : u3.memWf := (h2.endResv ..).becomeEmpty ..
  clear_value u3
  split
  · exact h3.modCore' (fun k hk => pushDeque_wf hk _ _ _) c
  · exact h3

theorem memWf.execSaveCapture (h : s.memWf) (core : Nat) : AnswerWf (execSaveCapture core s) := by
  unfold Machine.execSaveCapture
  grind [memWf_iff, memWf.capture, memWf.modCore, answerWf_next]

theorem memWf.fetchTrip (h : s.memWf) (c : Nat) (p : CtxPlace) (n : Nat) : (s.fetchTrip c p n).1.memWf := by
  unfold State.fetchTrip
  grind [memWf.coreTrip]

theorem memWf.imageTrips (h : s.memWf) (c : Nat) (p : CtxPlace) (len : Nat) (write : Bool) : (s.imageTrips c p len write).1.memWf := by
  unfold State.imageTrips
  grind [memWf.pageTrips]

theorem memWf.imageFails (h : s.memWf) (c : Nat) (claim : Option Nat) (code : BitVec 8) (pa : Nat) : (s.imageFails c claim code pa).memWf := by
  unfold State.imageFails
  grind [memWf_iff, memWf.loseAccess, memWf.poisonNow]

theorem memWf.execImageWriteDone (h : s.memWf) (core : Nat) : AnswerWf (execImageWriteDone core s) := by
  refine answerWf_next.2 ?_
  split
  · exact h
  · next r _ =>
    extract_lets u ok
    have hu : u.memWf := h.modCore (fun _ => by rfl) core
    clear_value u ok
    split
    · exact hu.deliverAt ..
    · split
      next v code all e =>
      have hv : v.memWf := memWf_of_eq_mk (hu.imageTrips ..) e
      extract_lets image z
      have hz : z.memWf := by
        subst z
        clear_value image
        split
        · exact hv.foldl (fun y q hy => hy.placeWrite ..) _
        · exact hv
      clear_value z
      split
      · exact (hz.imageFails ..).modCore (fun k => by rw [dropPlace_ls]) core
      · exact (hz.modCore (fun _ => by rfl) core).deliverAt ..

theorem memWf.putAny (h : s.memWf) (c n : Nat) (f : RFile) (r : Nat) (st : RegState) (x : Nat) : (s.putAny c n f r st x).memWf := by
  unfold State.putAny
  grind [memWf.modSlot]

theorem memWf.restoreReg (h : s.memWf) (c n : Nat) (p : CtxPlace) (owner : Option Nat) (v : Saved) (f : RFile) (r : Nat) :
    (s.restoreReg c n p owner v f r).memWf := by
  unfold State.restoreReg
  grind [memWf_iff, freeClaim_ls, memWf.putAny, memWf.modCore, memWf.useFree]

theorem memWf.restoreMail (h : s.memWf) (c n : Nat) (saver : Option Nat) (v : Saved) (recv : Option Nat) : (s.restoreMail c n saver v recv).memWf := by
  unfold State.restoreMail
  grind [memWf.foldl, memWf.modCore', wf_putWords, memWf.modSlot, memWf.fillNext, memWf.toPound]

theorem memWf.fireRestored (h : s.memWf) (c n : Nat) (v : Saved) : (s.fireRestored c n v).memWf := by
  unfold State.fireRestored
  grind [memWf.foldl, watchFire_ls, foldl_ls, memWf.modCore]

theorem memWf.restore (h : s.memWf) (c n : Nat) (p : CtxPlace) : (s.restore c n p).memWf := by
  unfold State.restore
  grind [memWf_iff, memWf.foldl, clearRegs_ls, moveAccs_ls, foldl_ls, memWf.endResv, memWf.modCore, memWf.modSlot, memWf.restoreReg, memWf.restoreMail,
    memWf.fireRestored, memWf.trace]

theorem memWf.zeroCopy (h : s.memWf) (c : Nat) (p : CtxPlace) (i : Nat) (cl : Claim) : (s.zeroCopy c p i cl).memWf := by
  unfold State.zeroCopy
  grind [memWf_iff, memWf.imagePut]

theorem memWf.startRestore (h : s.memWf) (c : Nat) (p : CtxPlace) : (s.startRestore c p).memWf := by
  unfold State.startRestore
  grind [memWf.foldl, freeClaim_ls, foldl_ls, memWf.zeroCopy, memWf.modCore, memWf.applyDelivery]

theorem memWf.execRestoreApply (h : s.memWf) (core : Nat) : AnswerWf (execRestoreApply core s) := by
  unfold Machine.execRestoreApply
  grind [memWf_iff, memWf.modCore, memWf.imageTrips, memWf.modSlot, memWf.imageFails, memWf.restore, memWf.fillNext, answerWf_next]

theorem memWf.ctxStatus (h : s.memWf) (rd : BitVec 5) (st : Nat) : (ctxStatus s rd st).memWf := by
  unfold Machine.ctxStatus
  grind [Act.memWf_done, memWf.setX]

theorem memWf.withPlace (h : s.memWf) {k : State → CtxPlace → Act} (hk : ∀ (u : State) (p : CtxPlace), u.memWf → (k u p).memWf) (va : Word) (len : Nat)
    (save : Bool) : (withPlace s va len save k).memWf := by
  unfold Machine.withPlace
  dsimp only
  split
  · exact h
  · split
    · exact h
    · split
      · split
        · exact h
        · exact hk _ _ h
      · refine h.translate (fun u pa attr hu => ?_) ..
        grind [Act.memWf_trap, memWf.modMe]

theorem memWf.execSwapctx (h : s.memWf) (rs2 rs1 rd : BitVec 5) : AnswerWf (execSwapctx rs2 rs1 rd s) := by
  unfold Machine.execSwapctx
  grind [memWf_iff, freeLocks_ls, Act.memWf_done, memWf.issue, memWf.ctxStatus, memWf.withClaim, memWf.modSlot, memWf.modHere, memWf.withPlace,
    answerWf_next]

theorem memWf.execLoadctx (h : s.memWf) (rs2 rs1 rd : BitVec 5) : AnswerWf (execLoadctx rs2 rs1 rd s) := by
  unfold Machine.execLoadctx
  grind [memWf_iff, Act.memWf_done, Act.memWf_hold, memWf.issue, memWf.ctxStatus, memWf.fetchTrip, memWf.withClaim, memWf.startRestore, memWf.modSlot,
    memWf.modHere, memWf.useFree, memWf.withPlace, answerWf_next]

/-! ## Machine/Multicast -/

theorem memWf.closeMcast (h : s.memWf) (c b : Nat) : (s.closeMcast c b).memWf := by
  unfold State.closeMcast
  grind [memWf_iff, memWf.barEvent, memWf.modCore]

theorem memWf.addFreed (h : s.memWf) (c b n : Nat) : (s.addFreed c b n).memWf := by
  unfold State.addFreed
  grind [memWf_iff, memWf.modCore, memWf.closeMcast]

theorem memWf.freeMsg (h : s.memWf) (n : Nat) (here : Bool) (src : Sender) (sender : BitVec 16) (bar : BitVec 6) (count fuel : Nat) :
    (s.freeMsg n here src sender bar count fuel).memWf := by
  induction fuel generalizing s n here count with
  | zero => exact h
  | succ k ih => unfold State.freeMsg; grind [memWf.modSite, memWf.inject, memWf.addFreed]

theorem memWf.allocCombines (h : s.memWf) (root : Nat) (sender : BitVec 16) (bar : BitVec 6) (receivers : List Nat) :
    (s.allocCombines root sender bar receivers).memWf := by
  unfold State.allocCombines
  grind [memWf_iff, memWf.foldl, memWf.countRouter, memWf.modSite]

theorem memWf.openMcast (h : s.memWf) (c ch : Nat) : (s.openMcast c ch).memWf := by
  unfold State.openMcast
  grind [memWf_iff, memWf.foldl, memWf.modCore, memWf.modChan, memWf.allocCombines, memWf.freeMsg]

theorem memWf.mcSend (h : s.memWf) (c ch : Nat) (bytes : List (Nat × Byte)) (tail : Option (List Nat × Option (BitVec 6) × Nat)) :
    (s.mcSend c ch bytes tail).memWf := by
  unfold State.mcSend
  grind [memWf.foldl, memWf.inject]

theorem memWf.mcDeliver (h : s.memWf) (c ch : Nat) (x : Channel) (seg : Segment) (o : SegOut) : (mcDeliver c ch s x seg o).memWf := by
  unfold Machine.mcDeliver
  grind [memWf_iff, memWf.modChan, memWf.mcSend]

theorem memWf.execMcast (h : s.memWf) (core ch seg : Nat) : AnswerWf (execMcast core ch seg s) := by
  unfold Machine.execMcast
  grind [memWf.performSegment, memWf.mcDeliver, memWf.openMcast, memWf.startSegment, answerWf_next]

theorem memWf.mcWrote (h : s.memWf) (c ch : Nat) (d n : Nat) : (s.mcWrote c ch d n).memWf := by
  unfold State.mcWrote
  grind [memWf_iff, memWf.foldl, count_ls, foldl_ls, memWf.modCore, memWf.modChan]

theorem memWf.mcAnswer (h : s.memWf) (c ch d : Nat) (written : Bool) (refused : Option (Nat × Nat)) : (s.mcAnswer c ch d written refused).memWf := by
  unfold State.mcAnswer
  grind [memWf_iff, memWf.modChan]

theorem memWf.mcFails (h : s.memWf) (c ch : Nat) (code : BitVec 8) (detail : Nat) : (s.mcFails c ch code detail).memWf := by
  unfold State.mcFails
  grind [memWf_iff, memWf.modChan]

theorem memWf.takeMcAns (h : s.memWf) (c ch : Nat) (d n : Nat) (ending : Option (Bool × Option (Nat × Nat))) : (s.takeMcAns c ch d n ending).memWf := by
  unfold State.takeMcAns
  grind [memWf_iff, memWf.mcWrote, memWf.mcAnswer]

theorem memWf.mcOver (h : s.memWf) (c ch d : Nat) : (s.mcOver c ch d).memWf := by
  unfold State.mcOver
  grind [memWf_iff, memWf.modChan]

theorem memWf.mcRefuse (h : s.memWf) (f : Flight) (c ch d : Nat) (sender : BitVec 16) (bar : BitVec 6) (code addr : Nat) :
    (s.mcRefuse f c ch d sender bar code addr).memWf := by
  unfold State.mcRefuse
  grind [refuseInbound_ls, memWf.modCore, memWf.freeMsg, memWf.answer, memWf.mcOver]

theorem memWf.mcEnding (h : s.memWf) (f : Flight) (c ch : Nat) (d n : Nat) (last : List Nat × Option (BitVec 6) × Nat) :
    (s.mcEnding f c ch d n last).memWf := by
  unfold State.mcEnding
  grind [memWf_iff, toThread_ls, memWf.modCore, memWf.barEvent, memWf.answerLate, memWf.mcOver]

theorem memWf.execMcastReceive (h : s.memWf) (fid : Nat) : AnswerWf (execMcastReceive fid s) := by
  refine answerWf_next.2 ?_
  split
  · next c ch d tail sender bar bytes last _ =>
    extract_lets refused waits
    split
    · exact h
    · refine h.withPacket (fun f u hu => ?_) fid
      have hb : (u.modCore d (fun k => { k with ls := memPuts k.ls bytes })).memWf := hu.modCore' (fun k hk => wf_memPuts _ _ hk) d
      grind [memWf_iff, memWf.mcEnding, memWf.mcRefuse, memWf.answer, memWf.modCore]
  · exact h

theorem memWf.execMcfree (h : s.memWf) (rs1 : BitVec 5) : AnswerWf (execMcfree rs1 s) := by
  unfold Machine.execMcfree
  grind [memWf_iff, Act.memWf_done, memWf.issue, memWf.modHere, memWf.freeMsg, memWf.count, answerWf_next]

theorem memWf.execBufferFree (h : s.memWf) (fid : Nat) : AnswerWf (execBufferFree fid s) := by
  unfold Machine.execBufferFree
  grind [memWf.withPacket, memWf.freeMsg, answerWf_next]

theorem memWf.endMcast (h : s.memWf) (c ch st : Nat) : (s.endMcast c ch st).memWf := by
  unfold State.endMcast
  grind [memWf_iff, memWf.modCore, memWf.endCopy, memWf.closeMcast]

theorem memWf.flushUnits (h : s.memWf) (c ch : Nat) : (s.flushUnits c ch).memWf := by
  unfold State.flushUnits
  grind [memWf_iff, memWf.modChan, memWf.mcSend, memWf.sendUnits]

theorem memWf.execCopyEnd (h : s.memWf) (core ch : Nat) : AnswerWf (execCopyEnd core ch s) := by
  unfold Machine.execCopyEnd
  extract_lets x drained finish
  have hf (u : State) (st : Nat) (hu : u.memWf) : (finish u st).memWf := by
    have he := hu.sendEvent core ch
    unfold finish
    split
    · next e => exact (memWf_of_eq_mk he e).endCopy ..
    · next e => exact memWf_of_eq_mk he e
  clear_value finish x drained
  have hb : (s.barEvent core x.mcBar.toNat 1 0).memWf := h.barEvent ..
  have he (st : Nat) : (s.endMcast core ch st).memWf := h.endMcast ..
  refine answerWf_next.2 ?_
  refine memWf_ite h (memWf_ite (memWf_ite h (memWf_ite (h.endCopy ..) (h.endCopy ..))) (memWf_ite h (memWf_ite (h.flushUnits ..) (memWf_ite
    (memWf_ite (memWf_ite (h.openMcast ..) (memWf_ite (hb.endCopy ..) (memWf_ite (hb.endCopy ..) h)))
      (memWf_ite h (memWf_ite (he 2) (memWf_ite (he _) (memWf_ite (he 1) (memWf_ite (memWf_ite (memWf_ite h ((h.flipPlots ..).endMcast ..)) (he 0)) h))))))
    (memWf_ite (hf s 2 h) (memWf_ite (hf s 0 h) (memWf_ite h ?_)))))))
  have ha := h.amaxFold core ch
  generalize s.amaxFold core ch = a at ha
  obtain ⟨u, go⟩ := a
  have hu : u.memWf := ha
  dsimp only
  split
  · exact hu
  · split
    · exact hf _ 0 (hu.flipPlots ..)
    · exact hu.sendFlips ..

end Sys2Proof.Machine.State
end

section
/-! Canonical memory: sites, cache control, windows, the homes, the turn and the routers, one lemma for each function. -/

namespace Sys2Proof.Machine.State

variable {s : State}

/-! ## Machine/Site -/

theorem memWf.deepen (h : s.memWf) (n fuel : Nat) : (s.deepen n fuel).memWf := by
  induction fuel generalizing s n with
  | zero => exact h
  | succ k ih => unfold State.deepen; grind [memWf.foldl, memWf.modSite]

theorem memWf.loseClock (h : s.memWf) (n fuel : Nat) : (s.loseClock n fuel).memWf := by
  induction fuel generalizing s n with
  | zero => exact h
  | succ k ih =>
    unfold State.loseClock
    grind [memWf.foldl, memWf.deepen, memWf.siteReport, memWf.countSite, memWf.modSite, memWf.fenceSite]

theorem memWf.clearCores (h : s.memWf) (n : Nat) : (s.clearCores n).memWf :=
  ⟨h.dram_wf, fun p hp => h.2.1 p (List.mem_of_mem_filter hp), h.l2_rises⟩

theorem memWf.execClockLock (h : s.memWf) (site : Nat) (dramGood computeGood : Bool) : AnswerWf (execClockLock site dramGood computeGood s) := by
  unfold Machine.execClockLock
  grind [memWf.modSite, memWf.clearCores, answerWf_next]

theorem memWf.execClockSwitch (h : s.memWf) (site : Nat) : AnswerWf (execClockSwitch site s) := by
  unfold Machine.execClockSwitch
  grind [memWf_iff, memWf.loseClock, memWf.modSite, answerWf_next]

theorem memWf.flushTraces (h : s.memWf) : s.flushTraces.memWf := by
  unfold State.flushTraces
  grind [memWf_iff, memWf.foldl, memWf.count, memWf.homePuts]

theorem memWf.execRelockDone (h : s.memWf) (site : Nat) : AnswerWf (execRelockDone site s) := by
  unfold Machine.execRelockDone
  grind [memWf_iff, memWf.flushTraces, memWf.modSite, answerWf_next]

theorem memWf.cutLink (h : s.memWf) (n dir : Nat) (yx : Bool) : (s.cutLink n dir yx).memWf := by
  unfold State.cutLink
  grind [memWf.modSite]

theorem memWf.dropLinks (h : s.memWf) (n : Nat) : (s.dropLinks n).memWf := by
  unfold State.dropLinks
  grind [memWf_iff, memWf.foldl, memWf.cutLink, memWf.modSite]

theorem memWf.execGreeting (h : s.memWf) (site dir : Nat) (xyOk yxOk : Bool) : AnswerWf (execGreeting site dir xyOk yxOk s) := by
  unfold Machine.execGreeting
  grind [memWf.setSite, answerWf_next]

theorem memWf.putHomes (h : s.memWf) (site : Nat) (live : Bool) : (s.putHomes site live).memWf := by
  unfold State.putHomes
  grind [memWf_iff]

theorem memWf.setHomes (h : s.memWf) (site : Nat) : (s.setHomes site).memWf := by
  unfold State.setHomes
  extract_lets live u
  have hu : u.memWf := h.modSite ..
  clear_value u
  split
  · exact hu.putHomes ..
  · exact hu

theorem memWf.enterGreeted (h : s.memWf) (site : Nat) : (s.enterGreeted site).memWf := by
  unfold State.enterGreeted
  grind [memWf_iff, memWf.foldl, memWf.setHomes, memWf.modSite]

theorem memWf.execSiteGreeted (h : s.memWf) (site : Nat) : AnswerWf (execSiteGreeted site s) := by
  unfold Machine.execSiteGreeted
  grind [memWf.enterGreeted, answerWf_next]

theorem memWf.execGreetTimeout (h : s.memWf) (site : Nat) : AnswerWf (execGreetTimeout site s) := by
  unfold Machine.execGreetTimeout
  grind [memWf.enterGreeted, answerWf_next]

theorem memWf.execLinkTimeout (h : s.memWf) (site dir : Nat) (cut : LinkCut) : AnswerWf (execLinkTimeout site dir cut s) := by
  unfold Machine.execLinkTimeout
  grind [memWf_iff, memWf.foldl, memWf.siteReport, memWf.cutLink, memWf.countRouter, answerWf_next]

theorem memWf.sysTrip (h : s.memWf) (proc site flits : Nat) : (s.sysTrip proc site flits).1.memWf := by
  unfold State.sysTrip
  grind [memWf_iff, memWf.ride, memWf.learn, memWf.rideBack]

theorem memWf.sysRefuse (h : s.memWf) (proc site : Nat) (code : BitVec 8) : (s.sysRefuse proc site code).memWf := by
  unfold State.sysRefuse
  grind [memWf.report, memWf.rideBack]

theorem memWf.execConfigRecord (h : s.memWf) (site proc : Nat) (name : BitVec 12) (part : BitVec 4) (rect : BitVec 20) (regionW regionH : BitVec 5) (remap : List (BitVec 5)) (pins : List (BitVec 12 × BitVec 32)) :
    AnswerWf (execConfigRecord site proc name part rect regionW regionH remap pins s) := by
  unfold Machine.execConfigRecord
  grind [memWf_iff, memWf.sysTrip, memWf.report, memWf.sysRefuse, memWf.modSite, answerWf_next]

theorem memWf.execConfigCommit (h : s.memWf) (site : Nat) : AnswerWf (execConfigCommit site s) := by
  unfold Machine.execConfigCommit
  grind [memWf_iff, memWf.foldl, memWf.sysTrip, memWf.report, memWf.modSite, answerWf_next]

theorem memWf.logAppend (h : s.memWf) (site cause : Nat) : (s.logAppend site cause).memWf := by
  unfold State.logAppend
  grind [memWf_iff, memWf.report]

theorem memWf.retireSite (h : s.memWf) (n cause : Nat) : (s.retireSite n cause).memWf := by
  unfold State.retireSite
  grind [memWf_iff, memWf.foldl, memWf.modSite, memWf.dropLinks, memWf.logAppend, memWf.loseClock]

theorem memWf.execBringUp (h : s.memWf) : AnswerWf (execBringUp s) := by
  unfold Machine.execBringUp
  grind [memWf_iff, memWf.foldl, memWf.modSite, answerWf_next]

theorem memWf.execSelfTestFail (h : s.memWf) (site : Nat) : AnswerWf (execSelfTestFail site s) := by
  unfold Machine.execSelfTestFail
  grind [memWf_iff, memWf.retireSite, answerWf_next]

theorem memWf.execBaseDieError (h : s.memWf) (site : Nat) : AnswerWf (execBaseDieError site s) := by
  unfold Machine.execBaseDieError
  grind [memWf_iff, memWf.fenceSite, answerWf_next]

theorem memWf.chargeLink (h : s.memWf) (d part : Nat) (pa flits : Nat) : (s.chargeLink d part pa flits).1.memWf := by
  unfold State.chargeLink
  grind [memWf_iff, memWf.modProc]

theorem memWf.siteCommand (h : s.memWf) {act : Nat → State → State} (ha : ∀ (n : Nat) (u : State), u.memWf → (act n u).memWf) (t : SiteTarget) :
    (s.siteCommand t act).memWf := by
  unfold State.siteCommand
  split
  · exact h
  · have hc := h.chargeLink t.proc t.part.toNat (t.at_.elim t.name.toNat (fun n => n * 2 ^ 33)) 1
    split
    · next e => exact (memWf_of_eq_mk hc e).report ..
    · next u e =>
      have hu : u.memWf := memWf_of_eq_mk hc e
      split
      · exact hu.report ..
      · next n _ =>
        have ht := hu.sysTrip t.proc n 1
        split
        · next e => exact ha _ _ (memWf_of_eq_mk ht e)
        · next e => exact (memWf_of_eq_mk ht e).report ..

theorem memWf.execSiteFence (h : s.memWf) (site : SiteTarget) : AnswerWf (execSiteFence site s) := by
  unfold Machine.execSiteFence
  grind [memWf_iff, memWf.siteCommand, memWf.fenceSite, answerWf_next]

theorem memWf.execSiteReset (h : s.memWf) (site : ResetCommand) : AnswerWf (execSiteReset site s) := by
  unfold Machine.execSiteReset
  grind [memWf_iff, memWf.siteCommand, memWf.putHomes, memWf.deepen, memWf.flushTraces, memWf.modSite, memWf.clearCores, answerWf_next]

theorem memWf.execSiteRetire (h : s.memWf) (site : SiteTarget) : AnswerWf (execSiteRetire site s) := by
  unfold Machine.execSiteRetire
  grind [memWf_iff, memWf.siteCommand, memWf.retireSite, answerWf_next]

theorem memWf.execHomeBitClear (h : s.memWf) (router : RouterTarget) (retired : Nat) : AnswerWf (execHomeBitClear router retired s) := by
  unfold Machine.execHomeBitClear
  grind [memWf_iff, memWf.sysTrip, memWf.modSite, answerWf_next]

theorem memWf_reset : State.reset.memWf := ⟨by decide, fun p hp => absurd hp (by exact List.not_mem_nil), by exact List.Pairwise.nil⟩

theorem memWf.execPowerLoss : AnswerWf (execPowerLoss s) :=
  answerWf_next.2 (memWf_reset.of_eq rfl rfl rfl)

theorem memWf.execBudgetPeriod (h : s.memWf) (edge : Bool) (unit : Nat) : AnswerWf (execBudgetPeriod edge unit s) := by
  unfold Machine.execBudgetPeriod
  grind [memWf_iff, memWf.modSite, memWf.modChip, memWf.modProc, answerWf_next]

/-! ## Machine/Memory -/

theorem memWf.memLoad (h : s.memWf) (i : Instr) (imm : BitVec 12) (rs1 rd : BitVec 5) (n : Nat) (sx' : Bool) :
    AnswerWf (memLoad i imm rs1 rd n sx' s) := by
  unfold Machine.memLoad
  grind [memWf.issue, memWf.scalarLoad, answerWf_next]

theorem memWf.memStore (h : s.memWf) (i : Instr) (immHi : BitVec 7) (rs2 rs1 immLo : BitVec 5) (n : Nat) :
    AnswerWf (memStore i immHi rs2 rs1 immLo n s) := by
  unfold Machine.memStore
  grind [memWf.issue, memWf.scalarStore, answerWf_next]

theorem memWf.memAmo (h : s.memWf) (i : Instr) (fn : Nat) (aq rl : BitVec 1) (rs2 rs1 : BitVec 5) (dbl : BitVec 1) (rd : BitVec 5) :
    AnswerWf (memAmo i fn aq rl rs2 rs1 dbl rd s) := by
  unfold Machine.memAmo
  grind [memWf.issue, memWf.amoBody, answerWf_next]

theorem memWf.execLb (h : s.memWf) (imm : BitVec 12) (rs1 rd : BitVec 5) : AnswerWf (execLb imm rs1 rd s) := by
  unfold Machine.execLb
  grind [memWf.memLoad, answerWf_next]

theorem memWf.execLh (h : s.memWf) (imm : BitVec 12) (rs1 rd : BitVec 5) : AnswerWf (execLh imm rs1 rd s) := by
  unfold Machine.execLh
  grind [memWf.memLoad, answerWf_next]

theorem memWf.execLw (h : s.memWf) (imm : BitVec 12) (rs1 rd : BitVec 5) : AnswerWf (execLw imm rs1 rd s) := by
  unfold Machine.execLw
  grind [memWf.memLoad, answerWf_next]

theorem memWf.execLd (h : s.memWf) (imm : BitVec 12) (rs1 rd : BitVec 5) : AnswerWf (execLd imm rs1 rd s) := by
  unfold Machine.execLd
  grind [memWf.memLoad, answerWf_next]

theorem memWf.execLbu (h : s.memWf) (imm : BitVec 12) (rs1 rd : BitVec 5) : AnswerWf (execLbu imm rs1 rd s) := by
  unfold Machine.execLbu
  grind [memWf.memLoad, answerWf_next]

theorem memWf.execLhu (h : s.memWf) (imm : BitVec 12) (rs1 rd : BitVec 5) : AnswerWf (execLhu imm rs1 rd s) := by
  unfold Machine.execLhu
  grind [memWf.memLoad, answerWf_next]

theorem memWf.execLwu (h : s.memWf) (imm : BitVec 12) (rs1 rd : BitVec 5) : AnswerWf (execLwu imm rs1 rd s) := by
  unfold Machine.execLwu
  grind [memWf.memLoad, answerWf_next]

theorem memWf.execSb (h : s.memWf) (immHi : BitVec 7) (rs2 rs1 immLo : BitVec 5) : AnswerWf (execSb immHi rs2 rs1 immLo s) := by
  unfold Machine.execSb
  grind [memWf.memStore, answerWf_next]

theorem memWf.execSh (h : s.memWf) (immHi : BitVec 7) (rs2 rs1 immLo : BitVec 5) : AnswerWf (execSh immHi rs2 rs1 immLo s) := by
  unfold Machine.execSh
  grind [memWf.memStore, answerWf_next]

theorem memWf.execSw (h : s.memWf) (immHi : BitVec 7) (rs2 rs1 immLo : BitVec 5) : AnswerWf (execSw immHi rs2 rs1 immLo s) := by
  unfold Machine.execSw
  grind [memWf.memStore, answerWf_next]

theorem memWf.execSd (h : s.memWf) (immHi : BitVec 7) (rs2 rs1 immLo : BitVec 5) : AnswerWf (execSd immHi rs2 rs1 immLo s) := by
  unfold Machine.execSd
  grind [memWf.memStore, answerWf_next]

theorem memWf.execLr (h : s.memWf) (aq rl : BitVec 1) (rs1 : BitVec 5) (dbl : BitVec 1) (rd : BitVec 5) : AnswerWf (execLr aq rl rs1 dbl rd s) := by
  unfold Machine.execLr
  grind [memWf.issue, memWf.lrBody, answerWf_next]

theorem memWf.execSc (h : s.memWf) (aq rl : BitVec 1) (rs2 rs1 : BitVec 5) (dbl : BitVec 1) (rd : BitVec 5) :
    AnswerWf (execSc aq rl rs2 rs1 dbl rd s) := by
  unfold Machine.execSc
  grind [memWf.issue, memWf.scBody, answerWf_next]

theorem memWf.execAmoswap (h : s.memWf) (aq rl : BitVec 1) (rs2 rs1 : BitVec 5) (dbl : BitVec 1) (rd : BitVec 5) :
    AnswerWf (execAmoswap aq rl rs2 rs1 dbl rd s) := by
  unfold Machine.execAmoswap
  grind [memWf.memAmo, answerWf_next]

theorem memWf.execAmoadd (h : s.memWf) (aq rl : BitVec 1) (rs2 rs1 : BitVec 5) (dbl : BitVec 1) (rd : BitVec 5) :
    AnswerWf (execAmoadd aq rl rs2 rs1 dbl rd s) := by
  unfold Machine.execAmoadd
  grind [memWf.memAmo, answerWf_next]

theorem memWf.execAmoxor (h : s.memWf) (aq rl : BitVec 1) (rs2 rs1 : BitVec 5) (dbl : BitVec 1) (rd : BitVec 5) :
    AnswerWf (execAmoxor aq rl rs2 rs1 dbl rd s) := by
  unfold Machine.execAmoxor
  grind [memWf.memAmo, answerWf_next]

theorem memWf.execAmoand (h : s.memWf) (aq rl : BitVec 1) (rs2 rs1 : BitVec 5) (dbl : BitVec 1) (rd : BitVec 5) :
    AnswerWf (execAmoand aq rl rs2 rs1 dbl rd s) := by
  unfold Machine.execAmoand
  grind [memWf.memAmo, answerWf_next]

theorem memWf.execAmoor (h : s.memWf) (aq rl : BitVec 1) (rs2 rs1 : BitVec 5) (dbl : BitVec 1) (rd : BitVec 5) :
    AnswerWf (execAmoor aq rl rs2 rs1 dbl rd s) := by
  unfold Machine.execAmoor
  grind [memWf.memAmo, answerWf_next]

theorem memWf.execAmomin (h : s.memWf) (aq rl : BitVec 1) (rs2 rs1 : BitVec 5) (dbl : BitVec 1) (rd : BitVec 5) :
    AnswerWf (execAmomin aq rl rs2 rs1 dbl rd s) := by
  unfold Machine.execAmomin
  grind [memWf.memAmo, answerWf_next]

theorem memWf.execAmomax (h : s.memWf) (aq rl : BitVec 1) (rs2 rs1 : BitVec 5) (dbl : BitVec 1) (rd : BitVec 5) :
    AnswerWf (execAmomax aq rl rs2 rs1 dbl rd s) := by
  unfold Machine.execAmomax
  grind [memWf.memAmo, answerWf_next]

theorem memWf.execAmominu (h : s.memWf) (aq rl : BitVec 1) (rs2 rs1 : BitVec 5) (dbl : BitVec 1) (rd : BitVec 5) :
    AnswerWf (execAmominu aq rl rs2 rs1 dbl rd s) := by
  unfold Machine.execAmominu
  grind [memWf.memAmo, answerWf_next]

theorem memWf.execAmomaxu (h : s.memWf) (aq rl : BitVec 1) (rs2 rs1 : BitVec 5) (dbl : BitVec 1) (rd : BitVec 5) :
    AnswerWf (execAmomaxu aq rl rs2 rs1 dbl rd s) := by
  unfold Machine.execAmomaxu
  grind [memWf.memAmo, answerWf_next]

theorem memWf.execTdisc (h : s.memWf) (scope : BitVec 4) (rs1 rd : BitVec 5) : AnswerWf (execTdisc scope rs1 rd s) := by
  refine h.issue (h.withClaim (fun u c hu => ?_) ..) _
  split
  · exact hu.fillNow ..
  · split
    · exact hu.fillNow ..
    · extract_lets g part b v
      have hv : v.memWf := memWf.bump hu
      clear_value v
      rw [Act.memWf_done]
      refine hv.foldl (fun w n hw => ?_) _
      exact memWf.inject hw _ _ _ _ _ _

theorem memWf.pinBody (h : s.memWf) (pin : Bool) (rs2 rs1 : BitVec 5) : (pinBody pin rs2 rs1 s).memWf := by
  unfold Machine.pinBody
  grind [memWf_iff, memWf.foldl, useRange_ls, foldl_ls, Act.memWf_done, Act.memWf_park, Act.memWf_trap, memWf.modMe, memWf.startWalk, memWf.modHere,
    memWf.inject]

theorem memWf.execLpin (h : s.memWf) (rs2 rs1 : BitVec 5) : AnswerWf (execLpin rs2 rs1 s) := by
  unfold Machine.execLpin
  grind [memWf.issue, memWf.pinBody, answerWf_next]

theorem memWf.execLunpin (h : s.memWf) (rs2 rs1 : BitVec 5) : AnswerWf (execLunpin rs2 rs1 s) := by
  unfold Machine.execLunpin
  grind [memWf.issue, memWf.pinBody, answerWf_next]

/-! ## Machine/Rma -/

theorem memWf.modPeer (h : s.memWf) (n r : Nat) (f : Peer → Peer) : (s.modPeer n r f).memWf := by
  unfold State.modPeer
  grind [memWf_iff, memWf.modChip]

theorem memWf.endRmaSeg (h : s.memWf) (q : RmaSeg) (fail : Option (Nat × Nat)) : (s.endRmaSeg q fail).memWf := by
  unfold State.endRmaSeg
  grind [memWf_iff, memWf.answerLate]

theorem memWf.execRmaSegmentSend (h : s.memWf) (chip rmod : Nat) : AnswerWf (execRmaSegmentSend chip rmod s) := by
  unfold Machine.execRmaSegmentSend
  grind [memWf_iff, memWf.endRmaSeg, memWf.modPeer, memWf.report, answerWf_next]

theorem memWf.execAck (h : s.memWf) (chip rmod : Nat) (seq cumE : BitVec 32) (ece : Bool) : AnswerWf (execAck chip rmod seq cumE ece s) := by
  unfold Machine.execAck
  grind [memWf_iff, memWf.foldl, memWf.modPeer, memWf.endRmaSeg, answerWf_next]

theorem memWf.execNackBudget (h : s.memWf) (chip rmod : Nat) (seq cumE : BitVec 32) (ece : Bool) : AnswerWf (execNackBudget chip rmod seq cumE ece s) := by
  unfold Machine.execNackBudget
  grind [memWf_iff, memWf.modPeer, answerWf_next]

theorem memWf.execNackRefused (h : s.memWf) (chip rmod : Nat) (seq cumE : BitVec 32) (ece : Bool) :
    AnswerWf (execNackRefused chip rmod seq cumE ece s) := by
  unfold Machine.execNackRefused
  grind [memWf_iff, memWf.foldl, memWf.modPeer, memWf.endRmaSeg, answerWf_next]

theorem memWf.execRmaTimer (h : s.memWf) (chip rmod : Nat) (seq : BitVec 32) : AnswerWf (execRmaTimer chip rmod seq s) := by
  unfold Machine.execRmaTimer
  grind [memWf_iff, memWf.report, memWf.modPeer, memWf.endRmaSeg, answerWf_next]

theorem memWf.rmaWrite (h : s.memWf) (pa : Nat) (red : Bool) (bytes : List Byte) : (s.rmaWrite pa red bytes).memWf := by
  unfold State.rmaWrite
  grind [memWf.foldl, memWf.homeWrite, memWf.homePuts]

theorem memWf.rmaTrips (h : s.memWf) (chip part : Nat) (pa n : Nat) : (s.rmaTrips chip part pa n).1.memWf := by
  unfold State.rmaTrips
  grind [memWf.reach]

theorem memWf.execData (h : s.memWf) (chip rmod : Nat) (ce red : Bool) (seq floor : BitVec 32) (pa : BitVec 43) (bytes : List (BitVec 8)) :
    AnswerWf (execData chip rmod ce red seq floor pa bytes s) := by
  unfold Machine.execData
  grind [memWf_iff, memWf.modChip, memWf.modPeer, memWf.report, memWf.rmaTrips, memWf.rmaWrite, answerWf_next]

theorem memWf.peerWrite (h : s.memWf) (chip rmod : Nat) (v : Word) : (s.peerWrite chip rmod v).memWf := by
  unfold State.peerWrite
  grind [memWf_iff, memWf.foldl, memWf.modPeer, memWf.endRmaSeg]

theorem memWf.execPeerEntryWrite (h : s.memWf) (chip rmod : Nat) (value : BitVec 64) : AnswerWf (execPeerEntryWrite chip rmod value s) := by
  unfold Machine.execPeerEntryWrite
  grind [memWf.peerWrite, answerWf_next]

/-! ## Machine/Window -/

theorem memWf.windowWrite (h : s.memWf) (d va n : Nat) (v : Word) : ∀ t, State.windowWrite s d va n v = some t → t.memWf := by
  unfold State.windowWrite
  grind [memWf_iff, dropReg_ls, watchFire_ls, coreSetSlot_ls, memWf.modCore, memWf.modSlot, memWf.putCoreCsr]

theorem memWf.chipWrite (h : s.memWf) (n off : Nat) (v : Word) : (s.chipWrite n off v).memWf := by
  unfold State.chipWrite
  refine memWf_ite (h.modChip ..) (memWf_ite ?_ (memWf_ite (h.modChip ..) h))
  extract_lets r
  clear_value r
  split
  · exact h.modPeer ..
  · exact h.modPeer ..
  · exact h.peerWrite ..
  · exact h

theorem memWf.edgeBudget (h : s.memWf) (here i : Nat) (v : Word) : (s.edgeBudget here i v).memWf := by
  unfold State.edgeBudget
  grind [memWf_iff, memWf.foldl, memWf.modProc, memWf.modChip]

theorem memWf.unitWrite (h : s.memWf) (here : Nat) (name : BitVec 12) (off : Nat) (v : Word) : (s.unitWrite here name off v).memWf := by
  unfold State.unitWrite
  grind [memWf.modProc, memWf.chipWrite, memWf.edgeBudget, memWf.modSite]

theorem memWf.routeWrite (h : s.memWf) (site part n : Nat) (v : Word) : ∀ t, State.routeWrite s site part n v = some t → t.memWf := by
  unfold State.routeWrite
  grind [memWf_iff, memWf.modSite]

theorem memWf.physWrite (h : s.memWf) (site part n : Nat) (v : Word) : ∀ t, State.physWrite s site part n v = some t → t.memWf := by
  unfold State.physWrite
  grind [memWf_iff, memWf.modSite]

theorem memWf.execRtrd (h : s.memWf) (rs1 rd : BitVec 5) : AnswerWf (execRtrd rs1 rd s) := by
  unfold Machine.execRtrd
  grind [Act.memWf_trap, memWf.issue, memWf.loadGlobal, answerWf_next]

theorem memWf.execRtwr (h : s.memWf) (rs2 rs1 : BitVec 5) : AnswerWf (execRtwr rs2 rs1 s) := by
  unfold Machine.execRtwr
  grind [Act.memWf_done, Act.memWf_hold, Act.memWf_trap, memWf.issue, memWf.storeGlobal, answerWf_next]

/-! ## Machine/Homes -/

theorem memWf.performed (h : s.memWf) (c acc : Nat) : (s.performed c acc).memWf := by
  unfold State.performed
  grind [memWf_iff, memWf.dropRemote, memWf.modCore]

theorem memWf.answered (h : s.memWf) (c acc : Nat) : (s.answered c acc).memWf := by
  unfold State.answered
  grind [memWf_iff, memWf.modCore, memWf.performed]

theorem memWf.forwardedLoad (h : s.memWf) (c acc : Nat) (claim : Option Nat) : (s.forwardedLoad c acc claim).memWf := by
  unfold State.forwardedLoad
  grind [memWf_iff, memWf.answered, memWf.modCore, memWf.performed]

theorem memWf.scopeMiss (h : s.memWf) (c : Nat) (r : Req) (scope : Nat) (fenced : Bool) : (s.scopeMiss c r scope fenced).memWf := by
  unfold State.scopeMiss
  grind [memWf_iff, count_ls, memWf.modCore, memWf.modSlot]

theorem memWf.missCheck (h : s.memWf) (c : Nat) (e : SbEntry) : (s.missCheck c e).memWf := by
  unfold State.missCheck
  grind [memWf_iff, memWf.scopeMiss]

theorem memWf.execStoreBufferSend (h : s.memWf) (core : Nat) : AnswerWf (execStoreBufferSend core s) := by
  unfold Machine.execStoreBufferSend
  grind [memWf_iff, memWf.missCheck, memWf.modCore, memWf.inject, answerWf_next]

theorem memWf.releaseLoad (h : s.memWf) (h2 : Held) (r : Req) (n : Nat) (sx : Bool) : (s.releaseLoad h2 r n sx).memWf := by
  unfold State.releaseLoad
  grind [memWf_iff, sees_ls, memWf.modCore, memWf.deliverAt, memWf.forwardedLoad, memWf.inject]

theorem memWf.execAccessHoldRelease (h : s.memWf) (core access : Nat) : AnswerWf (execAccessHoldRelease core access s) := by
  unfold Machine.execAccessHoldRelease
  grind [memWf_iff, memWf.sendRinv, memWf.releaseLoad, memWf.inject, answerWf_next]

theorem memWf.failReq (h : s.memWf) (f : Flight) (r : Req) (code : BitVec 8) : (s.failReq f r code).memWf := by
  unfold State.failReq
  grind [memWf_iff, memWf.answer]

theorem memWf.execStoreFail (h : s.memWf) (fid : Nat) : AnswerWf (execStoreFail fid s) := by
  unfold Machine.execStoreFail
  grind [memWf_iff, memWf.withPacket, memWf.countS, memWf.answered, memWf.modSlot, answerWf_next]

theorem memWf.reserve (h : s.memWf) (l c slot : Nat) : (s.reserve l c slot).memWf := by
  unfold State.reserve
  grind [memWf_iff, memWf.endResv]

theorem memWf.serveHome (h : s.memWf) {serve : State → State × Body} (hs : ∀ u : State, u.memWf → (serve u).1.memWf) (f : Flight) (c : Nat) (r : Req)
    (pa back : Nat) : (s.serveHome f c r pa back serve).memWf := by
  unfold State.serveHome
  have ht := h.homeTrip pa r.op.size f.body.flits back
  split
  · next e =>
    have hu := hs _ (memWf_of_eq_mk ht e)
    split
    next e => exact ((memWf_of_eq_mk hu e).performed ..).answer ..
  · next u code served e =>
    have hu : u.memWf := memWf_of_eq_mk ht e
    have hv : (if served then (serve u).1.performed c r.acc else u).memWf := memWf_ite ((hs u hu).performed ..) hu
    exact memWf_ite (hv.loseFlight ..) (hv.failReq ..)

theorem memWf.loadAt (h : s.memWf) (c : Nat) (r : Req) (pa : Nat) : (State.loadAt c r pa s).1.memWf := by
  unfold State.loadAt
  grind [memWf_iff, memWf.allocLine, memWf.count, memWf.reserve, memWf.l1Fill, memWf.dropStale, memWf.mapFills]

theorem memWf.loadHome (h : s.memWf) (f : Flight) (c : Nat) (r : Req) (pa : Nat) : (s.loadHome f c r pa).memWf := by
  unfold State.loadHome
  grind [memWf.serveHome, memWf.loadAt]

theorem memWf.chargeUnit (h : s.memWf) (f : Flight) (n : BitVec 12) : (s.chargeUnit f n).1.memWf := by
  unfold State.chargeUnit
  grind [memWf.chargeLink]

theorem memWf.loadUnit (h : s.memWf) (f : Flight) (c : Nat) (r : Req) (n : BitVec 12) (off : Nat) : (s.loadUnit f c r n off).memWf := by
  unfold State.loadUnit
  grind [memWf.chargeUnit, memWf.answer, memWf.performed, memWf.failReq]

theorem memWf.execHomeLoad (h : s.memWf) (fid : Nat) : AnswerWf (execHomeLoad fid s) := by
  unfold Machine.execHomeLoad
  grind [memWf_iff, memWf.withPacket, memWf.loadHome, memWf.answer, memWf.performed, memWf.loadUnit, answerWf_next]

theorem memWf.ackStore (h : s.memWf) (f : Flight) (c : Nat) (r : Req) : (s.ackStore f c r).memWf := by
  unfold State.ackStore
  grind [memWf.answer, memWf.performed]

theorem memWf.storeHome (h : s.memWf) (f : Flight) (c : Nat) (r : Req) (pa n : Nat) (v : Word) : (s.storeHome f c r pa n v).memWf := by
  unfold State.storeHome
  grind [memWf.serveHome, memWf.homeWrite]

theorem memWf.scHome (h : s.memWf) (f : Flight) (c : Nat) (r : Req) (pa n : Nat) (v : Word) : (s.scHome f c r pa n v).memWf := by
  unfold State.scHome
  grind [memWf.serveHome, memWf.homeWrite, memWf.invalSharers, memWf.endResv]

theorem memWf.storeUnit (h : s.memWf) (f : Flight) (c : Nat) (r : Req) (n : BitVec 12) (off : Nat) (v : Word) : (s.storeUnit f c r n off v).memWf := by
  unfold State.storeUnit
  grind [memWf.chargeUnit, memWf.ackStore, memWf.unitWrite, memWf.failReq]

theorem memWf.execHomeStore (h : s.memWf) (fid : Nat) : AnswerWf (execHomeStore fid s) := by
  unfold Machine.execHomeStore
  grind [memWf.withPacket, memWf.storeHome, memWf.scHome, memWf.storeUnit, answerWf_next]

theorem memWf.execHomeAmo (h : s.memWf) (fid : Nat) : AnswerWf (execHomeAmo fid s) := by
  unfold Machine.execHomeAmo
  grind [memWf.withPacket, memWf.serveHome, memWf.homeWrite, memWf.invalSharers, answerWf_next]

theorem memWf.takeWindow (h : s.memWf) (fid : Nat) (want : Option Nat) : (s.takeWindow fid want).memWf := by
  unfold State.takeWindow
  split
  · exact h
  · split
    · split
      · exact memWf_ite (h.withPacket (fun f u hu => (hu.chanCommand ..).ackStore ..) _) h
      · refine memWf_ite h (h.withPacket (fun f u hu => ?_) _)
        split
        · next e => exact (hu.windowWrite _ _ _ _ _ e).ackStore ..
        · exact hu.failReq ..
      · exact h
    · exact h

theorem memWf.execWindowWrite (h : s.memWf) (fid : Nat) : AnswerWf (execWindowWrite fid s) := by
  unfold Machine.execWindowWrite
  grind [memWf.takeWindow, answerWf_next]

theorem memWf.execChannelResume (h : s.memWf) (fid : Nat) : AnswerWf (execChannelResume fid s) := by
  unfold Machine.execChannelResume
  grind [memWf.takeWindow, answerWf_next]

theorem memWf.execChannelAbort (h : s.memWf) (fid : Nat) : AnswerWf (execChannelAbort fid s) := by
  unfold Machine.execChannelAbort
  grind [memWf.takeWindow, answerWf_next]

theorem memWf.takeTable (h : s.memWf) (fid : Nat) (phys : Bool) : (s.takeTable fid phys).memWf := by
  unfold State.takeTable
  split
  · exact h
  · split
    · split
      · refine memWf_ite h (h.withPacket (fun f u hu => ?_) _)
        extract_lets res
        have hr (t : State) (e : res = some t) : t.memWf := by
          unfold res at e
          split at e
          · exact hu.physWrite _ _ _ _ _ e
          · exact hu.routeWrite _ _ _ _ _ e
        clear_value res
        split
        · exact (hr _ rfl).ackStore ..
        · exact hr _ rfl
        · exact hu.failReq ..
        · exact hu.report ..
        · exact hu
      · exact h
    · exact h

theorem memWf.execRouteEntryWrite (h : s.memWf) (fid : Nat) : AnswerWf (execRouteEntryWrite fid s) := by
  unfold Machine.execRouteEntryWrite
  grind [memWf.takeTable, answerWf_next]

theorem memWf.execPhysSelectWrite (h : s.memWf) (fid : Nat) : AnswerWf (execPhysSelectWrite fid s) := by
  unfold Machine.execPhysSelectWrite
  grind [memWf.takeTable, answerWf_next]

theorem memWf.icacheTake (h : s.memWf) (c l : Nat) (d : Option (BitVec 1024)) : (s.icacheTake c l d).memWf := by
  unfold State.icacheTake
  grind [memWf_iff, memWf.useFree, memWf.modCore]

theorem memWf.execIcacheFill (h : s.memWf) (fid : Nat) : AnswerWf (execIcacheFill fid s) := by
  unfold Machine.execIcacheFill
  grind [memWf_iff, memWf.withPacket, memWf.homeTrip, memWf.loseFlight, memWf.answer, memWf.allocLine, memWf.count, memWf.icacheTake, answerWf_next]

theorem memWf.setPin (h : s.memWf) (l : Nat) (pin : Bool) :
    ({ s with l2 := match nget s.l2 l with | some x => nput s.l2 l { x with pin := pin } | none => s.l2 } : State).memWf := by
  refine h.withL2 ?_
  split
  · exact keysRise_nput _ _ h.l2_rises
  · exact h.l2_rises

theorem memWf.pinLine (h : s.memWf) (c : Nat) (tensor : BitVec 8) (l : Nat) : (s.pinLine c tensor l).memWf := by
  unfold State.pinLine
  have hf := h.forwarded (l * 128) 1 1 s.gmoves.length
  generalize s.forwarded (l * 128) 1 1 s.gmoves.length = x at hf
  obtain ⟨u, t⟩ := x
  have ha := memWf.allocLine hf (lineOf (u.gleanPA (l * 128))) tensor
  dsimp only
  generalize u.allocLine (lineOf (u.gleanPA (l * 128))) tensor = y at ha
  obtain ⟨v, inL2⟩ := y
  have hv : v.memWf := ha
  exact memWf_ite hf (memWf_ite (hv.setPin _ true) (hv.count ..))

theorem memWf.unpinLine (h : s.memWf) (l : Nat) : (s.unpinLine l).memWf := by
  unfold State.unpinLine
  split
  next u t e =>
  have hu : u.memWf := memWf_of_eq_mk (h.forwarded ..) e
  exact memWf_ite (memWf.setPin hu _ false) hu

theorem memWf.discardSite (h : s.memWf) (site : Nat) (id : BitVec 8) : (s.discardSite site id).1.memWf :=
  h.foldl (fun u l hu => memWf.withL2 ((hu.invalSharers l none).clearResv l none) (keysRise_ndel _ (memWf.l2_rises ((hu.invalSharers l none).clearResv l none)))) _

theorem memWf.execCacheControlRequest (h : s.memWf) (fid : Nat) : AnswerWf (execCacheControlRequest fid s) := by
  unfold Machine.execCacheControlRequest
  grind [memWf.foldl, memWf.withPacket, memWf.pinLine, memWf.unpinLine, memWf.discardSite, memWf.answer, answerWf_next]

theorem memWf.takeDiscard (h : s.memWf) (g n : Nat) (fail : Option Word) : (s.takeDiscard g n fail).memWf := by
  unfold State.takeDiscard
  grind [memWf_iff, memWf.poisonNow, memWf.fillNow]

/-! ## Machine/Sched -/

theorem memWf.execDispatch (h : s.memWf) (core : Nat) : AnswerWf (execDispatch core s) := by
  unfold Machine.execDispatch
  grind [memWf_iff, clearRegs_ls, takeRec_ls, coreSetSlot_ls, memWf.modCore, memWf.count, memWf.stampRec, memWf.restore, memWf.endResv, memWf.modSlot,
    memWf.trace, answerWf_next]

theorem memWf.execYield (h : s.memWf) : AnswerWf (execYield s) := by
  unfold Machine.execYield
  grind [memWf_iff, freeLocks_ls, Act.memWf_done, memWf.issue, memWf.modMe, memWf.modHere, memWf.useFree, answerWf_next]

theorem memWf.execIdleSteal (h : s.memWf) (core : Nat) : AnswerWf (execIdleSteal core s) := by
  unfold Machine.execIdleSteal
  grind [memWf_iff, memWf.foldl, memWf.modCore, memWf.stampRec, memWf.inject, answerWf_next]

theorem memWf.execStealRequest (h : s.memWf) (fid : Nat) : AnswerWf (execStealRequest fid s) := by
  unfold Machine.execStealRequest
  grind [memWf_iff, memWf.withPacket, memWf.answerIn, memWf.modCore, answerWf_next]

theorem memWf.takeSteal (h : s.memWf) (c : Nat) (r : Option TaskRec) : (s.takeSteal c r).memWf := by
  unfold State.takeSteal
  grind [memWf_iff, putInbox_wf, memWf.modCore', count_ls, memWf.modCore, memWf.stampRec]

theorem memWf.execStealAnswer (h : s.memWf) (fid : Nat) : AnswerWf (execStealAnswer fid s) := by
  unfold Machine.execStealAnswer
  grind [memWf.withPacket, memWf.takeSteal, answerWf_next]

theorem memWf.execStealBackoff (h : s.memWf) (core : Nat) : AnswerWf (execStealBackoff core s) := by
  unfold Machine.execStealBackoff
  grind [memWf_iff, memWf.modCore, answerWf_next]

theorem memWf.execJobEnd (h : s.memWf) (site : Nat) : AnswerWf (execJobEnd site s) := by
  unfold Machine.execJobEnd
  grind [memWf_iff, memWf.modSite, memWf.dropPins, memWf.loseMoves, answerWf_next]

/-! ## Machine/Turn -/

theorem memWf.fetchTurn (h : s.memWf) : s.fetchTurn.memWf := by
  unfold State.fetchTurn
  extract_lets pc form
  have hx : (Machine.translate s pc .x (fun u pa _ => .jump u (wd pa))).memWf := h.translate (k := fun u pa _ => .jump u (wd pa)) (fun u pa a hu => hu) ..
  generalize Machine.translate s pc .x (fun u pa _ => .jump u (wd pa)) = x at hx
  clear_value pc form
  split
  · exact h.trap ..
  · split
    · exact h.trap ..
    · split
      · next u pa =>
        have hu : u.memWf := hx
        grind [TurnDo.memWf, memWf.modMe, memWf.haltBreak, memWf.trapWith, memWf.trap, memWf.bubble, memWf.countS, memWf.inject]
      · exact h.finish hx _

theorem memWf.slotTurn (h : s.memWf) : s.slotTurn.memWf := by
  unfold State.slotTurn
  grind [TurnDo.memWf, memWf.bubble, memWf.trap, memWf.fetchTurn, memWf.modMe, memWf.countS]

theorem memWf.tick (h : s.memWf) (c : Nat) : (s.tick c).memWf := by
  unfold State.tick
  grind [memWf_iff, memWf.modCore]

theorem memWf.seat (h : s.memWf) (c : Nat) : (s.seat c).memWf := by
  unfold State.seat
  grind [memWf_iff, memWf.modCore]

theorem memWf.countCycle (h : s.memWf) (c : Nat) : (s.countCycle c).memWf := by
  unfold State.countCycle
  grind [memWf_iff, memWf.count]

/-! ## Machine/System -/

theorem memWf.noteFails (h : s.memWf) (c : Nat) (w : Word) (forwarded : Bool) (code : Nat) : (s.noteFails c w forwarded code).memWf := by
  unfold State.noteFails
  grind [memWf.partitionStop, memWf.undelivered, memWf.sendNote]

theorem memWf.execNotification (h : s.memWf) (fid : Nat) : AnswerWf (execNotification fid s) := by
  unfold Machine.execNotification
  grind [memWf_iff, memWf.withPacket, memWf.modCore, memWf.notice, answerWf_next]

theorem memWf.execNoteRetry (h : s.memWf) (fid : Nat) : AnswerWf (execNoteRetry fid s) := by
  unfold Machine.execNoteRetry
  grind [memWf.settleHeld, memWf.reroute, memWf.count, answerWf_next]

theorem memWf.execHandlerEntry (h : s.memWf) (core : Nat) : AnswerWf (execHandlerEntry core s) := by
  unfold Machine.execHandlerEntry
  grind [memWf_iff, memWf.bubble, memWf.enterHandler, answerWf_next]

theorem memWf.execHdone (h : s.memWf) : AnswerWf (execHdone s) := by
  unfold Machine.execHdone
  grind [Act.memWf_jump, memWf.issue, memWf.leaveHandler, answerWf_next]

theorem memWf.slotCommand (h : s.memWf) (rs1 : BitVec 5) (kill : Bool) : (slotCommand s rs1 kill).memWf := by
  unfold Machine.slotCommand
  grind [memWf_iff, Act.memWf_done, memWf.releaseCheck, memWf.bump, memWf.modMe, memWf.portSend]

theorem memWf.execTresume (h : s.memWf) (rs1 : BitVec 5) : AnswerWf (execTresume rs1 s) := by
  unfold Machine.execTresume
  grind [memWf.issue, memWf.slotCommand, answerWf_next]

theorem memWf.execTkill (h : s.memWf) (rs1 : BitVec 5) : AnswerWf (execTkill rs1 s) := by
  unfold Machine.execTkill
  grind [memWf.issue, memWf.slotCommand, answerWf_next]

theorem memWf.commandFails (h : s.memWf) (c issuer epoch : Nat) (code : BitVec 8) (xs1 : BitVec 20) : (s.commandFails c issuer epoch code xs1).memWf := by
  unfold State.commandFails
  grind [memWf_iff, memWf.countS, memWf.modSlot]

theorem memWf.resumeSlot (h : s.memWf) (c n : Nat) : (s.resumeSlot c n).memWf := by
  unfold State.resumeSlot
  grind [memWf_iff, memWf.modSlot, memWf.trace]

theorem memWf.killSlot (h : s.memWf) (c n : Nat) : (s.killSlot c n).memWf := by
  unfold State.killSlot
  grind [memWf_iff, memWf.endResv, memWf.trace, memWf.modSlot, memWf.becomeEmpty]

theorem memWf.execTresumeApply (h : s.memWf) (fid : Nat) : AnswerWf (execTresumeApply fid s) := by
  unfold Machine.execTresumeApply
  grind [memWf.withPacket, memWf.resumeSlot, answerWf_next]

theorem memWf.execTkillApply (h : s.memWf) (fid : Nat) : AnswerWf (execTkillApply fid s) := by
  unfold Machine.execTkillApply
  grind [memWf.withPacket, memWf.killSlot, answerWf_next]

theorem memWf.execSlotResume (h : s.memWf) (core : NodeTarget 16) (slot : BitVec 4) : AnswerWf (execSlotResume core slot s) := by
  unfold Machine.execSlotResume
  grind [memWf_iff, memWf.siteCommand, memWf.sysRefuse, memWf.modSlot, answerWf_next]

/-! ## Machine/Router -/

theorem memWf.poisonWith (h : s.memWf) (c : Nat) (claim : Option Nat) (code : BitVec 8) (detail : Nat) : (s.poisonWith c claim code detail).memWf := by
  unfold State.poisonWith
  grind [memWf_iff, memWf.poisonNow]

theorem memWf.comeBack (h : s.memWf) (f : Flight) (b : Body) : (s.comeBack f b).memWf := by
  unfold State.comeBack
  grind [memWf_iff, memWf.bump]

theorem memWf.failBody (h : s.memWf) (f : Flight) (c : Nat) (code : BitVec 8) : (s.failBody f c code).memWf := by
  unfold State.failBody
  grind [memWf_iff, memWf.foldl, memWf.comeBack, memWf.answered, memWf.poisonWith, memWf.icacheTake, memWf.takeDiscard, memWf.takeRinvAck,
    memWf.takeSegAns, memWf.eventFails, memWf.freeMsg, memWf.mcAnswer, memWf.takeSteal, memWf.noteFails, memWf.commandFails, memWf.mcFails]

theorem memWf.failFlight (h : s.memWf) (f : Flight) (code : BitVec 8) : (s.failFlight f code).memWf := by
  unfold State.failFlight
  grind [memWf_iff, memWf.dropFlight, memWf.countRouter, memWf.failBody, memWf.takeRinvAck, memWf.loseMove, memWf.report]

theorem memWf.absorb (h : s.memWf) (f : Flight) (c : Nat) : (s.absorb f c).memWf := by
  unfold State.absorb
  grind [memWf_iff, Act.memWf_done, memWf.answered, memWf.deliverAt, memWf.l1Fill, memWf.modSlot, memWf.takeSegAns, memWf.takeMcAns, memWf.takeDiscard,
    memWf.takeRinvAck, memWf.chipTakes]

theorem memWf.replicate (h : s.memWf) (f : Flight) (branches : List (List Nat)) : (s.replicate f branches).memWf := by
  unfold State.replicate
  grind [memWf_iff]

theorem memWf.forward (h : s.memWf) (f : Flight) : (s.forward f).memWf := by
  unfold State.forward
  grind [memWf.replicate, memWf.hop]

theorem memWf.execRouterForward (h : s.memWf) (fid : Nat) : AnswerWf (execRouterForward fid s) := by
  unfold Machine.execRouterForward
  grind [memWf.forward, memWf.goOn, memWf.withPacket, memWf.absorb, memWf.takeRinvAck, answerWf_next]

theorem memWf.modFlood (h : s.memWf) (site : Nat) (name : BitVec 12) (g : Flood → Flood) : (s.modFlood site name g).memWf := by
  unfold State.modFlood
  grind [memWf_iff, memWf.modSite]

theorem memWf.execWhereProbe (h : s.memWf) (site : Nat) (name : BitVec 12) : AnswerWf (execWhereProbe site name s) := by
  refine answerWf_next.2 ?_
  split
  · refine memWf_ite h ?_
    extract_lets yx rect reached owners teach u v
    have hu : u.memWf := h.foldl (fun w n hw => by grind [memWf.learn, memWf.countFlits]) _
    exact (hu.foldl (fun w p hw => hw.countRouter ..) _).modFlood ..
  · exact h

theorem memWf.takeHere (h : s.memWf) (site : Nat) (name : BitVec 12) : (s.takeHere site name).memWf := by
  unfold State.takeHere
  grind [memWf_iff, memWf.rideBack, memWf.modFlood, memWf.countRouter, memWf.modSite, memWf.settleHeld, memWf.releaseHeld]

theorem memWf.execHereReply (h : s.memWf) (site : Nat) (name : BitVec 12) : AnswerWf (execHereReply site name s) := by
  unfold Machine.execHereReply
  grind [memWf.takeHere, answerWf_next]

theorem memWf.execWhereReflood (h : s.memWf) (site : Nat) (name : BitVec 12) : AnswerWf (execWhereReflood site name s) := by
  unfold Machine.execWhereReflood
  grind [memWf_iff, memWf.modFlood, memWf.countRouter, answerWf_next]

theorem memWf.endFlood (h : s.memWf) (site : Nat) (name : BitVec 12) (now : Nat) : (s.endFlood site name now).memWf := by
  unfold State.endFlood
  grind [memWf_iff, memWf.modSite]

theorem memWf.execUnknownName (h : s.memWf) (fid : Nat) : AnswerWf (execUnknownName fid s) := by
  unfold Machine.execUnknownName
  grind [memWf.takeHere, memWf.settleHeld, memWf.endFlood, memWf.failFlight, memWf.countRouter, answerWf_next]

theorem memWf.putSelect (h : s.memWf) (f : Flight) (sel : Nat) : (s.putSelect f sel).memWf := by
  unfold State.putSelect
  grind [memWf_iff, memWf.modSite]

theorem memWf.onBlocked (h : s.memWf) (f : Flight) : (s.onBlocked f).memWf := by
  unfold State.onBlocked
  grind [memWf_iff, memWf.setFlight, memWf.learn, memWf.failFlight, memWf.putSelect]

theorem memWf.execBlocked (h : s.memWf) (fid : Nat) : AnswerWf (execBlocked fid s) := by
  unfold Machine.execBlocked
  grind [memWf_iff, memWf.notice, memWf.onBlocked, memWf.setFlight, answerWf_next]

theorem memWf.execMoved (h : s.memWf) (fid : Nat) : AnswerWf (execMoved fid s) := by
  unfold Machine.execMoved
  grind [memWf_iff, memWf.notice, memWf.setFlight, memWf.failFlight, memWf.countRouter, memWf.modSite, memWf.openFlood, memWf.reroute, answerWf_next]

theorem memWf.execErrorResponse (h : s.memWf) (fid : Nat) : AnswerWf (execErrorResponse fid s) := by
  unfold Machine.execErrorResponse
  grind [memWf_iff, memWf.notice, memWf.failFlight, memWf.setFlight, answerWf_next]

end Sys2Proof.Machine.State
end

section
/-! Canonical memory: queues, the control link, the instructions, and from them the step, one lemma for each function. -/

namespace Sys2Proof.Machine.State

variable {s : State}

/-! ## Machine/Router -/

theorem memWf.clockTo (h : s.memWf) (x : Sender) (now : Nat) : (s.clockTo x now).memWf := by
  unfold State.clockTo
  grind [memWf_iff, memWf.modProc, memWf.modChip]

theorem memWf.execNoResponse (h : s.memWf) (fid : Nat) : AnswerWf (execNoResponse fid s) := by
  refine answerWf_next.2 ?_
  split
  · refine memWf_ite h (memWf_ite ((h.clockTo ..).failFlight ..) ?_)
    split
    · exact ((h.clockTo ..).setFlight ..).failBody ..
    · exact (h.clockTo ..).setFlight ..
  · exact h

/-! ## Machine/Queues -/

theorem memWf.modQueue (h : s.memWf) (d q : Nat) (f : CQueue → CQueue) : (s.modQueue d q f).memWf := by
  unfold State.modQueue
  grind [memWf_iff, memWf.modProc]

theorem memWf.queueFail (h : s.memWf) (d q : Nat) (err detail : Nat) (at_ : BitVec 32) : (s.queueFail d q err detail at_).memWf := by
  unfold State.queueFail
  grind [memWf_iff, memWf.report, memWf.modQueue]

theorem memWf.procTick (h : s.memWf) (d q : Nat) : (s.procTick d q).memWf := by
  unfold State.procTick
  grind [memWf_iff, memWf.modProc, memWf.useFree]

theorem memWf.linkAccess (h : s.memWf) {act : State → State} (ha : ∀ u : State, u.memWf → (act u).memWf) (d part pa out back : Nat) :
    (s.linkAccess d part pa out back act).1.memWf := by
  unfold State.linkAccess
  split
  next u e hx =>
  have hu : u.memWf := memWf_of_eq_mk (h.accessBy ha ..) hx
  exact memWf_ite (hu.modProc ..) hu

theorem memWf.linkTrip (h : s.memWf) (d part pa out back : Nat) : (s.linkTrip d part pa out back).1.memWf := h.linkAccess (fun _ hu => hu) ..

theorem memWf.queueCode (h : s.memWf) (d q : Nat) (code : BitVec 8) (at_ : BitVec 32) : (s.queueCode d q code at_).memWf := by
  unfold State.queueCode
  grind [memWf_iff, memWf.queueFail]

theorem memWf.startPacket (h : s.memWf) {run : State → List Word → BitVec 32 → State} (hr : ∀ (u : State) (w : List Word) (j :
    BitVec 32), u.memWf → (run u w j).memWf)
    (d q ty : Nat) : (s.startPacket d q ty run).memWf := by
  unfold State.startPacket
  extract_lets x ready w t w1
  clear_value x ready w t w1
  refine memWf_ite h (memWf_ite (h.queueFail ..) (memWf_ite h ?_))
  have hc := (h.procTick d q).chargeLink d x.part x.packetPA 1
  generalize (s.procTick d q).chargeLink d x.part x.packetPA 1 = y at hc
  obtain ⟨u, paid⟩ := y
  have hu : u.memWf := hc
  refine memWf_ite (hu.queueFail ..) ?_
  split
  · next e => exact (memWf_of_eq_mk (hu.linkTrip ..) e).queueCode ..
  · next v e =>
    have hv : v.memWf := memWf_of_eq_mk (hu.linkTrip ..) e
    split
    · exact ((hv.modQueue ..).modProc ..).report ..
    · refine memWf_ite (hv.queueFail ..) ?_
      split
      · exact hv.queueFail ..
      · have hl : (if ty == 0x01 then v.linkTrip d x.part w1 1 (dataFlits 128) else (v, none)).1.memWf := by
          split
          · exact hv.linkTrip ..
          · exact hv
        split
        · next e => exact (memWf_of_eq_mk hl e).queueCode ..
        · next z e =>
          have hz : z.memWf := memWf_of_eq_mk hl e
          exact memWf_ite (hz.queueFail ..) (hr _ _ _ (hz.modQueue ..))

theorem memWf.queueWaits (h : s.memWf) (d q : Nat) (w : QWait) : (s.queueWaits d q w).memWf := by
  unfold State.queueWaits
  grind [memWf_iff, memWf.modQueue]

theorem memWf.semPut (h : s.memWf) (d i : Nat) (v : Word) : (s.semPut d i v).memWf := by
  unfold State.semPut
  grind [memWf.homeWrite]

theorem memWf.semAdd (h : s.memWf) (d : Nat) (w : Work) : (s.semAdd d w).memWf := by
  unfold State.semAdd
  grind [memWf.chargeLink, memWf.queueFail, memWf.linkAccess, memWf.semPut, memWf.queueCode]

theorem memWf.execNop (h : s.memWf) (proc queue : Nat) : AnswerWf (execNop proc queue s) := by
  unfold Machine.execNop
  grind [memWf.startPacket, answerWf_next]

theorem memWf.execInterrupt (h : s.memWf) (proc queue : Nat) : AnswerWf (execInterrupt proc queue s) := by
  unfold Machine.execInterrupt
  grind [memWf.startPacket, memWf.report, answerWf_next]

theorem memWf.execJump (h : s.memWf) (proc queue : Nat) : AnswerWf (execJump proc queue s) := by
  unfold Machine.execJump
  grind [memWf_iff, memWf.startPacket, memWf.modQueue, answerWf_next]

theorem memWf.execMark (h : s.memWf) (proc queue : Nat) : AnswerWf (execMark proc queue s) := by
  unfold Machine.execMark
  grind [memWf.startPacket, memWf.linkAccess, memWf.homeWrite, memWf.queueCode, answerWf_next]

theorem memWf.execSignal (h : s.memWf) (proc queue : Nat) : AnswerWf (execSignal proc queue s) := by
  unfold Machine.execSignal
  grind [memWf.startPacket, memWf.chargeLink, memWf.queueFail, memWf.linkAccess, memWf.semPut, memWf.queueCode, answerWf_next]

theorem memWf.execWaitge (h : s.memWf) (proc queue : Nat) : AnswerWf (execWaitge proc queue s) := by
  unfold Machine.execWaitge
  grind [memWf.startPacket, memWf.chargeLink, memWf.queueFail, memWf.linkTrip, memWf.queueCode, memWf.queueWaits, answerWf_next]

theorem memWf.execSemaphoreReport (h : s.memWf) (proc : Nat) : AnswerWf (execSemaphoreReport proc s) := by
  unfold Machine.execSemaphoreReport
  grind [memWf_iff, memWf.rideBack, memWf.modProc, answerWf_next]

theorem memWf.execWaitgeTimeout (h : s.memWf) (proc queue : Nat) : AnswerWf (execWaitgeTimeout proc queue s) := by
  unfold Machine.execWaitgeTimeout
  grind [memWf_iff, memWf.modProc, memWf.modQueue, memWf.queueFail, answerWf_next]

theorem memWf.execQueueFence (h : s.memWf) (proc queue : Nat) : AnswerWf (execQueueFence proc queue s) := by
  unfold Machine.execQueueFence
  grind [memWf.modQueue, memWf.startPacket, memWf.queueWaits, answerWf_next]

theorem memWf.execQueueCopy (h : s.memWf) (proc queue : Nat) : AnswerWf (execQueueCopy proc queue s) := by
  unfold Machine.execQueueCopy
  grind [memWf_iff, memWf.startPacket, memWf.chargeLink, memWf.queueFail, memWf.modProc, memWf.bump, answerWf_next]

theorem memWf.copyLines (h : s.memWf) (d part src dst n fuel : Nat) : (s.copyLines d part src dst n fuel).1.memWf := by
  induction fuel generalizing s src dst n with
  | zero => exact h
  | succ k ih =>
    unfold State.copyLines
    split
    · exact h
    · extract_lets m
      clear_value m
      split
      · next e => exact memWf_of_eq_mk (h.linkTrip ..) e
      · next u e =>
        have hu : u.memWf := memWf_of_eq_mk (h.linkTrip ..) e
        have hp : (if lineOf src == lineOf (src + m - 1) then (u, none) else u.linkTrip d part (src + m - 1) 1 1).1.memWf := by
          split
          · exact hu
          · exact hu.linkTrip ..
        split
        · next e => exact memWf_of_eq_mk hp e
        · next v e =>
          have hv : v.memWf := memWf_of_eq_mk hp e
          split
          · next e => exact memWf_of_eq_mk (hv.linkAccess (fun w hw => hw.homeWrite ..) ..) e
          · next e => exact ih (memWf_of_eq_mk (hv.linkAccess (fun w hw => hw.homeWrite ..) ..) e) ..

theorem memWf.execQueueCopyComplete (h : s.memWf) (proc work : Nat) : AnswerWf (execQueueCopyComplete proc work s) := by
  unfold Machine.execQueueCopyComplete
  grind [memWf_iff, memWf.modProc, memWf.copyLines, memWf.semAdd, memWf.queueFail, answerWf_next]

theorem memWf.markClaims (h : s.memWf) : s.markClaims.memWf := by
  unfold State.markClaims
  grind [memWf_iff]

theorem memWf.execLaunch (h : s.memWf) (proc queue : Nat) : AnswerWf (execLaunch proc queue s) := by
  unfold Machine.execLaunch
  grind [memWf_iff, memWf.startPacket, memWf.modProc, memWf.bump, memWf.markClaims, memWf.queueWaits, answerWf_next]

theorem memWf.launchCore (h : s.memWf) (l : Launch) (dir : Word) (c : Nat) : (s.launchCore l dir c).memWf := by
  unfold State.launchCore
  grind [memWf_iff, memWf.foldl, launched_wf, memWf.modCore', foldl_ls, memWf.dropSpec, memWf.dropRemote, memWf.modCore]

theorem memWf.launchTrips (h : s.memWf) (d : Nat) (sites : List Nat) : (s.launchTrips d sites).1.memWf :=
  h.foldl_fst (fun u b n hu => hu.sysTrip ..) sites

theorem memWf.execLaunchStart (h : s.memWf) (proc queue : Nat) : AnswerWf (execLaunchStart proc queue s) := by
  unfold Machine.execLaunchStart
  grind [memWf_iff, memWf.foldl, memWf.modQueue, memWf.markClaims, memWf.queueFail, memWf.modProc, memWf.launchTrips, memWf.launchCore, memWf.modSite,
    answerWf_next]

theorem memWf.execLaunchComplete (h : s.memWf) (proc work : Nat) : AnswerWf (execLaunchComplete proc work s) := by
  unfold Machine.execLaunchComplete
  grind [memWf_iff, memWf.semAdd, memWf.modProc, answerWf_next]

/-! ## Machine/Control -/

theorem memWf.putSembase (h : s.memWf) (d : Nat) (v : Word) : (s.putSembase d v).memWf := by
  unfold State.putSembase
  grind [memWf_iff, memWf.foldl, memWf.modProc, memWf.putLine]

theorem memWf.ownWrite (h : s.memWf) (d off : Nat) (v : Word) : (s.ownWrite d off v).memWf := by
  unfold State.ownWrite
  grind [memWf_iff, memWf.modQueue, memWf.putSembase, memWf.modProc, memWf.modSite]

theorem memWf.execRegwrite (h : s.memWf) (proc : Nat) (unit : BitVec 16) (part : BitVec 4) (off : BitVec 32) (value : BitVec 64) :
    AnswerWf (execRegwrite proc unit part off value s) := by
  unfold Machine.execRegwrite
  grind [memWf_iff, memWf.ownWrite, memWf.report, memWf.chargeLink, memWf.inject, memWf.unitWrite, memWf.sysTrip, answerWf_next]

theorem memWf.execRegread (h : s.memWf) (proc : Nat) (unit : BitVec 16) (part : BitVec 4) (off : BitVec 32) :
    AnswerWf (execRegread proc unit part off s) := by
  unfold Machine.execRegread
  grind [memWf_iff, memWf.report, memWf.chargeLink, memWf.sysTrip, memWf.rideBack, answerWf_next]

theorem memWf.execQueueDoorbell (h : s.memWf) (proc queue : Nat) (wr : BitVec 32) : AnswerWf (execQueueDoorbell proc queue wr s) := by
  unfold Machine.execQueueDoorbell
  grind [memWf.modQueue, answerWf_next]

theorem memWf.execQueueRestart (h : s.memWf) (proc queue : Nat) : AnswerWf (execQueueRestart proc queue s) := by
  unfold Machine.execQueueRestart
  grind [memWf.modQueue, answerWf_next]

theorem memWf.execProcessorResume (h : s.memWf) (proc : Nat) : AnswerWf (execProcessorResume proc s) := by
  unfold Machine.execProcessorResume
  grind [memWf_iff, memWf.modProc, answerWf_next]

theorem memWf.linkRead (h : s.memWf) (d part pa n : Nat) : (s.linkRead d part pa n).1.memWf := by
  refine h.foldl_fst (fun u b q hu => ?_) _
  cases b with
  | none => exact hu.linkTrip ..
  | some c => exact hu

theorem memWf.linkPuts (h : s.memWf) (d part : Nat) (l : List (Nat × Byte)) : (s.linkPuts d part l).1.memWf := by
  refine h.foldl_fst (fun u b r hu => ?_) _
  cases b with
  | none => exact hu.linkAccess (fun w hw => hw.homeWrite ..) ..
  | some c => exact hu

theorem memWf.hostWrite (h : s.memWf) (d : Nat) (part : BitVec 4) (pa : Nat) (bytes : List Byte) : (s.hostWrite d part pa bytes).memWf := by
  unfold State.hostWrite
  grind [memWf.chargeLink, memWf.report, memWf.linkPuts]

theorem memWf.containerAt (h : s.memWf) (d part pa : Nat) : (s.containerAt d part pa).1.memWf := by
  unfold State.containerAt
  grind [memWf.linkRead]

theorem memWf.loadWalks (h : s.memWf) (d part : Nat) (dirs : List Word) (bs : List (Nat × Byte)) : (s.loadWalks d part dirs bs).1.memWf := by
  refine h.foldl_fst (fun u b a hu => ?_) _
  cases b with
  | none => exact hu.linkTrip ..
  | some c => exact hu

theorem memWf.writeSegments (h : s.memWf) (d part : Nat) (dirs : List Word) (bs : List (Nat × Byte)) : (s.writeSegments d part dirs bs).1.memWf := by
  unfold State.writeSegments
  grind [memWf_iff, memWf.loadWalks, memWf.linkPuts]

theorem memWf.settleLoads (h : s.memWf) : s.settleLoads.memWf := by
  unfold State.settleLoads
  grind [memWf_iff, memWf.foldl, memWf.report, memWf.modProc]

theorem memWf.sendImages (h : s.memWf) (d : Nat) (part : BitVec 4) (l : List Byte) (rs : List CRec) (cores : List (Nat × List RoleImage)) (tree : List (Nat × Nat)) (targets : List Nat) :
    (s.sendImages d part l rs cores tree targets).memWf := by
  unfold State.sendImages
  grind [memWf_iff, memWf.foldl, memWf.modProc, memWf.settleLoads, memWf.inject]

theorem memWf.execLoad (h : s.memWf) (proc : Nat) (part : BitVec 4) (pa : BitVec 43) (dirs : List (BitVec 64)) :
    AnswerWf (execLoad proc part pa dirs s) := by
  unfold Machine.execLoad
  grind [memWf.chargeLink, memWf.report, memWf.containerAt, memWf.writeSegments, memWf.sendImages, answerWf_next]

theorem memWf.execSitePacket (h : s.memWf) (fid : Nat) : AnswerWf (execSitePacket fid s) := by
  unfold Machine.execSitePacket
  grind [memWf_iff, memWf.foldl, memWf.withPacket, memWf.modCore, memWf.modSite, memWf.fenceSite, memWf.settleLoads, memWf.inject, answerWf_next]

theorem memWf.execUnload (h : s.memWf) (proc : Nat) (part : BitVec 4) (names : List (BitVec 12)) : AnswerWf (execUnload proc part names s) := by
  unfold Machine.execUnload
  grind [memWf_iff, memWf.foldl, memWf.siteCommand, memWf.modSite, memWf.modCore, answerWf_next]

theorem memWf.execAttest (h : s.memWf) (proc : Nat) (nonce : BitVec 384) : AnswerWf (execAttest proc nonce s) := by
  unfold Machine.execAttest
  grind [memWf.report, answerWf_next]

/-! ## Machine/Futures -/

theorem memWf.moveReg (h : s.memWf) (f : RFile) (d n : Nat) : (moveReg s f d n).memWf := by
  unfold Machine.moveReg
  grind [memWf_iff, watchFire_ls, dropNoting_ls, coreSetSlot_ls, memWf.settleReg, memWf.modCore, memWf.modMe]

theorem memWf.execFstat (h : s.memWf) (file : BitVec 2) (reg rd : BitVec 5) : AnswerWf (execFstat file reg rd s) := by
  unfold Machine.execFstat
  grind [Act.memWf_done, memWf.issue, memWf.setX, answerWf_next]

theorem memWf.execMvf (h : s.memWf) (file : BitVec 2) (reg rd : BitVec 5) : AnswerWf (execMvf file reg rd s) := by
  unfold Machine.execMvf
  grind [Act.memWf_done, memWf.issue, memWf.moveReg, answerWf_next]

theorem memWf.execFwait (h : s.memWf) (file : BitVec 2) (reg : BitVec 5) : AnswerWf (execFwait file reg s) := by
  unfold Machine.execFwait
  grind [Act.memWf_done, memWf.issue, answerWf_next]

theorem memWf.execWaitany (h : s.memWf) (rs1 rd : BitVec 5) : AnswerWf (execWaitany rs1 rd s) := by
  refine h.issue ?_ _
  extract_lets m
  clear_value m
  split
  · exact h.setX ..
  · split
    · exact h.setX ..
    · refine h.withClaim (fun u c hu => ?_) ..
      rw [Act.memWf_done]
      split
      · exact hu.modHere (fun k => by split <;> rfl)
      · exact hu

theorem memWf.execFdrop (h : s.memWf) (file : BitVec 2) (reg : BitVec 5) : AnswerWf (execFdrop file reg s) := by
  unfold Machine.execFdrop
  grind [watchFire_ls, dropNoting_ls, coreSetSlot_ls, Act.memWf_done, memWf.issue, memWf.settleReg, memWf.modHere, answerWf_next]

theorem memWf.execFpoison (h : s.memWf) (file : BitVec 2) (rs1 reg : BitVec 5) : AnswerWf (execFpoison file rs1 reg s) := by
  unfold Machine.execFpoison
  grind [Act.memWf_done, memWf.issue, memWf.modMe, answerWf_next]

theorem memWf.execClaimDelivery (h : s.memWf) (core claim : Nat) : AnswerWf (execClaimDelivery core claim s) := by
  unfold Machine.execClaimDelivery
  grind [memWf.applyDelivery, answerWf_next]

theorem memWf.execParkLimit (h : s.memWf) (core slot : Nat) : AnswerWf (execParkLimit core slot s) := by
  unfold Machine.execParkLimit
  grind [memWf_iff, Act.memWf_trap, memWf.trap, answerWf_next]

/-! ## Machine/Ordering -/

theorem memWf.execLacq (h : s.memWf) (scope : BitVec 4) (rs1 rd : BitVec 5) : AnswerWf (execLacq scope rs1 rd s) := by
  unfold Machine.execLacq
  grind [memWf.issue, memWf.scalarLoad, answerWf_next]

theorem memWf.execLacqw (h : s.memWf) (scope : BitVec 4) (rs1 rd : BitVec 5) : AnswerWf (execLacqw scope rs1 rd s) := by
  unfold Machine.execLacqw
  grind [memWf.issue, memWf.scalarLoad, answerWf_next]

theorem memWf.execSrel (h : s.memWf) (scope : BitVec 4) (rs2 rs1 : BitVec 5) : AnswerWf (execSrel scope rs2 rs1 s) := by
  unfold Machine.execSrel
  grind [memWf.issue, memWf.scalarStore, answerWf_next]

theorem memWf.execSrelw (h : s.memWf) (scope : BitVec 4) (rs2 rs1 : BitVec 5) : AnswerWf (execSrelw scope rs2 rs1 s) := by
  unfold Machine.execSrelw
  grind [memWf.issue, memWf.scalarStore, answerWf_next]

theorem memWf.execFences (h : s.memWf) (scope succ pred : BitVec 4) : AnswerWf (execFences scope succ pred s) := by
  unfold Machine.execFences
  grind [memWf.issue, memWf.fenceBody, answerWf_next]

theorem memWf.execFence (h : s.memWf) (fm pred succ : BitVec 4) : AnswerWf (execFence fm pred succ s) := by
  unfold Machine.execFence
  grind [memWf.issue, memWf.fenceBody, answerWf_next]

/-! ## Machine/Scalar -/

theorem memWf.writeRd (h : s.memWf) (rd : BitVec 5) (f : State → Word) : (writeRd rd f s).memWf := by
  unfold Machine.writeRd
  grind [Act.memWf_done, memWf.setX]

theorem memWf.divide (h : s.memWf) (rd : BitVec 5) (cycles : Nat) (q : Word) : (divide rd cycles q s).memWf := by
  unfold Machine.divide
  grind [memWf_iff, Act.memWf_done, memWf.withClaim, memWf.modHere, memWf.bump, memWf.useFree, answerWf_next]

theorem memWf.jumpTo (h : s.memWf) (rd : BitVec 5) (t : Word) : (jumpTo rd t s).memWf := by
  unfold Machine.jumpTo
  grind [memWf_iff, Act.memWf_jump, Act.memWf_trap, memWf.setX]

theorem memWf.branch (h : s.memWf) (taken : Bool) (off : Word) : (branch taken off s).memWf := by
  unfold Machine.branch
  grind [Act.memWf_jump, Act.memWf_trap]

theorem memWf.execLui (h : s.memWf) (imm : BitVec 20) (rd : BitVec 5) : AnswerWf (execLui imm rd s) := by
  unfold Machine.execLui
  grind [memWf.issue, memWf.writeRd, answerWf_next]

theorem memWf.execAuipc (h : s.memWf) (imm : BitVec 20) (rd : BitVec 5) : AnswerWf (execAuipc imm rd s) := by
  unfold Machine.execAuipc
  grind [memWf.issue, memWf.writeRd, answerWf_next]

theorem memWf.execAddi (h : s.memWf) (imm : BitVec 12) (rs1 rd : BitVec 5) : AnswerWf (execAddi imm rs1 rd s) := by
  unfold Machine.execAddi
  grind [memWf.issue, memWf.writeRd, answerWf_next]

theorem memWf.execSlti (h : s.memWf) (imm : BitVec 12) (rs1 rd : BitVec 5) : AnswerWf (execSlti imm rs1 rd s) := by
  unfold Machine.execSlti
  grind [memWf.issue, memWf.writeRd, answerWf_next]

theorem memWf.execSltiu (h : s.memWf) (imm : BitVec 12) (rs1 rd : BitVec 5) : AnswerWf (execSltiu imm rs1 rd s) := by
  unfold Machine.execSltiu
  grind [memWf.issue, memWf.writeRd, answerWf_next]

theorem memWf.execXori (h : s.memWf) (imm : BitVec 12) (rs1 rd : BitVec 5) : AnswerWf (execXori imm rs1 rd s) := by
  unfold Machine.execXori
  grind [memWf.issue, memWf.writeRd, answerWf_next]

theorem memWf.execOri (h : s.memWf) (imm : BitVec 12) (rs1 rd : BitVec 5) : AnswerWf (execOri imm rs1 rd s) := by
  unfold Machine.execOri
  grind [memWf.issue, memWf.writeRd, answerWf_next]

theorem memWf.execAndi (h : s.memWf) (imm : BitVec 12) (rs1 rd : BitVec 5) : AnswerWf (execAndi imm rs1 rd s) := by
  unfold Machine.execAndi
  grind [memWf.issue, memWf.writeRd, answerWf_next]

theorem memWf.execAddiw (h : s.memWf) (imm : BitVec 12) (rs1 rd : BitVec 5) : AnswerWf (execAddiw imm rs1 rd s) := by
  unfold Machine.execAddiw
  grind [memWf.issue, memWf.writeRd, answerWf_next]

theorem memWf.execSlli (h : s.memWf) (shamt : BitVec 6) (rs1 rd : BitVec 5) : AnswerWf (execSlli shamt rs1 rd s) := by
  unfold Machine.execSlli
  grind [memWf.issue, memWf.writeRd, answerWf_next]

theorem memWf.execSrli (h : s.memWf) (shamt : BitVec 6) (rs1 rd : BitVec 5) : AnswerWf (execSrli shamt rs1 rd s) := by
  unfold Machine.execSrli
  grind [memWf.issue, memWf.writeRd, answerWf_next]

theorem memWf.execSrai (h : s.memWf) (shamt : BitVec 6) (rs1 rd : BitVec 5) : AnswerWf (execSrai shamt rs1 rd s) := by
  unfold Machine.execSrai
  grind [memWf.issue, memWf.writeRd, answerWf_next]

theorem memWf.execSlliw (h : s.memWf) (shamt rs1 rd : BitVec 5) : AnswerWf (execSlliw shamt rs1 rd s) := by
  unfold Machine.execSlliw
  grind [memWf.issue, memWf.writeRd, answerWf_next]

theorem memWf.execSrliw (h : s.memWf) (shamt rs1 rd : BitVec 5) : AnswerWf (execSrliw shamt rs1 rd s) := by
  unfold Machine.execSrliw
  grind [memWf.issue, memWf.writeRd, answerWf_next]

theorem memWf.execSraiw (h : s.memWf) (shamt rs1 rd : BitVec 5) : AnswerWf (execSraiw shamt rs1 rd s) := by
  unfold Machine.execSraiw
  grind [memWf.issue, memWf.writeRd, answerWf_next]

theorem memWf.execAdd (h : s.memWf) (rs2 rs1 rd : BitVec 5) : AnswerWf (execAdd rs2 rs1 rd s) := by
  unfold Machine.execAdd
  grind [memWf.issue, memWf.writeRd, answerWf_next]

theorem memWf.execSub (h : s.memWf) (rs2 rs1 rd : BitVec 5) : AnswerWf (execSub rs2 rs1 rd s) := by
  unfold Machine.execSub
  grind [memWf.issue, memWf.writeRd, answerWf_next]

theorem memWf.execSll (h : s.memWf) (rs2 rs1 rd : BitVec 5) : AnswerWf (execSll rs2 rs1 rd s) := by
  unfold Machine.execSll
  grind [memWf.issue, memWf.writeRd, answerWf_next]

theorem memWf.execSlt (h : s.memWf) (rs2 rs1 rd : BitVec 5) : AnswerWf (execSlt rs2 rs1 rd s) := by
  unfold Machine.execSlt
  grind [memWf.issue, memWf.writeRd, answerWf_next]

theorem memWf.execSltu (h : s.memWf) (rs2 rs1 rd : BitVec 5) : AnswerWf (execSltu rs2 rs1 rd s) := by
  unfold Machine.execSltu
  grind [memWf.issue, memWf.writeRd, answerWf_next]

theorem memWf.execXor (h : s.memWf) (rs2 rs1 rd : BitVec 5) : AnswerWf (execXor rs2 rs1 rd s) := by
  unfold Machine.execXor
  grind [memWf.issue, memWf.writeRd, answerWf_next]

theorem memWf.execSrl (h : s.memWf) (rs2 rs1 rd : BitVec 5) : AnswerWf (execSrl rs2 rs1 rd s) := by
  unfold Machine.execSrl
  grind [memWf.issue, memWf.writeRd, answerWf_next]

theorem memWf.execSra (h : s.memWf) (rs2 rs1 rd : BitVec 5) : AnswerWf (execSra rs2 rs1 rd s) := by
  unfold Machine.execSra
  grind [memWf.issue, memWf.writeRd, answerWf_next]

theorem memWf.execOr (h : s.memWf) (rs2 rs1 rd : BitVec 5) : AnswerWf (execOr rs2 rs1 rd s) := by
  unfold Machine.execOr
  grind [memWf.issue, memWf.writeRd, answerWf_next]

theorem memWf.execAnd (h : s.memWf) (rs2 rs1 rd : BitVec 5) : AnswerWf (execAnd rs2 rs1 rd s) := by
  unfold Machine.execAnd
  grind [memWf.issue, memWf.writeRd, answerWf_next]

theorem memWf.execAddw (h : s.memWf) (rs2 rs1 rd : BitVec 5) : AnswerWf (execAddw rs2 rs1 rd s) := by
  unfold Machine.execAddw
  grind [memWf.issue, memWf.writeRd, answerWf_next]

theorem memWf.execSubw (h : s.memWf) (rs2 rs1 rd : BitVec 5) : AnswerWf (execSubw rs2 rs1 rd s) := by
  unfold Machine.execSubw
  grind [memWf.issue, memWf.writeRd, answerWf_next]

theorem memWf.execSllw (h : s.memWf) (rs2 rs1 rd : BitVec 5) : AnswerWf (execSllw rs2 rs1 rd s) := by
  unfold Machine.execSllw
  grind [memWf.issue, memWf.writeRd, answerWf_next]

theorem memWf.execSrlw (h : s.memWf) (rs2 rs1 rd : BitVec 5) : AnswerWf (execSrlw rs2 rs1 rd s) := by
  unfold Machine.execSrlw
  grind [memWf.issue, memWf.writeRd, answerWf_next]

theorem memWf.execSraw (h : s.memWf) (rs2 rs1 rd : BitVec 5) : AnswerWf (execSraw rs2 rs1 rd s) := by
  unfold Machine.execSraw
  grind [memWf.issue, memWf.writeRd, answerWf_next]

theorem memWf.execMul (h : s.memWf) (rs2 rs1 rd : BitVec 5) : AnswerWf (execMul rs2 rs1 rd s) := by
  unfold Machine.execMul
  grind [memWf.issue, memWf.writeRd, answerWf_next]

theorem memWf.execMulh (h : s.memWf) (rs2 rs1 rd : BitVec 5) : AnswerWf (execMulh rs2 rs1 rd s) := by
  unfold Machine.execMulh
  grind [memWf.issue, memWf.writeRd, answerWf_next]

theorem memWf.execMulhsu (h : s.memWf) (rs2 rs1 rd : BitVec 5) : AnswerWf (execMulhsu rs2 rs1 rd s) := by
  unfold Machine.execMulhsu
  grind [memWf.issue, memWf.writeRd, answerWf_next]

theorem memWf.execMulhu (h : s.memWf) (rs2 rs1 rd : BitVec 5) : AnswerWf (execMulhu rs2 rs1 rd s) := by
  unfold Machine.execMulhu
  grind [memWf.issue, memWf.writeRd, answerWf_next]

theorem memWf.execMulw (h : s.memWf) (rs2 rs1 rd : BitVec 5) : AnswerWf (execMulw rs2 rs1 rd s) := by
  unfold Machine.execMulw
  grind [memWf.issue, memWf.writeRd, answerWf_next]

theorem memWf.execDiv (h : s.memWf) (rs2 rs1 rd : BitVec 5) : AnswerWf (execDiv rs2 rs1 rd s) := by
  unfold Machine.execDiv
  grind [memWf.issue, memWf.divide, answerWf_next]

theorem memWf.execDivu (h : s.memWf) (rs2 rs1 rd : BitVec 5) : AnswerWf (execDivu rs2 rs1 rd s) := by
  unfold Machine.execDivu
  grind [memWf.issue, memWf.divide, answerWf_next]

theorem memWf.execRem (h : s.memWf) (rs2 rs1 rd : BitVec 5) : AnswerWf (execRem rs2 rs1 rd s) := by
  unfold Machine.execRem
  grind [memWf.issue, memWf.divide, answerWf_next]

theorem memWf.execRemu (h : s.memWf) (rs2 rs1 rd : BitVec 5) : AnswerWf (execRemu rs2 rs1 rd s) := by
  unfold Machine.execRemu
  grind [memWf.issue, memWf.divide, answerWf_next]

theorem memWf.execDivw (h : s.memWf) (rs2 rs1 rd : BitVec 5) : AnswerWf (execDivw rs2 rs1 rd s) := by
  unfold Machine.execDivw
  grind [memWf.issue, memWf.divide, answerWf_next]

theorem memWf.execDivuw (h : s.memWf) (rs2 rs1 rd : BitVec 5) : AnswerWf (execDivuw rs2 rs1 rd s) := by
  unfold Machine.execDivuw
  grind [memWf.issue, memWf.divide, answerWf_next]

theorem memWf.execRemw (h : s.memWf) (rs2 rs1 rd : BitVec 5) : AnswerWf (execRemw rs2 rs1 rd s) := by
  unfold Machine.execRemw
  grind [memWf.issue, memWf.divide, answerWf_next]

theorem memWf.execRemuw (h : s.memWf) (rs2 rs1 rd : BitVec 5) : AnswerWf (execRemuw rs2 rs1 rd s) := by
  unfold Machine.execRemuw
  grind [memWf.issue, memWf.divide, answerWf_next]

theorem memWf.execDivideComplete (h : s.memWf) (core op : Nat) : AnswerWf (execDivideComplete core op s) := by
  unfold Machine.execDivideComplete
  grind [memWf_iff, memWf.modCore, memWf.fillNow, answerWf_next]

theorem memWf.execJal (h : s.memWf) (imm : BitVec 20) (rd : BitVec 5) : AnswerWf (execJal imm rd s) := by
  unfold Machine.execJal
  grind [memWf.issue, memWf.jumpTo, answerWf_next]

theorem memWf.execJalr (h : s.memWf) (imm : BitVec 12) (rs1 rd : BitVec 5) : AnswerWf (execJalr imm rs1 rd s) := by
  unfold Machine.execJalr
  grind [memWf.issue, memWf.jumpTo, answerWf_next]

theorem memWf.execBeq (h : s.memWf) (immHi : BitVec 7) (rs2 rs1 immLo : BitVec 5) : AnswerWf (execBeq immHi rs2 rs1 immLo s) := by
  unfold Machine.execBeq
  grind [memWf.issue, memWf.branch, answerWf_next]

theorem memWf.execBne (h : s.memWf) (immHi : BitVec 7) (rs2 rs1 immLo : BitVec 5) : AnswerWf (execBne immHi rs2 rs1 immLo s) := by
  unfold Machine.execBne
  grind [memWf.issue, memWf.branch, answerWf_next]

theorem memWf.execBlt (h : s.memWf) (immHi : BitVec 7) (rs2 rs1 immLo : BitVec 5) : AnswerWf (execBlt immHi rs2 rs1 immLo s) := by
  unfold Machine.execBlt
  grind [memWf.issue, memWf.branch, answerWf_next]

theorem memWf.execBge (h : s.memWf) (immHi : BitVec 7) (rs2 rs1 immLo : BitVec 5) : AnswerWf (execBge immHi rs2 rs1 immLo s) := by
  unfold Machine.execBge
  grind [memWf.issue, memWf.branch, answerWf_next]

theorem memWf.execBltu (h : s.memWf) (immHi : BitVec 7) (rs2 rs1 immLo : BitVec 5) : AnswerWf (execBltu immHi rs2 rs1 immLo s) := by
  unfold Machine.execBltu
  grind [memWf.issue, memWf.branch, answerWf_next]

theorem memWf.execBgeu (h : s.memWf) (immHi : BitVec 7) (rs2 rs1 immLo : BitVec 5) : AnswerWf (execBgeu immHi rs2 rs1 immLo s) := by
  unfold Machine.execBgeu
  grind [memWf.issue, memWf.branch, answerWf_next]

theorem memWf.execEcall (h : s.memWf) : AnswerWf (execEcall s) := by
  unfold Machine.execEcall
  grind [Act.memWf_trap, memWf.issue, answerWf_next]

theorem memWf.execEbreak (h : s.memWf) : AnswerWf (execEbreak s) := by
  unfold Machine.execEbreak
  grind [memWf_iff, Act.memWf_trap, memWf.issue, answerWf_next]

theorem memWf.execIllegalWord (h : s.memWf) (word : BitVec 32) : AnswerWf (execIllegalWord word s) := by
  unfold Machine.execIllegalWord
  grind [memWf_iff, memWf.trap, answerWf_next]

/-! ## Machine/Stream -/

theorem memWf.advanceStream (h : s.memWf) (n : Nat) : (advanceStream n s).memWf := by
  unfold Machine.advanceStream
  grind [memWf_iff, memWf.modMe]

theorem memWf.closedTrap (h : s.memWf) : (closedTrap s).memWf := by
  unfold Machine.closedTrap
  grind [Act.memWf_trap]

theorem memWf.streamRead (h : s.memWf) {after : State → State} (ha : ∀ u : State, u.memWf → (after u).memWf) (n : Nat) (rd : BitVec 5) :
    (streamRead n rd after s).memWf := by
  unfold Machine.streamRead
  extract_lets b p e bytes k
  have hk : k.memWf := ha _ (h.setX ..)
  clear_value k bytes
  split
  · exact h
  · split
    · exact hk
    · exact h.localAccess hk ..

theorem memWf.execBget (h : s.memWf) (nHi : BitVec 1) (nLo rd : BitVec 5) : AnswerWf (execBget nHi nLo rd s) := by
  unfold Machine.execBget
  grind [memWf.issue, memWf.streamRead, memWf.advanceStream, answerWf_next]

theorem memWf.execBpeek (h : s.memWf) (nHi : BitVec 1) (nLo rd : BitVec 5) : AnswerWf (execBpeek nHi nLo rd s) := by
  unfold Machine.execBpeek
  grind [memWf.issue, memWf.streamRead, answerWf_next]

theorem memWf.execBskip (h : s.memWf) (nHi : BitVec 1) (nLo : BitVec 5) : AnswerWf (execBskip nHi nLo s) := by
  unfold Machine.execBskip
  grind [Act.memWf_done, memWf.issue, memWf.closedTrap, memWf.advanceStream, answerWf_next]

theorem memWf.execBsopen (h : s.memWf) (order : BitVec 1) (rs2 rs1 : BitVec 5) : AnswerWf (execBsopen order rs2 rs1 s) := by
  unfold Machine.execBsopen
  grind [memWf_iff, Act.memWf_done, Act.memWf_trap, memWf.issue, memWf.modMe, answerWf_next]

theorem memWf.execBalign (h : s.memWf) : AnswerWf (execBalign s) := by
  unfold Machine.execBalign
  grind [memWf_iff, Act.memWf_done, memWf.issue, memWf.closedTrap, memWf.modMe, answerWf_next]

theorem memWf.execBlzc (h : s.memWf) (rs2 rs1 rd : BitVec 5) : AnswerWf (execBlzc rs2 rs1 rd s) := by
  unfold Machine.execBlzc
  grind [memWf_iff, wf_blzcGroupOf, memWf.modHere', Act.memWf_done, Act.memWf_hold, Act.memWf_park, Act.memWf_trap, memWf.issue, memWf.modHere,
    memWf.modMe, answerWf_next]

theorem memWf.execBlzcGroup (h : s.memWf) (core : Nat) : AnswerWf (execBlzcGroup core s) := by
  unfold Machine.execBlzcGroup
  grind [memWf_iff, wf_blzcGroupOf, memWf.modCore', memWf.modCore, answerWf_next]

/-! ## Machine/Tile -/

theorem memWf.tileTrap (h : s.memWf) (reason detail : Nat) : (tileTrap s reason detail).memWf := by
  unfold Machine.tileTrap
  grind [Act.memWf_trap]

theorem memWf.tileAccess (h : s.memWf) {k : Act} (hk : k.memWf) (write : Bool) (ps : List Piece) : (tileAccess s write ps k).memWf := by
  unfold Machine.tileAccess
  have hl : (Machine.localAccess s write (ps.flatMap (·.bytes)) (.done s)).memWf := h.localAccess (k := .done s) h ..
  generalize Machine.localAccess s write (ps.flatMap (·.bytes)) (.done s) = x at hl
  split
  · exact h
  · split
    · split
      · exact h
      · exact hk
    · exact hl

theorem memWf.advance (h : s.memWf) (n : Nat) : (s.advance n).memWf := by
  unfold State.advance
  grind [memWf_iff, memWf.modMe]

theorem memWf.execAsset (h : s.memWf) (field : BitVec 2) (rs1 : BitVec 5) (as : BitVec 2) : AnswerWf (execAsset field rs1 as s) := by
  unfold Machine.execAsset
  grind [memWf_iff, Act.memWf_done, memWf.issue, memWf.modMe, answerWf_next]

theorem memWf.mldBody (h : s.memWf) {after : State → State} (ha : ∀ u : State, u.memWf → (after u).memWf) (md : Nat) (a : Word) :
    (mldBody md a after s).memWf := by
  unfold Machine.mldBody
  extract_lets g t ps
  clear_value g t ps
  split
  · exact h.tileTrap ..
  · split
    · exact h.tileTrap ..
    · split
      · exact h.tileTrap ..
      · exact h.tileAccess (k := .done _) (ha _ (h.startTransfer ..)) ..

theorem memWf.execMldAddr (h : s.memWf) (rs1 : BitVec 5) (md : BitVec 3) : AnswerWf (execMldAddr rs1 md s) := by
  unfold Machine.execMldAddr
  grind [memWf.issue, memWf.mldBody, answerWf_next]

theorem memWf.execMldStream (h : s.memWf) (as : BitVec 2) (md : BitVec 3) : AnswerWf (execMldStream as md s) := by
  unfold Machine.execMldStream
  grind [memWf.issue, memWf.mldBody, memWf.advance, answerWf_next]

theorem memWf.mstBody (h : s.memWf) {after : State → State} (ha : ∀ u : State, u.memWf → (after u).memWf) (rm : BitVec 3) (sat : BitVec 1) (fmt : BitVec 4)
    (cs : Nat) (a : Word) : (mstBody rm sat fmt cs a after s).memWf := by
  unfold Machine.mstBody
  extract_lets g n r mx f mode
  clear_value g n r mx f mode
  split
  · exact h.tileTrap ..
  · split
    · exact h.tileTrap ..
    · split
      exact h.tileAccess (k := .done _) (ha _ ((((h.startTransfer ..).orFlags ..).useDraw ..).modMe ..)) ..

theorem memWf.execMstAddr (h : s.memWf) (rm : BitVec 3) (sat : BitVec 1) (fmt : BitVec 4) (rs1 : BitVec 5) (cs : BitVec 2) :
    AnswerWf (execMstAddr rm sat fmt rs1 cs s) := by
  unfold Machine.execMstAddr
  grind [memWf.issue, memWf.mstBody, answerWf_next]

theorem memWf.execMstStream (h : s.memWf) (rm : BitVec 3) (sat : BitVec 1) (fmt : BitVec 4) (as cs : BitVec 2) :
    AnswerWf (execMstStream rm sat fmt as cs s) := by
  unfold Machine.execMstStream
  grind [memWf.issue, memWf.mstBody, memWf.advance, answerWf_next]

theorem memWf.execMzero (h : s.memWf) (cd : BitVec 2) : AnswerWf (execMzero cd s) := by
  unfold Machine.execMzero
  grind [Act.memWf_done, memWf.issue, memWf.modMe, answerWf_next]

theorem memWf.execMmovv (h : s.memWf) (rm : BitVec 3) (cs : BitVec 2) (md : BitVec 3) : AnswerWf (execMmovv rm cs md s) := by
  unfold Machine.execMmovv
  grind [memWf_iff, Act.memWf_done, memWf.issue, memWf.tileTrap, memWf.modMe, memWf.useDraw, memWf.orFlags, answerWf_next]

theorem memWf.dotBody (h : s.memWf) (ints : Bool) (mb ma : BitVec 3) (cd : BitVec 2) : (dotBody ints mb ma cd s).memWf := by
  unfold Machine.dotBody
  grind [memWf_iff, count_ls, Act.memWf_done, Act.memWf_hold, memWf.tileTrap, memWf.count, memWf.modHere]

theorem memWf.execMdot (h : s.memWf) (mb ma : BitVec 3) (cd : BitVec 2) : AnswerWf (execMdot mb ma cd s) := by
  unfold Machine.execMdot
  grind [memWf.issue, memWf.dotBody, answerWf_next]

theorem memWf.execMdots (h : s.memWf) (mb ma : BitVec 3) (cd : BitVec 2) : AnswerWf (execMdots mb ma cd s) := by
  unfold Machine.execMdots
  grind [memWf.issue, memWf.dotBody, answerWf_next]

theorem memWf.execMdotComplete (h : s.memWf) (core : Nat) : AnswerWf (execMdotComplete core s) := by
  unfold Machine.execMdotComplete
  grind [memWf_iff, memWf.modCore, memWf.modSlot, memWf.becomeEmpty, answerWf_next]

theorem memWf.execRpt (h : s.memWf) (lenm1 : BitVec 3) (rs1 : BitVec 5) : AnswerWf (execRpt lenm1 rs1 s) := by
  unfold Machine.execRpt
  grind [memWf_iff, Act.memWf_done, Act.memWf_jump, memWf.issue, memWf.modMe, answerWf_next]

/-! ## Machine/Vector -/

theorem memWf.putElems (h : s.memWf) (rd : BitVec 5) (ty : BitVec 3) (rs : List (Nat × Nat)) : (putElems s rd ty rs).memWf := by
  unfold Machine.putElems
  grind [Act.memWf_done, memWf.orFlags, memWf.setV]

theorem memWf.elem2 (h : s.memWf) (ty : BitVec 3) (rs2 rs1 rd : BitVec 5) (op : Nat → Nat → Nat × Nat) : (elem2 s ty rs2 rs1 rd op).memWf := by
  unfold Machine.elem2
  grind [memWf.putElems]

theorem memWf.elem1 (h : s.memWf) (ty : BitVec 3) (rs1 rd : BitVec 5) (op : Nat → Nat × Nat) : (elem1 s ty rs1 rd op).memWf := by
  unfold Machine.elem1
  grind [memWf.putElems]

theorem memWf.execVadd (h : s.memWf) (rs2 rs1 : BitVec 5) (ty : BitVec 3) (rd : BitVec 5) : AnswerWf (execVadd rs2 rs1 ty rd s) := by
  unfold Machine.execVadd
  grind [memWf.issue, memWf.elem2, answerWf_next]

theorem memWf.execVsub (h : s.memWf) (rs2 rs1 : BitVec 5) (ty : BitVec 3) (rd : BitVec 5) : AnswerWf (execVsub rs2 rs1 ty rd s) := by
  unfold Machine.execVsub
  grind [memWf.issue, memWf.elem2, answerWf_next]

theorem memWf.execVmul (h : s.memWf) (rs2 rs1 : BitVec 5) (ty : BitVec 3) (rd : BitVec 5) : AnswerWf (execVmul rs2 rs1 ty rd s) := by
  unfold Machine.execVmul
  grind [memWf.issue, memWf.elem2, answerWf_next]

theorem memWf.execVmin (h : s.memWf) (rs2 rs1 : BitVec 5) (ty : BitVec 3) (rd : BitVec 5) : AnswerWf (execVmin rs2 rs1 ty rd s) := by
  unfold Machine.execVmin
  grind [memWf.issue, memWf.elem2, answerWf_next]

theorem memWf.execVmax (h : s.memWf) (rs2 rs1 : BitVec 5) (ty : BitVec 3) (rd : BitVec 5) : AnswerWf (execVmax rs2 rs1 ty rd s) := by
  unfold Machine.execVmax
  grind [memWf.issue, memWf.elem2, answerWf_next]

theorem memWf.execVabs (h : s.memWf) (rs1 : BitVec 5) (ty : BitVec 3) (rd : BitVec 5) : AnswerWf (execVabs rs1 ty rd s) := by
  unfold Machine.execVabs
  grind [memWf.issue, memWf.elem1, answerWf_next]

theorem memWf.execVneg (h : s.memWf) (rs1 : BitVec 5) (ty : BitVec 3) (rd : BitVec 5) : AnswerWf (execVneg rs1 ty rd s) := by
  unfold Machine.execVneg
  grind [memWf.issue, memWf.elem1, answerWf_next]

theorem memWf.execVcmpeq (h : s.memWf) (rs2 rs1 : BitVec 5) (ty : BitVec 3) (rd : BitVec 5) : AnswerWf (execVcmpeq rs2 rs1 ty rd s) := by
  unfold Machine.execVcmpeq
  grind [memWf.issue, memWf.elem2, answerWf_next]

theorem memWf.execVcmplt (h : s.memWf) (rs2 rs1 : BitVec 5) (ty : BitVec 3) (rd : BitVec 5) : AnswerWf (execVcmplt rs2 rs1 ty rd s) := by
  unfold Machine.execVcmplt
  grind [memWf.issue, memWf.elem2, answerWf_next]

theorem memWf.execVcmple (h : s.memWf) (rs2 rs1 : BitVec 5) (ty : BitVec 3) (rd : BitVec 5) : AnswerWf (execVcmple rs2 rs1 ty rd s) := by
  unfold Machine.execVcmple
  grind [memWf.issue, memWf.elem2, answerWf_next]

theorem memWf.execVand (h : s.memWf) (rs2 rs1 rd : BitVec 5) : AnswerWf (execVand rs2 rs1 rd s) := by
  unfold Machine.execVand
  grind [Act.memWf_done, memWf.issue, memWf.setV, answerWf_next]

theorem memWf.execVor (h : s.memWf) (rs2 rs1 rd : BitVec 5) : AnswerWf (execVor rs2 rs1 rd s) := by
  unfold Machine.execVor
  grind [Act.memWf_done, memWf.issue, memWf.setV, answerWf_next]

theorem memWf.execVxor (h : s.memWf) (rs2 rs1 rd : BitVec 5) : AnswerWf (execVxor rs2 rs1 rd s) := by
  unfold Machine.execVxor
  grind [Act.memWf_done, memWf.issue, memWf.setV, answerWf_next]

theorem memWf.execVnot (h : s.memWf) (rs1 rd : BitVec 5) : AnswerWf (execVnot rs1 rd s) := by
  unfold Machine.execVnot
  grind [Act.memWf_done, memWf.issue, memWf.setV, answerWf_next]

theorem memWf.execVsll (h : s.memWf) (rs2 rs1 : BitVec 5) (ty : BitVec 3) (rd : BitVec 5) : AnswerWf (execVsll rs2 rs1 ty rd s) := by
  unfold Machine.execVsll
  grind [memWf.issue, memWf.elem2, answerWf_next]

theorem memWf.execVsrl (h : s.memWf) (rs2 rs1 : BitVec 5) (ty : BitVec 3) (rd : BitVec 5) : AnswerWf (execVsrl rs2 rs1 ty rd s) := by
  unfold Machine.execVsrl
  grind [memWf.issue, memWf.elem2, answerWf_next]

theorem memWf.execVsra (h : s.memWf) (rs2 rs1 : BitVec 5) (ty : BitVec 3) (rd : BitVec 5) : AnswerWf (execVsra rs2 rs1 ty rd s) := by
  unfold Machine.execVsra
  grind [memWf.issue, memWf.elem2, answerWf_next]

theorem memWf.execVfma (h : s.memWf) (rs3 rs2 rs1 : BitVec 5) (ty : BitVec 3) (rd : BitVec 5) : AnswerWf (execVfma rs3 rs2 rs1 ty rd s) := by
  unfold Machine.execVfma
  grind [memWf.issue, memWf.putElems, answerWf_next]

theorem memWf.execVsel (h : s.memWf) (rs3 rs2 rs1 : BitVec 5) (ty : BitVec 3) (rd : BitVec 5) : AnswerWf (execVsel rs3 rs2 rs1 ty rd s) := by
  unfold Machine.execVsel
  grind [Act.memWf_done, memWf.issue, memWf.setV, memWf.putElems, answerWf_next]

theorem memWf.longOp (h : s.memWf) (f : RFile) (rd : BitVec 5) (result : BitVec 2048) (holdFor fillAfter : Nat) :
    (longOp f rd result holdFor fillAfter s).memWf := by
  unfold Machine.longOp
  grind [memWf_iff, Act.memWf_done, memWf.withClaim, memWf.modHere, answerWf_next]

theorem memWf.execVexp2 (h : s.memWf) (rs1 : BitVec 5) (ty : BitVec 3) (rd : BitVec 5) : AnswerWf (execVexp2 rs1 ty rd s) := by
  unfold Machine.execVexp2
  grind [memWf.issue, memWf.longOp, answerWf_next]

theorem memWf.execVlog2 (h : s.memWf) (rs1 : BitVec 5) (ty : BitVec 3) (rd : BitVec 5) : AnswerWf (execVlog2 rs1 ty rd s) := by
  unfold Machine.execVlog2
  grind [memWf.issue, memWf.longOp, answerWf_next]

theorem memWf.execVrcp (h : s.memWf) (rs1 : BitVec 5) (ty : BitVec 3) (rd : BitVec 5) : AnswerWf (execVrcp rs1 ty rd s) := by
  unfold Machine.execVrcp
  grind [memWf.issue, memWf.longOp, answerWf_next]

theorem memWf.execVrsq (h : s.memWf) (rs1 : BitVec 5) (ty : BitVec 3) (rd : BitVec 5) : AnswerWf (execVrsq rs1 ty rd s) := by
  unfold Machine.execVrsq
  grind [memWf.issue, memWf.longOp, answerWf_next]

theorem memWf.execVredsum (h : s.memWf) (rs1 : BitVec 5) (ty : BitVec 3) (rd : BitVec 5) : AnswerWf (execVredsum rs1 ty rd s) := by
  unfold Machine.execVredsum
  grind [memWf.issue, memWf.longOp, answerWf_next]

theorem memWf.execVredmax (h : s.memWf) (rs1 : BitVec 5) (ty : BitVec 3) (rd : BitVec 5) : AnswerWf (execVredmax rs1 ty rd s) := by
  unfold Machine.execVredmax
  grind [memWf.issue, memWf.longOp, answerWf_next]

theorem memWf.execVredmin (h : s.memWf) (rs1 : BitVec 5) (ty : BitVec 3) (rd : BitVec 5) : AnswerWf (execVredmin rs1 ty rd s) := by
  unfold Machine.execVredmin
  grind [memWf.issue, memWf.longOp, answerWf_next]

theorem memWf.execVectorStageEnter (h : s.memWf) (core : Nat) : AnswerWf (execVectorStageEnter core s) := by
  unfold Machine.execVectorStageEnter
  grind [memWf_iff, memWf.modCore, answerWf_next]

theorem memWf.execVectorLongComplete (h : s.memWf) (core : Nat) : AnswerWf (execVectorLongComplete core s) := by
  unfold Machine.execVectorLongComplete
  grind [memWf_iff, memWf.deliverAt, memWf.modCore, answerWf_next]

theorem memWf.vecAccess (h : s.memWf) (write : Bool) (us : List VUnit) (kind : TransferKind) : (vecAccess s write us kind).memWf := by
  unfold Machine.vecAccess
  grind [Act.memWf_done, Act.memWf_hold, Act.memWf_trap, memWf.localAccess, memWf.startTransfer]

theorem memWf.vecLoad (h : s.memWf) (vd : BitVec 5) (us : List VUnit) : (vecLoad s vd us).memWf := by
  unfold Machine.vecLoad
  grind [memWf.vecAccess]

theorem memWf.vecStore (h : s.memWf) (vs : BitVec 5) (us : List VUnit) : (vecStore s vs us).memWf := by
  unfold Machine.vecStore
  grind [memWf.vecAccess]

theorem memWf.execVld (h : s.memWf) (rs1 rd : BitVec 5) : AnswerWf (execVld rs1 rd s) := by
  unfold Machine.execVld
  grind [memWf.issue, memWf.vecLoad, answerWf_next]

theorem memWf.execVst (h : s.memWf) (rs1 rd : BitVec 5) : AnswerWf (execVst rs1 rd s) := by
  unfold Machine.execVst
  grind [memWf.issue, memWf.vecStore, answerWf_next]

theorem memWf.execVlds (h : s.memWf) (rs2 rs1 rd : BitVec 5) : AnswerWf (execVlds rs2 rs1 rd s) := by
  unfold Machine.execVlds
  grind [memWf.issue, memWf.vecLoad, answerWf_next]

theorem memWf.execVsts (h : s.memWf) (rs2 rs1 rd : BitVec 5) : AnswerWf (execVsts rs2 rs1 rd s) := by
  unfold Machine.execVsts
  grind [memWf.issue, memWf.vecStore, answerWf_next]

theorem memWf.execVgath (h : s.memWf) (rs2 rs1 : BitVec 5) (ty : BitVec 3) (rd : BitVec 5) : AnswerWf (execVgath rs2 rs1 ty rd s) := by
  unfold Machine.execVgath
  grind [memWf.issue, memWf.vecLoad, answerWf_next]

theorem memWf.execVscat (h : s.memWf) (rs2 rs1 : BitVec 5) (ty : BitVec 3) (rd : BitVec 5) : AnswerWf (execVscat rs2 rs1 ty rd s) := by
  unfold Machine.execVscat
  grind [memWf.issue, memWf.vecStore, answerWf_next]

theorem memWf.execVperm (h : s.memWf) (rs2 rs1 : BitVec 5) (ty : BitVec 3) (rd : BitVec 5) : AnswerWf (execVperm rs2 rs1 ty rd s) := by
  unfold Machine.execVperm
  grind [Act.memWf_done, memWf.issue, memWf.setV, answerWf_next]

theorem memWf.execVbcast (h : s.memWf) (rs2 rs1 : BitVec 5) (ty : BitVec 3) (rd : BitVec 5) : AnswerWf (execVbcast rs2 rs1 ty rd s) := by
  unfold Machine.execVbcast
  grind [Act.memWf_done, memWf.issue, memWf.setV, answerWf_next]

theorem memWf.execVslup (h : s.memWf) (rs2 rs1 : BitVec 5) (ty : BitVec 3) (rd : BitVec 5) : AnswerWf (execVslup rs2 rs1 ty rd s) := by
  unfold Machine.execVslup
  grind [Act.memWf_done, memWf.issue, memWf.setV, answerWf_next]

theorem memWf.execVsldn (h : s.memWf) (rs2 rs1 : BitVec 5) (ty : BitVec 3) (rd : BitVec 5) : AnswerWf (execVsldn rs2 rs1 ty rd s) := by
  unfold Machine.execVsldn
  grind [Act.memWf_done, memWf.issue, memWf.setV, answerWf_next]

theorem memWf.execVsplat (h : s.memWf) (rs1 : BitVec 5) (ty : BitVec 3) (rd : BitVec 5) : AnswerWf (execVsplat rs1 ty rd s) := by
  unfold Machine.execVsplat
  grind [Act.memWf_done, memWf.issue, memWf.setV, answerWf_next]

theorem memWf.execVins (h : s.memWf) (rs2 rs1 : BitVec 5) (ty : BitVec 3) (rd : BitVec 5) : AnswerWf (execVins rs2 rs1 ty rd s) := by
  unfold Machine.execVins
  grind [Act.memWf_done, memWf.issue, memWf.setV, answerWf_next]

theorem memWf.execVext (h : s.memWf) (rs2 rs1 : BitVec 5) (ty : BitVec 3) (rd : BitVec 5) : AnswerWf (execVext rs2 rs1 ty rd s) := by
  unfold Machine.execVext
  grind [Act.memWf_done, memWf.issue, memWf.setX, answerWf_next]

theorem memWf.execVcvt (h : s.memWf) (src : BitVec 4) (rm : BitVec 3) (sat : BitVec 1) (dst : BitVec 4) (vs1 vd : BitVec 5) :
    AnswerWf (execVcvt src rm sat dst vs1 vd s) := by
  unfold Machine.execVcvt
  grind [Act.memWf_done, memWf.issue, memWf.setV, memWf.useDraw, memWf.orFlags, answerWf_next]

theorem memWf.execVqmx (h : s.memWf) (rm : BitVec 3) (fmt : BitVec 4) (vs1 vd : BitVec 5) : AnswerWf (execVqmx rm fmt vs1 vd s) := by
  unfold Machine.execVqmx
  grind [Act.memWf_done, memWf.issue, memWf.setV, memWf.useDraw, memWf.orFlags, answerWf_next]

theorem memWf.execVdqmx (h : s.memWf) (fmt : BitVec 4) (vs1 vd : BitVec 5) : AnswerWf (execVdqmx fmt vs1 vd s) := by
  unfold Machine.execVdqmx
  grind [Act.memWf_done, memWf.issue, memWf.orFlags, memWf.setV, answerWf_next]

/-! ## Machine/Dispatch -/

theorem memWf.exec (h : s.memWf) (i : Instr) : AnswerWf (exec i s) := by
  cases i with
  | lui => exact h.execLui _ _
  | auipc => exact h.execAuipc _ _
  | jal => exact h.execJal _ _
  | jalr => exact h.execJalr _ _ _
  | beq => exact h.execBeq _ _ _ _
  | bne => exact h.execBne _ _ _ _
  | blt => exact h.execBlt _ _ _ _
  | bge => exact h.execBge _ _ _ _
  | bltu => exact h.execBltu _ _ _ _
  | bgeu => exact h.execBgeu _ _ _ _
  | lb => exact h.execLb _ _ _
  | lh => exact h.execLh _ _ _
  | lw => exact h.execLw _ _ _
  | ld => exact h.execLd _ _ _
  | lbu => exact h.execLbu _ _ _
  | lhu => exact h.execLhu _ _ _
  | lwu => exact h.execLwu _ _ _
  | sb => exact h.execSb _ _ _ _
  | sh => exact h.execSh _ _ _ _
  | sw => exact h.execSw _ _ _ _
  | sd => exact h.execSd _ _ _ _
  | addi => exact h.execAddi _ _ _
  | slti => exact h.execSlti _ _ _
  | sltiu => exact h.execSltiu _ _ _
  | xori => exact h.execXori _ _ _
  | ori => exact h.execOri _ _ _
  | andi => exact h.execAndi _ _ _
  | slli => exact h.execSlli _ _ _
  | srli => exact h.execSrli _ _ _
  | srai => exact h.execSrai _ _ _
  | addiw => exact h.execAddiw _ _ _
  | slliw => exact h.execSlliw _ _ _
  | srliw => exact h.execSrliw _ _ _
  | sraiw => exact h.execSraiw _ _ _
  | add => exact h.execAdd _ _ _
  | sub => exact h.execSub _ _ _
  | sll => exact h.execSll _ _ _
  | slt => exact h.execSlt _ _ _
  | sltu => exact h.execSltu _ _ _
  | xor => exact h.execXor _ _ _
  | srl => exact h.execSrl _ _ _
  | sra => exact h.execSra _ _ _
  | or => exact h.execOr _ _ _
  | and => exact h.execAnd _ _ _
  | addw => exact h.execAddw _ _ _
  | subw => exact h.execSubw _ _ _
  | sllw => exact h.execSllw _ _ _
  | srlw => exact h.execSrlw _ _ _
  | sraw => exact h.execSraw _ _ _
  | mul => exact h.execMul _ _ _
  | mulh => exact h.execMulh _ _ _
  | mulhsu => exact h.execMulhsu _ _ _
  | mulhu => exact h.execMulhu _ _ _
  | mulw => exact h.execMulw _ _ _
  | div => exact h.execDiv _ _ _
  | divu => exact h.execDivu _ _ _
  | rem => exact h.execRem _ _ _
  | remu => exact h.execRemu _ _ _
  | divw => exact h.execDivw _ _ _
  | divuw => exact h.execDivuw _ _ _
  | remw => exact h.execRemw _ _ _
  | remuw => exact h.execRemuw _ _ _
  | fence => exact h.execFence _ _ _
  | ecall => exact h.execEcall
  | ebreak => exact h.execEbreak
  | csrrw => exact h.execCsrrw _ _ _
  | csrrs => exact h.execCsrrs _ _ _
  | csrrc => exact h.execCsrrc _ _ _
  | csrrwi => exact h.execCsrrwi _ _ _
  | csrrsi => exact h.execCsrrsi _ _ _
  | csrrci => exact h.execCsrrci _ _ _
  | lr => exact h.execLr _ _ _ _ _
  | sc => exact h.execSc _ _ _ _ _ _
  | amoswap => exact h.execAmoswap _ _ _ _ _ _
  | amoadd => exact h.execAmoadd _ _ _ _ _ _
  | amoxor => exact h.execAmoxor _ _ _ _ _ _
  | amoand => exact h.execAmoand _ _ _ _ _ _
  | amoor => exact h.execAmoor _ _ _ _ _ _
  | amomin => exact h.execAmomin _ _ _ _ _ _
  | amomax => exact h.execAmomax _ _ _ _ _ _
  | amominu => exact h.execAmominu _ _ _ _ _ _
  | amomaxu => exact h.execAmomaxu _ _ _ _ _ _
  | fstat => exact h.execFstat _ _ _
  | mvf => exact h.execMvf _ _ _
  | fwait => exact h.execFwait _ _
  | waitany => exact h.execWaitany _ _
  | fdrop => exact h.execFdrop _ _
  | fpoison => exact h.execFpoison _ _ _
  | lacq => exact h.execLacq _ _ _
  | lacqw => exact h.execLacqw _ _ _
  | srel => exact h.execSrel _ _ _
  | srelw => exact h.execSrelw _ _ _
  | fences => exact h.execFences _ _ _
  | owne => exact h.execOwne _
  | ownt => exact h.execOwnt _
  | ownq => exact h.execOwnq _ _
  | binit => exact h.execBinit _ _ _
  | barv => exact h.execBarv _ _
  | bexp => exact h.execBexp _ _ _
  | bwait => exact h.execBwait _ _ _ _
  | bquery => exact h.execBquery _ _ _
  | qpush => exact h.execQpush _ _
  | qpop => exact h.execQpop _ _
  | qlen => exact h.execQlen _ _
  | block => exact h.execBlock _
  | bunlock => exact h.execBunlock _
  | mldAddr => exact h.execMldAddr _ _
  | mldStream => exact h.execMldStream _ _
  | mstAddr => exact h.execMstAddr _ _ _ _ _
  | mstStream => exact h.execMstStream _ _ _ _ _
  | mzero => exact h.execMzero _
  | mmovv => exact h.execMmovv _ _ _
  | mdot => exact h.execMdot _ _ _
  | mdots => exact h.execMdots _ _ _
  | asset => exact h.execAsset _ _ _
  | rpt => exact h.execRpt _ _
  | cpw => exact h.execCpw _ _ _
  | cpr => exact h.execCpr _ _ _
  | cpgo => exact h.execCpgo _ _
  | cpcancel => exact h.execCpcancel _
  | mcfree => exact h.execMcfree _
  | tdisc => exact h.execTdisc _ _ _
  | lpin => exact h.execLpin _ _
  | lunpin => exact h.execLunpin _ _
  | rprobe => exact h.execRprobe _ _
  | rloadt => exact h.execRloadt _ _
  | rsplit => exact h.execRsplit _ _ _
  | rmerge => exact h.execRmerge _ _
  | rsetres => exact h.execRsetres _ _
  | rclrres => exact h.execRclrres _ _
  | rinv => exact h.execRinv _ _ _ _
  | rglean => exact h.execRglean _ _ _
  | vadd => exact h.execVadd _ _ _ _
  | vsub => exact h.execVsub _ _ _ _
  | vmul => exact h.execVmul _ _ _ _
  | vmin => exact h.execVmin _ _ _ _
  | vmax => exact h.execVmax _ _ _ _
  | vabs => exact h.execVabs _ _ _
  | vneg => exact h.execVneg _ _ _
  | vcmpeq => exact h.execVcmpeq _ _ _ _
  | vcmplt => exact h.execVcmplt _ _ _ _
  | vcmple => exact h.execVcmple _ _ _ _
  | vand => exact h.execVand _ _ _
  | vor => exact h.execVor _ _ _
  | vxor => exact h.execVxor _ _ _
  | vnot => exact h.execVnot _ _
  | vsll => exact h.execVsll _ _ _ _
  | vsrl => exact h.execVsrl _ _ _ _
  | vsra => exact h.execVsra _ _ _ _
  | vexp2 => exact h.execVexp2 _ _ _
  | vlog2 => exact h.execVlog2 _ _ _
  | vrcp => exact h.execVrcp _ _ _
  | vrsq => exact h.execVrsq _ _ _
  | vredsum => exact h.execVredsum _ _ _
  | vredmax => exact h.execVredmax _ _ _
  | vredmin => exact h.execVredmin _ _ _
  | vld => exact h.execVld _ _
  | vst => exact h.execVst _ _
  | vlds => exact h.execVlds _ _ _
  | vsts => exact h.execVsts _ _ _
  | vgath => exact h.execVgath _ _ _ _
  | vscat => exact h.execVscat _ _ _ _
  | vperm => exact h.execVperm _ _ _ _
  | vbcast => exact h.execVbcast _ _ _ _
  | vslup => exact h.execVslup _ _ _ _
  | vsldn => exact h.execVsldn _ _ _ _
  | vsplat => exact h.execVsplat _ _ _
  | vins => exact h.execVins _ _ _ _
  | vext => exact h.execVext _ _ _ _
  | vfma => exact h.execVfma _ _ _ _ _
  | vsel => exact h.execVsel _ _ _ _ _
  | vcvt => exact h.execVcvt _ _ _ _ _ _
  | vqmx => exact h.execVqmx _ _ _ _
  | vdqmx => exact h.execVdqmx _ _ _
  | spawn => exact h.execSpawn _ _
  | done => exact h.execDone
  | yield => exact h.execYield
  | send => exact h.execSend _ _ _
  | sendt => exact h.execSendt _ _ _
  | recvf => exact h.execRecvf _
  | timerf => exact h.execTimerf _ _
  | specb => exact h.execSpecb
  | specc => exact h.execSpecc
  | speca => exact h.execSpeca
  | bget => exact h.execBget _ _ _
  | bpeek => exact h.execBpeek _ _ _
  | bskip => exact h.execBskip _ _
  | bsopen => exact h.execBsopen _ _ _
  | balign => exact h.execBalign
  | blzc => exact h.execBlzc _ _ _
  | tresume => exact h.execTresume _
  | tkill => exact h.execTkill _
  | swapctx => exact h.execSwapctx _ _ _
  | loadctx => exact h.execLoadctx _ _ _
  | hdone => exact h.execHdone
  | rtrd => exact h.execRtrd _ _
  | rtwr => exact h.execRtwr _ _
  | parkLimit => exact h.execParkLimit _ _
  | icacheFill => exact h.execIcacheFill _
  | claimDelivery => exact h.execClaimDelivery _ _
  | divideComplete => exact h.execDivideComplete _ _
  | vectorStageEnter => exact h.execVectorStageEnter _
  | vectorLongComplete => exact h.execVectorLongComplete _
  | storeBufferSend => exact h.execStoreBufferSend _
  | accessHoldRelease => exact h.execAccessHoldRelease _ _
  | homeLoad => exact h.execHomeLoad _
  | homeStore => exact h.execHomeStore _
  | homeAmo => exact h.execHomeAmo _
  | storeFail => exact h.execStoreFail _
  | transferPerform => exact h.execTransferPerform _
  | mdotComplete => exact h.execMdotComplete _
  | blzcGroup => exact h.execBlzcGroup _
  | lockBreak => exact h.execLockBreak _ _
  | walk => exact h.execWalk _
  | walkFill => exact h.execWalkFill _
  | rinvAck => exact h.execRinvAck _
  | gleanUnit => exact h.execGleanUnit _
  | gleanFinish => exact h.execGleanFinish _
  | copy => exact h.execCopy _ _ _
  | redadd => exact h.execRedadd _ _ _
  | qf8 => exact h.execQf8 _ _ _
  | mxq => exact h.execMxq _ _ _
  | mcast => exact h.execMcast _ _ _
  | copyEnd => exact h.execCopyEnd _ _
  | channelResume => exact h.execChannelResume _
  | channelAbort => exact h.execChannelAbort _
  | inboundSegment => exact h.execInboundSegment _
  | mcastReceive => exact h.execMcastReceive _
  | remoteBarrierEvent => exact h.execRemoteBarrierEvent _
  | bufferFree => exact h.execBufferFree _
  | rmaSegmentSend => exact h.execRmaSegmentSend _ _
  | data => exact h.execData _ _ _ _ _ _ _ _
  | ack => exact h.execAck _ _ _ _ _
  | nackBudget chip rmod seq cumE ece => exact h.execNackBudget chip rmod seq cumE ece
  | nackRefused chip rmod seq cumE ece => exact h.execNackRefused chip rmod seq cumE ece
  | rmaTimer => exact h.execRmaTimer _ _ _
  | routerForward => exact h.execRouterForward _
  | whereProbe => exact h.execWhereProbe _ _
  | whereReflood => exact h.execWhereReflood _ _
  | hereReply => exact h.execHereReply _ _
  | unknownName => exact h.execUnknownName _
  | blocked => exact h.execBlocked _
  | moved => exact h.execMoved _
  | errorResponse => exact h.execErrorResponse _
  | greeting => exact h.execGreeting _ _ _ _
  | linkTimeout => exact h.execLinkTimeout _ _ _
  | noResponse => exact h.execNoResponse _
  | budgetPeriod => exact h.execBudgetPeriod _ _
  | bringUp => exact h.execBringUp
  | clockLock => exact h.execClockLock _ _ _
  | siteGreeted => exact h.execSiteGreeted _
  | greetTimeout => exact h.execGreetTimeout _
  | selfTestFail => exact h.execSelfTestFail _
  | configRecord => exact h.execConfigRecord _ _ _ _ _ _ _ _ _
  | configCommit => exact h.execConfigCommit _
  | sitePacket => exact h.execSitePacket _
  | jobEnd => exact h.execJobEnd _
  | baseDieError => exact h.execBaseDieError _
  | clockSwitch => exact h.execClockSwitch _
  | relockDone => exact h.execRelockDone _
  | dispatch => exact h.execDispatch _
  | sendLanding => exact h.execSendLanding _
  | sendtLanding => exact h.execSendtLanding _
  | idleSteal => exact h.execIdleSteal _
  | stealRequest => exact h.execStealRequest _
  | stealAnswer => exact h.execStealAnswer _
  | stealBackoff => exact h.execStealBackoff _
  | timerExpiry => exact h.execTimerExpiry _ _
  | notification => exact h.execNotification _
  | noteRetry => exact h.execNoteRetry _
  | handlerEntry => exact h.execHandlerEntry _
  | tresumeApply => exact h.execTresumeApply _
  | tkillApply => exact h.execTkillApply _
  | windowWrite => exact h.execWindowWrite _
  | saveCapture => exact h.execSaveCapture _
  | imageWriteDone => exact h.execImageWriteDone _
  | restoreApply => exact h.execRestoreApply _
  | regwrite => exact h.execRegwrite _ _ _ _ _
  | regread => exact h.execRegread _ _ _ _
  | queueDoorbell => exact h.execQueueDoorbell _ _ _
  | queueRestart => exact h.execQueueRestart _ _
  | peerEntryWrite => exact h.execPeerEntryWrite _ _ _
  | routeEntryWrite => exact h.execRouteEntryWrite _
  | physSelectWrite => exact h.execPhysSelectWrite _
  | load => exact h.execLoad _ _ _ _
  | unload => exact h.execUnload _ _ _
  | siteFence => exact h.execSiteFence _
  | siteReset => exact h.execSiteReset _
  | siteRetire => exact h.execSiteRetire _
  | slotResume => exact h.execSlotResume _ _
  | processorResume => exact h.execProcessorResume _
  | attest => exact h.execAttest _ _
  | nop => exact h.execNop _ _
  | launch => exact h.execLaunch _ _
  | launchStart => exact h.execLaunchStart _ _
  | launchComplete => exact h.execLaunchComplete _ _
  | queueCopy => exact h.execQueueCopy _ _
  | queueCopyComplete => exact h.execQueueCopyComplete _ _
  | waitge => exact h.execWaitge _ _
  | semaphoreReport => exact h.execSemaphoreReport _
  | waitgeTimeout => exact h.execWaitgeTimeout _ _
  | signal => exact h.execSignal _ _
  | interrupt => exact h.execInterrupt _ _
  | queueFence => exact h.execQueueFence _ _
  | jump => exact h.execJump _ _
  | mark => exact h.execMark _ _
  | illegalWord => exact h.execIllegalWord _
  | directoryUpdate => exact h.execDirectoryUpdate _
  | cacheControlRequest => exact h.execCacheControlRequest _
  | homeBitClear => exact h.execHomeBitClear _ _
  | powerLoss => exact memWf.execPowerLoss

/-! ## Machine/Move -/

theorem memWf.moved (h : s.memWf) : s.moved.memWf := by
  unfold State.moved
  grind [memWf_iff, memWf.settleLoads]

theorem memWf.endMove {o : Out} (ho : AnswerWf o) : AnswerWf (endMove o) := by
  cases o with
  | next t => exact answerWf_next.2 (memWf.moved (ho t rfl))
  | fault f => exact fun t e => by cases e
  | refused r => exact fun t e => by cases e

theorem memWf.settle (h : s.memWf) (c : Nat) : (s.settle c).memWf := by
  unfold State.settle
  grind [memWf.moved]

theorem memWf.endTurn {o : Out} (ho : AnswerWf o) (c : Nat) : AnswerWf (endTurn c o) := by
  cases o with
  | next t => exact answerWf_next.2 ((memWf.countCycle (ho t rfl) c).settle c)
  | fault f => exact fun t e => by cases e
  | refused r => exact fun t e => by cases e

theorem memWf.turnMove (h : s.memWf) (c : Nat) : AnswerWf (turnMove s c) := by
  unfold Machine.turnMove
  split
  · exact h.exec _
  · have ht := (h.seat c).slotTurn
    split
    · next e => rw [e] at ht; exact memWf.endTurn (memWf.exec ht _) _
    · next u e => rw [e] at ht; exact answerWf_next.2 ((memWf.countCycle (s := u) ht c).settle c)

theorem memWf.coreMove (h : s.memWf) (c : Nat) : AnswerWf (coreMove s c) := by
  unfold Machine.coreMove
  split
  · exact answerWf_next.2 h.moved
  · split
    · exact h.turnMove c
    · split
      · next i _ =>
        have he := h.exec i
        split
        · next u e => exact answerWf_next.2 (memWf.settle (he u e) c)
        · exact he
      · exact (h.tick c).turnMove c

/-! ## Machine/Step -/

theorem memWf.step (h : s.memWf) : AnswerWf (step s) := by
  unfold Machine.step
  split
  · exact h.coreMove _
  · split
    · exact memWf.endMove (h.exec _)
    · exact answerWf_next.2 h.moved
  · exact answerWf_next.2 (h.hostWrite ..).moved
  · exact answerWf_next.2 (h.memError ..).moved

end Sys2Proof.Machine.State
end

section
/-! Canonical memory: the obligation. -/

namespace Sys2Proof.Machine

/-- Settles O60: every function that a step can call keeps the canonical form, by a lemma of its own above; `step` puts them together. -/
theorem stepsKeepMemoryCanonical : Obligations.StepsKeepMemoryCanonical := fun _ t h e => h.step t e

end Sys2Proof.Machine
end

section
/-! Local loads and stores (O5): what the scalar accesses come to when their address passes, and what moving on leaves alone. -/

namespace Sys2Proof.Machine

/-! ## Moving on -/

/-- The slot whose instruction executed: counted, and at the next pc. -/
def Slot.goneTo (t : Slot) (pc : Word) : Slot :=
  { t with instret := t.instret + 1, skipBreak := false, walkOut := none, rewalked := none, dirWait := none, pc := pc }

@[simp] theorem me_countS (s : State) (c n code : Nat) : (s.countS c n code).me = s.me := by
  unfold State.me State.slot State.countS
  rw [core_modCore]
  split
  · next e => rw [count_slot, modCore_curSlot, show s.curCore = c from e]
  · rfl

@[simp] theorem me_goneTo (s : State) (pc : Word) : (s.goneTo pc).me = s.me.goneTo pc := by
  unfold State.goneTo State.retired
  rw [me_modMe, me_countS, me_modMe]; rfl

/-- The core of the slot whose instruction executed. -/
theorem here_goneTo (s : State) (pc : Word) :
    ∃ t u : Slot, (s.goneTo pc).here = (((s.here.setSlot s.curSlot t).count 2 (some s.curSlot) 1).setSlot s.curSlot u) := by
  refine ⟨{ s.me with instret := s.me.instret + 1, skipBreak := false, walkOut := none, rewalked := none, dirWait := none }, s.me.goneTo pc, ?_⟩
  have e : (s.retired).here = (s.here.setSlot s.curSlot _).count 2 (some s.curSlot) 1 := (core_modCore_self ..).trans (by rw [← here_modMe]; rfl)
  have m : (s.retired).me = _ := (me_countS ..).trans (me_modMe ..)
  unfold State.goneTo
  rw [here_modMe, e, m]; rfl

theorem core_goneTo_ne (s : State) (pc : Word) {c : Nat} (h : c ≠ s.curCore) : (s.goneTo pc).core c = s.core c := by
  have hr : (s.retired).core c = s.core c := (core_modCore ..).trans ((if_neg h).trans ((core_modMe ..).trans (if_neg h)))
  exact (core_modMe ..).trans ((if_neg h).trans hr)

theorem sameBut_goneTo (t : Slot) (pc : Word) : t.sameBut (t.goneTo pc) [] := by
  simp [Slot.sameBut, Slot.sameRegs, Slot.goneTo, Slot.xr]

theorem sameRegs_goneTo (s : State) (pc : Word) : s.here.sameRegs (s.goneTo pc).here := by
  obtain ⟨t, u, e⟩ := here_goneTo s pc
  simp [e, Core.sameRegs]

theorem sameWork_goneTo (s : State) (pc : Word) : s.here.sameWork (s.goneTo pc).here := by
  obtain ⟨t, u, e⟩ := here_goneTo s pc
  simp [e, Core.sameWork]

theorem ls_goneTo (s : State) (pc : Word) : (s.goneTo pc).here.ls = s.here.ls := by
  obtain ⟨t, u, e⟩ := here_goneTo s pc
  simp [e]

/-! ## Loads -/

theorem examine_load (s : State) (rs1 rd : BitVec 5) (h1 : s.readable .x rs1.toNat) (hd : s.writable .x rd.toNat) : examine s.me [sx rs1, dx rd] = .pass := by
  rw [examine_sx _ _ _ h1, examine_dx _ _ _ hd, examine_nil]

theorem examine_store (s : State) (rs1 rs2 : BitVec 5) (h1 : s.readable .x rs1.toNat) (h2 : s.readable .x rs2.toNat) : examine s.me [sx rs1, sx rs2] = .pass := by
  rw [examine_sx _ _ _ h1, examine_sx _ _ _ h2, examine_nil]

/-- A load whose address passes takes its bytes of local store. -/
theorem memLoad_local (s : State) (i : Instr) (imm : BitVec 12) (rs1 rd : BitVec 5) (n : Nat) (sx : Bool) (hn : s.noRepeat) (h1 : s.readable .x rs1.toNat)
    (hd : s.writable .x rd.toNat) (hp : s.localPasses true false (s.xv rs1 + imm.signExtend 64) n) :
    memLoad i imm rs1 rd n sx s = .next (s.wrote rd (extendLoad (memRead s.here.ls (s.xv rs1 + imm.signExtend 64).toNat n) n sx)) := by
  refine issue_done _ _ s _ (by simp) (by simp) rfl hn (examine_load s rs1 rd h1 hd) (arrayHolds_nil _ _ rfl) ?_
  unfold immI scalarLoad
  rw [addrChecks_local _ _ _ _ _ _ _ _ hp, if_pos (isLocal_of _ _ _ _ _ hp), localAccess_pass _ _ _ _ _ _ _ hp (by simp)]
  rfl

/-- A store whose address passes writes its bytes of local store. -/
theorem memStore_local (s : State) (i : Instr) (hi : BitVec 7) (rs2 rs1 lo : BitVec 5) (n : Nat) (hn : s.noRepeat) (h1 : s.readable .x rs1.toNat)
    (h2 : s.readable .x rs2.toNat) (hp : s.localPasses false true (s.xv rs1 + (hi ++ lo).signExtend 64) n) :
    memStore i hi rs2 rs1 lo n s =
      .next ((s.modHere (fun k => { k with ls := memWrite k.ls (s.xv rs1 + (hi ++ lo).signExtend 64).toNat n (s.xv rs2).toNat })).goneTo (s.me.pc + 4)) := by
  refine issue_done _ _ s _ (by simp) (by simp) rfl hn (examine_store s rs1 rs2 h1 h2) (arrayHolds_nil _ _ rfl) ?_
  unfold immS scalarStore
  rw [addrChecks_local _ _ _ _ _ _ _ _ hp, if_pos (isLocal_of _ _ _ _ _ hp), localAccess_pass _ _ _ _ _ _ _ hp (by simp)]
  rfl

/-- Sign extension of the low bits of a double word (R7). -/
theorem sextW_wd (v n : Nat) (h0 : 0 < n) (h : n ≤ 64) : sextW (wd v) n = (BitVec.ofNat n v).signExtend 64 := by
  unfold sextW wd
  rw [if_neg (by omega)]
  have hb (i : Nat) (h1 : i < n) (h2 : i < 64) : (BitVec.ofNat 64 v)[i] = (BitVec.ofNat n v)[i] := by
    rw [← BitVec.getLsbD_eq_getElem, ← BitVec.getLsbD_eq_getElem, BitVec.getLsbD_ofNat, BitVec.getLsbD_ofNat]
    simp [h1, h2]
  ext i hi
  have e : 64 - n + i - (64 - n) = i := by omega
  by_cases hn : i < n
  · simp [BitVec.getElem_sshiftRight, BitVec.getElem_signExtend, hn, e, hb, show 64 - n + i < 64 by omega]
  · have e1 : 63 - (64 - n) = n - 1 := by omega
    simp [BitVec.getElem_sshiftRight, BitVec.getElem_signExtend, hn, show ¬ 64 - n + i < 64 by omega, BitVec.msb_eq_getLsbD_last, h0, e1, hb,
      show ¬ 63 < 64 - n by omega]

theorem extendLoad_signed (v n : Nat) (h0 : 0 < n) (h : n ≤ 8) : extendLoad v n true = (BitVec.ofNat (8 * n) v).signExtend 64 :=
  sextW_wd v (8 * n) (by omega) (by omega)

/-! ## The obligation -/

/-- A store that passes, by its bytes. -/
theorem exec_localStore (s : State) (i : Instr) (n : Nat) (hi : BitVec 7) (rs2 rs1 lo : BitVec 5)
    (hm : (i, n) ∈ [(Instr.sb hi rs2 rs1 lo, 1), (.sh hi rs2 rs1 lo, 2), (.sw hi rs2 rs1 lo, 4), (.sd hi rs2 rs1 lo, 8)])
    (hn : s.noRepeat) (h1 : s.readable .x rs1.toNat) (h2 : s.readable .x rs2.toNat) (hp : s.localPasses false true (s.xv rs1 + (hi ++ lo).signExtend 64) n) :
    exec i s =
      .next ((s.modHere (fun k => { k with ls := memWrite k.ls (s.xv rs1 + (hi ++ lo).signExtend 64).toNat n (s.xv rs2).toNat })).goneTo (s.me.pc + 4)) := by
  rw [← memStore_local s i hi rs2 rs1 lo n hn h1 h2 hp]
  simp only [List.mem_cons, Prod.mk.injEq, List.not_mem_nil, or_false] at hm
  rcases hm with ⟨rfl, rfl⟩ | ⟨rfl, rfl⟩ | ⟨rfl, rfl⟩ | ⟨rfl, rfl⟩ <;> rfl

/-- What a write of the local store of the core whose turn runs leaves alone once the slot has moved on. -/
theorem localWrite_frame (s : State) (a n v : Nat) (pc : Word) :
    let t := (s.modHere (fun k => { k with ls := memWrite k.ls a n v })).goneTo pc
    s.me.sameBut t.me [] ∧ s.here.sameRegs t.here ∧ s.here.sameWork t.here ∧ (∀ pa, t.physRead pa 1 = s.physRead pa 1) ∧
    (∀ x, x < a ∨ a + n ≤ x → memGet t.here.ls x = memGet s.here.ls x) ∧ ∀ c, c ≠ s.curCore → t.core c = s.core c := by
  intro t
  let u := s.modHere (fun k => { k with ls := memWrite k.ls a n v })
  have hh : u.here = { s.here with ls := memWrite s.here.ls a n v } := here_modHere s _
  have hm : u.me = s.me := by
    have h := congrArg (fun k : Core => k.slot s.curSlot) hh
    exact h
  refine ⟨?_, ?_, ?_, fun pa => rfl, fun x hx => ?_, fun c hc => ?_⟩
  · rw [← hm, me_goneTo]; exact sameBut_goneTo _ _
  · have h := sameRegs_goneTo u pc
    rw [hh] at h; exact h
  · have h := sameWork_goneTo u pc
    rw [hh] at h; exact h
  · rw [ls_goneTo, here_modHere]; exact memGet_memWrite_out _ _ _ _ _ hx
  · exact (core_goneTo_ne u pc hc).trans ((core_modHere ..).trans (if_neg hc))

/-- Settles O5: every load and store of local store is `memLoad` or `memStore`, and what a store leaves alone is what its write of local store does. -/
theorem localLoadsAndStores : Obligations.LocalLoadsAndStores := by
  refine ⟨?_, ?_, ?_⟩
  · intro s imm rs1 rd hn h1 hd ea b
    have signed (i : Instr) (n : Nat) (h0 : 0 < n) (h8 : n ≤ 8) (hp : s.localPasses true false ea n) :
        memLoad i imm rs1 rd n true s = .next (s.wrote rd ((BitVec.ofNat (8 * n) (b n)).signExtend 64)) := by
      rw [memLoad_local s i imm rs1 rd n true hn h1 hd hp, extendLoad_signed _ n h0 h8]
    have plain (i : Instr) (n : Nat) (hp : s.localPasses true false ea n) : memLoad i imm rs1 rd n false s = .next (s.wrote rd (BitVec.ofNat 64 (b n))) :=
      memLoad_local s i imm rs1 rd n false hn h1 hd hp
    refine ⟨fun hp => ⟨?_, ?_⟩, fun hp => ⟨?_, ?_⟩, fun hp => ⟨?_, ?_⟩, fun hp => ?_⟩
    · rw [exec_lb]; exact signed _ 1 (by omega) (by omega) hp
    · rw [exec_lbu]; exact plain _ 1 hp
    · rw [exec_lh]; exact signed _ 2 (by omega) (by omega) hp
    · rw [exec_lhu]; exact plain _ 2 hp
    · rw [exec_lw]; exact signed _ 4 (by omega) (by omega) hp
    · rw [exec_lwu]; exact plain _ 4 hp
    · rw [exec_ld]; exact (signed _ 8 (by omega) (by omega) hp).trans (by rw [BitVec.signExtend_eq])
  · intro s hi rs2 rs1 lo hn h1 h2 ea out
    have store (i : Instr) (n : Nat) := exec_localStore s i n hi rs2 rs1 lo
    exact ⟨store _ 1 (by simp) hn h1 h2, store _ 2 (by simp) hn h1 h2, store _ 4 (by simp) hn h1 h2, store _ 8 (by simp) hn h1 h2⟩
  · intro s t i n hi rs2 rs1 lo hm hn h1 h2 hp he
    obtain rfl : _ = t := Host.Outcome.next.inj ((exec_localStore s i n hi rs2 rs1 lo hm hn h1 h2 hp).symm.trans he)
    exact localWrite_frame s _ n _ _

end Sys2Proof.Machine
end

section
/-! Bytes at the homes (O28): what a line serves after a write, one function of the home at a time, and what a write at the home leaves alone. -/

namespace Sys2Proof.Machine

/-! ## Bytes of a line -/

/-- Byte k of a line. -/
def lineByte (d : BitVec 1024) (k : Nat) : Byte := BitVec.ofNat 8 (fieldOf d.toNat (8 * k) 8)

theorem getLsbD_lineByte (d : BitVec 1024) (k i : Nat) (h : i < 8) : (lineByte d k).getLsbD i = d.getLsbD (8 * k + i) := by
  unfold lineByte fieldOf
  rw [BitVec.getLsbD_ofNat, Nat.testBit_mod_two_pow, Nat.testBit_shiftRight]
  simp only [h, decide_true, Bool.true_and]
  rfl

/-- Bit i of a line of which n bytes have been replaced. -/
theorem getLsbD_spliceLine (d : BitVec 1024) (off n v i : Nat) (hi : i < 1024) :
    (spliceLine d off n v).getLsbD i =
      if i < 8 * off then d.getLsbD i else if i < 8 * (off + n) then v.testBit (i - 8 * off) else d.getLsbD i := by
  have e : fieldOf d.toNat 0 (8 * off) + v % 2 ^ (8 * n) * 2 ^ (8 * off) + d.toNat / 2 ^ (8 * (off + n)) * 2 ^ (8 * (off + n)) =
      2 ^ (8 * off) * (2 ^ (8 * n) * (d.toNat / 2 ^ (8 * (off + n))) + v % 2 ^ (8 * n)) + d.toNat % 2 ^ (8 * off) := by
    unfold fieldOf
    rw [Nat.mul_add, Nat.pow_add, Nat.shiftRight_zero]; ring_nf
  unfold spliceLine
  rw [BitVec.getLsbD_ofNat]
  simp only [hi, decide_true, Bool.true_and]
  rw [e, Nat.testBit_two_pow_mul_add _ (Nat.mod_lt _ (Nat.two_pow_pos _))]
  split
  · next h =>
    rw [Nat.testBit_mod_two_pow]
    simp only [h, decide_true, Bool.true_and]
    rfl
  · next h =>
    rw [Nat.testBit_two_pow_mul_add _ (Nat.mod_lt _ (Nat.two_pow_pos _))]
    by_cases h2 : i < 8 * (off + n)
    · rw [if_pos (by omega), if_pos h2, Nat.testBit_mod_two_pow]; simp [show i - 8 * off < 8 * n by omega]
    · rw [if_neg (by omega), if_neg h2, Nat.testBit_div_two_pow]
      show d.getLsbD _ = _
      congr 1; omega

/-- A byte of a line of which n bytes have been replaced. -/
theorem lineByte_spliceLine (d : BitVec 1024) (off n v k : Nat) (hk : k < 128) :
    lineByte (spliceLine d off n v) k = if off ≤ k ∧ k < off + n then BitVec.ofNat 8 (v / 256 ^ (k - off)) else lineByte d k := by
  apply BitVec.eq_of_getLsbD_eq
  intro i hi
  rw [getLsbD_lineByte _ _ _ hi, getLsbD_spliceLine _ _ _ _ _ (by omega)]
  split
  · rw [if_neg (by omega), getLsbD_lineByte _ _ _ hi]
  · split
    · next h1 h2 =>
      rw [if_pos ⟨by omega, by omega⟩, BitVec.getLsbD_ofNat, show 256 = 2 ^ 8 by rfl, ← Nat.pow_mul, Nat.testBit_div_two_pow]
      simp only [hi, decide_true, Bool.true_and]
      congr 1; omega
    · rw [if_neg (by omega), getLsbD_lineByte _ _ _ hi]

/-- The number of the low bytes of a number. -/
theorem ofBytes_low (v n : Nat) : ofBytes ((List.range n).map (fun i => BitVec.ofNat 8 (v / 256 ^ i))) = v % 256 ^ n := by
  induction n generalizing v with
  | zero => simp [ofBytes, Nat.mod_one]
  | succ k ih =>
    rw [List.range_succ_eq_map, List.map_cons, List.map_map]
    have e : ((fun i => BitVec.ofNat 8 (v / 256 ^ i)) ∘ Nat.succ) = fun i => BitVec.ofNat 8 (v / 256 / 256 ^ i) := by
      funext i
      simp only [Function.comp_apply]
      rw [Nat.div_div_eq_div_mul, Nat.pow_succ, Nat.mul_comm]
    rw [e]
    show (BitVec.ofNat 8 (v / 256 ^ 0)).toNat + 256 * ofBytes ((List.range k).map (fun i => BitVec.ofNat 8 (v / 256 / 256 ^ i))) = _
    rw [ih, BitVec.toNat_ofNat, Nat.pow_zero, Nat.div_one, Nat.pow_succ 256 k, Nat.mul_comm (256 ^ k), Nat.mod_mul]

namespace State

/-! ## The bytes that the homes serve -/

/-- The byte at the place where an address is served. -/
def homeByte (s : State) (q : Nat) : Byte := lineByte (s.lineData (lineOf q)) (q % 128)

theorem physRead_eq (s : State) (pa n : Nat) : s.physRead pa n = ofBytes ((List.range n).map (fun i => s.homeByte (s.gleanPA (pa + i)))) := rfl

/-- Every line and every local store reads in the second state as in the first, and what the gleaner forwards is the same. -/
def sameLines (s t : State) : Prop := t.gmoves = s.gmoves ∧ (∀ l, t.lineData l = s.lineData l) ∧ ∀ c, (t.core c).ls = (s.core c).ls

theorem sameLines.refl (s : State) : s.sameLines s := ⟨rfl, fun _ => rfl, fun _ => rfl⟩

theorem sameLines.trans {s t u : State} (h : s.sameLines t) (k : t.sameLines u) : s.sameLines u :=
  ⟨k.1.trans h.1, fun l => (k.2.1 l).trans (h.2.1 l), fun c => (k.2.2 c).trans (h.2.2 c)⟩

theorem sameLines.of_eq {s t : State} (hg : t.gmoves = s.gmoves) (hl : t.l2 = s.l2) (hd : t.dram = s.dram) (hc : t.cores = s.cores) : s.sameLines t := by
  refine ⟨hg, fun l => ?_, fun c => ?_⟩
  · unfold State.lineData State.dramLine; rw [hl, hd]
  · unfold State.core; rw [hc]

theorem sameLines_modCore (s : State) (c : Nat) {f : Core → Core} (hf : ∀ k, (f k).ls = k.ls) : s.sameLines (s.modCore c f) := by
  refine ⟨rfl, fun l => rfl, fun d => ?_⟩
  rw [core_modCore]
  split
  · next e => rw [hf, e]
  · rfl

theorem sameLines_foldl {α : Type} (s : State) {f : State → α → State} (hf : ∀ u x, sameLines u (f u x)) (l : List α) : s.sameLines (l.foldl f s) := by
  induction l generalizing s with
  | nil => exact .refl s
  | cons x l ih => exact (hf s x).trans (ih _)

theorem sameLines_invalSharers (s : State) (l : Nat) (keep : Option Nat) : s.sameLines (s.invalSharers l keep) :=
  sameLines_foldl s (fun u c => by split; exacts [.refl u, sameLines_modCore u c (fun _ => rfl)]) _

theorem sameLines_count (s : State) (c code : Nat) : s.sameLines (s.count c code) := sameLines_modCore s c (fun _ => rfl)

theorem sameLines_writeThrough (s : State) (c l off n v : Nat) : s.sameLines (s.writeThrough c l off n v) := by
  unfold State.writeThrough
  extract_lets h u
  have hu : s.sameLines u := .of_eq rfl rfl rfl rfl
  split
  · exact hu.trans (sameLines_modCore u h (fun _ => rfl))
  · exact hu

theorem sameLines_semReport (s : State) (pa n : Nat) : s.sameLines (s.semReport pa n) := by
  refine sameLines_foldl s (fun u d => ?_) _
  dsimp only
  split
  · refine sameLines_foldl u (fun w j => ?_) _
    exact .of_eq rfl rfl rfl rfl
  · exact .refl u

theorem sameLines_clearResv (s : State) (l : Nat) (keep : Option (Nat × Nat)) : s.sameLines (s.clearResv l keep) := .of_eq rfl rfl rfl rfl

/-! ## A line in the L2 and in DRAM -/

theorem nget_of_mem {α : Type} {m : NMap α} {p : Nat × α} (h : keysRise m) (hp : p ∈ m) : nget m p.1 = some p.2 := by
  induction m with
  | nil => simp at hp
  | cons q t ih =>
    obtain ⟨h1, h2⟩ := List.pairwise_cons.1 h
    rcases List.mem_cons.1 hp with rfl | hp
    · simp [nget]
    · have : q.1 < p.1 := h1 _ (List.mem_map_of_mem hp)
      unfold nget
      rw [if_neg (by omega)]
      exact ih h2 hp

/-- What a fold that keeps or replaces its choice ends with is one of the list, or what it began with. -/
theorem mem_of_foldl_choice {α : Type} {f : Option α → α → Option α} (hf : ∀ b p, f b p = b ∨ f b p = some p) (l : List α) (b : Option α) {q : α}
    (h : l.foldl f b = some q) : q ∈ l ∨ b = some q := by
  induction l generalizing b with
  | nil => exact .inr h
  | cons p l ih =>
    rcases ih _ h with h | h
    · exact .inl (List.mem_cons_of_mem _ h)
    · rcases hf b p with e | e <;> rw [e] at h
      · exact .inr h
      · cases h; exact .inl (List.mem_cons_self ..)

theorem lineData_some {s : State} {l : Nat} {x : L2Line} (h : nget s.l2 l = some x) : s.lineData l = x.data := by simp only [State.lineData, h]

theorem lineData_none {s : State} {l : Nat} (h : nget s.l2 l = none) : s.lineData l = s.dramLine l := by simp only [State.lineData, h]

/-- A line that has just been put in the L2 reads as its data. -/
theorem lineData_put {t : State} {m : NMap L2Line} {l : Nat} {x : L2Line} {d : BitVec 1024} (h : t.l2 = nput m l x) (hx : x.data = d) : t.lineData l = d :=
  (lineData_some (h ▸ nget_nput_self ..)).trans hx

/-- A line reads as in another state when its L2 entry has the same data and, without one, DRAM holds the same. -/
theorem lineData_congr {s t : State} {l : Nat} (hl : nget t.l2 l = nget s.l2 l) (hd : t.dramLine l = s.dramLine l) : t.lineData l = s.lineData l := by
  unfold State.lineData; rw [hl, hd]

theorem dramLine_putDram (s : State) (l : Nat) (d : BitVec 1024) (code : BitVec 4) (j : Nat) :
    (s.putDram l d code).dramLine j = if j = l then d else s.dramLine j := by
  have hd : (s.putDram l d code).dram = memWrite s.dram (l * 128) 128 d.toNat := rfl
  unfold State.dramLine
  rw [hd]
  by_cases e : j = l
  · subst e
    have hp : 256 ^ 128 = 2 ^ 1024 := by rw [show 256 = 2 ^ 8 from rfl, ← Nat.pow_mul]
    rw [if_pos rfl, memRead_memWrite, hp, Nat.mod_eq_of_lt d.isLt, BitVec.ofNat_toNat, BitVec.setWidth_eq]
  · rw [if_neg e, memRead_memWrite_out _ _ _ _ _ _ (by omega)]

theorem lineData_putLine (s : State) (l : Nat) (d : BitVec 1024) (code : BitVec 4) (j : Nat) :
    (s.putLine l d code).lineData j = if j = l then d else s.lineData j := by
  unfold State.putLine
  split
  · next x e =>
    by_cases hj : j = l
    · subst hj; rw [if_pos rfl]; exact lineData_put rfl rfl
    · rw [if_neg hj]; exact lineData_congr (nget_nput_ne _ _ hj) rfl
  · next e =>
    have hd := dramLine_putDram s l d code j
    by_cases hj : j = l
    · subst hj
      rw [if_pos rfl] at hd ⊢
      exact (lineData_none (s := s.putDram j d code) e).trans hd
    · rw [if_neg hj] at hd ⊢
      exact lineData_congr rfl hd

/-- Bringing a line into the L2, and the write-back of the one that makes room, leave every line as it reads. -/
theorem sameLines_allocLine (s : State) (l : Nat) (tensor : BitVec 8) (h : s.memWf) : s.sameLines (s.allocLine l tensor).1 := by
  unfold State.allocLine
  split
  · next x e =>
    refine ⟨rfl, fun j => ?_, fun c => rfl⟩
    by_cases hj : j = l
    · subst hj; exact (lineData_put (x := { x with used := s.useCtr }) (d := x.data) rfl rfl).trans (lineData_some e).symm
    · exact lineData_congr (nget_nput_ne _ _ hj) rfl
  · next e =>
    extract_lets set fresh
    split
    · refine ⟨rfl, fun j => ?_, fun c => rfl⟩
      by_cases hj : j = l
      · subst hj; exact (lineData_put (x := fresh) (d := s.dramLine j) rfl rfl).trans (lineData_none e).symm
      · exact lineData_congr (nget_nput_ne _ _ hj) rfl
    · split
      · exact .refl s
      · next v x hx =>
        have hm : (v, x) ∈ s.l2 := by
          rcases mem_of_foldl_choice (fun b p => by cases b <;> grind) _ _ hx with hx | hx
          · exact List.mem_of_mem_filter (List.mem_of_mem_filter hx)
          · cases hx
        have hv : nget s.l2 v = some x := nget_of_mem h.l2_rises hm
        refine ⟨rfl, fun j => ?_, fun c => rfl⟩
        by_cases hj : j = l
        · subst hj; exact (lineData_put (x := fresh) (d := s.dramLine j) rfl rfl).trans (lineData_none e).symm
        · have hd := dramLine_putDram s v x.data x.code j
          have hn := nget_nput_ne (ndel s.l2 v) fresh hj
          rw [nget_ndel] at hn
          by_cases hjv : j = v
          · subst hjv
            rw [if_pos rfl] at hd hn
            exact (lineData_none hn).trans (hd.trans (lineData_some hv).symm)
          · rw [if_neg hjv] at hd hn
            exact lineData_congr hn hd

/-! ## A write at the home -/

/-- What a write of bytes of one line leaves: that line with the bytes replaced, every other line and every local store. -/
theorem lineWrite_spec (s : State) (pa n v : Nat) (a : MemAttr) (who : Option (Nat × Nat)) (h : s.memWf) :
    (s.lineWrite pa n v a who).gmoves = s.gmoves ∧
    (∀ j, (s.lineWrite pa n v a who).lineData j =
      if j = lineOf (s.gleanPA pa) then spliceLine (s.lineData j) (s.gleanPA pa % 128) n v else s.lineData j) ∧
    ∀ c, ((s.lineWrite pa n v a who).core c).ls = (s.core c).ls := by
  unfold State.lineWrite
  extract_lets q l s1
  have h1 : s.sameLines s1 := sameLines_invalSharers ..
  have h2 := h1.trans (sameLines_allocLine s1 l a.tensor (h.invalSharers ..))
  clear_value s1
  generalize s1.allocLine l a.tensor = x at h2 ⊢
  obtain ⟨s2, inL2⟩ := x
  dsimp -zeta only
  extract_lets s3 d s4 s5
  have h3 : s.sameLines s3 := by
    subst s3
    split
    · split
      · exact h2
      · exact h2.trans (sameLines_count ..)
    · exact h2
  have h4 (j : Nat) : s4.lineData j = if j = l then d else s.lineData j := by
    rw [lineData_putLine, h3.2.1 j]
  have g4 : s4.gmoves = s.gmoves ∧ ∀ c, (s4.core c).ls = (s.core c).ls := by
    subst s4
    unfold State.putLine
    split <;> exact ⟨h3.1, h3.2.2⟩
  clear_value s4
  have h5 : s4.sameLines s5 := by
    subst s5
    split
    · refine .trans ?_ (sameLines_writeThrough ..)
      split
      · exact .refl s4
      · exact sameLines_writeThrough ..
    · exact .refl s4
  have h6 : s4.sameLines ((s5.clearResv l who).semReport q n) := h5.trans ((sameLines_clearResv ..).trans (sameLines_semReport ..))
  refine ⟨h6.1.trans g4.1, fun j => ?_, fun c => (h6.2.2 c).trans (g4.2 c)⟩
  rw [h6.2.1, h4]
  split
  · next e => rw [e]; exact congrArg (fun d => spliceLine d _ _ _) (h3.2.1 l)
  · rfl

/-- A byte after a write of bytes of one line: one of them, or as it was. -/
theorem homeByte_lineWrite (s : State) (pa n v : Nat) (a : MemAttr) (who : Option (Nat × Nat)) (h : s.memWf) (hl : s.gleanPA pa % 128 + n ≤ 128) (x : Nat) :
    (s.lineWrite pa n v a who).homeByte x =
      if s.gleanPA pa ≤ x ∧ x < s.gleanPA pa + n then BitVec.ofNat 8 (v / 256 ^ (x - s.gleanPA pa)) else s.homeByte x := by
  obtain ⟨-, hd, -⟩ := lineWrite_spec s pa n v a who h
  unfold State.homeByte
  rw [hd]
  generalize s.gleanPA pa = q at hl ⊢
  unfold lineOf
  by_cases e : x / 128 = q / 128
  · rw [if_pos e, lineByte_spliceLine _ _ _ _ _ (Nat.mod_lt _ (by omega))]
    have e1 : x % 128 - q % 128 = x - q := by omega
    rw [e1]
    exact if_congr (by omega) rfl rfl
  · rw [if_neg e, if_neg (by omega)]

theorem gleanPA_congr {s t : State} (h : t.gmoves = s.gmoves) (pa : Nat) : t.gleanPA pa = s.gleanPA pa := by
  unfold State.gleanPA; rw [h]

/-- The bytes of a run lie in one line each, at the address and where they are served. -/
theorem runAt_spec (s : State) (pa n : Nat) :
    s.runAt pa n ≤ n ∧ (0 < n → 0 < s.runAt pa n) ∧
    ∀ i, i < s.runAt pa n → s.gleanPA (pa + i) = s.gleanPA pa + i ∧ lineOf (s.gleanPA pa + i) = lineOf (s.gleanPA pa) := by
  unfold State.runAt
  refine ⟨(List.takeWhile_prefix _).length_le.trans (by simp), fun hn => ?_, fun i hi => ?_⟩
  · obtain ⟨k, rfl⟩ : ∃ k, n = k + 1 := ⟨n - 1, by omega⟩
    rw [List.range_succ_eq_map, List.takeWhile_cons_of_pos (by simp)]
    simp
  · have hm := List.mem_takeWhile_imp (List.getElem_mem hi)
    rw [(List.takeWhile_prefix _).getElem hi] at hm
    simp only [List.getElem_range, Bool.and_eq_true, beq_iff_eq] at hm
    exact ⟨hm.1.2, hm.2⟩

/-- A write of a run of bytes: they read as the low bytes of the number, every other byte as it was. -/
theorem homeByte_runWrite (s : State) (pa n v : Nat) (a : MemAttr) (who : Option (Nat × Nat)) (h : s.memWf) :
    let t := s.lineWrite pa (s.runAt pa n) v a who
    (∀ i, i < s.runAt pa n → t.homeByte (s.gleanPA (pa + i)) = BitVec.ofNat 8 (v / 256 ^ i)) ∧
    ∀ x, (∀ i, i < s.runAt pa n → x ≠ s.gleanPA (pa + i)) → t.homeByte x = s.homeByte x := by
  intro t
  obtain ⟨-, -, hm⟩ := runAt_spec s pa n
  have hl : s.gleanPA pa % 128 + s.runAt pa n ≤ 128 := by
    by_cases h0 : s.runAt pa n = 0
    · omega
    · have := (hm (s.runAt pa n - 1) (by omega)).2
      unfold lineOf at this
      omega
  have hb := homeByte_lineWrite s pa (s.runAt pa n) v a who h hl
  refine ⟨fun i hi => ?_, fun x hx => ?_⟩
  · rw [hb, (hm i hi).1, if_pos ⟨by omega, by omega⟩, Nat.add_sub_cancel_left]
  · rw [hb, if_neg]
    rintro ⟨h1, h2⟩
    exact hx (x - s.gleanPA pa) (by omega) (by rw [(hm _ (by omega)).1]; omega)

/-- What a write at the home leaves, part by part: its own bytes, every other byte, the local stores. -/
theorem writeParts_spec (s : State) (pa n v : Nat) (a : MemAttr) (who : Option (Nat × Nat)) (fuel : Nat) (h : s.memWf) (hf : n ≤ fuel)
    (hi : ∀ i j, i < n → j < n → s.gleanPA (pa + i) = s.gleanPA (pa + j) → i = j) :
    (s.writeParts pa n v a who fuel).gmoves = s.gmoves ∧
    (∀ i, i < n → (s.writeParts pa n v a who fuel).homeByte (s.gleanPA (pa + i)) = BitVec.ofNat 8 (v / 256 ^ i)) ∧
    (∀ x, (∀ i, i < n → x ≠ s.gleanPA (pa + i)) → (s.writeParts pa n v a who fuel).homeByte x = s.homeByte x) ∧
    ∀ c, ((s.writeParts pa n v a who fuel).core c).ls = (s.core c).ls := by
  induction fuel generalizing s pa n v with
  | zero => exact ⟨rfl, fun i hn => by omega, fun _ _ => rfl, fun _ => rfl⟩
  | succ k ih =>
    unfold State.writeParts
    obtain ⟨hmn, hm0, -⟩ := runAt_spec s pa n
    obtain ⟨hin, hout⟩ := homeByte_runWrite s pa n v a who h
    obtain ⟨hg, -, hls⟩ := lineWrite_spec s pa (s.runAt pa n) v a who h
    dsimp only at hin hout ⊢
    by_cases hn : n ≤ s.runAt pa n
    · have e : s.runAt pa n = n := by omega
      rw [e] at hin hout hg hls
      rw [if_pos hn]
      exact ⟨hg, hin, hout, hls⟩
    · rw [if_neg hn]
      generalize s.runAt pa n = m at *
      have hgl (x : Nat) : (s.lineWrite pa m v a who).gleanPA x = s.gleanPA x := gleanPA_congr hg x
      obtain ⟨rg, rin, rout, rls⟩ := ih (s.lineWrite pa m v a who) (pa + m) (n - m) (v / 2 ^ (8 * m)) (h.lineWrite ..) (by omega) (fun i j h1 h2 e => by
        simp only [hgl, Nat.add_assoc] at e
        have := hi (m + i) (m + j) (by omega) (by omega) e
        omega)
      simp only [hgl, Nat.add_assoc] at rin rout
      refine ⟨rg.trans hg, fun i h1 => ?_, fun x hx => ?_, fun c => (rls c).trans (hls c)⟩
      · by_cases h2 : i < m
        · rw [rout _ (fun j h3 e => by have := hi i (m + j) h1 (by omega) e; omega), hin i h2]
        · have := rin (i - m) (by omega)
          rw [show m + (i - m) = i by omega] at this
          rw [this, Nat.pow_mul, Nat.div_div_eq_div_mul, ← Nat.pow_add, show m + (i - m) = i by omega]
      · rw [rout x (fun i h1 => hx (m + i) (by omega)), hout x (fun i h1 => hx i (by omega))]

end State

/-- Settles O28: a write at the home is a run of writes of one line each, and of each line what was replaced reads back. -/
theorem bytesReadBack : Obligations.BytesReadBack := by
  refine ⟨fun s pa n v attr who h hi => ?_, fun m a n v =>
    ⟨memRead_memWrite m a n v, fun i hi => memGet_memWrite_in m a n v i hi, fun x hx => memGet_memWrite_out m a n v x hx, wf_memWrite m a n v⟩⟩
  intro t
  obtain ⟨hg, hin, hout, hls⟩ := State.writeParts_spec s pa n v attr who n h le_rfl hi
  have hgl (x : Nat) : t.gleanPA x = s.gleanPA x := State.gleanPA_congr hg x
  refine ⟨?_, fun a ha => ?_, hls⟩
  · rw [State.physRead_eq, ← ofBytes_low]
    refine congrArg ofBytes (List.map_congr_left fun i hm => ?_)
    rw [hgl]
    exact hin i (List.mem_range.1 hm)
  · rw [State.physRead_eq, State.physRead_eq]
    refine congrArg ofBytes (List.map_congr_left fun i hm => ?_)
    obtain rfl : i = 0 := by have := List.mem_range.1 hm; omega
    rw [hgl]
    exact hout _ ha

end Sys2Proof.Machine
end

section
/-! Divides (O2): the issue of a divide, what Pend does (R7), and the completion of a divide. -/

namespace Sys2Proof.Machine

/-! ## Pend (R7, R88) -/

/-- Without a free claim Pend fails. -/
theorem pend_full (s : State) (f : RFile) (n : Nat) (cls : BitVec 4) (k : Bool) (h0 : ¬(f = .x ∧ n = 0)) (h : s.here.freeClaims = []) : s.pend f n cls k = none := by
  unfold State.pend
  rw [if_neg h0, h]

/-- A slot register made PENDING. -/
def Slot.pendReg (t : Slot) (f : RFile) (n : Nat) (v : Nat) : Slot :=
  match f with
  | .x => t.setXr n ⟨.pending, Config.freeWord v⟩
  | .v => t.setVr n ⟨.pending, Config.freeVec v⟩
  | .m => t.setMr n ⟨.pending, (Config.freeVec v).setWidth 34816⟩
  | .c => t.setCr n ⟨.pending, (Config.freeVec v).setWidth 131072⟩

theorem regSt_pendReg (t : Slot) (f : RFile) (n v : Nat) (h0 : ¬(f = .x ∧ n = 0)) : (t.pendReg f n v).regSt f n = .pending := by
  cases f with
  | x =>
    have : n ≠ 0 := fun e => h0 ⟨rfl, e⟩
    show ((t.setXr n _).xr n).st = _
    rw [xr_setXr, if_pos ⟨rfl, this⟩]
  | v => show ((t.setVr n _).vr n).st = _; rw [vr_setVr, if_pos rfl]
  | m => show ((t.setMr n _).mr n).st = _; rw [mr_setMr, if_pos rfl]
  | c => show ((t.setCr n _).cr n).st = _; rw [cr_setCr, if_pos rfl]

/-- The claim that Pend makes for a register. -/
def State.pendClaim (s : State) (f : RFile) (n : Nat) (cls : BitVec 4) (k : Bool) : Claim :=
  { target := .slot, cls := cls, cancellable := k, slot := s.curSlot, file := f, reg := n, watch := 0, lost := false }

/-- The state in which Pend has taken claim i for a register. -/
def State.pendWith (s : State) (f : RFile) (n i : Nat) (cl : Claim) : State :=
  ((s.modHere (fun k => Core.count { k with claims := nput k.claims i cl } 10 (some s.curSlot) 1)).modMe (fun t => t.pendReg f n s.freeCtr)).useFree

/-- With a free claim Pend takes one of them. -/
theorem pend_eq (s : State) (f : RFile) (n : Nat) (cls : BitVec 4) (k : Bool) (h0 : ¬(f = .x ∧ n = 0)) (h : s.here.freeClaims ≠ []) :
    ∃ i ∈ s.here.freeClaims, s.pend f n cls k = some (s.pendWith f n i (s.pendClaim f n cls k), some i) := by
  unfold State.pend
  rw [if_neg h0]
  cases e : s.here.freeClaims with
  | nil => exact absurd e h
  | cons i0 rest =>
    refine ⟨(i0 :: rest).getD (Config.claimPick s.freeCtr % (i0 :: rest).length) i0, ?_, rfl⟩
    rw [List.getD_eq_getElem _ _ (Nat.mod_lt _ (by simp))]
    exact List.getElem_mem _

theorem me_useFree (s : State) : s.useFree.me = s.me := rfl
theorem here_useFree (s : State) : s.useFree.here = s.here := rfl

theorem regSt_pendWith (s : State) (f : RFile) (n i : Nat) (cl : Claim) (h0 : ¬(f = .x ∧ n = 0)) : (s.pendWith f n i cl).me.regSt f n = .pending := by
  unfold State.pendWith
  rw [me_useFree, me_modMe]
  exact regSt_pendReg _ f n _ h0

theorem claims_pendWith (s : State) (f : RFile) (n i : Nat) (cl : Claim) : (s.pendWith f n i cl).here.claims = nput s.here.claims i cl := by
  unfold State.pendWith
  rw [here_useFree, here_modMe, coreSetSlot_claims, here_modHere, count_claims]

/-- With a free claim Pend makes the register PENDING with one of them, and takes no other. -/
theorem pend_free (s : State) (f : RFile) (n : Nat) (cls : BitVec 4) (k : Bool) (h0 : ¬(f = .x ∧ n = 0)) (h : s.here.freeClaims ≠ []) :
    ∃ t i, s.pend f n cls k = some (t, some i) ∧ i ∈ s.here.freeClaims ∧ t.me.regSt f n = .pending ∧
      nget t.here.claims i = some { target := .slot, cls := cls, cancellable := k, slot := s.curSlot, file := f, reg := n, watch := 0, lost := false } ∧
      ∀ j, j ≠ i → nget t.here.claims j = nget s.here.claims j := by
  obtain ⟨i, hi, hp⟩ := pend_eq s f n cls k h0 h
  refine ⟨_, i, hp, hi, regSt_pendWith s f n i _ h0, ?_, fun j hj => ?_⟩
  · rw [claims_pendWith]; exact nget_nput_self ..
  · rw [claims_pendWith]; exact nget_nput_ne _ _ hj

/-! ## Divides (R114, R115) -/

theorem udiv_eq_ofNat {w : Nat} (a b : BitVec w) : a / b = BitVec.ofNat w (a.toNat / b.toNat) := by
  rw [← BitVec.toNat_udiv, BitVec.ofNat_toNat, BitVec.setWidth_eq]

theorem umod_eq_ofNat {w : Nat} (a b : BitVec w) : a % b = BitVec.ofNat w (a.toNat % b.toNat) := by
  rw [← BitVec.toNat_umod, BitVec.ofNat_toNat, BitVec.setWidth_eq]

/-- A divide as the long-operation unit takes it up: its claim, its result and its cycles. -/
def State.divOp (u : State) (c : Option Nat) (cycles : Nat) (q : Word) : DivOp where
  id := u.nextId
  claim := c
  result := q
  due := u.here.cycle + cycles + u.freshWord.toNat % (64 * u.here.vecs.length + 1)
  late := u.here.cycle + cycles + 64 * u.here.vecs.length

/-- The state with a divide in the long-operation unit. -/
def State.divQueued (u : State) (c : Option Nat) (cycles : Nat) (q : Word) : State :=
  u.useFree.bump.modHere (fun k => { k with divs := k.divs ++ [u.divOp c cycles q] })

/-- The issue of a divide whose operands are there and which finds a claim. -/
theorem issue_divide (s u : State) (c : Option Nat) (i : Instr) (rs2 rs1 rd : BitVec 5) (cycles : Nat) (q : State → Word) (hn : s.noRepeat)
    (h1 : s.readable .x rs1.toNat) (h2 : s.readable .x rs2.toNat) (hd : s.writable .x rd.toNat) (hp : s.pend .x rd.toNat 3 false = some (u, c)) :
    issue (anyForm i [sx rs1, sx rs2, dx rd]) (fun s => divide rd cycles (q s) s) s = .next ((u.divQueued c cycles (q s)).goneTo (s.me.pc + 4)) := by
  refine issue_done _ _ s _ (by simp [anyForm]) (by simp [anyForm]) rfl hn ?_ (arrayHolds_nil _ _ rfl) ?_
  · show examine s.me [sx rs1, sx rs2, dx rd] = .pass
    rw [examine_sx _ _ _ h1, examine_sx _ _ _ h2, examine_dx _ _ _ hd, examine_nil]
  · exact withClaim_some _ _ _ _ _ _ _ _ hp

/-- A divide that has been in the unit for its time leaves it, and its claim is to be filled now. -/
theorem exec_divideComplete_of_due (s : State) (c id : Nat) (d : DivOp)
    (h : (s.core c).divs.find? (fun d => d.id == id && d.due ≤ (s.core c).cycle) = some d) :
    ∃ t, exec (.divideComplete c id) s = .next t ∧ (∀ e ∈ (t.core c).divs, e.id ≠ id) ∧
      (∀ i, d.claim = some i → (t.core c).deliveries = (s.core c).deliveries ++ [⟨i, (s.core c).cycle, .value (d.result.setWidth 2048)⟩]) ∧
      (d.claim = none → (t.core c).deliveries = (s.core c).deliveries) := by
  rw [exec_divideComplete]
  unfold execDivideComplete
  rw [h]
  refine ⟨_, rfl, ?_⟩
  unfold State.fillNow State.deliverAt
  cases hc : d.claim with
  | none => simp
  | some i => simp [fillW]

/-- Settles O2: each divide is one `divide` with its own result, completed by `execDivideComplete`; Pend is `pend_x0`, `pend_full` and `pend_free`. -/
theorem divides : Obligations.Divides := by
  refine ⟨?_, ⟨pend_x0, pend_full, pend_free⟩, exec_divideComplete_of_due⟩
  intro s u c rs2 rs1 rd hn h1 h2 hd hp a b aw bw n out
  have issued (i : Instr) (cycles : Nat) (q : State → Word) := issue_divide s u c i rs2 rs1 rd cycles q hn h1 h2 hd hp
  refine ⟨?_, ?_, ?_, ?_, ?_, ?_, ?_, ?_⟩
  · rw [exec_div]; exact issued _ 36 (fun s => divSigned (s.xv rs1) (s.xv rs2))
  · rw [exec_divu, ← udiv_eq_ofNat]; exact issued _ 36 (fun s => divUnsigned (s.xv rs1) (s.xv rs2))
  · rw [exec_rem]; exact issued _ 36 (fun s => remSigned (s.xv rs1) (s.xv rs2))
  · rw [exec_remu, ← umod_eq_ofNat]; exact issued _ 36 (fun s => remUnsigned (s.xv rs1) (s.xv rs2))
  · rw [exec_divw]; exact issued _ 20 (fun s => w32 (divSigned (s.xw rs1) (s.xw rs2)))
  · rw [exec_divuw, ← udiv_eq_ofNat]; exact issued _ 20 (fun s => w32 (divUnsigned (s.xw rs1) (s.xw rs2)))
  · rw [exec_remw]; exact issued _ 20 (fun s => w32 (remSigned (s.xw rs1) (s.xw rs2)))
  · rw [exec_remuw, ← umod_eq_ofNat]; exact issued _ 20 (fun s => w32 (remUnsigned (s.xw rs1) (s.xw rs2)))

end Sys2Proof.Machine
end

section
/-! CSRs (O14): the Zicsr instructions, and what a CSR reads after a write of it. -/

namespace Sys2Proof.Machine

/-! ## The six instructions (R119) -/

/-- A Zicsr instruction that may name its register writes it, if it writes, and rd. -/
theorem issue_csr (s : State) (i : Instr) (csr : BitVec 12) (rd : BitVec 5) (regs : List (Bool × RFile × Nat)) (w : Bool) (new : State → Word → Word)
    (hn : s.noRepeat) (hr : csrRoles csr.toNat s.me.role = true) (hk : csrKOnly csr = true → s.me.role = .k) (he : examine s.me regs = .pass) :
    issue (csrForm i csr regs) (fun s => csrBody csr rd w (new s) s) s =
      .next (if w then ((s.writeCsr csr.toNat (new s (s.readCsr csr.toNat))).setX rd (s.readCsr csr.toNat)).goneTo (s.me.pc + 4)
        else s.wrote rd (s.readCsr csr.toNat)) := by
  cases w <;> exact issue_done _ _ s _ hk (by simp [csrForm]) hr hn he (arrayHolds_nil _ _ rfl) rfl

/-- The same where field 0 of rs1 or of the immediate means that nothing is written. -/
theorem issue_csr_field (s : State) (i : Instr) (csr : BitVec 12) (rs1 rd : BitVec 5) (regs : List (Bool × RFile × Nat)) (new : State → Word → Word)
    (hn : s.noRepeat) (hr : csrRoles csr.toNat s.me.role = true) (hk : csrKOnly csr = true → s.me.role = .k) (he : examine s.me regs = .pass) :
    issue (csrForm i csr regs) (fun s => csrBody csr rd (rs1 != 0) (new s) s) s =
      .next (if rs1 = 0 then s.wrote rd (s.readCsr csr.toNat)
        else ((s.writeCsr csr.toNat (new s (s.readCsr csr.toNat))).setX rd (s.readCsr csr.toNat)).goneTo (s.me.pc + 4)) := by
  rw [issue_csr s i csr rd regs (rs1 != 0) new hn hr hk he]
  by_cases h : rs1 = 0 <;> simp [h]

/-! ## A register after a write -/

/-- A write of every byte: read-write bits from the written value, written ones clear what they clear. -/
theorem csrMerge_all (n : Nat) (cur v : Word) (h : ¬(n = 0x5C0 ∨ n = 0x5C1)) :
    csrMerge n cur v (BitVec.allOnes 64) = (cur &&& ~~~csrRwBits n ||| v &&& csrRwBits n) &&& ~~~(v &&& csrW1cBits n) := by
  unfold csrMerge
  simp only [BitVec.and_allOnes, if_neg h]

theorem readCsr_of_slot (s : State) {n : Nat} (h : csrOfSlot n = true) : s.readCsr n = s.me.csr n := by
  unfold State.readCsr; rw [if_pos h]

/-- A CSR that a core keeps and reads under its own number. -/
def csrOfCore (n : Nat) : Bool := !csrOfSlot n && !(0xC03 ≤ n && n ≤ 0xC0A) && n != 0xC00 && n != 0xCC0 && n != 0xCC1

theorem readCsr_of_core (s : State) {n : Nat} (h : csrOfCore n = true) : s.readCsr n = s.coreCsr s.curCore n := by
  simp only [csrOfCore, Bool.and_eq_true, Bool.not_eq_true', bne_iff_ne, Bool.and_eq_false_iff, decide_eq_false_iff_not] at h
  unfold State.readCsr
  rw [if_neg (by simp [h]), if_neg (by omega)]
  split <;> simp_all

theorem readCsr_writeCsr_slot (s : State) {n : Nat} (v : Word) (h : csrOfSlot n = true) :
    (s.writeCsr n v).readCsr n = (s.me.putCsr n v (BitVec.allOnes 64)).csr n := by
  rw [readCsr_of_slot _ h]
  unfold State.writeCsr
  rw [if_pos h, me_modMe]

theorem readCsr_writeCsr_core (s : State) {n : Nat} (v : Word) (h : csrOfCore n = true) :
    (s.writeCsr n v).readCsr n = (s.putCoreCsr s.curCore n v (BitVec.allOnes 64)).coreCsr s.curCore n := by
  have hs : csrOfSlot n = false := by unfold csrOfCore at h; simp_all
  rw [readCsr_of_core _ h]
  unfold State.writeCsr
  rw [if_neg (by simp [hs])]
  rfl

theorem csr_putCsr (t : Slot) (v m : Word) : ∀ n ∈ [0x800, 0x801, 0x802, 0x803, 0x804, 0x805, 0x806, 0x807, 0x810, 0x811],
    (t.putCsr n v m).csr n = csrMerge n (t.csr n) v m := by
  intro n hn
  simp only [List.mem_cons, List.not_mem_nil, or_false] at hn
  rcases hn with rfl | rfl | rfl | rfl | rfl | rfl | rfl | rfl | rfl | rfl <;> rfl

theorem coreCsr_putCoreCsr (s : State) (c : Nat) (v m : Word) :
    ∀ n ∈ [0x812, 0x5C0, 0x5C1, 0x5C2, 0x5C3, 0x5C5, 0x5C6, 0x5C7, 0x5C8, 0x9D4, 0x9D5, 0x9D6, 0x9D7, 0x9D8, 0x9D9, 0x9DA],
    (s.putCoreCsr c n v m).coreCsr c n = csrMerge n (s.coreCsr c n) v m := by
  intro n hn
  simp only [List.mem_cons, List.not_mem_nil, or_false] at hn
  rcases hn with rfl | rfl | rfl | rfl | rfl | rfl | rfl | rfl | rfl | rfl | rfl | rfl | rfl | rfl | rfl | rfl <;>
    simp [State.putCoreCsr, State.coreCsr]

/-! Registers of a group, each under its own number. -/

theorem csr_mcfg (t : Slot) {n : Nat} (h : 0x808 ≤ n ∧ n ≤ 0x80F) : t.csr n = (nget t.mcfg (n - 0x808)).getD mcfgReset := by
  unfold Slot.csr; rw [if_pos h]

theorem csr_putCsr_mcfg (t : Slot) (v m : Word) {n : Nat} (h : 0x808 ≤ n ∧ n ≤ 0x80F) : (t.putCsr n v m).csr n = csrMerge n (t.csr n) v m := by
  rw [csr_mcfg _ h]
  unfold Slot.putCsr
  simp [h]

theorem coreCsr_evsel (s : State) (c : Nat) {n : Nat} (h : 0x9C0 ≤ n ∧ n ≤ 0x9C7) : s.coreCsr c n = (nget (s.core c).evsel (n - 0x9C0)).getD 0 := by
  unfold State.coreCsr; rw [if_pos h]

theorem coreCsr_evcnt (s : State) (c : Nat) {n : Nat} (h : 0x9C8 ≤ n ∧ n ≤ 0x9CF) : s.coreCsr c n = (nget (s.core c).evcnt (n - 0x9C8)).getD 0 := by
  unfold State.coreCsr; rw [if_neg (by omega), if_pos h]

theorem coreCsr_bp (s : State) (c : Nat) {n : Nat} (h : 0x9D0 ≤ n ∧ n ≤ 0x9D3) : s.coreCsr c n = (nget (s.core c).bp (n - 0x9D0)).getD 0 := by
  unfold State.coreCsr; rw [if_neg (by omega), if_neg (by omega), if_pos h]

theorem coreCsr_putCoreCsr_evsel (s : State) (c : Nat) (v m : Word) {n : Nat} (h : 0x9C0 ≤ n ∧ n ≤ 0x9C7) :
    (s.putCoreCsr c n v m).coreCsr c n = csrMerge n (s.coreCsr c n) v m := by
  rw [coreCsr_evsel _ _ h]
  unfold State.putCoreCsr
  simp [h]

theorem coreCsr_putCoreCsr_evcnt (s : State) (c : Nat) (v m : Word) {n : Nat} (h : 0x9C8 ≤ n ∧ n ≤ 0x9CF) :
    (s.putCoreCsr c n v m).coreCsr c n = csrMerge n (s.coreCsr c n) v m := by
  rw [coreCsr_evcnt _ _ h]
  unfold State.putCoreCsr
  simp [h, show ¬ n ≤ 0x9C7 by omega]

theorem coreCsr_putCoreCsr_bp (s : State) (c : Nat) (v m : Word) {n : Nat} (h : 0x9D0 ≤ n ∧ n ≤ 0x9D3) :
    (s.putCoreCsr c n v m).coreCsr c n = csrMerge n (s.coreCsr c n) v m := by
  rw [coreCsr_bp _ _ h]
  unfold State.putCoreCsr
  simp [h, show ¬ n ≤ 0x9C7 by omega, show ¬ n ≤ 0x9CF by omega]

/-! ## Bits and fields of a word -/

theorem getLsbD_setField (v : Word) (lo w x i : Nat) (h : lo + w ≤ 64) :
    (setField v lo w x).getLsbD i = if lo ≤ i ∧ i < lo + w then x.testBit (i - lo) else v.getLsbD i := by
  by_cases hi : i < 64
  · have e : v.toNat - fieldOf v.toNat lo w * 2 ^ lo + x % 2 ^ w * 2 ^ lo = 2 ^ lo * (2 ^ w * (v.toNat / 2 ^ (lo + w)) + x % 2 ^ w) + v.toNat % 2 ^ lo := by
      have h1 : v.toNat = 2 ^ lo * (v.toNat / 2 ^ lo) + v.toNat % 2 ^ lo := (Nat.div_add_mod ..).symm
      have h2 : v.toNat / 2 ^ lo = 2 ^ w * (v.toNat / 2 ^ (lo + w)) + v.toNat / 2 ^ lo % 2 ^ w := by
        rw [Nat.pow_add, ← Nat.div_div_eq_div_mul]; exact (Nat.div_add_mod ..).symm
      have h3 : v.toNat - fieldOf v.toNat lo w * 2 ^ lo = 2 ^ lo * (2 ^ w * (v.toNat / 2 ^ (lo + w))) + v.toNat % 2 ^ lo := by
        unfold fieldOf
        rw [Nat.shiftRight_eq_div_pow, Nat.mul_comm (_ % _)]
        conv_lhs => lhs; rw [h1, h2]
        rw [Nat.mul_add]; omega
      rw [h3]; ring
    unfold setField wd
    rw [BitVec.getLsbD_ofNat, e]
    simp only [hi, decide_true, Bool.true_and]
    rw [Nat.testBit_two_pow_mul_add _ (Nat.mod_lt _ (Nat.two_pow_pos _))]
    split
    · next h1 =>
      rw [if_neg (by omega), Nat.testBit_mod_two_pow]
      simp only [h1, decide_true, Bool.true_and]
      rfl
    · next h1 =>
      rw [Nat.testBit_two_pow_mul_add _ (Nat.mod_lt _ (Nat.two_pow_pos _))]
      split
      · next h2 => rw [if_pos (by omega), Nat.testBit_mod_two_pow]; simp [h2]
      · next h2 =>
        rw [if_neg (by omega), Nat.testBit_div_two_pow]
        show v.getLsbD _ = _
        congr 1; omega
  · rw [if_neg (by omega), BitVec.getLsbD_of_ge _ _ (by omega), BitVec.getLsbD_of_ge _ _ (by omega)]

theorem testBit_wf (v : Word) (lo n i : Nat) : (wf v lo n).testBit i = (decide (i < n) && v.getLsbD (lo + i)) := by
  unfold wf fieldOf
  rw [Nat.testBit_mod_two_pow, Nat.testBit_shiftRight]; rfl

theorem wf_congr {u v : Word} {lo n : Nat} (h : ∀ i < n, u.getLsbD (lo + i) = v.getLsbD (lo + i)) : wf u lo n = wf v lo n := by
  refine Nat.eq_of_testBit_eq fun i => ?_
  rw [testBit_wf, testBit_wf]
  by_cases hi : i < n
  · rw [h i hi]
  · simp [hi]

theorem wf_setField_same (v : Word) (lo w x : Nat) (h : lo + w ≤ 64) : wf (setField v lo w x) lo w = x % 2 ^ w := by
  refine Nat.eq_of_testBit_eq fun i => ?_
  rw [testBit_wf, getLsbD_setField _ _ _ _ _ h, Nat.testBit_mod_two_pow]
  by_cases hi : i < w
  · rw [if_pos ⟨by omega, by omega⟩, Nat.add_sub_cancel_left]
  · simp [hi]

theorem wf_setField_disjoint (v : Word) (lo w x lo' n : Nat) (h : lo + w ≤ 64) (hd : lo' + n ≤ lo ∨ lo + w ≤ lo') : wf (setField v lo w x) lo' n = wf v lo' n :=
  wf_congr fun i hi => by rw [getLsbD_setField _ _ _ _ _ h, if_neg (by omega)]

/-! ## The directory registers and the pound (R173, R326) -/

theorem wf_dirCut_count (w : Word) : wf (dirCut w) 35 17 = min (wf w 35 17) 65536 := by
  unfold dirCut
  split
  · rw [wf_setField_same _ _ _ _ (by omega)]; omega
  · omega

theorem wf_dirCut_other (w : Word) (lo n : Nat) (h : lo + n ≤ 35 ∨ 52 ≤ lo) : wf (dirCut w) lo n = wf w lo n := by
  unfold dirCut
  split
  · exact wf_setField_disjoint _ _ _ _ _ _ (by omega) h
  · rfl

/-- A field whose bits are all read-write takes the written bits. -/
theorem wf_merge_written (cur v m : Word) (lo n : Nat) (h : ∀ i < n, m.getLsbD (lo + i) = true) : wf (cur &&& ~~~m ||| v &&& m) lo n = wf v lo n :=
  wf_congr fun i hi => by simp [h i hi]

/-- A field none of whose bits is read-write stays. -/
theorem wf_merge_kept (cur v m : Word) (lo n : Nat) (hl : lo + n ≤ 64) (h : ∀ i < n, m.getLsbD (lo + i) = false) :
    wf (cur &&& ~~~m ||| v &&& m) lo n = wf cur lo n :=
  wf_congr fun i hi => by
    have hi' : lo + i < 64 := by omega
    simp only [BitVec.getLsbD_or, BitVec.getLsbD_and, BitVec.getLsbD_not, h i hi, hi', decide_true, Bool.not_false, Bool.and_true, Bool.and_false, Bool.or_false]

/-- A write of a directory register: written fields, the count cut, the bits between them kept. -/
theorem wf_csrMerge_dir (cur v : Word) {n : Nat} (h : n = 0x5C0 ∨ n = 0x5C1) :
    wf (csrMerge n cur v (BitVec.allOnes 64)) 35 17 = min (wf v 35 17) 65536 ∧ wf (csrMerge n cur v (BitVec.allOnes 64)) 0 31 = wf v 0 31 ∧
    wf (csrMerge n cur v (BitVec.allOnes 64)) 52 12 = wf v 52 12 ∧ wf (csrMerge n cur v (BitVec.allOnes 64)) 31 4 = wf cur 31 4 := by
  have e : csrMerge n cur v (BitVec.allOnes 64) = dirCut (cur &&& ~~~0xFFFFFFF87FFFFFFF ||| v &&& 0xFFFFFFF87FFFFFFF) := by
    unfold csrMerge
    rw [if_pos h]
    rcases h with rfl | rfl <;>
      simp only [csrRwBits, csrW1cBits, BitVec.and_allOnes, BitVec.ofNat_eq_ofNat, BitVec.and_zero, BitVec.not_zero] <;> rfl
  rw [e, wf_dirCut_count, wf_dirCut_other _ 0 31 (by omega), wf_dirCut_other _ 52 12 (by omega), wf_dirCut_other _ 31 4 (by omega),
    wf_merge_written _ _ _ 35 17 (by decide), wf_merge_written _ _ _ 0 31 (by decide), wf_merge_written _ _ _ 52 12 (by decide),
    wf_merge_kept _ _ _ 31 4 (by omega) (by decide)]
  exact ⟨rfl, rfl, rfl, rfl⟩

theorem poundUsed_modCore (s : State) (c : Nat) {f : Core → Core} (hf : (f (s.core c)).ls = (s.core c).ls) : (s.modCore c f).poundUsed c = s.poundUsed c := by
  unfold State.poundUsed
  rw [core_modCore_self, hf]; rfl

theorem coreCsr_pound (s : State) (c : Nat) : s.coreCsr c 0x5C4 = setField (s.core c).poundReg 48 8 (s.poundUsed c) := rfl

/-- A write of the pound register leaves its count, which it does not keep. -/
theorem coreCsr_putCoreCsr_pound (s : State) (c : Nat) (v m : Word) : (s.putCoreCsr c 0x5C4 v m).coreCsr c 0x5C4 = csrMerge 0x5C4 (s.coreCsr c 0x5C4) v m := by
  have hp : (s.putCoreCsr c 0x5C4 v m).poundUsed c = s.poundUsed c := by
    unfold State.putCoreCsr; exact poundUsed_modCore s c (by simp)
  have hr : ((s.putCoreCsr c 0x5C4 v m).core c).poundReg = setField (csrMerge 0x5C4 (s.coreCsr c 0x5C4) v m) 48 8 0 := by
    unfold State.putCoreCsr; rw [core_modCore_self]; simp
  have hw : csrMerge 0x5C4 (s.coreCsr c 0x5C4) v m = s.coreCsr c 0x5C4 &&& ~~~(v &&& 0xC000000000000000 &&& m) := by
    have hm : csrMerge 0x5C4 (s.coreCsr c 0x5C4) v m =
        (s.coreCsr c 0x5C4 &&& ~~~(0#64 &&& m) ||| v &&& (0#64 &&& m)) &&& ~~~(v &&& 0xC000000000000000 &&& m) := by simp [csrMerge, csrRwBits, csrW1cBits]
    rw [hm, BitVec.zero_and, BitVec.and_zero, BitVec.or_zero, BitVec.not_zero, BitVec.and_allOnes]
  rw [coreCsr_pound, hp, hr, hw, coreCsr_pound]
  generalize s.poundUsed c = u
  refine BitVec.eq_of_getLsbD_eq fun i hi => ?_
  rw [getLsbD_setField _ _ _ _ _ (by omega), getLsbD_setField _ _ _ _ _ (by omega)]
  by_cases h : 48 ≤ i ∧ i < 48 + 8
  · have hc : ∀ j < 8, (0xC000000000000000 : Word).getLsbD (48 + j) = false := by decide
    have hi' := hc (i - 48) (by omega)
    rw [show 48 + (i - 48) = i by omega] at hi'
    rw [if_pos h, BitVec.getLsbD_and, BitVec.getLsbD_not, BitVec.getLsbD_and, BitVec.getLsbD_and, hi', getLsbD_setField _ _ _ _ _ (by omega), if_pos h]
    simp [hi]
  · rw [if_neg h, if_neg h]

/-! ## Read-only registers -/

theorem putCsr_readOnly (t : Slot) (v m : Word) : ∀ n ∈ [0xC02, 0xCC2, 0xCC8, 0xCC9, 0xCCA, 0xCCB, 0xCCC, 0xCCD, 0xCCE, 0xCCF], t.putCsr n v m = t := by
  intro n hn
  simp only [List.mem_cons, List.not_mem_nil, or_false] at hn
  rcases hn with rfl | rfl | rfl | rfl | rfl | rfl | rfl | rfl | rfl | rfl <;> rfl

theorem putCoreCsr_readOnly (s : State) (c : Nat) (v m : Word) :
    ∀ n ∈ [0xC00, 0xC03, 0xC04, 0xC05, 0xC06, 0xC07, 0xC08, 0xC09, 0xC0A, 0xCC0, 0xCC1, 0xDC0, 0xDC1], s.putCoreCsr c n v m = s.modCore c (fun k => k) := by
  intro n hn
  simp only [List.mem_cons, List.not_mem_nil, or_false] at hn
  rcases hn with rfl | rfl | rfl | rfl | rfl | rfl | rfl | rfl | rfl | rfl | rfl | rfl | rfl <;> rfl

theorem coreCsr_modCore_id (s : State) (c n : Nat) : (s.modCore c (fun k => k)).coreCsr c n = s.coreCsr c n := by
  unfold State.coreCsr
  rw [core_modCore_self, poundUsed_modCore s c rfl]

theorem readCsr_modCore_id (s : State) (n : Nat) : (s.modCore s.curCore (fun k => k)).readCsr n = s.readCsr n := by
  have hh : (s.modCore s.curCore (fun k => k)).here = s.here := core_modCore_self ..
  have hm : (s.modCore s.curCore (fun k => k)).me = s.me := congrArg (fun k : Core => k.slot s.curSlot) (core_modCore_self ..)
  unfold State.readCsr
  rw [hh, hm, modCore_curCore, coreCsr_modCore_id, coreCsr_modCore_id]; rfl

/-! ## The obligation -/

/-- The registers that have one number each, of the slot and of the core. -/
def maskedSlotCsrs : List Nat := [0x800, 0x801, 0x802, 0x803, 0x804, 0x805, 0x806, 0x807, 0x810, 0x811]
def maskedCoreCsrs : List Nat := [0x812, 0x5C2, 0x5C3, 0x5C4, 0x5C5, 0x5C6, 0x5C7, 0x5C8, 0x9D4, 0x9D5, 0x9D6, 0x9D7, 0x9D8, 0x9D9, 0x9DA]

/-- What a register with a mask of read-write and one of write-1-to-clear bits reads after a write. -/
theorem readCsr_writeCsr_masked (s : State) (v : Word) (n : Nat) (h : n ∈ maskedSlotCsrs ++ maskedCoreCsrs) :
    (s.writeCsr n v).readCsr n = (s.readCsr n &&& ~~~csrRwBits n ||| v &&& csrRwBits n) &&& ~~~(v &&& csrW1cBits n) := by
  have hd : ∀ n ∈ maskedSlotCsrs ++ maskedCoreCsrs, ¬(n = 0x5C0 ∨ n = 0x5C1) := by decide
  rw [← csrMerge_all n _ v (hd n h)]
  rcases List.mem_append.1 h with h | h
  · have hs : ∀ n ∈ maskedSlotCsrs, csrOfSlot n = true := by decide
    rw [readCsr_writeCsr_slot s v (hs n h), csr_putCsr _ _ _ n h, readCsr_of_slot s (hs n h)]
  · have hc : ∀ n ∈ maskedCoreCsrs, csrOfCore n = true := by decide
    have hm : ∀ n ∈ maskedCoreCsrs, n = 0x5C4 ∨
        n ∈ [0x812, 0x5C0, 0x5C1, 0x5C2, 0x5C3, 0x5C5, 0x5C6, 0x5C7, 0x5C8, 0x9D4, 0x9D5, 0x9D6, 0x9D7, 0x9D8, 0x9D9, 0x9DA] := by decide
    rw [readCsr_writeCsr_core s v (hc n h), readCsr_of_core s (hc n h)]
    rcases hm n h with rfl | hm
    · exact coreCsr_putCoreCsr_pound s _ v _
    · exact coreCsr_putCoreCsr s _ v _ n hm

/-- A register of a group, whose bits are all read-write or all kept, reads after a write as written under its mask. -/
theorem readCsr_writeCsr_group (s : State) (v : Word) {n : Nat} (h : (0x808 ≤ n ∧ n ≤ 0x80F) ∨ (0x9C0 ≤ n ∧ n ≤ 0x9C7) ∨ (0x9C8 ≤ n ∧ n ≤ 0x9CF) ∨ (0x9D0 ≤ n ∧ n ≤ 0x9D3)) :
    (s.writeCsr n v).readCsr n = (s.readCsr n &&& ~~~csrRwBits n ||| v &&& csrRwBits n) := by
  have hw : csrW1cBits n = 0 := by rcases h with h | h | h | h <;> obtain ⟨h1, h2⟩ := h <;> interval_cases n <;> rfl
  have e (cur : Word) : csrMerge n cur v (BitVec.allOnes 64) = (cur &&& ~~~csrRwBits n ||| v &&& csrRwBits n) := by
    rw [csrMerge_all n cur v (by omega), hw, BitVec.ofNat_eq_ofNat, BitVec.and_zero, BitVec.not_zero, BitVec.and_allOnes]
  rw [← e]
  by_cases h1 : 0x808 ≤ n ∧ n ≤ 0x80F
  · have hs : csrOfSlot n = true := by simp [csrOfSlot]; omega
    rw [readCsr_writeCsr_slot s v hs, csr_putCsr_mcfg _ _ _ h1, readCsr_of_slot s hs]
  · have hc : csrOfCore n = true := by simp [csrOfCore, csrOfSlot]; omega
    rw [readCsr_writeCsr_core s v hc, readCsr_of_core s hc]
    rcases h with h | h | h | h
    · exact absurd h h1
    · exact coreCsr_putCoreCsr_evsel s _ v _ h
    · exact coreCsr_putCoreCsr_evcnt s _ v _ h
    · exact coreCsr_putCoreCsr_bp s _ v _ h

/-- A write of a directory register, field by field. -/
theorem readCsr_writeCsr_dir (s : State) (v : Word) (n : Nat) (h : n = 0x5C0 ∨ n = 0x5C1) :
    (s.writeCsr n v).readCsr n = csrMerge n (s.readCsr n) v (BitVec.allOnes 64) := by
  have hc : csrOfCore n = true := by rcases h with rfl | rfl <;> rfl
  rw [readCsr_writeCsr_core s v hc, readCsr_of_core s hc]
  exact coreCsr_putCoreCsr s _ v _ n (by rcases h with rfl | rfl <;> simp)

theorem readCsr_writeCsr_readOnly (s : State) (v : Word) (n : Nat)
    (h : n ∈ [0xC02, 0xCC2, 0xCC8, 0xCC9, 0xCCA, 0xCCB, 0xCCC, 0xCCD, 0xCCE, 0xCCF] ∨
      n ∈ [0xC00, 0xC03, 0xC04, 0xC05, 0xC06, 0xC07, 0xC08, 0xC09, 0xC0A, 0xCC0, 0xCC1, 0xDC0, 0xDC1]) : (s.writeCsr n v).readCsr n = s.readCsr n := by
  rcases h with h | h
  · have hs : ∀ n ∈ [0xC02, 0xCC2, 0xCC8, 0xCC9, 0xCCA, 0xCCB, 0xCCC, 0xCCD, 0xCCE, 0xCCF], csrOfSlot n = true := by decide
    rw [readCsr_writeCsr_slot s v (hs n h), putCsr_readOnly _ _ _ n h, readCsr_of_slot s (hs n h)]
  · have hs : ∀ n ∈ [0xC00, 0xC03, 0xC04, 0xC05, 0xC06, 0xC07, 0xC08, 0xC09, 0xC0A, 0xCC0, 0xCC1, 0xDC0, 0xDC1], csrOfSlot n = false := by decide
    unfold State.writeCsr
    rw [if_neg (by simp [hs n h]), putCoreCsr_readOnly _ _ _ _ n h, readCsr_modCore_id]

/-- Settles O14: the instructions by `issue_csr`, each kind of register by what it reads after a write. -/
theorem csrs : Obligations.Csrs := by
  refine ⟨?_, ?_⟩
  · intro s csr rs1 rd hn hd hr hk n old u out
    have he : examine s.me [dx rd] = .pass := by rw [examine_dx _ _ _ hd, examine_nil]
    refine ⟨?_, ?_, ?_, fun h1 => ?_⟩
    · rw [exec_csrrwi]; exact issue_csr s _ csr rd _ true (fun _ _ => u) hn hr hk he
    · rw [exec_csrrsi]; exact issue_csr_field s _ csr rs1 rd _ (fun _ o => o ||| u) hn hr hk he
    · rw [exec_csrrci]; exact issue_csr_field s _ csr rs1 rd _ (fun _ o => o &&& ~~~u) hn hr hk he
    · have he : examine s.me [sx rs1, dx rd] = .pass := by rw [examine_sx _ _ _ h1, examine_dx _ _ _ hd, examine_nil]
      refine ⟨?_, ?_, ?_⟩
      · rw [exec_csrrw]; exact issue_csr s _ csr rd _ true (fun s _ => s.xv rs1) hn hr hk he
      · rw [exec_csrrs]; exact issue_csr_field s _ csr rs1 rd _ (fun s o => o ||| s.xv rs1) hn hr hk he
      · rw [exec_csrrc]; exact issue_csr_field s _ csr rs1 rd _ (fun s o => o &&& ~~~(s.xv rs1)) hn hr hk he
  · intro s v one several
    refine ⟨fun p hp => ?_, fun p hp n h1 h2 => ?_, fun n hn => ?_, fun n hn => ?_⟩
    · have hm : ∀ p ∈ one, p.1 ∈ maskedSlotCsrs ++ maskedCoreCsrs ∧ p.2.1 = csrRwBits p.1 ∧ p.2.2 = csrW1cBits p.1 := by decide
      obtain ⟨hm, hr, hw⟩ := hm p hp
      rw [hr, hw]
      exact readCsr_writeCsr_masked s v p.1 hm
    · simp only [several, List.mem_cons, List.not_mem_nil, or_false] at hp
      have hr : p.2.2 = csrRwBits n := by
        rcases hp with rfl | rfl | rfl | rfl <;> dsimp only at h1 h2 <;> interval_cases n <;> rfl
      rw [hr]
      exact readCsr_writeCsr_group s v (by rcases hp with rfl | rfl | rfl | rfl <;> dsimp only at h1 h2 <;> omega)
    · rw [readCsr_writeCsr_dir s v n hn]
      exact wf_csrMerge_dir _ v hn
    · exact readCsr_writeCsr_readOnly s v n (by simp only [List.mem_cons, List.not_mem_nil, or_false]; omega)

end Sys2Proof.Machine
end

section
/-! Copy registers and CPGO (O30): who may use a channel, the checks of a configuration, and what its start leaves (R266 to R274, R295). -/

namespace Sys2Proof.Machine

/-! ## Who may use a channel (R17) -/

theorem chanOpen_iff (s : State) (ch : Nat) (r : Role) :
    s.chanOpen ch r = true ↔ (r ≠ .t ∧ r ≠ .none) ∧ ∀ b, nget s.here.bound ch = some b → b = s.curSlot := by
  unfold State.chanOpen notT
  cases nget s.here.bound ch <;> simp

/-- A slot that may not use the channel traps with cause 29 (R17, R64). -/
theorem issue_role_trap (fm : Form) (body : State → Act) (s : State) (hp : fm.priv = false) (hs : fm.scope = none) (hr : fm.roles s.me.role = false) :
    issue fm body s = .next (s.trap 29 (Sys2Proof.wordOf fm.instr)) := by
  simp [issue, hp, hs, hr]

/-- An update of a channel as the channel that it comes to. -/
theorem modChan_eq (s : State) (c ch : Nat) (f : Channel → Channel) : s.modChan c ch f = s.modChan c ch (fun _ => f (s.chan c ch)) := rfl

/-- CPW of an open channel. -/
theorem exec_cpw_open (s : State) (ch : BitVec 2) (idx rs1 : BitVec 5) (y : Channel) (hn : s.noRepeat) (ho : s.chanOpen ch.toNat s.me.role = true)
    (h1 : s.readable .x rs1.toNat)
    (hy : (match idx.toNat with
      | 26 => { s.chan s.curCore ch.toNat with srseed := s.xv rs1 }
      | 27 => { s.chan s.curCore ch.toNat with srctr := s.xv rs1 }
      | 28 | 29 => s.chan s.curCore ch.toNat
      | i => { s.chan s.curCore ch.toNat with shadow := nput (s.chan s.curCore ch.toNat).shadow i (s.xv rs1 &&& chanBits i) }) = y) :
    exec (.cpw ch idx rs1) s = .next ((s.modChan s.curCore ch.toNat (fun _ => y)).goneTo (s.me.pc + 4)) := by
  rw [exec_cpw]
  refine issue_done _ _ s _ (by simp) (by simp) ho hn (by rw [examine_sx _ _ _ h1, examine_nil]) (arrayHolds_nil _ _ rfl) ?_
  rw [← hy]; rfl

/-- CPCANCEL of an open channel. -/
theorem exec_cpcancel_open (s : State) (ch : BitVec 2) (y : Channel) (hn : s.noRepeat) (ho : s.chanOpen ch.toNat s.me.role = true)
    (hy : (match (s.chan s.curCore ch.toNat).st with
      | .idle | .cancelling => s.chan s.curCore ch.toNat
      | _ => if (s.chan s.curCore ch.toNat).fail.isSome || (s.chan s.curCore ch.toNat).written || (s.chan s.curCore ch.toNat).flipSent ||
          ((s.chan s.curCore ch.toNat).op == 4 && (s.chan s.curCore ch.toNat).mcSent) then s.chan s.curCore ch.toNat
        else { s.chan s.curCore ch.toNat with st := .cancelling }) = y) :
    exec (.cpcancel ch) s = .next ((s.modChan s.curCore ch.toNat (fun _ => y)).goneTo (s.me.pc + 4)) := by
  rw [exec_cpcancel]
  refine issue_done _ _ s _ (by simp) (by simp) ho hn rfl (arrayHolds_nil _ _ rfl) ?_
  rw [← hy]; rfl

/-- CPR (R273). -/
theorem exec_cpr_read (s : State) (ch : BitVec 2) (idx rd : BitVec 5) (hn : s.noRepeat) (hr : s.me.role ≠ .t ∧ s.me.role ≠ .none) (hd : s.writable .x rd.toNat) :
    exec (.cpr ch idx rd) s = .next (s.wrote rd ((s.chan s.curCore ch.toNat).read idx.toNat)) := by
  rw [exec_cpr]
  exact issue_done _ _ s _ (by simp) (by simp) (by simp [notT, hr]) hn (by rw [examine_dx _ _ _ hd, examine_nil]) (arrayHolds_nil _ _ rfl) rfl

/-! ## The checks of a configuration (R274) -/

/-- The extent at which the product, taken outward, first reaches 2^40. -/
theorem boxIndex_eq (f : Nat → Nat) :
    boxIndex ((List.range 6).map f) 8 1 = 8 + ((List.range 6).find? (fun d => decide (2 ^ 40 ≤ ((List.range (d + 1)).map f).prod))).getD 0 := by
  have e : List.range 6 = [0, 1, 2, 3, 4, 5] := rfl
  rw [e]
  simp only [List.map_cons, List.map_nil, boxIndex, List.find?_cons, List.find?_nil, List.range_succ, List.range_zero, List.map_append, List.prod_append,
    List.prod_cons, List.prod_nil, Nat.one_mul, Nat.mul_one]
  grind


/-- The conditions of the format of an operation (R268, R274). -/
theorem format_bad_iff (op fmt es rm : Nat) :
    (decide (5 ≤ op) || (decide (1 ≤ op) && decide (op ≤ 3) && es != 2) || ((op == 2 || op == 3) && decide (5 ≤ rm)) ||
        (op == 2 && (decide (fmt < 2) || decide (3 < fmt))) || (op == 3 && (decide (fmt < 2) || decide (6 < fmt)))) = true ↔
      5 ≤ op ∨ (op = 1 ∧ es ≠ 2) ∨ ((op = 2 ∨ op = 3) ∧ (es ≠ 2 ∨ fmt < 2 ∨ (if op = 2 then 3 else 6) < fmt ∨ 5 ≤ rm)) := by
  simp only [Bool.or_eq_true, Bool.and_eq_true, decide_eq_true_eq, beq_iff_eq, bne_iff_ne, ne_eq]
  constructor
  · rintro ((((h | h) | h) | h) | h) <;> split <;> omega
  · split <;> omega

/-- The first check of R274 that a configuration fails, on the shadow set. -/
def Channel.refusal (x : Channel) (scope : Option Nat) : Option (Nat × Nat) :=
  let ctl := x.shadowReg 0
  let op := wf ctl 60 4
  let fmt := wf ctl 56 4
  let es := wf ctl 50 2
  let product (n : Nat) : Nat := ((List.range n).map (fun d => wf (x.shadowReg (8 + d)) 0 32)).prod
  if 5 ≤ op ∨ (op = 1 ∧ es ≠ 2) ∨ ((op = 2 ∨ op = 3) ∧ (es ≠ 2 ∨ fmt < 2 ∨ (if op = 2 then 3 else 6) < fmt ∨ 5 ≤ wf ctl 53 3)) then some (1, 0)
  else if 2 ^ 40 ≤ product 6 then some (2, 8 + ((List.range 6).find? (fun d => 2 ^ 40 ≤ product (d + 1))).getD 0)
  else if op = 3 ∧ wf (x.shadowReg 8) 0 32 % 32 ≠ 0 then some (2, 8)
  else if op ≠ 4 ∧ 2 ≤ wf ctl 48 2 then some (3, 0)
  else if (op = 4 ∨ wf ctl 48 2 = 1) ∧ 0xFFFFF < (x.shadowReg 2).toNat then some (3, 2)
  else if scope = none then some (4, 0)
  else if (x.shadowReg 3).getLsbD 63 = true ∧ 48 ≤ wf (x.shadowReg 3) 16 6 then some (5, 3)
  else if op = 4 ∧ (x.shadowReg 5).getLsbD 47 = true ∧ 48 ≤ wf (x.shadowReg 5) 40 6 then some (5, 5)
  else if op = 4 ∧ (x.shadowReg 3).getLsbD 63 = false then some (5, 3)
  else none

theorem refused_eq (x : Channel) (scope : Option Nat) : x.refused scope = x.refusal scope := by
  unfold Channel.refused Channel.refusal
  dsimp only
  refine if_congr ?_ rfl (if_congr ?_ ?_ (if_congr ?_ rfl (if_congr Iff.rfl rfl (if_congr Iff.rfl rfl (if_congr ?_ rfl (if_congr ?_ rfl (if_congr Iff.rfl rfl
    (if_congr ?_ rfl rfl))))))))
  · exact format_bad_iff ..
  · rw [← List.prod_eq_foldl]
  · rw [boxIndex_eq (fun d => wf (x.shadowReg (8 + d)) 0 32)]
  · exact Iff.rfl
  · simp
  · simp
  · simp [ctlOp]

/-! ## The start of a copy (R274, R275) -/

/-- The channel that CPGO leaves (R275). -/
def State.started (u : State) (x : Channel) (sc : Option Nat) (c : Option Nat) : Channel :=
  { Channel.reset with
    shadow := x.shadow
    srseed := x.srseed
    srctr := if (ctlOp (x.shadowReg 0) = 2 ∨ ctlOp (x.shadowReg 0) = 3) ∧ ctlRm (x.shadowReg 0) = 4 then x.srctr + 1 else x.srctr
    st := .active
    act := x.shadow
    slot := u.curSlot
    scope := sc.getD 0
    capSeed := x.srseed
    capCtr := x.srctr
    waits := u.releaseWaits (sc.getD 0)
    sysWaits := u.releaseWaits 4
    serial := u.nextId
    side := x.side
    reason := x.reason
    faddr := x.faddr
    claim := c }

/-- The state after CPGO's own effects. -/
def State.afterStart (u : State) (c n : Nat) (y : Channel) : State :=
  ((u.bump).modChan c n (fun _ => y)).modMe (fun t => { t with missScope := none })

/-- The scope that a configuration names. -/
def State.copyScope (s : State) (x : Channel) : Option Nat := s.resolveScope (BitVec.ofNat 4 (ctlScope (x.shadowReg 0)))

/-- The multicast rectangle of a configuration. -/
def Channel.rect (x : Channel) : BitVec 20 := BitVec.ofNat 20 (wf (x.shadowReg 5) 0 20)

/-- The partition of the core whose slot has its turn. -/
def State.herePart (s : State) : Nat := (s.site (siteOf s.curCore)).part.toNat

/-- A multicast whose rectangle leaves the partition (R49). -/
def State.rectLeaves (s : State) (x : Channel) : Prop :=
  wf (x.shadowReg 0) 60 4 = 4 ∧ (rectOut x.rect = true ∨ ∃ n ∈ rectSites x.rect, inRect (s.partRect s.herePart) n = false)


section
variable (s : State) (ch : BitVec 2) (rd : BitVec 5) (hn : s.noRepeat) (ho : s.chanOpen ch.toNat s.me.role = true) (hd : s.writable .x rd.toNat)
include hn ho hd

/-- A busy channel holds CPGO (R274). -/
theorem exec_cpgo_busy (h : (s.chan s.curCore ch.toNat).st ≠ .idle) : exec (.cpgo ch rd) s = .next s.bubble := by
  rw [exec_cpgo]
  refine (issue_eq _ _ s (by simp) (by simp) ho hn (by rw [examine_dx _ _ _ hd, examine_nil])).trans ?_
  rw [if_pos h]; rfl

variable (hi : (s.chan s.curCore ch.toNat).st = .idle)
include hi

/-- A latched failed store stops CPGO (R130). -/
theorem exec_cpgo_stfail (h : s.me.stfail.getLsbD 63 = true) : exec (.cpgo ch rd) s = .next (s.trap 7 (BitVec.ofNat 64 (wf s.me.stfail 0 43))) := by
  rw [exec_cpgo]
  refine (issue_eq _ _ s (by simp) (by simp) ho hn (by rw [examine_dx _ _ _ hd, examine_nil])).trans ?_
  rw [if_neg (not_not_intro hi)]
  unfold releaseCheck
  rw [if_pos h]; rfl

/-- A latched scope miss stops CPGO (R166). -/
theorem exec_cpgo_miss (h : s.me.stfail.getLsbD 63 = false) (h1 : s.me.ordctl.getLsbD 63 = true) (h2 : s.me.ordctl.getLsbD 62 = true) :
    exec (.cpgo ch rd) s = .next (s.trap 31 (BitVec.ofNat 64 (wf s.me.ordctl 0 43))) := by
  rw [exec_cpgo]
  refine (issue_eq _ _ s (by simp) (by simp) ho hn (by rw [examine_dx _ _ _ hd, examine_nil])).trans ?_
  rw [if_neg (not_not_intro hi)]
  unfold releaseCheck
  rw [if_neg (by rw [h]; simp), if_pos (by rw [h1, h2]; rfl)]; rfl

variable (hf : s.releaseFree)
include hf

/-- A configuration that fails a check traps with cause 50, the reason and the register (R274). -/
theorem exec_cpgo_refused (r i : Nat) (h : (s.chan s.curCore ch.toNat).refusal (s.copyScope (s.chan s.curCore ch.toNat)) = some (r, i)) :
    exec (.cpgo ch rd) s = .next (s.trap 50 (BitVec.ofNat 64 (r * 2 ^ 56 + ch.toNat * 2 ^ 48 + i))) := by
  rw [exec_cpgo]
  refine (issue_eq _ _ s (by simp) (by simp) ho hn (by rw [examine_dx _ _ _ hd, examine_nil])).trans ?_
  rw [if_neg (not_not_intro hi), releaseCheck_free _ _ hf]
  rw [← refused_eq] at h
  unfold State.copyScope at h
  simp only [h]
  rfl

/-- A multicast that leaves the partition is logged and traps with cause 48 (R49). -/
theorem exec_cpgo_leaves (h : (s.chan s.curCore ch.toNat).refusal (s.copyScope (s.chan s.curCore ch.toNat)) = none) (hl : s.rectLeaves (s.chan s.curCore ch.toNat)) :
    exec (.cpgo ch rd) s = .next ((s.siteViolation (siteOf s.curCore) 4 s.herePart ((fieldOf (s.chan s.curCore ch.toNat).rect.toNat 5 5 * 24 +
      fieldOf (s.chan s.curCore ch.toNat).rect.toNat 0 5) * 2 ^ 33)).trap 48 ((s.chan s.curCore ch.toNat).shadowReg 5)) := by
  rw [exec_cpgo]
  refine (issue_eq _ _ s (by simp) (by simp) ho hn (by rw [examine_dx _ _ _ hd, examine_nil])).trans ?_
  rw [if_neg (not_not_intro hi), releaseCheck_free _ _ hf]
  rw [← refused_eq] at h
  unfold State.copyScope at h
  simp only [h]
  rw [if_pos]
  · rfl
  · simpa [State.rectLeaves, ctlOp, Channel.rect, State.herePart] using hl

/-- CPGO of a configuration that passes, with a claim (R274, R275). -/
theorem exec_cpgo_start (u : State) (c : Option Nat)
    (h : (s.chan s.curCore ch.toNat).refusal (s.copyScope (s.chan s.curCore ch.toNat)) = none) (hl : ¬s.rectLeaves (s.chan s.curCore ch.toNat))
    (hp : s.pend .x rd.toNat 2 false = some (u, c)) :
    exec (.cpgo ch rd) s = .next ((u.afterStart s.curCore ch.toNat (u.started (s.chan s.curCore ch.toNat) (s.copyScope (s.chan s.curCore ch.toNat)) c)).goneTo (s.me.pc + 4)) := by
  rw [exec_cpgo]
  refine issue_done _ _ s _ (by simp) (by simp) ho hn (by rw [examine_dx _ _ _ hd, examine_nil]) (arrayHolds_nil _ _ rfl) ?_
  rw [if_neg (not_not_intro hi), releaseCheck_free _ _ hf]
  rw [← refused_eq] at h
  unfold State.copyScope at h
  simp only [h]
  rw [if_neg, withClaim_some _ _ _ _ _ _ _ _ hp]
  · rfl
  · simpa [State.rectLeaves, ctlOp, Channel.rect, State.herePart] using hl

end


theorem saw_pendReg (t : Slot) (f : RFile) (n v : Nat) : (t.pendReg f n v).saw = t.saw := by
  cases f with
  | x => show (t.setXr n _).saw = _; unfold Slot.setXr; split <;> rfl
  | v => rfl
  | m => rfl
  | c => rfl

/-- Pend leaves what a release waits for as it is. -/
theorem releaseWaits_pendWith (s : State) (f : RFile) (n i : Nat) (cl : Claim) (sc : Nat) : (s.pendWith f n i cl).releaseWaits sc = s.releaseWaits sc := by
  have ha : (s.pendWith f n i cl).here.accs = s.here.accs := by
    unfold State.pendWith
    rw [here_useFree, here_modMe, coreSetSlot_accs, here_modHere, count_accs]
  have hs : (s.pendWith f n i cl).me.saw = s.me.saw := by
    unfold State.pendWith
    rw [me_useFree, me_modMe, saw_pendReg]
    exact (congrArg (fun k : Core => (k.slot s.curSlot).saw) (here_modHere s _)).trans rfl
  unfold State.releaseWaits State.sawWaits Core.outstanding
  rw [ha, hs]; rfl

/-- Whose turn it is, and what a release waits for, stay at Pend. -/
theorem pend_frame (s u : State) (n : Nat) (cls : BitVec 4) (k : Bool) (c : Option Nat) (h : s.pend .x n cls k = some (u, c)) :
    u.curCore = s.curCore ∧ u.curSlot = s.curSlot ∧ ∀ sc, u.releaseWaits sc = s.releaseWaits sc := by
  by_cases h0 : n = 0
  · subst h0; rw [pend_x0] at h; cases h; exact ⟨rfl, rfl, fun _ => rfl⟩
  · have h0' : ¬(RFile.x = .x ∧ n = 0) := fun e => h0 e.2
    by_cases hf : s.here.freeClaims = []
    · rw [pend_full _ _ _ _ _ h0' hf] at h; cases h
    · obtain ⟨i, -, e⟩ := pend_eq s .x n cls k h0' hf
      rw [e] at h; cases h
      exact ⟨rfl, rfl, releaseWaits_pendWith _ _ _ _ _⟩

theorem core_chan_setChan (k : Core) (n : Nat) (x : Channel) : (k.setChan n x).chan n = x := by
  unfold Core.chan Core.setChan
  rw [nget_nput_self]; rfl

/-- Moving on leaves every channel of the core as it is. -/
theorem chan_goneTo (s : State) (pc : Word) (n : Nat) : (s.goneTo pc).chan s.curCore n = s.chan s.curCore n := by
  obtain ⟨t, u, e⟩ := here_goneTo s pc
  exact (congrArg (fun k : Core => k.chan n) e).trans rfl

/-- The channel that CPGO leaves (R275). -/
theorem chan_afterStart (u : State) (c n : Nat) (y : Channel) (pc : Word) (h : c = u.curCore) : ((u.afterStart c n y).goneTo pc).chan c n = y := by
  subst h
  refine (chan_goneTo (u.afterStart u.curCore n y) pc n).trans ?_
  show ((u.afterStart u.curCore n y).here).chan n = y
  unfold State.afterStart
  rw [here_modMe]
  refine (show _ = (u.bump.modChan u.curCore n fun _ => y).here.chan n from rfl).trans ?_
  refine (congrArg (fun k : Core => k.chan n) (core_modCore_self u.bump u.curCore _)).trans ?_
  exact core_chan_setChan ..

theorem me_afterStart (u : State) (c n : Nat) (y : Channel) (pc : Word) :
    ((u.afterStart c n y).goneTo pc).me.pc = pc ∧ ((u.afterStart c n y).goneTo pc).me.missScope = none := by
  rw [me_goneTo]
  refine ⟨rfl, ?_⟩
  unfold State.afterStart
  rw [me_modMe]; rfl

/-- A configuration that passes the checks names a scope (R274). -/
theorem scope_of_refusal_none (x : Channel) (sc : Option Nat) (h : x.refusal sc = none) : some (sc.getD 0) = sc := by
  unfold Channel.refusal at h
  cases sc with
  | some c => rfl
  | none => simp only [if_true] at h; split_ifs at h

/-! ## The three traps for a slot that may not use the channel (R17) -/

theorem exec_copy_closed (s : State) (ch : BitVec 2) (idx rs1 rd : BitVec 5) (h : s.chanOpen ch.toNat s.me.role = false) :
    ∀ i ∈ [Instr.cpgo ch rd, .cpw ch idx rs1, .cpcancel ch], exec i s = .next (s.trap 29 (Sys2Proof.wordOf i)) := by
  intro i hi
  simp only [List.mem_cons, List.not_mem_nil, or_false] at hi
  obtain rfl | rfl | rfl := hi
  · rw [exec_cpgo]; exact issue_role_trap _ _ s rfl rfl h
  · rw [exec_cpw]; exact issue_role_trap _ _ s rfl rfl h
  · rw [exec_cpcancel]; exact issue_role_trap _ _ s rfl rfl h

/-! ## The whole statement -/

/-- Settles O30, by the equations of CPW, CPCANCEL, CPR and CPGO for a channel that the slot may use, and the trap for one that it may not. -/
theorem copyConfiguration : Obligations.CopyConfiguration := by
  unfold Obligations.CopyConfiguration
  refine ⟨?_, ?_⟩
  · intro s ch idx rs1 rd hn ht hno x bits put
    refine ⟨fun hb => ?_, fun hd => ?_⟩
    · have ho : s.chanOpen ch.toNat s.me.role = true := (chanOpen_iff ..).mpr ⟨⟨ht, hno⟩, hb⟩
      refine ⟨fun h1 => ⟨fun hi => exec_cpw_open s ch idx rs1 _ hn ho h1 ?_, exec_cpw_open s ch 26 rs1 _ hn ho h1 rfl, exec_cpw_open s ch 27 rs1 _ hn ho h1 rfl,
        exec_cpw_open s ch 28 rs1 _ hn ho h1 rfl, exec_cpw_open s ch 29 rs1 _ hn ho h1 rfl⟩, ?_, ?_⟩
      · have hi : idx.toNat < 26 := hi
        split
        any_goals omega
        rfl
      · intro h
        refine exec_cpcancel_open s ch x hn ho ?_
        split
        · rfl
        · rfl
        · next h1 h2 =>
          rw [if_pos]
          obtain h | h | h | h | h | ⟨h, h'⟩ := h
          · exact absurd h h1
          · exact absurd h h2
          · rw [Option.isSome_iff_ne_none.mpr h]; rfl
          · rw [show (s.chan s.curCore ch.toNat).written = true from h]; simp
          · rw [show (s.chan s.curCore ch.toNat).flipSent = true from h]; simp
          · rw [show (s.chan s.curCore ch.toNat).op = 4 from h, show (s.chan s.curCore ch.toNat).mcSent = true from h']; simp
      · intro h hf hw hfl hm
        refine exec_cpcancel_open s ch _ hn ho ?_
        have : ¬((x.fail.isSome || x.written || x.flipSent || (x.op == 4 && x.mcSent)) = true) := by
          rw [hf, hw, hfl]; simpa using hm
        obtain h | h := h <;> (rw [show (s.chan s.curCore ch.toNat).st = _ from h]; exact if_neg this)
    · have hr (i : BitVec 5) := exec_cpr_read s ch i rd hn ⟨ht, hno⟩ hd
      refine ⟨fun hi => ?_, hr 26, hr 27, hr 28, hr 29⟩
      rw [hr idx]
      have hi : idx.toNat < 26 := hi
      unfold Channel.read
      split
      any_goals omega
      rfl
  · intro s ch idx rs1 rd hn mine
    refine ⟨fun h => exec_copy_closed s ch idx rs1 rd ?_, ?_⟩
    · rw [← Bool.not_eq_true, chanOpen_iff]
      rintro ⟨⟨h1, -⟩, h2⟩
      exact h.elim (fun h => h1 h) (fun h => h h2)
    · intro ht hno hb hd x ctl op fmt es product scope rect part leaves refusal
      have ho : s.chanOpen ch.toNat s.me.role = true := (chanOpen_iff ..).mpr ⟨⟨ht, hno⟩, hb⟩
      refine ⟨exec_cpgo_busy s ch rd hn ho hd, exec_cpgo_stfail s ch rd hn ho hd, exec_cpgo_miss s ch rd hn ho hd, fun hi hf => ?_⟩
      refine ⟨exec_cpgo_refused s ch rd hn ho hd hi hf, exec_cpgo_leaves s ch rd hn ho hd hi hf, fun u c hr hl hp => ?_⟩
      obtain ⟨huc, hus, huw⟩ := pend_frame s u _ _ _ c hp
      refine ⟨_, exec_cpgo_start s ch rd hn ho hd hi hf u c hr hl hp, (me_afterStart ..).1, (me_afterStart ..).2, ?_⟩
      intro y
      have hy : y = u.started x scope c := chan_afterStart u s.curCore ch.toNat _ _ huc.symm
      rw [hy]
      exact ⟨rfl, rfl, rfl, rfl, hus, rfl, rfl, rfl, rfl, scope_of_refusal_none x scope hr, huw _, rfl, rfl, rfl, rfl⟩

end Sys2Proof.Machine
end

section
/-! The life of a site (O45): what a write at a home leaves waiting, tables written in a fold, the home bits, the commands of the control node, and the
clock tree (R34, R50, R53 to R56, R375, R390). -/

namespace Sys2Proof.Machine

/-! ## Trace records that wait (R375) -/

/-- A fold of steps that leave a part of the state alone leaves it alone. -/
theorem foldl_keeps {α β : Type} (g : State → β) {f : State → α → State} (hf : ∀ u x, g (f u x) = g u) (l : List α) (s : State) : g (l.foldl f s) = g s := by
  induction l generalizing s with
  | nil => rfl
  | cons x l ih => exact (ih _).trans (hf s x)

theorem traceWaits_invalSharers (s : State) (l : Nat) (keep : Option Nat) : (s.invalSharers l keep).traceWaits = s.traceWaits :=
  foldl_keeps State.traceWaits (fun u c => by split <;> rfl) _ s

theorem traceWaits_allocLine (s : State) (l : Nat) (tensor : BitVec 8) : (s.allocLine l tensor).1.traceWaits = s.traceWaits := by
  unfold State.allocLine
  split
  · rfl
  · dsimp only
    split
    · rfl
    · split <;> rfl

theorem traceWaits_putLine (s : State) (l : Nat) (d : BitVec 1024) (code : BitVec 4) : (s.putLine l d code).traceWaits = s.traceWaits := by
  unfold State.putLine
  split <;> rfl

theorem traceWaits_writeThrough (s : State) (c l off n v : Nat) : (s.writeThrough c l off n v).traceWaits = s.traceWaits := by
  unfold State.writeThrough
  dsimp only
  split <;> rfl

theorem traceWaits_semReport (s : State) (pa n : Nat) : (s.semReport pa n).traceWaits = s.traceWaits := by
  refine foldl_keeps State.traceWaits (fun u d => ?_) _ s
  dsimp only
  split
  · exact foldl_keeps State.traceWaits (fun w j => modProc_traceWaits ..) _ u
  · rfl

theorem traceWaits_lineWrite (s : State) (pa n v : Nat) (a : MemAttr) (who : Option (Nat × Nat)) : (s.lineWrite pa n v a who).traceWaits = s.traceWaits := by
  unfold State.lineWrite
  dsimp only
  rw [traceWaits_semReport]
  show State.traceWaits (match who with | some (c, _) => _ | none => _) = _
  have hi := traceWaits_invalSharers s (lineOf (s.gleanPA pa)) (who.map (fun p => s.l1Core p.1 (lineOf (s.gleanPA pa))))
  have ha := traceWaits_allocLine (s.invalSharers (lineOf (s.gleanPA pa)) (who.map (fun p => s.l1Core p.1 (lineOf (s.gleanPA pa))))) (lineOf (s.gleanPA pa)) a.tensor
  cases who with
  | none => dsimp only; rw [traceWaits_putLine, ha, hi]
  | some p =>
    dsimp only
    rw [traceWaits_writeThrough]
    split
    · rw [traceWaits_putLine]; split
      · rw [ha, hi]
      · exact ha.trans hi
    · rw [traceWaits_writeThrough, traceWaits_putLine]; split
      · rw [ha, hi]
      · exact ha.trans hi

theorem traceWaits_writeParts (s : State) (pa n v : Nat) (a : MemAttr) (who : Option (Nat × Nat)) (fuel : Nat) :
    (s.writeParts pa n v a who fuel).traceWaits = s.traceWaits := by
  induction fuel generalizing s pa n v with
  | zero => rfl
  | succ k ih =>
    unfold State.writeParts
    dsimp only
    split
    · exact traceWaits_lineWrite ..
    · rw [ih, traceWaits_lineWrite]

theorem traceWaits_homePuts (s : State) (l : List (Nat × Byte)) (a : MemAttr) (who : Option (Nat × Nat)) : (s.homePuts l a who).traceWaits = s.traceWaits :=
  foldl_keeps State.traceWaits (fun _ _ => traceWaits_writeParts ..) _ s

/-- A trace record waits while the DRAM of its address, or of where it is forwarded, is gated. -/
def State.traceWaiting (s : State) (w : Nat × Nat × List Byte) : Bool := (s.site (homeOf w.2.1)).gated || (s.site (homeOf (s.gleanPA w.2.1))).gated

/-- What becomes of a record whose DRAM runs again. -/
def State.flushOne (s : State) (w : Nat × Nat × List Byte) : State :=
  if (s.homeCode w.2.1).isSome || (s.site (homeOf (s.gleanPA w.2.1))).state == .fenced then s.count w.1 30 else s.homePuts (placeAt w.2.1 w.2.2) .none none

theorem flushTraces_eq (s : State) :
    s.flushTraces = (s.traceWaits.filter (fun w => !s.traceWaiting w)).foldl State.flushOne { s with traceWaits := s.traceWaits.filter s.traceWaiting } := by
  have e : (fun w : Nat × Nat × List Byte => [w.2.1, s.gleanPA w.2.1].any (fun a => (s.site (homeOf a)).gated)) = s.traceWaiting := by
    funext w
    simp [State.traceWaiting]
  rw [← e]; rfl

theorem traceWaits_flushTraces (s : State) : s.flushTraces.traceWaits = s.traceWaits.filter s.traceWaiting := by
  rw [flushTraces_eq]
  refine foldl_keeps State.traceWaits (fun u w => ?_) _ _
  unfold State.flushOne
  split
  · exact modCore_traceWaits ..
  · exact traceWaits_homePuts ..

theorem flushTraces_nil (s : State) (h : s.traceWaits = []) : s.flushTraces = s := by
  rw [flushTraces_eq, h]
  show ({ s with traceWaits := [] } : State) = s
  rw [← h]

theorem flushTraces_one (s : State) (w : Nat × Nat × List Byte) (h : s.traceWaits = [w]) (hw : s.traceWaiting w = false) :
    s.flushTraces = State.flushOne { s with traceWaits := [] } w := by
  have e1 : [w].filter s.traceWaiting = [] := by simp [hw]
  have e2 : [w].filter (fun w => !s.traceWaiting w) = [w] := by simp [hw]
  rw [flushTraces_eq, h, e1, e2]; rfl

/-! ## Tables written entry by entry -/

/-- What a table holds after a list of entries is written: the last of the list for the key, or what it held. -/
theorem nget_foldl_nput {α : Type} (l : List (Nat × α)) (m : NMap α) (k : Nat) :
    nget (l.foldl (fun m p => nput m p.1 p.2) m) k = ((l.filter (fun p => p.1 == k)).getLast?.map (·.2)).or (nget m k) := by
  induction l generalizing m with
  | nil => rfl
  | cons p l ih =>
    rw [List.foldl_cons, ih, nget_nput]
    by_cases h : k = p.1
    · subst h
      rw [if_pos rfl, List.filter_cons_of_pos (by simp), List.getLast?_cons]
      cases (l.filter (fun q => q.1 == p.1)).getLast? <;> rfl
    · rw [if_neg h, List.filter_cons_of_neg (by simpa using fun e => h e.symm)]

/-- A table that maps its entries' values by their keys. -/
theorem nget_map_key {α : Type} (m : NMap α) (c : Nat → Bool) (g : α → α) (k : Nat) :
    nget (m.map (fun p => if c p.1 then (p.1, g p.2) else p)) k = (nget m k).map (fun v => if c k then g v else v) := by
  induction m with
  | nil => rfl
  | cons p t ih =>
    obtain ⟨j, v⟩ := p
    rw [List.map_cons]
    by_cases h : j = k
    · subst h
      cases hc : c j <;> simp [nget]
    · cases hc : c j <;> simp [nget, h, ih]

/-! ## Home bits (R34) -/

/-- A selection with its home bit set or cleared. -/
def withHome (e : BitVec 13) (live : Bool) : BitVec 13 := if live then e ||| 0x1000 else e &&& 0xFFF

theorem physHome_withHome (e : BitVec 13) (live : Bool) : physHome (withHome e live) = live := by
  cases live <;> simp [physHome, withHome]

/-- A site whose table has the home bit of a site set or cleared. -/
def Site.putHome (t : Site) (site : Nat) (live : Bool) : Site := { t with phys := nput t.phys site (withHome (t.physSel site) live) }

theorem physHome_putHome (t : Site) (site n : Nat) (live : Bool) : physHome ((t.putHome site live).physSel n) = if n = site then live else physHome (t.physSel n) := by
  unfold Site.physSel Site.putHome
  dsimp only
  rw [nget_nput]
  split
  · exact physHome_withHome _ live
  · rfl

theorem site_putHomes (s : State) (site : Nat) (live : Bool) (m : Nat) :
    (s.putHomes site live).site m = if s.forwards m then (s.site m).putHome site live else s.site m := by
  have e : nget (s.putHomes site live).sites m =
      (nget s.sites m).map (fun t => if s.forwards m then t.putHome site live else t) := by
    cases live
    · exact nget_map_key s.sites s.forwards (fun t => t.putHome site false) m
    · exact nget_map_key s.sites s.forwards (fun t => t.putHome site true) m
  unfold State.site
  rw [e]
  cases h : nget s.sites m with
  | some t => rfl
  | none =>
    have : s.forwards m = false := by unfold State.forwards State.site; rw [h]; rfl
    rw [this]; rfl

/-- The home bits of the listed sites, set in one table. -/
theorem nget_setLive (l : List Nat) (m : NMap (BitVec 13)) (n : Nat) :
    physHome ((nget (l.foldl (fun m n => nput m n ((nget m n).getD 0 ||| 0x1000)) m) n).getD 0) = (l.contains n || physHome ((nget m n).getD 0)) := by
  induction l generalizing m with
  | nil => rfl
  | cons k l ih =>
    rw [List.foldl_cons, ih, nget_nput]
    by_cases h : n = k
    · subst h
      rw [if_pos rfl]
      simp [physHome]
    · rw [if_neg h]
      simp [h]

/-- What decides which sites are live is the same: their states, the states before, and the tests of their DRAM. -/
def State.sameLife (s t : State) : Prop := ∀ m, (t.site m).state = (s.site m).state ∧ (t.site m).before = (s.site m).before ∧ (t.site m).dramGood = (s.site m).dramGood

theorem forwards_of_sameLife {s t : State} (h : s.sameLife t) (m : Nat) : t.forwards m = s.forwards m := by
  obtain ⟨h1, h2, -⟩ := h m
  unfold State.forwards Site.forwards
  rw [h1, h2]

theorem homeLive_of_sameLife {s t : State} (h : s.sameLife t) (n : Nat) : t.homeLive n = s.homeLive n := by
  unfold State.homeLive State.hasHome
  dsimp only
  rw [forwards_of_sameLife h, (h _).2.2]

theorem sameLife_trans {s t u : State} (h : s.sameLife t) (k : t.sameLife u) : s.sameLife u :=
  fun m => ⟨(k m).1.trans (h m).1, (k m).2.1.trans (h m).2.1, (k m).2.2.trans (h m).2.2⟩

theorem sameLife_phys (s : State) (n : Nat) (f : Site → NMap (BitVec 13)) : s.sameLife (s.modSite n (fun t => { t with phys := f t })) := by
  intro m
  rw [site_modSite]
  split
  · next e => subst e; exact ⟨rfl, rfl, rfl⟩
  · exact ⟨rfl, rfl, rfl⟩

theorem sameLife_putHomes (s : State) (site : Nat) (live : Bool) : s.sameLife (s.putHomes site live) := by
  intro m
  rw [site_putHomes]
  split <;> exact ⟨rfl, rfl, rfl⟩

/-- The live sites, of which a router that begins to forward learns (R34). -/
def State.liveSites (s : State) : List Nat := (List.range Config.sites).filter s.homeLive

/-- One table with the home bits of the live sites. -/
def State.learnHomes (s : State) (site : Nat) : State :=
  s.modSite site (fun t => { t with phys := s.liveSites.foldl (fun m n => nput m n ((nget m n).getD 0 ||| 0x1000)) t.phys })

theorem setHomes_eq (s : State) (site : Nat) :
    s.setHomes site = if (s.learnHomes site).homeLive site then (s.learnHomes site).putHomes site true else s.learnHomes site := rfl

theorem sameLife_learnHomes (s : State) (site : Nat) : s.sameLife (s.learnHomes site) := sameLife_phys s site _

theorem sameLife_setHomes (s : State) (site : Nat) : s.sameLife (s.setHomes site) := by
  rw [setHomes_eq]
  split
  · exact sameLife_trans (sameLife_learnHomes s site) (sameLife_putHomes _ site true)
  · exact sameLife_learnHomes s site

theorem routes_setHomes (s : State) (site m : Nat) : ((s.setHomes site).site m).routes = (s.site m).routes := by
  have h : ((s.learnHomes site).site m).routes = (s.site m).routes := by
    unfold State.learnHomes
    rw [site_modSite]
    split
    · next e => rw [e]
    · rfl
  rw [setHomes_eq, ← h]
  split
  · rw [site_putHomes]; split <;> rfl
  · rfl

/-- The table of the site has the home bit of every live site. -/
theorem physHome_learnHomes (s : State) (site n : Nat) (hn : n < Config.sites) (h : s.homeLive n = true) :
    physHome (((s.learnHomes site).site site).physSel n) = true := by
  have hm : s.liveSites.contains n = true := by simpa [State.liveSites, h] using hn
  unfold State.learnHomes
  rw [site_modSite_self]
  unfold Site.physSel
  dsimp only
  rw [nget_setLive, hm, Bool.true_or]

theorem physHome_setHomes (s : State) (site n : Nat) (hn : n < Config.sites) (h : s.homeLive n = true) :
    physHome (((s.setHomes site).site site).physSel n) = true := by
  have hl := physHome_learnHomes s site n hn h
  rw [setHomes_eq]
  split
  · rw [site_putHomes]
    split
    · rw [physHome_putHome]
      split
      · rfl
      · exact hl
    · exact hl
  · exact hl

/-- A live site's home bit stands in the table of every router that forwards. -/
theorem physHome_setHomes_forwards (s : State) (site m : Nat) (h : (s.setHomes site).homeLive site = true) (hm : (s.setHomes site).forwards m = true) :
    physHome (((s.setHomes site).site m).physSel site) = true := by
  have hl : (s.learnHomes site).homeLive site = true := by
    rw [homeLive_of_sameLife (sameLife_setHomes s site)] at h
    rwa [homeLive_of_sameLife (sameLife_learnHomes s site)]
  rw [setHomes_eq, if_pos hl] at hm ⊢
  rw [forwards_of_sameLife (sameLife_putHomes _ site true)] at hm
  rw [site_putHomes, if_pos hm, physHome_putHome, if_pos rfl]

/-- A site whose home bit is cleared is the home of nothing in any router that forwards. -/
theorem physHome_putHomes_false (s : State) (site m : Nat) (hm : s.forwards m = true) : physHome (((s.putHomes site false).site m).physSel site) = false := by
  rw [site_putHomes, if_pos hm, physHome_putHome, if_pos rfl]

/-! ## The entry into GREETED (R34, R50, R54) -/

/-- Each name of R50 stands for one edge site. -/
theorem edgePins_last : ∀ p ∈ edgePins, (edgePins.filter (fun q => q.1 == p.1)).getLast? = some p := by decide

/-- A site's state and edge pins at the entry into GREETED. -/
def State.pinned (s : State) (site : Nat) : State :=
  s.modSite site (fun t => { t with state := .greeted, routes := edgePins.foldl (fun m p => nput m p.1 p.2) t.routes })

theorem enterGreeted_eq (s : State) (site : Nat) : s.enterGreeted site = (s.pinned site).setHomes site := rfl

theorem state_enterGreeted (s : State) (site : Nat) : ((s.enterGreeted site).site site).state = .greeted := by
  rw [enterGreeted_eq, (sameLife_setHomes _ site site).1]
  unfold State.pinned
  rw [site_modSite_self]

theorem route_enterGreeted (s : State) (site : Nat) : ∀ p ∈ edgePins, ((s.enterGreeted site).site site).route p.1 = p.2 := by
  intro p hp
  unfold Site.route
  rw [enterGreeted_eq, routes_setHomes]
  unfold State.pinned
  rw [site_modSite_self, nget_foldl_nput, edgePins_last p hp]; rfl

theorem physHome_enterGreeted (s : State) (site n : Nat) (hn : n < Config.sites) (h : (s.enterGreeted site).homeLive n = true) :
    physHome (((s.enterGreeted site).site site).physSel n) = true := by
  rw [enterGreeted_eq, homeLive_of_sameLife (sameLife_setHomes _ site)] at h
  exact physHome_setHomes _ site n hn h

theorem exec_siteGreeted_all (s : State) (site : Nat) (h : (s.site site).state = .clocked)
    (all : ∀ d, d < 4 → neighbour site d = none ∨ (nget (s.site site).greets d).isSome = true) : exec (.siteGreeted site) s = .next (s.enterGreeted site) := by
  rw [exec_siteGreeted]
  unfold execSiteGreeted
  dsimp only
  rw [if_pos]
  simpa [h] using all

theorem exec_siteGreeted_some (s : State) (site : Nat)
    (all : ¬∀ d, d < 4 → neighbour site d = none ∨ (nget (s.site site).greets d).isSome = true) : exec (.siteGreeted site) s = .next s := by
  rw [exec_siteGreeted]
  unfold execSiteGreeted
  dsimp only
  rw [if_neg]
  intro h
  exact all (by simpa using (Bool.and_eq_true_iff.mp h).2)

/-! ## Fencing -/

/-- States 1 to 5: in service (R54). -/
def SiteState.inService (st : SiteState) : Prop := st = .clocked ∨ st = .greeted ∨ st = .named ∨ st = .loaded ∨ st = .running

/-- A site in service is fenced; any other stays as it is. -/
def State.fenceServing (s : State) (n : Nat) : State := match (s.site n).state with | .clocked | .greeted | .named | .loaded | .running => s.fenceSite n | _ => s

theorem fenceServing_of_inService (s : State) (n : Nat) (h : (s.site n).state.inService) : s.fenceServing n = s.fenceSite n := by
  unfold State.fenceServing
  obtain h | h | h | h | h := h <;> rw [h]

theorem fenceServing_of_not (s : State) (n : Nat) (h : ¬(s.site n).state.inService) : s.fenceServing n = s := by
  unfold SiteState.inService at h
  unfold State.fenceServing
  split <;> simp_all

/-! ## Commands of the control node (R48, R390) -/

/-- The budget entry's address of a command (R48). -/
def commandPlace (tg : SiteTarget) : Nat := match tg.at_ with | none => tg.name.toNat | some n => n * 2 ^ 33

/-- The site that a command is for (R19, R54). -/
def State.found (s : State) (tg : SiteTarget) : Option Nat :=
  match tg.at_ with
  | none => s.siteNamed tg.part.toNat tg.name
  | some n => if n < 528 ∧ (s.site n).named = false then some n else none

theorem targetSite_eq (s : State) (tg : SiteTarget) : s.targetSite tg = s.found tg := by
  unfold State.targetSite State.found
  cases tg.at_ with
  | none => rfl
  | some n => exact if_congr (by rw [Bool.and_eq_true, Bool.not_eq_true', decide_eq_true_eq]; rfl) rfl rfl

theorem place_eq (tg : SiteTarget) : tg.at_.elim tg.name.toNat (fun n => n * 2 ^ 33) = commandPlace tg := by
  unfold commandPlace
  cases tg.at_ <;> rfl

section
variable (s : State) (tg : SiteTarget) (act : Nat → State → State) (hp : tg.proc < 4)
include hp

theorem siteCommand_charged_no (v : State) (h : s.chargeLink tg.proc tg.part.toNat (commandPlace tg) 1 = (v, false)) :
    s.siteCommand tg act = v.report (.refused tg.proc 0x24) := by
  unfold State.siteCommand
  rw [if_neg (by omega), place_eq, h]

variable (v : State) (h : s.chargeLink tg.proc tg.part.toNat (commandPlace tg) 1 = (v, true))
include h

theorem siteCommand_unfound (hf : v.found tg = none) : s.siteCommand tg act = v.report (.refused tg.proc 0x20) := by
  unfold State.siteCommand
  rw [if_neg (by omega), place_eq, h]
  dsimp only
  rw [targetSite_eq, hf]

theorem siteCommand_unreached (n : Nat) (u : State) (hf : v.found tg = some n) (ht : v.sysTrip tg.proc n 1 = (u, false)) :
    s.siteCommand tg act = u.report (.refused tg.proc 0x21) := by
  unfold State.siteCommand
  rw [if_neg (by omega), place_eq, h]
  dsimp only
  rw [targetSite_eq, hf]
  dsimp only
  rw [ht]

theorem siteCommand_done (n : Nat) (u : State) (hf : v.found tg = some n) (ht : v.sysTrip tg.proc n 1 = (u, true)) : s.siteCommand tg act = act n u := by
  unfold State.siteCommand
  rw [if_neg (by omega), place_eq, h]
  dsimp only
  rw [targetSite_eq, hf]
  dsimp only
  rw [ht]

end

/-- SITE_RESET at its site. -/
def State.resetFenced (s : State) (n : Nat) (good comp : Bool) : State :=
  match (s.site n).state, s.clockSource n 7 (s.site n).depth.toNat with
  | .fenced, some (src, depth) =>
    let s := if good then s else s.putHomes n false
    (((s.clearCores n).modSite n (fun t => t.again src depth good comp)).flushTraces).deepen n 32
  | _, _ => s

/-- SITE_RETIRE at its site. -/
def State.retireFenced (s : State) (n : Nat) : State := match (s.site n).state with | .fenced => s.retireSite n 7 | _ => s

theorem exec_siteFence_eq (s : State) (tg : SiteTarget) : exec (.siteFence tg) s = .next (s.siteCommand tg (fun n s => s.fenceServing n)) := rfl
theorem exec_siteReset_eq (s : State) (tg : SiteTarget) (good comp : Bool) :
    exec (.siteReset ⟨tg, good, comp⟩) s = .next (s.siteCommand tg (fun n s => s.resetFenced n good comp)) := rfl
theorem exec_siteRetire_eq (s : State) (tg : SiteTarget) : exec (.siteRetire tg) s = .next (s.siteCommand tg (fun n s => s.retireFenced n)) := rfl

/-- A command that never comes to its site is refused, whichever it is. -/
theorem exec_command_refused (s v : State) (tg : SiteTarget) (good comp : Bool) (h : ∀ act, s.siteCommand tg act = v) :
    ∀ i ∈ [Instr.siteFence tg, .siteReset ⟨tg, good, comp⟩, .siteRetire tg], exec i s = .next v := by
  intro i hi
  simp only [List.mem_cons, List.not_mem_nil, or_false] at hi
  obtain rfl | rfl | rfl := hi
  · rw [exec_siteFence_eq, h]
  · rw [exec_siteReset_eq, h]
  · rw [exec_siteRetire_eq, h]

theorem retireFenced_of_fenced (s : State) (n : Nat) (h : (s.site n).state = .fenced) : s.retireFenced n = s.retireSite n 7 := by
  unfold State.retireFenced
  rw [h]

theorem retireFenced_of_not (s : State) (n : Nat) (h : (s.site n).state ≠ .fenced) : s.retireFenced n = s := by
  unfold State.retireFenced
  split
  · contradiction
  · rfl

theorem resetFenced_of_not (s : State) (n : Nat) (good comp : Bool) (h : (s.site n).state ≠ .fenced ∨ s.clockSource n 7 (s.site n).depth.toNat = none) :
    s.resetFenced n good comp = s := by
  unfold State.resetFenced
  split
  · next h1 h2 => rcases h with h | h <;> simp_all
  · rfl

theorem resetFenced_of_fenced (s : State) (n : Nat) (good comp : Bool) (src : BitVec 3) (depth : BitVec 5) (h : (s.site n).state = .fenced)
    (hc : s.clockSource n 7 (s.site n).depth.toNat = some (src, depth)) :
    s.resetFenced n good comp =
      (((((if good then s else s.putHomes n false).clearCores n).modSite n (fun t => t.again src depth good comp)).flushTraces).deepen n 32) := by
  unfold State.resetFenced
  rw [h, hc]

/-! ## Configuration (R50, R55) -/

/-- A table filled from a function. -/
theorem nget_foldl_range {α : Type} (f : Nat → α) (k i : Nat) :
    nget ((List.range k).foldl (fun m i => nput m i (f i)) []) i = if i < k then some (f i) else none := by
  induction k with
  | zero => rfl
  | succ k ih =>
    rw [List.range_succ, List.foldl_append, List.foldl_cons, List.foldl_nil, nget_nput, ih]
    by_cases h : i = k
    · rw [if_pos h, if_pos (by omega), h]
    · rw [if_neg h]
      exact if_congr (by omega) rfl rfl

/-- A routing entry that a CONFIG_RECORD pins (R50). -/
def pinEntry (e : BitVec 32) : BitVec 32 := (e &&& 0x3FFFFFF#32) ||| 0x3000000#32

/-- A site as the commit of a record leaves it (R55). -/
def Site.configured (t : Site) (r : ConfigRec) : Site :=
  { t with
    state := .named, name := r.name, part := r.part, regionW := r.rw, regionH := r.rh, chiplet := r.proc, staged := none
    remap := (List.range r.remap.length).foldl (fun m i => nput m i (r.remap.getD i 31)) []
    ncores := if t.computeGood then BitVec.ofNat 5 (r.remap.filter (· != 31)).length else 0
    routes := (r.pins.map (fun p => (p.1.toNat, pinEntry p.2))).foldl (fun m p => nput m p.1 p.2) t.routes }

/-- The state after the commit of a record. -/
def State.configured (u : State) (site : Nat) (r : ConfigRec) : State :=
  { u.modSite site (fun t => t.configured r) with partRects := nput u.partRects r.part.toNat r.rect }

theorem site_configured (u : State) (site : Nat) (r : ConfigRec) (m : Nat) :
    (u.configured site r).site m = if m = site then (u.site site).configured r else u.site m :=
  site_modSite u site (fun t => t.configured r) m

theorem partRect_configured (u : State) (site : Nat) (r : ConfigRec) : (u.configured site r).partRect r.part.toNat = r.rect := by
  unfold State.partRect State.configured
  dsimp only
  rw [nget_nput_self]; rfl

/-- The last of the pins for a name stands. -/
theorem route_configured (t : Site) (r : ConfigRec) (p : BitVec 12 × BitVec 32) (h : (r.pins.filter (fun q => q.1 == p.1)).getLast? = some p) :
    (t.configured r).route p.1.toNat = pinEntry p.2 := by
  have e : (r.pins.map (fun p => (p.1.toNat, pinEntry p.2))).filter (fun q => q.1 == p.1.toNat) =
      (r.pins.filter (fun q => q.1 == p.1)).map (fun p => (p.1.toNat, pinEntry p.2)) := by
    rw [List.filter_map]
    congr 1
    refine List.filter_congr fun q _ => ?_
    rw [Function.comp_apply, Bool.eq_iff_iff, beq_iff_eq, beq_iff_eq, BitVec.toNat_inj]
  unfold Site.route Site.configured
  dsimp only
  rw [nget_foldl_nput, e, List.getLast?_map, h]; rfl

theorem exec_configCommit_none (s : State) (site : Nat) (h : (s.site site).state ≠ .greeted ∨ (s.site site).staged = none) :
    exec (.configCommit site) s = .next s := by
  rw [exec_configCommit]
  unfold execConfigCommit
  dsimp only
  split
  · next h1 h2 => rcases h with h | h <;> simp_all
  · rfl

theorem exec_configCommit_refused (s u : State) (site : Nat) (r : ConfigRec) (h : (s.site site).state = .greeted) (hr : (s.site site).staged = some r)
    (ht : s.sysTrip r.proc site 1 = (u, false)) : exec (.configCommit site) s = .next (u.report (.refused r.proc 0x21)) := by
  rw [exec_configCommit]
  unfold execConfigCommit
  dsimp only
  rw [h, hr]
  dsimp only
  rw [ht]

theorem exec_configCommit_done (s u : State) (site : Nat) (r : ConfigRec) (h : (s.site site).state = .greeted) (hr : (s.site site).staged = some r)
    (ht : s.sysTrip r.proc site 1 = (u, true)) : exec (.configCommit site) s = .next (u.configured site r) := by
  rw [exec_configCommit]
  unfold execConfigCommit
  dsimp only
  rw [h, hr]
  dsimp only
  rw [ht]; rfl

/-! ## The clock tree (R53, R54, R56) -/

theorem siteLive_iff (s : State) (n : Nat) : s.siteLive n = true ↔ (s.site n).state ≠ .dark ∧ (s.site n).state ≠ .retired := by
  unfold State.siteLive
  cases (s.site n).state <;> simp

/-- A site that takes over its depth changes no clock source. -/
theorem dependents_modDepth (s : State) (m n : Nat) (d : BitVec 5) : (s.modSite m (fun t => { t with depth := d })).dependents n = s.dependents n := by
  have h (j : Nat) : ((s.modSite m (fun t => { t with depth := d })).site j).state = (s.site j).state ∧
      ((s.modSite m (fun t => { t with depth := d })).site j).clksrc = (s.site j).clksrc := by
    rw [site_modSite]
    split
    · next e => rw [e]; exact ⟨rfl, rfl⟩
    · exact ⟨rfl, rfl⟩
  unfold State.dependents State.siteLive
  refine List.filterMap_congr fun i _ => ?_
  congr 1
  funext j
  rw [(h j).1, (h j).2]

theorem deepen_leaf (s : State) (n fuel : Nat) (h : s.dependents n = []) : s.deepen n fuel = s := by
  cases fuel with
  | zero => rfl
  | succ k => unfold State.deepen; rw [h]; rfl

/-- The only site behind another is 1 deeper, but no deeper than 31 (R52, R53). -/
theorem depth_deepen_one (s : State) (site m k : Nat) (h : s.dependents site = [m]) (hm : s.dependents m = []) :
    ((s.deepen site (k + 1)).site m).depth.toNat = min 31 ((s.site site).depth.toNat + 1) := by
  unfold State.deepen
  rw [h, List.foldl_cons, List.foldl_nil]
  dsimp only
  split
  · next e => exact beq_iff_eq.mp e
  · rw [deepen_leaf _ _ _ ((dependents_modDepth ..).trans hm), site_modSite_self]
    exact (BitVec.toNat_ofNat ..).trans (Nat.mod_eq_of_lt (by omega))

/-- A site that moves to another clock source, with the count of its moves before (R53, R56). -/
def State.switched (u : State) (n : Nat) (c : BitVec 16) (src : BitVec 3) (depth : BitVec 5) : State :=
  (((u.modSite n (fun t => { t with clksrc := src, depth := depth, gated := true,
                                    clksw := if c = 0xFFFF then c else c + 1 })).countSite n 31).siteReport n
    (.siteLog n 1)).deepen n 32

/-- A site of the given state without a clock source is fenced, and those behind it lose theirs (R53, R54). -/
def State.clockless (u : State) (n : Nat) (st : SiteState) (fuel : Nat) : State :=
  let v := (if st = .fenced then u else u.fenceSite n).modSite n (fun t => { t with clksrc := 7 })
  (v.dependents n).foldl (fun v m => v.loseClock m fuel) v

section
variable (u : State) (n k : Nat) (hl : u.siteLive n = true) (hs : (u.site n).clksrc ≠ 7)
include hl hs

theorem loseClock_some (src : BitVec 3) (depth : BitVec 5) (hc : u.clockSource n (u.site n).clksrc (u.site n).depth.toNat = some (src, depth)) :
    u.loseClock n (k + 1) = u.switched n (u.site n).clksw src depth := by
  unfold State.loseClock
  dsimp only
  rw [if_neg (by simpa [hl] using hs), hc]
  unfold State.switched
  simp only [beq_iff_eq]

theorem loseClock_none (hc : u.clockSource n (u.site n).clksrc (u.site n).depth.toNat = none) : u.loseClock n (k + 1) = u.clockless n (u.site n).state k := by
  unfold State.loseClock
  dsimp only
  rw [if_neg (by simpa [hl] using hs), hc]
  unfold State.clockless
  simp only [beq_iff_eq]

end

/-- A site whose edge reference, if it runs from that, is lost (R56). -/
def State.edgeLost (s : State) (site : Nat) : State :=
  if (s.site site).clksrc = 0 then s.modSite site (fun t => { t with edgeClock := false }) else s

theorem site_edgeLost (s : State) (site : Nat) : ((s.edgeLost site).site site).state = (s.site site).state ∧ ((s.edgeLost site).site site).clksrc = (s.site site).clksrc ∧
    ((s.edgeLost site).site site).depth = (s.site site).depth ∧ ((s.edgeLost site).site site).clksw = (s.site site).clksw := by
  unfold State.edgeLost
  split
  · rw [site_modSite_self]; exact ⟨rfl, rfl, rfl, rfl⟩
  · exact ⟨rfl, rfl, rfl, rfl⟩

theorem exec_clockSwitch_live (s : State) (site : Nat) (hl : s.siteLive site = true) (hs : (s.site site).clksrc ≠ 7) :
    exec (.clockSwitch site) s = .next ((s.edgeLost site).loseClock site (527 + 1)) := by
  rw [exec_clockSwitch]
  unfold execClockSwitch
  dsimp only
  rw [if_neg (by simpa [hl] using hs)]
  unfold State.edgeLost
  simp only [beq_iff_eq]; rfl

theorem exec_clockSwitch_some (s : State) (site : Nat) (hl : s.siteLive site = true) (hs : (s.site site).clksrc ≠ 7) (src : BitVec 3) (depth : BitVec 5)
    (hc : (s.edgeLost site).clockSource site (s.site site).clksrc (s.site site).depth.toNat = some (src, depth)) :
    exec (.clockSwitch site) s = .next ((s.edgeLost site).switched site (s.site site).clksw src depth) := by
  obtain ⟨h1, h2, h3, h4⟩ := site_edgeLost s site
  rw [exec_clockSwitch_live s site hl hs, ← h4]
  refine congrArg Host.Outcome.next (loseClock_some _ _ _ ?_ (h2 ▸ hs) src depth (by rw [h2, h3]; exact hc))
  rw [siteLive_iff, h1]
  exact (siteLive_iff ..).mp hl

theorem exec_clockSwitch_none (s : State) (site : Nat) (hl : s.siteLive site = true) (hs : (s.site site).clksrc ≠ 7)
    (hc : (s.edgeLost site).clockSource site (s.site site).clksrc (s.site site).depth.toNat = none) :
    exec (.clockSwitch site) s = .next ((s.edgeLost site).clockless site (s.site site).state 527) := by
  obtain ⟨h1, h2, h3, -⟩ := site_edgeLost s site
  rw [exec_clockSwitch_live s site hl hs, ← h1]
  refine congrArg Host.Outcome.next (loseClock_none _ _ _ ?_ (h2 ▸ hs) (by rw [h2, h3]; exact hc))
  rw [siteLive_iff, h1]
  exact (siteLive_iff ..).mp hl

/-! ## The clauses of the statement -/

/-- A DARK site without a clock source stays DARK (R53). -/
theorem exec_clockLock_none (s : State) (site : Nat) (good comp : Bool) (hc : s.clockSource site 7 31 = none) : exec (.clockLock site good comp) s = .next s := by
  rw [exec_clockLock]
  unfold execClockLock
  dsimp only
  rw [hc]
  split <;> rfl

theorem exec_clockLock_some (s : State) (site : Nat) (good comp : Bool) (src : BitVec 3) (depth : BitVec 5) (hd : (s.site site).state = .dark) (hs : site < 528)
    (hu : s.up = true) (hc : s.clockSource site 7 31 = some (src, depth)) :
    exec (.clockLock site good comp) s = .next ((s.clearCores site).modSite site (fun t => t.again src depth good comp)) := by
  rw [exec_clockLock]
  unfold execClockLock
  dsimp only
  rw [hc, if_neg]
  simp [hd, hu, Config.sites, Nat.not_le.mpr hs]

theorem exec_greetTimeout_due (s : State) (site : Nat) (h : (s.site site).state = .clocked) (hc : 65536 ≤ s.siteClock site) :
    exec (.greetTimeout site) s = .next (s.enterGreeted site) := by
  rw [exec_greetTimeout]
  unfold execGreetTimeout
  rw [if_pos (by simp [h, hc])]

theorem exec_greetTimeout_early (s : State) (site : Nat) (hc : s.siteClock site < 65536) : exec (.greetTimeout site) s = .next s := by
  rw [exec_greetTimeout]
  unfold execGreetTimeout
  rw [if_neg (by simp [hc])]

theorem exec_selfTestFail_clocked (s : State) (site : Nat) (h : (s.site site).state = .clocked) : exec (.selfTestFail site) s = .next (s.retireSite site 1) := by
  rw [exec_selfTestFail]
  unfold execSelfTestFail
  rw [if_pos (by simp [h])]

theorem exec_baseDieError_eq (s : State) (site : Nat) : exec (.baseDieError site) s = .next (s.fenceServing site) := rfl

/-- CONFIG_RECORD that cannot come to its site (R55). -/
theorem exec_configRecord_unreached (s u : State) (r : ConfigRec) (site : Nat) (h : s.sysTrip r.proc site (dataFlits 368) = (u, false)) :
    exec (.configRecord site r.proc r.name r.part r.rect r.rw r.rh r.remap r.pins) s = .next (u.report (.refused r.proc 0x21)) := by
  rw [exec_configRecord]
  unfold execConfigRecord
  rw [h]

/-- The record that a site keeps: no more than 16 cores and 64 pins. -/
def ConfigRec.cut (r : ConfigRec) : ConfigRec := { r with remap := r.remap.take 16, pins := r.pins.take 64 }

section
variable (s u : State) (r : ConfigRec) (site : Nat) (h : s.sysTrip r.proc site (dataFlits 368) = (u, true))
include h

theorem exec_configRecord_reserved (hg : (u.site site).state = .greeted) (hn : 0xFE0 ≤ r.name.toNat) :
    exec (.configRecord site r.proc r.name r.part r.rect r.rw r.rh r.remap r.pins) s = .next (u.sysRefuse r.proc site 0) := by
  rw [exec_configRecord]
  unfold execConfigRecord
  rw [h]
  dsimp only
  rw [hg]
  dsimp only
  rw [if_pos hn]

theorem exec_configRecord_staged (hg : (u.site site).state = .greeted) (hn : r.name.toNat < 0xFE0) :
    exec (.configRecord site r.proc r.name r.part r.rect r.rw r.rh r.remap r.pins) s = .next (u.modSite site (fun t => { t with staged := some r.cut })) := by
  rw [exec_configRecord]
  unfold execConfigRecord
  rw [h]
  dsimp only
  rw [hg]
  dsimp only
  rw [if_neg (by omega)]; rfl

theorem exec_configRecord_late (hg : (u.site site).state = .named ∨ (u.site site).state = .loaded ∨ (u.site site).state = .running ∨ (u.site site).state = .fenced) :
    exec (.configRecord site r.proc r.name r.part r.rect r.rw r.rh r.remap r.pins) s = .next (u.sysRefuse r.proc site 0) := by
  rw [exec_configRecord]
  unfold execConfigRecord
  rw [h]
  dsimp only
  obtain hg | hg | hg | hg := hg <;> rw [hg]

end

/-- Settles O45, by the cases of each event and command of a site's life. -/
theorem siteLife : Obligations.SiteLife := by
  unfold Obligations.SiteLife
  refine ⟨⟨fun s site good comp => ?_, fun s tg good comp hp => ?_⟩, ⟨?_, fun s site => ⟨exec_configCommit_none s site, fun r hg hr => ?_⟩⟩, fun s site => ?_⟩
  · intro st inService
    refine ⟨fun hd hs hu => ⟨exec_clockLock_none s site good comp, fun src depth => exec_clockLock_some s site good comp src depth hd hs hu⟩, fun hc => ?_, fun h => ?_, fun h => ?_⟩
    · exact ⟨exec_siteGreeted_all s site hc, exec_siteGreeted_some s site, exec_greetTimeout_due s site hc, exec_greetTimeout_early s site, state_enterGreeted s site,
        route_enterGreeted s site, physHome_enterGreeted s site, fun h m => physHome_setHomes_forwards _ site m h, exec_selfTestFail_clocked s site hc⟩
    · rw [exec_baseDieError_eq, fenceServing_of_inService s site h]
    · rw [exec_baseDieError_eq, fenceServing_of_not s site h]
  · intro proc commands refused
    refine ⟨fun v hv => exec_command_refused s _ tg good comp fun act => siteCommand_charged_no s tg act hp v hv, fun v hv => ?_⟩
    intro found
    refine ⟨fun hf => exec_command_refused s _ tg good comp fun act => siteCommand_unfound s tg act hp v hv hf, fun n hf => ?_⟩
    refine ⟨fun u hu => exec_command_refused s _ tg good comp fun act => siteCommand_unreached s tg act hp v hv n u hf hu, fun u hu => ?_⟩
    have hdone (act : Nat → State → State) : s.siteCommand tg act = act n u := siteCommand_done s tg act hp v hv n u hf hu
    intro st inService
    rw [exec_siteFence_eq, exec_siteReset_eq, exec_siteRetire_eq, hdone, hdone, hdone]
    refine ⟨fun h => by rw [fenceServing_of_inService u n h], fun h => by rw [fenceServing_of_not u n h], fun h => by rw [retireFenced_of_fenced u n h],
      fun h => by rw [retireFenced_of_not u n h], fun h => by rw [resetFenced_of_not u n good comp h], fun src depth h hc => ?_⟩
    intro v
    refine ⟨fun hg m hm => ?_, by rw [resetFenced_of_fenced u n good comp src depth h hc]; rfl⟩
    have hv : v = u.putHomes n false := if_neg (by simp [hg])
    rw [hv]
    exact physHome_putHomes_false u n m hm
  · intro s site proc name part rect rw rh remap pins out
    let r : ConfigRec := { proc := proc, name := name, part := part, rect := rect, rw := rw, rh := rh, remap := remap, pins := pins }
    refine ⟨fun u h => exec_configRecord_unreached s u r site h, fun u h => ?_⟩
    exact ⟨exec_configRecord_reserved s u r site h, exec_configRecord_staged s u r site h, exec_configRecord_late s u r site h⟩
  · refine ⟨fun u ht => exec_configCommit_refused s u site r hg hr ht, fun u ht => ⟨_, exec_configCommit_done s u site r hg hr ht, ?_⟩⟩
    have e : (u.configured site r).site site = (u.site site).configured r := (site_configured ..).trans (if_pos rfl)
    rw [e]
    refine ⟨rfl, rfl, rfl, partRect_configured .., rfl, rfl, rfl, rfl, fun i hi => ?_, rfl, route_configured _ r, rfl, fun m hm => (site_configured ..).trans (if_neg hm)⟩
    exact (nget_foldl_range ..).trans (if_pos hi)
  · refine ⟨?_, fun hd hr h7 => ?_, fun m k => depth_deepen_one s site m k, fun cause => rfl⟩
    · intro u waits
      refine ⟨rfl, flushTraces_nil u, traceWaits_flushTraces u, fun w hw hg => ?_⟩
      rw [flushTraces_one u w hw hg]
      exact if_congr (by rw [Bool.or_eq_true, beq_iff_eq]; rfl) rfl rfl
    · intro u
      have hl : s.siteLive site = true := (siteLive_iff ..).mpr ⟨hd, hr⟩
      exact ⟨exec_clockSwitch_some s site hl h7, exec_clockSwitch_none s site hl h7⟩

end Sys2Proof.Machine
end

section
/-! Dimension-ordered hops (O43). -/

namespace Sys2Proof.Machine

/-- The number of places between two coordinates of one axis. -/
def axisGap (a b : Nat) : Nat := if a ≤ b then b - a else a - b

theorem axisGap_of_ge {a b : Nat} (h : b ≤ a) : axisGap a b = a - b := by
  unfold axisGap
  split
  · next le => rw [Nat.le_antisymm le h]
  · rfl

theorem axisGap_up {a b : Nat} (h : a < b) : axisGap (a + 1) b + 1 = axisGap a b := by
  unfold axisGap
  rw [if_pos (Nat.succ_le_of_lt h), if_pos (Nat.le_of_lt h)]
  exact Nat.succ_pred_eq_of_pos (Nat.sub_pos_of_lt h)

theorem axisGap_down {a b : Nat} (h : b ≤ a) : axisGap a b + 1 = axisGap (a + 1) b := by
  rw [axisGap_of_ge h, axisGap_of_ge (Nat.le_succ_of_le h)]
  exact (Nat.succ_sub h).symm

/-! ## One step on the grid (R9) -/

theorem colOf_lt (n : Nat) : colOf n < 24 := Nat.mod_lt _ (by decide)

theorem lt_sites_iff (n : Nat) : n < 528 ↔ rowOf n < 22 := (Nat.div_lt_iff_lt_mul (x := n) (y := 22) (k := 24) (by decide)).symm

theorem colOf_down (n : Nat) : colOf (n + 24) = colOf n := Nat.add_mod_right ..

theorem rowOf_down (n : Nat) : rowOf (n + 24) = rowOf n + 1 := Nat.add_div_right _ (by decide)

theorem colOf_succ (n : Nat) : colOf (n + 1) = (colOf n + 1) % 24 := (Nat.mod_add_mod ..).symm

/-- A step to the right inside a row. -/
theorem step_right {n : Nat} (h : colOf n + 1 < 24) : colOf (n + 1) = colOf n + 1 ∧ rowOf (n + 1) = rowOf n := by
  have col : colOf (n + 1) = colOf n + 1 := (colOf_succ n).trans (Nat.mod_eq_of_lt h)
  have row : ¬24 ∣ n + 1 := fun d => Nat.succ_ne_zero _ (col.symm.trans (Nat.mod_eq_zero_of_dvd d))
  exact ⟨col, Nat.succ_div_of_not_dvd row⟩

/-- What lies right of the first column was reached by a step to the right. -/
theorem exists_left {n : Nat} (h : colOf n ≠ 0) : ∃ m, n = m + 1 ∧ colOf m + 1 < 24 := by
  cases n with
  | zero => exact absurd rfl h
  | succ m =>
    refine ⟨m, rfl, Nat.lt_of_le_of_ne (colOf_lt m) fun e => h ?_⟩
    rw [colOf_succ, e]

theorem exists_up {n : Nat} (h : rowOf n ≠ 0) : ∃ m, n = m + 24 :=
  ⟨n - 24, (Nat.sub_add_cancel (Nat.le_of_not_lt fun lt => h (Nat.div_eq_of_lt lt))).symm⟩

theorem neighbour_right {n : Nat} (h : colOf n + 1 < 24) : neighbour n 1 = some (n + 1) := if_pos h

theorem neighbour_down {n : Nat} (h : rowOf n + 1 < 22) : neighbour n 2 = some (n + 24) := if_pos h

theorem neighbour_left {n : Nat} (h : colOf (n + 1) ≠ 0) : neighbour (n + 1) 3 = some n := if_neg h

theorem neighbour_up {n : Nat} : neighbour (n + 24) 0 = some n := by
  refine (if_neg (by rw [rowOf_down]; exact Nat.succ_ne_zero _)).trans ?_
  rw [show n + 24 - Config.cols = n from Nat.add_sub_cancel ..]

/-- The site one step nearer to the goal in its column's axis. -/
theorem neighbour_toward_col {n goal : Nat} (hn : n < 528) (h : colOf n ≠ colOf goal) :
    ∃ m, neighbour n (if colOf n < colOf goal then 1 else 3) = some m ∧ m < 528 ∧ rowOf m = rowOf n ∧
      axisGap (colOf m) (colOf goal) + 1 = axisGap (colOf n) (colOf goal) := by
  by_cases lt : colOf n < colOf goal
  · have hc : colOf n + 1 < 24 := Nat.lt_of_le_of_lt lt (colOf_lt goal)
    obtain ⟨col, row⟩ := step_right hc
    rw [if_pos lt]
    exact ⟨n + 1, neighbour_right hc, by rwa [lt_sites_iff, row, ← lt_sites_iff], row, by rw [col, axisGap_up lt]⟩
  · have gt : colOf goal < colOf n := Nat.lt_of_le_of_ne (Nat.le_of_not_lt lt) h.symm
    have h0 : colOf n ≠ 0 := Nat.ne_zero_of_lt gt
    obtain ⟨m, rfl, hc⟩ := exists_left h0
    obtain ⟨col, row⟩ := step_right hc
    rw [col] at gt
    rw [if_neg lt]
    exact ⟨m, neighbour_left h0, by rwa [lt_sites_iff, ← row, ← lt_sites_iff], row.symm, by rw [col, axisGap_down (Nat.le_of_lt_succ gt)]⟩

/-- The site one step nearer to the goal in its row's axis. -/
theorem neighbour_toward_row {n goal : Nat} (hn : n < 528) (hg : goal < 528) (h : rowOf n ≠ rowOf goal) :
    ∃ m, neighbour n (if rowOf n < rowOf goal then 2 else 0) = some m ∧ m < 528 ∧ colOf m = colOf n ∧
      axisGap (rowOf m) (rowOf goal) + 1 = axisGap (rowOf n) (rowOf goal) := by
  by_cases lt : rowOf n < rowOf goal
  · have hr : rowOf n + 1 < 22 := Nat.lt_of_le_of_lt lt ((lt_sites_iff goal).mp hg)
    rw [if_pos lt]
    exact ⟨n + 24, neighbour_down hr, by rwa [lt_sites_iff, rowOf_down], colOf_down n, by rw [rowOf_down, axisGap_up lt]⟩
  · have gt : rowOf goal < rowOf n := Nat.lt_of_le_of_ne (Nat.le_of_not_lt lt) h.symm
    obtain ⟨m, rfl⟩ := exists_up (Nat.ne_zero_of_lt gt)
    rw [rowOf_down] at gt
    rw [if_neg lt]
    exact ⟨m, neighbour_up, Nat.lt_of_le_of_lt (Nat.le_add_right ..) hn, (colOf_down m).symm, by rw [rowOf_down, axisGap_down (Nat.le_of_lt_succ gt)]⟩

theorem ne_cases {n goal : Nat} (h : n ≠ goal) : colOf n ≠ colOf goal ∨ rowOf n ≠ rowOf goal := by
  by_contra same
  obtain ⟨col, row⟩ := not_or.mp same
  exact h (by rw [← Nat.div_add_mod n 24, ← Nat.div_add_mod goal 24]; exact congrArg₂ (24 * · + ·) (not_not.mp row) (not_not.mp col))

/-- A hop goes along the columns' axis: first in XY order, last in YX order. -/
theorem hopDir_col {n goal : Nat} {yx : Bool} (h : colOf n ≠ colOf goal) (hy : yx = true → rowOf n = rowOf goal) :
    hopDir n goal yx = if colOf n < colOf goal then 1 else 3 := by
  have dx : (if colOf n < colOf goal then some 1 else if colOf goal < colOf n then some 3 else none) = some (if colOf n < colOf goal then 1 else 3) := by
    rw [apply_ite some]; exact if_ctx_congr Iff.rfl (fun _ => rfl) fun le => if_pos ((Nat.lt_or_gt_of_ne h).resolve_left le)
  unfold hopDir
  cases yx with
  | false => simp [dx]
  | true => simp [dx, hy rfl]

/-- A hop goes along the rows' axis: first in YX order, last in XY order. -/
theorem hopDir_row {n goal : Nat} {yx : Bool} (h : rowOf n ≠ rowOf goal) (hy : yx = false → colOf n = colOf goal) :
    hopDir n goal yx = if rowOf n < rowOf goal then 2 else 0 := by
  have dy : (if rowOf n < rowOf goal then some 2 else if rowOf goal < rowOf n then some 0 else none) = some (if rowOf n < rowOf goal then 2 else 0) := by
    rw [apply_ite some]; exact if_ctx_congr Iff.rfl (fun _ => rfl) fun le => if_pos ((Nat.lt_or_gt_of_ne h).resolve_left le)
  unfold hopDir
  cases yx with
  | true => simp [dy]
  | false => simp [dy, hy rfl]

/-- The hop's neighbour is a site one step nearer to the goal. -/
def HopCloser (n goal : Nat) (yx : Bool) : Prop :=
  ∃ m, neighbour n (hopDir n goal yx) = some m ∧ m < 528 ∧
    axisGap (colOf m) (colOf goal) + axisGap (rowOf m) (rowOf goal) + 1 = axisGap (colOf n) (colOf goal) + axisGap (rowOf n) (rowOf goal)

/-- Settles O43: the hop goes along one axis, in which the neighbour is one step nearer, and the other coordinate stays. -/
theorem hopsGetCloser : Obligations.HopsGetCloser := by
  unfold Obligations.HopsGetCloser
  intro n goal yx hn hg hne
  show HopCloser n goal yx
  have alongCol (h : colOf n ≠ colOf goal) (hy : yx = true → rowOf n = rowOf goal) : HopCloser n goal yx := by
    obtain ⟨m, hm, lt, other, near⟩ := neighbour_toward_col hn h
    exact ⟨m, by rw [hopDir_col h hy, hm], lt, by rw [other, ← near, Nat.add_right_comm]⟩
  have alongRow (h : rowOf n ≠ rowOf goal) (hy : yx = false → colOf n = colOf goal) : HopCloser n goal yx := by
    obtain ⟨m, hm, lt, other, near⟩ := neighbour_toward_row hn hg h
    exact ⟨m, by rw [hopDir_row h hy, hm], lt, by rw [other, ← near, Nat.add_assoc]⟩
  cases yx with
  | false =>
    by_cases hc : colOf n = colOf goal
    · exact alongRow ((ne_cases hne).resolve_left (not_not_intro hc)) fun _ => hc
    · exact alongCol hc nofun
  | true =>
    by_cases hr : rowOf n = rowOf goal
    · exact alongCol ((ne_cases hne).resolve_right (not_not_intro hr)) fun _ => hr
    · exact alongRow hr nofun

end Sys2Proof.Machine
end

section
/-! Where an access traps (O8): what the checks of an address come to when they fail, what Translate comes to without an entry that admits the access, and
what each scalar access hands on to them. -/

namespace Sys2Proof.Machine

/-! ## An update after another one -/

theorem nput_nput_self {α : Type} (m : NMap α) (k : Nat) (v w : α) : nput (nput m k v) k w = nput m k w := by
  induction m with
  | nil => simp [nput]
  | cons p t ih =>
    obtain ⟨j, u⟩ := p
    by_cases e : j = k
    · simp [nput, e]
    · by_cases l : k < j <;> simp [nput, e, l, ih]

theorem setCore_setCore (s : State) (c : Nat) (k k' : Core) : (s.setCore c k).setCore c k' = s.setCore c k' := by
  unfold State.setCore; rw [nput_nput_self]

theorem setSlot_setSlot (k : Core) (n : Nat) (t t' : Slot) : (k.setSlot n t).setSlot n t' = k.setSlot n t' := by
  unfold Core.setSlot; rw [nput_nput_self]

theorem modMe_eq (s : State) (f : Slot → Slot) : s.modMe f = s.setCore s.curCore (s.here.setSlot s.curSlot (f s.me)) := rfl

theorem modMe_comp (s : State) (f g : Slot → Slot) : (s.modMe f).modMe g = s.modMe (fun t => g (f t)) := by
  rw [modMe_eq (s.modMe f), here_modMe, me_modMe]
  show (s.modMe f).setCore s.curCore (((s.here).setSlot s.curSlot (f s.me)).setSlot s.curSlot (g (f s.me))) = _
  rw [modMe_eq s f, modMe_eq s, setCore_setCore, setSlot_setSlot]

/-! ## The checks of an address that fail (R125, R196) -/

theorem addrChecks_above (s : State) (ea : Word) (n : Nat) (l st : Bool) (a m : Nat) (k : Act) (h : 2 ^ 48 ≤ ea.toNat) :
    addrChecks s ea n l st a m k = .trap s a ea := by
  have e : vaOk ea = false := decide_eq_false (by omega)
  simp [addrChecks, e]

theorem addrChecks_misaligned (s : State) (ea : Word) (n : Nat) (l st : Bool) (a m : Nat) (k : Act) (h1 : ea.toNat < 2 ^ 48) (h2 : ea.toNat % n ≠ 0) :
    addrChecks s ea n l st a m k = .trap s m ea := by
  have e : vaOk ea = true := decide_eq_true h1
  simp [addrChecks, e, h2]

theorem isLocal_iff (ea : Word) : isLocal ea = true ↔ ea.toNat < 2 ^ 20 := decide_eq_true_iff

theorem isLocal_of_le {ea : Word} (h : 2 ^ 20 ≤ ea.toNat) : isLocal ea = false := decide_eq_false (by unfold lsTop; omega)

theorem isWindow_of_lt {ea : Word} (h : ea.toNat < windowBase) : isWindow ea = false := by simp [isWindow, h]

theorem isWindow_of_le {ea : Word} (h1 : windowBase ≤ ea.toNat) (h2 : ea.toNat < 2 ^ 48) : isWindow ea = true := by
  unfold isWindow; rw [decide_eq_true h1, decide_eq_true h2]; rfl

/-- An access of local store whose first byte lies in an ENGINE-owned plot traps at that byte. -/
theorem localAccess_engineOwned (s : State) (w : Bool) (ea : Word) (n : Nat) (k : Act) (hn : 0 < n) (h : s.here.engineOwned ea.toNat = true) :
    localAccess s w (span ea.toNat n) k = .trap s 27 ea := by
  obtain ⟨m, rfl⟩ : ∃ m, n = m + 1 := ⟨n - 1, by omega⟩
  have e : s.plotFail w (span ea.toNat (m + 1)) = some ea.toNat := by
    simp [State.plotFail, span, List.range_succ_eq_map, h]
  simp [localAccess, e, wd]

/-! ## Translate where no entry admits the access (R176, R177, R180) -/

/-- A slot parks on a walk that it started or joined. -/
def State.parkedOnWalk (w : State × Nat) (ea : Word) (afresh : Bool) : State :=
  (w.1.modMe (fun t => { t with state := .parked, park := some (.walker w.2 ea), parkCount := 0, rewalked := if afresh then some ea else t.rewalked })).bubble

/-- wl.rfinfo holds the reason of a range fault (R180). -/
def State.latched (s : State) (reason proc index : Nat) : State := s.modMe (fun t => { t with rfinfo := rfinfoOf reason proc index })

/-- What an access comes to that Translate does not let through: the failed walk's outcome, a walk on a miss, a fault of the entry that matches. -/
def State.Faults (s : State) (ea : Word) (kind : AccessKind) (cause : Nat) (goes : State → Prop) : Prop :=
  let proc := wf s.here.rdir 52 12
  let miss := s.me.walkOut.filter (fun o => o.va == ea)
  (∀ o, miss = some o → goes ((s.latched o.reason o.proc o.index).trap cause ea)) ∧
  (miss = none → s.here.rangeFor ea = none → goes (State.parkedOnWalk (s.startWalk s.curCore ea s.here.rdir (.slot s.curSlot) true) ea false)) ∧
  ∀ e, miss = none → s.here.rangeFor ea = some e →
    let j := (ea.toNat - e.slot.base.toNat) / segLen e.slot
    let denied := e.slot.copyOnly = true ∨ e.slot.isRemote = true
    (denied → goes ((s.latched 3 proc e.index).trap cause ea)) ∧
    (¬denied → permits e.slot kind = false → goes ((s.latched 2 proc e.index).trap cause ea)) ∧
    (¬denied → permits e.slot kind = true → e.slot.resmap.getLsbD j = false →
      (s.me.rewalked = some ea → goes ((s.latched 6 proc e.index).trap 28 (BitVec.ofNat 64 (j * 2 ^ 58 + ea.toNat)))) ∧
      (s.me.rewalked ≠ some ea → goes (State.parkedOnWalk (s.startWalk s.curCore ea s.here.rdir (.slot s.curSlot) false) ea true)))

/-- Translate where no entry lets the access through: a failed walk, a miss, a fault of the entry, an absent segment walked for afresh once. -/
theorem translate_outcomes (s : State) (ea : Word) (kind : AccessKind) (k : State → Nat → MemAttr → Act) :
    (∀ o, s.me.walkOut.filter (fun o => o.va == ea) = some o → translate s ea kind k = .trap (s.latched o.reason o.proc o.index) (rangeCause kind) ea) ∧
    (s.me.walkOut.filter (fun o => o.va == ea) = none →
      (s.here.rangeFor ea = none → translate s ea kind k = .park (s.startWalk s.curCore ea s.here.rdir (.slot s.curSlot) true).1
        (.walker (s.startWalk s.curCore ea s.here.rdir (.slot s.curSlot) true).2 ea)) ∧
      ∀ e, s.here.rangeFor ea = some e →
        (∀ r, checkEntry e.slot ea.toNat kind = .fault r → translate s ea kind k = .trap (s.latched r (wf s.here.rdir 52 12) e.index) (rangeCause kind) ea) ∧
        ∀ j, checkEntry e.slot ea.toNat kind = .clear j →
          (s.me.rewalked = some ea → translate s ea kind k = .trap (s.latched 6 (wf s.here.rdir 52 12) e.index) 28 (BitVec.ofNat 64 (j * 2 ^ 58 + ea.toNat))) ∧
          (s.me.rewalked ≠ some ea → translate s ea kind k =
            .park ((s.startWalk s.curCore ea s.here.rdir (.slot s.curSlot) false).1.modMe (fun t => { t with rewalked := some ea }))
              (.walker (s.startWalk s.curCore ea s.here.rdir (.slot s.curSlot) false).2 ea))) := by
  unfold translate State.latched
  refine ⟨fun o h => ?_, fun h => ⟨fun hr => ?_, fun e hr => ⟨fun r hc => ?_, fun j hc => ⟨fun hw => ?_, fun hw => ?_⟩⟩⟩⟩
  · rw [h]
  · rw [h, hr]
  · rw [h, hr]; dsimp only; rw [hc]
  · rw [h, hr]; dsimp only; rw [hc]; exact if_pos hw
  · rw [h, hr]; dsimp only; rw [hc]; exact if_neg hw

section
variable (r : RangeSlot) (va : Nat) (kind : AccessKind)

theorem checkEntry_denied (hk : scalarKind kind = true) (h : r.copyOnly = true ∨ r.isRemote = true) : checkEntry r va kind = .fault 3 := by
  unfold checkEntry; rw [if_pos (by simp [hk, h])]

variable (hd : ¬(r.copyOnly = true ∨ r.isRemote = true))
include hd

theorem checkEntry_forbidden (hp : permits r kind = false) : checkEntry r va kind = .fault 2 := by
  unfold checkEntry; rw [if_neg (by simp_all), if_pos (by simp [hp])]

theorem checkEntry_absent (hp : permits r kind = true) (hm : r.resmap.getLsbD ((va - r.base.toNat) / segLen r) = false) :
    checkEntry r va kind = .clear ((va - r.base.toNat) / segLen r) := by
  unfold checkEntry; rw [if_neg (by simp_all), if_neg (by simp [hp])]; exact if_neg (by simp [hm])

end

theorem finish_walker (fm : Form) (s u : State) (w : Nat) (ea : Word) : finish fm s (.park u (.walker w ea)) = State.parkedOnWalk (u, w) ea false := rfl

theorem finish_walker_afresh (fm : Form) (s u : State) (w : Nat) (ea : Word) :
    finish fm s (.park (u.modMe (fun t => { t with rewalked := some ea })) (.walker w ea)) = State.parkedOnWalk (u, w) ea true := by
  unfold finish State.parkedOnWalk; dsimp only; rw [modMe_comp]; rfl

/-- Whether a turn comes to a jump: a fetch that Translate lets through does. -/
def Act.isJump (a : Act) : Bool := match a with | .jump .. => true | _ => false

/-- What a turn comes to whose access Translate does not let through. -/
theorem faults_of_translate (s : State) (ea : Word) (kind : AccessKind) (cause : Nat) (goes : State → Prop) (fm : Form) (k : State → Nat → MemAttr → Act)
    (hk : scalarKind kind = true) (hc : rangeCause kind = cause)
    (hg : ∀ a, translate s ea kind k = a → a.isJump = false → goes (finish fm s a)) : s.Faults ea kind cause goes := by
  subst hc
  obtain ⟨failedWalk, noFailure⟩ := translate_outcomes s ea kind k
  refine ⟨fun o ho => ?_, fun hm hr => ?_, fun e hm hr => ?_⟩
  · exact (hg _ (failedWalk o ho) rfl :)
  · exact (hg _ ((noFailure hm).1 hr) rfl :)
  · obtain ⟨fault, absent⟩ := (noFailure hm).2 e hr
    refine ⟨fun hd => ?_, fun hd hp => ?_, fun hd hp hj => ?_⟩
    · exact (hg _ (fault 3 (checkEntry_denied _ _ _ hk hd)) rfl :)
    · exact (hg _ (fault 2 (checkEntry_forbidden _ _ _ hd hp)) rfl :)
    · obtain ⟨again, first⟩ := absent _ (checkEntry_absent _ _ _ hd hp hj)
      refine ⟨fun hw => (hg _ (again hw) rfl :), fun hw => ?_⟩
      have h := hg _ (first hw) rfl
      rwa [finish_walker_afresh] at h

/-! ## What each scalar access hands on (R21, R23, R132, R133) -/

/-- What the turn of an access that passed its first checks comes to outside what lets it through: Translate for translated space, a trap of the thread
window for another role than K and for atomics, a trap of local store for LR and SC. -/
def ScalarAccess.HandsOn (x : ScalarAccess) (s : State) (a : Act) : Prop :=
  (scalarKind x.kind = true ∧ Machine.rangeCause x.kind = x.rangeCause) ∧
  (2 ^ 20 ≤ x.ea.toNat → x.ea.toNat < windowBase → ∃ k, a = translate s x.ea x.kind k) ∧
  (windowBase ≤ x.ea.toNat → x.ea.toNat < 2 ^ 48 → s.me.role ≠ .k ∨ x.kind = .amo → a = .trap s x.refusedCause x.ea) ∧
  (x.ea.toNat < 2 ^ 20 → x.kind = .amo → x.load = false ∨ x.store = false → a = .trap s x.refusedCause x.ea)

theorem windowBase_lt : windowBase < 2 ^ 48 := by decide

theorem windowBase_above_local : 2 ^ 20 ≤ windowBase := by decide

theorem lt_of_lt_windowBase {a : Nat} (h : a < windowBase) : a < 2 ^ 48 := Nat.lt_trans h windowBase_lt

/-- What a turn comes to by the region of the address (R21). -/
def Regions (ea : Word) (turn inLocal inWindow beyond : Act) : Prop :=
  (ea.toNat < 2 ^ 20 → turn = inLocal) ∧ (windowBase ≤ ea.toNat → ea.toNat < 2 ^ 48 → turn = inWindow) ∧
  (2 ^ 20 ≤ ea.toNat → ea.toNat < windowBase → turn = beyond)

/-- An aligned access that no watch matches goes on by the region of its address. -/
theorem addrChecks_regions (s : State) (ea : Word) (n n' : Nat) (l st : Bool) (a m : Nat) (go inLocal inWindow beyond : Act) (hn : n' = n)
    (hgo : go = if isLocal ea = true then inLocal else if isWindow ea = true then inWindow else beyond) (ha : ea.toNat % n = 0)
    (hw : s.watchHit l st ea.toNat n = none) : Regions ea (addrChecks s ea n' l st a m go) inLocal inWindow beyond := by
  subst hn hgo
  have pass (h : ea.toNat < 2 ^ 48) (k : Act) := addrChecks_pass s ea n' l st a m k h ha hw
  refine ⟨fun h => ?_, fun h1 h2 => ?_, fun h1 h2 => ?_⟩
  · exact (pass (Nat.lt_trans h (by decide)) _).trans (if_pos ((isLocal_iff _).mpr h))
  · refine (pass h2 _).trans ?_
    rw [isLocal_of_le (windowBase_above_local.trans h1), isWindow_of_le h1 h2]; rfl
  · refine (pass (lt_of_lt_windowBase h2) _).trans ?_
    rw [isLocal_of_le h1, isWindow_of_lt h2]; rfl

/-- A release that nothing stops goes on, and what is no release at all. -/
theorem releaseCheck_passes (s : State) (b : Bool) (k : Act) (h : b = true → s.releaseFree) : (if b = true then releaseCheck s k else k) = k := by
  split
  · next hb => exact releaseCheck_free s k (h hb)
  · rfl

theorem role_ne {s : State} {p : Prop} (h : s.me.role ≠ .k ∨ p) (hp : ¬p) : (s.me.role != .k) = true := bne_iff_ne.mpr (h.resolve_right hp)

section
variable (s : State) (ea : Word) (n : Nat) (ha : ea.toNat % n = 0)
include ha

theorem scalarLoad_handsOn (i : Instr) (rd : BitVec 5) (sx : Bool) (acq : Option Nat) (hw : s.watchHit true false ea.toNat n = none) :
    ScalarAccess.HandsOn ⟨i, ea, n, true, false, .r, false⟩ s (scalarLoad s rd ea n sx acq) := by
  obtain ⟨-, window, beyond⟩ : Regions ea (scalarLoad s rd ea n sx acq) _ _ _ := addrChecks_regions s ea n n true false 5 4 _ _ _ _ rfl rfl ha hw
  exact ⟨⟨rfl, rfl⟩, fun h1 h2 => ⟨_, beyond h1 h2⟩, fun h1 h2 h3 => (window h1 h2).trans (if_pos (role_ne h3 AccessKind.noConfusion)), fun _ h => AccessKind.noConfusion h⟩

theorem scalarStore_handsOn (i : Instr) (v : Word) (rel : Option Nat) (b : Bool) (hw : s.watchHit false true ea.toNat n = none)
    (hr : rel.isSome = true → s.releaseFree) : ScalarAccess.HandsOn ⟨i, ea, n, false, true, .w, b⟩ s (scalarStore s v ea n rel) := by
  obtain ⟨-, window, beyond⟩ : Regions ea (scalarStore s v ea n rel) _ _ _ :=
    addrChecks_regions s ea n n false true 7 6 _ _ _ _ rfl (releaseCheck_passes s rel.isSome _ hr) ha hw
  exact ⟨⟨rfl, rfl⟩, fun h1 h2 => ⟨_, beyond h1 h2⟩, fun h1 h2 h3 => (window h1 h2).trans (if_pos (role_ne h3 AccessKind.noConfusion)), fun _ h => AccessKind.noConfusion h⟩

end

/-- Bytes of an access of the A extension. -/
def amoBytes (dbl : BitVec 1) : Nat := if dbl = 1 then 8 else 4

theorem amoBytes_eq (dbl : BitVec 1) : (if (dbl == 1#1) = true then 8 else 4) = amoBytes dbl := by
  unfold amoBytes; simp

theorem ite_or (a b : Bool) (x y : Act) : (if (a || b) = true then x else y) = if a = true then x else if b = true then x else y := by
  cases a <;> rfl

section
variable (s : State) (i : Instr) (rl : BitVec 1) (rs2 rs1 : BitVec 5) (dbl : BitVec 1) (rd : BitVec 5) (b : Bool)
  (ha : (s.xv rs1).toNat % amoBytes dbl = 0)
include ha

theorem lrBody_handsOn (aq : BitVec 1) (hw : s.watchHit true false (s.xv rs1).toNat (amoBytes dbl) = none) :
    ScalarAccess.HandsOn ⟨i, s.xv rs1, amoBytes dbl, true, false, .amo, b⟩ s (lrBody aq rs1 dbl rd s) := by
  obtain ⟨inLocal, window, beyond⟩ : Regions (s.xv rs1) (lrBody aq rs1 dbl rd s) _ _ _ :=
    addrChecks_regions s (s.xv rs1) (amoBytes dbl) _ true false 5 4 _ _ _ _ (amoBytes_eq dbl) (ite_or ..) ha hw
  exact ⟨⟨rfl, rfl⟩, fun h1 h2 => ⟨_, beyond h1 h2⟩, fun h1 h2 _ => window h1 h2, fun h _ _ => inLocal h⟩

variable (hr : (rl == 1#1) = true → s.releaseFree)
include hr

theorem scBody_handsOn (hw : s.watchHit false true (s.xv rs1).toNat (amoBytes dbl) = none) :
    ScalarAccess.HandsOn ⟨i, s.xv rs1, amoBytes dbl, false, true, .amo, b⟩ s (scBody rl rs2 rs1 dbl rd s) := by
  obtain ⟨inLocal, window, beyond⟩ : Regions (s.xv rs1) (scBody rl rs2 rs1 dbl rd s) _ _ _ :=
    addrChecks_regions s (s.xv rs1) (amoBytes dbl) _ false true 7 6 _ _ _ _ (amoBytes_eq dbl) ((releaseCheck_passes s (rl == 1#1) _ hr).trans (ite_or ..)) ha hw
  exact ⟨⟨rfl, rfl⟩, fun h1 h2 => ⟨_, beyond h1 h2⟩, fun h1 h2 _ => window h1 h2, fun h _ _ => inLocal h⟩

theorem amoBody_handsOn (fn : Nat) (aq : BitVec 1) (hw : s.watchHit true true (s.xv rs1).toNat (amoBytes dbl) = none) :
    ScalarAccess.HandsOn ⟨i, s.xv rs1, amoBytes dbl, true, true, .amo, b⟩ s (amoBody fn aq rl rs2 rs1 dbl rd s) := by
  obtain ⟨-, window, beyond⟩ : Regions (s.xv rs1) (amoBody fn aq rl rs2 rs1 dbl rd s) _ _ _ :=
    addrChecks_regions s (s.xv rs1) (amoBytes dbl) _ true true 7 6 _ _ _ _ (amoBytes_eq dbl) (releaseCheck_passes s (rl == 1#1) _ hr) ha hw
  exact ⟨⟨rfl, rfl⟩, fun h1 h2 => ⟨_, beyond h1 h2⟩, fun h1 h2 _ => window h1 h2, fun _ _ h => h.elim Bool.noConfusion Bool.noConfusion⟩

end

/-- An access that passes its first checks issues: its turn comes to what the access hands on. -/
def ScalarAccess.Issues (x : ScalarAccess) (s : State) : Prop :=
  (x.release = true → s.releaseFree) → x.ea.toNat % x.n = 0 → s.watchHit x.load x.store x.ea.toNat x.n = none →
    ∃ fm a, exec x.i s = .next (finish fm s a) ∧ x.HandsOn s a

theorem examine_amo (s : State) (rs2 rs1 rd : BitVec 5) (h1 : s.readable .x rs1.toNat) (h2 : s.readable .x rs2.toNat) (hd : s.writable .x rd.toNat) :
    examine s.me [sx rs1, sx rs2, dx rd] = .pass := by
  rw [examine_sx _ _ _ h1, examine_sx _ _ _ h2, examine_dx _ _ _ hd, examine_nil]

/-- The issue of an instruction of any role whose operands are ready. -/
theorem issue_anyRole (s : State) (i : Instr) (scope : Option (BitVec 4)) (regs : List (Bool × RFile × Nat)) (body : State → Act) (hn : s.noRepeat)
    (hs : ∀ c, scope = some c → (s.resolveScope c).isSome = true) (he : examine s.me regs = .pass) :
    issue { instr := i, roles := anyRole, scope := scope, regs := regs } body s = .next (finish { instr := i, roles := anyRole, scope := scope, regs := regs } s (body s)) :=
  issue_eq _ _ s (fun h => (Bool.false_ne_true h).elim) hs rfl hn he

theorem no_scope (s : State) : ∀ c, none = some c → (s.resolveScope c).isSome = true := nofun

section
variable (s : State) (i : Instr) (sc : BitVec 4) (aq rl dbl : BitVec 1) (rs2 rs1 rd : BitVec 5) (hn : s.noRepeat) (h1 : s.readable .x rs1.toNat)
include hn h1

theorem memLoad_issues (imm : BitVec 12) (n : Nat) (sx' : Bool) (hd : s.writable .x rd.toNat) (he : exec i s = memLoad i imm rs1 rd n sx' s) :
    ScalarAccess.Issues ⟨i, s.xv rs1 + imm.signExtend 64, n, true, false, .r, false⟩ s := fun _ ha hw =>
  ⟨_, _, he.trans (issue_anyRole s _ none _ _ hn (no_scope s) (examine_load s rs1 rd h1 hd)), scalarLoad_handsOn s _ n ha i rd sx' none hw⟩

theorem acquire_issues (n : Nat) (hd : s.writable .x rd.toNat) (hs : s.resolveScope sc ≠ none)
    (he : exec i s = issue { instr := i, roles := anyRole, scope := some sc, regs := [sx rs1, dx rd] } (fun s => scalarLoad s rd (s.xv rs1) n true (some (s.scopeOf sc))) s) :
    ScalarAccess.Issues ⟨i, s.xv rs1, n, true, false, .r, false⟩ s := fun _ ha hw =>
  ⟨_, _, he.trans (issue_anyRole s _ (some sc) _ _ hn (fun _ e => by cases e; exact Option.isSome_iff_ne_none.mpr hs) (examine_load s rs1 rd h1 hd)),
    scalarLoad_handsOn s _ n ha i rd true _ hw⟩

theorem memLr_issues (hd : s.writable .x rd.toNat) : ScalarAccess.Issues ⟨.lr aq rl rs1 dbl rd, s.xv rs1, amoBytes dbl, true, false, .amo, false⟩ s := fun _ ha hw =>
  ⟨_, _, (exec_lr ..).trans (issue_anyRole s _ none _ _ hn (no_scope s) (examine_load s rs1 rd h1 hd)), lrBody_handsOn s _ rs1 dbl rd _ ha aq hw⟩

variable (h2 : s.readable .x rs2.toNat)
include h2

theorem memStore_issues (hi : BitVec 7) (lo : BitVec 5) (n : Nat) (he : exec i s = memStore i hi rs2 rs1 lo n s) :
    ScalarAccess.Issues ⟨i, s.xv rs1 + (hi ++ lo).signExtend 64, n, false, true, .w, false⟩ s := fun _ ha hw =>
  ⟨_, _, he.trans (issue_anyRole s _ none _ _ hn (no_scope s) (examine_store s rs1 rs2 h1 h2)), scalarStore_handsOn s _ n ha i _ none false hw (fun h => (Bool.false_ne_true h).elim)⟩

theorem release_issues (n : Nat) (hs : s.resolveScope sc ≠ none)
    (he : exec i s = issue { instr := i, roles := anyRole, scope := some sc, regs := [sx rs1, sx rs2] } (fun s => scalarStore s (s.xv rs2) (s.xv rs1) n (some (s.scopeOf sc))) s) :
    ScalarAccess.Issues ⟨i, s.xv rs1, n, false, true, .w, true⟩ s := fun hr ha hw =>
  ⟨_, _, he.trans (issue_anyRole s _ (some sc) _ _ hn (fun _ e => by cases e; exact Option.isSome_iff_ne_none.mpr hs) (examine_store s rs1 rs2 h1 h2)),
    scalarStore_handsOn s _ n ha i _ _ true hw (fun _ => hr rfl)⟩

variable (hd : s.writable .x rd.toNat)
include hd

theorem memSc_issues : ScalarAccess.Issues ⟨.sc aq rl rs2 rs1 dbl rd, s.xv rs1, amoBytes dbl, false, true, .amo, rl == 1#1⟩ s := fun hr ha hw =>
  ⟨_, _, (exec_sc ..).trans (issue_anyRole s _ none _ _ hn (no_scope s) (examine_amo s rs2 rs1 rd h1 h2 hd)), scBody_handsOn s _ rl rs2 rs1 dbl rd _ ha hr hw⟩

theorem memAmo_issues (fn : Nat) (he : exec i s = memAmo i fn aq rl rs2 rs1 dbl rd s) :
    ScalarAccess.Issues ⟨i, s.xv rs1, amoBytes dbl, true, true, .amo, rl == 1#1⟩ s := fun hr ha hw =>
  ⟨_, _, he.trans (issue_anyRole s _ none _ _ hn (no_scope s) (examine_amo s rs2 rs1 rd h1 h2 hd)), amoBody_handsOn s i rl rs2 rs1 dbl rd _ ha hr fn aq hw⟩

/-- Every scalar access issues where its operands are ready and its scope resolves. -/
theorem scalarAccesses_issue (imm : BitVec 12) (hi : BitVec 7) (lo : BitVec 5) (hs : s.resolveScope sc ≠ none) :
    ∀ x ∈ s.scalarAccesses imm hi sc aq rl dbl rs2 rs1 lo rd, x.Issues s := by
  have load (i : Instr) (n : Nat) (sx' : Bool) := memLoad_issues s i rs1 rd hn h1 imm n sx' hd
  have store (i : Instr) (n : Nat) := memStore_issues s i rs2 rs1 hn h1 h2 hi lo n
  have amo (i : Instr) (fn : Nat) := memAmo_issues s i aq rl dbl rs2 rs1 rd hn h1 h2 hd fn
  simp only [State.scalarAccesses, List.forall_mem_cons]
  exact ⟨load _ 1 true (exec_lb ..), load _ 2 true (exec_lh ..), load _ 4 true (exec_lw ..), load _ 8 true (exec_ld ..), load _ 1 false (exec_lbu ..),
    load _ 2 false (exec_lhu ..), load _ 4 false (exec_lwu ..),
    acquire_issues s _ sc rs1 rd hn h1 8 hd hs (exec_lacq ..), acquire_issues s _ sc rs1 rd hn h1 4 hd hs (exec_lacqw ..),
    store _ 1 (exec_sb ..), store _ 2 (exec_sh ..), store _ 4 (exec_sw ..), store _ 8 (exec_sd ..),
    release_issues s _ sc rs2 rs1 hn h1 h2 8 hs (exec_srel ..), release_issues s _ sc rs2 rs1 hn h1 h2 4 hs (exec_srelw ..),
    memLr_issues s aq rl dbl rs1 rd hn h1 hd, memSc_issues s aq rl dbl rs2 rs1 rd hn h1 h2 hd,
    amo _ 0b00001 (exec_amoswap ..), amo _ 0b00000 (exec_amoadd ..), amo _ 0b00100 (exec_amoxor ..), amo _ 0b01100 (exec_amoand ..), amo _ 0b01000 (exec_amoor ..),
    amo _ 0b10000 (exec_amomin ..), amo _ 0b10100 (exec_amomax ..), amo _ 0b11000 (exec_amominu ..), amo _ 0b11100 (exec_amomaxu ..), List.forall_mem_nil _⟩

end

/-! ## Plain loads and stores at an address that does not pass (R125, R196) -/

section
variable (s : State) (i : Instr) (n : Nat) (rs2 rs1 lo rd : BitVec 5) (hn : s.noRepeat) (h1 : s.readable .x rs1.toNat)
include hn h1

theorem memLoad_traps (imm : BitVec 12) (sx' : Bool) (h0 : 0 < n) (hd : s.writable .x rd.toNat) (he : exec i s = memLoad i imm rs1 rd n sx' s) :
    let ea := s.xv rs1 + imm.signExtend 64
    (2 ^ 48 ≤ ea.toNat → exec i s = .next (s.trap 5 ea)) ∧ (ea.toNat < 2 ^ 48 → ea.toNat % n ≠ 0 → exec i s = .next (s.trap 4 ea)) ∧
    (ea.toNat < 2 ^ 20 → ea.toNat % n = 0 → s.watchHit true false ea.toNat n = none → s.here.engineOwned ea.toNat = true → exec i s = .next (s.trap 27 ea)) := by
  intro ea
  rw [he]
  have trap (cause : Nat) := issue_trap { instr := i, roles := anyRole, regs := [sx rs1, dx rd] } (fun s => scalarLoad s rd (s.xv rs1 + immI imm) n sx' none) s s cause ea
    (fun h => (Bool.false_ne_true h).elim) (no_scope s) rfl hn (examine_load s rs1 rd h1 hd)
  refine ⟨fun h => trap 5 (addrChecks_above _ _ _ _ _ _ _ _ h), fun h ha => trap 4 (addrChecks_misaligned _ _ _ _ _ _ _ _ h ha), fun h ha hw ho => trap 27 ?_⟩
  exact ((addrChecks_regions s ea n n true false 5 4 _ _ _ _ rfl rfl ha hw).1 h).trans (localAccess_engineOwned s false ea n _ h0 ho)

theorem memStore_traps (hi : BitVec 7) (h0 : 0 < n) (h2 : s.readable .x rs2.toNat) (he : exec i s = memStore i hi rs2 rs1 lo n s) :
    let ea := s.xv rs1 + (hi ++ lo).signExtend 64
    (2 ^ 48 ≤ ea.toNat → exec i s = .next (s.trap 7 ea)) ∧ (ea.toNat < 2 ^ 48 → ea.toNat % n ≠ 0 → exec i s = .next (s.trap 6 ea)) ∧
    (ea.toNat < 2 ^ 20 → ea.toNat % n = 0 → s.watchHit false true ea.toNat n = none → s.here.engineOwned ea.toNat = true → exec i s = .next (s.trap 27 ea)) := by
  intro ea
  rw [he]
  have trap (cause : Nat) := issue_trap { instr := i, roles := anyRole, regs := [sx rs1, sx rs2] } (fun s => scalarStore s (s.xv rs2) (s.xv rs1 + immS hi lo) n none) s s cause ea
    (fun h => (Bool.false_ne_true h).elim) (no_scope s) rfl hn (examine_store s rs1 rs2 h1 h2)
  refine ⟨fun h => trap 7 (addrChecks_above _ _ _ _ _ _ _ _ h), fun h ha => trap 6 (addrChecks_misaligned _ _ _ _ _ _ _ _ h ha), fun h ha hw ho => trap 27 ?_⟩
  exact ((addrChecks_regions s ea n n false true 7 6 _ _ _ _ rfl rfl ha hw).1 h).trans (localAccess_engineOwned s true ea n _ h0 ho)

end

/-! ## Fetch (R172) -/

/-- An address of translated space lies in no other region. -/
theorem translated_region {a : Word} (hl : 2 ^ 20 ≤ a.toNat) (hw : a.toNat < windowBase) : (!vaOk a || isLocal a || isWindow a) = false := by
  rw [show vaOk a = true from decide_eq_true (lt_of_lt_windowBase hw), isLocal_of_le hl, isWindow_of_lt hw]; rfl

/-- A fetch that Translate does not let through comes to what Translate comes to. -/
theorem fetchTurn_stopped (s : State) (a : Act) (h4 : s.me.pc.toNat % 4 = 0) (hl : 2 ^ 20 ≤ s.me.pc.toNat) (hw : s.me.pc.toNat < windowBase)
    (ht : translate s s.me.pc .x (fun s pa _ => .jump s (wd pa)) = a) (ha : a.isJump = false) :
    s.fetchTurn = .next (finish { instr := .ecall, roles := anyRole } s a) := by
  unfold State.fetchTurn
  dsimp only
  rw [if_neg (not_not_intro h4), translated_region hl hw, ht]
  cases a with
  | jump => cases ha
  | _ => rfl

theorem fetch_faults (s : State) (h4 : s.me.pc.toNat % 4 = 0) (hl : 2 ^ 20 ≤ s.me.pc.toNat) (hw : s.me.pc.toNat < windowBase) :
    s.Faults s.me.pc .x 12 (fun t => s.fetchTurn = .next t) :=
  faults_of_translate s s.me.pc .x 12 _ _ _ rfl rfl (fun a ht ha => fetchTurn_stopped s a h4 hl hw ht ha)

/-- What an access that issues comes to where it is not let through. -/
theorem ScalarAccess.Issues.stops {x : ScalarAccess} {s : State} (h : x.Issues s) (hr : x.release = true → s.releaseFree) (ha : x.ea.toNat % x.n = 0)
    (hw : s.watchHit x.load x.store x.ea.toNat x.n = none) :
    (2 ^ 20 ≤ x.ea.toNat → x.ea.toNat < windowBase → s.Faults x.ea x.kind x.rangeCause (fun t => exec x.i s = .next t)) ∧
    (windowBase ≤ x.ea.toNat → x.ea.toNat < 2 ^ 48 → s.me.role ≠ .k ∨ x.kind = .amo → exec x.i s = .next (s.trap x.refusedCause x.ea)) ∧
    (x.ea.toNat < 2 ^ 20 → x.kind = .amo → x.load = false ∨ x.store = false → exec x.i s = .next (s.trap x.refusedCause x.ea)) := by
  obtain ⟨fm, a, he, ⟨hk, hc⟩, translated, window, inLocal⟩ := h hr ha hw
  refine ⟨fun hl hb => ?_, fun hl hb hk => by rw [he, window hl hb hk]; rfl, fun hl hk ho => by rw [he, inLocal hl hk ho]; rfl⟩
  obtain ⟨k, rfl⟩ := translated hl hb
  exact faults_of_translate s x.ea x.kind x.rangeCause _ fm k hk hc (fun b hb _ => by rw [he, hb])

/-- Settles O8: an access that issues hands on to Translate, to a trap of the window or to a trap of local store, and what Translate does not let through
comes to a park or a trap. -/
theorem accessTraps : Obligations.AccessTraps := by
  refine ⟨fun s imm hi rs2 rs1 lo rd hn h1 => ⟨fun hd => ?_, fun h2 => ?_⟩, fun s imm hi sc aq rl dbl rs2 rs1 lo rd => ⟨fun hn h1 h2 hd hs x hx => ?_, fetch_faults s⟩⟩
  · have load (i : Instr) (n : Nat) (sx' : Bool) (h0 : 0 < n) := memLoad_traps s i n rs1 rd hn h1 imm sx' h0 hd
    simp only [List.forall_mem_cons]
    exact ⟨load _ 1 true (by decide) (exec_lb ..), load _ 2 true (by decide) (exec_lh ..), load _ 4 true (by decide) (exec_lw ..), load _ 8 true (by decide) (exec_ld ..),
      load _ 1 false (by decide) (exec_lbu ..), load _ 2 false (by decide) (exec_lhu ..), load _ 4 false (by decide) (exec_lwu ..), List.forall_mem_nil _⟩
  · have store (i : Instr) (n : Nat) (h0 : 0 < n) := memStore_traps s i n rs2 rs1 lo hn h1 hi h0 h2
    simp only [List.forall_mem_cons]
    exact ⟨store _ 1 (by decide) (exec_sb ..), store _ 2 (by decide) (exec_sh ..), store _ 4 (by decide) (exec_sw ..), store _ 8 (by decide) (exec_sd ..), List.forall_mem_nil _⟩
  · exact (scalarAccesses_issue s sc aq rl dbl rs2 rs1 rd hn h1 h2 hd imm hi lo hs x hx).stops

end Sys2Proof.Machine
end

section
/-! What a step runs (O54): the end of a move, the word that a slot fetches, and the moves of a core, of an event and of the control node. -/

namespace Sys2Proof.Machine

/-! ## The end of a move -/

/-- LOADs that report keep what a function of the state sees that neither the processors nor the reports enter. -/
theorem settleLoads_keeps {β : Type} (g : State → β) (hp : ∀ (u : State) (d : Nat) (f : Proc → Proc), g (u.modProc d f) = g u) (hr : ∀ (u : State) (r : Report), g (u.report r) = g u)
    (s : State) : g s.settleLoads = g s :=
  foldl_keeps g (fun u _ => foldl_keeps g (fun v _ => (hr ..).trans (hp v ..)) _ u) _ s

theorem moves_moved (s : State) : s.moved.moves = s.moves + 1 :=
  congrArg (· + 1) (settleLoads_keeps State.moves (fun _ _ _ => rfl) (fun _ _ => rfl) s)

theorem mover_moved (s : State) : s.moved.mover = Config.schedule s.moves :=
  congrArg Config.schedule (settleLoads_keeps State.moves (fun _ _ _ => rfl) (fun _ _ => rfl) s)

theorem cores_moved (s : State) : s.moved.cores = s.cores := by
  unfold State.moved
  exact settleLoads_keeps State.cores (fun _ _ _ => rfl) (fun _ _ => rfl) s

theorem core_moved (s : State) (c : Nat) : s.moved.core c = s.core c := by unfold State.core; rw [cores_moved]

theorem settle_of_nothing_due (s : State) (c : Nat) (h : s.dueEvent c = none) : s.settle c = s.moved := if_neg (by simp [h])

/-! ## A core's move (R15, R27, R90) -/

section
variable (s : State) (c : Nat) (hm : s.mover = .turn c)
include hm

theorem step_turn : step s = coreMove s c := by unfold step; rw [hm]

theorem step_unclocked (hc : s.clocked c = false) : step s = .next s.moved := by
  rw [step_turn s c hm]; unfold coreMove; rw [hc]; rfl

variable (hc : s.clocked c = true)
include hc

theorem step_turnDue (ht : (s.core c).turnDue = true) : step s = turnMove s c := by
  rw [step_turn s c hm]; unfold coreMove; rw [hc, ht]; rfl

theorem step_dueEvent (ht : (s.core c).turnDue = false) (i : Instr) (t : State) (hd : s.dueEvent c = some i) (he : exec i s = .next t) : step s = .next (t.settle c) := by
  rw [step_turn s c hm]; unfold coreMove; simp [hc, ht, hd, he]

theorem step_nextCycle (ht : (s.core c).turnDue = false) (hd : s.dueEvent c = none) : step s = turnMove (s.tick c) c := by
  rw [step_turn s c hm]; unfold coreMove; simp [hc, ht, hd]

end

theorem turnMove_fill (s : State) (c : Nat) (i : Instr) (h : (s.core c).dueFill c = some i) : turnMove s c = exec i s := by
  unfold turnMove; rw [h]

theorem turnMove_exec (s u t : State) (c : Nat) (i : Instr) (h : (s.core c).dueFill c = none) (ht : (s.seat c).slotTurn = .exec i u) (he : exec i u = .next t) :
    turnMove s c = .next ((t.countCycle c).settle c) := by
  unfold turnMove; rw [h]; dsimp only; rw [ht]; dsimp only; rw [he]; rfl

/-! ## Fetch (R108, R109, R172) -/

theorem slotTurn_running (s : State) (h1 : s.handlerDue = false) (h2 : s.me.underSave = false) (h3 : s.me.reserved = false) (h4 : s.me.doneWait = false)
    (h5 : s.me.state = .running) (h6 : s.me.broken = none) (h7 : s.me.busyUntil < s.here.cycle) : s.slotTurn = s.fetchTurn := by
  unfold State.slotTurn
  simp [h1, h2, h3, h4, h5, h6, Nat.not_le.mpr h7]

theorem me_useRange (s : State) (e : RangeEntry) : (s.modHere (fun k => k.useRange e)).me = s.me := by
  have h := congrArg (fun k : Core => k.slot s.curSlot) (here_modHere s (fun k => k.useRange e))
  exact h

/-- A line that the slot's fetch has, arrived for it or in the instruction cache. -/
theorem fetched_of_held (s : State) (l : Nat) (x : BitVec 1024)
    (h : s.me.fetch = some (.arrived l x) ∨ ((∀ y, s.me.fetch ≠ some (.arrived l y)) ∧ nget s.here.icache l = some x)) : s.fetched l = some x := by
  unfold State.fetched
  obtain h | ⟨hn, hc⟩ := h
  · simp [h]
  · rw [hc]
    cases e : s.me.fetch with
    | none => rfl
    | some f =>
      cases f with
      | arrived m y =>
        have ne : m ≠ l := fun hl => hn y (by rw [e, hl])
        simp [ne]
      | _ => rfl

/-- The lines of a word that lies in one or in two, read in their order, hold the word. -/
theorem lines_of_word (s : State) (a : Nat) (d d' : BitVec 1024) (w : BitVec 32) (hd : s.fetched (a / 128) = some d)
    (h1 : a % 128 ≤ 124 → w = d.extractLsb' (8 * (a % 128)) 32)
    (h2 : 124 < a % 128 → s.fetched (a / 128 + 1) = some d' ∧ w = (d' ++ d).extractLsb' (8 * (a % 128)) 32) :
    ∃ ds, (wordLines a).mapM s.fetched = some ds ∧ wordOf ds a = w := by
  unfold wordLines lineOf
  by_cases h : a % 128 ≤ 124
  · rw [if_pos (by omega)]
    exact ⟨[d], by simp [hd], (h1 h).symm⟩
  · obtain ⟨hd', hw⟩ := h2 (by omega)
    rw [if_neg (by omega)]
    exact ⟨[d, d'], by simp [hd, hd'], hw.symm⟩

/-- The word that a fetch holds. -/
def TurnDo.ofWord (w : IWord) (v : State) : TurnDo :=
  match decodeWord w with
  | .ok i => .exec i v
  | .error _ => .exec (.illegalWord w) v

/-- A fetch that the range table admits and whose lines are at hand runs its word. -/
theorem fetchTurn_word (s : State) (e : RangeEntry) (ds : List (BitVec 1024)) (h4 : s.me.pc.toNat % 4 = 0) (hl : 2 ^ 20 ≤ s.me.pc.toNat) (hw : s.me.pc.toNat < windowBase)
    (hm : s.me.walkOut.filter (fun o => o.va == s.me.pc) = none) (hr : s.here.rangeFor s.me.pc = some e) (hc : checkEntry e.slot s.me.pc.toNat .x = .ok)
    (hf : (wordLines (wd (rangePA e.slot s.me.pc.toNat)).toNat).mapM (s.modHere (fun k => k.useRange e)).fetched = some ds)
    (hb : ((s.modHere (fun k => k.useRange e)).modMe (fun t => { t with fetch := none })).bpHit = none) :
    s.fetchTurn = .ofWord (wordOf ds (wd (rangePA e.slot s.me.pc.toNat)).toNat) ((s.modHere (fun k => k.useRange e)).modMe (fun t => { t with fetch := none })) := by
  have ht : translate s s.me.pc .x (fun s pa _ => .jump s (wd pa)) = .jump (s.modHere (fun k => k.useRange e)) (wd (rangePA e.slot s.me.pc.toNat)) := by
    unfold translate; simp only [hm, hr, hc]
  unfold State.fetchTurn
  dsimp only
  rw [if_neg (not_not_intro h4), translated_region hl hw, ht]
  simp only [Bool.false_eq_true, if_false, hf, hb]
  rfl

theorem exec_illegalWord_eq (s : State) (w : BitVec 32) : exec (.illegalWord w) s = .next (s.trap 2 (w.setWidth 64)) := rfl


/-! ## The other moves (R56, R147, R378) -/

/-- The deadline of a packet whose sender counts cycles of its own (R44). -/
def State.OwnDeadline (s : State) (i : Instr) : Prop := ∃ fid f, i = .noResponse fid ∧ s.findFlight fid = some f ∧ f.src.ownClock = true

/-- An event that the schedule may name only as one of its rows, or as such a deadline. -/
def State.NamedFor (s : State) (i : Instr) : Prop := s.mayHappen i = true → scheduled i = true ∨ s.OwnDeadline i

theorem namedFor_of_eq (s : State) (i : Instr) (h : s.mayHappen i = scheduled i) : s.NamedFor i := fun hm => .inl (h ▸ hm)

theorem namedFor (s : State) (i : Instr) : s.NamedFor i := by
  cases i with
  | noResponse fid =>
    intro h
    obtain ⟨f, hf, ho⟩ := (Option.any_eq_true ..).mp ((Bool.or_eq_true ..).mp h |>.resolve_left Bool.false_ne_true)
    exact .inr ⟨fid, f, rfl, hf, ho⟩
  | _ => exact namedFor_of_eq s _ (Bool.or_false _)

theorem mayHappen_iff (s : State) (i : Instr) : s.mayHappen i = true ↔ scheduled i = true ∨ s.OwnDeadline i := by
  refine ⟨namedFor s i, fun h => (Bool.or_eq_true ..).mpr (h.imp_right fun ⟨fid, f, hi, hf, ho⟩ => ?_)⟩
  subst hi
  exact (Option.any_eq_true ..).mpr ⟨f, hf, ho⟩

section
variable (s : State) (i : Instr) (hm : s.mover = .event i)
include hm

theorem step_event_runs (t : State) (hh : s.mayHappen i = true) (hg : s.gatedOut i = false) (he : exec i s = .next t) : step s = .next t.moved := by
  unfold step; rw [hm]; simp [hh, hg, he, endMove]

theorem step_event_skips (h : s.mayHappen i = false ∨ s.gatedOut i = true) : step s = .next s.moved := by
  unfold step; rw [hm]
  exact if_neg (by obtain h | h := h <;> simp [h])

end

theorem step_hostWrite (s : State) (d : Nat) (part : BitVec 4) (pa : BitVec 43) (bytes : List Byte) (hm : s.mover = .hostWrite d part pa bytes) :
    step s = .next (s.hostWrite d part pa.toNat bytes).moved := by unfold step; rw [hm]

theorem step_memError (s : State) (l : Nat) (hard : Bool) (hm : s.mover = .memError l hard) : step s = .next (s.memError l hard).moved := by
  unfold step; rw [hm]

/-- Settles O54: a core's move by `coreMove` and `turnMove`, the fetched word by its lines, and the other movers by their case of `step`. -/
theorem steps : Obligations.Steps := by
  refine ⟨?_, fun s => ⟨⟨moves_moved s, mover_moved s, core_moved s⟩, fun i hm => ⟨fun hh hg t => step_event_runs s i hm t hh hg, step_event_skips s i hm⟩, mayHappen_iff s,
    fun c hm => ⟨step_unclocked s c hm, fun hc => ⟨step_dueEvent s c hm hc, fun ht i hi => ?_, fun ht hd i hi => ?_⟩⟩, step_hostWrite s, step_memError s⟩⟩
  · intro s c e d d' w hm hclk s0 u pc hdue hfill hh hus hres hdw hrun hbr hbusy h4 hl hw hwalk hr hc a v held hd h1 h2 hb
    have hs : step s = turnMove s0 c := by
      cases ht : (s.core c).turnDue with
      | true => rw [step_turnDue s c hm hclk ht]; simp [s0, ht]
      | false => rw [step_nextCycle s c hm hclk ht (hdue ht)]; simp [s0, ht]
    have hfetched (l : Nat) (x : BitVec 1024) (h : held l x) : (u.modHere (fun k => k.useRange e)).fetched l = some x :=
      fetched_of_held _ l x (by rw [here_modHere, me_useRange]; exact h)
    obtain ⟨ds, hds, hword⟩ := lines_of_word _ a d d' w (hfetched _ _ hd) h1 fun h => ⟨hfetched _ _ (h2 h).1, (h2 h).2⟩
    have hturn : u.slotTurn = .ofWord w v := by
      rw [slotTurn_running u hh hus hres hdw hrun hbr hbusy, fetchTurn_word u e ds h4 hl hw hwalk hr hc hds hb]
      exact congrArg (TurnDo.ofWord · v) hword
    refine ⟨fun i t hi he => ?_, fun x hx => ?_⟩
    · have hstep : step s = .next ((t.countCycle c).settle c) :=
        hs.trans (turnMove_exec s0 v t c i hfill (by rw [hturn]; unfold TurnDo.ofWord; rw [hi]) he)
      refine ⟨hstep, fun hn => ⟨_, hstep, ?_⟩⟩
      rw [settle_of_nothing_due _ c hn]
      exact ⟨moves_moved _, mover_moved _, core_moved _⟩
    · exact hs.trans (turnMove_exec s0 v _ c _ hfill (by rw [hturn]; unfold TurnDo.ofWord; rw [hx]) (exec_illegalWord_eq v w))
  · exact (step_turnDue s c hm hc ht).trans (turnMove_fill s c i hi)
  · exact (step_nextCycle s c hm hc ht hd).trans (turnMove_fill _ c i hi)

end Sys2Proof.Machine
end

section
/-! The range instructions (O25): what Pend leaves them to read, their futures, the two that hold the slot, and RINV. -/

namespace Sys2Proof.Machine

/-! ## What a range instruction reads after Pend (R88, R173) -/

theorem here_pendWith (s : State) (f : RFile) (n i : Nat) (cl : Claim) :
    (s.pendWith f n i cl).here.rdmnt = s.here.rdmnt ∧ (s.pendWith f n i cl).here.rdir = s.here.rdir := by
  unfold State.pendWith
  rw [here_useFree, here_modMe, here_modHere]
  exact ⟨rfl, rfl⟩

/-- What Pend of an x register leaves: all as it was for x0, else the state with a claim taken. -/
theorem pend_x_cases {s u : State} {n : Nat} {cls : BitVec 4} {k : Bool} {c : Option Nat} (h : s.pend .x n cls k = some (u, c)) :
    u = s ∨ ∃ i cl, u = s.pendWith .x n i cl := by
  by_cases h0 : RFile.x = .x ∧ n = 0
  · rw [h0.2, pend_x0] at h; cases h; exact .inl rfl
  · by_cases hf : s.here.freeClaims = []
    · rw [pend_full _ _ _ _ _ h0 hf] at h; cases h
    · obtain ⟨i, -, e⟩ := pend_eq s .x n cls k h0 hf
      rw [e] at h; cases h
      exact .inr ⟨_, _, rfl⟩

/-- The directory registers and the scopes stay at Pend. -/
theorem pend_keeps_directories {s u : State} {n : Nat} {cls : BitVec 4} {k : Bool} {c : Option Nat} (h : s.pend .x n cls k = some (u, c)) :
    u.here.rdmnt = s.here.rdmnt ∧ u.here.rdir = s.here.rdir ∧ ∀ sc, u.resolveScope sc = s.resolveScope sc := by
  obtain rfl | ⟨i, cl, rfl⟩ := pend_x_cases h
  · exact ⟨rfl, rfl, fun _ => rfl⟩
  · obtain ⟨hm, hd⟩ := here_pendWith s .x n i cl
    exact ⟨hm, hd, fun _ => rfl⟩

/-! ## Issue (R181) -/

section
variable (s t : State) (i : Instr) (scope : Option (BitVec 4)) (regs : List (Bool × RFile × Nat)) (body : State → Act) (hn : s.noRepeat) (hk : s.me.role = .k)
  (hs : ∀ c, scope = some c → (s.resolveScope c).isSome = true) (he : examine s.me regs = .pass)
include hn hk hs he

theorem issue_range (hb : body s = .done t) : issue (rangeForm i scope regs) body s = .next (t.goneTo (s.me.pc + 4)) :=
  issue_done _ _ s t (fun _ => hk) hs (by show onlyK s.me.role = true; rw [hk]; rfl) hn he (arrayHolds_nil _ _ rfl) hb

theorem issue_range_hold (hb : body s = .hold t) : issue (rangeForm i scope regs) body s = .next t.bubble := by
  rw [issue_eq _ _ s (fun _ => hk) hs (by show onlyK s.me.role = true; rw [hk]; rfl) hn he, hb]; rfl

theorem issue_range_trap (cause : Nat) (tval : Word) (hb : body s = .trap t cause tval) : issue (rangeForm i scope regs) body s = .next (t.trap cause tval) :=
  issue_trap _ _ s t cause tval (fun _ => hk) hs (by show onlyK s.me.role = true; rw [hk]; rfl) hn he hb

end

/-! ## Futures (R183 to R185, R189) -/

/-- A future of a directory that cannot be searched answers NODIR, any other goes to the home of the first slot that a search probes. -/
theorem dirFuture_done (s u : State) (rd : BitVec 5) (op : DirOp) (c : Option Nat) (h : s.pend .x rd.toNat 1 false = some (u, c)) :
    dirFuture rd op s = .done (if dirBad u.here.rdmnt = true then u.fillNow u.curCore c (BitVec.ofNat 64 (7 * 2 ^ 56))
      else u.inject .request (.core u.curCore) (siteOf u.curCore) (u.site (siteOf u.curCore)).part (.phys (dirProbe u.here.rdmnt))
        (.dir u.curSlot c 0 u.here.rdmnt op)) := by
  unfold dirFuture
  rw [withClaim_some _ _ _ _ _ _ _ _ h]
  dsimp only
  split <;> rfl

theorem probeBody_done (s u : State) (rs1 rd : BitVec 5) (dir : Word) (fill : Bool) (c : Option Nat) (h : s.pend .x rd.toNat 1 false = some (u, c)) :
    probeBody rs1 rd dir fill s = .done (u.startWalk u.curCore (s.xv rs1) dir (.probe c fill) false).1 := by
  unfold probeBody
  rw [withClaim_some _ _ _ _ _ _ _ _ h]

/-! ## Updates that hold the slot (R186) -/

section
variable (s : State) (rs1 : BitVec 5) (op : DirOp)

theorem resBody_answered (i : Nat) (h : s.me.dirWait = some (.done 0 i)) : resBody rs1 op s = .done s := by
  unfold resBody; rw [h]; rfl

theorem resBody_refused (r i : Nat) (hr : r ≠ 0) (h : s.me.dirWait = some (.done r i)) :
    resBody rs1 op s = .trap (s.latched r (wf s.here.rdmnt 52 12) i) 13 (s.xv rs1) := by
  unfold resBody; rw [h]; exact if_neg hr

theorem resBody_waits (h : (∃ a, s.me.dirWait = some (.sent a)) ∨ (s.me.dirWait = none ∧ s.releaseWaits 3 ≠ [])) : resBody rs1 op s = .hold s := by
  unfold resBody
  obtain ⟨a, h⟩ | ⟨h, hw⟩ := h
  · rw [h]
  · rw [h]; exact if_pos (by simp [hw])

theorem resBody_nodir (h : s.me.dirWait = none) (hw : s.releaseWaits 3 = []) (hd : dirBad s.here.rdmnt = true) :
    resBody rs1 op s = .trap (s.latched 7 (wf s.here.rdmnt 52 12) 0) 13 (s.xv rs1) := by
  unfold resBody; rw [h, hw]; dsimp only; rw [hd]; rfl

theorem resBody_sends (h : s.me.dirWait = none) (hw : s.releaseWaits 3 = []) (hd : dirBad s.here.rdmnt = false) :
    resBody rs1 op s = .hold ((s.bump.inject .request (.core s.curCore) (siteOf s.curCore) (s.site (siteOf s.curCore)).part (.phys (dirProbe s.here.rdmnt))
      (.dir s.curSlot none s.nextId s.here.rdmnt op)).modMe (fun t => { t with dirWait := some (.sent s.nextId) })) := by
  unfold resBody; rw [h, hw]; dsimp only; rw [hd]; rfl

end

/-- The slot has sent its update and waits for the answer. -/
def State.updateSent (s : State) (op : DirOp) : State :=
  ((s.bump.inject .request (.core s.curCore) (siteOf s.curCore) (s.site (siteOf s.curCore)).part (.phys (dirProbe s.here.rdmnt))
    (.dir s.curSlot none s.nextId s.here.rdmnt op)).modMe (fun t => { t with dirWait := some (.sent s.nextId) })).bubble

/-- The update failed for this reason at this slot of the directory. -/
def State.updateFailed (s : State) (rs1 : BitVec 5) (r i : Nat) : State := (s.latched r (wf s.here.rdmnt 52 12) i).trap 13 (s.xv rs1)

/-- The outcomes of an update that holds the slot: sent, refused at once, held, answered, refused by its home. -/
def UpdateOutcomes (s : State) (rs1 : BitVec 5) (op : DirOp) (o : Out) : Prop :=
  (s.me.dirWait = none → s.releaseWaits 3 = [] → dirBad s.here.rdmnt = false → o = .next (s.updateSent op)) ∧
  (s.me.dirWait = none → s.releaseWaits 3 = [] → dirBad s.here.rdmnt = true → o = .next (s.updateFailed rs1 7 0)) ∧
  ((∃ a, s.me.dirWait = some (.sent a)) ∨ (s.me.dirWait = none ∧ s.releaseWaits 3 ≠ []) → o = .next s.bubble) ∧
  (∀ i, s.me.dirWait = some (.done 0 i) → o = .next (s.goneTo (s.me.pc + 4))) ∧
  ∀ r i, r ≠ 0 → s.me.dirWait = some (.done r i) → o = .next (s.updateFailed rs1 r i)

theorem issue_update (s : State) (i : Instr) (rs2 rs1 : BitVec 5) (op : State → DirOp) (hn : s.noRepeat) (hk : s.me.role = .k) (h1 : s.readable .x rs1.toNat)
    (h2 : s.readable .x rs2.toNat) : UpdateOutcomes s rs1 (op s) (issue (rangeForm i none [sx rs1, sx rs2]) (fun s => resBody rs1 (op s) s) s) := by
  have he := examine_store s rs1 rs2 h1 h2
  refine ⟨fun hw hr hb => ?_, fun hw hr hb => ?_, fun h => ?_, fun j h => ?_, fun r j h0 h => ?_⟩
  · exact issue_range_hold s _ i none _ _ hn hk (no_scope s) he (resBody_sends s rs1 (op s) hw hr hb)
  · exact issue_range_trap s _ i none _ _ hn hk (no_scope s) he 13 _ (resBody_nodir s rs1 (op s) hw hr hb)
  · exact issue_range_hold s _ i none _ _ hn hk (no_scope s) he (resBody_waits s rs1 (op s) h)
  · exact issue_range s _ i none _ _ hn hk (no_scope s) he (resBody_answered s rs1 (op s) j h)
  · exact issue_range_trap s _ i none _ _ hn hk (no_scope s) he 13 _ (resBody_refused s rs1 (op s) r j h0 h)

/-! ## Invalidation (R24, R187) -/

theorem mem_rinvTargets_sites (s : State) (c scope n : Nat) :
    n ∈ (s.rinvTargets c scope).2 ↔ n < Config.sites ∧ s.inInstance c scope n = true ∧ s.siteLive n = true := by
  simp [State.rinvTargets]

theorem rinvTargets_core (s : State) (c : Nat) : (s.rinvTargets c 0).1 = [c] := rfl

theorem mem_rinvTargets_cores (s : State) (c scope d : Nat) (h : scope ≠ 0) :
    d ∈ (s.rinvTargets c scope).1 ↔ siteOf d ∈ (s.rinvTargets c scope).2 ∧ s.exposed d = true := by
  have core_of_site (l : List Nat) : d ∈ l.flatMap (fun n => (List.range 16).map (16 * n + ·)) ↔ siteOf d ∈ l := by
    simp only [List.mem_flatMap, List.mem_map, List.mem_range, siteOf]
    constructor
    · rintro ⟨n, hn, i, hi, rfl⟩
      rwa [show (16 * n + i) / 16 = n by omega]
    · exact fun hd => ⟨_, hd, d % 16, Nat.mod_lt _ (by decide), by omega⟩
  unfold State.rinvTargets
  simp only [if_neg h, List.mem_filter, core_of_site]

section
variable (s : State) (sc : BitVec 4) (scope : Nat) (rs2 rs1 rd : BitVec 5) (hn : s.noRepeat) (hk : s.me.role = .k) (hs : s.resolveScope sc = some scope)
  (h1 : s.readable .x rs1.toNat) (h2 : s.readable .x rs2.toNat) (hd : s.writable .x rd.toNat)
include hn hk hs h1 h2 hd

theorem exec_rinv_empty (h : s.xv rs2 = 0) : exec (.rinv sc rs2 rs1 rd) s = .next (s.wrote rd 0) := by
  rw [exec_rinv]
  refine issue_range s _ _ _ _ _ hn hk (fun c e => by cases e; rw [hs]; rfl) (examine_amo s rs2 rs1 rd h1 h2 hd) ?_
  exact if_pos (by rw [h]; rfl)

/-- RINV of some bytes sends its span at once, or holds it at the port until the earlier accesses of its scope are performed. -/
theorem exec_rinv_span (h : s.xv rs2 ≠ 0) (u : State) (c : Option Nat) (hp : s.pend .x rd.toNat 1 false = some (u, c)) :
    let v := u.bump
    let proc := BitVec.ofNat 12 (wf s.here.rdmnt 52 12)
    let lo := (s.xv rs1).toNat
    let hi := min (lo + (s.xv rs2).toNat) windowBase
    let held : Held := { core := v.curCore, acc := u.nextId, waits := s.releaseWaits scope, after := [], body := .rinv u.nextId c proc lo hi false, dest := .coords scope }
    exec (.rinv sc rs2 rs1 rd) s = .next (State.goneTo (if (s.releaseWaits scope).isEmpty = true
      then v.sendRinv v.curCore (v.rinvTargets v.curCore scope) proc lo hi c none u.nextId else { v with held := v.held ++ [held] }) (s.me.pc + 4)) := by
  intro v proc lo hi held
  obtain ⟨hm, -, hscope⟩ := pend_keeps_directories hp
  obtain ⟨-, -, hwaits⟩ := pend_frame s u _ _ _ _ hp
  have e : u.scopeOf sc = scope := by unfold State.scopeOf; rw [hscope, hs]; rfl
  have ew : u.bump.releaseWaits scope = s.releaseWaits scope := hwaits scope
  have em : u.bump.here.rdmnt = s.here.rdmnt := hm
  rw [exec_rinv]
  refine issue_range s _ _ _ _ _ hn hk (fun c e => by cases e; rw [hs]; rfl) (examine_amo s rs2 rs1 rd h1 h2 hd) ?_
  dsimp only
  have h0 : (s.xv rs2).toNat ≠ 0 := fun e => h (BitVec.eq_of_toNat_eq e)
  rw [if_neg h0, withClaim_some _ _ _ _ _ _ _ _ hp]
  rw [e, ew, em]
  split <;> rfl

end

/-- Settles O25: the futures by `dirFuture` and `probeBody`, the updates that hold the slot by the cases of `resBody`, and RINV by its span. -/
theorem rangeInstructions : Obligations.RangeInstructions := by
  refine ⟨?_, ?_, ?_, fun s c scope => ⟨mem_rinvTargets_sites s c scope, fun h => by subst h; exact rinvTargets_core s c, fun h d => mem_rinvTargets_cores s c scope d h⟩⟩
  · intro s u c rs2 rs1 rd hn hk h1 hd hp d probed sent nodir
    obtain ⟨hm, hr, -⟩ := pend_keeps_directories hp
    have future (i : Instr) (regs : List (Bool × RFile × Nat)) (op : State → DirOp) (he : examine s.me regs = .pass) :
        issue (rangeForm i none regs) (fun s => dirFuture rd (op s) s) s = .next (if dirBad d = true then nodir else sent (op s)) := by
      refine (issue_range s _ i none regs _ hn hk (no_scope s) he (dirFuture_done s u rd (op s) c hp)).trans ?_
      show Host.Outcome.next (State.goneTo (if dirBad d = true then _ else _) _) = _
      split <;> rfl
    have probe (i : Instr) (dir : State → Word) (fill : Bool) (hd' : dir s = dir u) :
        issue (rangeForm i none [sx rs1, dx rd]) (fun s => probeBody rs1 rd (dir s) fill s) s = .next (probed (dir u) fill) := by
      rw [← hd']
      exact issue_range s _ i none _ _ hn hk (no_scope s) (examine_load s rs1 rd h1 hd) (probeBody_done s u rs1 rd (dir s) fill c hp)
    refine ⟨(exec_rprobe ..).trans (probe _ (fun s => s.here.rdmnt) false hm.symm), (exec_rloadt ..).trans (probe _ (fun s => s.here.rdir) true hr.symm),
      (exec_rmerge ..).trans (future _ _ (fun s => .merge (s.xv rs1)) (examine_load s rs1 rd h1 hd)), fun h2 => ⟨?_, ?_⟩⟩
    · exact (exec_rsplit ..).trans (future _ _ (fun s => .split (s.xv rs1) (s.xv rs2)) (examine_amo s rs2 rs1 rd h1 h2 hd))
    · exact (exec_rglean ..).trans (future _ _ (fun s => .glean (s.xv rs1) (s.xv rs2)) (examine_amo s rs2 rs1 rd h1 h2 hd))
  · intro s rs2 rs1 hn hk h1 h2 d sent failed
    obtain ⟨setSent, setBad, setHeld, setDone, setFailed⟩ := issue_update s (.rsetres rs2 rs1) rs2 rs1 (fun s => .setres (s.xv rs1) (s.xv rs2)) hn hk h1 h2
    obtain ⟨clrSent, clrBad, clrHeld, clrDone, clrFailed⟩ := issue_update s (.rclrres rs2 rs1) rs2 rs1 (fun s => .clrres (s.xv rs1) (s.xv rs2)) hn hk h1 h2
    rw [exec_rsetres, exec_rclrres]
    exact ⟨fun hw hr => ⟨fun hb => ⟨setSent hw hr hb, clrSent hw hr hb⟩, fun hb => ⟨setBad hw hr hb, clrBad hw hr hb⟩⟩, fun h => ⟨setHeld h, clrHeld h⟩,
      fun i h => ⟨setDone i h, clrDone i h⟩, fun r i h0 h => ⟨setFailed r i h0 h, clrFailed r i h0 h⟩⟩
  · intro s sc scope rs2 rs1 rd hn hk hs h1 h2 hd
    refine ⟨exec_rinv_empty s sc scope rs2 rs1 rd hn hk hs h1 h2 hd, fun h u c hp => ?_⟩
    have span := exec_rinv_span s sc scope rs2 rs1 rd hn hk hs h1 h2 hd h u c hp
    exact ⟨fun hw => span.trans (by rw [if_pos (by simp [hw])]), fun hw => span.trans (by rw [if_neg (by simp [hw])])⟩

end Sys2Proof.Machine
end

section
/-! Every step goes on (O55): an instruction answers through `issue`, which always answers a next state (`issue_next`); an event row answers a next state
on each of its branches; a step is made of these. -/

namespace Sys2Proof.Machine

/-! ## Instructions that share a body -/

theorem memLoad_next (i : Instr) (imm : BitVec 12) (rs1 rd : BitVec 5) (n : Nat) (x : Bool) (s : State) : ∃ t, memLoad i imm rs1 rd n x s = .next t := issue_next ..

theorem memStore_next (i : Instr) (hi : BitVec 7) (rs2 rs1 lo : BitVec 5) (n : Nat) (s : State) : ∃ t, memStore i hi rs2 rs1 lo n s = .next t := issue_next ..

theorem memAmo_next (i : Instr) (fn : Nat) (aq rl : BitVec 1) (rs2 rs1 : BitVec 5) (dbl : BitVec 1) (rd : BitVec 5) (s : State) :
    ∃ t, memAmo i fn aq rl rs2 rs1 dbl rd s = .next t := issue_next ..

/-! ## Event rows with more than one answer -/

theorem execParkLimit_next (core slot : Nat) (s : State) : ∃ t, execParkLimit core slot s = .next t := by
  unfold execParkLimit
  dsimp only
  repeat' split
  all_goals exact ⟨_, rfl⟩

theorem execClaimDelivery_next (core claim : Nat) (s : State) : ∃ t, execClaimDelivery core claim s = .next t := by
  unfold execClaimDelivery
  repeat' split
  all_goals exact ⟨_, rfl⟩

theorem execDivideComplete_next (core op : Nat) (s : State) : ∃ t, execDivideComplete core op s = .next t := by
  unfold execDivideComplete
  dsimp only
  repeat' split
  all_goals exact ⟨_, rfl⟩

theorem execVectorStageEnter_next (core : Nat) (s : State) : ∃ t, execVectorStageEnter core s = .next t := by
  unfold execVectorStageEnter
  dsimp only
  repeat' split
  all_goals exact ⟨_, rfl⟩

theorem execVectorLongComplete_next (core : Nat) (s : State) : ∃ t, execVectorLongComplete core s = .next t := by
  unfold execVectorLongComplete
  dsimp only
  repeat' split
  all_goals exact ⟨_, rfl⟩

theorem execTransferPerform_next (core : Nat) (s : State) : ∃ t, execTransferPerform core s = .next t := by
  unfold execTransferPerform
  repeat' split
  all_goals exact ⟨_, rfl⟩

theorem execMdotComplete_next (core : Nat) (s : State) : ∃ t, execMdotComplete core s = .next t := by
  unfold execMdotComplete
  dsimp only
  repeat' split
  all_goals exact ⟨_, rfl⟩

theorem execBlzcGroup_next (core : Nat) (s : State) : ∃ t, execBlzcGroup core s = .next t := by
  unfold execBlzcGroup
  repeat' split
  all_goals exact ⟨_, rfl⟩

theorem execLockBreak_next (core bank : Nat) (s : State) : ∃ t, execLockBreak core bank s = .next t := by
  unfold execLockBreak
  dsimp only
  repeat' split
  all_goals exact ⟨_, rfl⟩

theorem execData_next (chip rmod : Nat) (ce red : Bool) (seq floor : BitVec 32) (pa : BitVec 43) (bytes : List (BitVec 8)) (s : State) :
    ∃ t, execData chip rmod ce red seq floor pa bytes s = .next t := by
  unfold execData
  dsimp only
  repeat' split
  all_goals exact ⟨_, rfl⟩

theorem execLinkTimeout_next (site dir : Nat) (cut : LinkCut) (s : State) : ∃ t, execLinkTimeout site dir cut s = .next t := by
  unfold execLinkTimeout
  dsimp only
  repeat' split
  all_goals exact ⟨_, rfl⟩

theorem execBringUp_next (s : State) : ∃ t, execBringUp s = .next t := by
  unfold execBringUp
  dsimp only
  repeat' split
  all_goals exact ⟨_, rfl⟩

/-! ## Every row -/

/-- Every instruction and every event row answers a next state. -/
theorem exec_next (i : Instr) (s : State) : ∃ t, exec i s = .next t := by
  cases i
  all_goals dsimp only [exec, execFstat, execMvf, execFwait, execFdrop, execFpoison, execBget]
  case lui | auipc | jal | jalr | beq | bne | blt | bge | bltu | bgeu | addi | slti | sltiu | xori | ori | andi | slli | srli | srai | addiw | slliw |
    srliw | sraiw | add | sub | sll | slt | sltu | xor | srl | sra | or | and | addw | subw | sllw | srlw | sraw | mul | mulh | mulhsu | mulhu | mulw |
    div | divu | rem | remu | divw | divuw | remw | remuw | fence | ecall | ebreak | csrrw | csrrs | csrrc | csrrwi | csrrsi | csrrci | lr | sc |
    fstat | mvf | fwait | waitany | fdrop | fpoison | lacq | lacqw | srel | srelw | fences | owne | ownt | ownq | binit | barv | bexp | bwait | bquery |
    qpush | qpop | qlen | block | bunlock | mldAddr | mldStream | mstAddr | mstStream | mzero | mmovv | mdot | mdots | asset | rpt | cpw | cpr | cpgo |
    cpcancel | mcfree | tdisc | lpin | lunpin | rprobe | rloadt | rsplit | rmerge | rsetres | rclrres | rinv | rglean | vadd | vsub | vmul | vmin |
    vmax | vabs | vneg | vcmpeq | vcmplt | vcmple | vand | vor | vxor | vnot | vsll | vsrl | vsra | vexp2 | vlog2 | vrcp | vrsq | vredsum | vredmax |
    vredmin | vld | vst | vlds | vsts | vgath | vscat | vperm | vbcast | vslup | vsldn | vsplat | vins | vext | vfma | vsel | vcvt | vqmx | vdqmx |
    spawn | done | yield | send | sendt | recvf | timerf | specb | specc | speca | bget | bpeek | bskip | bsopen | balign | blzc | tresume | tkill |
    swapctx | loadctx | hdone | rtrd | rtwr => exact issue_next ..
  case lb | lh | lw | ld | lbu | lhu | lwu => exact memLoad_next ..
  case sb | sh | sw | sd => exact memStore_next ..
  case amoswap | amoadd | amoxor | amoand | amoor | amomin | amomax | amominu | amomaxu => exact memAmo_next ..
  case icacheFill | storeBufferSend | accessHoldRelease | homeLoad | homeStore | homeAmo | storeFail | walk | walkFill | rinvAck | gleanUnit |
    gleanFinish | copy | redadd | qf8 | mxq | mcast | copyEnd | channelResume | channelAbort | inboundSegment | mcastReceive | remoteBarrierEvent |
    bufferFree | rmaSegmentSend | ack | nackBudget | nackRefused | rmaTimer | routerForward | whereProbe | whereReflood | hereReply | unknownName |
    blocked | moved | errorResponse | greeting | noResponse | budgetPeriod | clockLock | siteGreeted | greetTimeout | selfTestFail | configRecord |
    configCommit | sitePacket | jobEnd | baseDieError | clockSwitch | relockDone | dispatch | sendLanding | sendtLanding | idleSteal | stealRequest |
    stealAnswer | stealBackoff | timerExpiry | notification | noteRetry | handlerEntry | tresumeApply | tkillApply | windowWrite | saveCapture |
    imageWriteDone | restoreApply | regwrite | regread | queueDoorbell | queueRestart | peerEntryWrite | routeEntryWrite | physSelectWrite | load |
    unload | siteFence | siteReset | siteRetire | slotResume | processorResume | attest | nop | launch | launchStart | launchComplete | queueCopy |
    queueCopyComplete | waitge | semaphoreReport | waitgeTimeout | signal | interrupt | queueFence | jump | mark | illegalWord | directoryUpdate |
    cacheControlRequest | homeBitClear | powerLoss => exact ⟨_, rfl⟩
  case parkLimit => exact execParkLimit_next ..
  case claimDelivery => exact execClaimDelivery_next ..
  case divideComplete => exact execDivideComplete_next ..
  case vectorStageEnter => exact execVectorStageEnter_next ..
  case vectorLongComplete => exact execVectorLongComplete_next ..
  case transferPerform => exact execTransferPerform_next ..
  case mdotComplete => exact execMdotComplete_next ..
  case blzcGroup => exact execBlzcGroup_next ..
  case lockBreak => exact execLockBreak_next ..
  case data => exact execData_next ..
  case linkTimeout => exact execLinkTimeout_next ..
  case bringUp => exact execBringUp_next ..

/-! ## A move -/

theorem endTurn_next (c : Nat) {o : Out} (h : ∃ t, o = .next t) : ∃ t, endTurn c o = .next t := by
  obtain ⟨t, rfl⟩ := h
  exact ⟨_, rfl⟩

theorem turnMove_next (s : State) (c : Nat) : ∃ t, turnMove s c = .next t := by
  unfold turnMove
  split
  · exact exec_next ..
  · split
    · exact endTurn_next c (exec_next ..)
    · exact ⟨_, rfl⟩

theorem coreMove_next (s : State) (c : Nat) : ∃ t, coreMove s c = .next t := by
  unfold coreMove
  split
  · exact ⟨_, rfl⟩
  · split
    · exact turnMove_next ..
    · split
      · next i _ =>
        obtain ⟨t, e⟩ := exec_next i s
        exact ⟨_, by rw [e]⟩
      · exact turnMove_next ..

/-- Settles O55: a core's move, an event that the schedule names, a write of the control node and a memory error each end in a next state (log 31). -/
theorem everyStepGoesOn : Obligations.EveryStepGoesOn := by
  intro s
  unfold State.goesOn step
  split
  · exact coreMove_next ..
  · next i _ =>
    split
    · obtain ⟨t, e⟩ := exec_next i s
      exact ⟨_, by rw [e]; rfl⟩
    · exact ⟨_, rfl⟩
  · exact ⟨_, rfl⟩
  · exact ⟨_, rfl⟩

end Sys2Proof.Machine
end

section
/-! The retirement log and fencing (O46): what a bring-up and an append leave (R57, R58), and the slots and locks of a FENCED site (R54, R212). -/

namespace Sys2Proof.Machine

/-! ## Bring-up (R58) -/

/-- The state with the sites of a list RETIRED. -/
def State.retireAll (s : State) (l : List Nat) : State := l.foldl (fun s n => s.modSite n (fun t => { t with state := .retired })) s

theorem retireAll_keeps {β : Type} (g : State → β) (hg : ∀ u n t, g (State.setSite u n t) = g u) (s : State) (l : List Nat) : g (s.retireAll l) = g s :=
  foldl_keeps g (fun u _ => hg u _ _) l s

theorem site_retireAll (s : State) (l : List Nat) (n : Nat) : (s.retireAll l).site n = if n ∈ l then { s.site n with state := .retired } else s.site n := by
  induction l generalizing s with
  | nil => rfl
  | cons m l ih =>
    show ((s.modSite m _).retireAll l).site n = _
    rw [ih, site_modSite]
    by_cases h : n = m
    · subst h; simp
    · simp [h]

/-- The sites that a bring-up retires. -/
def State.logRetired (s : State) : List Nat := (List.range Config.sites).filter (retiredBy s.logScan)

theorem mem_logRetired (s : State) (n : Nat) : n ∈ s.logRetired ↔ n < 528 ∧ retiredBy s.logScan n = true := by
  simp [State.logRetired, Config.sites]

theorem exec_bringUp_up (s : State) (h : s.up = true) : exec .bringUp s = .next s := by
  rw [exec_bringUp]
  unfold execBringUp
  rw [if_pos h]

theorem exec_bringUp_down (s : State) (h : s.up = false) :
    exec .bringUp s = .next (State.retireAll { s with up := true, boots := s.boots + 1 } s.logRetired) := by
  rw [exec_bringUp]
  unfold execBringUp
  rw [if_neg (by simp [h])]; rfl

/-! ## An append (R57) -/

/-- First dword of a record of kind 1: a retirement. -/
def retireWord (boots site cause : Nat) : Word := wd (2 ^ 56 + cause * 2 ^ 52 + site % 1024 * 2 ^ 42 + boots)

/-- A record with its commit word. -/
def committed (d : Word) : Word × Word × Word := (d, (crc32 d).setWidth 64, (~~~(crc32 d)).setWidth 64)

theorem retireWord_fields (boots site cause : Nat) (hb : boots < 2 ^ 32) (hs : site < 1024) (hc : cause < 16) :
    wf (retireWord boots site cause) 42 10 = site ∧ wf (retireWord boots site cause) 52 4 = cause ∧ wf (retireWord boots site cause) 0 32 = boots ∧
      wf (retireWord boots site cause) 56 8 = 1 := by
  simp only [wf, fieldOf, retireWord, wd, BitVec.toNat_ofNat, Nat.shiftRight_eq_div_pow]
  omega

theorem wf_setWidth_32 (c : BitVec 32) : wf (c.setWidth 64) 0 32 = c.toNat := by
  simp only [wf, fieldOf, BitVec.toNat_setWidth, Nat.shiftRight_zero]
  omega

theorem logValid_committed (d : Word) (h : wf d 56 8 = 1) : logValid (committed d) = true := by
  simp [logValid, committed, h, wf_setWidth_32]

theorem retireLog_logAppend (s : State) (site cause : Nat) (h : s.logScan.length < 1024) :
    (s.logAppend site cause).retireLog = nput s.retireLog s.logScan.length (committed (retireWord s.boots.toNat site cause)) := by
  unfold State.logAppend
  dsimp only
  rw [if_neg (by omega)]; rfl

/-- Slot i of the retirement log; an erased one reads all ones. -/
def State.logSlot (s : State) (i : Nat) : Word × Word × Word := (nget s.retireLog i).getD (BitVec.allOnes 64, BitVec.allOnes 64, BitVec.allOnes 64)

theorem logScan_eq (s : State) : s.logScan = ((List.range 1024).map s.logSlot).takeWhile logValid := rfl

theorem logSlots_logAppend (s : State) (site cause : Nat) (h : s.logScan.length < 1024) :
    (List.range 1024).map (s.logAppend site cause).logSlot =
      ((List.range 1024).map s.logSlot).set s.logScan.length (committed (retireWord s.boots.toNat site cause)) := by
  refine List.ext_getElem (by simp) fun i h1 h2 => ?_
  rw [List.getElem_set]
  simp only [List.getElem_map, List.getElem_range, State.logSlot, retireLog_logAppend s site cause h, nget_nput]
  by_cases e : i = s.logScan.length
  · rw [if_pos e, if_pos e.symm]; rfl
  · rw [if_neg e, if_neg fun c => e c.symm]

/-- Where the entry after the leading ones that satisfy a test is replaced by one that does, they are followed by it. -/
theorem takeWhile_set {α : Type} (p : α → Bool) (l : List α) (x : α) (hx : p x = true) (h : (l.takeWhile p).length < l.length) :
    ∃ r, (l.set (l.takeWhile p).length x).takeWhile p = l.takeWhile p ++ x :: r := by
  have ht : l.take (l.takeWhile p).length = l.takeWhile p := (List.prefix_iff_eq_take.mp (List.takeWhile_prefix p)).symm
  rw [List.set_eq_take_append_cons_drop, if_pos h, ht, List.takeWhile_append_of_pos fun a ha => List.mem_takeWhile_imp ha, List.takeWhile_cons_of_pos hx]
  exact ⟨_, rfl⟩

/-- The valid records after an append: those before, then the new one (R57, R58). -/
theorem logScan_logAppend (s : State) (site cause : Nat) (h : s.logScan.length < 1024) (hs : site < 1024) (hc : cause < 16) :
    ∃ r, (s.logAppend site cause).logScan = s.logScan ++ committed (retireWord s.boots.toNat site cause) :: r := by
  obtain ⟨-, -, -, hk⟩ := retireWord_fields s.boots.toNat site cause s.boots.isLt hs hc
  rw [logScan_eq, logSlots_logAppend s site cause h]
  exact takeWhile_set logValid _ _ (logValid_committed _ hk) (by simpa [← logScan_eq] using h)

/-- A list that goes on after another one. -/
theorem append_cons_getElem? {α : Type} {l m r : List α} {x : α} (e : m = l ++ x :: r) :
    l.length < m.length ∧ (∀ i, i < l.length → m[i]? = l[i]?) ∧ m[l.length]? = some x := by
  subst e
  exact ⟨by simp, fun i hi => List.getElem?_append_left hi, by simp⟩

/-! ## Fencing (R54, R212) -/

/-- A slot that a fence has reached. -/
def Slot.halted (t : Slot) : Slot := match t.state with | .halted => t | st => { t with state := .halted, before := st }

theorem halted_of_halted (t : Slot) (h : t.state = .halted) : t.halted = t := by
  unfold Slot.halted
  rw [h]

theorem halted_of_not (t : Slot) (h : t.state ≠ .halted) : t.halted = { t with state := .halted, before := t.state } := by
  unfold Slot.halted
  split
  · contradiction
  · rfl

theorem state_halted (t : Slot) : t.halted.state = .halted := by
  by_cases h : t.state = .halted
  · rw [halted_of_halted t h, h]
  · rw [halted_of_not t h]

theorem halt_of_halted (k : Core) (n : Nat) (h : (k.slot n).state = .halted) : k.halt n = k := by
  unfold Core.halt
  dsimp only
  rw [h]

theorem halt_of_not (k : Core) (n : Nat) (h : (k.slot n).state ≠ .halted) : k.halt n = (k.setSlot n (k.slot n).halted).freeLocks n := by
  unfold Core.halt
  rw [halted_of_not _ h]
  dsimp only
  split
  · contradiction
  · rfl

theorem slot_halt (k : Core) (n m : Nat) : (k.halt n).slot m = if m = n then (k.slot n).halted else k.slot m := by
  by_cases h : (k.slot n).state = .halted
  · rw [halt_of_halted k n h, halted_of_halted _ h]
    split
    · next e => rw [e]
    · rfl
  · rw [halt_of_not k n h]
    exact slot_setSlot ..

theorem locks_halt (k : Core) (n : Nat) : ∀ p ∈ (k.halt n).locks, p ∈ k.locks ∧ ((k.slot n).state ≠ .halted → p.2.slot ≠ n) := by
  intro p hp
  by_cases h : (k.slot n).state = .halted
  · rw [halt_of_halted k n h] at hp
    exact ⟨hp, fun c => absurd h c⟩
  · rw [halt_of_not k n h] at hp
    obtain ⟨h1, h2⟩ := List.mem_filter.mp hp
    exact ⟨h1, fun _ => by simpa using h2⟩

/-- A core with the slots of a list HALTED. -/
def Core.haltAll (k : Core) (l : List Nat) : Core := l.foldl (fun k j => k.halt j) k

theorem slot_haltAll (k : Core) (l : List Nat) (m : Nat) : (k.haltAll l).slot m = if m ∈ l then (k.slot m).halted else k.slot m := by
  induction l generalizing k with
  | nil => rfl
  | cons n l ih =>
    show ((k.halt n).haltAll l).slot m = _
    rw [ih, slot_halt]
    by_cases h : m = n
    · subst h
      simp [halted_of_halted _ (state_halted (k.slot m))]
    · simp [h]

theorem locks_haltAll (k : Core) (l : List Nat) : ∀ p ∈ (k.haltAll l).locks, p ∈ k.locks ∧ ∀ m ∈ l, (k.slot m).state ≠ .halted → p.2.slot ≠ m := by
  induction l generalizing k with
  | nil => exact fun p hp => ⟨hp, by simp⟩
  | cons n l ih =>
    intro p hp
    obtain ⟨h1, h2⟩ := ih (k.halt n) p hp
    obtain ⟨h3, h4⟩ := locks_halt k n p h1
    refine ⟨h3, fun m hm hs => ?_⟩
    by_cases e : m = n
    · subst e; exact h4 hs
    · exact h2 m ((List.mem_cons.mp hm).resolve_left e) (by rwa [slot_halt, if_neg e])

/-- A core by number after a list of other cores, and itself at most once, have been updated. -/
theorem core_foldl_modCore (f : Core → Core) (a : Nat → Nat) (ha : ∀ i j, a i = a j → i = j) (l : List Nat) (hl : l.Nodup) (s : State) (j : Nat) :
    (l.foldl (fun s i => s.modCore (a i) f) s).core (a j) = if j ∈ l then f (s.core (a j)) else s.core (a j) := by
  induction l generalizing s with
  | nil => rfl
  | cons n l ih =>
    obtain ⟨hn, hl⟩ := List.nodup_cons.mp hl
    rw [List.foldl_cons, ih hl, core_modCore]
    by_cases h : j = n
    · subst h; simp [hn]
    · have h' : ¬a j = a n := fun e => h (ha j n e)
      simp [h, h']

theorem core_fillNow (s : State) (c : Nat) (claim : Option Nat) (v : Word) (d : Nat) :
    ((s.fillNow c claim v).core d).slots = (s.core d).slots ∧ ((s.fillNow c claim v).core d).locks = (s.core d).locks := by
  unfold State.fillNow State.deliverAt
  cases claim with
  | none => exact ⟨rfl, rfl⟩
  | some i =>
    dsimp only
    rw [core_modCore]
    split
    · next e => subst e; exact ⟨rfl, rfl⟩
    · exact ⟨rfl, rfl⟩

theorem core_loseMoves (s : State) (n d : Nat) : ((s.loseMoves n).core d).slots = (s.core d).slots ∧ ((s.loseMoves n).core d).locks = (s.core d).locks :=
  ⟨foldl_keeps (fun u => (State.core u d).slots) (fun u _ => (core_fillNow u ..).1) _ s,
    foldl_keeps (fun u => (State.core u d).locks) (fun u _ => (core_fillNow u ..).2) _ s⟩

theorem fenceSite_eq (s : State) (n : Nat) :
    s.fenceSite n = ((((List.range 16).foldl (fun s i => s.modCore (16 * n + i) (fun k => k.haltAll (List.range 16))) s).loseMoves n).dropPins n).modSite n
      (fun t => { t with state := .fenced, before := if t.state == .fenced then t.before else siteCode t.state }) := rfl

theorem state_fenceSite (s : State) (n : Nat) : ((s.fenceSite n).site n).state = .fenced := by
  rw [fenceSite_eq, site_modSite_self]

/-- The slots and locks of a core of a site that is fenced. -/
theorem core_fenceSite (s : State) (n j : Nat) (hj : j < 16) :
    ((s.fenceSite n).core (16 * n + j)).slots = ((s.core (16 * n + j)).haltAll (List.range 16)).slots ∧
      ((s.fenceSite n).core (16 * n + j)).locks = ((s.core (16 * n + j)).haltAll (List.range 16)).locks := by
  rw [fenceSite_eq, core_modSite]
  have h := core_foldl_modCore (fun k => k.haltAll (List.range 16)) (fun i => 16 * n + i) (fun i j e => by omega) (List.range 16) List.nodup_range s j
  rw [if_pos (List.mem_range.mpr hj)] at h
  rw [← h]
  exact core_loseMoves _ n _

theorem slot_fenceSite (s : State) (n j i : Nat) (hj : j < 16) (hi : i < 16) : (s.fenceSite n).slot (16 * n + j) i = (s.slot (16 * n + j) i).halted := by
  have h := slot_haltAll (s.core (16 * n + j)) (List.range 16) i
  rw [if_pos (List.mem_range.mpr hi)] at h
  rw [State.slot, Core.slot, (core_fenceSite s n j hj).1]
  exact h

theorem locks_fenceSite (s : State) (n j i : Nat) (hj : j < 16) (hi : i < 16) (h : (s.slot (16 * n + j) i).state ≠ .halted) :
    ∀ p ∈ ((s.fenceSite n).core (16 * n + j)).locks, p.2.slot ≠ i := by
  intro p hp
  rw [(core_fenceSite s n j hj).2] at hp
  exact (locks_haltAll _ _ p hp).2 i (List.mem_range.mpr hi) h

/-- Settles O46: by the sites that the log retires, the record after the valid ones, and the slots of each core of the site. -/
theorem retirementAndFencing : Obligations.RetirementAndFencing := by
  unfold Obligations.RetirementAndFencing
  refine ⟨⟨exec_bringUp_up, fun s h => ⟨_, exec_bringUp_down s h, ?_, ?_, ?_, fun n hn hr => ?_, fun n hn => ?_⟩, fun s site cause hl hc hs => ?_⟩, fun s n j i hj hi => ?_⟩
  · exact retireAll_keeps State.up (fun _ _ _ => rfl) _ _
  · exact retireAll_keeps State.boots (fun _ _ _ => rfl) _ _
  · exact retireAll_keeps State.retireLog (fun _ _ _ => rfl) _ _
  · rw [site_retireAll, if_pos ((mem_logRetired s n).mpr ⟨hn, hr⟩)]
  · rw [site_retireAll, if_neg fun hm => ?_]; rfl
    obtain ⟨h1, h2⟩ := (mem_logRetired s n).mp hm
    rcases hn with hn | hn
    · omega
    · simp [hn] at h2
  · obtain ⟨r, e⟩ := logScan_logAppend s site cause hl (by omega) hc
    obtain ⟨f1, f2, f3, f4⟩ := retireWord_fields s.boots.toNat site cause s.boots.isLt (by omega) hc
    obtain ⟨h1, h2, h3⟩ := append_cons_getElem? e
    exact ⟨h1, h2, _, h3, f1, f2, f3, f4⟩
  · intro c t
    have ht : t.slot c i = (s.slot c i).halted := slot_fenceSite s n j i hj hi
    refine ⟨state_fenceSite s n, by rw [ht, state_halted], fun h => by rw [ht, halted_of_halted _ h], fun h => ⟨by rw [ht, halted_of_not _ h], ?_⟩⟩
    exact fun b l hb => locks_fenceSite s n j i hj hi h _ (mem_of_nget hb)

end Sys2Proof.Machine
end

section
/-! Reset (O59): what every table answers when it is empty. -/

namespace Sys2Proof.Machine

theorem site_reset (n : Nat) : State.reset.site n = Site.reset := rfl

theorem slot_reset (c n : Nat) : State.reset.slot c n = Slot.reset := rfl

theorem core_reset (c : Nat) : State.reset.core c = Core.reset := rfl

theorem queue_reset (d q : Nat) : State.reset.queue d q = CQueue.reset := rfl

/-- Every x register is FULL zero at reset, x0 among them (R60, R307). -/
theorem xr_reset (i : Nat) : Slot.reset.xr i = ⟨.full, 0⟩ := by
  unfold Slot.xr
  split <;> rfl

theorem memWf_reset : State.reset.memWf := ⟨rfl, fun _ hp => absurd hp List.not_mem_nil, List.Pairwise.nil⟩

/-- Settles O59: every site, slot, core and queue is the one that its empty table stands for. -/
theorem reset : Obligations.Reset := by
  unfold Obligations.Reset
  refine ⟨?_, memWf_reset⟩
  intro s
  refine ⟨fun n => ?_, fun c n => ?_, fun c => ?_, fun a => memGet_nil a, rfl, rfl, fun d q => ?_⟩
  · rw [site_reset]; exact ⟨rfl, rfl⟩
  · rw [slot_reset]; exact ⟨rfl, rfl, xr_reset, rfl⟩
  · rw [core_reset]; exact ⟨rfl, rfl, rfl, rfl, rfl⟩
  · rw [queue_reset]; rfl

end Sys2Proof.Machine
end

section
/-! What rides of packets leave of a site: all but its tables, its sweep, its counters and its logs (R36, R37, R47, R371). -/

namespace Sys2Proof.Machine

/-- A part of a site that no passing packet touches: the same whatever the route table, the sweep pointer, the counters and the violation log hold. -/
def Site.quiet {β : Type} (g : Site → β) : Prop :=
  ∀ (t : Site) (r : NMap (BitVec 32)) (p : BitVec 12) (c v : NMap Word) (o : Word), g { t with routes := r, sweep := p, counters := c, vlog := v, voverflow := o } = g t

/-- Two states whose sites agree in a part. -/
structure State.sitesAgree {β : Type} (g : Site → β) (s t : State) : Prop where
  eq : ∀ n, g (t.site n) = g (s.site n)

section
variable {β : Type} {g : Site → β}

theorem sitesAgree_refl (s : State) : s.sitesAgree g s := ⟨fun _ => rfl⟩

theorem sitesAgree_trans {s t u : State} (h : s.sitesAgree g t) (k : t.sitesAgree g u) : s.sitesAgree g u := ⟨fun n => (k.eq n).trans (h.eq n)⟩

theorem sitesAgree_setSite (s : State) (n : Nat) (t : Site) (h : g t = g (s.site n)) : s.sitesAgree g (s.setSite n t) := by
  refine ⟨fun m => ?_⟩
  rw [site_setSite]
  split
  · next e => rw [e, h]
  · rfl

theorem sitesAgree_modSite (s : State) (n : Nat) (f : Site → Site) (h : ∀ t, g (f t) = g t) : s.sitesAgree g (s.modSite n f) := sitesAgree_setSite s n _ (h _)

theorem sitesAgree_foldl {α : Type} {f : State → α → State} (h : ∀ u x, State.sitesAgree g u (f u x)) (l : List α) (s : State) : s.sitesAgree g (l.foldl f s) := by
  induction l generalizing s with
  | nil => exact sitesAgree_refl s
  | cons x l ih => exact sitesAgree_trans (h s x) (ih _)

variable (hg : Site.quiet g)
include hg

theorem quiet_sweepVisit (t : Site) : g t.sweepVisit = g t := by
  unfold Site.sweepVisit
  dsimp only
  repeat' split
  all_goals exact hg t ..

theorem quiet_routes (t : Site) (r : NMap (BitVec 32)) : g { t with routes := r } = g t := hg t ..

theorem sitesAgree_countRouter (s : State) (n c : Nat) : s.sitesAgree g (s.countRouter n c) := sitesAgree_modSite s n _ fun t => hg t ..

theorem sitesAgree_learn (s : State) (r : Nat) (h : Teach) : s.sitesAgree g (s.learn r h) := by
  have hv := quiet_sweepVisit hg (s.site r)
  have hr (x : NMap (BitVec 32)) : g { (s.site r).sweepVisit with routes := x } = g (s.site r) := (quiet_routes hg _ x).trans hv
  unfold State.learn
  dsimp only
  split
  · exact sitesAgree_refl s
  split
  · exact sitesAgree_setSite s r _ (hr _)
  split
  · split
    · exact sitesAgree_setSite s r _ hv
    · exact sitesAgree_trans (sitesAgree_setSite s r _ hv) (sitesAgree_countRouter hg ..)
  · exact sitesAgree_setSite s r _ (hr _)

theorem sitesAgree_refusePart (s : State) (n part a : Nat) : s.sitesAgree g (s.refusePart n part a) :=
  sitesAgree_trans (sitesAgree_modSite s n _ fun t => hg t ..) (sitesAgree_countRouter hg ..)

theorem sitesAgree_countFlits (s : State) (n : Nat) (yx : Bool) (k : Nat) : s.sitesAgree g (s.countFlits n yx k) :=
  sitesAgree_foldl (fun u _ => sitesAgree_countRouter hg u n _) _ s

theorem sitesAgree_ride (s : State) (pos goal : Nat) (h : Teach) (flits fuel : Nat) : s.sitesAgree g (s.ride pos goal h flits fuel).1 := by
  induction fuel generalizing s pos with
  | zero => exact sitesAgree_refl s
  | succ k ih =>
    unfold State.ride
    dsimp only
    repeat' split
    · exact sitesAgree_refl s
    · exact sitesAgree_refl s
    · exact sitesAgree_trans (sitesAgree_trans (sitesAgree_countFlits hg s ..) (sitesAgree_learn hg ..)) (ih ..)
    · exact sitesAgree_countRouter hg s pos 3

theorem sitesAgree_rideVia (s : State) (pos goal : Nat) (h : Teach) (via : Option Nat) (flits : Nat) : s.sitesAgree g (s.rideVia pos goal h via flits).1 := by
  unfold State.rideVia
  split
  · exact sitesAgree_ride hg s ..
  · next w =>
    dsimp only
    split
    · exact sitesAgree_trans (sitesAgree_ride hg s ..) (sitesAgree_ride hg ..)
    · exact sitesAgree_ride hg s ..

/-- The way back of an answer or notice leaves of a site all but its tables, counters and logs. -/
theorem sitesAgree_rideBack (s : State) (part : Option (BitVec 4)) (pos src : Nat) (name : BitVec 16) (yx : Bool) (way : Option Nat) (flits : Nat) :
    s.sitesAgree g (s.rideBack part pos src name yx way flits).1 := by
  have hv := sitesAgree_trans (sitesAgree_learn hg s pos ⟨name, pos, !yx, none⟩) (sitesAgree_rideVia hg _ pos src ⟨name, pos, !yx, none⟩ way flits)
  unfold State.rideBack
  dsimp only
  repeat' split
  · exact sitesAgree_refusePart hg ..
  · exact hv
  · exact sitesAgree_trans hv (sitesAgree_ride hg ..)

theorem sitesAgree_siteReport (s : State) (n : Nat) (r : Report) : s.sitesAgree g (s.siteReport n r) := by
  have h : s.sitesAgree g (s.logRide n 1).1 := sitesAgree_rideBack hg ..
  unfold State.siteReport
  split
  · next e => rw [e] at h; exact ⟨h.eq⟩
  · next e => rw [e] at h; exact h

end

end Sys2Proof.Machine
end

section
/-! Links, budget periods, cleared home bits and power loss (O44; R34, R44, R45, R48, R58). -/

namespace Sys2Proof.Machine

/-! ## A link that times out (R44) -/

theorem links_quiet : Site.quiet Site.links := fun _ _ _ _ _ _ => rfl

theorem linkGood_eq_of_agree {s t : State} (h : s.sitesAgree Site.links t) (n dir : Nat) (yx : Bool) : t.linkGood n dir yx = s.linkGood n dir yx := by
  unfold State.linkGood
  rw [h.eq]

theorem linkGood_linkDown (s : State) (n dir : Nat) (yx : Bool) : (s.modSite n (fun t => t.linkDown dir yx)).linkGood n dir yx = false := by
  unfold State.linkGood
  rw [site_modSite_self]
  unfold Site.linkDown
  dsimp only
  rw [nget_nput_self]; rfl

/-- A link that is down stays down when one more goes down. -/
theorem linkGood_linkDown_of_down (s : State) (m d n dir : Nat) (yx : Bool) (h : s.linkGood n dir yx = false) :
    (s.modSite m (fun t => t.linkDown d yx)).linkGood n dir yx = false := by
  unfold State.linkGood at h ⊢
  rw [site_modSite]
  split
  · next e =>
    subst e
    unfold Site.linkDown
    dsimp only
    rw [nget_nput]
    generalize 2 * dir + (if yx then 1 else 0) = a at h ⊢
    generalize 2 * d + (if yx then 1 else 0) = b
    split
    · rfl
    · exact h
  · exact h

/-- A link that is cut is down at both ends. -/
theorem linkGood_cutLink (s : State) (n dir : Nat) (yx : Bool) :
    (s.cutLink n dir yx).linkGood n dir yx = false ∧ ∀ m, neighbour n dir = some m → (s.cutLink n dir yx).linkGood m (opposite dir) yx = false := by
  have h := linkGood_linkDown s n dir yx
  unfold State.cutLink
  dsimp only
  split
  · next m e => exact ⟨linkGood_linkDown_of_down _ m _ n dir yx h, fun k hk => by cases e.symm.trans hk; exact linkGood_linkDown ..⟩
  · next e => exact ⟨h, fun k hk => by cases e.symm.trans hk⟩

theorem flights_cutLink (s : State) (n dir : Nat) (yx : Bool) : (s.cutLink n dir yx).flights = s.flights := by
  unfold State.cutLink
  dsimp only
  split <;> rfl

theorem flights_siteReport (s : State) (n : Nat) (r : Report) : (s.siteReport n r).flights = s.flights := by
  obtain ⟨x, hx⟩ : s.onlySites (s.logRide n 1).1 := onlySites_rideBack ..
  have h : (s.logRide n 1).1.flights = s.flights := by rw [hx]
  unfold State.siteReport
  split
  · next e => rw [e] at h; exact h
  · next e => rw [e] at h; exact h

/-- The state when a link has been cut, which is told, and the packets that wait for it are counted. -/
def State.linkLost (s : State) (site dir : Nat) (cut : LinkCut) : State :=
  let s := (s.cutLink site dir cut.yx).siteReport site (.siteLog site 2)
  ((s.flights.filter (fun f => f.waitsFor site dir cut.yx)).filter (fun f => some f.fid != cut.packet)).foldl (fun s _ => s.countRouter site 3) s

theorem flights_linkLost (s : State) (site dir : Nat) (cut : LinkCut) : (s.linkLost site dir cut).flights = s.flights :=
  (foldl_keeps State.flights (fun u _ => modSite_flights u ..) _ _).trans ((flights_siteReport ..).trans (flights_cutLink ..))

theorem links_linkLost (s : State) (site dir : Nat) (cut : LinkCut) : (s.cutLink site dir cut.yx).sitesAgree Site.links (s.linkLost site dir cut) :=
  sitesAgree_trans (sitesAgree_siteReport links_quiet ..) (sitesAgree_foldl (fun u _ => sitesAgree_countRouter links_quiet u site 3) _ _)

theorem exec_linkTimeout_down (s : State) (site dir : Nat) (cut : LinkCut) (h : s.linkGood site dir cut.yx = false) : exec (.linkTimeout site dir cut) s = .next s := by
  rw [exec_linkTimeout]
  unfold execLinkTimeout
  rw [if_pos (by simp [h])]

theorem exec_linkTimeout_good (s : State) (site dir : Nat) (cut : LinkCut) (hs : site < 528) (h : s.linkGood site dir cut.yx = true) :
    exec (.linkTimeout site dir cut) s = .next { s.linkLost site dir cut with
      flights := s.flights.map (fun f => if f.waitsFor site dir cut.yx then { f with st := if some f.fid == cut.packet then .lost else .blocked } else f) } := by
  rw [exec_linkTimeout, ← flights_linkLost s site dir cut]
  unfold execLinkTimeout
  rw [if_neg (by simp [h, Config.sites, Nat.not_le.mpr hs])]; rfl

/-! ## Greetings (R45) -/

theorem exec_greeting_live (s : State) (site dir m : Nat) (xy yx : Bool) (hs : site < 528) (hn : neighbour site dir = some m) (h1 : s.siteLive site = true)
    (h2 : s.siteLive m = true) (hc : (s.site site).state = .clocked ∨ (s.site m).state = .clocked) :
    exec (.greeting site dir xy yx) s =
      .next ((s.setSite site ((s.site site).greeted dir (s.site m) xy yx)).setSite m ((s.site m).greeted (opposite dir) (s.site site) xy yx)) := by
  rw [exec_greeting]
  unfold execGreeting
  rw [hn]
  dsimp only
  rw [if_neg]
  rcases hc with hc | hc <;> simp [h1, h2, hc, Config.sites, Nat.not_le.mpr hs]

/-- The health nibble of a greeting: DRAM, compute, and the links of the two meshes. -/
def greetNibble (dram compute gy gx : Bool) : Nat := (if dram then 8 else 0) + (if compute then 4 else 0) + (if gy then 2 else 0) + (if gx then 1 else 0)

theorem greetNibble_bits (d c y x : Bool) :
    (BitVec.ofNat 16 (greetNibble d c y x)).getLsbD 0 = x ∧ (BitVec.ofNat 16 (greetNibble d c y x)).getLsbD 1 = y ∧
      (BitVec.ofNat 16 (greetNibble d c y x)).getLsbD 2 = c ∧ (BitVec.ofNat 16 (greetNibble d c y x)).getLsbD 3 = d := by
  revert d c y x; decide

/-- A nibble that is written holds the bits of what is written. -/
theorem getLsbD_nibble (h v : BitVec 16) (d i : Nat) (hd : d < 4) (hi : i < 4) :
    ((h &&& ~~~(0xF#16 <<< (4 * d))) ||| (v <<< (4 * d))).getLsbD (4 * d + i) = v.getLsbD i := by
  have hm : (0xF#16).getLsbD i = true := by interval_cases i <;> rfl
  have hlt : 4 * d + i < 16 := by omega
  simp only [BitVec.getLsbD_or, BitVec.getLsbD_and, BitVec.getLsbD_not, BitVec.getLsbD_shiftLeft, hlt, Nat.add_sub_cancel_left, hm]
  simp

/-- A link of a mesh is good after a greeting if it completed and has never been down (R44, R45). -/
def Site.greetLink (t : Site) (l : Nat) (ok : Bool) : Bool := ok && (nget t.links l).getD true

theorem greeted_links (t o : Site) (dir : Nat) (xy yx : Bool) :
    nget (t.greeted dir o xy yx).links (2 * dir) = some (t.greetLink (2 * dir) xy) ∧
      nget (t.greeted dir o xy yx).links (2 * dir + 1) = some (t.greetLink (2 * dir + 1) yx) := by
  unfold Site.greeted
  dsimp only
  exact ⟨(nget_nput_ne _ _ (by omega)).trans (nget_nput_self ..), nget_nput_self ..⟩

theorem greeted_health (t o : Site) (dir : Nat) (xy yx : Bool) : (t.greeted dir o xy yx).health = (t.health &&& ~~~(0xF#16 <<< (4 * dir))) |||
    (BitVec.ofNat 16 (greetNibble o.dramGood o.computeGood (t.greetLink (2 * dir + 1) yx) (t.greetLink (2 * dir) xy)) <<< (4 * dir)) := rfl

/-! ## Budget periods (R48) -/

theorem exec_budgetPeriod_site (s : State) (unit : Nat) (h : unit < 528) :
    exec (.budgetPeriod false unit) s = .next (s.modSite unit (fun t => t.inPeriod (s.siteClock unit))) := by
  rw [exec_budgetPeriod]
  unfold execBudgetPeriod
  exact congrArg Host.Outcome.next ((if_pos rfl).trans (if_pos h))

theorem inPeriod_eq (clock : Nat) (t : Site) : t.inPeriod clock = if t.period = clock / 65536 then t else { t with used := [], period := clock / 65536 } := by
  unfold Site.inPeriod periodOf
  simp only [beq_iff_eq]

theorem exec_budgetPeriod_chip (s : State) (unit : Nat) (h : unit < 24) :
    exec (.budgetPeriod true unit) s = .next (s.modChip unit (fun k => { k with used := [], cycles := (k.cycles / 65536 + 1) * 65536 })) := by
  rw [exec_budgetPeriod]
  unfold execBudgetPeriod
  rw [if_neg (by simp), if_pos h]; rfl

theorem exec_budgetPeriod_proc (s : State) (unit : Nat) (h : unit < 4) : exec (.budgetPeriod true (24 + unit)) s = .next (s.modProc unit Proc.inPeriod) := by
  rw [exec_budgetPeriod]
  unfold execBudgetPeriod
  rw [if_neg (by simp), if_neg (by omega), if_pos (by omega), Nat.add_sub_cancel_left]

theorem procInPeriod_eq (p : Proc) : p.inPeriod = if p.period = p.cycles.toNat / 65536 then p else { p with used := [], period := p.cycles.toNat / 65536 } := by
  unfold Proc.inPeriod periodOf
  simp only [beq_iff_eq]
  split
  · next e => rw [← e]
  · rfl

/-! ## Home bits and power loss (R34, R58) -/

theorem exec_homeBitClear_retired (s u : State) (proc router retired : Nat) (ok : Bool) (hr : (s.site retired).state = .retired)
    (hp : (nget (s.site router).phys retired).isSome = true) (ht : s.sysTrip proc router 1 = (u, ok)) : exec (.homeBitClear ⟨proc, router⟩ retired) s =
      .next (if ok then u.modSite router (fun t => { t with phys := nput t.phys retired (t.physSel retired &&& 0xFFF) }) else u) := by
  rw [exec_homeBitClear]
  unfold execHomeBitClear
  dsimp only
  rw [if_pos (by simp [hr, hp]), ht]
  cases ok <;> rfl

theorem nget_map_values {α : Type} (m : NMap α) (f : α → α) (k : Nat) : nget (m.map (fun p => (p.1, f p.2))) k = (nget m k).map f := by
  simpa using nget_map_key m (fun _ => true) f k

/-- A processor after a power loss: its dead rectangles are kept. -/
theorem proc_powerLoss (s t : State) (ht : exec .powerLoss s = .next t) (d : Nat) (h : (nget s.procs d).isSome = true) :
    t.proc d = { Proc.reset with rects := (s.proc d).rects } := by
  obtain ⟨p, hp⟩ := Option.isSome_iff_exists.mp h
  cases ht
  unfold State.proc
  dsimp only
  rw [nget_map_values s.procs (fun p => { Proc.reset with rects := p.rects }), hp]; rfl

/-- Settles O44, by the rules above for each event. -/
theorem linksAndPeriods : Obligations.LinksAndPeriods := by
  unfold Obligations.LinksAndPeriods
  refine ⟨⟨fun s site dir yx cut hs _ => ⟨exec_linkTimeout_down s site dir ⟨yx, cut⟩, fun h => ⟨_, exec_linkTimeout_good s site dir ⟨yx, cut⟩ hs h, ?_, ?_, rfl⟩⟩, ?_, ?_⟩,
    ⟨fun s unit => ⟨fun h => ?_, exec_budgetPeriod_chip s unit, fun h => ?_⟩, exec_homeBitClear_retired, fun s => ?_⟩⟩
  · exact (linkGood_eq_of_agree (links_linkLost s site dir ⟨yx, cut⟩) ..).trans (linkGood_cutLink s site dir yx).1
  · exact fun m hm => (linkGood_eq_of_agree (links_linkLost s site dir ⟨yx, cut⟩) ..).trans ((linkGood_cutLink s site dir yx).2 m hm)
  · exact fun s site dir m xy yx hs hn h1 h2 hc => exec_greeting_live s site dir m xy yx hs hn h1 h2 hc
  · intro t o dir xy yx hd u up
    obtain ⟨h1, h2⟩ := greeted_links t o dir xy yx
    obtain ⟨b0, b1, b2, b3⟩ := greetNibble_bits o.dramGood o.computeGood (t.greetLink (2 * dir + 1) yx) (t.greetLink (2 * dir) xy)
    have hb (v : BitVec 16) (i : Nat) (hi : i < 4) := getLsbD_nibble t.health v dir i hd hi
    refine ⟨h1, h2, ?_, ?_, ?_, ?_⟩
    all_goals rw [greeted_health]
    · exact (hb _ 0 (by omega)).trans b0
    · exact (hb _ 1 (by omega)).trans b1
    · exact (hb _ 2 (by omega)).trans b2
    · exact (hb _ 3 (by omega)).trans b3
  · intro p
    rw [exec_budgetPeriod_site s unit h]
    simp only [inPeriod_eq]; rfl
  · rw [exec_budgetPeriod_proc s unit h]
    simp only [funext procInPeriod_eq]
  · exact ⟨_, rfl, rfl, rfl, rfl, rfl, rfl, rfl, rfl, rfl, rfl, rfl, proc_powerLoss s _ rfl⟩

end Sys2Proof.Machine
end

section
/-! Packets that their unit takes (R32, R42, R443). -/

namespace Sys2Proof.Machine

theorem arrivedPacket_of_takes {s : State} {fid : Nat} {f : Flight} (h : s.takes fid f) : s.arrivedPacket fid = some f := h.1

theorem arrivedFrom_of_takes {s : State} {fid : Nat} {f : Flight} (h : s.takes fid f) : s.arrivedFrom fid = some (f.src, f.body) := by
  unfold State.arrivedFrom
  rw [arrivedPacket_of_takes h]; rfl

/-- A packet that is taken has the effect that its unit gives it, on a state without it. -/
theorem withPacket_of_takes {s : State} {fid : Nat} {f : Flight} (h : s.takes fid f) (act : Flight → State → State) :
    s.withPacket fid act = act f (s.dropFlight fid) := by
  obtain ⟨h1, h2, h3⟩ := h
  unfold State.withPacket
  rw [h1]
  dsimp only
  rw [h2]
  dsimp only
  rw [if_neg (by simp [h3])]

end Sys2Proof.Machine
end

section
/-! Failed stores, window and table stores, instruction lines and cache requests (O29; R33, R34, R109, R129, R130, R138, R140, R141, R147, R294, R355). -/

namespace Sys2Proof.Machine

/-! ## A slot when one of its accesses is performed (R148) -/

theorem slot_dropRemote (s : State) (c d n : Nat) : (s.dropRemote c).slot d n = s.slot d n := by
  refine foldl_keeps (fun u => State.slot u d n) (fun u e => ?_) (if s.fused c then s.coresOf (siteOf c) else [c]) s
  unfold State.slot
  rw [core_modCore]
  split
  · next h => rw [h]; rfl
  · rfl

/-- What a slot holds in a core whose slots are each changed by a function that leaves a reset slot alone in that part. -/
theorem slot_mapSlots {β : Type} (g : Slot → β) (k : Core) (f : Slot → Slot) (hf : g (f Slot.reset) = g Slot.reset) (n : Nat) :
    g (Core.slot { k with slots := k.slots.map (fun p => (p.1, f p.2)) } n) = g (f (k.slot n)) := by
  unfold Core.slot
  dsimp only
  rw [nget_map_values]
  cases nget k.slots n with
  | none => exact hf.symm
  | some t => rfl

/-- A performed access takes its mark from its slot's acquires, and nothing else of a slot. -/
theorem slot_performed {β : Type} (g : Slot → β) (hg : ∀ (t : Slot) (l : List Nat), g { t with acquires := l } = g t) (s : State) (c acc d n : Nat) :
    g ((s.performed c acc).slot d n) = g (s.slot d n) := by
  unfold State.performed
  extract_lets drops u
  have hu : u.slot d n = s.slot d n := by
    subst u
    split
    · exact slot_dropRemote s c d n
    · rfl
  rw [← hu]
  unfold State.slot
  rw [core_modCore]
  split
  · next e =>
    rw [e]
    exact (slot_mapSlots g _ (fun t => { t with acquires := t.acquires.filter (· != acc) }) (hg ..) n).trans (hg ..)
  · rfl

theorem slot_answered {β : Type} (g : Slot → β) (hg : ∀ (t : Slot) (l : List Nat), g { t with acquires := l } = g t) (s : State) (c acc d n : Nat) :
    g ((s.answered c acc).slot d n) = g (s.slot d n) := by
  rw [← slot_performed g hg s c acc d n]
  unfold State.answered State.slot
  rw [core_modCore]
  split
  · next e => rw [e]; rfl
  · rfl

theorem slot_countS (s : State) (c n code d m : Nat) : (s.countS c n code).slot d m = s.slot d m := by
  unfold State.countS State.slot
  rw [core_modCore]
  split
  · next e => rw [e, count_slot]
  · rfl

/-! ## Failed stores (R130) -/

/-- A state after STORE_FAIL has been answered and counted. -/
def State.storeFailed (s : State) (fid c acc slot : Nat) : State := ((s.dropFlight fid).answered c acc).countS c slot 8

theorem stfail_storeFailed (s : State) (fid c acc slot : Nat) : ((s.storeFailed fid c acc slot).slot c slot).stfail = (s.slot c slot).stfail := by
  unfold State.storeFailed
  rw [slot_countS]
  exact slot_answered Slot.stfail (fun _ _ => rfl) (s.dropFlight fid) c acc c slot

theorem exec_storeFail_taken (s : State) (fid c acc slot epoch : Nat) (code : BitVec 8) (pa : BitVec 43) (f : Flight) (h : s.takes fid f) (hs : f.src = .core c)
    (hb : f.body = .stFail acc slot epoch code pa) : exec (.storeFail fid) s = .next (
      if ((s.storeFailed fid c acc slot).slot c slot).epoch == epoch then
        (s.storeFailed fid c acc slot).modSlot c slot (fun t => { t with stfail := latchStfail t.stfail code pa })
      else s.storeFailed fid c acc slot) := by
  rw [exec_storeFail]
  unfold execStoreFail
  rw [arrivedFrom_of_takes h, hs, hb]
  dsimp only
  rw [withPacket_of_takes h]; rfl

theorem latchStfail_again (w : Word) (code : BitVec 8) (pa : BitVec 43) (h : w.getLsbD 63 = true) : latchStfail w code pa = w ||| 0x4000000000000000 := by
  unfold latchStfail
  rw [if_pos h]

theorem latchStfail_first (w : Word) (code : BitVec 8) (pa : BitVec 43) (h : w.getLsbD 63 = false) :
    (latchStfail w code pa).getLsbD 63 = true ∧ wf (latchStfail w code pa) 48 8 = code.toNat ∧ wf (latchStfail w code pa) 0 43 = pa.toNat ∧
      (latchStfail w code pa).getLsbD 62 = w.getLsbD 62 := by
  have hc := code.isLt
  have hp := pa.isLt
  unfold latchStfail
  rw [if_neg (by rw [h]; exact Bool.false_ne_true)]
  simp only [wf, fieldOf, wd, BitVec.toNat_ofNat, Nat.shiftRight_eq_div_pow, BitVec.getLsbD_ofNat, Nat.testBit_eq_decide_div_mod_eq]
  cases w.getLsbD 62 <;> simp <;> omega

/-! ## Window stores (R294, R355) -/

section
variable {s : State} {fid c n va : Nat} {v : Word} {f : Flight} {r : Req} (h : s.takes fid f) (hs : f.src = .core c) (hb : f.body = .mem r)
  (ho : r.op = .store n v)
include h hs hb ho

section
variable (ht : r.target = .window va)
include ht

omit h hs in
theorem windowStore_eq : f.windowStore = some (r, 16 * f.dsite + windowIndex va, va, n, v) := by
  unfold Flight.windowStore
  rw [hb]
  dsimp only
  rw [ho, ht]

/-- A store of a command to a copy channel. -/
theorem takeWindow_command {ch cmd : Nat} (hc : windowCommand va n v = some (ch, cmd)) :
    s.takeWindow fid (some cmd) = (((s.dropFlight fid).chanCommand (16 * f.dsite + windowIndex va) ch cmd).performed c r.acc).answer f (.ack r.acc) := by
  unfold State.takeWindow
  rw [arrivedPacket_of_takes h]
  dsimp only
  rw [windowStore_eq hb ho ht, hs]
  dsimp only
  rw [hc]
  dsimp only
  rw [if_pos rfl, withPacket_of_takes h]; rfl

/-- A store to another dword of a window. -/
theorem takeWindow_write (hc : windowCommand va n v = none) (hw : s.windowWaits (16 * f.dsite + windowIndex va) va = false) : s.takeWindow fid none =
    match (s.dropFlight fid).windowWrite (16 * f.dsite + windowIndex va) va n v with
    | some t => (t.performed c r.acc).answer f (.ack r.acc)
    | none => (s.dropFlight fid).answer f (.stFail r.acc r.slot r.epoch 0x60 (BitVec.ofNat 43 va)) := by
  have e : (s.dropFlight fid).failReq f r 0x60 = (s.dropFlight fid).answer f (.stFail r.acc r.slot r.epoch 0x60 (BitVec.ofNat 43 va)) := by
    unfold State.failReq
    rw [ho]
    dsimp only
    rw [ht]; rfl
  unfold State.takeWindow
  rw [arrivedPacket_of_takes h]
  dsimp only
  rw [windowStore_eq hb ho ht, hs]
  dsimp only
  rw [hc]
  dsimp only
  rw [if_neg (by simp [hw]), withPacket_of_takes h, e]
  cases (s.dropFlight fid).windowWrite (16 * f.dsite + windowIndex va) va n v <;> rfl

end

/-! ## Stores to the two tables of a site (R33, R34) -/

variable {name : BitVec 12} {off : Nat} (ht : r.target = .router name off) (htab : tableOff name off = true)
include ht htab

theorem takeTable_eq (phys : Bool) (hp : phys = decide (0x8000 ≤ off)) : s.takeTable fid phys =
    match (if phys then (s.dropFlight fid).physWrite f.dsite f.part.toNat ((off - 0x8000) / 8) v
      else (s.dropFlight fid).routeWrite f.dsite f.part.toNat (off / 8) v) with
    | some t => (t.performed c r.acc).answer f (.ack r.acc)
    | none => (s.dropFlight fid).failReq f r 0x23 := by
  unfold State.takeTable
  rw [arrivedPacket_of_takes h]
  dsimp only
  rw [hb]
  dsimp only
  rw [ho, ht]
  dsimp only
  rw [if_neg (by simp [htab, hp]), withPacket_of_takes h, hs]
  generalize (if phys then (s.dropFlight fid).physWrite f.dsite f.part.toNat ((off - 0x8000) / 8) v
    else (s.dropFlight fid).routeWrite f.dsite f.part.toNat (off / 8) v) = x
  cases x <;> rfl

end

/-! ## Instruction lines (R109, R138, R147) -/

theorem gleanPA_nil {s : State} (h : s.gmoves = []) (pa : Nat) : s.gleanPA pa = pa := by
  unfold State.gleanPA
  rw [h]; rfl

/-- A line that is brought into the L2 reads as it did. -/
theorem lineData_allocLine_self (s : State) (l : Nat) (tensor : BitVec 8) : (s.allocLine l tensor).1.lineData l = s.lineData l := by
  unfold State.allocLine
  split
  · next x e => exact (State.lineData_put (x := { x with used := s.useCtr }) (d := x.data) rfl rfl).trans (State.lineData_some e).symm
  · next e =>
    extract_lets set fresh
    have hf (m : NMap L2Line) (t : State) (ht : t.l2 = nput m l fresh) : t.lineData l = s.lineData l :=
      (State.lineData_put (x := fresh) (d := s.dramLine l) ht rfl).trans (State.lineData_none e).symm
    split
    · exact hf _ _ rfl
    · split
      · rfl
      · exact hf _ _ rfl

theorem gmoves_allocLine (s : State) (l : Nat) (tensor : BitVec 8) : (s.allocLine l tensor).1.gmoves = s.gmoves := by
  unfold State.allocLine
  split
  · rfl
  · dsimp only
    split
    · rfl
    · split <;> rfl

theorem lineAt_of_sameLines {s t : State} (h : s.sameLines t) (l : Nat) : t.lineAt l = s.lineAt l := by
  obtain ⟨hg, hd, -⟩ := h
  unfold State.lineAt State.physRead
  simp only [hd, hg, State.gleanPA_congr hg]

/-- The state of a home that has read a line for an instruction cache: the line in the L2, or its absence counted. -/
def State.homeLine (w : State) (l : Nat) (tensor : BitVec 8) (src : Sender) : State :=
  match (w.allocLine (lineOf (w.gleanPA (l * 128))) tensor).2, src with
  | false, .core c => (w.allocLine (lineOf (w.gleanPA (l * 128))) tensor).1.count c 14
  | _, _ => (w.allocLine (lineOf (w.gleanPA (l * 128))) tensor).1

theorem sameLines_homeLine (w : State) (l : Nat) (tensor : BitVec 8) (src : Sender) :
    (w.allocLine (lineOf (w.gleanPA (l * 128))) tensor).1.sameLines (w.homeLine l tensor src) := by
  unfold State.homeLine
  split
  · exact State.sameLines_count ..
  · exact .refl _

/-- The line that the home sends is the one at its address, where no move is under way or the memories are canonical. -/
theorem lineAt_homeLine (w : State) (l : Nat) (tensor : BitVec 8) (src : Sender) :
    (w.gmoves = [] → (w.homeLine l tensor src).lineAt l = w.lineData l) ∧ (w.memWf → (w.homeLine l tensor src).lineAt l = w.lineAt l) := by
  rw [lineAt_of_sameLines (sameLines_homeLine w l tensor src)]
  refine ⟨fun h => ?_, fun h => lineAt_of_sameLines (State.sameLines_allocLine _ _ _ h) l⟩
  have hl : lineOf (w.gleanPA (l * 128)) = l := by
    rw [gleanPA_nil h]
    unfold lineOf
    omega
  rw [hl]
  unfold State.lineAt
  rw [gmoves_allocLine, h]
  exact lineData_allocLine_self w l tensor

/-- The way of a fetch on from its home, to where its line is served (R190). -/
abbrev State.lineTrip (u : State) (l : Nat) : State × Trip :=
  u.homeTrip (l * 128) 128 1 (dataFlits (codeBytes (u.lineCode (lineOf (u.gleanPA (l * 128))))))

/-- What the home answers to a fetch that meets a code there or on its way on, or none. -/
def State.lineAnswer (w : State) (f : Flight) (l : Nat) (tensor : BitVec 8) (code : Option (BitVec 8)) : State :=
  match code with
  | some x => if x == 0x25 then w.loseFlight f else w.answer f (.ifill l none 0)
  | none =>
    let v := w.homeLine l tensor f.src
    v.answer f (.ifill l (some (v.lineAt l)) (v.lineCode (lineOf (w.gleanPA (l * 128)))))

theorem exec_icacheFill_fetch (s : State) (fid slot l : Nat) (f : Flight) (tensor : BitVec 8) (h : s.takes fid f) (hb : f.body = .ifetch slot l tensor) (w : State)
    (code : Option (BitVec 8)) (served : Bool) (ht : (s.dropFlight fid).lineTrip l = (w, ⟨code, served⟩)) :
    exec (.icacheFill fid) s = .next (w.lineAnswer f l tensor code) := by
  rw [exec_icacheFill]
  unfold execIcacheFill
  rw [arrivedFrom_of_takes h, hb]
  dsimp only
  unfold State.lineTrip at ht
  rw [withPacket_of_takes h, ht]
  cases code <;> rfl

theorem exec_icacheFill_fill (s : State) (fid c l : Nat) (f : Flight) (d : Option (BitVec 1024)) (code : BitVec 4) (h : s.takes fid f) (hs : f.src = .core c)
    (hb : f.body = .ifill l d code) : exec (.icacheFill fid) s = .next ((s.dropFlight fid).icacheTake c l d) := by
  rw [exec_icacheFill]
  unfold execIcacheFill
  rw [arrivedFrom_of_takes h, hs, hb]
  dsimp only
  rw [withPacket_of_takes h]

/-- A slot after a line, or its failure, has come to its core (R109). -/
def Slot.gotLine (t : Slot) (l : Nat) (d : Option (BitVec 1024)) : Slot :=
  if t.fetch == some (.line l) then { t with fetch := some (match d with | some x => .arrived l x | none => .failed l) } else t

theorem slot_icacheTake (s : State) (c l : Nat) (d : Option (BitVec 1024)) (n : Nat) : (s.icacheTake c l d).slot c n = (s.slot c n).gotLine l d := by
  unfold State.icacheTake State.slot
  dsimp only
  rw [core_modCore_self]
  cases d with
  | none => exact slot_mapSlots id _ (fun t => t.gotLine l none) rfl n
  | some x => exact slot_mapSlots id _ (fun t => t.gotLine l (some x)) rfl n

theorem fetch_gotLine (t : Slot) (l : Nat) (d : Option (BitVec 1024)) (h : t.fetch = some (.line l)) :
    (t.gotLine l d).fetch = some (match d with | some x => .arrived l x | none => .failed l) := by
  unfold Slot.gotLine
  rw [if_pos (by rw [h]; exact beq_self_eq_true _)]

theorem gotLine_other (t : Slot) (l : Nat) (d : Option (BitVec 1024)) (h : t.fetch ≠ some (.line l)) : t.gotLine l d = t := by
  unfold Slot.gotLine
  rw [if_neg (by simpa using h)]

theorem icache_icacheTake (s : State) (c l : Nat) :
    (∀ x, nget ((s.icacheTake c l (some x)).core c).icache l = some x) ∧ ((s.icacheTake c l none).core c).icache = (s.core c).icache := by
  unfold State.icacheTake
  dsimp only
  refine ⟨fun x => ?_, ?_⟩ <;> rw [core_modCore_self]
  · exact nget_nput_self ..
  · rfl

/-! ## Cache requests (R140, R141) -/

/-- What a cache request of a core does at its slice. -/
def State.cacheDone (u : State) (f : Flight) (c : Nat) (op : CacheOp) : State :=
  match op with
  | .pin ls t => ls.foldl (fun v l => v.pinLine c t l) u
  | .unpin ls => ls.foldl State.unpinLine u
  | .discard id g => (u.discardSite f.dsite id).1.answer f (.discarded g (u.discardSite f.dsite id).2)

theorem exec_cacheControlRequest_taken (s : State) (fid c : Nat) (f : Flight) (claim : Option Nat) (op : CacheOp) (h : s.takes fid f) (hs : f.src = .core c)
    (hb : f.body = .cache claim op) : exec (.cacheControlRequest fid) s = .next ((s.dropFlight fid).cacheDone f c op) := by
  rw [exec_cacheControlRequest]
  unfold execCacheControlRequest
  rw [arrivedFrom_of_takes h, hs, hb]
  dsimp only
  rw [withPacket_of_takes h]; rfl

theorem l2_invalSharers (s : State) (l : Nat) (keep : Option Nat) : (s.invalSharers l keep).l2 = s.l2 :=
  foldl_keeps State.l2 (fun u c => by split <;> rfl) _ s

/-- The L2 without the lines of a list. -/
theorem l2_discard (ls : List Nat) (s : State) (l : Nat) :
    nget (ls.foldl (fun s l => let s := (s.invalSharers l none).clearResv l none; { s with l2 := ndel s.l2 l }) s).l2 l = if l ∈ ls then none else nget s.l2 l := by
  induction ls generalizing s with
  | nil => rfl
  | cons m ls ih =>
    rw [List.foldl_cons, ih]
    show (if l ∈ ls then none else nget (ndel (s.invalSharers m none).l2 m) l) = _
    rw [l2_invalSharers, nget_ndel]
    by_cases h : l = m <;> simp [h]

theorem discardSite_lines (s : State) (site : Nat) (id : BitVec 8) (l : Nat) (x : L2Line) (h : nget (s.discardSite site id).1.l2 l = some x) :
    ¬(l / 2 ^ 26 = site ∧ x.tensor = id) := by
  rintro ⟨h1, h2⟩
  unfold State.discardSite at h
  rw [l2_discard] at h
  split at h
  · cases h
  · next hn =>
    exact hn (List.mem_map.mpr ⟨(l, x), List.mem_filter.mpr ⟨mem_of_nget h, Bool.and_eq_true_iff.mpr ⟨beq_iff_eq.mpr h1, beq_iff_eq.mpr h2⟩⟩, rfl⟩)

theorem discardSite_count (s : State) (site : Nat) (id : BitVec 8) :
    (s.discardSite site id).2 = (s.l2.filter (fun p => p.1 / 2 ^ 26 == site && p.2.tensor == id)).length := List.length_map ..

/-- Settles O29, clause by clause. -/
theorem homeTables : Obligations.HomeTables := by
  unfold Obligations.HomeTables
  refine ⟨fun s fid c acc slot epoch code pa f h hs hb => ?_, fun s fid c f r h hs hb => ?_, fun s fid slot l f tensor h hb => ?_,
    fun s fid c l f d code h hs hb => ?_, fun s fid c l f code h hs hb => ?_, fun s fid c f claim op h hs hb => ?_⟩
  · intro u
    rw [exec_storeFail_taken s fid c acc slot epoch code pa f h hs hb]
    refine ⟨fun he => congrArg _ (if_neg (mt beq_iff_eq.mp he)), fun he => ⟨_, congrArg _ (if_pos (beq_iff_eq.mpr he)), ?_⟩⟩
    intro w x
    have hx : x = latchStfail w code pa := by
      show (State.slot _ c slot).stfail = _
      rw [slot_modSlot_self, stfail_storeFailed]
    rw [hx]
    exact ⟨latchStfail_again w code pa, latchStfail_first w code pa⟩
  · intro u acked
    refine ⟨fun n v va ho ht => ?_, fun n v name off ho ht htab => ⟨fun hoff => ?_, fun hoff => ?_⟩⟩
    · intro d
      refine ⟨fun ch hc => congrArg Host.Outcome.next (takeWindow_command h hs hb ho ht hc),
        fun ch hc => congrArg Host.Outcome.next (takeWindow_command h hs hb ho ht hc), fun hc hw => ?_⟩
      have e : exec (.windowWrite fid) s = .next (s.takeWindow fid none) := rfl
      rw [e, takeWindow_write h hs hb ho ht hc hw]
      exact ⟨fun t hw => by rw [hw], fun hw => by rw [hw]⟩
    · have e : exec (.routeEntryWrite fid) s = .next (s.takeTable fid false) := rfl
      rw [e, takeTable_eq h hs hb ho ht htab false (by simpa using hoff)]
      exact ⟨fun t hw => by rw [if_neg Bool.false_ne_true, hw], fun hw => by rw [if_neg Bool.false_ne_true, hw]⟩
    · have e : exec (.physSelectWrite fid) s = .next (s.takeTable fid true) := rfl
      rw [e, takeTable_eq h hs hb ho ht htab true (by simpa using hoff)]
      exact ⟨fun t hw => by rw [if_pos rfl, hw], fun hw => by rw [if_pos rfl, hw]⟩
  · intro u w code served ht
    rw [exec_icacheFill_fetch s fid slot l f tensor h hb w code served ht]
    refine ⟨fun x hx hne => by subst hx; exact congrArg _ (if_neg (by simpa using hne)), fun hx => by subst hx; rfl, fun hx => ?_⟩
    subst hx
    obtain ⟨h1, h2⟩ := lineAt_homeLine w l tensor f.src
    refine ⟨_, _, _, rfl, h1, fun hm => h2 ?_⟩
    have hw : w = (u.lineTrip l).1 := (congrArg Prod.fst ht).symm
    rw [hw]
    exact State.memWf.homeTrip (State.memWf.dropFlight hm fid) ..
  · refine ⟨_, exec_icacheFill_fill s fid c l f (some d) code h hs hb, (icache_icacheTake ..).1 d, fun n hn => ?_, fun n hn => ?_⟩
    · rw [slot_icacheTake, fetch_gotLine _ _ _ (by exact hn)]
    · rw [slot_icacheTake, gotLine_other _ _ _ (by exact hn)]; rfl
  · refine ⟨_, exec_icacheFill_fill s fid c l f none code h hs hb, (icache_icacheTake ..).2, fun n hn => ?_⟩
    rw [slot_icacheTake, fetch_gotLine _ _ _ (by exact hn)]
  · intro u
    rw [exec_cacheControlRequest_taken s fid c f claim op h hs hb]
    refine ⟨fun ls ho => by subst ho; rfl, fun ls ty ho => by subst ho; rfl, fun id g ho => ?_⟩
    subst ho
    refine ⟨(u.discardSite f.dsite id).1, ?_, discardSite_lines u f.dsite id⟩
    rw [← discardSite_count]; rfl

end Sys2Proof.Machine
end

section
/-! Segments to other modules (O48): frames, sending and timers, answers, and the rate of a pair (R36, R287, R299 to R302). -/

namespace Sys2Proof.Machine

/-! ## Fields of a byte string -/

theorem length_bytesOf (n v : Nat) : (bytesOf n v).length = n := by
  induction n generalizing v with
  | zero => rfl
  | succ k ih => exact congrArg (· + 1) (ih _)

theorem ofBytes_bytesOf (n v : Nat) : ofBytes (bytesOf n v) = v % 256 ^ n := by
  induction n generalizing v with
  | zero => exact (Nat.mod_one v).symm
  | succ k ih =>
    show (BitVec.ofNat 8 v).toNat + 256 * ofBytes (bytesOf k (v / 256)) = _
    rw [ih, BitVec.toNat_ofNat, show 256 ^ (k + 1) = 256 * 256 ^ k from Nat.pow_succ']
    exact Nat.mod_mul.symm

theorem take_bytesOf (n k v : Nat) (h : k ≤ n) : (bytesOf n v).take k = bytesOf k v := by
  induction k generalizing n v with
  | zero => rfl
  | succ k ih =>
    obtain ⟨m, rfl⟩ : ∃ m, n = m + 1 := ⟨n - 1, by omega⟩
    exact congrArg (BitVec.ofNat 8 v :: ·) (ih m (v / 256) (by omega))

theorem drop_bytesOf (n i v : Nat) : (bytesOf n v).drop i = bytesOf (n - i) (v / 256 ^ i) := by
  induction i generalizing n v with
  | zero => simp
  | succ i ih =>
    cases n with
    | zero => rw [Nat.zero_sub]; rfl
    | succ m =>
      rw [show bytesOf (m + 1) v = BitVec.ofNat 8 v :: bytesOf m (v / 256) from rfl, List.drop_succ_cons, ih, Nat.div_div_eq_div_mul, ← Nat.pow_succ', Nat.succ_sub_succ]

/-- A field that lies in the first number of a byte string. -/
theorem byteField_bytesOf (n v : Nat) (r : List Byte) (i k : Nat) (h : i + k ≤ n) : byteField (bytesOf n v ++ r) i k = v / 256 ^ i % 256 ^ k := by
  unfold byteField
  rw [List.drop_append_of_le_length (by rw [length_bytesOf]; omega), drop_bytesOf, List.take_append_of_le_length (by rw [length_bytesOf]; omega),
    take_bytesOf _ _ _ (by omega), ofBytes_bytesOf]

/-- A field that lies behind the first number of a byte string. -/
theorem byteField_after (n v : Nat) (r : List Byte) (i k : Nat) (h : n ≤ i) : byteField (bytesOf n v ++ r) i k = byteField r (i - n) k := by
  unfold byteField
  rw [List.drop_append, length_bytesOf, List.drop_eq_nil_of_le (by rw [length_bytesOf]; exact h), List.nil_append]

/-! ## The frame of a segment (R299) -/

theorem fieldOf_lt (v lo w : Nat) : fieldOf v lo w < 2 ^ w := Nat.mod_lt _ (Nat.two_pow_pos w)

/-- First word of the header of a DATA frame: version, kind, flags and the two modules. -/
def dataHead (k : NetChip) (rmod : Nat) (red : Bool) : Nat :=
  1 + 1 * 2 ^ 8 + (0 + (if red then 2 else 0)) * 2 ^ 16 + (wf k.modreg 60 4 + rmod % 16 * 16) * 2 ^ 24

theorem dataHead_fields (k : NetChip) (rmod : Nat) (red : Bool) (hr : rmod < 16) :
    dataHead k rmod red / 256 ^ 0 % 256 ^ 1 = 1 ∧ dataHead k rmod red / 256 ^ 1 % 256 ^ 1 = 1 ∧ dataHead k rmod red / 256 ^ 2 % 256 ^ 1 = (if red then 2 else 0) ∧
      dataHead k rmod red / 256 ^ 3 % 256 ^ 1 = wf k.modreg 60 4 + 16 * rmod := by
  have hm : wf k.modreg 60 4 < 2 ^ 4 := fieldOf_lt ..
  unfold dataHead
  generalize wf k.modreg 60 4 = m at hm ⊢
  cases red <;> simp <;> omega

/-- The bytes of a DATA frame. -/
def dataBytes (k : NetChip) (rmod : Nat) (p : Peer) (q : RmaSeg) (seq : BitVec 32) : List Byte :=
  bytesOf 4 (dataHead k rmod q.red) ++ (bytesOf 4 seq.toNat ++ (bytesOf 4 p.floor.toNat ++ (bytesOf 6 (BitVec.ofNat 43 q.pa).toNat ++
    (bytesOf 2 q.bytes.length ++ (bytesOf 12 0 ++ q.bytes)))))

theorem dataGram_eq (k : NetChip) (chip rmod : Nat) (p : Peer) (q : RmaSeg) (seq : BitVec 32) : dataGram k chip rmod p q seq =
    .datagram chip rmod (p.ip1 ++ p.ip0) (0xC000 + BitVec.ofNat 16 (wf p.ctl 58 5)) (BitVec.ofNat 16 (wf p.ctl 32 16)) 2 (dataBytes k rmod p q seq) := by
  unfold dataGram frame dataBytes
  simp only [List.append_assoc]; rfl

theorem length_dataBytes (k : NetChip) (rmod : Nat) (p : Peer) (q : RmaSeg) (seq : BitVec 32) : (dataBytes k rmod p q seq).length = 32 + q.bytes.length := by
  unfold dataBytes
  simp only [List.length_append, length_bytesOf]
  omega

theorem drop_dataBytes (k : NetChip) (rmod : Nat) (p : Peer) (q : RmaSeg) (seq : BitVec 32) : (dataBytes k rmod p q seq).drop 32 = q.bytes := by
  unfold dataBytes
  simp only [List.drop_append, drop_bytesOf, length_bytesOf]
  simp [bytesOf]

/-- The fields of the header behind its first word. -/
theorem dataBytes_fields (k : NetChip) (rmod : Nat) (p : Peer) (q : RmaSeg) (seq : BitVec 32) (hpa : q.pa < 2 ^ 43) (hl : q.bytes.length ≤ 4096) :
    let l := dataBytes k rmod p q seq
    byteField l 4 4 = seq.toNat ∧ byteField l 8 4 = p.floor.toNat ∧ byteField l 12 6 = q.pa ∧ byteField l 18 2 = q.bytes.length ∧ byteField l 20 12 = 0 := by
  intro l
  have hs := seq.isLt
  have hf := p.floor.isLt
  have hq : (BitVec.ofNat 43 q.pa).toNat = q.pa := (BitVec.toNat_ofNat ..).trans (Nat.mod_eq_of_lt hpa)
  have skip (n v : Nat) (r : List Byte) (i j : Nat) := byteField_after n v r (n + i) j (Nat.le_add_right ..)
  simp only [Nat.add_sub_cancel_left] at skip
  refine ⟨?_, ?_, ?_, ?_, ?_⟩
  · exact (skip 4 _ _ 0 4).trans ((byteField_bytesOf _ _ _ _ _ (by omega)).trans (by omega))
  · exact (skip 4 _ _ 4 4).trans ((skip 4 _ _ 0 4).trans ((byteField_bytesOf _ _ _ _ _ (by omega)).trans (by omega)))
  · exact (skip 4 _ _ 8 6).trans ((skip 4 _ _ 4 6).trans ((skip 4 _ _ 0 6).trans ((byteField_bytesOf _ _ _ _ _ (by omega)).trans (by omega))))
  · exact (skip 4 _ _ 14 2).trans ((skip 4 _ _ 10 2).trans ((skip 4 _ _ 6 2).trans ((skip 6 _ _ 0 2).trans ((byteField_bytesOf _ _ _ _ _ (by omega)).trans (by omega)))))
  · exact (skip 4 _ _ 16 12).trans ((skip 4 _ _ 12 12).trans ((skip 4 _ _ 8 12).trans ((skip 6 _ _ 2 12).trans ((skip 2 _ _ 0 12).trans
      ((byteField_bytesOf _ _ _ _ _ (by omega)).trans (by omega))))))

/-- The whole header of a DATA frame (R299). -/
theorem dataGram_header (k : NetChip) (chip rmod : Nat) (p : Peer) (q : RmaSeg) (seq : BitVec 32) (hpa : q.pa < 2 ^ 43) (hl : q.bytes.length ≤ 4096) (hr : rmod < 16) :
    ∃ l, dataGram k chip rmod p q seq = .datagram chip rmod (p.ip1 ++ p.ip0) (0xC000 + BitVec.ofNat 16 (wf p.ctl 58 5)) (BitVec.ofNat 16 (wf p.ctl 32 16)) 2 l ∧
      l.length = 32 + q.bytes.length ∧ l.drop 32 = q.bytes ∧ byteField l 0 1 = 1 ∧ byteField l 1 1 = 1 ∧ byteField l 2 1 = (if q.red then 2 else 0) ∧
      byteField l 3 1 = wf k.modreg 60 4 + 16 * rmod ∧ byteField l 4 4 = seq.toNat ∧ byteField l 8 4 = p.floor.toNat ∧ byteField l 12 6 = q.pa ∧
      byteField l 18 2 = q.bytes.length ∧ byteField l 20 12 = 0 := by
  obtain ⟨h0, h1, h2, h3⟩ := dataHead_fields k rmod q.red hr
  have head (i : Nat) (h : i + 1 ≤ 4) : byteField (dataBytes k rmod p q seq) i 1 = dataHead k rmod q.red / 256 ^ i % 256 ^ 1 := byteField_bytesOf _ _ _ _ _ h
  exact ⟨_, dataGram_eq .., length_dataBytes .., drop_dataBytes .., (head 0 (by omega)).trans h0, (head 1 (by omega)).trans h1, (head 2 (by omega)).trans h2,
    (head 3 (by omega)).trans h3, dataBytes_fields k rmod p q seq hpa hl⟩

/-! ## Sending and timers (R300, R302) -/

section
variable (s : State) (chip rmod : Nat)

theorem exec_rmaSegmentSend_none (h : ((s.chip chip).peer rmod).segs.find? (fun q => q.seq.isNone) = none) : exec (.rmaSegmentSend chip rmod) s = .next s := by
  rw [exec_rmaSegmentSend]
  unfold execRmaSegmentSend
  dsimp only
  rw [h]

/-- A pair whose waiting segment has got the next sequence number. -/
def Peer.sent (p : Peer) (q : RmaSeg) : Peer :=
  { p with nextSeq := p.nextSeq + 1, segs := p.segs.set ((p.segs.takeWhile (fun q => q.seq.isSome)).length) { q with seq := some p.nextSeq } }

variable {q : RmaSeg}

theorem exec_rmaSegmentSend_open (h : ((s.chip chip).peer rmod).segs.find? (fun q => q.seq.isNone) = some q) (hv : ((s.chip chip).peer rmod).valid = true)
    (hw : ahead ((s.chip chip).peer rmod).nextSeq ((s.chip chip).peer rmod).floor < 4096) :
    exec (.rmaSegmentSend chip rmod) s = .next ((s.modPeer chip rmod (fun _ => ((s.chip chip).peer rmod).sent q)).report
      (dataGram (s.chip chip) chip rmod (((s.chip chip).peer rmod).sent q) q ((s.chip chip).peer rmod).nextSeq)) := by
  rw [exec_rmaSegmentSend]
  unfold execRmaSegmentSend
  dsimp only
  rw [h]
  dsimp only
  rw [if_neg (by simp [hv]), if_neg (by omega)]; rfl

theorem exec_rmaSegmentSend_invalid (h : ((s.chip chip).peer rmod).segs.find? (fun q => q.seq.isNone) = some q) (hv : ((s.chip chip).peer rmod).valid = false) :
    exec (.rmaSegmentSend chip rmod) s = .next ((s.modPeer chip rmod (fun p => { p with segs := p.segs.erase q })).endRmaSeg q (some (0x45, q.pa))) := by
  rw [exec_rmaSegmentSend]
  unfold execRmaSegmentSend
  dsimp only
  rw [h]
  dsimp only
  rw [if_pos (by simp [hv])]

theorem exec_rmaSegmentSend_full (hv : ((s.chip chip).peer rmod).valid = true)
    (hw : 4096 ≤ ahead ((s.chip chip).peer rmod).nextSeq ((s.chip chip).peer rmod).floor) : exec (.rmaSegmentSend chip rmod) s = .next s := by
  rw [exec_rmaSegmentSend]
  unfold execRmaSegmentSend
  dsimp only
  split
  · rfl
  · rw [if_neg (by simp [hv]), if_pos hw]

/-- A pair with a segment of a sequence number replaced. -/
def Peer.withSeg (p : Peer) (seq : BitVec 32) (q : RmaSeg) : Peer := { p with segs := p.segs.map (fun x => if x.seq == some seq then q else x) }

/-- A segment that its timer sends again: once for a NACK_BUDGET, else one sending more. -/
def RmaSeg.again (q : RmaSeg) : RmaSeg := if q.nacked then { q with nacked := false } else { q with sends := q.sends + 1 }

variable (seq : BitVec 32)

theorem exec_rmaTimer_none (h : ((s.chip chip).peer rmod).segs.find? (fun q => q.seq == some seq) = none) : exec (.rmaTimer chip rmod seq) s = .next s := by
  rw [exec_rmaTimer]
  unfold execRmaTimer
  dsimp only
  rw [h]

theorem exec_rmaTimer_again (h : ((s.chip chip).peer rmod).segs.find? (fun q => q.seq == some seq) = some q) (hq : q.nacked = true ∨ q.sends < 6) :
    exec (.rmaTimer chip rmod seq) s = .next ((s.modPeer chip rmod (fun _ => ((s.chip chip).peer rmod).withSeg seq q.again)).report
      (dataGram (s.chip chip) chip rmod (((s.chip chip).peer rmod).withSeg seq q.again) q seq)) := by
  rw [exec_rmaTimer]
  unfold execRmaTimer
  dsimp only
  rw [h]
  dsimp only
  rw [if_pos (by simpa using hq)]; rfl

theorem exec_rmaTimer_last (h : ((s.chip chip).peer rmod).segs.find? (fun q => q.seq == some seq) = some q) (hn : q.nacked = false) (hs : 6 ≤ q.sends) :
    exec (.rmaTimer chip rmod seq) s = .next
      (((s.modPeer chip rmod (fun p => { p with segs := ((s.chip chip).peer rmod).segs.filter (fun x => !(x.seq == some seq)) })).endRmaSeg q
        (some (0x44, rmod * 2 ^ 44 + seq.toNat))).report (.rmaAbandoned chip rmod seq)) := by
  rw [exec_rmaTimer]
  unfold execRmaTimer
  dsimp only
  rw [h]
  dsimp only
  rw [if_neg (by simp [hn, hs])]; rfl

end

/-! ## The rate of a pair (R302) -/

theorem onAnswer_marked (p : Peer) (m : Word) (h : p.alpha ≤ 65536) :
    let r := p.onAnswer m true
    r.alpha = p.alpha + (65536 - p.alpha) / 16 ∧ r.rate = max (wf m 20 20) (p.rate * (131072 - r.alpha) / 131072) ∧ r.target = p.rate ∧ r.unmarked = 0 ∧ r.alpha ≤ 65536 ∧
      (wf m 20 20 ≤ p.rate → r.rate ≤ p.rate) := by
  intro r
  refine ⟨rfl, rfl, rfl, rfl, ?_, fun hm => max_le hm ?_⟩
  · show p.alpha + (65536 - p.alpha) / 16 ≤ 65536
    omega
  · calc p.rate * (131072 - r.alpha) / 131072 ≤ p.rate * 131072 / 131072 := Nat.div_le_div_right (Nat.mul_le_mul_left _ (Nat.sub_le ..))
      _ = p.rate := Nat.mul_div_cancel _ (by omega)

theorem onAnswer_unmarked (p : Peer) (m : Word) :
    let r := p.onAnswer m false
    r.alpha = 15 * p.alpha / 16 ∧ (p.unmarked ≠ 31 → r.rate = p.rate ∧ r.target = p.target ∧ r.unmarked = p.unmarked + 1) ∧
      (p.unmarked = 31 → r.rate = (p.rate + p.target) / 2 ∧ r.target = min (wf m 40 20) (p.target + wf m 0 20) ∧ r.unmarked = 0) := by
  unfold Peer.onAnswer
  dsimp only
  by_cases h : p.unmarked = 31
  · simp [h]
  · simp [h]

/-- Settles O48, by the rules above for sends, timers, answers and rates. -/
theorem rmaSends : Obligations.RmaSends := by
  unfold Obligations.RmaSends
  refine ⟨⟨fun s chip rmod q => ?_, fun k chip rmod p q seq hpa hl hr => dataGram_header k chip rmod p q seq hpa hl hr⟩,
    ⟨fun s q fail => rfl, fun s chip rmod seq cumE ece => ⟨rfl, rfl⟩⟩, fun p m h => ⟨onAnswer_marked p m h, onAnswer_unmarked p m⟩⟩
  intro k p
  refine ⟨exec_rmaSegmentSend_none s chip rmod, exec_rmaSegmentSend_open s chip rmod, exec_rmaSegmentSend_invalid s chip rmod, exec_rmaSegmentSend_full s chip rmod,
    fun seq cumE ece => ⟨?_, exec_rmaTimer_none s chip rmod seq, fun h => ⟨exec_rmaTimer_again s chip rmod seq h, exec_rmaTimer_last s chip rmod seq h⟩⟩⟩
  rw [exec_nackBudget]
  unfold execNackBudget
  rw [Bool.or_true]

end Sys2Proof.Machine
end

section
/-! Site packets, LOAD, UNLOAD and ATTEST (O47; R48, R54, R390, R393, R394, R396). -/

namespace Sys2Proof.Machine

/-! ## Site packets (R54, R394) -/

/-- What a site packet makes of its site: LOADED with the images of its cores, FENCED on a mismatch, or as it was. -/
def State.loadSite (u : State) (n : Nat) (cores : List (Nat × List RoleImage)) (placed : List Nat) (digest : BitVec 384) (payload : List Byte) : State :=
  if !(placed.contains n && (u.site n).state == .named) then u
  else if sha384 payload == digest then
    ((cores.filter (fun p => siteOf p.1 == n)).foldl (fun s p => s.modCore p.1 (fun k => { k with roles := p.2, placed := true })) u).modSite n
      (fun t => { t with state := .loaded, image := true })
  else u.fenceSite n

theorem loadSite_other (u : State) (n : Nat) (cores : List (Nat × List RoleImage)) (placed : List Nat) (digest : BitVec 384) (payload : List Byte)
    (h : n ∉ placed ∨ (u.site n).state ≠ .named) : u.loadSite n cores placed digest payload = u := by
  unfold State.loadSite
  rw [if_pos]
  rcases h with h | h <;> simp [h]

theorem loadSite_named (u : State) (n : Nat) (cores : List (Nat × List RoleImage)) (placed : List Nat) (digest : BitVec 384) (payload : List Byte)
    (hn : n ∈ placed) (hs : (u.site n).state = .named) : u.loadSite n cores placed digest payload = if sha384 payload == digest then
      ((cores.filter (fun p => siteOf p.1 == n)).foldl (fun s p => s.modCore p.1 (fun k => { k with roles := p.2, placed := true })) u).modSite n
        (fun t => { t with state := .loaded, image := true })
      else u.fenceSite n := by
  unfold State.loadSite
  rw [if_neg (by simp [hn, hs])]

/-- The packet goes on to the children of its site in the boot tree. -/
def State.passOn (v : State) (d : Nat) (f : Flight) (tree : List (Nat × Nat)) : State :=
  ((tree.filter (fun p => p.1 == f.dsite)).foldl (fun v p => v.inject .system (.proc d) f.dsite f.part (.coords p.2) f.body) v).settleLoads

theorem exec_sitePacket_taken (s : State) (fid d : Nat) (f : Flight) (cores : List (Nat × List RoleImage)) (placed : List Nat) (tree : List (Nat × Nat))
    (digest : BitVec 384) (payload : List Byte) (h : s.takes fid f) (hs : f.src = .proc d) (hb : f.body = .sitePacket cores placed tree digest payload) :
    exec (.sitePacket fid) s = .next (((s.dropFlight fid).loadSite f.dsite cores placed digest payload).passOn d f tree) := by
  rw [exec_sitePacket]
  unfold execSitePacket
  rw [arrivedFrom_of_takes h, hs, hb]
  dsimp only
  rw [withPacket_of_takes h]
  unfold State.passOn
  rw [hb]; rfl

/-! ## LOAD (R48, R393, R394) -/

/-- Sites of a container's boot tree that no other one sends to. -/
def treeRoots (tree : List (Nat × Nat)) : List Nat := ((tree.map (·.1)).eraseDups).filter (fun n => !tree.any (fun p => p.2 == n))

/-- A boot tree is bad: a site has two parents, or a placed site is not below a root. -/
def treeBad (placed : List Nat) (tree : List (Nat × Nat)) : Bool :=
  tree.any (fun p => tree.any (fun q => p.2 == q.2 && p.1 != q.1)) || placed.any (fun n => !(reachedDown tree (treeRoots tree) 528).contains n)

/-- The placed sites of a container. -/
def State.placedSites (w : State) (part : Nat) (rs : List CRec) : List Nat := ((w.placedCores part rs).map (fun p => siteOf p.1)).eraseDups

/-- A container has a boot tree. -/
def hasTree (rs : List CRec) : Bool := rs.any (fun r => r.ty == 6)

section
variable (s : State) (proc : Nat) (part : BitVec 4) (pa : BitVec 43) (dirs : List (BitVec 64)) (hp : proc < 4)
include hp

theorem exec_load_charged_no (v : State) (h : s.chargeLink proc part.toNat pa.toNat (dataFlits (8 * (1 + dirs.length))) = (v, false)) :
    exec (.load proc part pa dirs) s = .next (v.report (.refused proc 0x24)) := by
  rw [exec_load]
  unfold execLoad
  rw [if_neg (by omega), h]

variable (v : State) (h : s.chargeLink proc part.toNat pa.toNat (dataFlits (8 * (1 + dirs.length))) = (v, true))
include h

theorem exec_load_unread (w : State) (hc : v.containerAt proc part.toNat pa.toNat = (w, none)) :
    exec (.load proc part pa dirs) s = .next (w.report (.loadDone proc false)) := by
  rw [exec_load]
  unfold execLoad
  rw [if_neg (by omega), h]
  dsimp only
  rw [hc]

variable (w : State) (l : List Byte) (hc : v.containerAt proc part.toNat pa.toNat = (w, some l))
include hc

theorem exec_load_unverified (ho : openContainer w.keys l = none) : exec (.load proc part pa dirs) s = .next (w.report (.loadDone proc false)) := by
  rw [exec_load]
  unfold execLoad
  rw [if_neg (by omega), h]
  dsimp only
  rw [hc]
  dsimp only
  rw [ho]

variable (rs : List CRec) (ho : openContainer w.keys l = some rs)
include ho

/-- A LOAD whose container is verified. -/
theorem exec_load_verified : exec (.load proc part pa dirs) s = .next (
    if hasTree rs && treeBad (w.placedSites part.toNat rs) (w.bootTree part.toNat rs) then w.report (.loadDone proc false)
    else match w.writeSegments proc part.toNat dirs (segmentBytes rs) with
      | (s, false) => s.report (.loadDone proc false)
      | (s, true) => s.sendImages proc part l rs (w.placedCores part.toNat rs) (w.bootTree part.toNat rs)
        (if hasTree rs then treeRoots (w.bootTree part.toNat rs) else w.placedSites part.toNat rs)) := by
  rw [exec_load]
  unfold execLoad
  rw [if_neg (by omega), h]
  dsimp only
  rw [hc]
  dsimp only
  rw [ho]; rfl

theorem exec_load_badTree (hb : (hasTree rs && treeBad (w.placedSites part.toNat rs) (w.bootTree part.toNat rs)) = true) :
    exec (.load proc part pa dirs) s = .next (w.report (.loadDone proc false)) := by
  rw [exec_load_verified s proc part pa dirs hp v h w l hc rs ho, if_pos hb]

variable (hb : (hasTree rs && treeBad (w.placedSites part.toNat rs) (w.bootTree part.toNat rs)) = false) (u : State)
include hb

theorem exec_load_unwritten (hw : w.writeSegments proc part.toNat dirs (segmentBytes rs) = (u, false)) :
    exec (.load proc part pa dirs) s = .next (u.report (.loadDone proc false)) := by
  rw [exec_load_verified s proc part pa dirs hp v h w l hc rs ho, if_neg (by rw [hb]; exact Bool.false_ne_true), hw]

theorem exec_load_done (hw : w.writeSegments proc part.toNat dirs (segmentBytes rs) = (u, true)) :
    exec (.load proc part pa dirs) s = .next (u.sendImages proc part l rs (w.placedCores part.toNat rs) (w.bootTree part.toNat rs)
      (if hasTree rs then treeRoots (w.bootTree part.toNat rs) else w.placedSites part.toNat rs)) := by
  rw [exec_load_verified s proc part pa dirs hp v h w l hc rs ho, if_neg (by rw [hb]; exact Bool.false_ne_true), hw]

end

/-! ## UNLOAD (R54, R390) -/

/-- A LOADED site whose images are discarded. -/
def State.unloaded (u : State) (n : Nat) : State :=
  ((u.coresOf n).foldl (fun s c => s.modCore c (fun k => { k with roles := [], placed := false })) u).modSite n (fun t => { t with state := .named, image := false })

/-- What UNLOAD does at a site. -/
def State.unloadSite (n : Nat) (u : State) : State := if (u.site n).state == .loaded then u.unloaded n else u

/-- UNLOAD of one name. -/
def State.unloadName (s : State) (proc : Nat) (part : BitVec 4) (name : BitVec 12) : State := s.siteCommand ⟨proc, part, name, none⟩ State.unloadSite

theorem exec_unload_eq (s : State) (proc : Nat) (part : BitVec 4) (names : List (BitVec 12)) (hp : proc < 4) :
    exec (.unload proc part names) s = .next (names.foldl (fun s name => s.unloadName proc part name) s) := by
  rw [exec_unload]
  unfold execUnload
  rw [if_neg (by omega)]; rfl

/-! ## ATTEST (R396) -/

theorem ofBytes_take (l : List Byte) (k : Nat) : ofBytes (l.take k) = ofBytes l % 256 ^ k := by
  induction k generalizing l with
  | zero => exact (Nat.mod_one _).symm
  | succ k ih =>
    cases l with
    | nil => exact (Nat.zero_mod _).symm
    | cons b l =>
      show b.toNat + 256 * ofBytes (l.take k) = (b.toNat + 256 * ofBytes l) % 256 ^ (k + 1)
      have hb : b.toNat < 256 := b.isLt
      rw [ih, show 256 ^ (k + 1) = 256 * 256 ^ k from Nat.pow_succ', Nat.mod_mul, Nat.add_mul_mod_self_left, Nat.mod_eq_of_lt hb,
        Nat.add_mul_div_left _ _ (by omega), Nat.div_eq_of_lt hb, Nat.zero_add]

theorem ofBytes_drop (l : List Byte) (i : Nat) : ofBytes (l.drop i) = ofBytes l / 256 ^ i := by
  induction i generalizing l with
  | zero => exact (Nat.div_one _).symm
  | succ i ih =>
    cases l with
    | nil => exact (Nat.zero_div _).symm
    | cons b l =>
      have hb : b.toNat < 256 := b.isLt
      show ofBytes (l.drop i) = (b.toNat + 256 * ofBytes l) / 256 ^ (i + 1)
      rw [ih, show 256 ^ (i + 1) = 256 * 256 ^ i from Nat.pow_succ', ← Nat.div_div_eq_div_mul, Nat.add_mul_div_left _ _ (by omega), Nat.div_eq_of_lt hb, Nat.zero_add]

theorem bytesOf_ofBytes (l : List Byte) : bytesOf l.length (ofBytes l) = l := by
  induction l with
  | nil => rfl
  | cons b l ih =>
    have hb : b.toNat < 256 := b.isLt
    show BitVec.ofNat 8 (b.toNat + 256 * ofBytes l) :: bytesOf l.length ((b.toNat + 256 * ofBytes l) / 256) = b :: l
    rw [Nat.add_mul_div_left _ _ (by omega), Nat.div_eq_of_lt hb, Nat.zero_add, ih]
    congr 1
    exact BitVec.eq_of_toNat_eq ((BitVec.toNat_ofNat ..).trans (by omega))

theorem pow_256 (k : Nat) : 256 ^ k = 2 ^ (8 * k) := by rw [show 256 = 2 ^ 8 from rfl, ← Nat.pow_mul]

/-- Bits of the number of a byte string are the number of its bytes there. -/
theorem toNat_extract_ofBytes (l : List Byte) (w i k : Nat) (h : 8 * (i + k) ≤ w) :
    ((BitVec.ofNat w (ofBytes l)).extractLsb' (8 * i) (8 * k)).toNat = byteField l i k := by
  unfold byteField
  rw [ofBytes_take, ofBytes_drop, BitVec.extractLsb'_toNat, BitVec.toNat_ofNat, pow_256, pow_256]
  have hw : 2 ^ w = 2 ^ (8 * i) * (2 ^ (8 * k) * 2 ^ (w - 8 * (i + k))) := by
    rw [← Nat.pow_add, ← Nat.pow_add]
    congr 1
    omega
  rw [Nat.shiftRight_eq_div_pow, hw, Nat.mod_mul_right_div_self, Nat.mod_mul_right_mod]

/-- A field of a byte string that holds a bit vector, read from the number of the string. -/
theorem extract_bytesOf (l : List Byte) (w i k : Nat) (x : BitVec (8 * k)) (h : 8 * (i + k) ≤ w) (hf : byteField l i k = x.toNat % 256 ^ k) :
    (BitVec.ofNat w (ofBytes l)).extractLsb' (8 * i) (8 * k) = x :=
  BitVec.eq_of_toNat_eq ((toNat_extract_ofBytes l w i k h).trans (hf.trans (by rw [pow_256, Nat.mod_eq_of_lt x.isLt])))

/-- The signed part of an attestation report. -/
def attestSigned (nonce : BitVec 384) : List Byte :=
  bytesOf 16 Config.partAndSerial.toNat ++ (bytesOf 48 (Config.firmwareDigest 0).toNat ++ (bytesOf 48 (Config.firmwareDigest 1).toNat ++
    (bytesOf 48 (Config.firmwareDigest 2).toNat ++ (bytesOf 48 (Config.firmwareDigest 3).toNat ++ bytesOf 48 nonce.toNat))))

theorem length_attestSigned (nonce : BitVec 384) : (attestSigned nonce).length = 256 := by
  unfold attestSigned
  simp only [List.length_append, length_bytesOf]

/-- The whole report: the signed part and the signature. -/
def attestBytes (nonce : BitVec 384) : List Byte := attestSigned nonce ++ bytesOf 96 (Config.deviceSignature (attestSigned nonce)).toNat

theorem exec_attest_eq (s : State) (proc : Nat) (nonce : BitVec 384) (hp : proc < 4) :
    exec (.attest proc nonce) s = .next (s.report (.attestation proc (BitVec.ofNat 2816 (ofBytes (attestBytes nonce))))) := by
  have e : bytesOf 16 Config.partAndSerial.toNat ++ (List.range 4).flatMap (fun d => bytesOf 48 (Config.firmwareDigest d).toNat) ++ bytesOf 48 nonce.toNat =
      attestSigned nonce := by
    unfold attestSigned
    simp only [List.range_succ, List.range_zero, List.nil_append, List.flatMap_append, List.flatMap_singleton, List.append_assoc]
  rw [exec_attest]
  unfold execAttest
  dsimp only
  rw [if_neg (by omega), e]; rfl

/-- The fields of the report (R396). -/
theorem attestBytes_fields (nonce : BitVec 384) : byteField (attestBytes nonce) 0 16 = Config.partAndSerial.toNat % 256 ^ 16 ∧
    (∀ d, d < 4 → byteField (attestBytes nonce) (16 + 48 * d) 48 = (Config.firmwareDigest d).toNat % 256 ^ 48) ∧
    byteField (attestBytes nonce) 208 48 = nonce.toNat % 256 ^ 48 ∧
    byteField (attestBytes nonce) 256 96 = (Config.deviceSignature (attestSigned nonce)).toNat % 256 ^ 96 := by
  have head (n v : Nat) (r : List Byte) : byteField (bytesOf n v ++ r) 0 n = v % 256 ^ n := by
    rw [byteField_bytesOf _ _ _ _ _ (by omega), Nat.pow_zero, Nat.div_one]
  have skip (n v i k : Nat) (r : List Byte) : byteField (bytesOf n v ++ r) (n + i) k = byteField r i k := by
    rw [byteField_after _ _ _ _ _ (by omega), Nat.add_sub_cancel_left]
  unfold attestBytes attestSigned
  simp only [List.append_assoc]
  refine ⟨head .., fun d hd => ?_, ?_, ?_⟩
  · interval_cases d
    · exact (skip 16 _ 0 48 _).trans (head ..)
    · exact (skip 16 _ 48 48 _).trans ((skip 48 _ 0 48 _).trans (head ..))
    · exact (skip 16 _ 96 48 _).trans ((skip 48 _ 48 48 _).trans ((skip 48 _ 0 48 _).trans (head ..)))
    · exact (skip 16 _ 144 48 _).trans ((skip 48 _ 96 48 _).trans ((skip 48 _ 48 48 _).trans ((skip 48 _ 0 48 _).trans (head ..))))
  · exact (skip 16 _ 192 48 _).trans ((skip 48 _ 144 48 _).trans ((skip 48 _ 96 48 _).trans ((skip 48 _ 48 48 _).trans ((skip 48 _ 0 48 _).trans (head ..)))))
  · exact (skip 16 _ 240 96 _).trans ((skip 48 _ 192 96 _).trans ((skip 48 _ 144 96 _).trans ((skip 48 _ 96 96 _).trans ((skip 48 _ 48 96 _).trans
      ((skip 48 _ 0 96 _).trans ((congrArg (byteField · 0 96) (List.append_nil _).symm).trans (head ..)))))))

/-- What is signed is read back from the report. -/
theorem bytesOf_attest (nonce : BitVec 384) :
    bytesOf 256 ((BitVec.ofNat 2816 (ofBytes (attestBytes nonce))).extractLsb' (8 * 0) (8 * 256)).toNat = attestSigned nonce := by
  rw [toNat_extract_ofBytes _ _ _ _ (by omega)]
  have e : ((attestBytes nonce).drop 0).take 256 = attestSigned nonce := by
    unfold attestBytes
    rw [List.drop_zero, List.take_append_of_le_length (by rw [length_attestSigned]), List.take_of_length_le (by rw [length_attestSigned])]
  unfold byteField
  rw [e]
  exact length_attestSigned nonce ▸ bytesOf_ofBytes (attestSigned nonce)

/-- Settles O47, by the rules above for each event and command. -/
theorem loadingSites : Obligations.LoadingSites := by
  unfold Obligations.LoadingSites
  refine ⟨fun s fid d f cores placed tree digest payload h hs hb => ?_, fun s proc part pa dirs hp => ?_, fun s proc part name rest hp => ?_, fun s proc nonce hp => ?_⟩
  · intro u n on
    rw [exec_sitePacket_taken s fid d f cores placed tree digest payload h hs hb]
    have hon (v : State) : v.passOn d f tree = on v := by
      unfold State.passOn
      rw [hb]
    rw [hon]
    refine ⟨fun hn => by rw [loadSite_other _ _ _ _ _ _ hn], fun hn hst => ?_⟩
    rw [loadSite_named _ _ _ _ _ _ hn hst]
    exact ⟨fun hd => by rw [if_pos (beq_iff_eq.mpr hd)], fun hd => by rw [if_neg (mt beq_iff_eq.mp hd)]⟩
  · intro refused
    refine ⟨exec_load_charged_no s proc part pa dirs hp, fun v hv => ⟨exec_load_unread s proc part pa dirs hp v hv, fun w l hc => ?_⟩⟩
    refine ⟨exec_load_unverified s proc part pa dirs hp v hv w l hc, fun rs ho => ?_⟩
    intro cores placed tree hasTree roots treeBad
    exact ⟨exec_load_badTree s proc part pa dirs hp v hv w l hc rs ho, fun hb => ⟨exec_load_unwritten s proc part pa dirs hp v hv w l hc rs ho hb,
      exec_load_done s proc part pa dirs hp v hv w l hc rs ho hb⟩⟩
  · intro out
    have hout : out = .next (s.unloadName proc part name) := exec_unload_eq s proc part [name] hp
    rw [hout]
    refine ⟨exec_unload_eq s proc part [] hp, fun u hu => ?_, fun v hv => ?_, fun v hv => ⟨fun hn => ?_, fun n hn => ⟨fun u hu => ?_, fun u hu => ?_⟩⟩⟩
    · cases hu
      rw [exec_unload_eq s proc part _ hp, exec_unload_eq _ proc part _ hp]; rfl
    · exact congrArg _ (siteCommand_charged_no s ⟨proc, part, name, none⟩ _ hp v hv)
    · exact congrArg _ (siteCommand_unfound s ⟨proc, part, name, none⟩ _ hp v hv hn)
    · exact congrArg _ (siteCommand_unreached s ⟨proc, part, name, none⟩ _ hp v hv n u hn hu)
    · have hd : s.unloadName proc part name = State.unloadSite n u := siteCommand_done s ⟨proc, part, name, none⟩ _ hp v hv n u hn hu
      rw [hd]
      unfold State.unloadSite
      exact ⟨fun h => congrArg _ (if_pos (beq_iff_eq.mpr h)), fun h => congrArg _ (if_neg (mt beq_iff_eq.mp h))⟩
  · obtain ⟨h1, h2, h3, h4⟩ := attestBytes_fields nonce
    refine ⟨_, exec_attest_eq s proc nonce hp, extract_bytesOf _ 2816 0 16 _ (by omega) h1, fun d hd => ?_, extract_bytesOf _ 2816 208 48 _ (by omega) h3, ?_⟩
    · have e : 128 + 384 * d = 8 * (16 + 48 * d) := by omega
      rw [e]
      exact extract_bytesOf _ 2816 (16 + 48 * d) 48 _ (by omega) (h2 d hd)
    · exact (extract_bytesOf _ 2816 256 96 _ (by omega) h4).trans (congrArg Config.deviceSignature (bytesOf_attest nonce).symm)

end Sys2Proof.Machine
end

section
/-! Notifications, TRESUME, TKILL and the resumption of a slot (O40; R48, R348, R359, R360, R374, R390). -/

namespace Sys2Proof.Machine

/-! ## Notifications (R348) -/

section
variable {s : State} {fid c : Nat} {f : Flight} {w : Word} {fwd : Bool} (h : s.takes fid f) (hs : f.src = .core c) (hb : f.body = .note w fwd)
include h hs hb

theorem exec_notification_taken : exec (.notification fid) s = .next (
    if ((s.dropFlight fid).core f.destCore).notes.length < 64 then
      (s.dropFlight fid).modCore f.destCore (fun k => { k with notes := queueNote k.notes { word := w, queued := k.cycle } })
    else match (s.dropFlight fid).notice f with
      | (v, ok) => { v with flights := v.flights ++ [{ f with st := if ok then .waiting ((v.core c).cycle + 1024) else .lost, pos := f.srcSite, phase := false }] }) := by
  have hfrom : s.arrivedFrom fid = some (.core c, .note w fwd) := by rw [arrivedFrom_of_takes h, hs, hb]
  rw [exec_notification]
  unfold execNotification
  rw [hfrom]
  dsimp only
  rw [withPacket_of_takes h]; rfl

theorem exec_notification_queued (hl : ((s.dropFlight fid).core f.destCore).notes.length < 64) : exec (.notification fid) s =
    .next ((s.dropFlight fid).modCore f.destCore (fun k => { k with notes := queueNote k.notes { word := w, queued := k.cycle } })) := by
  rw [exec_notification_taken h hs hb, if_pos hl]

theorem exec_notification_full (hl : 64 ≤ ((s.dropFlight fid).core f.destCore).notes.length) (v : State) (ok : Bool) (hv : (s.dropFlight fid).notice f = (v, ok)) :
    exec (.notification fid) s = .next { v with
      flights := v.flights ++ [{ f with st := if ok then .waiting ((v.core c).cycle + 1024) else .lost, pos := f.srcSite, phase := false }] } := by
  rw [exec_notification_taken h hs hb, if_neg (by omega), hv]

end

theorem exec_noteRetry_waiting (s : State) (fid t c : Nat) (f : Flight) (h : s.findFlight fid = some f) (ht : f.st = .waiting t) (hs : f.src = .core c) :
    exec (.noteRetry fid) s = .next (if (s.core c).cycle < t then s else ((s.count c 28).reroute fid).settleHeld f.srcSite) := by
  rw [exec_noteRetry]
  unfold execNoteRetry
  rw [h]
  dsimp only
  rw [ht, hs]

theorem queueNote_last (l : List Note) (n : Note) (h : wf n.word 60 4 ≠ 2) : queueNote l n = l ++ [n] := if_neg h

/-- A notification of kind 2 stands behind the others of its kind that are at the head, before all that follow. -/
theorem queueNote_ahead (l : List Note) (n : Note) (h : wf n.word 60 4 = 2) : ∃ i, queueNote l n = l.take i ++ n :: l.drop i ∧
    (∀ x ∈ l.take i, wf x.word 60 4 = 2) ∧ ∀ x, (l.drop i).head? = some x → wf x.word 60 4 ≠ 2 := by
  let p : Note → Bool := fun x => wf x.word 60 4 == 2
  have hl : l = l.takeWhile p ++ l.dropWhile p := List.takeWhile_append_dropWhile.symm
  have htake : l.take (l.takeWhile p).length = l.takeWhile p := (congrArg (List.take _) hl).trans (List.take_left ..)
  have hdrop : l.drop (l.takeWhile p).length = l.dropWhile p := (congrArg (List.drop _) hl).trans (List.drop_left ..)
  refine ⟨(l.takeWhile p).length, ?_, fun x hx => ?_, fun x hx => ?_⟩
  · rw [htake, hdrop]
    exact (if_pos h).trans (by simp [p])
  · rw [htake] at hx
    simpa [p] using List.mem_takeWhile_imp hx
  · rw [hdrop] at hx
    have hn := List.head?_dropWhile_not p l
    rw [hx] at hn
    simpa [p] using hn

/-! ## TRESUME and TKILL (R359, R360) -/

/-- The state after TRESUME or TKILL has given its command to the memory port. -/
def State.commandSent (s : State) (b : Body) (name : BitVec 16) : State :=
  (s.bump.modMe (fun t => { t with missScope := none })).portSend (s.bump.releaseWaits 3) [] s.nextId b (.name name)

theorem slotCommand_free (s : State) (rs1 : BitVec 5) (kill : Bool) (hf : s.releaseFree) : slotCommand s rs1 kill = .done (s.commandSent
    (if kill then .tkill (wf (s.xv rs1) 0 4) s.nextId s.curSlot s.me.epoch ((s.xv rs1).setWidth 20)
      else .tresume (wf (s.xv rs1) 0 4) s.nextId s.curSlot s.me.epoch ((s.xv rs1).setWidth 20)) ((s.xv rs1).extractLsb' 4 16)) := by
  unfold slotCommand
  rw [releaseCheck_free _ _ hf]
  simp only [me_modMe]
  rfl

section
variable (s : State) (rs1 : BitVec 5) (hn : s.noRepeat) (hk : s.me.role = .k) (h1 : s.readable .x rs1.toNat) (hf : s.releaseFree)
include hn hk h1 hf

theorem exec_tresume_sent : exec (.tresume rs1) s = .next ((s.commandSent
    (.tresume (wf (s.xv rs1) 0 4) s.nextId s.curSlot s.me.epoch ((s.xv rs1).setWidth 20)) ((s.xv rs1).extractLsb' 4 16)).goneTo (s.me.pc + 4)) := by
  rw [exec_tresume]
  exact issue_done _ _ s _ (fun _ => hk) (by simp) (by simp [onlyK, hk]) hn (by rw [examine_sx _ _ _ h1, examine_nil]) (arrayHolds_nil _ _ rfl)
    (slotCommand_free s rs1 false hf)

theorem exec_tkill_sent : exec (.tkill rs1) s = .next ((s.commandSent
    (.tkill (wf (s.xv rs1) 0 4) s.nextId s.curSlot s.me.epoch ((s.xv rs1).setWidth 20)) ((s.xv rs1).extractLsb' 4 16)).goneTo (s.me.pc + 4)) := by
  rw [exec_tkill]
  exact issue_done _ _ s _ (fun _ => hk) (by simp) (by simp [onlyK, hk]) hn (by rw [examine_sx _ _ _ h1, examine_nil]) (arrayHolds_nil _ _ rfl)
    (slotCommand_free s rs1 true hf)

end

theorem resumeSlot_eq (u : State) (c n : Nat) : u.resumeSlot c n =
    if (u.slot c n).state = .frozen ∧ (u.slot c n).underSave = false ∧ (u.slot c n).doneWait = false then
      (u.trace c n 3 0 (u.slot c n).pc 0).modSlot c n
        (fun t => { t with state := if t.park.isSome then .parked else .running, parkCount := 0, skipBreak := t.brk != 0 })
    else u := by
  unfold State.resumeSlot
  exact if_congr (by simp [and_assoc]) rfl rfl

/-- A slot that TKILL ends. -/
def Slot.killable (t : Slot) : Prop := (t.state = .running ∨ t.state = .parked ∨ t.state = .frozen) ∧ t.underSave = false ∧ t.doneWait = false

theorem killSlot_of_not (u : State) (c n : Nat) (h : ¬(u.slot c n).killable) : u.killSlot c n = u := by
  have hbusy : (u.slot c n).state = .running ∨ (u.slot c n).state = .parked ∨ (u.slot c n).state = .frozen →
      ((u.slot c n).underSave || (u.slot c n).doneWait) = true := fun hst => by
    by_contra hfree
    exact h ⟨hst, by simpa using hfree⟩
  unfold State.killSlot
  dsimp only
  split
  · next e => exact if_pos (hbusy (.inl e))
  · next e => exact if_pos (hbusy (.inr (.inl e)))
  · next e => exact if_pos (hbusy (.inr (.inr e)))
  · rfl

theorem killSlot_of_free (u : State) (c n : Nat) (h : (u.slot c n).killable) : u.killSlot c n =
    if ((((u.trace c n 3 0 (u.slot c n).pc 1).endResv c n).core c).array.any (fun a => a.slot == n)) = true then
      ((u.trace c n 3 0 (u.slot c n).pc 1).endResv c n).modSlot c n (fun t => { t with doneWait := true })
    else ((u.trace c n 3 0 (u.slot c n).pc 1).endResv c n).becomeEmpty c n := by
  obtain ⟨hst, hsave, hdone⟩ := h
  unfold State.killSlot
  dsimp only
  rcases hst with e | e | e <;> rw [e] <;> exact if_neg (by simp [hsave, hdone])

section
variable {s : State} {fid n i issuer epoch : Nat} {f : Flight} {x : BitVec 20} (h : s.takes fid f)
include h

theorem exec_tresumeApply_taken (hb : f.body = .tresume n i issuer epoch x) : exec (.tresumeApply fid) s = .next ((s.dropFlight fid).resumeSlot f.destCore n) := by
  rw [exec_tresumeApply]
  unfold execTresumeApply State.arrivedBody
  rw [arrivedPacket_of_takes h, Option.map_some, hb]
  dsimp only
  rw [withPacket_of_takes h]

theorem exec_tkillApply_taken (hb : f.body = .tkill n i issuer epoch x) : exec (.tkillApply fid) s = .next ((s.dropFlight fid).killSlot f.destCore n) := by
  rw [exec_tkillApply]
  unfold execTkillApply State.arrivedBody
  rw [arrivedPacket_of_takes h, Option.map_some, hb]
  dsimp only
  rw [withPacket_of_takes h]

end

/-! ## SLOT_RESUME (R48, R374, R390) -/

/-- The site that SLOT_RESUME's name is for. -/
def resumeTarget (core : NodeTarget 16) : SiteTarget := ⟨core.proc, core.part, core.name.extractLsb' 4 12, none⟩

/-- SLOT_RESUME at its site, for a core and a slot. -/
def State.resumeHalted (s : State) (proc n c slot : Nat) : State :=
  if !s.exposed c then s.sysRefuse proc n 0x20
  else if (s.slot c slot).state == .halted && (s.site n).state != .fenced then s.modSlot c slot (fun t => { t with state := t.before })
  else s

theorem exec_slotResume_eq (s : State) (core : NodeTarget 16) (slot : BitVec 4) : exec (.slotResume core slot) s =
    .next (s.siteCommand (resumeTarget core) (fun n s => s.resumeHalted core.proc n (16 * n + (core.name.setWidth 4).toNat) slot.toNat)) := rfl

section
variable (s : State) (proc n c slot : Nat)

theorem resumeHalted_hidden (h : s.exposed c = false) : s.resumeHalted proc n c slot = s.sysRefuse proc n 0x20 := if_pos (by simp [h])

theorem resumeHalted_halted (h : s.exposed c = true) (h1 : (s.slot c slot).state = .halted) (h2 : (s.site n).state ≠ .fenced) :
    s.resumeHalted proc n c slot = s.modSlot c slot (fun t => { t with state := t.before }) :=
  (if_neg (by simp [h])).trans (if_pos (by simp [h1, h2]))

theorem resumeHalted_other (h : s.exposed c = true) (h1 : (s.slot c slot).state ≠ .halted ∨ (s.site n).state = .fenced) : s.resumeHalted proc n c slot = s :=
  (if_neg (by simp [h])).trans (if_neg (by simpa [imp_iff_not_or] using h1))

end

/-- Settles O40, by the rules above for each instruction and event. -/
theorem notificationsAndCommands : Obligations.NotificationsAndCommands := by
  unfold Obligations.NotificationsAndCommands
  refine ⟨⟨fun s fid c f w fwd h hs hb => ⟨exec_notification_queued h hs hb, fun hl => ⟨fun v => exec_notification_full h hs hb hl v true,
    fun v => exec_notification_full h hs hb hl v false⟩⟩, fun s fid t c f h ht hs => ?_, fun l n => ⟨queueNote_last l n, queueNote_ahead l n⟩⟩,
    fun s rs1 hn hk h1 hf => ⟨exec_tresume_sent s rs1 hn hk h1 hf, exec_tkill_sent s rs1 hn hk h1 hf⟩,
    fun s fid n i issuer epoch f x h => ⟨fun hb => ?_, fun hb => ?_⟩, fun s proc part core slot hp => ?_⟩
  · rw [exec_noteRetry_waiting s fid t c f h ht hs]
    exact ⟨fun hl => by rw [if_pos hl], fun hl => by rw [if_neg (by omega)]⟩
  · rw [exec_tresumeApply_taken h hb, resumeSlot_eq]
    exact ⟨fun hf => by rw [if_pos hf], fun hf => by rw [if_neg hf]⟩
  · rw [exec_tkillApply_taken h hb]
    refine ⟨fun hf ha => ?_, fun hf ha => ?_, fun hf => by rw [killSlot_of_not _ _ _ hf]⟩
    · rw [killSlot_of_free _ _ _ hf, if_neg (by simpa [Option.any_eq_true] using ha)]
    · rw [killSlot_of_free _ _ _ hf, if_pos (by simpa [Option.any_eq_true] using ha)]
  · have hr := exec_slotResume_eq s ⟨proc, part, core⟩ slot
    refine ⟨fun v hv => ?_, fun v hv => ⟨fun hf => ?_, fun n hf => ⟨fun u ht => ?_, fun u ht => ?_⟩⟩⟩
    · rw [hr, siteCommand_charged_no s (resumeTarget ⟨proc, part, core⟩) _ hp v hv]; rfl
    · rw [hr, siteCommand_unfound s (resumeTarget ⟨proc, part, core⟩) _ hp v hv hf]; rfl
    · rw [hr, siteCommand_unreached s (resumeTarget ⟨proc, part, core⟩) _ hp v hv n u hf ht]; rfl
    · rw [hr, siteCommand_done s (resumeTarget ⟨proc, part, core⟩) _ hp v hv n u hf ht]
      exact ⟨fun he => by rw [resumeHalted_hidden _ _ _ _ _ he], fun he h1 h2 => by rw [resumeHalted_halted _ _ _ _ _ he h1 h2],
        fun he h1 => by rw [resumeHalted_other _ _ _ _ _ he h1]⟩

end Sys2Proof.Machine
end

section
/-! Packets at routers (O42; R32, R35, R36, R38 to R44, R288, R443). -/

namespace Sys2Proof.Machine

theorem findFlight_fid {s : State} {fid : Nat} {f : Flight} (h : s.findFlight fid = some f) : f.fid = fid := by
  simpa using List.find?_some h

/-! ## Hops (R35, R36, R40, R54) -/

/-- A packet as the router where it stands sees it: at its waypoint it turns to the YX mesh. -/
def Flight.passing (f : Flight) : Flight := if f.via = some f.pos ∧ f.phase = false then { f with phase := true, yx := true } else f

/-- Where a packet goes next: to its waypoint until that is passed, then to its site. -/
def Flight.goal (f : Flight) : Nat := match f.via, f.passing.phase with | some w, false => w | _, _ => f.dsite

/-- The direction of a packet's next hop. -/
def Flight.nextDir (f : Flight) : Nat := hopDir f.pos f.goal f.passing.yx

/-- A waypoint changes nothing but the mesh and the mark that it is passed. -/
theorem passing_keeps {β : Type} (g : Flight → β) (hg : ∀ (f : Flight) (a b : Bool), g { f with phase := a, yx := b } = g f) (f : Flight) : g f.passing = g f := by
  unfold Flight.passing
  split
  · exact hg ..
  · rfl

theorem passing_pos (f : Flight) : f.passing.pos = f.pos := passing_keeps Flight.pos (fun _ _ _ => rfl) f
theorem passing_via (f : Flight) : f.passing.via = f.via := passing_keeps Flight.via (fun _ _ _ => rfl) f
theorem passing_dsite (f : Flight) : f.passing.dsite = f.dsite := passing_keeps Flight.dsite (fun _ _ _ => rfl) f
theorem passing_body (f : Flight) : f.passing.body = f.body := passing_keeps Flight.body (fun _ _ _ => rfl) f
theorem passing_src (f : Flight) : f.passing.src = f.src := passing_keeps Flight.src (fun _ _ _ => rfl) f
theorem passing_srcName (f : Flight) : f.passing.srcName = f.srcName := passing_keeps Flight.srcName (fun _ _ _ => rfl) f
theorem passing_srcSite (f : Flight) : f.passing.srcSite = f.srcSite := passing_keeps Flight.srcSite (fun _ _ _ => rfl) f

theorem teach_passing (f : Flight) (n : Nat) : ({ f.passing with pos := n } : Flight).teach =
    ⟨f.srcName, f.srcSite, f.passing.yx, if f.passing.phase then f.via else none⟩ := by
  unfold Flight.teach
  dsimp only
  rw [passing_srcName, passing_srcSite, passing_via]

theorem hop_eq (s : State) (f : Flight) (h : s.forwards f.pos = true) : s.hop f =
    if f.pos == f.goal then s.land f.passing
    else match neighbour f.pos f.nextDir with
      | none => s
      | some n =>
        if s.linkGood f.pos f.nextDir f.passing.yx then
          ((s.setFlight { f.passing with pos := n }).countFlits f.pos f.passing.yx f.body.flits).learn n f.passing.teach
        else (s.setFlight { f.passing with st := .blocked }).countRouter f.pos 3 := by
  have hp : (if f.via == some f.pos && !f.phase then { f with phase := true, yx := true } else f) = f.passing := if_congr (by simp) rfl rfl
  unfold State.hop Flight.nextDir Flight.goal
  rw [if_neg (by simp [h]), hp]
  dsimp only
  rw [passing_pos, passing_via, passing_dsite, passing_body] <;> rfl

/-- A router that does not forward yet holds a packet (R54). -/
theorem hop_held (s : State) (f : Flight) (h : s.forwards f.pos = false) : s.hop f = s := if_pos (by simp [h])

section
variable (s : State) (f : Flight) (h : s.forwards f.pos = true)
include h

theorem hop_there (hp : f.pos = f.goal) : s.hop f = s.land f.passing := by
  rw [hop_eq s f h, if_pos (by simp [← hp])]

variable (hp : f.pos ≠ f.goal) (n : Nat) (hn : neighbour f.pos f.nextDir = some n)
include hp hn

theorem hop_over (hl : s.linkGood f.pos f.nextDir f.passing.yx = true) : s.hop f =
    ((s.setFlight { f.passing with pos := n }).countFlits f.pos f.passing.yx f.body.flits).learn n
      ⟨f.srcName, f.srcSite, f.passing.yx, if f.passing.phase then f.via else none⟩ := by
  rw [hop_eq s f h, if_neg (by simpa using hp), hn, ← teach_passing f n]
  exact if_pos hl

theorem hop_blocked (hl : s.linkGood f.pos f.nextDir f.passing.yx = false) : s.hop f = (s.setFlight { f.passing with st := .blocked }).countRouter f.pos 3 := by
  rw [hop_eq s f h, if_neg (by simpa using hp), hn]
  exact if_neg (by simp [hl])

end

/-- The core whose cycle an arriving packet is marked with: the asker's for the answer of a steal. -/
def Flight.markCore (f : Flight) : Nat := match f.body with | .stealAns _ => f.src.clock | _ => f.destCore

/-- A packet that has arrived, in the state that its site gives it (R443). -/
def State.landed (s : State) (f : Flight) (core : Nat) : State :=
  (s.setFlight { f with st := arrivalState s f, arr := s.nextId, arrAt := (s.core core).cycle }).bump

theorem land_eq (s : State) (f : Flight) :
    s.land f = if arrivalState s f = .moved then (s.landed f f.markCore).countRouter f.dsite 4 else s.landed f f.markCore := if_congr beq_iff_eq rfl rfl

/-- The same core, of a packet that has passed its waypoint on the way. -/
def Flight.passingCore (f : Flight) : Nat := match f.body with | .stealAns _ => f.src.clock | _ => f.passing.destCore

theorem markCore_passing (f : Flight) : f.passing.markCore = f.passingCore := by
  unfold Flight.markCore Flight.passingCore
  rw [passing_body, passing_src]

theorem hop_lands (s : State) (f : Flight) (h : s.forwards f.pos = true) (hp : f.pos = f.goal) : s.hop f =
    if arrivalState s f.passing = .moved then (s.landed f.passing f.passingCore).countRouter f.dsite 4 else s.landed f.passing f.passingCore := by
  rw [hop_there s f h hp, land_eq, markCore_passing, passing_dsite]

/-- A packet is no replica whose receivers part here. -/
def Flight.undivided (f : Flight) : Prop :=
  ∀ ch cores sender bar bs last, f.body = .replica ch cores sender bar bs last → (replicaBranches f.pos f.yx cores).length ≤ 1

theorem forward_undivided (s : State) (f : Flight) (h : f.undivided) : s.forward f = s.hop f := by
  unfold State.forward
  split
  · next ch cores sender bar bs last e => exact if_neg (Nat.not_lt.mpr (h _ _ _ _ _ _ e))
  · rfl

theorem forward_divided {s : State} {f : Flight} {ch : Nat} {cores : List Nat} {sender : BitVec 16} {bar : BitVec 6} {bs : List (Nat × Byte)}
    {last : Option (List Nat × Option (BitVec 6) × Nat)} (hb : f.body = .replica ch cores sender bar bs last) (h : 1 < (replicaBranches f.pos f.yx cores).length) :
    s.forward f = s.replicate f (replicaBranches f.pos f.yx cores) := by
  unfold State.forward
  rw [hb]
  exact if_pos h

theorem exec_routerForward_moving (s : State) (fid : Nat) (f : Flight) (h : s.findFlight fid = some f) (hm : f.st = .moving) :
    exec (.routerForward fid) s = .next (if s.overtakes f then s else s.forward f) := by
  rw [exec_routerForward]
  unfold execRouterForward
  rw [h]
  dsimp only
  rw [hm]

/-- The route of a packet as its source router sees it now; one by coordinates keeps its mesh. -/
def State.routedNow (s : State) (f : Flight) : Routed :=
  let r := routePacket s f.cls f.src f.srcSite f.part.toNat f.dest
  match f.dest with | .coords _ => { r with yx := f.yx } | _ => r

/-- A packet waits at its source router for earlier ones, or at its port for room (R32, R38). -/
def State.waitsOn (s : State) (f : Flight) : Prop :=
  s.mustWait f (s.routedNow f) = true ∨ (f.st = .atPort ∧ s.nameUnknown f.srcSite f.dest = true ∧ 32 ≤ s.holdCount f.srcSite f.fid)

theorem goOn_eq (s : State) (f : Flight) :
    s.goOn f = if s.mustWait f (s.routedNow f) || (f.st == .atPort && s.holdFull f) then s else s.reroute f.fid := rfl

theorem goOn_waits (s : State) (f : Flight) (h : s.waitsOn f) : s.goOn f = s := by
  rw [goOn_eq, if_pos (by simpa [State.waitsOn, State.holdFull] using h)]

theorem goOn_goes (s : State) (f : Flight) (h : ¬s.waitsOn f) : s.goOn f = s.reroute f.fid := by
  rw [goOn_eq, if_neg (by simpa [State.waitsOn, State.holdFull] using h)]

theorem exec_routerForward_waiting (s : State) (fid : Nat) (f : Flight) (h : s.findFlight fid = some f) (hw : f.st = .behind ∨ f.st = .atPort) :
    exec (.routerForward fid) s = .next (s.goOn f) := by
  rw [exec_routerForward]
  unfold execRouterForward
  rw [h]
  dsimp only
  rcases hw with e | e <;> rw [e]

/-! ## Deadlines (R44) -/

section
variable {s : State} {fid : Nat} {f : Flight} (h : s.findFlight fid = some f)
include h

theorem exec_noResponse_early (hl : s.deadlineNow f < f.left + 1000000) : exec (.noResponse fid) s = .next s := by
  have ho : f.overdue (s.deadlineNow f) = false := by
    unfold Flight.overdue
    rw [decide_eq_false (by simpa [Config.responseDeadline] using hl)]
    rfl
  rw [exec_noResponse]
  unfold execNoResponse
  rw [h]
  dsimp only
  rw [ho]
  rfl

section
variable (hl : f.left + 1000000 ≤ s.deadlineNow f)
include hl

theorem exec_noResponse_lost (hs : f.st = .lost) : exec (.noResponse fid) s = .next ((s.clockTo f.src (s.deadlineNow f)).failFlight f 0x25) := by
  have ho : f.overdue (s.deadlineNow f) = true := by simp [Flight.overdue, Config.responseDeadline, hl, hs]
  rw [exec_noResponse]
  unfold execNoResponse
  rw [h]
  dsimp only
  rw [ho, if_neg (by simp), if_pos (by simp [hs])]

theorem exec_noResponse_overdue (hs : f.st ≠ .lost) (hd : f.dead = false) (hi : f.inCore = false) (ha : f.awaits = true) (hh : f.st.isHeld = false)
    (c : Nat) (hc : f.src = .core c) : exec (.noResponse fid) s = .next ((s.setFlight { f with dead := true }).failBody f c 0x25) := by
  have ho : f.overdue (s.deadlineNow f) = true := by simp [Flight.overdue, Config.responseDeadline, hl, hd, hi, ha, hh]
  have hk : s.clockTo f.src (s.deadlineNow f) = s := by rw [hc]; rfl
  rw [exec_noResponse]
  unfold execNoResponse
  rw [h]
  dsimp only
  rw [ho, if_neg (by simp), if_neg (by simpa using hs), hk]
  split
  · next d hd => cases hc.symm.trans hd; rfl
  · next hx => exact absurd hc (hx c)

end

/-! ## Error responses, BLOCKED and MOVED (R40 to R43) -/

theorem exec_errorResponse_failed {u : State} {back : Bool} (hn : s.notice f = (u, back)) (code : BitVec 8) (hs : f.st = .failed code) :
    exec (.errorResponse fid) s = .next (if back then u.failFlight f code else u.setFlight { f with st := .lost }) := by
  rw [exec_errorResponse]
  unfold execErrorResponse
  rw [h]
  dsimp only
  rw [hs]
  dsimp only
  rw [hn]
  cases back <;> rfl

theorem exec_blocked_waits (hw : f.cls ≠ .response ∧ s.earlierFlies f = true) : exec (.blocked fid) s = .next s := by
  obtain ⟨hc, he⟩ := hw
  rw [exec_blocked]
  unfold execBlocked
  rw [h]
  dsimp only
  rw [if_pos (by simp [hc, he])]

theorem exec_blocked_told {u : State} {back : Bool} (hn : s.notice f = (u, back)) (hs : f.st = .blocked) (hw : f.cls = .response ∨ s.earlierFlies f = false) :
    exec (.blocked fid) s = .next (if back then u.onBlocked f else u.setFlight { f with st := .lost }) := by
  rw [exec_blocked]
  unfold execBlocked
  rw [h]
  dsimp only
  rw [if_neg (by rcases hw with e | e <;> simp [hs, e]), hn]
  cases back <;> rfl

/-- A MOVED that has come back to a packet by name: its entry is invalidated, the packet held, and the name asked for again. -/
def State.askAgain (u : State) (f : Flight) (n : BitVec 16) (fid : Nat) : State :=
  let i := (n.extractLsb' 4 12).toNat
  let v := u.modSite f.srcSite (fun t => { t with routes := nput t.routes i ((u.site f.srcSite).route i &&& ~~~(1#32 <<< 25)) })
  let v := if v.holdFull f then v else v.openFlood f.srcSite f.src.clock (n.extractLsb' 4 12) (v.nowOf f.src)
  (v.setFlight { f with st := .behind, pos := f.srcSite, via := none, phase := false }).reroute fid

theorem exec_moved_told {u : State} {back : Bool} (hn : s.notice f = (u, back)) (n : BitVec 16) (hd : f.dest = .name n) (hs : f.st = .moved) :
    exec (.moved fid) s = .next (if back then
      if rtPinned ((u.site f.srcSite).route (n.extractLsb' 4 12).toNat) then (u.countRouter f.srcSite 7).failFlight f 0x22 else u.askAgain f n fid
      else u.setFlight { f with st := .lost }) := by
  rw [exec_moved]
  unfold execMoved
  rw [h]
  dsimp only
  split
  · next m _ hm =>
    cases hd.symm.trans hm
    rw [hn]
    cases back <;> rfl
  · next hx => exact absurd hd (hx n hs)

/-! ## Unknown names (R39) -/

section
variable (n : BitVec 16) (hd : f.dest = .name n) (hh : s.noHere f = true)
include hd hh

theorem exec_unknownName_eq : exec (.unknownName fid) s = .next (
    if s.nowOf f.src < f.issued + 200000 then s
    else if (s.floodOf f.srcSite (n.extractLsb' 4 12)).any (fun x => !x.done && !x.here.isEmpty) then s.takeHere f.srcSite (n.extractLsb' 4 12)
    else (((s.countRouter f.srcSite 9).failFlight f 0x20).endFlood f.srcSite (n.extractLsb' 4 12) (s.nowOf f.src)).settleHeld f.srcSite) := by
  have hc : (!s.noHere f || decide (s.nowOf f.src < f.issued + Config.nameDeadline)) = true ↔
      s.nowOf f.src < f.issued + Config.nameDeadline := by simp [hh]
  rw [exec_unknownName]
  unfold execUnknownName
  rw [h]
  dsimp only
  split
  · next m hm =>
    cases hd.symm.trans hm
    exact congrArg Host.Outcome.next (if_congr hc rfl rfl)
  · next hx => exact absurd hd (hx n)

theorem exec_unknownName_early (hl : s.nowOf f.src < f.issued + 200000) : exec (.unknownName fid) s = .next s := by
  rw [exec_unknownName_eq h n hd hh, if_pos hl]

variable (hl : f.issued + 200000 ≤ s.nowOf f.src)
include hl

theorem exec_unknownName_here (hw : (s.floodOf f.srcSite (n.extractLsb' 4 12)).any (fun x => !x.done && !x.here.isEmpty) = true) :
    exec (.unknownName fid) s = exec (.hereReply f.srcSite (n.extractLsb' 4 12)) s := by
  rw [exec_unknownName_eq h n hd hh, if_neg (by omega), if_pos hw]
  rfl

theorem exec_unknownName_dropped (hw : (s.floodOf f.srcSite (n.extractLsb' 4 12)).any (fun x => !x.done && !x.here.isEmpty) = false) : exec (.unknownName fid) s =
    .next ((((s.countRouter f.srcSite 9).failFlight f 0x20).endFlood f.srcSite (n.extractLsb' 4 12) (s.nowOf f.src)).settleHeld f.srcSite) := by
  rw [exec_unknownName_eq h n hd hh, if_neg (by omega), if_neg (by simp [hw])]

end

end

/-- A network chiplet's cycles are at its deadline when that is looked at. -/
theorem cycles_clockTo (s : State) (n now : Nat) : ((s.clockTo (.chip n) now).chip n).cycles = max (s.chip n).cycles now := by
  unfold State.clockTo
  rw [chip_modChip_self]

/-- A packet whose BLOCKED has come back is sent once more, on the other mesh (R36, R40). -/
def State.resend (v : State) (f : Flight) : State :=
  let w := v.setFlight { f with retry := true, yx := !f.yx, pos := f.srcSite, phase := false, st := if v.heldAhead f then .behind else .moving }
  if v.heldAhead f then w else w.learn f.srcSite ⟨f.srcName, f.srcSite, !f.yx, none⟩

/-- A packet is a replica of a multicast. -/
def Flight.isReplica (f : Flight) : Prop := ∃ a b c d e g, f.body = .replica a b c d e g

theorem onBlocked_eq (u : State) (f : Flight) : u.onBlocked f =
    if f.via.isSome || (match f.body with | .replica .. => true | _ => false) then u.failFlight f 0x21
    else match u.entryOf f with
      | none => if f.retry then u.failFlight f 0x21 else u.resend f
      | some (sel, pinned) =>
        if pinned || 2 ≤ sel then u.failFlight f 0x21
        else if f.retry then (u.putSelect f 3).failFlight f 0x21
        else (u.putSelect f (if f.yx then 0 else 1)).resend f := by
  have hr (v : State) : (let g : Flight := { f with retry := true, yx := !f.yx, pos := f.srcSite, phase := false, st := if v.heldAhead f then .behind else .moving }
      if g.st == .moving then (v.setFlight g).learn g.srcSite ⟨g.srcName, g.srcSite, g.yx, none⟩ else v.setFlight g) = v.resend f := by
    unfold State.resend
    cases v.heldAhead f <;> rfl
  unfold State.onBlocked
  simp only [← hr] <;> rfl

section
variable (u : State) (f : Flight)

theorem onBlocked_fails (h : f.via.isSome = true ∨ f.isReplica) : u.onBlocked f = u.failFlight f 0x21 := by
  rw [onBlocked_eq, if_pos]
  rcases h with e | ⟨a, b, c, d, e, g, hb⟩
  · simp [e]
  · simp [hb]

variable (hv : f.via = none) (hr : ¬f.isReplica)
include hv hr

theorem onBlocked_single : u.onBlocked f = match u.entryOf f with
    | none => if f.retry then u.failFlight f 0x21 else u.resend f
    | some (sel, pinned) =>
      if pinned || 2 ≤ sel then u.failFlight f 0x21
      else if f.retry then (u.putSelect f 3).failFlight f 0x21
      else (u.putSelect f (if f.yx then 0 else 1)).resend f := by
  have hb : (match f.body with | .replica .. => true | _ => false) = false := by
    split
    · next e => exact absurd ⟨_, _, _, _, _, _, e⟩ hr
    · rfl
  rw [onBlocked_eq, if_neg (by simp [hv, hb])]

theorem onBlocked_direct (he : u.entryOf f = none) : u.onBlocked f = if f.retry then u.failFlight f 0x21 else u.resend f := by
  rw [onBlocked_single u f hv hr, he]

theorem onBlocked_fixed (sel : Nat) (pinned : Bool) (he : u.entryOf f = some (sel, pinned)) (h : pinned = true ∨ 2 ≤ sel) : u.onBlocked f = u.failFlight f 0x21 := by
  rw [onBlocked_single u f hv hr, he]
  exact if_pos (by simpa using h)

theorem onBlocked_turns (sel : Nat) (he : u.entryOf f = some (sel, false)) (h : sel < 2) : u.onBlocked f =
    if f.retry then (u.putSelect f 3).failFlight f 0x21 else (u.putSelect f (if f.yx then 0 else 1)).resend f := by
  rw [onBlocked_single u f hv hr, he]
  exact if_neg (by simpa using h)

end

/-! ## Floods (R38, R39) -/

/-- Sites that a probe of a site reaches on a mesh. -/
def State.probed (s : State) (site : Nat) (yx : Bool) : List Nat :=
  (List.range 528).filter (fun n => n == site || (inRect (s.partRect (s.site site).part.toNat) n && s.pathGood site n yx 64))

/-- A probe of a site at a router: it learns the sender, and the link that brought the probe counts its flit (R36, R38). -/
def State.probeVisit (site : Nat) (h : Teach) (v : State) (n : Nat) : State :=
  let v := v.learn n h
  match (if n == site then none else neighbour n (hopDir n site (!h.yx))) with | some m => v.countFlits m h.yx 1 | none => v

section
variable {s : State} {site : Nat} {name : BitVec 12} {f : Flood} (h : s.floodOf site name = some f)
include h

/-- The probe teaches the routers that it reaches, and the bearers of the name answer HERE (R36, R38). -/
theorem exec_whereProbe_sent (hw : f.waiting = true) :
    let yx := f.sent % 2 == 0
    let owners := ((s.probed site yx).filter (fun n => s.bears n name)).map (fun n => (n, yx))
    exec (.whereProbe site name) s = .next ((owners.foldl (fun s p => s.countRouter p.1 6)
      ((s.probed site yx).foldl (State.probeVisit site ⟨s.siteSource site, site, yx, none⟩) s)).modFlood site name
        (fun x => { x with waiting := false, here := x.here ++ owners })) := by
  rw [exec_whereProbe]
  unfold execWhereProbe
  rw [h]
  exact congrArg Host.Outcome.next (if_neg (by simp [hw]))

theorem exec_whereProbe_idle (hw : f.waiting = false) : exec (.whereProbe site name) s = .next s := by
  rw [exec_whereProbe]
  unfold execWhereProbe
  rw [h]
  dsimp only
  rw [hw]
  rfl

theorem exec_hereReply_none (hh : f.here = []) : exec (.hereReply site name) s = .next s := by
  rw [exec_hereReply]
  unfold execHereReply State.takeHere
  rw [h]
  dsimp only
  rw [hh]

/-- The oldest HERE rides back (R38). -/
theorem exec_hereReply_rides (o : Nat) (w : Bool) (rest : List (Nat × Bool)) (hh : f.here = (o, w) :: rest) (v : State) (back : Bool)
    (hv : (s.modFlood site name (fun x => { x with here := rest })).rideBack (some (s.site o).part) o site (s.ownerName o name) w none 1 = (v, back)) :
    exec (.hereReply site name) s = .next (if back then
      if f.done = true ∧ rtValid ((s.site site).route name.toNat) = true ∧ rtSite ((s.site site).route name.toNat) ≠ o then
        (v.modSite site (fun t => { t with routes := nput t.routes name.toNat ((s.site site).route name.toNat) })).countRouter site 8
      else ((v.modFlood site name (fun x => { x with done := true })).releaseHeld site (.name (name ++ 0#4))).settleHeld site
      else v) := by
  have hc : (f.done && rtValid ((s.site site).route name.toNat) && rtSite ((s.site site).route name.toNat) != o) = true ↔
      f.done = true ∧ rtValid ((s.site site).route name.toNat) = true ∧ rtSite ((s.site site).route name.toNat) ≠ o := by simp [and_assoc]
  rw [exec_hereReply]
  unfold execHereReply State.takeHere
  rw [h]
  dsimp only
  rw [hh]
  dsimp only
  rw [hv]
  cases back
  · rfl
  · exact congrArg Host.Outcome.next ((if_congr hc rfl rfl).trans (if_pos rfl).symm)

theorem exec_whereReflood_eq : exec (.whereReflood site name) s = .next (
    if f.done = false ∧ f.sent < 4 ∧ f.since + 50000 * f.sent ≤ (s.core f.core).cycle then
      (s.countRouter site 5).modFlood site name (fun x => { x with sent := x.sent + 1, waiting := true })
    else s) := by
  have hc : (!f.done && decide (f.sent < 4) && decide (f.since + Config.refloodEvery * f.sent ≤ (s.core f.core).cycle)) = true ↔
      f.done = false ∧ f.sent < 4 ∧ f.since + Config.refloodEvery * f.sent ≤ (s.core f.core).cycle := by simp [and_assoc]
  rw [exec_whereReflood]
  unfold execWhereReflood
  rw [h]
  exact congrArg Host.Outcome.next (if_congr hc rfl rfl)

end

/-- Settles O42, by the rules above for each event. -/
theorem packets : Obligations.Packets := by
  unfold Obligations.Packets
  refine ⟨⟨fun s fid f h hm => ?_, fun s fid f h hw => ?_⟩, fun s fid f h => ?_, fun s site name f h => ?_⟩
  · have he := exec_routerForward_moving s fid f h hm
    refine ⟨fun ho => by rw [he, if_pos ho], fun ho => ?_⟩
    rw [if_neg (by simp [ho])] at he
    rw [he]
    refine ⟨fun ch cores sender bar bs last hb hl => by rw [forward_divided hb hl], fun ha hf => ?_,
      fun ha hf => ⟨fun hp => ?_, fun n hp hn => ⟨fun hl => ?_, fun hl => ?_⟩⟩⟩
    all_goals rw [forward_undivided s f ha]
    · rw [hop_held s f hf]
    · exact congrArg Host.Outcome.next (hop_lands s f hf hp)
    · exact congrArg Host.Outcome.next (hop_over s f hf hp n hn hl)
    · exact congrArg Host.Outcome.next (hop_blocked s f hf hp n hn hl)
  · rw [exec_routerForward_waiting s fid f h hw]
    refine ⟨fun hs => congrArg Host.Outcome.next (goOn_waits s f hs), fun hs => congrArg Host.Outcome.next ?_⟩
    rw [← findFlight_fid h]
    exact goOn_goes s f hs
  · refine ⟨exec_noResponse_early h, fun n hc => ?_, fun hl => ⟨exec_noResponse_lost h hl, exec_noResponse_overdue h hl⟩, fun u back hn => ⟨?_, fun hs => ⟨?_, fun hw => ?_⟩, ?_⟩, ?_⟩
    · rw [hc]
      exact cycles_clockTo s n _
    · exact exec_errorResponse_failed h hn
    · exact exec_blocked_waits h
    · have he := exec_blocked_told h hn hs hw
      refine ⟨fun hb => by rw [he, if_neg (by simp [hb])], fun hb => ?_⟩
      rw [if_pos hb] at he
      rw [he]
      refine ⟨fun hr => by rw [onBlocked_fails u f hr], fun hv hr => ⟨fun hu => ?_, fun sel pinned hu => ⟨fun hp => ?_, fun hp hsel => ?_⟩⟩⟩
      · rw [onBlocked_direct u f hv hr hu]
        exact ⟨fun ht => by rw [if_pos ht], fun ht => congrArg Host.Outcome.next (if_neg (by simp [ht]))⟩
      · rw [onBlocked_fixed u f hv hr sel pinned hu hp]
      · subst hp
        rw [onBlocked_turns u f hv hr sel hu hsel]
        exact ⟨fun ht => by rw [if_pos ht], fun ht => congrArg Host.Outcome.next (if_neg (by simp [ht]))⟩
    · intro n hd hs
      have he := exec_moved_told h hn n hd hs
      refine ⟨fun hb => by rw [he, if_neg (by simp [hb])], fun hb => ?_⟩
      rw [if_pos hb] at he
      exact ⟨fun hp => he.trans (congrArg Host.Outcome.next (if_pos hp)), fun hp => he.trans (congrArg Host.Outcome.next (if_neg (by rw [hp]; exact Bool.false_ne_true)))⟩
    · exact fun n hd hh => ⟨exec_unknownName_early h n hd hh, fun hl => ⟨exec_unknownName_here h n hd hh hl, exec_unknownName_dropped h n hd hh hl⟩⟩
  · refine ⟨exec_whereProbe_sent h, exec_whereProbe_idle h, exec_hereReply_none h, fun o w rest hh => ⟨fun v hv => ?_, fun v hv => ?_⟩, fun hr => ?_, fun hr => ?_⟩
    · exact exec_hereReply_rides h o w rest hh v false hv
    · have he := exec_hereReply_rides h o w rest hh v true hv
      rw [if_pos rfl] at he
      exact ⟨fun ho => he.trans (congrArg Host.Outcome.next (if_pos ho)), fun ho => he.trans (congrArg Host.Outcome.next (if_neg ho))⟩
    · rw [exec_whereReflood_eq h, if_pos hr]
    · rw [exec_whereReflood_eq h, if_neg hr]

end Sys2Proof.Machine
end

section
/-! Waits of a queue, works, and a core as LAUNCH leaves it (O51; R29, R81, R173, R195, R307, R308, R383, R384, R386, R388, R395, R444). -/

namespace Sys2Proof.Machine

/-! ## Claims that a LAUNCH ends (R81, R91) -/

/-- What dropping and freeing claims leaves of a core: its cycle, long operations, channels, images of roles, and the epochs of its slots. -/
structure Core.besideClaims (k j : Core) : Prop where
  cycle : j.cycle = k.cycle
  divs : j.divs = k.divs
  vecs : j.vecs = k.vecs
  channels : j.channels = k.channels
  roles : j.roles = k.roles
  epoch : ∀ n, (j.slot n).epoch = (k.slot n).epoch

theorem besideClaims_refl (k : Core) : k.besideClaims k := ⟨rfl, rfl, rfl, rfl, rfl, fun _ => rfl⟩

theorem besideClaims_trans {k j i : Core} (h : k.besideClaims j) (h' : j.besideClaims i) : k.besideClaims i :=
  ⟨h'.cycle.trans h.cycle, h'.divs.trans h.divs, h'.vecs.trans h.vecs, h'.channels.trans h.channels, h'.roles.trans h.roles, fun n => (h'.epoch n).trans (h.epoch n)⟩

theorem besideClaims_foldl {α : Type} {f : Core → α → Core} (hf : ∀ (k : Core) (x : α), k.besideClaims (f k x)) (l : List α) (k : Core) : k.besideClaims (l.foldl f k) := by
  induction l generalizing k with
  | nil => exact besideClaims_refl k
  | cons a l ih => exact besideClaims_trans (hf k a) (ih _)

theorem besideClaims_freeClaim (k : Core) (i : Nat) : k.besideClaims (k.freeClaim i) := by
  refine ⟨rfl, rfl, rfl, rfl, rfl, fun n => ?_⟩
  unfold Core.freeClaim Core.slot
  dsimp only
  rw [nget_map_values k.slots (fun t => if t.recvClaim == some i then { t with recvClaim := none } else t)]
  cases nget k.slots n with
  | none => rfl
  | some t =>
    dsimp only [Option.map_some, Option.getD_some]
    split <;> rfl

theorem besideClaims_dropClaim (k : Core) (i : Nat) : k.besideClaims (k.dropClaim i) := by
  unfold Core.dropClaim
  split
  · split
    · exact besideClaims_freeClaim k i
    · exact ⟨rfl, rfl, rfl, rfl, rfl, fun _ => rfl⟩
  · exact besideClaims_refl k

theorem nget_freeClaim (k : Core) (i j : Nat) : nget (k.freeClaim i).claims j = if j = i then none else nget k.claims j := nget_ndel ..

/-- A claim after one has been dropped is another one, as it was, or targets nothing. -/
theorem claim_dropClaim {k : Core} {i j : Nat} {cl : Claim} (h : nget (k.dropClaim i).claims j = some cl) : (j ≠ i ∧ nget k.claims j = some cl) ∨ cl.target = .dropped := by
  unfold Core.dropClaim at h
  split at h
  · split at h
    · rw [nget_freeClaim] at h
      split at h
      · cases h
      · next hj => exact .inl ⟨hj, h⟩
    · rw [nget_nput] at h
      split at h
      · cases h; exact .inr rfl
      · next hj => exact .inl ⟨hj, h⟩
  · next hn => exact .inl ⟨fun e => absurd (hn.symm.trans (e ▸ h)) (by simp), h⟩

theorem claim_dropClaims {α : Type} (l : List (Nat × α)) {k : Core} {j : Nat} {cl : Claim} (h : nget (l.foldl (fun k q => k.dropClaim q.1) k).claims j = some cl) :
    ((∀ q ∈ l, q.1 ≠ j) ∧ nget k.claims j = some cl) ∨ cl.target = .dropped := by
  induction l generalizing k with
  | nil => exact .inl ⟨by simp, h⟩
  | cons a l ih =>
    rcases ih h with ⟨h1, h2⟩ | h1
    · rcases claim_dropClaim h2 with ⟨h3, h4⟩ | h3
      · exact .inl ⟨List.forall_mem_cons.mpr ⟨Ne.symm h3, h1⟩, h4⟩
      · exact .inr h3
    · exact .inr h1

theorem claim_freeClaims (l : List Nat) {k : Core} {j : Nat} {cl : Claim} (h : nget (l.foldl (fun k i => if (nget k.claims i).isSome then k.freeClaim i else k) k).claims j = some cl) :
    j ∉ l ∧ nget k.claims j = some cl := by
  induction l generalizing k with
  | nil => exact ⟨by simp, h⟩
  | cons a l ih =>
    obtain ⟨h1, h2⟩ := ih h
    dsimp only at h2
    split at h2
    · rw [nget_freeClaim] at h2
      split at h2
      · cases h2
      · next hj => exact ⟨by simp [hj, h1], h2⟩
    · next hn => exact ⟨List.not_mem_cons_of_ne_of_not_mem (fun e => hn (by rw [← e, h2]; rfl)) h1, h2⟩

/-- A claim of a slot's register or of a saved context. -/
def Claim.ofThread (cl : Claim) : Bool := match cl.target with | .slot | .context _ => true | _ => false

/-- A core without the claims that a LAUNCH drops and frees. -/
def Core.unclaimed (k : Core) : Core :=
  let k := (k.claims.filter (fun q => q.2.ofThread)).foldl (fun k q => k.dropClaim q.1) k
  k.endedClaims.foldl (fun k i => if (nget k.claims i).isSome then k.freeClaim i else k) k

theorem besideClaims_dropClaims {α : Type} (l : List (Nat × α)) (k : Core) : k.besideClaims (l.foldl (fun k q => k.dropClaim q.1) k) :=
  besideClaims_foldl (fun k q => besideClaims_dropClaim k q.1) l k

theorem besideClaims_unclaimed (k : Core) : k.besideClaims k.unclaimed := by
  refine besideClaims_trans (besideClaims_dropClaims _ k) (besideClaims_foldl (fun k i => ?_) _ _)
  split
  · exact besideClaims_freeClaim k i
  · exact besideClaims_refl k

/-- No claim of a thread is left. -/
theorem not_ofThread_of_unclaimed {k : Core} {i : Nat} {cl : Claim} (h : nget k.unclaimed.claims i = some cl) : cl.ofThread = false := by
  obtain ⟨_, h1⟩ := claim_freeClaims _ h
  rcases claim_dropClaims _ h1 with ⟨h2, h3⟩ | h2
  · by_contra hc
    exact h2 _ (List.mem_filter.mpr ⟨mem_of_nget h3, by simpa using hc⟩) rfl
  · unfold Claim.ofThread
    rw [h2]

theorem target_unclaimed {k : Core} {i : Nat} {cl : Claim} (h : nget k.unclaimed.claims i = some cl) : cl.target ≠ .slot ∧ ∀ e, cl.target ≠ .context e := by
  have ho := not_ofThread_of_unclaimed h
  unfold Claim.ofThread at ho
  split at ho
  · cases ho
  · cases ho
  · next h1 h2 => exact ⟨h1, h2⟩

/-- The claims of the channels are free. -/
theorem channel_unclaimed (k : Core) (p : Nat × Channel) (hp : p ∈ k.channels) (i : Nat) (hi : p.2.claim = some i) : nget k.unclaimed.claims i = none := by
  rw [Option.eq_none_iff_forall_ne_some]
  intro cl h
  refine (claim_freeClaims _ h).1 (List.mem_append_left _ (List.mem_append_left _ (List.mem_filterMap.mpr ⟨p, ?_, hi⟩)))
  rw [(besideClaims_dropClaims _ k).channels]
  exact hp

/-! ## A core as LAUNCH leaves it (R195, R307, R308, R383) -/

/-- A slot that a LAUNCH starts, with its indices (R309). -/
def Slot.begun (t : Slot) (l : Launch) (roles : List RoleImage) (idx : Nat → Nat → Word) (n : Nat) : Slot :=
  { (t.launched l roles n) with idx := (List.range 8).foldl (fun a j => nput a j (idx n j)) [] }

section
variable (k : Core) (l : Launch) (dir : Word) (idx : Nat → Nat → Word)

theorem launched_claims : (k.launched l dir idx).claims = k.unclaimed.claims := by
  unfold Core.launched
  rfl

theorem launched_cycle : (k.launched l dir idx).cycle = k.cycle := by
  rw [← (besideClaims_unclaimed k).cycle]
  unfold Core.launched
  rfl

theorem launched_divs : (k.launched l dir idx).divs = k.divs := by
  rw [← (besideClaims_unclaimed k).divs]
  unfold Core.launched
  rfl

theorem launched_vecs : (k.launched l dir idx).vecs = k.vecs := by
  rw [← (besideClaims_unclaimed k).vecs]
  unfold Core.launched
  rfl

theorem launched_slots : (k.launched l dir idx).slots = (List.range 16).foldl (fun m n => nput m n ((k.unclaimed.slot n).begun l k.unclaimed.roles idx n)) [] := by
  unfold Core.launched
  dsimp only
  rfl

theorem launched_ls : (k.launched l dir idx).ls = memPuts [] (k.roles.flatMap (fun r => r.plots.flatMap (fun p => placeAt p.1 p.2))) := rfl

/-- What a LAUNCH makes of a slot depends on its epoch alone. -/
theorem slotLaunched_congr {t u : Slot} (h : t.epoch = u.epoch) (roles : List RoleImage) (n : Nat) : t.launched l roles n = u.launched l roles n := by
  unfold Slot.launched
  rw [h]

theorem launched_slot (n : Nat) (hn : n < 16) : (k.launched l dir idx).slot n = (k.slot n).begun l k.roles idx n := by
  have hs : (k.launched l dir idx).slot n = (k.unclaimed.slot n).begun l k.unclaimed.roles idx n := by
    unfold Core.slot
    rw [launched_slots, nget_foldl_range (fun n => (k.unclaimed.slot n).begun l k.unclaimed.roles idx n), if_pos hn]
    rfl
  rw [hs]
  unfold Slot.begun
  rw [(besideClaims_unclaimed k).roles, slotLaunched_congr l ((besideClaims_unclaimed k).epoch n)]

end

/-- A slot as LAUNCH leaves it holds reset values but for what the record and the image of its role give it. -/
theorem slotLaunched_eq (t : Slot) (l : Launch) (roles : List RoleImage) (n : Nat) : t.launched l roles n =
    match (if l.roleCodeOf n == 0 then none else imageFor roles n) with
    | none => { Slot.reset with epoch := t.epoch + 1 }
    | some r => if l.isWorker n then { Slot.reset with epoch := t.epoch + 1, role := roleOf (l.roleCodeOf n), worker := true }
      else { Slot.reset with epoch := t.epoch + 1, role := roleOf (l.roleCodeOf n), state := .running, pc := r.entry } := by
  unfold Slot.launched
  by_cases h : (l.roleCodeOf n == 0) = true
  · simp only [if_pos h]
  · simp only [if_neg h]
    cases imageFor roles n <;> rfl

/-- What a LAUNCH resets in a slot whatever its role. -/
theorem slotLaunched_keeps {β : Type} (g : Slot → β) (hg : ∀ e r w s p, g { Slot.reset with epoch := e, role := r, worker := w, state := s, pc := p } = g Slot.reset)
    (t : Slot) (l : Launch) (roles : List RoleImage) (n : Nat) : g (t.launched l roles n) = g Slot.reset := by
  rw [slotLaunched_eq]
  split
  · exact hg ..
  · split
    · exact hg ..
    · exact hg ..

section
variable (t : Slot) (l : Launch) (roles : List RoleImage) (n : Nat)

theorem slotLaunched_x : (t.launched l roles n).x = [] := slotLaunched_keeps Slot.x (fun _ _ _ _ _ => rfl) t l roles n
theorem slotLaunched_v : (t.launched l roles n).v = [] := slotLaunched_keeps Slot.v (fun _ _ _ _ _ => rfl) t l roles n
theorem slotLaunched_m : (t.launched l roles n).m = [] := slotLaunched_keeps Slot.m (fun _ _ _ _ _ => rfl) t l roles n
theorem slotLaunched_c : (t.launched l roles n).c = [] := slotLaunched_keeps Slot.c (fun _ _ _ _ _ => rfl) t l roles n
theorem slotLaunched_tcause : (t.launched l roles n).tcause = 0 := slotLaunched_keeps Slot.tcause (fun _ _ _ _ _ => rfl) t l roles n
theorem slotLaunched_mail : (t.launched l roles n).mail = [] := slotLaunched_keeps Slot.mail (fun _ _ _ _ _ => rfl) t l roles n

theorem slotLaunched_worker (r : RoleImage) (h0 : l.roleCodeOf n ≠ 0) (hr : imageFor roles n = some r) (hw : l.isWorker n = true) :
    t.launched l roles n = { Slot.reset with epoch := t.epoch + 1, role := roleOf (l.roleCodeOf n), worker := true } := by
  rw [slotLaunched_eq, if_neg (by simpa using h0), hr]
  exact if_pos hw

theorem slotLaunched_running (r : RoleImage) (h0 : l.roleCodeOf n ≠ 0) (hr : imageFor roles n = some r) (hw : l.isWorker n = false) :
    t.launched l roles n = { Slot.reset with epoch := t.epoch + 1, role := roleOf (l.roleCodeOf n), state := .running, pc := r.entry } := by
  rw [slotLaunched_eq, if_neg (by simpa using h0), hr]
  exact if_neg (by simp [hw])

theorem slotLaunched_none (h : l.roleCodeOf n = 0 ∨ imageFor roles n = none) : t.launched l roles n = { Slot.reset with epoch := t.epoch + 1 } := by
  rw [slotLaunched_eq]
  rcases h with h | h
  · rw [if_pos (by simp [h])]
  · rw [h, ite_self]

end

theorem setWidth_dirCut (w : Word) : (dirCut w).setWidth 35 = w.setWidth 35 := by
  have h := wf_dirCut_other w 0 35 (.inl (by omega))
  apply BitVec.eq_of_toNat_eq
  simpa [wf, fieldOf] using h

/-- A core as LAUNCH leaves it, all of it that the statement names. -/
theorem coreLaunched_holds (k : Core) (l : Launch) (dir : Word) (idx : Nat → Nat → Word) (n : Nat) (hn : n < 16) :
    let t := (k.launched l dir idx).slot n
    let fits (r : RoleImage) : Prop := l.roleCodeOf n ≠ 0 ∧ imageFor k.roles n = some r
    (∀ i, i < 32 → t.xr i = ⟨.full, 0⟩ ∧ t.vr i = ⟨.full, 0⟩ ∧ t.mr i = ⟨.full, 0⟩ ∧ t.cr i = ⟨.full, 0⟩) ∧ t.tcause = 0 ∧ t.mail = [] ∧ (∀ i, i < 8 → (nget t.idx i).getD 0 = idx n i) ∧
    (∀ r, fits r → t.role = roleOf (l.roleCodeOf n) ∧
      (l.isWorker n = true → t.state = .empty ∧ t.worker = true) ∧
      (l.isWorker n = false → t.state = .running ∧ t.pc = r.entry ∧ t.worker = false)) ∧
    (l.roleCodeOf n = 0 ∨ imageFor k.roles n = none → t.role = .none ∧ t.state = .empty) := by
  intro t fits
  have ht : t = (k.slot n).begun l k.roles idx n := launched_slot k l dir idx n hn
  unfold Slot.begun at ht
  refine ⟨fun i _ => ⟨?_, ?_, ?_, ?_⟩, ?_, ?_, fun i hi => ?_, fun r hr => ?_, fun hr => ?_⟩
  · rw [ht]; unfold Slot.xr; dsimp only; rw [slotLaunched_x]; simp
  · rw [ht]; unfold Slot.vr; dsimp only; rw [slotLaunched_v]; rfl
  · rw [ht]; unfold Slot.mr; dsimp only; rw [slotLaunched_m]; rfl
  · rw [ht]; unfold Slot.cr; dsimp only; rw [slotLaunched_c]; rfl
  · rw [ht]; exact slotLaunched_tcause ..
  · rw [ht]; exact slotLaunched_mail ..
  · rw [ht]
    dsimp only
    rw [nget_foldl_range, if_pos hi]; rfl
  · obtain ⟨h0, hi⟩ := hr
    cases hw : l.isWorker n
    · rw [ht, slotLaunched_running _ l _ n r h0 hi hw]
      exact ⟨rfl, by simp, fun _ => ⟨rfl, rfl, rfl⟩⟩
    · rw [ht, slotLaunched_worker _ l _ n r h0 hi hw]
      exact ⟨rfl, fun _ => ⟨rfl, rfl⟩, by simp⟩
  · rw [ht, slotLaunched_none _ l _ n hr]
    exact ⟨rfl, rfl⟩

/-! ## Queues -/

theorem queue_modProc (s : State) (d q : Nat) (f : Proc → Proc) (h : ∀ p, (f p).queues = p.queues) : (s.modProc d f).queue d q = s.queue d q := by
  unfold State.queue
  rw [proc_modProc_self, h]

theorem queue_modQueue_self (s : State) (d q : Nat) (f : CQueue → CQueue) : (s.modQueue d q f).queue d q = f (s.queue d q) := by
  unfold State.modQueue State.queue
  rw [proc_modProc_self]
  exact congrArg (fun o => o.getD CQueue.reset) (nget_nput_self ..)

theorem queue_queueFail_self (s : State) (d q err detail : Nat) (at_ : BitVec 32) : (s.queueFail d q err detail at_).queue d q =
    { s.queue d q with st := .error, err := BitVec.ofNat 8 err, detail := BitVec.ofNat 8 detail, at_ := at_ } :=
  queue_modQueue_self s d q (fun x => { x with st := .error, err := BitVec.ofNat 8 err, detail := BitVec.ofNat 8 detail, at_ := at_ })

/-! ## Reports of semaphores (R29, R383, R388) -/

/-- A queue after its processor has tested a report. -/
def CQueue.observed (x : CQueue) (cycles : Nat) (i : Nat) (v : Word) : CQueue :=
  match x.wait with
  | some (.waitge k w t) => if k == i && w.toNat ≤ v.toNat && t.all (fun t => cycles ≤ t) then x.waitOver else x
  | _ => x

theorem observes_eq (p : Proc) (i : Nat) (v : Word) : p.observes i v = { p with queues := p.queues.map (fun q => (q.1, q.2.observed p.cycles.toNat i v)) } := rfl

/-- A report satisfies the WAITGE of a queue before its time-out. -/
def CQueue.meets (x : CQueue) (cycles : Nat) (i : Nat) (v : Word) : Prop :=
  ∃ w lim, x.wait = some (.waitge i w lim) ∧ w.toNat ≤ v.toNat ∧ ∀ n, lim = some n → cycles ≤ n

theorem observed_meets (x : CQueue) (cycles i : Nat) (v : Word) (h : x.meets cycles i v) : x.observed cycles i v = x.waitOver := by
  obtain ⟨w, lim, hw, hv, hl⟩ := h
  unfold CQueue.observed
  rw [hw]
  exact if_pos (by simpa [hv, Option.all_eq_true] using hl)

theorem observed_other (x : CQueue) (cycles i : Nat) (v : Word) (h : ¬x.meets cycles i v) : x.observed cycles i v = x := by
  unfold CQueue.observed
  split
  · next k w t hw =>
    refine if_neg fun hc => h ?_
    simp only [Bool.and_eq_true, beq_iff_eq, decide_eq_true_eq, Option.all_eq_true] at hc
    obtain ⟨⟨rfl, hv⟩, hl⟩ := hc
    exact ⟨w, t, hw, hv, hl⟩
  · rfl

theorem proc_of_onlySites {s t : State} (h : s.onlySites t) (d : Nat) : t.proc d = s.proc d := by
  obtain ⟨x, rfl⟩ := h
  rfl

theorem queue_of_onlySites {s t : State} (h : s.onlySites t) (d q : Nat) : t.queue d q = s.queue d q := by
  unfold State.queue
  rw [proc_of_onlySites h]

/-- The way of the oldest report of a processor, which is taken from its list. -/
def State.reportRide (s : State) (d i : Nat) (rest : List (Nat × Word)) : State × Bool :=
  (s.modProc d (fun p => { p with reports := rest })).rideBack none (homeOf (s.gleanPA (s.semPA d i))) (s.procPort d)
    (s.siteSource (homeOf (s.gleanPA (s.semPA d i)))) true none 2

section
variable (s : State) (d i : Nat) (v : Word) (rest : List (Nat × Word))

theorem exec_semaphoreReport_eq (h : (s.proc d).reports = (i, v) :: rest) : exec (.semaphoreReport d) s = .next (
    if (s.reportRide d i rest).2 then (s.reportRide d i rest).1.modProc d (fun p => p.observes i v) else (s.reportRide d i rest).1) := by
  rw [exec_semaphoreReport]
  unfold execSemaphoreReport
  rw [h]
  dsimp only
  show Host.Outcome.next (match s.reportRide d i rest with | (s, true) => _ | (s, false) => _) = _
  obtain ⟨u, ok⟩ := s.reportRide d i rest
  cases ok <;> rfl

/-- A report's way leaves the processor without the report, and else as it was. -/
theorem proc_reportRide : (s.reportRide d i rest).1.proc d = { s.proc d with reports := rest } := by
  have hr : (s.modProc d (fun p => { p with reports := rest })).onlySites (s.reportRide d i rest).1 := onlySites_rideBack ..
  rw [proc_of_onlySites hr, proc_modProc_self]

/-- The state when a report has been tested. -/
def State.reported (s : State) (d i : Nat) (v : Word) (rest : List (Nat × Word)) : State := (s.reportRide d i rest).1.modProc d (fun p => p.observes i v)

theorem proc_reported : (s.reported d i v rest).proc d = ({ s.proc d with reports := rest } : Proc).observes i v := by
  unfold State.reported
  rw [proc_modProc_self, proc_reportRide]

theorem queue_reported (q : Nat) (h : (nget (s.proc d).queues q).isSome = true) :
    (s.reported d i v rest).queue d q = (s.queue d q).observed (s.proc d).cycles.toNat i v := by
  obtain ⟨x, hx⟩ := Option.isSome_iff_exists.mp h
  unfold State.queue
  rw [proc_reported, observes_eq]
  dsimp only
  rw [nget_map_values (s.proc d).queues (fun q => q.observed (s.proc d).cycles.toNat i v), hx]; rfl

end

/-! ## Time-outs and fences (R383, R444) -/

/-- A processor whose cycles have come to a deadline. -/
def Proc.at_ (p : Proc) (t : Nat) : Proc := if p.cycles.toNat < t then { p with cycles := wd t, started := 0 } else p

theorem queues_at (p : Proc) (t : Nat) : (p.at_ t).queues = p.queues := by
  unfold Proc.at_
  split <;> rfl

theorem le_cycles_at (p : Proc) (t : Nat) : t % 2 ^ 64 ≤ (p.at_ t).cycles.toNat := by
  unfold Proc.at_
  split
  · exact Nat.le_of_eq (BitVec.toNat_ofNat ..).symm
  · next h => exact (Nat.mod_le ..).trans (Nat.not_lt.mp h)

/-- The state after a time-out of a queue's WAITGE. -/
def State.timedOut (s : State) (d q t : Nat) : State :=
  let s := (s.modProc d (fun p => p.at_ t)).modQueue d q (fun x => { x with rd := x.rd - 1, wait := none })
  s.queueFail d q 6 0 (s.queue d q).rd

theorem exec_waitgeTimeout_eq (s : State) (d q i : Nat) (v : Word) (t : Nat) (h : (s.queue d q).wait = some (.waitge i v (some t))) :
    exec (.waitgeTimeout d q) s = .next (s.timedOut d q t) := by
  rw [exec_waitgeTimeout]
  unfold execWaitgeTimeout
  rw [h]; rfl

theorem queue_timedOut (s : State) (d q t : Nat) : (s.timedOut d q t).queue d q =
    { s.queue d q with st := .error, err := 6, detail := 0, rd := (s.queue d q).rd - 1, wait := none, at_ := (s.queue d q).rd - 1 } := by
  unfold State.timedOut
  dsimp only
  rw [queue_queueFail_self, queue_modQueue_self, queue_modProc s d q _ (fun p => queues_at p t)]; rfl

theorem cycles_modQueue (s : State) (d q : Nat) (f : CQueue → CQueue) : ((s.modQueue d q f).proc d).cycles = (s.proc d).cycles := by
  unfold State.modQueue
  rw [proc_modProc_self]

theorem cycles_queueFail (s : State) (d q err detail : Nat) (at_ : BitVec 32) : ((s.queueFail d q err detail at_).proc d).cycles = (s.proc d).cycles :=
  cycles_modQueue s d q (fun x => { x with st := .error, err := BitVec.ofNat 8 err, detail := BitVec.ofNat 8 detail, at_ := at_ })

theorem cycles_timedOut (s : State) (d q t : Nat) : t % 2 ^ 64 ≤ ((s.timedOut d q t).proc d).cycles.toNat := by
  unfold State.timedOut
  dsimp only
  rw [cycles_queueFail, cycles_modQueue, proc_modProc_self]
  exact le_cycles_at (s.proc d) t

theorem exec_queueFence_waits (s : State) (d q : Nat) (ids : List Nat) (h : (s.queue d q).wait = some (.fence ids)) :
    exec (.queueFence d q) s = .next (if (s.proc d).works.any (fun w => ids.contains w.id) then s else s.modQueue d q CQueue.waitOver) := by
  rw [exec_queueFence]
  unfold execQueueFence
  rw [h]

/-! ## Completion of works (R384, R386) -/

/-- A processor's list of works without one. -/
def State.workDone (s : State) (d work : Nat) : State := s.modProc d (fun p => { p with works := p.works.filter (fun x => x.id != work) })

section
variable (s : State) (d work : Nat)

theorem exec_complete_none (h : (s.proc d).works.find? (fun w => w.id == work) = none) :
    exec (.queueCopyComplete d work) s = .next s ∧ exec (.launchComplete d work) s = .next s := by
  rw [exec_queueCopyComplete, exec_launchComplete]
  unfold execQueueCopyComplete execLaunchComplete
  rw [h]
  exact ⟨rfl, rfl⟩

variable (w : Work) (h : (s.proc d).works.find? (fun w => w.id == work) = some w)
include h

theorem exec_queueCopyComplete_copy (a b n : Nat) (hc : w.copy = some (a, b, n)) (v : State) (e : Option (BitVec 8))
    (hv : (s.workDone d work).copyLines d ((s.workDone d work).queue d w.queue).part a b n n = (v, e)) :
    exec (.queueCopyComplete d work) s = .next (match e with | none => v.semAdd d w | some e => v.queueFail d w.queue 7 e.toNat w.index) := by
  unfold State.workDone at hv
  rw [exec_queueCopyComplete]
  unfold execQueueCopyComplete
  rw [h]
  dsimp only
  rw [hc]
  dsimp only
  rw [hv]
  cases e <;> rfl

theorem exec_queueCopyComplete_launch (hc : w.copy = none) : exec (.queueCopyComplete d work) s = .next s := by
  rw [exec_queueCopyComplete]
  unfold execQueueCopyComplete
  rw [h]
  dsimp only
  rw [hc]

/-- A LAUNCH of the processor has left its queue's wait. -/
def Proc.launchBegun (p : Proc) (work : Nat) : Prop := ∀ q ∈ p.queues, ∀ id l dir h, q.2.wait = some (.launch id l dir h) → id ≠ work

/-- A LAUNCH may complete: it has begun, its sites have returned, its cores' stores and AMOs are performed. -/
def State.mayComplete (s : State) (d work : Nat) (w : Work) : Prop :=
  w.copy = none ∧ (s.proc d).launchBegun work ∧ w.sites = [] ∧ ∀ c ∈ w.cores, ∀ a ∈ (s.core c).accs, a.kind ≠ .w ∧ a.kind ≠ .a

omit h in
theorem launchBegun_iff (p : Proc) : p.launchBegun work ↔
    p.queues.any (fun q => match q.2.wait with | some (.launch id _ _ _) => id == work | _ => false) = false := by
  unfold Proc.launchBegun
  rw [List.any_eq_false]
  refine forall₂_congr fun q _ => ⟨fun hq hc => ?_, fun hq id l dir b he hi => hq ?_⟩
  · split at hc
    · next id l dir b he => exact hq id l dir b he (by simpa using hc)
    · cases hc
  · rw [he, hi]
    exact beq_self_eq_true work

theorem exec_launchComplete_copy (a b n : Nat) (hc : w.copy = some (a, b, n)) : exec (.launchComplete d work) s = .next s := by
  rw [exec_launchComplete]
  unfold execLaunchComplete
  rw [h]
  dsimp only
  rw [if_pos (by simp [hc])]

omit h in
theorem mayComplete_iff : s.mayComplete d work w ↔
    ¬(w.copy.isSome || (s.proc d).queues.any (fun q => match q.2.wait with | some (.launch id _ _ _) => id == work | _ => false) ||
      !w.sites.isEmpty || w.cores.any (fun c => (s.core c).accs.any (fun a => a.kind == .w || a.kind == .a))) = true := by
  unfold State.mayComplete
  rw [launchBegun_iff]
  simp [and_assoc]

theorem exec_launchComplete_done (hm : s.mayComplete d work w) : exec (.launchComplete d work) s = .next ((s.workDone d work).semAdd d w) := by
  rw [exec_launchComplete]
  unfold execLaunchComplete
  rw [h]
  exact congrArg Host.Outcome.next (if_neg ((mayComplete_iff s d work w).mp hm))

theorem exec_launchComplete_waits (hm : ¬s.mayComplete d work w) : exec (.launchComplete d work) s = .next s := by
  rw [exec_launchComplete]
  unfold execLaunchComplete
  rw [h]
  exact congrArg Host.Outcome.next (if_pos (not_not.mp (mt (mayComplete_iff s d work w).mpr hm)))

end

/-! ## The start of a LAUNCH (R383, R395) -/

/-- Only the cores of a state and the packets on their way differ. -/
def State.onlyCores (s t : State) : Prop := ∃ x y, t = { s with cores := x, flights := y }

theorem onlyCores_refl (s : State) : s.onlyCores s := ⟨_, _, rfl⟩

theorem onlyCores_trans {s t u : State} (h : s.onlyCores t) (k : t.onlyCores u) : s.onlyCores u := by
  obtain ⟨_, _, rfl⟩ := h
  obtain ⟨x, y, rfl⟩ := k
  exact ⟨x, y, rfl⟩

theorem onlyCores_foldl {α : Type} {f : State → α → State} (hf : ∀ (u : State) (x : α), u.onlyCores (f u x)) (l : List α) (s : State) : s.onlyCores (l.foldl f s) := by
  induction l generalizing s with
  | nil => exact onlyCores_refl s
  | cons a l ih => exact onlyCores_trans (hf s a) (ih _)

theorem onlyCores_deliverAt (s : State) (c : Nat) (claim : Option Nat) (due : Nat) (v : DVal) : s.onlyCores (s.deliverAt c claim due v) := by
  unfold State.deliverAt
  split
  · exact ⟨_, _, rfl⟩
  · exact onlyCores_refl s

theorem onlyCores_dropSpec (s : State) (c n : Nat) : s.onlyCores (s.dropSpec c n) :=
  onlyCores_trans (onlyCores_foldl (fun u _ => onlyCores_deliverAt u ..) _ s) ⟨_, _, rfl⟩

theorem onlyCores_dropRemote (s : State) (c : Nat) : s.onlyCores (s.dropRemote c) :=
  onlyCores_trans (onlyCores_foldl (fun _ _ => ⟨_, _, rfl⟩) _ s) ⟨_, _, rfl⟩

/-- A core without what a LAUNCH ends before it resets the core: lines of other sites, open speculations, instruction lines on their way. -/
def State.emptied (s : State) (c : Nat) : State :=
  let s := (((s.core c).slots.filter (fun p => !p.2.hold.isEmpty)).map (·.1)).foldl (fun s n => s.dropSpec c n) (s.dropRemote c)
  { s with flights := s.flights.filter (fun f => !(f.src == Sender.core c && (match f.body with | .ifetch .. | .ifill .. => true | _ => false))) }

theorem onlyCores_emptied (s : State) (c : Nat) : s.onlyCores (s.emptied c) :=
  onlyCores_trans (onlyCores_trans (onlyCores_dropRemote s c) (onlyCores_foldl (fun u n => onlyCores_dropSpec u c n) _ _)) ⟨_, _, rfl⟩

theorem launchCore_eq (s : State) (l : Launch) (dir : Word) (c : Nat) : s.launchCore l dir c =
    (s.emptied c).modCore c (fun k => k.launched l dir ((s.emptied c).idxWord l c)) := rfl

theorem onlyCores_launchCore (s : State) (l : Launch) (dir : Word) (c : Nat) : s.onlyCores (s.launchCore l dir c) :=
  onlyCores_trans (onlyCores_emptied s c) ⟨_, _, rfl⟩

theorem idxWord_of_onlyCores {s t : State} (h : s.onlyCores t) (l : Launch) (c : Nat) : t.idxWord l c = s.idxWord l c := by
  obtain ⟨_, _, rfl⟩ := h
  rfl

/-- What a LAUNCH takes over of a core: the images of its roles, and the epochs of its slots. -/
def Core.seed (k : Core) : List RoleImage × (Nat → Nat) := (k.roles, fun n => (k.slot n).epoch)

section
variable {β : Type} (g : Core → β)

theorem modCore_keeps (s : State) (c : Nat) (f : Core → Core) (hf : ∀ k, g (f k) = g k) (d : Nat) : g ((s.modCore c f).core d) = g (s.core d) := by
  rw [core_modCore]
  split
  · next e => rw [hf, e]
  · rfl

theorem dropRemote_keeps (hg : ∀ (k : Core) (x : NMap L1Line), g { k with l1 := x } = g k) (s : State) (c d : Nat) : g ((s.dropRemote c).core d) = g (s.core d) :=
  foldl_keeps (fun u => g (State.core u d)) (fun u e => modCore_keeps g u e (fun k => { k with l1 := k.l1.filter (fun p => !p.2.remote) }) (fun k => hg k _) d)
    (if s.fused c then s.coresOf (siteOf c) else [c]) s

end

theorem seed_deliverAt (s : State) (c : Nat) (claim : Option Nat) (due : Nat) (v : DVal) (d : Nat) : ((s.deliverAt c claim due v).core d).seed = (s.core d).seed := by
  unfold State.deliverAt
  split
  · next i => exact modCore_keeps Core.seed s c (fun k => { k with deliveries := k.deliveries ++ [⟨i, due, v⟩] }) (fun _ => rfl) d
  · rfl

theorem seed_setSlot (k : Core) (n : Nat) (t : Slot) (h : t.epoch = (k.slot n).epoch) : (k.setSlot n t).seed = k.seed := by
  unfold Core.seed
  refine congrArg (Prod.mk k.roles) (funext fun m => ?_)
  rw [slot_setSlot]
  split
  · next e => rw [h, e]
  · rfl

theorem seed_modSlot (s : State) (c n : Nat) (f : Slot → Slot) (hf : ∀ t, (f t).epoch = t.epoch) (d : Nat) : ((s.modSlot c n f).core d).seed = (s.core d).seed := by
  rw [core_modSlot]
  split
  · next e => rw [e]; exact seed_setSlot _ n _ (hf _)
  · rfl

theorem seed_dropSpec (s : State) (c n d : Nat) : ((s.dropSpec c n).core d).seed = (s.core d).seed :=
  (seed_modSlot _ c n (fun t => { t with hold := [], specOpen := false }) (fun _ => rfl) d).trans
    (foldl_keeps (fun u => (State.core u d).seed) (fun u _ => seed_deliverAt u ..) (s.slot c n).hold s)

theorem seed_emptied (s : State) (c d : Nat) : ((s.emptied c).core d).seed = (s.core d).seed :=
  (foldl_keeps (fun u => (State.core u d).seed) (fun u n => seed_dropSpec u c n d) _ (s.dropRemote c)).trans
    (dropRemote_keeps Core.seed (fun _ _ => rfl) s c d)

/-- What the LAUNCH of another core leaves of a core. -/
def Core.frame (k : Core) : Word × NMap Slot × List RoleImage := (k.rdir, k.slots, k.roles)

section
variable {c d : Nat} (h : d ≠ c)
include h

theorem core_dropSpec_ne (s : State) (n : Nat) : (s.dropSpec c n).core d = s.core d := by
  have hd (u : State) (claim : Option Nat) (v : Word) : (u.fillNext c claim v).core d = u.core d := by
    unfold State.fillNext State.deliverAt
    split
    · exact (core_modCore ..).trans (if_neg h)
    · rfl
  exact ((core_modSlot ..).trans (if_neg h)).trans (foldl_keeps (fun u => State.core u d) (fun u _ => hd u _ _) (s.slot c n).hold s)

theorem frame_launchCore_ne (s : State) (l : Launch) (dir : Word) : ((s.launchCore l dir c).core d).frame = (s.core d).frame := by
  rw [launchCore_eq, core_modCore, if_neg h]
  exact (foldl_keeps (fun u => (State.core u d).frame) (fun u n => congrArg Core.frame (core_dropSpec_ne h u n)) _ (s.dropRemote c)).trans
    (dropRemote_keeps Core.frame (fun _ _ => rfl) s c d)

end

/-- A core that LAUNCH has left, from the core that it was. -/
structure Core.startedFrom (k j : Core) (l : Launch) (dir : Word) (idx : Nat → Nat → Word) : Prop where
  rdir : j.rdir = dirCut dir
  slot : ∀ n, n < 16 → j.slot n = (k.slot n).begun l k.roles idx n

section
variable {k j i : Core} {l : Launch} {dir : Word} {idx : Nat → Nat → Word}

theorem startedFrom_seed (h : k.startedFrom j l dir idx) (hs : i.seed = k.seed) : i.startedFrom j l dir idx := by
  obtain ⟨hr, he⟩ := Prod.mk.inj hs
  refine ⟨h.rdir, fun n hn => ?_⟩
  rw [h.slot n hn]
  unfold Slot.begun
  rw [slotLaunched_congr l (congrFun he n), hr]

theorem startedFrom_frame (h : k.startedFrom j l dir idx) (hs : i.frame = j.frame) : k.startedFrom i l dir idx := by
  obtain ⟨hr, hs⟩ := Prod.mk.inj hs
  obtain ⟨hs, _⟩ := Prod.mk.inj hs
  refine ⟨hr.trans h.rdir, fun n hn => ?_⟩
  rw [← h.slot n hn]
  unfold Core.slot
  rw [hs]

end

theorem startedFrom_launched (k : Core) (l : Launch) (dir : Word) (idx : Nat → Nat → Word) : k.startedFrom (k.launched l dir idx) l dir idx :=
  ⟨rfl, launched_slot k l dir idx⟩

theorem seed_of_frame {k j : Core} (h : k.frame = j.frame) : k.seed = j.seed := by
  obtain ⟨_, h⟩ := Prod.mk.inj h
  obtain ⟨hs, hr⟩ := Prod.mk.inj h
  unfold Core.seed Core.slot
  rw [hs, hr]

theorem startedFrom_launchCore (s : State) (l : Launch) (dir : Word) (c : Nat) : (s.core c).startedFrom ((s.launchCore l dir c).core c) l dir (s.idxWord l c) := by
  rw [launchCore_eq, core_modCore_self, idxWord_of_onlyCores (onlyCores_emptied s c)]
  exact startedFrom_seed (startedFrom_launched ..) (seed_emptied s c c).symm

/-- The cores of a list, each in it once, are launched from what they were. -/
theorem startedFrom_launchCores (l : Launch) (dir : Word) (cs : List Nat) (hn : cs.Nodup) (s : State) (c : Nat) (hc : c ∈ cs) :
    (s.core c).startedFrom ((cs.foldl (fun s c => s.launchCore l dir c) s).core c) l dir (s.idxWord l c) := by
  induction cs generalizing s with
  | nil => cases hc
  | cons a cs ih =>
    obtain ⟨ha, hn⟩ := List.nodup_cons.mp hn
    by_cases h : c = a
    · subst h
      refine startedFrom_frame (startedFrom_launchCore s l dir c) ?_
      have hrest (cs : List Nat) (hcs : c ∉ cs) (u : State) : ((cs.foldl (fun s c => s.launchCore l dir c) u).core c).frame = (u.core c).frame := by
        induction cs generalizing u with
        | nil => rfl
        | cons b bs ihb =>
          obtain ⟨hb, hbs⟩ := List.ne_and_not_mem_of_not_mem_cons hcs
          exact (ihb hbs _).trans (frame_launchCore_ne hb u l dir)
      exact hrest cs ha _
    · have h1 := ih hn (s.launchCore l dir a) ((List.mem_cons.mp hc).resolve_left h)
      rw [idxWord_of_onlyCores (onlyCores_launchCore s l dir a)] at h1
      exact startedFrom_seed h1 (seed_of_frame (frame_launchCore_ne h s l dir)).symm

theorem nodup_rectCores (s : State) (r : BitVec 20) : (s.rectCores r).Nodup := by
  refine List.Nodup.filter _ (List.nodup_flatMap.mpr ⟨fun n _ => List.Nodup.map (fun i j h => by omega) List.nodup_range, ?_⟩)
  refine List.Pairwise.imp (fun {m n} h => ?_) (List.Nodup.filter (inRect r) (List.nodup_range (n := Config.sites)))
  intro c hm hn
  simp only [List.mem_map, List.mem_range] at hm hn
  obtain ⟨i, hi, rfl⟩ := hm
  obtain ⟨j, hj, he⟩ := hn
  omega

/-! ## Sites of a LAUNCH -/

/-- A table that maps its entries' values, each with its key. -/
theorem nget_map_pairs {α : Type} (m : NMap α) (g : Nat → α → α) (k : Nat) : nget (m.map (fun p => (p.1, g p.1 p.2))) k = (nget m k).map (g k) := by
  induction m with
  | nil => rfl
  | cons p t ih =>
    obtain ⟨j, v⟩ := p
    rw [List.map_cons]
    by_cases h : j = k
    · subst h; simp [nget]
    · simp [nget, h, ih]

/-- The sites of a list, each updated by a function that changes nothing more when it is applied again. -/
theorem nget_sites_foldl (f : Site → Site) (hf : ∀ t, f (f t) = f t) (l : List Nat) (s : State) (n : Nat) :
    nget (l.foldl (fun s n => s.modSite n f) s).sites n = if n ∈ l then some (f (s.site n)) else nget s.sites n := by
  induction l generalizing s with
  | nil => rfl
  | cons a l ih =>
    have ha : nget (s.modSite a f).sites n = if n = a then some (f (s.site a)) else nget s.sites n := nget_nput ..
    rw [List.foldl_cons, ih, site_modSite, ha]
    by_cases h : n = a
    · subst h; simp [hf]
    · simp [h]

/-- The cores of a LAUNCH are reset and started, and their reservations end. -/
def State.coresBegun (s : State) (l : Launch) (dir : Word) : State :=
  let u := (s.rectCores l.rect).foldl (fun s c => s.launchCore l dir c) s
  { u with resv := u.resv.filter (fun r => !(s.rectCores l.rect).contains r.core) }

/-- A site when a LAUNCH starts: RUNNING with the record. -/
def Site.begun (l : Launch) (t : Site) : Site := { t with state := .running, launch := some l }

/-- The sites of a LAUNCH start. -/
def State.sitesBegun (s : State) (sites : List Nat) (l : Launch) : State := sites.foldl (fun s n => s.modSite n (Site.begun l)) s

/-- The work of a LAUNCH names its sites and cores. -/
def Proc.workBegun (p : Proc) (id : Nat) (sites cores : List Nat) : Proc :=
  { p with works := p.works.map (fun w => if w.id == id then { w with sites := sites, cores := cores } else w) }

/-- The state when a LAUNCH has started, from that which its packets have left, but for the marks of claimed sites. -/
def State.launchBegun (s : State) (d q id : Nat) (l : Launch) (dir : Word) : State :=
  (((s.coresBegun l dir).sitesBegun (rectSites l.rect) l).modProc d (fun p => p.workBegun id (rectSites l.rect) (s.rectCores l.rect))).modQueue d q CQueue.waitOver

section
variable (s : State) (l : Launch) (dir : Word)

theorem onlyCores_launchCores (cs : List Nat) : s.onlyCores (cs.foldl (fun s c => s.launchCore l dir c) s) :=
  onlyCores_foldl (fun u c => onlyCores_launchCore u l dir c) cs s

theorem procs_coresBegun : (s.coresBegun l dir).procs = s.procs := by
  obtain ⟨x, y, h⟩ := onlyCores_launchCores s l dir (s.rectCores l.rect)
  unfold State.coresBegun
  dsimp only
  rw [h]

theorem cores_coresBegun : (s.coresBegun l dir).cores = ((s.rectCores l.rect).foldl (fun s c => s.launchCore l dir c) s).cores := by
  unfold State.coresBegun
  dsimp only

variable (sites : List Nat)

theorem procs_sitesBegun : (s.sitesBegun sites l).procs = s.procs :=
  foldl_keeps State.procs (f := fun s n => s.modSite n (Site.begun l)) (fun _ _ => rfl) sites s

theorem cores_sitesBegun : (s.sitesBegun sites l).cores = s.cores :=
  foldl_keeps State.cores (f := fun s n => s.modSite n (Site.begun l)) (fun _ _ => rfl) sites s

theorem sites_sitesBegun (n : Nat) (hn : n ∈ sites) : nget (s.sitesBegun sites l).sites n = some ((s.site n).begun l) :=
  (nget_sites_foldl (Site.begun l) (fun _ => rfl) sites s n).trans (if_pos hn)

end

theorem queue_of_procs {s t : State} (h : t.procs = s.procs) (d q : Nat) : t.queue d q = s.queue d q := by
  unfold State.queue State.proc
  rw [h]

theorem core_of_cores {s t : State} (h : t.cores = s.cores) (c : Nat) : t.core c = s.core c := by
  unfold State.core
  rw [h]

theorem cores_modQueue (s : State) (d q : Nat) (f : CQueue → CQueue) : (s.modQueue d q f).cores = s.cores := rfl
theorem sites_modQueue (s : State) (d q : Nat) (f : CQueue → CQueue) : (s.modQueue d q f).sites = s.sites := rfl
theorem cores_markClaims (s : State) : s.markClaims.cores = s.cores := rfl
theorem queue_markClaims (s : State) (d q : Nat) : s.markClaims.queue d q = s.queue d q := rfl

theorem site_markClaims {u : State} {n : Nat} {t : Site} (h : nget u.sites n = some t) :
    u.markClaims.site n = { t with claimed := u.markClaims.starting.any (fun p => inRect p.2.rect n) } := by
  have hm := nget_map_pairs u.sites (fun n t => { t with claimed := u.markClaims.starting.any (fun p => inRect p.2.rect n) }) n
  rw [h] at hm
  exact congrArg (fun o => o.getD Site.reset) hm

/-- A site that a LAUNCH has started and whose claims are marked. -/
theorem site_marked {u : State} {n : Nat} {t : Site} {l : Launch} (h : nget u.sites n = some (t.begun l)) :
    (u.markClaims.site n).state = .running ∧ (u.markClaims.site n).launch = some l ∧
      (u.markClaims.site n).claimed = u.markClaims.starting.any (fun p => inRect p.2.rect n) := by
  rw [site_markClaims h]
  exact ⟨rfl, rfl, rfl⟩

/-- A core that a LAUNCH has started, when the claims of the sites are marked. -/
theorem core_marked {u : State} {c : Nat} {k : Core} {l : Launch} {dir : Word} {idx : Nat → Nat → Word} (h : k.startedFrom (u.core c) l dir idx) :
    (u.markClaims.core c).rdir = dirCut dir ∧ ∀ n, n < 16 → u.markClaims.slot c n = (k.slot n).begun l k.roles idx n := ⟨h.rdir, h.slot⟩

section
variable (s : State) (d q id : Nat) (l : Launch) (dir : Word)

/-- The queue of a started LAUNCH. -/
theorem queue_launchBegun : (s.launchBegun d q id l dir).queue d q = (s.queue d q).waitOver := by
  unfold State.launchBegun
  rw [queue_modQueue_self, queue_modProc _ d q (fun p => p.workBegun id (rectSites l.rect) (s.rectCores l.rect)) (fun _ => rfl),
    queue_of_procs (procs_sitesBegun ..), queue_of_procs (procs_coresBegun ..)]

/-- The sites of a started LAUNCH. -/
theorem sites_launchBegun (n : Nat) (hn : n ∈ rectSites l.rect) : nget (s.launchBegun d q id l dir).sites n = some (((s.coresBegun l dir).site n).begun l) := by
  unfold State.launchBegun
  rw [sites_modQueue, modProc_sites, sites_sitesBegun _ l _ n hn]

/-- The cores of a started LAUNCH. -/
theorem core_launchBegun (c : Nat) (hc : c ∈ s.rectCores l.rect) : (s.core c).startedFrom ((s.launchBegun d q id l dir).core c) l dir (s.idxWord l c) := by
  have h : (s.launchBegun d q id l dir).cores = ((s.rectCores l.rect).foldl (fun s c => s.launchCore l dir c) s).cores := by
    unfold State.launchBegun
    rw [cores_modQueue, modProc_cores, cores_sitesBegun, cores_coresBegun]
  rw [core_of_cores h]
  exact startedFrom_launchCores l dir _ (nodup_rectCores s l.rect) s c hc

end

/-- The turn of a queue's LAUNCH that waits for its sites, once no earlier one claims a site of it. -/
def State.launchTurn (s : State) (d q id : Nat) (l : Launch) (dir : Word) (holds : Bool) (sites : List Nat) : State :=
  if sites.any (fun n => (s.site n).state == .running) then
    if holds then s else s.modQueue d q (fun x => { x with wait := some (.launch id l dir true) })
  else if sites.any (fun n => (s.site n).state != .loaded) then
    (((s.modProc d (fun p => { p with works := p.works.filter (fun w => w.id != id) })).modQueue d q (fun x => { x with wait := none })).queueFail d q 4 0
      ((s.queue d q).rd - 1)).markClaims
  else if (s.launchTrips d sites).2 then ((s.launchTrips d sites).1.launchBegun d q id l dir).markClaims
  else (s.launchTrips d sites).1

section
variable (s : State) (d q id : Nat) (l : Launch) (dir : Word) (holds : Bool)

theorem exec_launchStart_eq (h : (s.queue d q).wait = some (.launch id l dir holds)) :
    exec (.launchStart d q) s = .next (if s.claimedBefore id l.rect then s else s.launchTurn d q id l dir holds (rectSites l.rect)) := by
  rw [exec_launchStart]
  unfold execLaunchStart State.launchTurn
  rw [h]
  dsimp only
  generalize s.launchTrips d (rectSites l.rect) = x
  obtain ⟨u, ok⟩ := x
  cases ok <;> rfl

variable (sites : List Nat)

theorem launchTurn_running (h : ∃ n ∈ sites, (s.site n).state = .running) : s.launchTurn d q id l dir holds sites =
    if holds then s else s.modQueue d q (fun x => { x with wait := some (.launch id l dir true) }) := if_pos (by simpa using h)

theorem launchTurn_bad (h : ¬∃ n ∈ sites, (s.site n).state = .running) (hb : ∃ n ∈ sites, (s.site n).state ≠ .loaded) :
    s.launchTurn d q id l dir holds sites =
    (((s.modProc d (fun p => { p with works := p.works.filter (fun w => w.id != id) })).modQueue d q (fun x => { x with wait := none })).queueFail d q 4 0
      ((s.queue d q).rd - 1)).markClaims := (if_neg (by simpa using h)).trans (if_pos (by simpa using hb))

theorem launchTurn_loaded (h : ∀ n ∈ sites, (s.site n).state = .loaded) : s.launchTurn d q id l dir holds sites =
    if (s.launchTrips d sites).2 then ((s.launchTrips d sites).1.launchBegun d q id l dir).markClaims else (s.launchTrips d sites).1 := by
  have hr : ¬sites.any (fun n => (s.site n).state == .running) = true := by
    rw [List.any_eq_true]
    rintro ⟨n, hn, he⟩
    rw [h n hn] at he
    cases he
  exact (if_neg hr).trans (if_neg (by simpa using h))

end

/-- Settles O51, by the rules above for each event. -/
theorem waitsAndWorks : Obligations.WaitsAndWorks := by
  unfold Obligations.WaitsAndWorks
  refine ⟨⟨fun s d h => ?_, fun s d i v rest h => ?_, fun s d q i v lim h => ?_, fun s d q ids h => ?_, fun s d q id l dir holds h => ?_⟩,
    fun s d work => ⟨exec_complete_none s d work, fun w h => ⟨fun a b n hc => ?_, fun hc => ?_⟩⟩, fun k l dir idx n hn => ?_⟩
  · rw [exec_semaphoreReport]
    unfold execSemaphoreReport
    rw [h]
  · have he := exec_semaphoreReport_eq s d i v rest h
    refine ⟨fun hr => he.trans (congrArg Host.Outcome.next (if_neg fun hc => Bool.false_ne_true (hr.symm.trans hc))),
      fun hr => ⟨s.reported d i v rest, he.trans (congrArg Host.Outcome.next (if_pos hr)), ?_, rfl, fun q hq => ?_⟩⟩
    · rw [proc_reported, observes_eq]
    · rw [queue_reported s d i v rest q hq]
      exact ⟨observed_meets _ _ i v, observed_other _ _ i v⟩
  · refine ⟨_, exec_waitgeTimeout_eq s d q i v lim h, ?_⟩
    rw [queue_timedOut]
    exact ⟨rfl, rfl, rfl, rfl, rfl, cycles_timedOut s d q lim⟩
  · rw [exec_queueFence_waits s d q ids h]
    exact ⟨fun hw => by rw [if_pos (by simpa using hw)], fun hw => by rw [if_neg (by simpa using hw)]⟩
  · have he := exec_launchStart_eq s d q id l dir holds h
    refine ⟨fun hc => by rw [he, if_pos hc], fun hc => ?_⟩
    rw [if_neg (by simp [hc])] at he
    refine ⟨fun hr => by rw [he, launchTurn_running _ _ _ _ _ _ _ _ hr], fun hr hb => by rw [he, launchTurn_bad _ _ _ _ _ _ _ _ hr hb], fun hl ht => ?_, fun hl ht => ?_⟩
    all_goals rw [launchTurn_loaded _ _ _ _ _ _ _ _ hl] at he
    · rw [he, if_neg (by simp [ht])]
    · rw [if_pos ht] at he
      refine ⟨_, he, fun n hn => ?_, fun c hc => ?_, ?_⟩
      · exact site_marked (sites_launchBegun _ d q id l dir n hn)
      · exact core_marked (core_launchBegun _ d q id l dir c hc)
      · rw [queue_markClaims, queue_launchBegun]
  · exact ⟨exec_launchComplete_copy s d work w h a b n hc, fun v => ⟨exec_queueCopyComplete_copy s d work w h a b n hc v none,
      fun e => exec_queueCopyComplete_copy s d work w h a b n hc v (some e)⟩⟩
  · refine ⟨exec_queueCopyComplete_launch s d work w h hc, fun h1 h2 h3 => exec_launchComplete_done s d work w h ⟨hc, h3, h1, h2⟩,
      fun hn => exec_launchComplete_waits s d work w h ?_⟩
    rintro ⟨_, h3, h1, h2⟩
    exact hn.elim (fun hn => hn h1) (fun hn => hn.elim (fun hn => hn h2) (fun hn => hn h3))
  · refine ⟨rfl, rfl, wf_dirCut_count dir, setWidth_dirCut dir, wf_dirCut_other dir 52 12 (.inr (by omega)), launched_cycle k l dir idx, launched_divs k l dir idx,
      launched_vecs k l dir idx, ?_, ?_, launched_ls k l dir idx, coreLaunched_holds k l dir idx n hn⟩
    · rw [launched_claims]
      exact channel_unclaimed k
    · rw [launched_claims]
      exact fun i cl hcl => target_unclaimed hcl

end Sys2Proof.Machine
end
